-- ==== Sys2Proof/Word.lean ====
section
/-! DEFINITION. The plain types and the plainest arithmetic every other file uses: sparse tables, byte lists,
rounding and bit fields over `Nat` and `Int` (00 R5, R9). Nothing here knows the GX9. -/

namespace Sys2Proof

/-- A sparse table: keys strictly rising, one value each; what an unlisted key holds is said where it is read. -/
abbrev Tbl (α : Type) := List (Nat × α)

/-- `n` little-endian bytes of `v` (R5). -/
def leBytes : Nat → Nat → List Nat
  | 0, _ => []
  | n + 1, v => v % 256 :: leBytes n (v / 256)

/-- The value that little-endian bytes spell (R5). -/
def ofLeBytes : List Nat → Nat
  | [] => 0
  | b :: bs => b % 256 + 256 * ofLeBytes bs

/-- The 16 RESULT bytes of a completion: unused bytes are 0 (R50). -/
def padTo (n : Nat) (bs : List Nat) : List Nat := (bs ++ List.replicate n 0).take n

/-- Bit `i` of `v`. -/
def bit (v i : Nat) : Bool := v / 2 ^ i % 2 == 1

/-- The field [lo+w-1:lo] of `v`. -/
def bits (v lo w : Nat) : Nat := v / 2 ^ lo % 2 ^ w

/-- 1 for true, 0 for false. -/
def b2n (b : Bool) : Nat := if b then 1 else 0

/-- `v` placed at bit `lo` of a field of width `w`. -/
def fld (v lo w : Nat) : Nat := v % 2 ^ w * 2 ^ lo

/-- The smallest integer not below `a / b`. -/
def ceilDiv (a b : Nat) : Nat := (a + b - 1) / b

/-- `x` held within `lo` and `hi`. -/
def clampInt (lo hi x : Int) : Int := if x < lo then lo else if hi < x then hi else x

/-- `num / den` rounded to the nearest integer, ties to even (R9); `den` is positive. -/
def roundDiv (num : Int) (den : Nat) : Int :=
  let q := num / (den : Int)
  let r := 2 * (num - q * den)
  if r < den then q
  else if r > (den : Int) then q + 1
  else if q % 2 == 0 then q else q + 1

/-- The `w`-bit two's-complement code of `x`. -/
def twosComp (w : Nat) (x : Int) : Nat := (x % (2 ^ w : Int)).toNat

/-- The signed value of a `w`-bit two's-complement code. -/
def ofTwosComp (w v : Nat) : Int :=
  let u := v % 2 ^ w
  if u < 2 ^ (w - 1) then (u : Int) else (u : Int) - 2 ^ w

/-- The number of bits set among the low `w` bits of `v`. -/
def popcount : Nat → Nat → Nat
  | 0, _ => 0
  | w + 1, v => v % 2 + popcount w (v / 2)

/-- The numbers below `w` whose bit is set in `v`, ascending. -/
def bitList (w v : Nat) : List Nat := (List.range w).filter (bit v)

/-- The greatest element of a list of numbers, 0 for none. -/
def listMax (l : List Nat) : Nat := l.foldl max 0

/-- The sum of a list of numbers. -/
def listSum (l : List Nat) : Nat := l.foldl (· + ·) 0

end Sys2Proof
end

