-- ==== Sys2Proof/Syntax.lean ====
section
/-! DEFINITION. The commands of the block: one constructor of `Instr` per row of spec/opcode_table.json, with the row's
operands as plain data. What the manual gives no bit layout for (a Fliparyn image, the verdict on a signature, a self-test's
outcome, a Mesa program's numbers) is an operand: whatever the sender may supply. -/

namespace Sys2Proof

/-- Where a command packet came from: a submission ring (R43) or the management mailbox (R67). -/
inductive Src where
  | ring (n : Nat)
  | mailbox
deriving DecidableEq, Repr

/-- The head of the authorization tag of Table 12-1, its first 8 bytes; VALUE ends the parameter bytes. -/
structure Tag where
  alg : Nat
  keySlot : Nat
  resv : Nat
  ctr : Nat
deriving DecidableEq, Repr

/-- The head of a command packet (Tables 2-7, 2-8). `resv` is the value of all its reserved bits and fields, parameters
included; `auth` is the tag when FLAGS.AUTH is set; `bufAddr` the parameter buffer under INDIRECT, `bufOk` that the read of
it returned data (R42, R49); `params` the parameter bytes, the tag's included, which the tag covers (12 R385). -/
structure Hdr where
  src : Src
  stag : Nat
  indirect : Bool
  fence : Bool
  irq : Bool
  wake : Bool
  authOfs : Nat
  plen : Nat
  resv : Nat
  bufAddr : Nat
  bufOk : Bool
  auth : Option Tag
  params : List Nat
deriving DecidableEq, Repr

/-- A command packet as it stands in a submission ring or comes over MSPI or MI2C: its 64 bytes (R48). -/
structure Packet where
  bytes : List Nat
deriving DecidableEq, Repr

/-- The head of a packet read from its bytes (Tables 2-7, 2-8); `resv` says that a reserved bit or byte of it is not 0. -/
structure PacketHead where
  opcode : Nat
  stag : Nat
  indirect : Bool
  fence : Bool
  irq : Bool
  wake : Bool
  auth : Bool
  authOfs : Nat
  plen : Nat
  bufAddr : Nat
  resv : Bool
deriving DecidableEq, Repr

/-- A DT80 time (R12). -/
structure DT80 where
  sec : Nat
  ns : Nat
deriving DecidableEq, Repr

/-- A DT96 time (R12): DT80 with a fraction of 2^-16 ns. -/
structure DT96 where
  sec : Nat
  ns : Nat
  frac : Nat
deriving DecidableEq, Repr

/-! ### PORT parameters (Table 13 rows of chapter 03) -/

structure PortP where
  port : Nat
  line : Nat
  maxlen : Nat
  mac : Nat
deriving DecidableEq, Repr

structure HashP where
  port : Nat
  hsel : Nat
  bcast : Nat
  promisc : Nat
  words : List Nat
deriving DecidableEq, Repr

structure VlanP where
  port : Nat
  mode : Nat
  count : Nat
  vids : List Nat
deriving DecidableEq, Repr

structure IntakeEntry where
  udp : Nat
  en : Nat
  proto : Nat
deriving DecidableEq, Repr

structure PrpP where
  pair : Nat
  en : Nat
  supMs : Nat
  forgetMs : Nat
deriving DecidableEq, Repr

structure MacsecP where
  port : Nat
  en : Nat
  validate : Nat
  replay : Nat
  sciPort : Nat
  pnThresh : Nat
deriving DecidableEq, Repr

structure SaP where
  port : Nat
  dir : Nat
  sc : Nat
  an : Nat
  slot : Nat
  cipher : Nat
  conf : Nat
  ssci : Nat
  peerSci : Nat
  firstPn : Nat
  salt : Nat
deriving DecidableEq, Repr

structure GateEntry where
  mask : Nat
  ns : Nat
deriving DecidableEq, Repr

structure GateP where
  port : Nat
  base : DT80
  num : Nat
  den : Nat
  entries : List GateEntry
deriving DecidableEq, Repr

/-! ### TIME parameters (Table 4-12) -/

structure TimeP where
  kp : Nat
  ki : Nat
  stepNs : Nat
  policy : Nat
  lockCount : Nat
  nq : Nat
  fmaxPpb : Nat
  outlierNs : Nat
  freshS : Nat
  agedS : Nat
deriving DecidableEq, Repr

structure PtpP where
  inst : Nat
  en : Nat
  profile : Nat
  domain : Nat
  transport : Nat
  delayMech : Nat
  portMask : Nat
  logSync : Int
  logAnnounce : Int
  logPdelay : Int
  annTimeout : Nat
  prio1 : Nat
  prio2 : Nat
  inaccAdd : Nat
deriving DecidableEq, Repr

structure PpsP where
  edge : Nat
  todEdge : Nat
  baud : Nat
  todTx : Nat
  tolNs : Nat
deriving DecidableEq, Repr

structure LatP where
  target : Nat
  rx : Int
  tx : Int
deriving DecidableEq, Repr

structure CmpP where
  cmp : Nat
  actions : Nat
  target : DT96
  period : Nat
  count : Nat
  job : Nat
  acqMask : Nat
  pulseNs : Nat
deriving DecidableEq, Repr

/-! ### STREAM parameters (Table 5-13) -/

structure StreamP where
  sid : Nat
  proto : Nat
  authMode : Nat
  portMask : Nat
  lane : Nat
  method : Nat
  align : Nat
  rate : Nat
  fnom : Nat
  qlimit : Nat
  srcAddr : Nat
  udpDst : Nat
  block : Nat
  keyCur : Nat
  keyNext : Nat
  tqMax : Nat
  unlockMax : Nat
  idcode : Nat
  keyIdCur : Nat
  keyIdNext : Nat
  format : Nat
  framesize : Nat
  timeBase : Nat
  blockOfs : Nat
  phnmr : Nat
  annmr : Nat
  dgnmr : Nat
  svidLen : Nat
  phSel : Nat
  anSel : Nat
  dgSel : Nat
  svid : List Nat
  phFs : List Nat
  phFactor : List Nat
  anFs : List Nat
  anFactor : List Nat
  memberMap : List Nat
deriving DecidableEq, Repr

structure SiP where
  nq : Nat
  tagTolUs : Nat
  burstUs : Nat
deriving DecidableEq, Repr

/-! ### GROUP parameters (Tables 6-3, 6-6, 6-15) -/

structure GroupP where
  gid : Nat
  latePolicy : Nat
  expect : Nat
  rate : Nat
  epoch : DT80
  windowUs : Nat
  horizonUs : Nat
  lateSpanUs : Nat
  amendMs : Nat
deriving DecidableEq, Repr

structure TimingP where
  gid : Nat
  expect : Nat
  windowUs : Nat
  horizonUs : Nat
  lateSpanUs : Nat
  amendMs : Nat
deriving DecidableEq, Repr

structure SessionP where
  session : Nat
  gid : Nat
  target : Nat
  queue : Nat
  format : Nat
  amend : Bool
  ipv6 : Bool
  vlan : Bool
  version2 : Bool
  keySlot : Nat
  sig : Nat
  first : Nat
  count : Nat
  idcode : Nat
  formatWord : Nat
  timeBase : Nat
  dstMac : Nat
  vlanTci : Nat
  dscp : Nat
  ttl : Nat
  srcUdp : Nat
  dstUdp : Nat
  srcIp : Nat
  dstIp : Nat
  keyId : Nat
  svidLen : Nat
  svid : List Nat
deriving DecidableEq, Repr

structure ErgP where
  nq : Nat
  headroom : Nat
  lowMark : Nat
deriving DecidableEq, Repr

/-! ### CARAVAN parameters (Tables 7-1, 7-11) -/

structure NodeP where
  node : Nat
  level : Nat
  gang : Nat
  ckptPages : Nat
  flow : Nat
  program : Nat
  budgetNs : Nat
  residentPages : Nat
  stage : Nat
  crypto : Nat
  delayUs : Nat
  pred : List Nat
  chain : Nat
deriving DecidableEq, Repr

structure JobP where
  job : Nat
  maxInflight : Nat
  ruleCap : Nat
  nodes : List NodeP
deriving DecidableEq, Repr

structure LevelP where
  urgentReserve : Nat
  ageCeil : Nat
  ckptUs : Nat
  nq : Nat
  shares : List Nat
  ages : List Nat
deriving DecidableEq, Repr

/-! ### TOPO parameters (Tables 8-1, 8-13) -/

structure BranchP where
  fr : Nat
  tgt : Nat
  kind : Nat
  src : Nat
  brkSid : Nat
  brkWord : Nat
  brkBit : Nat
  pol : Nat
  dflt : Nat
  yRe : Nat
  yIm : Nat
  b : Nat
  tapRe : Nat
  tapIm : Nat
deriving DecidableEq, Repr

structure MeasP where
  kind : Nat
  ch : Nat
  sid : Nat
  target : Nat
  sigma : Nat
  scale : Nat
deriving DecidableEq, Repr

/-- A network model (R261): FREQ_SID per node, branches, measurements, factor size, whether it carries a base factor, and
what Twiagil reports of it: SOLVE_WCET in ns (R286) and the condition number of G (R283). -/
structure ModelP where
  nodes : List Nat
  branches : List BranchP
  meas : List MeasP
  nnz : Nat
  hasFactor : Bool
  solveWcet : Nat
  cond : Nat
deriving DecidableEq, Repr

structure TopoP where
  nq : Nat
  gid : Nat
  hold : Nat
  badMax : Nat
  refLevel : Nat
  measReq : Nat
  refRate : Nat
  iOpenMax : Nat
  lnr : Nat
  chi2z : Nat
deriving DecidableEq, Repr

structure CutP where
  cut : Nat
  apply : Nat
  n : Nat
  pickup : Nat
  dropout : Nat
  drift : Nat
  pairs : List (Nat × Nat)
  branches : List Nat
deriving DecidableEq, Repr

/-! ### OSC parameters (Table 9-15) -/

structure OscP where
  nq : Nat
  gid : Nat
  cycles : Nat
  fillMax : Nat
  measReq : Nat
  cmp : Nat
  ofsMs : Nat
  slowJob : Nat
  trackHold : Nat
  forcedN : Nat
  trackDf : Nat
  trackDz : Nat
  forcedZeta : Nat
  forcedPr : Nat
deriving DecidableEq, Repr

structure SigP where
  sig : Nat
  kind : Nat
  group : Nat
  aSid : Nat
  aCh : Nat
  bSid : Nat
  bCh : Nat
  fsFlow : Nat
  zcFloor : Nat
deriving DecidableEq, Repr

structure OscGroupP where
  group : Nat
  window : Nat
  order : Nat
  rows : Nat
  modesMax : Nat
  ref : Nat
  retain : Nat
  node : Nat
  fmin : Nat
  fmax : Nat
  zetaMax : Nat
deriving DecidableEq, Repr

/-! ### ALARM and ACQ parameters (Tables 10-1, 10-15, 10-16) -/

structure RuleP where
  rule : Nat
  kind : Nat
  cond : Nat
  invalid : Nat
  gid : Nat
  severity : Nat
  test : Bool
  log : Bool
  freeze : Bool
  noteInvalid : Bool
  pickup : Nat
  dropout : Nat
  a : Nat
  aSub : Nat
  bSub : Nat
  b : Nat
  almMask : Nat
  nq : Nat
  nqEn : Bool
  xtrig : Nat
  acqMask : Nat
  req : Nat
  hi : Nat
  lo : Nat
  hiRst : Nat
  loRst : Nat
deriving DecidableEq, Repr

structure LineP where
  line : Nat
  mode : Nat
  pulseUs : Nat
deriving DecidableEq, Repr

structure XtrigP where
  xinEdge : Nat
  fwd : Nat
  xinNote : Nat
  nq : Nat
  pulseNs : Nat
  xinLatNs : Nat
  stbNs : Nat
deriving DecidableEq, Repr

structure ChanP where
  ch : Nat
  gid : Nat
  srcEn : Nat
  retrig : Nat
  first : Nat
  count : Nat
  chMask : Nat
  pre : Nat
  post : Nat
  markRate : Nat
deriving DecidableEq, Repr

structure AqRingP where
  ch : Nat
  ring : Nat
  kind : Nat
  log2Slots : Nat
  n : Nat
  vector : Nat
  statusEvery : Nat
  base : Nat
  statusAddr : Nat
deriving DecidableEq, Repr

/-! ### METER parameters (Table 11-14) -/

structure MChanP where
  ch : Nat
  en : Nat
  kind : Nat
  sensor : Nat
  respRec : Nat
  respAlm : Nat
  invert : Bool
  hpf : Bool
  tempSrc : Nat
  tempCh : Nat
  fs : Nat
deriving DecidableEq, Repr

structure CalP where
  ch : Nat
  gainS : Nat
  offsetS : Int
  gainR : Nat
  offsetR : Int
  phDelay : Int
  phOfs : Int
  tcA1 : Int
  tcA2 : Int
  tcB1 : Int
  tRef : Int
deriving DecidableEq, Repr

structure ElemP where
  el : Nat
  phases : Nat
  dir : Nat
  ulsb : Nat
  digits : Nat
  chans : List Nat
  noloadVa : Nat
deriving DecidableEq, Repr

structure PulseP where
  pulse : Nat
  en : Nat
  el : Nat
  reg : Nat
  widthMs : Nat
  pol : Nat
  kh : Nat
deriving DecidableEq, Repr

structure VsP where
  vs : Nat
  cls : Nat
  ref : Nat
  fnom : Nat
  rate : Nat
  phMask : Nat
  seqMask : Nat
deriving DecidableEq, Repr

structure BallastP where
  set : Nat
  en : Nat
  el : Nat
  mask : Nat
deriving DecidableEq, Repr

structure MeterP where
  nq : Nat
  sdclkEn : Nat
  saveS : Nat
deriving DecidableEq, Repr

/-! ### VAULT, LOG and POWER parameters (Tables 12-12, 13-14, 14-17) -/

/-- One entry of an image's key table (R399): FORM 0 stands for a derivation (PARENT 0xFF the root), 1 and 2 for a
wrapped and a sealed blob; `opens` is the verdict of opening the blob. -/
structure KeyP where
  slot : Nat
  alg : Nat
  usage : Nat
  lock : Bool
  exportable : Bool
  owner : Bool
  origin : Nat
  form : Nat
  parent : Nat
  material : Nat
  opens : Bool
deriving DecidableEq, Repr

structure ImportP where
  slot : Nat
  form : Nat
  wrapSlot : Nat
  alg : Nat
  usage : Nat
  exportable : Bool
  lock : Bool
  owner : Bool
  material : List Nat
deriving DecidableEq, Repr

structure LogP where
  ecNq : Nat
  evNq : Nat
  scrubMs : Nat
  coalesceUs : Nat
  flushMs : Nat
  faultVec : Nat
  flushVec : Nat
deriving DecidableEq, Repr

structure PowerP where
  nq : Nat
  wakeEn : Nat
  delayMaxUs : Nat
deriving DecidableEq, Repr

structure RefP where
  prefer : Nat
  singleRef : Nat
  singleSrc : Nat
  revertS : Nat
deriving DecidableEq, Repr

/-- One setting a Fliparyn image carries: the image holds the same objects the commands define. -/
inductive Setting where
  | port (p : PortP)
  | exact (port index en addr : Nat)
  | hash (p : HashP)
  | vlan (p : VlanP)
  | intake (port : Nat) (e : List IntakeEntry)
  | ptMap (port map : Nat)
  | prp (p : PrpP)
  | np (nq ptQuota : Nat)
  | macsec (p : MacsecP)
  | sa (p : SaP)
  | gate (p : GateP)
  | time (p : TimeP)
  | source (primary secondary revertS : Nat)
  | ptp (p : PtpP)
  | pps (p : PpsP)
  | latency (p : LatP)
  | cmp (p : CmpP)
  | stream (p : StreamP)
  | si (p : SiP)
  | group (p : GroupP) (members : List Nat)
  | session (p : SessionP) (en : Bool)
  | erg (p : ErgP)
  | job (p : JobP)
  | bind (job gid : Nat)
  | levels (p : LevelP)
  | model (p : ModelP)
  | cut (p : CutP)
  | topo (p : TopoP)
  | osc (p : OscP)
  | sig (p : SigP)
  | oscGroup (p : OscGroupP)
  | rule (p : RuleP) (en : Bool)
  | line (p : LineP)
  | xtrig (p : XtrigP)
  | chan (p : ChanP) (en : Bool)
  | aqRing (p : AqRingP) (addressed : Bool)
  | aq (nq : Nat)
  | mchan (p : MChanP)
  | cal (p : CalP)
  | elem (p : ElemP) (en : Bool)
  | pulse (p : PulseP)
  | vstream (p : VsP)
  | ballast (p : BallastP)
  | meter (p : MeterP)
  | key (p : KeyP)
  | log (p : LogP)
  | power (p : PowerP)
  | ref (p : RefP)
deriving DecidableEq, Repr

/-- A Fliparyn image as CFG.LOAD reads it (R75): version, first 12 digest bytes, length, verdict on the Twiagil signature,
verdicts on the fetch and on its well-formedness, AUTORUN, pages of the program table (R244), and its settings. -/
structure Image where
  version : Nat
  digest12 : Nat
  len : Nat
  sigOk : Bool
  fetchOk : Bool
  formOk : Bool
  autorun : Bool
  programPages : Nat
  settings : List Setting
deriving DecidableEq, Repr

/-! ### Network frames -/

/-- An IPv4 or IPv6 header as the classifier sees it (Table 3-3). -/
structure IpHdr where
  hdrOk : Bool
  fragment : Bool
  extHdr : Bool
  src : Nat
deriving DecidableEq, Repr

structure UdpHdr where
  dport : Nat
  csumOk : Bool
deriving DecidableEq, Repr

/-- A redundancy control trailer whose suffix is 0x88FB; `sizeOk` says that its LSDUsize matches the frame (R93). -/
structure Rct where
  seq : Nat
  lanId : Nat
  sizeOk : Bool
deriving DecidableEq, Repr

/-- A MACsec tag (R99, R102): SCI of its sender, AN, packet number, and the verdict on the ICV. -/
structure SecTag where
  sci : Nat
  an : Nat
  pn : Nat
  icvOk : Bool
deriving DecidableEq, Repr

/-- One PMU block of a C37.118 data frame: raw codes as the frame carries them (Table 5-1, 5-4). -/
structure PmuBlock where
  stat : Nat
  phasors : List (Nat × Nat)
  freq : Nat
  rocof : Nat
  analogs : List Nat
  digitals : List Nat
deriving DecidableEq, Repr

/-- A C37.118 frame: the bytes of its UDP payload (R164). -/
structure C37 where
  bytes : List Nat
deriving DecidableEq, Repr

structure Rsv where
  svSession : Bool
  encrypted : Bool
  sigAlg : Nat
  secAlgKnown : Bool
  keyId : Nat
  sigOkCur : Bool
  sigOkNext : Bool
  spduNo : Nat
  svid : List Nat
  refSec : Nat
  refFrac : Nat
  tqOctet : Nat
  smpSynch : Nat
  noAsdu : Nat
  berOk : Bool
  members : List (Nat × Nat)
deriving DecidableEq, Repr

inductive Payload where
  | c37 (f : C37)
  | rsv (f : Rsv)
  | ptp (msg domain : Nat)
  | other
deriving DecidableEq, Repr

/-- When an edge or a start-of-frame delimiter crossed the balls (R130): FRC counts since its edge of CLK_TIME, and the
position within that period in steps of 0.32 ns. -/
structure Stamp where
  age : Nat
  sub : Nat
deriving DecidableEq, Repr

/-- What a port's PCS and RS-FEC decoder counted since they were last heard of (R116): code words corrected and not
correctable, and errored PCS blocks. -/
structure LineErr where
  fecOk : Nat
  fecBad : Nat
  pcs : Nat
deriving DecidableEq, Repr

/-- A frame on the wire: lengths from destination address through FCS (R86); tags outer first as (TPID, VID). -/
structure Frame where
  len : Nat
  fcsOk : Bool
  dst : Nat
  src : Nat
  ethertype : Nat
  tags : List (Nat × Nat)
  sectag : Option SecTag
  rct : Option Rct
  ip : Option IpHdr
  udp : Option UdpHdr
  payload : Payload
deriving DecidableEq, Repr

/-- A host frame to send: its Ethertype, and the destination port when it is UDP. -/
structure HostFrame where
  len : Nat
  ethertype : Nat
  udpDst : Option Nat
deriving DecidableEq, Repr

/-- A frame received whole on a port, with its ingress and what the line reported. -/
structure Arrival where
  frame : Frame
  stamp : Stamp
  errs : LineErr
deriving DecidableEq, Repr

/-- What the head of a PTP message says: domain, versionPTP, minorVersionPTP and transport (R132). -/
structure PtpForm where
  domain : Nat
  version : Nat
  minor : Nat
  transport : Nat
deriving DecidableEq, Repr

/-- The head of a PTP message received on a port. -/
structure PtpHead extends PtpForm where
  port : Nat
deriving DecidableEq, Repr

/-- A read of BAR2 at an address, of 4 bytes or of 8 (R37). -/
structure Bar2Read where
  addr : Nat
  wide : Bool
deriving DecidableEq, Repr

/-- A rising or a falling edge on PPS_IN (R137). -/
structure PpsEdge where
  rising : Bool
  stamp : Stamp
deriving DecidableEq, Repr

/-- The local and the remote fault that a port sees (R109). -/
structure LinkFaults where
  localFault : Bool
  remoteFault : Bool
deriving DecidableEq, Repr

/-- A frame of a queue starts, its delimiter `sub` steps of 0.32 ns into the CLK_TIME period (R130). -/
structure FrameStart where
  queue : Nat
  sub : Nat
deriving DecidableEq, Repr

/-- An Announce message (R133, R135, R149) of a grandmaster `gm`, from the port identity `sender`, `steps` removed. -/
structure Announce where
  head : PtpHead
  gm : Nat
  steps : Nat
  sender : Nat
  prio1 : Nat
  clockClass : Nat
  accuracy : Nat
  variance : Nat
  prio2 : Nat
  ptpTimescale : Bool
  utcOfs : Int
  utcValid : Bool
  leap : Nat
  inacc : Option Nat
deriving DecidableEq, Repr

/-! ### Results of engine programs and of hardware estimators: numbers the manual gives no exact arithmetic for -/

/-- What a state solve's program hands over (R274 to R283): the node voltages after each solve of R280, parts in 2^-32 pu, and
whether a factor page was uncorrectable, with its number (R279). -/
structure SolveResult where
  passes : List (Tbl (Int × Int))
  factorBad : Bool
  page : Nat
deriving DecidableEq, Repr

/-- The amplitudes of a slow update of one signal group (R306): for each mode it keeps, by ascending frequency, and each signal of
the group, root 2 times the RMS of the mode's contribution, which no rule says how to part from the others'. -/
structure SlowResult where
  group : Nat
  amps : List (List Nat)
deriving DecidableEq, Repr

/-- One multiply-add of a lane (R245): engine of the gang, lane, whether the program clears the accumulator first, and the two
signed 18-bit operands. -/
structure Mac where
  eng : Nat
  lane : Nat
  clear : Bool
  x : Int
  y : Int
deriving DecidableEq, Repr

/-- One word that a program writes: in the local memory of engine `place` of its gang (R246), or in resident page `place` of its node
(R249); the word within it and its 72 data bits. -/
structure WordWrite where
  place : Nat
  word : Nat
  data : Nat
deriving DecidableEq, Repr

/-- What an item's program did in its run, and the numbers it hands over at its commit: its multiply-adds, its writes to local
memory and to the node's resident pages, and what the stage of its node reads of the rest. -/
structure ItemResult where
  macs : List Mac
  lmem : List WordWrite
  resident : List WordWrite
  solve : SolveResult
  slow : List SlowResult
deriving DecidableEq, Repr

/-- A report of an anchor virtual stream (R360 to R363): its t_n, and what the estimator finds before the model holds it within
the manual's bounds: the phasors of the anchor channels, the frequency and ROCOF of REF, as codes. -/
structure VsReport where
  vs : Nat
  secs : Nat
  n : Nat
  phasors : List (Int × Int)
  freq : Int
  rocof : Int
deriving DecidableEq, Repr

/-- How an operation's own end comes out (the part no state of the block decides): fused, programmed, fetched well, or
a hardware fault; a self-test passed; data found uncorrectable. -/
structure Finish where
  hwFault : Bool
  dataBad : Bool
  pass : Bool
deriving DecidableEq, Repr

/-- An answer of a block in the sleep handshake (R452). -/
inductive HsAnswer where
  | agree
  | delay (us : Nat)
  | refuse (reason : Nat)
deriving DecidableEq, Repr

/-- A management transaction comes over MSPI or MI2C (R64, R65). On MI2C it is a write transfer, which carries the command
byte and what follows it, or a read transfer, with the 7-bit address on the bus. -/
inductive Mgmt where
  | mspi
  | mi2c (addr : Nat) (read : Bool)
deriving DecidableEq, Repr

/-- A command byte 0x05, or one that Table 2-9b does not list, and `count` further words clocked (R64). -/
structure MgmtByte where
  via : Mgmt
  cmd : Nat
  count : Nat
deriving DecidableEq, Repr

/-- The commands of the block, one constructor per row of spec/opcode_table.json. Each docstring gives the row's mnemonic
and the rule it rests on. -/
inductive Instr where
  /-- COMMAND_FETCH (R46). -/
  | commandFetch (ring : Nat) (p : Packet) (readOk : Bool)
  /-- FENCE_RELEASE (R57). -/
  | fenceRelease (ring : Nat)
  /-- SYS_NOP (R72). -/
  | sysNop (h : Hdr)
  /-- SYS_IDENTIFY (R72). -/
  | sysIdentify (h : Hdr)
  /-- SYS_QUERY_HANDLE (R500). -/
  | sysQueryHandle (h : Hdr) (handle : Nat)
  /-- SYS_CANCEL (R60). -/
  | sysCancel (h : Hdr) (handle : Nat)
  /-- SYS_SET_MODE (R444). -/
  | sysSetMode (h : Hdr) (target : Nat)
  /-- SYS_FREEZE (R467). -/
  | sysFreeze (h : Hdr)
  /-- SYS_THAW (R469). -/
  | sysThaw (h : Hdr)
  /-- SYS_RESET (R72). -/
  | sysReset (h : Hdr) (kind : Nat)
  /-- SYS_NQ_MARK (R69). -/
  | sysNqMark (h : Hdr) (q : Nat)
  /-- SYS_NQ_REWIND (R69). -/
  | sysNqRewind (h : Hdr) (q : Nat)
  /-- SYS_NQ_RELEASE (R69). -/
  | sysNqRelease (h : Hdr) (q count : Nat)
  /-- SYS_CLEAR_COUNTERS (R70). -/
  | sysClearCounters (h : Hdr) (mask : Nat)
  /-- CFG_LOAD (R75). -/
  | cfgLoad (h : Hdr) (source addr len : Nat) (img : Image)
  /-- CFG_COMMIT (R78). -/
  | cfgCommit (h : Hdr)
  /-- CFG_DISCARD (R74). -/
  | cfgDiscard (h : Hdr)
  /-- CFG_REPORT (R77). -/
  | cfgReport (h : Hdr) (which addr len : Nat)
  /-- CFG_QUERY (R74). -/
  | cfgQuery (h : Hdr) (which : Nat)
  /-- CFG_STORE (R74). -/
  | cfgStore (h : Hdr)
  /-- PORT_CONFIG (R118). -/
  | portConfig (h : Hdr) (p : PortP)
  /-- PORT_SET_EXACT (R87). -/
  | portSetExact (h : Hdr) (port index en addr : Nat)
  /-- PORT_SET_HASH (R88). -/
  | portSetHash (h : Hdr) (p : HashP)
  /-- PORT_SET_VLAN (R90). -/
  | portSetVlan (h : Hdr) (p : VlanP)
  /-- PORT_SET_INTAKE (R91). -/
  | portSetIntake (h : Hdr) (port : Nat) (e : List IntakeEntry)
  /-- PORT_SET_PT_MAP (R92). -/
  | portSetPtMap (h : Hdr) (port map : Nat)
  /-- PORT_PRP_PAIR (R93). -/
  | portPrpPair (h : Hdr) (p : PrpP)
  /-- PORT_MACSEC_CFG (R99). -/
  | portMacsecCfg (h : Hdr) (p : MacsecP)
  /-- PORT_SA_INSTALL (R100). -/
  | portSaInstall (h : Hdr) (p : SaP)
  /-- PORT_SA_ACTIVATE (R103). -/
  | portSaActivate (h : Hdr) (port an nextAn : Nat)
  /-- PORT_SA_DESTROY (R120). -/
  | portSaDestroy (h : Hdr) (port dir sc an : Nat)
  /-- PORT_GATE_LOAD (R107). -/
  | portGateLoad (h : Hdr) (p : GateP)
  /-- PORT_GATE_QUERY (R120). -/
  | portGateQuery (h : Hdr) (port : Nat)
  /-- PORT_LINK_STATUS (R120). -/
  | portLinkStatus (h : Hdr) (port : Nat)
  /-- PORT_CLEAR_COUNTERS (R120). -/
  | portClearCounters (h : Hdr) (mask : Nat)
  /-- TIME_CONFIG (R142). -/
  | timeConfig (h : Hdr) (p : TimeP)
  /-- TIME_SOURCE (R146). -/
  | timeSource (h : Hdr) (primary secondary revertS : Nat)
  /-- TIME_PTP_CONFIG (R501). -/
  | timePtpConfig (h : Hdr) (p : PtpP)
  /-- TIME_PPS_CONFIG (R137). -/
  | timePpsConfig (h : Hdr) (p : PpsP)
  /-- TIME_PORT_LATENCY (R130). -/
  | timePortLatency (h : Hdr) (p : LatP)
  /-- TIME_READ (R158). -/
  | timeRead (h : Hdr)
  /-- TIME_SET (R158). -/
  | timeSet (h : Hdr) (t : DT80)
  /-- TIME_UTC_OFFSET (R149). -/
  | timeUtcOffset (h : Hdr) (ofs : Int) (valid leap : Nat)
  /-- TIME_CMP_ARM (R152). -/
  | timeCmpArm (h : Hdr) (p : CmpP)
  /-- TIME_CMP_DISARM (R152). -/
  | timeCmpDisarm (h : Hdr) (cmp : Nat)
  /-- TIME_CMP_QUERY (R158). -/
  | timeCmpQuery (h : Hdr) (cmp : Nat)
  /-- TIME_HOLDOVER_TEST (R146). -/
  | timeHoldoverTest (h : Hdr) (en : Nat)
  /-- TIME_MAIN_RETEST (R129). -/
  | timeMainRetest (h : Hdr)
  /-- TIME_STATUS (R158). -/
  | timeStatus (h : Hdr)
  /-- TIME_CLEAR_COUNTERS (R156). -/
  | timeClearCounters (h : Hdr)
  /-- STREAM_INSTALL (R190). -/
  | streamInstall (h : Hdr) (p : StreamP)
  /-- STREAM_REMOVE (R183). -/
  | streamRemove (h : Hdr) (sid : Nat)
  /-- STREAM_REKEY (R189). -/
  | streamRekey (h : Hdr) (sid keyNext keyIdNext : Nat)
  /-- STREAM_RELEASE (R169). -/
  | streamRelease (h : Hdr) (sid : Nat)
  /-- STREAM_QUERY (R189). -/
  | streamQuery (h : Hdr) (sid : Nat)
  /-- STREAM_SET_TIMERS (R183). -/
  | streamSetTimers (h : Hdr) (sid staleN lostN : Nat)
  /-- STREAM_LIST (R499). -/
  | streamList (h : Hdr) (addr len : Nat)
  /-- STREAM_GCONFIG (R189). -/
  | streamGconfig (h : Hdr) (p : SiP)
  /-- STREAM_CLEAR_COUNTERS (R189). -/
  | streamClearCounters (h : Hdr) (first count : Nat)
  /-- GROUP_DEFINE (R194). -/
  | groupDefine (h : Hdr) (p : GroupP)
  /-- GROUP_DELETE (R227). -/
  | groupDelete (h : Hdr) (gid : Nat)
  /-- GROUP_MEMBERS (R196). -/
  | groupMembers (h : Hdr) (gid op count : Nat) (sids : List Nat)
  /-- GROUP_SET_TIMING (R196). -/
  | groupSetTiming (h : Hdr) (p : TimingP)
  /-- GROUP_QUERY (R227). -/
  | groupQuery (h : Hdr) (gid : Nat)
  /-- GROUP_SESSION_DEFINE (R212). -/
  | groupSessionDefine (h : Hdr) (p : SessionP)
  /-- GROUP_SESSION_DELETE (R227). -/
  | groupSessionDelete (h : Hdr) (session : Nat)
  /-- GROUP_SESSION_ENABLE (R227). -/
  | groupSessionEnable (h : Hdr) (session en : Nat)
  /-- GROUP_READ_CELL (R227). -/
  | groupReadCell (h : Hdr) (gid sid index addr len : Nat)
  /-- GROUP_CLEAR_COUNTERS (R225). -/
  | groupClearCounters (h : Hdr) (mask : Nat)
  /-- GROUP_GCONFIG (R208). -/
  | groupGconfig (h : Hdr) (p : ErgP)
  /-- CARAVAN_JOB_DEFINE (R231). -/
  | caravanJobDefine (h : Hdr) (p : JobP)
  /-- CARAVAN_JOB_DELETE (R260). -/
  | caravanJobDelete (h : Hdr) (job : Nat)
  /-- CARAVAN_JOB_BIND (R260). -/
  | caravanJobBind (h : Hdr) (job gid en : Nat)
  /-- CARAVAN_RUN (R242). -/
  | caravanRun (h : Hdr) (job arg : Nat)
  /-- CARAVAN_LEVEL_CONFIG (R235). -/
  | caravanLevelConfig (h : Hdr) (p : LevelP)
  /-- CARAVAN_ENGINE_RETIRE (R260). -/
  | caravanEngineRetire (h : Hdr) (engine : Nat)
  /-- CARAVAN_ENGINE_RESTORE (R260). -/
  | caravanEngineRestore (h : Hdr) (engine : Nat)
  /-- CARAVAN_QUERY_JOB (R260). -/
  | caravanQueryJob (h : Hdr) (job : Nat)
  /-- CARAVAN_QUERY_ENGINE (R260). -/
  | caravanQueryEngine (h : Hdr) (engine : Nat)
  /-- CARAVAN_CLEAR_COUNTERS (R260). -/
  | caravanClearCounters (h : Hdr) (mask : Nat)
  /-- TOPO_MODEL_LOAD (R261). -/
  | topoModelLoad (h : Hdr) (addr len : Nat) (sigOk fetchOk : Bool) (m : ModelP)
  /-- TOPO_CONFIG (R292). -/
  | topoConfig (h : Hdr) (p : TopoP)
  /-- TOPO_CUTSET_DEFINE (R269). -/
  | topoCutsetDefine (h : Hdr) (p : CutP)
  /-- TOPO_CUTSET_DELETE (R292). -/
  | topoCutsetDelete (h : Hdr) (cut : Nat)
  /-- TOPO_BRANCH_FORCE (R263). -/
  | topoBranchForce (h : Hdr) (branch action : Nat)
  /-- TOPO_REFACTOR (R275). -/
  | topoRefactor (h : Hdr)
  /-- TOPO_READ_RESULT (R284). -/
  | topoReadResult (h : Hdr) (index sections addr len : Nat)
  /-- TOPO_QUERY (R292). -/
  | topoQuery (h : Hdr)
  /-- TOPO_CLEAR_COUNTERS (R290). -/
  | topoClearCounters (h : Hdr)
  /-- OSC_CONFIG (R304). -/
  | oscConfig (h : Hdr) (p : OscP)
  /-- OSC_SIGNAL_DEFINE (R293). -/
  | oscSignalDefine (h : Hdr) (p : SigP)
  /-- OSC_SIGNAL_DELETE (R317). -/
  | oscSignalDelete (h : Hdr) (sig : Nat)
  /-- OSC_GROUP_DEFINE (R300). -/
  | oscGroupDefine (h : Hdr) (p : OscGroupP)
  /-- OSC_GROUP_DELETE (R317). -/
  | oscGroupDelete (h : Hdr) (group : Nat)
  /-- OSC_READ_BANDS (R310). -/
  | oscReadBands (h : Hdr) (first count depth addr len : Nat)
  /-- OSC_READ_MODES (R310). -/
  | oscReadModes (h : Hdr) (group depth addr len : Nat)
  /-- OSC_RESTART (R308). -/
  | oscRestart (h : Hdr) (group : Nat)
  /-- OSC_QUERY (R317). -/
  | oscQuery (h : Hdr) (group : Nat)
  /-- OSC_CLEAR_COUNTERS (R315). -/
  | oscClearCounters (h : Hdr) (mask : Nat)
  /-- ALARM_RULE_DEFINE (R318). -/
  | alarmRuleDefine (h : Hdr) (p : RuleP)
  /-- ALARM_RULE_ENABLE (R321). -/
  | alarmRuleEnable (h : Hdr) (first count en : Nat)
  /-- ALARM_RULE_DELETE (R348). -/
  | alarmRuleDelete (h : Hdr) (rule : Nat)
  /-- ALARM_RULE_QUERY (R348). -/
  | alarmRuleQuery (h : Hdr) (rule : Nat)
  /-- ALARM_LINE_CONFIG (R326). -/
  | alarmLineConfig (h : Hdr) (p : LineP)
  /-- ALARM_ACK (R326). -/
  | alarmAck (h : Hdr) (mask : Nat)
  /-- ALARM_FORCE (R344). -/
  | alarmForce (h : Hdr) (rule action : Nat)
  /-- ALARM_XTRIG_CONFIG (R348). -/
  | alarmXtrigConfig (h : Hdr) (p : XtrigP)
  /-- ALARM_CLEAR_COUNTERS (R346). -/
  | alarmClearCounters (h : Hdr) (first count : Nat)
  /-- ACQ_CHANNEL_DEFINE (R349). -/
  | acqChannelDefine (h : Hdr) (p : ChanP)
  /-- ACQ_RING_DEFINE (R343). -/
  | acqRingDefine (h : Hdr) (p : AqRingP)
  /-- ACQ_ENABLE (R343). -/
  | acqEnable (h : Hdr) (ch en : Nat)
  /-- ACQ_DELETE (R349). -/
  | acqDelete (h : Hdr) (ch : Nat)
  /-- ACQ_TRIGGER (R336). -/
  | acqTrigger (h : Hdr) (mask : Nat) (t : DT80)
  /-- ACQ_QUERY (R349). -/
  | acqQuery (h : Hdr) (ch : Nat)
  /-- ACQ_GCONFIG (R349). -/
  | acqGconfig (h : Hdr) (nq : Nat)
  /-- ACQ_CLEAR_COUNTERS (R346). -/
  | acqClearCounters (h : Hdr) (mask : Nat)
  /-- METER_CHANNEL_CONFIG (R357). -/
  | meterChannelConfig (h : Hdr) (p : MChanP)
  /-- METER_CALIBRATE (R358). -/
  | meterCalibrate (h : Hdr) (p : CalP)
  /-- METER_SENSOR_TEMP (R353). -/
  | meterSensorTemp (h : Hdr) (ch : Nat) (t : Int)
  /-- METER_ELEMENT_DEFINE (R364). -/
  | meterElementDefine (h : Hdr) (p : ElemP)
  /-- METER_ELEMENT_ENABLE (R377). -/
  | meterElementEnable (h : Hdr) (el en : Nat)
  /-- METER_ENERGY_READ (R377). -/
  | meterEnergyRead (h : Hdr) (el reg : Nat)
  /-- METER_ENERGY_SIGNED (R401). -/
  | meterEnergySigned (h : Hdr) (mask slot addr len : Nat)
  /-- METER_ENERGY_PRESET (R377). -/
  | meterEnergyPreset (h : Hdr) (el reg rollover count : Nat)
  /-- METER_PULSE_CONFIG (R370). -/
  | meterPulseConfig (h : Hdr) (p : PulseP)
  /-- METER_VSTREAM_DEFINE (R360). -/
  | meterVstreamDefine (h : Hdr) (p : VsP)
  /-- METER_VSTREAM_REMOVE (R381). -/
  | meterVstreamRemove (h : Hdr) (vs : Nat)
  /-- METER_BALLAST_DEFINE (R372). -/
  | meterBallastDefine (h : Hdr) (p : BallastP)
  /-- METER_SAVE (R371). -/
  | meterSave (h : Hdr)
  /-- METER_CONFIG (R381). -/
  | meterConfig (h : Hdr) (p : MeterP)
  /-- METER_QUERY (R381). -/
  | meterQuery (h : Hdr)
  /-- METER_CLEAR_COUNTERS (R379). -/
  | meterClearCounters (h : Hdr) (mask : Nat)
  /-- VAULT_STATUS (R411). -/
  | vaultStatus (h : Hdr)
  /-- VAULT_LIFECYCLE (R402). -/
  | vaultLifecycle (h : Hdr) (target : Nat) (ownerKey : Option Nat)
  /-- VAULT_OWNER_LOAD (R382). -/
  | vaultOwnerLoad (h : Hdr) (key : Nat)
  /-- VAULT_ROOT_GENERATE (R389). -/
  | vaultRootGenerate (h : Hdr)
  /-- VAULT_TAMPER_CLEAR (R391). -/
  | vaultTamperClear (h : Hdr)
  /-- VAULT_TAMPER_CONFIG (R411). -/
  | vaultTamperConfig (h : Hdr) (enables : Nat)
  /-- VAULT_DEBUG (R404). -/
  | vaultDebug (h : Hdr) (en : Nat)
  /-- VAULT_GENERATE (R411). -/
  | vaultGenerate (h : Hdr) (slot alg usage lock : Nat)
  /-- VAULT_DERIVE (R396). -/
  | vaultDerive (h : Hdr) (slot parent alg usage lock label : Nat)
  /-- VAULT_IMPORT (R397). -/
  | vaultImport (h : Hdr) (p : ImportP)
  /-- VAULT_SEAL (R398). -/
  | vaultSeal (h : Hdr) (slot addr len : Nat)
  /-- VAULT_EXPORT (R398). -/
  | vaultExport (h : Hdr) (slot wrapSlot destUid addr len : Nat)
  /-- VAULT_DESTROY (R394). -/
  | vaultDestroy (h : Hdr) (slot : Nat)
  /-- VAULT_ATTEST (R400). -/
  | vaultAttest (h : Hdr) (slot nonce addr len : Nat)
  /-- VAULT_SLOT_QUERY (R411). -/
  | vaultSlotQuery (h : Hdr) (slot : Nat)
  /-- VAULT_RANDOM (R411). -/
  | vaultRandom (h : Hdr) (count : Nat)
  /-- VAULT_CLEAR_COUNTERS (R409). -/
  | vaultClearCounters (h : Hdr)
  /-- LOG_CONFIG (R441). -/
  | logConfig (h : Hdr) (p : LogP)
  /-- LOG_SPOOL_SEEK (R435). -/
  | logSpoolSeek (h : Hdr) (seq : Nat)
  /-- LOG_READ (R499). -/
  | logRead (h : Hdr) (first count addr len : Nat)
  /-- LOG_FLUSH (R433). -/
  | logFlush (h : Hdr)
  /-- LOG_WRITE (R441). -/
  | logWrite (h : Hdr) (severity arg : Nat)
  /-- LOG_FAULT_CLEAR (R428). -/
  | logFaultClear (h : Hdr)
  /-- LOG_MACRO_QUERY (R441). -/
  | logMacroQuery (h : Hdr) (mac : Nat)
  /-- LOG_INJECT (R441). -/
  | logInject (h : Hdr) (mac word bitA bitB : Nat)
  /-- LOG_CLEAR_COUNTERS (R439). -/
  | logClearCounters (h : Hdr) (mask : Nat)
  /-- POWER_DOZE (R452). -/
  | powerDoze (h : Hdr)
  /-- POWER_WAKE (R459). -/
  | powerWake (h : Hdr)
  /-- POWER_PAD_RELEASE (R457). -/
  | powerPadRelease (h : Hdr) (mask : Nat)
  /-- POWER_CONFIG (R474). -/
  | powerConfig (h : Hdr) (p : PowerP)
  /-- POWER_QUERY (R474). -/
  | powerQuery (h : Hdr)
  /-- POWER_REF_CONFIG (R466). -/
  | powerRefConfig (h : Hdr) (p : RefP)
  /-- POWER_REF_SWITCH (R466). -/
  | powerRefSwitch (h : Hdr)
  /-- POWER_CLEAR_COUNTERS (R472). -/
  | powerClearCounters (h : Hdr) (mask : Nat)
  /-- HI_SQ_DB_WRITE (R44). -/
  | hiSqDbWrite (ring tail : Nat)
  /-- HI_CQ_DB_WRITE (R44). -/
  | hiCqDbWrite (ring head : Nat)
  /-- HI_SQ_CFG_WRITE (R43). -/
  | hiSqCfgWrite (ring value : Nat)
  /-- HI_CQ_CFG_WRITE (R43). -/
  | hiCqCfgWrite (ring value : Nat)
  /-- HI_NQ_POP_READ (R69). -/
  | hiNqPopRead (q bytes : Nat) (aligned : Bool)
  /-- HI_NQ_CFG_WRITE (R71). -/
  | hiNqCfgWrite (q value : Nat)
  /-- NP_PT_DB_WRITE (R111). -/
  | npPtDbWrite (rx : Bool) (k tail : Nat)
  /-- NP_PT_CFG_WRITE (R111). -/
  | npPtCfgWrite (rx : Bool) (k value : Nat)
  /-- TM_FRC_LO_READ (R155). -/
  | tmFrcLoRead
  /-- COUNTER_LOW_READ (R37, R116): a read of BAR2 at an address, of 4 bytes or of 8. -/
  | counterLowRead (r : Bar2Read)
  /-- AM_COUNT_LOW_READ (R378). -/
  | amCountLowRead (el reg : Nat)
  /-- SI_SEL_WRITE (R186). -/
  | siSelWrite (value : Nat)
  /-- SC_SEL_WRITE (R314). -/
  | scSelWrite (value : Nat)
  /-- AL_SEL_WRITE (R345). -/
  | alSelWrite (value : Nat)
  /-- OV_SEL_WRITE (R408). -/
  | ovSelWrite (value : Nat)
  /-- EC_SEL_WRITE (R438). -/
  | ecSelWrite (value : Nat)
  /-- EV_SPOOL_CUR_WRITE (R435). -/
  | evSpoolCurWrite (value : Nat)
  /-- REGISTER_WRITE (R23, R37): a 4-byte write to BAR0, or from offset 2^24 up to BAR2. -/
  | registerWrite (offset value : Nat)
  /-- MSPI_STATUS (R64), or an unknown command byte. -/
  | mspiStatus (c : MgmtByte)
  /-- MSPI_READ (R64). -/
  | mspiRead (via : Mgmt) (offset count : Nat)
  /-- MB_SUBMIT (R67). -/
  | mbSubmit (via : Mgmt) (p : Packet)
  /-- MB_FETCH (R67). -/
  | mbFetch (via : Mgmt)
  /-- FLR (R38). -/
  | flr (perst : Bool)
  /-- NQ_TIMEOUT (R71). -/
  | nqTimeout (q : Nat)
  /-- RX_FRAME (R85); `twin` is the copy that completes step 5 on the pair's other port in the same cycle (R95). -/
  | rxFrame (port : Nat) (a : Arrival) (twin : Option Arrival)
  /-- PT_FRAME_DELIVERY (R112). -/
  | ptFrameDelivery (k : Nat)
  /-- PT_TX_CHAIN_FETCH (R114): `frame` is what the chain holds, as far as R97 and R101 ask. -/
  | ptTxChainFetch (k port queue : Nat) (frame : HostFrame) (prpMode count : Nat) (clear wellFormed : Bool)
  /-- TX_FRAME_START (R106), its delimiter `sub` steps of 0.32 ns into the CLK_TIME period (R130). -/
  | txFrameStart (port : Nat) (q : FrameStart)
  /-- GATE_BOUNDARY (R105). -/
  | gateBoundary (port : Nat)
  /-- LINK_STATE_CHANGE (R109). -/
  | linkStateChange (port : Nat) (pcsLock fecLock : Bool) (faults : LinkFaults) (errs : LineErr)
  /-- PTP_SYNC_RX (R141): origin and correction of the Sync, and of its Follow_Up when it is two-step (R132). -/
  | ptpSyncRx (m : PtpHead) (origin correction : Int) (followUp : Option (Int × Int)) (ingress : Stamp)
  /-- PTP_ANNOUNCE_RX (R133). -/
  | ptpAnnounceRx (a : Announce)
  /-- PPS_IN_EDGE (R137): a rising or a falling edge. -/
  | ppsInEdge (e : PpsEdge)
  /-- PPS_LOST (R137). -/
  | ppsLost
  /-- TOD_SENTENCE_RX (R138): its checksum, its status and the UTC second it names. -/
  | todSentenceRx (sumOk statusOk : Bool) (utcSec : Nat)
  /-- SOURCE_LOSS (R145). -/
  | sourceLoss (source : Nat)
  /-- CMP_FIRE (R150). -/
  | cmpFire (cmp : Nat)
  /-- SI_FRAME_PARSE (R166). -/
  | siFrameParse (pipe : Nat)
  /-- STREAM_TIMER_EXPIRY (R183). -/
  | streamTimerExpiry (sid : Nat)
  /-- INSTANT_OPEN (R197). -/
  | instantOpen (gid : Nat)
  /-- EARLY_RELEASE (R199). -/
  | earlyRelease (gid : Nat)
  /-- DEADLINE_RELEASE (R200). -/
  | deadlineRelease (gid : Nat)
  /-- PUBLISH_INSTANT (R212). -/
  | publishInstant (gid index : Nat)
  /-- CELL_HOLD_EXPIRY (R203). -/
  | cellHoldExpiry (gid index : Nat)
  /-- INSTANT_RETIRE (R196). -/
  | instantRetire (gid index : Nat)
  /-- DISPATCH_DECISION (R234). -/
  | dispatchDecision
  /-- ITEM_COMMIT (R249). -/
  | itemCommit (item : Nat) (r : ItemResult) (dataBad : Bool)
  /-- BUDGET_OVER (R243). -/
  | budgetOver (item : Nat)
  /-- ENGINE_FAULT (R250). -/
  | engineFault (engine kind : Nat)
  /-- TAKEOVER_RESUME (R250). -/
  | takeoverResume (item : Nat)
  /-- XTRIG_IN_EDGE (R331). -/
  | xtrigInEdge (n : Nat) (level : Bool) (stamp : Stamp)
  /-- AQ_RECORD_WRITE (R338). -/
  | aqRecordWrite (ring : Nat)
  /-- SD_SAMPLE (R354). -/
  | sdSample (ch : Nat) (vRec vAlm : Int) (run64 : Bool) (cleanBits : Nat)
  /-- ENERGY_BLOCK_END (R365): at the measurement time `stop`, with the active and the reactive energy that AM's arithmetic found for
each phase and the frequency it tracked. -/
  | energyBlockEnd (el stop : Nat) (e1 e2 e3 : Int × Int) (trackedF : Int)
  /-- PULSE_START (R370). -/
  | pulseStart (n : Nat)
  /-- PERIODIC_SAVE (R371). -/
  | periodicSave (ok : Bool)
  /-- ALIVE_STAMP (R371). -/
  | aliveStamp
  /-- PFW_N_FALL (R40). -/
  | pfwNFall
  /-- PFW_QUALIFIED (R372). -/
  | pfwQualified (durTenthUs : Nat)
  /-- BALLAST_WRITE_END (R434). -/
  | ballastWriteEnd
  /-- PFW_N_RISE (R373). -/
  | pfwNRise
  /-- ZEROIZE_CAUSE (R390). -/
  | zeroizeCause (cause : Nat)
  /-- SCRUB_READ (R418). -/
  | scrubRead (mac word : Nat)
  /-- INTERNAL_RESET (R448). -/
  | internalReset
  /-- RECORD_CLOSE (R431). -/
  | recordClose (source code severity : Nat)
  /-- FLUSH_MS_EXPIRY (R433). -/
  | flushMsExpiry
  /-- EV_FLUSH_END (R433). -/
  | evFlushEnd
  /-- OPSEC_TICK (R430). -/
  | opsecTick
  /-- HANDSHAKE_ANSWER (R452). -/
  | handshakeAnswer (a : HsAnswer)
  /-- HANDSHAKE_DELAY_END (R453). -/
  | handshakeDelayEnd
  /-- WAKE_COMPLETE (R460). -/
  | wakeComplete (failed : Bool) (passed : List Nat)
  /-- FREEZE_N_ASSERT (R467). -/
  | freezeNAssert (low : Bool)
  /-- RESET_N_QUALIFIED (R447). -/
  | resetNQualified (durTenthUs : Nat)
  /-- RESET_TAKES_HOLD (R447). -/
  | resetTakesHold
  /-- WARM_RESET_TAKES_HOLD (R72). -/
  | warmResetTakesHold
  /-- BOOT (R450). -/
  | boot (enginesPass : List Nat) (badMacros : List Nat) (rootOk ownerOk : Bool) (img : Option Image)
  /-- FINAL_COMPLETION (R54). -/
  | finalCompletion (handle : Nat) (fin : Finish)
  /-- CAIRN_RELEASE (R434). -/
  | cairnRelease
  /-- MI2C_ADDRESS_MATCH (R66). -/
  | mi2cAddressMatch
  /-- PRP_LAN_LOST (R98). -/
  | prpLanLost (pair lan : Nat)
  /-- PRP_ENTRY_FORGET (R94). -/
  | prpEntryForget (pair src : Nat)
  /-- PRP_SUPERVISION_TX (R96). -/
  | prpSupervisionTx (pair : Nat)
  /-- PT_DESCRIPTOR_TIMEOUT (R113). -/
  | ptDescriptorTimeout (k : Nat)
  /-- GATE_OPERATIVE (R107). -/
  | gateOperative (port : Nat)
  /-- PTP_PDELAY_REQ_RX (R133). -/
  | ptpPdelayReqRx (port : Nat) (m : PtpForm) (ingress : Stamp)
  /-- PTP_DELAY_REQ_RX (R501). -/
  | ptpDelayReqRx (m : PtpHead) (ingress : Stamp)
  /-- PTP_PATH_DELAY_RX (R133). -/
  | ptpPathDelayRx (m : PtpHead) (meanPath : Int)
  /-- PTP_DELAY_REQ_TX (R133). -/
  | ptpDelayReqTx (port : Nat)
  /-- PTP_MASTER_ANNOUNCE_TX (R134). -/
  | ptpMasterAnnounceTx
  /-- PTP_MASTER_SYNC_TX (R131). -/
  | ptpMasterSyncTx
  /-- SOURCE_REVERT (R146). -/
  | sourceRevert
  /-- HOLDOVER_AGEING (R147). -/
  | holdoverAgeing
  /-- INTEG_SAVE (R144). -/
  | integSave
  /-- LEAP_APPLY (R149). -/
  | leapApply
  /-- TIME_CHECKPOINT (R127). -/
  | timeCheckpoint
  /-- RESIDUE_MISMATCH (R127). -/
  | residueMismatch
  /-- TIME_SELFTEST_END (R128). -/
  | timeSelftestEnd (pass : Bool)
  /-- OUTPUT_PULSE_END (R150). -/
  | outputPulseEnd (line : Nat)
  /-- DUNE_TICK (R153). -/
  | duneTick
  /-- VSTREAM_REPORT (R360). -/
  | vstreamReport (r : VsReport)
  /-- AMEND_BATCH_CLOSE (R207). -/
  | amendBatchClose (gid index : Nat)
  /-- DELAY_EXPIRY (R239). -/
  | delayExpiry
  /-- ITEM_AGING (R237). -/
  | itemAging (level : Nat)
  /-- CHECKPOINT_WRITE (R249). -/
  | checkpointWrite (item : Nat)
  /-- FENCED_SELFTEST_END (R253). -/
  | fencedSelftestEnd (engine : Nat) (pass : Bool)
  /-- SPARE_SELFTEST (R253). -/
  | spareSelftest (engine : Nat) (pass : Bool)
  /-- ALM_STB_DEFERRED (R327). -/
  | almStbDeferred
  /-- ALM_PULSE_END (R326). -/
  | almPulseEnd (line : Nat)
  /-- TEMP_STALE (R353). -/
  | tempStale (ch : Nat)
  /-- PULSE_END (R370). -/
  | pulseEnd (n : Nat)
  /-- ENTROPY_FAIL (R406). -/
  | entropyFail (test : Nat)
  /-- ENTROPY_RETEST (R406). -/
  | entropyRetest (passed : Nat)
  /-- DRBG_RESEED (R405). -/
  | drbgReseed
  /-- CORRECTION_WRITEBACK (R419). -/
  | correctionWriteback (mac word : Nat)
  /-- SUSPECT_EXPIRY (R420). -/
  | suspectExpiry (mac word : Nat)
  /-- CONTROL_DUE (R448). -/
  | controlDue (mac word : Nat)
  /-- WATCHDOG_EXPIRY (R448). -/
  | watchdogExpiry (sequencer gid : Nat)
  /-- LIFECYCLE_WIPE (R402). -/
  | lifecycleWipe
  /-- POWER_ON_DETECT (R481). -/
  | powerOnDetect (railsOk : Bool)
  /-- REF_FAIL (R463). -/
  | refFail (what which : Nat)
  /-- REF_QUALIFIED (R463). -/
  | refQualified (what which : Nat)
  /-- PLL_REVERT (R466). -/
  | pllRevert
  /-- JTAG_EXTEST (R468). -/
  | jtagExtest (pads : Nat)
  /-- JTAG_IDCODE (R468). -/
  | jtagIdcode
  /-- JTAG_SAMPLE_PRELOAD (R468). -/
  | jtagSamplePreload (value : Nat)
  /-- JTAG_CLAMP (R468). -/
  | jtagClamp
  /-- JTAG_HIGHZ (R468). -/
  | jtagHighz
  /-- JTAG_FRZ_SCAN (R468). -/
  | jtagFrzScan (chain : Nat)
  /-- JTAG_FRZ_MEM (R468). -/
  | jtagFrzMem (mac word : Nat)
  /-- JTAG_FRZ_REG (R468). -/
  | jtagFrzReg (offset : Nat)
  /-- JTAG_DEBUG (R404). -/
  | jtagDebug (code : Nat)
  /-- JTAG_BYPASS (R468). -/
  | jtagBypass (tdi : Bool)
  /-- XTRIG_IN_FORWARDED_EDGE (R332). -/
  | xtrigInForwardedEdge (n : Nat)
  /-- PDELAY_TIMEOUT (R133). -/
  | pdelayTimeout (port : Nat)
deriving DecidableEq, Repr

end Sys2Proof
end

