-- ==== Sys2Proof/WellFormed.lean ====
section
/-! DEFINITION. Which commands are well formed: every field fits the width, and every list the length, that the manual's
parameter tables give it (00 R5, 02 Tables 2-7 and 2-8, and the parameter tables of chapters 02 to 14). A well-formed value
may still be out of range: the device then completes BAD_PARAM. -/

namespace Sys2Proof

/-- Every value fits its width in bits. -/
def fits (l : List (Nat × Nat)) : Bool := l.all (fun e => e.2 < 2 ^ e.1)

/-- Every signed value fits its width in bits. -/
def sfits (l : List (Nat × Int)) : Bool := l.all (fun e => -(2 ^ (e.1 - 1)) ≤ e.2 && e.2 < 2 ^ (e.1 - 1))

/-- Every value of a list fits a width. -/
def fitsAll (w : Nat) (l : List Nat) : Bool := l.all (· < 2 ^ w)

/-- A submission ring is one of 16 (R43). -/
def Src.wf : Src → Bool
  | .ring n => n < 16
  | .mailbox => true

/-- A tag's fields (Table 12-1). -/
def Tag.wf (t : Tag) : Bool := fits [(8, t.alg), (8, t.keySlot), (32, t.ctr)]

/-- A packet head's fields (Tables 2-7, 2-8). -/
def Hdr.wf (h : Hdr) : Bool :=
  h.src.wf && fits [(8, h.stag), (16, h.plen), (16, h.authOfs), (64, h.bufAddr)] && (h.auth.all Tag.wf) && fitsAll 8 h.params

def Packet.wf (p : Packet) : Bool := p.bytes.length == 64 && fitsAll 8 p.bytes
def DT80.wf (t : DT80) : Bool := fits [(48, t.sec), (30, t.ns)]
def DT96.wf (t : DT96) : Bool := fits [(48, t.sec), (30, t.ns), (16, t.frac)]

/-! ### Parameter blocks -/

def PortP.wf (p : PortP) : Bool := fits [(8, p.port), (8, p.line), (16, p.maxlen), (48, p.mac)]
def HashP.wf (p : HashP) : Bool :=
  fits [(8, p.port), (8, p.hsel), (8, p.bcast), (8, p.promisc)] && p.words.length == 16 && fitsAll 32 p.words
def VlanP.wf (p : VlanP) : Bool :=
  fits [(8, p.port), (8, p.mode), (8, p.count)] && p.vids.length == p.count && fitsAll 16 p.vids
def IntakeEntry.wf (e : IntakeEntry) : Bool := fits [(16, e.udp), (8, e.en), (8, e.proto)]
def PrpP.wf (p : PrpP) : Bool := fits [(8, p.pair), (8, p.en), (16, p.supMs), (16, p.forgetMs)]
def MacsecP.wf (p : MacsecP) : Bool :=
  fits [(8, p.port), (8, p.en), (8, p.validate), (32, p.replay), (16, p.sciPort), (64, p.pnThresh)]
def SaP.wf (p : SaP) : Bool :=
  fits [(8, p.port), (8, p.dir), (8, p.sc), (8, p.an), (8, p.slot), (8, p.cipher), (8, p.conf), (32, p.ssci), (64, p.peerSci),
    (64, p.firstPn), (96, p.salt)]
def GateEntry.wf (e : GateEntry) : Bool := fits [(8, e.mask), (32, e.ns)]
def GateP.wf (p : GateP) : Bool :=
  fits [(8, p.port), (32, p.num), (32, p.den), (16, p.entries.length)] && p.base.wf && p.entries.all GateEntry.wf

def TimeP.wf (p : TimeP) : Bool :=
  fits [(16, p.kp), (16, p.ki), (32, p.stepNs), (8, p.policy), (8, p.lockCount), (8, p.nq), (32, p.fmaxPpb), (32, p.outlierNs),
    (32, p.freshS), (32, p.agedS)]
def PtpP.wf (p : PtpP) : Bool :=
  fits [(8, p.inst), (8, p.en), (8, p.profile), (8, p.domain), (8, p.transport), (8, p.delayMech), (8, p.portMask),
    (8, p.annTimeout), (8, p.prio1), (8, p.prio2), (32, p.inaccAdd)] &&
  sfits [(8, p.logSync), (8, p.logAnnounce), (8, p.logPdelay)]
def PpsP.wf (p : PpsP) : Bool := fits [(8, p.edge), (8, p.todEdge), (8, p.baud), (8, p.todTx), (32, p.tolNs)]
def LatP.wf (p : LatP) : Bool := fits [(8, p.target)] && sfits [(32, p.rx), (32, p.tx)]
def CmpP.wf (p : CmpP) : Bool :=
  fits [(8, p.cmp), (16, p.actions), (64, p.period), (32, p.count), (16, p.job), (16, p.acqMask), (32, p.pulseNs)] && p.target.wf

def StreamP.wf (p : StreamP) : Bool :=
  fits [(16, p.sid), (8, p.proto), (8, p.authMode), (8, p.portMask), (8, p.lane), (8, p.method), (8, p.align), (16, p.rate),
    (8, p.fnom), (8, p.qlimit), (128, p.srcAddr), (16, p.udpDst), (8, p.block), (8, p.keyCur), (8, p.keyNext), (4, p.tqMax),
    (2, p.unlockMax), (16, p.idcode), (32, p.keyIdCur), (32, p.keyIdNext), (16, p.format), (16, p.framesize), (32, p.timeBase),
    (16, p.blockOfs), (8, p.phnmr), (8, p.annmr), (8, p.dgnmr), (8, p.svidLen), (64, p.phSel), (16, p.anSel), (8, p.dgSel)] &&
  p.svid.length == p.svidLen && fitsAll 8 p.svid && p.phFs.length == 32 && fitsAll 32 p.phFs && p.phFactor.length == 32 &&
  fitsAll 32 p.phFactor && p.anFs.length == 8 && fitsAll 32 p.anFs && p.anFactor.length == 8 && fitsAll 32 p.anFactor &&
  p.memberMap.length == 64 && fitsAll 8 p.memberMap
def SiP.wf (p : SiP) : Bool := fits [(8, p.nq), (16, p.tagTolUs), (16, p.burstUs)]

def GroupP.wf (p : GroupP) : Bool :=
  fits [(8, p.gid), (8, p.latePolicy), (8, p.expect), (16, p.rate), (32, p.windowUs), (32, p.horizonUs), (32, p.lateSpanUs),
    (8, p.amendMs)] && p.epoch.wf
def TimingP.wf (p : TimingP) : Bool :=
  fits [(8, p.gid), (8, p.expect), (32, p.windowUs), (32, p.horizonUs), (32, p.lateSpanUs), (8, p.amendMs)]
def SessionP.wf (p : SessionP) : Bool :=
  fits [(8, p.session), (8, p.gid), (8, p.target), (8, p.queue), (8, p.format), (8, p.keySlot), (8, p.sig), (16, p.first),
    (16, p.count), (16, p.idcode), (16, p.formatWord), (32, p.timeBase), (48, p.dstMac), (16, p.vlanTci), (8, p.dscp), (8, p.ttl),
    (16, p.srcUdp), (16, p.dstUdp), (128, p.srcIp), (128, p.dstIp), (32, p.keyId), (8, p.svidLen)] &&
  p.svid.length == p.svidLen && fitsAll 8 p.svid
def ErgP.wf (p : ErgP) : Bool := fits [(8, p.nq), (8, p.headroom), (32, p.lowMark)]

def NodeP.wf (p : NodeP) : Bool :=
  fits [(8, p.node), (4, p.level), (8, p.gang), (8, p.ckptPages), (16, p.flow), (16, p.program), (32, p.budgetNs),
    (32, p.residentPages), (8, p.stage), (8, p.crypto), (32, p.delayUs), (16, p.chain)] && p.pred.length == 4 && fitsAll 8 p.pred
def JobP.wf (p : JobP) : Bool :=
  fits [(16, p.job), (8, p.maxInflight), (8, p.nodes.length)] && p.nodes.all NodeP.wf
def LevelP.wf (p : LevelP) : Bool :=
  fits [(8, p.urgentReserve), (8, p.ageCeil), (8, p.ckptUs), (8, p.nq)] && p.shares.length == 12 && fitsAll 16 p.shares &&
  p.ages.length == 12 && fitsAll 16 p.ages

def TopoP.wf (p : TopoP) : Bool :=
  fits [(8, p.nq), (8, p.gid), (8, p.hold), (8, p.badMax), (8, p.refLevel), (3, p.measReq), (8, p.refRate), (8, p.iOpenMax),
    (16, p.lnr), (16, p.chi2z)]
def CutP.wf (p : CutP) : Bool :=
  fits [(8, p.cut), (8, p.apply), (8, p.n), (8, p.pickup), (8, p.dropout), (16, p.drift), (8, p.branches.length)] &&
  p.pairs.length ≤ 4 && p.pairs.all (fun e => fits [(16, e.1), (16, e.2)]) && fitsAll 16 p.branches

def OscP.wf (p : OscP) : Bool :=
  fits [(8, p.nq), (8, p.gid), (8, p.cycles), (8, p.fillMax), (3, p.measReq), (8, p.cmp), (16, p.ofsMs), (16, p.slowJob),
    (8, p.trackHold), (8, p.forcedN), (16, p.trackDf), (16, p.trackDz), (16, p.forcedZeta), (16, p.forcedPr)]
def SigP.wf (p : SigP) : Bool :=
  fits [(16, p.sig), (8, p.kind), (8, p.group), (16, p.aSid), (8, p.aCh), (16, p.bSid), (8, p.bCh), (32, p.fsFlow), (16, p.zcFloor)]
def OscGroupP.wf (p : OscGroupP) : Bool :=
  fits [(8, p.group), (8, p.window), (8, p.order), (8, p.rows), (8, p.modesMax), (8, p.ref), (8, p.retain), (8, p.node),
    (16, p.fmin), (16, p.fmax), (16, p.zetaMax)]

def RuleP.wf (p : RuleP) : Bool :=
  fits [(16, p.rule), (8, p.kind), (2, p.cond), (2, p.invalid), (8, p.gid), (2, p.severity), (8, p.pickup), (8, p.dropout), (16, p.a),
    (8, p.aSub), (8, p.bSub), (16, p.b), (8, p.almMask), (5, p.nq), (2, p.xtrig), (16, p.acqMask), (5, p.req), (32, p.hi),
    (32, p.lo), (32, p.hiRst), (32, p.loRst)]
def LineP.wf (p : LineP) : Bool := fits [(8, p.line), (8, p.mode), (32, p.pulseUs)]
def XtrigP.wf (p : XtrigP) : Bool :=
  fits [(8, p.xinEdge), (8, p.fwd), (8, p.xinNote), (8, p.nq), (32, p.pulseNs), (32, p.xinLatNs), (16, p.stbNs)]
def ChanP.wf (p : ChanP) : Bool :=
  fits [(8, p.ch), (8, p.gid), (8, p.srcEn), (8, p.retrig), (16, p.first), (16, p.count), (64, p.chMask), (32, p.pre), (32, p.post),
    (16, p.markRate)]
def AqRingP.wf (p : AqRingP) : Bool :=
  fits [(8, p.ch), (8, p.ring), (8, p.kind), (8, p.log2Slots), (16, p.n), (8, p.vector), (8, p.statusEvery), (64, p.base),
    (64, p.statusAddr)]

def MChanP.wf (p : MChanP) : Bool :=
  fits [(8, p.ch), (8, p.en), (8, p.kind), (8, p.sensor), (8, p.respRec), (8, p.respAlm), (2, p.tempSrc), (4, p.tempCh), (32, p.fs)]
def CalP.wf (p : CalP) : Bool :=
  fits [(8, p.ch), (32, p.gainS), (32, p.gainR)] &&
  sfits [(32, p.offsetS), (32, p.offsetR), (32, p.phDelay), (32, p.phOfs), (32, p.tcA1), (32, p.tcA2), (32, p.tcB1), (32, p.tRef)]
def ElemP.wf (p : ElemP) : Bool :=
  fits [(8, p.el), (8, p.phases), (8, p.dir), (8, p.ulsb), (8, p.digits), (32, p.noloadVa)] && p.chans.length == 6 && fitsAll 8 p.chans
def PulseP.wf (p : PulseP) : Bool :=
  fits [(8, p.pulse), (8, p.en), (8, p.el), (8, p.reg), (8, p.widthMs), (8, p.pol), (32, p.kh)]
def VsP.wf (p : VsP) : Bool :=
  fits [(8, p.vs), (8, p.cls), (8, p.ref), (8, p.fnom), (16, p.rate), (16, p.phMask), (8, p.seqMask)]
def BallastP.wf (p : BallastP) : Bool := fits [(8, p.set), (8, p.en), (8, p.el), (8, p.mask)]
def MeterP.wf (p : MeterP) : Bool := fits [(8, p.nq), (8, p.sdclkEn), (16, p.saveS)]

def ImportP.wf (p : ImportP) : Bool := fits [(8, p.slot), (8, p.form), (8, p.wrapSlot), (8, p.alg), (8, p.usage)] && fitsAll 8 p.material
def LogP.wf (p : LogP) : Bool :=
  fits [(8, p.ecNq), (8, p.evNq), (16, p.scrubMs), (32, p.coalesceUs), (16, p.flushMs), (8, p.faultVec), (8, p.flushVec)]
def PowerP.wf (p : PowerP) : Bool := fits [(8, p.nq), (8, p.wakeEn), (32, p.delayMaxUs)]
def RefP.wf (p : RefP) : Bool := fits [(8, p.prefer), (8, p.singleRef), (8, p.singleSrc), (32, p.revertS)]

/-- An image's fixed fields (02 R74, R75). -/
def Image.wf (i : Image) : Bool := fits [(32, i.version), (96, i.digest12), (32, i.len)]

/-- A frame's fields on the wire (03 R86). -/
def Frame.wf (f : Frame) : Bool :=
  fits [(14, f.len), (48, f.dst), (48, f.src), (16, f.ethertype)] && f.tags.all (fun t => fits [(16, t.1), (12, t.2)])

/-- A stamp's position in the CLK_TIME period: 2.56 ns hold 8 steps of 0.32 ns (04 R130). -/
def Stamp.wf (t : Stamp) : Bool := t.sub < 8

/-- A received frame and its ingress. -/
def Arrival.wf (a : Arrival) : Bool := a.frame.wf && a.stamp.wf

/-- A host frame's fields. -/
def HostFrame.wf (f : HostFrame) : Bool := fits [(16, f.len), (16, f.ethertype), (16, f.udpDst.getD 0)]

/-- What the head of a PTP message says (04 R132): version and minor version are 4 bits, three transports. -/
def PtpForm.wf (m : PtpForm) : Bool := fits [(8, m.domain), (4, m.version), (4, m.minor)] && m.transport < 3

/-- The head of a PTP message on its port. -/
def PtpHead.wf (m : PtpHead) : Bool := m.port < 5 && m.toPtpForm.wf

/-- An Announce's fields (04 R133). -/
def Announce.wf (a : Announce) : Bool :=
  a.head.wf && fits [(64, a.gm), (16, a.steps), (80, a.sender), (8, a.prio1), (8, a.clockClass), (8, a.accuracy), (16, a.variance), (8, a.prio2),
    (2, a.leap)] && sfits [(16, a.utcOfs)]

/-- A management transaction: a 7-bit address on MI2C (02 R65). -/
def Mgmt.wf : Mgmt → Bool
  | .mspi => true
  | .mi2c a _ => a < 128

/-- A command is well formed. -/
def Instr.wf : Instr → Bool
  | .commandFetch n p _ => n < 16 && p.wf
  | .fenceRelease n => n < 16
  | .sysNop h | .sysIdentify h | .sysFreeze h | .sysThaw h | .cfgCommit h | .cfgDiscard h | .cfgStore h | .timeRead h
  | .timeMainRetest h | .timeStatus h | .timeClearCounters h | .topoRefactor h | .topoQuery h | .topoClearCounters h
  | .meterSave h | .meterQuery h | .vaultStatus h | .vaultRootGenerate h | .vaultTamperClear h | .vaultClearCounters h
  | .logFlush h | .logFaultClear h | .powerDoze h | .powerWake h | .powerQuery h | .powerRefSwitch h => h.wf
  | .sysQueryHandle h x | .sysCancel h x | .sysClearCounters h x | .logSpoolSeek h x => h.wf && fits [(32, x)]
  | .sysSetMode h x | .sysReset h x | .sysNqMark h x | .sysNqRewind h x | .cfgQuery h x | .portGateQuery h x
  | .portLinkStatus h x | .portClearCounters h x | .timeCmpDisarm h x | .timeCmpQuery h x | .timeHoldoverTest h x
  | .groupDelete h x | .groupQuery h x | .groupSessionDelete h x | .caravanEngineRetire h x | .caravanEngineRestore h x
  | .caravanQueryEngine h x | .topoCutsetDelete h x | .oscGroupDelete h x | .oscRestart h x | .oscQuery h x | .alarmAck h x
  | .acqDelete h x | .acqQuery h x | .acqGconfig h x | .meterVstreamRemove h x | .vaultTamperConfig h x | .vaultDebug h x
  | .vaultDestroy h x | .vaultSlotQuery h x | .vaultRandom h x | .logClearCounters h x | .powerPadRelease h x
  | .powerClearCounters h x => h.wf && fits [(8, x)]
  | .streamRemove h x | .streamRelease h x | .streamQuery h x | .caravanJobDelete h x | .caravanQueryJob h x
  | .oscSignalDelete h x | .alarmRuleDelete h x | .alarmRuleQuery h x | .acqClearCounters h x | .meterClearCounters h x
  | .logMacroQuery h x => h.wf && fits [(16, x)]
  | .sysNqRelease h q n => h.wf && fits [(8, q), (16, n)]
  | .cfgLoad h src addr len img => h.wf && fits [(8, src), (64, addr), (32, len)] && img.wf
  | .cfgReport h x addr len | .vaultSeal h x addr len => h.wf && fits [(8, x), (64, addr), (32, len)]
  | .portConfig h p => h.wf && p.wf
  | .portSetExact h port i en a => h.wf && fits [(8, port), (8, i), (8, en), (48, a)]
  | .portSetHash h p => h.wf && p.wf
  | .portSetVlan h p => h.wf && p.wf
  | .portSetIntake h port e => h.wf && fits [(8, port)] && e.length == 4 && e.all IntakeEntry.wf
  | .portSetPtMap h port m => h.wf && fits [(8, port), (32, m)]
  | .portPrpPair h p => h.wf && p.wf
  | .portMacsecCfg h p => h.wf && p.wf
  | .portSaInstall h p => h.wf && p.wf
  | .portSaActivate h a b c => h.wf && fits [(8, a), (8, b), (8, c)]
  | .portSaDestroy h a b c d => h.wf && fits [(8, a), (8, b), (8, c), (8, d)]
  | .portGateLoad h p => h.wf && p.wf
  | .timeConfig h p => h.wf && p.wf
  | .timeSource h a b r => h.wf && fits [(8, a), (8, b), (16, r)]
  | .timePtpConfig h p => h.wf && p.wf
  | .timePpsConfig h p => h.wf && p.wf
  | .timePortLatency h p => h.wf && p.wf
  | .timeSet h t => h.wf && t.wf
  | .timeUtcOffset h o v l => h.wf && sfits [(16, o)] && fits [(8, v), (8, l)]
  | .timeCmpArm h p => h.wf && p.wf
  | .streamInstall h p => h.wf && p.wf
  | .streamRekey h sid k id => h.wf && fits [(16, sid), (8, k), (32, id)]
  | .streamSetTimers h sid a b => h.wf && fits [(16, sid), (8, a), (16, b)]
  | .streamList h addr len => h.wf && fits [(64, addr), (32, len)]
  | .streamGconfig h p => h.wf && p.wf
  | .streamClearCounters h a b | .alarmClearCounters h a b => h.wf && fits [(16, a), (16, b)]
  | .groupDefine h p => h.wf && p.wf
  | .groupMembers h g op n sids => h.wf && fits [(8, g), (8, op), (16, n)] && sids.length == n && fitsAll 16 sids
  | .groupSetTiming h p => h.wf && p.wf
  | .groupSessionDefine h p => h.wf && p.wf
  | .groupSessionEnable h a b | .acqEnable h a b | .meterElementEnable h a b | .meterEnergyRead h a b =>
    h.wf && fits [(8, a), (8, b)]
  | .groupReadCell h g sid k addr len => h.wf && fits [(8, g), (16, sid), (64, k), (64, addr), (32, len)]
  | .groupClearCounters h m => h.wf && fits [(64, m)]
  | .groupGconfig h p => h.wf && p.wf
  | .caravanJobDefine h p => h.wf && p.wf
  | .caravanJobBind h j g en => h.wf && fits [(16, j), (8, g), (8, en)]
  | .caravanRun h j a => h.wf && fits [(16, j), (32, a)]
  | .caravanLevelConfig h p => h.wf && p.wf
  | .caravanClearCounters h m => h.wf && fits [(1024, m)]
  | .topoModelLoad h addr len _ _ _ => h.wf && fits [(64, addr), (32, len)]
  | .topoConfig h p => h.wf && p.wf
  | .topoCutsetDefine h p => h.wf && p.wf
  | .topoBranchForce h a b | .alarmForce h a b => h.wf && fits [(16, a), (8, b)]
  | .topoReadResult h i s addr len => h.wf && fits [(64, i), (8, s), (64, addr), (32, len)]
  | .oscConfig h p => h.wf && p.wf
  | .oscSignalDefine h p => h.wf && p.wf
  | .oscGroupDefine h p => h.wf && p.wf
  | .oscReadBands h a n d addr len => h.wf && fits [(16, a), (16, n), (8, d), (64, addr), (32, len)]
  | .oscReadModes h g d addr len => h.wf && fits [(8, g), (8, d), (64, addr), (32, len)]
  | .oscClearCounters h m => h.wf && fits [(128, m)]
  | .alarmRuleDefine h p => h.wf && p.wf
  | .alarmRuleEnable h a n en => h.wf && fits [(16, a), (16, n), (8, en)]
  | .alarmLineConfig h p => h.wf && p.wf
  | .alarmXtrigConfig h p => h.wf && p.wf
  | .acqChannelDefine h p => h.wf && p.wf
  | .acqRingDefine h p => h.wf && p.wf
  | .acqTrigger h m t => h.wf && fits [(16, m)] && t.wf
  | .meterChannelConfig h p => h.wf && p.wf
  | .meterCalibrate h p => h.wf && p.wf
  | .meterSensorTemp h ch t => h.wf && fits [(8, ch)] && sfits [(16, t)]
  | .meterElementDefine h p => h.wf && p.wf
  | .meterEnergySigned h m k addr len => h.wf && fits [(8, m), (8, k), (64, addr), (32, len)]
  | .meterEnergyPreset h e r o n => h.wf && fits [(8, e), (8, r), (32, o), (64, n)]
  | .meterPulseConfig h p => h.wf && p.wf
  | .meterVstreamDefine h p => h.wf && p.wf
  | .meterBallastDefine h p => h.wf && p.wf
  | .meterConfig h p => h.wf && p.wf
  | .vaultLifecycle h t _ => h.wf && fits [(8, t)]
  | .vaultOwnerLoad h _ => h.wf
  | .vaultGenerate h s a u l => h.wf && fits [(8, s), (8, a), (8, u), (8, l)]
  | .vaultDerive h s p a u l x => h.wf && fits [(8, s), (8, p), (8, a), (8, u), (8, l), (256, x)]
  | .vaultImport h p => h.wf && p.wf
  | .vaultExport h s w d addr len => h.wf && fits [(8, s), (8, w), (128, d), (64, addr), (32, len)]
  | .vaultAttest h s n addr len => h.wf && fits [(8, s), (256, n), (64, addr), (32, len)]
  | .logConfig h p => h.wf && p.wf
  | .logRead h a n addr len => h.wf && fits [(32, a), (16, n), (64, addr), (32, len)]
  | .logWrite h s a => h.wf && fits [(8, s), (56, a)]
  | .logInject h m w a b => h.wf && fits [(16, m), (16, w), (8, a), (8, b)]
  | .powerConfig h p => h.wf && p.wf
  | .powerRefConfig h p => h.wf && p.wf
  | .hiSqDbWrite n v | .hiCqDbWrite n v | .hiSqCfgWrite n v | .hiCqCfgWrite n v => n < 16 && fits [(32, v)]
  | .hiNqPopRead q n _ => q < 32 && n ≤ 8
  | .hiNqCfgWrite q v => q < 32 && fits [(32, v)]
  | .npPtDbWrite _ k v | .npPtCfgWrite _ k v => k < 8 && fits [(32, v)]
  | .tmFrcLoRead => true
  | .counterLowRead r => r.addr < 2 ^ 24
  | .amCountLowRead e r => e < 4 && r < 8
  | .siSelWrite v | .scSelWrite v | .alSelWrite v | .ovSelWrite v | .ecSelWrite v | .evSpoolCurWrite v => fits [(32, v)]
  | .registerWrite o v => o < 2 ^ 25 && fits [(32, v)]
  | .mspiStatus c => c.via.wf && fits [(8, c.cmd), (8, c.count)] && c.cmd != 0x03 && c.cmd != 0x40 && c.cmd != 0x41
  | .mbFetch m => m.wf
  | .mspiRead m o n => m.wf && fits [(16, o), (8, n)]
  | .mbSubmit m p => m.wf && p.wf
  | .flr _ => true
  | .nqTimeout q => q < 32
  | .rxFrame p a t => p < 5 && a.wf && t.all (fun b => p < 4 && b.wf)
  | .ptFrameDelivery k => k < 8
  | .ptTxChainFetch k p q f m _ _ _ => k < 8 && p < 5 && q < 8 && fits [(8, m)] && f.wf
  | .txFrameStart p q => p < 5 && q.queue < 8 && q.sub < 8
  | .gateBoundary p | .gateOperative p => p < 4
  | .linkStateChange p _ _ _ _ => p < 5
  | .ptpSyncRx m _ _ _ t => m.wf && t.wf
  | .ptpAnnounceRx a => a.wf
  | .ppsInEdge e => e.stamp.wf
  | .ppsLost => true
  | .todSentenceRx _ _ sec => sec < 2 ^ 48
  | .sourceLoss n => n < 3
  | .cmpFire n => n < 16
  | .siFrameParse n => n < 16
  | .streamTimerExpiry sid => sid < 16384
  | .instantOpen g | .earlyRelease g | .deadlineRelease g => g < 64
  | .publishInstant g k | .cellHoldExpiry g k | .instantRetire g k | .amendBatchClose g k => g < 64 && k < 2 ^ 40
  | .dispatchDecision => true
  | .itemCommit _ _ _ | .budgetOver _ | .takeoverResume _ | .checkpointWrite _ => true
  | .engineFault e _ | .fencedSelftestEnd e _ | .spareSelftest e _ => e < 66
  | .xtrigInEdge n _ t => n < 2 && t.wf
  | .xtrigInForwardedEdge n => n < 2
  | .aqRecordWrite r => r < 64
  | .sdSample ch _ _ _ _ | .tempStale ch => ch < 12
  | .energyBlockEnd e _ _ _ _ _ => e < 4
  | .pulseStart n | .pulseEnd n => n < 4
  | .periodicSave _ | .aliveStamp | .pfwNFall | .ballastWriteEnd | .pfwNRise => true
  | .pfwQualified d | .resetNQualified d => d ≤ 200
  | .zeroizeCause c => c < 7
  | .scrubRead m w | .correctionWriteback m w | .suspectExpiry m w | .controlDue m w | .jtagFrzMem m w => m < 1648 && w < 8192
  | .internalReset => true
  | .recordClose s c v => fits [(5, s), (8, c), (2, v)]
  | .flushMsExpiry | .evFlushEnd | .opsecTick | .handshakeDelayEnd => true
  | .handshakeAnswer a => match a with
    | .agree => true
    | .delay us => fits [(20, us)]
    | .refuse r => fits [(8, r)]
  | .wakeComplete _ l => l.all (· < 66)
  | .freezeNAssert _ | .resetTakesHold | .warmResetTakesHold | .cairnRelease | .mi2cAddressMatch => true
  | .boot e m _ _ img => e.all (· < 66) && m.all (· < 1648) && img.all Image.wf
  | .finalCompletion k _ => k < 2 ^ 32
  | .prpLanLost p l => p < 2 && l < 2
  | .prpEntryForget p a => p < 2 && a < 2 ^ 48
  | .prpSupervisionTx p => p < 2
  | .ptDescriptorTimeout k => k < 8
  | .ptpPdelayReqRx p m t => p < 5 && m.wf && t.wf
  | .ptpDelayReqRx m t => m.wf && t.wf
  | .ptpPathDelayRx m _ => m.wf
  | .ptpDelayReqTx p | .pdelayTimeout p => p < 5
  | .ptpMasterAnnounceTx | .ptpMasterSyncTx | .sourceRevert | .holdoverAgeing | .integSave | .leapApply | .timeCheckpoint
  | .residueMismatch | .timeSelftestEnd _ => true
  | .outputPulseEnd l => l < 3
  | .duneTick | .delayExpiry | .almStbDeferred => true
  | .vstreamReport r => r.vs < 8
  | .itemAging l => l < 12
  | .almPulseEnd l => l < 8
  | .entropyFail _ | .entropyRetest _ | .drbgReseed => true
  | .watchdogExpiry _ g => g < 64
  | .lifecycleWipe | .powerOnDetect _ | .pllRevert => true
  | .refFail a b | .refQualified a b => a < 2 && b < 2
  | .jtagExtest _ | .jtagIdcode | .jtagSamplePreload _ | .jtagClamp | .jtagHighz | .jtagFrzScan _ | .jtagBypass _ => true
  | .jtagFrzReg o => o < 2 ^ 16
  | .jtagDebug c => c < 256

end Sys2Proof
end

