-- ==== Sys2Proof/Machine/Sha.lean ====
section
/-! DEFINITION. SHA-256, SHA-384 and HMAC-SHA-256 (FIPS 180-4, FIPS 198-1), which owner digests, owner tags, key derivation
and signatures use (12 R382, R385, R396, R401). Byte strings are lists of bytes, the first one most significant (12 R384). -/

namespace Sys2Proof.Machine

/-- Round constants of SHA-256. -/
def sha256K : List Nat :=
  [0x428A2F98, 0x71374491, 0xB5C0FBCF, 0xE9B5DBA5, 0x3956C25B, 0x59F111F1, 0x923F82A4, 0xAB1C5ED5] ++
  [0xD807AA98, 0x12835B01, 0x243185BE, 0x550C7DC3, 0x72BE5D74, 0x80DEB1FE, 0x9BDC06A7, 0xC19BF174] ++
  [0xE49B69C1, 0xEFBE4786, 0x0FC19DC6, 0x240CA1CC, 0x2DE92C6F, 0x4A7484AA, 0x5CB0A9DC, 0x76F988DA] ++
  [0x983E5152, 0xA831C66D, 0xB00327C8, 0xBF597FC7, 0xC6E00BF3, 0xD5A79147, 0x06CA6351, 0x14292967] ++
  [0x27B70A85, 0x2E1B2138, 0x4D2C6DFC, 0x53380D13, 0x650A7354, 0x766A0ABB, 0x81C2C92E, 0x92722C85] ++
  [0xA2BFE8A1, 0xA81A664B, 0xC24B8B70, 0xC76C51A3, 0xD192E819, 0xD6990624, 0xF40E3585, 0x106AA070] ++
  [0x19A4C116, 0x1E376C08, 0x2748774C, 0x34B0BCB5, 0x391C0CB3, 0x4ED8AA4A, 0x5B9CCA4F, 0x682E6FF3] ++
  [0x748F82EE, 0x78A5636F, 0x84C87814, 0x8CC70208, 0x90BEFFFA, 0xA4506CEB, 0xBEF9A3F7, 0xC67178F2]

/-- Round constants of SHA-384. -/
def sha512K : List Nat :=
  [0x428A2F98D728AE22, 0x7137449123EF65CD, 0xB5C0FBCFEC4D3B2F, 0xE9B5DBA58189DBBC, 0x3956C25BF348B538] ++
  [0x59F111F1B605D019, 0x923F82A4AF194F9B, 0xAB1C5ED5DA6D8118, 0xD807AA98A3030242, 0x12835B0145706FBE] ++
  [0x243185BE4EE4B28C, 0x550C7DC3D5FFB4E2, 0x72BE5D74F27B896F, 0x80DEB1FE3B1696B1, 0x9BDC06A725C71235] ++
  [0xC19BF174CF692694, 0xE49B69C19EF14AD2, 0xEFBE4786384F25E3, 0x0FC19DC68B8CD5B5, 0x240CA1CC77AC9C65] ++
  [0x2DE92C6F592B0275, 0x4A7484AA6EA6E483, 0x5CB0A9DCBD41FBD4, 0x76F988DA831153B5, 0x983E5152EE66DFAB] ++
  [0xA831C66D2DB43210, 0xB00327C898FB213F, 0xBF597FC7BEEF0EE4, 0xC6E00BF33DA88FC2, 0xD5A79147930AA725] ++
  [0x06CA6351E003826F, 0x142929670A0E6E70, 0x27B70A8546D22FFC, 0x2E1B21385C26C926, 0x4D2C6DFC5AC42AED] ++
  [0x53380D139D95B3DF, 0x650A73548BAF63DE, 0x766A0ABB3C77B2A8, 0x81C2C92E47EDAEE6, 0x92722C851482353B] ++
  [0xA2BFE8A14CF10364, 0xA81A664BBC423001, 0xC24B8B70D0F89791, 0xC76C51A30654BE30, 0xD192E819D6EF5218] ++
  [0xD69906245565A910, 0xF40E35855771202A, 0x106AA07032BBD1B8, 0x19A4C116B8D2D0C8, 0x1E376C085141AB53] ++
  [0x2748774CDF8EEB99, 0x34B0BCB5E19B48A8, 0x391C0CB3C5C95A63, 0x4ED8AA4AE3418ACB, 0x5B9CCA4F7763E373] ++
  [0x682E6FF3D6B2B8A3, 0x748F82EE5DEFB2FC, 0x78A5636F43172F60, 0x84C87814A1F0AB72, 0x8CC702081A6439EC] ++
  [0x90BEFFFA23631E28, 0xA4506CEBDE82BDE9, 0xBEF9A3F7B2C67915, 0xC67178F2E372532B, 0xCA273ECEEA26619C] ++
  [0xD186B8C721C0C207, 0xEADA7DD6CDE0EB1E, 0xF57D4F7FEE6ED178, 0x06F067AA72176FBA, 0x0A637DC5A2C898A6] ++
  [0x113F9804BEF90DAE, 0x1B710B35131C471B, 0x28DB77F523047D84, 0x32CAAB7B40C72493, 0x3C9EBE0A15C9BEBC] ++
  [0x431D67C49C100D4C, 0x4CC5D4BECB3E42B6, 0x597F299CFC657E2A, 0x5FCB6FAB3AD6FAEC, 0x6C44198C4A475817]

/-- The parameters of one of the two functions: word bits, initial value, constants, and the rotations and shifts of its four
functions. -/
structure ShaParams where
  w : Nat
  init : List Nat
  k : List Nat
  big0 : List Nat
  big1 : List Nat
  small0 : List Nat
  small1 : List Nat
deriving DecidableEq, Repr

/-- SHA-256. -/
def sha256P : ShaParams :=
  { w := 32, init := [0x6A09E667, 0xBB67AE85, 0x3C6EF372, 0xA54FF53A, 0x510E527F, 0x9B05688C, 0x1F83D9AB, 0x5BE0CD19],
    k := sha256K, big0 := [2, 13, 22], big1 := [6, 11, 25], small0 := [7, 18, 3], small1 := [17, 19, 10] }

/-- SHA-384. -/
def sha384P : ShaParams :=
  { w := 64, init := [0xCBBB9D5DC1059ED8, 0x629A292A367CD507, 0x9159015A3070DD17, 0x152FECD8F70E5939,
      0x67332667FFC00B31, 0x8EB44A8768581511, 0xDB0C2E0D64F98FA7, 0x47B5481DBEFA4FA4],
    k := sha512K, big0 := [28, 34, 39], big1 := [14, 18, 41], small0 := [1, 8, 7], small1 := [19, 61, 6] }

/-- A word of `w` bits rotated right. -/
def rotr (w x n : Nat) : Nat := x >>> n ||| (x <<< (w - n)) % 2 ^ w

/-- The two upper-case functions: three rotations; and the lower-case ones: two rotations and a shift. -/
def bigSigma (w : Nat) (r : List Nat) (x : Nat) : Nat := rotr w x (r.getD 0 0) ^^^ rotr w x (r.getD 1 0) ^^^ rotr w x (r.getD 2 0)
def smallSigma (w : Nat) (r : List Nat) (x : Nat) : Nat := rotr w x (r.getD 0 0) ^^^ rotr w x (r.getD 1 0) ^^^ x >>> r.getD 2 0

/-- The message schedule, newest word first, extended by `n` words. -/
def shaSchedule (p : ShaParams) : Nat → List Nat → List Nat
  | 0, ws => ws
  | n + 1, ws =>
    shaSchedule p n ((smallSigma p.w p.small1 (ws.getD 1 0) + ws.getD 6 0 + smallSigma p.w p.small0 (ws.getD 14 0) + ws.getD 15 0)
      % 2 ^ p.w :: ws)

/-- One round on the eight working words. -/
def shaRound (p : ShaParams) (v : List Nat) (kw : Nat × Nat) : List Nat :=
  match v with
  | [a, b, c, d, e, f, g, h] =>
    let ch := (e &&& f) ^^^ ((2 ^ p.w - 1 - e) &&& g)
    let maj := (a &&& b) ^^^ (a &&& c) ^^^ (b &&& c)
    let t1 := h + bigSigma p.w p.big1 e + ch + kw.1 + kw.2
    let t2 := bigSigma p.w p.big0 a + maj
    [(t1 + t2) % 2 ^ p.w, a, b, c, (d + t1) % 2 ^ p.w, e, f, g]
  | _ => v

/-- One block of sixteen words enters the hash value. -/
def shaBlock (p : ShaParams) (h : List Nat) (block : List Nat) : List Nat :=
  let ws := (shaSchedule p (p.k.length - 16) block.reverse).reverse
  List.zipWith (fun x y => (x + y) % 2 ^ p.w) h ((p.k.zip ws).foldl (shaRound p) h)

/-- The number a list of bytes spells, the first one most significant. -/
def beNat (l : List Nat) : Nat := l.foldl (fun n b => 256 * n + b % 256) 0

/-- The big-endian bytes of a number. -/
def beBytes (n v : Nat) : List Nat := (leBytes n v).reverse

/-- Lists of `n` bytes, `count` of them. -/
def chunksOf (n : Nat) : Nat → List Nat → List (List Nat)
  | 0, _ => []
  | c + 1, l => l.take n :: chunksOf n c (l.drop n)

/-- The message padded to whole blocks. -/
def shaPad (p : ShaParams) (m : List Nat) : List Nat :=
  let b := 2 * p.w
  let lenBytes := p.w / 4
  let zeros := (b - (m.length + 1 + lenBytes) % b) % b
  m ++ [0x80] ++ List.replicate zeros 0 ++ beBytes lenBytes (8 * m.length)

/-- The words of the hash value of a message. -/
def shaWords (p : ShaParams) (m : List Nat) : List Nat :=
  let padded := shaPad p m
  let blocks := chunksOf (2 * p.w) (padded.length / (2 * p.w)) padded
  blocks.foldl (fun h b => shaBlock p h ((chunksOf (p.w / 8) 16 b).map beNat)) p.init

/-- SHA-256 and SHA-384 of a list of bytes. -/
def sha256 (m : List Nat) : List Nat := (shaWords sha256P m).flatMap (beBytes 4)
def sha384 (m : List Nat) : List Nat := ((shaWords sha384P m).take 6).flatMap (beBytes 8)

/-- OWNER_HASH of an owner public key X‖Y of 96 bytes (12 R382). -/
def ownerDigest (key : Nat) : Nat := beNat (sha384 (beBytes 96 key))

/-- HMAC-SHA-256 under a key of 32 bytes. -/
def hmacSha256 (key m : List Nat) : List Nat :=
  let pad := fun (x : Nat) => (key ++ List.replicate (64 - key.length) 0).map (fun b => b ^^^ x)
  sha256 (pad 0x5C ++ sha256 (pad 0x36 ++ m))

end Sys2Proof.Machine
end

