-- ==== Sys2Proof/Machine/Curve.lean ====
section
/-! DEFINITION. ECDSA on P-256 and P-384 (FIPS 186-5): public points, signatures and their verification, which owner tags,
attestations and signed energy statements use (12 R385, R386, R400, R401). Points are in Jacobian coordinates (X, Y, Z) with
x = X/Z^2 and y = Y/Z^3; Z = 0 is the point at infinity. -/

namespace Sys2Proof.Machine

/-- `k n`, with `n` evaluated first: it has no other meaning. -/
def force {α : Type} (n : Nat) (k : Nat → α) : α :=
  match n with
  | 0 => k 0
  | m + 1 => k (m + 1)

/-- A curve y^2 = x^3 - 3x + b over the field of `p` elements, its base point of order `n`, and the bytes of a coordinate. -/
structure Curve where
  p : Nat
  n : Nat
  gx : Nat
  gy : Nat
  bytes : Nat
deriving DecidableEq, Repr

/-- P-256. -/
def p256 : Curve :=
  { p := 0xFFFFFFFF00000001000000000000000000000000FFFFFFFFFFFFFFFFFFFFFFFF,
    n := 0xFFFFFFFF00000000FFFFFFFFFFFFFFFFBCE6FAADA7179E84F3B9CAC2FC632551,
    gx := 0x6B17D1F2E12C4247F8BCE6E563A440F277037D812DEB33A0F4A13945D898C296,
    gy := 0x4FE342E2FE1A7F9B8EE7EB4A7C0F9E162BCE33576B315ECECBB6406837BF51F5, bytes := 32 }

/-- P-384. -/
def p384 : Curve :=
  { p := 0xFFFFFFFFFFFFFFFFFFFFFFFFFFFFFFFFFFFFFFFFFFFFFFFFFFFFFFFFFFFFFFFEFFFFFFFF0000000000000000FFFFFFFF,
    n := 0xFFFFFFFFFFFFFFFFFFFFFFFFFFFFFFFFFFFFFFFFFFFFFFFFC7634D81F4372DDF581A0DB248B0A77AECEC196ACCC52973,
    gx := 0xAA87CA22BE8B05378EB1C71EF320AD746E1D3B628BA79B9859F741E082542A385502F25DBF55296C3A545E3872760AB7,
    gy := 0x3617DE4A96262C6F5D9E98BF9292DC29F8F41DBD289A147CE9DA3113B5F0B8C00A60B1CE1D7E819D7A431D7C90EA0E5F, bytes := 48 }

/-- A point. -/
structure Point where
  x : Nat
  y : Nat
  z : Nat
deriving DecidableEq, Repr

/-- The point at infinity. -/
def Point.zero : Point := ⟨1, 1, 0⟩

/-- The difference of two residues. -/
def subMod (p a b : Nat) : Nat := (a + (p - b % p)) % p

/-- A point twice. -/
def Point.double (c : Curve) (q : Point) : Point :=
  force (q.y * q.y % c.p) fun yy => force (q.z * q.z % c.p) fun zz =>
  force (4 * q.x * yy % c.p) fun v => force (3 * (q.x + zz) * subMod c.p q.x zz % c.p) fun m =>
  force (subMod c.p (m * m) (2 * v)) fun x =>
  force (subMod c.p (m * subMod c.p v x) (8 * yy * yy)) fun y =>
  force (2 * q.y * q.z % c.p) fun z => ⟨x, y, z⟩

/-- The sum of two points. -/
def Point.add (c : Curve) (q r : Point) : Point :=
  if q.z == 0 then r
  else if r.z == 0 then q
  else
    force (q.z * q.z % c.p) fun qz => force (r.z * r.z % c.p) fun rz =>
    force (q.x * rz % c.p) fun u => force (subMod c.p (r.x * qz) u) fun h =>
    force (q.y * rz * r.z % c.p) fun v => force (subMod c.p (r.y * qz * q.z) v) fun m =>
    if h == 0 then (if m == 0 then q.double c else .zero)
    else
      force (h * h % c.p) fun hh => force (hh * h % c.p) fun hhh => force (u * hh % c.p) fun w =>
      force (subMod c.p (m * m) (hhh + 2 * w)) fun x =>
      force (subMod c.p (m * subMod c.p w x) (v * hhh)) fun y =>
      force (h * q.z * r.z % c.p) fun z => ⟨x, y, z⟩

/-- The highest `k` bits of a number from bit `k - 1` down: `k` doublings of an accumulator, with an addition at each 1. -/
def Point.mulFrom (c : Curve) (q : Point) (d : Nat) : Nat → Point → Point
  | 0, a => a
  | k + 1, a => Point.mulFrom c q d k (if d.testBit k then (a.double c).add c q else a.double c)

/-- The multiple `d` of a point. -/
def Point.mul (c : Curve) (d : Nat) (q : Point) : Point := Point.mulFrom c q d (8 * c.bytes) .zero

/-- `x` to a power `e` modulo `m`, from bit `k - 1` of `e` down. -/
def powFrom (m x e : Nat) : Nat → Nat → Nat
  | 0, a => a
  | k + 1, a => force (if e.testBit k then a * a % m * x % m else a * a % m) (powFrom m x e k)

/-- The inverse of `x` modulo a prime `m` of at most 384 bits (Fermat). -/
def invMod (m x : Nat) : Nat := powFrom m (x % m) (m - 2) 384 1

/-- The affine coordinates of a point that is not at infinity. -/
def Point.affine (c : Curve) (q : Point) : Nat × Nat :=
  force (invMod c.p q.z) fun i => force (i * i % c.p) fun ii => (q.x * ii % c.p, q.y * ii * i % c.p)

/-- The base point of a curve. -/
def Curve.base (c : Curve) : Point := ⟨c.gx, c.gy, 1⟩

/-- The public key X‖Y of a private key (12 R384). -/
def publicKey (c : Curve) (d : Nat) : List Nat :=
  let q := ((c.base).mul c d).affine c
  beBytes c.bytes q.1 ++ beBytes c.bytes q.2

/-- The digest an ECDSA signature is made over: SHA-256 for P-256, SHA-384 for P-384 (12 R401). -/
def Curve.digest (c : Curve) (m : List Nat) : Nat := beNat (if c.bytes == 32 then sha256 m else sha384 m)

/-- The signature r‖s of a message under a private key with a nonce. -/
def ecdsaSign (c : Curve) (d nonce : Nat) (m : List Nat) : List Nat :=
  let k := nonce % (c.n - 1) + 1
  let r := (((c.base).mul c k).affine c).1 % c.n
  beBytes c.bytes r ++ beBytes c.bytes (invMod c.n k * (c.digest m + r * d) % c.n)

/-- A signature r‖s of a message verifies under a public key X‖Y. -/
def ecdsaVerify (c : Curve) (key m sig : List Nat) : Bool :=
  let r := beNat (sig.take c.bytes)
  let s := beNat (sig.drop c.bytes)
  let q : Point := ⟨beNat (key.take c.bytes), beNat (key.drop c.bytes), 1⟩
  let w := invMod c.n s
  let t := ((c.base).mul c (c.digest m * w % c.n)).add c (q.mul c (r * w % c.n))
  sig.length == 2 * c.bytes && 0 < r && r < c.n && 0 < s && s < c.n && t.z != 0 && (t.affine c).1 % c.n == r

end Sys2Proof.Machine
end

