-- ==== Sys2Proof/Config.lean ====
section
/-! DEFINITION. What the spec leaves to the implementation: numeric values of functions whose rounding, coefficients or
program the manual does not give. Each is an uninterpreted constant, so nothing can be proved of its value; the
assumption log names each (notes/assumptions). -/

namespace Sys2Proof

/-- The angle of the complex number 0 in 2^-64 turn: no rule gives it (R270, R293, R319). FREE VALUE. -/
opaque Config.angleOfZero : Int

/-- The error a conversion may add before rounding, in units of 2^-32 LSB, for the n-th conversion; the model holds it
within the bound of R174. FREE VALUE. -/
opaque Config.convErr : Nat → Int

/-- A value that is undefined or left open, fresh at each use: the n-th such value (keys drawn from the DRBG, measured
durations, filter outputs). FREE VALUE. -/
opaque Config.free : Nat → Nat

/-- The built-in path latency of a line mode (04 R130), receive or transmit, 2^-16 ns: the manual gives no number. -/
opaque Config.lineLatency : Nat → Bool → Int

/-- DEVICE_UID, written at manufacture (R382): 128 bits. Implementation constant. -/
opaque Config.deviceUid : Nat

/-- The 32-bit JTAG device identification, which the boundary-scan description file gives (Table 14-9).
Implementation constant. -/
opaque Config.idcode : Nat

/-- Bytes a Routable-SV frame carries around its dataset, from session header to ASDU framing, by svID length and signature:
no rule gives its encoding (06 R214, R215). Implementation constant. -/
opaque Config.rsvOverhead : Nat → Nat → Nat

/-- The taps, in 2^-40, of the decimation FIR that ROM holds for a source rate (09 R297), by the distance of an input from the
decimated tag in 1 / (25 x rate) s: the manual bounds its response and gives no coefficient. Implementation constant. -/
opaque Config.firTap : Nat → Nat → Int

/-- The delay, in 2^-16 ns, of an ALARM response of ROM at a frequency in 1/4000 Hz: the phase of its filter, which the manual
leaves to ROM (11 R354, R357, Table 11-2). Implementation constant. -/
opaque Config.almDelay : Nat → Int → Int

/-- FNOM of an element that no virtual stream refers to is 60 Hz, else 50 Hz: no rule names it (11 R365). Implementation
constant. -/
opaque Config.meterAt60 : Bool

/-- ln(0), and PEAK_RATIO of data without power beside the mode: no rule gives them (09 R301, R309). FREE VALUES. -/
opaque Config.lnOfZero : Int
opaque Config.peakOfNone : Nat

/-- The NaN a published float carries (06 Table 6-7): the manual names no code among them. FREE VALUE. -/
opaque Config.nan : Nat

/-- value / FACTOR for a FACTOR that is zero, NaN or infinite (06 Table 6-7): no rule gives it. FREE VALUE. -/
opaque Config.overZero : Nat

/-- The hash bucket, of 4,096, of a stream key: source address, UDP port, IDCODE or svID (05 R160). Implementation
constant. -/
opaque Config.streamBucket : Nat → Nat → Nat → List Nat → Nat

/-- The MAC of an R-SV frame under a key: what surrounds and separates the fields it covers has no contents in the manual
(06 R214). Implementation constant. -/
opaque Config.sealed : Nat → List Nat → Nat

/-- Which of the D_CORE memories of Table 13-1 a macro number and word belong to: 0 a control memory, 1 a notice queue, 2
the AQ staging buffer, 3 the EV volatile buffer, 4 a key slot; no rule gives the map. Implementation constant. -/
opaque Config.coreMemory : Nat → Nat → Nat

/-- The 8 check bits of 72 data bits at an address of a macro (13 R413): no rule gives the code. Implementation constant. -/
opaque Config.checkBits : Nat → Nat → Nat

/-- The code word, of 80 bits, that a frozen macro holds where no rule gives the placement of state in it, and the bits a frozen
scan chain shifts out, in a freeze at an FRC count. Implementation constants. -/
opaque Config.codeWord : Nat → Nat → Nat → Nat
opaque Config.scanChain : Nat → Nat → Nat

/-- The CFG.LOAD status that an image the BOOT ROM cannot read at all leaves as ARG of its record, and the CODE and
severity of that record, which no rule gives: CODE in [7:0], severity in [9:8]. FREE VALUE. -/
opaque Config.imageFail : Nat

/-- Severity of the ENERGY_PRESET record (13 Table 13-6), which no rule gives. FREE VALUE. -/
opaque Config.presetSeverity : Nat

/-- The run time, in ns, of a slow node's update at GANG 16 (09 R311), by the signals, WINDOW, ORDER and HANKEL_ROWS of each of
its groups: no rule gives it. Implementation constant. -/
opaque Config.slowNodeNs : List (Nat × Nat × Nat × Nat) → Nat

/-- A float32 code read as a ratio: numerator and positive denominator. -/
structure Ratio where
  num : Int
  den : Nat
deriving DecidableEq, Repr

/-- The exact value of a finite float32 code; NaN and infinities are tested before. -/
def float32 (v : Nat) : Ratio :=
  let e := bits v 23 8
  let m := if e = 0 then bits v 0 23 else bits v 0 23 + 2 ^ 23
  let x := if e = 0 then 1 else e
  let sg : Int := if bit v 31 then -1 else 1
  if x ≥ 150 then ⟨sg * (m * 2 ^ (x - 150) : Nat), 1⟩ else ⟨sg * (m : Nat), 2 ^ (150 - x)⟩

def isNaN (v : Nat) : Bool := bits v 23 8 == 255 && bits v 0 23 != 0
def isInf (v : Nat) : Bool := bits v 23 8 == 255 && bits v 0 23 == 0

end Sys2Proof
end

