-- ==== Sys2Proof/Machine/State.lean ====
section
/-! DEFINITION. The state of the GX9: every register, table, buffer, queue, mode and pin the manual gives the device, as
plain data, with its reset value, and the queue of waiting commands. Each field's docstring gives width, rule and reset
value in brackets (INVENTORY.md lists them). A field whose bracket says `model` is the model's own (notes/assumptions). -/

namespace Sys2Proof.Machine

/-- Why a step faults. The manual gives every command an effect, so nothing of the model raises a fault (NOTES.md, Stops);
safe. -/
inductive Fault where
  /-- Kept for an access the manual says does not exist; raised by no meaning. Safe. -/
  | noSuchObject
deriving DecidableEq, Repr

/-- Why a command is turned away. -/
inductive Refusal where
  /-- Raised by an arm of `exec` whose command has no meaning yet. Safe. -/
  | notModelled (mnemonic : String)
deriving DecidableEq, Repr

/-- The modes of Table 1-8, in code order. -/
inductive Mode where
  | boot | provision | commission | run | holdover | degraded | doze | frozen
deriving DecidableEq, Repr

/-- Time quality TQ (Table 2-2); code 6 is reserved and never shown. -/
inductive Tq where
  | lockedFine | locked | holdFresh | holdAged | freerun | fallback | invalid
deriving DecidableEq, Repr

/-- The lifecycle states (12 R402). -/
inductive Lifecycle where
  | blank | provisioned | operational | retired
deriving DecidableEq, Repr

/-- The stage of an accepted operation (R500, R60). -/
inductive Phase where
  | running | committed | waking
deriving DecidableEq, Repr

/-! ### Host interface (chapter 02) -/

/-- A command packet fetched from a ring and not yet dispatched. -/
structure Fetched where
  /-- [64 B; 02 R48; model] the head of the packet, as its bytes gave it -/
  head : PacketHead
  /-- [1; 02 R57; model] its FENCE has been released -/
  released : Bool
  /-- [1; 02 R38; model] an FLR came after its fetch: it runs, its completions are discarded -/
  dead : Bool
deriving DecidableEq, Repr

/-- A completion record (Table 2-9a); RESULT as its 16 bytes. -/
structure Record where
  handle : Nat
  status : Nat
  stag : Nat
  sec : Nat
  ns : Nat
  result : List Nat
deriving DecidableEq, Repr

/-- Ring pair n (02 R43). -/
structure Ring where
  /-- [64; 02 R43 Table 2-3; reset none given: DESIGN CHOICE 0] HI_SQ_BASE -/
  sqBase : Nat
  /-- [1; 02 R43 Table 2-5; reset 0] SQ EN -/
  sqEn : Bool
  /-- [1; 02 R44 Table 2-5; reset 0] SQ FAULT -/
  sqFault : Bool
  /-- [4; 02 R43 Table 2-5; reset 2] SQ LOG2_DEPTH -/
  sqLog2 : Nat
  /-- [4; 02 R47 Table 2-5; reset 0] WEIGHT -/
  sqWeight : Nat
  /-- [16; 02 R43; reset none given: DESIGN CHOICE 0] SQ_HEAD -/
  sqHead : Nat
  /-- [16; 02 R43; reset none given: DESIGN CHOICE 0] SQ tail -/
  sqTail : Nat
  /-- [64; 02 R43 Table 2-3; reset none given: DESIGN CHOICE 0] HI_CQ_BASE -/
  cqBase : Nat
  /-- [1; 02 R43 Table 2-6; reset 0] CQ EN -/
  cqEn : Bool
  /-- [4; 02 R43 Table 2-6; reset 2] CQ LOG2_DEPTH -/
  cqLog2 : Nat
  /-- [16; 02 R43; reset none given: DESIGN CHOICE 0] CQ head -/
  cqHead : Nat
  /-- [16; 02 R43; reset none given: DESIGN CHOICE 0] CQ_TAIL -/
  cqTail : Nat
  /-- [32; 02 R45; reset none given: DESIGN CHOICE 0] CQ_COUNT -/
  cqCount : Nat
  /-- [64; 02 R43 Table 2-3; reset none given: DESIGN CHOICE 0] HI_SB_BASE -/
  sbBase : Nat
  /-- [list; 02 R46; reset empty] commands fetched and not dispatched, oldest first -/
  fetched : List Fetched
  /-- [list; 02 R46; reset empty; model] completion records that wait for their ring, with whether the vector fires, oldest
  first -/
  outbox : List (Record × Bool)
deriving DecidableEq, Repr

def Ring.reset : Ring := ⟨0, false, false, 2, 0, 0, 0, 0, false, 2, 0, 0, 0, 0, [], []⟩

/-- An outstanding handle and its operation (02 R54, R39, R500). -/
structure OpEntry where
  /-- [32; 02 R54] the handle: class byte and sequence -/
  handle : Nat
  /-- [8; 02 R54] ring or mailbox of the command -/
  src : Src
  /-- [8; 02 R54] STAG -/
  stag : Nat
  /-- [16; 02 R53] opcode -/
  opcode : Nat
  /-- [packet; 02 R54] the command itself -/
  cmd : Instr
  /-- [2; 02 R500] running, past its commit point, or awaiting wake -/
  phase : Phase
  /-- [1; 02 R39] detached by an FLR or PERST_N -/
  detached : Bool
  /-- [64; 02 R500 Table 2-15a] progress: done -/
  done : Nat
  /-- [64; 02 R500 Table 2-15a] progress: total -/
  total : Nat
  /-- [time; 02 R499; model] FRC count at its ACCEPTED -/
  since : Nat
deriving DecidableEq, Repr

/-- A notice queue (02 R68 to R71). -/
structure Nq where
  /-- [1; 02 R71 Table 2-13; reset 0] EN -/
  en : Bool
  /-- [10; 02 R71 Table 2-13; reset 0] THRESH -/
  thresh : Nat
  /-- [20; 02 R71 Table 2-13; reset 0] TIMEOUT_US -/
  timeoutUs : Nat
  /-- [count; 02 R69; reset 0] w, the next write; modulo 2^16 it is QSEQ -/
  w : Nat
  /-- [count; 02 R69; reset 0] r, the next read -/
  r : Nat
  /-- [count; 02 R69; reset 0] l, the oldest held entry -/
  l : Nat
  /-- [count; 02 R69; reset 0] m, the mark -/
  m : Nat
  /-- [1; 02 R69 Table 2-14; reset 0] MARK_VALID -/
  markValid : Bool
  /-- [1; 02 R69 Table 2-14; reset 0] MARK_LOST -/
  markLost : Bool
  /-- [48+1; 02 R70; reset 0] HI_NQ_LOST with OVF at bit 63 -/
  lost : Nat
  /-- [1024 x 64; 02 R68; reset empty] the held entries l to w - 1, oldest first -/
  held : List Nat
  /-- [time; 02 R71; reset stopped] FRC count at which the pop timer last started -/
  timer : Option Nat
  /-- [1; 02 R71; reset 0] the THRESH condition has fired and not cleared -/
  firedThresh : Bool
  /-- [1; 02 R71; reset 0] the TIMEOUT condition has fired and not cleared -/
  firedTimeout : Bool
deriving DecidableEq, Repr

def Nq.reset : Nq := ⟨false, 0, 0, 0, 0, 0, 0, false, false, 0, [], none, false, false⟩

/-- What an MI2C write transfer selects for the reads after it (Table 2-9b). -/
inductive MgmtSel where
  | status
  | read (offset : Nat)
  | submit
  | fetch
  | unknown
deriving DecidableEq, Repr

/-- The mailbox of 02 R67 and the MI2C target's selection. -/
structure Mailbox where
  /-- [64 B; 02 R67; reset none waiting] the command awaiting its first completion (MB_BUSY), by its head -/
  cmd : Option PacketHead
  /-- [8 records; 02 R67; reset empty] completion FIFO, oldest first -/
  fifo : List Record
  /-- [1; 02 R67 Table 2-9; reset 0] MB_OVR -/
  ovr : Bool
  /-- [transfer; 02 R66; reset none; model] the MI2C transfer whose later bytes wait for the wake -/
  held : Option Instr
  /-- [command byte, offset; 02 R65; reset none given: DESIGN CHOICE STATUS] command of the last MI2C write transfer -/
  sel : MgmtSel
deriving DecidableEq, Repr

/-- An entry of the MSI-X table in BAR2: message address, message data, vector control (02 R37, R59). -/
structure MsixEntry where
  addr : Nat
  data : Nat
  control : Nat
deriving DecidableEq, Repr

/-- The host interface HI. -/
structure Hi where
  /-- [16 pairs; 02 R43; reset each Ring.reset] ring pairs, unlisted ones at reset -/
  rings : Tbl Ring
  /-- [1; 02 R42 Table 2-4; reset 0] HI_ERR OFF_ACCESS -/
  offAccess : Bool
  /-- [1; 02 R42 Table 2-4; reset 0] HI_ERR LOCK_ACCESS -/
  lockAccess : Bool
  /-- [1; 02 R42 Table 2-4; reset 0] HI_ERR RING_FAULT -/
  ringFault : Bool
  /-- [1; 02 R42 Table 2-4; reset 0] HI_ERR DMA_FAULT -/
  dmaFault : Bool
  /-- [1; 02 R42 Table 2-4; reset 0] HI_ERR NQ_WIDTH -/
  nqWidth : Bool
  /-- [4; 02 R42 Table 2-4; reset 0] HI_ERR FAULT_RING -/
  faultRing : Nat
  /-- [1,024; 02 R54 R55; reset empty] outstanding handles, oldest first -/
  ops : List OpEntry
  /-- [24; 02 R54; reset 0x000001] handle sequence counter -/
  seq : Nat
  /-- [1 command, 8 records; 02 R67; reset empty] mailbox -/
  mb : Mailbox
  /-- [64 x 128; 02 R37; reset none given: DESIGN CHOICE 0] MSI-X table, unlisted vectors 0 -/
  msix : Tbl MsixEntry
  /-- [64; 02 R37; reset none given: DESIGN CHOICE 0] MSI-X pending-bit array -/
  pba : Nat
  /-- [32; 02 R41; reset none given: DESIGN CHOICE 0] D_AON copy of HI_LSW as CLK_CORE last updated it before it stopped -/
  lswCopy : Nat
  /-- [32 queues; 02 R68; reset each Nq.reset] notice queues, unlisted ones at reset -/
  nqs : Tbl Nq
  /-- [1; 02 R47; reset none given: DESIGN CHOICE 0] ring 0 was served last of ring 0 and the mailbox -/
  lastRing0 : Bool
  /-- [4; 02 R47; reset none given: DESIGN CHOICE 1] ring whose arbitration turn it is among 1 to 15 -/
  turn : Nat
  /-- [4; 02 R47; reset none given: DESIGN CHOICE 0] commands it has dispatched in this turn -/
  turnUsed : Nat
deriving DecidableEq, Repr

def Hi.reset : Hi :=
  { rings := [], offAccess := false, lockAccess := false, ringFault := false, dmaFault := false, nqWidth := false,
    faultRing := 0, ops := [], seq := 1, mb := ⟨none, [], false, none, .status⟩, msix := [], pba := 0, lswCopy := 0, nqs := [], lastRing0 := false, turn := 1, turnUsed := 0 }

/-- Configuration images (02 R75 to R78). -/
structure CfgSt where
  /-- [image; 02 R75; reset none] the staged image -/
  staged : Option Image
  /-- [1; 02 R75; reset 0] an active configuration has been committed since BOOT -/
  activeValid : Bool
  /-- [32; 02 R74; reset none given: DESIGN CHOICE 0] IMAGE_VERSION of the active configuration -/
  version : Nat
  /-- [96; 02 R74; reset none given: DESIGN CHOICE 0] first 12 bytes of the active image's SHA-384 digest -/
  digest12 : Nat
  /-- [1; 00 Table 0-5, 02 R78; reset 0] RWL registers are locked -/
  locked : Bool
  /-- [pages; 07 R244; reset 0] Playa pages of the active program table -/
  programPages : Nat
deriving DecidableEq, Repr

def CfgSt.reset : CfgSt := ⟨none, false, 0, 0, false, 0⟩

/-! ### Memory integrity and event log (chapter 13) -/

/-- What EC keeps of one macro (Table 13-9); a fault-free macro is not listed. -/
structure Macro where
  /-- [1; 13 R417 Table 13-9; reset 0] its checker failed the self-test of the last BOOT: CHECKER_OK is clear -/
  checkerBad : Bool
  /-- [2; 13 R421 Table 13-9; reset 0] FUSE_SPARES -/
  fuseSpares : Nat
  /-- [1; 13 R421 Table 13-9; reset 0] FIELD_USED -/
  fieldUsed : Bool
  /-- [6; 13 R421 Table 13-9; reset 0] FIELD_ROW -/
  fieldRow : Nat
  /-- [1; 13 R420 Table 13-9; reset 0] PENDING -/
  markPending : Bool
  /-- [6; 13 R420 Table 13-9; reset 0] PENDING_ROW -/
  pendingRow : Nat
  /-- [15; 13 Table 13-9; reset 0] CE, corrected words since BOOT, saturating -/
  ce : Nat
  /-- [32; 13 R441; reset 0] hard faults since BOOT -/
  hard : Nat
  /-- [1; 13 R423; reset 0] REPAIR_EXHAUSTED has been reported -/
  exhausted : Bool
  /-- [count; 13 R418; reset 0] pass x 8,192 + word of the earliest read the scrubber has still to make -/
  scrubbed : Nat
deriving DecidableEq, Repr

def Macro.reset : Macro := ⟨false, 0, false, 0, false, 0, 0, 0, false, 0⟩

/-- An entry of the suspect table (13 R420), with the FRC count at which it entered. -/
structure Suspect where
  mac : Nat
  word : Nat
  since : Nat
deriving DecidableEq, Repr

/-- Memory integrity EC. -/
structure Ec where
  /-- [5; 13 R438 Table 13-8; reset 0] NQ -/
  nq : Nat
  /-- [11; 13 R418 Table 13-8; reset 0x3E8] SCRUB_MS -/
  scrubMs : Nat
  /-- [1,648; 13 R414 Table 13-9; reset each Macro.reset] macros -/
  macros : Tbl Macro
  /-- [per word; 13 R413 R441; reset empty] flipped stored bits, by macro x 8,192 + word -/
  flips : Tbl (List Nat)
  /-- [256; 13 R420; reset empty] suspect table, oldest first -/
  suspects : List Suspect
  /-- [32; 13 R438 Table 13-7; reset none given: DESIGN CHOICE 0] EC_LAST_CE -/
  lastCe : Nat
  /-- [32; 13 R438 Table 13-7; reset none given: DESIGN CHOICE 0] EC_LAST_DUE -/
  lastDue : Nat
  /-- [11; 13 R438 Table 13-7; reset none given: DESIGN CHOICE 0] EC_SEL -/
  sel : Nat
  /-- [32; 13 R438 Table 13-9; reset 0] EC_MACRO -/
  selMacro : Nat
  /-- [time; 13 R440; reset none] FRC count of the last DUE notice -/
  lastDueNote : Option Nat
  /-- [time; 13 R418; reset 0] FRC count of the end of BOOT: passes count from it (EC_STAT) -/
  bootEnd : Nat
  /-- [1; 13 R417 Table 13-9; reset 0] the self-test of a BOOT has run: CHECKER_OK of a sound macro reads 1 from then on -/
  tested : Bool
  /-- [count; 13 R418; reset 0] the latest pass counted in EC_SCRUB_LATE, plus 1 -/
  latePass : Nat
deriving DecidableEq, Repr

def Ec.reset : Ec := ⟨0, 1000, [], [], [], 0, 0, 0, 0, none, 0, false, 0⟩

/-- An event record (Table 13-5) with its extension payload; SEQ is given at the write to Cairn. -/
structure EvRec where
  opsec : Nat
  pcc : Nat
  severity : Nat
  tq : Nat
  timeValid : Bool
  sec : Nat
  ns : Nat
  source : Nat
  code : Nat
  rpt : Nat
  arg : Nat
  ext : Option (List Nat)
deriving DecidableEq, Repr

/-- An open record and the FRC count of its first report (13 R431). -/
structure OpenRec where
  entry : EvRec
  opened : Nat
deriving DecidableEq, Repr

/-- A record in the volatile buffer; `inFlush` marks those the running flush writes. -/
structure BufRec where
  entry : EvRec
  inFlush : Bool
deriving DecidableEq, Repr

/-- One 32-byte record of the Cairn log: its SEQ and the record, or the extension payload of the one before. -/
structure LogRec where
  seq : Nat
  entry : EvRec
  isExt : Bool
  /-- [per 64-bit word; 13 R425; none when written] wrong bits of each word that has any -/
  flips : List Nat
deriving DecidableEq, Repr

/-- Event log EV. -/
structure Ev where
  /-- [5; 13 R438 Table 13-10; reset 0] NQ -/
  nq : Nat
  /-- [20; 13 R431 Table 13-10; reset 0x3E8] COALESCE_US -/
  coalesceUs : Nat
  /-- [10; 13 R433 Table 13-7; reset 10] FLUSH_MS -/
  flushMs : Nat
  /-- [6; 13 R438 Table 13-7; reset none given: DESIGN CHOICE 0 (none)] FAULT_VEC -/
  faultVec : Nat
  /-- [6; 13 R438 Table 13-7; reset none given: DESIGN CHOICE 0 (none)] FLUSH_VEC -/
  flushVec : Nat
  /-- [16 records; 13 R431; reset empty] open records, oldest first -/
  opens : List OpenRec
  /-- [4,096 records; 13 R432; reset empty] volatile buffer, oldest first -/
  buffer : List BufRec
  /-- [1; 13 R433 Table 13-11; reset 0] FLUSHING -/
  flushing : Bool
  /-- [1; 13 R433; reset 0] a trigger came while a flush ran: another follows it -/
  flushAgain : Bool
  /-- [time; 13 R433; reset 0] FRC count of the last flush or flush trigger -/
  lastFlush : Nat
  /-- [4; 13 R432; reset 0] severities lost in the open episode -/
  lostMask : Nat
  /-- [1; 13 R432; reset 0] a lost-record episode is open -/
  lostOpen : Bool
  /-- [1; 13 R428; reset 0] FAULT_LATCHED -/
  faultLatched : Bool
  /-- [time; 13 R428; reset none] FRC count at which a severity-3 record last set FAULT_LATCHED -/
  faultAt : Option Nat
  /-- [32; 13 R435 Table 13-7; reset 0 until the end of BOOT] EV_SPOOL_CUR -/
  cur : Nat
  /-- [16 x 32 B; 13 R435; reset empty] Spool slots filled, by slot number -/
  spool : Tbl LogRec
deriving DecidableEq, Repr

def Ev.reset : Ev := ⟨0, 1000, 10, 0, 0, [], [], false, false, 0, 0, false, false, none, 0, []⟩

/-! ### Modes, power, clocks, pins and JTAG (chapters 14 and 15) -/

/-- The sleep handshake in progress (14 R452). -/
structure Handshake where
  /-- [32; 14 R452] handle of the POWER.DOZE -/
  handle : Nat
  /-- [3; 14 R452 Table 14-7] order of the block asked, 1 to 8; 0 before PM asks the first -/
  order : Nat
  /-- [1; 14 R453] the block asked is in a DELAY -/
  delaying : Bool
  /-- [32; 14 R453] sum of its delays, us -/
  delaySum : Nat
  /-- [time; 14 R453] FRC count at which its delay ends -/
  delayEnd : Nat
deriving DecidableEq, Repr

/-- The mode controller and power manager PM. -/
structure Pm where
  /-- [3; 02 R40, 14 R442; reset BOOT] MODE -/
  mode : Mode
  /-- [3; 14 R442 Table 14-11; reset 000] RETURN_MODE -/
  returnMode : Mode
  /-- [3; 14 R442; reset 000; model] RETURN_MODE of the DOZE that a freeze interrupted -/
  dozeReturn : Mode
  /-- [state; 14 R452 Table 14-11; reset none] sleep handshake (HANDSHAKE) -/
  hs : Option Handshake
  /-- [5; 14 Table 14-11; reset 0] HS_BLOCK -/
  hsBlock : Nat
  /-- [8; 14 Table 14-11; reset 0] HS_REASON -/
  hsReason : Nat
  /-- [4; 14 Table 14-11; reset 0] WAKE_CAUSE -/
  wakeCause : Nat
  /-- [1; 14 R460; reset 0] a wake is in progress -/
  waking : Bool
  /-- [5; 14 R473 Table 14-12; reset 0] NQ -/
  nq : Nat
  /-- [1; 14 Table 14-12; reset 1] MI2C_WAKE_EN -/
  mi2cWake : Bool
  /-- [20; 14 R453 Table 14-12; reset 10,000] DELAY_MAX_US -/
  delayMax : Nat
  /-- [1; 14 Table 14-10, 01 Table 1-2; reset none given: DESIGN CHOICE 0 (NP is off in BOOT, Table 14-3)] D_PORTS on -/
  domPorts : Bool
  /-- [1; 14 Table 14-10, 01 Table 1-2; reset none given: DESIGN CHOICE 1] D_ERG on -/
  domErg : Bool
  /-- [1; 14 Table 14-10, 01 Table 1-2; reset none given: DESIGN CHOICE 1] D_ANCHOR on -/
  domAnchor : Bool
  /-- [1; 14 R457 Table 14-10; reset 0] D_PORTS pads held -/
  holdPorts : Bool
  /-- [1; 14 R457 Table 14-10; reset 0] D_ANCHOR pads held -/
  holdAnchor : Bool
  /-- [5; 14 R457; reset 0] levels at which the D_ANCHOR pads are held: PULSE[3:0] in [3:0], SD_CLK in [4] -/
  heldPads : Nat
  /-- [16; 14 Table 14-10; reset 0 at power-on] warm resets since power-on -/
  warmResets : Nat
  /-- [8; 14 Table 14-10; reset 0] internal cause of the latest BOOT -/
  internalCause : Nat
  /-- [6; 14 Table 14-10; reset POWER_ON (0x80)] source bits [7:2] of the latest BOOT -/
  source : Nat
  /-- [8; 14 R448; reset none] internal reset waiting for its save and flush: its cause -/
  pendInternal : Option Nat
  /-- [time; 02 R72; reset none] a SYS.RESET waits for its save and flush: FRC count of its completion -/
  pendWarm : Option Nat
  /-- [time; 12 R402; reset none] a lifecycle change waits for its wipe: FRC count of its completion -/
  pendWipe : Option Nat
  /-- [1; 12 R390; reset 0] ZEROIZE waits for a running Ballast write -/
  pendZeroize : Bool
  /-- [4; 14 R454 R456, 01 R35; reset 0] reason of an abandoned handshake that ends after the thaw (8) or after the actions
  of PFW_N (9), 0 for none -/
  hsLate : Nat
  /-- [1; 14 R447; reset 1: from power-on the device is in reset or BOOT] BOOT may run -/
  bootReady : Bool
  /-- [1; 14 R447; reset 0] RESET_N qualified, the reset has not yet taken hold -/
  resetQual : Bool
  /-- [1; 14 R467; reset 0] SYS.FREEZE or a FREEZE rule holds the freeze -/
  frozenBySys : Bool
  /-- [2; 14 R470 R32; reset 0] freeze trigger deferred: 0 none, else its FROZEN cause code -/
  deferFreeze : Nat
  /-- [1; 14 R470; reset 0] FREEZE_N is ignored until PFW_N returns high -/
  ignoreFreezeN : Bool
  /-- [1; 11 R372, 14 R473; reset 0] PFW_N has qualified low and not yet returned high -/
  pfwQual : Bool
  /-- [1; 11 R372, 14 R470; reset 0] the actions of PFW_N or RESET_N run (Ballast write, log cut) -/
  pfwActions : Bool
  /-- [1; 13 R434; reset 0] the Ballast write has ended and EV holds Cairn -/
  evHasCairn : Bool
  /-- [1; 02 R444; reset 0] SYS.SET_MODE's recomputation of admission is running: its handle -/
  setMode : Option Nat
deriving DecidableEq, Repr

def Pm.reset : Pm :=
  { mode := .boot, returnMode := .boot, dozeReturn := .boot, hs := none, hsBlock := 0, hsReason := 0, wakeCause := 0, waking := false, nq := 0,
    mi2cWake := true, delayMax := 10000, domPorts := false, domErg := true, domAnchor := true, holdPorts := false,
    holdAnchor := false, heldPads := 0, warmResets := 0, internalCause := 0, source := 0x80, pendInternal := none, pendWarm := none,
    pendWipe := none, pendZeroize := false, hsLate := 0, bootReady := true, resetQual := false, frozenBySys := false, deferFreeze := 0,
    ignoreFreezeN := false, pfwQual := false, pfwActions := false, evHasCairn := false, setMode := none }

/-- Root PLLs and references CK. -/
structure Ck where
  /-- [1; 14 R462 Table 14-13; reset 0] ACTIVE: PLL B drives the dividers -/
  activeB : Bool
  /-- [1; 14 Table 14-13; reset 0] A_LOCK -/
  aLock : Bool
  /-- [1; 14 Table 14-13; reset 0] B_LOCK -/
  bLock : Bool
  /-- [1; 14 Table 14-13; reset 0] REF_A_OK -/
  refAOk : Bool
  /-- [1; 14 Table 14-13; reset 0] REF_B_OK -/
  refBOk : Bool
  /-- [1; 14 Table 14-13; reset 0] SWITCHING: handle and cause of a switch that a command started -/
  switching : Bool
  /-- [16; 14 Table 14-13; reset 0] SWITCHES -/
  switches : Nat
  /-- [1; 14 Table 14-14; reset 0] PREFER PLL B -/
  preferB : Bool
  /-- [1; 14 Table 14-14; reset 0] SINGLE_REF -/
  singleRef : Bool
  /-- [1; 14 Table 14-14; reset 0] SINGLE_SRC is REFCLK_B -/
  singleB : Bool
  /-- [17; 14 Table 14-14; reset 0] REVERT_S -/
  revertS : Nat
  /-- [16; 14 Table 14-10; reset none given: DESIGN CHOICE 0] CK_MON_A missing-edge events -/
  missA : Nat
  /-- [16; 14 Table 14-10; reset none given: DESIGN CHOICE 0] CK_MON_B missing-edge events -/
  missB : Nat
  /-- [time; 14 R466; reset none] FRC count since which the PREFER PLL has been qualified -/
  preferSince : Option Nat
  /-- [4 times; 14 R463; reset none] FRC count at which each was last declared failed: references 0 and 1, PLLs 2 and 3 -/
  failedAt : Tbl Nat
deriving DecidableEq, Repr

def Ck.reset : Ck :=
  ⟨false, false, false, false, false, false, 0, false, false, false, 0, 0, 0, none, []⟩

/-- The JTAG port (14 R468). -/
structure Jtag where
  /-- [8; 14 R468 Table 14-9; reset none given: PRESUMED 0x01 (IDCODE, as IEEE 1149.1 selects in Test-Logic-Reset)]
  instruction register -/
  ir : Nat
  /-- [pads; 14 R468; reset none given: DESIGN CHOICE 0] boundary register -/
  boundary : Nat
  /-- [1; 14 R468 Table 14-9; reset none given: DESIGN CHOICE 0] bypass register -/
  bypass : Nat
  /-- [11; 14 R468 Table 14-9; reset none given: DESIGN CHOICE 0] FRZ_MEM macro -/
  frzMacro : Nat
  /-- [13; 14 R468 Table 14-9; reset none given: DESIGN CHOICE 0] FRZ_MEM word -/
  frzWord : Nat
  /-- [pads; 14 R468; reset none] pads forced: 1 EXTEST, 2 CLAMP, 3 HIGHZ -/
  padMode : Nat
deriving DecidableEq, Repr

def Jtag.reset : Jtag := ⟨1, 0, 0, 0, 0, 0⟩

/-- Input pins as the board drives them, and the supplies (15 Table 15-2). -/
structure Pins where
  /-- [1; 15 R485; DESIGN CHOICE high] RESET_N -/
  resetN : Bool
  /-- [1; 15 R485; DESIGN CHOICE high] PFW_N -/
  pfwN : Bool
  /-- [time; 14 R434; none] FRC count of the last fall of PFW_N or qualified RESET_N -/
  pfwFall : Nat
  /-- [1; 14 R467; DESIGN CHOICE high] FREEZE_N -/
  freezeN : Bool
  /-- [2; 10 R331; DESIGN CHOICE 0] XTRIG_IN levels -/
  xtrigIn : Nat
  /-- [2; 02 R65; DESIGN CHOICE 0] MI2C_ADDR strap -/
  mi2cAddr : Nat
  /-- [1; 15 R481; DESIGN CHOICE 1] the supplies are within limits -/
  railsOk : Bool
deriving DecidableEq, Repr

def Pins.reset : Pins := ⟨true, true, 0, true, 0, 0, true⟩

/-! ### Timebase (chapter 04) -/

/-- SOURCE of TM_STAT: 0 none, 1 PTP, 2 PPS and ToD, 3 TIME.SET (Table 4-7). -/
abbrev TimeSource := Nat

/-- What the slave instance knows of one master heard on one port (04 R133, R145). -/
structure Master where
  /-- [Announce; 04 R133] its last Announce -/
  ann : Announce
  /-- [time; 04 R145] FRC count of that Announce -/
  annAt : Nat
  /-- [count; 04 R132] Announces heard within the foreign-master window: 2 qualify it -/
  heard : Nat
deriving DecidableEq, Repr

/-- One time comparator (04 R150 Table 4-9). -/
structure Cmp where
  /-- [1; 04 Table 4-9; reset 0] ARMED -/
  armed : Bool
  /-- [settings; 04 R150 Table 4-5; reset none given: DESIGN CHOICE 0] ACTIONS, TARGET, PERIOD, COUNT, JOB, ACQ_MASK,
  PULSE_NS -/
  p : CmpP
  /-- [count; 04 R150; reset 0] k of the next target -/
  k : Nat
  /-- [1; 04 R151 Table 4-9; reset 0] LATE -/
  late : Bool
  /-- [1; 04 R151 Table 4-9; reset 0] STEPPED -/
  stepped : Bool
  /-- [32; 04 Tables 4-9 4-12; reset 0] FIRES -/
  fires : Nat
  /-- [1; 04 R151; reset 0] a step has crossed the next target since the last firing -/
  crossed : Bool
  /-- [1; 04 R154; reset 0] armed by TIME.CMP_ARM, not by the image -/
  byCommand : Bool
deriving DecidableEq, Repr

def Cmp.reset : Cmp := ⟨false, ⟨0, 0, ⟨0, 0, 0⟩, 0, 0, 0, 0, 0⟩, 0, false, false, 0, false, false⟩

/-- A PTP instance as configured (04 R132, R501). -/
structure Ptp where
  /-- [settings; 04 R154; reset EN 0, no configuration] parameters of TIME.PTP_CONFIG -/
  p : PtpP
  /-- [1; 04 R501; reset 0] a TIME.PTP_CONFIG is under way: its handle -/
  busy : Option Nat
  /-- [times; 04 R132, R133; reset none; model] FRC counts of its last periodic messages: requests by port, the master's
  Announce (0) and Sync (1) -/
  sent : Tbl Nat
deriving DecidableEq, Repr

def Ptp.reset : Ptp := ⟨⟨0, 0, 0, 0, 0, 0, 0, 0, 0, 0, 0, 0, 0, 0⟩, none, []⟩

/-- The PTP slave's working state (04 R133 to R136). -/
structure Slave where
  /-- [masters; 04 R133; reset none] masters heard, by 2^3 x index + port -/
  masters : List Master
  /-- [port, 80, 64; 04 R133; reset none] the selected master: port, its port identity, its grandmaster -/
  selected : Option (Nat × Nat × Nat)
  /-- [per port; 04 R141; reset none valid] mean path delay by port, in 2^-16 ns -/
  pathDelay : Tbl Int
  /-- [per port; 04 R133; reset none] delay requests awaiting their response, by port: FRC count of the sending -/
  delayReq : Tbl Nat
  /-- [time; 04 R145; reset none] FRC count of the last Sync of the selected port -/
  syncAt : Option Nat
  /-- [32; 04 R135; reset none received] TM_GM_INACC -/
  gmInacc : Option Nat
deriving DecidableEq, Repr

def Slave.reset : Slave := ⟨[], none, [], [], none, none⟩

/-- The PPS and ToD source (04 R137 to R140). -/
structure Pps where
  /-- [settings; 04 R137 Table 4-12; reset PPS_TOL 100,000 ns; the others none given: DESIGN CHOICE 0] parameters -/
  p : PpsP
  /-- [time; 04 R137; reset none] stamp of the previous qualifying edge, 2^-16 ns -/
  prev : Option Int
  /-- [48, time; 04 R138; reset none] a label received before its edge (TOD_EDGE 1): TAI seconds when usable, and the time at
  which its sentence ended, 2^-16 ns -/
  label : Option (Option Int × Int)
  /-- [count; 04 R139; reset 0] successive disagreeing labels -/
  disagree : Nat
  /-- [1; 04 Table 4-7; reset 0] PPS_OK -/
  ok : Bool
  /-- [1; 04 Table 4-7; reset 0] TOD_OK -/
  todOk : Bool
  /-- [time; 04 R139; reset none] an edge waiting for its label (TOD_EDGE 0), 2^-16 ns -/
  waiting : Option Int
  /-- [48; 04 R140; reset none] second for which TOD_TXD is sending a ZDA sentence -/
  txd : Option Nat
deriving DecidableEq, Repr

def Pps.reset : Pps := ⟨⟨0, 0, 0, 0, 100000⟩, none, none, 0, false, false, none, none⟩

/-- The Tether servo (04 R141 to R147). -/
structure Tether where
  /-- [settings; 04 R142 R143 R147 Table 4-12; reset KP 0x4000 KI 0x0800 STEP_NS 1,000 POLICY 1 LOCK_COUNT 8 NQ 0
  FMAX 100,000 ppb OUTLIER_NS 0 HOLD_FRESH_S 600 HOLD_AGED_S 86,400] parameters of TIME.CONFIG -/
  p : TimeP
  /-- [fraction; 04 R142 R144; reset 0 when none is stored] integ -/
  integ : Rat
  /-- [fraction; 04 R142; reset -integ] y in force -/
  y : Rat
  /-- [2^-16 ns; 04 Table 4-6; reset none given: DESIGN CHOICE 0] last accepted theta (TM_SERVO_OFS) -/
  theta : Int
  /-- [1; 04 R141; reset 0] theta is a reference for the outlier test -/
  refOk : Bool
  /-- [count; 04 R141; reset 0] consecutive outliers -/
  outliers : Nat
  /-- [time; 04 R142; reset none] device time of the last accepted theta, 2^-16 ns -/
  lastAt : Option Int
  /-- [3; 04 Table 4-7; reset 7] TQ_SERVO -/
  tqServo : Tq
  /-- [8; 04 R147 Table 4-7; reset 0] QUAL -/
  qual : Nat
  /-- [count; 04 R147; reset 0] consecutive accepted theta of at most 100 ns -/
  fine : Nat
  /-- [count; 04 Table 4-4; reset 0] consecutive accepted theta above 150 ns -/
  over150 : Nat
  /-- [count; 04 Table 4-4; reset 0] consecutive accepted theta above 1,000 ns -/
  over1000 : Nat
  /-- [2; 04 Table 4-7; reset 0] SERVO: 0 IDLE, 1 TRACK, 2 HOLD, 3 FORCED_HOLD -/
  servo : Nat
  /-- [2; 04 Table 4-7; reset 0] SOURCE -/
  source : TimeSource
  /-- [2; 04 R145; reset 0] the configured source Tether is following -/
  follow : TimeSource
  /-- [1; 04 Table 4-7; reset 0] FREQ_CLAMPED -/
  clamped : Bool
  /-- [1; 04 R143 Table 4-7; reset 0] LOCKED_ONCE -/
  lockedOnce : Bool
  /-- [time; 04 R145; reset none] FRC count at which holdover was entered -/
  holdSince : Option Nat
  /-- [2; 04 R146; reset 0] PRIMARY -/
  primary : Nat
  /-- [2; 04 R146; reset 0] SECONDARY -/
  secondary : Nat
  /-- [16; 04 R146; reset none given: DESIGN CHOICE 0] REVERT_S -/
  revertS : Nat
  /-- [per source; 04 R145 R146; reset none] by source: FRC counts of its last accepted theta and of the start of its
  unbroken qualification -/
  qualified : Tbl (Nat × Nat)
  /-- [time; 04 R144; reset 0] FRC count of the last write of integ to Cairn -/
  savedAt : Nat
deriving DecidableEq, Repr

def Tether.reset : Tether :=
  { p := ⟨0x4000, 0x0800, 1000, 1, 8, 0, 100000, 0, 600, 86400⟩, integ := 0, y := 0, theta := 0, refOk := false,
    outliers := 0, lastAt := none, tqServo := .invalid, qual := 0, fine := 0, over150 := 0, over1000 := 0, servo := 0,
    source := 0, follow := 0, clamped := false, lockedOnce := false, holdSince := none, primary := 0, secondary := 0,
    revertS := 0, qualified := [], savedAt := 0 }

/-- The timebase TM. -/
structure Tm where
  /-- [64; 04 R121; reset 0] FRC -/
  frc : Nat
  /-- [128 signed; 04 R122; reset 0 (example of chapter 04)] OFFSET, 2^-40 ns -/
  offset : Int
  /-- [64; 04 R122 R144; reset RATE_NOM 0x28F5C28F5C3] RATE, 2^-40 ns per count -/
  rate : Nat
  /-- [30+48+32; 04 R126; reset 0] fallback clock: its time in 2^-32 ns -/
  fallback : Int
  /-- [34; 04 R126; reset RATE / 2^8] INC, 2^-32 ns per count -/
  inc : Nat
  /-- [1; 04 Table 4-7; reset 0] FALLBACK: main path failed -/
  mainFailed : Bool
  /-- [1; 04 Table 4-7; reset 0] SELFTEST -/
  selftest : Bool
  /-- [1; 04 R127 R128; reset 0] a residue mismatch has occurred since the last checkpoint -/
  residue : Bool
  /-- [1; 04 R128; reset 0] the running self-test follows a residue mismatch -/
  byResidue : Bool
  /-- [ns; 04 R127 Table 4-11; reset 0] main minus fallback at detection -/
  difference : Int
  /-- [1; 04 R129; reset none] TIME.MAIN_RETEST under way: its handle -/
  retest : Option Nat
  /-- [3; 02 R40, 04 R147 Table 4-7; reset 7] TQ as last shown -/
  tq : Tq
  /-- [servo; 04 R141; reset Tether.reset] Tether -/
  tether : Tether
  /-- [2; 04 R133; reset each Ptp.reset] slave instance -/
  ptpSlave : Ptp
  /-- [instance; 04 R133; reset Ptp.reset] M0 master instance -/
  ptpMaster : Ptp
  /-- [state; 04 R133; reset Slave.reset] slave's masters and path delays -/
  slave : Slave
  /-- [state; 04 R137; reset Pps.reset] PPS and ToD -/
  pps : Pps
  /-- [7 x 2 x 32 signed; 04 R130 Table 4-6; reset none given: DESIGN CHOICE 0] TM_LAT_RX and TM_LAT_TX by target -/
  lat : Tbl (Int × Int)
  /-- [1; 04 R149 Table 4-8; reset 0] UTC VALID -/
  utcValid : Bool
  /-- [2; 04 R149 Table 4-8; reset 0] LEAP -/
  leap : Nat
  /-- [16 signed; 04 R149 Table 4-8; reset 0] UTC_OFS -/
  utcOfs : Int
  /-- [80; 04 R149; reset none given: DESIGN CHOICE 0] TAI second at which the UTC day of the pending leap ends -/
  leapAt : Int
  /-- [16; 04 R150; reset each Cmp.reset] comparators -/
  cmps : Tbl Cmp
  /-- [3 lines; 04 R150; reset low] PPS_OUT, XTRIG_OUT0, XTRIG_OUT1 (0 to 2) high until this FRC time, 0.01 ns -/
  pulses : Tbl Nat
  /-- [time; 04 R153; reset 0] tick time last published, 2^-16 ns -/
  tick : Int
  /-- [time; 04 R153; reset 0] FRC count of the last tick -/
  tickAt : Nat
  /-- [count; 02 R40; reset 0] FRC count of the last checkpoint (HEARTBEAT edge) -/
  checkAt : Nat
  /-- [4 x 32; 04 R155; reset none given: DESIGN CHOICE 0] latched TM_FRC_HI, TM_NOW_NS, TM_NOW_SEC_LO, TM_NOW_HI -/
  latch : List Nat
deriving DecidableEq, Repr

def Tm.reset : Tm :=
  { frc := 0, offset := 0, rate := 0x28F5C28F5C3, fallback := 0, inc := 0x28F5C28F5, mainFailed := false,
    selftest := false, residue := false, byResidue := false, difference := 0, retest := none, tq := .invalid, tether := Tether.reset,
    ptpSlave := Ptp.reset, ptpMaster := Ptp.reset, slave := Slave.reset, pps := Pps.reset, lat := [], utcValid := false,
    leap := 0, utcOfs := 0, leapAt := 0, cmps := [], pulses := [], tick := 0, tickAt := 0, checkAt := 0,
    latch := [0, 0, 0, 0] }

/-! ### Oasis vault, fuses and Cairn (chapter 12, Table 13-2) -/

/-- A key slot that is not FREE (12 R392). The 256 key bits are represented by `material`: no command, register or port
reads them. -/
structure Slot where
  /-- [8; 12 Table 12-3; reset 0] USAGE -/
  usage : Nat
  /-- [8; 12 Table 12-3; reset 0] PARENT -/
  parent : Nat
  /-- [1; 12 Table 12-3; reset 0] ORIGIN is IMPORT -/
  imported : Bool
  /-- [1; 12 Table 12-3; reset 0] EXPORTABLE -/
  exportable : Bool
  /-- [1; 12 Table 12-3; reset 0] LOCK -/
  lock : Bool
  /-- [1; 12 Table 12-3; reset 0] ROOT_CHILD -/
  rootChild : Bool
  /-- [3; 12 Table 12-3; reset 0] ALG, 6 for a CONT slot -/
  alg : Nat
  /-- [1; 12 Table 12-3; reset 0] STATE is ORPHANED (else VALID; a FREE slot is not listed) -/
  orphaned : Bool
  /-- [1; 12 Table 12-3; reset 0] OWNER -/
  owner : Bool
  /-- [32; 12 R387 Table 12-8; reset 0] counter of an OWNER slot -/
  ctr : Nat
  /-- [256; 12 R392; reset 0] the key -/
  material : Nat
  /-- [entry; 12 R399; reset none] the image key-table entry that defined it -/
  defn : Option KeyP
deriving DecidableEq, Repr

/-- The vault OV, its battery-backed part (D_VAULT) included. -/
structure Ov where
  /-- [256 slots; 12 R392; reset all FREE] key slots that are not FREE, by number -/
  slots : Tbl Slot
  /-- [768; 12 R395; reset empty] KREG: the owner public key, when it holds one -/
  kreg : Option Nat
  /-- [1; 12 Table 12-9; reset 0] OWNER_BAD -/
  ownerBad : Bool
  /-- [256; 12 R389; reset none: DESIGN CHOICE absent] the root, when ROOT_VALID; which root by number -/
  root : Option Nat
  /-- [1; 12 Table 12-5; reset none given: DESIGN CHOICE 0] ROOT_REGEN -/
  rootRegen : Bool
  /-- [256; 12 R404; reset none] the Mirage root in force (DEBUG) -/
  mirage : Option Nat
  /-- [1; 12 R404 Table 12-9; latch: DESIGN CHOICE 0] DBG_ARM -/
  dbgArm : Bool
  /-- [1; 12 R390, 02 R40; latch: DESIGN CHOICE 0] TAMPER_LATCHED -/
  tamper : Bool
  /-- [7; 12 Table 12-2; latch: DESIGN CHOICE 0] latched causes -/
  causes : Nat
  /-- [16; 12 Table 12-8; DESIGN CHOICE 0] zeroizations since manufacture -/
  zeroCount : Nat
  /-- [1; 12 R410; reset 0] a zeroization has happened since the last BOOT -/
  tamperNew : Bool
  /-- [7; 12 Table 12-8; latch: DESIGN CHOICE 0x7F] OV_TAMPER_CFG -/
  tamperCfg : Nat
  /-- [1; 12 Table 12-9; reset 0] ENTROPY_OK -/
  entropyOk : Bool
  /-- [count; 12 R405; reset 0] DRBG requests since the last reseed -/
  drbgReq : Nat
  /-- [time; 12 R405; reset 0] FRC count of the last reseed -/
  reseedAt : Nat
  /-- [time; 12 R406; reset none] FRC count of the last retest of a failed noise source -/
  retestAt : Option Nat
  /-- [5; 12 Table 12-9; reset 0] NQ -/
  nq : Nat
  /-- [8; 12 Table 12-8; reset none given: DESIGN CHOICE 0] OV_SEL -/
  sel : Nat
  /-- [32; 12 Table 12-8; reset 0] OV_SLOT_ATTR -/
  selAttr : Nat
  /-- [32; 12 Table 12-8; reset none given: DESIGN CHOICE 0] OV_SLOT_CTR -/
  selCtr : Nat
  /-- [time; 12 Table 12-11; reset none] FRC count of the last AUTH_FAIL notice -/
  authNoteAt : Option Nat
deriving DecidableEq, Repr

def Ov.reset : Ov :=
  { slots := [], kreg := none, ownerBad := false, root := none, rootRegen := false, mirage := none, dbgArm := false,
    tamper := false, causes := 0, zeroCount := 0, tamperNew := false, tamperCfg := 0x7F, entropyOk := false, drbgReq := 0,
    reseedAt := 0, retestAt := none, nq := 0, sel := 0, selAttr := 0, selCtr := 0, authNoteAt := none }

/-- The one-time fuses (12 R382). -/
structure Fuses where
  /-- [128; 12 R382; written at manufacture: Config.deviceUid] DEVICE_UID -/
  uid : Nat
  /-- [2; 12 R382; fuse: DESIGN CHOICE BLANK] LIFECYCLE -/
  lifecycle : Lifecycle
  /-- [384; 12 R382; fuse: DESIGN CHOICE unburned] OWNER_HASH, the digest as a number, its first byte most significant -/
  ownerHash : Option Nat
deriving DecidableEq, Repr

def Fuses.reset : Fuses := ⟨Config.deviceUid % 2 ^ 128, .blank, none⟩

/-- One element's registers as a Cairn copy holds them (11 R371, R372). -/
structure EnergyCopy where
  el : Nat
  /-- the registers the copy holds -/
  mask : Nat
  /-- COUNT by register -/
  counts : List Nat
  /-- ROLLOVER by register -/
  rolls : List Nat
  /-- the 48-bit fractions by register -/
  fracs : List Nat
deriving DecidableEq, Repr

/-- A periodic or Ballast copy (11 R371, R372). -/
structure SaveCopy where
  /-- [32; 11 R371] save sequence -/
  seq : Nat
  /-- [registers; 11 R371] registers saved -/
  regs : List EnergyCopy
  /-- [80; 11 R371] device time of the save -/
  sec : Nat
  ns : Nat
  /-- [3; 11 R371] TQ -/
  tq : Nat
  /-- [32; 11 R371] operating seconds -/
  opsec : Nat
  /-- [per element; 11 R372] S_PEAK, saved by a Ballast copy -/
  sPeak : List Rat
  /-- [per 64-bit word; 13 R425; none when written] wrong bits of each word that has any -/
  flips : List Nat
deriving DecidableEq, Repr

/-- The non-volatile store Cairn (Table 13-2). -/
structure Cairn where
  /-- [8,192 x 32 B; 13 R433; DESIGN CHOICE empty] event log, oldest first -/
  log : List LogRec
  /-- [32; 13 R433; DESIGN CHOICE 0] next SEQ -/
  nextSeq : Nat
  /-- [64 KiB; 11 R371; DESIGN CHOICE none] the two periodic copies, valid ones only -/
  periodic : List SaveCopy
  /-- [64 KiB; 11 R372; DESIGN CHOICE none] the two Ballast copies, valid ones only -/
  ballast : List SaveCopy
  /-- [stamp; 11 R371; DESIGN CHOICE none] alive stamp: seconds, nanoseconds, operating seconds, TQ -/
  alive : Option (Nat × Nat × Nat × Nat)
  /-- [1,024 x 32; 13 R421; DESIGN CHOICE empty] repair map: macro and row -/
  repairs : List (Nat × Nat)
  /-- [32; 12 R387; DESIGN CHOICE 0] OWNER_CTR -/
  ownerCtr : Nat
  /-- [32; 12 R400; DESIGN CHOICE 0] STMT_CTR -/
  stmtCtr : Nat
  /-- [32; 02 R75; reset 0 when never committed] image version anchor -/
  anchor : Nat
  /-- [768; 12 R382; DESIGN CHOICE none] owner public key -/
  ownerKey : Option Nat
  /-- [fraction; 04 R144; DESIGN CHOICE none stored] stored Tether estimate -/
  integ : Option Rat
  /-- [32; 13 R430; DESIGN CHOICE 0] operating seconds -/
  opsec : Nat
  /-- [24; 13 R430; DESIGN CHOICE 0] power-cycle count -/
  pcc : Nat
  /-- [1; 13 Table 13-11; reset 0] a LOG_CUT written since the last BOOT -/
  cutNow : Bool
  /-- [1; 13 Table 13-11; reset 0] a LOG_CUT written between the two last BOOTs -/
  cutBefore : Bool
  /-- [32; 13 Table 13-13; reset 0] SEQ of the latest LOG_CUT -/
  cutSeq : Nat
  /-- [time; 13 R430; reset 0] FRC count of the last operating-second tick -/
  opsecAt : Nat
deriving DecidableEq, Repr

def Cairn.reset : Cairn :=
  { log := [], nextSeq := 0, periodic := [], ballast := [], alive := none, repairs := [], ownerCtr := 0, stmtCtr := 0,
    anchor := 0, ownerKey := none, integ := none, opsec := 0, pcc := 0, cutNow := false, cutBefore := false, cutSeq := 0,
    opsecAt := 0 }

/-! ### Network ports (chapter 03) -/

/-- A MACsec SA (03 R99, R100). -/
structure Sa where
  /-- [8; 03 R100] key slot whose key is the SAK -/
  slot : Nat
  /-- [1; 03 R99] cipher: 0 GCM-AES-256, 1 XPN -/
  cipher : Nat
  /-- [1; 03 R99] confidentiality -/
  conf : Nat
  /-- [32; 03 Table 3-13] SSCI -/
  ssci : Nat
  /-- [64; 03 Table 3-13] peer SCI -/
  peerSci : Nat
  /-- [96; 03 Table 3-13] salt -/
  salt : Nat
  /-- [64; 03 R103] next PN: to send, or above the highest received -/
  pn : Nat
  /-- [1; 03 R100] disabled because its key was destroyed or orphaned -/
  disabled : Bool
  /-- [1; 03 R103] SA_PN_THRESH has been queued -/
  noted : Bool
  /-- [1; 03 R103] SA_EXHAUSTED has been queued -/
  ended : Bool
deriving DecidableEq, Repr

/-- A frame waiting in a transmit queue: what it is, its length on the port, its words of content. -/
structure TxFrame where
  kind : Nat
  len : Nat
  words : List Nat
deriving DecidableEq, Repr

/-- One port, P0 to P3 or M0 (Tables 3-6 to 3-8). -/
structure Port where
  /-- [1; 03 Table 3-7; reset 0] EN -/
  en : Bool
  /-- [3; 03 Table 3-7; reset 0] LINE -/
  line : Nat
  /-- [14; 03 Table 3-7; reset 1,522] MAXLEN -/
  maxlen : Nat
  /-- [48; 03 Table 3-13; reset none given: DESIGN CHOICE 0] MAC address -/
  mac : Nat
  /-- [1; 03 Table 3-7; reset 0] BCAST_EN -/
  bcast : Bool
  /-- [1; 03 Table 3-7; reset 0] PROMISC -/
  promisc : Bool
  /-- [2; 03 Table 3-7; reset 0] HSEL -/
  hsel : Nat
  /-- [16 x 32; 03 Table 3-6; reset none given: DESIGN CHOICE 0] hash words -/
  hash : List Nat
  /-- [16 x (1+48); 03 Table 3-6; reset none given: DESIGN CHOICE 0] exact entries -/
  exact : Tbl (Bool × Nat)
  /-- [1; 03 Table 3-7; reset 0] VLAN_LIST -/
  vlanList : Bool
  /-- [16 x 16; 03 Table 3-6; reset none given: DESIGN CHOICE empty] NP_VID -/
  vids : List Nat
  /-- [4 x 32; 03 Table 3-6; reset none given: DESIGN CHOICE 0] NP_INTAKE -/
  intake : List IntakeEntry
  /-- [32; 03 Table 3-6; reset 0x8888_8888] NP_PT_MAP -/
  ptMap : Nat
  /-- [1; 03 Table 3-7; reset 0] MACSEC_EN -/
  macsecEn : Bool
  /-- [2; 03 Table 3-7; reset 0] VALIDATE -/
  validate : Nat
  /-- [32; 03 R99; reset none given: DESIGN CHOICE 0] replay window -/
  replay : Nat
  /-- [16; 03 Table 3-13; reset none given: DESIGN CHOICE 0] SCI port identifier -/
  sciPort : Nat
  /-- [64; 03 R103; reset none given: DESIGN CHOICE 0] PN_THRESH -/
  pnThresh : Nat
  /-- [4 SAs; 03 R99 Table 3-6; reset none installed] transmit SAs by AN (INSTALLED) -/
  txSa : Tbl Sa
  /-- [2; 03 Table 3-6; reset none given: DESIGN CHOICE 0] ACTIVE_AN -/
  activeAn : Nat
  /-- [2; 03 Table 3-6; reset none given: DESIGN CHOICE 0] NEXT_AN -/
  nextAn : Nat
  /-- [16 x 4 SAs; 03 R99; reset none installed] receive SAs by 4 x SC + AN -/
  rxSa : Tbl Sa
  /-- [1; 03 Table 3-8; reset 0] LINK_UP -/
  linkUp : Bool
  /-- [1; 03 Table 3-8; reset 0] PCS_LOCK -/
  pcsLock : Bool
  /-- [1; 03 Table 3-8; reset 0] FEC_LOCK -/
  fecLock : Bool
  /-- [1; 03 Table 3-8; reset 0] LOCAL_FAULT -/
  localFault : Bool
  /-- [1; 03 Table 3-8; reset 0] REMOTE_FAULT -/
  remoteFault : Bool
  /-- [1; 03 Table 3-8; reset 0] LINK_CHG -/
  linkChg : Bool
  /-- [32; 01 Table 1-1, 03 Table 3-5; reset none given: DESIGN CHOICE 0] receive sequence number -/
  rxSeq : Nat
  /-- [8 queues; 03 R104; reset empty] transmit queues -/
  queues : Tbl (List TxFrame)
  /-- [list; 03 R105; reset none: all gates open] operative gate control list -/
  gate : Option GateP
  /-- [list; 03 R107; reset none] pending list with its handle and the time it was loaded, 2^-16 ns -/
  gatePend : Option (GateP × Nat × Int)
  /-- [list; 03 R107, R118; reset none] a list that CFG.COMMIT loaded and the time of it, 2^-16 ns -/
  gateNext : Option (GateP × Int)
  /-- [64; 03 Table 3-13; reset 0] operative cycle count -/
  gateCycle : Nat
  /-- [8; 03 Table 3-13; reset 0] entry in force -/
  gateEntry : Nat
  /-- [time; 03 R106; reset 0; model] FRC time at which the frame on the wire and its gap have left, 0.01 ns -/
  txUntil : Nat
deriving DecidableEq, Repr

def Port.reset : Port :=
  { en := false, line := 0, maxlen := 1522, mac := 0, bcast := false, promisc := false, hsel := 0,
    hash := List.replicate 16 0, exact := [], vlanList := false, vids := [], intake := List.replicate 4 ⟨0, 0, 0⟩,
    ptMap := 0x88888888, macsecEn := false, validate := 0, replay := 0, sciPort := 0, pnThresh := 0, txSa := [],
    activeAn := 0, nextAn := 0, rxSa := [], linkUp := false, pcsLock := false, fecLock := false, localFault := false,
    remoteFault := false, linkChg := false, rxSeq := 0, queues := [], gate := none, gatePend := none, gateNext := none, gateCycle := 0,
    gateEntry := 0, txUntil := 0 }

/-- A frame on its way to a pass-through ring (03 R112, R113). -/
structure PtFrame where
  port : Nat
  cls : Nat
  len : Nat
  flags : Nat
  stamp : Int
  rxSeq : Nat
  /-- FRC count at which it was stored -/
  stored : Nat
  pages : Nat
deriving DecidableEq, Repr

/-- A pass-through ring (03 R111, Table 3-10). -/
structure PtRing where
  /-- [64; 03 Table 3-6; reset none given: DESIGN CHOICE 0] NP_PT_BASE -/
  base : Nat
  /-- [1; 03 Table 3-10; reset 0] EN -/
  en : Bool
  /-- [1; 03 Table 3-10; reset 0] FAULT -/
  fault : Bool
  /-- [5; 03 Table 3-10; reset 0] NQ -/
  nq : Nat
  /-- [4; 03 Table 3-10; reset 2] LOG2_DEPTH -/
  log2 : Nat
  /-- [3; 03 Table 3-10; reset 0] BUF_CODE -/
  bufCode : Nat
  /-- [1; 03 Table 3-10; reset 0] NOTE_EN -/
  noteEn : Bool
  /-- [8; 03 Table 3-10; reset 0] NOTE_EVERY -/
  noteEvery : Nat
  /-- [16; 03 Table 3-6; reset none given: DESIGN CHOICE 0] HEAD -/
  head : Nat
  /-- [16; 03 R111; reset none given: DESIGN CHOICE 0] tail -/
  tail : Nat
  /-- [256 frames; 03 R113; reset empty] frames waiting (HELD while not empty) -/
  waiting : List PtFrame
  /-- [24; 03 Table 3-12; reset none given: DESIGN CHOICE 0] completed frames -/
  completed : Nat
  /-- [8; 03 R115; reset 0] completed frames since the last PT_ARRIVAL -/
  sinceNote : Nat
deriving DecidableEq, Repr

def PtRing.reset : PtRing := ⟨0, false, false, 0, 2, 0, false, 0, 0, 0, [], 0, 0⟩

/-- A duplicate-discard source entry (03 R94). -/
structure PrpEntry where
  /-- [48] source address -/
  src : Nat
  /-- [16] highest sequence number h -/
  h : Nat
  /-- [64] bit i: number h - 1 - i was seen -/
  hist : Nat
  /-- [time] FRC count of its last frame -/
  last : Nat
deriving DecidableEq, Repr

/-- A PRP pair (03 R93 to R98). -/
structure Prp where
  /-- [1; 03 R93; reset 0] enabled -/
  en : Bool
  /-- [16; 03 R96; reset none given: DESIGN CHOICE 0] SUP_INTERVAL_MS -/
  supMs : Nat
  /-- [16; 03 R94; reset none given: DESIGN CHOICE 0] FORGET_MS -/
  forgetMs : Nat
  /-- [16; 03 R96; reset none given: DESIGN CHOICE 0] next SeqNr -/
  seqNr : Nat
  /-- [4,096; 03 R94; reset empty] source entries -/
  entries : List PrpEntry
  /-- [time; 03 R98] FRC counts from which the silence of LAN A and LAN B runs -/
  silentA : Nat
  silentB : Nat
  /-- [1; 03 R98; reset 0] the LAN has delivered a frame with an RCT since the enable -/
  heardA : Bool
  heardB : Bool
  /-- [1; 03 R98; reset 0] the LAN has been reported lost -/
  lostA : Bool
  lostB : Bool
  /-- [time; 03 R96; reset 0] FRC count of the last supervision frame -/
  supAt : Nat
deriving DecidableEq, Repr

def Prp.reset : Prp := ⟨false, 0, 0, 0, [], 0, 0, false, false, false, false, 0⟩

/-- The network ports NP; its configuration doubles as the DOZE shadow of 03 R119. -/
structure Np where
  /-- [5 ports; 03 Table 3-6; reset each Port.reset] ports, unlisted ones at reset -/
  ports : Tbl Port
  /-- [5; 03 Table 3-9; reset 0] NQ -/
  nq : Nat
  /-- [16; 03 Table 3-9; reset 0x1000] PT_QUOTA -/
  ptQuota : Nat
  /-- [16; 03 R81 Table 3-6; reset 32,768] free pages of the receive pool -/
  free : Nat
  /-- [16; 03 Table 3-6; reset 32,768] low-water mark -/
  low : Nat
  /-- [16; 03 R83; reset 0] pages held by frames on their way to pass-through rings -/
  ptPages : Nat
  /-- [512 pages; 03 R80, R81; reset 0] pages used of the M0 receive half -/
  m0Used : Nat
  /-- [8 rings; 03 R111; reset each PtRing.reset] receive rings -/
  rxRings : Tbl PtRing
  /-- [8 rings; 03 R111; reset each PtRing.reset] transmit rings -/
  txRings : Tbl PtRing
  /-- [2 pairs; 03 R93; reset each Prp.reset] PRP pairs -/
  prp : Tbl Prp
deriving DecidableEq, Repr

def Np.reset : Np := ⟨[], 0, 0x1000, 32768, 32768, 0, 0, [], [], []⟩

/-! ### Stream intake (chapter 05) -/

/-- Stream states (Table 5-6). -/
inductive StreamState where
  | unconfigured | listening | live | stale | lost | quarantined
deriving DecidableEq, Repr

/-- A converted channel value, unrounded and clamped (05 R173, R178), in LSB of its format: `a` the real part or the
scalar, `b` the imaginary part; a digital word is exact. -/
structure ChanVal where
  ch : Nat
  valid : Bool
  a : Rat
  b : Rat
deriving DecidableEq, Repr

/-- One accepted frame in resampler history (05 R178 to R181). -/
structure HistFrame where
  /-- [96; 05 R171] time tag, 2^-16 ns -/
  tag : Int
  /-- [96; 05 R176] ingress stamp, 2^-16 ns -/
  stamp : Int
  /-- [count; 05 R181] frame number n since the restart -/
  n : Nat
  /-- [46 channels; 05 R178] converted values -/
  vals : List ChanVal
  /-- [16; 05 R175] STAT -/
  stat : Nat
  /-- [8; 05 R175] time quality -/
  tq : Nat
  /-- [1 each; 05 R175] STAT_ERR, TIME_OK, AUTH_OK -/
  statErr : Bool
  timeOk : Bool
  authOk : Bool
  /-- [1; 11 R362] its window held an UNSETTLED sample; never for a network stream -/
  unsettled : Bool
deriving DecidableEq, Repr

/-- A stream slot that is not UNCONFIGURED. -/
structure Stream where
  /-- [3; 05 R183 Table 5-9; reset UNCONFIGURED] STATE -/
  state : StreamState
  /-- [576 B; 05 R190 Table 5-13; reset none] install block; KEY_CUR and KEY_NEXT as they stand, LANE as assigned -/
  p : StreamP
  /-- [1; 05 R185; reset none] installed by command, not by the image -/
  byCommand : Bool
  /-- [8; 05 R183 Table 5-7; reset 3] STALE_N -/
  staleN : Nat
  /-- [16; 05 R183 Table 5-7; reset 250] LOST_N -/
  lostN : Nat
  /-- [count; 05 R169; reset 0] failures of the second `failSec` of device time -/
  failCur : Nat
  /-- [count; 05 R169; reset 0] failures of the second before it -/
  failPrev : Nat
  /-- [48; 05 R169; reset none given: DESIGN CHOICE 0] the second the current count belongs to -/
  failSec : Int
  /-- [time; 05 R170; reset none] FRC count of the last failure since install or release -/
  failFrc : Option Nat
  /-- [32; 05 R168; reset none: the first frame is exempt] last accepted SPDU number -/
  spdu : Option Nat
  /-- [4 frames; 05 R180; reset empty] resampler history, oldest first -/
  hist : List HistFrame
  /-- [count; 05 R181 Table 5-7; reset 0] history count n -/
  n : Nat
  /-- [1; 05 R180; reset 1] the next accepted frame restarts the resampler -/
  restart : Bool
  /-- [96; 05 Table 5-7; reset none given: DESIGN CHOICE 0] tag of the last accepted frame, 2^-16 ns -/
  lastTag : Int
  /-- [96; 05 R183; reset none] ingress stamp of the last accepted frame, 2^-16 ns -/
  lastStamp : Option Int
  /-- [1; 05 R175; reset 0] STAT[10] of the last accepted frame -/
  stat10 : Bool
deriving DecidableEq, Repr

/-- A frame classified for SI, waiting in the packet buffer for its pipeline (05 R161, R162). -/
structure SiFrame where
  frame : Frame
  port : Nat
  proto : Nat
  stamp : Int
  rxSeq : Nat
  flags : Nat
  /-- receive secure channel through which it came MACsec-verified (05 R167) -/
  sc : Option Nat
  pages : Nat
  /-- [pairs; 06 R225] groups and streams of memberships removed while it waited here -/
  leaving : List (Nat × Nat)
deriving DecidableEq, Repr

/-- Stream intake SI. -/
structure Si where
  /-- [16,384 slots; 05 R159; reset all UNCONFIGURED] streams by SID -/
  streams : Tbl Stream
  /-- [5; 05 Table 5-8; reset 0] NQ -/
  nq : Nat
  /-- [10; 05 Table 5-8; reset 2] TAG_TOL_US -/
  tagTolUs : Nat
  /-- [14; 05 Table 5-8; reset 1,000] BURST_SPREAD_US -/
  burstUs : Nat
  /-- [16 pipelines; 05 R161; reset empty] frames waiting, oldest first -/
  pipes : Tbl (List SiFrame)
  /-- [16 x 16; 05 Table 5-7; reset none given: DESIGN CHOICE 0] highest backlogs -/
  high : Tbl Nat
  /-- [14; 05 Table 5-7; reset none given: DESIGN CHOICE 0] SI_SEL -/
  sel : Nat
  /-- [5 x 32; 05 R186; SI_ENTRY0 reset 0, others none given: DESIGN CHOICE 0] SI_ENTRY0 to SI_ENTRY4 -/
  entry : List Nat
deriving DecidableEq, Repr

def Si.reset : Si := ⟨[], 0, 2, 1000, [], [], 0, [0, 0, 0, 0, 0]⟩

/-! ### Alignment in the Erg (chapter 06) -/

/-- A channel of a cell as written: raw two's-complement codes of its format (06 Table 6-1). -/
structure CellChan where
  ch : Nat
  /-- real part, scalar or digital word -/
  a : Int
  /-- imaginary part of a phasor -/
  b : Int
deriving DecidableEq, Repr

/-- A cell (06 Tables 6-1, 6-2). Channels not listed read as zero words with their valid bits clear. -/
structure Cell where
  /-- [18; 01 R20; DESIGN CHOICE free value] CELL_NO -/
  cellNo : Nat
  /-- [46 x 18; 06 Table 6-1; reset none] valid channels, ascending -/
  chans : List CellChan
  /-- [16; 06 Table 6-1] STAT -/
  stat : Nat
  /-- [8; 06 Table 6-1] time quality -/
  tq : Nat
  /-- [32; 06 Table 6-2] ARRIVAL, ns -/
  arrival : Int
  /-- [1 each; 06 Table 6-2] LATE, INTERP, UNSETTLED, AUTH_OK, TIME_OK, STAT_ERR, FROZEN_GAP -/
  late : Bool
  interp : Bool
  unsettled : Bool
  authOk : Bool
  timeOk : Bool
  statErr : Bool
  frozenGap : Bool
deriving DecidableEq, Repr

/-- States of a tracked instant (Table 6-4); a retired one is no longer listed. -/
inductive InstState where
  | opened | released | trailing
deriving DecidableEq, Repr

/-- An instant of a group (06 R196 to R207). -/
structure Instant where
  /-- [40; 06 R195] index k -/
  k : Nat
  /-- [2; 06 Table 6-4] state -/
  st : InstState
  /-- [list; 06 R196] copy of the member list -/
  members : List Nat
  /-- [block; 06 R196] copy of the group's parameters -/
  p : GroupP
  /-- [Dune entry; 06 R197] deadline d_k, 2^-16 ns -/
  deadline : Int
  /-- [cells; 06 R204] PRESENT cells by SID -/
  cells : Tbl Cell
  /-- [time; 06 R203] FRC count of the release -/
  relAt : Nat
  /-- [1; 06 Table 6-8] cause is DEADLINE -/
  byDeadline : Bool
  /-- [1; 06 R218] released with FROZEN_GAP -/
  gap : Bool
  /-- [3; 10 Table 10-6] TQ at release -/
  relTq : Nat
  /-- [count; 06 R203] job instances that hold its cells -/
  jobHolds : Nat
  /-- [1; 06 R203] the publisher holds its cells -/
  pubHold : Bool
  /-- [16; 06 R203] AQ channels that hold its cells -/
  aqHolds : List Nat
  /-- [128; 06 R212, R227; model] sessions enabled at its release -/
  pubs : List Nat
  /-- [list; 06 R204] members already late here, or whose cell has been freed -/
  lateSeen : List Nat
  /-- [3; 06 R207] batches opened -/
  batches : Nat
  /-- [batch; 06 R207] the open amendment batch: closing time in 2^-16 ns and its cells by SID -/
  batch : Option (Int × Tbl Cell)
  /-- [cells; 10 R335] late cells of the present tick on their way to AQ -/
  lates : Tbl Cell
  /-- [list; 06 R203; reset none] members whose cells were freed 1,000 us after the release while a consumer held them -/
  reclaimed : List Nat
deriving DecidableEq, Repr

/-- An output group (06 Table 6-3). -/
structure Group where
  /-- [1; 06 Table 6-10; reset 0] EN -/
  en : Bool
  /-- [block; 06 Table 6-3; reset none defined] RATE, EPOCH, WINDOW_US, HORIZON_US, LATE_POLICY, LATE_SPAN_US,
  AMEND_WAIT_MS, EXPECT -/
  p : GroupP
  /-- [16,384 x 14; 06 Table 6-3; reset empty] member SIDs in order -/
  members : List Nat
  /-- [1; 06 R222; reset none] made by command -/
  byCommand : Bool
  /-- [1; 06 Table 6-11; reset 0] SHED -/
  shed : Bool
  /-- [40; 06 Table 6-8; reset none given: DESIGN CHOICE 0] last released index -/
  lastIndex : Nat
  /-- [1; 06 Table 6-8; reset none given: DESIGN CHOICE 0] last cause is DEADLINE -/
  lastDeadline : Bool
  /-- [1; 06 Table 6-8; reset none given: DESIGN CHOICE 0] last FROZEN_GAP -/
  lastGap : Bool
  /-- [40; 06 R197; reset none] next index to open -/
  next : Nat
  /-- [40; 06 R197 R204; reset none given: DESIGN CHOICE the index before the first it opens] the front: newest opened index -/
  front : Int
  /-- [count; 06 R219; reset 0] instants released with FROZEN_GAP since the freeze -/
  gapCount : Nat
  /-- [instants; 06 R204; reset none] tracked instants, ascending -/
  instants : List Instant
deriving DecidableEq, Repr

/-- A publish session (06 R212). -/
structure Session where
  /-- [144 B; 06 Table 6-6; reset none defined] session block -/
  p : SessionP
  /-- [1; 06 Table 6-12; reset 0] EN -/
  en : Bool
  /-- [1; 06 Table 6-8; reset 0] KEY_REVOKED -/
  keyRevoked : Bool
  /-- [16; 06 Table 6-8; reset 0] frames sent -/
  sent : Nat
  /-- [32; 06 R214; reset none given: DESIGN CHOICE 0] next SPDU number -/
  spdu : Nat
  /-- [1; 06 R222; reset none] made by command -/
  byCommand : Bool
deriving DecidableEq, Repr

/-- The Erg. -/
structure Erg where
  /-- [64; 06 Table 6-8; reset none defined] groups by GID -/
  groups : Tbl Group
  /-- [128; 06 R212; reset none defined] sessions -/
  sessions : Tbl Session
  /-- [5; 06 Table 6-9; reset 0] NQ -/
  nq : Nat
  /-- [8; 06 Table 6-9; reset 0x20] HEADROOM -/
  headroom : Nat
  /-- [19; 06 Table 6-9; reset 0x2000] LOW_MARK -/
  lowMark : Nat
  /-- [19; 06 Table 6-8; reset 262,144 (the pool is empty at BOOT)] FREE -/
  free : Nat
  /-- [19; 06 Table 6-8; reset 262,144] low-water mark of FREE -/
  low : Nat
  /-- [1; 06 R210; reset 0] free cells have fallen below LOW_MARK and POOL_LOW was queued -/
  lowNoted : Bool
  /-- [1; 06 R210; reset 0] a POOL_EXHAUSTED episode is open -/
  exhausted : Bool
  /-- [96; 06 R218; reset none] device time at which the last freeze gap began, 2^-16 ns -/
  gapFrom : Option Int
  /-- [96; 06 R218; reset none] device time at which that gap ended, 2^-16 ns; none while it is open -/
  gapTo : Option Int
deriving DecidableEq, Repr

def Erg.reset : Erg := ⟨[], [], 0, 0x20, 0x2000, 262144, 262144, false, false, none, none⟩

/-! ### Caravan and the Mesa engines (chapter 07) -/

/-- A job graph (07 R228). -/
structure Job where
  /-- [descriptors; 07 Table 7-1; reset none defined] nodes, MAX_INFLIGHT, RULE_CAP -/
  p : JobP
  /-- [32 x 5; 07 R231] node rank by node -/
  ranks : Tbl Nat
  /-- [64 x 1; 07 R241 R260; reset unbound] bound groups, ascending -/
  bound : List Nat
  /-- [32; 07 R229; reset none given: DESIGN CHOICE 0] next instance sequence -/
  seq : Nat
  /-- [1; 07 R229; reset 0] an overrun episode is open -/
  overrun : Bool
  /-- [1; 07 R255; reset 0] unbound by JOB_SHED -/
  shed : Bool
  /-- [1; 05 R185; reset none] made by command -/
  byCommand : Bool
  /-- [pages; 07 R249 R256, 13 R416; reset 0] words of its nodes' resident pages, by (node x 1,024 + page) x 512 + word; a word not
  listed is 0 -/
  resident : Tbl Nat
deriving DecidableEq, Repr

/-- An outstanding instance of a graph (07 R229). -/
structure Inst where
  /-- [10; 07 R229] job -/
  job : Nat
  /-- [32; 07 R229] instance sequence -/
  seq : Nat
  /-- [3; 07 Table 7-2] origin: 0 release, 1 comparator, 2 host, 3 chain -/
  origin : Nat
  /-- [6+40; 07 R229] GID and index of a release -/
  gid : Nat
  k : Nat
  /-- [32; 07 Table 7-2] ARG -/
  arg : Nat
  /-- [32; 07 Table 7-11] handle of its CARAVAN.RUN -/
  handle : Option Nat
  /-- [graph; 07 R256] the definition it started with, with its ranks -/
  p : JobP
  ranks : Tbl Nat
  /-- [32; 07 R230] nodes whose item exists or has existed -/
  created : List Nat
  /-- [32; 07 R230] nodes committed -/
  committed : List Nat
  /-- [count; 08 R287; model] number of the network model it started with -/
  epoch : Nat
  /-- [96; 07 R229; model] time of its trigger, a firing's newest target for a comparator, 2^-16 ns -/
  trig : Int
deriving DecidableEq, Repr

/-- Where a work item stands. -/
inductive ItemState where
  /-- in a Dune delay list until device time `due`, 2^-16 ns (07 R239) -/
  | delayed (due : Int)
  /-- queued at its level (07 R234) -/
  | queued
  /-- in service on its engines since an FRC count; FRC count of its last checkpoint -/
  | running (engines : List Nat) (since ckpt : Nat)
  /-- stopped by an engine fault, resuming on its gang (07 R250) -/
  | takeover (engines : List Nat)
deriving DecidableEq, Repr

/-- The factor a solve in service uses: the one in force at its dispatch (08 R276). -/
structure SolveFac where
  generation : Nat
  valid : Bool
  closed : List Nat
  uses : List Nat
deriving DecidableEq, Repr

/-- A work item (07 Table 7-2). -/
structure Item where
  /-- [index; 07 R232] its entry among the 32,768 -/
  id : Nat
  job : Nat
  seq : Nat
  node : Nat
  /-- [4; 07 Table 7-2] current level -/
  level : Nat
  /-- [1; 07 Table 7-2] REISSUE -/
  reissue : Bool
  /-- [32; 07 Table 7-2] tick count at queueing at the current level -/
  enqTick : Nat
  /-- [node; 07 Table 7-2] its node descriptor -/
  d : NodeP
  /-- [count; 07 R236] FRC counts in service before the present run -/
  used : Nat
  /-- [count; 07 R243] of these, counts not rolled back -/
  kept : Nat
  /-- [count; 10 R323; model] number of its dispatch decision; 0 before it -/
  disp : Nat
  /-- [4; 07 R236; reset none] level it held at its dispatch -/
  dispLevel : Nat
  /-- [count; 07 R249; reset 0] checkpoints written since its dispatch: the last is in the second half of its scratch pages when
  odd, in the first when even; 0 for the checkpoint at dispatch -/
  ckpts : Nat
  /-- [3; 10 Table 10-2] TQ code at its dispatch -/
  tq : Nat
  /-- [set; 07 R246, 06 R203] released set it read at its dispatch -/
  input : Option Instant
  /-- [256; 08 R287; model] forced branches as a topology item took them at its dispatch -/
  forces : Tbl Bool
  /-- [factor; 08 R276; model] factor in force at the dispatch of a solve item -/
  fac : Option SolveFac
  st : ItemState
deriving DecidableEq, Repr

/-- Engine states (Table 7-8). -/
inductive EngState where
  | idle | running | spare | selftest | retired | off
deriving DecidableEq, Repr

/-- A lane of an engine (07 R245, R248). -/
structure Lane where
  /-- [48 signed; 07 R245; reset none given: DESIGN CHOICE 0] accumulator -/
  acc : Int
  /-- [2; 07 R248; reset 0, the residue of 0] its modulo-3 residue -/
  res : Nat
deriving DecidableEq, Repr

/-- A Mesa engine (07 Table 7-8). -/
structure Engine where
  /-- [3; 07 Table 7-8; reset 0] STATE -/
  st : EngState
  /-- [2 times; 07 R253 Table 7-8; reset none] operating seconds at which a self-test passed after a fault -/
  passes : List Nat
  /-- [1; 14 R451; reset 1] its domain is on -/
  on : Bool
  /-- [1; 07 R260; reset none] CARAVAN.ENGINE_RETIRE or ENGINE_RESTORE under way: its handle -/
  busy : Option Nat
  /-- [8 lanes; 07 R245; reset none given: DESIGN CHOICE 0] lanes -/
  lanes : List Lane
  /-- [32,768 x 72; 07 R246, 13 R416; reset 0] local memory by word; a word not listed is 0 -/
  lmem : Tbl Nat
deriving DecidableEq, Repr

def Engine.reset : Engine := ⟨.idle, [], true, none, List.replicate 8 ⟨0, 0⟩, []⟩

/-- Caravan and the engines. -/
structure Cv where
  /-- [1,024; 07 R228; reset none defined] job graphs -/
  jobs : Tbl Job
  /-- [1,024 x 16; 07 R229; reset none] outstanding instances -/
  insts : List Inst
  /-- [32,768; 07 R232; reset none] work items; those of a level in the order in which they entered it -/
  items : List Item
  /-- [15; 07 R232; reset 0] next item entry -/
  nextId : Nat
  /-- [5; 07 Table 7-6; reset 0] NQ -/
  nq : Nat
  /-- [7; 07 Table 7-6; reset 0x10] URGENT_RESERVE -/
  reserve : Nat
  /-- [4; 07 Table 7-6; reset 0xB] AGE_CEIL -/
  ageCeil : Nat
  /-- [5; 07 Table 7-6; reset 0x0A] CKPT_US -/
  ckptUs : Nat
  /-- [12 x 10; 07 Table 7-7; reset 0] MIN_SHARE -/
  shares : List Nat
  /-- [12 x 12; 07 Table 7-7; reset 0] AGE_TICKS -/
  ages : List Nat
  /-- [12 x 32 signed; 07 R236; reset 0] deficits -/
  deficits : List Int
  /-- [66; 07 Table 7-8; reset each Engine.reset] engines -/
  engines : Tbl Engine
  /-- [8; 07 Table 7-5; reset 0] takeovers since BOOT -/
  takeovers : Nat
  /-- [pages; 13 R417; reset 0] Playa pages out of service -/
  playaOut : Nat
  /-- [count; 07 R234; reset 0; model] dispatch decisions that dispatched an item -/
  decisions : Nat
  /-- [count; 07 R239; reset 0] delay entries expired since the last tick -/
  expired : Nat
  /-- [8; 00 Table 0-3, 07 R256; reset 0x40] HI_FAMILY_CAP0 ENGINES: engines in service at BOOT -/
  capEngines : Nat
  /-- [4; 00 Table 0-3, 07 R256; reset 0x2] HI_FAMILY_CAP0 SPARES -/
  capSpares : Nat
deriving DecidableEq, Repr

def Cv.reset : Cv :=
  { jobs := [], insts := [], items := [], nextId := 0, nq := 0, reserve := 0x10, ageCeil := 0xB, ckptUs := 0x0A,
    shares := List.replicate 12 0, ages := List.replicate 12 0, deficits := List.replicate 12 0, engines := [],
    takeovers := 0, playaOut := 0, decisions := 0, expired := 0, capEngines := 64, capSpares := 2 }

/-! ### Topology, islands and the state estimate (chapter 08) -/

/-- A cut set (08 R269, R270, Table 8-10). -/
structure Cut where
  /-- [settings; 08 R269; reset not defined] pairs, branches, N, DRIFT_THRESH, PICKUP, DROPOUT, APPLY -/
  p : CutP
  /-- [1; 08 Table 8-10; reset 0] SEPARATED -/
  separated : Bool
  /-- [1; 08 Table 8-10; reset 0] UNSETTLED -/
  unsettled : Bool
  /-- [4; 08 Table 8-10; reset 0] PICK -/
  pick : Nat
  /-- [4; 08 Table 8-10; reset 0] DROP -/
  drop : Nat
  /-- [20 signed; 08 Table 8-10; reset 0] RHO, 0.01 degree/s, saturating -/
  rho : Int
  /-- [51; 08 R270; reset empty] unwrapped angle difference by instant, newest first, 2^-64 turn -/
  delta : List (Nat × Int)
  /-- [2; 08 R270; reset none] pair_prev -/
  pairPrev : Option (Nat × Nat)
  /-- [count; 08 R287; model] dispatch decisions made before its definition -/
  since : Nat
deriving DecidableEq, Repr

/-- An island record (Table 8-5). -/
structure Island where
  anchor : Nat
  nodes : Nat
  observed : Nat
  freq : Int
  freqN : Nat
  freqValid : Bool
  fresh : Bool
  coh : Bool
  prevAnchor : Nat
deriving DecidableEq, Repr

/-- A retained result (08 R284, Tables 8-3 to 8-5). -/
structure TsResult where
  /-- [46; 08 Table 8-3] INSTANT -/
  gid : Nat
  k : Nat
  /-- [16; 08 Table 8-3] ISLANDS -/
  islands : Nat
  /-- [16; 08 Table 8-3] OBSERVED -/
  observed : Nat
  /-- [16; 08 Table 8-3] USED -/
  used : Nat
  /-- [15; 08 Table 8-4] FLAGS -/
  flags : Nat
  /-- [32; 08 Table 8-3] J and THRESHOLD, LSB 2^-8 -/
  j : Nat
  thr : Nat
  /-- [32 signed; 08 Table 8-3] DOF -/
  dof : Int
  /-- [4; 08 Table 8-3] BAD_REMOVED -/
  badRemoved : Nat
  /-- [8; 08 Table 8-3] BR_CHANGES -/
  brChanges : Nat
  /-- [16; 08 Table 8-3] MEAS_CHANGES -/
  measChanges : Nat
  /-- [12; 08 Table 8-3] GENERATION used -/
  generation : Nat
  /-- [96; 08 Table 8-3] TOPO_DONE and SOLVE_DONE, 2^-16 ns; 0 if not reached -/
  topoDone : Int
  solveDone : Int
  /-- [256 records; 08 Table 8-5] island records in slot order (LISTED of them) -/
  isl : List Island
  /-- [per node; 08 Table 8-5] ANCHOR of each node -/
  anchors : List Nat
  /-- [list; 08 R273] nodes OBSERVED -/
  obs : List Nat
  /-- [list; 08 Table 8-5] node voltages, PH18 codes of each part, of every node once solved -/
  volts : Tbl (Int × Int)
  /-- [32 per measurement; 08 Table 8-5] measurement records -/
  meas : List Nat
  /-- [list; 08 R263; model] branches effectively closed at the instant -/
  closed : List Nat
  /-- [list; 08 R272; model] measurement rows that meet R272 before bad-data removal -/
  usable : List Nat
deriving DecidableEq, Repr

/-- A requested refactorization (08 R275): its snapshot, the instants' statuses and uses it factors for. -/
structure Refac where
  /-- [4; 08 Table 8-12] cause -/
  cause : Nat
  /-- [statuses; 08 R275] branches closed in the snapshot -/
  closed : List Nat
  /-- [uses; 08 R275] measurements used in the snapshot -/
  uses : List Nat
  /-- [time; 08 R278] FRC count of the request -/
  since : Nat
  /-- [32 each; 08 R292] handles of the commands that end with it -/
  handles : List Nat
deriving DecidableEq, Repr

/-- What TS carries from one instant to the next for one model (08 R262 to R281). -/
structure TsCarry where
  model : Option ModelP
  last : Tbl (Bool × Nat)
  conflicts : List Nat
  unknowns : List Nat
  chi2Open : Bool
  prevAnchors : Option (List Nat)
  cuts : Tbl Cut
  valid : Bool
  stale : Bool
  generation : Nat
  updSince : Nat
  facClosed : List Nat
  facUses : List Nat
  solution : Tbl (Int × Int)
deriving DecidableEq, Repr

/-- Topology and state estimate TS. -/
structure Ts where
  /-- [model; 08 R261; reset none] network model in force -/
  model : Option ModelP
  /-- [count; 08 R287; reset 0; model] models installed so far: an instance keeps the number it started with -/
  epoch : Nat
  /-- [models; 08 R287; reset none] earlier models that started instances still run on, by number, with what they carry -/
  older : Tbl TsCarry
  /-- [settings; 08 Tables 8-7 8-8, R278; reset NQ 0 MODEL_GID 0 HOLD_INSTANTS 60 BAD_MAX 3 REFACTOR_LEVEL 11 MEAS_REQ
  TIME_OK required, STAT_ERR excluded, UNSETTLED allowed; LNR_THRESH 0x300 CHI2_Z 0x254 I_OPEN_MAX 0x14
  REFACTOR_RATE 1] TOPO.CONFIG -/
  p : TopoP
  /-- [16,384 x (1+40); 08 R262; reset none known] last indication of each branch and its instant -/
  last : Tbl (Bool × Nat)
  /-- [256; 08 R263; reset none] forced branches: true closed -/
  forces : Tbl Bool
  /-- [16,384; 08 R264; reset none] branches in a BRK_CONFLICT episode -/
  conflicts : List Nat
  /-- [16,384; 08 Table 8-12; reset none] branches in a BRK_UNKNOWN episode -/
  unknowns : List Nat
  /-- [1; 08 Table 8-12; reset 0] a CHI2_HIGH episode is open -/
  chi2Open : Bool
  /-- [4,096 x 12; 08 R267; reset none] anchors of the last completed topology pass -/
  prevAnchors : Option (List Nat)
  /-- [64; 08 Table 8-10; reset not defined] cut sets -/
  cuts : Tbl Cut
  /-- [1; 08 Table 8-9; reset 0] VALID -/
  valid : Bool
  /-- [1; 08 Table 8-9; reset 0] REFACTORING: the request under way -/
  refac : Option Refac
  /-- [1; 08 Table 8-9; reset 0] PENDING: the request waiting -/
  refacNext : Option Refac
  /-- [1; 08 Table 8-9; reset 0] STALE -/
  stale : Bool
  /-- [12; 08 Table 8-9; reset 0] GENERATION -/
  generation : Nat
  /-- [15; 08 Table 8-9; reset 0] UPD_SINCE -/
  updSince : Nat
  /-- [statuses; 08 R274; reset none] branches closed in the factor -/
  facClosed : List Nat
  /-- [uses; 08 R274; reset none] measurements used in the factor -/
  facUses : List Nat
  /-- [16+16; 08 R278 Table 8-6; reset none given: DESIGN CHOICE 0] TS_FACTOR_TIME: run time and queue wait -/
  runUs : Nat
  waitUs : Nat
  /-- [per node; 08 Table 8-2; reset none: 1 at angle 0] last solution, parts in 2^-32 pu -/
  solution : Tbl (Int × Int)
  /-- [16 results; 08 R284; reset none] retained results, newest instant first -/
  results : List TsResult
deriving DecidableEq, Repr

def Ts.reset : Ts :=
  { model := none, epoch := 0, older := [], p := ⟨0, 0, 60, 3, 11, 3, 1, 0x14, 0x300, 0x254⟩, last := [], forces := [],
    conflicts := [], unknowns := [], chi2Open := false, prevAnchors := none, cuts := [], valid := false, refac := none,
    refacNext := none, stale := false, generation := 0, updSince := 0, facClosed := [], facUses := [], runUs := 0,
    waitUs := 0, solution := [], results := [] }

/-! ### The Sirocco oscillation engine (chapter 09) -/

/-- A band record (Table 9-5). -/
structure BandRec where
  /-- [40; 09 R297] m of its tag t_m -/
  m : Nat
  /-- [80; 09 Table 9-5] TAG, 2^-16 ns -/
  tag : Int
  valid : Bool
  filled : Bool
  restart : Bool
  accSat : Bool
  brUnsettled : Nat
  zcUnsettled : Nat
  zcValid : Nat
  br : List Nat
  zc : List Int
  sample : Int
  /-- dispatch decisions made before its commit (10 R323; model) -/
  made : Nat
deriving DecidableEq, Repr

/-- One input of a signal: instant, validity, replaced by the last valid input, value (09 R295, R299). -/
structure SigInput where
  k : Nat
  valid : Bool
  replaced : Bool
  v : Int
deriving DecidableEq, Repr

/-- One decimated sample in the slow-path window (09 R299, R305). -/
structure WinSample where
  m : Nat
  valid : Bool
  v : Int
deriving DecidableEq, Repr

/-- State of one band of a signal (09 R301): the last four outputs, energy and growth, in 2^-96. -/
structure BandState where
  ys : List Int
  e : Int
  g : Int
deriving DecidableEq, Repr

/-- A band as it starts (09 R302). -/
def BandState.zero : BandState := ⟨[0, 0, 0, 0], 0, 0⟩

/-- A signal (09 R293). -/
structure Sig where
  /-- [settings; 09 Table 9-15; reset not defined] KIND, GROUP, sources, FS_FLOW, ZC_FLOOR -/
  p : SigP
  /-- [58 inputs; 09 R297; reset empty] inputs within the decimator's span, newest first -/
  inputs : List SigInput
  /-- [count; 09 R299; reset 0] consecutive invalid inputs -/
  invalidRun : Nat
  /-- [18; 09 R299; reset none] last valid input -/
  lastValid : Option Int
  /-- [4,000 samples and more; 09 R305; reset empty] decimated samples, newest first -/
  window : List WinSample
  /-- [16 bands; 09 R301 R302; reset zero] band states -/
  bands : List BandState
  /-- [4 samples; 09 R301; reset zero] decimated samples before the present one, newest first: the filters' input history -/
  xs : List Int
  /-- [40; 09 R302; reset none] m of the last restart -/
  restartM : Option Nat
  /-- [1; 09 R299; reset 0] the samples since the last valid one are invalid: a SIGNAL_GAP episode -/
  gap : Bool
  /-- [8 records; 09 R310; reset none] band records, newest first -/
  recs : List BandRec
  /-- [count; 09 R312; model] dispatch decisions made before its definition: items dispatched later see it -/
  since : Nat
  /-- [count; 09 R312; model] dispatch decisions made before an OSC.RESTART not yet applied -/
  again : Option Nat
deriving DecidableEq, Repr

/-- A track of a group (09 R308, R309). -/
structure Track where
  /-- [18; 09 R308] f, MF18 -/
  freq : Nat
  /-- [18; 09 R308] zeta -/
  zeta : Int
  /-- [count; 09 R308] misses -/
  miss : Nat
  /-- [1; 09 R309 Table 9-12; reset 0] FORCED -/
  forced : Bool
  /-- [count; 09 R309] consecutive candidate updates -/
  cand : Nat
  /-- [count; 09 R309] consecutive updates without candidacy -/
  calm : Nat
  /-- [32; 09 Table 9-7] AGE -/
  age : Nat
deriving DecidableEq, Repr

/-- A mode of a slow record (Table 9-7). -/
structure SlowMode where
  freq : Nat
  zeta : Int
  amp : Nat
  track : Nat
  forced : Bool
  fresh : Bool
  peakRatio : Nat
  age : Nat
  shape : List (Nat × Nat)
deriving DecidableEq, Repr

/-- A slow record (Table 9-6). -/
structure SlowRec where
  /-- [80; 09 Table 9-6] TAG, 2^-16 ns -/
  tag : Int
  nsig : Nat
  used : Nat
  flags : Nat
  samples : Nat
  seq : Nat
  excl : Nat
  modes : List SlowMode
  /-- dispatch decisions made before its commit (10 R323; model) -/
  made : Nat
deriving DecidableEq, Repr

/-- A signal of a group as a slow update sees it: its number, RUN and ZC_FLOOR, and its RUN newest samples at the window end, newest
first (09 R305, R307, R309). -/
structure SlowSig where
  sig : Nat
  run : Nat
  floor : Nat
  data : List Int
deriving DecidableEq, Repr

/-- What a slow update starts with at its dispatch (09 R305, R312): the second S, the window end E as m of its tag, the
group's definition and its signals. -/
structure SlowSnap where
  sec : Int
  e : Option Nat
  p : OscGroupP
  sigs : List SlowSig
deriving DecidableEq, Repr

/-- A signal group (09 R300). -/
structure OscGroup where
  /-- [settings; 09 Table 9-3; reset not defined] parameters -/
  p : OscGroupP
  /-- [8 tracks; 09 R308; reset all free] tracks in use, by number -/
  tracks : Tbl Track
  /-- [32; 09 Table 9-6; reset 0] SEQ of the latest record -/
  seq : Nat
  /-- [RETAIN records; 09 R310; reset none] slow records, newest first -/
  recs : List SlowRec
  /-- [update; 09 R305; model] the update in service -/
  snap : Option SlowSnap
  /-- [1; 09 R312; model] an OSC.RESTART not yet applied -/
  again : Bool
deriving DecidableEq, Repr

/-- The oscillation engine SC. -/
structure Sc where
  /-- [settings; 09 Tables 9-9 9-10; reset NQ 0 OSC_GID 0 CYCLES 4 FILL_MAX 2 MEAS_REQ TIME_OK required, STAT_ERR excluded,
  UNSETTLED allowed; CMP 0; UPDATE_OFS_MS 250 SLOW_JOB 0 (DESIGN CHOICE) TRACK_HOLD 5 FORCED_N 3 TRACK_DF 20 TRACK_DZ 50
  FORCED_ZETA 5 FORCED_PR 80] OSC.CONFIG -/
  p : OscP
  /-- [1,024; 09 R293; reset none defined] signals -/
  sigs : Tbl Sig
  /-- [128; 09 R300; reset none defined] signal groups -/
  groups : Tbl OscGroup
  /-- [40; 09 R297; reset none] m of the next decimated sample -/
  nextM : Option Nat
  /-- [10; 09 Table 9-9; reset none given: DESIGN CHOICE 0] SC_SEL -/
  sel : Nat
  /-- [3 x 32; 09 Table 9-9; reset DEFINED 0, others none given: DESIGN CHOICE 0] SC_SIG0 to SC_SIG2 -/
  sig : List Nat
deriving DecidableEq, Repr

def Sc.reset : Sc :=
  ⟨⟨0, 0, 4, 2, 3, 0, 250, 0, 5, 3, 20, 50, 5, 80⟩, [], [], none, 0, [0, 0, 0]⟩

/-! ### Alarms and acquisition (chapter 10) -/

/-- An alarm rule (10 R318, R325, Table 10-10). -/
structure Rule where
  /-- [48 B; 10 Table 10-1; reset not defined] rule block -/
  p : RuleP
  /-- [1; 10 Table 10-10; reset 0] EN -/
  en : Bool
  /-- [1; 10 Table 10-10; reset 0] ACTIVE -/
  active : Bool
  /-- [1; 10 Table 10-10; reset 0] FORCED -/
  forced : Bool
  /-- [8; 10 Table 10-10; reset 0] PICK -/
  pick : Nat
  /-- [8; 10 Table 10-10; reset 0] DROP -/
  drop : Nat
  /-- [1; 10 Table 10-10; reset 0] LAST_VALID -/
  lastValid : Bool
  /-- [32; 10 Table 10-8; reset none given: DESIGN CHOICE 0] last operand value -/
  lastVal : Int
  /-- [40; 10 R325; reset none] last_k -/
  lastK : Option Nat
  /-- [40; 10 R323; reset none] SEQ or TAG of the Sirocco record last used -/
  lastSrc : Option Nat
  /-- [1; 10 R325; reset 0] an episode of invalid operands is open -/
  invalidOpen : Bool
  /-- [1; 10 R344; reset 0] disabled, to clear at the next decision of its group -/
  stopping : Bool
  /-- [1; 10 R342; reset none] made by command -/
  byCommand : Bool
deriving DecidableEq, Repr

/-- An ALM line (10 R326). -/
structure AlmLine where
  /-- [2; 10 Table 10-8; reset none given: DESIGN CHOICE 0 (LEVEL)] MODE -/
  mode : Nat
  /-- [24; 10 Table 10-8; reset none given: DESIGN CHOICE 1] PULSE_US -/
  pulseUs : Nat
  /-- [1; 10 R326; reset 0] LATCHED set -/
  latched : Bool
  /-- [time; 10 R326; reset none] FRC time at which the running pulse ends, 0.01 ns -/
  pulseEnd : Option Nat
deriving DecidableEq, Repr

def AlmLine.reset : AlmLine := ⟨0, 1, false, none⟩

/-- A cross-trigger input as TM stamps it (10 R331, Table 10-8). -/
structure Xin where
  /-- [96; 10 Table 10-8; reset none given: DESIGN CHOICE 0] last stamp, 2^-16 ns -/
  stamp : Int
  /-- [16; 10 Table 10-8; reset none given: DESIGN CHOICE 0] edges -/
  edges : Nat
  /-- [time; 10 R331; reset none] stamp of the previous qualifying edge, 2^-16 ns -/
  prev : Option Int
deriving DecidableEq, Repr

def Xin.reset : Xin := ⟨0, 0, none⟩

/-- The alarm unit AL. -/
structure Al where
  /-- [4,096; 10 R318; reset none defined] rules -/
  rules : Tbl Rule
  /-- [8; 10 R326; reset each AlmLine.reset] lines -/
  lines : Tbl AlmLine
  /-- [8; 10 Table 10-8; reset 0] ALM as driven -/
  alm : Nat
  /-- [time; 10 R327; reset 0] FRC times at which ALM_STB last rose or will rise, and fell or will fall, 0.01 ns -/
  stbRise : Nat
  stbFall : Nat
  /-- [1; 10 R327; reset 0] a change of the lines waits for ALM_STB -/
  deferred : Bool
  /-- [settings; 10 Tables 10-8 10-9; reset XIN_EDGE 0 FWD 0 XIN_NOTE 0 NQ 0 STB_NS 40; XTRIG_PULSE_NS and XIN_LAT_NS none
  given: DESIGN CHOICE 8 and 0] parameters of ALARM.XTRIG_CONFIG -/
  x : XtrigP
  /-- [2; 10 R331; reset each Xin.reset] cross-trigger inputs -/
  xin : Tbl Xin
  /-- [12; 10 Table 10-8; reset none given: DESIGN CHOICE 0] AL_SEL -/
  sel : Nat
  /-- [3 x 32; 10 Table 10-10; AL_RULE0 reset 0, others none given: DESIGN CHOICE 0] AL_RULE0 to AL_RULE2 -/
  rule : List Nat
deriving DecidableEq, Repr

def Al.reset : Al := ⟨[], [], 0, 0, 0, false, ⟨0, 0, 0, 0, 8, 0, 40⟩, [], 0, [0, 0, 0]⟩

/-- A record on its way to a ring (10 R334, Tables 10-6 and 10-7): header fields, the times of MARK and END, and the words
of its member entries. -/
structure AqRec where
  seq : Nat
  type : Nat
  flags : Nat
  gid : Nat
  index : Nat
  entries : Nat
  aux : Nat
  markNo : Nat
  source : Nat
  sourceId : Nat
  trig : Int
  first : Nat
  last : Nat
  words : List Nat
deriving DecidableEq, Repr

/-- What a reduction keeps of one channel in the open block (10 R333, Table 10-7). -/
structure AqChan where
  ch : Nat
  n : Nat
  lo : Int
  hi : Int
  sum : Int
  sq : Int
  orBits : Nat
  andBits : Nat
  last : Int
deriving DecidableEq, Repr

/-- What a reduction keeps of one member in the open block. -/
structure AqMem where
  sid : Nat
  flags : Nat
  missing : Nat
  valid : Nat
  chans : List AqChan
deriving DecidableEq, Repr

/-- The open block of a reduction (10 R333). -/
structure AqBlock where
  b : Nat
  released : Nat
  flags : Nat
  mems : List AqMem
deriving DecidableEq, Repr

/-- A recording ring (10 R333 to R338). -/
structure AqRing where
  /-- [settings; 10 Table 10-12, Table 10-16; reset not defined] KIND, LOG2_SLOTS, N, VECTOR, STATUS_EVERY, BASE,
  STATUS_ADDR -/
  p : AqRingP
  /-- [1; 10 Table 10-12; reset 0] ADDR_SET -/
  addressed : Bool
  /-- [32; 10 R334; reset 0] next SEQ -/
  seq : Nat
  /-- [32; 10 R338; reset 0] link-dropped count since enable -/
  dropped : Nat
  /-- [1; 10 R340; reset 0] a LINK_DROP episode is open -/
  dropOpen : Bool
  /-- [block; 10 R333; reset none] open block of a reduction -/
  blk : Option AqBlock
  /-- [fraction; 10 R335; reset 4 x RATE] budget for LATE and AMEND records, and the FRC count at which it stood so -/
  budget : Rat
  budgetAt : Nat
  /-- [records; 10 R340; reset none] records in the staging buffer, oldest first -/
  staged : List AqRec
  /-- [1; 10 R342; reset none] made by command -/
  byCommand : Bool
deriving DecidableEq, Repr

/-- A trigger window of a channel (10 R336, R337). -/
structure AqWindow where
  no : Nat
  trig : Int
  first : Nat
  last : Nat
deriving DecidableEq, Repr

/-- A recording channel (10 Table 10-16). -/
structure AqChannel where
  /-- [settings; 10 Table 10-11; reset not defined] GID, SRC_EN, RETRIG, MEMBER_FIRST, MEMBER_COUNT, CH_MASK, PRE, POST,
  MARK_RATE -/
  p : ChanP
  /-- [1; 10 Table 10-11; reset 0] EN -/
  en : Bool
  /-- [32; 10 Table 10-8; reset none given: DESIGN CHOICE 0] MARK_NO of the newest window -/
  markNo : Nat
  /-- [32; 10 R337; reset 0 (DESIGN CHOICE)] number of the next window -/
  nextNo : Nat
  /-- [40; 10 R335; reset none] first index no record of the channel covers -/
  nextK : Nat
  /-- [fraction; 10 R337; reset MARK_RATE] tokens, and the FRC count at which they stood so -/
  tokens : Rat
  tokensAt : Nat
  /-- [16; 10 R337; reset none] open windows, oldest first -/
  windows : List AqWindow
  /-- [1; 10 R342; reset none] made by command -/
  byCommand : Bool
deriving DecidableEq, Repr

/-- Acquisition AQ. -/
structure Aq where
  /-- [5; 10 Table 10-8; reset none given: DESIGN CHOICE 0] NQ -/
  nq : Nat
  /-- [16; 10 R332; reset none defined] channels -/
  chans : Tbl AqChannel
  /-- [64; 10 R332; reset none defined] rings by 4c + j -/
  rings : Tbl AqRing
  /-- [16; 10 Table 10-8; reset 2,048] low-water mark of free staging KiB -/
  lowKib : Nat
deriving DecidableEq, Repr

def Aq.reset : Aq := ⟨0, [], [], 2048⟩

/-! ### Anchor channels and energy (chapter 11) -/

/-- A decimated output of an anchor channel (11 R354, R359). -/
structure SdSample where
  /-- [time; 11 R354] FRC count and device time, in 2^-16 ns, of the SD_CLK edge at its boundary -/
  frc : Nat
  stamp : Int
  /-- [18 each; 11 R353] RECORD and ALARM samples, AV18 of FS, when valid -/
  vRec : Option Int
  vAlm : Option Int
  /-- [1 each; 11 R359] they carry UNSETTLED -/
  recUns : Bool
  almUns : Bool
  /-- [1; 11 R352] no output: the channel restarted here -/
  mark : Bool
deriving DecidableEq, Repr

/-- An anchor channel (11 R350 to R359, Tables 11-7 and 11-9). -/
structure MChan where
  /-- [settings; 11 Table 11-9; reset EN 0 KIND 0 SENSOR 0 RESP_REC 2 RESP_ALM 3 INVERT 0 HPF 0 TEMP_SRC 0 TEMP_CH 0; FS none
  given: DESIGN CHOICE 0] parameters of METER.CHANNEL_CONFIG -/
  p : MChanP
  /-- [settings; 11 Table 11-3; reset GAIN_S 1.0; GAIN_R 1.0 and the others 0: DESIGN CHOICE] calibration -/
  c : CalP
  /-- [16 signed; 11 R353 Table 11-7; reset none received] T in use, LSB 1/256 degree -/
  temp : Option Int
  /-- [time; 11 R353; reset none] FRC count of the last METER.SENSOR_TEMP -/
  tempAt : Option Nat
  /-- [16 signed; 11 R353; reset none] value of the last METER.SENSOR_TEMP -/
  hostTemp : Option Int
  /-- [1; 11 Table 11-7; reset 0] TEMP_STALE -/
  tempStale : Bool
  /-- [1; 11 R352 Table 11-7; reset 0] MOD_FAULT -/
  modFault : Bool
  /-- [count; 11 R359; reset 0] RECORD samples since the restart, while they carry UNSETTLED -/
  recCount : Nat
  /-- [count; 11 R359; reset 0] ALARM samples since the restart, while they carry UNSETTLED -/
  almCount : Nat
  /-- [18; 11 R353; reset none] last RECORD sample, AV18 of FS, when valid -/
  recSample : Option Int
  /-- [18; 11 R353; reset none] last ALARM sample, AV18 of FS, when valid -/
  almSample : Option Int
  /-- [1; 11 R352; reset 0] OVERRANGE of the last sample -/
  overrange : Bool
  /-- [18; 11 Table 11-7; reset none given: DESIGN CHOICE 0] RECORD RMS and ALARM RMS -/
  recRms : Nat
  almRms : Nat
  /-- [time; 11 R359; reset 0] FRC counts at which they were last updated -/
  recRmsAt : Nat
  almRmsAt : Nat
  /-- [65,536 outputs; 11 R354 to R360; reset empty] outputs that blocks and windows still need, newest first -/
  hist : List SdSample
  /-- [2 x 2 fixed point; 11 R353; reset 0] input and output of the high-pass filter at the last sample, RECORD and ALARM, in
  2^-64 -/
  hpRec : Int × Int
  hpAlm : Int × Int
deriving DecidableEq, Repr

def MChan.reset : MChan :=
  { p := ⟨0, 0, 0, 0, 2, 3, false, false, 0, 0, 0⟩, c := ⟨0, 2 ^ 30, 0, 2 ^ 30, 0, 0, 0, 0, 0, 0, 0⟩, temp := none,
    tempAt := none, hostTemp := none, tempStale := false, modFault := false, recCount := 0, almCount := 0, recSample := none,
    almSample := none, overrange := false, recRms := 0, almRms := 0, recRmsAt := 0, almRmsAt := 0, hist := [], hpRec := (0, 0),
    hpAlm := (0, 0) }

/-- An energy register: COUNT, fraction in 2^-48 ULSB, ROLLOVER (11 R367). -/
structure EReg where
  count : Nat
  frac : Nat
  roll : Nat
deriving DecidableEq, Repr

/-- A metering element (11 R364 to R368, Tables 11-10 and 11-11). -/
structure Elem where
  /-- [settings; 11 Table 11-10; reset EN 0 PHASES 0 DIR 0 ULSB 3 DIGITS 12; channels and NOLOAD_VA none given: DESIGN
  CHOICE 0] parameters of METER.ELEMENT_DEFINE -/
  p : ElemP
  /-- [1; 11 Table 11-10; reset 0] EN -/
  en : Bool
  /-- [1; 11 R364; reset 0] defined -/
  defd : Bool
  /-- [8 x (64 + 48 + 32); 11 R367; reset 0 when no copy is valid] energy registers -/
  regs : List EReg
  /-- [1; 11 Table 11-11; reset 0] RUNNING -/
  running : Bool
  /-- [1; 11 Table 11-11; reset 0] NOLOAD -/
  noload : Bool
  /-- [2; 11 Table 11-11; reset 0] QUADRANT -/
  quadrant : Nat
  /-- [1; 11 Table 11-11; reset 0] PHASE_INVALID -/
  phaseInvalid : Bool
  /-- [time; 11 R365; reset 0] FRC count at which the open block started -/
  blockAt : Nat
  /-- [3; 11 R365; reset 0] blocks since the tracked frequency was last updated -/
  cycle : Nat
  /-- [fraction; 11 Table 11-7; reset none given: DESIGN CHOICE 0] P and Q of the last block, W and var -/
  lastP : Rat
  lastQ : Rat
  /-- [18; 11 R365 Table 11-7; reset none given: DESIGN CHOICE 0] tracked f, FQ18 -/
  trackedF : Int
  /-- [fraction; 11 R372; reset 0] S_PEAK, VA -/
  sPeak : Rat
  /-- [time; 11 R368; reset none] FRC count at which an invalid episode began -/
  badSince : Option Nat
  /-- [time; 11 R373 R374 R375; reset none] device time in 2^-16 ns at which accumulation stopped, its METER_OUTAGE being
  due, and how: 0 at the next block with S_FS, 1 at the next block with S_PEAK, 2 at the next step with S_PEAK -/
  stopped : Option (Int × Nat)
deriving DecidableEq, Repr

def Elem.reset : Elem :=
  { p := ⟨0, 0, 0, 3, 12, [], 0⟩, en := false, defd := false, regs := List.replicate 8 ⟨0, 0, 0⟩, running := false,
    noload := false, quadrant := 0, phaseInvalid := false, blockAt := 0, cycle := 0, lastP := 0, lastQ := 0, trackedF := 0,
    sPeak := 0, badSince := none, stopped := none }

/-- A pulse output (11 R370). -/
structure Pulse where
  /-- [settings; 11 Table 11-7; reset EN 0; others none given: DESIGN CHOICE 0, WIDTH_MS 20] parameters -/
  p : PulseP
  /-- [count; 11 R370; reset 0] residue, ULSB -/
  residue : Nat
  /-- [255 times; 11 R370; reset empty] due times of the backlog, FRC counts, oldest first -/
  backlog : List Nat
  /-- [32; 11 Table 11-7; reset none given: DESIGN CHOICE 0] pulses -/
  count : Nat
  /-- [time; 11 R370; reset none] FRC counts of the previous pulse's start and of its high time -/
  prev : Option (Nat × Nat)
  /-- [1; 11 R370; reset 0] the output is in its pulse -/
  high : Bool
  /-- [1; 11 R370; reset 0] a PULSE_OVF episode is open -/
  ovfOpen : Bool
deriving DecidableEq, Repr

def Pulse.reset : Pulse := ⟨⟨0, 0, 0, 0, 20, 0, 0⟩, 0, [], 0, none, false, false⟩

/-- An anchor virtual stream (11 R360, Table 11-7). -/
structure Vs where
  /-- [settings; 11 Table 11-7; reset not defined] parameters -/
  p : VsP
  /-- [32; 11 Table 11-7; reset none given: DESIGN CHOICE 0] latency of the last report, us -/
  latency : Nat
  /-- [32; 11 Table 11-7; reset none given: DESIGN CHOICE 0] reports -/
  reports : Nat
  /-- [1; 11 R362; reset 0] STAT[10] is due in the next report -/
  changed : Bool
  /-- [time; 11 R360; reset none] t_n of the last report, 2^-16 ns -/
  last : Option Int
deriving DecidableEq, Repr

/-- Anchor metrology AM. -/
structure Am where
  /-- [5; 11 Table 11-8; reset 0] NQ -/
  nq : Nat
  /-- [12; 11 Table 11-8; reset 60] SAVE_S -/
  saveS : Nat
  /-- [1; 11 Table 11-8; reset 0] SDCLK_EN -/
  sdclkEn : Bool
  /-- [12; 11 Table 11-7; reset each MChan.reset] channels -/
  chans : Tbl MChan
  /-- [4; 11 R364; reset each Elem.reset] elements -/
  els : Tbl Elem
  /-- [4; 11 R370; reset each Pulse.reset] pulse outputs -/
  pulses : Tbl Pulse
  /-- [8; 11 R360; reset none defined] virtual streams -/
  vss : Tbl Vs
  /-- [8; 11 R372; reset none defined] Ballast sets -/
  sets : Tbl BallastP
  /-- [16; 11 Table 11-7; reset none given: DESIGN CHOICE 0] duration of the last Ballast write, 0.1 us -/
  pfwDur : Nat
  /-- [16; 11 Table 11-7; reset 0] Ballast writes since BOOT -/
  ballastWrites : Nat
  /-- [1; 11 R372; reset 0] accumulation is stopped by PFW_N or RESET_N -/
  halted : Bool
  /-- [time; 11 R371; reset 0] FRC counts of the last periodic save and alive stamp -/
  savedAt : Nat
  aliveAt : Nat
  /-- [time; 11 R351 R356; reset 0] FRC count of the decimation boundary that the last start of SD_CLK or SD_SYNC gave
  channel 0 -/
  sdBase : Nat
  /-- [1,024 times; 11 R354 R365; reset empty] FRC counts of channel 0's decimation boundaries, newest first -/
  bounds : List Nat
  /-- [64; 11 R378; reset none given: DESIGN CHOICE 0] latched COUNT high and ROLLOVER by 8 x element + register -/
  latch : Tbl (Nat × Nat)
deriving DecidableEq, Repr

def Am.reset : Am :=
  { nq := 0, saveS := 60, sdclkEn := false, chans := [], els := [], pulses := [], vss := [], sets := [], pfwDur := 0,
    ballastWrites := 0, halted := false, savedAt := 0, aliveAt := 0, sdBase := 0, bounds := [], latch := [] }

/-! ### Persistent stores -/

/-- One value an operation or event makes visible outside: the model's own history of outputs. -/
inductive Out where
  /-- completion record in slot of completion ring (02 R50) -/
  | completion (ring slot : Nat) (r : Record)
  /-- completion record in the mailbox FIFO (02 R67) -/
  | mailbox (r : Record)
  /-- 16-byte status block of a ring pair written at its HI_SB_BASE (02 R45) -/
  | statusBlock (ring addr : Nat) (bytes : List Nat)
  /-- an MSI-X vector fires (02 R59) -/
  | msix (vector : Nat)
  /-- data returned by a read, or shifted out on a management port (02 R41, R64) -/
  | readData (bytes : List Nat)
  /-- bytes written to host memory at an address (02 R49) -/
  | hostWrite (addr : Nat) (bytes : List Nat)
  /-- a structured report written to host memory at an address: its kind and its words -/
  | hostReport (addr kind : Nat) (words : List Nat)
  /-- a frame on the wire of a port, its FCS that of its contents: kind, port, queue, length, words of content, and under
  MACsec the SecTAG's SCI, AN, PN and whether it is encrypted (03 R99, R101) -/
  | txFrame (kind port queue len : Nat) (words sec : List Nat)
  /-- a received frame handed to a pass-through ring: what is written into its descriptors, as (address, bytes) in the
  order of writing (03 R112) -/
  | ptFrame (ring len : Nat) (descs : List (Nat × List Nat))
  /-- data shifted out on TDO -/
  | jtag (v : Nat)
  /-- a sentence on TOD_TXD for a UTC second (04 R140) -/
  | zda (sec : Int)
deriving DecidableEq, Repr

/-- The state of the GX9. -/
structure State where
  hi : Hi
  cfg : CfgSt
  tm : Tm
  ec : Ec
  ev : Ev
  pm : Pm
  ck : Ck
  jtag : Jtag
  pins : Pins
  ov : Ov
  fuses : Fuses
  cairn : Cairn
  np : Np
  si : Si
  erg : Erg
  cv : Cv
  ts : Ts
  sc : Sc
  al : Al
  aq : Aq
  am : Am
  /-- [48+1 each; 00 R14; reset 0] every statistics counter by its BAR2 address, OVF at bit 63; unlisted ones are 0 -/
  counters : Tbl Nat
  /-- [32; 03 R116; reset none given: DESIGN CHOICE 0] high halves latched by reads of low halves, by BAR2 address -/
  ctrLatch : Tbl Nat
  /-- [image; 02 R74, 15 R492; DESIGN CHOICE none] image that CFG.STORE last wrote to the boot NOR outside the device -/
  nor : Option Image
  /-- [list; model; reset empty] what the device has put out, newest first -/
  out : List Out
  /-- [count; model; DESIGN CHOICE 0] how many free values have been taken -/
  freeCtr : Nat
  /-- [list; model; reset empty] commands waiting, first in first out -/
  pending : List Instr
deriving DecidableEq, Repr

/-- The machine right after reset at power-on, before BOOT has run. -/
def State.reset : State :=
  { hi := Hi.reset, cfg := CfgSt.reset, tm := Tm.reset, ec := Ec.reset, ev := Ev.reset, pm := Pm.reset, ck := Ck.reset,
    jtag := Jtag.reset, pins := Pins.reset,
    ov := Ov.reset, fuses := Fuses.reset, cairn := Cairn.reset, np := Np.reset, si := Si.reset, erg := Erg.reset,
    cv := Cv.reset, ts := Ts.reset, sc := Sc.reset, al := Al.reset, aq := Aq.reset, am := Am.reset,
    counters := [], ctrLatch := [], nor := none, out := [], freeCtr := 0, pending := [] }

end Sys2Proof.Machine
end

