-- ==== Sys2Proof/Machine/Ops.lean ====
section
/-! DEFINITION. The operations every family shares: sparse tables, counters, device time, outputs, notices, event
records, completion records, handles, and the checks every command packet goes through before its own effect. -/

namespace Sys2Proof.Machine

/-! ### Sparse tables -/

/-- The value listed at key `k`. -/
def tfind {α : Type} : Tbl α → Nat → Option α
  | [], _ => none
  | (j, v) :: t, k => if j = k then some v else tfind t k

/-- The value at key `k`, `d` where none is listed. -/
def tget {α : Type} (d : α) (t : Tbl α) (k : Nat) : α := (tfind t k).getD d

/-- `t` with `v` listed at `k`, keys kept rising. -/
def tset {α : Type} : Tbl α → Nat → α → Tbl α
  | [], k, v => [(k, v)]
  | (j, w) :: t, k, v =>
    if k < j then (k, v) :: (j, w) :: t
    else if k = j then (k, v) :: t
    else (j, w) :: tset t k v

/-- `t` with nothing listed at `k`. -/
def tdel {α : Type} (t : Tbl α) (k : Nat) : Tbl α := t.filter (fun e => e.1 != k)

/-- The keys a table lists. -/
def tkeys {α : Type} (t : Tbl α) : List Nat := t.map (·.1)

/-! ### Codes -/

/-- MODE codes (Table 1-8). -/
def Mode.code : Mode → Nat
  | .boot => 0 | .provision => 1 | .commission => 2 | .run => 3 | .holdover => 4 | .degraded => 5 | .doze => 6 | .frozen => 7

/-- The service modes (01 R29). -/
def Mode.isService : Mode → Bool
  | .run => true | .holdover => true | .degraded => true | _ => false

/-- TQ codes (Table 2-2). -/
def Tq.code : Tq → Nat
  | .lockedFine => 0 | .locked => 1 | .holdFresh => 2 | .holdAged => 3 | .freerun => 4 | .fallback => 5 | .invalid => 7

/-- LIFECYCLE codes (12 R382). -/
def Lifecycle.code : Lifecycle → Nat
  | .blank => 0 | .provisioned => 1 | .operational => 2 | .retired => 3

/-! ### Outputs, free values and counters -/

/-- `o` leaves the device. -/
def emit (o : Out) (s : State) : State := { s with out := o :: s.out }

/-- Entry `v` of the MSI-X table. -/
def getMsix (s : State) (v : Nat) : MsixEntry := tget ⟨0, 0, 0⟩ s.hi.msix v

/-- An MSI-X vector fires (02 R59); vector numbers above 63 do not exist. A masked vector sets its pending bit instead (02
R37; PRESUMED, as PCI Express defines vector control and the pending-bit array). -/
def fireVector (v : Nat) (s : State) : State :=
  if 64 ≤ v then s
  else if bit (getMsix s v).control 0 then { s with hi := { s.hi with pba := s.hi.pba ||| 2 ^ v } }
  else emit (.msix v) s

/-- A bit of HI_ERR that becomes set raises vector 48 (02 R42). -/
def raiseErr (was : Bool) (f : Hi → Hi) (s : State) : State :=
  let s' := { s with hi := f s.hi }
  if was then s' else fireVector 48 s'

/-- RING_FAULT of a ring pair (02 R42). -/
def ringErr (n : Nat) (s : State) : State := raiseErr s.hi.ringFault (fun h => { h with ringFault := true, faultRing := n }) s

/-- A ring or parameter-buffer read for a source returned UR, CA or poisoned data: DMA_FAULT (02 R42). The mailbox has no
ring pair to show in FAULT_RING. -/
def dmaErr (src : Src) (s : State) : State :=
  raiseErr s.hi.dmaFault (fun h => { h with dmaFault := true, faultRing := match src with | .ring n => n | .mailbox => h.faultRing }) s

/-- `x` put before the first entry that does not come before it. -/
def insertBy {α : Type} (before : α → α → Bool) (x : α) : List α → List α
  | [] => [x]
  | y :: ys => if before x y then x :: y :: ys else y :: insertBy before x ys

/-- A list sorted by `before`, equal entries in their order. -/
def sortBy {α : Type} (before : α → α → Bool) (l : List α) : List α := l.foldl (fun acc x => insertBy before x acc) []

/-- A free value below `2 ^ w`: nothing constrains it but its width. -/
def freeBits (w : Nat) (s : State) : Nat := Config.free s.freeCtr % 2 ^ w

/-- One free value has been taken. -/
def bumpFree (s : State) : State := { s with freeCtr := s.freeCtr + 1 }

/-- A statistics counter plus `n`: 48 bits, saturating with OVF at bit 63 (00 R14, Table 0-7). -/
def satAdd48 (v n : Nat) : Nat :=
  let ovf := v / 2 ^ 63 * 2 ^ 63
  let x := v % 2 ^ 48 + n
  if x < 2 ^ 48 then ovf + x else 2 ^ 63 + (2 ^ 48 - 1)

/-- Counter at BAR2 address `a` advances by `n` (00 R14). -/
def countN (a n : Nat) (s : State) : State :=
  if n = 0 then s else { s with counters := tset s.counters a (satAdd48 (tget 0 s.counters a) n) }

/-- Counter at BAR2 address `a` advances by one. -/
def count (a : Nat) (s : State) : State := countN a 1 s

/-- Every counter from `a` to below `a + len` is cleared, OVF included (00 R15). -/
def clearCounters (a len : Nat) (s : State) : State :=
  { s with counters := s.counters.filter (fun e => !(a ≤ e.1 && e.1 < a + len)) }

/-! ### Device time (04 R122, R123, R126) -/

/-- Device time of the main path in 2^-40 ns (04 R122). -/
def mainTime (s : State) : Int := s.tm.offset + s.tm.frc * s.tm.rate

/-- The bus time every reader sees, in 2^-40 ns: the fallback clock while the main path is failed or under self-test
(04 R125, R127, R128). -/
def busTime (s : State) : Int := if s.tm.mainFailed || s.tm.selftest then s.tm.fallback * 2 ^ 8 else mainTime s

/-- Bus time in 2^-16 ns, truncated as R123 truncates. -/
def now (s : State) : Int := busTime s / 2 ^ 24

/-- The rate of the clock the bus shows, 2^-40 ns a count. -/
def busRate (s : State) : Nat := if s.tm.mainFailed || s.tm.selftest then s.tm.inc * 2 ^ 8 else s.tm.rate

/-- Device time at which an edge crossed the balls, 2^-16 ns: from the time bus, refined within the CLK_TIME period by steps
of 0.32 ns (04 R130). -/
def stampAt (t : Stamp) (s : State) : Int :=
  (busTime s - (t.age * busRate s : Nat)) / 2 ^ 24 + roundDiv (t.sub * 32 * 2 ^ 16 : Nat) 100

/-- Bus time in whole ns. -/
def nowNs (s : State) : Int := busTime s / 2 ^ 40

/-- In comparing `a` with `b`, `a` precedes: (b - a) mod 2^32 is 1 to 2^31 - 1 (00 R16). -/
def seqBefore (a b : Nat) : Bool :=
  let d := (b + (2 ^ 32 - a % 2 ^ 32)) % 2 ^ 32
  0 < d && d < 2 ^ 31

/-- In comparing `a` with `b`, `b` precedes: (b - a) mod 2^32 is 2^31 or more (00 R16). -/
def seqAfter (a b : Nat) : Bool := 2 ^ 31 ≤ (b + (2 ^ 32 - a % 2 ^ 32)) % 2 ^ 32

/-- DT96 of a time in 2^-16 ns (04 R123). -/
def dt96Of (t : Int) : DT96 :=
  let ns := t / 2 ^ 16
  ⟨(ns / 1000000000 % 2 ^ 48).toNat, (ns % 1000000000).toNat, (t % 2 ^ 16).toNat⟩

/-- DT80 of a time in 2^-16 ns (04 R123). -/
def dt80Of (t : Int) : DT80 :=
  let d := dt96Of t
  ⟨d.sec, d.ns⟩

/-- A DT80 in whole ns. -/
def DT80.toNs (d : DT80) : Int := (d.sec : Int) * 1000000000 + d.ns

/-- A DT96 in 2^-16 ns. -/
def DT96.to16 (d : DT96) : Int := ((d.sec : Int) * 1000000000 + d.ns) * 2 ^ 16 + d.frac

/-- A DT96 as 12 little-endian bytes: the fraction, nanoseconds, seconds (00 R5, R12). -/
def DT96.bytes (d : DT96) : List Nat := leBytes 2 d.frac ++ leBytes 4 d.ns ++ leBytes 6 d.sec

/-- The first `n` 32-bit little-endian words of some bytes. -/
def leWords (n : Nat) (bs : List Nat) : List Nat := (List.range n).map (fun i => ofLeBytes ((bs.drop (4 * i)).take 4))

/-- The ten DTIME bytes of a DT80 (Table 2-9a): nanoseconds, then seconds. -/
def DT80.bytes (d : DT80) : List Nat := leBytes 4 d.ns ++ leBytes 6 d.sec

/-- FRC counts of a span of microseconds, at least as long (one count is 2.56 ns, 04 R121). -/
def countsOfUs (us : Nat) : Nat := ceilDiv (us * 100000) 256

/-! ### Event records (13 R429 to R433) -/

/-- Records a buffered record takes: two with an extension (13 R429). -/
def EvRec.lines (r : EvRec) : Nat := if r.ext.isSome then 2 else 1

/-- BUFFERED (Table 13-11): records awaiting flush. -/
def bufferedLines (ev : Ev) : Nat := listSum (ev.buffer.map (·.entry.lines))

/-- A report of SOURCE, CODE, SEVERITY and ARG as the record it would open (13 R429, R430). -/
def mkRec (source code severity arg : Nat) (ext : Option (List Nat)) (s : State) : EvRec :=
  let valid := s.tm.tq != .invalid
  let d := if valid then dt80Of (now s) else ⟨0, 0⟩
  { opsec := s.cairn.opsec, pcc := s.cairn.pcc, severity := severity, tq := s.tm.tq.code, timeValid := valid, sec := d.sec,
    ns := d.ns, source := source, code := code, rpt := 0, arg := arg % 2 ^ 56, ext := ext }

/-- A record of severity `sev` is lost: counted in EV_LOST_0 to EV_LOST_3, its episode opened (13 R432). -/
def loseRecord (sev : Nat) (s : State) : State :=
  let s := count (0x10E810 + 8 * sev) s
  { s with ev := { s.ev with lostMask := s.ev.lostMask ||| 2 ^ sev, lostOpen := true } }

/-- The position of the newest record of the lowest severity in a buffer of records, oldest first. -/
def victim (b : List BufRec) : Nat :=
  let low := b.foldl (fun m r => min m r.entry.severity) 3
  (b.length - 1) - ((b.reverse.findIdx? (fun r => r.entry.severity == low)).getD 0)

/-- One drop in favour of a record of severity `sev` (13 R432). -/
def dropOne (s : State) : State :=
  let i := victim s.ev.buffer
  let s' := { s with ev := { s.ev with buffer := s.ev.buffer.eraseIdx i } }
  match s.ev.buffer[i]? with
  | some r => loseRecord r.entry.severity s'
  | none => s'

/-- A closed record is admitted to the volatile buffer of 4,096 records, or dropped (13 R432); no flush trigger. -/
def admitOnly (r : EvRec) (s : State) : State :=
  let used := bufferedLines s.ev
  let room := 4096 - used + listSum (s.ev.buffer.map (fun b => if b.entry.severity < r.severity then b.entry.lines else 0))
  if room < r.lines then loseRecord r.severity s
  else
    let s := if 4096 < used + r.lines then dropOne s else s
    let s := if 4096 < bufferedLines s.ev + r.lines then dropOne s else s
    let s := { s with ev := { s.ev with buffer := s.ev.buffer ++ [⟨r, false⟩] } }
    if r.severity == 3 then
      let s := if r.source == 9 then s else { s with ev := { s.ev with faultLatched := true, faultAt := some s.tm.frc } }
      if s.ev.faultVec == 0 then s else fireVector s.ev.faultVec s
    else s

/-- Every open record closes and is admitted, oldest first (13 R431). -/
def closeAll (s : State) : State :=
  s.ev.opens.foldl (fun s o => admitOnly o.entry s) { s with ev := { s.ev with opens := [] } }

/-- A flush starts with what the buffer holds (13 R433): not while the PFW_N actions hold Cairn (13 R434) or in FROZEN
(13 R437). -/
def startFlush (s : State) : State :=
  if s.pm.pfwActions || s.pm.mode == .frozen || s.ev.buffer.isEmpty then s
  else if s.ev.flushing then { s with ev := { s.ev with flushAgain := true } }
  else
    count 0x10E830 { s with ev := { s.ev with flushing := true, flushAgain := false,
                                              buffer := s.ev.buffer.map (fun b => { b with inFlush := true }) } }

/-- A flush trigger (13 R433): close every open record, then flush what the buffer holds; the FLUSH_MS timer restarts. -/
def flushTrigger (s : State) : State :=
  let s := closeAll s
  startFlush { s with ev := { s.ev with lastFlush := s.tm.frc } }

/-- A record closes: admitted, with the flush triggers that admission sets off (13 R432, R433). -/
def closeRecord (r : EvRec) (s : State) : State :=
  let before := bufferedLines s.ev
  let s' := admitOnly r s
  if r.severity == 3 || (before < 2048 && 2048 ≤ bufferedLines s'.ev) then flushTrigger s' else s'

/-- A report that may coalesce meets the open records (13 R431). -/
def coalesce (r : EvRec) (s : State) : State :=
  let same := fun o : OpenRec => o.entry.source == r.source && o.entry.code == r.code && o.entry.severity == r.severity
  match s.ev.opens.find? same with
  | some o =>
    let s := count 0x10E808 s
    let o' := { o with entry := { o.entry with rpt := o.entry.rpt + 1 } }
    if o'.entry.rpt ≥ 255 then closeRecord o'.entry { s with ev := { s.ev with opens := s.ev.opens.filter (fun x => !same x) } }
    else { s with ev := { s.ev with opens := s.ev.opens.map (fun x => if same x then o' else x) } }
  | none =>
    let s := match s.ev.opens with
      | o :: rest => if 16 ≤ s.ev.opens.length then closeRecord o.entry { s with ev := { s.ev with opens := rest } } else s
      | [] => s
    if s.ev.coalesceUs == 0 then closeRecord r s
    else { s with ev := { s.ev with opens := s.ev.opens ++ [⟨r, s.tm.frc⟩] } }

/-- A block reports to EV (13 R429, R431): severity 3 and EXT reports close at once, others meet the open records. -/
def report (source code severity arg : Nat) (ext : Option (List Nat)) (s : State) : State :=
  let r := mkRec source code severity arg ext s
  if severity == 3 || ext.isSome then closeRecord r s else coalesce r s

/-! ### Notice queues (02 R68 to R71) -/

/-- Queue `q` as it stands. -/
def getNq (s : State) (q : Nat) : Nq := tget Nq.reset s.hi.nqs q

/-- Queue `q` replaced. -/
def setNq (q : Nat) (n : Nq) (s : State) : State := { s with hi := { s.hi with nqs := tset s.hi.nqs q n } }

/-- The layout of a notice entry (Table 2-12). -/
def noticeEntry (severity source code qseq arg : Nat) : Nat :=
  2 ^ 63 + fld severity 61 2 + fld source 56 5 + fld code 48 8 + fld qseq 32 16 + arg % 2 ^ 32

/-- `produce` of R69 on one queue. -/
def Nq.produce (n : Nq) (e now : Nat) : Nq :=
  let full := n.w - n.l == 1024
  let l := if full then n.l + 1 else n.l
  { n with
    w := n.w + 1, l := l, r := if n.r < l then l else n.r,
    lost := if full then satAdd48 n.lost 1 else n.lost,
    markLost := n.markLost || (full && n.markValid && n.m < l),
    held := (if full then n.held.drop 1 else n.held) ++ [e],
    timer := if n.r == n.w then some now else n.timer }

/-- The THRESH condition after a change of the unread count: fires once until it clears (02 R71). -/
def Nq.threshFires (n : Nq) : Bool := n.thresh != 0 && n.thresh ≤ n.w - n.r && !n.firedThresh

/-- The fired flags follow their conditions (02 R71). -/
def Nq.settle (n : Nq) : Nq :=
  { n with firedThresh := n.thresh != 0 && n.thresh ≤ n.w - n.r, firedTimeout := n.firedTimeout && n.r != n.w }

/-- A block writes a notice into queue `q`; a disabled queue drops it uncounted (02 R69, R71). -/
def notify (q source code severity arg : Nat) (s : State) : State :=
  let n := getNq s q
  if !n.en then s
  else
    let n' := n.produce (noticeEntry severity source code n.w arg) s.tm.frc
    let s := setNq q n'.settle s
    if n'.threshFires then fireVector (16 + q) s else s

/-- A notice and the event record of the same SOURCE, CODE and SEVERITY (13 R429). -/
def note (q source code severity arg : Nat) (s : State) : State :=
  report source code severity (arg % 2 ^ 32) none (notify q source code severity arg s)

/-- A notice whose record carries its own ARG and extension (Table 13-6). -/
def noteExt (q source code severity arg recArg : Nat) (ext : Option (List Nat)) (s : State) : State :=
  report source code severity recArg ext (notify q source code severity arg s)

/-! ### Completions (02 R45, R50, R59) -/

/-- Ring pair `n` as it stands. -/
def getRing (s : State) (n : Nat) : Ring := tget Ring.reset s.hi.rings n

/-- Ring pair `n` replaced. -/
def setRing (n : Nat) (r : Ring) (s : State) : State := { s with hi := { s.hi with rings := tset s.hi.rings n r } }

/-- Entries of completion ring that a record may still take: a ring holds at most depth - 1 (02 R43). -/
def Ring.cqFree (g : Ring) : Nat := 2 ^ g.cqLog2 - 1 - (g.cqTail + 2 ^ g.cqLog2 - g.cqHead) % 2 ^ g.cqLog2

/-- The 16 bytes of a ring pair's status block (02 R45). -/
def Ring.statusBytes (g : Ring) : List Nat :=
  leBytes 2 g.sqHead ++ leBytes 2 g.cqTail ++ leBytes 4 g.cqCount ++ List.replicate 8 0

/-- One record written to completion ring `n`, with the status block and the vector of R45 and R59. -/
def putRecord (n : Nat) (r : Record) (fires : Bool) (s : State) : State :=
  let g := getRing s n
  let g' := { g with cqTail := (g.cqTail + 1) % 2 ^ g.cqLog2, cqCount := (g.cqCount + 1) % 2 ^ 32 }
  let s := emit (.completion n g.cqTail r) (setRing n g' s)
  let s := emit (.statusBlock n g'.sbBase g'.statusBytes) s
  if fires then fireVector n s else s

/-- Ring `n` takes a record now: completion writing is on (Table 2-6) and an entry is free. -/
def Ring.takes (g : Ring) : Bool := g.cqEn && g.cqFree != 0

/-- Records that wait for ring `n` are written while it takes them. -/
def drainRing (n : Nat) : Nat → State → State
  | 0, s => s
  | fuel + 1, s =>
    let g := getRing s n
    match g.outbox with
    | (r, fires) :: rest => if g.takes then drainRing n fuel (putRecord n r fires (setRing n { g with outbox := rest } s)) else s
    | [] => s

/-- A record goes where completions of `src` go. No completion record is ever dropped (02 R46): one that its ring does not
take waits. -/
def writeRecord (src : Src) (r : Record) (fires : Bool) (s : State) : State :=
  match src with
  | .mailbox => emit (.mailbox r) { s with hi := { s.hi with mb := { s.hi.mb with fifo := s.hi.mb.fifo ++ [r] } } }
  | .ring n =>
    let g := getRing s n
    if g.takes && g.outbox.isEmpty then putRecord n r fires s
    else setRing n { g with outbox := g.outbox ++ [(r, fires)] } s

/-- A completion record with the device time of its decision (Table 2-9a). -/
def mkRecord (handle status stag : Nat) (result : List Nat) (s : State) : Record :=
  let d := dt80Of (now s)
  ⟨handle, status, stag, d.sec, d.ns, padTo 16 result⟩

/-! ### Registered authorization (12 R386, R387) -/

/-- Key slot `n`, none when FREE. -/
def getSlot (s : State) (n : Nat) : Option Slot := tfind s.ov.slots n

/-- Whether a command needs an owner tag, and of which kind (02 R63, 12 R411). -/
inductive AuthNeed where
  | free | owner | alg1
deriving DecidableEq, Repr

/-- What the opcode table and its chapter fix of one command before its class-specific statuses (02 R51). -/
structure CmdSpec where
  /-- the opcode -/
  opcode : Nat
  /-- length of its parameters, variable parts included and the tag not -/
  plen : Nat
  /-- any further length condition -/
  lenOk : Bool := true
  /-- the tag it needs -/
  auth : AuthNeed := .free
  /-- the owner key an ALG 1 tag verifies under (12 R386, R402) -/
  key : Option Nat := none
  /-- every value in range -/
  paramOk : Bool := true
  /-- admitted in the present mode and lifecycle -/
  modeOk : Bool := true
  /-- every domain it needs is on -/
  domOk : Bool := true
  /-- order in Table 14-7 of the block it needs, 0 for none -/
  blk : Nat := 0
  /-- completes BUSY while a CFG.LOAD runs -/
  cfgBusy : Bool := false
deriving DecidableEq, Repr

/-- The last accepted counter of an ALG 2 key. -/
def slotCtr (s : State) (n : Nat) : Nat := ((getSlot s n).map (·.ctr)).getD 0

/-- An ALG 2 tag's slot may authorize (12 R386, R393): VALID, HMAC, MAC_VER, OWNER; not in BOOT or PROVISION. -/
def ownerSlotOk (s : State) (n : Nat) : Bool :=
  match getSlot s n with
  | some k => !k.orphaned && k.alg == 1 && bit k.usage 4 && k.owner && s.pm.mode != .boot && s.pm.mode != .provision
  | none => false

/-- The message a tag covers (12 R385): OPCODE, AUTH_OFS, PLEN, DEVICE_UID, LIFECYCLE and the parameter bytes with VALUE zero;
the fields are little-endian as in the packet (DEDUCED from 00 R5; log 85). -/
def tagMessage (h : Hdr) (opcode : Nat) (s : State) : List Nat :=
  let head := h.authOfs + 8
  leBytes 2 opcode ++ leBytes 2 h.authOfs ++ leBytes 2 h.plen ++ leBytes 16 s.fuses.uid ++ [s.fuses.lifecycle.code] ++
  h.params.take head ++ List.replicate (h.params.length - head) 0

/-- VALUE of a tag: what follows its 8 bytes of head. -/
def tagValue (h : Hdr) : List Nat := h.params.drop (h.authOfs + 8)

/-- The owner key an ALG 1 tag verifies under: the one the command carries, else KREG's (12 R386, R402). -/
def tagKey (c : CmdSpec) (s : State) : Option Nat :=
  match c.key with
  | some k => some k
  | none => if s.ov.ownerBad then none else s.ov.kreg

/-- VALUE of an ALG 1 tag is the owner's signature. -/
def tagSigned (h : Hdr) (c : CmdSpec) (s : State) : Bool :=
  match tagKey c s with
  | some k => ecdsaVerify p384 (beBytes 96 k) (tagMessage h c.opcode s) (tagValue h)
  | none => false

/-- VALUE of an ALG 2 tag is the MAC under its slot's key. -/
def tagMaced (h : Hdr) (c : CmdSpec) (t : Tag) (s : State) : Bool :=
  match getSlot s t.keySlot with
  | some k => tagValue h == (hmacSha256 (beBytes 32 k.material) (tagMessage h c.opcode s)).take 16
  | none => false

/-- The verdict on a tag, 0 when it verifies; the flag says that the counter alone failed it (12 R386). -/
def tagVerdict (h : Hdr) (c : CmdSpec) (t : Tag) (s : State) : Nat × Bool :=
  if t.alg == 1 then
    if !tagSigned h c s then (0x41, false)
    else if t.ctr ≤ s.cairn.ownerCtr then (0x41, true)
    else (0, false)
  else if t.alg == 2 then
    if c.auth == .alg1 then (0x41, false)
    else if ((getSlot s t.keySlot).map (·.orphaned)).getD false then (0x42, false)
    else if !ownerSlotOk s t.keySlot || !tagMaced h c t s then (0x41, false)
    else if t.ctr ≤ slotCtr s t.keySlot then (0x41, true)
    else (0, false)
  else (0x41, false)

/-- The authorization checks of step 3 of R51. -/
def authVerdict (h : Hdr) (c : CmdSpec) (s : State) : Nat × Bool :=
  match h.auth with
  | none => if c.auth == .free then (0, false) else (0x40, false)
  | some t => tagVerdict h c t s

/-- What a failed tag leaves: OV_AUTH_FAIL, OV_AUTH_REPLAY, the AUTH_FAIL notice once per second, or OV_KEY_REVOKED
(12 R386, Tables 12-10 and 12-11). -/
def authFailure (h : Hdr) (c : CmdSpec) (s : State) : State :=
  match authVerdict h c s with
  | (0x41, replay) =>
    let s := count 0x10D008 s
    let s := if replay then count 0x10D010 s else s
    let due := match s.ov.authNoteAt with
      | none => true
      | some a => a + 390625000 ≤ s.tm.frc
    if due then note s.ov.nq 12 0x05 1 (c.opcode % 2 ^ 16) { s with ov := { s.ov with authNoteAt := some s.tm.frc } }
    else s
  | (0x42, _) => count 0x10D018 s
  | _ => s

/-- The counter of an accepted tag is recorded (12 R387), OV_AUTH_OK counts, and COUNTER_LOW is queued when fewer than
2^20 values remain (Table 12-11). -/
def consumeTag (h : Hdr) (s : State) : State :=
  match h.auth with
  | none => s
  | some t =>
    let s := count 0x10D000 s
    if t.alg == 1 then
      let low := s.cairn.ownerCtr < 2 ^ 32 - 2 ^ 20 && 2 ^ 32 - 2 ^ 20 ≤ t.ctr
      let s := { s with cairn := { s.cairn with ownerCtr := t.ctr } }
      if low then note s.ov.nq 12 0x06 2 2 s else s
    else match getSlot s t.keySlot with
      | some k => { s with ov := { s.ov with slots := tset s.ov.slots t.keySlot { k with ctr := t.ctr } } }
      | none => s

/-! ### The checks of a dispatched command (02 R51) -/

/-- Length of a tag (02 R63); a tag of another ALG needs its 8 header bytes. -/
def tagLen (t : Tag) : Nat := if t.alg == 1 then 104 else if t.alg == 2 then 24 else 8

/-- Step 2 of R51: PLEN, AUTH_OFS and the bounds of R49 and R63. -/
def lengthOk (h : Hdr) (c : CmdSpec) : Bool :=
  c.lenOk && (if h.indirect then h.plen ≤ 4096 && h.bufAddr % 8 == 0 else h.plen ≤ 48) &&
  match h.auth with
  | none => h.authOfs == 0 && h.plen == c.plen
  | some t =>
    h.authOfs == c.plen && (if t.alg == 1 || t.alg == 2 then h.plen == h.authOfs + tagLen t else h.authOfs + 8 ≤ h.plen)

/-- Step 4 of R51: no reserved bit set, every value in range; the mailbox takes no FENCE (02 R67). -/
def paramsOk (h : Hdr) (c : CmdSpec) : Bool :=
  h.resv == 0 && (match h.auth with | none => true | some t => t.resv == 0) &&
  !(h.fence && h.src == .mailbox) && c.paramOk

/-- Step 5 of R51 with 02 R73: in BOOT only SYS.NOP, SYS.IDENTIFY and SYS.QUERY_HANDLE. -/
def modeAdmits (c : CmdSpec) (s : State) : Bool := if s.pm.mode == .boot then c.opcode ≤ 2 else c.modeOk

/-- A CFG.LOAD is running (02 R75). -/
def loadRunning (s : State) : Bool := s.hi.ops.any (fun o => o.opcode == 0x0400)

/-- The sleep handshake has stopped the block of order `n` in Table 14-7 (14 R452). -/
def hsStopped (n : Nat) (s : State) : Bool :=
  match s.pm.hs with
  | some hs => n < hs.order
  | none => false

/-- The sleep handshake has already stopped the block the command needs (14 R456). -/
def blockStopped (c : CmdSpec) (s : State) : Bool := c.blk != 0 && hsStopped c.blk s

/-- The read of the parameter buffer returned UR, CA or poisoned data (02 R42, R49). -/
def bufLost (h : Hdr) : Bool := h.indirect && !h.bufOk

/-- Outcome of the checks of steps 2 to 6 of R51. -/
inductive Verdict where
  | pass
  | status (code : Nat)
  | wake
  | abandon
deriving DecidableEq, Repr

/-- The checks of R51 in their order, then 14 R456 and the BUSY of configuration commands. A parameter buffer that cannot be
read completes HW_FAULT once the length has passed (DESIGN CHOICE: no rule names the status; log 71). -/
def hostCheck (h : Hdr) (c : CmdSpec) (s : State) : Verdict :=
  if !lengthOk h c then .status 0x12
  else if bufLost h then .status 0x60
  else if (authVerdict h c s).1 != 0 then .status (authVerdict h c s).1
  else if !paramsOk h c then .status 0x11
  else if !modeAdmits c s then .status 0x20
  else if !c.domOk then (if h.wake then .wake else .status 0x21)
  else if blockStopped c s then (if h.wake && s.pm.hsLate == 0 then .abandon else .status 0x22)
  else if c.cfgBusy && loadRunning s then .status 0x22
  else .pass

/-! ### Dispatch (02 R47, R56, R57, R33) -/

/-- The command at the head of ring `n` may be dispatched: fetched, and its FENCE released (02 R57). -/
def ringReady (s : State) (n : Nat) : Bool :=
  match (getRing s n).fetched with
  | f :: _ => !f.head.fence || f.released
  | [] => false

/-- A mailbox command waits for dispatch (02 R67). -/
def mbReady (s : State) : Bool := s.hi.mb.cmd.isSome

/-- Ring 0 and the mailbox have strict priority and alternate; rings 1 to 15 take turns of WEIGHT + 1 commands
(02 R47). -/
def turnOf (s : State) (src : Src) : Bool :=
  match src with
  | .mailbox => !ringReady s 0 || s.hi.lastRing0
  | .ring 0 => !mbReady s || !s.hi.lastRing0
  | .ring n =>
    let t := s.hi.turn
    let open' := ringReady s t && s.hi.turnUsed ≤ (getRing s t).sqWeight
    let order := (List.range 15).map (fun i => 1 + (t + i) % 15)
    !ringReady s 0 && !mbReady s && (if open' then n == t else some n == order.find? (ringReady s))

/-- The head that a packet's bytes spell (02 R48, Tables 2-7 and 2-8), little-endian (00 R5). -/
def packetHead (p : Packet) : PacketHead :=
  let at' := fun i n => ofLeBytes ((p.bytes.drop i).take n)
  let flags := at' 2 1
  { opcode := at' 0 2, stag := at' 3 1, indirect := bit flags 0, fence := bit flags 1, irq := bit flags 2, wake := bit flags 3,
    auth := bit flags 4, authOfs := at' 4 2, plen := at' 6 2, bufAddr := if bit flags 0 then at' 8 8 else 0,
    resv := flags / 32 != 0 || at' 56 8 != 0 || (bit flags 0 && at' 16 40 != 0) }

/-- The FLAGS byte of a command's head (Table 2-8). -/
def hdrFlags (h : Hdr) : Nat :=
  fld (b2n h.indirect) 0 1 + fld (b2n h.fence) 1 1 + fld (b2n h.irq) 2 1 + fld (b2n h.wake) 3 1 + fld (b2n h.auth.isSome) 4 1

/-- The packet head of a command; `resv` says whether its packet's own reserved bits are clear. -/
def hdrHead (opcode : Nat) (h : Hdr) (resv : Bool) : PacketHead :=
  ⟨opcode, h.stag, h.indirect, h.fence, h.irq, h.wake, h.auth.isSome, h.authOfs, h.plen, if h.indirect then h.bufAddr else 0, resv⟩

/-- A packet with a command's head and parameter bytes 0 (Table 2-7); reserved bytes 1 where `h` has a reserved bit set. -/
def packetOf (opcode : Nat) (h : Hdr) : Packet :=
  ⟨leBytes 2 opcode ++ [hdrFlags h, h.stag % 256] ++ leBytes 2 h.authOfs ++ leBytes 2 h.plen ++
    leBytes 8 (if h.indirect then h.bufAddr else 0) ++ List.replicate 40 0 ++ List.replicate 8 (b2n (h.resv != 0))⟩

/-- A waiting packet's head is that of this command: every field the same, a reserved bit set only if the command has one. -/
def headIsOf (p : PacketHead) (h : Hdr) (opcode : Nat) : Bool := p == hdrHead opcode h p.resv && (!p.resv || h.resv != 0)

/-- The packet waiting at the head of `src` is this command: same opcode and head. -/
def headMatches (s : State) (h : Hdr) (opcode : Nat) : Bool :=
  match h.src with
  | .mailbox => s.hi.mb.cmd.any (fun p => headIsOf p h opcode)
  | .ring n => n < 16 && (match (getRing s n).fetched with
    | f :: _ => headIsOf f.head h opcode
    | [] => false)

/-- The source's head may be dispatched now. -/
def sourceReady (s : State) : Src → Bool
  | .mailbox => mbReady s
  | .ring n => ringReady s n

/-- The command is the one the device dispatches next from its source; in FROZEN only SYS.THAW at the head of ring 0 is,
whatever else waits (01 R33). -/
def dispatches (h : Hdr) (opcode : Nat) (s : State) : Bool :=
  headMatches s h opcode && sourceReady s h.src &&
  (if s.pm.mode == .frozen then opcode == 0x0012 && h.src == .ring 0 else turnOf s h.src)

/-- The head of `src` was fetched before an FLR or PERST_N (02 R38). -/
def headDead (s : State) : Src → Bool
  | .mailbox => false
  | .ring n => ((getRing s n).fetched.head?.map (·.dead)).getD false

/-- The head of `src` is dispatched: it leaves the queue and the arbiter moves on (02 R47). -/
def takeHead (src : Src) (s : State) : State :=
  match src with
  | .mailbox => { s with hi := { s.hi with mb := { s.hi.mb with cmd := none }, lastRing0 := false } }
  | .ring n =>
    let g := getRing s n
    let s := setRing n { g with fetched := g.fetched.drop 1 } s
    if n == 0 then { s with hi := { s.hi with lastRing0 := true } }
    else { s with hi := { s.hi with turn := n, turnUsed := if s.hi.turn == n then s.hi.turnUsed + 1 else 1 } }

/-! ### First completions, handles and final completions (02 R54, R55) -/

/-- The first completion of a command, unless it came before an FLR (02 R38, R59). -/
def firstCompletion (h : Hdr) (dead : Bool) (handle status : Nat) (result : List Nat) (s : State) : State :=
  if dead then s else writeRecord h.src (mkRecord handle status h.stag result s) h.irq s

/-- The handle number `seq` and those after it, skipping outstanding ones (02 R54); `fuel` bounds the search. -/
def freeSeq (used : List Nat) : Nat → Nat → Nat
  | 0, q => q
  | fuel + 1, q => if used.contains q then freeSeq used fuel (if q == 0xFFFFFF then 1 else q + 1) else q

/-- The next handle sequence (02 R54). -/
def nextSeq (s : State) : Nat := freeSeq (s.hi.ops.map (fun o => o.handle % 2 ^ 24)) 1025 s.hi.seq

/-- The handle a command of this opcode is given now: class byte and sequence (02 R54). -/
def newHandle (opcode : Nat) (s : State) : Nat := fld (opcode / 256) 24 8 + nextSeq s

/-- The operation becomes outstanding with its handle (02 R54, R55); after an FLR its handle is detached at once
(02 R38). -/
def openHandle (h : Hdr) (dead : Bool) (opcode : Nat) (cmd : Instr) (phase : Phase) (s : State) : State :=
  let q := nextSeq s
  let o : OpEntry := ⟨newHandle opcode s, h.src, h.stag, opcode, cmd, phase, dead, 0, 0, s.tm.frc⟩
  { s with hi := { s.hi with ops := s.hi.ops ++ [o], seq := if q == 0xFFFFFF then 1 else q + 1 } }

/-- The outstanding operation of a handle. -/
def findOp (s : State) (handle : Nat) : Option OpEntry := s.hi.ops.find? (fun o => o.handle == handle)

/-- The operation of a handle replaced. -/
def updOp (handle : Nat) (f : OpEntry → OpEntry) (s : State) : State :=
  { s with hi := { s.hi with ops := s.hi.ops.map (fun o => if o.handle == handle then f o else o) } }

/-- A final completion: the record with the handle, status and STAG, and the handle is forgotten (02 R54); a detached
handle leaves the record HANDLE_DETACHED_END and notice DETACHED_END instead (02 R39). A handle whose record waits for its ring
is forgotten now, before the record is written (DESIGN CHOICE, log 16). -/
def finalCompletion (o : OpEntry) (status : Nat) (result : List Nat) (s : State) : State :=
  let s := { s with hi := { s.hi with ops := s.hi.ops.filter (fun x => x.handle != o.handle) } }
  if o.detached then
    let sev := if status == 0 then 1 else 2
    report 0 0x41 sev (o.handle + fld status 32 8) none (notify 0 0 0x01 sev o.handle s)
  else writeRecord o.src (mkRecord o.handle status o.stag result s) true s

end Sys2Proof.Machine
end

