-- ==== Sys2Proof/Machine/Instants.lean ====
section
/-! DEFINITION. Instants of the Erg (chapter 06): their times, the cells they hold, and how holds are freed. -/

namespace Sys2Proof.Machine

/-- A span of microseconds in 2^-16 ns. -/
def us16 (us : Nat) : Int := (us * 1000 * 2 ^ 16 : Nat)

/-- EPOCH in 2^-16 ns. -/
def epoch16 (p : GroupP) : Int := DT80.toNs p.epoch * 2 ^ 16

/-- t_k (06 R195) in 2^-16 ns, rounded up: comparing a time of 2^-16 ns with it decides as the exact t_k does. -/
def tkOf (p : GroupP) (k : Nat) : Int := epoch16 p + ceilDiv (k * (1000000000 * 2 ^ 16)) p.rate

/-- The index floor((T - EPOCH) x RATE) of a time (06 R195, R336); negative before EPOCH. -/
def indexAt (p : GroupP) (t : Int) : Int := (t - epoch16 p) * p.rate / (1000000000 * 2 ^ 16)

/-- Device time at which instant k opens (06 R197). -/
def openAt (p : GroupP) (k : Nat) : Int := tkOf p k - us16 p.horizonUs

/-- The deadline d_k (06 R197). -/
def deadlineOf (p : GroupP) (k : Nat) : Int := tkOf p k + us16 p.windowUs

/-- The end of TRAILING, t_k + WINDOW_US + LATE_SPAN_US (Table 6-4). -/
def retireAt (p : GroupP) (k : Nat) : Int := tkOf p k + us16 p.windowUs + us16 p.lateSpanUs

/-- The first index whose opening lies after `t`. -/
def nextAfter (p : GroupP) (t : Int) : Nat :=
  let k := (indexAt p (t + us16 p.horizonUs)).toNat
  if openAt p k ≤ t then k + 1 else k

/-- Group `gid`, none when undefined. -/
def getGroup (s : State) (gid : Nat) : Option Group := tfind s.erg.groups gid

/-- Group `gid` replaced. -/
def setGroup (gid : Nat) (g : Group) (s : State) : State :=
  { s with erg := { s.erg with groups := tset s.erg.groups gid g } }

/-- BAR2 address of a per-group counter (06 R225). -/
def grpCtr (gid off : Nat) : Nat := 0x105000 + 0x80 * gid + off

/-- Instant k of a group, when tracked. -/
def Group.instant (g : Group) (k : Nat) : Option Instant := g.instants.find? (fun i => i.k == k)

/-- Instant k of a group replaced. -/
def Group.setInstant (g : Group) (k : Nat) (f : Instant → Instant) : Group :=
  { g with instants := g.instants.map (fun i => if i.k == k then f i else i) }

/-- The oldest open instant of a group. -/
def Group.oldestOpen (g : Group) : Option Instant := g.instants.find? (fun i => i.st == .opened)

/-- The instant of a GID and index. -/
def getInstant (s : State) (gid k : Nat) : Option Instant := (getGroup s gid).bind (fun g => g.instant k)

/-- An instant changed in place. -/
def updInstant (gid k : Nat) (f : Instant → Instant) (s : State) : State :=
  match getGroup s gid with
  | some g => setGroup gid (g.setInstant k f) s
  | none => s

/-- Cells an instant holds: its set, its open batch and its late cells on their way to AQ. -/
def Instant.held (i : Instant) : Nat := i.cells.length + ((i.batch.map (fun b => b.2.length)).getD 0) + i.lates.length

/-- Cells return to the pool; an episode of exhaustion ends at LOW_MARK (06 R210). -/
def freeCells (n : Nat) (s : State) : State :=
  let f := s.erg.free + n
  { s with erg := { s.erg with free := f, lowNoted := s.erg.lowNoted && f < s.erg.lowMark,
                               exhausted := s.erg.exhausted && f < s.erg.lowMark } }

/-- A cell is taken from the pool (06 R210); the caller has checked that one is free. -/
def takeCell (s : State) : State :=
  let f := s.erg.free - 1
  let low := f < s.erg.lowMark
  let first := low && !s.erg.lowNoted
  let s := { s with erg := { s.erg with free := f, low := min s.erg.low f, lowNoted := s.erg.lowNoted || low } }
  if first then note s.erg.nq 4 0x01 1 f s else s

/-- An instant leaves its group (RETIRED); a group that has ended goes with its last instant (06 R222). -/
def dropInstant (gid k : Nat) (s : State) : State :=
  match getGroup s gid with
  | some g =>
    let l := g.instants.filter (fun i => i.k != k)
    if l.isEmpty && !g.en && !g.shed then { s with erg := { s.erg with groups := tdel s.erg.groups gid } }
    else setGroup gid { g with instants := l } s
  | none => s

/-- The instant is past its end of TRAILING (Table 6-4). -/
def Instant.ended (i : Instant) (t : Int) : Bool := retireAt i.p i.k < t

/-- No consumer holds the instant's cells any more (06 R203). -/
def Instant.unheld (i : Instant) : Bool := i.jobHolds == 0 && !i.pubHold && i.aqHolds.isEmpty

/-- TRAILING has ended and nothing of the instant is left to hand on. An instant past its end that a consumer has yet to read is
kept for that read alone: to every cell it counts as RETIRED (06 Table 6-4, R203). -/
def Instant.spent (i : Instant) (t : Int) : Bool :=
  i.st == .trailing && i.ended t && i.batch.isNone && i.lates.isEmpty && i.unheld

/-- An instant that is spent leaves its group. -/
def retireSpent (gid k : Nat) (s : State) : State :=
  match getInstant s gid k with
  | some i => if i.spent (now s) then dropInstant gid k s else s
  | none => s

/-- The cells of a released instant are freed: TRAILING begins, or RETIRED at once after its end (Table 6-4). Cells that a
consumer still holds are reclaimed (06 R203). -/
def freeInstant (gid k : Nat) (s : State) : State :=
  match getInstant s gid k with
  | none => s
  | some i =>
    if i.st != .released then s
    else
      let s := freeCells i.cells.length s
      retireSpent gid k (updInstant gid k (fun i =>
        { i with st := .trailing, cells := [], lateSeen := i.lateSeen ++ tkeys i.cells,
                 reclaimed := if i.unheld then [] else tkeys i.cells }) s)

/-- A consumer frees its hold; the cells are freed when none remains (06 R203). -/
def freeHold (gid k : Nat) (f : Instant → Instant) (s : State) : State :=
  match getInstant s gid k with
  | none => s
  | some i =>
    if i.st == .opened then s
    else
      let s := updInstant gid k f s
      if (f i).unheld then (if i.st == .released then freeInstant gid k s else retireSpent gid k s) else s

/-- A job instance frees its hold (07 R230). -/
def freeJobHold (gid k : Nat) (s : State) : State := freeHold gid k (fun i => { i with jobHolds := i.jobHolds - 1 }) s

/-- The freeze gap marks a release whose deadline lies in it (06 R218, R219). -/
def inGap (s : State) (deadline : Int) : Bool :=
  match s.erg.gapFrom, s.erg.gapTo with
  | none, _ => false
  | some _, none => true
  | some f, some t => f ≤ deadline && deadline ≤ t

/-- The freeze gap is open (06 R219). -/
def gapOpen (s : State) : Bool := s.erg.gapFrom.isSome && s.erg.gapTo.isNone

/-- The channel of a cell, when valid (06 R193). -/
def Cell.chan (c : Cell) (ch : Nat) : Option CellChan := c.chans.find? (fun x => x.ch == ch)

/-- Valid bits 0 to 45 of a cell (Table 6-2). -/
def Cell.validBits (c : Cell) : Nat := listSum (c.chans.map (fun x => 2 ^ x.ch))

end Sys2Proof.Machine
end

