-- ==== Sys2Proof/Machine/Memory.lean ====
section
/-! DEFINITION. The SRAM words of memory integrity EC (13 R413 to R423), and the cells of the Erg in them (06 R191, R192, R203,
R223): what a read corrects or loses, full-word and narrow writes. -/

namespace Sys2Proof.Machine

/-! ### Words of a macro (13 R413 to R423) -/

/-- Macro `m` as EC keeps it. -/
def getMacro (s : State) (m : Nat) : Macro := tget Macro.reset s.ec.macros m

/-- Macro `m` changed. -/
def updMacro (m : Nat) (f : Macro → Macro) (s : State) : State :=
  { s with ec := { s.ec with macros := tset s.ec.macros m (f (getMacro s m)) } }

/-- Stored bits of a word that are flipped. -/
def flipsOf (s : State) (m w : Nat) : List Nat := tget [] s.ec.flips (m * 8192 + w)

/-- The flipped bits of a word replaced. -/
def setFlips (m w : Nat) (l : List Nat) (s : State) : State :=
  { s with ec := { s.ec with flips := if l.isEmpty then tdel s.ec.flips (m * 8192 + w) else tset s.ec.flips (m * 8192 + w) l } }

/-- Macros of a test are wiped (13 R416). -/
def wipeMacros (f : Nat → Bool) (s : State) : State :=
  { s with ec := { s.ec with flips := s.ec.flips.filter (fun e => !f (e.1 / 8192)) } }

/-- A macro, word and bit position as a notice ARG (13 R440) and as a record ARG (Table 13-6). -/
def ecArg (m w b : Nat) : Nat := fld m 21 11 + fld w 8 13 + fld b 0 8
def ecRecArg (m w b : Nat) : Nat := fld m 45 11 + fld w 32 13 + fld b 0 8

/-- An EC notice and its record (13 R440, Table 13-6). -/
def ecNote (code severity m w b : Nat) (s : State) : State := noteExt s.ec.nq 13 code severity (ecArg m w b) (ecRecArg m w b) none s

/-- A hard fault that cannot be repaired is reported once per macro (13 R423). -/
def repairExhausted (m w b : Nat) (s : State) : State :=
  if (getMacro s m).exhausted then s
  else ecNote 3 2 m w b (count 0x10E028 (updMacro m (fun x => { x with exhausted := true }) s))

/-- The row of a hard fault is marked for repair, or cannot be (13 R420, R423). A macro holds one mark. -/
def markRow (m w b : Nat) (s : State) : State :=
  let x := getMacro s m
  if x.fieldUsed || 1024 ≤ s.cairn.repairs.length then repairExhausted m w b s
  else if x.markPending then s
  else updMacro m (fun x => { x with markPending := true, pendingRow := w / 128 }) s

/-- A suspect word is corrected again: HARD_FAULT (13 R420). -/
def hardFault (m w b : Nat) (s : State) : State :=
  markRow m w b (ecNote 1 2 m w b (count 0x10E018 (updMacro m (fun x => { x with hard := (x.hard + 1) % 2 ^ 32 }) s)))

/-- A word enters the suspect table, the oldest leaving a full one (13 R420). -/
def enterSuspect (m w : Nat) (s : State) : State :=
  let full := 256 ≤ s.ec.suspects.length
  let l := if full then s.ec.suspects.drop 1 else s.ec.suspects
  let s := { s with ec := { s.ec with suspects := l ++ [⟨m, w, s.tm.frc⟩] } }
  if full then count 0x10E030 s else s

/-- A read corrects bit `b` of a word, which is rewritten (13 R413, R418 to R420). -/
def correctWord (m w b : Nat) (s : State) : State :=
  let s := count 0x10E000 (setFlips m w [] (updMacro m (fun x => { x with ce := min 32767 (x.ce + 1) }) s))
  let s := { s with ec := { s.ec with lastCe := ecArg m w b } }
  if s.ec.suspects.any (fun x => x.mac == m && x.word == w) then hardFault m w b s else enterSuspect m w s

/-- An uncorrectable read: EC_DUE, EC_LAST_DUE, the DUE notice once per second; in the Erg cell pool and its directory
ERG_CELL_DUE (13 R413, R440, 06 R223). -/
def uncorrectable (m w : Nat) (s : State) : State :=
  let s := count 0x10E008 { s with ec := { s.ec with lastDue := ecArg m w 0xFF } }
  let s := if m < 704 then count 0x104008 s else s
  let due := match s.ec.lastDueNote with
    | none => true
    | some t => t + 390625000 ≤ s.tm.frc
  if due then note s.ec.nq 13 0x04 2 (ecArg m w 0xFF) { s with ec := { s.ec with lastDueNote := some s.tm.frc } } else s

/-! ### Full-word and narrow writes (13 R415) -/

/-- A full-word write leaves a good word behind (13 R415). -/
def fullWrite (m w : Nat) (s : State) : State := if s.ec.flips.isEmpty then s else setFlips m w [] s

/-- A narrow write: a read-modify-write counted in EC_RMW; the flag says that it took place. A word that reads uncorrectable
stays so, and the write is dropped (13 R415). -/
def narrowWrite (m w : Nat) (s : State) : Bool × State :=
  let s := count 0x10E010 s
  match flipsOf s m w with
  | [] => (true, s)
  | [b] => (true, correctWord m w b s)
  | _ => (false, uncorrectable m w s)

/-! ### Cairn (13 R425) -/

/-- A read of Cairn words with so many wrong bits each: up to two are corrected, more are uncorrectable; the flag says that none
was (13 R425). -/
def cairnRead (flips : List Nat) (s : State) : Bool × State :=
  let bad := (flips.filter (3 ≤ ·)).length
  let fixed := (flips.filter (fun n => n == 1 || n == 2)).length
  (bad == 0, if flips.isEmpty then s else countN 0x10E048 bad (countN 0x10E040 fixed s))

/-! ### The words of a cell (06 R191) -/

/-- Macro and word of data word `w` of cell `c`: bank (20c + w) mod 64, each bank ten macros in ascending order, filled in
ascending cell order. The bank is the rule's; the place within it is a DESIGN CHOICE (log 78). -/
def dataPlace (c w : Nat) : Nat × Nat :=
  let l := 20 * c + w
  (10 * (l % 64) + l / 64 / 8192, l / 64 % 8192)

/-- Macro and word of descriptor word `d` of cell `c`, in the 16 banks of four macros of the directory; DESIGN CHOICE
(log 78). -/
def descPlace (c d : Nat) : Nat × Nat :=
  let l := 2 * c + d
  (640 + 4 * (l % 16) + l / 16 / 8192, l / 16 % 8192)

/-- The macros and words of the 22 code words of a cell, data words first. -/
def cellPlaces (c : Nat) : List (Nat × Nat) := (List.range 20).map (dataPlace c) ++ [descPlace c 0, descPlace c 1]

/-- The channels that a data word of a cell holds (Table 6-1). -/
def wordChans (w : Nat) : List Nat :=
  if w < 16 then [2 * w, 2 * w + 1]
  else if w == 16 then [32, 33]
  else if w < 19 then (List.range 4).map (34 + 4 * (w - 17) + ·)
  else [42, 43, 44, 45]

/-- A signed channel part as a field of 18 bits; 0 for a channel the cell does not hold. -/
def chanField (c : Cell) (ch : Nat) (second : Bool) (lo : Nat) : Nat :=
  match c.chan ch with
  | some x => fld (twosComp 18 (if second then x.b else x.a)) lo 18
  | none => 0

/-- Data word `w` of a cell (Table 6-1). -/
def cellWord (c : Cell) (w : Nat) : Nat :=
  if w < 16 then chanField c (2 * w) false 0 + chanField c (2 * w) true 18 + chanField c (2 * w + 1) false 36 + chanField c (2 * w + 1) true 54
  else if w == 16 then chanField c 32 false 0 + chanField c 33 false 18 + fld c.stat 36 16 + fld c.tq 52 8
  else if w < 19 then listSum ((List.range 4).map (fun m => chanField c (34 + 4 * (w - 17) + m) false (18 * m)))
  else listSum ((List.range 4).map (fun d => match c.chan (42 + d) with
    | some x => fld (twosComp 16 x.a) (16 * d) 16
    | none => 0))

/-- Descriptor word D0 of a cell (Table 6-2). -/
def cellD0 (sid : Nat) (c : Cell) : Nat :=
  fld c.validBits 0 46 + fld 1 46 1 + fld (b2n c.late) 47 1 + fld (b2n c.interp) 48 1 + fld (b2n c.unsettled) 49 1 +
  fld (b2n c.authOk) 50 1 + fld (b2n c.timeOk) 51 1 + fld (b2n c.statErr) 52 1 + fld (b2n c.frozenGap) 53 1 + fld sid 54 14

/-- Descriptor word D1 of a cell (Table 6-2). -/
def cellD1 (gid k : Nat) (c : Cell) : Nat := fld (twosComp 32 c.arrival) 0 32 + fld gid 32 6 + fld k 38 34

/-- The 22 code words of a cell. -/
def cellWords (gid k sid : Nat) (c : Cell) : List Nat := (List.range 20).map (cellWord c) ++ [cellD0 sid c, cellD1 gid k c]

/-! ### Taking and writing cells (06 R192, R210) -/

/-- The cells an instant holds, in its set, its open batch and its late cells. -/
def Instant.allCells (i : Instant) : List Cell :=
  i.cells.map (·.2) ++ ((i.batch.map (fun b => b.2.map (·.2))).getD []) ++ i.lates.map (·.2)

/-- The live cell of a number, with its group, index and stream. -/
def cellAt (s : State) (no : Nat) : Option (Nat × Nat × Nat × Cell) :=
  (s.erg.groups.flatMap (fun g => g.2.instants.flatMap (fun i =>
    (i.cells ++ ((i.batch.map (·.2)).getD []) ++ i.lates).map (fun e => (g.1, i.k, e.1, e.2))))).find? (fun c => c.2.2.2.cellNo == no)

/-- The cell numbers in use. -/
def usedCells (s : State) : List Nat :=
  s.erg.groups.flatMap (fun e => e.2.instants.flatMap (fun i => i.allCells.map (·.cellNo)))

/-- The first number from `n` on, wrapping, that is not in `used`. -/
def firstFree (used : List Nat) : Nat → Nat → Nat
  | 0, n => n
  | fuel + 1, n => if used.contains n then firstFree used fuel ((n + 1) % 262144) else n

/-- A cell is allocated and written whole (06 R192): its CELL_NO is whichever free cell the pool gives. The caller has checked
that one is free. -/
def allocCell (c : Cell) (s : State) : Cell × State :=
  let used := usedCells s
  let no := firstFree used used.length (freeBits 18 s)
  let s := bumpFree (takeCell (count 0x104018 s))
  ({ c with cellNo := no }, if s.ec.flips.isEmpty then s else (cellPlaces no).foldl (fun s p => fullWrite p.1 p.2 s) s)

/-- FROZEN_GAP is written into one more cell's descriptor. -/
def markNext (acc : Tbl Cell × State) (e : Nat × Cell) : Tbl Cell × State :=
  let p := descPlace e.2.cellNo 0
  let r := narrowWrite p.1 p.2 acc.2
  (acc.1 ++ [(e.1, if r.1 then { e.2 with frozenGap := true } else e.2)], r.2)

/-- FROZEN_GAP is set in the descriptor of every cell of a set by a narrow write; one whose word is uncorrectable keeps it
clear (06 R192, R218, 13 R415). -/
def markFrozen (cells : Tbl Cell) (s : State) : Tbl Cell × State := cells.foldl markNext ([], s)

/-! ### Reading cells (06 R203, R223) -/

/-- A read of one word: false when it is uncorrectable (13 R413). -/
def readGood (m w : Nat) (s : State) : Bool × State :=
  match flipsOf s m w with
  | [] => (true, s)
  | [b] => (true, correctWord m w b s)
  | _ => (false, uncorrectable m w s)

/-- A read of a data word of a cell: when it is uncorrectable the valid bits of its channels read clear, and STAT and the time
quality of word 16 have no stated value (06 R223). -/
def readDataWord (c : Cell) (w : Nat) (s : State) : Cell × State :=
  let p := dataPlace c.cellNo w
  let (ok, s) := readGood p.1 p.2 s
  if ok then (c, s)
  else
    let c := { c with chans := c.chans.filter (fun x => !(wordChans w).contains x.ch) }
    if w == 16 then ({ c with stat := freeBits 16 s, tq := freeBits 24 s / 2 ^ 16 }, bumpFree s) else (c, s)

/-- One more data word of a cell is read. -/
def readNextWord (acc : Cell × State) (w : Nat) : Cell × State := readDataWord acc.1 w acc.2

/-- The twenty data words of a cell are read. -/
def readWords (c : Cell) (s : State) : Cell × State := (List.range 20).foldl readNextWord (c, s)

/-- A consumer reads a cell: none when a descriptor word is uncorrectable, the member then reading MISSING (06 R223). -/
def readCell (c : Cell) (s : State) : Option Cell × State :=
  let p0 := descPlace c.cellNo 0
  let p1 := descPlace c.cellNo 1
  let a := readGood p0.1 p0.2 s
  let b := readGood p1.1 p1.2 a.2
  let r := readWords c b.2
  (if a.1 && b.1 then some r.1 else none, r.2)

/-- One more cell is read; one that cannot be read is left out. -/
def readNext (acc : Tbl Cell × State) (e : Nat × Cell) : Tbl Cell × State :=
  let r := readCell e.2 acc.2
  (acc.1 ++ (r.1.map (fun c => (e.1, c))).toList, r.2)

/-- Cells as a consumer reads them; a memory without a flipped bit is read as it stands. -/
def readCells (cells : Tbl Cell) (s : State) : Tbl Cell × State :=
  if s.ec.flips.isEmpty then (cells, s) else cells.foldl readNext ([], s)

/-- A consumer reads the members `sids` of a released set: a member whose cell was reclaimed reads MISSING, ERG_RECLAIM counting
the event (06 R203, R223). -/
def readMembers (sids : List Nat) (i : Instant) (s : State) : Instant × State :=
  let s := countN 0x104010 (i.reclaimed.filter (fun m => sids.contains m)).length s
  let (cells, s) := readCells (i.cells.filter (fun e => sids.contains e.1)) s
  ({ i with cells := cells }, s)

end Sys2Proof.Machine
end

