-- ==== Sys2Proof/Machine/Real.lean ====
section
/-! DEFINITION. Real functions the manual's formulas name (square root, angle, sine, cosine), computed in integers finely
enough that rounding under R9 gives the code the rule asks for, and float32 rounding (00 R9, R11). DEDUCED: the rules give
real arithmetic and one rounding at the end; the functions below carry more than 90 bits. -/

namespace Sys2Proof.Machine

/-- Bits of the integer square root, from bit `k` down. -/
def isqrtBits (n : Nat) : Nat → Nat → Nat
  | 0, r => if (r + 1) * (r + 1) ≤ n then r + 1 else r
  | k + 1, r => isqrtBits n k (if (r + 2 ^ (k + 1)) * (r + 2 ^ (k + 1)) ≤ n then r + 2 ^ (k + 1) else r)

/-- The integer square root of `n`, rounded down. -/
def isqrt (n : Nat) : Nat := isqrtBits n (n.log2 / 2 + 1) 0

/-- The square root of `num / den` rounded to the nearest integer, ties to even (R9). -/
def sqrtRound (num den : Nat) : Nat :=
  let r := isqrt (num / den)
  let lhs := 4 * num
  let rhs := (2 * r + 1) * (2 * r + 1) * den
  if rhs < lhs then r + 1 else if lhs == rhs then r + r % 2 else r

/-- A rational rounded to the nearest integer, ties to even (R9). -/
def roundRat (x : Rat) : Int := roundDiv x.num x.den

/-- The terms of atan(lo / hi) after Euler, in 2^-128 rad: `a` = lo^2, `d` = hi^2 + lo^2. -/
def atanSum (a d : Nat) : Nat → Nat → Nat → Nat → Nat
  | 0, _, _, acc => acc
  | fuel + 1, n, t, acc => atanSum a d fuel (n + 1) (t * (2 * (n + 1)) * a / ((2 * n + 3) * d)) (acc + t)

/-- 2^128 / (2 pi), rounded down. -/
def invTwoPi : Nat := 54157620742477409023451113735280473968

/-- 2 pi in 2^-128, rounded down. -/
def twoPi : Nat := 2138057168129933495719360746323741566601

/-- The angle of (re, im) in 2^-64 turn, in [-2^63, 2^63); the angle of zero is `Config.angleOfZero`. -/
def angleOf (re im : Int) : Int :=
  let x := re.natAbs
  let y := im.natAbs
  if x == 0 && y == 0 then Config.angleOfZero % 2 ^ 64 - 2 ^ 63
  else
    let hi := max x y
    let lo := min x y
    let d := hi * hi + lo * lo
    let rad := atanSum (lo * lo) d 140 0 (2 ^ 128 * hi * lo / d) 0
    let turn : Nat := rad * invTwoPi / 2 ^ 128 / 2 ^ 64
    let q : Int := if y ≤ x then (turn : Int) else (2 ^ 62 : Int) - turn
    let h : Int := if 0 ≤ re then q else (2 ^ 63 : Int) - q
    let t : Int := if 0 ≤ im then h else -h
    if t == 2 ^ 63 then -(2 ^ 63) else t

/-- Alternating terms of a sine or cosine series in 2^-128: `x2` is x^2, `k` the first factorial index of the next term. -/
def trigSum (x2 : Nat) : Nat → Nat → Nat → Int → Int → Int
  | 0, _, _, _, acc => acc
  | fuel + 1, k, t, sg, acc => trigSum x2 fuel (k + 2) (t * x2 / 2 ^ 128 / ((k + 1) * (k + 2))) (-sg) (acc + sg * t)

/-- An angle in 2^-128 rad held within [0, 2 pi). -/
def radMod (x : Int) : Int := x % (twoPi : Int)

/-- The part of an angle within half a turn, and whether it lay beyond it. -/
def halfTurn (x : Int) : Nat × Bool :=
  let r := (radMod x).toNat
  if r < twoPi / 2 then (r, false) else (r - twoPi / 2, true)

/-- Cosine of an angle in 2^-128 rad, in 2^-128. -/
def cosOf (x : Int) : Int :=
  let h := halfTurn x.natAbs
  let c := trigSum (h.1 * h.1 / 2 ^ 128) 40 0 (2 ^ 128) 1 0
  if h.2 then -c else c

/-- Sine of an angle in 2^-128 rad, in 2^-128. -/
def sinOf (x : Int) : Int :=
  let h := halfTurn x.natAbs
  let c := trigSum (h.1 * h.1 / 2 ^ 128) 40 1 h.1 1 0
  if h.2 != decide (x < 0) then -c else c

/-- The angle in 2^-128 rad of `t` turns of 2^-64. -/
def radOfTurn (t : Int) : Int := t * (twoPi : Int) / 2 ^ 64

/-- A code of `w` bits: `x` rounded and saturated (R9). -/
def satCode (w : Nat) (x : Rat) : Int := clampInt (-(2 ^ (w - 1))) (2 ^ (w - 1) - 1) (roundRat x)

/-- The value of a finite float32 code. -/
def ratOfFloat (v : Nat) : Rat :=
  let r := float32 v
  mkRat r.num r.den

/-- The float32 code of a rational, round to nearest even, overflow to infinity. -/
def floatOfRat (x : Rat) : Nat :=
  if x == 0 then 0
  else
    let n := x.num.natAbs
    let d := x.den
    let e0 : Int := (n.log2 : Int) - d.log2
    let e : Int := if (if 0 ≤ e0 then n < d * 2 ^ e0.toNat else n * 2 ^ (-e0).toNat < d) then e0 - 1 else e0
    let e : Int := if e < -126 then -126 else e
    let sh : Int := 23 - e
    let m : Nat := (if 0 ≤ sh then roundDiv (n * 2 ^ sh.toNat : Nat) d else roundDiv n (d * 2 ^ (-sh).toNat)).toNat
    let e := if m == 2 ^ 24 then e + 1 else e
    let m := if m == 2 ^ 24 then 2 ^ 23 else m
    let sg := if x.num < 0 then 2 ^ 31 else 0
    if 127 < e then sg + 0x7F800000
    else if m < 2 ^ 23 then sg + m
    else sg + fld (e + 127).toNat 23 8 + m % 2 ^ 23

/-- |x|. -/
def ratAbs (x : Rat) : Rat := if x < 0 then -x else x

end Sys2Proof.Machine
end

