-- ==== Sys2Proof/Machine/Recording.lean ====
section
/-! DEFINITION. Acquisition AQ (chapter 10): records of released sets, reductions, the late budget, trigger windows and the
staging buffer. -/

namespace Sys2Proof.Machine

/-- Channels a CH_MASK selects, ascending (10 R334). -/
def maskChans (p : ChanP) : List Nat := bitList 46 p.chMask

/-- Bytes of a member entry (10 R334). -/
def entryBytes (kind : Nat) (p : ChanP) : Nat :=
  16 + listSum ((maskChans p).map (fun ch =>
    if kind == 0 then (if ch < 32 then 8 else 4) else if kind == 1 then 12 else 4))

/-- SLOT of a ring (10 R334). -/
def slotBytes (kind : Nat) (p : ChanP) : Nat := max 128 (ceilDiv (32 + p.count * entryBytes kind p + 4) 64 * 64)

/-- Channel `c`, and ring `r` = 4c + j. -/
def getChan (s : State) (c : Nat) : Option AqChannel := tfind s.aq.chans c
def getAqRing (s : State) (r : Nat) : Option AqRing := tfind s.aq.rings r
def setChan (c : Nat) (x : AqChannel) (s : State) : State := { s with aq := { s.aq with chans := tset s.aq.chans c x } }
def setAqRing (r : Nat) (x : AqRing) (s : State) : State := { s with aq := { s.aq with rings := tset s.aq.rings r x } }

/-- AQ runs: not in BOOT, PROVISION, DOZE or FROZEN (10 R342), nor once the sleep handshake has stopped it (14 R452). -/
def aqRuns (s : State) : Bool :=
  match s.pm.mode with
  | .boot => false | .provision => false | .doze => false | .frozen => false | _ => !hsStopped 1 s

/-- The channel's rings that write: of an enabled channel, those with host addresses (10 R343). -/
def liveRings (s : State) (c : Nat) : List Nat :=
  match getChan s c with
  | none => []
  | some x => if !x.en || !aqRuns s then [] else
    ((List.range 4).map (4 * c + ·)).filter (fun r => ((getAqRing s r).map (·.addressed)).getD false)

/-- Channels bound to a group: defined ones, enabled or not (06 Table 6-5, R209). -/
def boundChans (s : State) (gid : Nat) : List Nat := (s.aq.chans.filter (fun e => e.2.p.gid == gid)).map (·.1)

/-- Enabled channels bound to a group, while AQ runs. -/
def chansOf (s : State) (gid : Nat) : List Nat :=
  if !aqRuns s then [] else (s.aq.chans.filter (fun e => e.2.en && e.2.p.gid == gid)).map (·.1)

/-- SLOT of ring `r`. -/
def slotOf (s : State) (r : Nat) : Nat :=
  match getChan s (r / 4), getAqRing s r with
  | some c, some g => slotBytes g.p.kind c.p
  | _, _ => 0

/-- Bytes staged in all rings (10 R340). -/
def stagedBytes (s : State) : Nat := listSum (s.aq.rings.map (fun e => e.2.staged.length * slotOf s e.1))

/-- Free KiB of the 2 MiB staging buffer. -/
def freeKib (s : State) : Nat := (2097152 - stagedBytes s) / 1024

/-- A record enters the staging buffer with the ring's next SEQ, or is dropped whole, SEQ taken (10 R340). -/
def stageRecord (r : Nat) (x : AqRec) (s : State) : State :=
  match getAqRing s r with
  | none => s
  | some g =>
    let g' := { g with seq := (g.seq + 1) % 2 ^ 32 }
    if stagedBytes s + slotOf s r ≤ 2097152 then
      let s := setAqRing r { g' with dropOpen := false, staged := g.staged ++ [{ x with seq := g.seq }] } s
      { s with aq := { s.aq with lowKib := min s.aq.lowKib (freeKib s) } }
    else
      let s := setAqRing r { g' with dropped := (g.dropped + 1) % 2 ^ 32, dropOpen := true } s
      let s := count (0x10C408 + 0x20 * r) (count 0x10C010 s)
      if g.dropOpen then s else note s.aq.nq 10 0x02 2 r s

/-- A record without fields of its own. -/
def AqRec.base (type gid index : Nat) : AqRec := ⟨0, type, 0, gid, index, 0, 0, 0, 0, 0, 0, 0, 0, []⟩

/-- FLAGS of a record of a released instant (Table 10-6). -/
def relFlags (i : Instant) : Nat := fld (b2n i.byDeadline) 0 1 + fld (b2n i.gap) 1 1 + fld i.relTq 2 3

/-- Flags of a member's cell (Table 10-7). -/
def cellFlags (c : Cell) : Nat :=
  1 + fld (b2n c.late) 1 1 + fld (b2n c.interp) 2 1 + fld (b2n c.unsettled) 3 1 + fld (b2n c.authOk) 4 1 +
  fld (b2n c.timeOk) 5 1 + fld (b2n c.statErr) 6 1 + fld (b2n c.frozenGap) 8 1

/-- MISSING alone (Table 10-7). -/
def missingFlag : Nat := 2 ^ 7

/-- A RAW, LATE or AMEND member entry as 32-bit words (Table 10-7). -/
def rawEntry (p : ChanP) (sid : Nat) (c : Option Cell) : List Nat :=
  match c with
  | none => (sid + missingFlag * 2 ^ 16) :: List.replicate ((entryBytes 0 p) / 4 - 1) 0
  | some c =>
    let v := c.validBits
    [sid + cellFlags c * 2 ^ 16, (c.arrival % 2 ^ 32).toNat, v % 2 ^ 32, v / 2 ^ 32] ++
    (maskChans p).flatMap (fun ch =>
      match c.chan ch with
      | none => if ch < 32 then [0, 0] else [0]
      | some x => if ch < 32 then [twosComp 32 x.a, twosComp 32 x.b] else [twosComp 32 x.a])

/-- The members of a list that a channel records (10 R332). -/
def recorded (p : ChanP) (members : List Nat) : List Nat := (members.drop p.first).take p.count

/-- A DATA record of a RAW ring (10 R333). -/
def rawData (p : ChanP) (i : Instant) : AqRec :=
  let ms := recorded p i.members
  { AqRec.base 0 p.gid i.k with
    flags := relFlags i, entries := ms.length, aux := (ms.filter (fun m => (tfind i.cells m).isNone)).length,
    words := ms.flatMap (fun m => rawEntry p m (tfind i.cells m)) }

/-- Magnitude of a phasor as AV18 of its full scale, saturating (Table 10-7). -/
def magCode (a b : Int) : Int := min 131071 (sqrtRound (a.natAbs * a.natAbs + b.natAbs * b.natAbs) 1 : Nat)

/-- One valid sample enters a channel's reduction. -/
def AqChan.add (x : AqChan) (v : Int) : AqChan :=
  let u := v.toNat % 2 ^ 16
  if x.n == 0 then { x with n := 1, lo := v, hi := v, sum := v, sq := v * v, orBits := u, andBits := u, last := v }
  else { x with n := x.n + 1, lo := min x.lo v, hi := max x.hi v, sum := x.sum + v, sq := x.sq + v * v,
                orBits := x.orBits ||| u, andBits := x.andBits &&& u, last := v }

/-- A member's cell of one instant enters its reduction; only valid samples count (10 R333, R334). -/
def AqMem.add (x : AqMem) (c : Option Cell) : AqMem :=
  match c with
  | none => { x with flags := x.flags ||| missingFlag, missing := x.missing + 1 }
  | some c =>
    { x with flags := x.flags ||| cellFlags c, valid := x.valid ||| c.validBits,
             chans := x.chans.map (fun y => match c.chan y.ch with
               | none => y
               | some v => y.add (if y.ch < 32 then magCode v.a v.b else v.a)) }

/-- A fresh member of a reduction. -/
def AqMem.fresh (p : ChanP) (sid : Nat) : AqMem :=
  ⟨sid, 0, 0, 0, (maskChans p).map (fun ch => ⟨ch, 0, 0, 0, 0, 0, 0, 0, 0⟩)⟩

/-- An instant enters the open block. -/
def AqBlock.add (b : AqBlock) (p : ChanP) (i : Instant) : AqBlock :=
  let ms := recorded p i.members
  let fresh := ms.filter (fun m => !(b.mems.any (fun x => x.sid == m)))
  let mems := b.mems ++ fresh.map (AqMem.fresh p)
  { b with released := b.released + 1,
           flags := (b.flags % 4) ||| relFlags i % 4 ||| fld i.relTq 2 3,
           mems := mems.map (fun x => if ms.contains x.sid then x.add (tfind i.cells x.sid) else x) }

/-- Values of one channel of a finished reduction (Table 10-7). -/
def AqChan.values (x : AqChan) (kind : Nat) : List Nat :=
  if x.ch ≥ 42 then (if kind == 1 then [x.orBits, x.andBits, x.last.toNat % 2 ^ 16] else [x.orBits])
  else if x.n == 0 then List.replicate (if kind == 1 then 3 else 1) 0
  else if kind == 1 then [twosComp 32 x.lo, twosComp 32 x.hi, twosComp 32 (roundDiv x.sum x.n)]
  else [min 131071 (sqrtRound x.sq.toNat x.n)]

/-- A reduction's member entry as 32-bit words (Table 10-7). -/
def AqMem.words (x : AqMem) (kind : Nat) : List Nat :=
  [x.sid + x.flags * 2 ^ 16, x.missing % 2 ^ 16, x.valid % 2 ^ 32, x.valid / 2 ^ 32] ++ x.chans.flatMap (fun y => y.values kind)

/-- The record of a finished block (10 R333). -/
def blockRecord (p : ChanP) (g : AqRing) (b : AqBlock) : AqRec :=
  { AqRec.base 0 p.gid (b.b * g.p.n) with flags := b.flags, entries := b.mems.length, aux := b.released % 2 ^ 16,
                                          words := b.mems.flatMap (fun x => x.words g.p.kind) }

/-- The open block of ring `r`, if any, is written. -/
def flushBlock (r : Nat) (s : State) : State :=
  match getAqRing s r, getChan s (r / 4) with
  | some g, some c =>
    match g.blk with
    | some b => stageRecord r (blockRecord c.p g b) (setAqRing r { g with blk := none } s)
    | none => s
  | _, _ => s

/-- An instant enters the reduction of ring `r` (10 R333). -/
def reduceInstant (r : Nat) (i : Instant) (s : State) : State :=
  match getAqRing s r, getChan s (r / 4) with
  | some g, some c =>
    let b := i.k / g.p.n
    let s := if (g.blk.map (fun x => x.b != b)).getD false then flushBlock r s else s
    match getAqRing s r with
    | none => s
    | some g =>
      let blk := (g.blk.getD ⟨b, 0, 0, []⟩).add c.p i
      let s := setAqRing r { g with blk := some blk } s
      if i.k % g.p.n + 1 == g.p.n then flushBlock r s else s
  | _, _ => s

/-- Windows of channel `c` that end at the release of instant k: END in every enabled ring and WINDOW_END (10 R337). -/
def endWindows (c k : Nat) (s : State) : State :=
  match getChan s c with
  | none => s
  | some x =>
    let done := x.windows.filter (fun w => w.last ≤ k)
    let s := setChan c { x with windows := x.windows.filter (fun w => !(w.last ≤ k)) } s
    done.foldl (fun s w =>
      let rec0 := { AqRec.base 2 x.p.gid 0 with markNo := w.no, trig := w.trig, first := w.first, last := w.last }
      let s := (liveRings s c).foldl (fun s r => stageRecord r rec0 s) s
      note s.aq.nq 10 0x03 0 (fld c 28 4 + w.no % 2 ^ 28) s) s

/-- Channel `c` reads the cells of one released instant for all its rings (10 R333, 06 R203, R223). -/
def recordInstant (c : Nat) (i : Instant) (s : State) : State :=
  match getChan s c with
  | none => s
  | some x =>
    let (i, s) := readMembers (recorded x.p i.members) i s
    let s := (liveRings s c).foldl (fun s r =>
      if ((getAqRing s r).map (·.p.kind)).getD 0 == 0 then stageRecord r (rawData x.p i) s else reduceInstant r i s) s
    let s := match getChan s c with
      | some x => setChan c { x with nextK := i.k + 1 } s
      | none => s
    endWindows c i.k s

/-- Channel `c` takes every released instant it holds, in release order, and frees its holds (06 R203). -/
def absorb (c : Nat) (s : State) : State :=
  match getChan s c with
  | none => s
  | some x =>
    match getGroup s x.p.gid with
    | none => s
    | some g =>
      (g.instants.filter (fun i => i.aqHolds.contains c)).foldl (fun s i =>
        freeHold x.p.gid i.k (fun i => { i with aqHolds := i.aqHolds.filter (· != c) }) (recordInstant c i s)) s

/-- A LATE or AMEND record of a RAW ring, within its budget of 4 x RATE records per second (10 R335). -/
def stageLate (r rate : Nat) (x : AqRec) (s : State) : State :=
  match getAqRing s r with
  | none => s
  | some g =>
    let full : Rat := 4 * rate
    let have' : Rat := g.budget + full * (s.tm.frc - g.budgetAt : Nat) * mkRat 256 100000000000
    let b := if full < have' then full else have'
    if b < 1 then
      count 0x10C028 (setAqRing r { g with budget := b, budgetAt := s.tm.frc } s)
    else
      let s := setAqRing r { g with budget := b - 1, budgetAt := s.tm.frc } s
      let s := if x.type == 3 then count (0x10C418 + 0x20 * r) s else s
      stageRecord r x s

/-- The late cells `cells` of instant `i` go to the RAW rings of every channel of the group (10 R335): type 3 LATE, or 4
AMEND with its batch number. -/
def recordLate (type batch gid : Nat) (i : Instant) (cells : Tbl Cell) (s : State) : State :=
  let rate := ((getGroup s gid).map (·.p.rate)).getD 0
  let (cells, s) := readCells cells s
  (chansOf s gid).foldl (fun s c =>
    let s := absorb c s
    match getChan s c with
    | none => s
    | some x =>
      let ms := recorded x.p i.members
      let ms := if type == 3 then ms.filter (fun m => (tfind cells m).isSome) else ms
      if type == 3 && ms.isEmpty then s
      else
        let rec0 := { AqRec.base type gid i.k with flags := relFlags i, entries := ms.length, aux := batch,
                                                   words := ms.flatMap (fun m => rawEntry x.p m (tfind cells m)) }
        ((liveRings s c).filter (fun r => ((getAqRing s r).map (·.p.kind)).getD 1 == 0)).foldl
          (fun s r => stageLate r rate rec0 s) s) s

/-- Each ring of channel `c` writes one GAP record (10 R335): cause 1 SKIPPED, 2 DOZE, 3 SHED. -/
def gapRings (c gid first last cause : Nat) (s : State) : State :=
  (liveRings s c).foldl (fun s r =>
    count 0x10C030 (stageRecord r { AqRec.base 5 gid first with aux := cause, last := last } s)) s

/-- Each ring of the group's channels writes one GAP record for the missing range (10 R335). -/
def recordGap (gid first last cause : Nat) (s : State) : State :=
  (chansOf s gid).foldl (fun s c =>
    let s := gapRings c gid first last cause (absorb c s)
    match getChan s c with
    | some x => setChan c { x with nextK := last + 1 } s
    | none => s) s

/-- Tokens of a channel now (10 R337). -/
def tokensNow (x : AqChannel) (s : State) : Rat :=
  let have' : Rat := x.tokens + (x.p.markRate : Rat) * (s.tm.frc - x.tokensAt : Nat) * mkRat 256 100000000000
  if (x.p.markRate : Rat) < have' then x.p.markRate else have'

/-- What a trigger did on a channel. -/
inductive MarkResult where
  | none | written | merged | dropped
deriving DecidableEq, Repr

/-- The newest open window of a channel reaches to `last`; AQ_MARK_MERGED counts (10 R337). -/
def mergeWindow (c : Nat) (x : AqChannel) (last : Nat) (s : State) : State :=
  let ws := x.windows.dropLast ++ (x.windows.drop (x.windows.length - 1)).map (fun w => { w with last := max w.last last })
  count 0x10C020 (setChan c { x with windows := ws } s)

/-- A new window opens: a token is spent and MARK goes to each enabled ring (10 R337). -/
def openWindow (c : Nat) (x : AqChannel) (tokens : Rat) (trig : Int) (first last source id : Nat) (s : State) : State :=
  let no := x.nextNo
  let w : AqWindow := ⟨no, trig, first, last⟩
  let s := setChan c { x with tokens := tokens - 1, tokensAt := s.tm.frc, windows := x.windows ++ [w], markNo := no,
                              nextNo := (no + 1) % 2 ^ 32 } s
  (liveRings s c).foldl (fun s r =>
    stageRecord r { AqRec.base 1 x.p.gid 0 with markNo := no, source := source, sourceId := id, trig := trig,
                                                first := first, last := last } (count (0x10C410 + 0x20 * r) s)) s

/-- A trigger with time `t` (2^-16 ns) from SOURCE `source` reaches channel `c` (10 R336, R337). -/
def triggerChan (c : Nat) (t : Int) (source id : Nat) (s : State) : MarkResult × State :=
  let s := absorb c s
  match getChan s c with
  | none => (.none, s)
  | some x =>
    if !x.en || !aqRuns s || !bit x.p.srcEn source then (.none, s)
    else match getGroup s x.p.gid with
    | none => (.none, s)
    | some g =>
      let i := (indexAt g.p t).toNat
      let first := i - x.p.pre
      let last := min (2 ^ 40 - 1) (i + x.p.post)
      let tok := tokensNow x s
      if x.p.retrig == 1 && !x.windows.isEmpty then (.merged, mergeWindow c x last s)
      else if 1 ≤ tok && x.windows.length < 16 then (.written, openWindow c x tok t first last source id s)
      else if !x.windows.isEmpty then (.merged, mergeWindow c x last s)
      else (.dropped, note s.aq.nq 10 0x01 1 c (count 0x10C018 s))

/-- A trigger reaches the channels of a mask, ascending. -/
def triggerMask (mask : Nat) (t : Int) (source id : Nat) (s : State) : State :=
  (bitList 16 mask).foldl (fun s c => (triggerChan c t source id s).2) s

/-- Words of a record's header and of the times of MARK, END and GAP (Table 10-6). -/
def headerWords (r : Nat) (x : AqRec) : List Nat :=
  [x.seq, x.type + fld r 8 6 + x.flags * 2 ^ 16, (x.gid + x.index * 2 ^ 6) % 2 ^ 32, (x.gid + x.index * 2 ^ 6) / 2 ^ 32,
   x.entries + x.aux * 2 ^ 16, x.markNo, x.source + x.sourceId * 2 ^ 8, 0] ++
  (if x.type == 1 || x.type == 2 then
     leWords 3 (DT96.bytes (dt96Of x.trig)) ++
     [x.first % 2 ^ 32, x.first / 2 ^ 32, x.last % 2 ^ 32, x.last / 2 ^ 32]
   else if x.type == 5 then [x.last % 2 ^ 32, x.last / 2 ^ 32] else [])

/-- A record is written: TAIL, body, header, then the status block and vector when due (10 R338). -/
def writeAqRecord (r : Nat) (g : AqRing) (x : AqRec) (s : State) : State :=
  let slot := slotOf s r
  let base := g.p.base + x.seq % 2 ^ g.p.log2Slots * slot
  let s := emit (.hostWrite (base + slot - 4) (leBytes 4 x.seq)) s
  let s := emit (.hostReport (base + 32) x.type x.words) s
  let s := emit (.hostReport base x.type (headerWords r x)) s
  let s := countN 0x10C008 slot (count (0x10C400 + 0x20 * r) (count 0x10C000 s))
  if x.seq % (g.p.statusEvery + 1) == 0 || x.type == 1 || x.type == 2 || x.type == 5 then
    let s := emit (.hostWrite g.p.statusAddr (leBytes 4 x.seq ++ leBytes 4 g.dropped ++ leBytes 8 0)) s
    if g.p.vector == 0 then s else fireVector g.p.vector s
  else s

/-- The oldest staged record of ring `r` is written. -/
def writeStaged (r : Nat) (s : State) : State :=
  match getAqRing s r with
  | some g =>
    match g.staged with
    | x :: rest => writeAqRecord r g x (setAqRing r { g with staged := rest } s)
    | [] => s
  | none => s

/-- AQ_RECORD_WRITE (10 R338): the channel takes the released sets it holds, then the ring's oldest record is written. -/
def execAqRecordWrite (ring : Nat) (s : State) : Host.Outcome State Fault Refusal :=
  .next (if aqRuns s && (liveRings s (ring / 4)).contains ring then writeStaged ring (absorb (ring / 4) s) else s)

/-- Channel `c` starts or stops recording between two releases (10 R343, Table 10-16). -/
def enableChan (c : Nat) (en : Bool) (s : State) : State :=
  match getChan s c with
  | none => s
  | some x =>
    let g := getGroup s x.p.gid
    let rate := (g.map (·.p.rate)).getD 0
    let next := (g.map (fun g => ((g.oldestOpen).map (·.k)).getD g.next)).getD 0
    let s := if en then s else absorb c s
    let s := (List.range 4).foldl (fun s j =>
      match getAqRing s (4 * c + j) with
      | none => s
      | some r =>
        if en then
          setAqRing (4 * c + j) { r with seq := 0, dropped := 0, dropOpen := false, blk := none,
                                         budget := (4 * rate : Nat), budgetAt := s.tm.frc, staged := [] } s
        else setAqRing (4 * c + j) { r with blk := none, staged := [] } s) s
    if en then setChan c { x with en := true, tokens := x.p.markRate, tokensAt := s.tm.frc, windows := [], nextK := next } s
    else setChan c { x with en := false, windows := [] } s

end Sys2Proof.Machine
end

