-- ==== Sys2Proof/Machine/Scale.lean ====
section
/-! DEFINITION. The full scale of a channel of a stream: of its install block, or of an anchor virtual stream (05 Table 5-13,
11 Table 11-5). -/

namespace Sys2Proof.Machine

/-- x / √2 within 2^-64 of x. -/
def overRoot2 (x : Rat) : Rat := x * mkRat (isqrt (2 ^ 127) : Nat) (2 ^ 64)

/-- Full scale of channel `ch` of virtual stream `v` (Table 11-5). -/
def anchorScale (s : State) (ch : Nat) : Rat :=
  let fs := fun k => ratOfFloat (tget MChan.reset s.am.chans k).p.fs
  let el := fun e => (tget Elem.reset s.am.els e).p
  if ch < 12 then overRoot2 (fs ch)
  else if ch < 16 then overRoot2 (fs ((el (ch - 12)).chans.getD 0 0))
  else if ch < 20 then overRoot2 (fs ((el (ch - 16)).chans.getD 1 0))
  else
    let p := el ((ch - 34) / 2)
    (p.phases : Rat) * fs (p.chans.getD 0 0) * fs (p.chans.getD 1 0) / 2

/-- Full scale of channel `ch` of stream `sid`. -/
def streamScale (s : State) (sid ch : Nat) : Rat :=
  match tfind s.si.streams sid with
  | none => 0
  | some x => if 16376 ≤ sid then anchorScale s ch else ratOfFloat (if ch < 32 then x.p.phFs.getD ch 0 else x.p.anFs.getD (ch - 34) 0)

end Sys2Proof.Machine
end

