-- ==== Sys2Proof/Machine/Bands.lean ====
section
/-! DEFINITION. Signal processing of Sirocco (09 R297, R301, R302, R309): the decimation FIR, the sixteen Butterworth band filters
with their energy and growth, and the periodogram behind PEAK_RATIO. Numbers are carried in 2^-96; the manual gives real formulas
and no precision (DEDUCED, log 82). -/

namespace Sys2Proof.Machine

/-- One in the fixed-point numbers of this file. -/
def fixOne : Int := 2 ^ 96

/-- A product of two fixed-point numbers. -/
def fixMul (a b : Int) : Int := a * b / fixOne

/-- Band edges in 0.001 Hz (Table 9-4). -/
def bandEdges : List (Nat × Nat) :=
  [(10, 20), (20, 40), (40, 70), (70, 100), (100, 150), (150, 200), (200, 250), (250, 320), (320, 400), (400, 500),
   (500, 650), (650, 800), (800, 1100), (1100, 1600), (1600, 2500), (2500, 5000)]

/-! ### The band filters (09 R301) -/

/-- tan(pi f / 25) of an edge in 0.001 Hz: the bilinear transform at 25 samples/s with the edge kept in its place. -/
def edgeTan (mHz : Nat) : Int :=
  let x : Int := (twoPi : Int) * mHz / 50000
  sinOf x * fixOne / cosOf x

/-- The square root of 2. -/
def root2 : Int := isqrt (2 * 2 ^ 192)

/-- Coefficient `i` of (1 - z)^j (1 + z)^(4 - j). -/
def bilinear (j i : Nat) : Int :=
  (([[1, 4, 6, 4, 1], [1, 2, 0, -2, -1], [1, 0, -2, 0, 1], [1, -2, 0, 2, -1], [1, -4, 6, -4, 1]] : List (List Int)).getD j []).getD i 0

/-- The five denominator coefficients of band `b`, the first one not yet 1, and its gain: the second-order Butterworth prototype
p² + √2 p + 1 under p = (s² + w0²) / (bw s) and s = (1 - z) / (1 + z), a band-pass of order four. -/
def bandCoefs (b : Nat) : List Int × Int :=
  let e := bandEdges.getD b (1, 2)
  let lo := edgeTan e.1
  let hi := edgeTan e.2
  let bw := hi - lo
  let w2 := fixMul lo hi
  let q := fixMul root2 bw
  let c := [fixMul w2 w2, fixMul q w2, 2 * w2 + fixMul bw bw, q, fixOne]
  ((List.range 5).map (fun i => ((List.range 5).map (fun j => c.getD j 0 * bilinear j i)).foldl (· + ·) 0), fixMul bw bw)

/-- The next output of band `b` from the present sample and the four before it, newest first, in codes. -/
def BandState.output (st : BandState) (b : Nat) (xs : List Int) : Int :=
  let (a, k) := bandCoefs b
  let num := k * (xs.getD 0 0 - 2 * xs.getD 2 0 + xs.getD 4 0)
  let back := ((List.range 4).map (fun i => fixMul (a.getD (i + 1) 0) (st.ys.getD i 0))).foldl (· + ·) 0
  (num - back) * fixOne / a.getD 0 fixOne

/-- fc of a band in Hz (09 R301). -/
def bandFc (b : Nat) : Int :=
  let e := bandEdges.getD b (1, 2)
  (isqrt (e.1 * e.2 * 2 ^ 192) : Nat) / 1000

/-- Twice the terms of atanh(t) in 2^-96. -/
def atanhSum (t2 : Nat) : Nat → Nat → Nat → Nat → Nat
  | 0, _, _, acc => acc
  | fuel + 1, n, t, acc => atanhSum t2 fuel (n + 2) (t * t2 / 2 ^ 96) (acc + 2 * t / n)

/-- ln((2^96 + m) / 2^96) for m below 2^96. -/
def lnMantissa (m : Nat) : Nat :=
  let t := m * 2 ^ 96 / (m + 2 * 2 ^ 96)
  atanhSum (t * t / 2 ^ 96) 40 1 t 0

/-- ln of a positive number; of 0 no rule gives it (FREE VALUE). -/
def lnFix (n : Nat) : Int :=
  if n == 0 then Config.lnOfZero
  else
    let k := n.log2
    (k * lnMantissa (2 ^ 96) : Nat) + (lnMantissa (n * 2 ^ 96 / 2 ^ k - 2 ^ 96) : Nat) - (96 * lnMantissa (2 ^ 96) : Nat)

/-- A band after one sample (09 R301); the flag is ZC_VALID: its energy is not below floor². -/
def BandState.step (st : BandState) (b cycles floor : Nat) (xs : List Int) : BandState × Bool :=
  let y := st.output b xs
  let rate := bandFc b / (25 * cycles)
  let e := st.e + fixMul (fixMul y y - st.e) rate
  let lim : Int := floor * floor * fixOne
  let above := decide (lim ≤ e)
  let g := if above && decide (lim ≤ st.e) then st.g + fixMul (25 * (lnFix e.toNat - lnFix st.e.toNat) - st.g) rate else st.g
  (⟨(y :: st.ys).take 4, e, g⟩, above)

/-- BR: the band RMS as a code (09 R294, R301). -/
def BandState.br (st : BandState) : Nat := min 131071 (sqrtRound st.e.toNat (2 ^ 96))

/-- ZC: coarse damping, full scale 1, saturating (09 R294, R301). -/
def BandState.zc (st : BandState) (b : Nat) : Int :=
  satCode 18 (mkRat (-(st.g * 131072 * 2 ^ 128)) (2 * twoPi * (bandFc b).toNat))

/-! ### Decimation (09 R297) -/

/-- The decimated sample of tag m from the inputs of its span, by the symmetric FIR of the source rate, whose tap at a distance of
d / (25 x rate) s is Config.firTap in 2^-40; rounded under R9. -/
def firSample (rate m : Nat) (xs : List (Int × Int)) : Int :=
  let sum := (xs.map (fun x => Config.firTap rate (25 * x.1 - Int.ofNat (m * rate)).natAbs * x.2)).foldl (· + ·) 0
  satCode 18 (mkRat sum (2 ^ 40))

/-! ### PEAK_RATIO (09 R309) -/

/-- Sample `n` of `len` under the Hann window, in 2^-128. -/
def hann (len n : Nat) : Int := (2 ^ 128 - cosOf ((twoPi : Int) * n / len)) / 2

/-- |X_j|² of windowed data, oldest first, up to a common factor. -/
def binPower (xs : List Int) (j : Nat) : Int :=
  let len := xs.length
  let ws := (List.range len).zip xs
  let ang := fun (n : Nat) => (twoPi : Int) * ((j * n % len : Nat) : Int) / len
  let re := (ws.map (fun e => hann len e.1 * e.2 * cosOf (ang e.1) / 2 ^ 128)).foldl (· + ·) 0
  let im := (ws.map (fun e => hann len e.1 * e.2 * sinOf (ang e.1) / 2 ^ 128)).foldl (· + ·) 0
  re * re + im * im

/-- PEAK_RATIO of a mode at MF18 frequency `f`, LSB 2^-8, saturating: the mean density within f ± 1.5 / T over that of the rest of
f ± 0.25 f. Where a range holds no bin or no power no rule gives it (FREE VALUE). -/
def peakRatioOf (xs : List Int) (f : Nat) : Nat :=
  let len := xs.length
  let dist := fun (j : Nat) => ((25 * j * 32768 : Nat) - (f * len : Nat) : Int).natAbs
  let bins := (List.range (len / 2 + 1)).filter (fun j => 4 * dist j ≤ f * len || 2 * dist j ≤ 75 * 32768)
  let near := bins.filter (fun j => 2 * dist j ≤ 75 * 32768)
  let rest := bins.filter (fun j => !(2 * dist j ≤ 75 * 32768))
  let sum := fun (l : List Nat) => (l.map (binPower xs)).foldl (· + ·) 0
  let d := sum rest
  if near.isEmpty || d == 0 then Config.peakOfNone % 2 ^ 32
  else min 0xFFFFFFFF (roundRat (mkRat (sum near * 256 * rest.length) (d.toNat * near.length))).toNat

end Sys2Proof.Machine
end

