-- ==== Sys2Proof/Machine/Estimate.lean ====
section
/-! DEFINITION. The linear state estimate (chapter 08, R272 to R283): the rows of the least-squares problem in complex rationals,
its exact solution, and how far a solve's voltages may lie from it; residuals and the removal of bad data. -/

namespace Sys2Proof.Machine

/-! ### Complex rationals and matrices of them -/

/-- A complex rational. -/
abbrev Cx := Rat × Rat

def cxAdd (a b : Cx) : Cx := (a.1 + b.1, a.2 + b.2)
def cxSub (a b : Cx) : Cx := (a.1 - b.1, a.2 - b.2)
def cxMul (a b : Cx) : Cx := (a.1 * b.1 - a.2 * b.2, a.1 * b.2 + a.2 * b.1)
def cxConj (a : Cx) : Cx := (a.1, -a.2)
def cxScale (k : Rat) (a : Cx) : Cx := (k * a.1, k * a.2)

/-- |a|². -/
def cxNorm (a : Cx) : Rat := a.1 * a.1 + a.2 * a.2

/-- 1 / a. -/
def cxInv (a : Cx) : Cx := cxScale (1 / cxNorm a) (cxConj a)

/-- A sum of complex rationals. -/
def cxSum (l : List Cx) : Cx := l.foldl cxAdd (0, 0)

/-- Column `p` of an augmented matrix is cleared but for a 1 in row `p`. -/
def clearColumn (a : List (List Cx)) (p : Nat) : List (List Cx) :=
  let row := a.getD p []
  let pr := row.map (cxMul (cxInv (row.getD p (1, 0))))
  (List.range a.length).map (fun i =>
    let r := a.getD i []
    if i == p then pr else List.zipWith cxSub r (pr.map (cxMul (r.getD p (0, 0)))))

/-- The inverse of a positive definite matrix of `n` rows. -/
def cxInverse (n : Nat) (g : List (List Cx)) : List (List Cx) :=
  let aug := (List.range n).map (fun i => g.getD i [] ++ (List.range n).map (fun j => if i == j then (1, 0) else (0, 0)))
  ((List.range n).foldl clearColumn aug).map (fun r => r.drop n)

/-- A matrix times a column. -/
def cxApply (g : List (List Cx)) (b : List Cx) : List Cx := g.map (fun r => cxSum (List.zipWith cxMul r b))

/-! ### Rows (08 Table 8-2) -/

/-- A row: h by node, z, and the weight 1 / SIGMA². -/
structure EstRow where
  h : List (Nat × Cx)
  z : Cx
  w : Rat
deriving DecidableEq, Repr

/-- A complex number of two float32 codes. -/
def cxFloat (re im : Nat) : Cx := (ratOfFloat re, ratOfFloat im)

/-- h of a measurement (Table 8-2). -/
def measH (m : ModelP) (x : MeasP) : List (Nat × Cx) :=
  if x.kind == 0 then [(x.target, (1, 0))]
  else match m.branches[x.target]? with
    | none => []
    | some b =>
      let y := cxFloat b.yRe b.yIm
      let a := if b.kind == 1 then cxFloat b.tapRe b.tapIm else (1, 0)
      let own := cxAdd y (0, ratOfFloat b.b / 2)
      if x.kind == 1 then [(b.fr, cxScale (1 / cxNorm a) own), (b.tgt, cxScale (-1) (cxMul y (cxInv (cxConj a))))]
      else [(b.fr, cxScale (-1) (cxMul y (cxInv a))), (b.tgt, own)]

/-- The weight of SIGMA in LSB of 2^-20 pu. -/
def weightOf (sigma : Nat) : Rat := mkRat (2 ^ 40) (sigma * sigma)

/-- h · x. -/
def rowValue (h : List (Nat × Cx)) (x : List Cx) : Cx := cxSum (h.map (fun e => cxMul e.2 (x.getD e.1 (0, 0))))

/-- SCALE x the decoded phasor of a measurement. -/
def measuredZ (x : MeasP) (v : CellChan) : Cx := cxScale (ratOfFloat x.scale / 131072) ((v.a : Rat), (v.b : Rat))

/-- What a solve works on: the model, z of its measurement rows, the couplers that have a row, the last solution, and the handed
over voltages' bound, none when no rule bounds them. -/
structure EstEnv where
  m : ModelP
  z : Tbl Cx
  couplers : List Nat
  last : List Cx
  bound : Option Rat
deriving DecidableEq, Repr

/-- The row of measurement `n`. -/
def measRow (v : EstEnv) (n : Nat) : Option EstRow :=
  (v.m.meas[n]?).map (fun x => ⟨measH v.m x, (tfind v.z n).getD (0, 0), weightOf x.sigma⟩)

/-- The row of a closed coupler, SIGMA_COUPLER being 16 LSB. -/
def couplerRow (v : EstEnv) (b : Nat) : Option EstRow :=
  (v.m.branches[b]?).map (fun x => ⟨[(x.fr, (1, 0)), (x.tgt, (-1, 0))], (0, 0), weightOf 16⟩)

/-- The prior row of node `i`: the last solution, SIGMA 1 pu (08 R272). -/
def priorRow (v : EstEnv) (i : Nat) : EstRow := ⟨[(i, (1, 0))], v.last.getD i (1, 0), 1⟩

/-- All rows of a solve with measurement rows `rows`. -/
def estRows (v : EstEnv) (rows : List Nat) : List EstRow :=
  rows.filterMap (measRow v) ++ v.couplers.filterMap (couplerRow v) ++ (List.range v.m.nodes.length).map (priorRow v)

/-- The coefficient of a row at node `i`. -/
def EstRow.at' (r : EstRow) (i : Nat) : Cx := cxSum ((r.h.filter (fun e => e.1 == i)).map (·.2))

/-- G = Hᴴ W H. -/
def gramOf (n : Nat) (rows : List EstRow) : List (List Cx) :=
  (List.range n).map (fun i => (List.range n).map (fun j =>
    cxSum (rows.map (fun r => cxScale r.w (cxMul (cxConj (r.at' i)) (r.at' j))))))

/-- Hᴴ W z. -/
def rhsOf (n : Nat) (rows : List EstRow) : List Cx :=
  (List.range n).map (fun i => cxSum (rows.map (fun r => cxScale r.w (cxMul (cxConj (r.at' i)) r.z))))

/-! ### Solving, residuals, bad data (08 R280, R283) -/

/-- `x` held within `b` of `e`. -/
def within' (b e x : Rat) : Rat := if x < e - b then e - b else if e + b < x then e + b else x

/-- The voltages of one pass: the exact solution, moved to what the solve's program hands over (parts in 2^-32 pu), which lies
within the bound of it (08 R283). -/
def heldVolts (v : EstEnv) (exact : List Cx) (op : Tbl (Int × Int)) : List Cx :=
  (List.range exact.length).map (fun i =>
    let e := exact.getD i (0, 0)
    match tfind op i with
    | none => e
    | some p =>
      let x : Cx := (mkRat p.1 (2 ^ 32), mkRat p.2 (2 ^ 32))
      match v.bound with
      | some b => (within' b e.1 x.1, within' b e.2 x.2)
      | none => x)

/-- One pass over the rows: the voltages, and rN² of every tested row (08 R280). -/
structure EstPass where
  x : List Cx
  rn : Tbl Rat
deriving DecidableEq, Repr

/-- rN² of a row: |r|² / (σ² - h G⁻¹ hᴴ) (08 R280). -/
def rnSquare (n : Nat) (ginv : List (List Cx)) (x : List Cx) (r : EstRow) : Rat :=
  let hc := (List.range n).map (fun j => cxConj (r.at' j))
  let q := (rowValue r.h (cxApply ginv hc)).1
  cxNorm (cxSub r.z (rowValue r.h x)) / (1 / r.w - q)

/-- A pass with measurement rows `rows`, of which `tested` have residuals. -/
def estPass (v : EstEnv) (rows tested : List Nat) (op : Tbl (Int × Int)) : EstPass :=
  let n := v.m.nodes.length
  let rs := estRows v rows
  let ginv := cxInverse n (gramOf n rs)
  let x := heldVolts v (cxApply ginv (rhsOf n rs)) op
  ⟨x, tested.filterMap (fun i => (measRow v i).map (fun r => (i, rnSquare n ginv x r)))⟩

/-- The row with the largest rN, the lowest number on a tie. -/
def largestRn (l : Tbl Rat) : Option (Nat × Rat) :=
  l.foldl (fun best e => match best with
    | none => some e
    | some b => if b.2 < e.2 || (b.2 == e.2 && e.1 < b.1) then some e else best) none

/-- Where the removal of bad data stands: the last pass, rows flagged BAD_DATA, and the last rN² of every row that had one. -/
structure BadState where
  pass : EstPass
  bad : List Nat
  rn : Tbl Rat
deriving DecidableEq, Repr

/-- The loop of 08 R280, with `lim` LNR_THRESH²: while the largest rN exceeds the threshold its row goes and the rest is solved
again; each solve hands over its voltages. -/
def removeBad (v : EstEnv) (lim : Rat) : Nat → List Nat → List Nat → List (Tbl (Int × Int)) → BadState → BadState
  | 0, _, _, _, b => b
  | fuel + 1, rows, tested, ops, b =>
    match largestRn b.pass.rn with
    | none => b
    | some (i, r) =>
      if r ≤ lim then b
      else
        let rows := rows.filter (· != i)
        let tested := tested.filter (· != i)
        let p := estPass v rows tested ((ops.head?).getD [])
        removeBad v lim fuel rows tested (ops.drop 1) ⟨p, b.bad ++ [i], p.rn.foldl (fun l e => tset l e.1 e.2) b.rn⟩

/-- The solve and its bad-data loop. -/
def solveRows (v : EstEnv) (lim : Rat) (badMax : Nat) (rows tested : List Nat) (ops : List (Tbl (Int × Int))) : BadState :=
  let p := estPass v rows tested ((ops.head?).getD [])
  removeBad v lim badMax rows tested (ops.drop 1) ⟨p, [], p.rn⟩

/-- BAD_ITER_MAX: BAD_MAX rows are gone and the largest rN still exceeds the threshold (08 R280). -/
def BadState.iterMax (b : BadState) (lim : Rat) (badMax : Nat) : Bool :=
  b.bad.length == badMax && (match largestRn b.pass.rn with | some (_, r) => lim < r | none => false)

/-- J: the weighted sum of squared residuals of the used measurement rows and of closed couplers (08 R281). -/
def chiSquare (v : EstEnv) (x : List Cx) (used couplers : List Nat) : Rat :=
  let rs := used.filterMap (measRow v) ++ couplers.filterMap (couplerRow v)
  (rs.map (fun r => r.w * cxNorm (cxSub r.z (rowValue r.h x)))).foldl (· + ·) 0

/-- A real of a given square as a code with `f` fraction bits, rounded (00 R9). -/
def rootCode (sq : Rat) (f : Nat) : Nat := sqrtRound (sq.num.toNat * 4 ^ f) sq.den

end Sys2Proof.Machine
end

