-- ==== Sys2Proof/Machine/Subspace.lean ====
section
/-! DEFINITION. The estimator of the slow path (09 R306): covariance-driven subspace identification, its singular vectors by
rotations of rows and its eigenvalues as roots of the characteristic polynomial. The manual gives real formulas and no precision:
numbers are carried in 2^-96, roots in 2^-512 (DEDUCED, log 82). -/

namespace Sys2Proof.Machine

/-! ### Fixed-point matrices, as lists of rows -/

/-- A quotient and a square root of fixed-point numbers; a quotient by 0 is 0. -/
def fixDiv (a b : Int) : Int := a * fixOne / b
def fixSqrt (x : Int) : Int := isqrt (x.toNat * 2 ^ 96)

/-- The inner product of two rows. -/
def fixDot (a b : List Int) : Int := (List.zipWith (· * ·) a b).foldl (· + ·) 0 / fixOne

/-- Entry `j` of row `i`. -/
def entry (a : List (List Int)) (i j : Nat) : Int := (a.getD i []).getD j 0

/-- The transpose of a matrix of `n` columns. -/
def transpose (n : Nat) (a : List (List Int)) : List (List Int) := (List.range n).map (fun j => a.map (fun r => r.getD j 0))

/-! ### Covariances -/

/-- A signal, codes oldest first, without its mean and linear trend. -/
def detrend (y : List Int) : List Int :=
  let n := y.length
  let xs := (List.range n).map (fun (t : Nat) => (2 * t : Int) - (n - 1 : Nat))
  let sx := (xs.map (fun x => x * x)).foldl (· + ·) 0
  let sxy := (List.zipWith (· * ·) xs y).foldl (· + ·) 0
  let mean := fixDiv (y.foldl (· + ·) 0) n
  let slope := fixDiv sxy sx
  List.zipWith (fun x v => v * fixOne - mean - slope * x) xs y

/-- r[j]: entry (a, b) is the mean of y_a[t + j] y_b[t]. -/
def covariance (y : List (List Int)) (n j : Nat) : List (List Int) :=
  y.map (fun a => y.map (fun b => fixDot (a.drop j) b / ((n - j : Nat) : Int)))

/-- The block matrix whose block (a, b) is r[i + a - b]. -/
def blockToeplitz (y : List (List Int)) (n i : Nat) : List (List Int) :=
  let r := (List.range (2 * i)).map (covariance y n)
  (List.range i).flatMap (fun a => (List.range y.length).map (fun p =>
    (List.range i).flatMap (fun b => (r.getD (i + a - b) []).getD p [])))

/-! ### Singular vectors -/

/-- Rows p and q turned so that their first `n` entries are orthogonal. -/
def turnRows (n p q : Nat) (a : List (List Int)) : List (List Int) :=
  let x := a.getD p []
  let y := a.getD q []
  let g := fixDot (x.take n) (y.take n)
  if g == 0 then a
  else
    let tau := fixDiv (fixDot (y.take n) (y.take n) - fixDot (x.take n) (x.take n)) (2 * g)
    let t := fixDiv (if tau < 0 then -fixOne else fixOne) (tau.natAbs + fixSqrt (fixOne + fixMul tau tau))
    let c := fixDiv fixOne (fixSqrt (fixOne + fixMul t t))
    let s := fixMul c t
    (a.set p (List.zipWith (fun u v => fixMul c u - fixMul s v) x y)).set q (List.zipWith (fun u v => fixMul s u + fixMul c v) x y)

/-- Every pair of rows turned once. -/
def turnAll (n m : Nat) (a : List (List Int)) : List (List Int) :=
  (List.range m).foldl (fun a p => (List.range (m - p - 1)).foldl (fun a d => turnRows n p (p + d + 1) a) a) a

/-- The left singular vectors of a square matrix of `m` rows, each times the square root of its singular value, by descending
value. -/
def scaledVectors (m : Nat) (a : List (List Int)) : List (List Int) :=
  let aug := (List.range m).map (fun i => a.getD i [] ++ (List.range m).map (fun j => if i == j then fixOne else 0))
  let rows := (List.range 24).foldl (fun a _ => turnAll m m a) aug
  let keyed := rows.map (fun r => (fixSqrt (fixDot (r.take m) (r.take m)), r.drop m))
  (sortBy (fun x y => y.1 < x.1) keyed).map (fun e => e.2.map (fixMul (fixSqrt e.1)))

/-! ### The state matrix -/

/-- A fixed-point matrix in complex rationals, and back. -/
def toCx (a : List (List Int)) : List (List Cx) := a.map (fun r => r.map (fun x => (mkRat x (2 ^ 96), 0)))
def ofCx (a : List (List Cx)) : List (List Int) := a.map (fun r => r.map (fun x => roundRat (x.1 * 2 ^ 96)))

/-- The inner products of two lists of rows. -/
def gram (a b : List (List Int)) : List (List Int) := a.map (fun x => b.map (fixDot x))

/-- A product of complex rational matrices. -/
def cxTimes (n : Nat) (a b : List (List Cx)) : List (List Cx) :=
  a.map (fun r => (List.range n).map (fun j => cxSum (List.zipWith (fun x row => cxMul x (row.getD j (0, 0))) r b)))

/-- pinv(up) down, for matrices given by their `n` columns. -/
def pinvTimes (n : Nat) (up down : List (List Int)) : List (List Int) :=
  let rows := (up.getD 0 []).length
  if n ≤ rows then ofCx (cxTimes n (cxInverse n (toCx (gram up up))) (toCx (gram up down)))
  else
    let u := transpose rows up
    ofCx (cxTimes n (cxTimes rows (toCx up) (cxInverse rows (toCx (gram u u)))) (toCx (transpose rows down)))

/-! ### Eigenvalues -/

/-- Coefficients of det(x - a), from that of x^(n-1) down, for a matrix of integers. -/
def charPoly (a : List (List Int)) : List Int :=
  let n := a.length
  let mul := fun (m : List (List Int)) => a.map (fun r => (List.range n).map (fun j =>
    (List.zipWith (fun x row => x * row.getD j 0) r m).foldl (· + ·) 0))
  let one := fun (c : Int) => (List.range n).map (fun i => (List.range n).map (fun j => if i == j then c else 0))
  let trace := fun (m : List (List Int)) => ((List.range n).map (fun i => entry m i i)).foldl (· + ·) 0
  ((List.range n).foldl (fun (z : List (List Int) × List Int) k =>
    let c := -(trace z.1) / ((k + 1 : Nat) : Int)
    (mul (List.zipWith (List.zipWith (· + ·)) z.1 (one c)), z.2 ++ [c])) (a, [])).2

/-- Complex numbers in 2^-512: product, quotient; a quotient by 0 is 0. -/
def rootMul (a b : Int × Int) : Int × Int := ((a.1 * b.1 - a.2 * b.2) / 2 ^ 512, (a.1 * b.2 + a.2 * b.1) / 2 ^ 512)
def rootDiv (a b : Int × Int) : Int × Int :=
  let d := b.1 * b.1 + b.2 * b.2
  ((a.1 * b.1 + a.2 * b.2) * 2 ^ 512 / d, (a.2 * b.1 - a.1 * b.2) * 2 ^ 512 / d)

/-- The monic polynomial with these lower coefficients at `z`. -/
def polyAt (cs : List Int) (z : Int × Int) : Int × Int :=
  cs.foldl (fun v c => let w := rootMul v z; (w.1 + c, w.2)) (2 ^ 512, 0)

/-- One step towards all roots at once (Weierstrass). -/
def rootStep (cs : List Int) (zs : List (Int × Int)) : List (Int × Int) :=
  (List.range zs.length).map (fun i =>
    let z := zs.getD i (0, 0)
    let d := (List.range zs.length).foldl (fun v j =>
      if i == j then v else rootMul v (z.1 - (zs.getD j (0, 0)).1, z.2 - (zs.getD j (0, 0)).2)) (2 ^ 512, 0)
    let q := rootDiv (polyAt cs z) d
    (z.1 - q.1, z.2 - q.2))

/-- Powers of 0.4 + 0.9 i, where the search begins. -/
def rootStart : Nat → Int × Int → List (Int × Int)
  | 0, _ => []
  | n + 1, z => z :: rootStart n (rootMul z (2 ^ 512 * 4 / 10, 2 ^ 512 * 9 / 10))

/-- The eigenvalues of a fixed-point matrix, in 2^-512. -/
def eigenvalues (a : List (List Int)) : List (Int × Int) :=
  let cs := charPoly a
  let cs := (List.range cs.length).map (fun k => cs.getD k 0 * 2 ^ 512 / 2 ^ (96 * (k + 1)))
  (List.range 600).foldl (fun zs _ => rootStep cs zs) (rootStart cs.length (2 ^ 512, 0))

/-- An eigenvector: the matrix less its eigenvalue and 2^-80, inverted, times a column of ones. -/
def eigenvector (a : List (List Int)) (lam : Int × Int) : List Cx :=
  let n := a.length
  let l : Cx := (mkRat lam.1 (2 ^ 512) + mkRat 1 (2 ^ 80), mkRat lam.2 (2 ^ 512))
  let b := (List.range n).map (fun i => (List.range n).map (fun j =>
    let x : Cx := (mkRat (entry a i j) (2 ^ 96), 0)
    if i == j then cxSub x l else x))
  cxApply (cxInverse n b) (List.replicate n (1, 0))

/-! ### Modes -/

/-- A mode of a state matrix: frequency in Hz, damping ratio, and the phase of each used signal as an 18-bit turn. -/
structure EstMode where
  f : Rat
  zeta : Rat
  phases : List Nat
deriving DecidableEq, Repr

/-- The frequency and damping ratio of an eigenvalue: ln(lam) x 25 (09 R306). -/
def modeOf (lam : Int × Int) : Rat × Rat :=
  let f := mkRat (angleOf lam.1 lam.2 * 25) (2 ^ 64)
  let re := mkRat (lnFix ((lam.1 * lam.1 + lam.2 * lam.2) / 2 ^ 928).toNat * 25) (2 ^ 97)
  let im := f * mkRat twoPi (2 ^ 128)
  let mag := mkRat (sqrtRound ((re * re + im * im) * 2 ^ 192).floor.toNat 1) (2 ^ 96)
  (f, if mag == 0 then 0 else -re / mag)

/-- The phase of a complex rational, 18-bit turn. -/
def phaseOf (v : Cx) : Nat := (roundDiv (angleOf (v.1 * 2 ^ 512).floor (v.2 * 2 ^ 512).floor) (2 ^ 46) % 2 ^ 18).toNat

/-- The modes that `estimate(y, i, n)` of R306 finds, by ascending frequency, for `y` signals of codes, oldest first; `keep` is the
group's test of f and zeta. -/
def estimateModes (ys : List (List Int)) (i n : Nat) (keep : Rat → Rat → Bool) : List EstMode :=
  let y := ys.map detrend
  let m := y.length
  let obs := (scaledVectors (m * i) (blockToeplitz y ((ys.getD 0 []).length) i)).take n
  let a := pinvTimes n (obs.map (fun c => c.take (m * (i - 1)))) (obs.map (fun c => c.drop m))
  let found := (eigenvalues a).filterMap (fun lam =>
    let fz := modeOf lam
    if 2 ^ 256 < lam.2 && keep fz.1 fz.2 then
      let phi := eigenvector a lam
      some ⟨fz.1, fz.2, (List.range m).map (fun s =>
        phaseOf (cxSum (List.zipWith (fun (c : List Int) p => cxScale (mkRat (c.getD s 0) (2 ^ 96)) p) obs phi)))⟩
    else none)
  sortBy (fun p q => p.f < q.f) found

end Sys2Proof.Machine
end

