-- ==== Sys2Proof/Machine/Topology.lean ====
section
/-! DEFINITION. Topology and state estimate TS (chapter 08): branch statuses, cut sets, islands, the factor, bad data and
the results of an instant. -/

namespace Sys2Proof.Machine

/-- A cell meets a MEAS_REQ or REQ mask (08 R272, Table 10-1): [0] TIME_OK required, [1] STAT_ERR excludes, [2] UNSETTLED
excludes. -/
def reqOk (req : Nat) (c : Cell) : Bool :=
  (!bit req 0 || c.timeOk) && (!bit req 1 || !c.statErr) && (!bit req 2 || !c.unsettled)

/-- The network model an instance runs on (08 R287). -/
def modelOf (s : State) (epoch : Nat) : Option ModelP :=
  if epoch == s.ts.epoch then s.ts.model else (tfind s.ts.older epoch).bind (·.model)

/-- What TS carries for the model in force. -/
def Ts.carry (t : Ts) : TsCarry :=
  ⟨t.model, t.last, t.conflicts, t.unknowns, t.chi2Open, t.prevAnchors, t.cuts, t.valid, t.stale, t.generation, t.updSince, t.facClosed,
   t.facUses, t.solution⟩

/-- TS with another model, and what it carries, in force. -/
def Ts.withCarry (t : Ts) (epoch : Nat) (c : TsCarry) : Ts :=
  { t with epoch := epoch, model := c.model, last := c.last, conflicts := c.conflicts, unknowns := c.unknowns, chi2Open := c.chi2Open,
           prevAnchors := c.prevAnchors, cuts := c.cuts, valid := c.valid, stale := c.stale, generation := c.generation,
           updSince := c.updSince, facClosed := c.facClosed, facUses := c.facUses, solution := c.solution }

/-- A stage of an instance runs on the model it started with (08 R287). An instance of an earlier model changes what that model
carries, and requests no refactorization: that model is never rebuilt (DESIGN CHOICE, log 81). -/
def onModel (epoch : Nat) (f : ModelP → State → State) (s : State) : State :=
  if epoch == s.ts.epoch then (match s.ts.model with | some m => f m s | none => s)
  else match tfind s.ts.older epoch with
    | none => s
    | some c => match c.model with
      | none => s
      | some m =>
        let cur := s.ts
        let s := f m { s with ts := { cur.withCarry epoch c with refac := some ⟨0, [], [], 0, []⟩, refacNext := none } }
        { s with ts := { s.ts.withCarry cur.epoch cur.carry with
            refac := cur.refac, refacNext := cur.refacNext, older := tset cur.older epoch s.ts.carry } }

/-- The factor a solve finds in force at its dispatch (08 R276). -/
def factorAt (s : State) (epoch : Nat) : SolveFac :=
  let c := if epoch == s.ts.epoch then s.ts.carry else (tfind s.ts.older epoch).getD { s.ts.carry with valid := false }
  ⟨c.generation, c.valid, c.facClosed, c.facUses⟩

/-- A valid channel of a released cell. -/
def cellChan (cells : Tbl Cell) (sid ch : Nat) : Option CellChan := (tfind cells sid).bind (fun c => c.chan ch)

/-- A valid channel of a released cell that meets a mask. -/
def reqChan (req : Nat) (cells : Tbl Cell) (sid ch : Nat) : Option CellChan :=
  (tfind cells sid).bind (fun c => if reqOk req c then c.chan ch else none)

/-! ### Branch status (08 R262 to R264) -/

/-- The indication of a breaker: closed, open or none (08 R262). -/
def indication (b : BranchP) (cells : Tbl Cell) : Option Bool :=
  match cellChan cells b.brkSid (42 + b.brkWord) with
  | none => none
  | some x =>
    let w := x.a.toNat
    if b.src == 1 then some (b2n (bit w b.brkBit) == b.pol)
    else match bit w (b.brkBit + 1), bit w b.brkBit with
      | true, false => some true
      | false, true => some false
      | _, _ => none

/-- What decided a breaker status. -/
inductive BrkHow where
  | fresh | held | unknown
deriving DecidableEq, Repr

/-- breaker_status of 08 R262 for branch number `n`: the status, and how it was decided. -/
def breakerStatus (hold : Nat) (last : Tbl (Bool × Nat)) (n : Nat) (b : BranchP) (cells : Tbl Cell) (k : Nat) :
    Bool × BrkHow :=
  match indication b cells with
  | some v => (v, .fresh)
  | none =>
    match tfind last n with
    | some (v, lk) => if k - lk ≤ hold then (v, .held) else (b.dflt == 1, .unknown)
    | none => (b.dflt == 1, .unknown)

/-- Branches opened by cut sets that are SEPARATED with APPLY (08 R263, R271). -/
def cutOpened (cuts : Tbl Cut) : List Nat :=
  (cuts.filter (fun e => e.2.separated && e.2.p.apply == 1)).flatMap (fun e => e.2.p.branches)

/-- The status of one branch on an instant, before and after the order of 08 R263. -/
structure BrkLine where
  n : Nat
  closed : Bool
  how : BrkHow
  seen : Option Bool
deriving DecidableEq, Repr

/-- One branch under 08 R262 and R263; how it was decided counts only where breaker_status decides. -/
def branchLine (t : Ts) (cuts : Tbl Cut) (cells : Tbl Cell) (k n : Nat) (b : BranchP) : BrkLine :=
  let (v, how) := breakerStatus t.p.hold t.last n b cells k
  let seen := if b.src == 0 then none else indication b cells
  match tfind t.forces n with
  | some f => ⟨n, f, .fresh, seen⟩
  | none =>
    if (cutOpened cuts).contains n then ⟨n, false, .fresh, seen⟩
    else if b.src == 0 then ⟨n, true, .fresh, none⟩
    else ⟨n, v, how, seen⟩

/-- A current row of an open LINE or XFMR shows more than I_OPEN_MAX (08 R264): SCALE x |V| / 131,072 against LSB 1/1,024. -/
def currentAbove (iOpen : Nat) (m : MeasP) (cells : Tbl Cell) : Bool :=
  match cellChan cells m.sid m.ch with
  | none => false
  | some x =>
    let sc := ratOfFloat m.scale
    ((x.a * x.a + x.b * x.b : Int) : Rat) * sc * sc * 1048576 > (iOpen * iOpen : Nat) * 17179869184

/-! ### Cut sets (08 R270) -/

/-- The voltage phasor of measurement `n`, when its row may be used. -/
def voltOf (t : Ts) (m : ModelP) (cells : Tbl Cell) (n : Nat) : Option CellChan :=
  match m.meas[n]? with
  | some x => if x.kind == 0 then reqChan t.p.measReq cells x.sid x.ch else none
  | none => none

/-- The angle difference of a pair in 2^-64 turn. -/
def pairAngle (t : Ts) (m : ModelP) (cells : Tbl Cell) (p : Nat × Nat) : Option Int :=
  match voltOf t m cells p.1, voltOf t m cells p.2 with
  | some a, some b => some (angleOf a.a a.b - angleOf b.a b.b)
  | _, _ => none

/-- `d` moved by whole turns to within half a turn of `prev`. -/
def unwrap (prev d : Int) : Int := prev + ((d - prev + 2 ^ 63) % 2 ^ 64 - 2 ^ 63)

/-- RHO of a drift `x` (2^-64 turn) over N instants at `rate`, 0.01 degree/s, saturating in 20 bits. -/
def rhoCode (x : Int) (rate n : Nat) : Int := satCode 20 (mkRat (x * 36000 * rate) (n * 2 ^ 64))

/-- The delta history of a cut set after instant k (08 R270). -/
def cutHistory (c : Cut) (k : Nat) (pr : Option (Nat × Nat)) (d : Option Int) : List (Nat × Int) :=
  let prev := if pr.isSome && pr == c.pairPrev then (c.delta.find? (fun e => e.1 + 1 == k)).map (·.2) else none
  match d with
  | none => []
  | some d => match prev with
    | some v => (k, unwrap v d) :: c.delta.take c.p.n
    | none => [(k, d)]

/-- update_coherency of 08 R270 on one cut set. -/
def updateCut (t : Ts) (m : ModelP) (cells : Tbl Cell) (rate k : Nat) (c : Cut) : Cut :=
  let pr := c.p.pairs.find? (fun p => (pairAngle t m cells p).isSome)
  let hist := cutHistory c k pr (pr.bind (pairAngle t m cells))
  let c := { c with delta := hist, pairPrev := pr }
  match hist.head?, hist.find? (fun e => e.1 + c.p.n == k) with
  | some (_, d), some (_, old) =>
    let x := d - old
    let rho := rhoCode x rate c.p.n
    let size := x.natAbs * 3600 * rate
    let lim := c.p.drift * c.p.n * 2 ^ 64
    let pick := if lim < size then min 15 (c.pick + 1) else 0
    let drop := if size ≤ lim / 2 then min 15 (c.drop + 1) else 0
    let sep := if c.separated then !(c.p.dropout ≤ drop) else c.p.pickup ≤ pick
    { c with unsettled := false, rho := rho, pick := pick, drop := drop, separated := sep }
  | _, _ => { c with unsettled := true, pick := 0, drop := 0 }

/-- Notices and counts of a change of a cut set (08 Tables 8-11, 8-12). -/
def cutNotices (old new : Tbl Cut) (s : State) : State :=
  new.foldl (fun s e =>
    let was := ((tfind old e.1).map (·.separated)).getD false
    if e.2.separated && !was then
      note s.ts.p.nq 7 0x03 2 (fld e.1 26 6 + twosComp 20 e.2.rho) (count 0x108068 s)
    else if was && !e.2.separated then note s.ts.p.nq 7 0x04 0 (fld e.1 26 6) s
    else s) s

/-! ### Connectivity (08 R265 to R268) -/

/-- Two components joined under the lower root. -/
def joinRoots (l : List Nat) (a b : Nat) : List Nat :=
  match l[a]?, l[b]? with
  | some x, some y => l.map (fun r => if r == max x y then min x y else r)
  | _, _ => l

/-- The anchor of every node under a list of closed edges (08 R265). -/
def anchorsOf (n : Nat) (edges : List (Nat × Nat)) : List Nat :=
  edges.foldl (fun l e => joinRoots l e.1 e.2) (List.range n)

/-- Nodes of one anchor. -/
def nodesOf (anchors : List Nat) (a : Nat) : List Nat :=
  (List.range anchors.length).filter (fun n => anchors.getD n 0 == a)

/-- Anchors of the islands: node count descending, then anchor ascending (08 R265). -/
def islandOrder (anchors : List Nat) : List Nat :=
  sortBy (fun a b => (nodesOf anchors b).length < (nodesOf anchors a).length) anchors.eraseDups

/-- Median of frequencies (08 R268). -/
def median (l : List Int) : Int :=
  let v := sortBy (fun a b => a < b) l
  let n := v.length
  if n % 2 == 1 then v.getD (n / 2) 0 else roundDiv (v.getD (n / 2 - 1) 0 + v.getD (n / 2) 0) 2

/-- Frequencies of the distinct qualifying streams of some nodes (08 R268). -/
def nodeFreqs (t : Ts) (m : ModelP) (cells : Tbl Cell) (nodes : List Nat) : List Int :=
  let sids := ((nodes.filterMap (fun n => m.nodes[n]?)).filter (· != 0xFFFF)).eraseDups
  (sids.filterMap (fun q => reqChan t.p.measReq cells q 32)).map (·.a)

/-- Islands bounded by an applied cut set: those at the ends of a branch it opens, when the ends lie apart. -/
def cohAnchors (m : ModelP) (cuts : Tbl Cut) (anchors : List Nat) : List Nat :=
  (cutOpened cuts).flatMap (fun b => match m.branches[b]? with
    | some x =>
      let a := anchors.getD x.fr 0
      let c := anchors.getD x.tgt 0
      if a == c then [] else [a, c]
    | none => [])

/-- One island record (Table 8-5). -/
def islandRec (t : Ts) (m : ModelP) (cells : Tbl Cell) (anchors obs coh : List Nat) (prev : Option (List Nat)) (a : Nat) :
    Island :=
  let ns := nodesOf anchors a
  let fs := nodeFreqs t m cells ns
  let pa := match prev with
    | some l => l.getD a 0xFFFF
    | none => 0xFFFF
  { anchor := a, nodes := ns.length, observed := (ns.filter obs.contains).length,
    freq := if fs.isEmpty then 0 else median fs, freqN := fs.length, freqValid := !fs.isEmpty,
    fresh := pa != 0xFFFF && pa != a, coh := coh.contains a, prevAnchor := pa }

/-- Earlier islands that were split: the earlier anchor and the lowest new anchor of a piece without it (08 R267). -/
def splits (prev anchors : List Nat) : List (Nat × Nat) :=
  prev.eraseDups.filterMap (fun e =>
    let pieces := ((nodesOf prev e).map (fun n => anchors.getD n 0)).eraseDups
    let others := pieces.filter (· != anchors.getD e 0)
    match others with
    | [] => none
    | x :: xs => some (e, xs.foldl min x))

/-- New islands that hold nodes of two or more earlier ones: PREV_ANCHOR and the new anchor (08 R267). -/
def merges (prev anchors : List Nat) : List (Nat × Nat) :=
  anchors.eraseDups.filterMap (fun a =>
    if 2 ≤ ((nodesOf anchors a).map (fun n => prev.getD n 0)).eraseDups.length then some (prev.getD a 0, a) else none)

/-! ### Measurement use (08 R272, R273) -/

/-- A row fails the first condition of 08 R272: EXCLUDED. -/
def measExcluded (t : Ts) (cells : Tbl Cell) (m : MeasP) : Bool := (reqChan t.p.measReq cells m.sid m.ch).isNone

/-- A current row of an open branch: OPEN. -/
def measOpen (closed : List Nat) (m : MeasP) : Bool := m.kind != 0 && !closed.contains m.target

/-- Rows that meet 08 R272 before bad data is removed. -/
def usableRows (t : Ts) (m : ModelP) (cells : Tbl Cell) (closed : List Nat) : List Nat :=
  (List.range m.meas.length).filter (fun n => match m.meas[n]? with
    | some x => !measExcluded t cells x && !measOpen closed x
    | none => false)

/-- Nodes OBSERVED with the used rows `used` (08 R273). -/
def observedNodes (m : ModelP) (closed used : List Nat) : List Nat :=
  let rows := used.filterMap (fun n => m.meas[n]?)
  let measured := (rows.filter (fun x => x.kind != 0)).map (·.target)
  let edges := closed.filterMap (fun b => match m.branches[b]? with
    | some x => if x.kind == 2 || measured.contains b then some (x.fr, x.tgt) else none
    | none => none)
  let comp := anchorsOf m.nodes.length edges
  let good := (rows.filter (fun x => x.kind == 0)).map (fun x => comp.getD x.target 0)
  (List.range m.nodes.length).filter (fun n => good.contains (comp.getD n 0))

/-- A measurement record (Table 8-5). -/
def measRecord (rn : Nat) (used bad excl open' ign rnValid : Bool) : Nat :=
  min rn 0x3FFFF + fld (b2n used) 18 1 + fld (b2n bad) 19 1 + fld (b2n excl) 20 1 + fld (b2n open') 21 1 +
  fld (b2n ign) 22 1 + fld (b2n rnValid) 23 1

/-! ### Results (08 R284) -/

/-- A result with nothing reached. -/
def TsResult.blank (gid k : Nat) : TsResult :=
  { gid := gid, k := k, islands := 0, observed := 0, used := 0, flags := 0, j := 0, thr := 0, dof := 0, badRemoved := 0,
    brChanges := 0, measChanges := 0, generation := 0, topoDone := 0, solveDone := 0, isl := [], anchors := [], obs := [],
    volts := [], meas := [], closed := [], usable := [] }

/-- A result takes its place: that of its instant, or a new one, the oldest of 16 instants being overwritten. -/
def putResult (r : TsResult) (s : State) : State :=
  let mine := fun x : TsResult => x.gid == r.gid && x.k == r.k
  let l := s.ts.results
  { s with ts := { s.ts with results := if l.any mine then l.map (fun x => if mine x then r else x) else (r :: l).take 16 } }

/-- The voltage of a node with VALID set: OBSERVED, solved, without ARITH_SAT (08 R273, R283). -/
def TsResult.validVolt (r : TsResult) (n : Nat) : Option (Int × Int) :=
  if r.obs.contains n && bit r.flags 1 && !bit r.flags 4 then tfind r.volts n else none

/-- The retained result of an instant. -/
def getResult (s : State) (gid k : Nat) : Option TsResult := s.ts.results.find? (fun r => r.gid == gid && r.k == k)

/-- An instant whose topology node was aborted: a header with ABORTED alone (08 R284). -/
def topologyAborted (gid k : Nat) (s : State) : State :=
  count 0x108070 (putResult { TsResult.blank gid k with flags := 2 ^ 14 } s)

/-- Episodes of branches: those newly in `nw` are reported by `f`. -/
def openEpisodes (old nw : List Nat) (f : Nat → State → State) (s : State) : State :=
  (nw.filter (fun b => !old.contains b)).foldl (fun s b => f b s) s

/-- What a topology pass counts and reports (08 R265): branches held, unknown and in conflict, its cut sets, the episodes newly
open, splits `sp` and merges `mg` of islands, and islands beyond 256. -/
def topoNotices (old cuts : Tbl Cut) (unknown conflict : List Nat) (sp mg : List (Nat × Nat))
    (held islands : Nat) (s : State) : State :=
  let u := s.ts.unknowns
  let c := s.ts.conflicts
  let s := countN 0x108048 unknown.length (countN 0x108040 held (count 0x108000 s))
  let s := countN 0x108050 conflict.length s
  let s := cutNotices old cuts s
  let s := openEpisodes u unknown (fun b s => note s.ts.p.nq 7 0x09 1 b s) s
  let s := openEpisodes c conflict (fun b s => note s.ts.p.nq 7 0x08 2 b s) s
  let s := sp.foldl (fun s e => note s.ts.p.nq 7 0x01 2 (fld e.1 16 13 + fld e.2 0 13) s) s
  let s := mg.foldl (fun s e => note s.ts.p.nq 7 0x02 1 (fld e.1 16 13 + fld e.2 0 13) s) s
  if 256 < islands then note s.ts.p.nq 7 0x0B 1 islands (count 0x108058 s) else s

/-- The topology pass of an instant (08 R265): statuses, coherency, connectivity and islands, with their notices, counts
and the result header. `forces` are the forced branches and `disp` the dispatch decision of its item: a cut set defined after it
is not yet watched (08 R287). -/
def topologyPass (gid k disp : Nat) (forces : Tbl Bool) (m : ModelP) (i : Instant) (s : State) : State :=
  let t0 := s.ts
  let t := { t0 with forces := forces, cuts := t0.cuts.filter (fun e => e.2.since < disp) }
  let cells := i.cells
  let cuts := t.cuts.map (fun e => (e.1, updateCut t m cells i.p.rate k e.2))
  let lines := (List.range m.branches.length).filterMap (fun n => (m.branches[n]?).map (branchLine t cuts cells k n))
  let closed := (lines.filter (·.closed)).map (·.n)
  let anchors := anchorsOf m.nodes.length (closed.filterMap (fun b => (m.branches[b]?).map (fun x => (x.fr, x.tgt))))
  let order := islandOrder anchors
  let usable := usableRows t m cells closed
  let obs := observedNodes m closed usable
  let coh := cohAnchors m cuts anchors
  let held := (lines.filter (·.how == .held)).length
  let unknown := (lines.filter (·.how == .unknown)).map (·.n)
  let conflict := (m.meas.filter (fun x => x.kind != 0 && !closed.contains x.target &&
    (match m.branches[x.target]? with | some b => b.kind != 2 | none => false) && currentAbove t.p.iOpenMax x cells)).map
    (·.target)
  let conflict := conflict.eraseDups
  let sp := match t.prevAnchors with | some p => splits p anchors | none => []
  let mg := match t.prevAnchors with | some p => merges p anchors | none => []
  let ovf := 256 < order.length
  let flags := 1 + fld (b2n ovf) 7 1 + fld (b2n (cuts.any (·.2.separated))) 8 1 + fld (b2n (0 < held)) 9 1 +
    fld (b2n (!unknown.isEmpty)) 10 1 + fld (b2n (!conflict.isEmpty)) 11 1 + fld (b2n (!sp.isEmpty)) 12 1 +
    fld (b2n (!mg.isEmpty)) 13 1
  let r : TsResult :=
    { TsResult.blank gid k with
      islands := order.length, observed := obs.length, used := usable.length, flags := flags, topoDone := now s,
      isl := (order.take 256).map (islandRec t m cells anchors obs coh t.prevAnchors), anchors := anchors, obs := obs,
      closed := closed, usable := usable,
      meas := (List.range m.meas.length).map (fun n => match m.meas[n]? with
        | some x => measRecord 0 (usable.contains n) false (measExcluded t cells x) (measOpen closed x) false false
        | none => 0) }
  let s := topoNotices t.cuts cuts unknown conflict sp mg held order.length (putResult r s)
  let last := lines.foldl (fun l x => match x.seen with | some v => tset l x.n (v, k) | none => l) t0.last
  { s with ts := { s.ts with last := last, unknowns := unknown, conflicts := conflict, prevAnchors := some anchors,
                             cuts := cuts.foldl (fun l e => tset l e.1 e.2) t0.cuts } }

/-! ### The factor and the solve (08 R274 to R283) -/

/-- The job number that stands for the refactorization item among work items (08 R278). -/
def refacJob : Nat := 1024

/-- The node descriptor of the refactorization item (08 R278): GANG 16 at REFACTOR_LEVEL. -/
def refacNode (level : Nat) : NodeP := ⟨0, level, 16, 1, 0x10000, 0, 3600000, 0, 0, 0, 0, [], 0xFFFF⟩

/-- The first free item entry from `n` on, wrapping. -/
def freeEntry (used : List Nat) : Nat → Nat → Nat
  | 0, n => n
  | fuel + 1, n => if used.contains n then freeEntry used fuel ((n + 1) % 32768) else n

/-- A work item takes a free entry of the 32,768; none when they are all held (07 R232). -/
def enterItem (job seq : Nat) (d : NodeP) (st : ItemState) (s : State) : Option State :=
  let used := s.cv.items.map (·.id)
  if 32768 ≤ used.length then none
  else
    let id := freeEntry used (used.length + 1) s.cv.nextId
    let it : Item :=
      { id := id, job := job, seq := seq, node := d.node, level := d.level, reissue := false,
        enqTick := s.tm.tickAt / 400 % 2 ^ 32, d := d, used := 0, kept := 0, disp := 0, dispLevel := d.level, ckpts := 0,
        tq := 0, input := none, forces := [], fac := none, st := st }
    some { s with cv := { s.cv with items := s.cv.items ++ [it], nextId := (id + 1) % 32768 } }

/-- The final completion, with a status, of the commands that wait for a refactorization. -/
def refacDone (handles : List Nat) (status : Nat) (s : State) : State :=
  handles.foldl (fun s h => match findOp s h with | some o => finalCompletion o status [] s | none => s) s

/-- A refactorization starts: its item is queued at REFACTOR_LEVEL and REFACTOR_START reported (08 R275, R278). Without a free
entry it is not created: CV_QFULL, and it ends (07 R232). -/
def startRefac (r : Refac) (s : State) : State :=
  match enterItem refacJob 0 (refacNode s.ts.p.refLevel) .queued s with
  | some s => note s.ts.p.nq 7 0x05 1 (fld r.cause 28 4) { s with ts := { s.ts with refac := some r } }
  | none => refacDone r.handles 0x60 (count 0x107018 s)

/-- A refactorization is requested (08 R275): one runs, one is pending with the snapshot of the latest request. -/
def requestRefac (cause : Nat) (closed uses handles : List Nat) (s : State) : State :=
  let r : Refac := ⟨cause, closed, uses, s.tm.frc, handles⟩
  match s.ts.refac with
  | none => startRefac r s
  | some _ =>
    let r := match s.ts.refacNext with
      | some p => { r with handles := p.handles ++ handles }
      | none => r
    { s with ts := { s.ts with refacNext := some r } }

/-- Microseconds of a number of FRC counts, rounded down, saturating in 16 bits. -/
def us16bit (n : Nat) : Nat := min 0xFFFF (n * 256 / 100000)

/-- A refactorization commits: its factor comes into force and the pending one starts (08 R275, R278). -/
def commitRefac (dispatched : Nat) (s : State) : State :=
  match s.ts.refac with
  | none => s
  | some r =>
    let run := us16bit (s.tm.frc - dispatched)
    let wait := us16bit (dispatched - r.since)
    let gen := (s.ts.generation + 1) % 4096
    let late := 4000 * 100000 < (s.tm.frc - r.since) * 256
    let next := s.ts.refacNext
    let s := { s with ts := { s.ts with valid := true, refac := none, refacNext := none, generation := gen, updSince := 0,
                                        facClosed := r.closed, facUses := r.uses, runUs := run, waitUs := wait } }
    let s := note s.ts.p.nq 7 0x06 0 (fld gen 16 16 + run) (count 0x108018 s)
    let s := if late then count 0x108020 s else s
    let s := refacDone r.handles 0 s
    match next with
    | some n => startRefac n s
    | none => s

/-- The threshold of 08 R281 for `d` degrees of freedom and Z = `z` / 256, LSB 2^-8, saturating. -/
def chi2Threshold (d z : Nat) : Nat :=
  let zr : Rat := mkRat z 256
  let s2 : Rat := mkRat 2 (9 * d)
  let a : Rat := 1 - s2
  let x : Rat := 256 * (d : Rat) * (a * a * a + 3 * a * zr * zr * s2)
  let b : Rat := 256 * (d : Rat) * (3 * a * a * zr + zr * zr * zr * s2)
  let m : Rat := b * b * s2
  let den := x.den * m.den
  let n := x.num * m.den
  let root := isqrt (4 * x.den * x.den * m.num.toNat * m.den)
  min 0xFFFFFFFF ((2 * n + den + root) / (2 * den : Nat)).toNat

/-- Elements of exactly one of two lists. -/
def symDiff (a b : List Nat) : List Nat := a.filter (fun x => !b.contains x) ++ b.filter (fun x => !a.contains x)

/-- Branch changes of 08 R274: status differs and the branch has a row. -/
def branchChanges (m : ModelP) (closed fac : List Nat) : List Nat :=
  (symDiff closed fac).filter (fun b =>
    (match m.branches[b]? with | some x => x.kind == 2 | none => false) ||
    m.meas.any (fun x => x.kind != 0 && x.target == b))

/-- Measurement changes of 08 R274: rows that differ on a branch whose status is unchanged. -/
def measChanges (m : ModelP) (br uses fac : List Nat) : List Nat :=
  (symDiff uses fac).filter (fun n => match m.meas[n]? with
    | some x => x.kind == 0 || !br.contains x.target
    | none => false)

/-- A solve without a factor in force (08 R279). -/
def solveNoFactor (r : TsResult) (s : State) : State :=
  count 0x108030 (putResult { r with flags := r.flags ||| 8, solveDone := now s } s)

/-- A factor page of the factor a solve took was uncorrectable: no estimate; while that factor is still in force it becomes
invalid, FACTOR_LOST is queued and a refactorization requested (08 R275, R279). -/
def factorLost (page : Nat) (f : SolveFac) (r : TsResult) (s : State) : State :=
  if f.generation != s.ts.generation then solveNoFactor r s
  else
    let s := note s.ts.p.nq 7 0x07 3 page { s with ts := { s.ts with valid := false } }
    requestRefac 3 r.closed r.usable [] (solveNoFactor r s)

/-- Rank-1 changes of the factor in force: TS_LOWRANK, and UPD_SINCE, which may request a refactorization (08 R274, R275,
R280). -/
def countLowRank (r : TsResult) (n : Nat) (s : State) : State :=
  let u := min 32767 (s.ts.updSince + n)
  let fire := s.ts.updSince < 16384 && 16384 ≤ u
  let s := countN 0x108010 n { s with ts := { s.ts with updSince := u } }
  if fire then requestRefac 2 r.closed r.usable [] s else s

/-- The factor follows the instant by low-rank changes (08 R274). -/
def applyLowRank (r : TsResult) (n : Nat) (s : State) : State :=
  countLowRank r n { s with ts := { s.ts with facClosed := r.closed, facUses := r.usable } }

/-- The measurement records after a solve (Table 8-5). -/
def solvedMeas (r : TsResult) (rn : Tbl Rat) (used bad ign : List Nat) : List Nat :=
  (List.range r.meas.length).map (fun n =>
    let w := r.meas.getD n 0
    let v := if used.contains n || bad.contains n then tfind rn n else none
    measRecord ((v.map (fun q => rootCode q 10)).getD 0) (used.contains n) (bad.contains n) (bit w 20) (bit w 21) (ign.contains n)
      v.isSome)

/-- What a solve leaves beside its result (08 R274 to R283): its counters, the factor's update or refactorization, and the
chi-square episode; `n` factor updates, `bad` bad data removed, each a downdate and its revert, and J. -/
def afterSolve (r : TsResult) (f : SolveFac) (stale accSat high : Bool) (n bad : Nat) (j : Rat) (s : State) : State :=
  let s := { s with ts := { s.ts with stale := stale } }
  let s := countN 0x108038 bad (count 0x108008 s)
  let inForce := f.generation == s.ts.generation && s.ts.valid
  let s := if stale then
      let s := count 0x108028 s
      requestRefac 1 r.closed r.usable [] (if inForce then countLowRank r (2 * bad) s else countN 0x108010 (2 * bad) s)
    else if inForce then applyLowRank r (n + 2 * bad) s
    else countN 0x108010 (n + 2 * bad) s
  let s := if accSat then count 0x108060 s else s
  let s := if high then count 0x108078 s else s
  let s := if high && !s.ts.chi2Open then note s.ts.p.nq 7 0x0A 1 (min 0xFFFFFFFF (roundRat j).toNat) s else s
  { s with ts := { s.ts with chi2Open := high } }

/-- The last solution by node: 1 at angle 0 before the first (Table 8-2). -/
def lastSolution (t : Ts) (n : Nat) : List Cx :=
  (List.range n).map (fun i => match tfind t.solution i with
    | some p => (mkRat p.1 (2 ^ 32), mkRat p.2 (2 ^ 32))
    | none => (1, 0))

/-- z of a row: measured, or, for a row of a stale factor that is not usable now, that of the last solution (08 R277). -/
def zTable (m : ModelP) (cells : Tbl Cell) (last : List Cx) (rows usable : List Nat) : Tbl Cx :=
  rows.filterMap (fun n => (m.meas[n]?).map (fun x =>
    (n, match (if usable.contains n then cellChan cells x.sid x.ch else none) with
        | some v => measuredZ x v
        | none => rowValue (measH m x) last)))

/-- Closed couplers by number. -/
def couplersOf (m : ModelP) (closed : List Nat) : List Nat :=
  closed.filter (fun b => match m.branches[b]? with | some x => x.kind == 2 | none => false)

/-- The state solve of an instant (08 R274 to R283) on the factor `f` its item took at its dispatch: factor maintenance, bad data,
chi-square and the estimate. The voltages the program hands over stand within 2^-15 pu of the exact solution, for a model whose
condition number lies below 10^8 and without ACC_SAT (08 R283). -/
def stateSolve (gid k : Nat) (f : SolveFac) (cells : Tbl Cell) (x : SolveResult) (accSat : Bool) (m : ModelP) (s : State) : State :=
  match getResult s gid k with
  | none => s
  | some r =>
    if !f.valid then solveNoFactor r s
    else if x.factorBad then factorLost x.page f r s
    else
      let br := branchChanges m r.closed f.closed
      let ms := measChanges m br r.usable f.uses
      let stale := 64 < br.length || 256 < ms.length
      let rows := if stale then f.uses else r.usable
      let tested := rows.filter r.usable.contains
      let ign := if stale then symDiff r.usable f.uses else []
      let last := lastSolution s.ts m.nodes.length
      let lines := couplersOf m (if stale then f.closed else r.closed)
      let v : EstEnv := ⟨m, zTable m cells last rows r.usable, lines, last,
        if accSat || 100000000 ≤ m.cond then none else some (mkRat 1 32768)⟩
      let lim : Rat := mkRat (s.ts.p.lnr * s.ts.p.lnr) 65536
      let b := solveRows v lim s.ts.p.badMax rows tested x.passes
      let used := tested.filter (fun n => !b.bad.contains n)
      let shut := lines.filter r.closed.contains
      let obs := observedNodes m r.closed (r.usable.filter (fun n => !b.bad.contains n))
      let dof : Int := 2 * ((used.length : Int) + shut.length) - 2 * obs.length
      let thr := if 1 ≤ dof then chi2Threshold dof.toNat s.ts.p.chi2z else 0
      let j := chiSquare v b.pass.x used shut
      let jCode := min 0xFFFFFFFF (roundRat (j * 256)).toNat
      let high := 1 ≤ dof && thr < jCode
      let flags := r.flags ||| 2 ||| fld (b2n stale) 2 1 ||| fld (b2n accSat) 4 1 ||| fld (b2n high) 5 1 |||
        fld (b2n (b.iterMax lim s.ts.p.badMax)) 6 1
      let r' := { r with
        observed := obs.length, used := used.length, flags := flags, j := jCode, thr := thr, dof := dof,
        badRemoved := b.bad.length, brChanges := min 255 br.length, measChanges := min 65535 ms.length,
        generation := f.generation, solveDone := now s, obs := obs,
        volts := (List.range b.pass.x.length).map (fun i =>
          let u := b.pass.x.getD i (0, 0)
          (i, (satCode 18 (u.1 * 65536), satCode 18 (u.2 * 65536)))),
        isl := r.isl.map (fun z => { z with observed := ((nodesOf r.anchors z.anchor).filter obs.contains).length }),
        meas := solvedMeas r b.rn used b.bad ign }
      let n := (symDiff r.usable f.uses).length + (couplersOf m (symDiff r.closed f.closed)).length
      let sol := (List.range b.pass.x.length).map (fun i =>
        let u := b.pass.x.getD i (0, 0)
        (i, (roundRat (u.1 * 2 ^ 32), roundRat (u.2 * 2 ^ 32))))
      afterSolve r f stale accSat high n b.bad.length j (putResult r' { s with ts := { s.ts with solution := sol } })

end Sys2Proof.Machine
end

