-- ==== Sys2Proof/Machine/Sirocco.lean ====
section
/-! DEFINITION. The Sirocco oscillation engine SC (chapter 09): signal inputs, decimation, band records, slow updates, tracks
and forced oscillations. -/

namespace Sys2Proof.Machine

/-! ### Inputs (09 R293 to R299) -/

/-- The value of a signal on a released instant, when valid (09 R293, R295). -/
def signalValue (s : State) (p : SigP) (i : Instant) : Option Int :=
  let ch := fun sid c => reqChan s.sc.p.measReq i.cells sid c
  if i.gap then none
  else if p.kind == 2 then (ch p.aSid 32).map (·.a)
  else match ch p.aSid p.aCh, ch p.bSid p.bCh with
    | some a, some b =>
      if p.kind == 0 then
        some (satCode 18 (mkRat ((angleOf a.a a.b - angleOf b.a b.b + 2 ^ 63) % 2 ^ 64 - 2 ^ 63) (2 ^ 46)))
      else
        let fs := ratOfFloat p.fsFlow
        let x : Rat := 3 * ((a.a * b.a + a.b * b.b : Int) : Rat) * streamScale s p.aSid p.aCh * streamScale s p.bSid p.bCh
        some (if fs == 0 then 0 else satCode 18 (x / (131072 * fs)))
    | _, _ => none

/-- An input of a signal: valid, replaced by the last valid one, or neither (09 R299). -/
def Sig.push (g : Sig) (fillMax k : Nat) (v : Option Int) : Sig :=
  let g := match v with
    | some x => { g with invalidRun := 0, lastValid := some x, inputs := ⟨k, true, false, x⟩ :: g.inputs }
    | none =>
      let run := g.invalidRun + 1
      { g with invalidRun := run,
               inputs := ⟨k, false, run ≤ fillMax && g.lastValid.isSome, g.lastValid.getD 0⟩ :: g.inputs }
  { g with inputs := g.inputs.take 58 }

/-- The instants since the last input that were never processed are invalid inputs (09 R295); only the decimator's span is
kept. -/
def Sig.pushGap (g : Sig) (fillMax k : Nat) : Sig :=
  match g.inputs.head? with
  | none => g
  | some x =>
    let n := k - x.k - 1
    let far := n - 58
    let g := { g with invalidRun := g.invalidRun + far }
    (List.range (n - far)).foldl (fun g j => g.push fillMax (x.k + far + j + 1) none) g

/-- The instants a decimated sample spans: |t_k - t_m| < 120 ms (09 R297). -/
def spanOf (rate m : Nat) : List Int :=
  let lo : Int := ((m : Int) - 3) * rate / 25 + 1
  let hi : Int := -((-(((m : Int) + 3) * rate)) / 25) - 1
  (List.range (hi - lo + 1).toNat).map (fun (j : Nat) => lo + (j : Int))

/-- The inputs of a span; an instant without input gives none. -/
def Sig.spanned (g : Sig) (rate m : Nat) : List (Option SigInput) :=
  (spanOf rate m).map (fun k => g.inputs.find? (fun x => (x.k : Int) == k))

/-- The last tag an item of instant k computes, plus one: t_k at or after t_m + 120 ms (09 R298). -/
def dueEnd (rate k : Nat) : Nat := if 25 * k < 3 * rate then 0 else (25 * k - 3 * rate) / rate + 1

/-! ### Fast path (09 R299 to R302) -/

/-- Bands for which `n` x tau has not elapsed `d` samples after the restart: d / 25 < n x CYCLES / fc (09 R302). -/
def unsettledBands (cycles n d : Nat) : Nat :=
  listSum ((List.range 16).map (fun b =>
    let e := bandEdges.getD b (1, 1)
    if d * d * e.1 * e.2 < (25 * n * cycles) * (25 * n * cycles) * 1000000 then 2 ^ b else 0))

/-- t_m in 2^-16 ns (09 R297). -/
def tagOf (p : GroupP) (m : Nat) : Int := epoch16 p + (m * 40000000 * 2 ^ 16 : Nat)

/-- The band states of a signal after a decimated sample, zeroed at a restart, and its ZC_VALID mask (09 R301, R302). -/
def Sig.filter (g : Sig) (cycles : Nat) (first : Bool) (sample : Int) : Sig × Nat :=
  let xs := sample :: (if first then [0, 0, 0, 0] else g.xs)
  let steps := (List.range 16).map (fun b =>
    (if first then BandState.zero else g.bands.getD b .zero).step b cycles g.p.zcFloor xs)
  ({ g with bands := steps.map (·.1), xs := xs.take 4 },
   listSum ((List.range 16).map (fun b => if ((steps[b]?).map (·.2)).getD false then 2 ^ b else 0)))

/-- The decimated value of tag m: the identity at 25 instants/s, else the FIR over its span (09 R297). -/
def Sig.sampleAt (g : Sig) (rate m : Nat) : Int :=
  if rate == 25 then ((g.inputs.find? (fun x => x.k == m)).map (·.v)).getD 0
  else firSample rate m ((g.spanned rate m).filterMap (fun x => x.map (fun y => ((y.k : Int), y.v))))

/-- The decimated sample m of one signal: its record, and whether it is a counted restart (09 R297, R299, R301, R302). An invalid
sample leaves every state as it is. -/
def Sig.decimate (g : Sig) (s : State) (p : GroupP) (accSat : Bool) (m : Nat) : Sig × Bool :=
  let sp := g.spanned p.rate m
  let valid := sp.all (fun x => match x with | some y => y.valid || y.replaced | none => false)
  let filled := sp.any (fun x => match x with | some y => y.replaced | none => false)
  let first := valid && (g.restartM.isNone || g.gap)
  let rm := if first then m else g.restartM.getD m
  let sample := if valid then g.sampleAt p.rate m else 0
  let old := g.recs.head?
  let (h, zcValid) := if valid then g.filter s.sc.p.cycles first sample else (g, 0)
  let rec0 : BandRec :=
    { m := m, tag := tagOf p m, valid := valid, filled := filled, restart := first, accSat := accSat,
      brUnsettled := if valid then unsettledBands s.sc.p.cycles 4 (m - rm) else (old.map (·.brUnsettled)).getD 0xFFFF,
      zcUnsettled := if valid then unsettledBands s.sc.p.cycles 5 (m - rm) else (old.map (·.zcUnsettled)).getD 0xFFFF,
      zcValid := if first then 0 else zcValid,
      br := if valid then h.bands.map (·.br) else (old.map (·.br)).getD (List.replicate 16 0),
      zc := if first then List.replicate 16 0
        else if valid then (List.range 16).map (fun b => (h.bands.getD b .zero).zc b)
        else (old.map (·.zc)).getD (List.replicate 16 0),
      sample := sample, made := s.cv.decisions }
  ({ h with restartM := if first then some m else g.restartM, gap := !valid && g.restartM.isSome,
            window := (⟨m, valid, sample⟩ :: g.window).take 4100, recs := (rec0 :: g.recs).take 8 },
   first && g.restartM.isSome)

/-- A signal as it starts (09 R299). -/
def Sig.fresh (p : SigP) (since : Nat) : Sig :=
  ⟨p, [], 0, none, [], List.replicate 16 .zero, [0, 0, 0, 0], none, false, [], since, none⟩

/-- One decimated sample of signal `n`: its band record becomes the latest, with its counts. -/
def fastWindow (n : Nat) (i : Instant) (accSat : Bool) (m : Nat) (s : State) : State :=
  match tfind s.sc.sigs n with
  | none => s
  | some g =>
    let (g, counted) := g.decimate s i.p accSat m
    let s := { s with sc := { s.sc with sigs := tset s.sc.sigs n g } }
    let s := if ((g.recs.head?).map (·.filled)).getD false then count 0x109008 s else s
    if counted then note s.sc.p.nq 8 0x01 1 n (count 0x109010 s) else s

/-- One signal at the fast-path item of instant k: its input, its decimated samples, and their counts. -/
def fastSignal (n : Nat) (i : Instant) (from' to' : Nat) (accSat : Bool) (disp : Nat) (s : State) :
    State :=
  match tfind s.sc.sigs n with
  | none => s
  | some g =>
    if disp ≤ g.since then s
    else
      let restart : Bool := match g.again with | some d => decide (d < disp) | none => false
      let g := if restart then { Sig.fresh g.p g.since with recs := g.recs } else g
      let g := (g.pushGap s.sc.p.fillMax i.k).push s.sc.p.fillMax i.k (signalValue s g.p i)
      (List.range (to' - from')).foldl (fun s j => fastWindow n i accSat (from' + j) s)
        { s with sc := { s.sc with sigs := tset s.sc.sigs n g } }

/-- The fast-path item of instant k commits (09 R298 to R302, R312); `disp` is its dispatch decision. -/
def fastPath (i : Instant) (accSat : Bool) (disp : Nat) (s : State) : State :=
  let to' := dueEnd i.p.rate i.k
  let start := match s.sc.nextM with | some m => min m to' | none => to' - 1
  let s := countN 0x109000 ((to' - start) * s.sc.sigs.length) s
  let from' := max start (to' - 4100)
  let s := (tkeys s.sc.sigs).foldl (fun s n => fastSignal n i from' to' accSat disp s) s
  let s := if to' == 0 then s else { s with sc := { s.sc with nextM := some (max to' start) } }
  if accSat then note s.sc.p.nq 8 0x06 1 (fld 0x7F 25 7) (count 0x109020 s) else s

/-! ### Slow path (09 R305 to R309) -/

/-- Samples of a WINDOW code (Table 9-3). -/
def windowLen (w : Nat) : Nat := 500 * 2 ^ w

/-- Signals of a group, ascending. -/
def groupSigs (s : State) (g : Nat) : List (Nat × Sig) := s.sc.sigs.filter (fun e => e.2.p.group == g)

/-- RUN of a signal at window end `e` (09 R305). -/
def runOf (g : Sig) (e : Option Nat) (cap : Nat) : Nat :=
  match e with
  | none => 0
  | some e => min cap ((g.window.dropWhile (fun x => e < x.m)).takeWhile (·.valid)).length

/-- The RUN newest valid samples of a signal at window end `e`, newest first. -/
def dataOf (g : Sig) (e : Option Nat) (cap : Nat) : List Int :=
  match e with
  | none => []
  | some e => (((g.window.dropWhile (fun x => e < x.m)).takeWhile (·.valid)).take cap).map (·.v)

/-- The window end E for second `sec` (09 R305): the newest committed tag at or before it. -/
def windowEnd (s : State) (sec : Int) : Option Nat :=
  match s.sc.nextM, getGroup s s.sc.p.gid with
  | some n, some g =>
    let lim := (sec * 1000000000 * 2 ^ 16 - epoch16 g.p) / (40000000 * 2 ^ 16)
    if n == 0 || lim < 0 then none else some (min (n - 1) lim.toNat)
  | _, _ => none

/-- A slow update is dispatched for second `sec`: every group of node `node` fixes its definition and data (09 R305,
R312). -/
def startSlow (node : Nat) (sec : Int) (s : State) : State :=
  let e := windowEnd s sec
  { s with sc := { s.sc with groups := s.sc.groups.map (fun x =>
      let g := x.2
      if g.p.node != node then x
      else
        let sigs := (groupSigs s x.1).map (fun y => (⟨y.1, runOf y.2 e (windowLen g.p.window), y.2.p.zcFloor,
          dataOf y.2 e (windowLen g.p.window)⟩ : SlowSig))
        (x.1, { g with snap := some ⟨sec, e, g.p, sigs⟩, again := false, tracks := if g.again then [] else g.tracks })) } }

/-- The signals an update uses, by position in the group, their number of samples, and whether the record is settled
(09 R305). -/
def usedSigs (p : OscGroupP) (sigs : List SlowSig) : List Nat × Nat × Bool :=
  let best := listMax (sigs.map (·.run))
  let pos := (List.range sigs.length).filter (fun j => ((sigs[j]?).map (·.run)).getD 0 == best)
  if windowLen p.window ≤ best then (pos, windowLen p.window, true)
  else if 250 ≤ best then (pos, best, false)
  else ([], best, false)

/-- A mode with its energy and the signal its amplitude and phases refer to (09 R306, R307). -/
structure RankedMode where
  freq : Nat
  zeta : Int
  energy : Nat
  peakRatio : Nat
  ref : Nat
  alt : Bool
  shape : List (Nat × Nat)
deriving DecidableEq, Repr

/-- The position of the greatest amplitude among the used signals, the lowest on a tie. -/
def strongest (shape : List (Nat × Nat)) (used : List Nat) : Nat :=
  (used.foldl (fun (b : Option (Nat × Nat)) j =>
    let a := (shape.getD j (0, 0)).1
    match b with
    | some (_, x) => if x < a then some (j, a) else b
    | none => some (j, a)) none |>.map (·.1)).getD 0

/-- The `n` samples a signal lends to an update, oldest first. -/
def SlowSnap.dataAt (snap : SlowSnap) (j n : Nat) : List Int := (((snap.sigs[j]?).map (·.data)).getD []).take n |>.reverse

/-- A mode of an update in codes: MF18, ZETA, and amplitude and phase of each signal of the group. -/
structure ModeResult where
  freq : Nat
  zeta : Int
  shape : List (Nat × Nat)
deriving DecidableEq, Repr

/-- The modes an update keeps (09 R306), by ascending frequency, with the amplitudes `amps` gives. -/
def modesOf (snap : SlowSnap) (used : List Nat) (n : Nat) (amps : List (List Nat)) : List ModeResult :=
  let p := snap.p
  let keep := fun (f z : Rat) => decide (mkRat p.fmin 100 ≤ f) && decide (f ≤ mkRat p.fmax 100) && decide (z ≤ mkRat p.zetaMax 1000)
  let es := estimateModes (used.map (fun j => snap.dataAt j n)) p.rows p.order keep
  (List.range es.length).filterMap (fun r => (es[r]?).map (fun e =>
    ⟨(satCode 19 (e.f * 32768)).toNat, satCode 18 (e.zeta * 131072), (List.range snap.sigs.length).map (fun j =>
      (((amps.getD r []).getD j 0), ((used.zip e.phases).find? (fun x => x.1 == j)).elim 0 (·.2)))⟩))

/-- One estimated mode with EXCLUDED signals at zero, its reference chosen (09 R307), and its PEAK_RATIO on its strongest used
signal (09 R309). -/
def refMode (snap : SlowSnap) (used : List Nat) (n : Nat) (m : ModeResult) : RankedMode :=
  let sh := (List.range snap.sigs.length).map (fun j =>
    if used.contains j then (min 131071 (m.shape.getD j (0, 0)).1, (m.shape.getD j (0, 0)).2 % 2 ^ 18) else (0, 0))
  let r := snap.p.ref
  let floor := ((snap.sigs[r]?).map (·.floor)).getD 0
  let alt := !used.contains r || (sh.getD r (0, 0)).1 < floor
  let ref := if alt then strongest sh used else r
  let ph := (sh.getD ref (0, 0)).2
  ⟨m.freq % 2 ^ 18, clampInt (-131072) 131071 m.zeta, listSum (used.map (fun j => (sh.getD j (0, 0)).1 * (sh.getD j (0, 0)).1)),
   peakRatioOf (snap.dataAt (strongest sh used) n) (m.freq % 2 ^ 18), ref, alt,
   (List.range sh.length).map (fun j =>
     let x := sh.getD j (0, 0)
     if used.contains j then (x.1, (x.2 + 2 ^ 18 - ph) % 2 ^ 18) else (0, 0))⟩

/-- The reported modes of an update in rank order (09 R306). -/
def rankModes (snap : SlowSnap) (used : List Nat) (n : Nat) (ms : List ModeResult) : List RankedMode :=
  (sortBy (fun a b => b.energy < a.energy || (a.energy == b.energy && a.freq < b.freq)) (ms.map (refMode snap used n))).take
    snap.p.modesMax

/-- cost(t, md) of 09 R308. -/
def trackCost (p : OscP) (t : Track) (m : RankedMode) : Rat :=
  ratAbs (((m.freq : Int) - t.freq : Int) * mkRat 1000 (32768 * p.trackDf)) +
  ratAbs ((m.zeta - t.zeta : Int) * mkRat 1000 (131072 * p.trackDz))

/-- Pairs of track and rank with cost at most 1, by cost, then track, then rank. -/
def trackPairs (p : OscP) (ts : Tbl Track) (ms : List RankedMode) : List (Nat × Nat) :=
  let all := ts.flatMap (fun t => (List.range ms.length).filterMap (fun r => (ms[r]?).bind (fun m =>
    let c := trackCost p t.2 m
    if c ≤ 1 then some (c, t.1, r) else none)))
  (sortBy (fun a b => a.1 < b.1) all).map (·.2)

/-- Pairs taken greedily: each track and each mode once. -/
def takePairs (l : List (Nat × Nat)) : List (Nat × Nat) :=
  l.foldl (fun acc e => if acc.any (fun x => x.1 == e.1 || x.2 == e.2) then acc else acc ++ [e]) []

/-- BAR2 address of a counter of signal group `g` (09 R315). -/
def oscCtr (g off : Nat) : Nat := 0x308000 + 0x20 * g + off

/-- Notice MODE_LOST (Table 9-14). -/
def modeLost (g t : Nat) (s : State) : State := note s.sc.p.nq 8 0x03 0 (fld g 25 7 + fld t 22 3) s

/-- The track a mode without one takes: the lowest free one, else the unassigned one with most misses, then the higher
number (09 R308). -/
def chooseTrack (ts : Tbl Track) (taken : List Nat) : Nat :=
  match (List.range 8).find? (fun t => (tfind ts t).isNone && !taken.contains t) with
  | some t => t
  | none => (ts.filter (fun e => !taken.contains e.1)).foldl (fun (b : Nat × Nat) e =>
      if b.2 ≤ e.2.miss then (e.1, e.2.miss) else b) (0, 0) |>.1

/-- One mode without a track takes one: MODE_LOST of its holder, MODE_NEW (09 R308). -/
def newTrack (g : Nat) (ts : Tbl Track) (acc : List (Nat × Nat) × List Nat × State) (r : Nat) (m : RankedMode) :
    List (Nat × Nat) × List Nat × State :=
  let t := chooseTrack ts (acc.1.map (·.1))
  let s := if (tfind ts t).isSome then modeLost g t acc.2.2 else acc.2.2
  let s := note s.sc.p.nq 8 0x02 0 (fld g 25 7 + fld t 22 3 + m.freq) (count (oscCtr g 0x18) s)
  (acc.1 ++ [(t, r)], acc.2.1 ++ [t], s)

/-- A track after an update, with its FORCED state (09 R308, R309). -/
def trackAfter (p : OscP) (old : Option Track) (m : Option RankedMode) : Track :=
  let t : Track := old.getD ⟨0, 0, 0, false, 0, 0, 0⟩
  match m with
  | none => { t with miss := t.miss + 1, cand := 0, calm := t.calm + 1, age := min 0xFFFFFFFF (t.age + 1),
                     forced := t.forced && t.calm + 1 < p.forcedN }
  | some m =>
    let c := m.zeta.natAbs * 1000 ≤ p.forcedZeta * 131072 && p.forcedPr * 64 ≤ m.peakRatio
    let cand := if c then t.cand + 1 else 0
    let calm := if c then 0 else t.calm + 1
    { freq := m.freq, zeta := m.zeta, miss := 0, cand := cand, calm := calm,
      forced := if t.forced then calm < p.forcedN else p.forcedN ≤ cand,
      age := if old.isSome then min 0xFFFFFFFF (t.age + 1) else 0 }

/-- Notices of a change of FORCED (09 R309). -/
def forcedNotices (g t : Nat) (was now : Bool) (freq : Nat) (s : State) : State :=
  if now && !was then note s.sc.p.nq 8 0x04 2 (fld g 25 7 + fld t 22 3 + freq) (count 0x109028 s)
  else if was && !now then note s.sc.p.nq 8 0x05 0 (fld g 25 7 + fld t 22 3) s
  else s

/-- The track procedure of 09 R308 and R309: the new tracks, the pairs (track, rank), the new ones, and the notices. -/
def assignTracks (g : Nat) (ts : Tbl Track) (ms : List RankedMode) (s : State) :
    Tbl Track × List (Nat × Nat) × List Nat × State :=
  let p := s.sc.p
  let pairs := takePairs (trackPairs p ts ms)
  let free := (List.range ms.length).filter (fun r => !(pairs.any (fun e => e.2 == r)))
  let (pairs, news, s) := free.foldl (fun acc r => match ms[r]? with
    | some m => newTrack g ts acc r m
    | none => acc) (pairs, [], s)
  let modeOf' := fun t => (pairs.find? (fun e => e.1 == t)).bind (fun e => ms[e.2]?)
  let nums := (List.range 8).filter (fun t => (tfind ts t).isSome || news.contains t)
  let ts' : Tbl Track := nums.map (fun t => (t, trackAfter p (if news.contains t then none else tfind ts t) (modeOf' t)))
  let s := (ts'.filter (fun e => p.trackHold < e.2.miss)).foldl (fun s e => modeLost g e.1 s) s
  let live := ts'.filter (fun e => e.2.miss ≤ p.trackHold)
  let s := live.foldl (fun s e =>
    let was := if news.contains e.1 then false else ((tfind ts e.1).map (·.forced)).getD false
    forcedNotices g e.1 was e.2.forced e.2.freq s) s
  (live, pairs, news, s)

/-- A slow record enters its group's ring (09 R310), with its counts. -/
def putSlow (g : Nat) (r : SlowRec) (s : State) : State :=
  match tfind s.sc.groups g with
  | none => s
  | some x =>
    let seq := (x.seq + 1) % 2 ^ 32
    let x := { x with seq := seq, recs := ({ r with seq := seq, made := s.cv.decisions } :: x.recs).take x.p.retain, snap := none }
    let s := count (oscCtr g 0) { s with sc := { s.sc with groups := tset s.sc.groups g x } }
    if bit r.flags 1 then count (oscCtr g 0x10) s else s

/-- TAG of a window end; a record without one has a tag no rule gives (FREE VALUE). -/
def slowTag (s : State) (e : Option Nat) : Int :=
  match e, getGroup s s.sc.p.gid with
  | some m, some g => tagOf g.p m
  | _, _ => (freeBits 96 s : Int)

/-- The slow update of group `g` commits (09 R305 to R312). -/
def slowUpdate (g : Nat) (amps : List (List Nat)) (accSat : Bool) (s : State) : State :=
  match tfind s.sc.groups g with
  | none => s
  | some x => match x.snap with
    | none => s
    | some sn =>
      let (used, n, settled) := usedSigs sn.p sn.sigs
      let tag := slowTag s sn.e
      let s := if sn.e.isNone then bumpFree s else s
      let lag := sn.e.isSome && tag < sn.sec * 1000000000 * 2 ^ 16
      let noEst := used.isEmpty || accSat
      let modes := if noEst then [] else rankModes sn used n (modesOf sn used n amps)
      let excl := if used.isEmpty then 0
        else listSum ((List.range sn.sigs.length).map (fun j => if used.contains j then 0 else 2 ^ j))
      let alt := modes.any (·.alt)
      let flags := fld (b2n !settled) 0 1 + fld (b2n noEst) 1 1 + fld (b2n accSat) 2 1 + fld (b2n alt) 4 1 + fld (b2n lag) 5 1
      let (ts, pairs, news, s) := if noEst then (x.tracks, [], [], s) else assignTracks g x.tracks modes s
      let ent := (List.range modes.length).filterMap (fun r => (modes[r]?).map (fun m =>
        let t := ((pairs.find? (fun e => e.2 == r)).map (·.1)).getD 0
        let tr := tfind ts t
        (⟨m.freq, m.zeta, (m.shape.getD m.ref (0, 0)).1, t, (tr.map (·.forced)).getD false, news.contains t, m.peakRatio,
          (tr.map (·.age)).getD 0, m.shape⟩ : SlowMode)))
      let s := match tfind s.sc.groups g with
        | some y => { s with sc := { s.sc with groups := tset s.sc.groups g { y with tracks := ts } } }
        | none => s
      let s := putSlow g ⟨tag, sn.sigs.length, used.length, flags, n, 0, excl, ent, 0⟩ s
      if accSat then note s.sc.p.nq 8 0x06 1 (fld g 25 7) s else s

/-- The groups a slow node serves. -/
def slowGroups (s : State) (node : Nat) : List Nat := tkeys (s.sc.groups.filter (fun e => e.2.p.node == node))

/-- A slow node commits: every group it started on is updated (09 R304). -/
def slowPath (rs : List SlowResult) (accSat : Bool) (node : Nat) (s : State) : State :=
  let gs := tkeys (s.sc.groups.filter (fun e => match e.2.snap with | some sn => sn.p.node == node | none => false))
  gs.foldl (fun s g => slowUpdate g (((rs.find? (fun r => r.group == g)).map (·.amps)).getD []) accSat s) s

/-- A slow node is aborted: each of its groups writes a record with ABORTED and NO_EST (09 R312). -/
def slowAborted (node : Nat) (sec : Int) (s : State) : State :=
  (slowGroups s node).foldl (fun s g =>
    let sn := ((tfind s.sc.groups g).bind (·.snap))
    let e := match sn with | some x => x.e | none => windowEnd s sec
    let tag := slowTag s e
    let s := if e.isNone then bumpFree s else s
    putSlow g ⟨tag, (groupSigs s g).length, 0, 2 + 8, 0, 0, 0, [], 0⟩ s) s

/-- An update for which the previous one is outstanding is missed for each group that a node of the graph serves (09 R304). -/
def slowMissed (nodes : List NodeP) (s : State) : State :=
  (s.sc.groups.filter (fun e => nodes.any (fun d => d.node == e.2.p.node))).foldl
    (fun s e => count (oscCtr e.1 8) (count 0x109018 s)) s

end Sys2Proof.Machine
end

