-- ==== Sys2Proof/Machine/Alarms.lean ====
section
/-! DEFINITION. The alarm unit AL (chapter 10): operands, evaluation, outputs, and the cross-trigger inputs. -/

namespace Sys2Proof.Machine

/-- FRC time in 0.01 ns (one count is 2.56 ns). -/
def fineTime (s : State) : Nat := s.tm.frc * 256

/-! ### Lines and pulses (10 R326 to R328, 04 R150) -/

/-- A line 0 to 2 (PPS_OUT, XTRIG_OUT0, XTRIG_OUT1) goes high for `ns`; pulses combine by OR (04 R150). -/
def drivePulse (line ns : Nat) (s : State) : State :=
  let e := fineTime s + ns * 100
  { s with tm := { s.tm with pulses := tset s.tm.pulses line (max e (tget 0 s.tm.pulses line)) } }

/-- Rule `p` drives outputs in the present mode (chapter 10, Outputs). -/
def driving (s : State) (p : RuleP) : Bool :=
  if s.pm.mode == .commission then p.test else s.pm.mode.isService && !p.test

/-- ALM line `l`. -/
def getLine (s : State) (l : Nat) : AlmLine := tget AlmLine.reset s.al.lines l

/-- ALM line `l` changed. -/
def updLine (l : Nat) (f : AlmLine → AlmLine) (s : State) : State :=
  { s with al := { s.al with lines := tset s.al.lines l (f (getLine s l)) } }

/-- A driving rule mapped to line `l` is active. -/
def lineActive (s : State) (l : Nat) : Bool :=
  s.al.rules.any (fun e => e.2.active && driving s e.2.p && bit e.2.p.almMask l)

/-- The lines as their modes ask (10 R326). -/
def wantedLines (s : State) : Nat :=
  listSum ((List.range 8).map (fun l =>
    let x := getLine s l
    let on := if x.mode == 0 then lineActive s l else if x.mode == 1 then x.latched else x.pulseEnd.isSome
    if on then 2 ^ l else 0))

/-- ALM_STB is high, or fell less than 8 ns ago (10 R327). -/
def strobeBusy (s : State) : Bool := s.al.stbRise ≤ fineTime s && fineTime s < s.al.stbFall + 800

/-- A change of the lines is driven and strobed, or waits for ALM_STB (10 R327). -/
def driveLines (s : State) : State :=
  let w := wantedLines s
  if w == s.al.alm then { s with al := { s.al with deferred := false } }
  else if s.al.alm != w && strobeBusy s && s.al.stbFall != 0 then
    if s.al.deferred then s else count 0x10B028 { s with al := { s.al with deferred := true } }
  else
    let rise := fineTime s + 512
    { s with al := { s.al with alm := w, deferred := false, stbRise := rise, stbFall := rise + s.al.x.stbNs * 100 } }

/-! ### Asserts and clears (10 R326, R328, R330, R342) -/

/-- Rule `n`. -/
def getRule (s : State) (n : Nat) : Option Rule := tfind s.al.rules n

/-- Rule `n` replaced. -/
def setRule (n : Nat) (r : Rule) (s : State) : State := { s with al := { s.al with rules := tset s.al.rules n r } }

/-- BAR2 address of a per-rule counter (10 R346). -/
def ruleCtr (n off : Nat) : Nat := 0x400000 + 0x20 * n + off

/-- Notice and log record of a rule (10 R330, Tables 10-14 and 13-6). -/
def ruleNote (p : RuleP) (code nsev arg rsev rarg : Nat) (s : State) : State :=
  let s := if p.nqEn then notify p.nq 9 code nsev arg s else s
  if p.log then report 9 code rsev rarg none s else s

/-- ARG of the log record of an ASSERT or CLEAR (Table 13-6). -/
def ruleArg (n k : Nat) (v : Int) : Nat := fld k 30 26 + fld (twosComp 18 v) 12 18 + n

/-- An ASSERT of a driving rule sets its lines and pulses XTRIG_OUT (10 R326, R328). -/
def driveAssert (p : RuleP) (s : State) : State :=
  let s := (bitList 8 p.almMask).foldl (fun s l => updLine l (fun x =>
    if x.mode == 1 then { x with latched := true }
    else if x.mode == 2 then { x with pulseEnd := some (fineTime s + x.pulseUs * 100000) } else x) s) s
  (bitList 2 p.xtrig).foldl (fun s x => drivePulse (1 + x) s.al.x.pulseNs s) s

/-- ASSERT of rule `n` on index `k`, trigger time `tk` (10 R330). -/
def assertRule (n : Nat) (p : RuleP) (k : Nat) (v tk : Int) (s : State) : State :=
  let s := count (ruleCtr n 8) (count 0x10B008 s)
  let s := ruleNote p 0x01 p.severity (fld k 12 20 + n) p.severity (ruleArg n k v) s
  let s := triggerMask p.acqMask tk 0 n s
  if driving s p then driveAssert p s else s

/-- CLEAR of rule `n` on index `k`. -/
def clearRule (n : Nat) (p : RuleP) (k : Nat) (v : Int) (s : State) : State :=
  ruleNote p 0x02 0 (fld k 12 20 + n) p.severity (ruleArg n k v) (count 0x10B010 s)

/-- RULE_CLEAR_ADMIN of rule `n` with its cause: 1 DISABLED, 2 CONFIG, 3 MODE, 4 FORCE. -/
def adminNote (n cause : Nat) (p : RuleP) (s : State) : State :=
  ruleNote p 0x03 0 (fld cause 12 4 + n) p.severity (fld cause 12 4 + n) (count 0x10B010 s)

/-- An active rule clears for an administrative cause; the lines follow (10 R342, R344). -/
def adminClear (n cause : Nat) (s : State) : State :=
  match getRule s n with
  | some r =>
    if r.active then
      driveLines (adminNote n cause r.p (setRule n { r with active := false, pick := 0, drop := 0, stopping := false } s))
    else s
  | none => s

/-- Every active rule clears with cause MODE and forces are released (10 R342). -/
def clearAllRules (s : State) : State :=
  let s := { s with al := { s.al with rules := s.al.rules.map (fun e => (e.1, { e.2 with forced := false })) } }
  driveLines ((tkeys s.al.rules).foldl (fun s n => adminClear n 3 s) s)

/-! ### Operands (10 R319, R323, R324) -/

/-- An operand: its value and validity. -/
abbrev Operand := Int × Bool

/-- What an evaluation reads: instant, result of TS, dispatch number of the rule item and TQ at its dispatch, and the
model of the instance. -/
structure EvalCtx where
  i : Instant
  ts : Option TsResult
  m : Option ModelP
  disp : Nat
  tq : Nat
deriving DecidableEq, Repr

/-- A source channel feeds a model measurement flagged BAD_DATA on the instant. -/
def feedsBad (c : EvalCtx) (sid ch : Nat) : Bool :=
  match c.ts, c.m with
  | some r, some m => (List.range m.meas.length).any (fun n => match m.meas[n]? with
      | some x => x.sid == sid && x.ch == ch && bit (r.meas.getD n 0) 19
      | none => false)
  | _, _ => false

/-- The angle difference of two phasors as AV18 of 180 degrees. -/
def angleCode (a b : Int × Int) : Int :=
  clampInt (-131072) 131071 (roundDiv ((angleOf a.1 a.2 - angleOf b.1 b.2 + 2 ^ 63) % 2 ^ 64 - 2 ^ 63) (2 ^ 46))

/-- Flag `b` of the result header of the instant. -/
def tsFlag (c : EvalCtx) (b : Nat) : Bool := match c.ts with | some r => bit r.flags b | none => false

/-- Operands read of measurements, topology and the estimate (kinds 0 to 7). -/
def instantOperand (p : RuleP) (c : EvalCtx) : Operand :=
  let ch := fun sid n => reqChan (p.req % 8) c.i.cells sid n
  match p.kind with
  | 0 => match ch p.a p.aSub, ch p.b p.bSub with
    | some x, some y => (angleCode (x.a, x.b) (y.a, y.b), !(bit p.req 3 && (feedsBad c p.a p.aSub || feedsBad c p.b p.bSub)))
    | _, _ => (0, false)
  | 1 => match c.ts with
    | none => (0, false)
    | some r => match r.validVolt p.a, r.validVolt p.b with
      | some x, some y => (angleCode x y, !(bit p.req 4 && bit r.flags 2))
      | _, _ => (0, false)
  | 2 => match ch p.a 32 with | some x => (x.a, true) | none => (0, false)
  | 3 => match ch p.a 33 with | some x => (x.a, true) | none => (0, false)
  | 4 => match c.ts with
    | none => (0, false)
    | some r => match r.isl.find? (fun z => some z.anchor == r.anchors[p.a]?) with
      | some z => (z.freq, bit r.flags 0 && z.freqValid)
      | none => (0, false)
  | 5 => (((c.ts.map (·.islands)).getD 0 : Nat), tsFlag c 0)
  | 6 => ((b2n ((bit p.bSub 0 && tsFlag c 12) || (bit p.bSub 1 && tsFlag c 13)) : Nat), tsFlag c 0)
  | _ => match c.ts with
    | none => (0, false)
    | some r =>
      let w := r.meas.getD p.a 0
      ((bits w 0 18 : Nat), bit w 23 && !(bit p.req 3 && bit w 19) && !(bit p.req 4 && bit r.flags 2))

/-- The newest slow record committed before the rule node's dispatch (10 R323). -/
def slowSrc (s : State) (p : RuleP) (c : EvalCtx) : Option SlowRec :=
  (tfind s.sc.groups p.a).bind (fun g => g.recs.find? (fun r => r.made < c.disp))

/-- The newest band record committed before the rule node's dispatch. -/
def bandSrc (s : State) (p : RuleP) (c : EvalCtx) : Option BandRec :=
  (tfind s.sc.sigs p.a).bind (fun g => g.recs.find? (fun r => r.made < c.disp))

/-- SEQ or tag of the Sirocco record a rule would use. -/
def srcMark (s : State) (p : RuleP) (c : EvalCtx) : Option Nat :=
  if p.kind == 8 then (slowSrc s p c).map (·.seq) else (bandSrc s p c).map (·.m)

/-- Operands read of Sirocco (kinds 8 to 10). -/
def oscOperand (s : State) (p : RuleP) (c : EvalCtx) : Operand :=
  if p.kind == 8 then match slowSrc s p c with
    | none => (0, false)
    | some r => match r.modes.find? (fun m => m.track == p.aSub) with
      | some m => (m.zeta, !bit r.flags 1 && !bit r.flags 2 && !bit r.flags 3 && !(bit p.req 2 && bit r.flags 0))
      | none => (0, false)
  else match bandSrc s p c with
    | none => (0, false)
    | some r =>
      if p.kind == 9 then
        (r.zc.getD p.aSub 0, r.valid && !r.accSat && bit r.zcValid p.aSub && !(bit p.req 2 && bit r.zcUnsettled p.aSub))
      else ((r.br.getD p.aSub 0 : Nat), r.valid && !r.accSat && !(bit p.req 2 && bit r.brUnsettled p.aSub))

/-- The operand of a rule (Tables 10-2, 10-4). -/
def operandOf (s : State) (p : RuleP) (c : EvalCtx) : Operand :=
  if p.kind ≤ 7 then
    let (v, ok) := instantOperand p c
    (v, ok && !c.i.gap)
  else if p.kind ≤ 10 then oscOperand s p c
  else if p.kind == 11 then
    if p.a == 0xFFFF then (((c.i.members.filter (fun m => (tfind c.i.cells m).isNone)).length : Nat), true)
    else ((b2n (tfind c.i.cells p.a).isNone : Nat), true)
  else ((c.tq : Nat), true)

/-- A threshold as the operand's format reads it (10 R319). -/
def threshold (p : RuleP) (x : Nat) : Int :=
  if p.kind ≤ 4 || (8 ≤ p.kind && p.kind ≤ 10) then ofTwosComp 18 x else ((x % 2 ^ 18 : Nat) : Int)

/-- picks and holds of Table 10-3. -/
def ruleCond (p : RuleP) (active : Bool) (v : Int) : Bool :=
  let hi := threshold p (if active then p.hiRst else p.hi)
  let lo := threshold p (if active then p.loRst else p.lo)
  match p.cond with
  | 0 => hi < v
  | 1 => v < lo
  | 2 => hi < v || v < lo
  | _ => hi < v.natAbs

/-! ### Evaluation (10 R325) -/

/-- The counts of rule `n` after a condition; the flags say ASSERT and CLEAR. -/
def Rule.judge (r : Rule) (c : Bool) : Rule × Bool × Bool :=
  if c then
    if r.active then ({ r with drop := 0 }, false, false)
    else if r.p.pickup ≤ r.pick + 1 then ({ r with drop := 0, pick := 0, active := true }, true, false)
    else ({ r with drop := 0, pick := r.pick + 1 }, false, false)
  else if r.active then
    if r.p.dropout ≤ r.drop + 1 then ({ r with pick := 0, drop := 0, active := false }, false, true)
    else ({ r with pick := 0, drop := r.drop + 1 }, false, false)
  else ({ r with pick := 0 }, false, false)

/-- Notes an invalid operand: counts, and RULE_INVALID for the first of an episode (10 R325). -/
def invalidNote (n : Nat) (r : Rule) (s : State) : State :=
  let s := count (ruleCtr n 0x10) (count 0x10B018 s)
  if r.p.noteInvalid && !r.invalidOpen then
    let s := notify r.p.nq 9 0x04 1 n s
    if r.p.log then report 9 0x04 1 n none s else s
  else s

/-- A judged rule `j` (the rule, up, down) is stored, and what its edge sets off happens (10 R325, R326). -/
def ruleEdges (c : EvalCtx) (n : Nat) (j : Rule × Bool × Bool) (s : State) : State × Bool :=
  let r := j.1
  let s := setRule n r s
  let s := if r.active then count (ruleCtr n 0x18) s else s
  if j.2.1 then (assertRule n r.p c.i.k r.lastVal (tkOf c.i.p c.i.k) s, r.p.freeze && !r.p.test && s.pm.mode.isService)
  else if j.2.2 then (clearRule n r.p c.i.k r.lastVal s, false)
  else (s, false)

/-- evaluate(r, k) of 10 R325 on rule `n`; the flag says that a driving FREEZE rule asserted. -/
def evaluateRule (c : EvalCtx) (n : Nat) (r : Rule) (s : State) : State × Bool :=
  let osc := 8 ≤ r.p.kind && r.p.kind ≤ 10
  let mark := if osc then srcMark s r.p c else none
  if osc && (mark.isNone || mark == r.lastSrc) then (s, false)
  else
    let k := c.i.k
    let broken := !osc && (match r.lastK with | some x => x + 1 != k | none => true)
    let s := if broken && r.lastK.isSome then count 0x10B020 s else s
    let r := if broken then { r with pick := 0, drop := 0 } else r
    let s := count (ruleCtr n 0) (count 0x10B000 s)
    let (v, ok) := operandOf s r.p c
    let s := if ok then s else invalidNote n r s
    let r := { r with lastK := some k, lastSrc := if osc then mark else r.lastSrc, lastValid := ok,
                      lastVal := if ok then v else r.lastVal, invalidOpen := !ok }
    ruleEdges c n (if ok then r.judge (ruleCond r.p r.active v) else if r.p.invalid == 0 then (r, false, false)
      else r.judge (r.p.invalid == 2)) s

/-- Rule `n` at the decision of an instant of group `gid` (10 R321, R344). -/
def ruleStep (c : EvalCtx) (gid : Nat) (acc : State × Bool) (n : Nat) : State × Bool :=
  match getRule acc.1 n with
  | none => acc
  | some r =>
    if r.p.gid != gid || hsStopped 2 acc.1 then acc
    else if !r.en then
      (if r.stopping && r.active then
        (adminNote n 1 r.p (setRule n { r with active := false, pick := 0, drop := 0, stopping := false } acc.1), acc.2)
       else acc)
    else if r.forced then acc
    else
      let e := evaluateRule c n r acc.1
      (e.1, acc.2 || e.2)

/-- The decision of an instant (10 R321, R322, R344): every rule of its group in ascending number, then the lines as one
change; the flag says that a FREEZE rule asks for a freeze (10 R329). -/
def decide' (c : EvalCtx) (gid : Nat) (s : State) : State × Bool :=
  let e := (tkeys s.al.rules).foldl (ruleStep c gid) (s, false)
  (driveLines e.1, e.2)

/-- A STAGE 4 node of an enabled graph bound to `gid`: its rules' graph and RULE_CAP (10 R321). -/
def ruleGraph (s : State) (gid : Nat) : Option Job :=
  (s.cv.jobs.find? (fun e => e.2.bound.contains gid && !e.2.shed && e.2.p.nodes.any (fun n => n.stage == 4))).map (·.2)

/-! ### Events of AL -/

/-- The clocks of AL run: not in BOOT or FROZEN, nor in DOZE, which gates AL (01 R22). -/
def alRuns (s : State) : Bool := s.pm.mode != .frozen && s.pm.mode != .boot && s.pm.mode != .doze

/-- ALM_STB_DEFERRED (10 R327). -/
def execAlmStbDeferred (s : State) : Host.Outcome State Fault Refusal :=
  .next (if alRuns s && s.al.deferred && !strobeBusy s then driveLines s else s)

/-- ALM_PULSE_END (10 R326). -/
def execAlmPulseEnd (line : Nat) (s : State) : Host.Outcome State Fault Refusal :=
  .next (match (getLine s line).pulseEnd with
    | some e => if alRuns s && e ≤ fineTime s then driveLines (updLine line (fun x => { x with pulseEnd := none }) s) else s
    | none => s)

/-- XTRIG_IN[n] takes a level. -/
def setXtrigIn (n : Nat) (level : Bool) (s : State) : State :=
  let v := s.pins.xtrigIn
  let w := if bit v n == level then v else if level then v + 2 ^ n else v - 2 ^ n
  { s with pins := { s.pins with xtrigIn := w } }

/-- The level of the active edge of input `n` (10 R331). -/
def activeLevel (s : State) (n : Nat) : Bool := !bit s.al.x.xinEdge n

/-- A stamped active edge (10 R331). -/
def xinEdge (n : Nat) (stamp : Int) (s : State) : State :=
  let x := tget Xin.reset s.al.xin n
  let s := count 0x10B030 s
  let x := { x with edges := (x.edges + 1) % 2 ^ 16 }
  let close : Bool := match x.prev with | some q => decide (stamp - q < 1000 * 2 ^ 16) | none => false
  if close then count 0x10B038 { s with al := { s.al with xin := tset s.al.xin n x } }
  else
    let s := { s with al := { s.al with xin := tset s.al.xin n { x with stamp := stamp, prev := some stamp } } }
    let s := triggerMask 0xFFFF (stamp - (s.al.x.xinLatNs * 2 ^ 16 : Nat)) (2 + n) n s
    if bit s.al.x.xinNote n then note s.al.x.nq 9 0x05 0 (fld n 31 1 + (dt80Of stamp).ns % 2 ^ 30) s else s

/-- XTRIG_IN_EDGE (10 R331): the pin changes; its active edge is stamped, but not in BOOT, DOZE or FROZEN. -/
def execXtrigInEdge (n : Nat) (level : Bool) (stamp : Stamp) (s : State) : Host.Outcome State Fault Refusal :=
  .next (
    if 2 ≤ n || bit s.pins.xtrigIn n == level then s
    else
      let s := setXtrigIn n level s
      if level == activeLevel s n && alRuns s then xinEdge n (stampAt stamp s) s else s)

/-- XTRIG_IN_FORWARDED_EDGE (10 R332): the pin takes its inactive level, and with it XTRIG_OUT[n] under FWD. -/
def execXtrigInForwardedEdge (n : Nat) (s : State) : Host.Outcome State Fault Refusal :=
  .next (if 2 ≤ n then s else setXtrigIn n (!activeLevel s n) s)

/-- XTRIG_OUT[n] as driven: pulses, or the input under FWD in every mode but BOOT (10 R328, R332). -/
def xtrigOut (s : State) (n : Nat) : Bool :=
  fineTime s < tget 0 s.tm.pulses (1 + n) || (bit s.al.x.fwd n && bit s.pins.xtrigIn n && s.pm.mode != .boot)

/-- OUTPUT_PULSE_END (04 R150): PPS_OUT or XTRIG_OUT falls when its last pulse has ended. -/
def execOutputPulseEnd (line : Nat) (s : State) : Host.Outcome State Fault Refusal :=
  .next (match tfind s.tm.pulses line with
    | some e => if s.pm.mode != .frozen && e ≤ fineTime s then { s with tm := { s.tm with pulses := tdel s.tm.pulses line } } else s
    | none => s)

end Sys2Proof.Machine
end

