-- ==== Sys2Proof/Machine/Caravan.lean ====
section
/-! DEFINITION. Caravan (chapter 07): graphs, instances, work items, levels, shares, aging, delay lists and the dispatch
decision. -/

namespace Sys2Proof.Machine

/-! ### Graphs (07 R228, R231) -/

/-- The rank of every vertex, or none when the edges have a cycle: the lowest vertex without a predecessor left is taken
each time (07 R231). -/
def kahn (edges : List (Nat × Nat)) : Nat → List Nat → Nat → Tbl Nat → Option (Tbl Nat)
  | 0, left, _, acc => if left.isEmpty then some acc else none
  | fuel + 1, left, rank, acc =>
    if left.isEmpty then some acc
    else
      let ready := left.filter (fun v => !(edges.any (fun e => e.2 == v && left.contains e.1)))
      match ready with
      | [] => none
      | x :: xs =>
        let v := xs.foldl min x
        kahn edges fuel (left.filter (· != v)) (rank + 1) (tset acc v rank)

/-- Predecessors of a node. -/
def predsOf (d : NodeP) : List Nat := d.pred.filter (· != 0xFF)

/-- Node ranks of a graph, none when R231 rejects it. -/
def graphRanks (p : JobP) : Option (Tbl Nat) :=
  let vs := p.nodes.map (·.node)
  if p.nodes.any (fun d => (predsOf d).any (fun q => q == d.node || !vs.contains q)) then none
  else kahn (p.nodes.flatMap (fun d => (predsOf d).map (fun q => (q, d.node)))) vs.length vs 0 []

/-- The CHAIN relation of a set of graphs has no cycle (07 R231). -/
def chainsOk (jobs : List JobP) : Bool :=
  let vs := jobs.map (·.job)
  let es := jobs.flatMap (fun p => (p.nodes.filter (fun d => d.chain != 0xFFFF)).map (fun d => (p.job, d.chain)))
  !(es.any (fun e => e.1 == e.2)) && (kahn (es.filter (fun e => vs.contains e.2)) vs.length vs 0 []).isSome

/-- Graph `j`. -/
def getJob (s : State) (j : Nat) : Option Job := tfind s.cv.jobs j

/-- Graph `j` replaced. -/
def setJob (j : Nat) (x : Job) (s : State) : State := { s with cv := { s.cv with jobs := tset s.cv.jobs j x } }

/-- BAR2 address of a per-graph counter (07 R258). -/
def jobCtr (j off : Nat) : Nat := 0x300000 + 0x20 * j + off

/-- Graphs bound to a group and not shed, ascending. -/
def boundJobs (s : State) (gid : Nat) : List Nat := tkeys (s.cv.jobs.filter (fun e => e.2.bound.contains gid && !e.2.shed))

/-! ### Engines and Playa pages (07 R240, R244) -/

/-- Engine `n`. -/
def getEngine (s : State) (n : Nat) : Engine := tget Engine.reset s.cv.engines n

/-- Engine `n` changed. -/
def updEngine (n : Nat) (f : Engine → Engine) (s : State) : State :=
  { s with cv := { s.cv with engines := tset s.cv.engines n (f (getEngine s n)) } }

/-- Engine `n` put in a state. -/
def putEngine (st : EngState) (n : Nat) (s : State) : State := updEngine n (fun e => { e with st := st }) s

/-- The engines in a state, ascending. -/
def enginesIn (s : State) (st : EngState) : List Nat := (List.range 66).filter (fun n => (getEngine s n).st == st)

/-- Engines in service. -/
def inService (s : State) : Nat := (enginesIn s .idle).length + (enginesIn s .running).length

/-- Pages of one half of the factor, and of the result ring (08 R278, R283, R284). -/
def topoPages (m : ModelP) : Nat :=
  2 * ceilDiv m.nnz 512 + ceilDiv (16 * (64 + 256 * 16 + 8 * m.nodes.length + 4 * m.meas.length)) 4096

/-- Pages of Sirocco (09 R311). -/
def oscPages (s : State) : Nat :=
  let n := s.sc.sigs.length
  ceilDiv (n * 8) 25 + listSum (s.sc.groups.map (·.2.p.retain)) + ceilDiv n 4

/-- Resident and program pages (07 R244, 08 R278, 09 R311). -/
def residentPages (s : State) : Nat :=
  s.cfg.programPages + listSum (s.cv.jobs.map (fun e => if e.2.shed then 0 else listSum (e.2.p.nodes.map (·.residentPages)))) +
  ((s.ts.model.map topoPages).getD 0) + (if s.sc.sigs.isEmpty && s.sc.groups.isEmpty then 0 else oscPages s)

/-- The engines an item holds. -/
def Item.engines (it : Item) : List Nat :=
  match it.st with
  | .running e _ _ => e
  | .takeover e => e
  | _ => []

/-- The item is in service. -/
def Item.held (it : Item) : Bool := !it.engines.isEmpty

/-- Scratch pages of an item (Table 7-3). -/
def Item.pages (it : Item) : Nat := 2 * it.d.ckptPages * it.d.gang

/-- Free scratch pages. -/
def scratchFree (s : State) : Nat :=
  6144 - s.cv.playaOut - residentPages s - listSum ((s.cv.items.filter (·.held)).map (·.pages))

/-! ### Items (07 R230, R232, R239) -/

/-- The tick count (07 Table 7-2). -/
def tickCount (s : State) : Nat := s.tm.tickAt / 400 % 2 ^ 32

/-- The item of an entry number. -/
def getItem (s : State) (id : Nat) : Option Item := s.cv.items.find? (fun it => it.id == id)

/-- An item changed in place. -/
def updItem (id : Nat) (f : Item → Item) (s : State) : State :=
  { s with cv := { s.cv with items := s.cv.items.map (fun it => if it.id == id then f it else it) } }

/-- An item leaves Caravan. -/
def dropItem (id : Nat) (s : State) : State :=
  { s with cv := { s.cv with items := s.cv.items.filter (fun it => it.id != id) } }

/-- An item joins the tail of a level (07 R234, R237). -/
def queueAt (level id : Nat) (s : State) : State :=
  match getItem s id with
  | none => s
  | some it =>
    let it := { it with level := level, st := .queued, enqTick := tickCount s }
    { s with cv := { s.cv with items := s.cv.items.filter (fun x => x.id != id) ++ [it] } }

/-- FRC counts an item has been in service (07 R236). -/
def Item.runCounts (it : Item) (frc : Nat) : Nat :=
  match it.st with
  | .running _ since _ => it.used + (frc - since)
  | _ => it.used

/-- The charge of 07 R236: run cycles times gang, to the level held at dispatch, saturating at -2^31. -/
def chargeItem (it : Item) (s : State) : State :=
  if 12 ≤ it.dispLevel then s
  else
    let c : Int := 2 * it.runCounts s.tm.frc * it.d.gang
    let d := s.cv.deficits
    { s with cv := { s.cv with deficits := d.set it.dispLevel (max (-(2 ^ 31)) (d.getD it.dispLevel 0 - c)) } }

/-- An item ends by commit or abort: the engines it holds are free again, and its runs are charged, also those of an item that
an engine fault has queued again (07 R236, R252). -/
def stopItem (it : Item) (s : State) : State :=
  it.engines.foldl (fun s n => if (getEngine s n).st == .running then putEngine .idle n s else s)
    (if it.disp == 0 then s else chargeItem it s)

/-! ### Instances (07 R229, R230, R247) -/

/-- An outstanding instance. -/
def getInst (s : State) (job seq : Nat) : Option Inst := s.cv.insts.find? (fun i => i.job == job && i.seq == seq)

/-- An instance changed in place. -/
def updInst (job seq : Nat) (f : Inst → Inst) (s : State) : State :=
  { s with cv := { s.cv with insts := s.cv.insts.map (fun i => if i.job == job && i.seq == seq then f i else i) } }

/-- The instance leaves, with its items stopped. -/
def dropInst (i : Inst) (s : State) : State :=
  let mine := s.cv.items.filter (fun it => it.job == i.job && it.seq == i.seq)
  let s := mine.foldl (fun s it => stopItem it s) s
  { s with cv := { s.cv with items := s.cv.items.filter (fun it => !(it.job == i.job && it.seq == i.seq)),
                             insts := s.cv.insts.filter (fun x => !(x.job == i.job && x.seq == i.seq)) } }

/-- The hold on released cells that an instance of a release has (07 R230). -/
def freeInstHold (i : Inst) (s : State) : State := if i.origin == 0 then freeJobHold i.gid i.k s else s

/-- The final completion of the CARAVAN.RUN of an instance. -/
def finishRun (i : Inst) (status : Nat) (s : State) : State :=
  match i.handle with
  | none => s
  | some h => match findOp s h with
    | some o => finalCompletion o status (if status == 0 then leBytes 4 i.seq else []) s
    | none => s

/-- The second of device time in which a trigger lies. -/
def trigSecond (i : Inst) : Int := i.trig / (1000000000 * 2 ^ 16)

/-- What the consumers of an aborted instance report: TS a header with ABORTED, Sirocco records with ABORTED (08 R284,
09 R312). -/
def abortReports (i : Inst) (s : State) : State :=
  let open' := i.p.nodes.filter (fun d => !i.committed.contains d.node)
  let s := if i.origin == 0 && i.gid == s.ts.p.gid && open'.any (fun d => d.stage == 1) then topologyAborted i.gid i.k s else s
  if i.job == s.sc.p.slowJob then open'.foldl (fun s d => slowAborted d.node (trigSecond i) s) s else s

/-- An instance is aborted at a node: 1 BUDGET_OVER, 2 QFULL, 3 DATA_UNCORRECTABLE (07 R247). -/
def abortInst (i : Inst) (node cause : Nat) (s : State) : State :=
  let s := dropInst i s
  let s := count (jobCtr i.job 0x10) (count 0x107020 s)
  let s := note s.cv.nq 5 0x02 2 (fld i.job 16 10 + fld node 11 5 + cause) s
  let s := freeInstHold i (abortReports i s)
  finishRun i (if cause == 3 then 0x61 else 0x60) s

/-- An instance ends: every node has committed (07 R230). -/
def endInst (i : Inst) (s : State) : State := finishRun i 0 (freeInstHold i (dropInst i s))

/-- An item for a ready node; none when no entry is free or the delay lists are full (07 R230, R232, R239). -/
def createItem (i : Inst) (d : NodeP) (s : State) : Option State :=
  let delayed := (s.cv.items.filter (fun it => match it.st with | .delayed _ => true | _ => false)).length
  if 0 < d.delayUs && 8192 ≤ delayed then none
  else enterItem i.job i.seq d (if d.delayUs == 0 then .queued else .delayed (now s + us16 d.delayUs)) s

/-- Nodes of an instance in rank order. -/
def rankedNodes (i : Inst) : List NodeP := sortBy (fun a b => tget 0 i.ranks a.node < tget 0 i.ranks b.node) i.p.nodes

/-- Every node that has become ready gets its item; without an entry the instance is aborted, QFULL (07 R230, R232). -/
def makeReady (job seq : Nat) (s : State) : State :=
  match getInst s job seq with
  | none => s
  | some i0 =>
    ((rankedNodes i0).filter (fun d => !i0.created.contains d.node && (predsOf d).all i0.committed.contains)).foldl (fun s d =>
      match getInst s job seq with
      | none => s
      | some i =>
        match createItem i d s with
        | some s => updInst job seq (fun i => { i with created := i.created ++ [d.node] }) s
        | none => abortInst i d.node 2 (count 0x107018 s)) s

/-- The trigger of an instance: origin, GID and index of a release, ARG, handle of a CARAVAN.RUN, time. -/
structure Trigger where
  origin : Nat
  gid : Nat
  k : Nat
  arg : Nat
  handle : Option Nat
  time : Int
deriving DecidableEq, Repr

/-- Graphs run in COMMISSION and the service modes (07 R256), until the sleep handshake stops them (14 R452). -/
def cvRuns (s : State) : Bool := (s.pm.mode == .commission || s.pm.mode.isService) && !hsStopped 3 s

/-- A trigger meets graph `j` (07 R229): it starts an instance, or is an overrun; the flag says that it started one. -/
def startInst (j : Nat) (t : Trigger) (s : State) : Bool × State :=
  match getJob s j with
  | none => (false, s)
  | some x =>
    if x.shed || !cvRuns s then (false, s)
    else if x.p.maxInflight ≤ (s.cv.insts.filter (fun i => i.job == j)).length then
      let s := count (jobCtr j 8) (count 0x107010 (setJob j { x with overrun := true } s))
      let s := if x.overrun then s else note s.cv.nq 5 0x01 1 j s
      (false, if j == s.sc.p.slowJob && t.origin == 1 then slowMissed x.p.nodes s else s)
    else
      let q := (x.seq + 1) % 2 ^ 32
      let i : Inst := ⟨j, q, t.origin, t.gid, t.k, t.arg, t.handle, x.p, x.ranks, [], [], s.ts.epoch, t.time⟩
      let s := setJob j { x with seq := q, overrun := false } s
      let s := count (jobCtr j 0) { s with cv := { s.cv with insts := s.cv.insts ++ [i] } }
      (true, makeReady j i.seq s)

/-- A release of instant k starts every graph bound to its group; a graph that starts nothing frees its hold (07 R229). -/
def startBound (gid k : Nat) (t : Int) (s : State) : State :=
  (boundJobs s gid).foldl (fun s j =>
    let (ok, s) := startInst j ⟨0, gid, k, 0, none, t⟩ s
    if ok then s else freeJobHold gid k s) s

/-- DOZE discards every instance, counted in CV_ABORT without notice (07 R256). -/
def discardInsts (s : State) : State :=
  s.cv.insts.foldl (fun s i =>
    let s := finishRun i 0x60 (freeInstHold i (dropInst i s))
    count 0x107020 s) s

/-! ### The dispatch decision (07 R233, R234, R240) -/

/-- The item is first in its flow: no node of its flow comes before it in (instance, rank), nor is one left of an instance of
another graph that the flow served before a CFG.COMMIT (07 R233, R256). -/
def flowFirst (s : State) (it : Item) : Bool :=
  let older := s.cv.insts.takeWhile (fun i => !(i.job == it.job && i.seq == it.seq))
  let open' := fun (i : Inst) (d : NodeP) => d.flow == it.d.flow && !i.committed.contains d.node
  match getInst s it.job it.seq with
  | none => true
  | some i =>
    !(older.any (fun o => o.p.nodes.any (open' o))) &&
    !(i.p.nodes.any (fun d => open' i d && tget 0 i.ranks d.node < tget 0 i.ranks it.node))

/-- The item is queued and eligible. -/
def eligible (s : State) (it : Item) : Bool := it.st == .queued && flowFirst s it

/-- The head of a level: its eligible item that entered first. -/
def headAt (s : State) (lvl : Nat) : Option Item := s.cv.items.find? (fun it => it.level == lvl && eligible s it)

/-- A level with an eligible item. -/
def nonempty (s : State) (lvl : Nat) : Bool := (headAt s lvl).isSome

/-- Levels 11 down to 0. -/
def lowLevels : List Nat := (List.range 12).reverse

/-- next_nonurgent() of 07 R234. -/
def nextNonurgent (s : State) : Option Item :=
  match lowLevels.findSome? (fun l => if 0 < s.cv.deficits.getD l 0 then headAt s l else none) with
  | some it => some it
  | none => lowLevels.findSome? (headAt s)

/-- Engines held by items of levels 0 to 11. -/
def nonurgentHeld (s : State) : Nat := listSum ((s.cv.items.filter (fun it => it.held && it.level < 12)).map (·.d.gang))

/-- Engines held by urgent items. -/
def urgentHeld (s : State) : Nat := listSum ((s.cv.items.filter (fun it => it.held && 12 ≤ it.level)).map (·.d.gang))

/-- choose() of 07 R234. -/
def chooseItem (s : State) : Option Item :=
  match [15, 14, 13, 12].findSome? (headAt s) with
  | some it => some it
  | none => match nextNonurgent s with
    | none => none
    | some it => if inService s < nonurgentHeld s + it.d.gang + s.cv.reserve then none else some it

/-- Every resource of Table 7-3 the item needs is free (07 R240). -/
def canTake (s : State) (it : Item) : Bool :=
  it.pages ≤ scratchFree s && it.d.gang ≤ (enginesIn s .idle).length &&
  (it.d.crypto == 0 || !(s.cv.items.any (fun x => x.held && x.d.crypto == 1)))

/-- The released set an instance of a release reads at a dispatch; none when cells of it were reclaimed, ERG_RECLAIM counting
them: an uncorrectable input (06 R203, R223, 07 R247). -/
def readInput (i : Inst) (s : State) : Option Instant × State :=
  match getInstant s i.gid i.k with
  | some x =>
    let (x', s) := readMembers x.members x s
    (if x.reclaimed.isEmpty then some x' else none, s)
  | none => (none, s)

/-- What a stage takes along at its dispatch: forced branches, the factor in force, a slow update's data (08 R276, R287,
09 R305). -/
def stageStart (i : Option Inst) (it : Item) (s : State) : State :=
  match i with
  | none => s
  | some i =>
    let s := if it.reissue then s
      else updItem it.id (fun x => { x with forces := if it.d.stage == 1 then s.ts.forces else [],
                                            fac := if it.d.stage == 3 then some (factorAt s i.epoch) else none }) s
    if i.job == s.sc.p.slowJob then startSlow it.node (trigSecond i) s else s

/-- The words an engine loads of the cells it reads at dispatch: the 22 words of each cell, in member order, from local word 0 on
(07 R246). Where a program keeps them is Twiagil's: DESIGN CHOICE (log 80). -/
def loadedWords (input : Option Instant) : Tbl Nat :=
  match input with
  | none => []
  | some i =>
    let ws := i.members.flatMap (fun m => ((tfind i.cells m).map (cellWords i.p.gid i.k m)).getD [])
    ((List.range 32768).zip ws).filter (fun e => e.2 != 0)

/-- An engine takes up an item (07 R246). -/
def loadEngine (words : Tbl Nat) (n : Nat) (s : State) : State := updEngine n (fun e => { e with st := .running, lmem := words }) s

/-- The chosen item takes its resources and runs (07 R240, R249). -/
def takeService (it : Item) (input : Option Instant) (s : State) : State :=
  let es := (enginesIn s .idle).take it.d.gang
  let s := es.foldl (fun s n => loadEngine (loadedWords input) n s) s
  let n := s.cv.decisions + 1
  let s := { s with cv := { s.cv with decisions := n } }
  let s := updItem it.id (fun x => { x with st := .running es s.tm.frc s.tm.frc, disp := n, dispLevel := x.level, ckpts := 0, tq := s.tm.tq.code, input := input }) s
  let i := getInst s it.job it.seq
  let s := match i.bind (·.handle) with
    | some h => updOp h (fun o => { o with phase := .committed }) s
    | none => s
  count 0x107000 (stageStart i it s)

/-- An item is dispatched, unless its cells were reclaimed: its instance is then aborted (06 R203, 07 R247). A reissued item
loads its inputs from its checkpoint and reads no cell again (07 R249, R252). -/
def dispatchItem (it : Item) (s : State) : State :=
  match getInst s it.job it.seq with
  | none => takeService it none s
  | some i =>
    if i.origin != 0 then takeService it none s
    else if it.reissue then takeService it it.input s
    else match readInput i s with
      | (some x, s) => takeService it (some x) s
      | (none, s) => abortInst i it.node 3 s

/-- DISPATCH_DECISION (07 R234). -/
def execDispatchDecision (s : State) : Host.Outcome State Fault Refusal :=
  .next (if !cvRuns s then s
    else match chooseItem s with
      | some it => if canTake s it then dispatchItem it s else s
      | none => s)

/-! ### Aging, delays, shares, checkpoints and budgets -/

/-- ITEM_AGING (07 R237): the first eligible item of the level whose wait has lasted AGE_TICKS moves up. -/
def execItemAging (level : Nat) (s : State) : Host.Outcome State Fault Refusal :=
  let a := s.cv.ages.getD level 0
  .next (if !cvRuns s || a == 0 || 11 ≤ level || s.cv.ageCeil ≤ level then s
    else match s.cv.items.find? (fun it => it.level == level && eligible s it && a ≤ (tickCount s + 2 ^ 32 - it.enqTick) % 2 ^ 32) with
      | some it => count 0x107008 (queueAt (level + 1) it.id s)
      | none => s)

/-- Delayed items in due order, the ones due at `t`. -/
def dueItems (s : State) (t : Int) : List Item :=
  let l := s.cv.items.filterMap (fun it => match it.st with
    | .delayed d => if d ≤ t then some (d, it) else none
    | _ => none)
  (sortBy (fun a b => a.1 < b.1) l).map (·.2)

/-- DELAY_EXPIRY (07 R239): the earliest due entry expires, at most 64 a tick. -/
def execDelayExpiry (s : State) : Host.Outcome State Fault Refusal :=
  .next (if !cvRuns s || 64 ≤ s.cv.expired then s
    else match dueItems s s.tm.tick with
      | it :: _ => queueAt it.d.level it.id { s with cv := { s.cv with expired := s.cv.expired + 1 } }
      | [] => s)

/-- on_tick() of 07 R236, and the entries that a tick carries over (07 R239). -/
def caravanTick (s : State) : State :=
  let en : Int := (inService s : Int) - s.cv.reserve
  let ds := (List.range 12).map (fun l =>
    let d := s.cv.deficits.getD l 0
    let sh : Int := s.cv.shares.getD l 0
    if nonempty s l then max (-(2 ^ 31)) (min (d + sh * en) (sh * en * 64)) else if 0 < d then 0 else d)
  let carry := (dueItems s s.tm.tick).length - 64
  countN 0x107030 carry { s with cv := { s.cv with deficits := ds, expired := 0 } }

/-- The checkpoints of a running item up to now: an engine writes one at least every CKPT_US of run time, so those that fell due
since the last one stand (07 R249). -/
def Item.checkpointed (it : Item) (frc ckptUs : Nat) : Item :=
  match it.st with
  | .running e since ckpt =>
    let n := (frc - ckpt) / max 1 (countsOfUs ckptUs)
    { it with st := .running e since (ckpt + n * countsOfUs ckptUs), ckpts := it.ckpts + n }
  | _ => it

/-- CHECKPOINT_WRITE (07 R249): into the alternate half of the item's scratch pages. -/
def execCheckpointWrite (item : Nat) (s : State) : Host.Outcome State Fault Refusal :=
  .next (if !cvRuns s then s
    else updItem item (fun it =>
      let it := it.checkpointed s.tm.frc s.cv.ckptUs
      match it.st with
      | .running e since _ => { it with st := .running e since s.tm.frc, ckpts := it.ckpts + 1 }
      | _ => it) s)

/-- FRC counts of an item's run that no fault rolled back (07 R243). -/
def Item.budgetCounts (it : Item) (frc : Nat) : Nat :=
  match it.st with
  | .running _ since _ => it.kept + (frc - since)
  | _ => it.kept

/-- The refactorization ends without a factor: commands that wait for it end with a status, the pending one starts. -/
def failRefac (status : Nat) (s : State) : State :=
  match s.ts.refac with
  | none => s
  | some r =>
    let next := s.ts.refacNext
    let s := { s with ts := { s.ts with refac := none, refacNext := none } }
    let s := refacDone r.handles status s
    match next with
    | some n => startRefac n s
    | none => s

/-- The item is a solve node whose BUDGET_NS is at least SOLVE_WCET: it never ends under R243 (08 R286). -/
def solveExempt (it : Item) (i : Option Inst) (s : State) : Bool :=
  it.d.stage == 3 && (match i.bind (fun i => modelOf s i.epoch) with | some m => m.solveWcet ≤ it.d.budgetNs | none => false)

/-- BUDGET_OVER (07 R243): an item that has run 2 x BUDGET_NS is stopped and its instance aborted. -/
def execBudgetOver (item : Nat) (s : State) : Host.Outcome State Fault Refusal :=
  .next (match getItem s item with
    | none => s
    | some it =>
      if !cvRuns s || !it.held || it.budgetCounts s.tm.frc * 256 < 200 * it.d.budgetNs ||
          solveExempt it (getInst s it.job it.seq) s then s
      else
        let s := count 0x107028 s
        match getInst s it.job it.seq with
        | some i => abortInst i it.node 1 s
        | none => failRefac 0x60 (dropItem it.id (stopItem it s)))

end Sys2Proof.Machine
end

