-- ==== Sys2Proof/Machine/Transmit.lean ====
section
/-! DEFINITION. The transmit side of the ports (chapter 03): queues, gates, MACsec on transmit, and frames to PRP pairs. -/

namespace Sys2Proof.Machine

/-- Port `p`. -/
def getPort (s : State) (p : Nat) : Port := tget Port.reset s.np.ports p

/-- Port `p` changed. -/
def updPort (p : Nat) (f : Port → Port) (s : State) : State :=
  { s with np := { s.np with ports := tset s.np.ports p (f (getPort s p)) } }

/-- BAR2 address of a port counter (03 R116). -/
def portCtr (p off : Nat) : Nat := 0x100000 + 0x400 * p + off

/-- Pair `n` (03 R93). -/
def getPrp (s : State) (n : Nat) : Prp := tget Prp.reset s.np.prp n

/-- Pair `n` changed. -/
def updPrp (n : Nat) (f : Prp → Prp) (s : State) : State :=
  { s with np := { s.np with prp := tset s.np.prp n (f (getPrp s n)) } }

/-- The enabled pair a port belongs to (03 R93). -/
def pairOf (s : State) (p : Nat) : Option Nat := if p < 4 && (getPrp s (p / 2)).en then some (p / 2) else none

/-- The ports run: their domain is on, and not in FROZEN or BOOT (03 R118, R119). -/
def portsRun (s : State) : Bool :=
  s.pm.domPorts && s.pm.mode != .frozen && s.pm.mode != .boot && s.pm.mode != .doze && !hsStopped 6 s

/-- Time of a byte on the line, 0.01 ns (03 Table 3-1). -/
def byteTime (line : Nat) : Nat := if line == 1 then 80 else if line == 2 || line == 3 then 32 else 800

/-- Wire time of a frame of length `len` on the port, 0.01 ns (03 R106). -/
def wireTime (line len : Nat) : Nat := (len + 20) * byteTime line

/-! ### Gates (03 R105 to R108) -/

/-- The cycle time in ns. -/
def cycleNs (g : GateP) : Rat := mkRat (g.num * 1000000000 : Nat) g.den

/-- A device time in 2^-40 ns as ns. -/
def ratNs (t : Int) : Rat := mkRat t (2 ^ 40)

/-- The cycle that holds a time, counted from BASE_TIME; negative before it. -/
def cycleAt (g : GateP) (t : Rat) : Int := ((t - (DT80.toNs g.base : Rat)) / cycleNs g).floor

/-- The effective entries of a cycle: mask and length in ns, cut at the end of the cycle, the last one lasting to it. -/
def gateParts (g : GateP) : List (Nat × Rat) :=
  let rec go (left : Rat) : List GateEntry → List (Nat × Rat)
    | [] => []
    | [e] => if 0 < left then [(e.mask, left)] else []
    | e :: rest => if left ≤ 0 then [] else
        let d : Rat := if (e.ns : Rat) < left then e.ns else left
        (e.mask, d) :: go (left - d) rest
  go (cycleNs g) g.entries

/-- The entry in force at `ofs` into the cycle: its number, and what is left of it. -/
def partAt (parts : List (Nat × Rat)) (ofs : Rat) : Nat × Rat :=
  let rec go (i : Nat) (ofs : Rat) : List (Nat × Rat) → Nat × Rat
    | [] => (i - 1, 0)
    | (_, d) :: rest => if ofs < d then (i, d - ofs) else go (i + 1) (ofs - d) rest
  go 0 ofs parts

/-- Time the gate of queue `q` stays open from the start of a list of parts; `none` when it does not close in them. -/
def openRun (q : Nat) : List (Nat × Rat) → Option Rat
  | [] => none
  | (m, d) :: rest => if bit m q then (openRun q rest).map (d + ·) else some 0

/-- Time until the gate of queue `q` next closes at `ofs` into the cycle: 0 when it is closed, `none` when it never
closes. -/
def untilClose (g : GateP) (q : Nat) (ofs : Rat) : Option Rat :=
  let parts := gateParts g
  let (i, left) := partAt parts ofs
  match parts[i]? with
  | none => none
  | some (m, _) => if !bit m q then some 0 else (openRun q (parts.drop (i + 1) ++ parts.take i)).map (left + ·)

/-- The longest window of queue `q`; `none` when its gate never closes. -/
def longestWindow (g : GateP) (q : Nat) : Option Rat :=
  let parts := gateParts g
  (List.range parts.length).foldl (fun acc i =>
    match acc with
    | none => none
    | some x => (openRun q (parts.drop i ++ parts.take i)).map (fun y => if x < y then y else x)) (some 0)

/-- A wire time in 0.01 ns as ns. -/
def fineNs (x : Nat) : Rat := mkRat x 100

/-- A frame fits some window of its queue in the operative list (03 R106). -/
def fitsGate (t : Port) (q len : Nat) : Bool :=
  match t.gate with
  | none => true
  | some g => match longestWindow g q with
    | none => true
    | some w => fineNs (wireTime t.line len) ≤ w

/-- A frame of queue `q` may start now: it leaves, gap included, before the gate next closes (03 R106, R108). -/
def mayStart (s : State) (t : Port) (q len : Nat) : Bool :=
  match t.gate with
  | none => true
  | some g =>
    let now := ratNs (busTime s)
    let ofs := now - (DT80.toNs g.base : Rat) - (cycleAt g now : Rat) * cycleNs g
    match untilClose g q ofs with
    | none => true
    | some w => fineNs (wireTime t.line len) ≤ w

/-- The operative cycle count and entry in force as device time gives them (03 R105, R108). -/
def gateNow (s : State) (t : Port) : Port :=
  match t.gate with
  | none => t
  | some g =>
    let now := ratNs (busTime s)
    let k := cycleAt g now
    { t with gateCycle := k.toNat, gateEntry := (partAt (gateParts g) (now - (DT80.toNs g.base : Rat) - (k : Rat) * cycleNs g)).1 }

/-- GATE_BOUNDARY (03 R105). -/
def execGateBoundary (port : Nat) (s : State) : Host.Outcome State Fault Refusal :=
  .next (if port < 4 && portsRun s then updPort port (gateNow s) s else s)

/-- Device time in ns at which a pending list becomes operative: the first cycle start of the new list at or after
BASE_TIME and 10 us after its load (03 R107). -/
def operativeAt (g : GateP) (load : Int) : Rat :=
  let base : Rat := DT80.toNs g.base
  let from' : Rat := mkRat load (2 ^ 16) + 10000
  if from' ≤ base then base else base + (((from' - base) / cycleNs g).ceil : Rat) * cycleNs g

/-- A list of the port becomes operative: the old one is cut, GATE_OPERATIVE (03 R107). -/
def putGate (port : Nat) (g : GateP) (s : State) : State :=
  note s.np.nq 1 0x08 0 port (updPort port (fun t => gateNow s { t with gate := some g }) s)

/-- The list that PORT.GATE_LOAD left pending becomes operative, and its command ends DONE. -/
def operatePending (port : Nat) (g : GateP) (h : Nat) (s : State) : State :=
  let s := putGate port g (updPort port (fun t => { t with gatePend := none }) s)
  match findOp s h with
  | some o => finalCompletion o 0 [] s
  | none => s

/-- A waiting list is due. -/
def gateDue (s : State) (g : GateP) (load : Int) : Bool := decide (operativeAt g load ≤ ratNs (busTime s))

/-- GATE_OPERATIVE (03 R107): a due list of the port becomes operative, the one that CFG.COMMIT loaded after that of an earlier
PORT.GATE_LOAD. -/
def execGateOperative (port : Nat) (s : State) : Host.Outcome State Fault Refusal :=
  .next (
    let t := getPort s port
    if !portsRun s then s
    else match t.gatePend.filter (fun x => gateDue s x.1 x.2.2), t.gateNext.filter (fun x => gateDue s x.1 x.2) with
      | some (g, h, _), _ => operatePending port g h s
      | none, some (g, _) => putGate port g (updPort port (fun t => { t with gateNext := none }) s)
      | none, none => s)

/-- A list waits for its cycle start on the port. -/
def gateWaits (t : Port) : Bool := t.gatePend.isSome || t.gateNext.isSome

/-- After a time step each port with an operative list takes the entry that holds the new time (03 R108). -/
def realignGates (s : State) : State :=
  (List.range 4).foldl (fun s p =>
    if (getPort s p).gate.isSome && portsRun s then note s.np.nq 1 0x09 1 p (updPort p (gateNow s) s) else s) s

/-! ### Offering frames (03 R104, R106, R109, R96) -/

/-- A frame of this kind is protected by MACsec: publish frames (0), host frames (2) but those marked CLEAR or of EAPOL or PTP
(3), PRP supervision (4), and not PTP of TM (5) (03 R101). -/
def isProtected (kind : Nat) : Bool := kind == 0 || kind == 2 || kind == 4

/-- Length on a port of a frame of kind `kind`: RCT, SecTAG with SCI and ICV included (03 R106). -/
def lenOnPort (t : Port) (kind len : Nat) (rct : Bool) : Nat :=
  len + (if rct then 6 else 0) + (if t.macsecEn && isProtected kind then 32 else 0)

/-- A frame is offered to queue `q` of a port; `len` is its length on the port. -/
def offerFrame (p q : Nat) (x : TxFrame) (s : State) : State :=
  let t := getPort s p
  if !portsRun s || !t.linkUp then count (portCtr p 0xD8) s
  else if t.maxlen < x.len then count (portCtr p 0xD0) s
  else if !fitsGate t q x.len then count (portCtr p 0xC8) s
  else updPort p (fun t => { t with queues := tset t.queues q (tget [] t.queues q ++ [x]) }) s

/-- A frame goes to one port, without RCT. -/
def sendPort (p q kind len : Nat) (words : List Nat) (s : State) : State :=
  offerFrame p q ⟨kind, lenOnPort (getPort s p) kind len false, words⟩ s

/-- A frame goes to both ports of a pair with an RCT: the pair's SeqNr, LanId 0xA and 0xB (03 R96). -/
def sendPair (n q kind len : Nat) (words : List Nat) (s : State) : State :=
  let seq := (getPrp s n).seqNr
  let s := updPrp n (fun x => { x with seqNr := (seq + 1) % 2 ^ 16 }) s
  let lan := fun (p id : Nat) (s : State) => offerFrame p q ⟨kind, lenOnPort (getPort s p) kind len true, words ++ [seq, id]⟩ s
  lan (2 * n + 1) 0xB (lan (2 * n) 0xA s)

/-- A frame goes to a port, or to both ports of its enabled pair. -/
def sendAny (p q kind len : Nat) (words : List Nat) (s : State) : State :=
  match pairOf s p with
  | some n => sendPair n q kind len words s
  | none => sendPort p q kind len words s

/-! ### Starting a frame (03 R103, R104) -/

/-- The first packet number a cipher cannot use (03 R103). -/
def pnEnd (cipher : Nat) : Nat := if cipher == 1 then 2 ^ 64 else 2 ^ 32

/-- A transmit SA that can protect a frame. -/
def saUsable (t : Port) (an : Nat) : Bool :=
  match tfind t.txSa an with
  | some a => !a.disabled && a.pn < pnEnd a.cipher
  | none => false

/-- One packet number of the active SA is used; reaching PN_THRESH queues SA_PN_THRESH once (03 R103). -/
def usePn (p : Nat) (s : State) : State :=
  let t := getPort s p
  match tfind t.txSa t.activeAn with
  | none => s
  | some a =>
    let pn := a.pn + 1
    let hit := t.pnThresh ≤ pn && !a.noted
    let s := updPort p (fun t => { t with txSa := tset t.txSa t.activeAn { a with pn := pn, noted := a.noted || hit } }) s
    if hit then note s.np.nq 1 0x05 1 (fld p 8 8 + t.activeAn) s else s

/-- A port whose active SA is exhausted changes to an installed NEXT_AN at a frame boundary (03 R103). -/
def rollSa (p : Nat) (s : State) : State :=
  let t := getPort s p
  match tfind t.txSa t.activeAn with
  | some a => if pnEnd a.cipher ≤ a.pn && saUsable t t.nextAn then updPort p (fun t => { t with activeAn := t.nextAn }) s else s
  | none => s

/-- A protected frame without a usable SA is discarded: NP_TX_PN_EXHAUSTED and SA_EXHAUSTED when its packet numbers have
run out, else as a frame with no SA (03 R100, R103). -/
def dropUnprotected (p : Nat) (s : State) : State :=
  let t := getPort s p
  match tfind t.txSa t.activeAn with
  | some a =>
    if a.disabled then count (portCtr p 0xA8) s
    else
      let s := count (portCtr p 0xE0) s
      if a.ended then s
      else
        let s := updPort p (fun t => { t with txSa := tset t.txSa t.activeAn { a with ended := true } }) s
        note s.np.nq 1 0x06 2 (fld p 8 8 + t.activeAn) s
  | none => count (portCtr p 0xA8) s

/-- The departure stamp of a frame that starts now, 2^-16 ns: the time bus refined by `sub` steps of 0.32 ns, corrected by the
line mode's built-in latency and TM_LAT_TX (04 R130). -/
def departStamp (s : State) (p sub : Nat) : Int :=
  stampAt ⟨0, sub⟩ s + Config.lineLatency (getPort s p).line true + (tget (0, 0) s.tm.lat p).2 * 2 ^ 8

/-- Ones' complement sum of 16-bit words, as UDP adds its checksum. -/
def onesSum (l : List Nat) : Nat := l.foldl (fun a w => (a + w) % 2 ^ 16 + (a + w) / 2 ^ 16) 0

/-- The 16-bit words of a big-endian field of `n` words. -/
def wordsBe : Nat → Nat → List Nat
  | 0, _ => []
  | n + 1, v => v / 2 ^ (16 * n) % 2 ^ 16 :: wordsBe n v

/-- What follows a PTP message whose fields `written` were written at departure: nothing on Ethernet, UDP checksum 0 over IPv4,
over IPv6 the two octets that keep the checksum right (04 R131). -/
def udpFix (transport : Nat) (written : List Nat) : List Nat :=
  if transport == 1 then [0] else if transport == 2 then [0xFFFF - onesSum written] else []

/-- What a PTP frame (kind 5; transport, messageType, version, domain, flags first) carries as it departs at `t`: Sync (0) and
Delay_Req (1) the originTimestamp, Pdelay_Resp (3) in its correctionField the residence time in 2^-16 ns (04 R131). -/
def departWords (t : Int) (x : TxFrame) : List Nat :=
  if x.kind != 5 then x.words
  else match x.words with
    | u :: 3 :: v :: d :: f :: i :: rest =>
      let c := twosComp 64 (t - i)
      u :: 3 :: v :: d :: f :: c :: rest ++ udpFix u (wordsBe 4 c)
    | u :: m :: v :: d :: f :: rest =>
      if m ≤ 1 then
        let o := dt80Of t
        u :: m :: v :: d :: f :: o.sec :: o.ns :: rest ++ udpFix u (wordsBe 3 o.sec ++ wordsBe 2 o.ns)
      else x.words ++ udpFix u []
    | l => l

/-- The frame goes on the wire, under MACsec with the SecTAG `sec`. -/
def putOnWire (p q sub : Nat) (x : TxFrame) (sec : List Nat) (s : State) : State :=
  let s := updPort p (fun t => { t with txUntil := fineTime s + wireTime t.line x.len }) s
  emit (.txFrame x.kind p q x.len (departWords (departStamp s p sub) x) sec) (countN (portCtr p 0xC0) x.len (count (portCtr p 0xB8) s))

/-- The SecTAG of the next protected frame (03 R99): SCI, the port's address and its port identifier; AN; the packet number's
low 32 bits; 1 when the SA encrypts. -/
def secTag (t : Port) : List Nat :=
  match tfind t.txSa t.activeAn with
  | some a => [t.mac * 2 ^ 16 + t.sciPort, t.activeAn, a.pn % 2 ^ 32, a.conf]
  | none => []

/-- The queue that sends first: the highest-numbered whose head may start (03 R104). -/
def sendingQueue (s : State) (p : Nat) : Option Nat :=
  let t := getPort s p
  [7, 6, 5, 4, 3, 2, 1, 0].find? (fun q => match tget [] t.queues q with
    | x :: _ => mayStart s t q x.len
    | [] => false)

/-- The head frame of queue `q` leaves it and starts. -/
def startFrame (p q sub : Nat) (s : State) : State :=
  match tget [] (getPort s p).queues q with
  | [] => s
  | x :: rest =>
    let s := updPort p (fun t => { t with queues := tset t.queues q rest }) s
    if (getPort s p).macsecEn && isProtected x.kind then
      let s := rollSa p s
      if saUsable (getPort s p) (getPort s p).activeAn then putOnWire p q sub x (secTag (getPort s p)) (usePn p s)
      else dropUnprotected p s
    else putOnWire p q sub x [] s

/-- TX_FRAME_START (03 R104). -/
def execTxFrameStart (port : Nat) (q : FrameStart) (s : State) : Host.Outcome State Fault Refusal :=
  .next (if 5 ≤ port || !portsRun s || !(getPort s port).linkUp || fineTime s < (getPort s port).txUntil then s
    else if sendingQueue s port == some q.queue then startFrame port q.queue q.sub s else s)

/-- FRC counts of a span of milliseconds. -/
def countsOfMs (ms : Nat) : Nat := countsOfUs (ms * 1000)

/-- PRP_SUPERVISION_TX (03 R96): every SUP_INTERVAL_MS on both LANs. -/
def execPrpSupervisionTx (pair : Nat) (s : State) : Host.Outcome State Fault Refusal :=
  .next (
    let x := getPrp s pair
    if 2 ≤ pair || !portsRun s || !x.en || s.tm.frc < x.supAt + countsOfMs x.supMs then s
    else sendPair pair 0 4 64 [0x01154E000100] (updPrp pair (fun x => { x with supAt := s.tm.frc }) s))

end Sys2Proof.Machine
end

