-- ==== Sys2Proof/Machine/Publish.lean ====
section
/-! DEFINITION. The publisher (06 R212 to R214): C37.118 combined frames byte by byte, Routable-SV frames as their fields. -/

namespace Sys2Proof.Machine

/-- One byte enters the CRC-CCITT of IEEE C37.118.2. -/
def crcByte (crc b : Nat) : Nat :=
  (List.range 8).foldl (fun c _ => if 2 ^ 15 ≤ c then (c * 2 % 2 ^ 16) ^^^ 0x1021 else c * 2) (crc ^^^ (b * 256))

/-- CHK of a C37.118 frame. -/
def chkOf (bs : List Nat) : Nat := bs.foldl crcByte 0xFFFF

/-- The NaN a published float carries: any NaN code. -/
def nanCode : Nat := 0x7F800000 + (1 + Config.nan % (2 ^ 23 - 1)) + fld (Config.nan / 2 ^ 23) 31 1

/-- `code` of an 18-bit format of full scale `fs`, in engineering units (06 Table 6-7). -/
def engValue (code : Int) (fs : Rat) : Rat := (code : Rat) * fs / 131072

/-- value / FACTOR rounded, saturated to `lo`..`hi`; with a FACTOR of zero, NaN or infinity no rule gives a result. -/
def overFactor (v : Rat) (factor : Nat) (lo hi : Int) : Int :=
  if isNaN factor || isInf factor || ratOfFloat factor == 0 then (Config.overZero : Int) else clampInt lo hi (roundRat (v / ratOfFloat factor))

/-- Magnitude of (a, b) as a fraction exact to 2^-64. -/
def magRat (a b : Int) : Rat := mkRat (isqrt ((a.natAbs * a.natAbs + b.natAbs * b.natAbs) * 2 ^ 128) : Nat) (2 ^ 64)

/-- Angle of (a, b) in rad, exact to 2^-63. -/
def angleRad (a b : Int) : Rat := mkRat (angleOf a b * (twoPi : Int)) (2 ^ 192)

/-- A phasor of a member: FORMAT_WORD [0] polar, [1] float (06 Table 6-7). -/
def pubPhasor (fw : Nat) (fs : Rat) (factor : Nat) (x : Option CellChan) : List Nat :=
  match x with
  | none => if bit fw 1 then beBytes 4 nanCode ++ beBytes 4 nanCode else beBytes 2 0x8000 ++ beBytes 2 0x8000
  | some x =>
    if bit fw 1 then
      if bit fw 0 then
        beBytes 4 (floatOfRat (magRat x.a x.b * fs / 131072)) ++ beBytes 4 (floatOfRat (angleRad x.a x.b))
      else beBytes 4 (floatOfRat (engValue x.a fs)) ++ beBytes 4 (floatOfRat (engValue x.b fs))
    else if bit fw 0 then
      beBytes 2 (twosComp 16 (overFactor (magRat x.a x.b * fs / 131072) factor 0 65535)) ++
      beBytes 2 (twosComp 16 (satCode 16 (angleRad x.a x.b * 10000)))
    else
      beBytes 2 (twosComp 16 (overFactor (engValue x.a fs) factor (-32768) 32767)) ++
      beBytes 2 (twosComp 16 (overFactor (engValue x.b fs) factor (-32768) 32767))

/-- Frequency and ROCOF of a member: FORMAT_WORD [3] float. -/
def pubFreq (fw fnom : Nat) (f r : Option CellChan) : List Nat :=
  if bit fw 3 then
    (match f with | none => beBytes 4 nanCode | some x => beBytes 4 (floatOfRat ((fnom : Rat) + mkRat x.a 4000))) ++
    (match r with | none => beBytes 4 nanCode | some x => beBytes 4 (floatOfRat (mkRat x.a 1000)))
  else
    (match f with | none => beBytes 2 0x8000 | some x => beBytes 2 (twosComp 16 (satCode 16 (mkRat x.a 4)))) ++
    (match r with | none => beBytes 2 0x8000 | some x => beBytes 2 (twosComp 16 (satCode 16 (mkRat x.a 10))))

/-- An analog of a member: FORMAT_WORD [2] float. -/
def pubAnalog (fw : Nat) (fs : Rat) (factor : Nat) (x : Option CellChan) : List Nat :=
  if bit fw 2 then (match x with | none => beBytes 4 nanCode | some x => beBytes 4 (floatOfRat (engValue x.a fs)))
  else match x with
    | none => beBytes 2 0x8000
    | some x => beBytes 2 (twosComp 16 (overFactor (engValue x.a fs) factor (-32768) 32767))

/-- A digital word of a member. -/
def pubDigital (x : Option CellChan) : List Nat := match x with | none => beBytes 2 0x8000 | some x => beBytes 2 (twosComp 16 x.a)

/-- The phasor, frequency, ROCOF, analog and digital channels of a stream's layout (05 Table 5-13, 01 Table 1-1). -/
def layoutOf (p : StreamP) : List Nat :=
  if p.proto == 0 && p.sid < 16376 then
    List.range (popcount 64 p.phSel) ++ [32, 33] ++ (List.range (popcount 16 p.anSel)).map (34 + ·) ++
    (List.range (popcount 8 p.dgSel)).map (42 + ·)
  else (List.range 46).filter (fun ch => (p.memberMap.any (fun m => bit m 7 && m % 64 == ch)))

/-- STAT of a member (06 Table 6-7). -/
def pubStat (amend : Bool) (c : Option Cell) : Nat :=
  match c with
  | none => 0x8000 + (if amend then 0x200 else 0)
  | some c => if amend then c.stat ||| 0x200 else c.stat

/-- One PMU block (06 R213). -/
def pubBlock (s : State) (fw : Nat) (amend : Bool) (p : Option StreamP) (c : Option Cell) : List Nat :=
  let ch := fun n => c.bind (fun c => c.chan n)
  let lay := (p.map layoutOf).getD []
  let fs := fun n => ((p.map (fun p => streamScale s p.sid n)).getD 0)
  let fac := fun n => ((p.map (fun p => if n < 32 then p.phFactor.getD n 0 else p.anFactor.getD (n - 34) 0)).getD 0)
  beBytes 2 (pubStat amend c) ++
  (lay.filter (· < 32)).flatMap (fun n => pubPhasor fw (fs n) (fac n) (ch n)) ++
  pubFreq fw ((p.map (·.fnom)).getD 50) (ch 32) (ch 33) ++
  (lay.filter (fun n => 34 ≤ n && n < 42)).flatMap (fun n => pubAnalog fw (fs n) (fac n) (ch n)) ++
  (lay.filter (42 ≤ ·)).flatMap (fun n => pubDigital (ch n))

/-- FRACSEC[27:24] by TQ (06 Table 6-7). -/
def pubTq (tq : Nat) : Nat :=
  if tq == 0 then 0x0 else if tq == 1 then 0x4 else if tq == 2 then 0x5 else if tq == 3 then 0x7
  else if tq == 4 || tq == 5 then 0xB else 0xF

/-- t_k in ns, exact (06 R195). -/
def tkNs (p : GroupP) (k : Nat) : Rat := (DT80.toNs p.epoch : Rat) + mkRat (k * 1000000000 : Nat) p.rate

/-- The time quality bits FRACSEC[31:24] of t_k (06 Table 6-7). -/
def pubQuality (s : State) (tq : Nat) : Nat :=
  let leap := s.tm.leap != 0
  fld (b2n (leap && s.tm.leap == 2)) 6 1 + fld (b2n leap) 4 1 + pubTq tq

/-- The stream a member names. -/
def streamP (s : State) (sid : Nat) : Option StreamP := (tfind s.si.streams sid).map (·.p)

/-- A C37.118 combined data frame (06 R213). -/
def c37Frame (s : State) (x : SessionP) (i : Instant) (ms : List Nat) (cells : Tbl Cell) (amend : Bool) : List Nat :=
  let t := tkNs i.p i.k
  let sec := (t / 1000000000).floor
  let frac := ((t - (sec : Rat) * 1000000000) * (x.timeBase : Rat) / 1000000000).floor
  let body := beBytes 2 x.idcode ++ beBytes 4 (twosComp 32 (sec - s.tm.utcOfs)) ++ [pubQuality s i.relTq] ++
    beBytes 3 frac.toNat ++ ms.flatMap (fun m => pubBlock s x.formatWord amend (streamP s m) (tfind cells m))
  let frame := beBytes 2 (if x.version2 then 0xAA02 else 0xAA01) ++ beBytes 2 (body.length + 6) ++ body
  frame ++ beBytes 2 (chkOf frame)

/-- A value and its quality as FLOAT32 and a 32-bit quality, in network order (06 R214, 00 R5). -/
def rsvValue (code quality : Nat) : List Nat := beBytes 4 code ++ beBytes 4 quality

/-- The dataset of an R-SV frame: for each channel of the valid layout its FLOAT32 and its quality, validity invalid where the
channel is (06 R214); a phasor has two values. -/
def rsvData (s : State) (m : Nat) (c : Option Cell) : List Nat :=
  match streamP s m with
  | none => []
  | some p => (layoutOf p).flatMap (fun n =>
      let fs := streamScale s m n
      match c.bind (fun c => c.chan n) with
      | none => if n < 32 then rsvValue 0 1 ++ rsvValue 0 1 else rsvValue 0 1
      | some v =>
        if n < 32 then rsvValue (floatOfRat (engValue v.a fs)) 0 ++ rsvValue (floatOfRat (engValue v.b fs)) 0
        else if n == 32 then rsvValue (floatOfRat ((p.fnom : Rat) + mkRat v.a 4000)) 0
        else if n == 33 then rsvValue (floatOfRat (mkRat v.a 1000)) 0
        else if n < 42 then rsvValue (floatOfRat (engValue v.a fs)) 0
        else rsvValue (floatOfRat v.a) 0)

/-- TimeQuality of refrTm: [7] leap, [6] ClockFailure, [5] ClockNotSynchronized, TimeAccuracy (06 R214). -/
def rsvQuality (tq : Nat) : Nat :=
  fld (b2n (tq == 7 || tq == 5)) 6 1 + fld (b2n (2 ≤ tq)) 5 1 + (if tq == 0 then 23 else if tq == 1 then 19 else 31)

/-- The fields of an SPDU in network order (06 R214, 00 R5): SPDU number, key ID, svID, refrTm with its TimeQuality, dataset.
What R-SV puts around and between them has no contents in the manual: only its length (log 79). -/
def rsvBody (s : State) (x : SessionP) (spdu : Nat) (i : Instant) (ms : List Nat) (cells : Tbl Cell) : List Nat :=
  let t := tkNs i.p i.k
  let sec := (t / 1000000000).floor
  let frac := ((t - (sec : Rat) * 1000000000) * 2 ^ 24 / 1000000000).floor
  beBytes 4 spdu ++ beBytes 4 x.keyId ++ x.svid.take x.svidLen ++
  beBytes 4 (twosComp 32 (sec - s.tm.utcOfs)) ++ beBytes 3 frac.toNat ++ [rsvQuality i.relTq] ++
  ms.flatMap (fun m => rsvData s m (tfind cells m))

/-- The signature made under KEY_SLOT over an SPDU's fields: none for SIG 0, else 16 octets (06 R214). -/
def rsvSignature (s : State) (x : SessionP) (body : List Nat) : List Nat :=
  if x.sig == 0 then []
  else match getSlot s x.keySlot with
    | some k => beBytes 16 (Config.sealed k.material (x.sig :: body))
    | none => []

/-- The octets of an R-SV frame that the manual gives: the fields and the signature over them. -/
def rsvFields (s : State) (x : SessionP) (spdu : Nat) (i : Instant) (ms : List Nat) (cells : Tbl Cell) : List Nat :=
  let body := rsvBody s x spdu i ms cells
  body ++ rsvSignature s x body

/-- Ethernet, VLAN, IP and UDP headers and FCS around a payload, at least 64 bytes (06 R215, 03 R86). -/
def udpFrameLen (ipv6 vlan : Bool) (payload : Nat) : Nat :=
  max 64 (14 + (if vlan then 4 else 0) + (if ipv6 then 40 else 20) + 8 + payload + 4)

/-- Values of a member's R-SV dataset: each phasor has two. -/
def rsvValues (p : StreamP) : Nat := listSum ((layoutOf p).map (fun n => if n < 32 then 2 else 1))

/-- The payload of a session's frame for members `ms` of instant `i`: its length and its words. -/
def sessionPayload (s : State) (x : SessionP) (spdu : Nat) (i : Instant) (ms : List Nat) (cells : Tbl Cell)
    (amend : Bool) : Nat × List Nat :=
  if x.format == 0 then
    let bs := c37Frame s x i ms cells amend
    (bs.length, bs)
  else
    (Config.rsvOverhead x.svidLen x.sig + listSum (ms.map (fun m => 8 * ((streamP s m).map rsvValues).getD 0)),
     rsvFields s x spdu i ms cells)

/-- The addresses of a session's frame in network order (06 Table 6-6): destination MAC, VLAN TCI where it has a tag, DSCP, TTL or
hop limit, IP addresses (IPv4 as IPv4-mapped), UDP ports. -/
def sessionHead (x : SessionP) : List Nat :=
  beBytes 6 x.dstMac ++ (if x.vlan then beBytes 2 x.vlanTci else []) ++ [x.dscp % 64, x.ttl % 256] ++ beBytes 16 x.srcIp ++
  beBytes 16 x.dstIp ++ beBytes 2 x.srcUdp ++ beBytes 2 x.dstUdp

/-- A session's frame goes to its port or pair (06 R212). -/
def sendSession (x : SessionP) (len : Nat) (words : List Nat) (s : State) : State :=
  if x.target < 4 then sendPort x.target x.queue 0 len words s else sendPair (x.target - 4) x.queue 0 len words s

/-- Members of an instant's list that a session covers (06 R212). -/
def sessionMembers (x : SessionP) (members : List Nat) : List Nat := (members.drop x.first).take x.count

/-- One session publishes a set (06 R212). -/
def publishSession (n gid : Nat) (i : Instant) (cells : Tbl Cell) (amend : Bool) (s : State) : State :=
  match tfind s.erg.sessions n with
  | none => s
  | some x =>
    if x.keyRevoked || x.p.gid != gid then s
    else if (sessionMembers x.p i.members).isEmpty then count (grpCtr gid 0x78) s
    else
      let (len, words) := sessionPayload s x.p x.spdu i (sessionMembers x.p i.members) cells amend
      let x' := { x with sent := (x.sent + 1) % 2 ^ 16, spdu := if x.p.format == 1 then (x.spdu + 1) % 2 ^ 32 else x.spdu }
      let s := count (grpCtr gid 0x70) { s with erg := { s.erg with sessions := tset s.erg.sessions n x' } }
      sendSession x.p (udpFrameLen x.p.ipv6 x.p.vlan len) (sessionHead x.p ++ words) s

/-- Enabled sessions of a group, ascending. -/
def sessionsOf (s : State) (gid : Nat) : List Nat :=
  (s.erg.sessions.filter (fun e => e.2.en && e.2.p.gid == gid)).map (·.1)

/-- The members that the sessions of a release cover. -/
def publishedMembers (s : State) (i : Instant) : List Nat :=
  i.members.filter (fun m => i.pubs.any (fun n => (tfind s.erg.sessions n).any (fun x => (sessionMembers x.p i.members).contains m)))

/-- PUBLISH_INSTANT (06 R212): the sessions enabled at the release publish in number order, then the hold is freed. -/
def execPublishInstant (gid index : Nat) (s : State) : Host.Outcome State Fault Refusal :=
  .next (match getInstant s gid index with
    | none => s
    | some i =>
      if i.st == .opened || !i.pubHold || s.pm.mode == .frozen then s
      else
        let (r, s) := readMembers (publishedMembers s i) i s
        let s := i.pubs.foldl (fun s n => publishSession n gid r r.cells false s) s
        freeHold gid index (fun i => { i with pubHold := false }) s)

end Sys2Proof.Machine
end

