-- ==== Sys2Proof/Machine/Erg.lean ====
section
/-! DEFINITION. Alignment in the Erg (chapter 06): opening, completing and releasing instants, writing cells, late cells and
amendments, catching up after a step, shedding and discarding. -/

namespace Sys2Proof.Machine

/-- Groups open and release instants: in COMMISSION and the service modes (06 R218, R221, 14 R445). -/
def ergRuns (s : State) : Bool := (s.pm.mode == .commission || s.pm.mode.isService) && !hsStopped 4 s

/-! ### Opening (06 R196, R197) -/

/-- Instant k of a group opens with copies of the member list and parameters (06 R196, R197). An instant of an earlier
definition that still has its index ends (log 39). -/
def openInstant (gid k : Nat) (s : State) : State :=
  match getGroup s gid with
  | none => s
  | some g =>
    let i : Instant :=
      { k := k, st := .opened, members := g.members, p := g.p, deadline := deadlineOf g.p k, cells := [], relAt := 0,
        byDeadline := false, gap := false, relTq := 0, jobHolds := 0, pubHold := false, aqHolds := [], pubs := [],
        lateSeen := [], batches := 0, batch := none, lates := [], reclaimed := [] }
    let old := g.instants.filter (fun x => x.k == k)
    setGroup gid { g with
      next := k + 1
      front := k
      instants := g.instants.filter (fun x => x.k != k) ++ [i] } (freeCells (listSum (old.map Instant.held)) s)

/-- INSTANT_OPEN (06 R197): the next instant of a group opens once its t_k - HORIZON_US is reached. -/
def execInstantOpen (gid : Nat) (s : State) : Host.Outcome State Fault Refusal :=
  .next (match getGroup s gid with
    | none => s
    | some g => if ergRuns s && g.en && g.next < 2 ^ 40 && openAt g.p g.next ≤ s.tm.tick then openInstant gid g.next s else s)

/-! ### Release (06 R198 to R203) -/

/-- EXPECT admits the state a stream is in (06 R198). -/
def expected (s : State) (expect sid : Nat) : Bool :=
  match tfind s.si.streams sid with
  | some x => match x.state with
    | .live => true
    | .stale => 1 ≤ expect
    | _ => 2 ≤ expect
  | none => 2 ≤ expect

/-- An open instant is complete (06 R199). -/
def complete (s : State) (i : Instant) : Bool :=
  !i.cells.isEmpty && i.members.all (fun m => (tfind i.cells m).isSome || !expected s i.p.expect m)

/-- The released instant as its consumers see it, but for FROZEN_GAP in its cells (06 R203, R212, R218). -/
def releasedInstant (s : State) (gid : Nat) (i : Instant) (byDeadline : Bool) : Instant :=
  let pubs := sessionsOf s gid
  { i with st := .released, relAt := s.tm.frc, byDeadline := byDeadline, gap := inGap s i.deadline || gapOpen s,
           relTq := s.tm.tq.code, jobHolds := (boundJobs s gid).length, pubHold := !pubs.isEmpty, aqHolds := chansOf s gid,
           pubs := pubs }

/-- Counters of a release (06 Table 6-13). -/
def countRelease (gid : Nat) (i : Instant) (s : State) : State :=
  let s := count (grpCtr gid (if i.byDeadline then 0x08 else 0x00)) s
  let s := countN (grpCtr gid 0x10) i.cells.length s
  let s := countN (grpCtr gid 0x18) (i.members.filter (fun m => (tfind i.cells m).isNone)).length s
  if i.gap then count (grpCtr gid 0x60) s else s

/-- Instant k of a group is released: its set is frozen and handed to its consumers (06 R203), and the graphs bound to
the group start (07 R229). -/
def releaseInstant (gid k : Nat) (byDeadline : Bool) (s : State) : State :=
  match getGroup s gid with
  | none => s
  | some g =>
    match g.instant k with
    | none => s
    | some i0 =>
      let i := releasedInstant s gid i0 byDeadline
      let (cells, s) := if i.gap then markFrozen i.cells s else (i.cells, s)
      let i := { i with cells := cells }
      let g := { g.setInstant k (fun _ => i) with lastIndex := k, lastDeadline := byDeadline, lastGap := i.gap,
                                                  gapCount := if i.gap then g.gapCount + 1 else g.gapCount }
      let s := countRelease gid i (setGroup gid g s)
      if i.unheld then freeInstant gid k s else startBound gid k (now s) s

/-- The instants of a group that are complete and follow a release are released with it, in index order (06 R201). One whose
deadline the tick has passed too has cause DEADLINE (06 R216). -/
def releaseChain (gid : Nat) : Nat → State → State
  | 0, s => s
  | fuel + 1, s =>
    match (getGroup s gid).bind (·.oldestOpen) with
    | some i => if complete s i then releaseChain gid fuel (releaseInstant gid i.k (i.deadline ≤ s.tm.tick) s) else s
    | none => s

/-- Instants a group tracks. -/
def tracked (s : State) (gid : Nat) : Nat := ((getGroup s gid).map (·.instants.length)).getD 0

/-- EARLY_RELEASE (06 R199, R201): the oldest open instant, when complete, and those complete behind it. -/
def execEarlyRelease (gid : Nat) (s : State) : Host.Outcome State Fault Refusal :=
  .next (if ergRuns s then releaseChain gid (tracked s gid) s else s)

/-- The oldest open instants whose deadline the tick has passed are released, in index order (06 R200, R216). -/
def releaseDue (gid : Nat) (t : Int) : Nat → State → State
  | 0, s => s
  | fuel + 1, s =>
    match (getGroup s gid).bind (·.oldestOpen) with
    | some i => if i.deadline ≤ t then releaseDue gid t fuel (releaseInstant gid i.k true s) else s
    | none => s

/-- DEADLINE_RELEASE (06 R200): the oldest open instant, when its Dune entry has expired, and those complete behind it. -/
def execDeadlineRelease (gid : Nat) (s : State) : Host.Outcome State Fault Refusal :=
  .next (match (getGroup s gid).bind (·.oldestOpen) with
    | some i =>
      if ergRuns s && i.deadline ≤ s.tm.tick then releaseChain gid (tracked s gid) (releaseInstant gid i.k true s) else s
    | none => s)

/-- Every open instant of a group is released at once with cause DEADLINE, in index order (06 R211, R222). -/
def releaseAll (gid : Nat) (s : State) : State :=
  match getGroup s gid with
  | none => s
  | some g => (g.instants.filter (fun i => i.st == .opened)).foldl (fun s i => releaseInstant gid i.k true s) s

/-! ### Holds, retirement, amendments -/

/-- CELL_HOLD_EXPIRY (06 R203): 1,000 us after the release the cells are freed, whoever still holds them. -/
def execCellHoldExpiry (gid index : Nat) (s : State) : Host.Outcome State Fault Refusal :=
  .next (match getInstant s gid index with
    | none => s
    | some i =>
      if !ergRuns s || i.st != .released || s.tm.frc < i.relAt + countsOfUs 1000 then s
      else freeInstant gid index s)

/-- INSTANT_RETIRE (06 Table 6-4): TRAILING ends. -/
def execInstantRetire (gid index : Nat) (s : State) : Host.Outcome State Fault Refusal :=
  .next (match getInstant s gid index with
    | none => s
    | some i =>
      if ergRuns s && i.spent (now s) then dropInstant gid index s else s)

/-- The open amendment batch of an instant closes: published, recorded, freed (06 R207). -/
def closeBatch (gid : Nat) (i : Instant) (cells : Tbl Cell) (s : State) : State :=
  let amending := (sessionsOf s gid).filter (fun n => ((tfind s.erg.sessions n).map (·.p.amend)).getD false)
  let (pub, s) := if amending.isEmpty then (cells, s) else readCells cells s
  let s := amending.foldl (fun s n => publishSession n gid i pub true s) s
  let s := recordLate 4 i.batches gid i cells s
  let s := freeCells cells.length (count (grpCtr gid 0x30) s)
  let s := note s.erg.nq 4 0x04 0 (fld gid 26 6 + i.k % 2 ^ 26) s
  retireSpent gid i.k (updInstant gid i.k (fun i => { i with batch := none }) s)

/-- AMEND_BATCH_CLOSE (06 R207): at the first tick at or after its closing time. -/
def execAmendBatchClose (gid index : Nat) (s : State) : Host.Outcome State Fault Refusal :=
  .next (match getInstant s gid index with
    | none => s
    | some i => match i.batch with
      | some (t, cells) => if ergRuns s && t ≤ s.tm.tick then closeBatch gid i cells s else s
      | none => s)

/-- The late cells that an instant received in a tick go to AQ as one LATE record, and are freed (10 R335, 06 R206). -/
def flushLates (gid k : Nat) (s : State) : State :=
  match getInstant s gid k with
  | none => s
  | some i =>
    if i.lates.isEmpty then s
    else
      let s := freeCells i.lates.length (recordLate 3 0 gid i i.lates s)
      retireSpent gid k (updInstant gid k (fun i => { i with lates := [] }) s)

/-! ### Writing a cell (06 R204 to R207) -/

/-- No cell is free: ERG_NOCELL, and POOL_EXHAUSTED once per episode (06 R210). -/
def noCell (gid : Nat) (s : State) : State :=
  let s := count 0x104000 s
  if s.erg.exhausted then s else note s.erg.nq 4 0x02 2 gid { s with erg := { s.erg with exhausted := true } }

/-- A late cell under LATE_RECORD_ONLY (06 R206). -/
def lateRecord (gid k sid : Nat) (c : Cell) (s : State) : State :=
  if (boundChans s gid).isEmpty then count (grpCtr gid 0x20) s
  else if s.erg.free == 0 then noCell gid s
  else
    let (c, s) := allocCell c (count (grpCtr gid 0x28) s)
    updInstant gid k (fun i => { i with lates := tset i.lates sid c }) s

/-- A late cell under LATE_AMEND joins the current batch, opens one, or comes after the fourth (06 R207). -/
def lateAmend (gid sid : Nat) (i : Instant) (c : Cell) (s : State) : State :=
  if i.batch.isNone && 4 ≤ i.batches then lateRecord gid i.k sid c (count (grpCtr gid 0x38) s)
  else if s.erg.free == 0 then noCell gid s
  else
    let t := now s + us16 (i.p.amendMs * 1000)
    let close := if retireAt i.p i.k < t then retireAt i.p i.k else t
    let (c, s) := allocCell c (count (grpCtr gid 0x28) s)
    updInstant gid i.k (fun i =>
      match i.batch with
      | some (t, cs) => { i with batch := some (t, tset cs sid c) }
      | none => { i with batch := some (close, [(sid, c)]), batches := i.batches + 1 }) s

/-- A late cell by the instant's LATE_POLICY (06 R206). -/
def lateCell (gid sid : Nat) (i : Instant) (c : Cell) (s : State) : State :=
  let c := { c with late := true }
  let s := updInstant gid i.k (fun i => { i with lateSeen := i.lateSeen ++ [sid] }) s
  match i.p.latePolicy with
  | 0 => count (grpCtr gid 0x20) s
  | 1 => lateAmend gid sid i c s
  | _ => lateRecord gid i.k sid c s

/-- A cell is stored in an open instant (06 R192, R204). -/
def storeCell (gid k sid : Nat) (c : Cell) (s : State) : State :=
  if s.erg.free == 0 then noCell gid s
  else
    let (c, s) := allocCell c s
    updInstant gid k (fun i => { i with cells := tset i.cells sid c }) s

/-- write_cell of 06 R204. -/
def writeCell (gid : Nat) (k : Int) (sid : Nat) (c : Cell) (s : State) : State :=
  match getGroup s gid with
  | none => s
  | some g =>
    if g.front < k then count (grpCtr gid 0x48) s
    else
      match (if k < 0 then none else g.instant k.toNat) with
      | none => count (grpCtr gid 0x50) s
      | some i =>
        if i.st == .trailing && i.ended (now s) then count (grpCtr gid 0x50) s
        else if !i.members.contains sid then count 0x104020 s
        else if (tfind i.cells sid).isSome || i.lateSeen.contains sid then count (grpCtr gid 0x40) s
        else if i.st == .opened then storeCell gid i.k sid c s
        else lateCell gid sid i c s

/-! ### Steps of device time (06 R216 to R219) -/

/-- The greatest index whose deadline lies at or before `t`, plus one. -/
def dueIndex (p : GroupP) (t : Int) : Nat :=
  let u := t - us16 p.windowUs
  if u < epoch16 p then 0
  else
    let k := (indexAt p u).toNat
    if deadlineOf p k ≤ t then k + 1 else k

/-- Skipped instants are counted, noticed and recorded as a gap (06 R216, 10 R335). -/
def skipInstants (gid first n : Nat) (s : State) : State :=
  if n == 0 then s
  else
    let s := countN (grpCtr gid 0x58) n s
    let s := note s.erg.nq 4 0x03 1 (fld gid 26 6 + min n (2 ^ 26 - 1)) s
    recordGap gid first (first + n - 1) 1 s

/-- Opens and releases at once `n` instants from index k (06 R216). -/
def openRelease (gid : Nat) : Nat → Nat → State → State
  | 0, _, s => s
  | n + 1, k, s => openRelease gid n (k + 1) (releaseInstant gid k true (openInstant gid k s))

/-- A group catches up on a tick that has passed the deadline of an instant not yet opened (06 R216). -/
def catchUp (gid : Nat) (s : State) : State :=
  match getGroup s gid with
  | none => s
  | some g =>
    let due := min (dueIndex g.p s.tm.tick) (2 ^ 40)
    if !g.en || due ≤ g.next then s
    else
      let s := releaseDue gid s.tm.tick g.instants.length s
      let missed := due - g.next
      let skip := missed - 64
      let s := match getGroup s gid with
        | some g' => setGroup gid { g' with next := g.next + skip } (skipInstants gid g.next skip s)
        | none => s
      openRelease gid (missed - skip) (g.next + skip) s

/-- What a Dune tick does in the Erg: late records, amendment of time steps. -/
def ergTick (s : State) : State :=
  if !ergRuns s then s
  else (tkeys s.erg.groups).foldl (fun s gid =>
    let ks := ((getGroup s gid).map (fun g => (g.instants.filter (fun i => !i.lates.isEmpty)).map (·.k))).getD []
    catchUp gid (ks.foldl (fun s k => flushLates gid k s) s)) s

/-- A step of device time closes an open freeze gap: each group reports the instants it released in it (06 R219). -/
def ergStep (s : State) : State :=
  if !gapOpen s then s
  else
    let s := { s with erg := { s.erg with gapTo := some (now s) } }
    (tkeys s.erg.groups).foldl (fun s gid =>
      match getGroup s gid with
      | none => s
      | some g =>
        note s.erg.nq 4 0x05 1 (fld gid 26 6 + min g.gapCount (2 ^ 26 - 1)) (setGroup gid { g with gapCount := 0 } s)) s

/-- A freeze opens the gap at the present device time, unless one is open (06 R218). -/
def ergFreeze (s : State) : State :=
  if gapOpen s then s
  else
    { s with erg := { s.erg with gapFrom := some (now s), gapTo := none,
                                 groups := s.erg.groups.map (fun e => (e.1, { e.2 with gapCount := 0 })) } }

/-! ### Discarding, shedding, waking -/

/-- The instants of a group are discarded without release, counted in DISCARDED, and their cells freed (06 R221). -/
def discardInstants (gid : Nat) (s : State) : State :=
  match getGroup s gid with
  | none => s
  | some g =>
    let cells := listSum (g.instants.map Instant.held)
    let s := countN (grpCtr gid 0x68) g.instants.length (freeCells cells s)
    if !g.en && !g.shed then { s with erg := { s.erg with groups := tdel s.erg.groups gid } }
    else setGroup gid { g with instants := [] } s

/-- Every open, released and trailing instant is discarded and the pool emptied (06 R221, 14 R445). -/
def discardAll (s : State) : State := (tkeys s.erg.groups).foldl (fun s gid => discardInstants gid s) s

/-- On wake each group goes on with the instants that open after the wake time (06 R221). -/
def ergResume (s : State) : State :=
  (tkeys s.erg.groups).foldl (fun s gid =>
    match getGroup s gid with
    | none => s
    | some g =>
      setGroup gid { g with next := max g.next (nextAfter g.p (now s)) } s) s

/-- A group is shed (06 R211): its open instants are released with cause DEADLINE, and its rings mark the gap; it opens no
more. -/
def shedGroup (gid : Nat) (s : State) : State :=
  let s := releaseAll gid s
  match getGroup s gid with
  | none => s
  | some g =>
    let s := setGroup gid { g with en := false, shed := true } s
    recordGap gid g.next (2 ^ 40 - 1) 3 (note s.erg.nq 4 0x06 2 gid s)

/-- Sessions signed under a destroyed or orphaned slot are disabled (06 R214). -/
def revokeSessions (slot : Nat) (s : State) : State :=
  (tkeys s.erg.sessions).foldl (fun s n =>
    match tfind s.erg.sessions n with
    | none => s
    | some x =>
      if x.p.format == 1 && x.p.sig != 0 && x.p.keySlot == slot && !x.keyRevoked then
        note s.erg.nq 4 0x07 2 n
          { s with erg := { s.erg with sessions := tset s.erg.sessions n { x with en := false, keyRevoked := true } } }
      else s) s

end Sys2Proof.Machine
end

