-- ==== Sys2Proof/Machine/Modes.lean ====
section
/-! DEFINITION. Time quality and modes as every block sees them: TQ (04 R147), the degrading causes and R29, changes of
MODE (14 R442) and the wake request. -/

namespace Sys2Proof.Machine

/-- The TQ that Tether's class shows: FALLBACK_CLOCK while the main path is failed, unless INVALID (04 R147). -/
def tqShown (tm : Tm) : Tq := if tm.mainFailed && tm.tether.tqServo != .invalid then .fallback else tm.tether.tqServo

/-- HEARTBEAT: one count every 409,600 FRC counts (Table 2-2). -/
def heartbeat (s : State) : Nat := s.tm.frc / 409600 % 4096

/-- NOTICE_PENDING: an enabled queue holds an unread entry. -/
def noticePending (s : State) : Bool := s.hi.nqs.any (fun e => e.2.en && e.2.r != e.2.w)

/-- HI_LSW (Table 2-2). -/
def lsw (s : State) : Nat :=
  fld s.pm.mode.code 29 3 + fld s.tm.tq.code 26 3 + fld s.al.alm 18 8 + fld (b2n (noticePending s)) 17 1 +
  fld (b2n s.ev.faultLatched) 16 1 + fld (b2n (!s.pins.pfwN)) 15 1 + fld (b2n s.ov.tamper) 14 1 + heartbeat s

/-- The standby root PLL is qualified (14 R464). -/
def standbyOk (ck : Ck) : Bool :=
  if ck.activeB then ck.aLock && (if ck.singleRef then (if ck.singleB then ck.refBOk else ck.refAOk) else ck.refAOk)
  else ck.bLock && (if ck.singleRef then (if ck.singleB then ck.refBOk else ck.refAOk) else ck.refBOk)

/-- The engines whose state satisfies `f`. -/
def countEngines (f : EngState → Bool) (s : State) : Nat :=
  ((List.range 66).filter (fun n => f (tget Engine.reset s.cv.engines n).st)).length

/-- PM_STAT.DEGRADE (Table 14-1). -/
def degrade (s : State) : Nat :=
  fld (b2n (decide (countEngines (· == .spare) s < s.cv.capSpares))) 0 1 +
  fld (b2n (decide (countEngines (fun e => e == .idle || e == .running) s < s.cv.capEngines))) 1 1 +
  fld (b2n s.tm.mainFailed) 2 1 + fld (b2n (!standbyOk s.ck || s.ck.singleRef)) 3 1 +
  fld (b2n (s.erg.groups.any (fun e => e.2.shed))) 4 1 + fld (b2n (s.cv.jobs.any (fun e => e.2.shed))) 5 1

/-- The service mode that R29 of chapter 01 shows. -/
def serviceMode (s : State) : Mode :=
  if degrade s != 0 then .degraded else if s.tm.tq == .lockedFine || s.tm.tq == .locked then .run else .holdover

/-- MODE changes, with its notice and record (14 R442, Table 14-16). -/
def setMode (m : Mode) (s : State) : State :=
  if s.pm.mode == m then s
  else
    let sev := match m with | .degraded => 2 | .holdover => 1 | _ => 0
    note s.pm.nq 15 0x01 sev (fld (degrade s) 8 6 + fld s.pm.mode.code 3 3 + m.code) { s with pm := { s.pm with mode := m } }

/-- The service mode follows its conditions (01 R29); RETURN_MODE is re-evaluated on return. -/
def reMode (s : State) : State := if s.pm.mode.isService then setMode (serviceMode s) s else s

/-- TQ shows the class in force; a change queues TQ_CHANGE and may change the mode (04 R147, 01 R29). -/
def tqUpdate (s : State) : State :=
  let t := tqShown s.tm
  if s.tm.tq == t then s
  else
    let sev := match t with | .lockedFine => 0 | .locked => 0 | .holdFresh => 1 | _ => 2
    reMode (note s.tm.tether.p.nq 2 0x01 sev (fld s.tm.tq.code 4 4 + t.code) { s with tm := { s.tm with tq := t } })

/-- A wake trigger in DOZE starts the wake; the first one is its cause (14 R459). -/
def requestWake (cause : Nat) (s : State) : State :=
  if s.pm.mode == .doze && !s.pm.waking then { s with pm := { s.pm with waking := true, wakeCause := cause } } else s

end Sys2Proof.Machine
end

