-- ==== Sys2Proof/Machine/Admission.lean ====
section
/-! DEFINITION. Admission (02 R76, R77, Table 2-17): the ten resources of a configuration against the capacities in service,
and the shedding of graphs and groups when these fall (06 R211, 07 R255). -/

namespace Sys2Proof.Machine

/-- One constraint of a resource (Table 2-17c): its part, the component, exact demand and capacity, and whether it
fits. -/
structure Part where
  part : Nat
  index : Nat
  demand : Rat
  cap : Rat
  fits : Bool
deriving DecidableEq, Repr

/-- A constraint that fits when the demand does not exceed the capacity. -/
def partLe (part index : Nat) (demand cap : Rat) : Part := ⟨part, index, demand, cap, demand ≤ cap⟩

/-- The sum of a list of fractions. -/
def sumRat (l : List Rat) : Rat := l.foldl (· + ·) 0

/-- The greatest of a list of fractions, 0 for none. -/
def maxRat (l : List Rat) : Rat := l.foldl (fun m x => if m < x then x else m) 0

/-! ### Resources 1 to 4 (06 R208, R209, 05 R163) -/

/-- instants(g) of 06 R208. -/
def instantsOf (p : GroupP) : Nat :=
  ceilDiv ((p.horizonUs + p.windowUs + 1000 + (if p.latePolicy == 1 then p.lateSpanUs else 0)) * p.rate) 1000000 + 1

/-- Enabled groups. -/
def enabledGroups (s : State) : List (Nat × Group) := s.erg.groups.filter (fun e => e.2.en)

/-- Cells a group demands, without headroom. -/
def groupCells (g : Group) : Nat := g.members.length * instantsOf g.p

/-- demand + headroom of 06 R208. -/
def cellDemand (s : State) : Nat :=
  let d := listSum ((enabledGroups s).map (fun e => groupCells e.2))
  d + ceilDiv (d * s.erg.headroom) 256

/-- words_per_s of one group (06 R209). -/
def groupWords (s : State) (gid : Nat) (g : Group) : Nat :=
  let pub := b2n (!(sessionsOf s gid).isEmpty)
  let aq := (s.aq.chans.filter (fun e => e.2.p.gid == gid)).length
  g.p.rate * g.members.length * 20 * (1 + pub + aq + (boundJobs s gid).length)

/-- words_per_s of 06 R209. -/
def wordDemand (s : State) : Nat := listSum ((enabledGroups s).map (fun e => groupWords s e.1 e.2))

/-- Weight w of a stream's frames (05 R162). -/
def frameWeight (p : StreamP) : Nat := ceilDiv p.framesize 1522

/-- Pipelines a network stream can reach (05 R161): those of its ports and of the pairs they form. -/
def pipesOf (s : State) (p : StreamP) : List Nat :=
  (List.range 16).filter (fun q => (List.range 4).any (fun port =>
    bit p.portMask port && (match pairOf s port with
      | some n => q == 8 * n + p.lane
      | none => q == 4 * port + p.lane % 4)))

/-- Parts of resource 3: S_q and Q_q of each pipeline (05 R163). -/
def pipeParts (s : State) : List Part :=
  (List.range 16).flatMap (fun q =>
    let on := s.si.streams.filter (fun e => e.1 < 16376 && (pipesOf s e.2.p).contains q)
    let sq := listSum (on.map (fun e => e.2.p.rate * frameWeight e.2.p))
    let qq := listSum (on.map (fun e => frameWeight e.2.p)) - s.si.burstUs
    [partLe 1 q (sq : Nat) 750000, partLe 2 q (qq : Nat) 88])

/-! ### Resources 5 to 7 (07 R241, R244) -/

/-- Graphs that are not shed. -/
def liveJobs (s : State) : List Job := (s.cv.jobs.filter (fun e => !e.2.shed)).map (·.2)

/-- Triggers per second of graph `j`: its group, the comparators that name it, and the graphs that chain to it
(07 R241). -/
def rateOf (s : State) : Nat → Nat → Rat
  | 0, _ => 0
  | fuel + 1, j =>
    let groups := ((getJob s j).map (·.bound)).getD []
    let own : Rat := (listSum (groups.map (fun g => ((getGroup s g).map (·.p.rate)).getD 0)) : Nat)
    let cmp := sumRat (s.tm.cmps.map (fun e =>
      if e.2.armed && bit e.2.p.actions 4 && e.2.p.job == j && e.2.p.period != 0 then mkRat (1000000000 * 2 ^ 16) e.2.p.period else 0))
    let chained := sumRat ((liveJobs s).map (fun x =>
      if x.p.nodes.any (fun d => d.chain == j) then rateOf s fuel x.p.job else 0))
    own + cmp + chained

/-- rate(j). -/
def jobRate (s : State) (j : Nat) : Rat := rateOf s (s.cv.jobs.length + 1) j

/-- Engine time of the nodes a test selects, in engine-ns per s. -/
def engineLoad (s : State) (f : NodeP → Bool) : Rat :=
  sumRat ((liveJobs s).map (fun x =>
    jobRate s x.p.job * (listSum ((x.p.nodes.filter f).map (fun d => d.budgetNs * d.gang)) : Nat)))

/-- The largest sum of BUDGET_NS and DELAY_US along any path that ends at a node, in ns (07 R241). -/
def pathTo (nodes : List NodeP) : Nat → Nat → Nat
  | 0, _ => 0
  | fuel + 1, n => match nodes.find? (fun d => d.node == n) with
    | some d => d.budgetNs + d.delayUs * 1000 + listMax ((predsOf d).map (pathTo nodes fuel))
    | none => 0

/-- bound(s) of 07 R241 in ns. -/
def stageBound (stage : Nat) : Nat := match stage with | 1 => 60000 | 2 => 100000 | 3 => 180000 | _ => 240000

/-- Engine time of one refactorization at GANG 16 as admission counts it (08 R278), ns. -/
def refacNs : Nat := 3600000

/-- The signals of each group that slow node `j` serves, with WINDOW, ORDER and HANKEL_ROWS. -/
def slowLoad (s : State) (j : Nat) : List (Nat × Nat × Nat × Nat) :=
  (s.sc.groups.filter (fun e => e.2.p.node == j)).map (fun e => ((groupSigs s e.1).length, e.2.p.window, e.2.p.order, e.2.p.rows))

/-- Slow nodes that cannot meet their groups' updates within 4,000,000 ns at GANG 16 (09 R311), as failed constraints of
resource 5. Table 2-17c names no part for them: the model reports part 4, which is in ns against a bound, with SLOW_JOB as
INDEX (DESIGN CHOICE, log 72). -/
def slowParts (s : State) : List Part :=
  (List.range 32).filterMap (fun j =>
    let l := slowLoad s j
    if l.isEmpty || Config.slowNodeNs l ≤ 4000000 then none
    else some (partLe 4 s.sc.p.slowJob (Config.slowNodeNs l : Nat) 4000000))

/-- Parts of resource 5. -/
def engineParts (s : State) : List Part :=
  let e : Rat := (inService s : Nat)
  let urgent := (liveJobs s).flatMap (fun x => x.p.nodes.filter (fun d => 12 ≤ d.level))
  let gmax := listMax (urgent.map (·.gang))
  let bound := (liveJobs s).filter (fun x => !x.bound.isEmpty)
  let w := listSum (bound.flatMap (fun x => (x.p.nodes.filter (fun d => 12 ≤ d.level)).map (fun d => d.budgetNs * d.gang)))
  [partLe 1 0 (engineLoad s (fun d => 12 ≤ d.level)) (mkRat 1 2 * e * 1000000000),
   partLe 2 0 (engineLoad s (fun _ => true) + (s.ts.p.refRate * refacNs * 16 : Nat)) (mkRat 3 4 * e * 1000000000),
   partLe 3 0 (gmax : Nat) (s.cv.reserve : Nat)] ++
  (liveJobs s).flatMap (fun x => (x.p.nodes.filter (fun d => 0 < d.stage)).map (fun d =>
    partLe 4 x.p.job (mkRat w (s.cv.reserve - gmax + 1) + (pathTo x.p.nodes x.p.nodes.length d.node : Nat)) (stageBound d.stage : Nat))) ++ slowParts s

/-- Pages resource 6 demands (07 R244, 08 R278, 09 R311). -/
def pageDemand (s : State) : Nat :=
  residentPages s + 2 * 66 * listMax ((liveJobs s).flatMap (fun x => x.p.nodes.map (·.ckptPages)))

/-- Parts of resource 7 (07 R244). -/
def itemParts (s : State) : List Part :=
  [partLe 1 0 (listSum (s.cv.jobs.map (fun e => e.2.p.nodes.length * e.2.p.maxInflight)) : Nat) 32768,
   partLe 2 0 (listSum (s.cv.jobs.map (fun e => (e.2.p.nodes.filter (fun d => 0 < d.delayUs)).length * e.2.p.maxInflight)) : Nat) 8192]

/-! ### Resource 8 (10 R341) -/

/-- Bytes per second a defined ring reserves. -/
def ringBytes (s : State) (r : Nat) (g : AqRing) : Rat :=
  match getChan s (r / 4) with
  | none => 0
  | some c =>
    let p := (getGroup s c.p.gid).map (·.p)
    let rate : Nat := (p.map (·.rate)).getD 0
    let late : Nat := (p.map (·.latePolicy)).getD 0
    let rec' : Rat := if g.p.kind == 0 then (rate : Rat) else mkRat rate g.p.n
    let extra : Nat := if g.p.kind == 0 && late != 0 then 4 * rate else 0
    ((slotBytes g.p.kind c.p : Nat) : Rat) * (rec' + (2 * c.p.markRate + extra : Nat))

/-- bw of 10 R341. -/
def aqBytes (s : State) : Rat := sumRat (s.aq.rings.map (fun e => ringBytes s e.1 e.2))

/-! ### Resource 9 (03 R110, 06 R215) -/

/-- Bytes of a PMU block in a session's format. -/
def blockBytes (fw : Nat) (p : Option StreamP) : Nat :=
  let lay := (p.map layoutOf).getD []
  2 + (if bit fw 1 then 8 else 4) * (lay.filter (· < 32)).length + (if bit fw 3 then 8 else 4) +
  (if bit fw 2 then 4 else 2) * (lay.filter (fun n => 34 ≤ n && n < 42)).length + 2 * (lay.filter (42 ≤ ·)).length

/-- Length of the largest frame of a session, without RCT and MACsec (06 R215). -/
def sessionLen (s : State) (x : SessionP) : Nat :=
  let ms := sessionMembers x (((getGroup s x.gid).map (·.members)).getD [])
  let payload := if x.format == 0 then 16 + listSum (ms.map (fun m => blockBytes x.formatWord (streamP s m)))
    else Config.rsvOverhead x.svidLen x.sig + listSum (ms.map (fun m => 8 * ((streamP s m).map rsvValues).getD 0))
  udpFrameLen x.ipv6 x.vlan payload

/-- Ports of a session's target. -/
def targetPorts (target : Nat) : List Nat :=
  if target < 4 then [target] else [2 * (target - 4), 2 * (target - 4) + 1]

/-- Frames a session sends in one cycle of a gate list. -/
def framesPerCycle (s : State) (g : GateP) (x : SessionP) : Nat :=
  let r := ((getGroup s x.gid).map (·.p.rate)).getD 0
  if g.den == 0 then r else ceilDiv (r * g.num) g.den

/-- Lengths of a queue's open windows in cycle order, from a list of parts. -/
def openWindows (q : Nat) : List (Nat × Rat) → Option Rat → List Rat
  | [], none => []
  | [], some w => [w]
  | (m, d) :: rest, cur =>
    if bit m q then openWindows q rest (some (cur.getD 0 + d))
    else match cur with
      | some w => w :: openWindows q rest none
      | none => openWindows q rest none

/-- First fit of a frame of `t` ns into windows, each its length and its occupied time; none where it fits no window. -/
def placeFrame (t : Rat) : List (Rat × Rat) → Option (List (Rat × Rat))
  | [] => none
  | (len, used) :: ws =>
    if used + t ≤ len then some ((len, used + t) :: ws) else (placeFrame t ws).map (fun r => (len, used) :: r)

/-- A frame that fits no window is counted in the first one with the most time left, whose occupied time then exceeds its
length; a queue without a window has one of length 0. The manual does not say which window is then the tightest (DESIGN
CHOICE, log 72). -/
def crowdFrame (t : Rat) (ws : List (Rat × Rat)) : List (Rat × Rat) :=
  match ws with
  | [] => [(0, t)]
  | _ =>
    let most := maxRat (ws.map (fun w => w.1 - w.2))
    let i := (ws.findIdx? (fun w => w.1 - w.2 == most)).getD 0
    let w := ws.getD i (0, 0)
    ws.set i (w.1, w.2 + t)

/-- The list whose fit admission checks: the pending one, else the operative one. -/
def gateOfPort (t : Port) : Option GateP :=
  match t.gatePend, t.gateNext with
  | some (g, _, _), _ => some g
  | none, some (g, _) => some g
  | none, none => t.gate

/-- Parts of resource 9 of one port and queue: over-long frames (06 R215), then the windows of the gate list (03 R110). A
frame longer than MAXLEN is reported as part 2, with its wire time against that of a frame of MAXLEN: Table 2-17c names no part
for it (DESIGN CHOICE, log 72). -/
def gateParts9 (s : State) (p q : Nat) : List Part :=
  let t := getPort s p
  let mine := s.erg.sessions.filter (fun e => e.2.p.queue == q && (targetPorts e.2.p.target).contains p)
  let len := fun (x : SessionP) => lenOnPort t 0 (sessionLen s x) (4 ≤ x.target)
  let time := fun (n : Nat) => fineNs (wireTime t.line n)
  let long := mine.filter (fun e => t.maxlen < len e.2.p)
  let tooLong := long.map (fun e => partLe 2 (8 * p + q) (time (len e.2.p)) (time t.maxlen))
  match gateOfPort t with
  | none => tooLong
  | some g =>
    let ws := (openWindows q (gateParts g) none).map (fun w => (w, (0 : Rat)))
    let frames := mine.flatMap (fun e => List.replicate (framesPerCycle s g e.2.p) (time (len e.2.p)))
    let full := frames.foldl (fun ws f => (placeFrame f ws).getD (crowdFrame f ws)) ws
    tooLong ++ full.map (fun w => partLe 2 (8 * p + q) w.2 w.1)

/-- Parts of resource 9. -/
def sessionParts (s : State) : List Part :=
  partLe 1 0 (s.erg.sessions.length : Nat) 128 :: (List.range 4).flatMap (fun p => (List.range 8).flatMap (gateParts9 s p))

/-! ### Resource 10 (12 R405) -/

/-- hmac(len) and gmac(len) of 12 R405, cycles. -/
def hmacCycles (len : Nat) : Nat := 64 * (ceilDiv (len + 9) 64 + 1)
def gmacCycles (len : Nat) : Nat := 24 + ceilDiv len 16

/-- io of 12 R405. -/
def cryptoIo (s : State) : Nat :=
  listSum (s.si.streams.map (fun e =>
    if e.2.p.authMode == 2 then e.2.p.rate * hmacCycles e.2.p.framesize
    else if e.2.p.authMode == 3 then e.2.p.rate * gmacCycles e.2.p.framesize else 0)) +
  listSum (s.erg.sessions.map (fun e =>
    let r := ((getGroup s e.2.p.gid).map (·.p.rate)).getD 0
    if e.2.p.format == 1 && e.2.p.sig == 1 then r * hmacCycles (sessionLen s e.2.p)
    else if e.2.p.format == 1 && e.2.p.sig == 2 then r * gmacCycles (sessionLen s e.2.p) else 0))

/-- cv of 12 R405. -/
def cryptoCv (s : State) : Rat :=
  sumRat ((liveJobs s).map (fun x =>
    jobRate s x.p.job * (listSum ((x.p.nodes.filter (fun d => d.crypto == 1)).map (·.budgetNs)) : Nat)))

/-! ### The report (02 R76, R77) -/

/-- The constraints of resource `c`, 1 to 10. -/
def partsOf (s : State) (c : Nat) : List Part :=
  match c with
  | 1 => [partLe 0 0 (cellDemand s : Nat) 262144]
  | 2 => [partLe 0 0 (listSum (s.si.streams.map (·.2.p.rate)) : Nat) 2000000]
  | 3 => pipeParts s
  | 4 => [partLe 0 0 (wordDemand s : Nat) 40000000000]
  | 5 => engineParts s
  | 6 => [partLe 0 0 (pageDemand s : Nat) (6144 - s.cv.playaOut : Nat)]
  | 7 => itemParts s
  | 8 => [partLe 0 0 (aqBytes s) 10000000000]
  | 9 => sessionParts s
  | _ => [partLe 1 0 (cryptoIo s : Nat) 1757812500, partLe 2 0 (cryptoCv s) 750000000]

/-- Resource `c` fits. -/
def resourceFits (s : State) (c : Nat) : Bool := (partsOf s c).all (·.fits)

/-- REFUSED: the code of the first resource that does not fit, or 0. -/
def refusedCode (s : State) : Nat := ((List.range 10).find? (fun c => !resourceFits s (c + 1))).elim 0 (· + 1)

/-- The configuration is admitted. -/
def admitted (s : State) : Bool := refusedCode s == 0

/-- MARGIN of one constraint in percent, rounded down, 0 to 100. The quotient does not exist for a CAPACITY of 0, as
URGENT_RESERVE may be: the model gives 100 where the DEMAND fits and else 0 (DESIGN CHOICE, log 72). -/
def Part.margin (p : Part) : Nat :=
  if p.cap ≤ 0 then (if p.demand ≤ p.cap then 100 else 0)
  else (clampInt 0 100 (((p.cap - p.demand) * 100 / p.cap).floor)).toNat

/-- The constraint a resource entry reports: the first that does not fit, else the one with the smallest margin. -/
def reported (l : List Part) : Option Part :=
  match l.find? (fun p => !p.fits) with
  | some p => some p
  | none => l.foldl (fun acc p => match acc with
    | none => some p
    | some q => if p.margin < q.margin then some p else acc) none

/-- The smallest margin across all resources, percent. -/
def smallestMargin (s : State) : Nat :=
  ((List.range 10).map (fun c => ((reported (partsOf s (c + 1))).map Part.margin).getD 100)).foldl min 100

/-- A resource entry of the report (Table 2-17b). A fractional DEMAND is rounded up and a fractional CAPACITY down: no rule
gives the rounding (DESIGN CHOICE, log 72). -/
def resourceEntry (s : State) (c : Nat) : List Nat :=
  match reported (partsOf s c) with
  | none => [c, 1, 100, 0, 0, 0, 0, 0] ++ List.replicate 16 0
  | some p => [c, b2n (resourceFits s c), p.margin, p.part] ++ leBytes 2 p.index ++ [0, 0] ++
      leBytes 8 p.demand.ceil.toNat ++ leBytes 8 p.cap.floor.toNat

/-- A group entry of the report (02 R77); words_per_s is rounded down to its unit of 10^6: no rule gives the rounding (DESIGN
CHOICE, log 72). -/
def groupEntry (s : State) (gid : Nat) : List Nat :=
  match getGroup s gid with
  | none => List.replicate 8 0
  | some g => leBytes 4 (groupCells g) ++ leBytes 4 (groupWords s gid g / 1000000)

/-- The 768 bytes of the admission report (02 R77). -/
def admissionReport (s : State) (which : Nat) : List Nat :=
  leBytes 4 s.cfg.version ++ [which, refusedCode s, smallestMargin s, 0] ++ leBytes 6 (dt80Of (now s)).sec ++ [0, 0] ++
  (List.range 10).flatMap (fun c => resourceEntry s (c + 1)) ++ (List.range 64).flatMap (groupEntry s)

/-- RESULT of a CFG.LOAD that reached its admission check (02 R76). -/
def loadResult (s : State) : List Nat :=
  leBytes 4 s.cfg.version ++ leBytes 4 (cellDemand s) ++ leBytes 4 (listSum (s.si.streams.map (·.2.p.rate))) ++
  leBytes 2 (aqBytes s / 1000000).ceil.toNat ++ [refusedCode s, smallestMargin s]

/-! ### Shedding (06 R211, 07 R255) -/

/-- The graph JOB_SHED takes next: bound, its highest node level lowest, then the higher number. -/
def shedChoice (s : State) : Option Nat :=
  let l := (s.cv.jobs.filter (fun e => !e.2.bound.isEmpty && !e.2.shed)).map (fun e => (e.1, listMax (e.2.p.nodes.map (·.level))))
  (l.foldl (fun acc e => match acc with
    | none => some e
    | some m => if e.2 ≤ m.2 then some e else acc) none).map (·.1)

/-- Graphs are unbound one at a time until resources 5 to 7 fit. -/
def shedJobs : Nat → State → State
  | 0, s => s
  | fuel + 1, s =>
    if resourceFits s 5 && resourceFits s 6 && resourceFits s 7 then s
    else match shedChoice s with
      | none => s
      | some j => match getJob s j with
        | none => s
        | some x =>
          shedJobs fuel (note s.cv.nq 5 0x03 2 j (count 0x107038 (setJob j { x with bound := [], shed := true } s)))

/-- Groups are disabled in descending order until resources 1 and 4 fit. -/
def shedGroups : List Nat → State → State
  | [], s => s
  | g :: gs, s =>
    if resourceFits s 1 && resourceFits s 4 then s
    else shedGroups gs (shedGroup g s)

/-- The capacities in service have fallen: graphs, then groups are shed, and the mode follows (06 R211, 07 R255,
01 R29). -/
def capacityFell (s : State) : State :=
  let s := shedJobs (s.cv.jobs.length) s
  reMode (shedGroups (((enabledGroups s).map (·.1)).reverse) s)

end Sys2Proof.Machine
end

