-- ==== Sys2Proof/Machine/Sleep.lean ====
section
/-! DEFINITION. How a sleep handshake ends without DOZE: the blocks it stopped restart (14 R454, R456). -/

namespace Sys2Proof.Machine

/-- Every ring of an enabled channel writes one GAP record with cause 2, from the first index its channel has not covered
to the last that will not open again (10 R342, 14 R454). With no such index the record's end is a free value: no rule
gives it. -/
def dozeGap (s : State) : State :=
  (tkeys s.aq.chans).foldl (fun s c =>
    match getChan s c with
    | none => s
    | some x =>
      match (if x.en then getGroup s x.p.gid else none) with
      | none => s
      | some g =>
        let next := ((g.oldestOpen).map (·.k)).getD g.next
        if x.nextK < next then setChan c { x with nextK := next } (gapRings c x.p.gid x.nextK (next - 1) 2 s)
        else bumpFree (gapRings c x.p.gid x.nextK (freeBits 40 s) 2 s)) s

/-- The handshake ends refused by `block` with `reason`: stopped blocks restart, then the final completion SLEEP_REFUSED
and its notice (14 R454). -/
def sleepRefused (block reason : Nat) (s : State) : State :=
  match s.pm.hs with
  | none => s
  | some hs =>
    let s := { s with pm := { s.pm with hs := none, hsLate := 0, hsBlock := block, hsReason := reason } }
    let s := if 4 < hs.order then ergResume s else s
    let s := if 1 < hs.order then dozeGap s else s
    let s := match findOp s hs.handle with
      | some o => finalCompletion o 0x70 [block, reason] s
      | none => s
    count 0x10F008 (note s.pm.nq 15 0x04 1 (fld block 8 5 + reason) s)

/-- The handshake is abandoned, and ends later: after the thaw (8) or after the actions of PFW_N (9) (01 R35,
14 R456). -/
def haltSleep (reason : Nat) (s : State) : State :=
  if s.pm.hs.isSome && s.pm.hsLate == 0 then { s with pm := { s.pm with hsLate := reason } } else s

/-- A handshake abandoned with this reason ends now. -/
def endHalted (reason : Nat) (s : State) : State := if s.pm.hsLate == reason then sleepRefused 15 reason s else s

end Sys2Proof.Machine
end

