-- ==== Sys2Proof/Machine/Outage.lean ====
section
/-! DEFINITION. The bounds of energy not metered: METER_OUTAGE and ENERGY_UNSAVED (11 R364, R367, R373 to R375). -/

namespace Sys2Proof.Machine

/-- Element `e`. -/
def getElem' (s : State) (e : Nat) : Elem := tget Elem.reset s.am.els e

/-- Element `e` changed. -/
def updElem (e : Nat) (f : Elem → Elem) (s : State) : State :=
  { s with am := { s.am with els := tset s.am.els e (f (getElem' s e)) } }

/-- Anchor channel `c`. -/
def getMChan (s : State) (c : Nat) : MChan := tget MChan.reset s.am.chans c

/-- Anchor channel `c` changed. -/
def updMChan (c : Nat) (f : MChan → MChan) (s : State) : State :=
  { s with am := { s.am with chans := tset s.am.chans c (f (getMChan s c)) } }

/-- S_FS = PHASES x (FS_V / sqrt 2) x (FS_I / sqrt 2), in VA (11 R364). -/
def elementSfs (s : State) (e : Elem) : Rat :=
  let fs := fun n => ratOfFloat (getMChan s (e.p.chans.getD n 0)).p.fs
  (e.p.phases : Rat) * fs 0 * fs 1 / 2

/-- VAh of one ULSB, 10^(u - 6) (11 R367). -/
def ulsbVah (u : Nat) : Rat := mkRat (10 ^ u : Nat) (10 ^ 6)

/-- S x interval in ULSB, 64 bits. -/
def boundUlsb (e : Elem) (power : Rat) (ms : Nat) : Nat :=
  (roundRat (power * (ms : Rat) / 3600000 / ulsbVah e.p.ulsb)).toNat % 2 ^ 64

/-- METER_OUTAGE of element `e` (Tables 13-6, 11-13). -/
def meterOutage (e : Nat) (power : Rat) (ms : Nat) (s : State) : State :=
  noteExt s.am.nq 11 0x08 1 (fld e 28 4 + min ms (2 ^ 28 - 1)) (fld e 54 2 + ms % 2 ^ 46)
    (some (padTo 24 (leBytes 8 (boundUlsb (getElem' s e) power ms)))) s

/-- ENERGY_UNSAVED of element `e` for the registers of `mask`. -/
def energyUnsaved (e mask : Nat) (power : Rat) (ms : Nat) (s : State) : State :=
  noteExt s.am.nq 11 0x07 2 (fld e 28 4 + mask % 256) (fld e 54 2 + fld mask 46 8 + ms % 2 ^ 46)
    (some (padTo 24 (leBytes 8 (boundUlsb (getElem' s e) power ms)))) s

/-- Milliseconds of a span of 2^-16 ns, 0 for a negative one. -/
def msOf16 (d : Int) : Nat := (d / (1000000 * 2 ^ 16)).toNat

/-- At the first step after a thaw, the step is the duration of the freeze: every element it stopped reports its outage
(11 R375). -/
def outageStep (d : Int) (s : State) : State :=
  (tkeys s.am.els).foldl (fun s e =>
    match (getElem' s e).stopped with
    | some (_, 2) => meterOutage e (getElem' s e).sPeak (msOf16 d) (updElem e (fun x => { x with stopped := none }) s)
    | _ => s) s

/-- At its first new block an element reports the outage since it stopped (11 R373, R374). -/
def outageBlock (e : Nat) (s : State) : State :=
  match (getElem' s e).stopped with
  | some (t, k) =>
    if k == 2 then s else
    let x := getElem' s e
    meterOutage e (if k == 1 then x.sPeak else elementSfs s x) (msOf16 (now s - t)) (updElem e (fun x => { x with stopped := none }) s)
  | none => s

end Sys2Proof.Machine
end

