-- ==== Sys2Proof/Machine/Phasors.lean ====
section
/-! DEFINITION. Estimates from anchor samples (11 R354 to R363): the tracked frequency and the phasor of a steady signal, and
what a report may differ from them. A window whose samples one sinusoid explains is steady; the manual bounds the estimates of
such a signal and gives no estimator, so the estimator's own results are operands held within that bound (log
83). -/

namespace Sys2Proof.Machine

/-! ### Frequencies and delays -/

/-- FNOM of element `e`: that of a virtual stream that refers to it, else the implementation's (11 R365 names none). -/
def elemFnom (s : State) (e : Nat) : Nat :=
  match s.am.vss.find? (fun v => v.2.p.ref == e) with
  | some v => v.2.p.fnom
  | none => if Config.meterAt60 then 60 else 50

/-- Tracked frequency of element `e` in Hz: FNOM while it is invalid (11 R365). -/
def elemFreq (s : State) (e : Nat) : Rat := (elemFnom s e : Rat) + mkRat (getElem' s e).trackedF 4000

/-- The elements that use a channel. -/
def elementsUsing (s : State) (ch : Nat) : List Nat :=
  (List.range 4).filter (fun e => let x := getElem' s e; x.defd && (x.p.chans.take (2 * x.p.phases)).contains ch)

/-- The element whose frequency a channel follows: the first that uses it. -/
def chanElem (s : State) (k : Nat) : Nat := (elementsUsing s k).headD 0

/-- Seconds of one FRC count at the present RATE (04 R122). -/
def countSec (s : State) : Rat := mkRat s.tm.rate (2 ^ 40 * 10 ^ 9)

/-- Seconds of a span of 2^-16 ns. -/
def secs16 (t : Int) : Rat := mkRat t (2 ^ 16 * 10 ^ 9)

/-- Delay of a RECORD response, s: all of them are linear in phase (Table 11-2). -/
def recDelay (code : Nat) : Rat := mkRat ([1048576, 786432, 524288, 0, 0, 196224].getD code 0) (10 ^ 9)

/-- Delay of an ALARM response, s: its phase at the tracked frequency, which the ROM gives (11 R354, R357). -/
def almDelay (code : Nat) (f : Rat) : Rat := secs16 (Config.almDelay code (roundRat (f * 4000)))

/-- Delay of the response that class `cls` takes of channel `k` (Table 11-4). -/
def classDelay (s : State) (cls k : Nat) : Rat :=
  let c := getMChan s k
  if cls == 2 then almDelay c.p.respAlm (elemFreq s (chanElem s k)) else recDelay c.p.respRec

/-! ### Windows (Table 11-4) -/

/-- The window of a class in nominal cycles. -/
def windowCycles (cls fnom rate : Nat) : Nat :=
  match cls with
  | 0 => 2
  | 1 => max 4 (roundDiv (7 * fnom : Nat) rate).toNat
  | _ => 1

/-- Half of a window, s. -/
def halfWindow (cls fnom rate : Nat) : Rat := mkRat (windowCycles cls fnom rate) (2 * fnom)

/-- cos and sin of `t` turns in 2^-60. -/
def unitAt (t : Rat) : Int × Int :=
  let r := radOfTurn (roundRat (t * 2 ^ 64))
  (cosOf r / 2 ^ 68, sinOf r / 2 ^ 68)

/-- The weight of a sample at `u` of half a window from its middle, in 2^-60: triangular, Hamming, rectangular. -/
def windowWeight (cls : Nat) (u : Rat) : Int :=
  match cls with
  | 0 => roundRat ((1 - ratAbs u) * 2 ^ 60)
  | 1 => roundDiv (54 * 2 ^ 60 + 46 * (unitAt (u / 2)).1) 100
  | _ => 2 ^ 60

/-- A sample in a window: seconds from the middle, weight, code. -/
structure EstSample where
  tau : Rat
  w : Int
  x : Int
deriving DecidableEq, Repr

/-- The samples of a channel since its last restart, newest first (11 R352). -/
def sinceRestart (l : List SdSample) : List SdSample := l.takeWhile (fun e => !e.mark)

/-- The outputs of channel `k` whose measurement times lie in the window of class `cls` around `tn`, with their distances from
it (11 R354, R360). -/
def inWindow (s : State) (cls fnom rate k : Nat) (tn : Int) : List (Rat × SdSample) :=
  let half := halfWindow cls fnom rate
  let d := classDelay s cls k
  (sinceRestart (getMChan s k).hist).filterMap (fun e =>
    let t := secs16 (e.stamp - tn) - d
    if ratAbs t ≤ half then some (t, e) else none)

/-- The valid code of an output in class `cls`. -/
def SdSample.code (cls : Nat) (e : SdSample) : Option Int := if cls == 2 then e.vAlm else e.vRec

/-- The window of channel `k` with its weights. -/
def windowOf (s : State) (cls fnom rate k : Nat) (tn : Int) : List EstSample :=
  let half := halfWindow cls fnom rate
  (inWindow s cls fnom rate k tn).filterMap (fun e => (e.2.code cls).map (fun x => ⟨e.1, windowWeight cls (e.1 / half), x⟩))

/-- A channel is valid in a report: enabled, of a kind, with outputs in the window and none of them invalid (11 R361). -/
def windowValid (s : State) (cls fnom rate k : Nat) (tn : Int) : Bool :=
  let c := getMChan s k
  let l := inWindow s cls fnom rate k tn
  c.p.en == 1 && c.p.kind != 0 && !c.modFault && !l.isEmpty && l.all (fun e => (e.2.code cls).isSome)

/-- The window of a channel holds an UNSETTLED output (11 R362). -/
def windowUnsettled (s : State) (cls fnom rate k : Nat) (tn : Int) : Bool :=
  (inWindow s cls fnom rate k tn).any (fun e => if cls == 2 then e.2.almUns else e.2.recUns)

/-! ### The sinusoid that explains a window -/

/-- The sinusoid a cos - b sin of one frequency that fits a window best, in codes, and the weighted mean square of what it leaves. -/
structure Fit where
  a : Rat
  b : Rat
  left : Rat
deriving DecidableEq, Repr

/-- Weighted sums of a window at frequency `f`: of cc, cs, ss, xc, xs, xx and of the weights. -/
def fitSums (f : Rat) (l : List EstSample) : Int × Int × Int × Int × Int × Int × Int :=
  l.foldl (fun z e =>
    let (c, q) := unitAt (f * e.tau)
    let (cc, cs, ss, xc, xs, xx, ws) := z
    (cc + e.w * c * c, cs + e.w * c * q, ss + e.w * q * q, xc + e.w * e.x * c, xs + e.w * e.x * q, xx + e.w * e.x * e.x, ws + e.w))
    (0, 0, 0, 0, 0, 0, 0)

/-- The best fit at frequency `f`. -/
def fitAt (f : Rat) (l : List EstSample) : Fit :=
  let (cc, cs, ss, xc, xs, xx, ws) := fitSums f l
  let det := cc * ss - cs * cs
  let unit : Rat := 2 ^ 60
  let a : Rat := ((xc * ss - xs * cs : Int) : Rat) * unit / (det : Rat)
  let q : Rat := ((xs * cc - xc * cs : Int) : Rat) * unit / (det : Rat)
  ⟨a, -q, ((xx : Rat) - (a * (xc : Rat) + q * (xs : Rat)) / unit) / (ws : Rat)⟩

/-- The frequency of a list whose fit leaves least. -/
def bestFreq (l : List EstSample) : List Rat → Rat → Rat
  | [], f => f
  | g :: gs, f => bestFreq l gs (if (fitAt g l).left < (fitAt f l).left then g else f)

/-- The interval that holds the best fit, narrowed by thirds. -/
def narrowFreq (l : List EstSample) : Nat → Rat → Rat → Rat
  | 0, lo, hi => (lo + hi) / 2
  | n + 1, lo, hi =>
    let p := (2 * lo + hi) / 3
    let q := (lo + 2 * hi) / 3
    if (fitAt p l).left < (fitAt q l).left then narrowFreq l n lo q else narrowFreq l n p hi

/-- The frequency from 40 to 70 Hz that fits a window of `cycles` nominal cycles best, to within 2^-20 Hz (11 R361). -/
def fitFreq (cycles fnom : Nat) (l : List EstSample) : Rat :=
  let step : Rat := mkRat fnom (4 * cycles)
  let g := bestFreq l ((List.range (120 * cycles / fnom + 2)).map (fun (i : Nat) => 40 + mkRat i 1 * step)) 40
  narrowFreq l 40 (g - step) (g + step)

/-- A window is whole: its outputs reach from one end to the other within one sample. -/
def windowWhole (half : Rat) (l : List EstSample) : Bool :=
  let gap : Rat := mkRat 131072 (10 ^ 9)
  l.any (fun e => e.tau ≤ gap - half) && l.any (fun e => half - gap ≤ e.tau)

/-- The steady signal of a channel around `tn`: frequency in Hz and the fit, when the window is whole, a sinusoid leaves at most
one code of it in the mean, and its RMS lies from 10 % to 100 % of FS / sqrt 2 (11 R363). -/
def steadyOf (s : State) (cls fnom rate k : Nat) (tn : Int) : Option (Rat × Fit) :=
  let l := windowOf s cls fnom rate k tn
  if !windowWhole (halfWindow cls fnom rate) l then none
  else
    let f := fitFreq (windowCycles cls fnom rate) fnom l
    let g := fitAt f l
    let m := g.a * g.a + g.b * g.b
    if g.left ≤ 1 && mkRat (131072 * 131072) 100 ≤ m && m ≤ 131072 * 131072 then some (f, g) else none

/-! ### Corrections (11 R358) -/

/-- √x of a rational of at least 0, to 2^-40. -/
def ratSqrt (x : Rat) : Rat := mkRat (sqrtRound (x.num.natAbs * 2 ^ 80) x.den) (2 ^ 40)

/-- m′ / m of the MAGNITUDE calibration, for an RMS value in codes of FS. -/
def magnitudeScale (c : CalP) (m2 : Rat) : Rat :=
  let o : Rat := (c.offsetR * c.offsetR : Int)
  mkRat c.gainR (2 ^ 30) * (if m2 ≤ o then 0 else ratSqrt ((m2 - o) / m2))

/-- φ = PH_OFS + f x PH_DELAY in turns. -/
def phaseLag (c : CalP) (f : Rat) : Rat := mkRat c.phOfs (2 ^ 18) + f * mkRat c.phDelay (256 * 10 ^ 9)

/-- The phasor of a steady signal, AV18 of FS / sqrt 2: corrected, and referred to a cosine at FNOM that peaks at each whole
second; `frac` is the fraction of tn's second (11 R358, R361). -/
def steadyPhasor (c : CalP) (fnom : Nat) (frac f : Rat) (g : Fit) : Rat × Rat :=
  let k := magnitudeScale c ((g.a * g.a + g.b * g.b) / 2) / 2 ^ 60
  let (x, y) := unitAt (phaseLag c f - (fnom : Rat) * frac)
  ((g.a * (x : Rat) - g.b * (y : Rat)) * k, (g.a * (y : Rat) + g.b * (x : Rat)) * k)

/-! ### What a report may differ by (11 R363) -/

/-- The code of `raw` held within [lo, hi], or the code nearest its middle when no code lies there. -/
def heldWithin (lo hi : Rat) (raw : Int) : Int :=
  if hi.floor < lo.ceil then roundRat ((lo + hi) / 2) else clampInt lo.ceil hi.floor raw

/-- A reported phasor is within the TVE of the steady one: 0.05 % for P and M, 1 % for ALARM. -/
def tveOk (cls : Nat) (v : Rat × Rat) (r : Int × Int) : Bool :=
  let tve : Rat := if cls == 2 then mkRat 1 100 else mkRat 5 10000
  let dx := (r.1 : Rat) - v.1
  let dy := (r.2 : Rat) - v.2
  dx * dx + dy * dy ≤ tve * tve * (v.1 * v.1 + v.2 * v.2)

/-- The phasor the estimator delivers for channel `k`: its own, held within the TVE of a steady signal. -/
def heldPhasor (s : State) (cls fnom rate k : Nat) (tn : Int) (frac : Rat) (raw : Int × Int) : Int × Int :=
  match steadyOf s cls fnom rate k tn with
  | none => (clampInt (-131072) 131071 raw.1, clampInt (-131072) 131071 raw.2)
  | some (f, g) =>
    let v := steadyPhasor (getMChan s k).c fnom frac f g
    let r := if tveOk cls v raw then raw else (roundRat v.1, roundRat v.2)
    (clampInt (-131072) 131071 r.1, clampInt (-131072) 131071 r.2)

/-- The frequency delivered, FQ18: within 0.5 mHz of a steady one. -/
def heldFreq (fnom : Nat) (steady : Option Rat) (raw : Int) : Int :=
  match steady with
  | none => clampInt (-131072) 131071 raw
  | some f => heldWithin ((f - (fnom : Rat)) * 4000 - 2) ((f - (fnom : Rat)) * 4000 + 2) raw

/-- The ROCOF delivered, RC18: within 0.01 Hz/s of a steady signal's 0. -/
def heldRocof (steady : Bool) (raw : Int) : Int := if steady then clampInt (-10) 10 raw else clampInt (-131072) 131071 raw

/-- The frequency of a channel's RECORD samples over two nominal cycles that end with the newest, when steady (11 R365). -/
def recordFreq (s : State) (fnom k : Nat) : Option Rat :=
  match (getMChan s k).hist with
  | e :: _ =>
    let mid := secs16 e.stamp - recDelay (getMChan s k).p.respRec - mkRat 1 fnom
    (steadyOf s 0 fnom 1 k (mid * (2 ^ 16 * 10 ^ 9)).floor).map (·.1)
  | [] => none

/-! ### RMS values (11 R359) -/

/-- The integral of x^2 over the newest `w` counts of an output, by trapezoids, and the counts covered. -/
def squareSum : List (Nat × Int) → Rat → Rat × Rat
  | (t1, a) :: (t0, b) :: l, w =>
    let d : Rat := ((t1 - t0 : Nat) : Rat)
    let a2 : Rat := (a * a : Int)
    let b2 : Rat := (b * b : Int)
    if w ≤ d then (w * (2 * a2 + (b2 - a2) * (w / d)) / 2, w)
    else
      let r := squareSum ((t0, b) :: l) (w - d)
      (d * (a2 + b2) / 2 + r.1, d + r.2)
  | _, _ => (0, 0)

/-- The mean square of an output over the newest `w` counts; of one sample, its square. -/
def meanSquare (l : List (Nat × Int)) (w : Rat) : Rat :=
  let r := squareSum l w
  if r.2 ≤ 0 then (match l with | (_, a) :: _ => ((a * a : Int) : Rat) | [] => 0) else r.1 / r.2

/-- An RMS code: the corrected RMS of the mean square, with an error of at most `num` / 10,000 of reading that the free value
takes; outside 10 % to 100 % of FS / sqrt 2 the manual bounds no error and the value is free. -/
def rmsCode (c : CalP) (m2 : Rat) (num fr : Nat) : Nat :=
  let m := ratSqrt m2 * magnitudeScale c m2
  if m * m * 200 < 131072 * 131072 || 131072 * 131072 < m * m * 2 then fr % 2 ^ 17
  else
    let lo := (m * (1 - mkRat num 10000)).ceil.toNat
    let hi := (m * (1 + mkRat num 10000)).floor.toNat
    if hi < lo then (roundRat m).toNat else lo + fr % (hi - lo + 1)

end Sys2Proof.Machine
end

