-- ==== Sys2Proof/Machine/Energy.lean ====
section
/-! DEFINITION. Energy of metering elements (11 R355, R358, R364 to R370, R372, R376): the samples brought onto the measurement
times of channel 0, the energies of a block, their classification and accumulation, and the pulses due. -/

namespace Sys2Proof.Machine

/-- BAR2 addresses of AM counters (11 R379): global, per element, per channel. -/
def amCtr (off : Nat) : Nat := 0x10A000 + off
def elCtr (e off : Nat) : Nat := 0x10A200 + 0x40 * e + off
def chCtr (k off : Nat) : Nat := 0x10A400 + 0x20 * k + off

/-- AM is clocked (11 R376): its domain on, not in BOOT or FROZEN. -/
def amClocked (s : State) : Bool := s.pm.domAnchor && s.pm.mode != .boot && s.pm.mode != .frozen

/-- SD_CLK runs (11 R351). -/
def sdClkRuns (s : State) : Bool := amClocked s && s.am.sdclkEn

/-- Elements may accumulate: not in BOOT, PROVISION or FROZEN, nor while PFW_N or RESET_N has stopped them (11 R372,
R376). -/
def energyRuns (s : State) : Bool :=
  !s.am.halted && (match s.pm.mode with | .boot => false | .provision => false | .frozen => false | _ => true)

/-- A channel restarts: its responses and estimators have no history (11 R352). -/
def MChan.restart (c : MChan) (s : State) : MChan :=
  { c with recCount := 0, almCount := 0, recSample := none, almSample := none, overrange := false, recRmsAt := 0, almRmsAt := 0,
           hpRec := (0, 0), hpAlm := (0, 0),
           hist := (⟨s.tm.frc, now s, none, none, true, true, true⟩ :: c.hist).take 65536 }

/-! ### Interpolation (11 R355, R365) -/

/-- The weight of point `p` at `t` in the polynomial through a list of points. -/
def lagrangeWeight (pts : List (Rat × Rat)) (p t : Rat) : Rat :=
  pts.foldl (fun w q => if q.1 == p then w else w * ((t - q.1) / (p - q.1))) 1

/-- The polynomial through a list of points, at `t`. -/
def lagrange (pts : List (Rat × Rat)) (t : Rat) : Rat :=
  pts.foldl (fun acc p => acc + p.2 * lagrangeWeight pts p.1 t) 0

/-- The points of a line up to its first gap. -/
def unbroken (l : List (Rat × Option Rat)) : List (Rat × Rat) :=
  (l.takeWhile (fun e => e.2.isSome)).filterMap (fun e => e.2.map (fun v => (e.1, v)))

/-- The `n` points of a line, newest first, that lie nearest to `t` on both sides, within one unbroken run; none when the run
begins after `t`. -/
def nearPoints (n : Nat) (l : List (Rat × Option Rat)) (t : Rat) : List (Rat × Rat) :=
  let later := unbroken (l.takeWhile (fun e => decide (t < e.1))).reverse
  let earlier := unbroken (l.dropWhile (fun e => decide (t < e.1)))
  if earlier.isEmpty then []
  else
    let a := later.take (max (n / 2) (n - earlier.length))
    earlier.take (n - a.length) ++ a

/-- The value of a line at `t` through its `n` nearest points; 0 before the first sample after a restart, where a response has
no history (11 R352). -/
def valueAt (n : Nat) (l : List (Rat × Option Rat)) (t : Rat) : Rat := lagrange (nearPoints n l t) t

/-- Points that bring a component of up to 1,500 Hz onto another time within 1 ns (11 R355), and those of the cubic
interpolation of R365. -/
def finePoints : Nat := 22
def cubicPoints : Nat := 4

/-- FRC counts by which samples of channel `k` are moved earlier in the energy path: the delay of its response and the PHASE
correction at frequency `f` (11 R354, R355, R358). -/
def movedEarlier (s : State) (f : Rat) (k : Nat) : Rat :=
  let c := getMChan s k
  (recDelay c.p.respRec + mkRat c.c.phDelay (256 * 10 ^ 9) + mkRat c.c.phOfs (2 ^ 18) / f) / countSec s

/-- The RECORD samples of channel `k` in the energy path, newest first: the FRC count each is placed at, and its primary value
when valid. -/
def energyLine (s : State) (f : Rat) (k : Nat) : List (Rat × Option Rat) :=
  let d := movedEarlier s f k
  let fs := ratOfFloat (getMChan s k).p.fs / 131072
  (getMChan s k).hist.map (fun e => ((e.frc : Rat) - d, e.vRec.map (fun v => (v : Rat) * fs)))

/-! ### Blocks (11 R365) -/

/-- Boundaries of channel 0, newest first, each with the FRC counts since the one before. -/
def boundSteps : List Nat → List (Nat × Nat)
  | [] => []
  | [b] => [(b, 51200)]
  | b :: a :: l => (b, b - a) :: boundSteps (a :: l)

/-- Channels of element `e`, voltage and current in turn. -/
def elemChans (s : State) (e : Nat) : List Nat := (getElem' s e).p.chans.take (2 * (getElem' s e).p.phases)

/-- The boundary that ends the open block of element `e`: the first at or after its start plus 1/(8f). -/
def blockEnd (s : State) (e : Nat) : Option Nat :=
  let span := 1 / (8 * elemFreq s e) / countSec s
  (s.am.bounds.filter (fun (b : Nat) => decide ((((getElem' s e).blockAt : Nat) : Rat) + span ≤ (b : Rat)))).getLast?

/-- The measurement time, in FRC counts, of a boundary of channel 0. -/
def measuredAt (s : State) (b : Nat) : Rat := (b : Rat) - recDelay (getMChan s 0).p.respRec / countSec s

/-- Every channel of element `e` has `n` outputs after the measurement time of boundary `b`. -/
def reaches (n : Nat) (s : State) (e b : Nat) : Bool :=
  let f := elemFreq s e
  (elemChans s e).all (fun k => n ≤ ((energyLine s f k).takeWhile (fun x => decide (measuredAt s b < x.1))).length)

/-- A channel of element `e` is invalid for a sample of the block (start, stop], or gave none (11 R368). -/
def blockBad (s : State) (e start stop : Nat) : Bool :=
  (elemChans s e).any (fun k =>
    let l := (getMChan s k).hist.filter (fun x => start < x.frc && x.frc ≤ stop + 1100)
    l.isEmpty || l.any (fun x => x.vRec.isNone))

/-- The contribution of one phase at measurement time `t`: v i and v delayed by a quarter cycle times i (11 R365). -/
def phasePower (lv li : List (Rat × Option Rat)) (quarter t : Rat) : Rat × Rat :=
  let i := valueAt finePoints li t
  (valueAt finePoints lv t * i, valueAt cubicPoints lv (t - quarter) * i)

/-- e_p and e_q of the block (start, stop] of element `e`, in aJ, before DIR (11 R365). -/
def blockEnergy (s : State) (e start stop : Nat) : Int × Int :=
  let f := elemFreq s e
  let sec := countSec s
  let quarter := 1 / (4 * f) / sec
  let steps := (boundSteps s.am.bounds).filter (fun b => start < b.1 && b.1 ≤ stop)
  let tot := (List.range (getElem' s e).p.phases).foldl (fun (z : Rat × Rat) p =>
    let lv := energyLine s f ((getElem' s e).p.chans.getD (2 * p) 0)
    let li := energyLine s f ((getElem' s e).p.chans.getD (2 * p + 1) 0)
    steps.foldl (fun (z : Rat × Rat) b =>
      let w := phasePower lv li quarter (measuredAt s b.1)
      let dt := (b.2 : Rat) * sec
      (z.1 + w.1 * dt, z.2 + w.2 * dt)) z) (0, 0)
  (roundRat (tot.1 * 10 ^ 18), roundRat (tot.2 * 10 ^ 18))

/-- An energy the device accumulates: within `num` / 10,000 of the one its samples give (11 R369). -/
def heldEnergy (num : Nat) (ideal raw : Int) : Int :=
  let d : Int := ((ideal.natAbs * num / 10000 : Nat) : Int)
  clampInt (ideal - d) (ideal + d) raw

/-- The energies of a block: active within 0.02 %, reactive within 0.05 %. -/
def heldEnergies (ideal raw : Int × Int) : Int × Int := (heldEnergy 2 ideal.1 raw.1, heldEnergy 5 ideal.2 raw.2)

/-! ### Registers and pulses (11 R366, R367, R370) -/

/-- attojoules of one ULSB: 10^(u - 6) Wh (11 R367). -/
def ulsbAj (u : Nat) : Nat := 3600 * 10 ^ (u + 12)

/-- A register takes an energy in aJ: the register after it, the units added, and the rollovers (11 R367). -/
def EReg.add (r : EReg) (u digits : Nat) (aj : Nat) : EReg × Nat × Nat :=
  let f := r.frac + (roundDiv (aj * 2 ^ 48 : Nat) (ulsbAj u)).toNat
  let units := f / 2 ^ 48
  let n := r.count + units
  (⟨n % 10 ^ digits, f % 2 ^ 48, (r.roll + n / 10 ^ digits) % 2 ^ 32⟩, units, n / 10 ^ digits)

/-- The pulse outputs that follow a register take its increments; each KH makes a pulse fall due (11 R370). -/
def addPulses (e r units : Nat) (s : State) : State :=
  (List.range 4).foldl (fun s n =>
    let x := tget Pulse.reset s.am.pulses n
    if x.p.en != 1 || x.p.el != e || x.p.reg != r || x.p.kh == 0 then s
    else
      let tot := x.residue + units
      let due := tot / x.p.kh
      let fit := min due (255 - x.backlog.length)
      let lost := due - fit
      let open' := x.ovfOpen || 0 < lost
      let x' := { x with residue := tot % x.p.kh, backlog := x.backlog ++ List.replicate fit s.tm.frc, ovfOpen := open' }
      let s := { s with am := { s.am with pulses := tset s.am.pulses n x' } }
      let s := countN (amCtr 0x18) lost s
      if open' && !x.ovfOpen then note s.am.nq 11 0x06 1 n s else s) s

/-- Register `r` of element `e` accumulates (11 R367). -/
def accumulate (e r : Nat) (aj : Nat) (s : State) : State :=
  let x := getElem' s e
  let (g, units, rolls) := (x.regs.getD r ⟨0, 0, 0⟩).add x.p.ulsb x.p.digits aj
  let s := addPulses e r units (updElem e (fun x => { x with regs := x.regs.set r g }) s)
  if rolls == 0 then s
  else note s.am.nq 11 0x04 0 (fld e 28 4 + fld r 24 4 + g.roll % 2 ^ 24) (countN (elCtr e 0x18) rolls s)

/-- sqrt(e_p^2 + e_q^2). -/
def apparent (p q : Int) : Nat := sqrtRound (p.natAbs * p.natAbs + q.natAbs * q.natAbs) 1

/-- Registers a block adds to, by Table 11-6, with their energies. -/
def blockAdds (p q : Int) (es : Nat) : List (Nat × Nat) :=
  (if 0 ≤ p then [(0, p.natAbs), (6, es)] else [(1, p.natAbs), (7, es)]) ++
  (if q == 0 then [] else if 0 < q then [(if 0 ≤ p then 2 else 3, q.natAbs)] else [(if p < 0 then 4 else 5, q.natAbs)])

/-- Quadrant of a block, Q1 to Q4 as 0 to 3. -/
def quadrantOf (p q : Int) : Nat := if 0 ≤ q then (if 0 ≤ p then 0 else 1) else if p < 0 then 2 else 3

/-- Element `e` takes one addition of a block: a register and its energy. -/
def addBlock (e : Nat) (s : State) (a : Nat × Nat) : State := accumulate e a.1 a.2 s

/-- A valid block of element `e` whose power and no-load decision are known (Table 11-6). -/
def keepBlock (e : Nat) (p q : Int) (es : Nat) (durNs : Rat) (noload : Bool) (s : State) : State :=
  let per : Rat := durNs * 10 ^ 9
  let va : Rat := (es : Rat) / per
  let s := updElem e (fun x => { x with noload := noload, lastP := (p : Rat) / per, lastQ := (q : Rat) / per,
                                        sPeak := if x.sPeak < va then va else x.sPeak,
                                        quadrant := if noload then x.quadrant else quadrantOf p q }) s
  if noload then count (elCtr e 0x08) s
  else (blockAdds p q es).foldl (addBlock e) s

/-- A valid block (Table 11-6): energies in aJ before DIR, duration in ns. -/
def validBlock (e : Nat) (eP eQ : Int) (durNs : Rat) (s : State) : State :=
  let x := getElem' s e
  let p := if x.p.dir == 1 then -eP else eP
  let q := if x.p.dir == 1 then -eQ else eQ
  let es := apparent p q
  keepBlock e p q es durNs ((es : Rat) < ratOfFloat x.p.noloadVa * durNs * 10 ^ 9) s

/-- An episode of invalid blocks ends: METER_OUTAGE bounded by S_FS (11 R368). -/
def endInvalid (e : Nat) (s : State) : State :=
  let x := getElem' s e
  match x.badSince with
  | some t =>
    let ms := (s.tm.frc - t) * 256 / 100000000
    meterOutage e (elementSfs s x) ms (updElem e (fun x => { x with badSince := none, phaseInvalid := false }) s)
  | none => s

/-- A block in which a channel was invalid (11 R368). -/
def invalidBlock (e : Nat) (s : State) : State :=
  let x := getElem' s e
  let s := count (elCtr e 0x10) (updElem e (fun x => { x with phaseInvalid := true, badSince := some (x.badSince.getD s.tm.frc) }) s)
  if x.badSince.isSome then s else note s.am.nq 11 0x05 2 e s

/-- The block of element `e` that began at its start ends at boundary `stop`; `raw` are the energies before they are held
within 11 R369. The next block starts there (11 R365 to R368). -/
def endBlock (e stop : Nat) (raw : Int × Int) (s : State) : State :=
  let start := (getElem' s e).blockAt
  let bad := blockBad s e start stop
  let en := heldEnergies (blockEnergy s e start stop) raw
  let s := count (elCtr e 0x00) (outageBlock e (updElem e (fun x => { x with blockAt := stop }) s))
  if bad then invalidBlock e s
  else validBlock e en.1 en.2 (((stop - start : Nat) : Rat) * countSec s * 10 ^ 9) (endInvalid e s)

/-- The voltage channels of element `e`. -/
def elemVolts (s : State) (e : Nat) : List Nat := (List.range (getElem' s e).p.phases).map (fun p => (getElem' s e).p.chans.getD (2 * p) 0)

/-- The tracked frequency of element `e` is valid: its voltage is, and lies from 40 to 70 Hz (11 R361, R365). -/
def trackedValid (s : State) (e : Nat) (f : Int) : Bool :=
  let hz : Rat := (elemFnom s e : Rat) + mkRat f 4000
  (elemVolts s e).all (fun k => (getMChan s k).recSample.isSome) && 40 ≤ hz && hz ≤ 70

/-- After each cycle the tracked frequency takes what the estimator finds, within 11 R363; 0, that is FNOM, while it is invalid
(11 R365). -/
def trackFreq (e : Nat) (raw : Int) (s : State) : State :=
  let x := getElem' s e
  if x.cycle != 7 then updElem e (fun x => { x with cycle := x.cycle + 1 }) s
  else
    let f := heldFreq (elemFnom s e) (recordFreq s (elemFnom s e) ((elemVolts s e).headD 0)) raw
    updElem e (fun x => { x with cycle := 0, trackedF := if trackedValid s e f then f else 0 }) s

/-- The raw energies of a block that closes without an ENERGY_BLOCK_END: the error within 11 R369 is free. -/
def freeEnergies (ideal : Int × Int) (s : State) : Int × Int :=
  (ideal.1 + (freeBits 64 s : Int) - 2 ^ 63, ideal.2 + (freeBits 64 (bumpFree s) : Int) - 2 ^ 63)

/-- The open block of element `e` closes at the newest boundary that every channel reaches, and accumulates; a block that
already ended before it ends first (11 R372, R375, R376). -/
def closeBlock (e : Nat) : Nat → State → State
  | 0, s => s
  | n + 1, s =>
    let x := getElem' s e
    let stop := match blockEnd s e with
      | some b => if reaches 1 s e b then some b else none
      | none => none
    let newest := s.am.bounds.find? (fun b => reaches 1 s e b)
    if !x.running then s
    else match stop, newest with
      | some b, _ => closeBlock e n (endBlock e b (freeEnergies (blockEnergy s e x.blockAt b) s) (bumpFree (bumpFree s)))
      | none, some b => if x.blockAt < b then endBlock e b (freeEnergies (blockEnergy s e x.blockAt b) s) (bumpFree (bumpFree s)) else s
      | none, none => s

/-- The open block of every element closes. -/
def closeBlocks (s : State) : State := (List.range 4).foldl (fun s e => closeBlock e 64 s) s

end Sys2Proof.Machine
end

