-- ==== Sys2Proof/Machine/Freeze.lean ====
section
/-! DEFINITION. Freeze and thaw (14 R467 to R470), and what several events do to energy, anchor channels and links alike. -/

namespace Sys2Proof.Machine

/-! ### Parts other events share -/

/-- The open blocks close, and accumulation of every running element stops at the present device time; its METER_OUTAGE becomes
due (11 R372 to R375), as `kind` says. -/
def stopEnergy (kind : Nat) (s : State) : State :=
  let s := closeBlocks s
  { s with am := { s.am with els := s.am.els.map (fun e =>
      if e.2.running then (e.1, { e.2 with running := false, stopped := some (e.2.stopped.getD (now s, kind)) }) else e) } }

/-- Every enabled element runs again, with a new block (11 R373, R375). -/
def resumeEnergy (s : State) : State :=
  if !energyRuns s then s
  else { s with am := { s.am with els := s.am.els.map (fun e =>
      if e.2.en then (e.1, { e.2 with running := true, blockAt := s.tm.frc, cycle := 0 }) else e) } }

/-- SD_CLK starts again, its edges on multiples of 100 counts: every channel restarts, and channel 0's first boundary falls 512
periods later (11 R351, R352). -/
def restartChannels (s : State) : State :=
  { s with am := { s.am with sdBase := ceilDiv s.tm.frc 100 * 100 + 51200,
                             chans := s.am.chans.map (fun e => (e.1, e.2.restart s)) } }

/-- Every resampler history is cleared (05 R185). -/
def clearHistories (s : State) : State :=
  { s with si := { s.si with streams := s.si.streams.map (fun e => (e.1, { e.2 with hist := [], n := 0, restart := true })) } }

/-- The link of a port goes down: LINK_CHG, its notice and count, and its queues are empty (03 R109, Table 3-12). -/
def dropLink (p : Nat) (s : State) : State :=
  let t := getPort s p
  let s := updPort p (fun t => { t with linkUp := false, pcsLock := false, fecLock := false, queues := [],
                                        linkChg := t.linkChg || t.linkUp }) s
  if t.linkUp then note s.np.nq 1 0x02 2 p (count (portCtr p 0x100) s) else s

/-- Every link goes down. -/
def dropLinks (s : State) : State := (List.range 5).foldl (fun s p => dropLink p s) s

/-- TQ starts INVALID, Tether without a reference for its outlier test (01 R34, 04 R141, R143). -/
def tetherInvalid (s : State) : State :=
  tqUpdate { s with tm := { s.tm with tether := { s.tm.tether with
    tqServo := .invalid, lockedOnce := false, refOk := false, fine := 0, over150 := 0, over1000 := 0 } } }

/-! ### Freeze -/

/-- The clocks stop (14 R467): a handshake is abandoned with reason FREEZE (01 R35), energy blocks close (11 R375), the
freeze gap opens (06 R218). `cause`: 1 FREEZE_N, 2 SYS.FREEZE, 3 rule. -/
def stopClocks (cause : Nat) (s : State) : State :=
  let s := ergFreeze (stopEnergy 2 (haltSleep 8 s))
  let s := note s.pm.nq 15 0x08 1 cause (count 0x10F018 s)
  let back := s.pm.mode
  let keep := if back == .doze then s.pm.returnMode else s.pm.dozeReturn
  let s := setMode .frozen { s with pm := { s.pm with returnMode := back, dozeReturn := keep, frozenBySys := cause != 1 } }
  { s with hi := { s.hi with lswCopy := lsw s } }

/-- A freeze trigger (01 Table 1-9, R32, 14 R470): in BOOT only FREEZE_N waits for its end; while the actions of PFW_N or
RESET_N run it takes effect when they end; in FROZEN it adds nothing. -/
def freeze (cause : Nat) (s : State) : State :=
  if s.pm.mode == .frozen || s.pm.mode == .boot then s
  else if s.pm.pfwActions then { s with pm := { s.pm with deferFreeze := if s.pm.deferFreeze == 0 then cause else s.pm.deferFreeze } }
  else stopClocks cause s

/-! ### Thaw -/

/-- The clocks restart (14 R469, 01 R34, 05 R185, 11 R351, R375, 03 R119): the mode returns and is re-evaluated. `byPfw`:
ended by a fall of PFW_N. -/
def thaw (byPfw : Bool) (s : State) : State :=
  if s.pm.mode != .frozen then s
  else
    let back := s.pm.returnMode
    let s := { s with pm := { s.pm with returnMode := s.pm.dozeReturn, frozenBySys := false } }
    let s := tetherInvalid s
    let s := setMode (if back.isService then serviceMode s else back) s
    let s := note s.pm.nq 15 0x09 0 (b2n byPfw) s
    let s := clearHistories (restartChannels s)
    endHalted 8 (dropLinks (if byPfw then s else resumeEnergy s))

/-- FREEZE_N_ASSERT (14 R467): the pin takes a level; low freezes, unless FREEZE_N is ignored after a fall of PFW_N in
FROZEN until PFW_N has returned high (14 R470). -/
def execFreezeNAssert (low : Bool) (s : State) : Host.Outcome State Fault Refusal :=
  .next (
    let s := { s with pins := { s.pins with freezeN := !low } }
    if low && !s.pm.ignoreFreezeN then freeze 1 s else s)

end Sys2Proof.Machine
end

