-- ==== Sys2Proof/Machine/Engines.lean ====
section
/-! DEFINITION. The Mesa engines (chapter 07): commits and what their stages publish, engine faults, takeovers and
self-tests. -/

namespace Sys2Proof.Machine

/-! ### Commits (07 R230, R249) -/

/-- The input and model a stage of an instance computes from, when its group is the one a unit serves. -/
def stageInput (i : Inst) (it : Item) (gid : Nat) : Option Instant := if i.origin == 0 && i.gid == gid then it.input else none

/-- What the topology node publishes (08 R265). -/
def commitTopology (i : Inst) (it : Item) (s : State) : State :=
  match stageInput i it s.ts.p.gid with
  | some x => onModel i.epoch (fun m s => topologyPass i.gid i.k it.disp it.forces m x s) s
  | none => s

/-- What the solve node publishes (08 R274). -/
def commitSolve (i : Inst) (it : Item) (r : ItemResult) (sat : Bool) (s : State) : State :=
  match stageInput i it s.ts.p.gid with
  | some x => onModel i.epoch (fun m s => stateSolve i.gid i.k (it.fac.getD (factorAt s i.epoch)) x.cells r.solve sat m s) s
  | none => s

/-- What the fast-path node publishes (09 R301). -/
def commitFast (i : Inst) (it : Item) (sat : Bool) (s : State) : State :=
  match stageInput i it s.sc.p.gid with
  | some x => fastPath x sat it.disp s
  | none => s

/-- What the decision node publishes (10 R321); the flag asks for a freeze (10 R329). -/
def commitRules (i : Inst) (it : Item) (s : State) : State × Bool :=
  match stageInput i it i.gid with
  | some x => decide' ⟨x, getResult s i.gid i.k, modelOf s i.epoch, it.disp, it.tq⟩ i.gid s
  | none => (s, false)

/-- The outputs of a node, by its STAGE and its graph. -/
def publishOutputs (i : Inst) (it : Item) (r : ItemResult) (sat : Bool) (s : State) : State × Bool :=
  let s := if i.job == s.sc.p.slowJob then slowPath r.slow sat it.node s else s
  match it.d.stage with
  | 1 => (commitTopology i it s, false)
  | 2 => (commitFast i it sat s, false)
  | 3 => (commitSolve i it r sat s, false)
  | 4 => commitRules i it s
  | _ => (s, false)

/-- The progress of a CARAVAN.RUN: nodes committed of its graph's nodes (02 R500). -/
def runProgress (i : Inst) (s : State) : State :=
  match i.handle with
  | some h => updOp h (fun o => { o with done := i.committed.length, total := i.p.nodes.length }) s
  | none => s

/-- A node has committed: the graph it chains to starts, its successors become ready, the instance may end (07 R229,
R230). -/
def afterCommit (i : Inst) (it : Item) (s : State) : State :=
  let s := updInst i.job i.seq (fun i => { i with committed := i.committed ++ [it.node] }) s
  let s := runProgress { i with committed := i.committed ++ [it.node] } s
  let s := if it.d.chain == 0xFFFF then s else (startInst it.d.chain ⟨3, 0, 0, i.seq, none, i.trig⟩ s).2
  let s := makeReady i.job i.seq s
  match getInst s i.job i.seq with
  | some i => if i.p.nodes.all (fun d => i.committed.contains d.node) then endInst i s else s
  | none => s

/-- FRC counts since the dispatch of an item. -/
def Item.sinceDispatch (it : Item) (frc : Nat) : Nat := it.runCounts frc

/-- An accumulator after the multiply-add `a + p`, saturating at the ends of 48 bits; the flag says that it did (07 R245). -/
def satAcc (a : Int) : Int × Bool :=
  if 2 ^ 47 - 1 < a then (2 ^ 47 - 1, true) else if a < -(2 ^ 47) then (-(2 ^ 47), true) else (a, false)

/-- One multiply-add of a lane: its accumulator, and its residue from those of the operands; a saturated accumulator takes the
residue of its end (07 R245, R248). -/
def Lane.step (l : Lane) (m : Mac) : Lane × Bool :=
  let l := if m.clear then ⟨0, 0⟩ else l
  let (a, sat) := satAcc (l.acc + m.x * m.y)
  (⟨a, if sat then (a % 3).toNat else (l.res + (m.x % 3 * (m.y % 3)).toNat) % 3⟩, sat)

/-- The multiply-adds of a run on the engines of its gang; the flag is the item's ACC_SAT (07 R245). -/
def runMacs (es : List Nat) (ms : List Mac) (s : State) : Bool × State :=
  ms.foldl (fun (sat, s) m =>
    match es[m.eng]? with
    | none => (sat, s)
    | some n =>
      let (l, b) := ((getEngine s n).lanes.getD m.lane ⟨0, 0⟩).step m
      (sat || b, updEngine n (fun e => { e with lanes := e.lanes.set m.lane l }) s)) (false, s)

/-- What a run leaves in the local memories of its gang (07 R246). -/
def writeLocal (es : List Nat) (ws : List WordWrite) (s : State) : State :=
  ws.foldl (fun s w => match es[w.place]? with
    | some n => updEngine n (fun e =>
        { e with lmem := if w.data == 0 then tdel e.lmem w.word else tset e.lmem w.word w.data }) s
    | none => s) s

/-- A commit makes the node's resident-page writes current, in the pages it has (07 R249). -/
def writeResident (it : Item) (ws : List WordWrite) (s : State) : State :=
  match getJob s it.job with
  | none => s
  | some x =>
    if x.p.nodes.all (fun d => !(d == it.d)) then s
    else setJob it.job { x with resident := (ws.filter (fun w => w.place < it.d.residentPages)).foldl (fun l w =>
      let key := (it.node * 1024 + w.place) * 512 + w.word
      if w.data == 0 then tdel l key else tset l key w.data) x.resident } s

/-- An item of an instance commits (07 R249); `sat` is its ACC_SAT. -/
def commitNode (i : Inst) (it : Item) (r : ItemResult) (sat : Bool) (s : State) : State :=
  let s := writeResident it r.resident (dropItem it.id (stopItem it s))
  let (s, fz) := publishOutputs i it r sat s
  let s := afterCommit i it s
  if fz then freeze 3 s else s

/-- ITEM_COMMIT (07 R249): the item's outputs are published; with uncorrectable data its instance is aborted instead
(07 R247). -/
def execItemCommit (item : Nat) (r : ItemResult) (dataBad : Bool) (s : State) : Host.Outcome State Fault Refusal :=
  .next (match getItem s item with
    | none => s
    | some it => match it.st with
      | .running es _ _ =>
        if !cvRuns s then s
        else
          let (sat, s) := runMacs es r.macs (writeLocal es r.lmem s)
          let s := if sat && !dataBad then count 0x107820 s else s
          match getInst s it.job it.seq with
          | some i => if dataBad then abortInst i it.node 3 (count 0x107838 s) else commitNode i it r sat s
          | none =>
            let s' := dropItem it.id (stopItem it s)
            if dataBad then failRefac 0x61 (count 0x107838 s') else commitRefac (s.tm.frc - it.sinceDispatch s.tm.frc) s'
      | _ => s)

/-! ### Engine faults and takeovers (07 R248, R250 to R254) -/

/-- BAR2 addresses of MS counters (07 R258). -/
def msCtr (off : Nat) : Nat := 0x107800 + off

/-- The run of an item stops at a fault: what follows its last checkpoint is rolled back (07 R243, R250). -/
def Item.rollBack (it : Item) (frc ckptUs : Nat) : Item :=
  let it := it.checkpointed frc ckptUs
  match it.st with
  | .running _ since ckpt => { it with used := it.used + (frc - since), kept := it.kept + (ckpt - since), reissue := true }
  | _ => it

/-- The item on an engine. -/
def itemOn (s : State) (n : Nat) : Option Item := s.cv.items.find? (fun it => it.engines.contains n)

/-- The gang goes on with a spare in place of the lost engine, once its checkpoint is loaded (07 R250). -/
def takeOver (it : Item) (n spare : Nat) (s : State) : State :=
  let gang := it.engines.map (fun e => if e == n then spare else e)
  let s := putEngine .running spare s
  let s := updItem it.id (fun x => { (x.rollBack s.tm.frc s.cv.ckptUs) with st := .takeover gang }) s
  let s := count (jobCtr it.job 0x18) (count (msCtr 0x10) { s with cv := { s.cv with takeovers := (s.cv.takeovers + 1) % 256 } })
  note s.cv.nq 6 0x02 2 (fld spare 8 8 + n) s

/-- Without an idle spare the item goes to the head of its level (07 R252). -/
def requeue (it : Item) (n : Nat) (s : State) : State :=
  let s := (it.engines.filter (· != n)).foldl (fun s e => putEngine .idle e s) s
  let back := { it.rollBack s.tm.frc s.cv.ckptUs with st := .queued, enqTick := tickCount s }
  let s := { s with cv := { s.cv with items := back :: s.cv.items.filter (fun x => x.id != it.id) } }
  let s := count (jobCtr it.job 0x18) (count (msCtr 0x18) s)
  note s.cv.nq 6 0x05 3 n s

/-- An engine leaves service and its item moves (07 R250, R252); `to'` is the state it goes to. -/
def loseEngine (n : Nat) (to' : EngState) (s : State) : State :=
  let it := itemOn s n
  let s := putEngine to' n s
  match it with
  | none => s
  | some it =>
    match enginesIn s .spare with
    | sp :: _ => takeOver it n sp s
    | [] => requeue it n s

/-- ENGINE_FAULT (07 R248, R250): kinds 1 residue, 2 local memory, 3 sequencer; the rule does not say which of the two counters
counts a sequencer fault, a FREE VALUE (log 80). -/
def execEngineFault (engine kind : Nat) (s : State) : Host.Outcome State Fault Refusal :=
  .next (
    let e := getEngine s engine
    if !cvRuns s || 66 ≤ engine || kind == 0 || 3 < kind || !(e.st == .idle || e.st == .running || e.st == .spare) then s
    else
      let s := if kind == 1 then count (msCtr 0x00) s else if kind == 2 then count (msCtr 0x08) s
        else count (msCtr (if freeBits 1 s == 0 then 0x00 else 0x08)) (bumpFree s)
      let s := note s.cv.nq 6 0x01 2 (fld kind 8 8 + engine) s
      capacityFell (loseEngine engine .selftest s))

/-- TAKEOVER_RESUME (07 R250): the gang has loaded the checkpoint and resumes. -/
def execTakeoverResume (item : Nat) (s : State) : Host.Outcome State Fault Refusal :=
  .next (if !cvRuns s then s
    else updItem item (fun it => match it.st with
      | .takeover e => { it with st := .running e s.tm.frc s.tm.frc }
      | _ => it) s)

/-- Operating seconds of the passes within the last 24 h (07 R253). -/
def recentPasses (s : State) (e : Engine) : List Nat := e.passes.filter (fun t => s.cairn.opsec < t + 86400)

/-- An engine is retired until the next BOOT (07 R253). -/
def retireEngine (n : Nat) (s : State) : State :=
  note s.cv.nq 6 0x03 3 n (updEngine n (fun e => { e with st := .retired, on := false }) s)

/-- An engine becomes an idle spare. -/
def restoreEngine (n : Nat) (s : State) : State :=
  note s.cv.nq 6 0x04 0 n (updEngine n (fun e => { e with st := .spare, on := true, lmem := if e.on then e.lmem else [] }) s)

/-- FENCED_SELFTEST_END (07 R253). -/
def execFencedSelftestEnd (engine : Nat) (pass : Bool) (s : State) : Host.Outcome State Fault Refusal :=
  .next (
    let e := getEngine s engine
    if !cvRuns s || 66 ≤ engine || e.st != .selftest || e.busy.isSome then s
    else if pass then
      let s := count (msCtr 0x28) s
      let old := recentPasses s e
      let s := updEngine engine (fun e => { e with passes := old ++ [s.cairn.opsec] }) s
      reMode (if old.length < 3 then restoreEngine engine s else capacityFell (retireEngine engine s))
    else capacityFell (retireEngine engine (count (msCtr 0x30) s)))

/-- SPARE_SELFTEST (07 R253): a spare repeats its self-test; one that fails is retired. -/
def execSpareSelftest (engine : Nat) (pass : Bool) (s : State) : Host.Outcome State Fault Refusal :=
  .next (if !cvRuns s || 66 ≤ engine || (getEngine s engine).st != .spare then s
    else if pass then count (msCtr 0x28) s
    else capacityFell (retireEngine engine (count (msCtr 0x30) s)))

/-- The engines after the self-test of BOOT or a wake (07 R256): the 64 lowest-numbered that pass go into service, the
next 2 become spares, the others are retired. -/
def assignEngines (passed : List Nat) (s : State) : State :=
  let ok := (List.range 66).filter (fun n => passed.contains n)
  let es := (List.range 66).map (fun n =>
    let i := ok.findIdx? (· == n)
    let old := getEngine s n
    let st : EngState := match i with
      | some i => if i < 64 then .idle else .spare
      | none => .retired
    (n, { old with st := st, on := i.isSome, busy := none, lmem := [] }))
  { s with cv := { s.cv with engines := es } }

end Sys2Proof.Machine
end

