-- ==== Sys2Proof/Machine/Time.lean ====
section
/-! DEFINITION. Device time and Tether (chapter 04): steps, rate changes, the servo, time quality, the checker, and the
time comparators. -/

namespace Sys2Proof.Machine

/-- BAR2 address of a TM counter (04 R156). -/
def tmCtr (off : Nat) : Nat := 0x102000 + off

/-- A TM notice with its event record (04 R157). -/
def tmNote (code severity arg : Nat) (s : State) : State := note s.tm.tether.p.nq 2 code severity arg s

/-- Tether changed. -/
def updTether (f : Tether → Tether) (s : State) : State := { s with tm := { s.tm with tether := f s.tm.tether } }

/-- FRC counts in a second. -/
def secCounts : Nat := 390625000

/-- A nanosecond count in 2^-16 ns. -/
def ns16 (ns : Nat) : Int := (ns * 2 ^ 16 : Nat)

/-! ### Rate and steps (04 R124, R126, R129, R143) -/

/-- The fallback clock takes the main value and INC of this edge (04 R126). -/
def loadFallback (s : State) : State :=
  { s with tm := { s.tm with fallback := mainTime s / 2 ^ 8, inc := s.tm.rate / 2 ^ 8 } }

/-- set_rate of 04 R124; while the main path is failed a rate change loads INC alone (04 R129). -/
def setRate (new : Nat) (s : State) : State :=
  if s.tm.mainFailed then { s with tm := { s.tm with inc := new / 2 ^ 8 } }
  else loadFallback { s with tm := { s.tm with offset := s.tm.offset + s.tm.frc * ((s.tm.rate : Int) - new), rate := new } }

/-- Target k of a comparator, 2^-16 ns (04 R150). -/
def Cmp.target (c : Cmp) (k : Nat) : Int := DT96.to16 c.p.target + (k * c.p.period : Nat)

/-- A step across a comparator's next target marks it (04 R151). -/
def Cmp.stepAcross (c : Cmp) (old new : Int) : Cmp :=
  { c with crossed := c.crossed || (c.armed && old < c.target c.k && c.target c.k ≤ new) }

/-- The spans that TM measures in device time run on across a step of `d` (04 R137, R142). -/
def shiftSpans (d : Int) (tm : Tm) : Tm :=
  { tm with
    tether := { tm.tether with lastAt := tm.tether.lastAt.map (· + d) }
    pps := { tm.pps with prev := tm.pps.prev.map (· + d), waiting := tm.pps.waiting.map (· + d) } }

/-- The class that Tether holds changes; leaving holdover ends TM_HOLD_AGE (04 R145, R147). -/
def setClass (t : Tq) (s : State) : State :=
  let hold := t == .holdFresh || t == .holdAged
  tqUpdate (updTether (fun x => { x with
    tqServo := t
    lockedOnce := x.lockedOnce || t == .locked || t == .lockedFine
    holdSince := if hold then x.holdSince else none }) s)

/-- A signed number of ns held within 32 bits, as a notice carries it. -/
def arg32 (x : Int) : Nat := twosComp 32 (clampInt (-(2 ^ 31 - 1)) (2 ^ 31 - 1) x)

/-- TIME_STEP with the exact step in its record (04 R143, 13 Table 13-6); `d` in 2^-40 ns. -/
def noteStep (d : Int) (s : State) : State :=
  let ns := roundDiv d (2 ^ 40)
  noteExt s.tm.tether.p.nq 2 0x02 1 (arg32 ns) (twosComp 56 (clampInt (-(2 ^ 55 - 1)) (2 ^ 55 - 1) ns))
    (some (padTo 24 (leBytes 12 (twosComp 96 (d / 2 ^ 24))))) s

/-- Device time alone moves by `d`, in 2^-40 ns (04 R124, R126, R129). -/
def moveTime (d : Int) (s : State) : State :=
  if s.tm.mainFailed then { s with tm := { s.tm with fallback := s.tm.fallback + d / 2 ^ 8 } }
  else loadFallback { s with tm := { s.tm with offset := s.tm.offset + d } }

/-- A step of device time by `d`, in 2^-40 ns (04 R143, R147, R151): counts, notice and record, FREERUN, and what other
blocks do at a step (03 R108, 06 R219, 11 R375). -/
def stepTime (d : Int) (s : State) : State :=
  let old := now s
  let s := moveTime d s
  let moved := now s - old
  let s := { s with tm := { shiftSpans moved s.tm with
    cmps := s.tm.cmps.map (fun e => (e.1, e.2.stepAcross old (now s))) } }
  let s := noteStep d (count (tmCtr 0x008) s)
  let s := updTether (fun x => { x with qual := 0, fine := 0, over150 := 0, over1000 := 0, refOk := false }) s
  realignGates (ergStep (outageStep moved (setClass .freerun s)))

/-! ### Holdover and sources (04 R144 to R146) -/

/-- y at its place: RATE for a fractional frequency correction `y` (04 R142). -/
def rateFor (y : Rat) : Nat := (roundRat ((256 * 2 ^ 40 : Nat) / 100 * (1 + y))).toNat

/-- y in force. -/
def setY (y : Rat) (s : State) : State := setRate (rateFor y) (updTether (fun x => { x with y := y }) s)

/-- integ goes to Cairn (04 R144). -/
def saveInteg (s : State) : State :=
  updTether (fun x => { x with savedAt := s.tm.frc }) { s with cairn := { s.cairn with integ := some s.tm.tether.integ } }

/-- Tether enters holdover, forced or not (04 R145, R146): the proportional term is dropped, integ is saved. -/
def enterHoldover (forced : Bool) (s : State) : State :=
  let was := s.tm.tether.servo
  let s := updTether (fun x => { x with servo := if forced then 3 else 2, follow := 0,
                                        source := if x.source == 3 then 3 else 0 }) s
  if was == 2 || was == 3 then s
  else
    let s := saveInteg (setY (-s.tm.tether.integ) s)
    if s.tm.tether.tqServo == .locked || s.tm.tether.tqServo == .lockedFine then
      setClass .holdFresh (updTether (fun x => { x with holdSince := some s.tm.frc }) s)
    else s

/-- PORT_ID of the selected PTP port, 0 when none is. -/
def srcPort (s : State) : Nat := ((s.tm.slave.selected).map (·.1)).getD 0

/-- Tether moves to a source: SOURCE_CHANGE, and the next θ has no reference (04 R141, R145). -/
def switchSource (src : TimeSource) (s : State) : State :=
  let s := updTether (fun x => { x with follow := src, source := if x.source == 3 then 3 else src, refOk := false, outliers := 0 }) s
  tmNote 0x03 1 (fld src 4 4 + (if src == 1 then srcPort s else 0)) s

/-- The source is configured. -/
def configured (s : State) (src : TimeSource) : Bool :=
  src != 0 && (src == s.tm.tether.primary || src == s.tm.tether.secondary)

/-- A configured source that is qualified is followed when Tether follows none. -/
def offerSource (src : TimeSource) (s : State) : State :=
  if s.tm.tether.follow == 0 && s.tm.tether.servo != 3 && configured s src then switchSource src s else s

/-- The source has given an accepted θ within the last 2 s (04 R145). -/
def recentSource (s : State) (src : TimeSource) : Bool :=
  configured s src && (match tfind s.tm.tether.qualified src with
    | some (last, _) => decide (s.tm.frc ≤ last + 2 * secCounts)
    | none => false)

/-- A source is lost: Tether moves to the other qualified one, or enters holdover (04 R145). -/
def loseSource (src : TimeSource) (s : State) : State :=
  let s := updTether (fun x => { x with qualified := tdel x.qualified src }) s
  if s.tm.tether.follow != src || src == 0 then s
  else if recentSource s (3 - src) then switchSource (3 - src) s
  else enterHoldover false s

/-! ### The servo (04 R141, R142, R147) -/

/-- step_allowed() of 04 R143. -/
def stepAllowed (s : State) : Bool :=
  s.tm.tether.p.policy == 0 || (s.tm.tether.p.policy == 1 && !s.tm.tether.lockedOnce)

/-- |θ| in 2^-16 ns exceeds a number of ns. -/
def beyond (theta : Int) (ns : Nat) : Bool := ns16 ns < theta.natAbs

/-- The counts of 04 R147 after an accepted θ. -/
def countTheta (theta : Int) (x : Tether) : Tether :=
  { x with
    qual := if beyond theta 1000 then 0 else min 255 (x.qual + 1)
    fine := if beyond theta 100 then 0 else min 255 (x.fine + 1)
    over150 := if beyond theta 150 then min 3 (x.over150 + 1) else 0
    over1000 := if beyond theta 1000 then min 3 (x.over1000 + 1) else 0 }

/-- The class that Table 4-4 gives after an accepted θ. -/
def nextClass (x : Tether) : Tq :=
  match x.tqServo with
  | .locked => if 3 ≤ x.over1000 then .freerun else if x.p.lockCount ≤ x.fine then .lockedFine else .locked
  | .lockedFine => if 3 ≤ x.over1000 then .freerun else if 3 ≤ x.over150 then .locked else .lockedFine
  | .invalid => .invalid
  | t => if x.p.lockCount ≤ x.fine then .lockedFine else if x.p.lockCount ≤ x.qual then .locked else t

/-- x held within ±m. -/
def clampRat (m x : Rat) : Rat := if x < -m then -m else if m < x then m else x

/-- FMAX as a fraction. -/
def fmaxOf (s : State) : Rat := mkRat s.tm.tether.p.fmaxPpb 1000000000

/-- A clamp has acted, or none has (04 R142). -/
def noteClamp (acts : Bool) (y : Rat) (s : State) : State :=
  let was := s.tm.tether.clamped
  let s := updTether (fun x => { x with clamped := acts }) s
  if !acts then s
  else
    let s := count (tmCtr 0x038) s
    if was then s else tmNote 0x09 2 (arg32 (roundRat (y * 1000000000))) s

/-- τ in 2^-16 ns: device time since the last accepted θ, capped at 4 nominal intervals; a free value where no time has
passed, for which no rule gives τ (04 R142). -/
def tauOf (nominal : Nat) (s : State) : Nat :=
  match s.tm.tether.lastAt with
  | none => 4 * nominal
  | some t => if now s ≤ t then 1 + freeBits 40 s else min (now s - t).toNat (4 * nominal)

/-- Tether slews: integ, y and RATE (04 R142). TM_SERVO_UPDATES counts slews, not steps (DESIGN CHOICE, log 75). -/
def slew (theta : Int) (nominal : Nat) (s : State) : State :=
  let tau := tauOf nominal s
  let s := if s.tm.tether.lastAt.any (fun t => decide (now s ≤ t)) then bumpFree s else s
  let p := s.tm.tether.p
  let r := mkRat theta tau
  let m := fmaxOf s
  let i0 := s.tm.tether.integ + mkRat p.ki 65536 * r
  let i := clampRat m i0
  let y0 := -(mkRat p.kp 65536 * r + i)
  let y := clampRat m y0
  let s := count (tmCtr 0x000) (updTether (fun x => { x with integ := i }) s)
  noteClamp (i != i0 || y != y0) y (setY y s)

/-- An accepted θ of the source Tether follows (04 R142, R143). -/
def onOffset (theta : Int) (nominal : Nat) (maySteps : Bool) (s : State) : State :=
  let s := updTether (fun x => { x with theta := theta, servo := 1, source := x.follow }) s
  let t := s.tm.tether
  if t.tqServo == .invalid || (beyond theta t.p.stepNs && maySteps && stepAllowed s) then
    let s := stepTime (-theta * 2 ^ 24) s
    updTether (fun x => { x with lastAt := some (now s) }) s
  else
    let s := slew theta nominal s
    let s := updTether (fun x => countTheta theta { x with lastAt := some (now s) }) s
    setClass (nextClass s.tm.tether) s

/-- A qualified source has given an accepted θ: the times of R145 and R146. -/
def markQualified (src : TimeSource) (s : State) : State :=
  let f := s.tm.frc
  let since := match tfind s.tm.tether.qualified src with
    | some (last, since) => if f ≤ last + 2 * secCounts then since else f
    | none => f
  updTether (fun x => { x with qualified := tset x.qualified src (f, since) }) s

/-- The outlier test discards θ (04 R141). -/
def isOutlier (theta : Int) (x : Tether) : Bool :=
  x.p.outlierNs != 0 && x.refOk && beyond (theta - x.theta) x.p.outlierNs && x.outliers < 2

/-- One measurement of a source (04 R141): of the source Tether follows it passes the outlier test and steers. -/
def measure (src : TimeSource) (theta : Int) (nominal : Nat) (maySteps : Bool) (s : State) : State :=
  if s.tm.tether.servo == 3 || !configured s src then s
  else
    let s := offerSource src s
    if s.tm.tether.follow != src then markQualified src s
    else if isOutlier theta s.tm.tether then
      count (tmCtr 0x010) (updTether (fun x => { x with outliers := x.outliers + 1 }) s)
    else
      let s := updTether (fun x => { x with outliers := 0, refOk := true }) (markQualified src s)
      onOffset theta nominal maySteps s

/-- The place of an event in the order in which TM applies those of one edge (04 R148): 0 what may fail the main path, 1 what
may step time or change its rate, 3 source loss, 4 a TQ change, 5 comparators and the Dune tick. -/
def tmRank : Instr → Nat
  | .residueMismatch | .timeSelftestEnd _ | .timeCheckpoint => 0
  | .timeSet _ _ | .ptpSyncRx _ _ _ _ _ | .ppsInEdge _ | .todSentenceRx _ _ _ => 1
  | .sourceLoss _ | .ppsLost => 3
  | .holdoverAgeing => 4
  | _ => 5

/-- No event that TM applies before one of place `r` waits on this edge: all commands that wait belong to it, since FRC counts
pass only on an empty queue (log 1). One of places 3 to 5 that comes too early does nothing, and its condition stands (04 R148). -/
def edgeReady (r : Nat) (s : State) : Bool := s.pending.all (fun c => r ≤ tmRank c)

/-- SOURCE_REVERT (04 R146): back to the primary source after REVERT_S seconds of unbroken qualification. -/
def execSourceRevert (s : State) : Host.Outcome State Fault Refusal :=
  .next (
    let x := s.tm.tether
    if s.pm.mode == .frozen || x.revertS == 0 || x.primary == 0 || x.follow == 0 || x.follow == x.primary || !recentSource s x.primary then s
    else match tfind x.qualified x.primary with
      | some (_, since) => if since + x.revertS * secCounts ≤ s.tm.frc then switchSource x.primary s else s
      | none => s)

/-- TM_HOLD_AGE (04 R145): whole seconds since holdover was entered, 0 outside the holdover classes. -/
def holdAge (s : State) : Nat :=
  match s.tm.tether.holdSince with
  | some t => min (2 ^ 32 - 1) ((s.tm.frc - t) / secCounts)
  | none => 0

/-- HOLDOVER_AGEING (04 R147 Table 4-4). -/
def execHoldoverAgeing (s : State) : Host.Outcome State Fault Refusal :=
  .next (
    if s.pm.mode == .frozen || !edgeReady 4 s then s
    else match s.tm.tether.tqServo with
      | .holdFresh => if s.tm.tether.p.freshS ≤ holdAge s then setClass .holdAged s else s
      | .holdAged => if s.tm.tether.p.agedS ≤ holdAge s then setClass .freerun s else s
      | _ => s)

/-- INTEG_SAVE (04 R144): every 3,600 s while locked. -/
def execIntegSave (s : State) : Host.Outcome State Fault Refusal :=
  .next (
    let t := s.tm.tether
    if s.pm.mode != .frozen && (s.tm.tq == .locked || s.tm.tq == .lockedFine) && t.savedAt + 3600 * secCounts ≤ s.tm.frc
    then saveInteg s else s)

/-! ### UTC (04 R149) -/

/-- The TAI second at which the UTC day ends on which a leap is pending (04 R149). -/
def leapInstant (ofs : Int) (leap : Nat) (s : State) : Int :=
  let utc := nowNs s / 1000000000 - ofs
  (utc / 86400 + 1) * 86400 + ofs + (if leap == 1 then 1 else if leap == 2 then -1 else 0)

/-- TM_UTC takes an offset and a leap; an unchanged pending leap keeps its instant. -/
def setUtc (ofs : Int) (valid : Bool) (leap : Nat) (s : State) : State :=
  let same := s.tm.leap == leap && s.tm.utcOfs == ofs
  { s with tm := { s.tm with utcOfs := ofs, utcValid := valid, leap := leap,
                             leapAt := if same then s.tm.leapAt else leapInstant ofs leap s } }

/-- LEAP_APPLY (04 R149). -/
def execLeapApply (s : State) : Host.Outcome State Fault Refusal :=
  .next (
    if s.pm.mode == .frozen || s.tm.leap == 0 || nowNs s < s.tm.leapAt * 1000000000 then s
    else
      let ofs := s.tm.utcOfs + (if s.tm.leap == 1 then 1 else -1)
      tmNote 0x08 0 (twosComp 32 ofs) { s with tm := { s.tm with utcOfs := ofs, leap := 0 } })

/-! ### The checker (04 R127, R128) -/

/-- A self-test of the main path starts; readers take the fallback clock (04 R127). -/
def startSelftest (s : State) : State := { s with tm := { s.tm with selftest := true } }

/-- Main minus fallback, 2^-40 ns. -/
def clockDiff (s : State) : Int := mainTime s - s.tm.fallback * 2 ^ 8

/-- TIME_CHECKPOINT (04 R127): on the edges at which HEARTBEAT advances. It ends the interval in which a residue mismatch
counts as one since the last checkpoint. -/
def execTimeCheckpoint (s : State) : Host.Outcome State Fault Refusal :=
  .next (
    if s.pm.mode == .frozen || s.tm.frc / 409600 == s.tm.checkAt / 409600 then s
    else
      let mismatch := s.tm.residue
      let s := { s with tm := { s.tm with checkAt := s.tm.frc / 409600 * 409600, residue := false } }
      if s.tm.mainFailed || s.tm.selftest then s
      else
        let d := clockDiff s
        if 4 * 2 ^ 40 < d.natAbs then startSelftest { s with tm := { s.tm with difference := d / 2 ^ 40, byResidue := mismatch } }
        else if mismatch then s else loadFallback s)

/-- RESIDUE_MISMATCH (04 R127). -/
def execResidueMismatch (s : State) : Host.Outcome State Fault Refusal :=
  .next (
    if s.pm.mode == .frozen then s
    else
      let s := { s with tm := { s.tm with residue := true, byResidue := true } }
      if s.tm.mainFailed || s.tm.selftest then s else startSelftest s)

/-- The main path is failed: readers stay on the fallback clock (04 R128). -/
def failMain (s : State) : State :=
  reMode (tqUpdate (tmNote 0x05 3 0 { s with tm := { s.tm with mainFailed := true } }))

/-- TIME_SELFTEST_END (04 R128): a pass after a residue mismatch is transient; after a difference without one since the last
checkpoint the fallback clock is at fault. -/
def execTimeSelftestEnd (pass : Bool) (s : State) : Host.Outcome State Fault Refusal :=
  .next (
    if s.pm.mode == .frozen || !s.tm.selftest || s.tm.retest.isSome then s
    else
      let s := { s with tm := { s.tm with selftest := false } }
      if !pass then failMain s
      else if s.tm.byResidue then count (tmCtr 0x058) s
      else tmNote 0x06 2 (arg32 s.tm.difference) (count (tmCtr 0x060) (loadFallback s)))

/-- A passed TIME.MAIN_RETEST (04 R129): main takes the fallback value and INC on one edge; TQ returns. -/
def restoreMain (s : State) : State :=
  let rate : Nat := s.tm.inc * 2 ^ 8
  let s := { s with tm := { s.tm with rate := rate, offset := s.tm.fallback * 2 ^ 8 - s.tm.frc * rate, mainFailed := false,
                                      selftest := false, residue := false, byResidue := false } }
  reMode (tmNote 0x07 0 0 (tqUpdate s))

/-! ### Comparators (04 R150 to R152) -/

/-- Comparator `n`. -/
def getCmp (s : State) (n : Nat) : Cmp := tget Cmp.reset s.tm.cmps n

/-- Comparator `n` replaced. -/
def setCmp (n : Nat) (c : Cmp) (s : State) : State := { s with tm := { s.tm with cmps := tset s.tm.cmps n c } }

/-- An action toward a domain that is off is skipped and counted (04 R152). -/
def actionOr (on : Bool) (f : State → State) (s : State) : State := if on then f s else count (tmCtr 0x070) s

/-- PPS_OUT goes high; after a rising edge TOD_TXD sends its sentence (04 R140, R150). -/
def ppsOut (pulseNs : Nat) (t : Int) (s : State) : State :=
  let rising := tget 0 s.tm.pulses 0 ≤ fineTime s
  let s := drivePulse 0 pulseNs s
  if rising && s.tm.pps.p.todTx == 1 && s.tm.utcValid then
    let sec := roundDiv t (1000000000 * 2 ^ 16) - s.tm.utcOfs
    emit (.zda sec) { s with tm := { s.tm with pps := { s.tm.pps with txd := some sec.toNat } } }
  else s

/-- SD_SYNC: channel 0's boundary falls on the SD_CLK rising edge at or after this count: one period is 100 FRC counts (11 R351,
R356). -/
def sdSync (s : State) : State := { s with am := { s.am with sdBase := ceilDiv s.tm.frc 100 * 100 } }

/-- The actions of a firing of comparator `n`, whose target time is `t` (Table 4-5, 04 R152). -/
def cmpActions (n : Nat) (c : Cmp) (t : Int) (s : State) : State :=
  let act := fun (b : Nat) (f : State → State) (s : State) => if bit c.p.actions b then f s else s
  let s := act 0 (ppsOut c.p.pulseNs t) s
  let s := act 1 (drivePulse 1 c.p.pulseNs) s
  let s := act 2 (drivePulse 2 c.p.pulseNs) s
  let s := act 3 (actionOr s.pm.domAnchor sdSync) s
  let s := act 4 (actionOr (s.pm.domErg && 0 < inService s) (fun s => (startInst c.p.job ⟨1, 0, 0, c.fires, none, t⟩ s).2)) s
  let s := act 5 (actionOr s.pm.domErg (triggerMask c.p.acqMask t 1 n)) s
  act 6 (tmNote 0x0A 0 (fld n 28 4 + c.fires % 2 ^ 16)) s

/-- The newest target already past, from target k on (04 R151). -/
def Cmp.newest (c : Cmp) (t : Int) : Nat :=
  if c.p.period == 0 then c.k
  else
    let k := c.k + ((t - c.target c.k) / (c.p.period : Int)).toNat
    if c.p.count == 0 then k else min k (c.p.count - 1)

/-- A due comparator fires, for every target already past (04 R150, R151). -/
def fireCmp (n : Nat) (s : State) : State :=
  let c := getCmp s n
  let last := c.newest (now s)
  let late := c.target c.k * 2 ^ 24 ≤ busTime s - s.tm.rate
  let ends := c.p.period == 0 || (c.p.count != 0 && c.p.count ≤ last + 1)
  let c' := { c with late := late, stepped := c.crossed, crossed := false, fires := (c.fires + 1) % 2 ^ 32,
                     armed := !ends, k := if ends then last else last + 1 }
  let s := setCmp n c' s
  cmpActions n c' (c.target last) (if late then count (tmCtr 0x068) s else s)

/-- A comparator is due: armed, its target at or before the bus time; not in BOOT or FROZEN (04 R150, R154). -/
def cmpDue (s : State) (n : Nat) : Bool :=
  let c := getCmp s n
  s.pm.mode != .boot && s.pm.mode != .frozen && c.armed && c.target c.k * 2 ^ 24 ≤ busTime s

/-- A comparator that triggers AQ channels waits for the decisions of this edge, whose rule triggers come first (10 R337). -/
def triggerReady (n : Nat) (s : State) : Bool :=
  !bit (getCmp s n).p.actions 5 || s.pending.all (fun c => match c with | .itemCommit _ _ _ => false | _ => true)

/-- CMP_FIRE (04 R150). -/
def execCmpFire (cmp : Nat) (s : State) : Host.Outcome State Fault Refusal :=
  .next (if cmp < 16 && cmpDue s cmp && edgeReady 5 s && triggerReady cmp s then fireCmp cmp s else s)

/-- A comparator is armed with new settings; a target of the old ones that is due fires first (04 R152). -/
def armCmp (p : CmpP) (byCommand : Bool) (s : State) : State :=
  let s := if cmpDue s p.cmp then fireCmp p.cmp s else s
  setCmp p.cmp { Cmp.reset with armed := true, p := p, byCommand := byCommand } s

/-! ### The Dune tick (04 R153) -/

/-- DUNE_TICK (04 R153): every 400 FRC counts the bus time is published, and the Erg and Caravan do what a tick does. -/
def execDuneTick (s : State) : Host.Outcome State Fault Refusal :=
  .next (
    if s.pm.mode == .frozen || s.tm.frc / 400 == s.tm.tickAt / 400 || !edgeReady 5 s then s
    else
      let s := { s with tm := { s.tm with tickAt := s.tm.frc / 400 * 400, tick := now s } }
      let s := ergTick s
      if cvRuns s then caravanTick s else s)

end Sys2Proof.Machine
end

