-- ==== Sys2Proof/Machine/Command.lean ====
section
/-! DEFINITION. How a host command runs: dispatch, the checks of 02 R51, its body, its completions (02 R50 to R62). -/

namespace Sys2Proof.Machine

/-- What a command answers after its checks: its class-specific status, its RESULT bytes and the state it leaves. -/
structure Reply where
  status : Nat
  result : List Nat
  state : State
deriving DecidableEq, Repr

/-- What a command turned away by the checks leaves: DMA_FAULT of a parameter buffer that cannot be read (02 R42), or what
its tag leaves (12 R386). -/
def turnedAway (h : Hdr) (c : CmdSpec) (s : State) : State :=
  if !lengthOk h c then s else if bufLost h then dmaErr h.src s else authFailure h c s

/-- A command that must wait for a wake completes ACCEPTED (02 R62). -/
def acceptWaking (h : Hdr) (dead : Bool) (c : CmdSpec) (cmd : Instr) (s : State) : State :=
  if 1024 ≤ s.hi.ops.length then firstCompletion h dead (fld (c.opcode / 256) 24 8) 0x30 [] s
  else
    let k := newHandle c.opcode s
    let s := openHandle h dead c.opcode cmd .waking (consumeTag h s)
    requestWake 2 (firstCompletion h dead k 1 [] s)

/-- The first completion of a command that completes DONE; an accepted tag's counter is recorded (12 R387). -/
def replyDone (h : Hdr) (dead : Bool) (cls : Nat) (after : State → State) (r : Reply) : State :=
  if r.status == 0 then after (firstCompletion h dead cls 0 r.result (consumeTag h r.state))
  else firstCompletion h dead cls r.status r.result r.state

/-- The first completion of a command that completes ACCEPTED, and the start of its operation; `missed` is what a
class-specific refusal still leaves. -/
def replyAccepted (h : Hdr) (dead : Bool) (c : CmdSpec) (cmd : Instr) (phase : Phase) (first : State → Nat)
    (start : Nat → State → State) (missed : State → State) (s : State) : State :=
  let cls := fld (c.opcode / 256) 24 8
  if first s != 0 then firstCompletion h dead cls (first s) [] (missed s)
  else if 1024 ≤ s.hi.ops.length then firstCompletion h dead cls 0x30 [] s
  else
    let k := newHandle c.opcode s
    start k (firstCompletion h dead k 1 [] (openHandle h dead c.opcode cmd phase (consumeTag h s)))

/-- A command the opcode table completes DONE: dispatch, checks, its `body`, first completion, and what follows its DONE
(02 R51, R56). -/
def runDone (h : Hdr) (c : CmdSpec) (cmd : Instr) (body : State → Reply) (after : State → State) (s : State) : State :=
  if !dispatches h c.opcode s then s
  else
    let dead := headDead s h.src
    let s := takeHead h.src s
    let cls := fld (c.opcode / 256) 24 8
    match hostCheck h c s with
    | .status st => firstCompletion h dead cls st [] (turnedAway h c s)
    | .wake => acceptWaking h dead c cmd s
    | .pass => replyDone h dead cls after (body s)
    | .abandon => replyDone h dead cls after (body (sleepRefused 15 0x0A s))

/-- A command the opcode table completes ACCEPTED: `first` gives its class-specific first status, 0 to accept it; then
`start` begins the operation of the new handle (02 R54, R55). -/
def runAccepted (h : Hdr) (c : CmdSpec) (cmd : Instr) (phase : Phase) (first : State → Nat)
    (start : Nat → State → State) (missed : State → State) (s : State) : State :=
  if !dispatches h c.opcode s then s
  else
    let dead := headDead s h.src
    let s := takeHead h.src s
    let cls := fld (c.opcode / 256) 24 8
    match hostCheck h c s with
    | .status st => firstCompletion h dead cls st [] (turnedAway h c s)
    | .wake => acceptWaking h dead c cmd s
    | .pass => replyAccepted h dead c cmd phase first start missed s
    | .abandon => replyAccepted h dead c cmd phase first start missed (sleepRefused 15 0x0A s)

/-- A body that only has an effect. -/
def effect (f : State → State) (s : State) : Reply := ⟨0, [], f s⟩

/-- A body that only answers. -/
def answer (bytes : State → List Nat) (s : State) : Reply := ⟨0, bytes s, s⟩

/-- A body refused with a class-specific status when `bad` holds. -/
def refuseIf (bad : Bool) (status : Nat) (body : State → Reply) (s : State) : Reply :=
  if bad then ⟨status, [], s⟩ else body s

/-- What a command does once it has passed the checks of R51: it completes DONE, or ACCEPTED. -/
inductive Work where
  | done (body : State → Reply) (after : State → State := fun s => s)
  | accepted (phase : Phase) (first : State → Nat) (start : Nat → State → State) (missed : State → State := fun s => s)

/-- A host command as it stands in a state: its head, what R51 asks of it, and its work. -/
structure Proc where
  h : Hdr
  spec : CmdSpec
  work : Work

/-- A host command is dispatched, checked and run (02 R51, R56). -/
def runProc (cmd : Instr) (p : Proc) (s : State) : State :=
  match p.work with
  | .done body after => runDone p.h p.spec cmd body after s
  | .accepted phase first start missed => runAccepted p.h p.spec cmd phase first start missed s

/-- An accepted command that its own end finishes. -/
def later (first : State → Nat) : Work := .accepted .running first (fun _ s => s)

/-- The first status whose condition holds, 0 when none does. -/
def firstBad : List (Bool × Nat) → Nat
  | [] => 0
  | (bad, st) :: l => if bad then st else firstBad l

/-- COMMISSION and the service modes. -/
def serving (s : State) : Bool := s.pm.mode == .commission || s.pm.mode.isService

/-- PROVISION and COMMISSION. -/
def inSetup (s : State) : Bool := s.pm.mode == .provision || s.pm.mode == .commission

/-- PROVISION, COMMISSION and the service modes. -/
def inOpen (s : State) : Bool := s.pm.mode == .provision || serving s

/-- The outstanding operations whose command satisfies `f`, but those awaiting a wake. -/
def opsWith (s : State) (f : Instr → Bool) : List OpEntry := s.hi.ops.filter (fun o => o.phase != .waking && f o.cmd)

/-- A host structure of a command is written at an address. -/
def hostOut (addr kind : Nat) (words : List Nat) (s : State) : State := emit (.hostReport addr kind words) s

end Sys2Proof.Machine
end

