-- ==== Sys2Proof/Machine/Sources.lean ====
section
/-! DEFINITION. Time sources (chapter 04): the PTP slave and M0 master, PPS_IN and TOD_RXD. -/

namespace Sys2Proof.Machine

/-- The interval 2^n s of a PTP message, FRC counts (04 R132). -/
def logCounts (n : Int) : Nat := if 0 ≤ n then secCounts * 2 ^ n.toNat else ceilDiv secCounts (2 ^ (-n).toNat)

/-- The interval 2^n s in 2^-16 ns. -/
def log16 (n : Int) : Nat :=
  if 0 ≤ n then 1000000000 * 2 ^ 16 * 2 ^ n.toNat else 1000000000 * 2 ^ 16 / 2 ^ (-n).toNat

/-- A path latency of `target`, LSB 2^-8 ns, in 2^-16 ns: received stamps are corrected by RX (04 R130). -/
def latRx (s : State) (target : Nat) : Int := (tget (0, 0) s.tm.lat target).1 * 2 ^ 8

/-- The slave instance listens on a port (04 R133). -/
def slaveListens (s : State) (p : Nat) : Bool :=
  portsRun s && p < 5 && s.tm.ptpSlave.p.en == 1 && bit s.tm.ptpSlave.p.portMask p && (getPort s p).linkUp

/-- The M0 master runs (04 R133); while TQ is INVALID it sends no Announce and no Sync (04 R134). -/
def masterRuns (s : State) : Bool := portsRun s && s.tm.ptpMaster.p.en == 1 && (getPort s 4).linkUp

/-- The slave's state changed. -/
def updSlave (f : Slave → Slave) (s : State) : State := { s with tm := { s.tm with slave := f s.tm.slave } }

/-! ### Masters (04 R133, R136, R145, R149) -/

/-- The window within which a foreign master's Announces count: 4 intervals (IEEE 1588). PRESUMED -/
def annWindow (s : State) : Nat := 4 * logCounts s.tm.ptpSlave.p.logAnnounce

/-- A master that BMCA may select: 2 Announces within the window, PTP timescale (04 R132). -/
def qualifiedMaster (s : State) (m : Master) : Bool :=
  m.ann.ptpTimescale && 2 ≤ m.heard && s.tm.frc < m.annAt + annWindow s

/-- A message that an instance takes: of its domain and transport, versionPTP 2, minorVersionPTP 0 or 1 (04 R132). -/
def ptpTaken (p : PtpP) (m : PtpHead) : Bool :=
  m.domain == p.domain && m.transport == p.transport && m.version == 2 && m.minor ≤ 1

/-- The slave instance takes a message. -/
def slaveTakes (s : State) (m : PtpHead) : Bool := slaveListens s m.port && ptpTaken s.tm.ptpSlave.p m

/-- The M0 master instance takes a message. -/
def masterTakes (s : State) (m : PtpHead) : Bool := m.port == 4 && masterRuns s && ptpTaken s.tm.ptpMaster.p m

/-- What the default data-set comparison orders two masters of different grandmasters by (IEEE 1588). PRESUMED, log 12 -/
def qualityKey (a : Announce) : List Nat := [a.prio1, a.clockClass, a.accuracy, a.variance, a.prio2, a.gm]

/-- What it orders two masters of one grandmaster by: stepsRemoved, the sender's port identity, then the receiving port. PRESUMED,
log 12 -/
def pathKey (a : Announce) : List Nat := [a.steps, a.sender, a.head.port]

/-- `a` comes before `b` in the order of their keys. -/
def keyBefore : List Nat → List Nat → Bool
  | x :: xs, y :: ys => if x == y then keyBefore xs ys else decide (x < y)
  | _, _ => false

/-- Master `a` is better than `b` (04 R132). -/
def betterMaster (a b : Announce) : Bool :=
  if a.gm == b.gm then keyBefore (pathKey a) (pathKey b) else keyBefore (qualityKey a) (qualityKey b)

/-- What a selected master is known by: its port, its port identity and its grandmaster. -/
def masterId (m : Master) : Nat × Nat × Nat := (m.ann.head.port, m.ann.sender, m.ann.gm)

/-- The best qualified master across all candidates (04 R133). -/
def bestMaster (s : State) : Option Master :=
  (s.tm.slave.masters.filter (fun m => qualifiedMaster s m && slaveListens s m.ann.head.port)).foldl (fun b m =>
    match b with
    | none => some m
    | some x => if betterMaster m.ann x.ann then some m else some x) none

/-- TM takes UTC from an Announce while PTP is the source (04 R149). When PTP ceases to supply it, TM_UTC keeps what the last
Announce gave (DESIGN CHOICE, log 75). -/
def utcFromPtp (a : Announce) (s : State) : State :=
  if s.tm.tether.follow == 1 && a.utcValid then setUtc a.utcOfs true a.leap s else s

/-- BMCA selects; a change of master or port is GM_CHANGE (04 R133, R136). -/
def runBmca (s : State) : State :=
  match bestMaster s with
  | none => s
  | some m =>
    if s.tm.slave.selected == some (masterId m) then s
    else
      let s := updSlave (fun x => { x with selected := some (masterId m), syncAt := some s.tm.frc, delayReq := [] }) s
      let s := tmNote 0x04 1 (m.ann.gm % 2 ^ 32) s
      let s := if s.tm.tether.follow == 1 then updTether (fun x => { x with refOk := false, outliers := 0 }) s else s
      utcFromPtp m.ann (offerSource 1 s)

/-- The selected master's last Announce. -/
def selectedMaster (s : State) : Option Master :=
  s.tm.slave.masters.find? (fun m => s.tm.slave.selected == some (masterId m))

/-- PTP supplies the UTC offset (04 R149, Table 4-12). -/
def ptpSuppliesUtc (s : State) : Bool :=
  s.tm.tether.follow == 1 && (match selectedMaster s with | some m => m.ann.utcValid | none => false)

/-- The selected master is lost: forgotten; BMCA may select another (04 R145). -/
def losePtp (s : State) : State :=
  match s.tm.slave.selected with
  | none => s
  | some id =>
    let s := updSlave (fun x => { x with selected := none, syncAt := none,
                                         masters := x.masters.filter (fun m => masterId m != id) }) s
    runBmca (loseSource 1 s)

/-- What TM loses with the link of a port: its masters, its path delay, the selected master at once (04 R145). -/
def ptpLinkDown (p : Nat) (s : State) : State :=
  let sel := (s.tm.slave.selected).any (fun x => x.1 == p)
  let s := updSlave (fun x => { x with masters := x.masters.filter (fun m => m.ann.head.port != p), pathDelay := tdel x.pathDelay p,
                                       delayReq := tdel x.delayReq p }) s
  if sel then losePtp s else s

/-- PTP sources are lost with D_PORTS (04 R154). -/
def ptpPortsOff (s : State) : State := (List.range 5).foldl (fun s p => ptpLinkDown p s) s

/-- An Announce message of the slave's domain: counted, kept with its master, the best master chosen again; one of the
selected master gives the inaccuracy and UTC (04 R133). -/
def announceTaken (a : Announce) (s : State) : State :=
  let s := count (tmCtr 0x028) s
  let same := fun (m : Master) => m.ann.head.port == a.head.port && m.ann.sender == a.sender
  let heard := match s.tm.slave.masters.find? same with
    | some m => if s.tm.frc < m.annAt + annWindow s then min 2 (m.heard + 1) else 1
    | none => 1
  let s := runBmca (updSlave (fun x => { x with masters := x.masters.filter (fun m => !same m) ++ [⟨a, s.tm.frc, heard⟩] }) s)
  if s.tm.slave.selected == some (a.head.port, a.sender, a.gm) then
    let s := if s.tm.ptpSlave.p.profile == 1 then updSlave (fun x => { x with gmInacc := a.inacc.orElse (fun _ => x.gmInacc) }) s else s
    utcFromPtp a s
  else s

/-- PTP_ANNOUNCE_RX (04 R133). -/
def execPtpAnnounceRx (a : Announce) (s : State) : Host.Outcome State Fault Refusal :=
  .next (if slaveTakes s a.head then announceTaken a s else s)

/-- The ingress stamp of a PTP message on a port (04 R130): corrected by the line mode's built-in latency and TM_LAT_RX. -/
def ptpIngress (s : State) (port : Nat) (t : Stamp) : Int :=
  stampAt t s - Config.lineLatency (getPort s port).line false - latRx s port

/-- t_origin and the correction of a Sync (04 R141), 2^-16 ns: of a two-step one its Follow_Up gives the origin and adds its own
correction (04 R132; IEEE 1588). -/
def syncOrigin (origin correction : Int) (followUp : Option (Int × Int)) : Int × Int :=
  match followUp with
  | none => (origin, correction)
  | some (o, c) => (o, correction + c)

/-- PTP_SYNC_RX (04 R133, R141): only the selected port feeds Tether, once it holds a valid path delay. Times in
2^-16 ns. -/
def execPtpSyncRx (m : PtpHead) (origin correction : Int) (followUp : Option (Int × Int)) (ingress : Stamp) (s : State) :
    Host.Outcome State Fault Refusal :=
  .next (
    if !slaveTakes s m then s
    else
      let s := count (tmCtr 0x018) s
      if !(s.tm.slave.selected).any (fun x => x.1 == m.port) then s
      else
        let s := updSlave (fun x => { x with syncAt := some s.tm.frc }) s
        let (o, c) := syncOrigin origin correction followUp
        match tfind s.tm.slave.pathDelay m.port with
        | none => s
        | some d => measure 1 (ptpIngress s m.port ingress - o - c - d) (log16 s.tm.ptpSlave.p.logSync) true s)

/-- The selected PTP master is lost by a timeout of its Announces, or of its Syncs (04 R145). -/
def ptpTimedOut (s : State) : Bool × Bool :=
  match selectedMaster s with
  | none => (false, false)
  | some m =>
    (decide (m.annAt + s.tm.ptpSlave.p.annTimeout * logCounts s.tm.ptpSlave.p.logAnnounce ≤ s.tm.frc),
     match s.tm.slave.syncAt with
     | some t => decide (t + 3 * logCounts s.tm.ptpSlave.p.logSync ≤ s.tm.frc)
     | none => false)

/-- SOURCE_LOSS (04 R145): the selected PTP master's timeouts; PPS is lost by PPS_LOST. -/
def execSourceLoss (source : Nat) (s : State) : Host.Outcome State Fault Refusal :=
  .next (
    if source != 1 || s.pm.mode == .frozen || !edgeReady 3 s then s
    else
      let (a, y) := ptpTimedOut s
      if !a && !y then s else losePtp (if y then count (tmCtr 0x020) s else s))

/-! ### Path delay (04 R133, R141) -/

/-- Length of a PTP message of `n` bytes on Ethernet, or on UDP with its checksum octets (04 R131, R132). -/
def ptpLen (transport n : Nat) : Nat :=
  max 64 (18 + n + (if transport == 1 then 28 else if transport == 2 then 50 else 0))

/-- A PTP message of type `msg` from TM: kind 5, queue 7 (03 R104), never protected and without an RCT (03 R97, R101);
versionPTP 2 with minorVersionPTP 1, twoStepFlag 0 (04 R132). -/
def sendPtp (p : PtpP) (port msg n : Nat) (words : List Nat) (s : State) : State :=
  sendPort port 7 5 (ptpLen p.transport n) (p.transport :: msg :: 0x12 :: p.domain :: 0 :: words) s

/-- The slave asks on a port: on every candidate under DELAY_MECH 0, on the selected port under DELAY_MECH 1. -/
def asksDelay (s : State) (port : Nat) : Bool :=
  slaveListens s port && (s.tm.ptpSlave.p.delayMech == 0 || (s.tm.slave.selected).any (fun x => x.1 == port))

/-- A message whose last sending was at `last` is due. -/
def ptpDue (s : State) (last : Option Nat) (log : Int) : Bool :=
  match last with
  | none => true
  | some t => decide (t + logCounts log ≤ s.tm.frc)

/-- PTP_DELAY_REQ_TX (04 R133): Pdelay_Req (2) or Delay_Req (1) at the configured interval. -/
def execPtpDelayReqTx (port : Nat) (s : State) : Host.Outcome State Fault Refusal :=
  .next (
    let x := s.tm.ptpSlave
    if !asksDelay s port || !ptpDue s (tfind x.sent port) x.p.logPdelay then s
    else
      let s := { s with tm := { s.tm with ptpSlave := { x with sent := tset x.sent port s.tm.frc } } }
      let s := updSlave (fun y => { y with delayReq := tset y.delayReq port s.tm.frc }) s
      if x.p.delayMech == 0 then sendPtp x.p port 2 54 [] s else sendPtp x.p port 1 44 [] s)

/-- PTP_PATH_DELAY_RX (04 R133): a response completes a measurement of the mean path delay, in 2^-16 ns. -/
def execPtpPathDelayRx (m : PtpHead) (meanPath : Int) (s : State) : Host.Outcome State Fault Refusal :=
  .next (
    if !ptpTaken s.tm.ptpSlave.p m || !asksDelay s m.port || (tfind s.tm.slave.delayReq m.port).isNone then s
    else updSlave (fun x => { x with pathDelay := tset x.pathDelay m.port meanPath, delayReq := tdel x.delayReq m.port }) s)

/-- PDELAY_TIMEOUT (04 R133): a request without response is given up, leaving no fresh path delay. -/
def execPdelayTimeout (port : Nat) (s : State) : Host.Outcome State Fault Refusal :=
  .next (if s.pm.mode == .frozen || (tfind s.tm.slave.delayReq port).isNone then s
    else count (tmCtr 0x030) (updSlave (fun x => { x with delayReq := tdel x.delayReq port }) s))

/-- PTP_PDELAY_REQ_RX (04 R131, R133): an instance under DELAY_MECH 0 answers on its ports with a one-step
Pdelay_Resp (3). -/
def execPtpPdelayReqRx (port : Nat) (f : PtpForm) (ingress : Stamp) (s : State) : Host.Outcome State Fault Refusal :=
  let m : PtpHead := { f with port := port }
  .next (
    let a := s.tm.ptpSlave.p
    let b := s.tm.ptpMaster.p
    let t := (ptpIngress s m.port ingress).toNat
    if slaveTakes s m && a.delayMech == 0 then sendPtp a m.port 3 54 [t] s
    else if masterTakes s m && b.delayMech == 0 then sendPtp b 4 3 54 [t] s
    else s)

/-! ### The M0 master (04 R131, R134, R135, R501) -/

/-- PTP_DELAY_REQ_RX (04 R501): a Delay_Resp (9) with the request's ingress stamp, its fraction of a nanosecond in the
correctionField. -/
def execPtpDelayReqRx (m : PtpHead) (ingress : Stamp) (s : State) : Host.Outcome State Fault Refusal :=
  .next (
    let b := s.tm.ptpMaster.p
    let d := dt96Of (ptpIngress s 4 ingress)
    if masterTakes s m && b.delayMech == 1 then sendPtp b 4 9 54 [d.sec, d.ns, d.frac] s else s)

/-- clockClass and clockAccuracy announced for a TQ (Table 4-3). -/
def announced : Tq → Nat × Nat
  | .lockedFine => (6, 0x21)
  | .locked => (6, 0x23)
  | .holdFresh => (7, 0xFE)
  | .holdAged => (52, 0xFE)
  | .freerun => (248, 0xFE)
  | .fallback => (187, 0xFE)
  | .invalid => (248, 0xFE)

/-- The time inaccuracy of the C37.238 TLV (04 R135). -/
def announcedInacc (s : State) : Nat :=
  match s.tm.slave.gmInacc with
  | some v => min 0xFFFFFFFE (v + s.tm.ptpMaster.p.inaccAdd)
  | none => 0xFFFFFFFF

/-- The master sent message `m` (0 Announce, 1 Sync). -/
def masterSent (m : Nat) (s : State) : State :=
  { s with tm := { s.tm with ptpMaster := { s.tm.ptpMaster with sent := tset s.tm.ptpMaster.sent m s.tm.frc } } }

/-- PTP_MASTER_ANNOUNCE_TX (04 R134, R135): Announce (11). -/
def execPtpMasterAnnounceTx (s : State) : Host.Outcome State Fault Refusal :=
  .next (
    let b := s.tm.ptpMaster
    if !masterRuns s || s.tm.tq == .invalid || !ptpDue s (tfind b.sent 0) b.p.logAnnounce then s
    else
      let (cls, acc) := announced s.tm.tq
      let words := [b.p.prio1, cls, acc, b.p.prio2, twosComp 16 s.tm.utcOfs, b2n s.tm.utcValid, s.tm.leap]
      let tlv := b.p.profile == 1
      sendPtp b.p 4 11 (if tlv then 86 else 64) (words ++ (if tlv then [announcedInacc s] else [])) (masterSent 0 s))

/-- PTP_MASTER_SYNC_TX (04 R131, R134): a one-step Sync (0). -/
def execPtpMasterSyncTx (s : State) : Host.Outcome State Fault Refusal :=
  .next (
    let b := s.tm.ptpMaster
    if !masterRuns s || s.tm.tq == .invalid || !ptpDue s (tfind b.sent 1) b.p.logSync then s
    else sendPtp b.p 4 0 44 [] (masterSent 1 s))

/-! ### PPS and time of day (04 R137 to R139) -/

/-- PPS state changed. -/
def updPps (f : Pps → Pps) (s : State) : State := { s with tm := { s.tm with pps := f s.tm.pps } }

/-- One second, 2^-16 ns. -/
def sec16 : Int := 1000000000 * 2 ^ 16

/-- The whole second nearest to a stamp. -/
def nearestSec (t : Int) : Int := roundDiv t (1000000000 * 2 ^ 16)

/-- θ of a PPS edge, by its usable label (04 R139). -/
def ppsOffset (stamp : Int) (label : Option Int) (s : State) : State :=
  let near := nearestSec stamp
  let slewOnly := fun (s : State) => measure 2 (stamp - near * sec16) (log16 0) false s
  let invalid := s.tm.tether.tqServo == .invalid
  match label with
  | none => if invalid then s else slewOnly s
  | some l =>
    let n := if l == near then 0 else min 3 (s.tm.pps.disagree + 1)
    let s := updPps (fun x => { x with disagree := n }) s
    if invalid || 3 ≤ n then measure 2 (stamp - l * sec16) (log16 0) true s
    else slewOnly s

/-- The edge that waits for its label goes without one (04 R138, R139). -/
def settleEdge (s : State) : State :=
  match s.tm.pps.waiting with
  | some t => ppsOffset t none (updPps (fun x => { x with waiting := none, todOk := false }) s)
  | none => s

/-- PPS_TOL in 2^-16 ns. -/
def ppsTol (s : State) : Int := ns16 s.tm.pps.p.tolNs

/-- An active edge qualifies (04 R137). -/
def ppsQualifies (stamp : Int) (s : State) : Bool :=
  match s.tm.pps.prev with
  | none => true
  | some t => (stamp - t - sec16).natAbs ≤ (ppsTol s).natAbs

/-- The span after an edge, or before one, within which a ToD sentence must end: 900 ms in 2^-16 ns (04 R138). -/
def todSpan : Int := 900000000 * 2 ^ 16

/-- The active edge of PPS_IN: rising under PPS_EDGE 0, falling under 1 (04 R137). -/
def ppsActive (s : State) (rising : Bool) : Bool := rising == (s.tm.pps.p.edge == 0)

/-- The label that a sentence left for the edge after it (TOD_EDGE 1); one that ended more than 900 ms before the edge counts
in TM_TOD_ERR and is ignored (04 R138). -/
def takeLabel (stamp : Int) (s : State) : Option Int × State :=
  match s.tm.pps.label with
  | none => (none, s)
  | some (l, stop) => if stamp - stop ≤ todSpan then (l, s) else (none, count (tmCtr 0x050) s)

/-- A qualifying edge is measured: at once under TOD_EDGE 1, with the label before it; under TOD_EDGE 0 it waits for one. -/
def edgeTaken (stamp : Int) (s : State) : State :=
  let s := offerSource 2 (updPps (fun x => { x with prev := some stamp, ok := true }) (settleEdge s))
  if s.tm.pps.p.todEdge == 0 then updPps (fun x => { x with waiting := some stamp }) s
  else
    let (l, s) := takeLabel stamp s
    ppsOffset stamp l (updPps (fun x => { x with label := none, todOk := l.isSome }) s)

/-- PPS_IN_EDGE (04 R137, R139, R141): an active edge is stamped (04 R130), corrected by TM_LAT_PPS, and counted. -/
def execPpsInEdge (e : PpsEdge) (s : State) : Host.Outcome State Fault Refusal :=
  .next (
    if s.pm.mode == .frozen || s.pm.mode == .boot || !ppsActive s e.rising then s
    else
      let t := stampAt e.stamp s - latRx s 5
      let s := count (tmCtr 0x040) s
      if ppsQualifies t s then edgeTaken t s else count (tmCtr 0x048) s)

/-- PPS_LOST (04 R137, R145): no edge has qualified for 2 s + PPS_TOL. -/
def execPpsLost (s : State) : Host.Outcome State Fault Refusal :=
  .next (match s.tm.pps.prev with
    | some t =>
      if s.pm.mode == .frozen || now s < t + 2 * sec16 + ppsTol s || !edgeReady 3 s then s
      else
        let s := updPps (fun x => { x with ok := false, prev := none, waiting := none, label := none, todOk := false }) (settleEdge s)
        loseSource 2 (tmNote 0x0B 1 0 s)
    | none => s)

/-- A sentence labels the edge before it in time: one has qualified, and no more than 900 ms ago (04 R138). -/
def todInTime (s : State) : Bool :=
  match s.tm.pps.prev with
  | some t => decide (now s - t ≤ todSpan)
  | none => false

/-- A valid sentence under TOD_EDGE 0: the edge that waits takes its label; a further sentence for the same edge changes
nothing (DESIGN CHOICE, log 75). -/
def labelEdge (l : Option Int) (s : State) : State :=
  match s.tm.pps.waiting with
  | some t => ppsOffset t l (updPps (fun x => { x with waiting := none, todOk := l.isSome }) s)
  | none => s

/-- TOD_SENTENCE_RX (04 R138, R139). -/
def execTodSentenceRx (sumOk statusOk : Bool) (utcSec : Nat) (s : State) : Host.Outcome State Fault Refusal :=
  .next (
    if s.pm.mode == .frozen || s.pm.mode == .boot then s
    else
      let early := s.tm.pps.p.todEdge == 1
      let l := if s.tm.utcValid then some ((utcSec : Int) + s.tm.utcOfs) else none
      if !sumOk || !statusOk || (!early && !todInTime s) then count (tmCtr 0x050) s
      else if early then updPps (fun x => { x with label := some (l, now s), todOk := l.isSome }) s
      else labelEdge l s)

end Sys2Proof.Machine
end

