-- ==== Sys2Proof/Machine/Network.lean ====
section
/-! DEFINITION. The receive side of the ports (chapter 03): receive stages, PRP, MACsec verify, classification, pass-through
rings, and links. -/

namespace Sys2Proof.Machine

/-- Flags of a received frame's descriptor (Table 3-5): HASH_HIT, PRP_LAN_B, MACSEC_OK, MACSEC_UNCHECKED, TRUNC. -/
def flagHash : Nat := 16
def flagLanB : Nat := 32
def flagSecOk : Nat := 64
def flagUnchecked : Nat := 128
def flagTrunc : Nat := 8

/-! ### Receive buffer (03 R81 to R84) -/

/-- Bytes stored of a frame (03 R81, R86). -/
def storedLen (t : Port) (f : Frame) : Nat := if t.maxlen < f.len then t.maxlen else f.len - 4

/-- Pages of `n` stored bytes. -/
def pagesOf (n : Nat) : Nat := ceilDiv n 256

/-- A frame of `n` bytes finds room in the buffer of its port: the pool, or the 512 pages of M0's receive half (03 R80). -/
def bufferFits (s : State) (port n : Nat) : Bool :=
  if port == 4 then s.np.m0Used + pagesOf n ≤ 512 else pagesOf n ≤ s.np.free

/-- The buffer takes a frame. -/
def takeBuffer (port n : Nat) (s : State) : State :=
  if port == 4 then { s with np := { s.np with m0Used := s.np.m0Used + pagesOf n } }
  else
    let f := s.np.free - pagesOf n
    { s with np := { s.np with free := f, low := min s.np.low f } }

/-- Its consumer has finished with a frame, or it is discarded (03 R84). -/
def freeBuffer (port n : Nat) (s : State) : State :=
  if port == 4 then { s with np := { s.np with m0Used := s.np.m0Used - pagesOf n } }
  else { s with np := { s.np with free := min 32768 (s.np.free + pagesOf n) } }

/-- A frame in hand: port, frame, stamp, receive sequence number, descriptor flags, stored bytes, and the receive secure
channel through which it was verified. -/
structure Rx where
  port : Nat
  f : Frame
  stamp : Int
  seq : Nat
  flags : Nat
  stored : Nat
  sc : Option Nat
deriving DecidableEq, Repr

/-- A frame is discarded and counted. -/
def discard (x : Rx) (ctr : Nat) (s : State) : State := count (portCtr x.port ctr) (freeBuffer x.port x.stored s)

/-! ### Destination filter (03 R87, R88) -/

/-- Bit-reflected CRC-32 of 8 more bits. -/
def crc32Bits : Nat → Nat → Nat
  | 0, c => c
  | n + 1, c => crc32Bits n (if c % 2 == 1 then c / 2 ^^^ 0xEDB88320 else c / 2)

/-- CRC-32 of IEEE 802.3 of some bytes (03 R88). -/
def crc32 (bs : List Nat) : Nat := bs.foldl (fun c b => crc32Bits 8 (c ^^^ b)) 0xFFFFFFFF ^^^ 0xFFFFFFFF

/-- The hash bin of an address (03 R88). -/
def hashBin (hsel a : Nat) : Nat :=
  match hsel with
  | 0 => bits (crc32 (beBytes 6 a)) 23 9
  | 1 => bits a 0 9 ^^^ bits a 9 9 ^^^ bits a 18 9 ^^^ bits a 27 9 ^^^ bits a 36 9 ^^^ bits a 45 3
  | _ => bits a 0 9

/-- The broadcast address. -/
def broadcast : Nat := 0xFFFFFFFFFFFF

/-- An enabled exact entry holds the address. -/
def exactHit (t : Port) (a : Nat) : Bool := t.exact.any (fun e => e.2.1 && e.2.2 == a)

/-- The address is a group address whose hash bin is set. -/
def hashHit (t : Port) (a : Nat) : Bool :=
  let b := hashBin t.hsel a
  bit a 40 && a != broadcast && bit (t.hash.getD (b / 32) 0) (b % 32)

/-- The port has a PTP role (04 R133). -/
def ptpRole (s : State) (p : Nat) : Bool :=
  (s.tm.ptpSlave.p.en == 1 && bit s.tm.ptpSlave.p.portMask p) || (p == 4 && s.tm.ptpMaster.p.en == 1)

/-- The destination filter accepts the address (03 R87). -/
def accepts (s : State) (p a : Nat) : Bool :=
  let t := getPort s p
  exactHit t a || hashHit t a || (a == broadcast && t.bcast) || t.promisc ||
  ((a == 0x011B19000000 || a == 0x0180C200000E) && ptpRole s p)

/-! ### Pass-through rings (03 R92, R111 to R115) -/

/-- Receive ring `k`. -/
def getRxRing (s : State) (k : Nat) : PtRing := tget PtRing.reset s.np.rxRings k

/-- Receive ring `k` replaced. -/
def setRxRing (k : Nat) (r : PtRing) (s : State) : State := { s with np := { s.np with rxRings := tset s.np.rxRings k r } }

/-- Descriptors a frame of `n` bytes occupies (03 R112). -/
def PtRing.needs (r : PtRing) (n : Nat) : Nat := ceilDiv n (256 * 2 ^ r.bufCode)

/-- Posted descriptors of a ring. -/
def PtRing.posted (r : PtRing) : Nat :=
  if r.en && !r.fault then (r.tail + 2 ^ r.log2 - r.head) % 2 ^ r.log2 else 0

/-- The pages a pass-through frame holds are freed. -/
def freePt (x : PtFrame) (s : State) : State :=
  let s := freeBuffer x.port x.len s
  if x.port == 4 then s else { s with np := { s.np with ptPages := s.np.ptPages - x.pages } }

/-- A frame joins the pass-through class `cls`: mapped to a ring, bounded by PT_QUOTA, and by the ring's depth and its
256 waiting frames, the held head frame among them (03 R83, R92, R113; the last DESIGN CHOICE, log 74). -/
def toPassThrough (x : Rx) (cls : Nat) (handed : Bool) (s : State) : State :=
  let m := bits (getPort s x.port).ptMap (4 * cls) 4
  let pages := pagesOf x.stored
  if 8 ≤ m then discard x 0x048 s
  else if x.port != 4 && s.np.ptQuota < s.np.ptPages + pages then discard x 0x038 s
  else
    let s := if handed then count (portCtr x.port 0x078) s else s
    let r := getRxRing s m
    if 256 ≤ r.waiting.length || 2 ^ r.log2 - 1 < r.needs x.stored then discard x 0x040 s
    else
      let s := if x.port == 4 then s else { s with np := { s.np with ptPages := s.np.ptPages + pages } }
      setRxRing m { r with waiting := r.waiting ++ [⟨x.port, cls, x.stored, x.flags, x.stamp, x.seq, s.tm.frc, pages⟩] } s

/-- Bytes of a ring's buffers (Table 3-10). -/
def PtRing.bufSize (r : PtRing) : Nat := 256 * 2 ^ r.bufCode

/-- Bytes [31:8] of descriptor `i` of the `n` that a frame takes (Table 3-5): LEN, FLAGS with DONE, SOP in the first and EOP in
the last, port, class, the stamp in the first, and the sequence number. -/
def descBytes (r : PtRing) (x : PtFrame) (n i : Nat) : List Nat :=
  leBytes 2 (min r.bufSize (x.len - i * r.bufSize)) ++
  leBytes 2 (1 + (if i == 0 then 2 else 0) + (if i + 1 == n then 4 else 0) + x.flags) ++ [x.port, x.cls, 0, 0] ++
  (if i == 0 then DT96.bytes (dt96Of x.stamp) else List.replicate 12 0) ++ leBytes 4 x.rxSeq

/-- What the device writes of a frame's descriptors: from the last to the first, so that SOP comes last (03 R112). -/
def ptDescs (r : PtRing) (x : PtFrame) : List (Nat × List Nat) :=
  let n := r.needs x.len
  (List.range n).reverse.map (fun i => (r.base + 32 * ((r.head + i) % 2 ^ r.log2) + 8, descBytes r x n i))

/-- PT_ARRIVAL after every NOTE_EVERY + 1 completed frames (03 R115); frames completed while NOTE_EN is 0 count toward the next
one (DESIGN CHOICE, log 74). -/
def ptArrival (k : Nat) (s : State) : State :=
  let r := getRxRing s k
  let n := r.sinceNote + 1
  let due := r.noteEn && r.noteEvery < n
  let s := setRxRing k { r with sinceNote := if due then 0 else n } s
  if due then note r.nq 1 0x0A 0 (fld k 24 8 + r.completed) s else s

/-- PT_FRAME_DELIVERY (03 R112): the head frame of a receive ring, once enough descriptors are posted. -/
def execPtFrameDelivery (k : Nat) (s : State) : Host.Outcome State Fault Refusal :=
  .next (
    let r := getRxRing s k
    match r.waiting with
    | [] => s
    | x :: rest =>
      if 8 ≤ k || !portsRun s || r.posted < r.needs x.len then s
      else
        let s := emit (.ptFrame k x.len (ptDescs r x)) s
        let s := setRxRing k { r with waiting := rest, head := (r.head + r.needs x.len) % 2 ^ r.log2,
                                      completed := (r.completed + 1) % 2 ^ 24 } s
        ptArrival k (freePt x s))

/-- PT_DESCRIPTOR_TIMEOUT (03 R113): still short of descriptors 100 us after it was stored, the head frame is
discarded. -/
def execPtDescriptorTimeout (k : Nat) (s : State) : Host.Outcome State Fault Refusal :=
  .next (
    let r := getRxRing s k
    match r.waiting with
    | [] => s
    | x :: rest =>
      if s.pm.mode == .frozen || r.needs x.len ≤ r.posted || s.tm.frc < x.stored + countsOfUs 100 then s
      else count (portCtr x.port 0x040) (freePt x (setRxRing k { r with waiting := rest } s)))

/-! ### MACsec verify (03 R100 to R102) -/

/-- The receive secure channel of an SCI (03 R99): the one whose installed SA of the tag's AN names that peer. -/
def rxChannel (t : Port) (g : SecTag) : Option Nat :=
  (List.range 16).find? (fun c => (tfind t.rxSa (4 * c + g.an)).any (fun a => a.peerSci == g.sci))

/-- The key of the receive SA of a SecTAG, when one is installed. -/
def rxSaKey (t : Port) (g : SecTag) : Option Nat := (rxChannel t g).map (fun c => 4 * c + g.an)

/-- Receive SA of a SecTAG, when installed and not disabled. -/
def rxSaOf (t : Port) (g : SecTag) : Option Sa := ((rxSaKey t g).bind (tfind t.rxSa)).filter (fun a => !a.disabled)

/-- A PTP message by Ethertype or UDP port (03 R91). -/
def isPtpKind (ethertype : Nat) (udpDst : Option Nat) : Bool := ethertype == 0x88F7 || udpDst == some 319 || udpDst == some 320

/-- The frame is a PTP message. -/
def isPtp (f : Frame) : Bool := isPtpKind f.ethertype (f.udp.map (·.dport))

/-- The frame bypasses MACsec: EAPOL and PTP (03 R101). -/
def uncontrolled (f : Frame) : Bool := f.ethertype == 0x888E || isPtp f

/-- The counter of a MACsec failure of the frame, none when it passes (03 R102). -/
def secFailure (t : Port) (f : Frame) : Option Nat :=
  match f.sectag with
  | none => if t.validate == 0 || uncontrolled f then none else some 0x0B0
  | some g =>
    if t.validate == 0 then some 0x0A8
    else match rxSaOf t g with
      | none => some 0x0A8
      | some a => if !g.icvOk then some 0x098 else if g.pn + t.replay < a.pn then some 0x0A0 else none

/-- A verified frame moves its SA's next PN (03 R99, R102). -/
def acceptPn (p : Nat) (f : Frame) (s : State) : State :=
  let t := getPort s p
  match f.sectag with
  | none => s
  | some g => match rxSaKey t g, rxSaOf t g with
    | some k, some a => updPort p (fun t => { t with rxSa := tset t.rxSa k { a with pn := max a.pn (g.pn + 1) } }) s
    | _, _ => s

/-- Step 4: MACsec. The frame goes on, or is discarded. -/
def verifySec (x : Rx) (s : State) : Option Rx × State :=
  let t := getPort s x.port
  if !t.macsecEn || 4 ≤ x.port then (some x, s)
  else match secFailure t x.f with
    | none =>
      match x.f.sectag with
      | some g => (some { x with flags := x.flags + flagSecOk, sc := rxChannel t g }, acceptPn x.port x.f s)
      | none => (some x, s)
    | some c =>
      if t.validate == 1 then (some { x with flags := x.flags + flagUnchecked }, count (portCtr x.port c) s)
      else (none, discard x c s)

/-! ### VLAN (03 R90) -/

/-- VIDs of a frame's tags, outer first: a TPID that is no tag's ends them, and a tag with VID 0 counts as no tag. -/
def tagsOf (f : Frame) : List Nat :=
  match f.tags with
  | [] => []
  | (t, v) :: rest =>
    if t == 0x8100 || t == 0x88A8 then (v :: (rest.takeWhile (fun e => e.1 == 0x8100)).map (·.2)).filter (· != 0) else []

/-- The VID filter accepts the frame: the outer VID is listed, or 0 for a frame without a tag. -/
def vidOk (t : Port) (f : Frame) : Bool := !t.vlanList || t.vids.contains ((tagsOf f).headD 0)

/-! ### PRP (03 R93 to R98) -/

/-- Entries with a frame within FORGET_MS. -/
def freshEntries (s : State) (n : Nat) : List PrpEntry :=
  (getPrp s n).entries.filter (fun e => s.tm.frc < e.last + countsOfMs (getPrp s n).forgetMs)

/-- Duplicate discard on one entry (03 R94): the entry after the frame, and whether it is accepted. -/
def PrpEntry.take (e : PrpEntry) (q frc : Nat) : PrpEntry × Bool :=
  let d := (q + 65536 - e.h) % 65536
  let e := { e with last := frc }
  if 1 ≤ d && d ≤ 32767 then ({ e with h := q, hist := (e.hist * 2 ^ d + 2 ^ (d - 1)) % 2 ^ 64 }, true)
  else if d == 0 then (e, false)
  else
    let j := 65536 - d
    if j ≤ 64 then (if bit e.hist (j - 1) then (e, false) else ({ e with hist := e.hist + 2 ^ (j - 1) }, true))
    else (e, true)

/-- The least recently used entry leaves a full table. -/
def evictEntry (n : Nat) (l : List PrpEntry) (s : State) : List PrpEntry × State :=
  if l.length < 4096 then (l, s)
  else
    let old := l.foldl (fun m e => min m e.last) (l.headD ⟨0, 0, 0, 0⟩).last
    (l.eraseIdx ((l.findIdx? (fun e => e.last == old)).getD 0), count (portCtr (2 * n) 0x090) s)

/-- The frame passes duplicate discard of pair `n`. -/
def prpAccept (n src q : Nat) (s : State) : Bool × State :=
  let l := freshEntries s n
  match l.find? (fun e => e.src == src) with
  | some e =>
    let (e', ok) := e.take q s.tm.frc
    (ok, updPrp n (fun x => { x with entries := l.map (fun y => if y.src == src then e' else y) }) s)
  | none =>
    let (l, s) := evictEntry n l s
    (true, updPrp n (fun x => { x with entries := l ++ [⟨src, q, 0, s.tm.frc⟩] }) s)

/-- Silence of a LAN after which it is lost, FRC counts (03 R98). -/
def lanLimit (x : Prp) : Nat := countsOfMs (2 * x.supMs)

/-- LAN `b` (false A, true B) of a pair is lost: silent too long while the other delivered (03 R98). -/
def lanLost (s : State) (n : Nat) (b : Bool) : Bool :=
  let x := getPrp s n
  let mine := if b then x.silentB else x.silentA
  let other := if b then x.silentA else x.silentB
  x.en && !(if b then x.lostB else x.lostA) && mine + lanLimit x ≤ s.tm.frc &&
  (if b then x.heardA else x.heardB) && s.tm.frc ≤ other + lanLimit x

/-- LAN ids 0xA and 0xB. -/
def lanId (b : Bool) : Nat := if b then 0xB else 0xA

/-- The LAN is reported lost, when it is (03 R98). -/
def reportLanLost (n : Nat) (b : Bool) (s : State) : State :=
  if !lanLost s n b then s
  else note s.np.nq 1 0x03 2 (fld n 8 8 + lanId b) (updPrp n (fun x => if b then { x with lostB := true } else { x with lostA := true }) s)

/-- A LAN has delivered a frame with an RCT (03 R98). -/
def lanHeard (n : Nat) (b : Bool) (s : State) : State :=
  let lost := if b then (getPrp s n).lostB else (getPrp s n).lostA
  let s := updPrp n (fun x => if b then { x with silentB := s.tm.frc, heardB := true, lostB := false }
                              else { x with silentA := s.tm.frc, heardA := true, lostA := false }) s
  let s := if lost then note s.np.nq 1 0x04 0 (fld n 8 8 + lanId b) s else s
  reportLanLost n (!b) s

/-- Step 6: PRP. The flag says that the frame goes on. -/
def prpStage (x : Rx) (s : State) : Bool × State :=
  match pairOf s x.port, x.f.rct with
  | some n, some r =>
    if isPtp x.f || !r.sizeOk then (true, s)
    else
      let b := x.port % 2 == 1
      let s := if r.lanId == lanId b then s else count (portCtr (2 * n) 0x088) s
      let (ok, s) := prpAccept n x.f.src r.seq (lanHeard n b s)
      if ok then (true, s) else (false, count (portCtr (2 * n) 0x080) (freeBuffer x.port x.stored s))
  | _, _ => (true, s)

/-- PRP_LAN_LOST (03 R98) of LAN A (0) or B (1). -/
def execPrpLanLost (pair lan : Nat) (s : State) : Host.Outcome State Fault Refusal :=
  .next (if 2 ≤ pair || 2 ≤ lan || !portsRun s then s else reportLanLost pair (lan == 1) s)

/-- PRP_ENTRY_FORGET (03 R94): an entry with no frame for FORGET_MS is removed. -/
def execPrpEntryForget (pair src : Nat) (s : State) : Host.Outcome State Fault Refusal :=
  .next (if 2 ≤ pair || s.pm.mode == .frozen then s
    else
      let x := getPrp s pair
      updPrp pair (fun x' => { x' with
        entries := x.entries.filter (fun e => !(e.src == src && e.last + countsOfMs x.forgetMs ≤ s.tm.frc)) }) s)

/-! ### Classification (03 R91) -/

/-- The intake entry a UDP port matches. -/
def intakeOf (t : Port) (u : Option UdpHdr) : Option IntakeEntry :=
  u.bind (fun u => t.intake.find? (fun e => e.en == 1 && e.udp == u.dport))

/-- The big-endian field of `n` bytes at `ofs` (00 R5). -/
def fieldBe (bs : List Nat) (ofs n : Nat) : Nat := ((bs.drop ofs).take n).foldl (fun a b => a * 256 + b % 256) 0

/-- IDCODE of a C37.118 frame: bytes [5:4]. -/
def c37Idcode (c : C37) : Nat := fieldBe c.bytes 4 2

/-- Streams that a frame for SI maps to, by its key (05 R160). -/
def streamsOf (s : State) (f : Frame) (proto : Nat) : List Nat :=
  let hit := fun (x : Stream) =>
    x.p.proto == proto && x.p.srcAddr == (f.ip.map (·.src)).getD 0 && x.p.udpDst == (f.udp.map (·.dport)).getD 0 &&
    (match f.payload with
      | .c37 c => x.p.idcode == c37Idcode c
      | .rsv r => x.p.svid == r.svid
      | _ => false)
  (s.si.streams.filter (fun e => e.1 < 16376 && hit e.2)).map (·.1)

/-- The pipeline of a lane on a port or pair (05 R161). -/
def pipeOf (s : State) (port lane : Nat) : Nat :=
  match pairOf s port with
  | some n => 8 * n + lane
  | none => 4 * port + lane % 4

/-- A frame joins pipeline `q`. -/
def joinPipe (q : Nat) (f : SiFrame) (s : State) : State :=
  let l := tget [] s.si.pipes q ++ [f]
  { s with si := { s.si with pipes := tset s.si.pipes q l, high := tset s.si.high q (min 65535 (max l.length (tget 0 s.si.high q))) } }

/-- A frame goes to SI: to the pipeline of each stream it maps to, the first holding its pages (05 R160, R161). -/
def toSi (x : Rx) (proto : Nat) (s : State) : State :=
  let s := count (portCtr x.port 0x068) s
  let lanes := (streamsOf s x.f proto).map (fun sid => ((tfind s.si.streams sid).map (·.p.lane)).getD 0)
  let pipes := ((if lanes.isEmpty then [0] else lanes).map (pipeOf s x.port)).eraseDups
  let entry : Nat → SiFrame := fun pages => ⟨x.f, x.port, proto, x.stamp, x.seq, x.flags, x.sc, pages, []⟩
  match pipes with
  | [] => s
  | q :: rest => rest.foldl (fun s q => joinPipe q (entry 0) s) (joinPipe q (entry (pagesOf x.stored)) s)

/-- A mode with stream intake (03 R118, 05 R185). -/
def intakeRuns (s : State) : Bool := (s.pm.mode == .commission || s.pm.mode.isService) && !hsStopped 5 s

/-- TM hands a PTP frame on to the host when its message or domain is not TM's (Table 4-2). -/
def ptpToHost (s : State) (port : Nat) (f : Frame) : Bool :=
  match f.payload with
  | .ptp m d =>
    12 ≤ m || !((s.tm.ptpSlave.p.en == 1 && bit s.tm.ptpSlave.p.portMask port && d == s.tm.ptpSlave.p.domain) ||
                (port == 4 && s.tm.ptpMaster.p.en == 1 && d == s.tm.ptpMaster.p.domain))
  | _ => false

/-- Step 7 (Table 3-3). -/
def classify (x : Rx) (s : State) : State :=
  let f := x.f
  let t := getPort s x.port
  if f.sectag.isSome && !t.macsecEn then toPassThrough x 0 true s
  else if isPtp f then
    let s := count (portCtr x.port 0x070) s
    if ptpToHost s x.port f then toPassThrough x 5 false s else freeBuffer x.port x.stored s
  else if f.ethertype == 0x888E then toPassThrough x 3 true s
  else if f.ethertype == 0x88FB then toPassThrough x 4 true s
  else if (f.ip.map (fun i => !i.hdrOk)).getD false then discard x 0x058 s
  else if (f.ip.map (fun i => i.fragment || i.extHdr)).getD false then toPassThrough x 2 true s
  else if (f.udp.map (fun u => !u.csumOk)).getD false then discard x 0x060 s
  else match (if x.port < 4 && intakeRuns s then intakeOf t f.udp else none) with
    | some e => toSi x e.proto s
    | none => toPassThrough x 0 true s

/-! ### The receive stages (03 R85) -/

/-- Steps 4 to 7. Every frame of a pair's upper port that passes step 6 shows PRP_LAN_B, with or without an RCT (DESIGN CHOICE,
log 74). -/
def laterStages (x : Rx) (s : State) : State :=
  match verifySec x s with
  | (none, s) => s
  | (some x, s) =>
    if 2 < (tagsOf x.f).length then toPassThrough x 7 true s
    else if !vidOk (getPort s x.port) x.f then discard x 0x030 s
    else
      let (ok, s) := prpStage x s
      if ok then classify { x with flags := x.flags + (if (pairOf s x.port).isSome && x.port % 2 == 1 then flagLanB else 0) } s
      else s

/-- Steps 2 and 3. HASH_HIT shows a hash bin that accepts the frame where no exact entry does (DESIGN CHOICE, log 74). -/
def filterStage (x : Rx) (trunc : Bool) (s : State) : State :=
  if !accepts s x.port x.f.dst then discard x 0x028 s
  else
    let t := getPort s x.port
    let x := { x with flags := x.flags + (if hashHit t x.f.dst && !exactHit t x.f.dst then flagHash else 0) }
    if trunc then toPassThrough { x with flags := x.flags + flagTrunc } 1 true s else laterStages x s

/-- Step 1, and the frame's number. NP_RX_OCTETS counts the whole length on the wire, FCS included, of every frame that
NP_RX_FRAMES counts, a truncated one's too (DESIGN CHOICE, log 74). -/
def receive (port : Nat) (f : Frame) (stamp : Int) (s : State) : State :=
  let t := getPort s port
  let trunc := t.maxlen < f.len
  let n := storedLen t f
  if !bufferFits s port n then count (portCtr port 0x038) s
  else
    let s := takeBuffer port n s
    let x : Rx := ⟨port, f, stamp, t.rxSeq, 0, n, none⟩
    if f.len < 64 then discard x 0x018 s
    else if !trunc && !f.fcsOk then discard x 0x010 s
    else
      let s := updPort port (fun t => { t with rxSeq := (t.rxSeq + 1) % 2 ^ 32 }) s
      let s := countN (portCtr port 0x008) f.len (count (portCtr port 0x000) s)
      let s := if trunc then count (portCtr port 0x020) s else s
      if f.ethertype == 0x8808 && f.tags.isEmpty && !trunc then discard x 0x050 s else filterStage x trunc s

/-- FEC and PCS counters of a port take what its line reported; LINE 3 alone has the FEC (03 R116, Table 3-1). -/
def countLine (port : Nat) (e : LineErr) (s : State) : State :=
  let s := if (getPort s port).line == 3 then countN (portCtr port 0x0F0) e.fecBad (countN (portCtr port 0x0E8) e.fecOk s) else s
  countN (portCtr port 0x0F8) e.pcs s

/-- The ingress stamp of a frame on a port (04 R130): corrected by the line mode's built-in latency and TM_LAT_RX. -/
def ingressStamp (s : State) (port : Nat) (t : Stamp) : Int :=
  stampAt t s - Config.lineLatency (getPort s port).line false - latRx s port

/-- A frame arrives whole on a port, when the port runs. -/
def arrive (port : Nat) (a : Arrival) (s : State) : State :=
  if 5 ≤ port || !portsRun s || !(getPort s port).linkUp then s
  else receive port a.frame (ingressStamp s port a.stamp) (countLine port a.errs s)

/-- RX_FRAME (03 R85); of two copies that complete step 5 in one cycle the LAN A copy is processed first (03 R95). -/
def execRxFrame (port : Nat) (a : Arrival) (twin : Option Arrival) (s : State) : Host.Outcome State Fault Refusal :=
  .next (match twin with
    | none => arrive port a s
    | some b => if port % 2 == 0 then arrive (port + 1) b (arrive port a s) else arrive port a (arrive (port - 1) b s))

/-! ### Transmit rings (03 R114) -/

/-- Transmit ring `k`. -/
def getTxRing (s : State) (k : Nat) : PtRing := tget PtRing.reset s.np.txRings k

/-- Transmit ring `k` replaced. -/
def setTxRing (k : Nat) (r : PtRing) (s : State) : State := { s with np := { s.np with txRings := tset s.np.txRings k r } }

/-- A ring stops: FAULT, and its notice (03 R111). -/
def faultPtRing (rx : Bool) (k : Nat) (s : State) : State :=
  let s := if rx then setRxRing k { getRxRing s k with fault := true } s else setTxRing k { getTxRing s k with fault := true } s
  note s.np.nq 1 0x0B 2 (fld k 24 8 + b2n (!rx)) s

/-- Bytes waiting in a port's transmit queues. -/
def txBytes (s : State) (p : Nat) : Nat := listSum ((getPort s p).queues.map (fun e => listSum (e.2.map (·.len))))

/-- A port's transmit buffer has room (chapter 03, Packet buffer; R80). -/
def txRoom (s : State) (p n : Nat) : Bool := txBytes s p + n ≤ (if p == 4 then 131072 else 1048576)

/-- Ports a host frame goes to. -/
def txPorts (s : State) (port mode : Nat) : List Nat :=
  match pairOf s port with
  | some n => if mode == 0 then [2 * n, 2 * n + 1] else [2 * n + (mode - 1)]
  | none => [port]

/-- A host frame goes out: with an RCT to both LANs of a pair under PRP_MODE 0, but a PTP frame without one (03 R96, R97). -/
def sendHost (port queue kind n prpMode : Nat) (ptp : Bool) (words : List Nat) (s : State) : State :=
  if prpMode == 0 && !ptp then sendAny port queue kind n words s
  else (txPorts s port prpMode).foldl (fun s p => sendPort p queue kind n words s) s

/-- FLAGS of the SOP descriptor of a fetched chain, with DONE (03 R114). -/
def sopFlags (count prpMode : Nat) (clear : Bool) : Nat :=
  3 + (if count == 1 then 4 else 0) + fld (b2n clear) 3 1 + fld prpMode 4 2

/-- PT_TX_CHAIN_FETCH (03 R114): a chain of `count` descriptors that holds `frame`. EAPOL and PTP frames go by the
uncontrolled port, CLEAR or not (03 R101). -/
def execPtTxChainFetch (k port queue : Nat) (frame : HostFrame) (prpMode count : Nat) (clear wellFormed : Bool) (s : State) :
    Host.Outcome State Fault Refusal :=
  .next (
    let r := getTxRing s k
    let n := max 64 (frame.len + 4)
    let ptp := isPtpKind frame.ethertype frame.udpDst
    let kind := if clear || ptp || frame.ethertype == 0x888E then 3 else 2
    if 8 ≤ k || !portsRun s || count == 0 || r.posted < count then s
    else if !wellFormed || 4 < port || 7 < queue || 3 ≤ prpMode then faultPtRing false k s
    else if !((txPorts s port prpMode).all (fun p => txRoom s p n)) then s
    else
      let s := setTxRing k { r with head := (r.head + count) % 2 ^ r.log2, completed := (r.completed + 1) % 2 ^ 24 } s
      let s := emit (.hostWrite (r.base + 32 * r.head + 10) (leBytes 2 (sopFlags count prpMode clear))) s
      sendHost port queue kind n prpMode ptp [k, r.head] s)

/-! ### Links (03 R109, Table 3-8) -/

/-- LINK_STATE_CHANGE: what the PCS, the FEC and the fault signals of a port say; LINK_UP follows (Table 3-8). -/
def execLinkStateChange (port : Nat) (pcsLock fecLock : Bool) (faults : LinkFaults) (errs : LineErr) (s : State) :
    Host.Outcome State Fault Refusal :=
  .next (
    let t := getPort s port
    if 5 ≤ port || !portsRun s || s.pm.holdPorts || !t.en || t.line == 0 then s
    else
      let s := countLine port errs s
      let fec := t.line == 3 && fecLock
      let up := pcsLock && (fec || t.line != 3) && !faults.localFault && !faults.remoteFault
      let bitsOf := fun (t : Port) =>
        { t with pcsLock := pcsLock, fecLock := fec, localFault := faults.localFault, remoteFault := faults.remoteFault }
      if up == t.linkUp then updPort port bitsOf s
      else if up then
        note s.np.nq 1 0x01 0 port (updPort port (fun t => { bitsOf t with linkUp := true, linkChg := true }) s)
      else ptpLinkDown port (updPort port bitsOf (dropLink port s)))

end Sys2Proof.Machine
end

