-- ==== Sys2Proof/Machine/Intake.lean ====
section
/-! DEFINITION. Stream intake SI (chapter 05): disposal, authentication, time tags, normalization, resampling, stream
states. -/

namespace Sys2Proof.Machine

/-- Stream `sid`, none when UNCONFIGURED. -/
def getStream (s : State) (sid : Nat) : Option Stream := tfind s.si.streams sid

/-- Stream `sid` changed. -/
def updStream (sid : Nat) (f : Stream → Stream) (s : State) : State :=
  match getStream s sid with
  | some x => { s with si := { s.si with streams := tset s.si.streams sid (f x) } }
  | none => s

/-- BAR2 addresses of SI counters (05 R187). -/
def siCtr (off : Nat) : Nat := 0x103000 + off
def strCtr (sid off : Nat) : Nat := 0x200000 + 0x40 * sid + off

/-- Codes of Table 5-6. -/
def StreamState.code : StreamState → Nat
  | .unconfigured => 0 | .listening => 1 | .live => 2 | .stale => 3 | .lost => 4 | .quarantined => 5

/-- STATE_CHANGE from one state to another (05 R183, Table 5-11). -/
def noteState (sid : Nat) (old new : StreamState) (s : State) : State :=
  let sev := match new with | .stale => 1 | .unconfigured => 1 | .lost => 2 | _ => 0
  note s.si.nq 3 0x01 sev (fld old.code 28 4 + fld new.code 24 4 + sid) s

/-- A stream changes state, with its notice. -/
def setStreamState (sid : Nat) (new : StreamState) (s : State) : State :=
  match getStream s sid with
  | some x => if x.state == new then s else noteState sid x.state new (updStream sid (fun x => { x with state := new }) s)
  | none => s

/-- A stream's history is cleared: the next accepted frame restarts its resampler (05 R180). -/
def Stream.clear (x : Stream) : Stream := { x with hist := [], n := 0, restart := true }

/-- A stream enters QUARANTINED: 1 failures, 2 key revoked (05 R169). -/
def quarantine (sid cause : Nat) (s : State) : State :=
  match getStream s sid with
  | some x =>
    if x.state == .quarantined then s
    else note s.si.nq 3 0x02 2 (fld cause 28 4 + sid) (updStream sid (fun x => { x.clear with state := .quarantined }) s)
  | none => s

/-- One stream period in 2^-16 ns, times RATE: periods are compared as `span * RATE` against it (05 R180, R183). -/
def periodScale : Int := 1000000000 * 2 ^ 16

/-! ### Failures (05 R168 to R170) -/

/-- The failure counts as of second `sec`. -/
def Stream.failuresAt (x : Stream) (sec : Int) : Nat × Nat :=
  if sec == x.failSec then (x.failCur, x.failPrev) else if sec == x.failSec + 1 then (0, x.failCur) else (0, 0)

/-- The second of device time. -/
def nowSec (s : State) : Int := nowNs s / 1000000000

/-- One failure of a stream; QLIMIT quarantines it (05 R169). -/
def failStream (sid : Nat) (s : State) : State :=
  match getStream s sid with
  | none => s
  | some x =>
    let sec := nowSec s
    let (c, p) := x.failuresAt sec
    let s := updStream sid (fun x => { x with failCur := c + 1, failPrev := p, failSec := sec, failFrc := some s.tm.frc }) s
    if x.p.qlimit != 0 && x.p.qlimit ≤ c + 1 + p then quarantine sid 1 s else s

/-- The slot verifies: VALID with MAC_VER (05 R167). -/
def macVer (s : State) (n : Nat) : Bool :=
  match getSlot s n with
  | some k => !k.orphaned && bit k.usage 4
  | none => false

/-- The SPDU number follows the last accepted one, compared under 00 R16 (05 R168). -/
def spduFollows (last : Option Nat) (n : Nat) : Bool :=
  match last with
  | none => true
  | some l => seqBefore l n

/-- The verdict of R167 and R168: whether the frame is authentic, and whether it verified under KEY_NEXT. -/
def authentic (s : State) (x : Stream) (f : SiFrame) : Bool × Bool :=
  let p := x.p
  let spdu := match f.frame.payload with
    | .rsv r => spduFollows x.spdu r.spduNo
    | _ => true
  match p.authMode with
  | 0 => (spdu, false)
  | 1 => (f.sc == some p.keyNext && spdu, false)
  | m => match f.frame.payload with
    | .rsv r =>
      if r.sigAlg != m then (false, false)
      else if p.keyCur != 0xFF && r.keyId == p.keyIdCur && macVer s p.keyCur && r.sigOkCur then (spdu, false)
      else if p.keyNext != 0xFF && r.keyId == p.keyIdNext && macVer s p.keyNext && r.sigOkNext then (spdu, true)
      else (false, false)
    | _ => (false, false)

/-- The key rolls: KEY_NEXT becomes KEY_CUR (05 R167). -/
def rollKey (sid : Nat) (s : State) : State :=
  match getStream s sid with
  | none => s
  | some x =>
    let s := updStream sid (fun x => { x with p := { x.p with keyCur := x.p.keyNext, keyIdCur := x.p.keyIdNext, keyNext := 0xFF, keyIdNext := 0 } }) s
    note s.si.nq 3 0x04 0 (fld x.p.keyNext 24 8 + sid) s

/-! ### Normalization (05 R172 to R174) -/

/-- What a conversion gives: the value in LSB before clamping, free where no rule gives it, or invalid. -/
inductive Conv where
  | val (x : Rat)
  | top (neg : Bool)
  | open'
  | bad
deriving DecidableEq, Repr

/-- A float32 code as a conversion input. -/
def floatIn (v : Nat) (f : Rat → Rat) : Conv :=
  if isNaN v then .bad else if isInf v then .top (bit v 31) else .val (f (ratOfFloat v))

/-- A signed 16-bit input; 0x8000 is invalid. -/
def int16In (v : Nat) (f : Rat → Conv) : Conv := if v % 2 ^ 16 == 0x8000 then .bad else f (ofTwosComp 16 v : Int)

/-- x times FACTOR over FS in LSB of a fraction format; FACTOR that is no number leaves the result open. -/
def scaled (factor fs : Nat) (x : Rat) : Conv :=
  if isNaN factor || isInf factor then .open' else .val (x * ratOfFloat factor * 131072 / ratOfFloat fs)

/-- A fraction of 2^-128. -/
def frac128 (x : Int) : Rat := mkRat x (2 ^ 128)

/-- One part of a polar phasor from its magnitude and the factor cos or sin. -/
def polarPart (mag : Conv) (c : Int) : Conv :=
  match mag with
  | .val m => .val (m * frac128 c)
  | .top neg => if c == 0 then .val 0 else .top (neg != decide (c < 0))
  | x => x

/-- A converted quantity: its channel and parts, and the NaN inputs it counts. -/
structure Quant where
  ch : Nat
  parts : List Conv
  nans : Nat
deriving DecidableEq, Repr

/-- 2 pi in 2^-288, rounded down. -/
def twoPi288 : Nat := 3124774051928971388915479636853562314437792678096866677853794034734234781317322226287564

/-- An angle in rad reduced modulo 2 pi, its sign kept, in 2^-128 rad rounded away from 0: exact enough for any float32 angle, so
that the sine keeps its sign (05 R173, R174). -/
def radOf (x : Rat) : Int :=
  let m : Int := ceilDiv ((ratAbs x * (2 ^ 288 : Nat)).ceil.toNat % twoPi288) (2 ^ 160)
  if x < 0 then -m else m

/-- A C37.118 phasor (Table 5-4). -/
def c37Phasor (p : StreamP) (ch : Nat) (v : Nat × Nat) : Quant :=
  let fs := p.phFs.getD ch 0
  let fac := p.phFactor.getD ch 0
  let isFloat := bit p.format 1
  let polar := bit p.format 0
  let toFs := fun x : Rat => x * 131072 / ratOfFloat fs
  if isFloat then
    let nans := b2n (isNaN v.1) + b2n (isNaN v.2 || (polar && isInf v.2))
    if polar then
      if isNaN v.2 || isInf v.2 then ⟨ch, [.bad, .bad], nans⟩
      else
        let a := radOf (ratOfFloat v.2)
        let m := floatIn v.1 toFs
        ⟨ch, [polarPart m (cosOf a), polarPart m (sinOf a)], nans⟩
    else ⟨ch, [floatIn v.1 toFs, floatIn v.2 toFs], nans⟩
  else if polar then
    let m := scaled fac fs ((v.1 % 2 ^ 16 : Nat) : Rat)
    let part := fun g : Int → Int => int16In v.2 (fun x => polarPart m (g (radOf (x / 10000))))
    ⟨ch, [part cosOf, part sinOf], 0⟩
  else ⟨ch, [int16In v.1 (scaled fac fs), int16In v.2 (scaled fac fs)], 0⟩

/-- Items that a selection mask picks, in order, with their numbers. -/
def selected' {α : Type} (mask : Nat) (l : List α) : List (Nat × α) :=
  let picked := (l.zip (List.range l.length)).filter (fun e => bit mask e.2)
  (List.range picked.length).zip (picked.map (·.1))

/-- The quantities of a PMU block (Table 5-4). -/
def c37Quants (p : StreamP) (b : PmuBlock) : List Quant :=
  let ff := bit p.format 3
  let af := bit p.format 2
  let one := fun (v : Nat) => if isNaN v then 1 else 0
  (selected' p.phSel b.phasors).map (fun e => c37Phasor p e.1 e.2) ++
  [(if ff then ⟨32, [floatIn b.freq (fun x => (x - p.fnom) * 4000)], one b.freq⟩ else ⟨32, [int16In b.freq (fun x => .val (x * 4))], 0⟩),
   (if ff then ⟨33, [floatIn b.rocof (fun x => x * 1000)], one b.rocof⟩ else ⟨33, [int16In b.rocof (fun x => .val (x * 10))], 0⟩)] ++
  (selected' p.anSel b.analogs).map (fun e =>
    let fs := p.anFs.getD e.1 0
    if af then ⟨34 + e.1, [floatIn e.2 (fun x => x * 131072 / ratOfFloat fs)], one e.2⟩
    else ⟨34 + e.1, [int16In e.2 (scaled (p.anFactor.getD e.1 0) fs)], 0⟩) ++
  (selected' p.dgSel b.digitals).map (fun e => ⟨42 + e.1, [.val ((e.2 % 2 ^ 16 : Nat) : Rat)], 0⟩)

/-- One R-SV member as the part it maps to. -/
def rsvConv (p : StreamP) (ch : Nat) (m : Nat × Nat) : Conv :=
  let isFloat := bit p.format 0
  let raw : Rat := (ofTwosComp 32 m.1 : Int)
  if m.2 % 4 == 1 then .bad
  else if ch == 32 then (if isFloat then floatIn m.1 (fun x => (x - p.fnom) * 4000) else .val (raw * 4))
  else if ch == 33 then (if isFloat then floatIn m.1 (fun x => x * 1000) else .val (raw * 10))
  else if 42 ≤ ch then .val ((m.1 % 2 ^ 16 : Nat) : Rat)
  else
    let fs := if ch < 32 then p.phFs.getD ch 0 else p.anFs.getD (ch - 34) 0
    if isFloat then floatIn m.1 (fun x => x * 131072 / ratOfFloat fs)
    else scaled (if ch < 32 then p.phFactor.getD ch 0 else p.anFactor.getD (ch - 34) 0) fs raw

/-- The quantities of an R-SV dataset, by MEMBER_MAP. -/
def rsvQuants (p : StreamP) (r : Rsv) : List Quant :=
  let used := (r.members.zip p.memberMap).filter (fun e => bit e.2 7)
  let find := fun (ch : Nat) (im : Bool) => (used.find? (fun e => e.2 % 64 == ch && bit e.2 6 == im)).map (·.1)
  (layoutOf p).map (fun ch =>
    let part := fun im => match find ch im with | some m => rsvConv p ch m | none => Conv.open'
    let nan := fun im => match find ch im with | some m => b2n (bit p.format 0 && ch < 42 && isNaN m.1) | none => 0
    if ch < 32 then ⟨ch, [part false, part true], nan false + nan true⟩ else ⟨ch, [part false], nan false⟩)

/-- Bound of the conversion error before rounding, in 2^-32 LSB (05 R174). -/
def convBound (ch : Nat) : Int := if ch < 32 || (34 ≤ ch && ch < 42) then 2 ^ 29 else if ch < 34 then 2 ^ 28 else 0

/-- A conversion with its error, clamped to the format: value, saturations, state (05 R173, R174). -/
def settleConv (ch : Nat) (c : Conv) (s : State) : Rat × Nat × State :=
  match c with
  | .val x =>
    let e := clampInt (-(convBound ch)) (convBound ch) (Config.convErr s.freeCtr)
    let s := if 42 ≤ ch then s else bumpFree s
    let y := if 42 ≤ ch then x else x + mkRat e (2 ^ 32)
    let isOver := ch < 42 && (x < -131072 || 131071 < x)
    (if 42 ≤ ch then x else clampRat' y, b2n isOver, s)
  | .top neg => (if neg then -131072 else 131071, 1, s)
  | .open' => (((freeBits 18 s : Nat) : Rat) - 131072, 0, bumpFree s)
  | .bad => (0, 0, s)
where
  clampRat' (y : Rat) : Rat := if y < -131072 then -131072 else if 131071 < y then 131071 else y

/-- The second part of a quantity, where it has one. -/
def settleSecond (ch : Nat) (c : Option Conv) (s : State) : Rat × Nat × State :=
  match c with
  | some c => settleConv ch c s
  | none => (0, 0, s)

/-- One quantity becomes a channel value (05 R173). -/
def normalizeQuant (sid : Nat) (acc : List ChanVal × State) (q : Quant) : List ChanVal × State :=
  let s := if q.nans == 0 then acc.2 else countN (strCtr sid 0x20) q.nans acc.2
  if q.parts.contains .bad then (acc.1 ++ [⟨q.ch, false, 0, 0⟩], s)
  else
    let a := settleConv q.ch (q.parts.getD 0 (.val 0)) s
    let b := settleSecond q.ch q.parts[1]? a.2.2
    (acc.1 ++ [⟨q.ch, true, a.1, b.1⟩], countN (strCtr sid 0x18) (a.2.1 + b.2.1) b.2.2)

/-- The quantities of a frame become channel values (05 R173), with SAT and NAN counted. -/
def normalize (sid : Nat) (qs : List Quant) (s : State) : List ChanVal × State :=
  qs.foldl (normalizeQuant sid) ([], s)

/-! ### Cells from frames (05 R176 to R182) -/

/-- A converted value rounded into its format, with the saturations (00 R9). -/
def roundChan (v : ChanVal) : CellChan × Nat :=
  if 42 ≤ v.ch then (⟨v.ch, roundRat v.a, 0⟩, 0)
  else
    let isOver := fun x : Rat => b2n (x < -131072 || 131071 < x)
    (⟨v.ch, satCode 18 v.a, satCode 18 v.b⟩, isOver v.a + isOver v.b)

/-- ARRIVAL (05 R176): stamp minus a time, in ns, 32 bits saturating. -/
def arrivalOf (stamp t : Int) : Int := clampInt (-(2 ^ 31 - 1)) (2 ^ 31 - 1) (roundDiv (stamp - t) (2 ^ 16))

/-- The cell a frame writes directly. -/
def directCell (f : HistFrame) : Cell :=
  { cellNo := 0, chans := (f.vals.filter (·.valid)).map (fun v => (roundChan v).1), stat := f.stat, tq := f.tq,
    arrival := arrivalOf f.stamp f.tag, late := false, interp := false, unsettled := f.unsettled, authOk := f.authOk,
    timeOk := f.timeOk, statErr := f.statErr, frozenGap := false }

/-- The instant a tag lies on, within TAG_TOL (05 R177). -/
def onInstant (p : GroupP) (tol : Int) (t : Int) : Option Int :=
  let k := (t - epoch16 p + tol) * p.rate / periodScale
  if ((t - epoch16 p) * p.rate - k * periodScale).natAbs ≤ (tol * p.rate).natAbs then some k else none

/-- Lagrange weight of frame `i` among `pts` at a time (05 R178); times in ns relative to the epoch. -/
def weight (tk : Rat) (pts : List Rat) (ti : Rat) : Rat :=
  pts.foldl (fun w tm => if tm == ti then w else w * ((tk - tm) / (ti - tm))) 1

/-- A tag in ns after the epoch. -/
def sinceEpoch (p : GroupP) (t : Int) : Rat := mkRat (t - epoch16 p) (2 ^ 16)

/-- A frame's channel. -/
def HistFrame.chan (f : HistFrame) (ch : Nat) : Option ChanVal := f.vals.find? (fun v => v.ch == ch && v.valid)

/-- x rotated by -2 pi df (ti - tk); df in Hz, times in ns. -/
def rotate (df ti tk : Rat) (v : ChanVal) : Rat × Rat :=
  let a := (-(df * (ti - tk) / 1000000000) * (twoPi : Nat)).floor
  let c := frac128 (cosOf a)
  let d := frac128 (sinOf a)
  (v.a * c - v.b * d, v.a * d + v.b * c)

/-- The interpolated value of a channel (05 R178), valid in every frame of the point set; the flag says that no rule gives
it (a frequency of the set is invalid). -/
def interpChan (cubic : Bool) (tk : Rat) (pts : List (Rat × HistFrame)) (held : HistFrame) (ch : Nat) : Option (ChanVal × Bool) :=
  let vs := pts.filterMap (fun e => (e.2.chan ch).map (fun v => (e.1, v)))
  if vs.length != pts.length then none
  else
    let ts := pts.map (·.1)
    let sum := fun (g : Rat × ChanVal → Rat) => (vs.map (fun e => weight tk ts e.1 * g e)).foldl (· + ·) 0
    if 42 ≤ ch then held.chan ch |>.map (fun v => (v, false))
    else if ch < 32 && cubic then
      let fr := pts.filterMap (fun e => e.2.chan 32)
      let df : Rat := (fr.map (·.a)).foldl (· + ·) 0 / 4000 / (fr.length : Nat)
      let r := fun e : Rat × ChanVal => rotate df e.1 tk e.2
      some (⟨ch, true, sum (fun e => (r e).1), sum (fun e => (r e).2)⟩, fr.length != pts.length)
    else some (⟨ch, true, sum (fun e => e.2.a), sum (fun e => e.2.b)⟩, false)

/-- Channel `ch` of an interpolated cell (05 R178, R179). -/
def interpCellChan (sid : Nat) (cubic : Bool) (tk : Rat) (ps : List (Rat × HistFrame)) (held : HistFrame)
    (acc : List CellChan × State) (ch : Nat) : List CellChan × State :=
  match interpChan cubic tk ps held ch with
  | none => acc
  | some (_, true) =>
    let f := fun (s : State) => (freeBits 18 s : Int) - 131072
    (acc.1 ++ [⟨ch, f acc.2, f (bumpFree acc.2)⟩], bumpFree (bumpFree acc.2))
  | some (v, false) =>
    let c := roundChan v
    (acc.1 ++ [c.1], countN (strCtr sid 0x18) c.2 acc.2)

/-- The interpolated cell of instant k from its point set, `held` being f_j (05 R178, R179, R181); saturations count. -/
def interpCell (sid : Nat) (p : GroupP) (cubic : Bool) (k : Nat) (pts : List HistFrame) (held : HistFrame) (s : State) :
    Cell × State :=
  let tk : Rat := mkRat (k * 1000000000 : Nat) p.rate
  let ps := pts.map (fun f => (sinceEpoch p f.tag, f))
  let x := (held.vals.map (·.ch)).foldl (interpCellChan sid cubic tk ps held) ([], s)
  let last := pts.foldl (fun m f => max m f.n) 0
  let stamp := pts.foldl (fun m f => if m < f.stamp then f.stamp else m) held.stamp
  ({ cellNo := 0, chans := x.1, stat := held.stat, tq := held.tq, arrival := arrivalOf stamp (tkOf p k), late := false,
     interp := true, unsettled := last < (if cubic then 8 else 4) || pts.any (·.unsettled), authOk := pts.all (·.authOk),
     timeOk := pts.all (·.timeOk), statErr := pts.any (·.statErr), frozenGap := false }, x.2)

/-- How a membership receives values (05 R177). -/
inductive MemberMode where
  | direct | pick | interp
deriving DecidableEq, Repr

/-- The mode of a stream's membership in a group of a rate. -/
def memberMode (p : StreamP) (rate : Nat) : MemberMode :=
  if p.align == 1 then .interp else if p.rate == rate then .direct else if p.rate % rate == 0 then .pick else .interp

/-- A membership as SI serves it. -/
structure Membership where
  gid : Nat
  p : GroupP
  /-- in force, or removed while the frame waited in a pipeline (06 R225); else only instants that opened before the removal and
  keep the old list still take the stream's cells (06 R196) -/
  current : Bool
deriving DecidableEq, Repr

/-- The memberships that a frame of a stream is offered to, by GID: of enabled groups that list it, of those it was removed from
while the frame waited, and of those with an instant that still lists it (06 R196, R225). -/
def membershipsOf (s : State) (leaving : List (Nat × Nat)) (sid : Nat) : List Membership :=
  s.erg.groups.filterMap (fun e =>
    if e.2.en && (e.2.members.contains sid || leaving.contains (e.1, sid)) then some ⟨e.1, e.2.p, true⟩
    else if e.2.instants.any (fun i => i.members.contains sid) then some ⟨e.1, e.2.p, false⟩
    else none)

/-- A cell is offered to the Erg for a membership. -/
def offerCell (m : Membership) (k : Int) (sid : Nat) (c : Cell) (s : State) : State :=
  if m.current || (0 ≤ k && (getInstant s m.gid k.toNat).any (fun i => i.members.contains sid)) then writeCell m.gid k sid c s else s

/-- Indices k with a <= t_k < b. -/
def indicesIn (p : GroupP) (a b : Int) : List Nat :=
  let lo := (indexAt p (a - 1) + 1).toNat
  let hi := (indexAt p (b - 1) + 1).toNat
  (List.range (hi - lo)).map (lo + ·)

/-- The instants that a new newest frame completes by interpolation for one membership (05 R178, R182). -/
def interpolate (sid : Nat) (m : Membership) (cubic : Bool) (hist : List HistFrame) (tol : Int) (s : State) : State :=
  let h := hist.reverse
  let set : Option (HistFrame × HistFrame × List HistFrame) := if cubic then
      match h with
      | d :: c :: b :: a :: _ => some (b, c, [a, b, c, d])
      | _ => none
    else match h with
      | c :: b :: _ => some (b, c, [b, c])
      | _ => none
  match set with
  | none => s
  | some (fj, fn, pts) =>
    let covered := hist.filterMap (fun f => onInstant m.p tol f.tag)
    ((indicesIn m.p fj.tag fn.tag).filter (fun (k : Nat) => !covered.contains (Int.ofNat k))).foldl (fun s (k : Nat) =>
      let (c, s) := interpCell sid m.p cubic k pts fj s
      offerCell m k sid c s) s

/-- One membership takes an accepted frame; `newest` says that it joined the history, `miss` that a DIRECT membership missed, so
that it is written for none (05 R177). The interpolated cells that it completes are older and come first (06 R202). -/
def feedMembership (sid : Nat) (x : Stream) (f : HistFrame) (newest miss : Bool) (tol : Int) (m : Membership) (s : State) : State :=
  let direct := fun (s : State) => match onInstant m.p tol f.tag with
    | some k => if miss then s else offerCell m k sid (directCell f) s
    | none => s
  match memberMode x.p m.p.rate with
  | .interp => if newest then direct (interpolate sid m (x.p.method == 1) x.hist tol s) else s
  | _ => direct s

/-- The resampler takes an accepted frame (05 R180, R181): the stream with its history, whether the frame joined it, whether its
tag equals one in it, and whether it follows a gap. A frame that restarts joins whatever its tag (DESIGN CHOICE, log 77). -/
def Stream.push (x : Stream) (f : HistFrame) : Stream × Bool × Bool × Bool :=
  match x.hist.getLast? with
  | none => ({ x with hist := [{ f with n := 1 }], n := 1, restart := false }, true, false, false)
  | some l =>
    let gap := 3 * periodScale < (f.tag - l.tag) * x.p.rate * 2
    if gap || x.restart then ({ x with hist := [{ f with n := 1 }], n := 1, restart := false }, true, false, gap)
    else if f.tag ≤ l.tag then (x, false, x.hist.any (fun g => g.tag == f.tag), false)
    else
      let n := x.n + 1
      ({ x with hist := (x.hist ++ [{ f with n := n }]).drop (x.hist.length - 3), n := n }, true, false, false)

/-- Frame `f` is offered to every membership (05 R177): OFFGRID counts a frame that misses every instant of its DIRECT
memberships. -/
def resample (sid : Nat) (x : Stream) (f : HistFrame) (newest : Bool) (leaving : List (Nat × Nat)) (s : State) : State :=
  let tol := us16 s.si.tagTolUs
  let ms := membershipsOf s leaving sid
  let direct := ms.filter (fun m => m.current && memberMode x.p m.p.rate == .direct)
  let miss := !direct.isEmpty && direct.all (fun m => (onInstant m.p tol f.tag).isNone)
  let s := if miss then count (strCtr sid 0x28) s else s
  ms.foldl (fun s m => feedMembership sid x f newest miss tol m s) s

/-- Step 9 of R166 (05 R183, R175, R180): the stream is LIVE and its frame goes to the resampler. -/
def acceptFrame (sid : Nat) (f : HistFrame) (leaving : List (Nat × Nat)) (s : State) : State :=
  match getStream s sid with
  | none => s
  | some x =>
    let again := x.state == .stale || x.state == .lost
    let s := setStreamState sid .live s
    let b10 := bit f.stat 10
    let s := if b10 && !x.stat10 then note s.si.nq 3 0x03 1 sid s else s
    let x := { x with state := .live, restart := x.restart || again, stat10 := b10,
                      lastTag := f.tag, lastStamp := some f.stamp }
    let (x, newest, dup, gap) := x.push f
    let s := updStream sid (fun _ => x) s
    let s := if newest then s else count (strCtr sid 0x30) s
    let s := if dup then count (siCtr 0x048) s else s
    let s := if gap then count (strCtr sid 0x38) s else s
    resample sid x f newest leaving (count (strCtr sid 0x00) s)

/-! ### Disposal (05 R166) -/

/-- The first byte of SYNC is 0xAA (Table 5-1). -/
def c37Sync (c : C37) : Bool := fieldBe c.bytes 0 1 == 0xAA

/-- SOC and FRACSEC[23:0] of a C37.118 frame, and FRACSEC[31:24], its time quality. -/
def c37Soc (c : C37) : Nat := fieldBe c.bytes 6 4
def c37Fracsec (c : C37) : Nat := fieldBe c.bytes 11 3
def c37Tq (c : C37) : Nat := fieldBe c.bytes 10 1

/-- Bytes of a phasor, of FREQ or DFREQ, and of an analog, as FORMAT says. -/
def phBytes (p : StreamP) : Nat := if bit p.format 1 then 8 else 4
def fqBytes (p : StreamP) : Nat := if bit p.format 3 then 4 else 2
def anBytes (p : StreamP) : Nat := if bit p.format 2 then 4 else 2

/-- Bytes of the installed block: STAT, the phasors, FREQ, DFREQ, the analogs, the digital words. -/
def blockLen (p : StreamP) : Nat := 2 + p.phnmr * phBytes p + 2 * fqBytes p + p.annmr * anBytes p + 2 * p.dgnmr

/-- The installed block of a frame, at its BLOCK_OFS from SYNC (05 R164, Table 5-13). -/
def blockOf (p : StreamP) (c : C37) : PmuBlock :=
  let at' := fun ofs n => fieldBe c.bytes (p.blockOfs + ofs) n
  let ph := phBytes p
  let fq := 2 + p.phnmr * ph
  let an := fq + 2 * fqBytes p
  let dg := an + p.annmr * anBytes p
  { stat := at' 0 2,
    phasors := (List.range p.phnmr).map (fun i => (at' (2 + i * ph) (ph / 2), at' (2 + i * ph + ph / 2) (ph / 2))),
    freq := at' fq (fqBytes p), rocof := at' (fq + fqBytes p) (fqBytes p),
    analogs := (List.range p.annmr).map (fun i => at' (an + i * anBytes p) (anBytes p)),
    digitals := (List.range p.dgnmr).map (fun i => at' (dg + 2 * i) 2) }

/-- Step 1: not data (05 R164, R165). -/
def nonData (f : SiFrame) : Bool :=
  match f.frame.payload with
  | .c37 c => c37Sync c && fieldBe c.bytes 1 1 / 16 % 8 != 0
  | .rsv r => !r.svSession
  | _ => f.proto == 1

/-- Step 2: unsupported security algorithm. -/
def badSecAlg (f : SiFrame) : Bool :=
  match f.frame.payload with
  | .rsv r => r.encrypted || !r.secAlgKnown
  | _ => false

/-- Step 4: the ingress port, or its pair, is in PORT_MASK. -/
def portAdmitted (s : State) (x : Stream) (port : Nat) : Bool :=
  match pairOf s port with
  | some n => bit x.p.portMask (2 * n) || bit x.p.portMask (2 * n + 1)
  | none => bit x.p.portMask port

/-- Step 6: well formed (05 R164, R165). -/
def wellFormed (x : Stream) (f : SiFrame) : Bool :=
  match f.frame.payload with
  | .c37 c =>
    let version := fieldBe c.bytes 1 1 % 16
    c37Sync c && (version == 1 || version == 2) && fieldBe c.bytes 2 2 == x.p.framesize && c.bytes.length == x.p.framesize &&
    c37Fracsec c < x.p.timeBase && x.p.blockOfs + blockLen x.p + 2 ≤ c.bytes.length
  | .rsv r => r.berOk && r.noAsdu == 1 && 1 ≤ r.svid.length && r.svid.length ≤ 64 && r.members.length ≤ 64
  | _ => false

/-- Step 7: CHK. -/
def chkFails (f : SiFrame) : Bool := 
  match f.frame.payload with
  | .c37 c => chkOf (c.bytes.take (c.bytes.length - 2)) != fieldBe c.bytes (c.bytes.length - 2) 2
  | _ => false

/-- The time tag in 2^-16 ns of TAI (05 R171). -/
def tagOfFrame (s : State) (x : Stream) (f : SiFrame) : Int :=
  let (sec, num, den) : Nat × Nat × Nat := match f.frame.payload with
    | .c37 c => (c37Soc c, c37Fracsec c, x.p.timeBase)
    | .rsv r => (r.refSec, r.refFrac, 2 ^ 24)
    | _ => (0, 0, 1)
  ((sec : Int) + s.tm.utcOfs) * periodScale + (num * 1000000000 * 2 ^ 16 / den : Nat)

/-- STAT, time quality, STAT_ERR and TIME_OK (Table 5-5). -/
def statusOf (s : State) (x : Stream) (f : SiFrame) : Nat × Nat × Bool × Bool :=
  match f.frame.payload with
  | .c37 c =>
    let st := (blockOf x.p c).stat
    let q := c37Tq c % 16
    (st, c37Tq c, bits st 14 2 != 0,
      !bit st 13 && q != 0xF && q ≤ x.p.tqMax && bits st 4 2 ≤ x.p.unlockMax && s.tm.utcValid)
  | .rsv r =>
    let mapped := ((r.members.zip x.p.memberMap).filter (fun e => bit e.2 7)).map (·.1.2)
    (mapped.foldl (fun a q => a ||| q % 2 ^ 13) 0, r.tqOctet, mapped.any (fun q => q % 4 == 3 || bit q 11),
      r.smpSynch == 2 && !bit r.tqOctet 6 && !bit r.tqOctet 5 && s.tm.utcValid)
  | _ => (0, 0, false, false)

/-- The quantities of a frame for a stream. -/
def quantsOf (x : Stream) (f : SiFrame) : List Quant :=
  match f.frame.payload with
  | .c37 c => c37Quants x.p (blockOf x.p c)
  | .rsv r => rsvQuants x.p r
  | _ => []

/-- Steps 5 to 9 for one stream of the frame. -/
def disposeFor (f : SiFrame) (sid : Nat) (s : State) : State :=
  match getStream s sid with
  | none => s
  | some x =>
    if x.state == .quarantined then count (siCtr 0x028) s
    else if !wellFormed x f then count (strCtr sid 0x10) (count (siCtr 0x030) s)
    else if chkFails f then count (strCtr sid 0x10) (count (siCtr 0x038) s)
    else
      let (ok, next) := authentic s x f
      if !ok then failStream sid (count (strCtr sid 0x08) (count (siCtr 0x040) s))
      else
        let s := if next then rollKey sid s else s
        let s := match f.frame.payload with
          | .rsv r => updStream sid (fun x => { x with spdu := some r.spduNo }) s
          | _ => s
        let (vals, s) := normalize sid (quantsOf x f) s
        let (st, tq, err, tok) := statusOf s x f
        acceptFrame sid ⟨tagOfFrame s x f, f.stamp, 0, vals, st, tq, err, tok, x.p.authMode != 0, false⟩ f.leaving s

/-- The frame as the ports hold it. -/
def SiFrame.rx (f : SiFrame) : Rx := ⟨f.port, f.frame, f.stamp, f.rxSeq, f.flags, f.frame.len - 4, f.sc⟩

/-- A frame is returned to pass-through class INTAKE_REJECT (05 R166). -/
def returnFrame (f : SiFrame) (ctr : Nat) (s : State) : State :=
  if f.pages == 0 then s else toPassThrough f.rx 6 false (count (siCtr ctr) s)

/-- The disposal of one frame taken by pipeline `q`. -/
def disposeFrame (q : Nat) (f : SiFrame) (s : State) : State :=
  let s := if f.pages == 0 then s else count (siCtr 0x000) s
  if nonData f then returnFrame f 0x008 s
  else if badSecAlg f then returnFrame f 0x010 s
  else
    let sids := streamsOf s f.frame f.proto
    let ok := sids.filter (fun sid => ((getStream s sid).map (fun x => portAdmitted s x f.port)).getD false)
    if sids.isEmpty then returnFrame f 0x018 s
    else if ok.isEmpty then returnFrame f 0x020 s
    else
      let s := if f.pages == 0 then s else freeBuffer f.port (f.frame.len - 4) s
      (ok.filter (fun sid => ((getStream s sid).map (fun x => pipeOf s f.port x.p.lane)).getD 0 == q)).foldl
        (fun s sid => disposeFor f sid s) s

/-- SI_FRAME_PARSE (05 R161, R166): pipeline `q` takes its oldest frame. -/
def execSiFrameParse (pipe : Nat) (s : State) : Host.Outcome State Fault Refusal :=
  .next (match tget [] s.si.pipes pipe with
    | [] => s
    | f :: rest =>
      if 16 ≤ pipe || !intakeRuns s then s
      else disposeFrame pipe f { s with si := { s.si with pipes := tset s.si.pipes pipe rest } })

/-! ### Stream timers (05 R183) -/

/-- A span of `n` stream periods has passed since the last accepted frame, on the last tick. -/
def silentFor (s : State) (x : Stream) (n : Nat) : Bool :=
  match x.lastStamp with
  | some t => n * periodScale ≤ (s.tm.tick - t) * x.p.rate
  | none => false

/-- The timers of one stream. -/
def streamTimers (sid : Nat) (s : State) : State :=
  match getStream s sid with
  | none => s
  | some x =>
    let s := if x.state == .live && silentFor s x x.staleN then setStreamState sid .stale s else s
    match getStream s sid with
    | some x => if x.state == .stale && silentFor s x x.lostN then setStreamState sid .lost s else s
    | none => s

/-- SI is clocked: not in BOOT, DOZE or FROZEN, nor stopped by a handshake (01 R22, 05 R185). -/
def siClocked (s : State) : Bool :=
  s.pm.mode != .boot && s.pm.mode != .doze && s.pm.mode != .frozen && !hsStopped 5 s

/-- STREAM_TIMER_EXPIRY (05 R183), in every mode in which SI is clocked. -/
def execStreamTimerExpiry (sid : Nat) (s : State) : Host.Outcome State Fault Refusal :=
  .next (if siClocked s then streamTimers sid s else s)

end Sys2Proof.Machine
end

