-- ==== Sys2Proof/Machine/Meter.lean ====
section
/-! DEFINITION. Anchor metrology AM (chapter 11): samples, energy blocks, pulses, saves, and the anchor virtual streams. -/

namespace Sys2Proof.Machine

/-! ### Temperature (11 R353) -/

/-- Settling samples of a response (Table 11-2). -/
def settleCount (code : Nat) : Nat := [17, 13, 9, 6, 4, 3].getD code 0

/-- T from a sample of a KIND 3 channel, LSB 1/256 °C. -/
def tempOf (fs : Nat) (code : Int) : Int := satCode 16 ((code : Rat) * ratOfFloat fs * 256 / 131072)

/-- The channel's temperature source gives a value now. -/
def tempFresh (s : State) (c : MChan) : Bool :=
  match c.p.tempSrc with
  | 1 => (let t := getMChan s c.p.tempCh; t.p.kind == 3 && t.recSample.isSome)
  | 2 => (match c.tempAt with | some t => decide (s.tm.frc ≤ t + 60 * secCounts) | none => false)
  | _ => true

/-- The channel takes the newest T of its source channel. -/
def takeTemp (k : Nat) (s : State) : State :=
  let c := getMChan s k
  if c.p.tempSrc != 1 then s
  else
    let src := getMChan s c.p.tempCh
    match if src.p.kind == 3 then src.recSample else none with
    | some v => updMChan k (fun c => { c with temp := some (tempOf src.p.fs v), tempStale := false }) s
    | none => s

/-- TEMP_STALE (11 R353): T's source is invalid, or its last value too old. -/
def execTempStale (ch : Nat) (s : State) : Host.Outcome State Fault Refusal :=
  .next (
    let c := getMChan s ch
    if 12 ≤ ch || !amClocked s || c.p.en != 1 || c.tempStale || c.temp.isNone || tempFresh s c then s
    else note s.am.nq 11 0x03 1 ch (count (chCtr ch 0x18) (updMChan ch (fun c => { c with tempStale := true }) s)))

/-- ΔT in °C (11 R353). -/
def deltaT (c : MChan) : Rat :=
  match c.temp with
  | some t => mkRat (t - c.c.tRef) 256
  | none => 0

/-! ### Samples (11 R352, R353, R359) -/

/-- GAIN as a ratio. -/
def gainOf (g : Nat) : Rat := mkRat g (2 ^ 30)

/-- x of R353 after step 1, of a decimated value in 2^-32. -/
def lessOffset (c : MChan) (v : Int) : Rat :=
  mkRat v (2 ^ 32) - mkRat c.c.offsetS 131072 - mkRat c.c.tcB1 (2 ^ 24) * deltaT c

/-- The pole of a first-order high-pass filter with its corner at 0.10 Hz and 131,072 ns between samples, in 2^-64:
1 / (1 + 2 pi x 0.1 Hz x 131,072 ns). -/
def hpPole : Int := roundRat (2 ^ 64 / (1 + mkRat twoPi (2 ^ 128) * mkRat 131072 (10 ^ 10)))

/-- The high-pass filter takes an input (11 R353 step 2): its last input and output, 2^-64, after it. -/
def hpStep (z : Int × Int) (x : Rat) : Int × Int :=
  let i := roundRat (x * 2 ^ 64)
  (i, roundDiv (hpPole * (z.2 + i - z.1)) (2 ^ 64))

/-- Steps 1 and 2 of R353: x, and the high-pass state after it, which runs while HPF is set. -/
def highPassed (c : MChan) (z : Int × Int) (v : Int) : Rat × (Int × Int) :=
  if c.p.hpf then
    let z := hpStep z (lessOffset c v)
    (mkRat z.2 (2 ^ 64), z)
  else (lessOffset c v, (0, 0))

/-- Step 3 of R353. -/
def gained (c : MChan) (x : Rat) : Rat :=
  let d := deltaT c
  x * gainOf c.c.gainS * (1 + mkRat c.c.tcA1 (10 ^ 8) * d + mkRat c.c.tcA2 (10 ^ 10) * d * d)

/-- A sample in AV18 of FS, and whether it saturates (step 4 of R353). -/
def sampleCode (c : MChan) (x : Rat) : Int × Bool :=
  let y := gained c x * 131072
  (satCode 18 y, y < -131072 || 131071 < y)

/-- |v| of 0.98 or more before gain (11 R352). -/
def overrangeOf (v : Int) : Bool := 98 * 2 ^ 32 ≤ 100 * v.natAbs

/-- MOD_FAULT after the bits since the last sample (11 R352). -/
def modFaultStep (ch : Nat) (run64 : Bool) (cleanBits : Nat) (s : State) : State :=
  let c := getMChan s ch
  if !c.modFault && run64 then
    note s.am.nq 11 0x01 2 ch (count (chCtr ch 0x00) (updMChan ch (fun c => { c with modFault := true }) s))
  else if c.modFault && !run64 && 512 ≤ cleanBits then
    note s.am.nq 11 0x02 0 ch (updMChan ch (fun c => { c.restart s with modFault := false }) s)
  else s

/-- Samples of one nominal cycle, rounded up: 7,629.39 samples/s. -/
def cycleSamples (fnom : Nat) : Nat := if fnom == 60 then 128 else 153

/-- RECORD UNSETTLED and ALARM UNSETTLED (11 R359): the settling counts, and a nominal cycle of ALARM samples. -/
def recUnsettled (c : MChan) : Bool := c.recCount ≤ settleCount c.p.respRec
def almUnsettled (s : State) (k : Nat) : Bool :=
  let c := getMChan s k
  c.almCount ≤ settleCount c.p.respAlm + cycleSamples (elemFnom s (chanElem s k))

/-- An output joins the history of channel `ch`. -/
def pushOutput (ch : Nat) (a b : Option Int) (s : State) : State :=
  let e : SdSample := ⟨s.tm.frc, now s, a, b, recUnsettled (getMChan s ch), almUnsettled s ch, false⟩
  updMChan ch (fun c => { c with hist := (e :: c.hist).take 65536 }) s

/-- The newest outputs of a channel of one class, with their FRC counts, up to an invalid one or the restart. -/
def recentOf (cls : Nat) (l : List SdSample) : List (Nat × Int) :=
  ((sinceRestart l).takeWhile (fun e => (e.code cls).isSome)).filterMap (fun e => (e.code cls).map (fun v => (e.frc, v)))

/-- The RMS values of channel `ch`: RECORD after each cycle, ALARM after each 1/8 cycle, over one cycle, within 0.02 % and 0.5 %
of reading (11 R359). -/
def updateRms (ch : Nat) (s : State) : State :=
  let c := getMChan s ch
  let w := 1 / elemFreq s (chanElem s ch) / countSec s
  let due := fun (t : Nat) (q : Rat) => (t == 0 || decide ((t : Rat) + q ≤ (s.tm.frc : Rat)) : Bool)
  let c := if due c.recRmsAt w then
      { c with recRms := rmsCode c.c (meanSquare (recentOf 0 c.hist) w) 2 (freeBits 32 s), recRmsAt := s.tm.frc } else c
  let c := if due c.almRmsAt (w / 8) then
      { c with almRms := rmsCode c.c (meanSquare (recentOf 2 c.hist) w) 50 (freeBits 32 (bumpFree s)), almRmsAt := s.tm.frc } else c
  bumpFree (bumpFree (updMChan ch (fun _ => c) s))

/-- A valid sample of channel `ch`: RECORD and ALARM outputs with their counts (11 R353, R359). -/
def storeSample (ch : Nat) (vRec vAlm : Int) (s : State) : State :=
  let c := getMChan s ch
  let (x, hr) := highPassed c c.hpRec vRec
  let (y, ha) := highPassed c c.hpAlm vAlm
  let (a, sa) := sampleCode c x
  let (b, sb) := sampleCode c y
  let isOver := overrangeOf vRec || overrangeOf vAlm
  let s := updMChan ch (fun c => { c with
    recSample := some a, almSample := some b, overrange := isOver, hpRec := hr, hpAlm := ha
    recCount := min 255 (c.recCount + 1), almCount := min 255 (c.almCount + 1) }) s
  let s := updateRms ch (pushOutput ch (some a) (some b) s)
  let s := if isOver then count (chCtr ch 0x08) s else s
  if sa || sb then count (chCtr ch 0x10) s else s

/-- An invalid sample of channel `ch` (11 R352). -/
def missSample (ch : Nat) (s : State) : State :=
  pushOutput ch none none (updMChan ch (fun c => { c with recSample := none, almSample := none, overrange := false }) s)

/-- The decimation boundary of channel `ch` falls now: `ch` periods of SD_CLK after channel 0's, every 512 periods (11 R354,
R356). -/
def atBoundary (s : State) (ch : Nat) : Bool :=
  s.am.sdBase + 100 * ch ≤ s.tm.frc && (s.tm.frc - (s.am.sdBase + 100 * ch)) % 51200 == 0

/-- The boundary of channel `ch` has been taken at this count already. -/
def boundaryTaken (s : State) (ch : Nat) : Bool :=
  (getMChan s ch).hist.head?.any (fun e => !e.mark && e.frc == s.tm.frc) || (ch == 0 && s.am.bounds.head? == some s.tm.frc)

/-- Channel 0's boundaries give every element its measurement times, whether or not channel 0 is enabled (11 R355, R365). -/
def markBoundary (ch : Nat) (s : State) : State :=
  if ch == 0 then { s with am := { s.am with bounds := (s.tm.frc :: s.am.bounds).take 1024 } } else s

/-- A sample of an enabled channel. -/
def takeSample (ch : Nat) (vRec vAlm : Int) (run64 : Bool) (cleanBits : Nat) (s : State) : State :=
  let c := getMChan s ch
  if c.p.en != 1 then s
  else
    let s := takeTemp ch (modFaultStep ch run64 cleanBits s)
    if (getMChan s ch).modFault || c.p.kind == 0 then missSample ch s
    else storeSample ch (if c.p.invert then -vRec else vRec) (if c.p.invert then -vAlm else vAlm) s

/-- SD_SAMPLE (11 R350 to R354): the decimated values of the two responses, in 2^-32; whether the bits showed a run of 64,
and how many clean bits have passed. -/
def execSdSample (ch : Nat) (vRec vAlm : Int) (run64 : Bool) (cleanBits : Nat) (s : State) : Host.Outcome State Fault Refusal :=
  .next (
    if 12 ≤ ch || !sdClkRuns s || !atBoundary s ch || boundaryTaken s ch then s
    else takeSample ch vRec vAlm run64 cleanBits (markBoundary ch s))

/-- Active and reactive energy over the first `n` phases. -/
def phaseSum (n : Nat) (e : List (Int × Int)) : Int × Int := ((e.take n).map (·.1) |>.sum, (e.take n).map (·.2) |>.sum)

/-- ENERGY_BLOCK_END (11 R365, R366): the energies of the phases and the frequency that AM's arithmetic finds, in aJ and FQ18, are
held within the manual's bounds of what the samples give. The block ends at its boundary, once its interpolation has the samples
it needs. -/
def execEnergyBlockEnd (el stop : Nat) (e1 e2 e3 : Int × Int) (trackedF : Int) (s : State) : Host.Outcome State Fault Refusal :=
  .next (
    let x := getElem' s el
    if 4 ≤ el || !sdClkRuns s || !energyRuns s || !x.en || !x.running || blockEnd s el != some stop ||
        !reaches (finePoints / 2) s el stop then s
    else trackFreq el trackedF (endBlock el stop (phaseSum x.p.phases [e1, e2, e3]) s))

/-! ### Pulses (11 R370) -/

/-- Pulse output `n`. -/
def getPulse (s : State) (n : Nat) : Pulse := tget Pulse.reset s.am.pulses n

/-- Pulse output `n` replaced. -/
def setPulse (n : Nat) (x : Pulse) (s : State) : State := { s with am := { s.am with pulses := tset s.am.pulses n x } }

/-- The high time of a pulse due at `due`, FRC counts (11 R370). -/
def highTime (x : Pulse) (due : Nat) : Nat :=
  let w := countsOfMs x.p.widthMs
  match x.prev with
  | none => w
  | some (t, _) => if 2 * w ≤ due - t then w else max (countsOfUs 500) ((due - t) / 2)

/-- PULSE_START (11 R370). -/
def execPulseStart (n : Nat) (s : State) : Host.Outcome State Fault Refusal :=
  .next (
    let x := getPulse s n
    match x.backlog with
    | [] => s
    | due :: rest =>
      let free := match x.prev with | some (t, h) => decide (t + 2 * h ≤ s.tm.frc) | none => true
      if 4 ≤ n || !amClocked s || x.high || !free then s
      else setPulse n { x with backlog := rest, prev := some (s.tm.frc, highTime x due), high := true,
                               count := (x.count + 1) % 2 ^ 32, ovfOpen := false } s)

/-- PULSE_END (11 R370). -/
def execPulseEnd (n : Nat) (s : State) : Host.Outcome State Fault Refusal :=
  .next (
    let x := getPulse s n
    match x.prev with
    | some (t, h) => if x.high && t + h ≤ s.tm.frc && s.pm.mode != .frozen then setPulse n { x with high := false } s else s
    | none => s)

/-- The level of PULSE[n] (11 R370). -/
def pulseLevel (s : State) (n : Nat) : Bool := (getPulse s n).high != ((getPulse s n).p.pol == 1)

/-! ### Saves (11 R371, R372, R374) -/

/-- The registers of an element as a copy holds them. -/
def copyOf (s : State) (e mask : Nat) : EnergyCopy :=
  let r := (getElem' s e).regs
  ⟨e, mask, r.map (·.count), r.map (·.roll), r.map (·.frac)⟩

/-- The copy with the newest sequence, compared under 00 R16; one that reads uncorrectable leaves the other (13 R425). -/
def newestCopy (l : List SaveCopy) : Option SaveCopy :=
  (l.filter (fun c => c.flips.all (· < 3))).foldl (fun b c => match b with | none => some c | some x => if seqBefore x.seq c.seq then some c else some x) none

/-- Save sequence of the newest copy, 0 before the first. -/
def lastSeq (s : State) : Nat := ((newestCopy (s.cairn.periodic ++ s.cairn.ballast)).map (·.seq)).getD 0

/-- Sequence of the next save: a 32-bit sequence number, which wraps to 0 (11 R371; 00 R14). -/
def nextSave (s : State) : Nat := (lastSeq s + 1) % 2 ^ 32

/-- A copy of these registers with the time, TQ and operating seconds. -/
def saveCopy (s : State) (regs : List EnergyCopy) (peaks : List Rat) : SaveCopy :=
  let d := dt80Of (now s)
  ⟨nextSave s, regs, d.sec, d.ns, s.tm.tq.code, s.cairn.opsec, peaks, []⟩

/-- The copy written replaces the older of the two. -/
def putCopy (c : SaveCopy) (l : List SaveCopy) : List SaveCopy := (c :: l).take 2

/-- A periodic save of every register (11 R371). -/
def periodicSave (s : State) : State :=
  let c := saveCopy s ((List.range 4).map (fun e => copyOf s e 255)) []
  let s := count (amCtr 0x00) { s with cairn := { s.cairn with periodic := putCopy c s.cairn.periodic } }
  { s with am := { s.am with savedAt := s.tm.frc, els := s.am.els.map (fun e => (e.1, { e.2 with sPeak := 0 })) } }

/-- A save that fails leaves the older copy overwritten and not valid; SAVE_FAILED (11 R371, Table 11-13). -/
def saveFailed (s : State) : State :=
  let s := { s with cairn := { s.cairn with periodic := s.cairn.periodic.take 1 }, am := { s.am with savedAt := s.tm.frc } }
  note s.am.nq 11 0x09 2 (nextSave s % 2) s

/-- PERIODIC_SAVE (11 R371). -/
def execPeriodicSave (ok : Bool) (s : State) : Host.Outcome State Fault Refusal :=
  .next (
    if !amClocked s || s.am.halted || s.pm.pfwActions || s.tm.frc < s.am.savedAt + s.am.saveS * secCounts then s
    else if ok then periodicSave s else saveFailed s)

/-- ALIVE_STAMP (11 R371): every second. -/
def execAliveStamp (s : State) : Host.Outcome State Fault Refusal :=
  .next (
    if !amClocked s || s.am.halted || s.pm.pfwActions || s.tm.frc < s.am.aliveAt + secCounts then s
    else
      let d := dt80Of (now s)
      { s with cairn := { s.cairn with alive := some (d.sec, d.ns, s.cairn.opsec, s.tm.tq.code) }, am := { s.am with aliveAt := s.tm.frc } })

/-- The registers of element `e` in enabled Ballast sets. -/
def ballastMask (s : State) (e : Nat) : Nat :=
  (s.am.sets.filter (fun x => x.2.en == 1 && x.2.el == e)).foldl (fun m x => m ||| x.2.mask % 256) 0

/-- The Ballast write (11 R372): every enabled set, S_PEAK of every element, time and TQ. -/
def ballastWrite (durTenthUs : Nat) (s : State) : State :=
  let regs := ((List.range 4).filter (fun e => ballastMask s e != 0)).map (fun e => copyOf s e (ballastMask s e))
  let c := saveCopy s regs ((List.range 4).map (fun e => (getElem' s e).sPeak))
  let s := count (amCtr 0x10) { s with cairn := { s.cairn with ballast := putCopy c s.cairn.ballast } }
  { s with am := { s.am with pfwDur := durTenthUs % 2 ^ 16, ballastWrites := (s.am.ballastWrites + 1) % 2 ^ 16 } }

/-- A register as a copy holds it, when it does. -/
def SaveCopy.reg (c : SaveCopy) (e r : Nat) : Option EReg :=
  match c.regs.find? (fun x => x.el == e && bit x.mask r) with
  | some x => some ⟨x.counts.getD r 0, x.fracs.getD r 0, x.rolls.getD r 0⟩
  | none => none

/-- A register at BOOT, and whether it comes from the periodic copy (11 R374). -/
def restoredReg (s : State) (e r : Nat) : EReg × Bool :=
  let b := newestCopy s.cairn.ballast
  let p := newestCopy s.cairn.periodic
  match b.bind (fun c => (c.reg e r).map (fun g => (g, c.seq))), p.bind (fun c => (c.reg e r).map (fun g => (g, c.seq))) with
  | some (g, n), some (h, m) => if seqBefore m n then (g, false) else (h, true)
  | some (g, _), none => (g, false)
  | none, some (h, _) => (h, true)
  | none, none => (⟨0, 0, 0⟩, false)

/-- The energy registers are restored at the BOOT after power-on or RESET_N (11 R374). -/
def restoreEnergy (s : State) : State :=
  (List.range 4).foldl (fun s e =>
    updElem e (fun x => { x with regs := (List.range 8).map (fun r => (restoredReg s e r).1) }) s) s

/-- A copy's time in 2^-16 ns. -/
def copyTime (sec ns : Nat) : Int := DT80.toNs ⟨sec, ns⟩ * 2 ^ 16

/-- ENERGY_UNSAVED for every element with registers from the periodic copy (11 R374). -/
def reportUnsaved (s : State) : State :=
  match newestCopy s.cairn.periodic with
  | none => s
  | some p =>
    let b := (newestCopy s.cairn.ballast).filter (fun c => seqBefore p.seq c.seq)
    let stop : Int := match b with
      | some c => copyTime c.sec c.ns
      | none => match s.cairn.alive with
        | some (sec, ns, _, _) => copyTime (sec + 1) ns
        | none => copyTime p.sec p.ns
    (List.range 4).foldl (fun s e =>
      let mask := listSum ((List.range 8).map (fun r => if (restoredReg s e r).2 then 2 ^ r else 0))
      if mask == 0 || !(getElem' s e).defd then s
      else
        let power := match b with
          | some c => c.sPeak.getD e 0
          | none => elementSfs s (getElem' s e)
        energyUnsaved e mask power (msOf16 (stop - copyTime p.sec p.ns)) s) s

/-! ### Anchor virtual streams (11 R360 to R363) -/

/-- Anchor channels a virtual stream selects. -/
def vsChans (s : State) (p : VsP) : List Nat := bitList 12 p.phMask ++ (bitList 4 p.seqMask).flatMap (elemChans s)

/-- t_n of a report, 2^-16 ns (11 R360). -/
def vsTime (p : VsP) (r : VsReport) : Int := (r.secs : Int) * periodScale + (r.n * 1000000000 * 2 ^ 16 / p.rate : Nat)

/-- The latest write after t_n, s (Table 11-4): half the window, the delay of the class's response and 100 us. -/
def vsLimit (s : State) (p : VsP) : Rat :=
  halfWindow p.cls p.fnom p.rate + (vsChans s p).foldl (fun d k => max d (classDelay s p.cls k)) 0 + mkRat 100 (10 ^ 6)

/-- A channel is valid in the window of a report. -/
def vsValid (s : State) (p : VsP) (tn : Int) (k : Nat) : Bool := windowValid s p.cls p.fnom p.rate k tn

/-- Current channels of element `e`. -/
def elemAmps (s : State) (e : Nat) : List Nat := (List.range (getElem' s e).p.phases).map (fun p => (getElem' s e).p.chans.getD (2 * p + 1) 0)

/-- The frequency of a report lies from 40 to 70 Hz (11 R361). -/
def freqTracked (fnom : Nat) (f : Int) : Bool :=
  let hz : Rat := (fnom : Rat) + mkRat f 4000
  40 ≤ hz && hz ≤ 70

/-- A channel of the cell is valid as its inputs are; with REF's voltage valid, only while the estimator tracks (11 R361). -/
def vsOkChan (s : State) (p : VsP) (tn f : Int) (ch : Nat) : Bool :=
  let all := fun (l : List Nat) => l.all (vsValid s p tn)
  let el := fun (e : Nat) (l : List Nat) => bit p.seqMask e && (getElem' s e).defd && all l
  let ref := (getElem' s p.ref).defd && all (elemVolts s p.ref)
  (!ref || freqTracked p.fnom f) &&
  (if ch < 12 then bit p.phMask ch && vsValid s p tn ch
   else if ch < 16 then el (ch - 12) (elemVolts s (ch - 12))
   else if ch < 20 then el (ch - 16) (elemAmps s (ch - 16))
   else if ch < 32 then false
   else if ch < 34 then ref
   else if ch < 42 then el ((ch - 34) / 2) (elemChans s ((ch - 34) / 2))
   else false)

/-- The phasors of all anchor channels in a report, each within the TVE of a steady signal (11 R363). -/
def vsPhasors (s : State) (p : VsP) (tn : Int) (r : VsReport) : List (Int × Int) :=
  (List.range 12).map (fun k => heldPhasor s p.cls p.fnom p.rate k tn (mkRat r.n p.rate) (r.phasors.getD k (0, 0)))

/-- The positive sequence of one or three phasors, AV18 (11 R361). -/
def positiveSeq (l : List (Int × Int)) : Int × Int :=
  match l with
  | [v] => v
  | _ =>
    let z := (List.range l.length).foldl (fun (z : Rat × Rat) i =>
      let v := l.getD i (0, 0)
      let (x, y) := unitAt (mkRat i 3)
      (z.1 + ((v.1 * x - v.2 * y : Int) : Rat), z.2 + ((v.1 * y + v.2 * x : Int) : Rat))) (0, 0)
    let d : Rat := 2 ^ 60 * (l.length : Rat)
    (satCode 18 (z.1 / d), satCode 18 (z.2 / d))

/-- P and Q of an element from its phasors, AV18 of S_FS (Table 11-5). -/
def phasorPower (v i : List (Int × Int)) : Int × Int :=
  let z := (v.zip i).foldl (fun (z : Int × Int) e =>
    (z.1 + e.1.1 * e.2.1 + e.1.2 * e.2.2, z.2 + e.1.2 * e.2.1 - e.1.1 * e.2.2)) (0, 0)
  (satCode 18 (mkRat z.1 (131072 * v.length)), satCode 18 (mkRat z.2 (131072 * v.length)))

/-- The steady frequency of REF's voltage in a report: that of its first phase. -/
def vsSteady (s : State) (p : VsP) (tn : Int) : Option Rat :=
  (steadyOf s p.cls p.fnom p.rate ((elemVolts s p.ref).headD 0) tn).map (·.1)

/-- The frequency of a report, held within 11 R363. -/
def vsFreq (s : State) (p : VsP) (tn : Int) (r : VsReport) : Int := heldFreq p.fnom (vsSteady s p tn) r.freq

/-- Channel 42 (Table 11-5). -/
def vsDigital (s : State) (p : VsP) : Nat :=
  let any := fun (f : MChan → Bool) => b2n ((vsChans s p).any (fun k => f (getMChan s k)))
  any (·.modFault) + 2 * any (·.overrange) + 4 * any (·.tempStale) + 8 * b2n (p.cls == 2) +
  listSum ((List.range 4).map (fun e => fld (b2n (getElem' s e).noload) (4 + e) 1))

/-- STAT (11 R362). -/
def vsStat (s : State) (v : Vs) (tn : Int) : Nat :=
  let locked := s.tm.tq == .locked || s.tm.tq == .lockedFine
  let bad := (vsChans s v.p).any (fun k => !vsValid s v.p tn k)
  let age := holdAge s
  (if s.pm.mode == .commission then 0x8000 else if bad then 0x4000 else 0) + (if locked then 0 else 0x2000) +
  (if v.changed then 0x400 else 0) + fld (if locked then 0 else if age < 10 then 1 else if age < 100 then 2 else 3) 4 2

/-- The channels of a report (Table 11-5). -/
def vsValues (s : State) (p : VsP) (tn : Int) (r : VsReport) : List ChanVal :=
  let f := vsFreq s p tn r
  let ok := vsOkChan s p tn f
  let ph := vsPhasors s p tn r
  let pick := fun (l : List Nat) => l.map (fun k => ph.getD k (0, 0))
  (List.range 12).map (fun k => let v := ph.getD k (0, 0); ⟨k, ok k, v.1, v.2⟩) ++
  (List.range 4).map (fun e => let v := positiveSeq (pick (elemVolts s e)); ⟨12 + e, ok (12 + e), v.1, v.2⟩) ++
  (List.range 4).map (fun e => let v := positiveSeq (pick (elemAmps s e)); ⟨16 + e, ok (16 + e), v.1, v.2⟩) ++
  [⟨32, ok 32, f, 0⟩, ⟨33, ok 33, heldRocof (vsSteady s p tn).isSome r.rocof, 0⟩] ++
  (List.range 4).flatMap (fun e =>
    let w := phasorPower (pick (elemVolts s e)) (pick (elemAmps s e))
    [⟨34 + 2 * e, ok (34 + 2 * e), w.1, 0⟩, ⟨35 + 2 * e, ok (35 + 2 * e), w.2, 0⟩]) ++
  [⟨42, true, (vsDigital s p : Nat), 0⟩]

/-- The window of a valid channel holds an UNSETTLED sample (11 R362). -/
def vsUnsettled (s : State) (p : VsP) (tn : Int) : Bool :=
  (vsChans s p).any (fun k => vsValid s p tn k && windowUnsettled s p.cls p.fnom p.rate k tn)

/-- A report of a defined anchor virtual stream passes to SI as an accepted frame (11 R360, R362). -/
def vstreamTaken (r : VsReport) (v : Vs) (s : State) : State :=
  let tn := vsTime v.p r
  let st := vsStat s v tn
  let locked := s.tm.tq == .locked || s.tm.tq == .lockedFine
  let vals := (vsValues s v.p tn r).filter (·.valid)
  let f : HistFrame := ⟨tn, now s, 0, vals, st, pubTq s.tm.tq.code, bits st 14 2 != 0, locked, true, vsUnsettled s v.p tn⟩
  let v' := { v with latency := ((now s - tn) / (1000 * 2 ^ 16)).toNat % 2 ^ 32, reports := (v.reports + 1) % 2 ^ 32, changed := false,
                     last := some tn }
  acceptFrame (16376 + r.vs) f [] (count (amCtr 0x20) { s with am := { s.am with vss := tset s.am.vss r.vs v' } })

/-- A report is due: n is below RATE, t_n is past, after the last report's and not longer ago than Table 11-4 allows. -/
def vsDue (r : VsReport) (v : Vs) (s : State) : Bool :=
  let tn := vsTime v.p r
  r.n < v.p.rate && tn ≤ now s && secs16 (now s - tn) ≤ vsLimit s v.p && (match v.last with | some t => decide (t < tn) | none => true)

/-- VSTREAM_REPORT (11 R360, R362): a report passes to SI as an accepted frame. -/
def execVstreamReport (r : VsReport) (s : State) : Host.Outcome State Fault Refusal :=
  .next (match tfind s.am.vss r.vs with
    | none => s
    | some v => if 8 ≤ r.vs || !sdClkRuns s || !intakeRuns s || !vsDue r v s then s else vstreamTaken r v s)

end Sys2Proof.Machine
end

