-- ==== Sys2Proof/Machine/LogEv.lean ====
section
/-! DEFINITION. Memory integrity EC and event log EV (chapter 13): scrubbing, repairs, flushes, the cut at PFW_N, the Spool,
operating seconds, and the causes of an internal reset (14 R448). -/

namespace Sys2Proof.Machine

/-! ### Memory integrity (13 R413 to R423) -/

/-- FRC counts of a number of ms: one ms is 390,625 counts. -/
def msCounts (ms : Nat) : Nat := ms * 390625

/-- The domain of macro `m` is on (Table 13-1). -/
def macroOn (s : State) (m : Nat) : Bool :=
  if m < 1088 then s.pm.domErg
  else if m < 1352 then (getEngine s ((m - 1088) / 4)).on
  else if m < 1548 then s.pm.domPorts
  else m < 1648

/-- The marked row of a macro is copied to the field-repair row and the repair map entry written (13 R422). -/
def repairRow (m : Nat) (s : State) : State :=
  let x := getMacro s m
  if 1024 ≤ s.cairn.repairs.length then
    repairExhausted m (x.pendingRow * 128) 0xFF (updMacro m (fun x => { x with markPending := false }) s)
  else
    let s := (List.range 128).foldl (fun s i =>
      let w := x.pendingRow * 128 + i
      if (flipsOf s m w).length == 1 then setFlips m w [] s else s) s
    let s := updMacro m (fun x => { x with fieldUsed := true, fieldRow := x.pendingRow, markPending := false }) s
    let s := { s with cairn := { s.cairn with repairs := s.cairn.repairs ++ [(m, x.pendingRow)] } }
    ecNote 2 1 m (x.pendingRow * 128) 0xFF (count 0x10E020 s)

/-- An internal reset begins: its record, severity 3, and the flush; it takes hold when they have ended (14 R448). -/
def startInternal (cause arg : Nat) (s : State) : State :=
  if s.pm.pendInternal.isSome then s
  else flushTrigger (report 15 0x40 3 (fld cause 48 8 + arg) none { s with pm := { s.pm with pendInternal := some cause } })

/-- An uncorrectable read in a D_CORE control memory (14 R448). -/
def controlDue (m w : Nat) (s : State) : State := startInternal 2 (fld m 32 11 + fld w 0 13) (uncorrectable m w s)

/-- The latest read of word `w` that has come up, as pass x 8,192 + word: in the present pass, or late in the one before it;
none before its time in pass 0 (13 R418). -/
def scrubRead (s : State) (w : Nat) : Option Nat :=
  let pass := msCounts s.ec.scrubMs
  let t := s.tm.frc - s.ec.bootEnd
  let p := t / pass
  if w * pass ≤ t % pass * 8192 then some (p * 8192 + w) else if p == 0 then none else some ((p - 1) * 8192 + w)

/-- A read that ends a pass more than 1 % late counts in EC_SCRUB_LATE, once for the pass (13 R418). -/
def scrubLate (read : Nat) (s : State) : State :=
  let pass := msCounts s.ec.scrubMs
  let p := read / 8192
  if read % 8192 == 8191 && s.ec.latePass ≤ p && (p + 1) * pass * 100 + pass < (s.tm.frc - s.ec.bootEnd) * 100 then
    count 0x10E038 { s with ec := { s.ec with latePass := p + 1 } }
  else s

/-- EC and EV run: not in BOOT or FROZEN (13 R437). -/
def ecRuns (s : State) : Bool := s.pm.mode != .boot && s.pm.mode != .frozen

/-- A control memory of R448: a D_CORE macro's word that is none of the notice queues, the EV buffer and the AQ staging buffer. -/
def controlWord (m w : Nat) : Bool := 1548 ≤ m && !([1, 2, 3].contains (Config.coreMemory m w))

/-- What a read of a word finds: nothing, one flipped bit, or an uncorrectable word (13 R413). -/
def readWord (m w : Nat) (s : State) : State :=
  match flipsOf s m w with
  | [] => s
  | [b] => correctWord m w b s
  | _ => if controlWord m w then controlDue m w s else uncorrectable m w s

/-- SCRUB_READ (13 R418, R422): the word is read once a pass, in ascending order, when it has come up; at the first word of a
marked row the row is repaired. -/
def execScrubRead (mac word : Nat) (s : State) : Host.Outcome State Fault Refusal :=
  .next (
    if 1648 ≤ mac || 8192 ≤ word || !ecRuns s || !macroOn s mac then s
    else match scrubRead s word with
      | none => s
      | some r =>
        let x := getMacro s mac
        if r < x.scrubbed then s
        else
          let s := scrubLate r (updMacro mac (fun x => { x with scrubbed := r + 1 }) s)
          readWord mac word (if x.markPending && word == x.pendingRow * 128 then repairRow mac s else s))

/-- CORRECTION_WRITEBACK (13 R419): a functional read has corrected the word; the bit of an upset the model does not list is
a free value. -/
def execCorrectionWriteback (mac word : Nat) (s : State) : Host.Outcome State Fault Refusal :=
  .next (
    if 1648 ≤ mac || 8192 ≤ word || !ecRuns s || !macroOn s mac then s
    else match flipsOf s mac word with
      | [] => correctWord mac word (freeBits 8 s % 80) (bumpFree s)
      | [b] => correctWord mac word b s
      | _ => s)

/-- SUSPECT_EXPIRY (13 R420): an entry leaves after 4 passes. -/
def execSuspectExpiry (mac word : Nat) (s : State) : Host.Outcome State Fault Refusal :=
  .next (if ecRuns s then
      { s with ec := { s.ec with suspects := s.ec.suspects.filter (fun x =>
          !(x.mac == mac && x.word == word && x.since + 4 * msCounts s.ec.scrubMs ≤ s.tm.frc)) } }
    else s)

/-- CONTROL_DUE (14 R448). -/
def execControlDue (mac word : Nat) (s : State) : Host.Outcome State Fault Refusal :=
  .next (if 1548 ≤ mac && mac < 1648 && word < 8192 && ecRuns s then controlDue mac word s else s)

/-- WATCHDOG_EXPIRY (14 R448): sequencers 1 HI ring engines, 2 Caravan arbiter, 3 a group controller, 4 release
controller. -/
def execWatchdogExpiry (sequencer gid : Nat) (s : State) : Host.Outcome State Fault Refusal :=
  .next (if 1 ≤ sequencer && sequencer ≤ 4 && ecRuns s then
      startInternal 1 ((if sequencer == 3 then fld gid 8 8 else 0) + sequencer) s
    else s)

/-! ### The Cairn log and the Spool (13 R433 to R435) -/

/-- EV_OLDEST and EV_NEWEST (Table 13-7). -/
def evOldest (s : State) : Nat := (s.cairn.log.head?.map (·.seq)).getD s.cairn.nextSeq
def evNewest (s : State) : Nat := (s.cairn.nextSeq + (2 ^ 32 - 1)) % 2 ^ 32

/-- A CUR held between the oldest record and the newest + 1 (13 R435). -/
def clampCur (s : State) (cur : Nat) : Nat :=
  if seqBefore cur (evOldest s) then evOldest s else if seqAfter cur s.cairn.nextSeq then s.cairn.nextSeq else cur % 2 ^ 32

/-- Records of the log from SEQ `cur` on. -/
def logFrom (s : State) (cur : Nat) : List LogRec := s.cairn.log.drop ((cur + (2 ^ 32 - evOldest s % 2 ^ 32)) % 2 ^ 32)

/-- Records of the log are read: the list with the unreadable ones left out, each with its place in it, and whether all were
read (13 R425). -/
def readRecords (l : List LogRec) (s : State) : Tbl LogRec × Bool × State :=
  ((List.range l.length).zip l).foldl (fun (t, ok, s) e =>
    let (good, s) := cairnRead e.2.flips s
    (if good then t ++ [e] else t, ok && good, s)) ([], true, s)

/-- CUR is written: the slots clear and load in ascending order; a record that cannot be read leaves its slot empty (13 R435;
DESIGN CHOICE, log 78). -/
def seekSpool (cur : Nat) (s : State) : State :=
  let c := clampCur s cur
  let (t, _, s) := readRecords (if s.cairn.log.isEmpty then [] else (logFrom s c).take 16) s
  { s with ev := { s.ev with cur := c, spool := t } }

/-- A record written to Cairn fills its Spool slot (13 R435). -/
def fillSlot (r : LogRec) (s : State) : State :=
  let i := (r.seq + (2 ^ 32 - s.ev.cur % 2 ^ 32)) % 2 ^ 32
  if i < 16 && (tfind s.ev.spool i).isNone then { s with ev := { s.ev with spool := tset s.ev.spool i r } } else s

/-- One 32-byte line is written to the log with the next SEQ (13 R433). -/
def writeLine (r : EvRec) (isExt : Bool) (s : State) : State :=
  let x : LogRec := ⟨s.cairn.nextSeq, r, isExt, []⟩
  let l := s.cairn.log ++ [x]
  let l := l.drop (l.length - 8192)
  fillSlot x (count 0x10E800 { s with cairn := { s.cairn with log := l, nextSeq := (s.cairn.nextSeq + 1) % 2 ^ 32 } })

/-- A record is written to the log, its extension after it (13 R429, R433). -/
def writeLog (r : EvRec) (s : State) : State :=
  let s := writeLine r false s
  if r.ext.isSome then writeLine r true s else s

/-- The lost-record episode ends when the buffer holds 2,048 records or fewer (13 R432). -/
def endLost (s : State) : State :=
  if s.ev.lostOpen && bufferedLines s.ev ≤ 2048 then
    note s.ev.nq 14 0x01 1 s.ev.lostMask { s with ev := { s.ev with lostOpen := false, lostMask := 0 } }
  else s

/-- FLUSH_VEC fires (13 R438). -/
def fireFlushVec (s : State) : State := if s.ev.flushVec == 0 then s else fireVector s.ev.flushVec s

/-- EV_FLUSH_END (13 R433): the flush has written what the buffer held at its start. -/
def execEvFlushEnd (s : State) : Host.Outcome State Fault Refusal :=
  .next (
    if !s.ev.flushing || s.pm.pfwActions || s.pm.mode == .frozen then s
    else
      let mine := s.ev.buffer.filter (·.inFlush)
      let s := { s with ev := { s.ev with flushing := false, buffer := s.ev.buffer.filter (fun b => !b.inFlush) } }
      let s := fireFlushVec (endLost (mine.foldl (fun s b => writeLog b.entry s) s))
      if s.ev.flushAgain then startFlush { s with ev := { s.ev with flushAgain := false } } else s)

/-- FLUSH_MS_EXPIRY (13 R433). -/
def execFlushMsExpiry (s : State) : Host.Outcome State Fault Refusal :=
  .next (if s.pm.mode != .frozen && s.ev.lastFlush + msCounts s.ev.flushMs ≤ s.tm.frc then flushTrigger s else s)

/-- RECORD_CLOSE (13 R431): COALESCE_US after its first report an open record closes. -/
def execRecordClose (source code severity : Nat) (s : State) : Host.Outcome State Fault Refusal :=
  .next (
    let mine := fun o : OpenRec => o.entry.source == source && o.entry.code == code && o.entry.severity == severity
    match s.ev.opens.find? mine with
    | some o =>
      if s.pm.mode != .frozen && o.opened + countsOfUs s.ev.coalesceUs ≤ s.tm.frc then
        closeRecord o.entry { s with ev := { s.ev with opens := s.ev.opens.filter (fun x => !mine x) } }
      else s
    | none => s)

/-- OPSEC_TICK (13 R430). -/
def execOpsecTick (s : State) : Host.Outcome State Fault Refusal :=
  .next (if s.pm.mode != .frozen && s.cairn.opsecAt + 390625000 ≤ s.tm.frc then
      { s with cairn := { s.cairn with opsec := min (2 ^ 32 - 1) (s.cairn.opsec + 1), opsecAt := s.cairn.opsecAt + 390625000 } }
    else s)

/-! ### The cut at PFW_N (13 R434) -/

/-- Records in order of descending severity, oldest first within one. -/
def bySeverity (l : List EvRec) : List EvRec := [3, 2, 1, 0].flatMap (fun v => l.filter (fun r => r.severity == v))

/-- The records that fit in `room` lines, in order, and those that do not. -/
def takeLines : Nat → List EvRec → List EvRec × List EvRec
  | _, [] => ([], [])
  | room, r :: rest =>
    if r.lines ≤ room then
      let (a, b) := takeLines (room - r.lines) rest
      (r :: a, b)
    else ([], r :: rest)

/-- Lines that fit from the end of a Ballast write of `dur` tenths of a µs to 90 µs after the fall, at 80 ns each. -/
def cutRoom (dur : Nat) : Nat := (890 - dur) * 100 / 80

/-- The LOG_CUT record with the counts of records lost (Table 13-6), added to EV_LOST_0 to EV_LOST_3. -/
def writeCut (lost : List EvRec) (s : State) : State :=
  let n := fun v => (lost.filter (fun r => r.severity == v)).length
  let arg := listSum ((List.range 4).map (fun v => fld (min (n v) 0x3FFF) (14 * v) 14))
  let s := (List.range 4).foldl (fun s v => if n v == 0 then s else countN (0x10E810 + 8 * v) (n v) s) s
  let s := { s with cairn := { s.cairn with cutNow := true, cutSeq := s.cairn.nextSeq } }
  writeLog (mkRec 14 0x40 2 arg none s) (count 0x10E838 s)

/-- EV writes the records that fit before it releases Cairn (13 R434). -/
def logCut (dur : Nat) (s : State) : State :=
  let s := closeAll { s with ev := { s.ev with lastFlush := s.tm.frc } }
  let l := s.ev.buffer.map (·.entry)
  let s := endLost { s with ev := { s.ev with flushing := false, flushAgain := false, buffer := [] } }
  let room := cutRoom dur
  if l.isEmpty then s
  else
    let s := count 0x10E830 s
    if listSum (l.map EvRec.lines) ≤ room then fireFlushVec ((bySeverity l).foldl (fun s r => writeLog r s) s)
    else
      let (keep, lost) := takeLines (room - 1) (bySeverity l)
      fireFlushVec (keep.foldl (fun s r => writeLog r s) (writeCut lost s))

end Sys2Proof.Machine
end

