-- ==== Sys2Proof/Machine/Reset.lean ====
section
/-! DEFINITION. The resets of the device (14 R447 to R449, Table 14-4), ZEROIZE (12 R390), and the actions of PFW_N and
RESET_N that come before a reset (11 R372, 13 R434). -/

namespace Sys2Proof.Machine

/-- The sources of Table 14-4. -/
inductive ResetSource where
  | powerOn | resetN | sysReset | internal | zeroize | lifecycle
deriving DecidableEq, Repr

/-- A cold reset (Table 14-4). -/
def ResetSource.cold : ResetSource → Bool
  | .powerOn => true | .resetN => true | _ => false

/-- The bit of PM_RESET (Table 14-10). -/
def ResetSource.bit : ResetSource → Nat
  | .powerOn => 0x80 | .resetN => 0x40 | .sysReset => 0x20 | .internal => 0x10 | .zeroize => 0x08 | .lifecycle => 0x04

/-- What D_VAULT keeps through every reset (12 R389, R390, R404). -/
def keepVault (o : Ov) : Ov :=
  { Ov.reset with root := o.root, rootRegen := o.rootRegen, dbgArm := o.dbgArm, tamper := o.tamper, causes := o.causes,
                  zeroCount := o.zeroCount, tamperNew := o.tamperNew, tamperCfg := o.tamperCfg }

/-- What TM keeps through a warm reset: FRC, OFFSET, RATE and the Tether frequency estimate (14 R449); the fallback clock
is loaded from the main path, and the timers that count FRC counts go on. -/
def keepTime (s : State) : Tm :=
  let t := s.tm
  { Tm.reset with
    frc := t.frc, offset := t.offset, rate := t.rate, inc := t.inc, fallback := mainTime s / 2 ^ 8,
    tether := { Tether.reset with integ := t.tether.integ, y := t.tether.y, savedAt := t.frc },
    tickAt := t.frc / 400 * 400, checkAt := t.frc / 409600 * 409600 }

/-- PM after a warm reset: PM_CFG, the counts of D_AON and the pad holds stay (14 R449). -/
def keepPm (src : ResetSource) (p : Pm) : Pm :=
  { Pm.reset with
    nq := p.nq, mi2cWake := p.mi2cWake, delayMax := p.delayMax, holdPorts := p.holdPorts, holdAnchor := p.holdAnchor, heldPads := p.heldPads,
    hsBlock := p.hsBlock, hsReason := p.hsReason, wakeCause := p.wakeCause, warmResets := (p.warmResets + 1) % 2 ^ 16,
    internalCause := if src == .internal then p.pendInternal.getD 0 else 0, source := src.bit,
    ignoreFreezeN := p.ignoreFreezeN }

/-- The PM and CK counters of D_AON. -/
def aonCounters (t : Tbl Nat) : Tbl Nat := t.filter (fun e => 0x10F000 ≤ e.1 && e.1 < 0x110000)

/-- A warm reset takes hold (14 R449): every D_CORE state but what the rules keep is wiped. -/
def warmReset (src : ResetSource) (s : State) : State :=
  let t := State.reset
  count 0x10F020
    { t with tm := keepTime s, pm := keepPm src s.pm, ck := { s.ck with switches := 0, missA := 0, missB := 0, switching := false },
             jtag := s.jtag, pins := s.pins, ov := keepVault s.ov, fuses := s.fuses, cairn := s.cairn,
             ev := { t.ev with lastFlush := s.tm.frc }, am := { t.am with savedAt := s.tm.frc, aliveAt := s.tm.frc },
             counters := aonCounters s.counters, nor := s.nor, out := s.out, freeCtr := s.freeCtr, pending := s.pending }

/-- A cold reset takes hold (14 R447, R449): the FRC starts again from 0 and every pad hold is released. -/
def coldReset (src : ResetSource) (s : State) : State :=
  let t := State.reset
  { t with pm := { t.pm with source := src.bit, warmResets := if src == .powerOn then 0 else s.pm.warmResets,
                             ignoreFreezeN := false },
           jtag := if src == .powerOn then t.jtag else s.jtag, pins := { s.pins with pfwFall := 0 }, ov := keepVault s.ov,
           fuses := s.fuses, cairn := { s.cairn with opsecAt := 0 }, nor := s.nor, out := s.out, freeCtr := s.freeCtr, pending := s.pending }

/-- A reset takes hold. -/
def resetDevice (src : ResetSource) (s : State) : State := if src.cold then coldReset src s else warmReset src s

/-- A span of `us` has passed since FRC count `t`; while the FRC is held the span is not measured. -/
def elapsed (t us : Nat) (s : State) : Bool :=
  s.pm.mode == .frozen || (s.pm.mode == .boot && 0x40 ≤ s.pm.source) || t + countsOfUs us ≤ s.tm.frc

/-! ### ZEROIZE (12 R390) -/

/-- A cause that OV_TAMPER_CFG enables; VVAULT and BATTERY cannot be disabled (Table 12-2). -/
def causeEnabled (s : State) (cause : Nat) : Bool := cause < 7 && (cause == 3 || cause == 6 || bit s.ov.tamperCfg cause)

/-- ZEROIZE erases root, key slots, KREG, DRBG state and SAKs, and the latch records its cause. -/
def zeroize (cause : Nat) (s : State) : State :=
  let kill := fun (t : Tbl Sa) => t.map (fun e => (e.1, { e.2 with disabled := true }))
  { s with
    ov := { s.ov with slots := [], kreg := none, root := none, mirage := none, entropyOk := false, tamper := true,
                      causes := s.ov.causes ||| 2 ^ cause, zeroCount := min (s.ov.zeroCount + 1) 65535, tamperNew := true },
    np := { s.np with ports := s.np.ports.map (fun e => (e.1, { e.2 with txSa := kill e.2.txSa, rxSa := kill e.2.rxSa })) } }

/-- The reference that the active root PLL locks to is declared failed (14 R462, R465). -/
def activeRefFailed (s : State) : Bool :=
  !(if (if s.ck.singleRef then s.ck.singleB else s.ck.activeB) then s.ck.refBOk else s.ck.refAOk)

/-- The condition of a cause as far as State shows it (Table 12-2): VGLITCH asks RESET_N and PFW_N high, FREQ a failed active
reference that no qualified standby has replaced. -/
def causeMet (s : State) (cause : Nat) : Bool :=
  if cause == 2 then s.pins.resetN && s.pins.pfwN else if cause == 5 then activeRefFailed s else true

/-- A Ballast write is running. -/
def ballastRuns (s : State) : Bool := s.pm.pfwActions && !s.pm.evHasCairn

/-- ZEROIZE_CAUSE (12 R390): causes 0 to 5; BATTERY is found at BOOT. The reset of Table 1-9 follows, after a Ballast write
that is running. -/
def execZeroizeCause (cause : Nat) (s : State) : Host.Outcome State Fault Refusal :=
  .next (
    if 6 ≤ cause || !causeEnabled s cause || !causeMet s cause then s
    else
      let s := zeroize cause s
      if ballastRuns s then { s with pm := { s.pm with pendZeroize := true } } else resetDevice .zeroize s)

/-! ### Warm resets that wait for their save and flush (02 R72, 14 R448) -/

/-- The flush that a reset waits for has ended (13 R433). -/
def flushed (s : State) : Bool := !s.ev.flushing && !s.ev.flushAgain && s.pm.mode != .frozen && !s.pm.pfwActions

/-- WARM_RESET_TAKES_HOLD (02 R72, 11 R372): the periodic save of every register, then the reset, no earlier than 1 µs after
the completion of SYS.RESET. -/
def execWarmResetTakesHold (s : State) : Host.Outcome State Fault Refusal :=
  .next (match s.pm.pendWarm with
    | some t => if flushed s && elapsed t 1 s then resetDevice .sysReset (periodicSave s) else s
    | none => s)

/-- INTERNAL_RESET (14 R448): it takes hold when its save and flush have ended. -/
def execInternalReset (s : State) : Host.Outcome State Fault Refusal :=
  .next (match s.pm.pendInternal with
    | some _ => if flushed s then resetDevice .internal (periodicSave s) else s
    | none => s)

/-- LIFECYCLE_WIPE (12 R402, R403): at least 1 µs after the completion; the energy region and OWNER_CTR are cleared. -/
def execLifecycleWipe (s : State) : Host.Outcome State Fault Refusal :=
  .next (match s.pm.pendWipe with
    | some t =>
      if s.pm.mode != .frozen && elapsed t 1 s then
        resetDevice .lifecycle { s with cairn := { s.cairn with periodic := [], ballast := [], alive := none, ownerCtr := 0 } }
      else s
    | none => s)

/-- POWER_ON_DETECT (15 R481): below its thresholds the detector acts as RESET_N, at once and without a Ballast write (15
R483); its release leaves the device to BOOT. -/
def execPowerOnDetect (railsOk : Bool) (s : State) : Host.Outcome State Fault Refusal :=
  .next (
    if railsOk then { s with pins := { s.pins with railsOk := true } }
    else
      let s := resetDevice .powerOn s
      { s with pins := { s.pins with railsOk := false } })

/-! ### The actions of PFW_N and RESET_N (11 R372, R373, 13 R434, 14 R447, R470) -/

/-- A METER.SAVE under way is abandoned by PFW_N (11 R377). -/
def abandonSave (s : State) : State :=
  (s.hi.ops.filter (fun o => o.opcode == 0x2C21 && o.phase != .waking)).foldl (fun s o =>
    finalCompletion o 0x60 [] (count (amCtr 0x08) s)) s

/-- The actions begin (11 R372): accumulation stops, the Ballast copy is being written, integ is saved (04 R144). In BOOT
no register has been restored yet, so no copy is written. -/
def startPfw (dur : Nat) (s : State) : State :=
  if s.pm.pfwActions then s
  else
    let s := haltSleep 9 (abandonSave s)
    let s := if s.pm.mode == .boot || !s.pm.domAnchor then s else ballastWrite dur (stopEnergy 1 s)
    let s := if s.pm.mode == .boot then s else saveInteg s
    { s with am := { s.am with halted := true, pfwDur := dur }, pm := { s.pm with pfwActions := true, evHasCairn := false } }

/-- BALLAST_WRITE_END (13 R434): EV takes Cairn and writes the records that fit; a ZEROIZE that waited for the write resets
now. -/
def execBallastWriteEnd (s : State) : Host.Outcome State Fault Refusal :=
  .next (
    if !ballastRuns s || !elapsed s.pins.pfwFall (1 + ceilDiv s.am.pfwDur 10) s then s
    else if s.pm.pendZeroize then resetDevice .zeroize s
    else
      let s := logCut s.am.pfwDur s
      { s with pm := { s.pm with evHasCairn := true } })

/-- RESET_TAKES_HOLD (14 R447): 90 µs after the fall of RESET_N. -/
def execResetTakesHold (s : State) : Host.Outcome State Fault Refusal :=
  .next (if s.pm.resetQual && elapsed s.pins.pfwFall 90 s then resetDevice .resetN s else s)

end Sys2Proof.Machine
end

