-- ==== Sys2Proof/Machine/Power.lean ====
section
/-! DEFINITION. Power (chapter 14): the sleep handshake, DOZE and the wake, the pins PFW_N and RESET_N, the root PLLs and
their references. -/

namespace Sys2Proof.Machine

/-! ### The sleep handshake (14 R452 to R456) -/

/-- SOURCE code of the block of order `n` in Table 14-7 (Table 2-12). -/
def hsSource (n : Nat) : Nat := [0, 10, 9, 5, 4, 3, 1, 11, 0].getD n 0

/-- Handles but that of the POWER.DOZE are outstanding. -/
def otherHandles (s : State) (handle : Nat) : Bool := s.hi.ops.any (fun o => o.handle != handle)

/-- A port has a gate list pending; a port sends under MACsec. -/
def gatePending (s : State) : Bool := (List.range 4).any (fun p => gateWaits (getPort s p))
def macsecOn (s : State) : Bool := (List.range 4).any (fun p => (getPort s p).macsecEn)

/-- The first reason for which the block must refuse (Tables 14-7, 14-8), 0 for none. -/
def mustRefuse (s : State) (order handle : Nat) : Nat :=
  match order with
  | 2 => if s.al.rules.any (fun e => e.2.active && driving s e.2.p && e.2.p.severity == 3) then 0x03 else 0
  | 3 => if s.hi.ops.any (fun o => o.opcode == 0x1810 || o.opcode == 0x1811) then 0x06 else 0
  | 6 => if gatePending s then 0x04 else 0
  | 8 => if s.hi.ops.any (fun o => o.opcode == 0x0400 || o.opcode == 0x0405) then 0x01
      else if otherHandles s handle then 0x02 else 0
  | _ => 0

/-- The block must answer DELAY: AQ while staging data remains, NP while a frame is queued (Table 14-7). -/
def mustDelay (s : State) (order : Nat) : Bool :=
  match order with
  | 1 => stagedBytes s != 0 || s.erg.groups.any (fun e => e.2.instants.any (fun i => !i.aqHolds.isEmpty))
  | 6 => (List.range 5).any (fun p => (getPort s p).queues.any (fun e => !e.2.isEmpty))
  | _ => false

/-- A block may give this answer. Table 14-7 names SA_PENDING and no rule its condition: NP may give it while a port has
MACsec on. -/
def answerFits (s : State) (order handle : Nat) (a : HsAnswer) : Bool :=
  match a with
  | .agree => mustRefuse s order handle == 0 && !mustDelay s order
  | .delay _ => mustRefuse s order handle == 0 && order < 7
  | .refuse r =>
    (r != 0 && r == mustRefuse s order handle) ||
    (order == 6 && r == 0x05 && mustRefuse s order handle == 0 && macsecOn s)

/-- PULSE lines fall with the rules of DOZE (10 R342). -/
def dropPulses (s : State) : State :=
  { s with al := { s.al with lines := s.al.lines.map (fun e => (e.1, { e.2 with pulseEnd := none })) } }

/-- The stop action of a block (Table 14-7). -/
def stopBlock (order : Nat) (s : State) : State :=
  match order with
  | 2 => driveLines (dropPulses (clearAllRules s))
  | 3 => discardInsts s
  | 4 => discardAll s
  | _ => s

/-! ### DOZE (14 R455) -/

/-- What NP loses with D_PORTS (03 R119). -/
def portsOff (s : State) : State :=
  let s := ptpPortsOff (dropLinks s)
  let quiet := fun (t : Tbl PtRing) => t.map (fun e => (e.1, { e.2 with waiting := [] }))
  let fresh := fun (x : Prp) => { x with entries := [], heardA := false, heardB := false, lostA := false, lostB := false }
  { s with np := { s.np with free := 32768, ptPages := 0, m0Used := 0, rxRings := quiet s.np.rxRings,
                             prp := s.np.prp.map (fun e => (e.1, fresh e.2)) },
           si := { s.si with pipes := [] } }

/-- What TS, Sirocco and Caravan lose with Playa and the engines (07 R256, 08 R288, 09 R316). -/
def playaOff (s : State) : State :=
  let dark := fun (e : Engine) => { e with st := if e.st == .retired then .retired else .off, on := false, lmem := [] }
  { s with
    cv := { s.cv with items := [], jobs := s.cv.jobs.map (fun e => (e.1, { e.2 with resident := [] })),
                      engines := (List.range 66).map (fun n => (n, dark (getEngine s n))) },
    ts := { s.ts with valid := false, refac := none, refacNext := none, results := [], solution := [], older := [],
                      prevAnchors := none },
    sc := { s.sc with sigs := s.sc.sigs.map (fun e => (e.1, Sig.fresh e.2.p e.2.since)), nextM := none,
                      groups := s.sc.groups.map (fun e => (e.1, { e.2 with tracks := [], recs := [], seq := 0, snap := none,
                                                                           again := false })) } }

/-- An element is enabled. -/
def elementsOn (s : State) : Bool := s.am.els.any (fun e => e.2.en)

/-- SD_CLK as AM drives it: 50 counts high, 50 low, while it runs (11 R351, 15 R487). -/
def sdClkLevel (s : State) : Bool := sdClkRuns s && s.tm.frc % 100 < 50

/-- The levels of the D_ANCHOR pads as AM drives them (14 R457). -/
def anchorLevels (s : State) : Nat :=
  listSum ((List.range 4).map (fun n => fld (b2n (pulseLevel s n)) n 1)) + fld (b2n (sdClkLevel s)) 4 1

/-- The domains go off, pads are held, DOZE shows and the handshake ends DONE (14 R455). -/
def enterDoze (handle : Nat) (s : State) : State :=
  let s := portsOff (playaOff s)
  let anchor := elementsOn s
  let levels := if anchor || s.pm.holdAnchor then s.pm.heldPads else anchorLevels s
  let s := { s with pm := { s.pm with
    hs := none, heldPads := levels, domErg := false, domPorts := false, domAnchor := s.pm.domAnchor && anchor, holdPorts := true,
    holdAnchor := s.pm.holdAnchor || !anchor, returnMode := s.pm.mode } }
  let s := match findOp s handle with
    | some o => finalCompletion o 0 [] s
    | none => s
  count 0x10F000 (note s.pm.nq 15 0x02 0 0 (setMode .doze s))

/-! ### Answers -/

/-- PM asks the next block, or DOZE is entered after the last (14 R452, R455). -/
def nextBlock (hs : Handshake) (s : State) : State :=
  if hs.order == 8 then enterDoze hs.handle s
  else
    { s with pm := { s.pm with hs := some { hs with order := hs.order + 1, delaySum := 0, delaying := false },
                               hsBlock := hsSource (hs.order + 1) } }

/-- The block asked answers (14 R452 to R454). -/
def takeAnswer (hs : Handshake) (a : HsAnswer) (s : State) : State :=
  match a with
  | .agree => nextBlock hs (stopBlock hs.order s)
  | .refuse r => sleepRefused (hsSource hs.order) r s
  | .delay us =>
    let sum := hs.delaySum + us
    if s.pm.delayMax < sum then sleepRefused (hsSource hs.order) 0x07 s
    else { s with pm := { s.pm with hs := some { hs with delaying := true, delaySum := sum,
                                                         delayEnd := s.tm.frc + countsOfUs us } } }

/-- PM has asked the first block. -/
def Handshake.asked (hs : Handshake) : Handshake := { hs with order := max 1 hs.order }

/-- The handshake goes on: it runs, and no freeze or PFW_N has abandoned it. -/
def hsRuns (s : State) : Bool := s.pm.hsLate == 0 && s.pm.mode != .frozen && s.pm.mode != .boot

/-- HANDSHAKE_ANSWER (14 R452, R453, R454). -/
def execHandshakeAnswer (a : HsAnswer) (s : State) : Host.Outcome State Fault Refusal :=
  .next (match s.pm.hs with
    | none => s
    | some h =>
      let hs := h.asked
      if !hsRuns s || hs.delaying || !answerFits s hs.order hs.handle a then s
      else takeAnswer hs a { s with pm := { s.pm with hs := some hs, hsBlock := hsSource hs.order } })

/-- HANDSHAKE_DELAY_END (14 R453): PM asks the block again. -/
def execHandshakeDelayEnd (s : State) : Host.Outcome State Fault Refusal :=
  .next (match s.pm.hs with
    | none => s
    | some hs =>
      if hsRuns s && hs.delaying && hs.delayEnd ≤ s.tm.frc then
        { s with pm := { s.pm with hs := some { hs with delaying := false } } }
      else s)

/-- A match of the MI2C address abandons a handshake, and wakes from DOZE when MI2C_WAKE_EN is set (02 R66, 14 R456,
R459). -/
def mi2cMatch (s : State) : State :=
  if s.pm.hs.isSome && hsRuns s then sleepRefused 15 0x0A s else if s.pm.mi2cWake then requestWake 1 s else s

/-- MI2C_ADDRESS_MATCH. -/
def execMi2cAddressMatch (s : State) : Host.Outcome State Fault Refusal := .next (mi2cMatch s)

/-! ### The wake (14 R459, R460) -/

/-- The engines repeat the self-test of BOOT; those that were retired stay off (07 R256, 14 R460). -/
def wakeEngines (passed : List Nat) (s : State) : State :=
  let retired := enginesIn s .retired
  let tested := (List.range 66).filter (fun n => !retired.contains n)
  let failed := tested.filter (fun n => !passed.contains n)
  let s := countN (msCtr 0x28) (tested.length - failed.length) (countN (msCtr 0x30) failed.length s)
  let s := assignEngines (tested.filter passed.contains) s
  failed.foldl (fun s n => note s.cv.nq 6 0x03 3 n s) s

/-- TS asks for a refactorization, by its present statuses and uses (08 R288); no rule gives its cause code: a free
value. -/
def wakeRefac (s : State) : State :=
  if s.ts.model.isNone then s
  else bumpFree (requestRefac (freeBits 4 s) s.ts.facClosed s.ts.facUses [] s)

/-- Domains, engines, ports and units come back, and the mode with them (14 R460). -/
def wakeUp (passed : List Nat) (s : State) : State :=
  let anchor := s.pm.domAnchor
  let s := { s with pm := { s.pm with domErg := true, domPorts := true, domAnchor := true } }
  let s := if anchor then s else restartChannels s
  let s := wakeEngines passed (wipeMacros (fun m => m < 1548) s)
  let back := s.pm.returnMode
  let s := clearHistories ((tkeys s.si.streams).foldl (fun s n => streamTimers n s) s)
  let s := ergResume (wakeRefac s)
  let s := { s with pm := { s.pm with waking := false } }
  let s := capacityFell (setMode (if back.isService then serviceMode s else back) s)
  let s := dozeGap (realignGates s)
  count 0x10F010 (note s.pm.nq 15 0x03 0 s.pm.wakeCause s)

/-! ### PFW_N and RESET_N (11 R372, R373, 13 R434, 14 R447, R456, R470) -/

/-- A fall of PFW_N or RESET_N in FROZEN ends the freeze; FREEZE_N is then ignored until PFW_N has returned high
(14 R470). -/
def endFreeze (s : State) : State :=
  if s.pm.mode != .frozen then s
  else
    let s := ptpPortsOff (thaw true s)
    { s with pm := { s.pm with ignoreFreezeN := true } }

/-- PFW_N_FALL (02 R40, 14 R470): the pin is low; a thaw follows in FROZEN. -/
def execPfwNFall (s : State) : Host.Outcome State Fault Refusal :=
  .next (if s.pins.pfwN then endFreeze { s with pins := { s.pins with pfwN := false, pfwFall := s.tm.frc } } else s)

/-- PFW_QUALIFIED (11 R372): PFW_N has been low for 1 us; `durTenthUs` is what the Ballast write takes, at most 20 us. -/
def execPfwQualified (durTenthUs : Nat) (s : State) : Host.Outcome State Fault Refusal :=
  .next (
    if s.pins.pfwN || s.pm.pfwQual || 200 < durTenthUs || !elapsed s.pins.pfwFall 1 s then s
    else
      let s := note s.pm.nq 15 0x06 2 0 (count 0x10F028 { s with pm := { s.pm with pfwQual := true } })
      startPfw durTenthUs s)

/-- Accumulation resumes once PFW_N is high and its actions have ended (11 R373). -/
def resumeMeters (s : State) : State :=
  if s.pins.pfwN && !s.pm.pfwActions && s.am.halted then resumeEnergy { s with am := { s.am with halted := false } } else s

/-- A FREEZE_N that was ignored acts once PFW_N is high (14 R470). -/
def endIgnore (s : State) : State :=
  if !s.pm.ignoreFreezeN then s
  else
    let s := { s with pm := { s.pm with ignoreFreezeN := false } }
    if s.pins.freezeN then s else freeze 1 s

/-- PFW_N_RISE (11 R373). -/
def execPfwNRise (s : State) : Host.Outcome State Fault Refusal :=
  .next (
    if s.pins.pfwN then s
    else
      let was := s.pm.pfwQual
      let s := { s with pins := { s.pins with pfwN := true }, pm := { s.pm with pfwQual := false } }
      let s := if was then note s.pm.nq 15 0x07 0 0 s else s
      endIgnore (resumeMeters s))

/-- Cairn is released after the actions of PFW_N: what they held back goes on (13 R434; 14 R456, R470). -/
def cairnReleased (s : State) : State :=
  let s := endHalted 9 { s with pm := { s.pm with pfwActions := false, evHasCairn := false } }
  let s := resumeMeters (if s.ev.buffer.isEmpty then s else flushTrigger s)
  let late := s.pm.deferFreeze
  let s := { s with pm := { s.pm with deferFreeze := 0 } }
  if late == 0 || (late == 1 && (s.pins.freezeN || s.pm.ignoreFreezeN)) then s else freeze late s

/-- CAIRN_RELEASE (13 R434): 90 us after the fall the actions end; a handshake they abandoned ends, and a freeze they put
off takes effect (14 R456, R470). A RESET_N that has qualified resets instead. -/
def execCairnRelease (s : State) : Host.Outcome State Fault Refusal :=
  .next (
    if !s.pm.pfwActions || !s.pm.evHasCairn || s.pm.resetQual || !elapsed s.pins.pfwFall 90 s then s else cairnReleased s)

/-- RESET_N_QUALIFIED (14 R447): RESET_N has been low for 1 us; the device acts as at PFW_N, then resets. -/
def execResetNQualified (durTenthUs : Nat) (s : State) : Host.Outcome State Fault Refusal :=
  .next (
    if s.pm.resetQual || 200 < durTenthUs then s
    else
      let s := { s with pins := { s.pins with resetN := false, pfwFall := if s.pm.pfwActions then s.pins.pfwFall
                                                                          else s.tm.frc - countsOfUs 1 },
                        pm := { s.pm with resetQual := true } }
      startPfw durTenthUs (endFreeze s))

/-! ### Root PLLs and references (14 R462 to R466) -/

/-- The reference PLL `b` locks to. -/
def refOf (c : Ck) (b : Bool) : Bool := if c.singleRef then c.singleB else b
def refOk (c : Ck) (b : Bool) : Bool := if b then c.refBOk else c.refAOk
def lockOk (c : Ck) (b : Bool) : Bool := if b then c.bLock else c.aLock

/-- PLL `b` is locked and its reference qualified (14 R464). -/
def pllOk (c : Ck) (b : Bool) : Bool := lockOk c b && refOk c (refOf c b)

/-- The time since which the PREFER PLL has been qualified (14 R466), and the mode, follow the clocks. -/
def ckSettle (s : State) : State :=
  let since := if pllOk s.ck s.ck.preferB then some (s.ck.preferSince.getD s.tm.frc) else none
  reMode { s with ck := { s.ck with preferSince := since } }

/-- The standby becomes the active root PLL (14 R464): 1 reference, 2 lock, 3 command, 4 revert. -/
def switchPll (cause : Nat) (s : State) : State :=
  let b := !s.ck.activeB
  note s.pm.nq 16 0x03 2 (fld (b2n b) 4 1 + cause)
    (count 0x10F800 { s with ck := { s.ck with activeB := b, switches := (s.ck.switches + 1) % 2 ^ 16 } })

/-- A reference, or a PLL's lock, is declared failed or good. -/
def Ck.setRef (c : Ck) (b ok : Bool) : Ck := if b then { c with refBOk := ok } else { c with refAOk := ok }
def Ck.setLock (c : Ck) (b ok : Bool) : Ck := if b then { c with bLock := ok } else { c with aLock := ok }

/-- The key of a reference (`what` 0 or 2) or a PLL (`what` 1) among the failure times. -/
def failKey (what which : Nat) : Nat := (if what == 1 then 2 else 0) + which

/-- It is declared failed now. -/
def markFailed (what which : Nat) (s : State) : State :=
  { s with ck := { s.ck with failedAt := tset s.ck.failedAt (failKey what which) s.tm.frc } }

/-- 100 ms have passed since it was declared failed (14 R463); while the FRC is held the span is not measured. -/
def requalifies (what which : Nat) (s : State) : Bool :=
  match tfind s.ck.failedAt (failKey what which) with
  | some t => elapsed t 100000 s
  | none => true

/-- A reference whose edges are missing counts in its monitor (Table 14-10). -/
def Ck.missed (c : Ck) (b : Bool) : Ck :=
  if b then { c with missB := (c.missB + 1) % 2 ^ 16 } else { c with missA := (c.missA + 1) % 2 ^ 16 }

/-- After a failure the qualified standby takes over, when the active side was hit (14 R464). -/
def takeOverPll (hit : Bool) (cause : Nat) (s : State) : State :=
  ckSettle (if hit && standbyOk s.ck then switchPll cause s else s)

/-- REF_FAIL (14 R463): `what` 0 a reference without edges, 1 a PLL out of lock, 2 a reference off frequency; `which` 1
for B. -/
def execRefFail (what which : Nat) (s : State) : Host.Outcome State Fault Refusal :=
  .next (
    let b := which == 1
    if 2 < what || 1 < which then s
    else if what == 1 then
      if !lockOk s.ck b then s
      else
        let s := count 0x10F818 (markFailed what which { s with ck := s.ck.setLock b false })
        takeOverPll (b == s.ck.activeB) 2 (note s.pm.nq 16 0x04 2 which s)
    else if !refOk s.ck b then s
    else
      let s := markFailed what which { s with ck := s.ck.setRef b false }
      let s := if what == 0 then { s with ck := s.ck.missed b } else s
      let s := note s.pm.nq 16 0x01 2 which (count (0x10F808 + 8 * which) s)
      takeOverPll (b == refOf s.ck s.ck.activeB) 1 s)

/-- REF_QUALIFIED (14 R463): a reference after 100 ms within 100 ppm, a PLL after 100 ms in lock. -/
def execRefQualified (what which : Nat) (s : State) : Host.Outcome State Fault Refusal :=
  .next (
    let b := which == 1
    if 2 < what || 1 < which || !requalifies what which s then s
    else if what == 1 then (if lockOk s.ck b then s else ckSettle { s with ck := s.ck.setLock b true })
    else if refOk s.ck b then s
    else ckSettle (note s.pm.nq 16 0x02 0 which { s with ck := s.ck.setRef b true }))

/-- PLL_REVERT (14 R466). -/
def execPllRevert (s : State) : Host.Outcome State Fault Refusal :=
  .next (
    match s.ck.preferSince with
    | some t =>
      if s.ck.revertS != 0 && s.ck.preferB != s.ck.activeB && standbyOk s.ck && t + s.ck.revertS * 390625000 ≤ s.tm.frc then
        ckSettle (switchPll 4 s)
      else s
    | none => s)

end Sys2Proof.Machine
end

