-- ==== Sys2Proof/Machine/Flags.lean ====
section
/-! DEFINITION. Status words: the fields of the registers of every block as they read (Tables 0-2 to 14-14). -/

namespace Sys2Proof.Machine

/-! ### HI and the family words (00 R2, 02 R40 to R45) -/

/-- HI_FAMILY_ID: member 0x09, stepping 0x10, tag 0x6A11 (Table 0-2). -/
def familyId : Nat := 0x09106A11

/-- HI_FAMILY_CAP0 (Table 0-3, 07 R256). -/
def familyCap0 (s : State) : Nat := fld 0x4000 16 16 + fld 4 12 4 + fld s.cv.capEngines 4 8 + fld s.cv.capSpares 0 4

/-- HI_FAMILY_CAP1 (Table 0-4). -/
def familyCap1 : Nat := fld 0x100 22 10 + fld 0x18 16 6 + fld 0x80 8 8 + 0x40

/-- The D_AON copy of HI_LSW that MSPI and MI2C read (02 R41): while CLK_CORE runs it is HI_LSW; in FROZEN it holds what it
held when CLK_CORE stopped, but for MODE, TQ and HEARTBEAT. -/
def lswAon (s : State) : Nat :=
  if s.pm.mode == .frozen then fld s.pm.mode.code 29 3 + fld s.tm.tq.code 26 3 + fld (bits s.hi.lswCopy 12 14) 12 14 + heartbeat s
  else lsw s

/-- MSPI_IRQ_N: low while the completion FIFO of the mailbox holds a record (02 R67). -/
def mspiIrqN (s : State) : Bool := s.hi.mb.fifo.isEmpty

/-- HI_ERR (Table 2-4). -/
def hiErr (h : Hi) : Nat :=
  fld h.faultRing 8 4 + fld (b2n h.nqWidth) 4 1 + fld (b2n h.dmaFault) 3 1 + fld (b2n h.ringFault) 2 1 +
  fld (b2n h.lockAccess) 1 1 + b2n h.offAccess

/-- HI_MB_STAT (Table 2-9). -/
def mbStat (m : Mailbox) : Nat := fld (b2n m.ovr) 5 1 + fld (b2n m.cmd.isSome) 4 1 + m.fifo.length

/-- HI_SQ_CFG and HI_CQ_CFG (Tables 2-5 and 2-6). -/
def sqCfg (r : Ring) : Nat := fld (b2n r.sqEn) 31 1 + fld (b2n r.sqFault) 30 1 + fld r.sqLog2 12 4 + fld r.sqWeight 8 4
def cqCfg (r : Ring) : Nat := fld (b2n r.cqEn) 31 1 + fld r.cqLog2 12 4

/-- HI_NQ_CFG and HI_NQ_STAT (Tables 2-13 and 2-14). -/
def nqCfg (n : Nq) : Nat := fld (b2n n.en) 31 1 + fld n.thresh 21 10 + fld n.timeoutUs 0 20
def nqStat (n : Nq) : Nat :=
  fld (n.w - n.r) 21 11 + fld (n.w - n.l) 10 11 + fld (b2n n.markValid) 9 1 + fld (b2n n.markLost) 8 1

/-! ### NP (Tables 3-6 to 3-10) -/

/-- NP_PCFG (Table 3-7). -/
def pcfg (s : State) (p : Nat) : Nat :=
  let t := getPort s p
  fld (b2n t.en) 31 1 + fld t.line 28 3 + fld t.maxlen 14 14 + fld (b2n t.bcast) 13 1 + fld (b2n t.promisc) 12 1 +
  fld t.hsel 10 2 + fld (b2n t.vlanList) 9 1 + fld (b2n (pairOf s p).isSome) 8 1 + fld (b2n t.macsecEn) 7 1 + fld t.validate 5 2

/-- NP_PSTAT (Table 3-8). -/
def pstat (t : Port) : Nat :=
  fld (b2n t.linkUp) 31 1 + fld (b2n t.pcsLock) 30 1 + fld (b2n t.fecLock) 29 1 + fld (b2n t.localFault) 28 1 +
  fld (b2n t.remoteFault) 27 1 + b2n t.linkChg

/-- NP_SA_TX (Table 3-6). -/
def saTx (t : Port) : Nat := fld t.activeAn 30 2 + fld t.nextAn 28 2 + fld (listSum ((tkeys t.txSa).map (2 ^ ·))) 24 4

/-- NP_GCFG (Table 3-9). -/
def npGcfg (n : Np) : Nat := fld n.nq 27 5 + fld n.ptQuota 0 16

/-- NP_PT_CFG (Table 3-10). -/
def ptCfg (r : PtRing) : Nat :=
  fld (b2n r.en) 31 1 + fld (b2n r.fault) 30 1 + fld r.nq 16 5 + fld r.log2 12 4 + fld r.bufCode 9 3 + fld (b2n r.noteEn) 8 1 +
  fld r.noteEvery 0 8

/-! ### TM (Tables 4-6 to 4-9) -/

/-- TM_STAT (Table 4-7). -/
def tmStat (s : State) : Nat :=
  let t := s.tm
  fld t.tq.code 29 3 + fld t.tether.tqServo.code 26 3 + fld (b2n t.mainFailed) 25 1 + fld (b2n t.selftest) 24 1 +
  fld t.tether.source 22 2 + fld (srcPort s) 19 3 + fld t.tether.servo 17 2 + fld (b2n t.pps.ok) 16 1 + fld (b2n t.pps.todOk) 15 1 +
  fld (b2n t.tether.clamped) 14 1 + fld (b2n t.tether.lockedOnce) 13 1 + fld t.tether.p.nq 8 5 + fld t.tether.qual 0 8

/-- TM_SERVO_OFS: last accepted theta in ns, and TM_SERVO_FREQ: y in 10^-12, both saturating. -/
def servoOfs (s : State) : Nat := arg32 (roundDiv s.tm.tether.theta (2 ^ 16))
def servoFreq (s : State) : Nat := arg32 (roundRat (s.tm.tether.y * 1000000000000))

/-- TM_HOLD_AGE: seconds since holdover was entered while TQ is HOLDOVER_FRESH or HOLDOVER_AGED, 0 otherwise. -/
def holdAgeReg (s : State) : Nat := if s.tm.tq == .holdFresh || s.tm.tq == .holdAged then holdAge s else 0

/-- TM_UTC (Table 4-8). -/
def tmUtc (t : Tm) : Nat := fld (b2n t.utcValid) 31 1 + fld t.leap 29 2 + twosComp 16 t.utcOfs

/-- TM_CMP_STAT (Table 4-9). -/
def cmpStat (c : Cmp) : Nat :=
  fld (b2n c.armed) 31 1 + fld (b2n (c.p.period != 0)) 30 1 + fld (b2n c.late) 29 1 + fld (b2n c.stepped) 28 1 + fld c.fires 0 16

/-- The next target of a comparator. -/
def cmpTarget (c : Cmp) : DT96 := dt96Of (c.target c.k)

/-! ### SI (Tables 5-7 to 5-9) -/

/-- SI_GCFG (Table 5-8). -/
def siGcfg (x : Si) : Nat := fld x.nq 27 5 + fld x.tagTolUs 17 10 + fld x.burstUs 3 14

/-- Streams in a state that satisfies `f`. -/
def countStreams (s : State) (f : StreamState → Bool) : Nat := (s.si.streams.filter (fun e => f e.2.state)).length

/-- SI_STAT_A and SI_STAT_B. -/
def siStatA (s : State) : Nat := fld s.si.streams.length 16 16 + fld (countStreams s (· == .live)) 0 16
def siStatB (s : State) : Nat :=
  fld (countStreams s (fun x => x == .stale || x == .lost)) 16 16 + fld (countStreams s (· == .quarantined)) 0 16

/-- SI_ENTRY0 to SI_ENTRY4 of slot `sid` (Tables 5-7 and 5-9). -/
def siEntry (s : State) (sid : Nat) : List Nat :=
  match getStream s sid with
  | none => [0, 0, 0, 0, 0]
  | some x =>
    let p := x.p
    let t := dt80Of x.lastTag
    let (cur, prev) := x.failuresAt (nowSec s)
    [fld x.state.code 29 3 + fld p.proto 28 1 + fld p.authMode 26 2 + fld p.lane 23 3 + fld p.method 22 1 + fld p.align 21 1 +
       fld p.portMask 17 4 + fld p.qlimit 9 8 + fld p.rate 0 9,
     t.ns, t.sec % 2 ^ 32, fld p.keyCur 24 8 + fld p.keyNext 16 8 + fld (min 255 (cur + prev)) 8 8 + min 255 x.n,
     fld x.staleN 16 8 + fld x.lostN 0 16]

/-! ### ERG (Tables 6-8 to 6-12) -/

/-- ERG_GCFG (Table 6-9). -/
def ergGcfg (e : Erg) : Nat := fld e.nq 27 5 + fld e.headroom 19 8 + fld e.lowMark 0 19

/-- ERG_GRP_CFG and ERG_GRP_STAT (Tables 6-10 and 6-11). -/
def grpCfg (g : Group) : Nat := fld (b2n g.en) 31 1 + fld g.p.latePolicy 29 2 + fld g.p.expect 27 2 + fld g.p.rate 0 8
def openCount (g : Group) : Nat := (g.instants.filter (fun i => i.st == .opened)).length
def grpStat (g : Group) : Nat := fld (openCount g) 26 6 + fld (b2n g.shed) 25 1 + fld g.members.length 0 15

/-- Cells a group holds. -/
def groupHeld (g : Group) : Nat := listSum (g.instants.map Instant.held)

/-- ERG_SES_CFG (Table 6-12). -/
def sesCfg (x : Session) : Nat :=
  fld (b2n x.en) 31 1 + fld x.p.gid 25 6 + fld x.p.target 22 3 + fld x.p.queue 19 3 + fld x.p.format 18 1 + fld (b2n x.p.amend) 17 1 +
  fld x.p.count 0 15

/-! ### CV and MS (Tables 7-5 to 7-8) -/

/-- CV_GCFG (Table 7-6). -/
def cvGcfg (c : Cv) : Nat := fld c.nq 27 5 + fld c.reserve 20 7 + fld c.ageCeil 16 4 + fld c.ckptUs 11 5

/-- Dune entries of Caravan. -/
def delayedItems (s : State) : Nat := (s.cv.items.filter (fun it => match it.st with | .delayed _ => true | _ => false)).length

/-- CV_STAT. -/
def cvStat (s : State) : Nat := fld s.cv.items.length 16 16 + fld (delayedItems s) 2 14

/-- CV_QLEN: eligible items of a level. -/
def qlen (s : State) (lvl : Nat) : Nat := (s.cv.items.filter (fun it => it.level == lvl && eligible s it)).length

/-- MS_STAT and MS_PLAYA. -/
def msStat (s : State) : Nat :=
  fld (inService s) 24 8 + fld (enginesIn s .spare).length 16 8 + fld (enginesIn s .retired).length 8 8 + fld s.cv.takeovers 0 8
def msPlaya (s : State) : Nat := fld (residentPages s) 16 13 + fld (scratchFree s) 0 13

/-- Engine states of Table 7-8. -/
def EngState.code : EngState → Nat
  | .idle => 0 | .running => 1 | .spare => 2 | .selftest => 3 | .retired => 4 | .off => 5

/-- MS_ENG n (Table 7-8). -/
def msEng (s : State) (n : Nat) : Nat :=
  let e := getEngine s n
  let it := if e.st == .running then itemOn s n else none
  fld e.st.code 29 3 + fld (b2n (it.any (fun i => 12 ≤ i.level))) 28 1 + fld ((it.map (·.job)).getD 0) 18 10 +
  fld ((it.map (·.node)).getD 0) 13 5 + fld (min 3 (recentPasses s e).length) 11 2

/-! ### TS (Tables 8-6 to 8-10) -/

/-- TS_GCFG and TS_GCFG2 (Tables 8-7 and 8-8). -/
def tsGcfg (p : TopoP) : Nat :=
  fld p.nq 27 5 + fld p.gid 21 6 + fld p.hold 13 8 + fld p.badMax 9 4 + fld p.refLevel 5 4 + fld (p.measReq % 2) 4 1 +
  fld (p.measReq / 2 % 2) 3 1 + fld (p.measReq / 4 % 2) 2 1
def tsGcfg2 (p : TopoP) : Nat := fld p.lnr 20 12 + fld p.chi2z 8 12 + fld p.iOpenMax 0 8

/-- TS_MODEL and TS_MEAS. -/
def tsModel (s : State) : Nat :=
  match s.ts.model with | some m => fld m.nodes.length 16 13 + fld m.branches.length 0 15 | none => 0
def tsMeas (s : State) : Nat :=
  fld (listSum (s.ts.cuts.map (fun e => e.2.p.branches.length))) 16 11 + fld ((s.ts.model.map (·.meas.length)).getD 0) 0 16

/-- TS_FACTOR (Table 8-9). -/
def tsFactor (t : Ts) : Nat :=
  fld (b2n t.valid) 31 1 + fld (b2n t.refac.isSome) 30 1 + fld (b2n t.refacNext.isSome) 29 1 + fld (b2n t.stale) 28 1 +
  fld t.generation 16 12 + fld t.updSince 0 15

/-- The last instant with a result, its summary, J and threshold. -/
def tsLast (t : Ts) : Option TsResult := t.results.head?
def tsSummary (t : Ts) : Nat :=
  match tsLast t with | some r => fld r.islands 19 13 + fld r.observed 6 13 + fld r.flags 0 6 | none => 0

/-- TS_CUT c (Table 8-10). -/
def tsCut (t : Ts) (c : Nat) : Nat :=
  match tfind t.cuts c with
  | some x => fld 1 31 1 + fld x.p.apply 30 1 + fld (b2n x.separated) 29 1 + fld (b2n x.unsettled) 28 1 + fld x.pick 24 4 +
      fld x.drop 20 4 + twosComp 20 x.rho
  | none => 0

/-! ### SC (Tables 9-9 to 9-12) -/

/-- SC_GCFG, SC_GCFG2 and SC_GCFG3 (Tables 9-9 and 9-10). -/
def scGcfg (p : OscP) : Nat :=
  fld p.nq 27 5 + fld p.gid 21 6 + fld p.cycles 17 4 + fld p.fillMax 13 4 + fld (p.measReq % 2) 12 1 + fld (p.measReq / 2 % 2) 11 1 +
  fld (p.measReq / 4 % 2) 10 1 + fld p.cmp 6 4
def scGcfg2 (p : OscP) : Nat := fld p.ofsMs 22 10 + fld p.slowJob 12 10 + fld p.trackHold 8 4 + fld p.forcedN 4 4
def scGcfg3 (p : OscP) : Nat := fld p.trackDf 25 7 + fld p.trackDz 16 9 + fld p.forcedZeta 10 6 + fld p.forcedPr 0 10

/-- SC_SIG0 to SC_SIG2 of signal `n` (Table 9-9). -/
def scSig (s : State) (n : Nat) : List Nat :=
  match tfind s.sc.sigs n with
  | none => [0, 0, 0]
  | some g =>
    [fld 1 31 1 + fld g.p.kind 29 2 + fld g.p.group 22 7 + fld (b2n (g.recs.head?.any (·.valid))) 21 1 +
       fld (b2n (g.recs.head?.any (·.filled))) 20 1 + fld g.p.zcFloor 0 18,
     fld g.p.aSid 16 14 + fld g.p.aCh 0 6, fld g.p.bSid 16 14 + fld g.p.bCh 0 6]

/-- SC_GRP_CFG, SC_GRP_LIM and SC_GRP_STAT (Tables 9-11 and 9-12). -/
def scGrpCfg (p : OscGroupP) : Nat :=
  fld 1 31 1 + fld p.window 29 2 + fld (p.order - 1) 24 5 + fld p.rows 17 7 + fld (p.modesMax - 1) 14 3 + fld p.ref 9 5 +
  fld (p.retain - 1) 5 4 + fld p.node 0 5
def scGrpLim (p : OscGroupP) : Nat := fld p.fmin 23 9 + fld p.fmax 14 9 + fld p.zetaMax 4 10
def scGrpStat (s : State) (n : Nat) (g : OscGroup) : Nat :=
  let forced := listSum ((g.tracks.filter (fun e => e.2.forced)).map (fun e => 2 ^ e.1))
  let used := listSum (g.tracks.map (fun e => 2 ^ e.1))
  let r := g.recs.head?
  fld ((r.map (·.modes.length)).getD 0) 28 4 + fld ((r.map (fun r => r.flags % 2)).getD 0) 27 1 +
  fld ((r.map (fun r => r.flags / 2 % 2)).getD 0) 26 1 + fld forced 18 8 + fld used 10 8 +
  fld ((r.map (fun r => r.used - 1)).getD 0) 5 5 + fld ((groupSigs s n).length - 1) 0 5

/-! ### AL and AQ (Tables 10-8 to 10-12) -/

/-- AL_GCFG (Table 10-9). -/
def alGcfg (x : XtrigP) : Nat := fld x.nq 27 5 + fld x.stbNs 17 10 + fld x.xinEdge 15 2 + fld x.fwd 13 2 + fld x.xinNote 11 2

/-- AL_LINES. -/
def alLines (s : State) : Nat :=
  let mask := fun (f : AlmLine → Bool) => listSum ((List.range 8).map (fun l => if f (getLine s l) then 2 ^ l else 0))
  fld (mask (fun x => x.mode == 1 && x.latched)) 16 8 + fld (mask (fun x => x.pulseEnd.isSome)) 8 8 + fld s.al.alm 0 8

/-- AL_STAT. -/
def alStat (s : State) : Nat :=
  fld (s.al.rules.filter (fun e => e.2.active)).length 16 13 + fld (s.al.rules.filter (fun e => e.2.en)).length 0 13

/-- AL_RULE0 to AL_RULE2 of rule `n` (Table 10-10). -/
def alRule (s : State) (n : Nat) : List Nat :=
  match getRule s n with
  | none => [0, 0, 0]
  | some r =>
    [fld (b2n r.en) 31 1 + fld (b2n r.active) 30 1 + fld (b2n r.forced) 29 1 + fld r.p.kind 25 4 + fld r.p.cond 23 2 +
       fld r.p.severity 21 2 + fld (b2n r.p.test) 20 1 + fld r.pick 12 8 + fld r.drop 4 8 + fld r.p.invalid 2 2 +
       fld (b2n r.lastValid) 1 1,
     twosComp 32 r.lastVal, (r.lastK.getD 0) % 2 ^ 32]

/-- AQ_CH_CFG (Table 10-11). -/
def aqChCfg (x : AqChannel) : Nat :=
  fld (b2n x.en) 31 1 + fld x.p.gid 25 6 + fld x.p.srcEn 20 5 + fld x.p.retrig 19 1 + fld 1 18 1

/-- AQ_RING_CFG (Table 10-12). -/
def aqRingCfg (s : State) (r : Nat) (g : AqRing) : Nat :=
  let en := g.addressed && ((getChan s (r / 4)).map (·.en)).getD false
  fld (b2n en) 31 1 + fld g.p.kind 29 2 + fld g.p.log2Slots 24 5 + fld g.p.vector 18 6 + fld g.p.statusEvery 10 8 +
  fld (b2n g.addressed) 9 1

/-- AQ_BW: admitted MB/s (10 R341). -/
def aqBw (s : State) : Nat := (aqBytes s / 1000000).ceil.toNat % 2 ^ 16

/-! ### AM (Tables 11-7 to 11-11) -/

/-- AM_GCFG (Table 11-8) and AM_STAT. -/
def amGcfg (a : Am) : Nat := fld a.nq 27 5 + fld a.saveS 15 12 + fld (b2n a.sdclkEn) 14 1
def amStat (s : State) : Nat :=
  let mask := fun (f : MChan → Bool) => listSum ((List.range 12).map (fun k => if f (getMChan s k) then 2 ^ k else 0))
  fld (mask (·.modFault)) 16 12 + mask (·.tempStale)

/-- AM_CH_CFG (Table 11-9) and the bits of +0x34. -/
def amChCfg (p : MChanP) : Nat :=
  fld p.en 31 1 + fld p.kind 29 2 + fld p.sensor 27 2 + fld p.respRec 24 3 + fld p.respAlm 21 3 + fld (b2n p.invert) 20 1 +
  fld (b2n p.hpf) 19 1 + fld p.tempSrc 17 2 + fld p.tempCh 13 4
def amChStat (s : State) (k : Nat) : Nat :=
  let c := getMChan s k
  b2n c.modFault + fld (b2n c.tempStale) 1 1 + fld (b2n (recUnsettled c)) 2 1 + fld (b2n (almUnsettled s k)) 3 1

/-- AM_EL_CFG and AM_EL_STAT (Tables 11-10 and 11-11), and the channels word. -/
def amElCfg (e : Elem) : Nat :=
  fld (b2n e.en) 31 1 + fld e.p.phases 29 2 + fld e.p.dir 28 1 + fld e.p.ulsb 24 4 + fld e.p.digits 19 5
def amElChans (p : ElemP) : Nat := listSum ((List.range 6).map (fun i => fld (p.chans.getD i 0) (20 - 4 * i) 4))
def amElStat (s : State) (e : Nat) : Nat :=
  let x := getElem' s e
  fld (b2n x.running) 31 1 + fld (b2n x.noload) 30 1 + fld x.quadrant 28 2 + fld (b2n x.phaseInvalid) 27 1 +
  fld (b2n (ballastMask s e != 0)) 26 1

/-- A pulse output's first word; AM_VS_CFG; a Ballast set's first word (Table 11-7). -/
def pulseCfg (p : PulseP) : Nat := fld p.en 31 1 + fld p.pol 30 1 + fld p.el 28 2 + fld p.reg 25 3 + fld p.widthMs 18 7
def vsCfg (p : VsP) : Nat :=
  fld 1 31 1 + fld p.cls 29 2 + fld p.ref 27 2 + fld (b2n (p.fnom == 60)) 26 1 + fld p.phMask 14 12 + fld p.seqMask 10 4 + fld p.rate 0 9
def setCfg (p : BallastP) : Nat := fld p.en 31 1 + fld p.el 28 2 + fld p.mask 0 8

/-! ### OV, EC and EV (Tables 12-8, 12-9, 13-5 to 13-11) -/

/-- Slots that are FREE. -/
def freeSlots (s : State) : Nat := 256 - s.ov.slots.length

/-- OV_STAT (Table 12-9). -/
def ovStat (s : State) : Nat :=
  fld s.fuses.lifecycle.code 30 2 + fld (b2n s.ov.root.isSome) 29 1 + fld (b2n s.ov.mirage.isSome) 28 1 + fld (b2n s.ov.dbgArm) 27 1 +
  fld (b2n s.ov.ownerBad) 26 1 + fld (b2n s.ov.entropyOk) 25 1 + fld s.ov.nq 20 5 + fld (freeSlots s) 0 9

/-- OV_TAMPER and OV_TAMPER_CFG (Table 12-8). -/
def ovTamper (o : Ov) : Nat := fld o.zeroCount 16 16 + fld o.causes 0 7
def ovTamperCfg (o : Ov) : Nat := o.tamperCfg % 2 ^ 7 ||| 0x48

/-- EC_GCFG and EC_STAT: a pass begins every SCRUB_MS after BOOT (13 R418). -/
def ecGcfg (e : Ec) : Nat := fld e.nq 27 5 + fld e.scrubMs 16 11
def ecStat (s : State) : Nat :=
  fld ((s.tm.frc - s.ec.bootEnd) / msCounts s.ec.scrubMs) 16 16 + fld (min 255 s.ec.suspects.length) 8 8

/-- EC_REPAIRS. -/
def ecRepairs (s : State) : Nat := fld s.cairn.repairs.length 16 10 + fld (listSum (s.ec.macros.map (fun e => e.2.fuseSpares))) 0 12

/-- EC_MACRO of macro `m` (Table 13-9). -/
def ecMacro (s : State) (m : Nat) : Nat :=
  let x := getMacro s m
  fld (b2n (s.ec.tested && !x.checkerBad)) 31 1 + fld x.fuseSpares 29 2 + fld (b2n x.fieldUsed) 28 1 + fld x.fieldRow 22 6 +
  fld (b2n x.markPending) 21 1 + fld x.pendingRow 15 6 + fld x.ce 0 15

/-- EV_GCFG, EV_GCFG2 and EV_STAT (Tables 13-7, 13-10, 13-11). -/
def evGcfg (e : Ev) : Nat := fld e.nq 27 5 + fld e.coalesceUs 7 20
def evGcfg2 (e : Ev) : Nat := fld e.flushMs 22 10 + fld e.faultVec 16 6 + fld e.flushVec 10 6
def evStat (s : State) : Nat :=
  fld (bufferedLines s.ev) 19 13 + fld s.ev.opens.length 14 5 + fld (b2n s.ev.flushing) 13 1 +
  fld (b2n (s.cairn.cutNow || s.cairn.cutBefore)) 12 1

/-- The 32 bytes of an event record or its extension (Table 13-5). -/
def logBytes (r : LogRec) : List Nat :=
  let e := r.entry
  if r.isExt then leBytes 4 r.seq ++ [255, 255, 255, 255] ++ padTo 24 (e.ext.getD [])
  else
    leBytes 4 r.seq ++ leBytes 4 e.opsec ++ leBytes 3 e.pcc ++
    [fld e.severity 0 2 + fld e.tq 2 3 + fld (b2n e.timeValid) 5 1 + fld (b2n e.ext.isSome) 6 1] ++ leBytes 4 e.ns ++ leBytes 6 e.sec ++
    [e.source % 32, e.code % 256, e.rpt % 256] ++ leBytes 7 e.arg

/-- The bytes of Spool slot `i`; an empty slot reads 0 (13 R435). -/
def spoolBytes (s : State) (i : Nat) : List Nat := ((tfind s.ev.spool i).map logBytes).getD (List.replicate 32 0)

/-! ### PM and CK (Tables 14-10 to 14-14) -/

/-- PM_STAT (Table 14-11). -/
def pmStat (s : State) : Nat :=
  let p := s.pm
  fld p.mode.code 29 3 + fld p.returnMode.code 26 3 + fld (b2n p.hs.isSome) 25 1 + fld p.hsBlock 20 5 + fld p.hsReason 12 8 +
  fld p.wakeCause 8 4 + degrade s

/-- PM_RESET (Table 14-10). -/
def pmReset (p : Pm) : Nat := fld p.warmResets 16 16 + fld p.internalCause 8 8 + fld p.source 0 8

/-- PM_CFG (Table 14-12), PM_DOM, PM_MESA words and PM_HOLD. -/
def pmCfg (p : Pm) : Nat := fld p.nq 27 5 + fld (b2n p.mi2cWake) 26 1 + fld p.delayMax 0 20
def pmDom (p : Pm) : Nat :=
  7 + fld (b2n p.domPorts) 3 1 + fld (b2n p.domErg) 4 1 + fld (b2n p.domAnchor) 5 1 + fld 1 6 1
def pmMesa (s : State) (w : Nat) : Nat :=
  listSum ((List.range 32).map (fun i => if 32 * w + i < 66 && (getEngine s (32 * w + i)).on then 2 ^ i else 0))
def pmHold (p : Pm) : Nat := fld (b2n p.holdPorts) 3 1 + fld (b2n p.holdAnchor) 5 1

/-- CK_STAT and CK_CFG (Tables 14-13 and 14-14). -/
def ckStat (c : Ck) : Nat :=
  fld (b2n c.activeB) 31 1 + fld (b2n c.aLock) 30 1 + fld (b2n c.bLock) 29 1 + fld (b2n c.refAOk) 28 1 + fld (b2n c.refBOk) 27 1 +
  fld (b2n (standbyOk c)) 26 1 + fld (b2n c.switching) 25 1 + fld c.switches 0 16
def ckCfg (c : Ck) : Nat := fld (b2n c.preferB) 31 1 + fld (b2n c.singleRef) 30 1 + fld (b2n c.singleB) 29 1 + fld c.revertS 0 17

end Sys2Proof.Machine
end

