-- ==== Sys2Proof/Machine/Operands.lean ====
section
/-! DEFINITION. What every class of commands asks of its operands (02 R51, R63): the plain specification of an opcode, the
tests on ranges and masks, and the modes a class allows. -/

namespace Sys2Proof.Machine

/-- An opcode with `plen` parameter bytes and nothing more to check. -/
def spec0 (opcode plen : Nat) : CmdSpec := { opcode := opcode, plen := plen }

/-- An opcode with a check on its values. -/
def specP (opcode plen : Nat) (ok : Bool) : CmdSpec := { opcode := opcode, plen := plen, paramOk := ok }

/-- An opcode with checks on its values and on the mode. -/
def specM (opcode plen : Nat) (ok mode : Bool) : CmdSpec := { opcode := opcode, plen := plen, paramOk := ok, modeOk := mode }

/-- `lo ≤ x ≤ hi`. -/
def within (lo hi x : Nat) : Bool := lo ≤ x && x ≤ hi

/-- A flag operand: 0 or 1. -/
def flag (x : Nat) : Bool := x < 2

/-- A float32 operand that is neither NaN nor infinite. -/
def finite (v : Nat) : Bool := v < 2 ^ 32 && !isNaN v && !isInf v

/-- A positive finite float32. -/
def positive (v : Nat) : Bool := finite v && !bit v 31 && v != 0

/-- A signed operand of `w` bits. -/
def signedFits (w : Nat) (x : Int) : Bool := -(2 ^ (w - 1)) ≤ x && x < 2 ^ (w - 1)

/-- A host buffer of a command: 64-bit address. -/
def bufferOk (addr : Nat) : Bool := addr < 2 ^ 64

/-- A device time operand: seconds in 48 bits, nanoseconds below 10^9 (00 R12). -/
def timeOk (t : DT80) : Bool := t.sec < 2 ^ 48 && t.ns < 1000000000

/-- The power domains commands need (01 R24). -/
def ergOn (s : State) : Bool := s.pm.domErg
def portsOn (s : State) : Bool := s.pm.domPorts
def anchorOn (s : State) : Bool := s.pm.domAnchor

/-- COMMISSION only. -/
def inCommission (s : State) : Bool := s.pm.mode == .commission

/-- Every mode but DOZE: FROZEN dispatches nothing and BOOT is tested before (02 R73, 01 R33). -/
def notDoze (s : State) : Bool := s.pm.mode != .doze

/-- An operation of this opcode is outstanding and not awaiting a wake. -/
def runningOp (s : State) (opcode : Nat) : Bool := s.hi.ops.any (fun o => o.opcode == opcode && o.phase != .waking)

end Sys2Proof.Machine
end

