-- ==== Sys2Proof/Machine/Gcm.lean ====
section
/-! DEFINITION. AES-256 (FIPS 197) and its GCM mode (SP 800-38D), in which key blobs are sealed, exported and opened (12 Table
12-4, R397, R398). Byte strings are lists of bytes. -/

namespace Sys2Proof.Machine

/-- The substitution box, sixteen bytes to a row, the first one most significant. -/
def aesRows : List Nat :=
  [0x637C777BF26B6FC53001672BFED7AB76, 0xCA82C97DFA5947F0ADD4A2AF9CA472C0, 0xB7FD9326363FF7CC34A5E5F171D83115] ++
  [0x04C723C31896059A071280E2EB27B275, 0x09832C1A1B6E5AA0523BD6B329E32F84, 0x53D100ED20FCB15B6ACBBE394A4C58CF] ++
  [0xD0EFAAFB434D338545F9027F503C9FA8, 0x51A3408F929D38F5BCB6DA2110FFF3D2, 0xCD0C13EC5F974417C4A77E3D645D1973] ++
  [0x60814FDC222A908846EEB814DE5E0BDB, 0xE0323A0A4906245CC2D3AC629195E479, 0xE7C8376D8DD54EA96C56F4EA657AAE08] ++
  [0xBA78252E1CA6B4C6E8DD741F4BBD8B8A, 0x703EB5664803F60E613557B986C11D9E, 0xE1F8981169D98E949B1E87E9CE5528DF] ++
  [0x8CA1890DBFE6426841992D0FB054BB16]

/-- SubBytes of one byte. -/
def aesSub (b : Nat) : Nat := aesRows.getD (b / 16) 0 >>> (8 * (15 - b % 16)) % 256

/-- A byte times x in the field of AES. -/
def xtime (b : Nat) : Nat := if b < 128 then 2 * b else (2 * b) % 256 ^^^ 0x1B

/-- Two byte strings added. -/
def xorBytes (a b : List Nat) : List Nat := List.zipWith (fun x y => x ^^^ y) a b

/-- A word of the key schedule before it is added: RotWord, SubWord and Rcon at every eighth word, SubWord at every fourth. -/
def keyCore (i : Nat) (w : List Nat) : List Nat :=
  if i % 8 == 0 then xorBytes ((w.drop 1 ++ w.take 1).map aesSub) [2 ^ (i / 8 - 1), 0, 0, 0]
  else if i % 8 == 4 then w.map aesSub
  else w

/-- The key schedule of AES-256, newest word first, extended by `n` words from word `i` on. -/
def keyWords : Nat → Nat → List (List Nat) → List (List Nat)
  | 0, _, ws => ws
  | n + 1, i, ws => keyWords n (i + 1) (xorBytes (ws.getD 7 []) (keyCore i (ws.getD 0 [])) :: ws)

/-- The fifteen round keys of a 32-byte key. -/
def roundKeys (key : List Nat) : List (List Nat) :=
  chunksOf 16 15 (keyWords 52 8 (chunksOf 4 8 key).reverse).reverse.flatten

/-- ShiftRows. -/
def shiftRows (b : List Nat) : List Nat := (List.range 16).map (fun i => b.getD ((i + 4 * (i % 4)) % 16) 0)

/-- MixColumns of one column. -/
def mixColumn (c : List Nat) : List Nat :=
  (List.range 4).map (fun i =>
    let e := fun j => c.getD ((i + j) % 4) 0
    xtime (e 0 ^^^ e 1) ^^^ e 1 ^^^ e 2 ^^^ e 3)

/-- AES-256 of one block under its round keys. -/
def aesBlock (keys : List (List Nat)) (b : List Nat) : List Nat :=
  let start := xorBytes b (keys.getD 0 [])
  let middle := ((keys.drop 1).take 13).foldl (fun b k =>
    xorBytes ((chunksOf 4 4 (shiftRows (b.map aesSub))).flatMap mixColumn) k) start
  xorBytes (shiftRows (middle.map aesSub)) (keys.getD 14 [])

/-- The product in the field of GHASH; `k` bits of `x` are still to be taken, the most significant first. -/
def ghashMul (x : Nat) : Nat → Nat → Nat → Nat
  | 0, _, z => z
  | k + 1, v, z =>
    force (if x.testBit k then z ^^^ v else z) fun z =>
    force (if v % 2 == 1 then v / 2 ^^^ 0xE1 * 2 ^ 120 else v / 2) fun v => ghashMul x k v z

/-- A byte string padded with zeros to whole blocks. -/
def wholeBlocks (l : List Nat) : List Nat := l ++ List.replicate ((16 - l.length % 16) % 16) 0

/-- GHASH of the additional data and the ciphertext under `h`. -/
def ghash (h : Nat) (aad ct : List Nat) : Nat :=
  let m := wholeBlocks aad ++ wholeBlocks ct ++ beBytes 8 (8 * aad.length) ++ beBytes 8 (8 * ct.length)
  (chunksOf 16 (m.length / 16) m).foldl (fun y b => ghashMul (y ^^^ beNat b) 128 h 0) 0

/-- Counter mode from counter 2, after the IV of 12 bytes. -/
def gcmStream (keys : List (List Nat)) (iv data : List Nat) : List Nat :=
  let blocks := (List.range (ceilDiv data.length 16)).flatMap (fun i => aesBlock keys (iv ++ beBytes 4 (i + 2)))
  xorBytes data blocks

/-- The tag over additional data and ciphertext. -/
def gcmTag (keys : List (List Nat)) (iv aad ct : List Nat) : List Nat :=
  let h := beNat (aesBlock keys (List.replicate 16 0))
  xorBytes (beBytes 16 (ghash h aad ct)) (aesBlock keys (iv ++ [0, 0, 0, 1]))

/-- AES-256-GCM: ciphertext and tag of a plaintext. -/
def gcmSeal (key iv aad plain : List Nat) : List Nat :=
  let keys := roundKeys key
  let ct := gcmStream keys iv plain
  ct ++ gcmTag keys iv aad ct

/-- The plaintext of a ciphertext with its tag, none when the tag fails. -/
def gcmOpen (key iv aad sealed' : List Nat) : Option (List Nat) :=
  let keys := roundKeys key
  let ct := sealed'.take (sealed'.length - 16)
  if gcmTag keys iv aad ct == sealed'.drop (sealed'.length - 16) then some (gcmStream keys iv ct) else none

end Sys2Proof.Machine
end

