-- ==== Sys2Proof/Machine/Vault.lean ====
section
/-! DEFINITION. The Oasis vault OV (chapter 12): slots, derivation, import, lifecycle, tamper, entropy, and the VAULT
class. -/

namespace Sys2Proof.Machine

/-! ### Slots (12 R392 to R394) -/

/-- Slots a key of an ALG takes (Table 12-3); 0 for a code that is no key. -/
def algSpan (alg : Nat) : Nat := [1, 1, 1, 2, 2, 3].getD alg 0

/-- USAGE bits an ALG permits (12 R393). -/
def algUsage (alg : Nat) : Nat := [0xF3, 0x32, 0x08, 0x08, 0x04, 0x04].getD alg 0

/-- A combination of ALG and USAGE that R393 allows. -/
def usageOk (alg usage : Nat) : Bool := alg < 6 && usage < 2 ^ 8 && usage &&& algUsage alg == usage

/-- The attribute word of a slot (Table 12-3). -/
def Slot.attr (k : Slot) : Nat :=
  fld k.usage 24 8 + fld k.parent 16 8 + fld (b2n k.imported) 15 1 + fld (b2n k.exportable) 14 1 + fld (b2n k.lock) 13 1 +
  fld (b2n k.rootChild) 12 1 + fld k.alg 9 3 + fld (if k.orphaned then 2 else 1) 7 2 + fld (b2n k.owner) 6 1

/-- The attribute word of slot `n`, 0 for a FREE one. -/
def slotAttr (s : State) (n : Nat) : Nat := ((getSlot s n).map Slot.attr).getD 0

/-- Slot `n` is VALID and no CONT slot. -/
def slotValid (s : State) (n : Nat) : Bool :=
  match getSlot s n with | some k => !k.orphaned && k.alg != 6 | none => false

/-- Slot `n` holds a key, VALID or ORPHANED, and is no CONT slot. -/
def slotHeld (s : State) (n : Nat) : Bool := match getSlot s n with | some k => k.alg != 6 | none => false

/-- The status of a use of slot `n` that asks a USAGE bit of one of some ALGs: 0 when it may be used, BAD_PARAM, or
KEY_REVOKED for an ORPHANED slot (12 R393, R394). -/
def keyUse (s : State) (n usageBit : Nat) (algs : List Nat) : Nat :=
  match getSlot s n with
  | some k => if k.alg == 6 then 0x11 else if k.orphaned then 0x42 else if bit k.usage usageBit && algs.contains k.alg then 0 else 0x11
  | none => 0x11

/-- KEY_REVOKED of a use counts OV_KEY_REVOKED (Table 12-10). -/
def countRevoked (st : Nat) (s : State) : State := if st == 0x42 then count 0x10D018 s else s

/-- Slots that an operation in progress will write (12 R412). -/
def claimed (s : State) : List Nat :=
  (s.hi.ops.filter (fun o => o.phase != .waking)).flatMap (fun o => match o.cmd with
    | .vaultGenerate _ n alg _ _ => (List.range (algSpan alg)).map (n + ·)
    | .vaultDerive _ n _ alg _ _ _ => (List.range (algSpan alg)).map (n + ·)
    | .vaultImport _ p => (List.range (algSpan p.alg)).map (p.slot + ·)
    | _ => [])

/-- Every slot of a span is FREE and exists (12 R393, R412). -/
def spanFree (s : State) (n alg : Nat) : Bool :=
  n + algSpan alg ≤ 256 && (List.range (algSpan alg)).all (fun i => (getSlot s (n + i)).isNone && !(claimed s).contains (n + i))

/-- A CONT slot (12 R392). -/
def contSlot : Slot := ⟨0, 0, false, false, false, false, 6, false, false, 0, 0, none⟩

/-- A key is written to slot `n`, with CONT in the slots that follow (12 R392, R393). -/
def putKey (n : Nat) (k : Slot) (s : State) : State :=
  let t := tset s.ov.slots n k
  { s with ov := { s.ov with slots := (List.range (algSpan k.alg - 1)).foldl (fun t i => tset t (n + 1 + i) contSlot) t } }

/-- SAs whose SAK came from slot `n` are disabled, with SA_ORPHANED (03 R100). -/
def disableSas (n : Nat) (s : State) : State :=
  (List.range 4).foldl (fun s p =>
    let off := fun (t : Tbl Sa) => t.map (fun e => (e.1, if e.2.slot == n then { e.2 with disabled := true } else e.2))
    let hit := fun (t : Tbl Sa) => (t.filter (fun e => e.2.slot == n && !e.2.disabled)).map (·.1)
    let t := getPort s p
    let s' := updPort p (fun t => { t with txSa := off t.txSa, rxSa := off t.rxSa }) s
    let s' := (hit t.txSa).foldl (fun s a => note s.np.nq 1 0x07 2 (fld p 8 8 + a) s) s'
    (hit t.rxSa).foldl (fun s a => note s.np.nq 1 0x07 2 (2 ^ 31 + fld p 8 8 + fld (a / 4) 4 4 + a % 4) s) s') s

/-- Streams bound to slot `n` are quarantined (05 R169). -/
def quarantineBound (n : Nat) (s : State) : State :=
  (tkeys s.si.streams).foldl (fun s sid =>
    match getStream s sid with
    | some x => if (x.p.authMode == 2 || x.p.authMode == 3) && (x.p.keyCur == n || x.p.keyNext == n) then quarantine sid 2 s else s
    | none => s) s

/-- Every consumer of slot `n` reacts to its loss (12 R394). -/
def tellConsumers (n : Nat) (s : State) : State := revokeSessions n (disableSas n (quarantineBound n s))

/-- VALID children of slot `n`. -/
def childrenOf (s : State) (n : Nat) : List Nat :=
  (s.ov.slots.filter (fun e => e.2.alg != 6 && !e.2.rootChild && e.2.parent == n && !e.2.orphaned)).map (·.1)

/-- The descendants of a list of slots become ORPHANED, level by level; `root` is the destroyed ancestor (12 R394). -/
def orphanFrom (root : Nat) : Nat → List Nat → State → State × Nat
  | 0, _, s => (s, 0)
  | fuel + 1, l, s =>
    let kids := l.flatMap (childrenOf s)
    if kids.isEmpty then (s, 0)
    else
      let s := kids.foldl (fun s c =>
        match getSlot s c with
        | some k =>
          let s := { s with ov := { s.ov with slots := tset s.ov.slots c { k with orphaned := true } } }
          tellConsumers c (note s.ov.nq 12 0x01 2 (fld root 8 8 + c) (count 0x10D028 s))
        | none => s) s
      let (s, n) := orphanFrom root fuel kids s
      (s, n + kids.length)

/-- Slot `n` and its span become FREE, its descendants ORPHANED; the count of these (12 R394). -/
def destroySlot (n : Nat) (s : State) : State × Nat :=
  match getSlot s n with
  | none => (s, 0)
  | some k =>
    let s := { s with ov := { s.ov with slots := s.ov.slots.filter (fun e => !(n ≤ e.1 && e.1 < n + max 1 (algSpan k.alg))) } }
    orphanFrom n 256 [n] (tellConsumers n s)

/-! ### Key derivation (12 R396) -/

/-- The KDF in counter mode: the first `l` bits, for an input key, a label of 32 bytes and a context, as a number. -/
def kdf (kin label : Nat) (context : List Nat) (l : Nat) : Nat :=
  let block := fun (i : Nat) => hmacSha256 (beBytes 32 kin) (beBytes 4 (i + 1) ++ beBytes 32 label ++ [0] ++ context ++ beBytes 4 l)
  beNat (((List.range (ceilDiv l 256)).flatMap block).take (l / 8))

/-- The context: lc, attribute word with STATE zero, DEVICE_UID. -/
def kdfContext (lc attr uid : Nat) : List Nat := [lc] ++ beBytes 4 attr ++ beBytes 16 uid

/-- The key of an ALG derived from an input key: 256 bits, or a private key of a curve. -/
def deriveKey (alg kin label : Nat) (context : List Nat) : Nat :=
  if alg == 2 then kdf kin label context 320 % (p256.n - 1) + 1
  else if alg == 3 then kdf kin label context 448 % (p384.n - 1) + 1
  else kdf kin label context 256

/-! ### Root, derivation and blobs (12 R389, R396 to R399, R404) -/

/-- The root in force: the Mirage root while DEBUG is set (12 R404). -/
def rootInForce (s : State) : Option Nat := match s.ov.mirage with | some r => some r | none => s.ov.root

/-- The attribute word of the KDF context, STATE zero (12 R396). -/
def Slot.context (k : Slot) : Nat := k.attr / 2 ^ 9 * 2 ^ 9 + k.attr % 2 ^ 7

/-- A derived key: the root's child or a slot's, with its material (12 R396). -/
def derivedKey (s : State) (parent alg usage : Nat) (lock : Bool) (label : Nat) : Slot :=
  let k : Slot := ⟨usage, if parent == 0xFF then 0 else parent, false, false, lock, parent == 0xFF, alg, false, false, 0, 0, none⟩
  let kin := if parent == 0xFF then (rootInForce s).getD 0 else ((getSlot s parent).map (·.material)).getD (freeBits 256 s)
  { k with material := deriveKey alg kin label (kdfContext s.fuses.lifecycle.code k.context s.fuses.uid) }

/-- The key an import or an image entry of form 0, 1 or 2 writes (12 R397, Table 12-4). -/
def importedKey (form wrap alg usage : Nat) (exportable lock owner imported : Bool) (material : Nat) : Slot :=
  ⟨usage, if form == 1 then wrap else 0, form != 2 || imported, exportable, lock, form != 1, alg, false, owner, 0, material, none⟩

/-- The bits of an attribute word that a request states: USAGE, EXPORTABLE, LOCK, ALG, OWNER. -/
def attrRequest (usage alg : Nat) (exportable lock owner : Bool) : Nat :=
  fld usage 24 8 + fld (b2n exportable) 14 1 + fld (b2n lock) 13 1 + fld alg 9 3 + fld (b2n owner) 6 1

/-- The same bits of a word. -/
def attrStated (w : Nat) : Nat := fld (bits w 24 8) 24 8 + fld (bits w 13 2) 13 2 + fld (bits w 9 3) 9 3 + fld (bits w 6 1) 6 1

/-- An image key-table entry is sound (12 R389, R399): its ALG and USAGE agree, and a blob opens; a derivation from the
root and a form 2 blob need the root. -/
def keyEntryOpens (s : State) (p : KeyP) : Bool :=
  match p.form with
  | 0 => p.parent != 0xFF || (rootInForce s).isSome
  | 2 => p.opens && (rootInForce s).isSome
  | _ => p.opens

/-- The image defines slot `p.slot` as it stands (12 R399). -/
def keepsKey (s : State) (p : KeyP) : Bool :=
  match getSlot s p.slot with
  | some k => !k.orphaned && k.defn == some p
  | none => false

/-- A key-table entry is written. -/
def writeEntry (p : KeyP) (s : State) : State :=
  let k := if p.form == 0 then derivedKey s p.parent p.alg p.usage p.lock p.material
    else importedKey p.form p.parent p.alg p.usage p.exportable p.lock p.owner (p.origin == 1) p.material
  putKey p.slot { k with defn := some p } s

/-- CFG.COMMIT on the slots (12 R399): slots not kept are destroyed, then new entries are written in table order. -/
def commitKeys (keys : List KeyP) (s : State) : State :=
  let keep := (keys.filter (keepsKey s)).map (·.slot)
  let doomed := (s.ov.slots.filter (fun e => e.2.alg != 6 && !keep.contains e.1)).map (·.1)
  let s := doomed.foldl (fun s n => (destroySlot n s).1) s
  (keys.filter (fun p => !keep.contains p.slot)).foldl (fun s p => writeEntry p s) s

/-! ### Statements and random values (12 R400, R405, R406) -/

/-- The DRBG serves. -/
def drbgServes (s : State) : Bool := s.ov.entropyOk

/-- A request to the DRBG: 768 fresh bits, of which its user takes what it needs; a reseed falling due every 65,536 requests (12 R405). -/
def drawRandom (s : State) : Nat × State :=
  let v := freeBits 768 s
  let s := bumpFree s
  let n := s.ov.drbgReq + 1
  if n < 65536 then (v, { s with ov := { s.ov with drbgReq := n } })
  else (v, count 0x10D030 { s with ov := { s.ov with drbgReq := 0, reseedAt := s.tm.frc } })

/-- No statement can be made: STMT_CTR is used up (12 R400). -/
def stmtEnded (s : State) : Bool := s.cairn.stmtCtr ≥ 0xFFFFFFFF

/-- No further statement may be begun: the outstanding ones would take STMT_CTR to its end (12 R400). -/
def stmtTaken (s : State) : Bool :=
  0xFFFFFFFF ≤ s.cairn.stmtCtr + (s.hi.ops.filter (fun o => (o.opcode == 0x3016 || o.opcode == 0x2C0B) && o.phase != .waking)).length

/-- One statement is made: STMT_CTR advances, OV_SIGNS counts, COUNTER_LOW is queued when fewer than 2^20 values remain
(12 R400, Tables 12-10 and 12-11). -/
def takeStatement (s : State) : State :=
  let n := s.cairn.stmtCtr + 1
  let s := count 0x10D020 { s with cairn := { s.cairn with stmtCtr := n } }
  if n == 0xFFFFFFFF - 2 ^ 20 + 1 then note s.ov.nq 12 0x06 2 1 s else s

/-! ### Entropy (12 R405, R406) -/

/-- ENTROPY_FAIL (12 R406): the DRBG stops; FAULT_LATCHED comes with the severity 3 record. -/
def execEntropyFail (test : Nat) (s : State) : Host.Outcome State Fault Refusal :=
  .next (if !s.ov.entropyOk || s.pm.mode == .frozen then s
    else note s.ov.nq 12 0x03 3 (test % 4)
      (count 0x10D038 { s with ov := { s.ov with entropyOk := false, retestAt := some s.tm.frc } }))

/-- ENTROPY_RETEST (12 R406): every second a failed source is tested again; 1,024 passing samples in a row restart it. -/
def execEntropyRetest (passed : Nat) (s : State) : Host.Outcome State Fault Refusal :=
  .next (match s.ov.retestAt with
    | some a =>
      if s.pm.mode == .frozen || s.ov.entropyOk || s.tm.frc < a + 390625000 then s
      else if 1024 ≤ passed then note s.ov.nq 12 0x04 0 0
        { s with ov := { s.ov with entropyOk := true, retestAt := none, drbgReq := 0, reseedAt := s.tm.frc } }
      else { s with ov := { s.ov with retestAt := some s.tm.frc } }
    | none => s)

/-- DRBG_RESEED (12 R405): every second or 65,536 requests. -/
def execDrbgReseed (s : State) : Host.Outcome State Fault Refusal :=
  .next (if s.ov.entropyOk && s.pm.mode != .frozen && s.ov.reseedAt + 390625000 ≤ s.tm.frc then
      count 0x10D030 { s with ov := { s.ov with drbgReq := 0, reseedAt := s.tm.frc } }
    else s)

end Sys2Proof.Machine
end

