-- ==== Sys2Proof/Machine/StreamCmd.lean ====
section
/-! DEFINITION. The STREAM class (05 R189, R190, Table 5-12). -/

namespace Sys2Proof.Machine

/-- A STREAM opcode: it needs SI (order 5 of the handshake). -/
def streamSpec (opcode plen : Nat) (ok mode : Bool) : CmdSpec := { specM opcode plen ok mode with blk := 5 }

/-! ### The install block (05 R160, R167, R190) -/

/-- The reporting rates of Table 5-14. -/
def reportingRates : List Nat := [1, 10, 12, 15, 20, 25, 30, 50, 60, 100, 120, 200, 240]

/-- A full scale: neither zero, NaN nor infinite. -/
def fsOk (v : Nat) : Bool := finite v && v % 2 ^ 31 != 0

/-- The channels an R-SV member map uses. -/
def mappedChans (l : List Nat) : List Nat := (l.filter (bit · 7)).map (· % 64)

/-- Every full scale a stream uses is usable: those of its selected or mapped phasors and analogs. -/
def scalesOk (p : StreamP) : Bool :=
  let ph := if p.proto == 0 then List.range (popcount 64 p.phSel) else (mappedChans p.memberMap).filter (· < 32)
  let an := if p.proto == 0 then List.range (popcount 16 p.anSel)
    else ((mappedChans p.memberMap).filter (fun c => 34 ≤ c && c < 42)).map (· - 34)
  ph.all (fun i => fsOk (p.phFs.getD i 0)) && an.all (fun i => fsOk (p.anFs.getD i 0))

/-- Values of an install block (Table 5-13, Table 5-1, Table 5-2, 05 R190). -/
def streamOk (p : StreamP) : Bool :=
  p.sid < 16376 && flag p.proto && p.authMode < 4 && (p.authMode < 2 || p.proto == 1) && p.portMask < 16 &&
  (p.lane < 8 || p.lane == 0xFF) && flag p.method && flag p.align && reportingRates.contains p.rate &&
  (p.fnom == 50 || p.fnom == 60) && p.qlimit < 256 && p.srcAddr < 2 ^ 128 && p.udpDst < 2 ^ 16 && p.block < 8 &&
  p.keyCur < 256 && p.keyNext < 256 && (p.authMode != 1 || p.keyNext < 16) && p.tqMax < 16 && p.unlockMax < 4 &&
  p.idcode < 2 ^ 16 && p.keyIdCur < 2 ^ 32 && p.keyIdNext < 2 ^ 32 && p.format < 2 ^ 16 && p.framesize < 2 ^ 16 &&
  (p.proto == 1 || within 1 (2 ^ 24 - 1) p.timeBase) && p.blockOfs < 2 ^ 16 && p.phnmr ≤ 64 && p.annmr ≤ 16 && p.dgnmr ≤ 8 &&
  p.svidLen ≤ 64 && (p.proto == 0 || 1 ≤ p.svidLen) && p.phSel < 2 ^ 64 && popcount 64 p.phSel ≤ 32 && p.anSel < 2 ^ 16 &&
  popcount 16 p.anSel ≤ 8 && p.dgSel < 2 ^ 8 && popcount 8 p.dgSel ≤ 4 &&
  (mappedChans p.memberMap).all (· < 46) && scalesOk p

/-- ALG of the keys of an AUTH_MODE: HMAC for 2, AES for 3. -/
def authAlg (mode : Nat) : Nat := if mode == 2 then 1 else 0

/-- The status of binding a key slot to a stream: 0xFF binds none. -/
def bindStatus (mode slot : Nat) (s : State) : Nat := if mode < 2 || slot == 0xFF then 0 else keyUse s slot 4 [authAlg mode]

/-- Two streams have the same key, and the same BLOCK where the key does not tell them apart (05 R160). -/
def sameKey (a b : StreamP) : Bool :=
  a.proto == b.proto && a.srcAddr == b.srcAddr && a.udpDst == b.udpDst &&
  (if a.proto == 0 then a.idcode == b.idcode && a.block == b.block else a.svid == b.svid)

/-- Network streams installed. -/
def netStreams (s : State) : List StreamP := (s.si.streams.filter (fun e => e.1 < 16376)).map (·.2.p)

/-- Install blocks of STREAM.INSTALL commands under way. -/
def pendingInstalls (s : State) : List StreamP :=
  (opsWith s (fun _ => true)).filterMap (fun o => match o.cmd with
    | .streamInstall _ p => some p
    | _ => none)

/-- Hash bucket of a stream's key. -/
def bucketOf (p : StreamP) : Nat := Config.streamBucket p.srcAddr p.udpDst p.idcode p.svid

/-- Entries that stand in the CAM: those beyond the fourth of their bucket. -/
def camUsed : List StreamP → List StreamP → Nat
  | _, [] => 0
  | seen, p :: l => b2n (4 ≤ (seen.filter (fun q => bucketOf q == bucketOf p)).length) + camUsed (p :: seen) l

/-- The bucket of a key and the CAM are both full with the streams `l` (05 R160). -/
def tableFull (l : List StreamP) (p : StreamP) : Bool :=
  4 ≤ (l.filter (fun q => bucketOf q == bucketOf p)).length && 256 ≤ camUsed [] l

/-- The class-specific first status of STREAM.INSTALL; installs under way hold their place in the table. -/
def installStatus (p : StreamP) (s : State) : Nat :=
  let cur := bindStatus p.authMode p.keyCur s
  let next := bindStatus p.authMode p.keyNext s
  firstBad [(cur != 0, cur), (next != 0, next), ((getStream s p.sid).isSome || (netStreams s).any (sameKey p), 0x11),
    ((pendingInstalls s).any (fun q => q.sid == p.sid || sameKey p q), 0x22), (tableFull (netStreams s ++ pendingInstalls s) p, 0x30)]

/-- An accepted STREAM.INSTALL can still be carried out: its slot is empty, its key new, and the table has room. -/
def installStands (p : StreamP) (s : State) : Bool :=
  (getStream s p.sid).isNone && !(netStreams s).any (sameKey p) && !tableFull (netStreams s) p

/-- The lane of an install block: the one given, or the lane with the least admitted burst weight, the lowest on a tie
(05 R161). -/
def laneFor (s : State) (p : StreamP) : Nat :=
  if p.lane != 0xFF then p.lane
  else
    let load := fun l => listSum (((netStreams s).filter (fun q => q.lane == l)).map frameWeight)
    (List.range 8).foldl (fun b l => if load l < load b then l else b) 0

/-- A stream as it starts (05 R183, R185). -/
def Stream.fresh (p : StreamP) (byCommand : Bool) : Stream :=
  { state := .listening, p := p, byCommand := byCommand, staleN := 3, lostN := 250, failCur := 0, failPrev := 0, failSec := 0, failFrc := none,
    spdu := none, hist := [], n := 0, restart := true, lastTag := 0, lastStamp := none, stat10 := false }

/-- A stream is put into its slot, without its notice. -/
def placeStream (p : StreamP) (byCommand : Bool) (s : State) : State :=
  { s with si := { s.si with streams := tset s.si.streams p.sid (Stream.fresh { p with lane := laneFor s p } byCommand) } }

/-- A stream is installed (05 R183); one whose key has been lost meanwhile is quarantined at once (05 R169). -/
def installStream (p : StreamP) (byCommand : Bool) (s : State) : State :=
  let s := noteState p.sid .unconfigured .listening (placeStream p byCommand s)
  if bindStatus p.authMode p.keyCur s == 0 && bindStatus p.authMode p.keyNext s == 0 then s else quarantine p.sid 2 s

/-- STREAM.INSTALL: AUTH is required when AUTH_MODE is NONE. -/
def procStreamInstall (h : Hdr) (p : StreamP) (s : State) : Proc :=
  ⟨h, { streamSpec 0x1000 576 (streamOk p) (serving s) with auth := if p.authMode == 0 then .owner else .free, cfgBusy := true },
   .accepted .running (installStatus p) (fun _ s => s) (fun s => countRevoked (installStatus p s) s)⟩

def execStreamInstall (h : Hdr) (p : StreamP) (s : State) : Host.Outcome State Fault Refusal :=
  .next (runProc (.streamInstall h p) (procStreamInstall h p s) s)

/-- The final completion of STREAM.INSTALL. -/
def finishInstall (o : OpEntry) (p : StreamP) (hwFault : Bool) (s : State) : State :=
  if hwFault || !installStands p s then finalCompletion o 0x60 [] s
  else if !admitted (placeStream p true s) then finalCompletion o 0x31 [] s
  else finalCompletion o 0 [] (installStream p true s)

/-! ### Removal, keys, release -/

/-- A stream leaves its slot (Table 5-6). -/
def removeStream (sid : Nat) (s : State) : State :=
  let s := setStreamState sid .unconfigured s
  { s with si := { s.si with streams := tdel s.si.streams sid } }

/-- STREAM.REMOVE. -/
def procStreamRemove (h : Hdr) (sid : Nat) (s : State) : Proc :=
  ⟨h, streamSpec 0x1001 2 (sid < 16376) (serving s),
   .done (fun s =>
     let st := firstBad [((pendingInstalls s).any (fun q => q.sid == sid), 0x22), ((getStream s sid).isNone, 0x11)]
     refuseIf (st != 0) st (effect (removeStream sid)) s)⟩

def execStreamRemove (h : Hdr) (sid : Nat) (s : State) : Host.Outcome State Fault Refusal :=
  .next (runProc (.streamRemove h sid) (procStreamRemove h sid s) s)

/-- A stream takes its next key; the SPDU number of the next frame is exempt (05 R168). -/
def rekey (sid keyNext keyIdNext : Nat) (s : State) : State :=
  updStream sid (fun x => { x with p := { x.p with keyNext := keyNext, keyIdNext := keyIdNext }, spdu := none }) s

/-- The status of STREAM.REKEY: only R-SV streams under AUTH_MODE 2 or 3. -/
def rekeyStatus (sid keyNext : Nat) (s : State) : Nat :=
  match getStream s sid with
  | none => 0x11
  | some x => if x.p.proto == 0 || x.p.authMode < 2 then 0x11 else bindStatus x.p.authMode keyNext s

/-- STREAM.REKEY. -/
def procStreamRekey (h : Hdr) (sid keyNext keyIdNext : Nat) (s : State) : Proc :=
  ⟨h, { streamSpec 0x1002 8 (sid < 16376 && keyNext < 256 && keyIdNext < 2 ^ 32) (serving s) with auth := .owner },
   .done (fun s =>
     let st := rekeyStatus sid keyNext s
     if st != 0 then ⟨st, [], countRevoked st s⟩ else ⟨0, [], rekey sid keyNext keyIdNext s⟩)⟩

def execStreamRekey (h : Hdr) (sid keyNext keyIdNext : Nat) (s : State) : Host.Outcome State Fault Refusal :=
  .next (runProc (.streamRekey h sid keyNext keyIdNext) (procStreamRekey h sid keyNext keyIdNext s) s)

/-- A quarantined stream is released (05 R168, R169). A failure of this very edge counts 1 in the fresh counts, the release acting
first (05 R170), which under QLIMIT 1 quarantines it again. -/
def releaseStream (sid : Nat) (s : State) : State :=
  let met := (getStream s sid).any (fun x => x.failFrc == some s.tm.frc)
  let s := setStreamState sid .listening
    (updStream sid (fun x => { x.clear with failCur := 0, failPrev := 0, spdu := none, failFrc := none }) s)
  if met then failStream sid s else s

/-- STREAM.RELEASE. -/
def procStreamRelease (h : Hdr) (sid : Nat) (s : State) : Proc :=
  ⟨h, { streamSpec 0x1003 2 (sid < 16376) (serving s) with auth := .owner },
   .done (fun s => refuseIf ((getStream s sid).map (·.state) != some .quarantined) 0x11 (effect (releaseStream sid)) s)⟩

def execStreamRelease (h : Hdr) (sid : Nat) (s : State) : Host.Outcome State Fault Refusal :=
  .next (runProc (.streamRelease h sid) (procStreamRelease h sid s) s)

/-! ### Queries and settings -/

/-- What STREAM.QUERY answers: tag, state, n, failures, and the lowest pipeline the stream can reach. -/
def streamAnswer (sid : Nat) (s : State) : List Nat :=
  match getStream s sid with
  | none => List.replicate 14 0
  | some x =>
    let f := x.failuresAt (nowSec s)
    let pipe := if sid < 16376 then (pipesOf s x.p).headD 0 else 0
    DT80.bytes (dt80Of x.lastTag) ++ [x.state.code, min 255 x.n, min 255 (f.1 + f.2), pipe]

/-- STREAM.QUERY. -/
def procStreamQuery (h : Hdr) (sid : Nat) (s : State) : Proc :=
  ⟨h, streamSpec 0x1004 2 (sid < 16384) (inOpen s), .done (answer (streamAnswer sid))⟩

def execStreamQuery (h : Hdr) (sid : Nat) (s : State) : Host.Outcome State Fault Refusal :=
  .next (runProc (.streamQuery h sid) (procStreamQuery h sid s) s)

/-- STREAM.SET_TIMERS. -/
def procStreamSetTimers (h : Hdr) (sid staleN lostN : Nat) (s : State) : Proc :=
  ⟨h, streamSpec 0x1005 6 (sid < 16384 && within 1 255 staleN && within (staleN + 1) 65535 lostN) (serving s),
   .done (fun s => refuseIf (getStream s sid).isNone 0x11
     (effect (updStream sid (fun x => { x with staleN := staleN, lostN := lostN }))) s)⟩

def execStreamSetTimers (h : Hdr) (sid staleN lostN : Nat) (s : State) : Host.Outcome State Fault Refusal :=
  .next (runProc (.streamSetTimers h sid staleN lostN) (procStreamSetTimers h sid staleN lostN s) s)

/-- STREAM.LIST (02 R499). -/
def procStreamList (h : Hdr) (addr len : Nat) (s : State) : Proc :=
  ⟨h, { streamSpec 0x1006 12 (bufferOk addr && len < 2 ^ 32) (inOpen s) with lenOk := 16384 ≤ len }, later (fun _ => 0)⟩

def execStreamList (h : Hdr) (addr len : Nat) (s : State) : Host.Outcome State Fault Refusal :=
  .next (runProc (.streamList h addr len) (procStreamList h addr len s) s)

/-- The buffer of STREAM.LIST: the state of every slot that is not UNCONFIGURED, as 2^8 x SID + STATE; every other byte of
the 16,384 is 0. -/
def finishList (o : OpEntry) (addr : Nat) (s : State) : State :=
  finalCompletion o 0 [] (hostOut addr 0x1006 (s.si.streams.map (fun e => 2 ^ 8 * e.1 + e.2.state.code)) s)

/-- Values of STREAM.GCONFIG (Table 5-8). -/
def siOk (p : SiP) : Bool := p.nq < 32 && p.tagTolUs ≤ 1000 && within 100 10000 p.burstUs

/-- SI takes its global settings. -/
def setSi (p : SiP) (s : State) : State :=
  { s with si := { s.si with nq := p.nq, tagTolUs := p.tagTolUs, burstUs := p.burstUs } }

/-- STREAM.GCONFIG: BURST_SPREAD_US enters resource 3 (05 R163). -/
def procStreamGconfig (h : Hdr) (p : SiP) (s : State) : Proc :=
  ⟨h, { streamSpec 0x1010 6 (siOk p) (inCommission s) with cfgBusy := true },
   .done (fun s => refuseIf (!admitted (setSi p s)) 0x31 (effect (setSi p)) s)⟩

def execStreamGconfig (h : Hdr) (p : SiP) (s : State) : Host.Outcome State Fault Refusal :=
  .next (runProc (.streamGconfig h p) (procStreamGconfig h p s) s)

/-- The counters of a range of slots, or with COUNT 0 the global ones and the highest backlogs. -/
def clearStreams (first count : Nat) (s : State) : State :=
  if count == 0 then
    let s := clearCounters (siCtr 0) 0x100 s
    { s with si := { s.si with high := s.si.pipes.map (fun e => (e.1, e.2.length)) } }
  else clearCounters (strCtr first 0) (0x40 * count) s

/-- STREAM.CLEAR_COUNTERS. -/
def procStreamClearCounters (h : Hdr) (first count : Nat) (s : State) : Proc :=
  ⟨h, streamSpec 0x1020 4 (first < 16384 && first + count ≤ 16384) (inOpen s), .done (effect (clearStreams first count))⟩

def execStreamClearCounters (h : Hdr) (first count : Nat) (s : State) : Host.Outcome State Fault Refusal :=
  .next (runProc (.streamClearCounters h first count) (procStreamClearCounters h first count s) s)

end Sys2Proof.Machine
end

