-- ==== Sys2Proof/Machine/GroupCmd.lean ====
section
/-! DEFINITION. The GROUP class (06 R194, R196, R212, R227, Table 6-15). -/

namespace Sys2Proof.Machine

/-- A GROUP opcode: it needs the Erg (order 4 of the handshake). -/
def groupSpec (opcode plen : Nat) (ok mode : Bool) : CmdSpec := { specM opcode plen ok mode with blk := 4 }

/-- A GROUP opcode that changes configuration. -/
def groupCfg (opcode plen : Nat) (ok : Bool) (s : State) : CmdSpec :=
  { groupSpec opcode plen ok (serving s) with cfgBusy := true }

/-! ### Definitions (06 R194, R222) -/

/-- A group is defined and enabled: neither shed nor ended. -/
def groupLive (s : State) (gid : Nat) : Bool := (getGroup s gid).any (·.en)

/-- Timing values of a group of a rate (Table 6-3). -/
def timingOk (rate expect windowUs horizonUs lateSpanUs amendMs : Nat) : Bool :=
  expect ≤ 2 && windowUs * rate ≤ 16000000 && horizonUs * rate ≤ 1000000 && lateSpanUs * rate ≤ 16000000 && within 1 255 amendMs

/-- Values of a group (Table 6-3). -/
def groupOk (p : GroupP) : Bool :=
  p.gid < 64 && p.latePolicy ≤ 2 && reportingRates.contains p.rate && timeOk p.epoch &&
  timingOk p.rate p.expect p.windowUs p.horizonUs p.lateSpanUs p.amendMs

/-- A group is set up and opens from its next instant (06 R197); instants of an earlier definition go on to their end. -/
def placeGroup (p : GroupP) (members : List Nat) (byCommand : Bool) (s : State) : State :=
  setGroup p.gid
    { en := true, p := p, members := members, byCommand := byCommand, shed := false, lastIndex := 0, lastDeadline := false,
      lastGap := false, next := nextAfter p (now s), front := nextAfter p (now s) - 1, gapCount := 0,
      instants := ((getGroup s p.gid).map (·.instants)).getD [] } s

/-- A group ends: it opens no more, and goes when its released instants have retired (06 R222). -/
def endGroup (gid : Nat) (s : State) : State :=
  match getGroup s gid with
  | none => s
  | some g =>
    if g.instants.isEmpty then { s with erg := { s.erg with groups := tdel s.erg.groups gid } }
    else setGroup gid { g with en := false, shed := false, members := [] } s

/-- The group an outstanding GROUP command will change or name. -/
def groupPending : Instr → Option Nat
  | .groupDefine _ p => some p.gid
  | .groupMembers _ gid _ _ _ => some gid
  | .groupSetTiming _ p => some p.gid
  | .groupSessionDefine _ p => some p.gid
  | _ => none

/-- A change of a group is under way. -/
def groupBusy (s : State) (gid : Nat) : Bool := !(opsWith s (fun c => groupPending c == some gid)).isEmpty

/-- Ends a definition command at its admission check. -/
def finishAdmit (o : OpEntry) (ok : Bool) (change : State → State) (s : State) : State :=
  if !ok then finalCompletion o 0x60 [] s
  else if !admitted (change s) then finalCompletion o 0x31 [] s
  else finalCompletion o 0 [] (reMode (change s))

/-- GROUP.DEFINE. -/
def procGroupDefine (h : Hdr) (p : GroupP) (s : State) : Proc :=
  ⟨h, groupCfg 0x1400 36 (groupOk p) s,
   later (fun s => firstBad [(groupLive s p.gid, 0x11), (groupBusy s p.gid, 0x22)])⟩

def execGroupDefine (h : Hdr) (p : GroupP) (s : State) : Host.Outcome State Fault Refusal :=
  .next (runProc (.groupDefine h p) (procGroupDefine h p s) s)

/-- The final completion of GROUP.DEFINE; a group that a commit has defined meanwhile stands. -/
def finishGroupDefine (o : OpEntry) (p : GroupP) (hwFault : Bool) (s : State) : State :=
  finishAdmit o (!hwFault && !groupLive s p.gid) (placeGroup p [] true) s

/-- Open instants of a group are discarded without release. -/
def discardOpen (gid : Nat) (s : State) : State :=
  match getGroup s gid with
  | none => s
  | some g =>
    let opened := g.instants.filter (fun i => i.st == .opened)
    let s := freeCells (listSum (opened.map Instant.held)) s
    countN (grpCtr gid 0x68) opened.length (setGroup gid { g with instants := g.instants.filter (fun i => i.st != .opened) } s)

/-- A session, AQ channel or job graph refers to a group. -/
def groupReferred (s : State) (gid : Nat) : Bool :=
  s.erg.sessions.any (fun e => e.2.p.gid == gid) || s.aq.chans.any (fun e => e.2.p.gid == gid) ||
  s.cv.jobs.any (fun e => e.2.bound.contains gid)

/-- GROUP.DELETE: a shed group may be deleted too. -/
def procGroupDelete (h : Hdr) (gid : Nat) (s : State) : Proc :=
  ⟨h, groupCfg 0x1401 1 (gid < 64) s,
   .done (fun s =>
     let absent := !(groupLive s gid || (getGroup s gid).any (·.shed))
     let st := firstBad [(absent || groupReferred s gid, 0x11), (groupBusy s gid, 0x22)]
     refuseIf (st != 0) st (effect (fun s => reMode (endGroup gid (discardOpen gid s)))) s)⟩

def execGroupDelete (h : Hdr) (gid : Nat) (s : State) : Host.Outcome State Fault Refusal :=
  .next (runProc (.groupDelete h gid) (procGroupDelete h gid s) s)

/-- The groups a stream is a member of. -/
def groupsOf (s : State) (sid : Nat) : Nat :=
  (s.erg.groups.filter (fun e => e.2.members.contains sid)).length

/-- The groups a stream is a member of or that an outstanding GROUP.MEMBERS adds it to. -/
def groupsTaken (s : State) (sid : Nat) : Nat :=
  groupsOf s sid + (opsWith s (fun c => match c with | .groupMembers _ _ op _ sids => op == 0 && sids.contains sid | _ => false)).length

/-- The member list after GROUP.MEMBERS. -/
def newMembers (op : Nat) (sids members : List Nat) : List Nat :=
  if op == 0 then members ++ sids.filter (fun x => !members.contains x) else members.filter (fun x => !sids.contains x)

/-- The status of GROUP.MEMBERS. -/
def membersStatus (gid op : Nat) (sids : List Nat) (s : State) : Nat :=
  match getGroup s gid with
  | none => 0x11
  | some g =>
    firstBad [(!g.en, 0x11),
      (sids.any (fun x => if op == 0 then g.members.contains x || (getStream s x).isNone else !g.members.contains x), 0x11),
      (groupBusy s gid, 0x22),
      (op == 0 && sids.any (fun x => 4 ≤ groupsTaken s x), 0x30)]

/-- What GROUP.MEMBERS changes still stands: the streams it adds are installed, new to the group and in fewer than 4 groups
(01 R19), the ones it removes are members. -/
def membersStand (gid op : Nat) (sids : List Nat) (s : State) : Bool :=
  (getGroup s gid).any (fun g => sids.all (fun x =>
    if op == 0 then !g.members.contains x && (getStream s x).isSome && groupsOf s x < 4 else g.members.contains x))

/-- GROUP.MEMBERS. -/
def procGroupMembers (h : Hdr) (gid op count : Nat) (sids : List Nat) (s : State) : Proc :=
  ⟨h, groupCfg 0x1402 (4 + 2 * count)
      (gid < 64 && flag op && within 1 2046 count && sids.length == count && sids.all (· < 16384) && sids.eraseDups.length == count) s,
   later (membersStatus gid op sids)⟩

def execGroupMembers (h : Hdr) (gid op count : Nat) (sids : List Nat) (s : State) : Host.Outcome State Fault Refusal :=
  .next (runProc (.groupMembers h gid op count sids) (procGroupMembers h gid op count sids s) s)

/-- A group changed in place. -/
def changeGroup (gid : Nat) (f : Group → Group) (s : State) : State :=
  match getGroup s gid with
  | some g => setGroup gid (f g) s
  | none => s

/-- The final completion of a change of a group: a group that is gone meanwhile is left so. -/
def finishGroupChange (o : OpEntry) (gid : Nat) (f : Group → Group) (hwFault : Bool) (s : State) : State :=
  finishAdmit o (!hwFault && groupLive s gid) (changeGroup gid f) s

/-- Frames that wait in SI's pipelines still bear the memberships that GROUP.MEMBERS removes (06 R225). -/
def leaveWaiting (gid op : Nat) (sids : List Nat) (s : State) : State :=
  if op == 0 then s
  else { s with si := { s.si with pipes := s.si.pipes.map (fun q =>
    (q.1, q.2.map (fun f => { f with leaving := f.leaving ++ sids.map (fun x => (gid, x)) }))) } }

/-- The final completion of GROUP.MEMBERS. -/
def finishGroupMembers (o : OpEntry) (gid op : Nat) (sids : List Nat) (hwFault : Bool) (s : State) : State :=
  finishAdmit o (!hwFault && groupLive s gid && membersStand gid op sids s)
    (fun s => leaveWaiting gid op sids (changeGroup gid (fun g => { g with members := newMembers op sids g.members }) s)) s

/-- The status of GROUP.SET_TIMING. -/
def timingStatus (p : TimingP) (s : State) : Nat :=
  match getGroup s p.gid with
  | none => 0x11
  | some g =>
    firstBad [(!g.en || !timingOk g.p.rate p.expect p.windowUs p.horizonUs p.lateSpanUs p.amendMs, 0x11),
      (groupBusy s p.gid, 0x22)]

/-- GROUP.SET_TIMING. -/
def procGroupSetTiming (h : Hdr) (p : TimingP) (s : State) : Proc :=
  ⟨h, groupCfg 0x1403 20 (p.gid < 64 && timingOk 1 p.expect p.windowUs p.horizonUs p.lateSpanUs p.amendMs) s,
   later (timingStatus p)⟩

def execGroupSetTiming (h : Hdr) (p : TimingP) (s : State) : Host.Outcome State Fault Refusal :=
  .next (runProc (.groupSetTiming h p) (procGroupSetTiming h p s) s)

/-- The final completion of GROUP.SET_TIMING (06 R196). -/
def finishSetTiming (o : OpEntry) (p : TimingP) (hwFault : Bool) (s : State) : State :=
  finishGroupChange o p.gid (fun g => { g with
    p := { g.p with
      expect := p.expect
      windowUs := p.windowUs
      horizonUs := p.horizonUs
      lateSpanUs := p.lateSpanUs
      amendMs := p.amendMs } }) hwFault s

/-- What GROUP.QUERY answers: last released index, ERG_GRP_STAT, cells held. -/
def groupAnswer (gid : Nat) (s : State) : List Nat :=
  match getGroup s gid with
  | none => List.replicate 16 0
  | some g => leBytes 8 g.lastIndex ++ leBytes 4 (grpStat g) ++ leBytes 4 (groupHeld g)

/-- GROUP.QUERY. -/
def procGroupQuery (h : Hdr) (gid : Nat) (s : State) : Proc :=
  ⟨h, groupSpec 0x1404 1 (gid < 64) (inOpen s), .done (answer (groupAnswer gid))⟩

def execGroupQuery (h : Hdr) (gid : Nat) (s : State) : Host.Outcome State Fault Refusal :=
  .next (runProc (.groupQuery h gid) (procGroupQuery h gid s) s)

/-! ### Sessions (06 R212 to R215) -/

/-- Values of a session block (Table 6-6). -/
def sessionOk (p : SessionP) : Bool :=
  p.session < 128 && p.gid < 64 && p.target ≤ 5 && p.queue ≤ 6 && flag p.format && p.keySlot < 256 && p.sig ≤ 2 &&
  p.first < 16384 && within 1 16384 p.count && p.idcode < 2 ^ 16 && p.formatWord < 16 && p.timeBase < 2 ^ 32 &&
  p.dstMac < 2 ^ 48 && p.vlanTci < 2 ^ 16 && p.dscp < 64 && p.ttl < 256 && p.srcUdp < 2 ^ 16 && p.dstUdp < 2 ^ 16 &&
  p.srcIp < 2 ^ 128 && p.dstIp < 2 ^ 128 && p.keyId < 2 ^ 32 && p.svidLen ≤ 64 &&
  (if p.format == 0 then within 1 (2 ^ 24 - 1) p.timeBase else 1 ≤ p.svidLen)

/-- The signing slot of an R-SV session carries MAC_GEN (06 R214): HMAC for SIG 1, AES for SIG 2. -/
def signingOk (p : SessionP) (s : State) : Bool :=
  p.format == 0 || p.sig == 0 || keyUse s p.keySlot 5 [if p.sig == 1 then 1 else 0] == 0

/-- The status of GROUP.SESSION_DEFINE. -/
def sessionStatus (p : SessionP) (s : State) : Nat :=
  match getGroup s p.gid with
  | none => 0x11
  | some g =>
    firstBad [(!g.en || (p.format == 0 && p.timeBase % g.p.rate != 0) || !signingOk p s, 0x11),
      ((tfind s.erg.sessions p.session).any (·.en), 0x22),
      (!(opsWith s (fun c => match c with
        | .groupSessionDefine _ q => q.session == p.session
        | _ => false)).isEmpty, 0x22)]

/-- GROUP.SESSION_DEFINE. -/
def procGroupSessionDefine (h : Hdr) (p : SessionP) (s : State) : Proc :=
  ⟨h, groupCfg 0x1408 144 (sessionOk p) s, later (sessionStatus p)⟩

def execGroupSessionDefine (h : Hdr) (p : SessionP) (s : State) : Host.Outcome State Fault Refusal :=
  .next (runProc (.groupSessionDefine h p) (procGroupSessionDefine h p s) s)

/-- A session is set up. -/
def placeSession (p : SessionP) (en byCommand : Bool) (s : State) : State :=
  { s with erg := { s.erg with
      sessions := tset s.erg.sessions p.session
        { p := p, en := en, keyRevoked := false, sent := 0, spdu := 0, byCommand := byCommand } } }

/-- The final completion of GROUP.SESSION_DEFINE: the session starts disabled. What the first completion tested is tested again. -/
def finishSessionDefine (o : OpEntry) (p : SessionP) (hwFault : Bool) (s : State) : State :=
  finishAdmit o (!hwFault && signingOk p s && groupLive s p.gid && !(tfind s.erg.sessions p.session).any (·.en)) (placeSession p false true) s

/-- GROUP.SESSION_DELETE. -/
def procGroupSessionDelete (h : Hdr) (session : Nat) (s : State) : Proc :=
  ⟨h, groupCfg 0x1409 1 (session < 128) s,
   .done (fun s => refuseIf (tfind s.erg.sessions session).isNone 0x11
     (effect (fun s => { s with erg := { s.erg with sessions := tdel s.erg.sessions session } })) s)⟩

def execGroupSessionDelete (h : Hdr) (session : Nat) (s : State) : Host.Outcome State Fault Refusal :=
  .next (runProc (.groupSessionDelete h session) (procGroupSessionDelete h session s) s)

/-- A session is enabled or disabled. -/
def enableSession (session : Nat) (en : Bool) (s : State) : State :=
  match tfind s.erg.sessions session with
  | some x => { s with erg := { s.erg with sessions := tset s.erg.sessions session { x with en := en } } }
  | none => s

/-- The status of GROUP.SESSION_ENABLE: a session whose key is lost stays disabled (06 R214). -/
def sessionEnableStatus (session en : Nat) (s : State) : Nat :=
  match tfind s.erg.sessions session with
  | none => 0x11
  | some x => firstBad [(en == 1 && x.keyRevoked, 0x11), (en == 1 && !admitted (enableSession session true s), 0x31)]

/-- GROUP.SESSION_ENABLE. -/
def procGroupSessionEnable (h : Hdr) (session en : Nat) (s : State) : Proc :=
  ⟨h, groupCfg 0x140A 2 (session < 128 && flag en) s,
   .done (fun s =>
     let st := sessionEnableStatus session en s
     refuseIf (st != 0) st (effect (enableSession session (en == 1))) s)⟩

def execGroupSessionEnable (h : Hdr) (session en : Nat) (s : State) : Host.Outcome State Fault Refusal :=
  .next (runProc (.groupSessionEnable h session en) (procGroupSessionEnable h session en s) s)

/-! ### Cells, counters, global settings -/

/-- GROUP.READ_CELL reads only instants in OPEN or RELEASED. -/
def readable (s : State) (gid index : Nat) : Bool := (getInstant s gid index).any (fun i => i.st != .trailing)

/-- GROUP.READ_CELL. -/
def procGroupReadCell (h : Hdr) (gid sid index addr len : Nat) (s : State) : Proc :=
  ⟨h, { groupSpec 0x1410 28 (gid < 64 && sid < 16384 && index < 2 ^ 40 && bufferOk addr && len < 2 ^ 32) (serving s) with
        lenOk := 352 ≤ len },
   later (fun s => if readable s gid index then 0 else 0x11)⟩

def execGroupReadCell (h : Hdr) (gid sid index addr len : Nat) (s : State) : Host.Outcome State Fault Refusal :=
  .next (runProc (.groupReadCell h gid sid index addr len) (procGroupReadCell h gid sid index addr len s) s)

/-- The cell of a member of an instant: on time, in its open batch, or late on its way to AQ (06 R206, R207). -/
def Instant.cellOf (i : Instant) (sid : Nat) : Option Cell :=
  match tfind i.cells sid with
  | some c => some c
  | none => match i.batch.bind (fun b => tfind b.2 sid) with
    | some c => some c
    | none => tfind i.lates sid

/-- The 22 words of a cell are read; the flag says that none was uncorrectable (06 R223). -/
def readAll (c : Cell) (s : State) : Bool × State :=
  if s.ec.flips.isEmpty then (true, s)
  else (cellPlaces c.cellNo).foldl (fun (ok, s) p =>
    let (good, s) := readGood p.1 p.2 s
    (ok && good, s)) (true, s)

/-- The final completion of GROUP.READ_CELL: RESULT byte 0 is 1 when there is no cell. -/
def finishReadCell (o : OpEntry) (gid sid index addr : Nat) (dataBad : Bool) (s : State) : State :=
  match (getInstant s gid index).bind (fun i => i.cellOf sid) with
  | none => finalCompletion o 0 [1] s
  | some c =>
    let (ok, s) := readAll c s
    if dataBad || !ok then finalCompletion o 0x61 [] s
    else finalCompletion o 0 [0] (hostOut addr 0x1410 (cellWords gid index sid c) s)

/-- Per-group counters of a mask, or with mask 0 the global ones and the low-water mark. -/
def clearGroups (mask : Nat) (s : State) : State :=
  if mask == 0 then
    let s := clearCounters 0x104000 0x1000 s
    { s with erg := { s.erg with low := s.erg.free } }
  else (bitList 64 mask).foldl (fun s g => clearCounters (grpCtr g 0) 0x80 s) s

/-- GROUP.CLEAR_COUNTERS. -/
def procGroupClearCounters (h : Hdr) (mask : Nat) (s : State) : Proc :=
  ⟨h, groupSpec 0x1420 8 (mask < 2 ^ 64) (serving s), .done (effect (clearGroups mask))⟩

def execGroupClearCounters (h : Hdr) (mask : Nat) (s : State) : Host.Outcome State Fault Refusal :=
  .next (runProc (.groupClearCounters h mask) (procGroupClearCounters h mask s) s)

/-- Values of GROUP.GCONFIG (Table 6-9, 06 R208, R210). -/
def ergOk (p : ErgP) : Bool := p.nq < 32 && p.headroom ≤ 128 && p.lowMark ≤ 262144

/-- The Erg takes its global settings. -/
def setErg (p : ErgP) (s : State) : State :=
  { s with erg := { s.erg with nq := p.nq, headroom := p.headroom, lowMark := p.lowMark } }

/-- GROUP.GCONFIG: HEADROOM enters resource 1 (06 R208). -/
def procGroupGconfig (h : Hdr) (p : ErgP) (s : State) : Proc :=
  ⟨h, { groupSpec 0x1421 8 (ergOk p) (inCommission s) with cfgBusy := true },
   .done (fun s => refuseIf (!admitted (setErg p s)) 0x31 (effect (setErg p)) s)⟩

def execGroupGconfig (h : Hdr) (p : ErgP) (s : State) : Host.Outcome State Fault Refusal :=
  .next (runProc (.groupGconfig h p) (procGroupGconfig h p s) s)

end Sys2Proof.Machine
end

