-- ==== Sys2Proof/Machine/CaravanCmd.lean ====
section
/-! DEFINITION. The CARAVAN class (07 R228, R231, R235, R237, R242, R260, Table 7-11). -/

namespace Sys2Proof.Machine

/-- A CARAVAN opcode: it needs Caravan (order 3 of the handshake). -/
def caravanSpec (opcode plen : Nat) (ok mode : Bool) : CmdSpec := { specM opcode plen ok mode with blk := 3 }

/-! ### Graphs -/

/-- Values of a node descriptor (Table 7-1). -/
def nodeOk (d : NodeP) : Bool :=
  d.node < 32 && d.level < 16 && within 1 16 d.gang && within 1 16 d.ckptPages && within 16384 65535 d.flow && d.program < 2 ^ 16 &&
  within 1000 4000000 d.budgetNs && d.residentPages ≤ 1024 && d.stage ≤ 4 && flag d.crypto && d.delayUs ≤ 1000000 &&
  d.pred.length == 4 && d.pred.all (fun q => q < 32 || q == 0xFF) && (d.chain < 1024 || d.chain == 0xFFFF)

/-- A solve node has the topology node as a predecessor (08 R285). -/
def solveFollows (p : JobP) : Bool :=
  let topo := (p.nodes.filter (·.stage == 1)).map (·.node)
  p.nodes.all (fun d => d.stage != 3 || (predsOf d).any topo.contains)

/-- Values of a graph (07 R228), R231 over its nodes, and 08 R285. -/
def jobOk (p : JobP) : Bool :=
  p.job < 1024 && within 1 16 p.maxInflight && within 1 32 p.nodes.length && p.nodes.all nodeOk &&
  (p.nodes.map (·.node)).eraseDups.length == p.nodes.length && (graphRanks p).isSome && solveFollows p

/-- The sequence a graph starts from: 0, or, while instances of an earlier definition run on, the newest of theirs, so that no
two instances of a graph share a number (DESIGN CHOICE, log 73). -/
def startSeq (s : State) (job : Nat) : Nat := (((s.cv.insts.filter (fun i => i.job == job)).getLast?).map (·.seq)).getD 0

/-- A graph is set up, bound to no group. -/
def placeJob (p : JobP) (byCommand : Bool) (s : State) : State :=
  setJob p.job { p := p, ranks := (graphRanks p).getD [], bound := [], seq := startSeq s p.job, overrun := false, shed := false,
                 byCommand := byCommand, resident := [] } s

/-- The graph an outstanding CARAVAN command will define or bind. -/
def jobPending : Instr → Option Nat
  | .caravanJobDefine _ p => some p.job
  | .caravanJobBind _ job _ _ => some job
  | _ => none

/-- A definition or binding of a graph is under way. -/
def jobBusy (s : State) (job : Nat) : Bool := !(opsWith s (fun c => jobPending c == some job)).isEmpty

/-- No two graphs share a flow (07 R233). -/
def graphSetOk : List JobP → Bool
  | [] => true
  | p :: l => l.all (fun q => q.nodes.all (fun d => !(p.nodes.map (·.flow)).contains d.flow)) && graphSetOk l

/-- Graph `p` agrees with the graphs defined. -/
def jobFits (p : JobP) (s : State) : Bool :=
  let l := (s.cv.jobs.map (·.2.p)) ++ [p]
  chainsOk l && graphSetOk l

/-- Nodes of the TS programs, or of the fast path, in a graph (08 R285, 09 R303). -/
def hasTs (p : JobP) : Bool := p.nodes.any (fun d => d.stage == 1 || d.stage == 3)
def hasFast (p : JobP) : Bool := p.nodes.any (fun d => d.stage == 2)

/-- Graphs with the programs of a unit are bound to its group only, one of them (08 R285, 09 R303). -/
def bindingsOk (s : State) : Bool :=
  let bound := (s.cv.jobs.map (·.2)).filter (fun x => !x.bound.isEmpty && !x.shed)
  let ts := bound.filter (fun x => hasTs x.p)
  let fast := bound.filter (fun x => hasFast x.p)
  ts.length ≤ 1 && fast.length ≤ 1 && ts.all (fun x => x.bound == [s.ts.p.gid]) && fast.all (fun x => x.bound == [s.sc.p.gid])

/-- CARAVAN.JOB_DEFINE. -/
def procCaravanJobDefine (h : Hdr) (p : JobP) (s : State) : Proc :=
  ⟨h, { caravanSpec 0x1800 (16 + 32 * p.nodes.length) (jobOk p) (serving s) with cfgBusy := true },
   later (fun s => firstBad [((getJob s p.job).isSome || !jobFits p s, 0x11), (jobBusy s p.job, 0x22)])⟩

def execCaravanJobDefine (h : Hdr) (p : JobP) (s : State) : Host.Outcome State Fault Refusal :=
  .next (runProc (.caravanJobDefine h p) (procCaravanJobDefine h p s) s)

/-- The final completion of CARAVAN.JOB_DEFINE; RULE_CAP stands in image entries only (10 R321). -/
def finishJobDefine (o : OpEntry) (p : JobP) (hwFault : Bool) (s : State) : State :=
  finishAdmit o (!hwFault && (getJob s p.job).isNone && jobFits p s) (placeJob { p with ruleCap := 0 } true) s

/-- A graph is named by an armed comparator with action CYCLE, or by a CHAIN (Table 7-11). -/
def jobNamed (s : State) (job : Nat) : Bool :=
  s.tm.cmps.any (fun e => e.2.armed && bit e.2.p.actions 4 && e.2.p.job == job) ||
  s.cv.jobs.any (fun e => e.2.p.nodes.any (fun d => d.chain == job))

/-- The status of CARAVAN.JOB_DELETE. -/
def jobDeleteStatus (job : Nat) (s : State) : Nat :=
  match getJob s job with
  | none => 0x11
  | some x => firstBad [(!x.bound.isEmpty || jobNamed s job, 0x11), (s.cv.insts.any (fun i => i.job == job) || jobBusy s job, 0x22)]

/-- CARAVAN.JOB_DELETE. -/
def procCaravanJobDelete (h : Hdr) (job : Nat) (s : State) : Proc :=
  ⟨h, { caravanSpec 0x1801 2 (job < 1024) (serving s) with cfgBusy := true },
   .done (fun s => refuseIf (jobDeleteStatus job s != 0) (jobDeleteStatus job s)
     (effect (fun s => reMode { s with cv := { s.cv with jobs := tdel s.cv.jobs job } })) s)⟩

def execCaravanJobDelete (h : Hdr) (job : Nat) (s : State) : Host.Outcome State Fault Refusal :=
  .next (runProc (.caravanJobDelete h job) (procCaravanJobDelete h job s) s)

/-- A graph is bound to a group, or no longer bound to it. -/
def bindJob (job gid : Nat) (en : Bool) (s : State) : State :=
  match getJob s job with
  | none => s
  | some x =>
    if en then setJob job { x with bound := (x.bound.filter (· < gid)) ++ gid :: (x.bound.filter (gid < ·)), shed := false } s
    else setJob job { x with bound := x.bound.filter (· != gid) } s

/-- The status of CARAVAN.JOB_BIND. -/
def bindJobStatus (job gid en : Nat) (s : State) : Nat :=
  firstBad [((getJob s job).isNone || (en == 1 && !groupLive s gid), 0x11), (jobBusy s job, 0x22),
    (en == 1 && !bindingsOk (bindJob job gid true s), 0x11)]

/-- CARAVAN.JOB_BIND: EN 1 also brings a shed graph back (07 R255). -/
def procCaravanJobBind (h : Hdr) (job gid en : Nat) (s : State) : Proc :=
  ⟨h, { caravanSpec 0x1802 4 (job < 1024 && gid < 64 && flag en) (serving s) with cfgBusy := true }, later (bindJobStatus job gid en)⟩

def execCaravanJobBind (h : Hdr) (job gid en : Nat) (s : State) : Host.Outcome State Fault Refusal :=
  .next (runProc (.caravanJobBind h job gid en) (procCaravanJobBind h job gid en s) s)

/-- The final completion of CARAVAN.JOB_BIND; a graph or group that is gone meanwhile cannot be admitted. -/
def finishJobBind (o : OpEntry) (job gid en : Nat) (s : State) : State :=
  let s' := bindJob job gid (en == 1) s
  if (getJob s job).isNone || (en == 1 && !(groupLive s gid && bindingsOk s')) || !admitted s' then
    finalCompletion o 0x31 [] s
  else finalCompletion o 0 [] (reMode s')

/-- The status of CARAVAN.RUN (07 R229, R242). -/
def runStatus (job : Nat) (s : State) : Nat :=
  match getJob s job with
  | none => 0x11
  | some x =>
    firstBad [(x.shed || x.p.nodes.any (fun d => 12 ≤ d.level), 0x11),
      (x.p.maxInflight ≤ (s.cv.insts.filter (fun i => i.job == job)).length, 0x22)]

/-- The trigger of a CARAVAN.RUN. -/
def runTrigger (arg : Nat) (handle : Option Nat) (s : State) : Trigger := ⟨2, 0, 0, arg, handle, now s⟩

/-- CARAVAN.RUN: a graph with MAX_INFLIGHT instances starts nothing, and the trigger is an overrun (07 R229). -/
def procCaravanRun (h : Hdr) (job arg : Nat) (s : State) : Proc :=
  ⟨h, caravanSpec 0x1803 8 (job < 1024 && arg < 2 ^ 32) (serving s),
   .accepted .running (runStatus job) (fun k s => (startInst job (runTrigger arg (some k) s) s).2)
     (fun s => if runStatus job s == 0x22 then (startInst job (runTrigger arg none s) s).2 else s)⟩

def execCaravanRun (h : Hdr) (job arg : Nat) (s : State) : Host.Outcome State Fault Refusal :=
  .next (runProc (.caravanRun h job arg) (procCaravanRun h job arg s) s)

/-! ### Levels and engines -/

/-- From a level the chain of nonzero AGE_TICKS reaches a level with a share (07 R237). -/
def reachesShare (shares ages : List Nat) (ceil : Nat) : Nat → Nat → Bool
  | 0, _ => false
  | fuel + 1, lvl =>
    shares.getD lvl 0 != 0 || (ages.getD lvl 0 != 0 && lvl + 1 ≤ ceil && lvl < 11 && reachesShare shares ages ceil fuel (lvl + 1))

/-- From every level the chain of AGE_TICKS reaches a level with a share (07 R237). -/
def agingOk (shares ages : List Nat) (ceil : Nat) : Bool := (List.range 12).all (reachesShare shares ages ceil 12)

/-- Values of CARAVAN.LEVEL_CONFIG (Tables 7-6, 7-7, 07 R235, R237). -/
def levelsOk (p : LevelP) : Bool :=
  p.urgentReserve ≤ 64 && within 1 11 p.ageCeil && within 5 30 p.ckptUs && p.nq < 32 && p.shares.length == 12 &&
  p.ages.length == 12 && p.shares.all (· ≤ 800) && p.ages.all (· ≤ 4095) && p.ages.getD 11 0 == 0 && listSum p.shares ≤ 800 &&
  agingOk p.shares p.ages p.ageCeil

/-- Caravan takes its levels. -/
def setLevels (p : LevelP) (s : State) : State :=
  { s with cv := { s.cv with reserve := p.urgentReserve, ageCeil := p.ageCeil, ckptUs := p.ckptUs, nq := p.nq, shares := p.shares,
                             ages := p.ages } }

/-- CARAVAN.LEVEL_CONFIG. -/
def procCaravanLevelConfig (h : Hdr) (p : LevelP) (s : State) : Proc :=
  ⟨h, { caravanSpec 0x1808 52 (levelsOk p) (inCommission s) with cfgBusy := true },
   later (fun s => if runningOp s 0x1808 then 0x22 else 0)⟩

def execCaravanLevelConfig (h : Hdr) (p : LevelP) (s : State) : Host.Outcome State Fault Refusal :=
  .next (runProc (.caravanLevelConfig h p) (procCaravanLevelConfig h p s) s)

/-- The final completion of CARAVAN.LEVEL_CONFIG. -/
def finishLevels (o : OpEntry) (p : LevelP) (s : State) : State := finishAdmit o true (setLevels p) s

/-- A retire or restore of an engine is under way. -/
def engineOp (s : State) : Bool := runningOp s 0x1810 || runningOp s 0x1811

/-- CARAVAN.ENGINE_RETIRE. -/
def procCaravanEngineRetire (h : Hdr) (engine : Nat) (s : State) : Proc :=
  ⟨h, caravanSpec 0x1810 1 (engine < 66) (serving s),
   later (fun s =>
     let st := (getEngine s engine).st
     firstBad [(st == .retired || st == .off, 0x11), (st == .selftest || engineOp s, 0x22)])⟩

def execCaravanEngineRetire (h : Hdr) (engine : Nat) (s : State) : Host.Outcome State Fault Refusal :=
  .next (runProc (.caravanEngineRetire h engine) (procCaravanEngineRetire h engine s) s)

/-- An engine leaves service by command; a running item moves under 07 R250. -/
def retireByCommand (engine : Nat) (s : State) : State := capacityFell (retireEngine engine (loseEngine engine .selftest s))

/-- The final completion of CARAVAN.ENGINE_RETIRE: with the engines then in service the configuration must still be
admitted (07 R255). -/
def finishEngineRetire (o : OpEntry) (engine : Nat) (hwFault : Bool) (s : State) : State :=
  let st := (getEngine s engine).st
  if hwFault || !(st == .idle || st == .running || st == .spare) then finalCompletion o 0x60 [] s
  else if !admitted (loseEngine engine .selftest s) then finalCompletion o 0x31 [] s
  else finalCompletion o 0 [] (retireByCommand engine s)

/-- CARAVAN.ENGINE_RESTORE: the self-test begins. -/
def procCaravanEngineRestore (h : Hdr) (engine : Nat) (s : State) : Proc :=
  ⟨h, caravanSpec 0x1811 1 (engine < 66) (serving s),
   .accepted .running
     (fun s => firstBad [((getEngine s engine).st != .retired, 0x11), (engineOp s, 0x22)])
     (fun k s => updEngine engine (fun e => { e with st := .selftest, on := true, busy := some k }) s)⟩

def execCaravanEngineRestore (h : Hdr) (engine : Nat) (s : State) : Host.Outcome State Fault Refusal :=
  .next (runProc (.caravanEngineRestore h engine) (procCaravanEngineRestore h engine s) s)

/-- The final completion of CARAVAN.ENGINE_RESTORE: a pass makes the engine a spare, whatever FAULTS24 holds. -/
def finishEngineRestore (o : OpEntry) (engine : Nat) (pass : Bool) (s : State) : State :=
  let s := updEngine engine (fun e => { e with busy := none }) s
  if pass then finalCompletion o 0 [] (reMode (restoreEngine engine (count (msCtr 0x28) s)))
  else finalCompletion o 0x60 [] (retireEngine engine (count (msCtr 0x30) s))

/-! ### Queries and counters -/

/-- What CARAVAN.QUERY_JOB answers: outstanding instances, bound GID or 0xFF, last instance, resident pages. -/
def jobAnswer (job : Nat) (s : State) : Reply :=
  match getJob s job with
  | none => ⟨0x11, [], s⟩
  | some x =>
    ⟨0, [(s.cv.insts.filter (fun i => i.job == job)).length, x.bound.head?.getD 0xFF] ++ leBytes 4 x.seq ++
        leBytes 2 (listSum (x.p.nodes.map (·.residentPages))), s⟩

/-- CARAVAN.QUERY_JOB. -/
def procCaravanQueryJob (h : Hdr) (job : Nat) (s : State) : Proc :=
  ⟨h, caravanSpec 0x1818 2 (job < 1024) (inOpen s), .done (jobAnswer job)⟩

def execCaravanQueryJob (h : Hdr) (job : Nat) (s : State) : Host.Outcome State Fault Refusal :=
  .next (runProc (.caravanQueryJob h job) (procCaravanQueryJob h job s) s)

/-- What CARAVAN.QUERY_ENGINE answers: MS_ENG and the run cycles of the current item, two a count. -/
def engineAnswer (engine : Nat) (s : State) : List Nat :=
  let run := match itemOn s engine with
    | some it => 2 * it.runCounts s.tm.frc
    | none => 0
  leBytes 4 (msEng s engine) ++ leBytes 8 run

/-- CARAVAN.QUERY_ENGINE. -/
def procCaravanQueryEngine (h : Hdr) (engine : Nat) (s : State) : Proc :=
  ⟨h, caravanSpec 0x1819 1 (engine < 66) (inOpen s), .done (answer (engineAnswer engine))⟩

def execCaravanQueryEngine (h : Hdr) (engine : Nat) (s : State) : Host.Outcome State Fault Refusal :=
  .next (runProc (.caravanQueryEngine h engine) (procCaravanQueryEngine h engine s) s)

/-- The counters of the graphs in a mask, or with mask 0 the CV and MS counters. -/
def clearJobs (mask : Nat) (s : State) : State :=
  if mask == 0 then clearCounters (msCtr 0) 0x40 (clearCounters 0x107000 0x40 s)
  else (bitList 1024 mask).foldl (fun s j => clearCounters (jobCtr j 0) 0x20 s) s

/-- CARAVAN.CLEAR_COUNTERS. -/
def procCaravanClearCounters (h : Hdr) (mask : Nat) (s : State) : Proc :=
  ⟨h, caravanSpec 0x1820 128 (mask < 2 ^ 1024) (serving s), .done (effect (clearJobs mask))⟩

def execCaravanClearCounters (h : Hdr) (mask : Nat) (s : State) : Host.Outcome State Fault Refusal :=
  .next (runProc (.caravanClearCounters h mask) (procCaravanClearCounters h mask s) s)

end Sys2Proof.Machine
end

