-- ==== Sys2Proof/Machine/TimeCmd.lean ====
section
/-! DEFINITION. The TIME class (04 R158, R501, Table 4-12). -/

namespace Sys2Proof.Machine

/-! ### Configuration -/

/-- Values of TIME.CONFIG (04 R142, R143, R147). -/
def timeCfgOk (p : TimeP) : Bool :=
  p.kp < 2 ^ 16 && p.ki < 2 ^ 16 && p.stepNs ≤ 1000000000 && p.policy < 3 && within 2 255 p.lockCount && p.nq < 32 &&
  within 1000 500000 p.fmaxPpb && p.outlierNs < 2 ^ 32 && within 1 86400 p.freshS && within p.freshS 2592000 p.agedS

/-- Tether takes its parameters. -/
def setTime (p : TimeP) (s : State) : State := updTether (fun x => { x with p := p }) s

/-- TIME.CONFIG. -/
def procTimeConfig (h : Hdr) (p : TimeP) (s : State) : Proc := ⟨h, specM 0x0C00 28 (timeCfgOk p) (inSetup s), .done (effect (setTime p))⟩

def execTimeConfig (h : Hdr) (p : TimeP) (s : State) : Host.Outcome State Fault Refusal :=
  .next (runProc (.timeConfig h p) (procTimeConfig h p s) s)

/-- Values of TIME.SOURCE. -/
def sourceOk (primary secondary revertS : Nat) : Bool :=
  primary < 3 && secondary < 3 && revertS < 2 ^ 16 && (secondary == 0 || secondary != primary)

/-- Tether takes its sources; one that is no longer configured is lost (04 R145, R146). -/
def setSources (primary secondary revertS : Nat) (s : State) : State :=
  let s := updTether (fun x => { x with primary := primary, secondary := secondary, revertS := revertS }) s
  if s.tm.tether.follow == 0 || configured s s.tm.tether.follow then s else loseSource s.tm.tether.follow s

/-- TIME.SOURCE. -/
def procTimeSource (h : Hdr) (primary secondary revertS : Nat) (s : State) : Proc :=
  ⟨h, specM 0x0C01 4 (sourceOk primary secondary revertS) (inSetup s), .done (effect (setSources primary secondary revertS))⟩

def execTimeSource (h : Hdr) (primary secondary revertS : Nat) (s : State) : Host.Outcome State Fault Refusal :=
  .next (runProc (.timeSource h primary secondary revertS) (procTimeSource h primary secondary revertS s) s)

/-- Values of TIME.PTP_CONFIG (04 R132, Table 4-12a). -/
def ptpOk (p : PtpP) : Bool :=
  flag p.inst && flag p.en && p.profile < 4 && p.domain < 256 && p.transport < 3 && p.delayMech < 2 &&
  (p.delayMech == 1) == (p.profile == 2) && p.portMask < 32 && -4 ≤ p.logSync && p.logSync ≤ 1 && -3 ≤ p.logAnnounce &&
  p.logAnnounce ≤ 4 && -4 ≤ p.logPdelay && p.logPdelay ≤ 5 && within 2 255 p.annTimeout && p.prio1 < 256 && p.prio2 < 256 &&
  p.inaccAdd < 2 ^ 32

/-- M0 would be a slave candidate beside the enabled M0 master (04 R133). -/
def ptpClash (p : PtpP) (s : State) : Bool :=
  p.en == 1 && (if p.inst == 0 then bit p.portMask 4 && s.tm.ptpMaster.p.en == 1
    else s.tm.ptpSlave.p.en == 1 && bit s.tm.ptpSlave.p.portMask 4)

/-- A PTP instance takes its configuration; a slave whose configuration changes starts without masters (04 R133, R154). -/
def setPtp (p : PtpP) (s : State) : State :=
  if p.inst == 1 then { s with tm := { s.tm with ptpMaster := { s.tm.ptpMaster with p := p } } }
  else if s.tm.ptpSlave.p == p then s
  else
    let s := { s with tm := { s.tm with ptpSlave := { s.tm.ptpSlave with p := p, sent := [] } } }
    losePtp (updSlave (fun x => { x with masters := [], pathDelay := [], delayReq := [] }) s)

/-- A TIME.PTP_CONFIG of the instance is marked under way, or ended. -/
def markPtp (inst : Nat) (h : Option Nat) (s : State) : State :=
  if inst == 1 then { s with tm := { s.tm with ptpMaster := { s.tm.ptpMaster with busy := h } } }
  else { s with tm := { s.tm with ptpSlave := { s.tm.ptpSlave with busy := h } } }

/-- The instance a TIME.PTP_CONFIG names. -/
def ptpOf (s : State) (inst : Nat) : Ptp := if inst == 1 then s.tm.ptpMaster else s.tm.ptpSlave

/-- TIME.PTP_CONFIG: BUSY while one of the same instance runs. -/
def procTimePtpConfig (h : Hdr) (p : PtpP) (s : State) : Proc :=
  ⟨h, specM 0x0C02 20 (ptpOk p) (inSetup s),
   .accepted .running (fun s => firstBad [(ptpClash p s, 0x11), ((ptpOf s p.inst).busy.isSome, 0x22)])
     (fun k s => markPtp p.inst (some k) s)⟩

def execTimePtpConfig (h : Hdr) (p : PtpP) (s : State) : Host.Outcome State Fault Refusal :=
  .next (runProc (.timePtpConfig h p) (procTimePtpConfig h p s) s)

/-- The final completion of TIME.PTP_CONFIG. -/
def finishPtpConfig (o : OpEntry) (p : PtpP) (hwFault : Bool) (s : State) : State :=
  let s := markPtp p.inst none s
  if hwFault then finalCompletion o 0x60 [] s else finalCompletion o 0 [] (setPtp p s)

/-- Values of TIME.PPS_CONFIG (04 R137, R138). -/
def ppsOk (p : PpsP) : Bool := flag p.edge && flag p.todEdge && p.baud < 4 && flag p.todTx && within 100 10000000 p.tolNs

/-- The PPS and ToD settings. -/
def setPps (p : PpsP) (s : State) : State := updPps (fun x => { x with p := p }) s

/-- TIME.PPS_CONFIG. -/
def procTimePpsConfig (h : Hdr) (p : PpsP) (s : State) : Proc := ⟨h, specM 0x0C03 8 (ppsOk p) (inSetup s), .done (effect (setPps p))⟩

def execTimePpsConfig (h : Hdr) (p : PpsP) (s : State) : Host.Outcome State Fault Refusal :=
  .next (runProc (.timePpsConfig h p) (procTimePpsConfig h p s) s)

/-- Values of TIME.PORT_LATENCY. -/
def latOk (p : LatP) : Bool := p.target < 7 && signedFits 32 p.rx && signedFits 32 p.tx

/-- The path latency of a target; TX is ignored for PPS_IN and PPS_OUT. -/
def setLat (p : LatP) (s : State) : State :=
  { s with tm := { s.tm with lat := tset s.tm.lat p.target (p.rx, if p.target < 5 then p.tx else 0) } }

/-- TIME.PORT_LATENCY. -/
def procTimePortLatency (h : Hdr) (p : LatP) (s : State) : Proc := ⟨h, specM 0x0C04 12 (latOk p) (inSetup s), .done (effect (setLat p))⟩

def execTimePortLatency (h : Hdr) (p : LatP) (s : State) : Host.Outcome State Fault Refusal :=
  .next (runProc (.timePortLatency h p) (procTimePortLatency h p s) s)

/-! ### Reading and setting the time -/

/-- TIME.READ: device time and TQ. -/
def procTimeRead (h : Hdr) (_ : State) : Proc :=
  ⟨h, spec0 0x0C08 0, .done (answer (fun s => DT96.bytes (dt96Of (now s)) ++ [s.tm.tq.code]))⟩

def execTimeRead (h : Hdr) (s : State) : Host.Outcome State Fault Refusal := .next (runProc (.timeRead h) (procTimeRead h s) s)

/-- TIME.SET acts: a step to the time given, with SOURCE 3 (04 R158). -/
def setDeviceTime (t : DT80) (s : State) : State :=
  updTether (fun x => { x with source := 3 }) (stepTime (DT80.toNs t * 2 ^ 40 - busTime s) s)

/-- TQ in which TIME.SET is allowed. -/
def settable (s : State) : Bool := s.tm.tq == .invalid || s.tm.tq == .freerun || s.tm.tq == .holdAged

/-- TIME.SET. -/
def procTimeSet (h : Hdr) (t : DT80) (_ : State) : Proc :=
  ⟨h, { specP 0x0C09 12 (timeOk t) with auth := .owner },
   .done (fun s => refuseIf (!settable s) 0x11 (effect (setDeviceTime t)) s)⟩

def execTimeSet (h : Hdr) (t : DT80) (s : State) : Host.Outcome State Fault Refusal :=
  .next (runProc (.timeSet h t) (procTimeSet h t s) s)

/-- TIME.UTC_OFFSET: refused while PTP supplies the offset (04 R149). -/
def procTimeUtcOffset (h : Hdr) (ofs : Int) (valid leap : Nat) (_ : State) : Proc :=
  ⟨h, { specP 0x0C0A 4 (signedFits 16 ofs && flag valid && leap < 3) with auth := .owner },
   .done (fun s => refuseIf (ptpSuppliesUtc s) 0x11 (effect (setUtc ofs (valid == 1) leap)) s)⟩

def execTimeUtcOffset (h : Hdr) (ofs : Int) (valid leap : Nat) (s : State) : Host.Outcome State Fault Refusal :=
  .next (runProc (.timeUtcOffset h ofs valid leap) (procTimeUtcOffset h ofs valid leap s) s)

/-! ### Comparators (04 R150, R152) -/

/-- Values of a comparator: a period of 0 or from 1 us to 1,000 s; PULSE_NS is checked only with a pulse action. -/
def cmpOk (p : CmpP) : Bool :=
  p.cmp < 16 && p.actions < 128 && p.target.sec < 2 ^ 48 && p.target.ns < 1000000000 && p.target.frac < 2 ^ 16 &&
  (p.period == 0 || within (1000 * 2 ^ 16) (1000000000000 * 2 ^ 16) p.period) && p.count < 2 ^ 32 && p.job < 1024 &&
  p.acqMask < 2 ^ 16 && (p.actions % 8 == 0 || within 8 500000000 p.pulseNs)

/-- TIME.CMP_ARM. -/
def procTimeCmpArm (h : Hdr) (p : CmpP) (_ : State) : Proc := ⟨h, specP 0x0C10 36 (cmpOk p), .done (effect (armCmp p true))⟩

def execTimeCmpArm (h : Hdr) (p : CmpP) (s : State) : Host.Outcome State Fault Refusal :=
  .next (runProc (.timeCmpArm h p) (procTimeCmpArm h p s) s)

/-- A comparator is disarmed; a firing due on this edge stands. -/
def disarmCmp (n : Nat) (s : State) : State :=
  let s := if cmpDue s n then fireCmp n s else s
  setCmp n { getCmp s n with armed := false } s

/-- TIME.CMP_DISARM. -/
def procTimeCmpDisarm (h : Hdr) (cmp : Nat) (_ : State) : Proc := ⟨h, specP 0x0C11 1 (cmp < 16), .done (effect (disarmCmp cmp))⟩

def execTimeCmpDisarm (h : Hdr) (cmp : Nat) (s : State) : Host.Outcome State Fault Refusal :=
  .next (runProc (.timeCmpDisarm h cmp) (procTimeCmpDisarm h cmp s) s)

/-- TIME.CMP_QUERY: next target and FIRES. -/
def procTimeCmpQuery (h : Hdr) (cmp : Nat) (_ : State) : Proc :=
  ⟨h, specP 0x0C12 1 (cmp < 16), .done (answer (fun s => DT96.bytes (cmpTarget (getCmp s cmp)) ++ leBytes 4 (getCmp s cmp).fires))⟩

def execTimeCmpQuery (h : Hdr) (cmp : Nat) (s : State) : Host.Outcome State Fault Refusal :=
  .next (runProc (.timeCmpQuery h cmp) (procTimeCmpQuery h cmp s) s)

/-! ### Tests, status, counters -/

/-- TIME.HOLDOVER_TEST begins or ends (04 R146). -/
def forceHoldover (en : Nat) (s : State) : State :=
  if en == 1 then enterHoldover true s
  else if s.tm.tether.servo == 3 then updTether (fun x => { x with servo := 2 }) s
  else s

/-- TIME.HOLDOVER_TEST. -/
def procTimeHoldoverTest (h : Hdr) (en : Nat) (s : State) : Proc :=
  ⟨h, specM 0x0C20 1 (flag en) (inCommission s), .done (effect (forceHoldover en))⟩

def execTimeHoldoverTest (h : Hdr) (en : Nat) (s : State) : Host.Outcome State Fault Refusal :=
  .next (runProc (.timeHoldoverTest h en) (procTimeHoldoverTest h en s) s)

/-- TIME.MAIN_RETEST (04 R129). -/
def procTimeMainRetest (h : Hdr) (_ : State) : Proc :=
  ⟨h, spec0 0x0C21 0,
   .accepted .running (fun s => firstBad [(!s.tm.mainFailed, 0x11), (s.tm.retest.isSome, 0x22)])
     (fun k s => startSelftest { s with tm := { s.tm with retest := some k } })⟩

def execTimeMainRetest (h : Hdr) (s : State) : Host.Outcome State Fault Refusal :=
  .next (runProc (.timeMainRetest h) (procTimeMainRetest h s) s)

/-- The final completion of TIME.MAIN_RETEST: the main path returns when its self-test passes. -/
def finishMainRetest (o : OpEntry) (pass : Bool) (s : State) : State :=
  let s := { s with tm := { s.tm with retest := none, selftest := false } }
  if pass then finalCompletion o 0 [] (restoreMain s) else finalCompletion o 0x60 [] s

/-- TIME.STATUS. -/
def procTimeStatus (h : Hdr) (_ : State) : Proc :=
  ⟨h, spec0 0x0C30 0, .done (answer (fun s =>
    leBytes 4 (servoOfs s) ++ leBytes 4 (servoFreq s) ++ leBytes 4 (holdAgeReg s) ++ leBytes 4 (tmStat s)))⟩

def execTimeStatus (h : Hdr) (s : State) : Host.Outcome State Fault Refusal :=
  .next (runProc (.timeStatus h) (procTimeStatus h s) s)

/-- TIME.CLEAR_COUNTERS. -/
def procTimeClearCounters (h : Hdr) (_ : State) : Proc :=
  ⟨h, spec0 0x0C40 0, .done (effect (clearCounters (tmCtr 0) 0x100))⟩

def execTimeClearCounters (h : Hdr) (s : State) : Host.Outcome State Fault Refusal :=
  .next (runProc (.timeClearCounters h) (procTimeClearCounters h s) s)

end Sys2Proof.Machine
end

