-- ==== Sys2Proof/Machine/TopoCmd.lean ====
section
/-! DEFINITION. The TOPO class (08 R261, R263, R269, R275, R284, R287, R292, Table 8-13). -/

namespace Sys2Proof.Machine

/-- A TOPO opcode: it needs TS (order 3 of the handshake). -/
def topoSpec (opcode plen : Nat) (ok mode : Bool) : CmdSpec := { specM opcode plen ok mode with blk := 3 }

/-- Bytes as little-endian 32-bit words. -/
def wordsOf : List Nat → List Nat
  | a :: b :: c :: d :: l => ofLeBytes [a, b, c, d] :: wordsOf l
  | [] => []
  | l => [ofLeBytes l]

/-! ### Models (08 R261, R275, R287) -/

/-- Values of a branch of a model of `n` nodes (Table 8-1). -/
def branchOk (n : Nat) (b : BranchP) : Bool :=
  b.fr < n && b.tgt < n && b.fr != b.tgt && b.kind ≤ 2 && b.src ≤ 2 &&
  (b.src == 0 || (b.brkSid < 16384 && b.brkWord ≤ 3 && b.brkBit ≤ (if b.src == 2 then 14 else 15))) && flag b.pol && flag b.dflt

/-- A channel that stands in the layout of an installed stream. -/
def chanPresent (s : State) (sid ch : Nat) : Bool := (streamP s sid).any (fun p => (layoutOf p).contains ch)

/-- Values of a measurement of a model (Table 8-1, 08 R261). -/
def measOk (s : State) (m : ModelP) (x : MeasP) : Bool :=
  x.kind ≤ 2 && x.ch < 32 && x.target < (if x.kind == 0 then m.nodes.length else m.branches.length) && within 1 65535 x.sigma &&
  chanPresent s x.sid x.ch

/-- A model that R261 does not reject. -/
def modelOk (s : State) (m : ModelP) : Bool :=
  within 1 4096 m.nodes.length && m.branches.length ≤ 16384 && m.meas.length ≤ 32768 && m.nnz ≤ 786432 &&
  m.branches.all (branchOk m.nodes.length) && m.meas.all (measOk s m)

/-- Branches closed and rows used in the base factor: DEFAULT statuses, every measurement valid (08, base factor). -/
def baseClosed (m : ModelP) : List Nat :=
  (List.range m.branches.length).filter (fun n => ((m.branches[n]?).map (·.dflt)) == some 1)
def baseUses (m : ModelP) : List Nat :=
  (List.range m.meas.length).filter (fun n => match m.meas[n]? with
    | some x => !measOpen (baseClosed m) x
    | none => false)

/-- A cut set with no history: its window restarts (08 R270). -/
def Cut.fresh (p : CutP) (decisions : Nat) : Cut :=
  { p := p, separated := false, unsettled := true, pick := 0, drop := 0, rho := 0, delta := [], pairPrev := none, since := decisions }

/-- Held statuses, episodes, windows and the last pass are forgotten. -/
def clearHistory (s : State) : State :=
  { s with ts := { s.ts with
      last := []
      conflicts := []
      unknowns := []
      chi2Open := false
      prevAnchors := none
      cuts := s.ts.cuts.map (fun e => (e.1, Cut.fresh e.2.p e.2.since)) } }

/-- A model is installed (08 R287): instances already started keep the earlier one. -/
def placeModel (m : ModelP) (s : State) : State :=
  let older := match s.ts.model with
    | some _ => tset s.ts.older s.ts.epoch s.ts.carry
    | none => s.ts.older
  let older := older.filter (fun e => s.cv.insts.any (fun i => i.epoch == e.1))
  clearHistory { s with ts := { s.ts with
    model := some m
    epoch := s.ts.epoch + 1
    older := older
    valid := m.hasFactor
    stale := false
    updSince := 0
    facClosed := baseClosed m
    facUses := baseUses m
    solution := [] } }

/-- TOPO.MODEL_LOAD. -/
def procTopoModelLoad (h : Hdr) (addr len : Nat) (_sigOk _fetchOk : Bool) (_m : ModelP) (s : State) : Proc :=
  ⟨h, { topoSpec 0x1C00 12 (bufferOk addr && len < 2 ^ 32) (inCommission s) with cfgBusy := true },
   later (fun s => if s.ts.refac.isSome || runningOp s 0x1C00 then 0x22 else 0)⟩

def execTopoModelLoad (h : Hdr) (addr len : Nat) (sigOk fetchOk : Bool) (m : ModelP) (s : State) :
    Host.Outcome State Fault Refusal :=
  .next (runProc (.topoModelLoad h addr len sigOk fetchOk m) (procTopoModelLoad h addr len sigOk fetchOk m s) s)

/-- The end of TOPO.MODEL_LOAD's own work: refused, or installed and complete, or waiting for the refactorization of a
block without a factor. It waits while a refactorization runs. -/
def finishModelLoad (o : OpEntry) (sigOk fetchOk : Bool) (m : ModelP) (fin : Finish) (s : State) : State :=
  if o.phase == .committed || s.ts.refac.isSome then s
  else if fin.hwFault then finalCompletion o 0x60 [] s
  else if fin.dataBad || !fetchOk then finalCompletion o 0x61 [] s
  else if !sigOk then finalCompletion o 0x41 [] s
  else if !modelOk s m then finalCompletion o 0x11 [] s
  else if !admitted (placeModel m s) then finalCompletion o 0x31 [] s
  else if m.hasFactor then finalCompletion o 0 [] (placeModel m s)
  else
    let s := updOp o.handle (fun o => { o with phase := .committed }) (placeModel m s)
    requestRefac 5 s.ts.facClosed s.ts.facUses [o.handle] s

/-! ### Settings, cut sets, forces -/

/-- Values of TOPO.CONFIG (Tables 8-7, 8-8, 08 R278, R280). -/
def topoOk (p : TopoP) : Bool :=
  p.nq < 32 && p.gid < 64 && p.hold < 256 && p.badMax ≤ 8 && p.refLevel ≤ 11 && p.measReq < 8 && p.refRate ≤ 100 &&
  p.iOpenMax < 256 && p.lnr < 2 ^ 12 && p.chi2z < 2 ^ 12

/-- TS takes its settings; another MODEL_GID starts without history. -/
def setTopo (p : TopoP) (s : State) : State :=
  let s' := { s with ts := { s.ts with p := p } }
  if p.gid == s.ts.p.gid then s' else clearHistory s'

/-- TOPO.CONFIG. -/
def procTopoConfig (h : Hdr) (p : TopoP) (s : State) : Proc :=
  ⟨h, { topoSpec 0x1C01 12 (topoOk p) (inCommission s) with cfgBusy := true },
   .done (fun s =>
     let st := firstBad [(!bindingsOk (setTopo p s), 0x11), (!admitted (setTopo p s), 0x31)]
     refuseIf (st != 0) st (effect (setTopo p)) s)⟩

def execTopoConfig (h : Hdr) (p : TopoP) (s : State) : Host.Outcome State Fault Refusal :=
  .next (runProc (.topoConfig h p) (procTopoConfig h p s) s)

/-- Values of a cut set (08 R269). -/
def cutOk (p : CutP) : Bool :=
  p.cut < 64 && flag p.apply && within 2 50 p.n && within 1 15 p.pickup && within 1 15 p.dropout && within 1 10000 p.drift &&
  within 1 4 p.pairs.length && within 1 64 p.branches.length && p.pairs.all (fun e => e.1 < 2 ^ 16 && e.2 < 2 ^ 16) &&
  p.branches.all (· < 2 ^ 16)

/-- A cut set names VOLT measurements and branches of the model. -/
def cutNames (s : State) (p : CutP) : Bool :=
  let volt := fun (n : Nat) => ((s.ts.model.bind (·.meas[n]?)).map (·.kind)) == some 0
  p.pairs.all (fun e => volt e.1 && volt e.2) && p.branches.all (fun b => (s.ts.model.bind (·.branches[b]?)).isSome)

/-- A cut set is set up (08 R287). -/
def placeCut (p : CutP) (s : State) : State :=
  { s with ts := { s.ts with cuts := tset s.ts.cuts p.cut (Cut.fresh p s.cv.decisions) } }

/-- Branches of all cut sets. -/
def cutBranches (s : State) : Nat := listSum (s.ts.cuts.map (·.2.p.branches.length))

/-- TOPO.CUTSET_DEFINE. -/
def procTopoCutsetDefine (h : Hdr) (p : CutP) (s : State) : Proc :=
  ⟨h, { topoSpec 0x1C02 (28 + 2 * p.branches.length) (cutOk p) (inCommission s) with cfgBusy := true },
   .done (fun s =>
     let st := firstBad [((tfind s.ts.cuts p.cut).isSome || !cutNames s p, 0x11),
       (1024 < cutBranches s + p.branches.length, 0x30)]
     refuseIf (st != 0) st (effect (placeCut p)) s)⟩

def execTopoCutsetDefine (h : Hdr) (p : CutP) (s : State) : Host.Outcome State Fault Refusal :=
  .next (runProc (.topoCutsetDefine h p) (procTopoCutsetDefine h p s) s)

/-- TOPO.CUTSET_DELETE. -/
def procTopoCutsetDelete (h : Hdr) (cut : Nat) (s : State) : Proc :=
  ⟨h, { topoSpec 0x1C03 1 (cut < 64) (inCommission s) with cfgBusy := true },
   .done (fun s => refuseIf (tfind s.ts.cuts cut).isNone 0x11
     (effect (fun s => { s with ts := { s.ts with cuts := tdel s.ts.cuts cut } })) s)⟩

def execTopoCutsetDelete (h : Hdr) (cut : Nat) (s : State) : Host.Outcome State Fault Refusal :=
  .next (runProc (.topoCutsetDelete h cut) (procTopoCutsetDelete h cut s) s)

/-- The status of TOPO.BRANCH_FORCE: at most 256 branches are forced (08 R263). -/
def forceStatus (branch action : Nat) (s : State) : Nat :=
  firstBad [((s.ts.model.bind (·.branches[branch]?)).isNone, 0x11),
    (action != 0 && (tfind s.ts.forces branch).isNone && 256 ≤ s.ts.forces.length, 0x30)]

/-- A branch is released, or forced open or closed. -/
def forceBranch (branch action : Nat) (s : State) : State :=
  { s with ts := { s.ts with forces := if action == 0 then tdel s.ts.forces branch else tset s.ts.forces branch (action == 2) } }

/-- TOPO.BRANCH_FORCE. -/
def procTopoBranchForce (h : Hdr) (branch action : Nat) (s : State) : Proc :=
  ⟨h, { topoSpec 0x1C08 4 (branch < 2 ^ 16 && action ≤ 2) (serving s) with auth := .owner },
   .done (fun s => refuseIf (forceStatus branch action s != 0) (forceStatus branch action s) (effect (forceBranch branch action)) s)⟩

def execTopoBranchForce (h : Hdr) (branch action : Nat) (s : State) : Host.Outcome State Fault Refusal :=
  .next (runProc (.topoBranchForce h branch action) (procTopoBranchForce h branch action s) s)

/-- The statuses and uses a command's refactorization takes: those of the latest completed pass, else of the factor. -/
def presentUses (s : State) : List Nat × List Nat :=
  match (if s.ts.prevAnchors.isSome then s.ts.results.find? (fun r => bit r.flags 0) else none) with
  | some r => (r.closed, r.usable)
  | none => (s.ts.facClosed, s.ts.facUses)

/-- TOPO.REFACTOR starts or joins a refactorization; without a model it fails. -/
def askRefac (k : Nat) (s : State) : State :=
  if s.ts.model.isSome then requestRefac 4 (presentUses s).1 (presentUses s).2 [k] s
  else match findOp s k with
    | some o => finalCompletion o 0x60 [] s
    | none => s

/-- TOPO.REFACTOR. -/
def procTopoRefactor (h : Hdr) (s : State) : Proc :=
  ⟨h, topoSpec 0x1C09 0 true (serving s),
   .accepted .running (fun s => if s.ts.refacNext.isSome then 0x22 else 0) askRefac⟩

def execTopoRefactor (h : Hdr) (s : State) : Host.Outcome State Fault Refusal :=
  .next (runProc (.topoRefactor h) (procTopoRefactor h s) s)

/-! ### Results (08 R284) -/

/-- A DT96 of a result, 0 when it was not reached. -/
def doneBytes (t : Int) : List Nat := if t == 0 then List.replicate 12 0 else DT96.bytes (dt96Of t)

/-- The result header (Table 8-3). -/
def resultHeader (r : TsResult) : List Nat :=
  wordsOf (leBytes 8 (fld r.gid 0 6 + fld r.k 6 40) ++ leBytes 2 r.islands ++ leBytes 2 r.isl.length ++ leBytes 2 r.observed ++
    leBytes 2 r.used ++ leBytes 4 r.flags ++ leBytes 4 r.j ++ leBytes 4 r.thr ++ leBytes 4 (twosComp 32 r.dof) ++
    [r.badRemoved, min 255 r.brChanges] ++ leBytes 2 (min 65535 r.measChanges) ++ leBytes 2 r.generation ++ [0, 0] ++
    doneBytes r.topoDone ++ doneBytes r.solveDone)

/-- An island record (Table 8-5). -/
def islandWords (z : Island) : List Nat :=
  wordsOf (leBytes 2 z.anchor ++ leBytes 2 z.nodes ++ leBytes 2 z.observed ++ leBytes 4 (twosComp 32 z.freq) ++ leBytes 2 z.freqN ++
    [b2n z.freqValid + fld (b2n z.fresh) 1 1 + fld (b2n z.coh) 2 1, 0] ++ leBytes 2 z.prevAnchor)

/-- A node record (Table 8-5). -/
def nodeWords (r : TsResult) (order : List Nat) (n : Nat) : List Nat :=
  let a := r.anchors.getD n 0
  let slot := match order.findIdx? (· == a) with
    | some i => if i < 256 then i else 0x1FF
    | none => 0x1FF
  let v := tfind r.volts n
  let x := v.getD (0, 0)
  wordsOf (leBytes 8 (fld (twosComp 18 x.1) 0 18 + fld (twosComp 18 x.2) 18 18 + fld slot 36 9 + fld (b2n (r.validVolt n).isSome) 45 1 +
    fld (b2n (r.obs.contains n)) 46 1 + fld a 48 13))

/-- The words TOPO.READ_RESULT writes: header, then the selected sections. -/
def resultWords (r : TsResult) (sections : Nat) : List Nat :=
  resultHeader r ++ (if bit sections 0 then r.isl.flatMap islandWords else []) ++
  (if bit sections 1 then (List.range r.anchors.length).flatMap (nodeWords r (islandOrder r.anchors)) else []) ++
  (if bit sections 2 then r.meas else [])

/-- Bytes of the selected sections. -/
def resultBytes (r : TsResult) (sections : Nat) : Nat :=
  64 + (if bit sections 0 then 16 * r.isl.length else 0) + (if bit sections 1 then 8 * r.anchors.length else 0) +
  (if bit sections 2 then 4 * r.meas.length else 0)

/-- The result an INDEX names: all ones for the latest. -/
def pickResult (s : State) (index : Nat) : Option TsResult :=
  if index == 2 ^ 64 - 1 then tsLast s.ts else s.ts.results.find? (fun r => r.k == index && r.gid == s.ts.p.gid)

/-- A read of results keeps the index it found when it was accepted. -/
def pinResult (h : Hdr) (index sections addr len k : Nat) (s : State) : State :=
  match pickResult s index with
  | some r => updOp k (fun o => { o with cmd := .topoReadResult h r.k sections addr len }) s
  | none => s

/-- TOPO.READ_RESULT: the latest result is the latest at its ACCEPTED. -/
def procTopoReadResult (h : Hdr) (index sections addr len : Nat) (s : State) : Proc :=
  ⟨h, { topoSpec 0x1C10 24 (index < 2 ^ 64 && sections < 8 && bufferOk addr && len < 2 ^ 32) (serving s) with
        lenOk := (pickResult s index).all (fun r => resultBytes r sections ≤ len) },
   .accepted .running (fun s => if (pickResult s index).isSome then 0 else 0x11)
     (pinResult h index sections addr len)⟩

def execTopoReadResult (h : Hdr) (index sections addr len : Nat) (s : State) : Host.Outcome State Fault Refusal :=
  .next (runProc (.topoReadResult h index sections addr len) (procTopoReadResult h index sections addr len s) s)

/-- The final completion of TOPO.READ_RESULT; a result overwritten meanwhile cannot be read. -/
def finishReadResult (o : OpEntry) (index sections addr len : Nat) (dataBad : Bool) (s : State) : State :=
  match pickResult s index with
  | none => finalCompletion o 0x61 [] s
  | some r =>
    if dataBad then finalCompletion o 0x61 [] s
    else
      let w := (resultWords r sections).take (len / 4)
      finalCompletion o 0 (leBytes 4 (4 * w.length)) (hostOut addr 0x1C10 w s)

/-- What TOPO.QUERY answers: TS_FACTOR, TS_FACTOR_TIME, TS_SUMMARY, SOLVE_WCET. -/
def topoAnswer (s : State) : List Nat :=
  leBytes 4 (tsFactor s.ts) ++ leBytes 4 (fld s.ts.runUs 16 16 + fld s.ts.waitUs 0 16) ++ leBytes 4 (tsSummary s.ts) ++
  leBytes 4 ((s.ts.model.map (·.solveWcet)).getD 0)

/-- TOPO.QUERY. -/
def procTopoQuery (h : Hdr) (s : State) : Proc := ⟨h, topoSpec 0x1C11 0 true (serving s), .done (answer topoAnswer)⟩

def execTopoQuery (h : Hdr) (s : State) : Host.Outcome State Fault Refusal :=
  .next (runProc (.topoQuery h) (procTopoQuery h s) s)

/-- TOPO.CLEAR_COUNTERS. -/
def procTopoClearCounters (h : Hdr) (s : State) : Proc :=
  ⟨h, topoSpec 0x1C20 0 true (serving s), .done (effect (clearCounters 0x108000 0x80))⟩

def execTopoClearCounters (h : Hdr) (s : State) : Host.Outcome State Fault Refusal :=
  .next (runProc (.topoClearCounters h) (procTopoClearCounters h s) s)

end Sys2Proof.Machine
end

