-- ==== Sys2Proof/Machine/OscCmd.lean ====
section
/-! DEFINITION. The OSC class (09 R293, R296, R300, R304, R310, R312, R317, Table 9-15). -/

namespace Sys2Proof.Machine

/-- An OSC opcode: it needs Sirocco (order 3 of the handshake). -/
def oscSpec (opcode plen : Nat) (ok mode : Bool) : CmdSpec := { specM opcode plen ok mode with blk := 3 }

/-! ### OSC.CONFIG (09 R296, R304) -/

/-- Rates at which OSC_GID may run (09 R296). -/
def oscRates : List Nat := [25, 30, 50, 60, 100, 120, 200, 240]

/-- Values of OSC.CONFIG (Tables 9-9, 9-10, 09 R304, R308, R309). -/
def oscOk (p : OscP) : Bool :=
  p.nq < 32 && p.gid < 64 && within 1 15 p.cycles && p.fillMax ≤ 8 && p.measReq < 8 && p.cmp < 16 && p.ofsMs ≤ 999 &&
  p.slowJob < 1024 && p.trackHold ≤ 15 && within 1 15 p.forcedN && within 1 100 p.trackDf && within 1 500 p.trackDz &&
  p.forcedZeta ≤ 50 && within 8 1020 p.forcedPr

/-- OSC_GID runs at a rate of R296. -/
def oscRateOk (s : State) (gid : Nat) : Bool := (getGroup s gid).any (fun g => g.en && oscRates.contains g.p.rate)

/-- SLOW_JOB is a graph without PRED edges, at levels 0 to 11, with MAX_INFLIGHT 1 (09 R304). -/
def slowJobOk (s : State) (job : Nat) : Bool :=
  (getJob s job).any (fun x => x.p.maxInflight == 1 && x.p.nodes.all (fun d => (predsOf d).isEmpty && d.level ≤ 11))

/-- The first whole second plus the offset that lies ahead. -/
def nextUpdate (s : State) (ofsMs : Nat) : DT96 :=
  let ns := nowNs s - (ofsMs * 1000000 : Nat)
  ⟨(ns / 1000000000 + 1).toNat, ofsMs * 1000000, 0⟩

/-- The settings of the comparator that starts SLOW_JOB every second (09 R304). -/
def slowCmp (p : OscP) (target : DT96) : CmpP := ⟨p.cmp, 2 ^ 4, target, 1000000000 * 2 ^ 16, 0, p.slowJob, 0, 0⟩

/-- Comparator `n` serves the slow path in force. -/
def servesSlow (s : State) (n : Nat) : Bool :=
  let c := getCmp s n
  n == s.sc.p.cmp && c.armed && c.p.actions == 2 ^ 4 && c.p.job == s.sc.p.slowJob

/-- The comparator of the slow path is armed (09 R304). -/
def armSlow (p : OscP) (s : State) : State := armCmp (slowCmp p (nextUpdate s p.ofsMs)) true s

/-- Every signal and group starts again; a group's SEQ, a sequence number, runs on (00 Table 0-7). -/
def restartOsc (s : State) : State :=
  { s with sc := { s.sc with
      sigs := s.sc.sigs.map (fun e => (e.1, Sig.fresh e.2.p s.cv.decisions))
      groups := s.sc.groups.map (fun e => (e.1, { e.2 with tracks := [], recs := [], again := true }))
      nextM := none } }

/-- Sirocco takes its settings; another OSC_GID restarts everything. -/
def setOsc (p : OscP) (s : State) : State :=
  let s' := { s with sc := { s.sc with p := p } }
  if p.gid == s.sc.p.gid then s' else restartOsc s'

/-- The settings come into force: the comparator that served before is disarmed when another takes over. -/
def applyOsc (p : OscP) (s : State) : State :=
  let old := s.sc.p.cmp
  let s := if old != p.cmp && servesSlow s old then disarmCmp old s else s
  armSlow p (setOsc p s)

/-- OSC.CONFIG. -/
def procOscConfig (h : Hdr) (p : OscP) (s : State) : Proc :=
  ⟨h, { oscSpec 0x2000 20 (oscOk p) (inCommission s) with cfgBusy := true },
   .done (fun s =>
     let st := firstBad [(!oscRateOk s p.gid || !slowJobOk s p.slowJob || !bindingsOk (setOsc p s), 0x11),
       (!admitted (applyOsc p s), 0x31)]
     refuseIf (st != 0) st (effect (applyOsc p)) s)⟩

def execOscConfig (h : Hdr) (p : OscP) (s : State) : Host.Outcome State Fault Refusal :=
  .next (runProc (.oscConfig h p) (procOscConfig h p s) s)

/-! ### Signals and groups (09 R293, R300) -/

/-- Values of a signal (Tables 9-1, 9-9). -/
def sigOk (p : SigP) : Bool :=
  p.sig < 1024 && p.kind ≤ 2 && p.group < 128 && p.aSid < 16384 && p.aCh < 46 && p.bSid < 16384 && p.bCh < 46 &&
  (p.kind == 2 || (p.aCh < 32 && p.bCh < 32)) && (p.kind != 1 || positive p.fsFlow) && p.zcFloor < 2 ^ 16

/-- A SID is a member of OSC_GID. -/
def oscMember (s : State) (sid : Nat) : Bool := (getGroup s s.sc.p.gid).any (fun g => g.members.contains sid)

/-- A group's parameters agree with its `m` signals (09 R300). -/
def groupFits (p : OscGroupP) (m : Nat) : Bool := within 1 32 m && within p.order 256 (m * p.rows) && p.ref < m

/-- The defined groups agree with their signals. -/
def oscGroupsFit (s : State) : Bool := s.sc.groups.all (fun e => groupFits e.2.p (groupSigs s e.1).length)

/-- A signal is set up, seen by items dispatched later (09 R312). -/
def placeSig (p : SigP) (s : State) : State :=
  { s with sc := { s.sc with sigs := tset s.sc.sigs p.sig (Sig.fresh p s.cv.decisions) } }

/-- The signal or group an outstanding OSC command will define. -/
def oscBusy (s : State) (f : Instr → Bool) : Bool := !(opsWith s f).isEmpty

/-- A signal may be defined as it stands. -/
def sigFits (p : SigP) (s : State) : Bool :=
  (tfind s.sc.sigs p.sig).isNone && oscMember s p.aSid && (p.kind == 2 || oscMember s p.bSid) &&
  (groupSigs s p.group).length < 32 && oscGroupsFit (placeSig p s)

/-- A definition that touches signal `sig` or group `group`. -/
def definesSignal (sig group : Nat) : Instr → Bool
  | .oscSignalDefine _ q => q.sig == sig || q.group == group
  | .oscGroupDefine _ q => q.group == group
  | _ => false

/-- A definition that touches group `group`. -/
def definesOscGroup (group : Nat) : Instr → Bool
  | .oscSignalDefine _ q => q.group == group
  | .oscGroupDefine _ q => q.group == group
  | _ => false

/-- OSC.SIGNAL_DEFINE. -/
def procOscSignalDefine (h : Hdr) (p : SigP) (s : State) : Proc :=
  ⟨h, { oscSpec 0x2001 20 (sigOk p) (serving s) with cfgBusy := true },
   later (fun s => firstBad [(!sigFits p s, 0x11),
     (oscBusy s (definesSignal p.sig p.group), 0x22)])⟩

def execOscSignalDefine (h : Hdr) (p : SigP) (s : State) : Host.Outcome State Fault Refusal :=
  .next (runProc (.oscSignalDefine h p) (procOscSignalDefine h p s) s)

/-- The final completion of OSC.SIGNAL_DEFINE. -/
def finishSignal (o : OpEntry) (p : SigP) (hwFault : Bool) (s : State) : State :=
  finishAdmit o (!hwFault && sigFits p s) (placeSig p) s

/-- A signal goes. -/
def dropSig (n : Nat) (s : State) : State := { s with sc := { s.sc with sigs := tdel s.sc.sigs n } }

/-- The signal is the reference of its defined group. -/
def isRef (s : State) (n : Nat) : Bool :=
  match tfind s.sc.sigs n with
  | none => false
  | some g => match tfind s.sc.groups g.p.group with
    | none => false
    | some x => ((groupSigs s g.p.group)[x.p.ref]?).map (·.1) == some n

/-- OSC.SIGNAL_DELETE: not the reference of a defined group, nor a signal whose loss leaves that group out of R300. -/
def procOscSignalDelete (h : Hdr) (sig : Nat) (s : State) : Proc :=
  ⟨h, { oscSpec 0x2002 2 (sig < 1024) (serving s) with cfgBusy := true },
   .done (fun s => refuseIf ((tfind s.sc.sigs sig).isNone || isRef s sig || !oscGroupsFit (dropSig sig s)) 0x11
     (effect (dropSig sig)) s)⟩

def execOscSignalDelete (h : Hdr) (sig : Nat) (s : State) : Host.Outcome State Fault Refusal :=
  .next (runProc (.oscSignalDelete h sig) (procOscSignalDelete h sig s) s)

/-- Values of a signal group (Table 9-3); FMIN x window is at least 3 s Hz. -/
def oscGroupOk (p : OscGroupP) : Bool :=
  p.group < 128 && p.window ≤ 3 && within 4 32 p.order && p.order % 2 == 0 && within 8 64 p.rows && within 1 8 p.modesMax &&
  p.ref < 32 && within 2 16 p.retain && p.node < 32 && within 1 500 p.fmin && p.fmax ≤ 500 && p.fmin < p.fmax &&
  300 ≤ p.fmin * (20 * 2 ^ p.window) && within 10 1000 p.zetaMax

/-- A group is set up; a defined one restarts, an update in service finishing on what it started with (09 R312), and keeps
its SEQ (00 Table 0-7). -/
def placeOscGroup (p : OscGroupP) (s : State) : State :=
  let old := tfind s.sc.groups p.group
  let snap := old.bind (·.snap)
  { s with sc := { s.sc with groups := tset s.sc.groups p.group ⟨p, [], (old.map (·.seq)).getD 0, [], snap, snap.isSome⟩ } }

/-- OSC.GROUP_DEFINE. -/
def procOscGroupDefine (h : Hdr) (p : OscGroupP) (s : State) : Proc :=
  ⟨h, { oscSpec 0x2008 16 (oscGroupOk p) (serving s) with cfgBusy := true },
   later (fun s => firstBad [(!groupFits p (groupSigs s p.group).length, 0x11),
     (oscBusy s (definesOscGroup p.group), 0x22)])⟩

def execOscGroupDefine (h : Hdr) (p : OscGroupP) (s : State) : Host.Outcome State Fault Refusal :=
  .next (runProc (.oscGroupDefine h p) (procOscGroupDefine h p s) s)

/-- The final completion of OSC.GROUP_DEFINE. -/
def finishOscGroup (o : OpEntry) (p : OscGroupP) (hwFault : Bool) (s : State) : State :=
  finishAdmit o (!hwFault && groupFits p (groupSigs s p.group).length) (placeOscGroup p) s

/-- A signal or an alarm rule refers to a signal group. -/
def oscGroupUsed (s : State) (g : Nat) : Bool :=
  !(groupSigs s g).isEmpty || s.al.rules.any (fun e => e.2.p.kind == 8 && e.2.p.a == g)

/-- OSC.GROUP_DELETE. -/
def procOscGroupDelete (h : Hdr) (group : Nat) (s : State) : Proc :=
  ⟨h, { oscSpec 0x2009 1 (group < 128) (serving s) with cfgBusy := true },
   .done (fun s => refuseIf ((tfind s.sc.groups group).isNone || oscGroupUsed s group) 0x11
     (effect (fun s => { s with sc := { s.sc with groups := tdel s.sc.groups group } })) s)⟩

def execOscGroupDelete (h : Hdr) (group : Nat) (s : State) : Host.Outcome State Fault Refusal :=
  .next (runProc (.oscGroupDelete h group) (procOscGroupDelete h group s) s)

/-! ### Records (09 R310) -/

/-- A band record (Table 9-5). -/
def bandWords (n : Nat) (r : BandRec) : List Nat :=
  wordsOf (DT80.bytes (dt80Of r.tag) ++ leBytes 2 n ++
    leBytes 2 (b2n r.valid + fld (b2n r.filled) 1 1 + fld (b2n r.restart) 2 1 + fld (b2n r.accSat) 3 1) ++ leBytes 2 r.brUnsettled ++
    leBytes 2 r.zcUnsettled ++ leBytes 2 r.zcValid ++ (List.range 16).flatMap (fun b => leBytes 4 (r.br.getD b 0)) ++
    (List.range 16).flatMap (fun b => leBytes 4 (twosComp 32 (r.zc.getD b 0))) ++ leBytes 4 (twosComp 32 r.sample))

/-- A record that does not exist: SIG with VALID clear; no rule gives its other fields (FREE VALUES, the `c`-th and on). -/
def absentBand (n c : Nat) : List Nat :=
  let free := fun (w i : Nat) => leBytes w (Config.free (c + i))
  wordsOf (free 10 0 ++ leBytes 2 n ++ leBytes 2 (Config.free (c + 1) % 2 ^ 16 / 2 * 2) ++ free 138 2)

/-- The newest `depth` band records of a signal. -/
def bandsOf (s : State) (n depth c : Nat) : List Nat :=
  let recs := ((tfind s.sc.sigs n).map (·.recs)).getD []
  (List.range depth).flatMap (fun i => match recs[i]? with
    | some r => bandWords n r
    | none => absentBand n (c + 3 * i))

/-- OSC.READ_BANDS. -/
def procOscReadBands (h : Hdr) (first count depth addr len : Nat) (s : State) : Proc :=
  ⟨h, { oscSpec 0x2010 20 (within 1 1024 count && first + count ≤ 1024 && within 1 8 depth && bufferOk addr && len < 2 ^ 32)
          (serving s) with lenOk := 152 * count * depth ≤ len },
   later (fun _ => 0)⟩

def execOscReadBands (h : Hdr) (first count depth addr len : Nat) (s : State) : Host.Outcome State Fault Refusal :=
  .next (runProc (.oscReadBands h first count depth addr len) (procOscReadBands h first count depth addr len s) s)

/-- The final completion of OSC.READ_BANDS. -/
def finishReadBands (o : OpEntry) (first count depth addr : Nat) (dataBad : Bool) (s : State) : State :=
  if dataBad then finalCompletion o 0x61 [] s
  else
    let w := (List.range count).flatMap (fun i => bandsOf s (first + i) depth (s.freeCtr + 3 * depth * i))
    finalCompletion o 0 [] { hostOut addr 0x2010 w s with freeCtr := s.freeCtr + 3 * depth * count }

/-- A mode entry (Table 9-7). -/
def modeWords (rank : Nat) (m : SlowMode) : List Nat :=
  wordsOf (leBytes 4 m.freq ++ leBytes 4 (twosComp 32 m.zeta) ++ leBytes 4 m.amp ++ [m.track, rank] ++
    leBytes 2 (b2n m.forced + fld (b2n m.fresh) 1 1) ++ leBytes 4 (min 0xFFFFFFFF m.peakRatio) ++ leBytes 4 (min 0xFFFFFFFF m.age) ++
    List.replicate 8 0)

/-- A slow record: header, mode entries, shapes (Tables 9-6, 9-7). -/
def slowWords (g : Nat) (r : SlowRec) : List Nat :=
  wordsOf (DT80.bytes (dt80Of r.tag) ++ [g, r.modes.length, r.nsig, r.used] ++ leBytes 2 r.flags ++ leBytes 4 r.samples ++
    leBytes 4 r.seq ++ leBytes 4 r.excl ++ List.replicate 20 0) ++
  (List.range r.modes.length).flatMap (fun i => ((r.modes[i]?).map (modeWords i)).getD []) ++
  r.modes.flatMap (fun m => m.shape.flatMap (fun x => [x.1, x.2 % 2 ^ 32]))

/-- Records that fit whole in `words` words, newest first. -/
def fitRecords : Nat → List (List Nat) → List Nat
  | _, [] => []
  | words, r :: l => if r.length ≤ words then r ++ fitRecords (words - r.length) l else []

/-- The status of OSC.READ_MODES: a defined group, DEPTH up to its RETAIN. -/
def modesStatus (group depth : Nat) (s : State) : Nat :=
  match tfind s.sc.groups group with
  | none => 0x11
  | some g => if depth ≤ g.p.retain then 0 else 0x11

/-- OSC.READ_MODES. -/
def procOscReadModes (h : Hdr) (group depth addr len : Nat) (s : State) : Proc :=
  ⟨h, oscSpec 0x2011 16 (group < 128 && within 1 16 depth && bufferOk addr && len < 2 ^ 32) (serving s),
   later (modesStatus group depth)⟩

def execOscReadModes (h : Hdr) (group depth addr len : Nat) (s : State) : Host.Outcome State Fault Refusal :=
  .next (runProc (.oscReadModes h group depth addr len) (procOscReadModes h group depth addr len s) s)

/-- The final completion of OSC.READ_MODES: the records that fit in LEN, newest first. -/
def finishReadModes (o : OpEntry) (group depth addr len : Nat) (dataBad : Bool) (s : State) : State :=
  if dataBad then finalCompletion o 0x61 [] s
  else
    let recs := ((tfind s.sc.groups group).map (·.recs)).getD []
    let w := fitRecords (len / 4) ((recs.take depth).map (slowWords group))
    finalCompletion o 0 (leBytes 4 (4 * w.length)) (hostOut addr 0x2011 w s)

/-! ### Restart, query, counters -/

/-- A group and its signals restart at their next items (09 R308, R312). -/
def restartGroup (g : Nat) (s : State) : State :=
  { s with sc := { s.sc with
      groups := s.sc.groups.map (fun e => if e.1 == g then (e.1, { e.2 with again := true }) else e)
      sigs := s.sc.sigs.map (fun e => if e.2.p.group == g then (e.1, { e.2 with again := some s.cv.decisions }) else e) } }

/-- Every group and signal restarts. -/
def restartAll (s : State) : State :=
  { s with sc := { s.sc with
      groups := s.sc.groups.map (fun e => (e.1, { e.2 with again := true }))
      sigs := s.sc.sigs.map (fun e => (e.1, { e.2 with again := some s.cv.decisions })) } }

/-- OSC.RESTART. -/
def procOscRestart (h : Hdr) (group : Nat) (s : State) : Proc :=
  ⟨h, oscSpec 0x2018 1 (group < 128 || group == 0xFF) (serving s),
   .done (fun s => refuseIf (group != 0xFF && (tfind s.sc.groups group).isNone) 0x11
     (effect (fun s => if group == 0xFF then restartAll s else restartGroup group s)) s)⟩

def execOscRestart (h : Hdr) (group : Nat) (s : State) : Host.Outcome State Fault Refusal :=
  .next (runProc (.oscRestart h group) (procOscRestart h group s) s)

/-- What OSC.QUERY answers: SC_GRP_STAT, SEQ, TAG seconds [31:0], TAG nanoseconds. -/
def oscAnswer (group : Nat) (s : State) : List Nat :=
  match tfind s.sc.groups group with
  | none => List.replicate 16 0
  | some g =>
    let tag := match g.recs.head? with
      | some r => leBytes 4 (dt80Of r.tag).sec ++ leBytes 4 (dt80Of r.tag).ns
      | none => List.replicate 8 0
    leBytes 4 (scGrpStat s group g) ++ leBytes 4 g.seq ++ tag

/-- OSC.QUERY. -/
def procOscQuery (h : Hdr) (group : Nat) (s : State) : Proc :=
  ⟨h, oscSpec 0x2019 1 (group < 128) (inOpen s), .done (answer (oscAnswer group))⟩

def execOscQuery (h : Hdr) (group : Nat) (s : State) : Host.Outcome State Fault Refusal :=
  .next (runProc (.oscQuery h group) (procOscQuery h group s) s)

/-- The counters of the groups in a mask, or with mask 0 the global ones. -/
def clearOsc (mask : Nat) (s : State) : State :=
  if mask == 0 then clearCounters 0x109000 0x30 s
  else (bitList 128 mask).foldl (fun s g => clearCounters (oscCtr g 0) 0x20 s) s

/-- OSC.CLEAR_COUNTERS. -/
def procOscClearCounters (h : Hdr) (mask : Nat) (s : State) : Proc :=
  ⟨h, oscSpec 0x2020 16 (mask < 2 ^ 128) (serving s), .done (effect (clearOsc mask))⟩

def execOscClearCounters (h : Hdr) (mask : Nat) (s : State) : Host.Outcome State Fault Refusal :=
  .next (runProc (.oscClearCounters h mask) (procOscClearCounters h mask s) s)

end Sys2Proof.Machine
end

