-- ==== Sys2Proof/Machine/AlarmCmd.lean ====
section
/-! DEFINITION. The ALARM class (10 R318 to R321, R326, R344, R348, Table 10-15). -/

namespace Sys2Proof.Machine

/-- An ALARM opcode: it needs AL (order 2 of the handshake). -/
def alarmSpec (opcode plen : Nat) (ok mode : Bool) : CmdSpec := { specM opcode plen ok mode with blk := 2 }

/-! ### The rule block (10 R318 to R320) -/

/-- Operand kinds with a signed format (10 R319). -/
def signedKind (k : Nat) : Bool := k ≤ 4 || (8 ≤ k && k ≤ 10)

/-- A threshold is placed under 00 R11: an 18-bit signed code extended, or an unsigned one with zeros above. -/
def thresholdOk (k v : Nat) : Bool := if signedKind k then v == twosComp 32 (ofTwosComp 18 v) else v < 2 ^ 18

/-- The thresholds agree with their condition (Table 10-3). -/
def condOk (p : RuleP) : Bool :=
  let hi := threshold p p.hi
  let lo := threshold p p.lo
  let hiRst := threshold p p.hiRst
  let loRst := threshold p p.loRst
  match p.cond with
  | 0 => hiRst ≤ hi
  | 1 => lo ≤ loRst
  | 2 => lo < hi && hiRst ≤ hi && lo ≤ loRst
  | _ => 0 ≤ hiRst && hiRst ≤ hi

/-- Operand fields in the range of their kind, those the kind does not use zero (10 R318, Table 10-2). -/
def operandFields (p : RuleP) : Bool :=
  match p.kind with
  | 0 => p.a < 16384 && p.aSub < 32 && p.b < 16384 && p.bSub < 32
  | 1 => p.a < 4096 && p.b < 4096 && p.aSub == 0 && p.bSub == 0
  | 2 | 3 => p.a < 16384 && p.aSub == 0 && p.b == 0 && p.bSub == 0
  | 4 => p.a < 4096 && p.aSub == 0 && p.b == 0 && p.bSub == 0
  | 6 => p.a == 0 && p.aSub == 0 && p.b == 0 && p.bSub < 4
  | 7 => p.a < 32768 && p.aSub == 0 && p.b == 0 && p.bSub == 0
  | 8 => p.a < 128 && p.aSub < 8 && p.b == 0 && p.bSub == 0
  | 9 | 10 => p.a < 1024 && p.aSub < 16 && p.b == 0 && p.bSub == 0
  | 11 => (p.a < 16384 || p.a == 0xFFFF) && p.aSub == 0 && p.b == 0 && p.bSub == 0
  | _ => p.a == 0 && p.aSub == 0 && p.b == 0 && p.bSub == 0

/-- The REQ bits a kind uses (Table 10-4). -/
def reqMask (kind : Nat) : Nat :=
  match kind with
  | 0 => 0xF
  | 1 => 0x10
  | 2 | 3 => 7
  | 7 => 0x18
  | 8 | 9 | 10 => 4
  | _ => 0

/-- Values of a rule block (Table 10-1). -/
def ruleOk (p : RuleP) : Bool :=
  p.rule < 4096 && p.kind ≤ 12 && p.cond < 4 && p.invalid < 3 && p.gid < 64 && p.severity < 4 && within 1 255 p.pickup &&
  within 1 255 p.dropout && p.almMask < 256 && p.nq < 32 && p.xtrig < 4 && p.acqMask < 2 ^ 16 && p.req < 32 &&
  p.req == p.req &&& reqMask p.kind && operandFields p && [p.hi, p.lo, p.hiRst, p.loRst].all (fun v => v < 2 ^ 32 && thresholdOk p.kind v) &&
  condOk p

/-- A SID is a member of EVAL_GID. -/
def evalMember (s : State) (gid sid : Nat) : Bool := (getGroup s gid).any (fun g => g.members.contains sid)

/-- The objects a rule names are there (10 R320). -/
def ruleNames (s : State) (p : RuleP) : Bool :=
  let nodes := (s.ts.model.map (·.nodes.length)).getD 0
  (!(1 ≤ p.kind && p.kind ≤ 7) || p.gid == s.ts.p.gid) &&
  (match p.kind with
    | 0 => evalMember s p.gid p.a && evalMember s p.gid p.b
    | 1 => p.a < nodes && p.b < nodes
    | 2 | 3 => evalMember s p.gid p.a
    | 4 => p.a < nodes
    | 7 => p.a < (s.ts.model.map (·.meas.length)).getD 0
    | 11 => p.a == 0xFFFF || evalMember s p.gid p.a
    | _ => true)

/-- A rule as it starts. -/
def Rule.fresh (p : RuleP) (en byCommand : Bool) : Rule :=
  { p := p, en := en, active := false, forced := false, pick := 0, drop := 0, lastValid := false, lastVal := 0, lastK := none,
    lastSrc := none, invalidOpen := false, stopping := false, byCommand := byCommand }

/-- A rule is written disabled; one disabled and still active clears first, with cause DISABLED. -/
def defineRule (p : RuleP) (s : State) : State := setRule p.rule (Rule.fresh p false true) (adminClear p.rule 1 s)

/-- ALARM.RULE_DEFINE. -/
def procAlarmRuleDefine (h : Hdr) (p : RuleP) (s : State) : Proc :=
  ⟨h, { alarmSpec 0x2400 48 (ruleOk p) (serving s) with auth := .owner, cfgBusy := true },
   .done (fun s => refuseIf ((getRule s p.rule).any (·.en) || !ruleNames s p) 0x11 (effect (defineRule p)) s)⟩

def execAlarmRuleDefine (h : Hdr) (p : RuleP) (s : State) : Host.Outcome State Fault Refusal :=
  .next (runProc (.alarmRuleDefine h p) (procAlarmRuleDefine h p s) s)

/-- Rule numbers of a range. -/
def ruleRange (first count : Nat) : List Nat := (List.range count).map (first + ·)

/-- One rule is enabled, or disabled to clear at the next decision of its group (10 R325, R344). -/
def enableRule (en : Bool) (n : Nat) (s : State) : State :=
  match getRule s n with
  | none => s
  | some r =>
    if en then
      if r.en then s
      else setRule n { r with en := true, pick := 0, drop := 0, lastK := none, invalidOpen := false, stopping := false } s
    else setRule n { r with en := false, stopping := true } s

/-- Every rule of a range. -/
def enableRules (first count : Nat) (en : Bool) (s : State) : State :=
  (ruleRange first count).foldl (fun s n => enableRule en n s) s

/-- The enabled rules of every group of a range fit its RULE_CAP (10 R321). -/
def capsFit (gids : List Nat) (s : State) : Bool :=
  gids.all (fun g => (ruleGraph s g).any (fun x =>
    (s.al.rules.filter (fun e => e.2.en && e.2.p.gid == g)).length ≤ x.p.ruleCap))

/-- The status of ALARM.RULE_ENABLE. -/
def ruleEnableStatus (first count en : Nat) (s : State) : Nat :=
  let l := ruleRange first count
  let gids := (l.filterMap (fun n => (getRule s n).map (·.p.gid))).eraseDups
  firstBad [(l.any (fun n => (getRule s n).isNone), 0x11), (en == 1 && gids.any (fun g => (ruleGraph s g).isNone), 0x11),
    (en == 1 && !capsFit gids (enableRules first count true s), 0x31)]

/-- ALARM.RULE_ENABLE. -/
def procAlarmRuleEnable (h : Hdr) (first count en : Nat) (s : State) : Proc :=
  ⟨h, { alarmSpec 0x2401 8 (first < 4096 && within 1 4096 count && first + count ≤ 4096 && flag en) (serving s) with
        auth := .owner, cfgBusy := true },
   .done (fun s =>
     let st := ruleEnableStatus first count en s
     refuseIf (st != 0) st (effect (enableRules first count (en == 1))) s)⟩

def execAlarmRuleEnable (h : Hdr) (first count en : Nat) (s : State) : Host.Outcome State Fault Refusal :=
  .next (runProc (.alarmRuleEnable h first count en) (procAlarmRuleEnable h first count en s) s)

/-- A rule goes. -/
def dropRule (n : Nat) (s : State) : State := { s with al := { s.al with rules := tdel s.al.rules n } }

/-- ALARM.RULE_DELETE. -/
def procAlarmRuleDelete (h : Hdr) (rule : Nat) (s : State) : Proc :=
  ⟨h, { alarmSpec 0x2402 2 (rule < 4096) (serving s) with cfgBusy := true },
   .done (fun s => refuseIf ((getRule s rule).all (·.en)) 0x11 (effect (fun s => dropRule rule (adminClear rule 1 s))) s)⟩

def execAlarmRuleDelete (h : Hdr) (rule : Nat) (s : State) : Host.Outcome State Fault Refusal :=
  .next (runProc (.alarmRuleDelete h rule) (procAlarmRuleDelete h rule s) s)

/-- What ALARM.RULE_QUERY answers: AL_RULE0, last value, last index. -/
def ruleAnswer (rule : Nat) (s : State) : List Nat :=
  let w := alRule s rule
  leBytes 4 (w.getD 0 0) ++ leBytes 4 (w.getD 1 0) ++ leBytes 8 (((getRule s rule).bind (·.lastK)).getD 0)

/-- ALARM.RULE_QUERY. -/
def procAlarmRuleQuery (h : Hdr) (rule : Nat) (s : State) : Proc :=
  ⟨h, alarmSpec 0x2403 2 (rule < 4096) (inOpen s), .done (answer (ruleAnswer rule))⟩

def execAlarmRuleQuery (h : Hdr) (rule : Nat) (s : State) : Host.Outcome State Fault Refusal :=
  .next (runProc (.alarmRuleQuery h rule) (procAlarmRuleQuery h rule s) s)

/-! ### Lines, forces, cross-triggers -/

/-- A line takes its settings; another MODE starts with nothing latched and no pulse. -/
def setLine (p : LineP) (s : State) : State :=
  driveLines (updLine p.line (fun x =>
    if x.mode == p.mode then { x with pulseUs := p.pulseUs }
    else { mode := p.mode, pulseUs := p.pulseUs, latched := false, pulseEnd := none }) s)

/-- ALARM.LINE_CONFIG. -/
def procAlarmLineConfig (h : Hdr) (p : LineP) (s : State) : Proc :=
  ⟨h, { alarmSpec 0x2408 8 (p.line < 8 && p.mode ≤ 2 && within 1 10000000 p.pulseUs) (inCommission s) with
        auth := .owner, cfgBusy := true },
   .done (effect (setLine p))⟩

def execAlarmLineConfig (h : Hdr) (p : LineP) (s : State) : Host.Outcome State Fault Refusal :=
  .next (runProc (.alarmLineConfig h p) (procAlarmLineConfig h p s) s)

/-- Latched lines of a mask are cleared where no driving rule is active (10 R326). -/
def ackLines (mask : Nat) (s : State) : State :=
  driveLines ((bitList 8 mask).foldl (fun s l =>
    if (getLine s l).mode == 1 && !lineActive s l then updLine l (fun x => { x with latched := false }) s else s) s)

/-- Lines left set. -/
def latchedLines (s : State) : Nat := listSum ((List.range 8).map (fun l => if (getLine s l).latched then 2 ^ l else 0))

/-- ALARM.ACK. -/
def procAlarmAck (h : Hdr) (mask : Nat) (s : State) : Proc :=
  ⟨h, alarmSpec 0x2409 1 (mask < 256) (serving s), .done (fun s => ⟨0, [latchedLines (ackLines mask s)], ackLines mask s⟩)⟩

def execAlarmAck (h : Hdr) (mask : Nat) (s : State) : Host.Outcome State Fault Refusal :=
  .next (runProc (.alarmAck h mask) (procAlarmAck h mask s) s)

/-- A test rule is released, asserted or cleared by force (10 R344). -/
def forceRule (n action : Nat) (s : State) : State :=
  match getRule s n with
  | none => s
  | some r =>
    if action == 0 then setRule n { r with forced := false } s
    else if action == 1 then
      if r.active then setRule n { r with forced := true } s
      else driveLines (assertRule n r.p (r.lastK.getD 0) r.lastVal (now s)
        (setRule n { r with forced := true, active := true, pick := 0, drop := 0 } s))
    else adminClear n 4 (setRule n { r with forced := true } s)

/-- ALARM.FORCE. -/
def procAlarmForce (h : Hdr) (rule action : Nat) (s : State) : Proc :=
  ⟨h, alarmSpec 0x240A 4 (rule < 4096 && action ≤ 2) (inCommission s),
   .done (fun s => refuseIf (!(getRule s rule).any (·.p.test)) 0x11 (effect (forceRule rule action)) s)⟩

def execAlarmForce (h : Hdr) (rule action : Nat) (s : State) : Host.Outcome State Fault Refusal :=
  .next (runProc (.alarmForce h rule action) (procAlarmForce h rule action s) s)

/-- Values of ALARM.XTRIG_CONFIG (Tables 10-8, 10-9). -/
def xtrigOk (p : XtrigP) : Bool :=
  p.xinEdge < 4 && p.fwd < 4 && p.xinNote < 4 && p.nq < 32 && within 8 500000000 p.pulseNs && p.xinLatNs ≤ 1000000 &&
  within 8 1000 p.stbNs

/-- AL takes its cross-trigger settings. -/
def setXtrig (p : XtrigP) (s : State) : State := { s with al := { s.al with x := p } }

/-- ALARM.XTRIG_CONFIG. -/
def procAlarmXtrigConfig (h : Hdr) (p : XtrigP) (s : State) : Proc :=
  ⟨h, { alarmSpec 0x2410 16 (xtrigOk p) (inCommission s) with cfgBusy := true }, .done (effect (setXtrig p))⟩

def execAlarmXtrigConfig (h : Hdr) (p : XtrigP) (s : State) : Host.Outcome State Fault Refusal :=
  .next (runProc (.alarmXtrigConfig h p) (procAlarmXtrigConfig h p s) s)

/-- The counters of a range of rules, or with COUNT 0 those of AL. -/
def clearAlarms (first count : Nat) (s : State) : State :=
  if count == 0 then clearCounters 0x10B000 0x40 s else clearCounters (ruleCtr first 0) (0x20 * count) s

/-- ALARM.CLEAR_COUNTERS. -/
def procAlarmClearCounters (h : Hdr) (first count : Nat) (s : State) : Proc :=
  ⟨h, alarmSpec 0x2420 4 (first < 4096 && first + count ≤ 4096) (serving s), .done (effect (clearAlarms first count))⟩

def execAlarmClearCounters (h : Hdr) (first count : Nat) (s : State) : Host.Outcome State Fault Refusal :=
  .next (runProc (.alarmClearCounters h first count) (procAlarmClearCounters h first count s) s)

end Sys2Proof.Machine
end

