-- ==== Sys2Proof/Machine/AcqCmd.lean ====
section
/-! DEFINITION. The ACQ class (10 R334, R336, R343, R349, Table 10-16). -/

namespace Sys2Proof.Machine

/-- An ACQ opcode: it needs AQ (order 1 of the handshake). -/
def acqSpec (opcode plen : Nat) (ok mode : Bool) : CmdSpec := { specM opcode plen ok mode with blk := 1 }

/-! ### Channels and rings -/

/-- Values of a channel (Table 10-16). -/
def chanOk (p : ChanP) : Bool :=
  p.ch < 16 && p.gid < 64 && p.srcEn < 32 && flag p.retrig && p.first < 16384 && within 1 16384 p.count && p.chMask < 2 ^ 46 &&
  p.pre < 2 ^ 32 && p.post < 2 ^ 32 && within 1 1000 p.markRate

/-- A channel is set up, disabled. -/
def placeChan (p : ChanP) (byCommand : Bool) (s : State) : State :=
  setChan p.ch { p := p, en := false, markNo := 0, nextNo := 0, nextK := 0, tokens := p.markRate, tokensAt := s.tm.frc,
                 windows := [], byCommand := byCommand } s

/-- The channel an outstanding ACQ command defines, or whose ring it defines. -/
def acqPending : Instr → Option Nat
  | .acqChannelDefine _ p => some p.ch
  | .acqRingDefine _ p => some p.ch
  | _ => none

/-- A definition on a channel is under way. -/
def acqBusy (s : State) (c : Nat) : Bool := !(opsWith s (fun x => acqPending x == some c)).isEmpty

/-- A channel may be defined as it stands. -/
def chanFree (p : ChanP) (s : State) : Bool := (getChan s p.ch).isNone && groupLive s p.gid

/-- ACQ.CHANNEL_DEFINE. -/
def procAcqChannelDefine (h : Hdr) (p : ChanP) (s : State) : Proc :=
  ⟨h, { acqSpec 0x2800 28 (chanOk p) (serving s) with cfgBusy := true },
   later (fun s => firstBad [(!chanFree p s, 0x11), (acqBusy s p.ch, 0x22)])⟩

def execAcqChannelDefine (h : Hdr) (p : ChanP) (s : State) : Host.Outcome State Fault Refusal :=
  .next (runProc (.acqChannelDefine h p) (procAcqChannelDefine h p s) s)

/-- The final completion of ACQ.CHANNEL_DEFINE. -/
def finishChan (o : OpEntry) (p : ChanP) (hwFault : Bool) (s : State) : State :=
  finishAdmit o (!hwFault && chanFree p s) (placeChan p true) s

/-- Values of a ring (Table 10-16, 10 R333, R334): its buffer is 4 KiB aligned. -/
def ringOk (p : AqRingP) : Bool :=
  p.ch < 16 && p.ring < 4 && p.kind ≤ 2 && within 4 24 p.log2Slots && (if p.kind == 0 then p.n == 0 else within 2 65535 p.n) &&
  (p.vector == 0 || within 49 63 p.vector) && p.statusEvery < 256 && bufferOk p.base && p.base % 4096 == 0 && bufferOk p.statusAddr

/-- The ring's number. -/
def ringNo (p : AqRingP) : Nat := 4 * p.ch + p.ring

/-- A ring may be defined, or given its addresses, as it stands (10 R334, R343). -/
def ringFits (p : AqRingP) (s : State) : Bool :=
  match getChan s p.ch with
  | none => false
  | some c =>
    !c.en && slotBytes p.kind c.p * 2 ^ p.log2Slots ≤ 2 ^ 36 &&
    (p.vector == 0 || (p.vector != s.ev.faultVec && p.vector != s.ev.flushVec)) &&
    (getAqRing s (ringNo p)).all (fun r => !r.addressed && r.p.kind == p.kind && r.p.n == p.n && r.p.log2Slots == p.log2Slots)

/-- A ring is set up. -/
def placeRing (p : AqRingP) (addressed byCommand : Bool) (s : State) : State :=
  let rate := ((getChan s p.ch).bind (fun c => getGroup s c.p.gid)).map (·.p.rate)
  setAqRing (ringNo p) { p := p, addressed := addressed, seq := 0, dropped := 0, dropOpen := false, blk := none,
                         budget := (4 * rate.getD 0 : Nat), budgetAt := s.tm.frc, staged := [], byCommand := byCommand } s

/-- ACQ.RING_DEFINE. -/
def procAcqRingDefine (h : Hdr) (p : AqRingP) (s : State) : Proc :=
  ⟨h, { acqSpec 0x2801 28 (ringOk p) (serving s) with cfgBusy := true },
   later (fun s => firstBad [(!ringFits p s, 0x11), (acqBusy s p.ch, 0x22)])⟩

def execAcqRingDefine (h : Hdr) (p : AqRingP) (s : State) : Host.Outcome State Fault Refusal :=
  .next (runProc (.acqRingDefine h p) (procAcqRingDefine h p s) s)

/-- The final completion of ACQ.RING_DEFINE: SLOT and the bytes of the buffer. A ring of the image stays the image's. -/
def finishRing (o : OpEntry) (p : AqRingP) (hwFault : Bool) (s : State) : State :=
  let change := placeRing p true (((getAqRing s (ringNo p)).map (·.byCommand)).getD true)
  let slot := ((getChan s p.ch).map (fun c => slotBytes p.kind c.p)).getD 0
  if hwFault || !ringFits p s then finalCompletion o 0x60 [] s
  else if !admitted (change s) then finalCompletion o 0x31 [] s
  else finalCompletion o 0 (leBytes 4 slot ++ leBytes 8 (slot * 2 ^ p.log2Slots)) (change s)

/-- The status of ACQ.ENABLE: every defined ring has its addresses (10 R343). -/
def acqEnableStatus (ch en : Nat) (s : State) : Nat :=
  firstBad [((getChan s ch).isNone, 0x11),
    (en == 1 && s.aq.rings.any (fun e => e.1 / 4 == ch && !e.2.addressed), 0x11)]

/-- ACQ.ENABLE. -/
def procAcqEnable (h : Hdr) (ch en : Nat) (s : State) : Proc :=
  ⟨h, acqSpec 0x2802 2 (ch < 16 && flag en) (serving s),
   .done (fun s => refuseIf (acqEnableStatus ch en s != 0) (acqEnableStatus ch en s) (effect (enableChan ch (en == 1))) s)⟩

def execAcqEnable (h : Hdr) (ch en : Nat) (s : State) : Host.Outcome State Fault Refusal :=
  .next (runProc (.acqEnable h ch en) (procAcqEnable h ch en s) s)

/-- A channel goes with its rings. -/
def dropChan (c : Nat) (s : State) : State :=
  { s with aq := { s.aq with chans := tdel s.aq.chans c, rings := s.aq.rings.filter (fun e => e.1 / 4 != c) } }

/-- ACQ.DELETE. -/
def procAcqDelete (h : Hdr) (ch : Nat) (s : State) : Proc :=
  ⟨h, { acqSpec 0x2803 1 (ch < 16) (serving s) with cfgBusy := true },
   .done (fun s =>
     let st := firstBad [((getChan s ch).all (·.en), 0x11), (acqBusy s ch, 0x22)]
     refuseIf (st != 0) st (effect (dropChan ch)) s)⟩

def execAcqDelete (h : Hdr) (ch : Nat) (s : State) : Host.Outcome State Fault Refusal :=
  .next (runProc (.acqDelete h ch) (procAcqDelete h ch s) s)

/-! ### Triggers, query, counters -/

/-- The masks of ACQ.TRIGGER: MARK written, merged, dropped. -/
def hostTrigger : List Nat → Int → State → (Nat × Nat × Nat) × State
  | [], _, s => ((0, 0, 0), s)
  | c :: l, t, s =>
    let (r, s) := triggerChan c t 4 0 s
    let ((w, m, d), s) := hostTrigger l t s
    let b := 2 ^ c
    ((w + (if r == .written then b else 0), m + (if r == .merged then b else 0), d + (if r == .dropped then b else 0)), s)

/-- ACQ.TRIGGER: a time of zero stands for the device time at dispatch (10 R336). -/
def acqTriggerBody (mask : Nat) (t : DT80) (s : State) : Reply :=
  let at' := if t.sec == 0 && t.ns == 0 then now s else DT80.toNs t * 2 ^ 16
  let ((w, m, d), s) := hostTrigger (bitList 16 mask) at' s
  ⟨0, leBytes 2 w ++ leBytes 2 m ++ leBytes 2 d, s⟩

/-- ACQ.TRIGGER. -/
def procAcqTrigger (h : Hdr) (mask : Nat) (t : DT80) (s : State) : Proc :=
  ⟨h, acqSpec 0x2808 16 (mask < 2 ^ 16 && timeOk t) (serving s), .done (acqTriggerBody mask t)⟩

def execAcqTrigger (h : Hdr) (mask : Nat) (t : DT80) (s : State) : Host.Outcome State Fault Refusal :=
  .next (runProc (.acqTrigger h mask t) (procAcqTrigger h mask t s) s)

/-- What ACQ.QUERY answers: next SEQ of the rings, 0 for one that is not defined. -/
def acqAnswer (ch : Nat) (s : State) : List Nat :=
  (List.range 4).flatMap (fun j => leBytes 4 (((getAqRing s (4 * ch + j)).map (·.seq)).getD 0))

/-- ACQ.QUERY. -/
def procAcqQuery (h : Hdr) (ch : Nat) (s : State) : Proc :=
  ⟨h, acqSpec 0x2809 1 (ch < 16) (inOpen s), .done (answer (acqAnswer ch))⟩

def execAcqQuery (h : Hdr) (ch : Nat) (s : State) : Host.Outcome State Fault Refusal :=
  .next (runProc (.acqQuery h ch) (procAcqQuery h ch s) s)

/-- AQ takes its notice queue. -/
def setAq (nq : Nat) (s : State) : State := { s with aq := { s.aq with nq := nq } }

/-- ACQ.GCONFIG. -/
def procAcqGconfig (h : Hdr) (nq : Nat) (s : State) : Proc :=
  ⟨h, acqSpec 0x2810 1 (nq < 32) (inCommission s), .done (effect (setAq nq))⟩

def execAcqGconfig (h : Hdr) (nq : Nat) (s : State) : Host.Outcome State Fault Refusal :=
  .next (runProc (.acqGconfig h nq) (procAcqGconfig h nq s) s)

/-- The ring counters of the channels in a mask, or with mask 0 those of AQ and the low-water mark. -/
def clearAcq (mask : Nat) (s : State) : State :=
  if mask == 0 then
    let s := clearCounters 0x10C000 0x400 s
    { s with aq := { s.aq with lowKib := freeKib s } }
  else (bitList 16 mask).foldl (fun s c => clearCounters (0x10C400 + 0x80 * c) 0x80 s) s

/-- ACQ.CLEAR_COUNTERS. -/
def procAcqClearCounters (h : Hdr) (mask : Nat) (s : State) : Proc :=
  ⟨h, acqSpec 0x2820 2 (mask < 2 ^ 16) (serving s), .done (effect (clearAcq mask))⟩

def execAcqClearCounters (h : Hdr) (mask : Nat) (s : State) : Host.Outcome State Fault Refusal :=
  .next (runProc (.acqClearCounters h mask) (procAcqClearCounters h mask s) s)

end Sys2Proof.Machine
end

