-- ==== Sys2Proof/Machine/LogCmd.lean ====
section
/-! DEFINITION. The LOG class (13 R441, Table 13-14). -/

namespace Sys2Proof.Machine

/-- PROVISION, COMMISSION, the service modes and DOZE. -/
def openDoze (s : State) : Bool := inOpen s || s.pm.mode == .doze

/-- A vector of LOG.CONFIG: none, or 49 to 63. -/
def logVector (v : Nat) : Bool := v == 0 || within 49 63 v

/-- Values of LOG.CONFIG (Tables 13-8, 13-10, 13 R441). -/
def logOk (p : LogP) : Bool :=
  p.ecNq < 32 && p.evNq < 32 && within 250 2000 p.scrubMs && p.coalesceUs ≤ 1000000 && within 1 1000 p.flushMs &&
  logVector p.faultVec && logVector p.flushVec

/-- A defined AQ ring carries the vector. -/
def vectorTaken (s : State) (v : Nat) : Bool := v != 0 && s.aq.rings.any (fun e => e.2.p.vector == v)

/-- SCRUB_MS changes: passes count anew from the end of BOOT at their new length, and so do their reads (13 R418; DESIGN CHOICE,
log 78). -/
def setScrub (ms : Nat) (s : State) : State :=
  if ms == s.ec.scrubMs then s
  else { s with ec := { s.ec with scrubMs := ms, latePass := (s.tm.frc - s.ec.bootEnd) / msCounts ms,
                                  macros := s.ec.macros.map (fun e => (e.1, { e.2 with scrubbed := 0 })) } }

/-- EC and EV take their settings. -/
def setLog (p : LogP) (s : State) : State :=
  let s := setScrub p.scrubMs s
  { s with ec := { s.ec with nq := p.ecNq },
           ev := { s.ev with nq := p.evNq, coalesceUs := p.coalesceUs, flushMs := p.flushMs, faultVec := p.faultVec, flushVec := p.flushVec } }

/-- LOG.CONFIG. -/
def procLogConfig (h : Hdr) (p : LogP) (s : State) : Proc :=
  ⟨h, { specM 0x3400 12 (logOk p) (inCommission s) with cfgBusy := true },
   .done (fun s => refuseIf (vectorTaken s p.faultVec || vectorTaken s p.flushVec) 0x11 (effect (setLog p)) s)⟩

def execLogConfig (h : Hdr) (p : LogP) (s : State) : Host.Outcome State Fault Refusal :=
  .next (runProc (.logConfig h p) (procLogConfig h p s) s)

/-- LOG.SPOOL_SEEK: CUR, EV_OLDEST, EV_NEWEST. -/
def procLogSpoolSeek (h : Hdr) (seq : Nat) (s : State) : Proc :=
  ⟨h, specM 0x3401 4 (seq < 2 ^ 32) (openDoze s),
   .done (fun s =>
     let s := seekSpool seq s
     ⟨0, leBytes 4 s.ev.cur ++ leBytes 4 (evOldest s) ++ leBytes 4 (evNewest s), s⟩)⟩

def execLogSpoolSeek (h : Hdr) (seq : Nat) (s : State) : Host.Outcome State Fault Refusal :=
  .next (runProc (.logSpoolSeek h seq) (procLogSpoolSeek h seq s) s)

/-- LOG.READ. -/
def procLogRead (h : Hdr) (first count addr len : Nat) (s : State) : Proc :=
  ⟨h, { specM 0x3402 20 (first < 2 ^ 32 && within 1 8192 count && bufferOk addr && len < 2 ^ 32) (openDoze s) with
          lenOk := 32 * count ≤ len },
   later (fun _ => 0)⟩

def execLogRead (h : Hdr) (first count addr len : Nat) (s : State) : Host.Outcome State Fault Refusal :=
  .next (runProc (.logRead h first count addr len) (procLogRead h first count addr len s) s)

/-- The final completion of LOG.READ: records from FIRST, clamped as CUR is; the first SEQ and the number written. A read of
Cairn that is uncorrectable ends it DATA_UNCORRECTABLE (13 R425). -/
def finishLogRead (o : OpEntry) (first count addr : Nat) (dataBad : Bool) (s : State) : State :=
  if dataBad then finalCompletion o 0x61 [] (cairnRead [3] s).2
  else
    let c := clampCur s first
    let l := if s.cairn.log.isEmpty then [] else (logFrom s c).take count
    let (_, good, s) := readRecords l s
    if good then finalCompletion o 0 (leBytes 4 c ++ leBytes 2 l.length) (hostOut addr 0x3402 (l.flatMap logBytes) s)
    else finalCompletion o 0x61 [] s

/-- LOG.FLUSH: a flush trigger (13 R433). -/
def procLogFlush (h : Hdr) (s : State) : Proc :=
  ⟨h, specM 0x3403 0 true (openDoze s), .accepted .running (fun _ => 0) (fun _ s => flushTrigger s)⟩

def execLogFlush (h : Hdr) (s : State) : Host.Outcome State Fault Refusal :=
  .next (runProc (.logFlush h) (procLogFlush h s) s)

/-- The final completion of LOG.FLUSH, once the flush it asked has ended: EV_NEWEST. -/
def finishFlush (o : OpEntry) (hwFault : Bool) (s : State) : State :=
  if hwFault then finalCompletion o 0x60 [] s
  else if s.ev.flushing || s.ev.flushAgain then s
  else finalCompletion o 0 (leBytes 4 (evNewest s)) s

/-- LOG.WRITE: HOST_NOTE (Table 13-6). -/
def procLogWrite (h : Hdr) (severity arg : Nat) (s : State) : Proc :=
  ⟨h, specM 0x3404 8 (severity < 3 && arg < 2 ^ 56) (openDoze s), .done (effect (report 0 0x40 severity arg none))⟩

def execLogWrite (h : Hdr) (severity arg : Nat) (s : State) : Host.Outcome State Fault Refusal :=
  .next (runProc (.logWrite h severity arg) (procLogWrite h severity arg s) s)

/-- FAULT_LATCHED is cleared, unless a severity-3 record has set it in this very count (13 R428). -/
def clearFault (s : State) : State :=
  { s with ev := { s.ev with faultLatched := s.ev.faultLatched && s.ev.faultAt == some s.tm.frc } }

/-- LOG.FAULT_CLEAR: FAULT_LATCHED after it. -/
def procLogFaultClear (h : Hdr) (s : State) : Proc :=
  ⟨h, specM 0x3405 0 true (openDoze s), .done (fun s => let s := clearFault s; ⟨0, [b2n s.ev.faultLatched], s⟩)⟩

def execLogFaultClear (h : Hdr) (s : State) : Host.Outcome State Fault Refusal :=
  .next (runProc (.logFaultClear h) (procLogFaultClear h s) s)

/-- LOG.MACRO_QUERY: EC_MACRO and the hard faults since BOOT. -/
def procLogMacroQuery (h : Hdr) (mac : Nat) (s : State) : Proc :=
  ⟨h, specM 0x3408 2 (mac < 1648) (openDoze s), .done (answer (fun s => leBytes 4 (ecMacro s mac) ++ leBytes 4 (getMacro s mac).hard))⟩

def execLogMacroQuery (h : Hdr) (mac : Nat) (s : State) : Host.Outcome State Fault Refusal :=
  .next (runProc (.logMacroQuery h mac) (procLogMacroQuery h mac s) s)

/-- A bit of an injection: 0 to 79, or 0xFF for none. -/
def injectBit (b : Nat) : Bool := b < 80 || b == 0xFF

/-- A stored bit flips. -/
def flipBit (m w b : Nat) (s : State) : State :=
  if b == 0xFF then s
  else
    let l := flipsOf s m w
    setFlips m w (if l.contains b then l.filter (· != b) else l ++ [b]) s

/-- A word of a key slot or of the EV buffer, which LOG.INJECT refuses; no rule gives the map within 1,548 to 1,647. -/
def injectBarred (m w : Nat) : Bool := 1548 ≤ m && (Config.coreMemory m w == 3 || Config.coreMemory m w == 4)

/-- LOG.INJECT. -/
def procLogInject (h : Hdr) (mac word bitA bitB : Nat) (s : State) : Proc :=
  ⟨h, { specM 0x3409 6 (mac < 1648 && word < 8192 && injectBit bitA && injectBit bitB) (inCommission s) with
          auth := .owner, domOk := macroOn s mac },
   .done (fun s => refuseIf (injectBarred mac word) 0x11 (effect (fun s => flipBit mac word bitB (flipBit mac word bitA s))) s)⟩

def execLogInject (h : Hdr) (mac word bitA bitB : Nat) (s : State) : Host.Outcome State Fault Refusal :=
  .next (runProc (.logInject h mac word bitA bitB) (procLogInject h mac word bitA bitB s) s)

/-- LOG.CLEAR_COUNTERS: [0] EC, [1] EV. -/
def procLogClearCounters (h : Hdr) (mask : Nat) (s : State) : Proc :=
  ⟨h, specM 0x3420 1 (mask < 4) (openDoze s),
   .done (effect (fun s =>
     let s := if bit mask 0 then clearCounters 0x10E000 0x800 s else s
     if bit mask 1 then clearCounters 0x10E800 0x800 s else s))⟩

def execLogClearCounters (h : Hdr) (mask : Nat) (s : State) : Host.Outcome State Fault Refusal :=
  .next (runProc (.logClearCounters h mask) (procLogClearCounters h mask s) s)

end Sys2Proof.Machine
end

