-- ==== Sys2Proof/Machine/MeterCmd.lean ====
section
/-! DEFINITION. The METER class (11 R357 to R381, Table 11-14). -/

namespace Sys2Proof.Machine

/-- A METER opcode: it needs AM (order 7 of the handshake), which the handshake stops only when no element is enabled. -/
def meterSpec (opcode plen : Nat) (ok mode : Bool) (s : State) : CmdSpec :=
  { specM opcode plen ok mode with blk := if s.am.els.any (·.2.en) then 0 else 7 }

/-- COMMISSION, the service modes and DOZE. -/
def servingDoze (s : State) : Bool := serving s || s.pm.mode == .doze

/-- A METER opcode allowed in COMMISSION only; configuration it changes is BUSY under a CFG.LOAD. -/
def meterCfg (opcode plen : Nat) (ok : Bool) (s : State) : CmdSpec :=
  { meterSpec opcode plen ok (inCommission s) s with cfgBusy := true }

/-- A METER opcode allowed in COMMISSION only that asks an owner tag. -/
def meterOwner (opcode plen : Nat) (ok : Bool) (s : State) : CmdSpec :=
  { meterSpec opcode plen ok (inCommission s) s with auth := .owner }

/-! ### Channels (11 R352, R353, R357, R358) -/

/-- Values of a channel (Tables 11-1, 11-2, 11-9). -/
def mchanOk (p : MChanP) : Bool :=
  p.ch < 12 && flag p.en && p.kind < 4 && p.sensor < 4 && [0, 1, 2, 5].contains p.respRec && (p.respAlm == 3 || p.respAlm == 4) &&
  p.tempSrc < 3 && (p.tempSrc != 1 || p.tempCh < 12) && p.tempCh < 16 && p.fs < 2 ^ 32 && (p.kind == 0 || positive p.fs)

/-- Values of a calibration (Table 11-3, 11-7). -/
def calOk (p : CalP) : Bool :=
  p.ch < 12 && p.gainS < 2 ^ 32 && signedFits 18 p.offsetS && p.gainR < 2 ^ 32 && 0 ≤ p.offsetR && signedFits 18 p.offsetR &&
  signedFits 32 p.phDelay && signedFits 18 p.phOfs && signedFits 32 p.tcA1 && signedFits 32 p.tcA2 && signedFits 32 p.tcB1 &&
  signedFits 32 p.tRef

/-- An enabled element uses the channel. -/
def chanInUse (s : State) (ch : Nat) : Bool := (elementsUsing s ch).any (fun e => (getElem' s e).en)

/-- Temperature terms of a calibration are 0 (Table 11-1). -/
def noTemp (c : CalP) : Bool := c.tcA1 == 0 && c.tcA2 == 0 && c.tcB1 == 0

/-- The virtual streams that select a channel report a change (11 R362). -/
def markVs (ch : Nat) (s : State) : State :=
  { s with am := { s.am with vss := s.am.vss.map (fun e => if (vsChans s e.2.p).contains ch then (e.1, { e.2 with changed := true }) else e) } }

/-- A channel takes its settings: it restarts when they enable it, and has no valid sample once they disable it (11 R352); a host
temperature received already serves it. -/
def setMChan (p : MChanP) (s : State) : State :=
  updMChan p.ch (fun c =>
    let starts := p.en == 1 && c.p.en != 1
    let c := { c with p := p, tempStale := false }
    let c := if p.tempSrc == 2 then { c with temp := if c.hostTemp.isSome then c.hostTemp else c.temp } else c
    if starts then c.restart s
    else if p.en == 1 then c else { c with recSample := none, almSample := none, overrange := false, modFault := false }) (markVs p.ch s)

/-- A channel takes its calibration. -/
def setCal (p : CalP) (s : State) : State := updMChan p.ch (fun c => { c with c := p }) (markVs p.ch s)

/-- METER.CHANNEL_CONFIG. -/
def procMeterChannelConfig (h : Hdr) (p : MChanP) (s : State) : Proc :=
  ⟨h, { meterOwner 0x2C00 12 (mchanOk p) s with cfgBusy := true },
   .done (fun s => refuseIf (chanInUse s p.ch || (p.sensor < 2 && !noTemp (getMChan s p.ch).c)) 0x11 (effect (setMChan p)) s)⟩

def execMeterChannelConfig (h : Hdr) (p : MChanP) (s : State) : Host.Outcome State Fault Refusal :=
  .next (runProc (.meterChannelConfig h p) (procMeterChannelConfig h p s) s)

/-- METER.CALIBRATE. -/
def procMeterCalibrate (h : Hdr) (p : CalP) (s : State) : Proc :=
  ⟨h, { meterOwner 0x2C01 44 (calOk p) s with cfgBusy := true },
   .done (fun s => refuseIf (chanInUse s p.ch || ((getMChan s p.ch).p.sensor < 2 && !noTemp p)) 0x11 (effect (setCal p)) s)⟩

def execMeterCalibrate (h : Hdr) (p : CalP) (s : State) : Host.Outcome State Fault Refusal :=
  .next (runProc (.meterCalibrate h p) (procMeterCalibrate h p s) s)

/-- A channel receives a temperature from the host (11 R353). -/
def setTemp (ch : Nat) (t : Int) (s : State) : State :=
  updMChan ch (fun c =>
    let c := { c with hostTemp := some t, tempAt := some s.tm.frc }
    if c.p.tempSrc == 2 then { c with temp := some t, tempStale := false } else c) s

/-- METER.SENSOR_TEMP. -/
def procMeterSensorTemp (h : Hdr) (ch : Nat) (t : Int) (s : State) : Proc :=
  ⟨h, { meterSpec 0x2C02 4 (ch < 12 && signedFits 16 t) (servingDoze s) s with domOk := anchorOn s },
   .done (effect (setTemp ch t))⟩

def execMeterSensorTemp (h : Hdr) (ch : Nat) (t : Int) (s : State) : Host.Outcome State Fault Refusal :=
  .next (runProc (.meterSensorTemp h ch t) (procMeterSensorTemp h ch t s) s)

/-! ### Elements (11 R364, R367, R377) -/

/-- Values of an element (Table 11-10, 11 R364). -/
def elemValuesOk (p : ElemP) : Bool :=
  p.el < 4 && within 1 3 p.phases && flag p.dir && p.ulsb ≤ 9 && within 6 19 p.digits && p.chans.length == 6 &&
  (p.chans.take (2 * p.phases)).all (· < 12) && p.chans.all (· < 16) && finite p.noloadVa && !bit p.noloadVa 31

/-- Voltage and current channels an element uses. -/
def elemV (p : ElemP) : List Nat := (List.range p.phases).map (fun i => p.chans.getD (2 * i) 0)
def elemI (p : ElemP) : List Nat := (List.range p.phases).map (fun i => p.chans.getD (2 * i + 1) 0)

/-- All full scales of a list of channels agree. -/
def oneFs (s : State) (l : List Nat) : Bool := l.all (fun k => (getMChan s k).p.fs == (getMChan s (l.headD 0)).p.fs)

/-- No value occurs twice. -/
def allDistinct : List Nat → Bool
  | [] => true
  | x :: l => !l.contains x && allDistinct l

/-- An element obeys the limits of 11 R364 beside the other elements. -/
def elemLimits (p : ElemP) (s : State) : Bool :=
  (elemV p).all (fun k => (getMChan s k).p.kind == 1) && (elemI p).all (fun k => (getMChan s k).p.kind == 2) &&
  oneFs s (elemV p) && oneFs s (elemI p) && allDistinct (elemI p) &&
  (List.range 4).all (fun e =>
    let x := getElem' s e
    e == p.el || !x.defd || (elemI x.p).all (fun k => !(elemI p).contains k))

/-- An element is defined, disabled. -/
def placeElem (p : ElemP) (s : State) : State :=
  updElem p.el (fun x => { x with p := p, defd := true, en := false, running := false }) s

/-- METER.ELEMENT_DEFINE. -/
def procMeterElementDefine (h : Hdr) (p : ElemP) (s : State) : Proc :=
  ⟨h, { meterOwner 0x2C08 16 (elemValuesOk p) s with cfgBusy := true },
   .done (fun s => refuseIf ((getElem' s p.el).en || !elemLimits p s) 0x11 (effect (placeElem p)) s)⟩

def execMeterElementDefine (h : Hdr) (p : ElemP) (s : State) : Host.Outcome State Fault Refusal :=
  .next (runProc (.meterElementDefine h p) (procMeterElementDefine h p s) s)

/-- An element is enabled or disabled between two blocks (11 R377): disabled, its open block closes; enabled, it starts a new
block. -/
def enableElem (el : Nat) (en : Bool) (s : State) : State :=
  let s := if (getElem' s el).en && !en then closeBlock el 64 s else s
  updElem el (fun x => if x.en == en then x else
    { x with en := en, running := en && energyRuns s, blockAt := s.tm.frc, cycle := 0 }) s

/-- METER.ELEMENT_ENABLE: an element that no longer obeys 11 R364 is not enabled. -/
def procMeterElementEnable (h : Hdr) (el en : Nat) (s : State) : Proc :=
  ⟨h, meterOwner 0x2C09 2 (el < 4 && flag en) s,
   .done (fun s =>
     let x := getElem' s el
     refuseIf (!x.defd || (en == 1 && !elemLimits x.p s)) 0x11 (effect (enableElem el (en == 1))) s)⟩

def execMeterElementEnable (h : Hdr) (el en : Nat) (s : State) : Host.Outcome State Fault Refusal :=
  .next (runProc (.meterElementEnable h el en) (procMeterElementEnable h el en s) s)

/-- Register `r` of an element. -/
def elemReg (s : State) (e r : Nat) : EReg := (getElem' s e).regs.getD r ⟨0, 0, 0⟩

/-- METER.ENERGY_READ: COUNT, ROLLOVER, AM_EL_STAT. -/
def procMeterEnergyRead (h : Hdr) (el reg : Nat) (s : State) : Proc :=
  ⟨h, { meterSpec 0x2C0A 2 (el < 4 && reg < 8) (inOpen s || s.pm.mode == .doze) s with domOk := anchorOn s },
   .done (answer (fun s => leBytes 8 (elemReg s el reg).count ++ leBytes 4 (elemReg s el reg).roll ++ leBytes 4 (amElStat s el)))⟩

def execMeterEnergyRead (h : Hdr) (el reg : Nat) (s : State) : Host.Outcome State Fault Refusal :=
  .next (runProc (.meterEnergyRead h el reg) (procMeterEnergyRead h el reg s) s)

/-- A register is preset: COUNT and ROLLOVER; its fraction stays. The record carries old and new values (Table 13-6). -/
def presetReg (el reg rollover count : Nat) (s : State) : State :=
  let g := elemReg s el reg
  let s := updElem el (fun x => { x with regs := x.regs.set reg { g with count := count, roll := rollover } }) s
  report 11 0x40 (Config.presetSeverity % 4) (fld el 54 2 + fld reg 51 3)
    (some (leBytes 8 g.count ++ leBytes 4 g.roll ++ leBytes 8 count ++ leBytes 4 rollover)) s

/-- METER.ENERGY_PRESET: not applied once the Ballast snapshot is taken (11 R377). -/
def procMeterEnergyPreset (h : Hdr) (el reg rollover count : Nat) (s : State) : Proc :=
  ⟨h, meterOwner 0x2C0C 16 (el < 4 && reg < 8 && rollover < 2 ^ 32 && count < 2 ^ 64) s,
   .done (fun s => refuseIf (10 ^ (getElem' s el).p.digits ≤ count || s.am.halted) 0x11 (effect (presetReg el reg rollover count)) s)⟩

def execMeterEnergyPreset (h : Hdr) (el reg rollover count : Nat) (s : State) : Host.Outcome State Fault Refusal :=
  .next (runProc (.meterEnergyPreset h el reg rollover count) (procMeterEnergyPreset h el reg rollover count s) s)

/-! ### The signed statement (Table 11-15, 12 R400) -/

/-- Bytes of a signature: r‖s of P-256 or P-384. -/
def sigBytes (alg : Nat) : Nat := if alg == 3 then 96 else 64

/-- Bytes of a statement over a mask of elements, its signature included. -/
def statementLen (s : State) (mask slot : Nat) : Nat :=
  32 + 104 * popcount 4 mask + sigBytes (((getSlot s slot).map (·.alg)).getD 0)

/-- The bytes of a statement before its signature. -/
def statementBody (mask : Nat) (s : State) : List Nat :=
  leBytes 4 familyId ++ leBytes 4 s.cairn.stmtCtr ++ DT80.bytes (dt80Of (now s)) ++ [s.tm.tq.code, mask] ++
  List.replicate 12 0 ++ (bitList 4 mask).flatMap (fun e =>
    let x := getElem' s e
    [x.p.ulsb, x.p.digits, e] ++ List.replicate 5 0 ++
    (List.range 8).flatMap (fun r => leBytes 8 (elemReg s e r).count ++ leBytes 4 (elemReg s e r).roll))

/-- The signature of a slot's private key over bytes, with a nonce from the DRBG (12 R401). -/
def signBytes (s : State) (slot : Nat) (body : List Nat) : List Nat :=
  match getSlot s slot with
  | some k => ecdsaSign (if k.alg == 2 then p256 else p384) k.material (drawRandom s).1 body
  | none => []

/-- The status of METER.ENERGY_SIGNED; an ORPHANED slot shows in the final completion. -/
def signedStatus (mask slot len : Nat) (s : State) : Nat :=
  firstBad [(keyUse s slot 3 [2, 3] == 0x11, 0x11), (len < statementLen s mask slot, 0x12), (stmtTaken s, 0x30)]

/-- METER.ENERGY_SIGNED. -/
def procMeterEnergySigned (h : Hdr) (mask slot addr len : Nat) (s : State) : Proc :=
  ⟨h, { meterSpec 0x2C0B 20 (mask < 16 && slot < 256 && bufferOk addr && len < 2 ^ 32) (servingDoze s) s with
          domOk := anchorOn s, lenOk := 512 ≤ len },
   later (signedStatus mask slot len)⟩

def execMeterEnergySigned (h : Hdr) (mask slot addr len : Nat) (s : State) : Host.Outcome State Fault Refusal :=
  .next (runProc (.meterEnergySigned h mask slot addr len) (procMeterEnergySigned h mask slot addr len s) s)

/-- The final completion of METER.ENERGY_SIGNED. -/
def finishSigned (o : OpEntry) (mask slot addr len : Nat) (hwFault : Bool) (s : State) : State :=
  if hwFault || stmtEnded s || !drbgServes s then finalCompletion o 0x60 [] s
  else if keyUse s slot 3 [2, 3] != 0 || len < statementLen s mask slot then finalCompletion o 0x42 [] (countRevoked 0x42 s)
  else
    let body := statementBody mask s
    finalCompletion o 0 [] (hostOut addr 0x2C0B (body ++ signBytes s slot body) (takeStatement (drawRandom s).2))

/-! ### Pulses, virtual streams, Ballast sets -/

/-- Values of a pulse output (11 R370). -/
def pulseOk (p : PulseP) : Bool :=
  p.pulse < 4 && flag p.en && p.el < 4 && p.reg < 8 && within 1 80 p.widthMs && flag p.pol && within 1 (2 ^ 32 - 1) p.kh

/-- A pulse output takes its settings: its residue and backlog start empty. -/
def setPulseP (p : PulseP) (s : State) : State :=
  setPulse p.pulse { getPulse s p.pulse with p := p, residue := 0, backlog := [], prev := none, high := false, ovfOpen := false } s

/-- METER.PULSE_CONFIG. -/
def procMeterPulseConfig (h : Hdr) (p : PulseP) (s : State) : Proc :=
  ⟨h, meterOwner 0x2C10 12 (pulseOk p) s, .done (effect (setPulseP p))⟩

def execMeterPulseConfig (h : Hdr) (p : PulseP) (s : State) : Host.Outcome State Fault Refusal :=
  .next (runProc (.meterPulseConfig h p) (procMeterPulseConfig h p s) s)

/-- Values of a virtual stream (11 R360). -/
def vsOk (p : VsP) : Bool :=
  p.vs < 8 && p.cls < 3 && p.ref < 4 && (p.fnom == 50 || p.fnom == 60) && reportingRates.contains p.rate &&
  (p.cls == 2 || p.rate ≤ 2 * p.fnom) && p.phMask < 2 ^ 12 && p.seqMask < 16

/-- Channels a virtual stream holds (Table 11-5). -/
def vsLayout (p : VsP) : List Nat :=
  bitList 12 p.phMask ++ (bitList 4 p.seqMask).map (12 + ·) ++ (bitList 4 p.seqMask).map (16 + ·) ++ [32, 33] ++
  (bitList 4 p.seqMask).flatMap (fun e => [34 + 2 * e, 35 + 2 * e]) ++ [42]

/-- The stream of a virtual stream, METHOD and ALIGN at their reset values, its channels as a member map. -/
def vsStreamP (p : VsP) : StreamP :=
  { sid := 16376 + p.vs, proto := 0, authMode := 0, portMask := 0, lane := 0, method := 0, align := 0, rate := p.rate, fnom := p.fnom,
    qlimit := 0, srcAddr := 0, udpDst := 0, block := 0, keyCur := 0xFF, keyNext := 0xFF, tqMax := 0, unlockMax := 0, idcode := 0,
    keyIdCur := 0, keyIdNext := 0, format := 0, framesize := 0, timeBase := 0, blockOfs := 0, phnmr := 0, annmr := 0, dgnmr := 0,
    svidLen := 0, phSel := 0, anSel := 0, dgSel := 0, svid := [], phFs := [], phFactor := [], anFs := [], anFactor := [],
    memberMap := (vsLayout p).map (128 + ·) }

/-- A virtual stream stands in its slot, without its notice. -/
def putVs (p : VsP) (byCommand : Bool) (s : State) : State :=
  { s with am := { s.am with vss := tset s.am.vss p.vs ⟨p, 0, 0, true, none⟩ },
           si := { s.si with streams := tset s.si.streams (16376 + p.vs) (Stream.fresh (vsStreamP p) byCommand) } }

/-- A virtual stream is installed as LISTENING (05 R183). -/
def placeVs (p : VsP) (byCommand : Bool) (s : State) : State :=
  let old := ((getStream s (16376 + p.vs)).map (·.state)).getD .unconfigured
  noteState (16376 + p.vs) old .listening (putVs p byCommand s)

/-- An element of a mask has two phases (11 R361). -/
def twoPhase (mask : Nat) (s : State) : Bool := (bitList 4 mask).any (fun e => (getElem' s e).defd && (getElem' s e).p.phases == 2)

/-- A METER.VSTREAM_DEFINE of the stream is under way. -/
def vsPending (s : State) (vs : Nat) : Bool :=
  !(opsWith s (fun i => match i with | .meterVstreamDefine _ q => q.vs == vs | _ => false)).isEmpty

/-- METER.VSTREAM_DEFINE. -/
def procMeterVstreamDefine (h : Hdr) (p : VsP) (s : State) : Proc :=
  ⟨h, meterCfg 0x2C18 12 (vsOk p) s, later (fun s => firstBad [(twoPhase p.seqMask s, 0x11), (vsPending s p.vs, 0x22)])⟩

def execMeterVstreamDefine (h : Hdr) (p : VsP) (s : State) : Host.Outcome State Fault Refusal :=
  .next (runProc (.meterVstreamDefine h p) (procMeterVstreamDefine h p s) s)

/-- The final completion of METER.VSTREAM_DEFINE. -/
def finishVs (o : OpEntry) (p : VsP) (hwFault : Bool) (s : State) : State :=
  if hwFault || twoPhase p.seqMask s then finalCompletion o 0x60 [] s
  else if !admitted (putVs p true s) then finalCompletion o 0x31 [] s
  else finalCompletion o 0 [] (placeVs p true s)

/-- A virtual stream goes with its stream. -/
def dropVs (vs : Nat) (s : State) : State :=
  let s := removeStream (16376 + vs) s
  { s with am := { s.am with vss := tdel s.am.vss vs } }

/-- METER.VSTREAM_REMOVE. -/
def procMeterVstreamRemove (h : Hdr) (vs : Nat) (s : State) : Proc :=
  ⟨h, meterCfg 0x2C19 1 (vs < 8) s,
   .done (fun s =>
     let st := firstBad [((tfind s.am.vss vs).isNone || s.erg.groups.any (fun g => g.2.members.contains (16376 + vs)), 0x11),
       (vsPending s vs, 0x22)]
     refuseIf (st != 0) st (effect (dropVs vs)) s)⟩

def execMeterVstreamRemove (h : Hdr) (vs : Nat) (s : State) : Host.Outcome State Fault Refusal :=
  .next (runProc (.meterVstreamRemove h vs) (procMeterVstreamRemove h vs s) s)

/-- A Ballast set takes its settings. -/
def setBallast (p : BallastP) (s : State) : State := { s with am := { s.am with sets := tset s.am.sets p.set p } }

/-- METER.BALLAST_DEFINE. -/
def procMeterBallastDefine (h : Hdr) (p : BallastP) (s : State) : Proc :=
  ⟨h, meterOwner 0x2C20 4 (p.set < 8 && flag p.en && p.el < 4 && p.mask < 256) s,
   .done (fun s => refuseIf (p.en == 1 && !(getElem' s p.el).defd) 0x11 (effect (setBallast p)) s)⟩

def execMeterBallastDefine (h : Hdr) (p : BallastP) (s : State) : Host.Outcome State Fault Refusal :=
  .next (runProc (.meterBallastDefine h p) (procMeterBallastDefine h p s) s)

/-! ### Saves, settings, query, counters -/

/-- METER.SAVE. -/
def procMeterSave (h : Hdr) (s : State) : Proc :=
  ⟨h, meterSpec 0x2C21 0 true (servingDoze s) s, later (fun s => if runningOp s 0x2C21 || s.am.halted then 0x22 else 0)⟩

def execMeterSave (h : Hdr) (s : State) : Host.Outcome State Fault Refusal :=
  .next (runProc (.meterSave h) (procMeterSave h s) s)

/-- The final completion of METER.SAVE: the copy is valid, or it is not. -/
def finishSave (o : OpEntry) (hwFault : Bool) (s : State) : State :=
  if hwFault then finalCompletion o 0x60 [] (saveFailed s) else finalCompletion o 0 [] (periodicSave s)

/-- Values of METER.CONFIG (Table 11-8). -/
def meterOk (p : MeterP) : Bool := p.nq < 32 && flag p.sdclkEn && within 1 3600 p.saveS

/-- AM takes its settings; SD_CLK started again restarts every channel (11 R351). -/
def setMeter (p : MeterP) (s : State) : State :=
  let s := if p.sdclkEn == 1 && !s.am.sdclkEn then restartChannels s else s
  { s with am := { s.am with nq := p.nq, sdclkEn := p.sdclkEn == 1, saveS := p.saveS } }

/-- METER.CONFIG. -/
def procMeterConfig (h : Hdr) (p : MeterP) (s : State) : Proc := ⟨h, meterCfg 0x2C28 4 (meterOk p) s, .done (effect (setMeter p))⟩

def execMeterConfig (h : Hdr) (p : MeterP) (s : State) : Host.Outcome State Fault Refusal :=
  .next (runProc (.meterConfig h p) (procMeterConfig h p s) s)

/-- What METER.QUERY answers: AM_STAT, AM_PFW, the newest periodic save sequence and its age in s. -/
def meterAnswer (s : State) : List Nat :=
  let c := newestCopy s.cairn.periodic
  let age := match c with
    | some c => ((now s - copyTime c.sec c.ns) / (1000000000 * 2 ^ 16)).toNat
    | none => 0
  leBytes 4 (amStat s) ++ leBytes 4 (fld s.am.pfwDur 16 16 + fld s.am.ballastWrites 0 16) ++
  leBytes 4 ((c.map (·.seq)).getD 0) ++ leBytes 4 (min age (2 ^ 32 - 1))

/-- METER.QUERY. -/
def procMeterQuery (h : Hdr) (s : State) : Proc :=
  ⟨h, { meterSpec 0x2C29 0 true (inOpen s || s.pm.mode == .doze) s with domOk := anchorOn s }, .done (answer meterAnswer)⟩

def execMeterQuery (h : Hdr) (s : State) : Host.Outcome State Fault Refusal :=
  .next (runProc (.meterQuery h) (procMeterQuery h s) s)

/-- The counters of the elements and channels in a mask, or with mask 0 the global ones. -/
def clearMeter (mask : Nat) (s : State) : State :=
  if mask == 0 then clearCounters (amCtr 0) 0x200 s
  else
    let s := (bitList 4 mask).foldl (fun s e => clearCounters (elCtr e 0) 0x40 s) s
    (bitList 12 (mask / 16)).foldl (fun s k => clearCounters (chCtr k 0) 0x20 s) s

/-- METER.CLEAR_COUNTERS. -/
def procMeterClearCounters (h : Hdr) (mask : Nat) (s : State) : Proc :=
  ⟨h, meterSpec 0x2C30 2 (mask < 2 ^ 16) (inCommission s) s, .done (effect (clearMeter mask))⟩

def execMeterClearCounters (h : Hdr) (mask : Nat) (s : State) : Host.Outcome State Fault Refusal :=
  .next (runProc (.meterClearCounters h mask) (procMeterClearCounters h mask s) s)

end Sys2Proof.Machine
end

