-- ==== Sys2Proof/Machine/PortCmd.lean ====
section
/-! DEFINITION. The PORT class (03 R120, Table 3-13). The effect of each setting is an operation of its own, which CFG.COMMIT
uses too. -/

namespace Sys2Proof.Machine

/-- A PORT opcode: it needs D_PORTS and NP (order 6 of the handshake). -/
def portSpec (opcode plen : Nat) (ok mode : Bool) (s : State) : CmdSpec :=
  { opcode := opcode, plen := plen, paramOk := ok, modeOk := mode, domOk := portsOn s, blk := 6 }

/-- A PORT opcode that needs an owner tag. -/
def portOwner (opcode plen : Nat) (ok mode : Bool) (s : State) : CmdSpec :=
  { portSpec opcode plen ok mode s with auth := .owner }

/-! ### PORT.CONFIG -/

/-- LINE suits the port (Table 3-1). -/
def lineOk (port line : Nat) : Bool := if port == 4 then line == 0 || line == 4 || line == 5 else line < 4

/-- Values of PORT.CONFIG. -/
def portOk (p : PortP) : Bool := p.port < 5 && lineOk p.port p.line && within 64 9216 p.maxlen && p.mac < 2 ^ 48

/-- A port takes LINE, MAXLEN and address; a change of LINE drops its link (03 R118). -/
def setPort (p : PortP) (s : State) : State :=
  let old := getPort s p.port
  let s := if old.line == p.line then s else ptpLinkDown p.port (dropLink p.port s)
  updPort p.port (fun t => { t with en := p.line != 0, line := p.line, maxlen := p.maxlen, mac := p.mac }) s

/-- A PORT.CONFIG of port `n`. -/
def configsPort (n : Nat) : Instr → Bool
  | .portConfig _ q => q.port == n
  | _ => false

/-- Both ports of an enabled pair go on running the same LINE and MAXLEN (03 R93). -/
def keepsPair (p : PortP) (s : State) : Bool :=
  match pairOf s p.port with
  | none => true
  | some n =>
    let o := getPort s (4 * n + 1 - p.port)
    o.line == p.line && o.maxlen == p.maxlen

/-- PORT.CONFIG: BAD_PARAM where it makes the ports of an enabled pair differ (DESIGN CHOICE, log 74), BUSY while one for the
same port runs. -/
def procPortConfig (h : Hdr) (p : PortP) (s : State) : Proc :=
  ⟨h, portSpec 0x0800 12 (portOk p) (inSetup s) s,
   later (fun s => firstBad [(!keepsPair p s, 0x11), (opsWith s (configsPort p.port) != [], 0x22)])⟩

def execPortConfig (h : Hdr) (p : PortP) (s : State) : Host.Outcome State Fault Refusal :=
  .next (runProc (.portConfig h p) (procPortConfig h p s) s)

/-- The final completion of PORT.CONFIG. -/
def finishPortConfig (o : OpEntry) (p : PortP) (hwFault : Bool) (s : State) : State :=
  if hwFault || !keepsPair p s then finalCompletion o 0x60 [] s else finalCompletion o 0 [] (setPort p s)

/-! ### Filters, classes, intake -/

/-- Exact entry `index` of a port (03 R87). -/
def setExact (port index en addr : Nat) (s : State) : State :=
  updPort port (fun t => { t with exact := tset t.exact index (en == 1, addr) }) s

/-- PORT.SET_EXACT. -/
def procPortSetExact (h : Hdr) (port index en addr : Nat) (s : State) : Proc :=
  ⟨h, portSpec 0x0801 10 (port < 5 && index < 16 && flag en && addr < 2 ^ 48) true s, .done (effect (setExact port index en addr))⟩

def execPortSetExact (h : Hdr) (port index en addr : Nat) (s : State) : Host.Outcome State Fault Refusal :=
  .next (runProc (.portSetExact h port index en addr) (procPortSetExact h port index en addr s) s)

/-- Values of PORT.SET_HASH (03 R88). -/
def hashOk (p : HashP) : Bool := p.port < 5 && p.hsel < 3 && flag p.bcast && flag p.promisc && p.words.all (· < 2 ^ 32)

/-- Hash words, HSEL, BCAST_EN and PROMISC of a port. -/
def setHash (p : HashP) (s : State) : State :=
  updPort p.port (fun t => { t with hsel := p.hsel, bcast := p.bcast == 1, promisc := p.promisc == 1, hash := p.words }) s

/-- PORT.SET_HASH. -/
def procPortSetHash (h : Hdr) (p : HashP) (s : State) : Proc := ⟨h, portSpec 0x0802 68 (hashOk p) true s, .done (effect (setHash p))⟩

def execPortSetHash (h : Hdr) (p : HashP) (s : State) : Host.Outcome State Fault Refusal :=
  .next (runProc (.portSetHash h p) (procPortSetHash h p s) s)

/-- Values of PORT.SET_VLAN (03 R90). -/
def vlanOk (p : VlanP) : Bool := p.port < 5 && flag p.mode && p.count ≤ 16 && p.vids.all (· < 4096)

/-- The VID list of a port. -/
def setVlan (p : VlanP) (s : State) : State := updPort p.port (fun t => { t with vlanList := p.mode == 1, vids := p.vids }) s

/-- PORT.SET_VLAN. -/
def procPortSetVlan (h : Hdr) (p : VlanP) (s : State) : Proc :=
  ⟨h, portSpec 0x0803 (4 + 2 * p.count) (vlanOk p) true s, .done (effect (setVlan p))⟩

def execPortSetVlan (h : Hdr) (p : VlanP) (s : State) : Host.Outcome State Fault Refusal :=
  .next (runProc (.portSetVlan h p) (procPortSetVlan h p s) s)

/-- Values of PORT.SET_INTAKE; M0 has no intake (03 R80). -/
def intakeOk (port : Nat) (e : List IntakeEntry) : Bool := port < 4 && e.all (fun x => x.udp < 2 ^ 16 && flag x.en && flag x.proto)

/-- The intake entries of a port (03 R91). -/
def setIntake (port : Nat) (e : List IntakeEntry) (s : State) : State := updPort port (fun t => { t with intake := e }) s

/-- PORT.SET_INTAKE. -/
def procPortSetIntake (h : Hdr) (port : Nat) (e : List IntakeEntry) (s : State) : Proc :=
  ⟨h, portSpec 0x0804 20 (intakeOk port e) (inSetup s) s, .done (effect (setIntake port e))⟩

def execPortSetIntake (h : Hdr) (port : Nat) (e : List IntakeEntry) (s : State) : Host.Outcome State Fault Refusal :=
  .next (runProc (.portSetIntake h port e) (procPortSetIntake h port e s) s)

/-- NP_PT_MAP of a port (03 R92). -/
def setPtMap (port map : Nat) (s : State) : State := updPort port (fun t => { t with ptMap := map }) s

/-- PORT.SET_PT_MAP. -/
def procPortSetPtMap (h : Hdr) (port map : Nat) (s : State) : Proc :=
  ⟨h, portSpec 0x0805 8 (port < 5) true s, .done (effect (setPtMap port map))⟩

def execPortSetPtMap (h : Hdr) (port map : Nat) (s : State) : Host.Outcome State Fault Refusal :=
  .next (runProc (.portSetPtMap h port map) (procPortSetPtMap h port map s) s)

/-! ### PRP -/

/-- Values of PORT.PRP_PAIR. -/
def prpOk (p : PrpP) : Bool := p.pair < 2 && flag p.en && within 100 10000 p.supMs && within 10 10000 p.forgetMs

/-- Both ports of a pair run the same LINE and MAXLEN (03 R93). -/
def pairAlike (s : State) (n : Nat) : Bool :=
  (getPort s (2 * n)).line == (getPort s (2 * n + 1)).line && (getPort s (2 * n)).maxlen == (getPort s (2 * n + 1)).maxlen

/-- A pair takes its settings; when it becomes enabled, its discard table and LAN supervision start empty (03 R94, R98). -/
def setPrp (p : PrpP) (s : State) : State :=
  updPrp p.pair (fun x =>
    let y := { x with en := p.en == 1, supMs := p.supMs, forgetMs := p.forgetMs }
    if x.en then y
    else { y with entries := [], silentA := s.tm.frc, silentB := s.tm.frc, heardA := false, heardB := false,
                  lostA := false, lostB := false, supAt := s.tm.frc }) s

/-- PORT.PRP_PAIR. -/
def procPortPrpPair (h : Hdr) (p : PrpP) (s : State) : Proc :=
  ⟨h, portSpec 0x0808 6 (prpOk p) (inSetup s) s, .done (fun s => refuseIf (!pairAlike s p.pair) 0x11 (effect (setPrp p)) s)⟩

def execPortPrpPair (h : Hdr) (p : PrpP) (s : State) : Host.Outcome State Fault Refusal :=
  .next (runProc (.portPrpPair h p) (procPortPrpPair h p s) s)

/-! ### MACsec (03 R99 to R103) -/

/-- Values of PORT.MACSEC_CFG; M0 has no MACsec. -/
def macsecOk (p : MacsecP) : Bool :=
  p.port < 4 && flag p.en && p.validate < 3 && p.replay < 2 ^ 32 && p.sciPort < 2 ^ 16 && p.pnThresh < 2 ^ 64

/-- The MACsec settings of a port. -/
def setMacsec (p : MacsecP) (s : State) : State :=
  updPort p.port (fun t => { t with macsecEn := p.en == 1, validate := p.validate, replay := p.replay, sciPort := p.sciPort,
                                    pnThresh := p.pnThresh }) s

/-- PORT.MACSEC_CFG. -/
def procPortMacsecCfg (h : Hdr) (p : MacsecP) (s : State) : Proc :=
  ⟨h, portOwner 0x0810 20 (macsecOk p) true s, .done (effect (setMacsec p))⟩

def execPortMacsecCfg (h : Hdr) (p : MacsecP) (s : State) : Host.Outcome State Fault Refusal :=
  .next (runProc (.portMacsecCfg h p) (procPortMacsecCfg h p s) s)

/-- A receive SA is numbered 4 x SC + AN. -/
def saKey (dir sc an : Nat) : Nat := if dir == 0 then an else 4 * sc + an

/-- Values of a secure channel and AN: one transmit channel, 16 receive channels. -/
def scOk (port dir sc an : Nat) : Bool := port < 4 && flag dir && an < 4 && (if dir == 0 then sc == 0 else sc < 16)

/-- Values of PORT.SA_INSTALL; the first PN lies in the PN space of the cipher. -/
def saOk (p : SaP) : Bool :=
  scOk p.port p.dir p.sc p.an && p.slot < 256 && flag p.cipher && flag p.conf && p.ssci < 2 ^ 32 && p.peerSci < 2 ^ 64 &&
  p.firstPn < pnEnd p.cipher && p.salt < 2 ^ 96

/-- The installed SA of a port. -/
def saOf (s : State) (port dir sc an : Nat) : Option Sa :=
  if dir == 0 then tfind (getPort s port).txSa an else tfind (getPort s port).rxSa (saKey dir sc an)

/-- An SA is installed (03 R100). -/
def setSa (p : SaP) (s : State) : State :=
  let a : Sa := ⟨p.slot, p.cipher, p.conf, p.ssci, p.peerSci, p.salt, p.firstPn, false, false, false⟩
  updPort p.port (fun t =>
    if p.dir == 0 then { t with txSa := tset t.txSa p.an a } else { t with rxSa := tset t.rxSa (saKey 1 p.sc p.an) a }) s

/-- The status of an installation: the slot must carry ENC to send or DEC to receive, and the AN be free. -/
def saStatus (p : SaP) (s : State) : Nat :=
  let st := keyUse s p.slot (if p.dir == 0 then 7 else 6) [0]
  if st != 0 then st else if (saOf s p.port p.dir p.sc p.an).isSome then 0x22 else 0

/-- PORT.SA_INSTALL; an opcode that names a slot is refused in PROVISION (12 R395). -/
def procPortSaInstall (h : Hdr) (p : SaP) (s : State) : Proc :=
  ⟨h, portOwner 0x0811 40 (saOk p) (s.pm.mode != .provision) s,
   .done (fun s =>
     let st := saStatus p s
     if st != 0 then ⟨st, [], countRevoked st s⟩ else ⟨0, [], setSa p s⟩)⟩

def execPortSaInstall (h : Hdr) (p : SaP) (s : State) : Host.Outcome State Fault Refusal :=
  .next (runProc (.portSaInstall h p) (procPortSaInstall h p s) s)

/-- PORT.SA_ACTIVATE: the AN must be installed, the NEXT_AN need not be (03 R103). -/
def procPortSaActivate (h : Hdr) (port an nextAn : Nat) (s : State) : Proc :=
  ⟨h, portSpec 0x0812 4 (port < 4 && an < 4 && nextAn < 4) true s,
   .done (fun s => refuseIf (saOf s port 0 0 an).isNone 0x11
     (effect (updPort port (fun t => { t with activeAn := an, nextAn := nextAn }))) s)⟩

def execPortSaActivate (h : Hdr) (port an nextAn : Nat) (s : State) : Host.Outcome State Fault Refusal :=
  .next (runProc (.portSaActivate h port an nextAn) (procPortSaActivate h port an nextAn s) s)

/-- The active transmit AN of a port cannot be destroyed: NEXT_AN names no other installed SA. -/
def saNeeded (s : State) (port dir an : Nat) : Bool :=
  let t := getPort s port
  dir == 0 && t.activeAn == an && (t.nextAn == an || (tfind t.txSa t.nextAn).isNone)

/-- An SA goes; when it is the active one, the port changes to NEXT_AN first. -/
def destroySa (port dir sc an : Nat) (s : State) : State :=
  updPort port (fun t =>
    if dir == 0 then { t with txSa := tdel t.txSa an, activeAn := if t.activeAn == an then t.nextAn else t.activeAn }
    else { t with rxSa := tdel t.rxSa (saKey 1 sc an) }) s

/-- PORT.SA_DESTROY. -/
def procPortSaDestroy (h : Hdr) (port dir sc an : Nat) (s : State) : Proc :=
  ⟨h, portOwner 0x0813 4 (scOk port dir sc an) true s,
   .done (fun s => refuseIf ((saOf s port dir sc an).isNone || saNeeded s port dir an) 0x11
     (effect (destroySa port dir sc an)) s)⟩

def execPortSaDestroy (h : Hdr) (port dir sc an : Nat) (s : State) : Host.Outcome State Fault Refusal :=
  .next (runProc (.portSaDestroy h port dir sc an) (procPortSaDestroy h port dir sc an s) s)

/-! ### Gates (03 R105, R107) -/

/-- Values of a gate list: cycle time from 1 us to 1 s, intervals from 1 ns to 1 s. -/
def gateOk (p : GateP) : Bool :=
  p.port < 4 && within 1 256 p.entries.length && timeOk p.base && p.num < 2 ^ 32 && p.den < 2 ^ 32 && 0 < p.den &&
  p.den ≤ p.num * 1000000 && p.num ≤ p.den && p.entries.all (fun e => e.mask < 256 && within 1 1000000000 e.ns)

/-- A list waits for its cycle start. -/
def loadGate (p : GateP) (handle : Nat) (s : State) : State :=
  updPort p.port (fun t => { t with gatePend := some (p, handle, now s) }) s

/-- PORT.GATE_LOAD: BUSY while an earlier list of the port is pending; the publish sessions must fit it (03 R110). -/
def procPortGateLoad (h : Hdr) (p : GateP) (s : State) : Proc :=
  ⟨h, portSpec 0x0820 (24 + 8 * p.entries.length) (gateOk p) true s,
   .accepted .running
     (fun s => firstBad [(gateWaits (getPort s p.port), 0x22), (!resourceFits (loadGate p 0 s) 9, 0x31)])
     (fun k s => loadGate p k s)⟩

def execPortGateLoad (h : Hdr) (p : GateP) (s : State) : Host.Outcome State Fault Refusal :=
  .next (runProc (.portGateLoad h p) (procPortGateLoad h p s) s)

/-- Operative cycle count, entry in force, pending flag. -/
def gateAnswer (port : Nat) (s : State) : List Nat :=
  let t := gateNow s (getPort s port)
  leBytes 8 t.gateCycle ++ leBytes 2 t.gateEntry ++ [b2n (gateWaits t)]

/-- PORT.GATE_LOAD ends HW_FAULT: its list is dropped. One that goes well ends at GATE_OPERATIVE. -/
def finishGateLoad (o : OpEntry) (p : GateP) (hwFault : Bool) (s : State) : State :=
  if hwFault then finalCompletion o 0x60 [] (updPort p.port (fun t => { t with gatePend := none }) s) else s

/-- PORT.GATE_QUERY. -/
def procPortGateQuery (h : Hdr) (port : Nat) (s : State) : Proc :=
  ⟨h, portSpec 0x0821 1 (port < 4) true s, .done (answer (gateAnswer port))⟩

def execPortGateQuery (h : Hdr) (port : Nat) (s : State) : Host.Outcome State Fault Refusal :=
  .next (runProc (.portGateQuery h port) (procPortGateQuery h port s) s)

/-! ### Status and counters -/

/-- PORT.LINK_STATUS. -/
def procPortLinkStatus (h : Hdr) (port : Nat) (s : State) : Proc :=
  ⟨h, portSpec 0x0830 1 (port < 5) true s,
   .done (answer (fun s =>
     leBytes 4 (pstat (getPort s port)) ++ leBytes 4 (pcfg s port) ++ leBytes 4 (saTx (getPort s port))))⟩

def execPortLinkStatus (h : Hdr) (port : Nat) (s : State) : Host.Outcome State Fault Refusal :=
  .next (runProc (.portLinkStatus h port) (procPortLinkStatus h port s) s)

/-- Counters of the ports of a mask are cleared; the low-water mark of the pool starts anew unless the mask names only M0
(Table 3-6). -/
def clearPorts (mask : Nat) (s : State) : State :=
  let s := (bitList 5 mask).foldl (fun s p => clearCounters (portCtr p 0) 0x400 s) s
  if mask % 16 == 0 then s else { s with np := { s.np with low := s.np.free } }

/-- PORT.CLEAR_COUNTERS. -/
def procPortClearCounters (h : Hdr) (mask : Nat) (s : State) : Proc :=
  ⟨h, portSpec 0x0840 1 (mask < 32) true s, .done (effect (clearPorts mask))⟩

def execPortClearCounters (h : Hdr) (mask : Nat) (s : State) : Host.Outcome State Fault Refusal :=
  .next (runProc (.portClearCounters h mask) (procPortClearCounters h mask s) s)

end Sys2Proof.Machine
end

