-- ==== Sys2Proof/Machine/PowerCmd.lean ====
section
/-! DEFINITION. The POWER class (14 R474, Table 14-17). -/

namespace Sys2Proof.Machine

/-- The handshake of a POWER.DOZE begins; PM has asked no block yet (14 R452). -/
def startHandshake (handle : Nat) (s : State) : State :=
  { s with pm := { s.pm with hs := some ⟨handle, 0, false, 0, 0⟩ } }

/-- POWER.DOZE. -/
def procPowerDoze (h : Hdr) (s : State) : Proc :=
  ⟨h, specM 0x3800 0 true (serving s), .accepted .running (fun s => if s.pm.hs.isSome then 0x22 else 0) startHandshake⟩

def execPowerDoze (h : Hdr) (s : State) : Host.Outcome State Fault Refusal :=
  .next (runProc (.powerDoze h) (procPowerDoze h s) s)

/-- POWER.WAKE (14 R459); final when MODE has returned. -/
def procPowerWake (h : Hdr) (s : State) : Proc :=
  ⟨h, specM 0x3801 0 true (s.pm.mode == .doze), .accepted .running (fun _ => 0) (fun _ s => requestWake 3 s)⟩

def execPowerWake (h : Hdr) (s : State) : Host.Outcome State Fault Refusal :=
  .next (runProc (.powerWake h) (procPowerWake h s) s)

/-- The named domains are on (14 R458). -/
def padsOn (mask : Nat) (s : State) : Bool := (!bit mask 3 || s.pm.domPorts) && (!bit mask 5 || s.pm.domAnchor)

/-- The pads of the named domains are released (14 R457). -/
def releasePads (mask : Nat) (s : State) : State :=
  { s with pm := { s.pm with holdPorts := s.pm.holdPorts && !bit mask 3, holdAnchor := s.pm.holdAnchor && !bit mask 5 } }

/-- POWER.PAD_RELEASE: mask bits 3 and 5 only. -/
def procPowerPadRelease (h : Hdr) (mask : Nat) (_ : State) : Proc :=
  ⟨h, specP 0x3802 1 (mask &&& 0x28 == mask), .done (fun s => refuseIf (!padsOn mask s) 0x11 (effect (releasePads mask)) s)⟩

def execPowerPadRelease (h : Hdr) (mask : Nat) (s : State) : Host.Outcome State Fault Refusal :=
  .next (runProc (.powerPadRelease h mask) (procPowerPadRelease h mask s) s)

/-- Values of POWER.CONFIG (Table 14-12). -/
def powerOk (p : PowerP) : Bool := p.nq < 32 && flag p.wakeEn && within 100 1000000 p.delayMaxUs

/-- PM takes its settings. -/
def setPower (p : PowerP) (s : State) : State :=
  { s with pm := { s.pm with nq := p.nq, mi2cWake := p.wakeEn == 1, delayMax := p.delayMaxUs } }

/-- POWER.CONFIG. -/
def procPowerConfig (h : Hdr) (p : PowerP) (s : State) : Proc :=
  ⟨h, { specM 0x3803 8 (powerOk p) (inCommission s) with cfgBusy := true }, .done (effect (setPower p))⟩

def execPowerConfig (h : Hdr) (p : PowerP) (s : State) : Host.Outcome State Fault Refusal :=
  .next (runProc (.powerConfig h p) (procPowerConfig h p s) s)

/-- POWER.QUERY: PM_STAT, PM_DOM, PM_HOLD, CK_STAT. -/
def procPowerQuery (h : Hdr) (_ : State) : Proc :=
  ⟨h, spec0 0x3808 0, .done (answer (fun s => leBytes 4 (pmStat s) ++ leBytes 4 (pmDom s.pm) ++ leBytes 4 (pmHold s.pm) ++ leBytes 4 (ckStat s.ck)))⟩

def execPowerQuery (h : Hdr) (s : State) : Host.Outcome State Fault Refusal :=
  .next (runProc (.powerQuery h) (procPowerQuery h s) s)

/-- Values of POWER.REF_CONFIG (Table 14-14). -/
def refValuesOk (p : RefP) : Bool := flag p.prefer && flag p.singleRef && flag p.singleSrc && p.revertS ≤ 86400

/-- CK takes its settings; the PREFER PLL's qualification counts anew when PREFER changes. -/
def setRefs (p : RefP) (s : State) : State :=
  let since := if s.ck.preferB == (p.prefer == 1) then s.ck.preferSince else none
  ckSettle { s with ck := { s.ck with preferB := p.prefer == 1, singleRef := p.singleRef == 1, singleB := p.singleSrc == 1,
                                      revertS := p.revertS, preferSince := since } }

/-- POWER.REF_CONFIG. -/
def procPowerRefConfig (h : Hdr) (p : RefP) (s : State) : Proc :=
  ⟨h, { specM 0x3810 8 (refValuesOk p) (inCommission s) with cfgBusy := true }, .done (effect (setRefs p))⟩

def execPowerRefConfig (h : Hdr) (p : RefP) (s : State) : Host.Outcome State Fault Refusal :=
  .next (runProc (.powerRefConfig h p) (procPowerRefConfig h p s) s)

/-- POWER.REF_SWITCH. -/
def procPowerRefSwitch (h : Hdr) (_ : State) : Proc :=
  ⟨h, spec0 0x3811 0, .accepted .running (fun s => firstBad [(!standbyOk s.ck, 0x11), (s.ck.switching, 0x22)])
     (fun _ s => { s with ck := { s.ck with switching := true } })⟩

def execPowerRefSwitch (h : Hdr) (s : State) : Host.Outcome State Fault Refusal :=
  .next (runProc (.powerRefSwitch h) (procPowerRefSwitch h s) s)

/-- The final completion of POWER.REF_SWITCH: HW_FAULT when the standby has been lost meanwhile. -/
def finishRefSwitch (o : OpEntry) (hwFault : Bool) (s : State) : State :=
  let ok := !hwFault && standbyOk s.ck
  let s := { s with ck := { s.ck with switching := false } }
  if ok then finalCompletion o 0 [] (switchPll 3 s) else finalCompletion o 0x60 [] s

/-- POWER.CLEAR_COUNTERS: [0] PM, [1] CK. -/
def procPowerClearCounters (h : Hdr) (mask : Nat) (_ : State) : Proc :=
  ⟨h, specP 0x3820 1 (mask < 4),
   .done (effect (fun s =>
     let s := if bit mask 0 then clearCounters 0x10F000 0x800 s else s
     if bit mask 1 then clearCounters 0x10F800 0x800 s else s))⟩

def execPowerClearCounters (h : Hdr) (mask : Nat) (s : State) : Host.Outcome State Fault Refusal :=
  .next (runProc (.powerClearCounters h mask) (procPowerClearCounters h mask s) s)

end Sys2Proof.Machine
end

