-- ==== Sys2Proof/Machine/Regs.lean ====
section
/-! DEFINITION. The BAR0 register map: what a 32-bit read at each offset returns (Tables 2-3, 3-6, 4-6, 5-7, 6-8, 7-5, 8-6,
9-9, 10-8, 11-7, 12-8, 13-7, 14-10; 01 R23, R33). Offsets no table lists read 0. Each block's function takes the offset
within its window. -/

namespace Sys2Proof.Machine

/-- The 32-bit word of `v` at word index `i`. -/
def word32 (v i : Nat) : Nat := v / 2 ^ (32 * i) % 2 ^ 32

/-- A signed value as a 32-bit word. -/
def signed32 (x : Int) : Nat := twosComp 32 x

/-- The statistics counter HI_NQ_LOST as low and high words (Table 0-7). -/
def lostWord (v i : Nat) : Nat := if i == 0 then word32 v 0 else fld (v / 2 ^ 63) 31 1 + bits v 32 16

/-! ### HI (Table 2-3) -/

/-- Ring pair registers. -/
def readRing (r : Ring) (o : Nat) : Nat :=
  match o with
  | 0x00 => word32 r.sqBase 0
  | 0x04 => word32 r.sqBase 1
  | 0x08 => sqCfg r
  | 0x10 => word32 r.cqBase 0
  | 0x14 => word32 r.cqBase 1
  | 0x18 => cqCfg r
  | 0x20 => word32 r.sbBase 0
  | 0x24 => word32 r.sbBase 1
  | 0x28 => fld r.sqHead 16 16 + fld r.cqTail 0 16
  | _ => 0

/-- Notice queue registers; HI_NQ_POP read in 4 bytes returns 0 (02 R70). -/
def readNq (n : Nq) (o : Nat) : Nat :=
  match o with
  | 0x08 => nqCfg n
  | 0x0C => nqStat n
  | 0x10 => lostWord n.lost 0
  | 0x14 => lostWord n.lost 1
  | _ => 0

def readHi (s : State) (o : Nat) : Nat :=
  if o == 0x04 then familyId
  else if o == 0x08 then familyCap0 s
  else if o == 0x0C then familyCap1
  else if o == 0x10 then hiErr s.hi
  else if o == 0x14 then s.hi.ops.length
  else if o == 0x18 then mbStat s.hi.mb
  else if 0x100 ≤ o && o < 0x500 then readRing (getRing s ((o - 0x100) / 0x40)) ((o - 0x100) % 0x40)
  else if 0x800 ≤ o && o < 0xC00 then readNq (getNq s ((o - 0x800) / 0x20)) ((o - 0x800) % 0x20)
  else 0

/-! ### NP (Table 3-6) -/

/-- Exact entry `i` as low and high words. -/
def exactWord (t : Port) (i : Nat) (hi : Bool) : Nat :=
  let e := tget (false, 0) t.exact i
  if hi then fld (b2n e.1) 31 1 + bits e.2 32 16 else word32 e.2 0

def readPort (s : State) (p o : Nat) : Nat :=
  let t := getPort s p
  if o == 0x00 then pcfg s p
  else if o == 0x04 then pstat t
  else if o == 0x08 then t.ptMap
  else if 0x10 ≤ o && o < 0x20 then
    let e := t.intake.getD ((o - 0x10) / 4) ⟨0, 0, 0⟩
    if p == 4 then 0 else fld e.udp 16 16 + fld e.en 15 1 + fld e.proto 14 1
  else if 0x40 ≤ o && o < 0x60 then fld (t.vids.getD ((o - 0x40) / 2) 0) 0 16 + fld (t.vids.getD ((o - 0x40) / 2 + 1) 0) 16 16
  else if 0x80 ≤ o && o < 0x100 then exactWord t ((o - 0x80) / 8) ((o - 0x80) % 8 == 4)
  else if 0x100 ≤ o && o < 0x140 then t.hash.getD ((o - 0x100) / 4) 0
  else if o == 0x180 then (if p == 4 then 0 else saTx t)
  else 0

def readPtRing (r : PtRing) (held : Bool) (o : Nat) : Nat :=
  match o with
  | 0x00 => word32 r.base 0
  | 0x04 => word32 r.base 1
  | 0x08 => ptCfg r
  | 0x10 => fld r.head 16 16 + b2n held
  | _ => 0

def readNp (s : State) (o : Nat) : Nat :=
  if o < 0xA00 then readPort s (o / 0x200) (o % 0x200)
  else if o < 0xB00 then
    let r := getRxRing s ((o - 0xA00) / 0x20)
    readPtRing r (!r.waiting.isEmpty) ((o - 0xA00) % 0x20)
  else if o < 0xC00 then readPtRing (getTxRing s ((o - 0xB00) / 0x20)) false ((o - 0xB00) % 0x20)
  else if o == 0xE00 then npGcfg s.np
  else if o == 0xE04 then fld s.np.low 16 16 + fld s.np.free 0 16
  else 0

/-! ### TM (Table 4-6) -/

def readCmp (c : Cmp) (o : Nat) : Nat :=
  match o with
  | 0x0 => cmpStat c
  | 0x4 => c.p.actions
  | 0x8 => (cmpTarget c).ns
  | _ => (cmpTarget c).sec % 2 ^ 32

def latWord (s : State) (target : Nat) (tx : Bool) : Nat :=
  let l := tget (0, 0) s.tm.lat target
  signed32 (if tx then l.2 else l.1)

def readTm (s : State) (o : Nat) : Nat :=
  if o == 0x00 then tmStat s
  else if o == 0x04 then servoOfs s
  else if o == 0x08 then servoFreq s
  else if o == 0x0C then holdAgeReg s
  else if o == 0x10 then tmUtc s.tm
  else if o == 0x14 then s.tm.slave.gmInacc.getD 0xFFFFFFFF
  else if o == 0x20 then word32 s.tm.frc 0
  else if o == 0x24 then s.tm.latch.getD 0 0
  else if o == 0x28 then s.tm.latch.getD 1 0
  else if o == 0x2C then s.tm.latch.getD 2 0
  else if o == 0x30 then s.tm.latch.getD 3 0
  else if o == 0x40 then word32 s.tm.rate 0
  else if o == 0x44 then word32 s.tm.rate 1
  else if 0x48 ≤ o && o ≤ 0x54 then word32 (twosComp 128 s.tm.offset) ((o - 0x48) / 4)
  else if o == 0x58 then s.tm.inc % 2 ^ 32
  else if 0x100 ≤ o && o < 0x200 then readCmp (getCmp s ((o - 0x100) / 0x10)) ((o - 0x100) % 0x10)
  else if 0x200 ≤ o && o < 0x228 then latWord s ((o - 0x200) / 8) ((o - 0x200) % 8 == 4)
  else if o == 0x240 then latWord s 5 false
  else if o == 0x244 then latWord s 6 false
  else 0

/-! ### SI, ERG, CV and MS (Tables 5-7, 6-8, 7-5) -/

def readSi (s : State) (o : Nat) : Nat :=
  if o == 0x00 then siGcfg s.si
  else if o == 0x04 then siStatA s
  else if o == 0x08 then siStatB s
  else if 0x40 ≤ o && o < 0x80 then
    let q := (o - 0x40) / 4
    fld (tget 0 s.si.high q) 16 16 + fld (tget [] s.si.pipes q).length 0 16
  else if o == 0x100 then s.si.sel
  else if 0x104 ≤ o && o ≤ 0x114 then s.si.entry.getD ((o - 0x104) / 4) 0
  else 0

def readGroup (g : Group) (o : Nat) : Nat :=
  match o with
  | 0x00 => grpCfg g
  | 0x04 => fld g.p.windowUs 0 24
  | 0x08 => fld g.p.horizonUs 0 20
  | 0x0C => fld g.p.amendMs 24 8 + fld g.p.lateSpanUs 0 24
  | 0x10 => grpStat g
  | 0x14 => word32 g.lastIndex 0
  | 0x18 => fld (b2n g.lastDeadline) 31 1 + fld (b2n g.lastGap) 30 1 + bits g.lastIndex 32 8
  | 0x1C => fld (groupHeld g) 0 19
  | _ => 0

def readErg (s : State) (o : Nat) : Nat :=
  if o == 0x00 then ergGcfg s.erg
  else if o == 0x04 then s.erg.free
  else if o == 0x08 then s.erg.low
  else if o == 0x0C then cellDemand s % 2 ^ 19
  else if o == 0x10 then ceilDiv (wordDemand s) 1000000 % 2 ^ 16
  else if 0x100 ≤ o && o < 0x900 then
    match getGroup s ((o - 0x100) / 0x20) with | some g => readGroup g ((o - 0x100) % 0x20) | none => 0
  else if 0x900 ≤ o && o < 0xD00 then
    match tfind s.erg.sessions ((o - 0x900) / 8) with
    | some x => if o % 8 == 0 then sesCfg x else fld (b2n x.keyRevoked) 31 1 + fld x.sent 0 16
    | none => 0
  else 0

def readCv (s : State) (o : Nat) : Nat :=
  if o == 0x00 then cvGcfg s.cv
  else if o == 0x04 then cvStat s
  else if o == 0x08 then fld (nonurgentHeld s) 8 8 + fld (urgentHeld s) 0 8
  else if 0x40 ≤ o && o < 0x80 then fld (s.cv.shares.getD ((o - 0x40) / 4) 0) 12 10 + fld (s.cv.ages.getD ((o - 0x40) / 4) 0) 0 12
  else if 0x80 ≤ o && o < 0xC0 then signed32 (s.cv.deficits.getD ((o - 0x80) / 4) 0)
  else if 0xC0 ≤ o && o < 0x100 then fld (qlen s ((o - 0xC0) / 4)) 0 16
  else 0

def readMs (s : State) (o : Nat) : Nat :=
  if o == 0x00 then msStat s
  else if o == 0x04 then msPlaya s
  else if 0x100 ≤ o && o < 0x208 then msEng s ((o - 0x100) / 4)
  else 0

/-! ### TS, SC, AL and AQ (Tables 8-6, 9-9, 10-8) -/

def readTs (s : State) (o : Nat) : Nat :=
  let t := s.ts
  if o == 0x00 then tsGcfg t.p
  else if o == 0x04 then tsGcfg2 t.p
  else if o == 0x08 then tsModel s
  else if o == 0x0C then tsMeas s
  else if o == 0x10 then tsFactor t
  else if o == 0x14 then fld t.runUs 16 16 + fld t.waitUs 0 16
  else if o == 0x18 then ((tsLast t).map (fun r => r.k % 2 ^ 32)).getD 0
  else if o == 0x1C then tsSummary t
  else if o == 0x20 then ((tsLast t).map (·.j)).getD 0
  else if o == 0x24 then ((tsLast t).map (·.thr)).getD 0
  else if 0x100 ≤ o && o < 0x200 then tsCut t ((o - 0x100) / 4)
  else 0

def readScGroup (s : State) (n : Nat) (g : OscGroup) (o : Nat) : Nat :=
  match o with
  | 0x0 => scGrpCfg g.p
  | 0x4 => scGrpLim g.p
  | 0x8 => scGrpStat s n g
  | _ => g.seq % 2 ^ 32

def readSc (s : State) (o : Nat) : Nat :=
  if o == 0x00 then scGcfg s.sc.p
  else if o == 0x04 then scGcfg2 s.sc.p
  else if o == 0x08 then scGcfg3 s.sc.p
  else if o == 0x0C then fld s.sc.sigs.length 16 11 + fld s.sc.groups.length 0 8
  else if o == 0x100 then s.sc.sel
  else if 0x104 ≤ o && o ≤ 0x10C then s.sc.sig.getD ((o - 0x104) / 4) 0
  else if 0x400 ≤ o && o < 0xC00 then
    match tfind s.sc.groups ((o - 0x400) / 0x10) with
    | some g => readScGroup s ((o - 0x400) / 0x10) g ((o - 0x400) % 0x10)
    | none => 0
  else 0

def readAl (s : State) (o : Nat) : Nat :=
  if o == 0x00 then alGcfg s.al.x
  else if o == 0x04 then s.al.x.pulseNs
  else if o == 0x08 then s.al.x.xinLatNs
  else if o == 0x0C then alLines s
  else if 0x10 ≤ o && o < 0x30 then
    let l := getLine s ((o - 0x10) / 4)
    fld l.mode 30 2 + fld l.pulseUs 0 24
  else if o == 0x40 then alStat s
  else if 0x50 ≤ o && o < 0x70 then
    let x := tget Xin.reset s.al.xin ((o - 0x50) / 0x10)
    match (o - 0x50) % 0x10 with
    | 0x0 => (dt80Of x.stamp).ns
    | 0x4 => (dt80Of x.stamp).sec % 2 ^ 32
    | 0x8 => x.edges
    | _ => 0
  else if o == 0x100 then s.al.sel
  else if 0x104 ≤ o && o ≤ 0x10C then s.al.rule.getD ((o - 0x104) / 4) 0
  else 0

def readChan (s : State) (x : AqChannel) (o : Nat) : Nat :=
  match o with
  | 0x00 => aqChCfg x
  | 0x04 => x.p.pre
  | 0x08 => x.p.post
  | 0x0C => fld x.p.first 16 16 + fld x.p.count 0 16
  | 0x10 => x.p.chMask % 2 ^ 32
  | 0x14 => fld x.p.markRate 16 16 + bits x.p.chMask 32 14
  | 0x18 => x.markNo
  | _ => fld ((tokensNow x s).floor.toNat) 16 16 + fld x.windows.length 0 5

def readAqRing (s : State) (r : Nat) (g : AqRing) (o : Nat) : Nat :=
  match o with
  | 0x00 => aqRingCfg s r g
  | 0x04 => slotOf s r
  | 0x08 => g.seq
  | 0x0C => fld g.p.n 0 16
  | _ => 0

def readAq (s : State) (o : Nat) : Nat :=
  if o == 0x00 then fld s.aq.nq 27 5
  else if o == 0x04 then aqBw s
  else if o == 0x08 then fld s.aq.lowKib 16 16 + fld (freeKib s) 0 16
  else if 0x100 ≤ o && o < 0x300 then
    match getChan s ((o - 0x100) / 0x20) with | some x => readChan s x ((o - 0x100) % 0x20) | none => 0
  else if 0x400 ≤ o && o < 0xC00 then
    match getAqRing s ((o - 0x400) / 0x20) with | some g => readAqRing s ((o - 0x400) / 0x20) g ((o - 0x400) % 0x20) | none => 0
  else 0

/-! ### AM (Table 11-7) -/

def readMChan (s : State) (k o : Nat) : Nat :=
  let c := getMChan s k
  match o with
  | 0x00 => amChCfg c.p
  | 0x04 => c.p.fs
  | 0x08 => c.c.gainS
  | 0x0C => signed32 c.c.offsetS
  | 0x10 => c.c.gainR
  | 0x14 => signed32 c.c.offsetR
  | 0x18 => signed32 c.c.phDelay
  | 0x1C => signed32 c.c.phOfs
  | 0x20 => signed32 c.c.tcA1
  | 0x24 => signed32 c.c.tcA2
  | 0x28 => signed32 c.c.tcB1
  | 0x2C => signed32 c.c.tRef
  | 0x30 => signed32 (c.temp.getD 0)
  | 0x34 => amChStat s k
  | 0x38 => c.recRms
  | _ => c.almRms

/-- An energy register: COUNT low; COUNT high and ROLLOVER as latched (11 R378). -/
def readEReg (s : State) (e r o : Nat) : Nat :=
  let l := tget (0, 0) s.am.latch (8 * e + r)
  match o with
  | 0x0 => word32 (((getElem' s e).regs.getD r ⟨0, 0, 0⟩).count) 0
  | 0x4 => l.1
  | 0x8 => l.2
  | _ => 0

def readElem (s : State) (e o : Nat) : Nat :=
  let x := getElem' s e
  if o == 0x00 then amElCfg x
  else if o == 0x04 then amElChans x.p
  else if o == 0x08 then x.p.noloadVa
  else if o == 0x0C then floatOfRat (elementSfs s x)
  else if 0x10 ≤ o && o < 0x90 then readEReg s e ((o - 0x10) / 0x10) ((o - 0x10) % 0x10)
  else if o == 0x90 then floatOfRat x.lastP
  else if o == 0x94 then floatOfRat x.lastQ
  else if o == 0x98 then amElStat s e
  else if o == 0x9C then signed32 x.trackedF
  else if o == 0xA0 then floatOfRat x.sPeak
  else 0

/-- The newest valid copy that holds registers of an element. -/
def copyFor (s : State) (e : Nat) : Option SaveCopy := newestCopy (s.cairn.ballast.filter (fun c => c.regs.any (fun x => x.el == e)))

def readSet (s : State) (p : BallastP) (o : Nat) : Nat :=
  let c := copyFor s p.el
  match o with
  | 0x0 => setCfg p
  | 0x4 => (c.map (·.seq)).getD 0
  | 0x8 => (c.map (·.ns)).getD 0
  | _ => (c.map (fun x => x.sec % 2 ^ 32)).getD 0

def readAm (s : State) (o : Nat) : Nat :=
  if o == 0x00 then amGcfg s.am
  else if o == 0x04 then amStat s
  else if o == 0x08 then fld s.am.pfwDur 16 16 + fld s.am.ballastWrites 0 16
  else if 0x100 ≤ o && o < 0x400 then readMChan s ((o - 0x100) / 0x40) ((o - 0x100) % 0x40)
  else if 0x400 ≤ o && o < 0x800 then readElem s ((o - 0x400) / 0x100) ((o - 0x400) % 0x100)
  else if 0x800 ≤ o && o < 0x840 then
    let x := getPulse s ((o - 0x800) / 0x10)
    match (o - 0x800) % 0x10 with
    | 0x0 => pulseCfg x.p
    | 0x4 => x.p.kh
    | 0x8 => min 255 x.backlog.length
    | _ => x.count
  else if 0x900 ≤ o && o < 0x980 then
    match tfind s.am.vss ((o - 0x900) / 0x10), (o - 0x900) % 0x10 with
    | some v, 0x0 => vsCfg v.p
    | some v, 0x4 => v.latency
    | some v, 0x8 => v.reports
    | _, _ => 0
  else if 0xA00 ≤ o && o < 0xA80 then
    match tfind s.am.sets ((o - 0xA00) / 0x10) with | some p => readSet s p ((o - 0xA00) % 0x10) | none => 0
  else 0

/-! ### OV, EC, EV, PM and CK (Tables 12-8, 13-7, 14-10) -/

def readOv (s : State) (o : Nat) : Nat :=
  if o == 0x00 then ovStat s
  else if o == 0x04 then ovTamper s.ov
  else if o == 0x08 then ovTamperCfg s.ov
  else if o == 0x0C then s.cairn.ownerCtr
  else if o == 0x10 then s.cairn.stmtCtr
  else if 0x20 ≤ o && o ≤ 0x2C then word32 s.fuses.uid ((o - 0x20) / 4)
  else if o == 0x100 then s.ov.sel
  else if o == 0x104 then s.ov.selAttr
  else if o == 0x108 then s.ov.selCtr
  else 0

def readEcEv (s : State) (o : Nat) : Nat :=
  if o == 0x000 then ecGcfg s.ec
  else if o == 0x004 then ecStat s
  else if o == 0x008 then ecRepairs s
  else if o == 0x00C then s.ec.lastCe
  else if o == 0x010 then s.ec.lastDue
  else if o == 0x100 then s.ec.sel
  else if o == 0x104 then s.ec.selMacro
  else if o == 0x800 then evGcfg s.ev
  else if o == 0x804 then evGcfg2 s.ev
  else if o == 0x808 then evStat s
  else if o == 0x80C then evOldest s
  else if o == 0x810 then evNewest s
  else if o == 0x814 then s.cairn.opsec
  else if o == 0x818 then s.cairn.pcc
  else if o == 0x820 then s.ev.cur
  else if 0xC00 ≤ o && o < 0xE00 then ofLeBytes (((spoolBytes s ((o - 0xC00) / 32)).drop ((o - 0xC00) % 32)).take 4)
  else 0

/-- CK_MON_A and CK_MON_B: the frequency part is a measured value, free; missing edges in [15:0]. -/
def ckMon (s : State) (b : Bool) : Nat := fld (freeBits 16 s) 16 16 + fld (if b then s.ck.missB else s.ck.missA) 0 16

def readPmCk (s : State) (o : Nat) : Nat :=
  match o with
  | 0x0000 => pmStat s
  | 0x0004 => pmReset s.pm
  | 0x0008 => pmCfg s.pm
  | 0x0010 => pmDom s.pm
  | 0x0014 => pmMesa s 0
  | 0x0018 => pmMesa s 1
  | 0x001C => pmMesa s 2
  | 0x0020 => pmHold s.pm
  | 0x1000 => ckStat s.ck
  | 0x1004 => ckCfg s.ck
  | 0x1008 => ckMon s false
  | 0x100C => ckMon s true
  | _ => 0

/-! ### The whole map (01 R23, R33) -/

/-- What the register at a 4-byte aligned offset holds, its domain being on. -/
def regValue (s : State) (off : Nat) : Nat :=
  let o := off % 0x1000
  match off / 0x1000 with
  | 0x0 => if o == 0 then lsw s else readHi s o
  | 0x1 => readNp s o
  | 0x2 => readTm s o
  | 0x3 => readSi s o
  | 0x4 => readErg s o
  | 0x5 => readCv s o
  | 0x6 => readMs s o
  | 0x7 => readTs s o
  | 0x8 => readSc s o
  | 0x9 => readAl s o
  | 0xA => readAq s o
  | 0xB => readAm s o
  | 0xC => readOv s o
  | 0xD => readEcEv s o
  | 0xE => readPmCk s o
  | 0xF => readPmCk s (o + 0x1000)
  | _ => 0

/-- The domain of the register at an offset is on (01 R23, Table 1-3); MS registers lie in D_ERG, so that a retired
engine's MS_ENG stays readable. -/
def regOn (s : State) (off : Nat) : Bool :=
  match off / 0x1000 with
  | 0x1 => s.pm.domPorts
  | 0x4 => s.pm.domErg
  | 0x6 => s.pm.domErg
  | 0xB => s.pm.domAnchor
  | _ => true

/-- OFF_ACCESS and its vector: a bit of HI_ERR that becomes set raises vector 48 (02 R42). -/
def setOffAccess (s : State) : State :=
  if s.hi.offAccess then s else fireVector 48 { s with hi := { s.hi with offAccess := true } }

/-- One BAR0 read: in FROZEN everything but the LSW reads all ones; so does an off domain, which sets OFF_ACCESS (01 R23,
R33). A monitor's frequency is a free value, fresh at each read. -/
def readReg (off : Nat) (s : State) : Nat × State :=
  if off == 0 then (lsw s, s)
  else if s.pm.mode == .frozen then (0xFFFFFFFF, s)
  else if !regOn s off then (0xFFFFFFFF, setOffAccess s)
  else (regValue s off, if off == 0xF008 || off == 0xF00C then bumpFree s else s)

end Sys2Proof.Machine
end

