-- ==== Sys2Proof/Machine/SysCmd.lean ====
section
/-! DEFINITION. The SYS class (02 Table 2-15): identification, handles, mode changes, freeze and thaw, reset, and the
notice queues' marks. -/

namespace Sys2Proof.Machine

/-- SYS.NOP. -/
def procSysNop (h : Hdr) (_ : State) : Proc := ⟨h, spec0 0x0000 0, .done (effect id)⟩

def execSysNop (h : Hdr) (s : State) : Host.Outcome State Fault Refusal := .next (runProc (.sysNop h) (procSysNop h s) s)

/-- Identification words and lifecycle (Table 2-15). -/
def identity (s : State) : List Nat :=
  leBytes 4 familyId ++ leBytes 4 (familyCap0 s) ++ leBytes 4 familyCap1 ++ leBytes 4 s.fuses.lifecycle.code

/-- SYS.IDENTIFY. -/
def procSysIdentify (h : Hdr) (_ : State) : Proc := ⟨h, spec0 0x0001 0, .done (answer identity)⟩

def execSysIdentify (h : Hdr) (s : State) : Host.Outcome State Fault Refusal :=
  .next (runProc (.sysIdentify h) (procSysIdentify h s) s)

/-! ### Handles (02 R54, R60, R500) -/

/-- Opcodes that their class allows to cancel. -/
def cancellableOpcodes : List Nat :=
  [0x0010, 0x0400, 0x0403, 0x0820, 0x1000, 0x1006, 0x1400, 0x1402, 0x1403, 0x1408, 0x1410, 0x1800, 0x1802, 0x1803,
   0x1808, 0x1C00, 0x1C10, 0x2001, 0x2008, 0x2010, 0x2011, 0x2800, 0x2801, 0x2C18, 0x3402, 0x3800]

/-- The operation has passed its commit point: a sleep handshake once PM has asked a block (14 R455). -/
def pastCommit (s : State) (o : OpEntry) : Bool :=
  o.phase == .committed ||
  (o.opcode == 0x3800 && (match s.pm.hs with
    | some hs => hs.handle == o.handle && hs.order != 0
    | none => false))

/-- The state byte of SYS.QUERY_HANDLE. -/
def handleState (s : State) (o : OpEntry) : Nat :=
  if o.detached then 4
  else if o.phase == .waking then 3
  else if cancellableOpcodes.contains o.opcode && pastCommit s o then 2
  else 1

/-- Opcodes that write a host buffer between ACCEPTED and their end (02 R499, Table 2-15a). -/
def bufferOpcodes : List Nat :=
  [0x0403, 0x1006, 0x1410, 0x1C10, 0x2010, 0x2011, 0x3402, 0x3013, 0x3014, 0x3016, 0x2C0B]

/-- Opcodes that fetch or program an image or a model block meanwhile (Table 2-15a). -/
def fetchOpcodes : List Nat := [0x0400, 0x0405, 0x1C00]

/-- Total of Table 2-15a: LEN, the staged image's length, the bytes written. Where these depend on what is found when the write
begins the model counts in parts of 65,536, which shows every value the bytes could. -/
def opTotal (s : State) : Instr → Nat
  | .cfgLoad _ _ _ len _ => len
  | .cfgStore _ => (s.cfg.staged.map (·.len)).getD 0
  | .topoModelLoad _ _ len _ _ _ => len
  | .cfgReport _ _ _ _ => 768
  | .streamList _ _ _ => 16384
  | _ => 65536

/-- The span, in us, after ACCEPTED by which the buffer write of Table 2-15b has begun. -/
def beginsBy (opcode : Nat) : Option Nat :=
  if opcode == 0x0403 then some 2000 else if opcode == 0x1006 || opcode == 0x3402 then some 50 else none

/-- How far an operation has come when it is looked at: its buffer write may have begun, and bytes may have been written or
fetched, never fewer than before. When is not the manual's to say (02 R499): a free value, within the bound of Table 2-15b. -/
def OpEntry.advance (o : OpEntry) (free : Nat) (s : State) : OpEntry :=
  if o.phase == .waking then o
  else if bufferOpcodes.contains o.opcode then
    let due := (beginsBy o.opcode).any (fun us => o.since + countsOfUs us ≤ s.tm.frc)
    if o.phase == .committed || due || bit free 0 then
      { o with phase := .committed, total := opTotal s o.cmd, done := max o.done (free / 2 % (opTotal s o.cmd + 1)) }
    else o
  else if fetchOpcodes.contains o.opcode then
    { o with total := opTotal s o.cmd, done := max o.done (free % (opTotal s o.cmd + 1)) }
  else o

/-- A handle is looked at: its operation has come as far as it has (02 R499, R500). -/
def lookAt (handle : Nat) (s : State) : State :=
  bumpFree (updOp handle (fun o => o.advance (freeBits 64 s) s) s)

/-- Progress in 1/65,536 (02 R500). -/
def progress (o : OpEntry) : Nat :=
  if o.total == 0 || o.phase == .waking then 0 else min 65535 (65536 * o.done / o.total)

/-- What SYS.QUERY_HANDLE answers. -/
def queryHandle (handle : Nat) (s : State) : Reply :=
  match findOp s handle with
  | some o =>
    let o := o.advance (freeBits 64 s) s
    ⟨0, [handleState s o, 0] ++ leBytes 2 (progress o), lookAt handle s⟩
  | none => ⟨0x50, [], s⟩

/-- SYS.QUERY_HANDLE. -/
def procSysQueryHandle (h : Hdr) (handle : Nat) (_ : State) : Proc := ⟨h, spec0 0x0002 4, .done (queryHandle handle)⟩

def execSysQueryHandle (h : Hdr) (handle : Nat) (s : State) : Host.Outcome State Fault Refusal :=
  .next (runProc (.sysQueryHandle h handle) (procSysQueryHandle h handle s) s)

/-- What a cancelled operation leaves: its handshake, its gate list or its instance goes. -/
def cancelEffect (o : OpEntry) (s : State) : State :=
  match o.cmd with
  | .powerDoze _ => { s with pm := { s.pm with hs := none } }
  | .sysSetMode _ _ => { s with pm := { s.pm with setMode := none } }
  | .portGateLoad _ p => updPort p.port (fun t => { t with gatePend := none }) s
  | .caravanRun _ _ _ => { s with cv := { s.cv with
      insts := s.cv.insts.filter (fun i => i.handle != some o.handle),
      items := s.cv.items.filter (fun it => !s.cv.insts.any (fun i => i.handle == some o.handle && i.job == it.job && i.seq == it.seq)) } }
  | _ => s

/-- SYS.CANCEL on a handle (02 R60): BUSY once a buffer write has begun (02 R499). -/
def cancelHandle (handle : Nat) (s : State) : Reply :=
  match findOp s handle with
  | none => ⟨0x50, [], s⟩
  | some o =>
    let o := o.advance (freeBits 64 s) s
    let s := lookAt handle s
    if !cancellableOpcodes.contains o.opcode || pastCommit s o then ⟨0x22, [], s⟩
    else ⟨0, [], finalCompletion o 0x51 [] (if o.phase == .waking then s else cancelEffect o s)⟩

/-- SYS.CANCEL. -/
def procSysCancel (h : Hdr) (handle : Nat) (_ : State) : Proc := ⟨h, spec0 0x0003 4, .done (cancelHandle handle)⟩

def execSysCancel (h : Hdr) (handle : Nat) (s : State) : Host.Outcome State Fault Refusal :=
  .next (runProc (.sysCancel h handle) (procSysCancel h handle s) s)

/-! ### SYS.SET_MODE (02 R72, 14 R444, R445) -/

/-- The target is the mode the LSW shows, a service mode for RUN. -/
def atTarget (target : Nat) (s : State) : Bool :=
  target == s.pm.mode.code || (target == 3 && s.pm.mode.isService)

/-- Table 14-2, and 01 R30 in RETIRED. -/
def modeReachable (target : Nat) (s : State) : Bool :=
  match s.pm.mode with
  | .provision => target == 2 && s.fuses.lifecycle == .operational && s.cfg.activeValid
  | .commission => target == 1 || target == 3
  | .run => target == 2
  | .holdover => target == 2
  | .degraded => target == 2
  | _ => false

/-- SYS.SET_MODE: the recomputation of admission is cancellable, every other transition has begun at ACCEPTED. -/
def procSysSetMode (h : Hdr) (target : Nat) (s : State) : Proc :=
  let c := specM 0x0010 1 (within 1 3 target) (atTarget target s || modeReachable target s)
  if atTarget target s then ⟨h, c, .done (effect id)⟩
  else
    let recompute := s.pm.mode == .provision
    ⟨h, c, .accepted (if recompute then .running else .committed)
      (fun s => firstBad [(runningOp s 0x0010 || s.pm.hs.isSome, 0x22)])
      (fun k s => if recompute then { s with pm := { s.pm with setMode := some k } } else s)⟩

def execSysSetMode (h : Hdr) (target : Nat) (s : State) : Host.Outcome State Fault Refusal :=
  .next (runProc (.sysSetMode h target) (procSysSetMode h target s) s)

/-- Every ALM line, ALM_STB and rule-driven pulse is low (10 R342). -/
def lowerLines (s : State) : State :=
  { s with al := { s.al with alm := 0, deferred := false, stbRise := 0, stbFall := 0,
                             lines := s.al.lines.map (fun e => (e.1, { e.2 with latched := false, pulseEnd := none })) } }

/-- Entry to PROVISION from COMMISSION (14 R445, 10 R342, 11 R376). -/
def enterProvision (s : State) : State :=
  let s := discardAll (discardInsts (clearAllRules s))
  let s := { s with am := { s.am with els := s.am.els.map (fun e => (e.1, { e.2 with running := false })) } }
  setMode .provision (lowerLines s)

/-- Entry to COMMISSION: from PROVISION groups open again and elements run (14 R445, 11 R376); from a service mode rules
clear (10 R342). -/
def enterCommission (s : State) : State :=
  if s.pm.mode == .provision then resumeEnergy (ergResume (setMode .commission s))
  else driveLines (setMode .commission (clearAllRules s))

/-- Entry to a service mode from COMMISSION (01 R29, 10 R342). -/
def enterService (s : State) : State := driveLines (setMode (serviceMode s) (clearAllRules s))

/-- The final completion of SYS.SET_MODE (14 R444). -/
def finishSetMode (o : OpEntry) (target : Nat) (hwFault : Bool) (s : State) : State :=
  let s := { s with pm := { s.pm with setMode := none } }
  if hwFault then finalCompletion o 0x60 [] s
  else if atTarget target s then finalCompletion o 0 [] s
  else if target == 1 then finalCompletion o 0 [] (enterProvision s)
  else if target == 3 then finalCompletion o 0 [] (enterService s)
  else if s.pm.mode == .provision && !admitted s then finalCompletion o 0x31 [] s
  else finalCompletion o 0 [] (enterCommission s)

/-! ### Freeze, thaw, reset -/

/-- SYS.FREEZE: its DONE, then the clocks stop (14 R467). -/
def procSysFreeze (h : Hdr) (_ : State) : Proc := ⟨h, spec0 0x0011 0, .done (effect id) (freeze 2)⟩

def execSysFreeze (h : Hdr) (s : State) : Host.Outcome State Fault Refusal :=
  .next (runProc (.sysFreeze h) (procSysFreeze h s) s)

/-- SYS.THAW (14 R469, 01 R33): BUSY while FREEZE_N is low. -/
def procSysThaw (h : Hdr) (s : State) : Proc :=
  ⟨h, specM 0x0012 0 true (s.pm.mode == .frozen),
   .done (fun s => refuseIf (!s.pins.freezeN) 0x22 (effect (fun s => ptpPortsOff (thaw false s))) s)⟩

def execSysThaw (h : Hdr) (s : State) : Host.Outcome State Fault Refusal :=
  .next (runProc (.sysThaw h) (procSysThaw h s) s)

/-- A warm reset is asked for: the flush starts; the reset takes hold after it (02 R72, 13 R433). -/
def askWarmReset (s : State) : State :=
  flushTrigger { s with pm := { s.pm with pendWarm := some (s.pm.pendWarm.getD s.tm.frc) } }

/-- SYS.RESET. -/
def procSysReset (h : Hdr) (kind : Nat) (_ : State) : Proc :=
  ⟨h, specP 0x0013 1 (kind == 0), .done (effect id) askWarmReset⟩

def execSysReset (h : Hdr) (kind : Nat) (s : State) : Host.Outcome State Fault Refusal :=
  .next (runProc (.sysReset h kind) (procSysReset h kind s) s)

/-! ### Marks of a notice queue (02 R69) -/

/-- `mark` of R69. -/
def Nq.mark (n : Nq) : Nq := { n with m := n.r, markValid := true, markLost := false }

/-- `rewind` of R69, and whether it succeeds; the timer restarts at a change from empty to non-empty (02 R71). -/
def Nq.rewind (n : Nq) (now : Nat) : Nq × Bool :=
  if !n.markValid then (n, false)
  else if n.markLost then ({ n with m := n.l, markLost := false }, false)
  else ({ n with r := n.m, timer := if n.r == n.w && n.m != n.w then some now else n.timer }, true)

/-- `release` of R69, and whether it succeeds. -/
def Nq.release (n : Nq) (k : Nat) : Nq × Bool :=
  let k := if k == 0 then n.r - n.l else k
  if n.r - n.l < k then (n, false)
  else ({ n with l := n.l + k, held := n.held.drop k, markValid := n.markValid && n.l + k ≤ n.m }, true)

/-- SYS.NQ_MARK. -/
def procSysNqMark (h : Hdr) (q : Nat) (_ : State) : Proc :=
  ⟨h, specP 0x0020 1 (q < 32), .done (effect (fun s => setNq q (getNq s q).mark s))⟩

def execSysNqMark (h : Hdr) (q : Nat) (s : State) : Host.Outcome State Fault Refusal :=
  .next (runProc (.sysNqMark h q) (procSysNqMark h q s) s)

/-- A rewind of queue `q`; a THRESH condition it meets fires (02 R71). -/
def rewindNq (q : Nat) (s : State) : Reply :=
  let r := (getNq s q).rewind s.tm.frc
  let s' := setNq q r.1.settle s
  ⟨if r.2 then 0 else 0x11, [], if r.2 && r.1.threshFires then fireVector (16 + q) s' else s'⟩

/-- SYS.NQ_REWIND. -/
def procSysNqRewind (h : Hdr) (q : Nat) (_ : State) : Proc := ⟨h, specP 0x0021 1 (q < 32), .done (rewindNq q)⟩

def execSysNqRewind (h : Hdr) (q : Nat) (s : State) : Host.Outcome State Fault Refusal :=
  .next (runProc (.sysNqRewind h q) (procSysNqRewind h q s) s)

/-- A release of `k` read entries of queue `q`. -/
def releaseNq (q k : Nat) (s : State) : Reply :=
  let r := (getNq s q).release k
  if r.2 then ⟨0, [], setNq q r.1 s⟩ else ⟨0x11, [], s⟩

/-- SYS.NQ_RELEASE. -/
def procSysNqRelease (h : Hdr) (q count : Nat) (_ : State) : Proc :=
  ⟨h, specP 0x0022 4 (q < 32 && count ≤ 1024), .done (releaseNq q count)⟩

def execSysNqRelease (h : Hdr) (q count : Nat) (s : State) : Host.Outcome State Fault Refusal :=
  .next (runProc (.sysNqRelease h q count) (procSysNqRelease h q count s) s)

/-- SYS.CLEAR_COUNTERS: HI_NQ_LOST of the queues of a mask (02 R70). -/
def procSysClearCounters (h : Hdr) (mask : Nat) (_ : State) : Proc :=
  ⟨h, spec0 0x0030 4, .done (effect (fun s =>
    { s with hi := { s.hi with nqs := s.hi.nqs.map (fun e => if bit mask e.1 then (e.1, { e.2 with lost := 0 }) else e) } }))⟩

def execSysClearCounters (h : Hdr) (mask : Nat) (s : State) : Host.Outcome State Fault Refusal :=
  .next (runProc (.sysClearCounters h mask) (procSysClearCounters h mask s) s)

end Sys2Proof.Machine
end

