-- ==== Sys2Proof/Machine/VaultCmd.lean ====
section
/-! DEFINITION. The VAULT class (12 R397 to R412, Table 12-12). -/

namespace Sys2Proof.Machine

/-! ### Status, lifecycle, root, tamper, debug -/

/-- VAULT.STATUS: OV_STAT, OV_TAMPER, OV_OWNER_CTR, OV_STMT_CTR. -/
def procVaultStatus (h : Hdr) (_ : State) : Proc :=
  ⟨h, spec0 0x3000 0, .done (answer (fun s =>
    leBytes 4 (ovStat s) ++ leBytes 4 (ovTamper s.ov) ++ leBytes 4 s.cairn.ownerCtr ++ leBytes 4 s.cairn.stmtCtr))⟩

def execVaultStatus (h : Hdr) (s : State) : Host.Outcome State Fault Refusal :=
  .next (runProc (.vaultStatus h) (procVaultStatus h s) s)

/-- The lifecycle a TARGET code names. -/
def lifecycleOf (code : Nat) : Option Lifecycle :=
  [Lifecycle.blank, .provisioned, .operational, .retired][code]?

/-- A change that Table 12-6 lists. -/
def lifecycleStep (from' : Lifecycle) (target : Nat) : Bool :=
  match from' with
  | .blank => target == 1
  | .provisioned => target == 2 || target == 3
  | .operational => target == 3
  | .retired => false

/-- PROVISION without a Mirage root (12 R404). -/
def trueProvision (s : State) : Bool := s.pm.mode == .provision && s.ov.mirage.isNone

/-- VAULT.LIFECYCLE (12 R402): in BLANK the command carries the owner key, and its tag verifies under that key. -/
def procVaultLifecycle (h : Hdr) (target : Nat) (ownerKey : Option Nat) (s : State) : Proc :=
  let blank := s.fuses.lifecycle == .blank
  ⟨h, { specM 0x3001 (if blank then 104 else 8) (lifecycleStep s.fuses.lifecycle target) (trueProvision s) with
          lenOk := blank == ownerKey.isSome, auth := .alg1, key := if blank then ownerKey else none },
   later (fun s => if runningOp s 0x3001 || s.pm.pendWipe.isSome then 0x22 else 0)⟩

def execVaultLifecycle (h : Hdr) (target : Nat) (ownerKey : Option Nat) (s : State) : Host.Outcome State Fault Refusal :=
  .next (runProc (.vaultLifecycle h target ownerKey) (procVaultLifecycle h target ownerKey s) s)

/-- The fuses of a lifecycle change and what it does to the root (Table 12-6). -/
def burnFuses (l : Lifecycle) (ownerKey : Option Nat) (s : State) : State :=
  let s := { s with fuses := { s.fuses with lifecycle := l } }
  match l with
  | .provisioned =>
    let (r, s) := drawRandom s
    { s with fuses := { s.fuses with ownerHash := ownerKey.map ownerDigest }, cairn := { s.cairn with ownerKey := ownerKey },
             ov := { s.ov with root := some (r % 2 ^ 256), rootRegen := false } }
  | .retired => { s with ov := { s.ov with root := none } }
  | _ => s

/-- The final completion of VAULT.LIFECYCLE: a failed burn changes nothing; the wipe follows (12 R402). -/
def finishLifecycle (o : OpEntry) (target : Nat) (ownerKey : Option Nat) (hwFault : Bool) (s : State) : State :=
  match lifecycleOf target with
  | none => finalCompletion o 0x60 [] s
  | some l =>
    if hwFault || (l == .provisioned && (ownerKey.isNone || !drbgServes s)) || !lifecycleStep s.fuses.lifecycle target then finalCompletion o 0x60 [] s
    else
      let s := finalCompletion o 0 [] (burnFuses l ownerKey s)
      { s with pm := { s.pm with pendWipe := some s.tm.frc } }

/-- The owner key is restored to Cairn and KREG (12 R382). -/
def loadOwner (key : Nat) (s : State) : State :=
  { s with cairn := { s.cairn with ownerKey := some key }, ov := { s.ov with kreg := some key, ownerBad := false } }

/-- VAULT.OWNER_LOAD. -/
def procVaultOwnerLoad (h : Hdr) (key : Nat) (s : State) : Proc :=
  ⟨h, specM 0x3002 96 true (s.pm.mode == .provision),
   .done (fun s => refuseIf (s.fuses.ownerHash != some (ownerDigest key)) 0x11 (effect (loadOwner key)) s)⟩

def execVaultOwnerLoad (h : Hdr) (key : Nat) (s : State) : Host.Outcome State Fault Refusal :=
  .next (runProc (.vaultOwnerLoad h key) (procVaultOwnerLoad h key s) s)

/-- VAULT.ROOT_GENERATE: one under way already takes the root's place. -/
def procVaultRootGenerate (h : Hdr) (s : State) : Proc :=
  let lc := s.fuses.lifecycle == .provisioned || s.fuses.lifecycle == .operational
  ⟨h, { specM 0x3003 0 true (trueProvision s && lc) with auth := .alg1 },
   later (fun s => if s.ov.root.isSome || s.ov.tamper || runningOp s 0x3003 then 0x11 else 0)⟩

def execVaultRootGenerate (h : Hdr) (s : State) : Host.Outcome State Fault Refusal :=
  .next (runProc (.vaultRootGenerate h) (procVaultRootGenerate h s) s)

/-- The final completion of VAULT.ROOT_GENERATE. -/
def finishRoot (o : OpEntry) (hwFault : Bool) (s : State) : State :=
  if hwFault || !drbgServes s || s.ov.tamper then finalCompletion o 0x60 [] s
  else
    let (r, s) := drawRandom s
    finalCompletion o 0 [] { s with ov := { s.ov with root := some (r % 2 ^ 256), rootRegen := true } }

/-- VAULT.TAMPER_CLEAR (12 R391). -/
def procVaultTamperClear (h : Hdr) (s : State) : Proc :=
  ⟨h, { specM 0x3004 0 true (s.pm.mode == .provision) with auth := .alg1 },
   .done (effect (fun s => { s with ov := { s.ov with tamper := false, causes := 0 } }))⟩

def execVaultTamperClear (h : Hdr) (s : State) : Host.Outcome State Fault Refusal :=
  .next (runProc (.vaultTamperClear h) (procVaultTamperClear h s) s)

/-- Enables that turn TAMPER0 or TAMPER1 off (Table 12-2). -/
def disablesTamper (s : State) (enables : Nat) : Bool := [0, 1].any (fun n => bit s.ov.tamperCfg n && !bit enables n)

/-- VAULT.TAMPER_CONFIG. -/
def procVaultTamperConfig (h : Hdr) (enables : Nat) (s : State) : Proc :=
  ⟨h, { specM 0x3005 4 (enables < 2 ^ 7 && bit enables 3 && bit enables 6) (inSetup s) with
          auth := if disablesTamper s enables then .alg1 else .owner },
   .done (effect (fun s => { s with ov := { s.ov with tamperCfg := enables } }))⟩

def execVaultTamperConfig (h : Hdr) (enables : Nat) (s : State) : Host.Outcome State Fault Refusal :=
  .next (runProc (.vaultTamperConfig h enables) (procVaultTamperConfig h enables s) s)

/-- VAULT.DEBUG (12 R404): DBG_ARM, which the next BOOT reads. -/
def procVaultDebug (h : Hdr) (en : Nat) (_ : State) : Proc :=
  ⟨h, { specP 0x3006 4 (flag en) with auth := .owner },
   .done (effect (fun s => { s with ov := { s.ov with dbgArm := en == 1 } }))⟩

def execVaultDebug (h : Hdr) (en : Nat) (s : State) : Host.Outcome State Fault Refusal :=
  .next (runProc (.vaultDebug h en) (procVaultDebug h en s) s)

/-! ### Keys -/

/-- A VAULT opcode that names a slot: allowed in COMMISSION and the service modes. -/
def slotSpec (opcode plen : Nat) (ok : Bool) (s : State) : CmdSpec := { specM opcode plen ok (serving s) with auth := .owner }

/-- An accepted opcode whose refusal may be KEY_REVOKED. -/
def laterUse (first : State → Nat) : Work := .accepted .running first (fun _ s => s) (fun s => countRevoked (first s) s)

/-- Every slot of a key's span is FREE; claims are the operation's own. -/
def spanEmpty (s : State) (n alg : Nat) : Bool := (List.range (algSpan alg)).all (fun i => (getSlot s (n + i)).isNone)

/-- VAULT.GENERATE. -/
def procVaultGenerate (h : Hdr) (slot alg usage lock : Nat) (s : State) : Proc :=
  ⟨h, slotSpec 0x3010 4 (slot < 256 && usageOk alg usage && flag lock) s,
   later (fun s => if spanFree s slot alg then 0 else 0x11)⟩

def execVaultGenerate (h : Hdr) (slot alg usage lock : Nat) (s : State) : Host.Outcome State Fault Refusal :=
  .next (runProc (.vaultGenerate h slot alg usage lock) (procVaultGenerate h slot alg usage lock s) s)

/-- A key drawn from the DRBG: 256 bits, a private key of its curve, or for a public key any X‖Y (12 Table 12-12). -/
def drawnKey (alg v : Nat) : Nat :=
  if alg == 2 then v % (p256.n - 1) + 1
  else if alg == 3 then v % (p384.n - 1) + 1
  else if alg == 4 then v % 2 ^ 512
  else if alg == 5 then v
  else v % 2 ^ 256

/-- The final completion of VAULT.GENERATE. -/
def finishGenerate (o : OpEntry) (slot alg usage lock : Nat) (hwFault : Bool) (s : State) : State :=
  if hwFault || !drbgServes s || !spanEmpty s slot alg then finalCompletion o 0x60 [] s
  else
    let (v, s) := drawRandom s
    finalCompletion o 0 [] (putKey slot ⟨usage, 0, false, false, lock == 1, true, alg, false, false, 0, drawnKey alg v, none⟩ s)

/-- The status of a derivation from a parent slot or, with 0xFF, from the root (12 R389, R393). -/
def parentStatus (parent : Nat) (s : State) : Nat :=
  if parent == 0xFF then (if (rootInForce s).isSome then 0 else 0x11) else keyUse s parent 1 [0, 1]

/-- The status of VAULT.DERIVE. -/
def deriveStatus (slot parent alg : Nat) (s : State) : Nat :=
  firstBad [(!spanFree s slot alg, 0x11), (parentStatus parent s != 0, parentStatus parent s)]

/-- VAULT.DERIVE: labels of zeros and of ones are reserved (12 R396). -/
def procVaultDerive (h : Hdr) (slot parent alg usage lock label : Nat) (s : State) : Proc :=
  ⟨h, slotSpec 0x3011 40 (slot < 256 && parent < 256 && alg < 4 && usageOk alg usage && flag lock && label != 0 &&
        label < 2 ^ 256 - 1) s,
   laterUse (deriveStatus slot parent alg)⟩

def execVaultDerive (h : Hdr) (slot parent alg usage lock label : Nat) (s : State) : Host.Outcome State Fault Refusal :=
  .next (runProc (.vaultDerive h slot parent alg usage lock label) (procVaultDerive h slot parent alg usage lock label s) s)

/-- The final completion of VAULT.DERIVE. -/
def finishDerive (o : OpEntry) (slot parent alg usage lock label : Nat) (hwFault : Bool) (s : State) : State :=
  if hwFault || !spanEmpty s slot alg || parentStatus parent s != 0 then finalCompletion o 0x60 [] s
  else finalCompletion o 0 [] (putKey slot (derivedKey s parent alg usage (lock == 1) label) s)

/-- Bytes of a blob: IV, attribute word, ciphertext, tag (12 Table 12-4). -/
def blobLen (alg : Nat) : Nat := 32 * algSpan alg + 32

/-- Length of the material of an import. -/
def materialLen (form alg : Nat) : Nat := if form == 0 then 32 * algSpan alg else blobLen alg

/-- Values of an import; OWNER only for an HMAC key whose USAGE is exactly MAC_VER (12 R397). -/
def importOk (p : ImportP) : Bool :=
  p.slot < 256 && p.form < 3 && p.wrapSlot < 256 && usageOk p.alg p.usage && (!p.owner || (p.alg == 1 && p.usage == 0x10))

/-- The status of VAULT.IMPORT. -/
def importStatus (p : ImportP) (s : State) : Nat :=
  let wrap := keyUse s p.wrapSlot 0 [0]
  firstBad [(!spanFree s p.slot p.alg, 0x11), (p.form == 1 && wrap != 0, wrap), (p.form == 2 && (rootInForce s).isNone, 0x11)]

/-- VAULT.IMPORT. -/
def procVaultImport (h : Hdr) (p : ImportP) (s : State) : Proc :=
  ⟨h, { slotSpec 0x3012 (8 + materialLen p.form p.alg) (importOk p) s with
          lenOk := p.material.length == materialLen p.form p.alg, auth := if p.form == 0 || p.owner then .alg1 else .owner },
   laterUse (importStatus p)⟩

def execVaultImport (h : Hdr) (p : ImportP) (s : State) : Host.Outcome State Fault Refusal :=
  .next (runProc (.vaultImport h p) (procVaultImport h p s) s)

/-- The label of the seal key: all ones (12 R396). -/
def sealLabel : Nat := 2 ^ 256 - 1

/-- The seal key of a root in the present lifecycle (12 R396, R397); its attribute word is 0 (log 85). -/
def sealKey (s : State) (root : Nat) : Nat := deriveKey 0 root sealLabel (kdfContext s.fuses.lifecycle.code 0 s.fuses.uid)

/-- The additional data of a blob: attribute word and DEVICE_UID (Table 12-4). -/
def blobAad (attr uid : Nat) : List Nat := leBytes 4 attr ++ leBytes 16 uid

/-- The attribute word and the key of a blob under a wrapping key, none when its tag fails (12 R397, Table 12-4). -/
def openBlob (wrap uid : Nat) (blob : List Nat) : Option (Nat × Nat) :=
  let attr := ofLeBytes ((blob.drop 12).take 4)
  (gcmOpen (beBytes 32 wrap) (blob.take 12) (blobAad attr uid) (blob.drop 16)).map (fun plain => (attr, beNat plain))

/-- The attribute word and key of an import: in clear, or from a blob under its wrapping slot or the seal key of the root in
force; none when a tag fails or the attribute word is not the one requested (12 R397). -/
def importedMaterial (p : ImportP) (s : State) : Option (Nat × Nat) :=
  let asked := attrRequest p.usage p.alg p.exportable p.lock p.owner
  if p.form == 0 then some (asked, beNat p.material)
  else
    let wrap := if p.form == 1 then (getSlot s p.wrapSlot).map (·.material) else (rootInForce s).map (sealKey s)
    match wrap.bind (fun w => openBlob w s.fuses.uid p.material) with
    | some (attr, key) => if attrStated attr == asked then some (attr, key) else none
    | none => none

/-- The final completion of VAULT.IMPORT. -/
def finishImport (o : OpEntry) (p : ImportP) (hwFault : Bool) (s : State) : State :=
  let lost := (p.form == 1 && keyUse s p.wrapSlot 0 [0] != 0) || (p.form == 2 && (rootInForce s).isNone)
  if hwFault || !spanEmpty s p.slot p.alg || lost then finalCompletion o 0x60 [] s
  else match importedMaterial p s with
    | none => finalCompletion o 0x41 [] s
    | some (attr, key) => finalCompletion o 0 []
      (putKey p.slot (importedKey p.form p.wrapSlot p.alg p.usage p.exportable p.lock p.owner (bit attr 15) key) s)

/-- The status of a slot that is to be sealed, exported or destroyed: KEY_REVOKED for an ORPHANED one. -/
def heldStatus (s : State) (slot : Nat) : Nat :=
  match getSlot s slot with
  | some k => if k.alg == 6 then 0x11 else if k.orphaned then 0x42 else 0
  | none => 0x11

/-- Bytes of the blob of a slot. -/
def slotBlobLen (s : State) (slot : Nat) : Nat := ((getSlot s slot).map (fun k => blobLen k.alg)).getD 0

/-- A blob: a fresh IV, the attribute word, and the key's ciphertext and tag under a wrapping key (Table 12-4). -/
def blobBytes (k : Slot) (wrap uid iv : Nat) : List Nat :=
  leBytes 12 iv ++ leBytes 4 k.attr ++
  gcmSeal (beBytes 32 wrap) (leBytes 12 iv) (blobAad k.attr uid) (beBytes (32 * algSpan k.alg) k.material)

/-- The status of VAULT.SEAL. -/
def sealStatus (slot len : Nat) (s : State) : Nat :=
  firstBad [(heldStatus s slot != 0, heldStatus s slot), ((rootInForce s).isNone, 0x11), (len < slotBlobLen s slot, 0x12)]

/-- VAULT.SEAL. -/
def procVaultSeal (h : Hdr) (slot addr len : Nat) (s : State) : Proc :=
  ⟨h, slotSpec 0x3013 20 (slot < 256 && bufferOk addr && len < 2 ^ 32) s, laterUse (sealStatus slot len)⟩

def execVaultSeal (h : Hdr) (slot addr len : Nat) (s : State) : Host.Outcome State Fault Refusal :=
  .next (runProc (.vaultSeal h slot addr len) (procVaultSeal h slot addr len s) s)

/-- A blob is written to the host and the command ends with its length; a DRBG that has stopped, or a key lost meanwhile,
is HW_FAULT. -/
def finishBlob (o : OpEntry) (slot addr len wrap uid : Nat) (ok : Bool) (s : State) : State :=
  match getSlot s slot with
  | none => finalCompletion o 0x60 [] s
  | some k =>
    if !ok || !drbgServes s || heldStatus s slot != 0 || len < blobLen k.alg then finalCompletion o 0x60 [] s
    else
      let (iv, s) := drawRandom s
      finalCompletion o 0 (leBytes 4 (blobLen k.alg)) (hostOut addr (o.opcode) (blobBytes k wrap uid (iv % 2 ^ 96)) s)

/-- The final completion of VAULT.SEAL: under the seal key of the root in force. -/
def finishSeal (o : OpEntry) (slot addr len : Nat) (hwFault : Bool) (s : State) : State :=
  match rootInForce s with
  | none => finalCompletion o 0x60 [] s
  | some r => finishBlob o slot addr len (sealKey s r) s.fuses.uid (!hwFault) s

/-- The status of VAULT.EXPORT (12 R398). -/
def exportStatus (slot wrapSlot len : Nat) (s : State) : Nat :=
  let wrap := keyUse s wrapSlot 0 [0]
  firstBad [(heldStatus s slot != 0, heldStatus s slot), (!((getSlot s slot).map (·.exportable)).getD false, 0x11), (wrap != 0, wrap),
    (len < slotBlobLen s slot, 0x12)]

/-- VAULT.EXPORT. -/
def procVaultExport (h : Hdr) (slot wrapSlot destUid addr len : Nat) (s : State) : Proc :=
  ⟨h, slotSpec 0x3014 44 (slot < 256 && wrapSlot < 256 && destUid < 2 ^ 128 && bufferOk addr && len < 2 ^ 32) s,
   laterUse (exportStatus slot wrapSlot len)⟩

def execVaultExport (h : Hdr) (slot wrapSlot destUid addr len : Nat) (s : State) : Host.Outcome State Fault Refusal :=
  .next (runProc (.vaultExport h slot wrapSlot destUid addr len) (procVaultExport h slot wrapSlot destUid addr len s) s)

/-- The final completion of VAULT.EXPORT. -/
def finishExport (o : OpEntry) (slot wrapSlot destUid addr len : Nat) (hwFault : Bool) (s : State) : State :=
  finishBlob o slot addr len (((getSlot s wrapSlot).map (·.material)).getD 0) destUid
    (!hwFault && keyUse s wrapSlot 0 [0] == 0 && ((getSlot s slot).map (·.exportable)).getD false) s

/-- VAULT.DESTROY: LOCK asks ALG 1; an ORPHANED slot may be destroyed (12 R394). -/
def procVaultDestroy (h : Hdr) (slot : Nat) (s : State) : Proc :=
  ⟨h, { slotSpec 0x3015 1 (slot < 256) s with auth := if ((getSlot s slot).map (·.lock)).getD false then .alg1 else .owner },
   .done (fun s =>
     if slotHeld s slot then
       let (s, n) := destroySlot slot s
       ⟨0, leBytes 2 n, s⟩
     else ⟨0x11, [], s⟩)⟩

def execVaultDestroy (h : Hdr) (slot : Nat) (s : State) : Host.Outcome State Fault Refusal :=
  .next (runProc (.vaultDestroy h slot) (procVaultDestroy h slot s) s)

/-! ### Attestation, query, random bytes -/

/-- COMMISSION, the service modes and DOZE. -/
def slotDoze (s : State) : Bool := serving s || s.pm.mode == .doze

/-- A slot that may be attested. -/
def attestable (s : State) (slot : Nat) : Bool :=
  match getSlot s slot with
  | some k => !k.orphaned && (k.alg == 2 || k.alg == 3)
  | none => false

/-- The status of VAULT.ATTEST. -/
def attestStatus (slot : Nat) (s : State) : Nat :=
  firstBad [(slot != 0xFF && !attestable s slot, 0x11), ((rootInForce s).isNone, 0x11), (stmtTaken s, 0x30)]

/-- VAULT.ATTEST. -/
def procVaultAttest (h : Hdr) (slot nonce addr len : Nat) (s : State) : Proc :=
  ⟨h, { specM 0x3016 52 (slot < 256 && nonce < 2 ^ 256 && bufferOk addr && len < 2 ^ 32)
          (slotDoze s || (slot == 0xFF && s.pm.mode == .provision)) with lenOk := 272 ≤ len },
   later (attestStatus slot)⟩

def execVaultAttest (h : Hdr) (slot nonce addr len : Nat) (s : State) : Host.Outcome State Fault Refusal :=
  .next (runProc (.vaultAttest h slot nonce addr len) (procVaultAttest h slot nonce addr len s) s)

/-- The identity key, derived from the root in force with the label of zeros (12 R383, R396). -/
def identityKey (s : State) : Nat := deriveKey 3 ((rootInForce s).getD 0) 0 (kdfContext 0 0 s.fuses.uid)

/-- The statement of Table 12-5 before its signature. -/
def attestBody (slot nonce : Nat) (s : State) : List Nat :=
  let k := if slot == 0xFF then none else getSlot s slot
  let pub := match k with
    | some k => if k.alg == 2 then publicKey p256 k.material ++ List.replicate 32 0 else publicKey p384 k.material
    | none => publicKey p384 (identityKey s)
  leBytes 4 familyId ++ leBytes 16 s.fuses.uid ++
  [s.fuses.lifecycle.code, b2n s.ov.mirage.isSome + 2 * b2n s.ov.rootRegen, 0, 0] ++ leBytes 4 s.cairn.stmtCtr ++
  DT80.bytes (dt80Of (now s)) ++ [s.tm.tq.code, slot] ++ leBytes 4 ((k.map Slot.attr).getD 0) ++ List.replicate 4 0 ++
  leBytes 32 nonce ++ pub

/-- The final completion of VAULT.ATTEST. -/
def finishAttest (o : OpEntry) (slot nonce addr : Nat) (hwFault : Bool) (s : State) : State :=
  if hwFault || !drbgServes s || stmtEnded s || (rootInForce s).isNone then finalCompletion o 0x60 [] s
  else if slot != 0xFF && !attestable s slot then finalCompletion o 0x42 [] (countRevoked 0x42 s)
  else
    let body := attestBody slot nonce s
    finalCompletion o 0 []
      (hostOut addr 0x3016 (body ++ ecdsaSign p384 (identityKey s) (drawRandom s).1 body) (takeStatement (drawRandom s).2))

/-- VAULT.SLOT_QUERY: the attribute word and counter, 0 for a FREE slot; a CONT slot is BAD_PARAM. -/
def procVaultSlotQuery (h : Hdr) (slot : Nat) (s : State) : Proc :=
  ⟨h, specM 0x3017 1 (slot < 256) (slotDoze s),
   .done (fun s => refuseIf (((getSlot s slot).map (·.alg)) == some 6) 0x11
     (answer (fun s => leBytes 4 (slotAttr s slot) ++ leBytes 4 (slotCtr s slot))) s)⟩

def execVaultSlotQuery (h : Hdr) (slot : Nat) (s : State) : Host.Outcome State Fault Refusal :=
  .next (runProc (.vaultSlotQuery h slot) (procVaultSlotQuery h slot s) s)

/-- VAULT.RANDOM. -/
def procVaultRandom (h : Hdr) (count : Nat) (s : State) : Proc :=
  ⟨h, specM 0x3018 1 (within 1 16 count) (slotDoze s),
   .done (fun s =>
     if !drbgServes s then ⟨0x60, [], s⟩
     else
       let (v, s) := drawRandom s
       ⟨0, leBytes count v, s⟩)⟩

def execVaultRandom (h : Hdr) (count : Nat) (s : State) : Host.Outcome State Fault Refusal :=
  .next (runProc (.vaultRandom h count) (procVaultRandom h count s) s)

/-- VAULT.CLEAR_COUNTERS. -/
def procVaultClearCounters (h : Hdr) (_ : State) : Proc :=
  ⟨h, spec0 0x3020 0, .done (effect (clearCounters 0x10D000 0x40))⟩

def execVaultClearCounters (h : Hdr) (s : State) : Host.Outcome State Fault Refusal :=
  .next (runProc (.vaultClearCounters h) (procVaultClearCounters h s) s)

end Sys2Proof.Machine
end

