-- ==== Sys2Proof/Machine/Image.lean ====
section
/-! DEFINITION. Fliparyn images: the configuration an image describes, and the checks of CFG.LOAD on it (02 R75, R76; 12
R399). -/

namespace Sys2Proof.Machine

/-- The kind of a setting, in the order in which settings are put, and the object it belongs to. -/
def settingKey : Setting → Nat × Nat
  | .key p => (0, p.slot)
  | .np _ _ => (1, 0)
  | .port p => (2, p.port)
  | .exact port index _ _ => (3, 16 * port + index)
  | .hash p => (4, p.port)
  | .vlan p => (5, p.port)
  | .intake port _ => (6, port)
  | .ptMap port _ => (7, port)
  | .prp p => (8, p.pair)
  | .macsec p => (9, p.port)
  | .sa p => (10, 128 * p.port + 64 * p.dir + saKey p.dir p.sc p.an)
  | .gate p => (11, p.port)
  | .time _ => (12, 0)
  | .source _ _ _ => (13, 0)
  | .ptp p => (14, p.inst)
  | .pps _ => (15, 0)
  | .latency p => (16, p.target)
  | .cmp p => (17, p.cmp)
  | .si _ => (18, 0)
  | .stream p => (19, p.sid)
  | .vstream p => (20, p.vs)
  | .erg _ => (21, 0)
  | .group p _ => (22, p.gid)
  | .session p _ => (23, p.session)
  | .levels _ => (24, 0)
  | .job p => (25, p.job)
  | .bind job gid => (26, 64 * job + gid)
  | .topo _ => (27, 0)
  | .model _ => (28, 0)
  | .cut p => (29, p.cut)
  | .osc _ => (30, 0)
  | .sig p => (31, p.sig)
  | .oscGroup p => (32, p.group)
  | .xtrig _ => (33, 0)
  | .line p => (34, p.line)
  | .rule p _ => (35, p.rule)
  | .aq _ => (36, 0)
  | .chan p _ => (37, p.ch)
  | .aqRing p _ => (38, ringNo p)
  | .meter _ => (39, 0)
  | .mchan p => (40, p.ch)
  | .cal p => (41, p.ch)
  | .elem p _ => (42, p.el)
  | .pulse p => (43, p.pulse)
  | .ballast p => (44, p.set)
  | .log _ => (45, 0)
  | .power _ => (46, 0)
  | .ref _ => (47, 0)

/-- The settings an image has of one sort. -/
def pick {α : Type} (f : Setting → Option α) (img : Image) : List α := img.settings.filterMap f

/-- The setting an image has of a sort of which there is one, else `d`. -/
def pickOne {α : Type} (f : Setting → Option α) (d : α) (img : Image) : α := (pick f img).head?.getD d

/-- The settings of a kind. -/
def ofKind (k : Nat) (img : Image) : List Setting := img.settings.filter (fun x => (settingKey x).1 == k)

/-- The key table of an image, in order. -/
def imageKeys (img : Image) : List KeyP := pick (fun x => match x with | .key p => some p | _ => none) img

/-- A setting taken into a configuration, without regard to what stood there; keys are written apart (12 R399). -/
def putSetting (x : Setting) (s : State) : State :=
  match x with
  | .key _ => s
  | .np nq quota => { s with np := { s.np with nq := nq, ptQuota := quota } }
  | .port p => setPort p s
  | .exact port index en addr => setExact port index en addr s
  | .hash p => setHash p s
  | .vlan p => setVlan p s
  | .intake port e => setIntake port e s
  | .ptMap port map => setPtMap port map s
  | .prp p => setPrp p s
  | .macsec p => setMacsec p s
  | .sa p => setSa p s
  | .gate p => updPort p.port (fun t => { t with gate := some p }) s
  | .time p => setTime p s
  | .source a b r => setSources a b r s
  | .ptp p => setPtp p s
  | .pps p => setPps p s
  | .latency p => setLat p s
  | .cmp p => setCmp p.cmp { Cmp.reset with armed := true, p := p } s
  | .si p => setSi p s
  | .stream p => placeStream p false s
  | .vstream p => putVs p false s
  | .erg p => setErg p s
  | .group p members => placeGroup p members false s
  | .session p en => placeSession p en false s
  | .levels p => setLevels p s
  | .job p => placeJob p false s
  | .bind job gid => bindJob job gid true s
  | .topo p => setTopo p s
  | .model m => placeModel m s
  | .cut p => placeCut p s
  | .osc p => setCmp p.cmp { Cmp.reset with armed := true, p := slowCmp p ⟨0, 0, 0⟩ } (setOsc p s)
  | .sig p => placeSig p s
  | .oscGroup p => placeOscGroup p s
  | .xtrig p => setXtrig p s
  | .line p => updLine p.line (fun x => { x with mode := p.mode, pulseUs := p.pulseUs }) s
  | .rule p en => setRule p.rule (Rule.fresh p en false) s
  | .aq nq => setAq nq s
  | .chan p en => setChan p.ch { p := p, en := en, markNo := 0, nextNo := 0, nextK := 0, tokens := 0, tokensAt := 0,
                                 windows := [], byCommand := false } s
  | .aqRing p addressed => placeRing p addressed false s
  | .meter p => setMeter p s
  | .mchan p => setMChan p s
  | .cal p => setCal p s
  | .elem p en => updElem p.el (fun x => { x with p := p, defd := true, en := en }) s
  | .pulse p => setPulseP p s
  | .ballast p => setBallast p s
  | .log p => setLog p s
  | .power p => setPower p s
  | .ref p => setRefs p s

/-- The settings of some kinds, put one by one. -/
def putKinds (ks : List Nat) (img : Image) (s : State) : State :=
  (ks.flatMap (fun k => ofKind k img)).foldl (fun s x => putSetting x s) s

/-! ### The configuration of an image -/

/-- A port without configuration; a list that a command has left pending stays. -/
def blankPort (t : Port) : Port := { Port.reset with gatePend := t.gatePend }

/-- The device without configuration: what an image does not carry is at its reset setting or does not exist (02 R78).
Capacities in service and comparators armed by command stay (04 R154), but not the one that serves the slow path. -/
def blankConfig (s : State) : State :=
  { s with
    np := { s.np with ports := s.np.ports.map (fun e => (e.1, blankPort e.2)), prp := [], nq := 0, ptQuota := Np.reset.ptQuota }
    tm := { s.tm with tether := { s.tm.tether with p := Tether.reset.p, primary := 0, secondary := 0, revertS := 0 }
                      ptpSlave := Ptp.reset, ptpMaster := Ptp.reset, pps := Pps.reset, lat := []
                      cmps := s.tm.cmps.filter (fun e => e.2.byCommand && !servesSlow s e.1) }
    si := { s.si with streams := [], nq := 0, tagTolUs := Si.reset.tagTolUs, burstUs := Si.reset.burstUs }
    erg := { s.erg with groups := [], sessions := [], nq := 0, headroom := Erg.reset.headroom, lowMark := Erg.reset.lowMark }
    cv := { s.cv with jobs := [], nq := 0, reserve := Cv.reset.reserve, ageCeil := Cv.reset.ageCeil, ckptUs := Cv.reset.ckptUs
                      shares := Cv.reset.shares, ages := Cv.reset.ages }
    ts := Ts.reset
    sc := Sc.reset
    al := Al.reset
    aq := Aq.reset
    am := { s.am with nq := 0, saveS := Am.reset.saveS, sdclkEn := false, vss := [], sets := []
                      chans := s.am.chans.map (fun e => (e.1, { e.2 with p := MChan.reset.p, c := MChan.reset.c }))
                      els := s.am.els.map (fun e => (e.1, { e.2 with p := Elem.reset.p, defd := false, en := false }))
                      pulses := [] }
    ev := { s.ev with faultVec := 0, flushVec := 0 }
    cfg := { s.cfg with version := 0, programPages := 0 } }

/-- The configuration an image describes, on the capacities in service. -/
def imageState (img : Image) (s : State) : State :=
  let t := commitKeys (imageKeys img) (blankConfig s)
  putKinds (List.range 48) img { t with cfg := { t.cfg with version := img.version, programPages := img.programPages } }

/-! ### The checks of CFG.LOAD -/

/-- Values of an entry of the key table (12 R397, R399, Table 12-3). -/
def keyValuesOk (p : KeyP) : Bool :=
  p.slot + algSpan p.alg ≤ 256 && usageOk p.alg p.usage && p.form < 3 && p.parent < 256 && flag p.origin &&
  (if p.form == 0 then p.alg < 4 && !p.owner && !p.exportable && p.material != 0 && p.material < 2 ^ 256 - 1
   else !p.owner || (p.alg == 1 && p.usage == 0x10))

/-- The values of a setting are those its command allows. -/
def settingOk : Setting → Bool
  | .key p => keyValuesOk p
  | .np nq quota => nq < 32 && quota ≤ 32768
  | .port p => portOk p
  | .exact port index en addr => port < 5 && index < 16 && flag en && addr < 2 ^ 48
  | .hash p => hashOk p
  | .vlan p => vlanOk p
  | .intake port e => intakeOk port e
  | .ptMap port map => port < 5 && map < 2 ^ 32
  | .prp p => prpOk p
  | .macsec p => macsecOk p
  | .sa p => saOk p
  | .gate p => gateOk p
  | .time p => timeCfgOk p
  | .source a b r => sourceOk a b r
  | .ptp p => ptpOk p
  | .pps p => ppsOk p
  | .latency p => latOk p
  | .cmp p => cmpOk p
  | .si p => siOk p
  | .stream p => streamOk p
  | .vstream p => vsOk p
  | .erg p => ergOk p
  | .group p _ => groupOk p
  | .session p _ => sessionOk p
  | .levels p => levelsOk p
  | .job p => jobOk p
  | .bind job gid => job < 1024 && gid < 64
  | .topo p => topoOk p
  | .model _ => true
  | .cut p => cutOk p
  | .osc p => oscOk p
  | .sig p => sigOk p
  | .oscGroup p => oscGroupOk p
  | .xtrig p => xtrigOk p
  | .line p => p.line < 8 && p.mode ≤ 2 && within 1 10000000 p.pulseUs
  | .rule p _ => ruleOk p
  | .aq nq => nq < 32
  | .chan p _ => chanOk p
  | .aqRing p _ => ringOk p
  | .meter p => meterOk p
  | .mchan p => mchanOk p
  | .cal p => calOk p
  | .elem p _ => elemValuesOk p
  | .pulse p => pulseOk p
  | .ballast p => p.set < 8 && flag p.en && p.el < 4 && p.mask < 256
  | .log p => logOk p
  | .power p => powerOk p
  | .ref p => refValuesOk p

/-- A group of an image has installed members, each once, in at most 4 groups (06 R196, Table 6-3). -/
def membersFit (t : State) (members : List Nat) : Bool :=
  members.length ≤ 16384 && allDistinct members && members.all (fun x => (getStream t x).isSome && groupsOf t x ≤ 4)

/-- A ring of an image suits its channel and the vectors of EV (10 R334, 13 R438). -/
def imageRingFits (t : State) (p : AqRingP) : Bool :=
  (getChan t p.ch).any (fun c => slotBytes p.kind c.p * 2 ^ p.log2Slots ≤ 2 ^ 36) &&
  (p.vector == 0 || (p.vector != t.ev.faultVec && p.vector != t.ev.flushVec))

/-- A setting agrees with the rest of its image's configuration `t`, as its command asks of the configuration in force. -/
def settingFits (t : State) : Setting → Bool
  | .prp p => pairAlike t p.pair
  | .sa p => keyUse t p.slot (if p.dir == 0 then 7 else 6) [0] == 0
  | .ptp p => !ptpClash p t
  | .stream p => bindStatus p.authMode p.keyCur t == 0 && bindStatus p.authMode p.keyNext t == 0
  | .vstream p => !twoPhase p.seqMask t
  | .group _ members => membersFit t members
  | .session p _ => (getGroup t p.gid).any (fun g => p.format != 0 || p.timeBase % g.p.rate == 0) && signingOk p t
  | .bind job gid => (getJob t job).isSome && groupLive t gid
  | .model m => modelOk t m
  | .cut p => cutNames t p
  | .osc p => oscRateOk t p.gid && slowJobOk t p.slowJob
  | .sig p => oscMember t p.aSid && (p.kind == 2 || oscMember t p.bSid) && (groupSigs t p.group).length ≤ 32
  | .oscGroup p => groupFits p (groupSigs t p.group).length
  | .rule p en => ruleNames t p && (!en || capsFit [p.gid] t)
  | .chan p _ => groupLive t p.gid
  | .aqRing p _ => imageRingFits t p
  | .cal p => 2 ≤ (getMChan t p.ch).p.sensor || noTemp p
  | .elem p _ => elemLimits p t
  | .ballast p => p.en == 0 || (getElem' t p.el).defd
  | _ => true

/-- No two streams have the same key (05 R160). -/
def keysDiffer : List StreamP → Bool
  | [] => true
  | p :: l => !l.any (sameKey p) && keysDiffer l

/-- The slots that a key table fills do not overlap, and it has at most 256 entries (12 R393, R399). -/
def keyTableOk (keys : List KeyP) : Bool :=
  keys.length ≤ 256 && allDistinct (keys.flatMap (fun p => (List.range (algSpan p.alg)).map (p.slot + ·)))

/-- The image changes neither u nor DIGITS of a defined element whose registers are not all 0 (11 R376). -/
def energyKept (s : State) : Setting → Bool
  | .elem p _ =>
    let x := getElem' s p.el
    !x.defd || (x.p.ulsb == p.ulsb && x.p.digits == p.digits) || x.regs.all (fun r => r.count == 0 && r.frac == 0 && r.roll == 0)
  | _ => true

/-- An image that parses into a configuration `t` of which nothing is BAD_PARAM. -/
def imageFits (img : Image) (s t : State) : Bool :=
  img.formOk && (img.settings.map settingKey).eraseDups.length == img.settings.length && img.settings.all settingOk &&
  keyTableOk (imageKeys img) && img.settings.all (settingFits t) && img.settings.all (energyKept s) &&
  keysDiffer (netStreams t) && camUsed [] (netStreams t) ≤ 256 && chainsOk (t.cv.jobs.map (·.2.p)) &&
  graphSetOk (t.cv.jobs.map (·.2.p)) && bindingsOk t && cutBranches t ≤ 1024 && agingOk t.cv.shares t.cv.ages t.cv.ageCeil

/-- The status of the key table, 0 when it is sound (12 R399): `earlier` are the slots written before. A parent must stand
earlier in the table, since every other slot is destroyed first. -/
def keyTableStatus (s t : State) : List Nat → List KeyP → Nat
  | _, [] => 0
  | earlier, p :: l =>
    let named := (p.form == 0 && p.parent != 0xFF) || p.form == 1
    let st := if p.form == 1 then keyUse t p.parent 0 [0] else keyUse t p.parent 1 [0, 1]
    if named && !earlier.contains p.parent then (if (getSlot s p.parent).any (·.orphaned) then 0x42 else 0x11)
    else if named && st != 0 then st
    else if !keyEntryOpens s p then 0x41
    else keyTableStatus s t (p.slot :: earlier) l

/-- The Twiagil signature verifies under the owner key in KREG (02 R75, 12 R382). -/
def imageSigned (img : Image) (s : State) : Bool := img.sigOk && s.ov.kreg.isSome

/-- The status of an image that was fetched, 0 when it may be staged (02 R75). -/
def imageStatus (img : Image) (s : State) : Nat :=
  let t := imageState img s
  if !imageSigned img s || img.version < s.cairn.anchor then 0x41
  else if !imageFits img s t then 0x11
  else if keyTableStatus s t [] (imageKeys img) != 0 then keyTableStatus s t [] (imageKeys img)
  else if !admitted t then 0x31
  else 0

/-- RESULT of a CFG.LOAD that ends with status `st`: what it did not reach is 0 (02 R76). -/
def imageResult (img : Image) (st : Nat) (s : State) : List Nat :=
  if st == 0 || st == 0x31 then loadResult (imageState img s)
  else if st == 0x60 || st == 0x61 || !imageSigned img s then List.replicate 16 0
  else leBytes 4 img.version ++ List.replicate 12 0

end Sys2Proof.Machine
end

