-- ==== Sys2Proof/Machine/CfgCmd.lean ====
section
/-! DEFINITION. The CFG commands (02 R74 to R78) and the effect of a commit on every block (03 R118, 04 R154, 05 R185, 06
R222, 07 R256, 08 R288, 09 R313, 10 R342, 11 R376, 12 R399). -/

namespace Sys2Proof.Machine

/-! ### Ports and timebase -/

/-- An installed SA is the one an image defines; its packet number then goes on. -/
def sameSa (a : Sa) (p : SaP) : Bool :=
  a.slot == p.slot && a.cipher == p.cipher && a.conf == p.conf && a.ssci == p.ssci && a.peerSci == p.peerSci &&
  a.salt == p.salt && !a.disabled

/-- An SA of the image is put, or kept as it stood in `old`. -/
def commitSa (old : State) (s : State) (p : SaP) : State :=
  match saOf old p.port p.dir p.sc p.an with
  | some a =>
    if sameSa a p then
      updPort p.port (fun t =>
        if p.dir == 0 then { t with txSa := tset t.txSa p.an a } else { t with rxSa := tset t.rxSa (saKey 1 p.sc p.an) a }) s
    else setSa p s
  | none => setSa p s

/-- A port's address filters, tags, intake and MACsec settings are at reset; its line, link, queues and gates stay. -/
def bareFilters (t : Port) : Port :=
  let r := Port.reset
  { t with bcast := r.bcast, promisc := r.promisc, hsel := r.hsel, hash := r.hash, exact := r.exact, vlanList := r.vlanList,
           vids := r.vids, intake := r.intake, ptMap := r.ptMap, macsecEn := r.macsecEn, validate := r.validate,
           replay := r.replay, sciPort := r.sciPort, pnThresh := r.pnThresh, txSa := [], rxSa := [] }

/-- A port takes the gate list of the image: an equal one goes on, another one waits for its cycle start (03 R107), and without
one all gates open at once. -/
def commitGate (g : Option GateP) (n : Nat) (s : State) : State :=
  updPort n (fun t =>
    if t.gate == g then { t with gateNext := none }
    else match g with
      | some p => { t with gateNext := some (p, now s) }
      | none => { t with gate := none, gateNext := none, gateCycle := 0, gateEntry := 0 }) s

/-- The ports take the configuration of the image (03 R118). -/
def commitPorts (img : Image) (s : State) : State :=
  let old := s
  let lines := pick (fun x => match x with | .port p => some p | _ => none) img
  let pairs := pick (fun x => match x with | .prp p => some p | _ => none) img
  let gates := pick (fun x => match x with | .gate p => some p | _ => none) img
  let sas := pick (fun x => match x with | .sa p => some p | _ => none) img
  let s := { s with np := { s.np with nq := 0, ptQuota := Np.reset.ptQuota } }
  let s := (List.range 5).foldl (fun s n =>
    updPort n bareFilters (setPort ((lines.find? (fun p => p.port == n)).getD ⟨n, 0, Port.reset.maxlen, 0⟩) s)) s
  let s := putKinds [1, 3, 4, 5, 6, 7, 9] img s
  let s := (List.range 2).foldl (fun s n => setPrp ((pairs.find? (fun p => p.pair == n)).getD ⟨n, 0, 0, 0⟩) s) s
  let s := sas.foldl (commitSa old) s
  (List.range 4).foldl (fun s n => commitGate (gates.find? (fun g => g.port == n)) n s) s

/-- A comparator takes what the image says: armed unless it runs so already, disarmed when the image that armed it is gone;
one armed by command that the image does not name stays (04 R154). -/
def commitCmp (p : Option CmpP) (n : Nat) (s : State) : State :=
  let c := getCmp s n
  match p with
  | some p => if c.armed && c.p == p && !c.byCommand then s else armCmp p false s
  | none => if c.armed && !c.byCommand then disarmCmp n s else s

/-- TM takes the TIME settings of the image and keeps integ, TQ, OFFSET and RATE (04 R154). -/
def commitTime (img : Image) (s : State) : State :=
  let cmps := pick (fun x => match x with | .cmp p => some p | _ => none) img
  let ptps := pick (fun x => match x with | .ptp p => some p | _ => none) img
  let lats := pick (fun x => match x with | .latency p => some p | _ => none) img
  let src := pickOne (fun x => match x with | .source a b r => some (a, b, r) | _ => none) (0, 0, 0) img
  let s := setTime (pickOne (fun x => match x with | .time p => some p | _ => none) Tether.reset.p img) s
  let s := setSources src.1 src.2.1 src.2.2 s
  let s := (List.range 2).foldl (fun s n =>
    setPtp ((ptps.find? (fun p => p.inst == n)).getD { Ptp.reset.p with inst := n }) s) s
  let s := setPps (pickOne (fun x => match x with | .pps p => some p | _ => none) Pps.reset.p img) s
  let s := (List.range 7).foldl (fun s n => setLat ((lats.find? (fun p => p.target == n)).getD ⟨n, 0, 0⟩) s) s
  (List.range 16).foldl (fun s n => commitCmp (cmps.find? (fun p => p.cmp == n)) n s) s

/-! ### Streams and groups -/

/-- The layouts of two install blocks agree. -/
def sameLayout (a b : StreamP) : Bool :=
  a.format == b.format && a.framesize == b.framesize && a.blockOfs == b.blockOfs && a.phnmr == b.phnmr &&
  a.annmr == b.annmr && a.dgnmr == b.dgnmr && a.phSel == b.phSel && a.anSel == b.anSel && a.dgSel == b.dgSel &&
  a.memberMap == b.memberMap

/-- A stream of the image goes on as it stands (05 R185). -/
def keepsStream (s : State) (p : StreamP) : Bool :=
  (getStream s p.sid).any (fun x => sameKey x.p p && x.p.block == p.block && x.p.rate == p.rate && sameLayout x.p p)

/-- A stream of the image goes on, or starts LISTENING with empty history (05 R185). -/
def commitStream (s : State) (p : StreamP) : State :=
  match getStream s p.sid with
  | none => installStream p false s
  | some x =>
    if keepsStream s p then
      updStream p.sid (fun x => { x with p := { p with lane := if p.lane == 0xFF then x.p.lane else p.lane }, byCommand := false }) s
    else
      let s := { s with si := { s.si with streams := tdel s.si.streams p.sid } }
      noteState p.sid x.state .listening (placeStream p false s)

/-- A virtual stream of the image goes on when it is unchanged, else starts LISTENING; one that the image omits goes. -/
def commitVs (p : Option VsP) (v : Nat) (s : State) : State :=
  match p, tfind s.am.vss v with
  | some p, some x =>
    if x.p == p then updStream (16376 + v) (fun y => { y with byCommand := false }) s else placeVs p false s
  | some p, none => placeVs p false s
  | none, some _ => dropVs v s
  | none, none => s

/-- SI takes the streams of the image (05 R185). -/
def commitStreams (img : Image) (s : State) : State :=
  let net := pick (fun x => match x with | .stream p => some p | _ => none) img
  let vss := pick (fun x => match x with | .vstream p => some p | _ => none) img
  let s := setSi (pickOne (fun x => match x with | .si p => some p | _ => none) ⟨0, 2, 1000⟩ img) s
  let gone := (tkeys s.si.streams).filter (fun n => n < 16376 && !net.any (fun p => p.sid == n))
  let s := net.foldl commitStream (gone.foldl (fun s n => removeStream n s) s)
  (List.range 8).foldl (fun s v => commitVs (vss.find? (fun p => p.vs == v)) v s) s

/-- A group of the image replaces an active one: open instants are released under the old definition, and the new one
opens from its next instant (06 R222). -/
def replaceGroup (p : GroupP) (members : List Nat) (s : State) : State :=
  let old := getGroup s p.gid
  let s := placeGroup p members false (releaseAll p.gid s)
  match old, getGroup s p.gid with
  | some o, some g =>
    if o.p.rate == p.rate && o.p.epoch == p.epoch then setGroup p.gid { g with next := max o.next g.next, front := o.front } s else s
  | _, _ => s

/-- What the image makes of group `gid` (06 R222). -/
def commitGroup (d : Option (GroupP × List Nat)) (gid : Nat) (s : State) : State :=
  match d, getGroup s gid with
  | some (p, m), some g =>
    if g.en && !g.shed && g.p == p && g.members == m then setGroup gid { g with byCommand := false } s else replaceGroup p m s
  | some (p, m), none => placeGroup p m false s
  | none, some _ => endGroup gid (releaseAll gid s)
  | none, none => s

/-- A session of the image: an unchanged one goes on, with EN as the image has it. -/
def commitSession (old : State) (s : State) (e : SessionP × Bool) : State :=
  match tfind old.erg.sessions e.1.session with
  | some x =>
    if x.p == e.1 then
      { s with erg := { s.erg with
          sessions := tset s.erg.sessions e.1.session { x with en := e.2, keyRevoked := false, byCommand := false } } }
    else placeSession e.1 e.2 false s
  | none => placeSession e.1 e.2 false s

/-- The Erg takes the groups and sessions of the image (06 R222). -/
def commitErg (img : Image) (s : State) : State :=
  let old := s
  let defs := pick (fun x => match x with | .group p m => some (p, m) | _ => none) img
  let ses := pick (fun x => match x with | .session p en => some (p, en) | _ => none) img
  let s := setErg (pickOne (fun x => match x with | .erg p => some p | _ => none) ⟨0, 0x20, 0x2000⟩ img) s
  let s := (List.range 64).foldl (fun s gid => commitGroup (defs.find? (fun d => d.1.gid == gid)) gid s) s
  ses.foldl (commitSession old) { s with erg := { s.erg with sessions := [] } }

/-! ### Graphs, topology and oscillations -/

/-- A graph of the image: one with unchanged descriptors keeps its flows and instance sequence (07 R256). -/
def commitJob (old : State) (binds : List (Nat × Nat)) (s : State) (p : JobP) : State :=
  let b := (binds.filter (fun e => e.1 == p.job)).map (·.2)
  let put := fun (s : State) => b.foldl (fun s g => bindJob p.job g true s) (placeJob p false s)
  match getJob old p.job with
  | some x =>
    if x.p.nodes == p.nodes then
      b.foldl (fun s g => bindJob p.job g true s) (setJob p.job { x with p := p, bound := [], shed := false, byCommand := false } s)
    else put s
  | none => put s

/-- Caravan takes the graphs of the image; instances already started finish under the definitions they started with (07
R256). -/
def commitJobs (img : Image) (s : State) : State :=
  let old := s
  let jobs := pick (fun x => match x with | .job p => some p | _ => none) img
  let binds := pick (fun x => match x with | .bind j g => some (j, g) | _ => none) img
  let s := setLevels (pickOne (fun x => match x with | .levels p => some p | _ => none)
    ⟨Cv.reset.reserve, Cv.reset.ageCeil, Cv.reset.ckptUs, 0, Cv.reset.shares, Cv.reset.ages⟩ img) s
  jobs.foldl (commitJob old binds) { s with cv := { s.cv with jobs := [] } }

/-- Refactorizations of a model that a commit replaces end without a factor: the commands that wait for them end
HW_FAULT. -/
def dropRefacs (s : State) : State :=
  let s := match s.cv.items.find? (fun it => it.job == refacJob) with
    | some it => dropItem it.id (stopItem it s)
    | none => s
  let next := (s.ts.refacNext.map (·.handles)).getD []
  let s := { s with ts := { s.ts with refacNext := none, refac := s.ts.refac.map (fun r => { r with handles := r.handles ++ next }) } }
  failRefac 0x60 s

/-- No model is in force. -/
def dropModel (s : State) : State :=
  match s.ts.model with
  | none => s
  | some _ =>
    let older := (tset s.ts.older s.ts.epoch s.ts.carry).filter (fun e => s.cv.insts.any (fun i => i.epoch == e.1))
    clearHistory { s with ts := { s.ts with model := none, epoch := s.ts.epoch + 1, older := older, valid := false, stale := false,
                                            updSince := 0, facClosed := [], facUses := [], solution := [] } }

/-- TS takes model, cut sets and settings of the image; when any differs, the base factor comes into force, history is
cleared and results are gone (08 R288); a model without a base factor asks for a refactorization (08 R275). -/
def commitTopo (img : Image) (s : State) : State :=
  let p := pickOne (fun x => match x with | .topo p => some p | _ => none) Ts.reset.p img
  let m := (pick (fun x => match x with | .model m => some m | _ => none) img).head?
  let cuts := pick (fun x => match x with | .cut p => some p | _ => none) img
  let sameCuts := cuts.length == s.ts.cuts.length && cuts.all (fun c => (tfind s.ts.cuts c.cut).any (fun x => x.p == c))
  if s.ts.p == p && s.ts.model == m && sameCuts then s
  else
    let s := dropRefacs s
    let s := { s with ts := { s.ts with p := p, cuts := [], forces := [], results := [] } }
    let s := cuts.foldl (fun s c => placeCut c s) (match m with | some m => placeModel m s | none => dropModel s)
    if m.any (fun m => !m.hasFactor) then requestRefac 5 s.ts.facClosed s.ts.facUses [] s else s

/-- The comparator that serves the slow path is disarmed. -/
def disarmSlow (s : State) : State := if servesSlow s s.sc.p.cmp then disarmCmp s.sc.p.cmp s else s

/-- Sirocco takes the settings of the image; those that stand stay (09 R313). -/
def commitOscP (p : Option OscP) (s : State) : State :=
  match p with
  | some p => if p == s.sc.p && (getCmp s p.cmp).armed then s else applyOsc p s
  | none => if s.sc.p == Sc.reset.p then s else setOsc Sc.reset.p (disarmSlow s)

/-- A signal of the image: an unchanged one keeps decimator, band state and history (09 R313). -/
def commitSig (s : State) (p : SigP) : State := if (tfind s.sc.sigs p.sig).any (fun x => x.p == p) then s else placeSig p s

/-- The definitions of a group's signals. -/
def membership (s : State) (g : Nat) : List SigP := (groupSigs s g).map (·.2.p)

/-- Sirocco takes the signals and groups of the image: a group keeps tracks and records when its definition and its
signals are unchanged (09 R313). -/
def commitOsc (img : Image) (s : State) : State :=
  let sigs := pick (fun x => match x with | .sig p => some p | _ => none) img
  let groups := pick (fun x => match x with | .oscGroup p => some p | _ => none) img
  let s := commitOscP ((pick (fun x => match x with | .osc p => some p | _ => none) img).head?) s
  let old := s
  let gone := (tkeys s.sc.sigs).filter (fun n => !sigs.any (fun p => p.sig == n))
  let s := sigs.foldl commitSig (gone.foldl (fun s n => dropSig n s) s)
  let s := { s with sc := { s.sc with groups := s.sc.groups.filter (fun e => groups.any (fun p => p.group == e.1)) } }
  groups.foldl (fun s p =>
    if (tfind s.sc.groups p.group).any (fun g => g.p == p) && membership old p.group == membership s p.group then s
    else placeOscGroup p s) s

/-! ### Alarms, acquisition and metering -/

/-- What the image makes of rule `n`: an unchanged one keeps its state, a changed or absent one that is active clears with
cause CONFIG (10 R342). -/
def commitRule (d : Option (RuleP × Bool)) (n : Nat) (s : State) : State :=
  match d, getRule s n with
  | some (p, en), some r =>
    if r.p == p then
      let s := setRule n { r with byCommand := false } s
      if r.en == en then s else enableRule en n s
    else setRule n (Rule.fresh p en false) (adminClear n 2 s)
  | some (p, en), none => setRule n (Rule.fresh p en false) s
  | none, some _ => dropRule n (adminClear n 2 s)
  | none, none => s

/-- AL takes rules, lines and cross-triggers of the image (10 R342). -/
def commitAlarms (img : Image) (s : State) : State :=
  let rules := pick (fun x => match x with | .rule p en => some (p, en) | _ => none) img
  let lines := pick (fun x => match x with | .line p => some p | _ => none) img
  let ns := (tkeys s.al.rules ++ rules.map (·.1.rule)).eraseDups
  let s := setXtrig (pickOne (fun x => match x with | .xtrig p => some p | _ => none) Al.reset.x img) s
  let s := ns.foldl (fun s n => commitRule (rules.find? (fun d => d.1.rule == n)) n s) s
  driveLines ((List.range 8).foldl (fun s n =>
    setLine ((lines.find? (fun p => p.line == n)).getD ⟨n, AlmLine.reset.mode, AlmLine.reset.pulseUs⟩) s) s)

/-- A ring is the one an image defines: KIND, N and LOG2_SLOTS, and the rest where the image gives the addresses (10
R343). -/
def sameRing (old p : AqRingP) (addressed : Bool) : Bool :=
  if addressed then old == p else old.kind == p.kind && old.n == p.n && old.log2Slots == p.log2Slots

/-- A ring of the image: an unchanged one keeps SEQ and host addresses (10 R342). -/
def commitRing (s : State) (d : AqRingP × Bool) : State :=
  match getAqRing s (ringNo d.1) with
  | some r => if sameRing r.p d.1 d.2 then setAqRing (ringNo d.1) { r with byCommand := false } s else placeRing d.1 d.2 false s
  | none => placeRing d.1 d.2 false s

/-- The channel and all its rings are those of the image. -/
def sameChan (s : State) (p : ChanP) (rs : List (AqRingP × Bool)) : Bool :=
  (getChan s p.ch).any (fun x => x.p == p) && (s.aq.rings.filter (fun e => e.1 / 4 == p.ch)).length == rs.length &&
  rs.all (fun d => (getAqRing s (ringNo d.1)).any (fun r => sameRing r.p d.1 d.2))

/-- What the image makes of channel `c`: an unchanged one keeps windows and SEQ, one whose rings change is disabled first;
EN follows the image once every ring has its addresses (10 R342, R343). -/
def commitChan (d : Option (ChanP × Bool)) (rs : List (AqRingP × Bool)) (c : Nat) (s : State) : State :=
  match d with
  | none => if (getChan s c).isSome then dropChan c (enableChan c false s) else s
  | some (p, en) =>
    let s := if (getChan s c).isNone || sameChan s p rs then s else enableChan c false s
    let s := match getChan s c with
      | some x => if x.p == p then setChan c { x with byCommand := false } s else placeChan p false s
      | none => placeChan p false s
    let s := { s with aq := { s.aq with rings := s.aq.rings.filter (fun e => e.1 / 4 != c || rs.any (fun d => ringNo d.1 == e.1)) } }
    let s := rs.foldl commitRing s
    let want := en && s.aq.rings.all (fun e => e.1 / 4 != c || e.2.addressed)
    if (getChan s c).any (fun x => x.en == want) then s else enableChan c want s

/-- AQ takes the channels and rings of the image (10 R342). -/
def commitAcq (img : Image) (s : State) : State :=
  let chans := pick (fun x => match x with | .chan p en => some (p, en) | _ => none) img
  let rings := pick (fun x => match x with | .aqRing p a => some (p, a) | _ => none) img
  let s := setAq (pickOne (fun x => match x with | .aq nq => some nq | _ => none) 0 img) s
  (List.range 16).foldl (fun s c =>
    commitChan (chans.find? (fun d => d.1.ch == c)) (rings.filter (fun d => d.1.ch == c)) c s) s

/-- What the image makes of element `e`: an unchanged one goes on without a break, a changed one closes its block and starts
under the new definition (11 R376). -/
def commitElem (d : Option (ElemP × Bool)) (e : Nat) (s : State) : State :=
  let x := getElem' s e
  match d with
  | some (p, en) => if x.defd && x.p == p then enableElem e en s else enableElem e en (placeElem p (closeBlock e 64 s))
  | none =>
    if x.defd then updElem e (fun x => { x with p := Elem.reset.p, defd := false, en := false, running := false }) (closeBlock e 64 s)
    else s

/-- AM takes the settings of the image (11 R376). -/
def commitMeters (img : Image) (s : State) : State :=
  let chans := pick (fun x => match x with | .mchan p => some p | _ => none) img
  let cals := pick (fun x => match x with | .cal p => some p | _ => none) img
  let els := pick (fun x => match x with | .elem p en => some (p, en) | _ => none) img
  let pulses := pick (fun x => match x with | .pulse p => some p | _ => none) img
  let sets := pick (fun x => match x with | .ballast p => some p | _ => none) img
  let s := setMeter (pickOne (fun x => match x with | .meter p => some p | _ => none) ⟨0, 0, Am.reset.saveS⟩ img) s
  let s := (List.range 12).foldl (fun s k =>
    let p := (chans.find? (fun p => p.ch == k)).getD { MChan.reset.p with ch := k }
    let c := (cals.find? (fun c => c.ch == k)).getD { MChan.reset.c with ch := k }
    let x := getMChan s k
    let s := if { x.p with ch := k } == p then s else setMChan p s
    if { x.c with ch := k } == c then s else setCal c s) s
  let s := (List.range 4).foldl (fun s e => commitElem (els.find? (fun d => d.1.el == e)) e s) s
  let s := (List.range 4).foldl (fun s n =>
    let p := (pulses.find? (fun p => p.pulse == n)).getD { Pulse.reset.p with pulse := n }
    if { (getPulse s n).p with pulse := n } == p then s else setPulseP p s) s
  sets.foldl (fun s p => setBallast p s) { s with am := { s.am with sets := [] } }

/-! ### The commit -/

/-- EC, EV, PM and CK take the settings of the image. -/
def commitRest (img : Image) (s : State) : State :=
  let s := setLog (pickOne (fun x => match x with | .log p => some p | _ => none) ⟨0, 0, 1000, 1000, 10, 0, 0⟩ img) s
  let s := setPower (pickOne (fun x => match x with | .power p => some p | _ => none) ⟨0, 1, 10000⟩ img) s
  setRefs (pickOne (fun x => match x with | .ref p => some p | _ => none) ⟨0, 0, 0, 0⟩ img) s

/-- The image becomes the active configuration: RWL registers are locked, the anchor rises to its version, and the
configuration is held against the capacities in service (02 R75, R78). -/
def commitImage (img : Image) (s : State) : State :=
  let s := commitKeys (imageKeys img) s
  let s := commitStreams img (commitTime img (commitPorts img s))
  let s := commitOsc img (commitTopo img (commitJobs img (commitErg img s)))
  let s := commitRest img (commitMeters img (commitAcq img (commitAlarms img s)))
  capacityFell { s with
    cfg := { staged := none, activeValid := true, version := img.version, digest12 := img.digest12, locked := true,
             programPages := img.programPages }
    cairn := { s.cairn with anchor := max s.cairn.anchor img.version } }

/-! ### The commands -/

/-- A CFG.COMMIT or CFG.STORE is under way. -/
def stagedInUse (s : State) : Bool := runningOp s 0x0401 || runningOp s 0x0405

/-- CFG.LOAD: a second one is BUSY (02 R75). -/
def procCfgLoad (h : Hdr) (source addr len : Nat) (_img : Image) (s : State) : Proc :=
  ⟨h, { specM 0x0400 20 (flag source && bufferOk addr && within 4096 67108864 len) (inOpen s) with cfgBusy := true },
   later (fun _ => 0)⟩

def execCfgLoad (h : Hdr) (source addr len : Nat) (img : Image) (s : State) : Host.Outcome State Fault Refusal :=
  .next (runProc (.cfgLoad h source addr len img) (procCfgLoad h source addr len img s) s)

/-- The image a CFG.LOAD fetches: from the host buffer, or what CFG.STORE last wrote to the boot NOR, where it has written
(02 R74). -/
def loadedImage (s : State) (source : Nat) (img : Image) : Image := if source == 1 then s.nor.getD img else img

/-- The final completion of CFG.LOAD (02 R75, R76): an image that passes is staged. It waits for a CFG.COMMIT or CFG.STORE
that still uses the staged image. -/
def finishCfgLoad (o : OpEntry) (source : Nat) (given : Image) (fin : Finish) (s : State) : State :=
  if stagedInUse s then s
  else
    let img := loadedImage s source given
    let st := if fin.hwFault then 0x60 else if fin.dataBad || !img.fetchOk then 0x61 else imageStatus img s
    let s' := if st == 0 then { s with cfg := { s.cfg with staged := some img } } else countRevoked st s
    finalCompletion o st (imageResult img st s) s'

/-- CFG.COMMIT. -/
def procCfgCommit (h : Hdr) (s : State) : Proc :=
  ⟨h, { specM 0x0401 0 true (inSetup s) with cfgBusy := true },
   .accepted .committed (fun s => firstBad [(s.cfg.staged.isNone, 0x11), (stagedInUse s, 0x22)]) (fun _ s => s)⟩

def execCfgCommit (h : Hdr) (s : State) : Host.Outcome State Fault Refusal := .next (runProc (.cfgCommit h) (procCfgCommit h s) s)

/-- The final completion of CFG.COMMIT (02 R78): from PROVISION, in OPERATIONAL, the device enters COMMISSION. -/
def finishCfgCommit (o : OpEntry) (hwFault : Bool) (s : State) : State :=
  match s.cfg.staged with
  | none => finalCompletion o 0x60 [] s
  | some img =>
    if hwFault then finalCompletion o 0x60 [] s
    else
      let s := commitImage img s
      finalCompletion o 0 [] (if s.pm.mode == .provision && s.fuses.lifecycle == .operational then enterCommission s else s)

/-- CFG.DISCARD: BUSY while a CFG.LOAD runs, or a command that still uses the staged image. -/
def procCfgDiscard (h : Hdr) (_ : State) : Proc :=
  ⟨h, { spec0 0x0402 0 with cfgBusy := true },
   .done (fun s => refuseIf (stagedInUse s) 0x22 (effect (fun s => { s with cfg := { s.cfg with staged := none } })) s)⟩

def execCfgDiscard (h : Hdr) (s : State) : Host.Outcome State Fault Refusal := .next (runProc (.cfgDiscard h) (procCfgDiscard h s) s)

/-- WHICH of CFG.REPORT or CFG.QUERY names a configuration that is there. -/
def whichOk (s : State) (which : Nat) : Bool := which == 0 || s.cfg.staged.isSome

/-- CFG.REPORT: LEN below 768 is BAD_LENGTH (02 R77). -/
def procCfgReport (h : Hdr) (which addr len : Nat) (s : State) : Proc :=
  ⟨h, { specP 0x0403 20 (flag which && bufferOk addr && len < 2 ^ 32 && whichOk s which) with lenOk := 768 ≤ len },
   later (fun _ => 0)⟩

def execCfgReport (h : Hdr) (which addr len : Nat) (s : State) : Host.Outcome State Fault Refusal :=
  .next (runProc (.cfgReport h which addr len) (procCfgReport h which addr len s) s)

/-- The configuration a report is about; a staged image that has gone meanwhile leaves one without settings. -/
def reportState (which : Nat) (s : State) : State :=
  if which == 0 then s else s.cfg.staged.elim (blankConfig s) (fun img => imageState img s)

/-- The final completion of CFG.REPORT: 768 bytes (02 R77). -/
def finishCfgReport (o : OpEntry) (which addr : Nat) (s : State) : State :=
  finalCompletion o 0 (leBytes 4 768) (hostOut addr 0x0403 (admissionReport (reportState which s) which) s)

/-- CFG.QUERY: image version and the first 12 bytes of its digest; of an active configuration that no image gave, version 0 and a
digest of zeros (DESIGN CHOICE, log 76). -/
def procCfgQuery (h : Hdr) (which : Nat) (s : State) : Proc :=
  ⟨h, specP 0x0404 1 (flag which && whichOk s which),
   .done (answer (fun s =>
     let v := if which == 0 then (s.cfg.version, s.cfg.digest12) else (s.cfg.staged.map (fun i => (i.version, i.digest12))).getD (0, 0)
     leBytes 4 v.1 ++ leBytes 12 v.2))⟩

def execCfgQuery (h : Hdr) (which : Nat) (s : State) : Host.Outcome State Fault Refusal :=
  .next (runProc (.cfgQuery h which) (procCfgQuery h which s) s)

/-- CFG.STORE. -/
def procCfgStore (h : Hdr) (s : State) : Proc :=
  ⟨h, { specM 0x0405 0 true (inSetup s) with auth := .owner, cfgBusy := true },
   .accepted .committed (fun s => firstBad [(s.cfg.staged.isNone, 0x11), (stagedInUse s, 0x22)]) (fun _ s => s)⟩

def execCfgStore (h : Hdr) (s : State) : Host.Outcome State Fault Refusal := .next (runProc (.cfgStore h) (procCfgStore h s) s)

/-- The final completion of CFG.STORE: the staged image stands in the boot NOR. -/
def finishCfgStore (o : OpEntry) (hwFault : Bool) (s : State) : State :=
  if hwFault || s.cfg.staged.isNone then finalCompletion o 0x60 [] s
  else finalCompletion o 0 [] { s with nor := s.cfg.staged }

end Sys2Proof.Machine
end

