-- ==== Sys2Proof/Machine/Boot.lean ====
section
/-! DEFINITION. BOOT (14 R447 to R450, Table 14-5): root PLLs, root check, checker self-test, repairs and wipe, engines, Cairn,
boot image, and the exit to PROVISION, COMMISSION or a service mode (01 Table 1-9). -/

namespace Sys2Proof.Machine

/-- The latest reset was a cold one (Table 14-4): power-on or RESET_N. -/
def coldBoot (s : State) : Bool := 0x40 ≤ s.pm.source

/-- Step 2 of Table 14-5: at a cold BOOT PLL A locks to REFCLK_A. -/
def bootClocks (s : State) : State :=
  if coldBoot s then { s with ck := { s.ck with aLock := true, refAOk := true } } else s

/-- The root fails its check: it is absent, and the cause BATTERY is latched (12 R389, Table 12-2). -/
def loseRoot (s : State) : State :=
  { s with ov := { s.ov with root := none, tamper := true, causes := s.ov.causes ||| 2 ^ 6 } }

/-- Steps 3 and 6 of Table 14-5 for the vault: root check, Mirage root (12 R404), DRBG, and KREG from Cairn when the digest
of the owner key equals OWNER_HASH (12 R382). -/
def bootVault (rootOk ownerOk : Bool) (s : State) : State :=
  let s := if s.ov.root.isSome && !rootOk then loseRoot s else s
  let (k, s) := if s.ov.dbgArm then (let (v, s) := drawRandom s; (some (v % 2 ^ 256), s)) else (none, s)
  let good := s.fuses.ownerHash.isSome && s.cairn.ownerKey.map ownerDigest == s.fuses.ownerHash && ownerOk
  { s with ov := { s.ov with mirage := k, entropyOk := true, drbgReq := 0, reseedAt := s.tm.frc,
                             kreg := if good then s.cairn.ownerKey else none,
                             ownerBad := !good && s.fuses.lifecycle != .blank } }

/-- The macro belongs to no memory whose loss leaves the device in service (13 R417): neither Playa nor an engine's. -/
def vitalMacro (m : Nat) : Bool := m < 704 || (1352 ≤ m && m < 1648)

/-- Step 4 of Table 14-5: the checkers' results, the repair map, and the wipe (13 R416, R417, R421). -/
def bootMacros (bad : List Nat) (s : State) : State :=
  let s := { s with ec := { s.ec with tested := true, flips := [] }
                    cv := { s.cv with playaOut := 16 * (bad.filter (fun m => 704 ≤ m && m < 1088)).length } }
  let s := s.cairn.repairs.foldl (fun s e => updMacro e.1 (fun x => { x with fieldUsed := true, fieldRow := e.2 }) s) s
  let s := bad.foldl (fun s m => updMacro m (fun x => { x with checkerBad := true }) s) s
  (bad.filter vitalMacro).foldl (fun s m => ecNote 5 3 m 0 0 s) s

/-- Step 5 of Table 14-5 (07 R256): an engine passes with its local memory's checkers; HI_FAMILY_CAP0 reports the result. -/
def bootEngines (passed bad : List Nat) (s : State) : State :=
  let ok := fun n => passed.contains n && !bad.any (fun m => 1088 ≤ m && m < 1352 && (m - 1088) / 4 == n)
  let good := (List.range 66).filter ok
  let s := assignEngines good (countN (msCtr 0x28) good.length (countN (msCtr 0x30) (66 - good.length) s))
  { s with cv := { s.cv with capEngines := min 64 good.length, capSpares := min 2 (good.length - 64) } }

/-- Tether's estimate at a cold BOOT: the stored one, or 0 when none is stored or it exceeds FMAX (04 R144). -/
def bootEstimate (s : State) : Rat :=
  let v := s.cairn.integ.getD 0
  let limit : Rat := (Tether.reset.p.fmaxPpb : Rat) / 1000000000
  if -limit ≤ v && v ≤ limit then v else 0

/-- Step 6 of Table 14-5: power-cycle count, energy registers, Tether estimate, log index and the LOG_CUT flags (13 R430,
Table 13-11, 11 R374, 04 R144). -/
def bootCairn (s : State) : State :=
  let s := if coldBoot s then
      let y := bootEstimate s
      let s := { s with cairn := { s.cairn with pcc := min (2 ^ 24 - 1) (s.cairn.pcc + 1) } }
      setY (-y) (updTether (fun x => { x with integ := y }) s)
    else s
  let s := restoreEnergy ((s.cairn.periodic ++ s.cairn.ballast).foldl (fun s c => (cairnRead c.flips s).2) s)
  let seen := s.cairn.cutNow
  let s := { s with cairn := { s.cairn with cutBefore := seen, cutNow := false } }
  if seen then note s.ev.nq 14 0x02 2 s.cairn.cutSeq s else s

/-- The outages that R374 of chapter 11 owes at a cold BOOT: the span from the stop to the first new block, with S_PEAK of a
newer Ballast copy or S_FS. -/
def oweOutages (s : State) : State :=
  match newestCopy s.cairn.periodic with
  | none => s
  | some p =>
    let b := (newestCopy s.cairn.ballast).filter (fun c => seqBefore p.seq c.seq)
    let owed : Int × Nat := match b with
      | some c => (copyTime c.sec c.ns, 1)
      | none => match s.cairn.alive with
        | some (sec, ns, _, _) => (copyTime (sec + 1) ns, 0)
        | none => (copyTime p.sec p.ns, 0)
    (List.range 4).foldl (fun s e =>
      if (List.range 8).any (fun r => (restoredReg s e r).2) then
        updElem e (fun x => { x with stopped := some owed, sPeak := (b.map (fun c => c.sPeak.getD e 0)).getD x.sPeak }) s
      else s) s

/-- The image BOOT reads: what the boot NOR holds. -/
def bootImage (img : Option Image) (s : State) : Option Image :=
  match img with
  | some i => some i
  | none => s.nor

/-- The status of the boot image, as of a CFG.LOAD (14 R450); none where there is no image to read. -/
def bootStatus (img : Option Image) (s : State) : Option Nat :=
  img.map (fun i => if i.fetchOk then imageStatus i s else 0x61)

/-- A missing or failing image leaves a record with its status as ARG (14 R450); no rule gives its CODE and severity, nor a
status where no image was read: free values. -/
def recordImage (st : Option Nat) (s : State) : State :=
  if st == some 0 then s
  else report 15 (bits Config.imageFail 0 8) (bits Config.imageFail 8 2) (st.getD (bits Config.imageFail 16 8)) none s

/-- Step 8 of Table 14-5 with the image committed: COMMISSION, and the service mode that AUTORUN asks for. -/
def bootInto (img : Image) (s : State) : State :=
  let s := resumeEnergy (ergResume (setMode .commission (commitImage img s)))
  if img.autorun then enterService s else s

/-- Steps 7 and 8 of Table 14-5 (01 Table 1-9): COMMISSION in OPERATIONAL with an image that passes, unless a vital macro's
checker has failed or TAMPER_LATCHED is set. -/
def bootExit (img : Option Image) (failed : Bool) (s : State) : State :=
  let st := bootStatus img s
  let s := recordImage st s
  match img with
  | some i =>
    if st == some 0 && s.fuses.lifecycle == .operational && !failed && !s.ov.tamper then bootInto i s else setMode .provision s
  | none => setMode .provision s

/-- The notices at the end of BOOT: BOOT_DONE (Table 14-16) and, after a zeroization, TAMPER_SEEN in queue 0 (12 R410). -/
def bootNotices (s : State) : State :=
  let s := note s.pm.nq 15 0x05 (if s.pm.source == 0x10 || s.pm.source == 0x08 then 2 else 0) (pmReset s.pm) s
  if s.ov.tamperNew then note 0 12 0x02 3 s.ov.causes { s with ov := { s.ov with tamperNew := false } } else s

/-- The domains are on, and the scrubber's passes count from here (13 R418, 14 R451). -/
def bootOpen (s : State) : State :=
  { s with pm := { s.pm with bootReady := false, domPorts := true, domErg := true, domAnchor := true }
           ec := { s.ec with bootEnd := s.tm.frc } }

/-- BOOT in the order of Table 14-5. -/
def boot (enginesPass badMacros : List Nat) (rootOk ownerOk : Bool) (img : Option Image) (s : State) : State :=
  let bad := badMacros.filter (fun m => m < 1648)
  let cold := coldBoot s
  let s := bootMacros bad (bootVault rootOk ownerOk (bootClocks s))
  let s := bootCairn (bootEngines enginesPass bad s)
  let s := bootExit (bootImage img s) (bad.any vitalMacro) (bootOpen s)
  let s := if cold then oweOutages (reportUnsaved s) else s
  let s := seekSpool (evOldest s) (bootNotices s)
  if s.pins.freezeN || s.pm.ignoreFreezeN then s else freeze 1 s

/-- BOOT (14 R447, R450): at the release of RESET_N, with the supplies in their limits. -/
def execBoot (enginesPass badMacros : List Nat) (rootOk ownerOk : Bool) (img : Option Image) (s : State) :
    Host.Outcome State Fault Refusal :=
  .next (
    if !s.pm.bootReady || s.pm.mode != .boot || !s.pins.railsOk then s
    else boot enginesPass badMacros rootOk ownerOk img { s with pins := { s.pins with resetN := true } })

end Sys2Proof.Machine
end

