-- ==== Sys2Proof/Machine/Clock.lean ====
section
/-! DEFINITION. What an idle step does: one FRC count passes (04 R121, R122, R126). -/

namespace Sys2Proof.Machine

/-- CLK_TIME runs in every mode but FROZEN, in which the FRC holds (01 R33, 14 R467), and from a cold reset to its BOOT,
which starts the FRC from 0 (14 R450, Table 14-4). -/
def timeRuns (s : State) : Bool := s.pm.mode != .frozen && !(s.pm.mode == .boot && 0x40 ≤ s.pm.source)

/-- One FRC count (04 R121, R126): the FRC and the fallback clock advance, and nothing else does. -/
def idle (s : State) : State :=
  if timeRuns s then
    { s with tm := { s.tm with frc := (s.tm.frc + 1) % 2 ^ 64, fallback := s.tm.fallback + s.tm.inc } }
  else s

end Sys2Proof.Machine
end

