-- ==== Sys2Proof/Machine/Host.lean ====
section
/-! DEFINITION. The host's and the supervisor's accesses (chapter 02): rings and their doorbells, notice queues, register
writes and the reads that change state, FLR, MSPI and MI2C; pass-through rings (03 R111). -/

namespace Sys2Proof.Machine

/-- A doorbell that breaks R44: RING_FAULT and SQ FAULT. -/
def stopRing (n : Nat) (s : State) : State := ringErr n (setRing n { getRing s n with sqFault := true } s)

/-- A BAR0 write reaches its register: dropped in FROZEN (01 R33), and with OFF_ACCESS where its domain is off (01 R23). -/
def regWrite (off : Nat) (f : State → State) (s : State) : State :=
  if s.pm.mode == .frozen then s else if regOn s off then f s else setOffAccess s

/-! ### Rings (02 R43 to R47) -/

/-- LOG2_DEPTH as stored (02 R43). -/
def storedLog2 (v : Nat) : Nat := if v < 2 then 2 else if 12 < v then 12 else v

/-- Outstanding handles of ring `n` that count under R46 (02 R39). -/
def ringHandles (s : State) (n : Nat) : Nat := (s.hi.ops.filter (fun o => o.src == .ring n && !o.detached)).length

/-- Completion ring `n` has the entries R46 asks for; a record that waits for its ring needs one too. -/
def mayFetch (s : State) (n : Nat) : Bool :=
  let g := getRing s n
  let f := (g.fetched.filter (fun f => !f.dead)).length
  g.sqEn && !g.sqFault && g.cqEn && g.sqHead != g.sqTail && ringHandles s n + 2 * f + 2 + g.outbox.length ≤ g.cqFree

/-- COMMAND_FETCH (02 R46): in FROZEN only a SYS.THAW of ring 0 (01 R33). A packet whose read fails is not fetched. -/
def execCommandFetch (ring : Nat) (p : Packet) (readOk : Bool) (s : State) : Host.Outcome State Fault Refusal :=
  .next (
    if 16 ≤ ring || !mayFetch s ring || (s.pm.mode == .frozen && !(ring == 0 && (packetHead p).opcode == 0x0012)) then s
    else if !readOk then dmaErr (.ring ring) s
    else
      let g := getRing s ring
      setRing ring { g with sqHead := (g.sqHead + 1) % 2 ^ g.sqLog2, fetched := g.fetched ++ [⟨(packetHead p), false, false⟩] } s)

/-- Every earlier command of the ring has written its last completion (02 R57): one fetched after an FLR does not wait for
operations the FLR detached. -/
def fenceMet (s : State) (n : Nat) (dead : Bool) : Bool :=
  (getRing s n).outbox.isEmpty && !s.hi.ops.any (fun o => o.src == .ring n && (dead || !o.detached))

/-- FENCE_RELEASE (02 R57). -/
def execFenceRelease (ring : Nat) (s : State) : Host.Outcome State Fault Refusal :=
  .next (
    let g := getRing s ring
    match g.fetched with
    | f :: rest =>
      if ring < 16 && f.head.fence && fenceMet s ring f.dead then
        setRing ring { g with fetched := { f with released := true } :: rest } s
      else s
    | [] => s)

/-- Entries of a ring of `depth` between two indices. -/
def ringSpan (depth a b : Nat) : Nat := (b + depth - a) % depth

/-- HI_SQ_DB_WRITE (02 R44). -/
def sqDoorbell (n tail : Nat) (s : State) : State :=
  let g := getRing s n
  let d := 2 ^ g.sqLog2
  if !g.sqEn then s
  else if d ≤ tail || d - 1 < ringSpan d g.sqHead g.sqTail + ringSpan d g.sqTail tail then stopRing n s
  else setRing n { g with sqTail := tail } s

def execHiSqDbWrite (ring tail : Nat) (s : State) : Host.Outcome State Fault Refusal :=
  .next (if 16 ≤ ring then s else regWrite 0 (sqDoorbell ring (tail % 2 ^ 16)) s)

/-- HI_CQ_DB_WRITE (02 R44); records that waited for entries are written. -/
def cqDoorbell (n head : Nat) (s : State) : State :=
  let g := getRing s n
  let d := 2 ^ g.cqLog2
  if !g.cqEn then s
  else if d ≤ head || ringSpan d g.cqHead g.cqTail < ringSpan d g.cqHead head then stopRing n s
  else drainRing n g.outbox.length (setRing n { g with cqHead := head } s)

def execHiCqDbWrite (ring head : Nat) (s : State) : Host.Outcome State Fault Refusal :=
  .next (if 16 ≤ ring then s else regWrite 0 (cqDoorbell ring (head % 2 ^ 16)) s)

/-- HI_SQ_CFG_WRITE (02 R43, Table 2-5). -/
def sqConfig (n v : Nat) (s : State) : State :=
  let g := getRing s n
  let g := { g with sqLog2 := if g.sqEn then g.sqLog2 else storedLog2 (bits v 12 4), sqWeight := bits v 8 4 }
  if !bit v 31 then setRing n { g with sqEn := false, sqFault := false } s
  else if g.sqEn then setRing n g s
  else if !g.cqEn then ringErr n (setRing n g s)
  else setRing n { g with sqEn := true, sqHead := 0, sqTail := 0 } s

def execHiSqCfgWrite (ring value : Nat) (s : State) : Host.Outcome State Fault Refusal :=
  .next (if 16 ≤ ring then s else regWrite 0 (sqConfig ring value) s)

/-- HI_CQ_CFG_WRITE (02 R43, R45, Table 2-6); records that waited are written. -/
def cqConfig (n v : Nat) (s : State) : State :=
  let g := getRing s n
  let g := { g with cqLog2 := if g.cqEn then g.cqLog2 else storedLog2 (bits v 12 4) }
  if !bit v 31 then setRing n { g with cqEn := false } s
  else if g.cqEn then setRing n g s
  else drainRing n g.outbox.length (setRing n { g with cqEn := true, cqHead := 0, cqTail := 0, cqCount := 0 } s)

def execHiCqCfgWrite (ring value : Nat) (s : State) : Host.Outcome State Fault Refusal :=
  .next (if 16 ≤ ring then s else regWrite 0 (cqConfig ring value) s)

/-- A half of a 64-bit base whose low `low` bits read 0. -/
def putHalf (v value low : Nat) (high : Bool) : Nat :=
  if high then v % 2 ^ 32 + value % 2 ^ 32 * 2 ^ 32 else v / 2 ^ 32 * 2 ^ 32 + value % 2 ^ 32 / 2 ^ low * 2 ^ low

/-- A base register of ring pair `n` (02 R43). -/
def ringBase (n o value : Nat) (s : State) : State :=
  let g := getRing s n
  let high := o % 8 == 4
  if o < 0x08 then (if g.sqEn then s else setRing n { g with sqBase := putHalf g.sqBase value 6 high } s)
  else if o < 0x18 then (if g.cqEn then s else setRing n { g with cqBase := putHalf g.cqBase value 5 high } s)
  else if g.sqEn || g.cqEn then s
  else setRing n { g with sbBase := putHalf g.sbBase value 4 high } s

/-! ### Notice queues (02 R69 to R71) -/

/-- `pop` of R69: the entry, 0 from an empty queue, and the queue after it; the timer restarts (02 R71). -/
def Nq.pop (n : Nq) (now : Nat) : Nat × Nq :=
  if n.r == n.w then (0, n)
  else
    (n.held.getD (n.r - n.l) 0,
     { n with r := n.r + 1, timer := if n.r + 1 == n.w then none else some now, firedTimeout := false }.settle)

/-- HI_NQ_POP_READ (02 R69, R70). -/
def popRead (q bytes : Nat) (aligned : Bool) (s : State) : State :=
  if bytes == 8 && aligned then
    let (e, n) := (getNq s q).pop s.tm.frc
    emit (.readData (leBytes 8 e)) (setNq q n s)
  else emit (.readData (List.replicate bytes 0)) (raiseErr s.hi.nqWidth (fun h => { h with nqWidth := true }) s)

def execHiNqPopRead (q bytes : Nat) (aligned : Bool) (s : State) : Host.Outcome State Fault Refusal :=
  .next (
    if 32 ≤ q then s
    else if s.pm.mode == .frozen then emit (.readData (List.replicate bytes 0xFF)) s
    else popRead q bytes aligned s)

/-- HI_NQ_CFG_WRITE (02 R71, Table 2-13): the timer of a non-empty queue restarts. -/
def nqConfig (q v : Nat) (s : State) : State :=
  let n := getNq s q
  let n := { n with en := bit v 31, thresh := bits v 21 10, timeoutUs := min 1000000 (bits v 0 20),
                    timer := if n.r == n.w then none else some s.tm.frc, firedTimeout := false }
  let s := setNq q n.settle s
  if n.threshFires then fireVector (16 + q) s else s

def execHiNqCfgWrite (q value : Nat) (s : State) : Host.Outcome State Fault Refusal :=
  .next (if 32 ≤ q then s else regWrite 0 (nqConfig q value) s)

/-- Ticks of 1.024 us that a timeout of `us` takes (02 R71): so many that the first, which may come at once, leaves `us` whole. -/
def timeoutTicks (us : Nat) : Nat := ceilDiv (us * 1000) 1024 + 1

/-- The queue has been non-empty with no pop for TIMEOUT_US (02 R71), in Dune ticks (04 R153): `tick` is the FRC count of the last
one. -/
def Nq.timedOut (n : Nq) (tick : Nat) : Bool :=
  n.timeoutUs != 0 && n.r != n.w && !n.firedTimeout && n.timer.any (fun t => t / 400 + timeoutTicks n.timeoutUs ≤ tick / 400)

/-- NQ_TIMEOUT (02 R71). -/
def execNqTimeout (q : Nat) (s : State) : Host.Outcome State Fault Refusal :=
  .next (
    if 32 ≤ q || s.pm.mode == .frozen || !(getNq s q).timedOut s.tm.tickAt then s
    else fireVector (16 + q) (setNq q { getNq s q with firedTimeout := true } s))

/-! ### Pass-through rings (03 R111) -/

/-- Pass-through ring `k` of a direction, and one replaced. -/
def ptRing (rx : Bool) (k : Nat) (s : State) : PtRing := if rx then getRxRing s k else getTxRing s k
def putPtRing (rx : Bool) (k : Nat) (g : PtRing) (s : State) : State := if rx then setRxRing k g s else setTxRing k g s

/-- NP_PT_DB_WRITE: as R44 of chapter 02 on an enabled ring. -/
def ptDoorbell (rx : Bool) (k tail : Nat) (s : State) : State :=
  let g := ptRing rx k s
  let d := 2 ^ g.log2
  if !g.en then s
  else if d ≤ tail || d - 1 < ringSpan d g.head g.tail + ringSpan d g.tail tail then faultPtRing rx k s
  else putPtRing rx k { g with tail := tail } s

def execNpPtDbWrite (rx : Bool) (k tail : Nat) (s : State) : Host.Outcome State Fault Refusal :=
  .next (if 8 ≤ k then s else regWrite 0x1A00 (ptDoorbell rx k (tail % 2 ^ 16)) s)

/-- NP_PT_CFG_WRITE (Table 3-10). -/
def ptConfig (rx : Bool) (k v : Nat) (s : State) : State :=
  let g := ptRing rx k s
  let g := { g with nq := bits v 16 5, bufCode := min 4 (bits v 9 3), noteEn := bit v 8, noteEvery := bits v 0 8,
                    log2 := if g.en then g.log2 else storedLog2 (bits v 12 4) }
  let g := if !bit v 31 then { g with en := false, fault := false }
    else if g.en then g
    else { g with en := true, head := 0, tail := 0 }
  putPtRing rx k g s

def execNpPtCfgWrite (rx : Bool) (k value : Nat) (s : State) : Host.Outcome State Fault Refusal :=
  .next (if 8 ≤ k then s else regWrite 0x1A00 (ptConfig rx k value) s)

/-- NP_PT_BASE, dropped while its ring is enabled. -/
def ptBase (rx : Bool) (k value : Nat) (high : Bool) (s : State) : State :=
  let g := ptRing rx k s
  if g.en then s else putPtRing rx k { g with base := putHalf g.base value 5 high } s

/-! ### Reads that change state -/

/-- A read of TM_FRC_LO latches the high word and device time of its edge (04 R155). -/
def latchTime (s : State) : State :=
  let d := dt96Of (now s)
  { s with tm := { s.tm with latch := [word32 s.tm.frc 1, d.ns, d.sec % 2 ^ 32, fld d.frac 16 16 + bits d.sec 32 16] } }

/-- A read of a COUNT low word latches its high word and ROLLOVER (11 R378). -/
def latchCount (el reg : Nat) (s : State) : State :=
  let r := (getElem' s el).regs.getD reg ⟨0, 0, 0⟩
  { s with am := { s.am with latch := tset s.am.latch (8 * el + reg) (word32 r.count 1, r.roll % 2 ^ 32) } }

/-- The element and register whose COUNT low word lies at an offset. -/
def countAt (off : Nat) : Option (Nat × Nat) :=
  let o := off % 0x100
  if 0xB400 ≤ off && off < 0xB800 && 0x10 ≤ o && o < 0x90 && o % 0x10 == 0 then some ((off - 0xB400) / 0x100, (o - 0x10) / 0x10)
  else none

/-- The queue whose HI_NQ_POP lies at an offset. -/
def popAt (off : Nat) : Bool := 0x800 ≤ off && off < 0xC00 && off % 0x20 < 8

/-- One 4-byte read with what it changes: latches, and NQ_WIDTH of a pop register (02 R70). -/
def readBar (off : Nat) (s : State) : Nat × State :=
  let (v, s') := readReg off s
  if s.pm.mode == .frozen then (v, s')
  else if off == 0x2020 then (v, latchTime s')
  else if popAt off then (v, raiseErr s'.hi.nqWidth (fun h => { h with nqWidth := true }) s')
  else match countAt off with
    | some (e, r) => (v, if regOn s off then latchCount e r s' else s')
    | none => (v, s')

/-- A 4-byte read by the host. -/
def hostRead (off : Nat) (s : State) : State :=
  let (v, s) := readBar off s
  emit (.readData (leBytes 4 v)) s

/-- TM_FRC_LO_READ (04 R155). -/
def execTmFrcLoRead (s : State) : Host.Outcome State Fault Refusal := .next (hostRead 0x2020 s)

/-- AM_COUNT_LOW_READ (11 R378). -/
def execAmCountLowRead (el reg : Nat) (s : State) : Host.Outcome State Fault Refusal :=
  .next (if 4 ≤ el || 8 ≤ reg then s else hostRead (0xB400 + 0x100 * el + 0x10 + 0x10 * reg) s)

/-- The bytes of a 4-byte word at BAR2 address `a` outside the diagnostic windows (02 R37): MSI-X table, pending-bit array,
Spool window; elsewhere 0. -/
def bar2Word (s : State) (a : Nat) : Nat :=
  if a < 0x400 then
    let e := getMsix s (a / 16)
    match a % 16 with
    | 0 => word32 e.addr 0
    | 4 => word32 e.addr 1
    | 8 => word32 e.data 0
    | _ => word32 e.control 0
  else if a < 0x408 then word32 s.hi.pba ((a - 0x400) / 4)
  else if 0x10000 ≤ a && a < 0x10200 then ofLeBytes (((spoolBytes s ((a - 0x10000) / 32)).drop ((a - 0x10000) % 32)).take 4)
  else 0

/-- A 4-byte read in BAR2 (02 R37). In a diagnostic window the read of a counter's low half latches its high half for the next
read of that (03 R116). -/
def readBar2 (a : Nat) (s : State) : Nat × State :=
  if a < 0x100000 then (bar2Word s a, s)
  else if a % 8 == 0 then
    let v := tget 0 s.counters a
    (word32 v 0, { s with ctrLatch := tset s.ctrLatch a (word32 v 1) })
  else (tget 0 s.ctrLatch (a - 4), s)

/-- An aligned 8-byte read in BAR2: of a counter it is atomic and latches nothing (03 R116). -/
def readBar2Wide (a : Nat) (s : State) : Nat :=
  if a < 0x100000 then bar2Word s a + 2 ^ 32 * bar2Word s (a + 4) else tget 0 s.counters a

/-- COUNTER_LOW_READ (02 R37, 03 R116): a read in BAR2, of 4 bytes or, aligned, of 8. In FROZEN the units are stopped and no
rule gives what BAR2 returns: a free value. -/
def execCounterLowRead (r : Bar2Read) (s : State) : Host.Outcome State Fault Refusal :=
  let addr := r.addr
  let wide := r.wide
  .next (
    if 0x1000000 ≤ addr || addr % (if wide then 8 else 4) != 0 then s
    else if s.pm.mode == .frozen then bumpFree (emit (.readData (leBytes (if wide then 8 else 4) (freeBits 64 s))) s)
    else if wide then emit (.readData (leBytes 8 (readBar2Wide addr s))) s
    else
      let (v, s) := readBar2 addr s
      emit (.readData (leBytes 4 v)) s)

/-! ### Selectors and plain register writes -/

/-- SI_SEL (05 R186): a SID above 16,383 is dropped. -/
def siSel (v : Nat) (s : State) : State :=
  if 16383 < v then s else { s with si := { s.si with sel := v, entry := siEntry s v } }

def execSiSelWrite (value : Nat) (s : State) : Host.Outcome State Fault Refusal := .next (regWrite 0x3100 (siSel (value % 2 ^ 32)) s)

/-- SC_SEL (09 R314). -/
def scSel (v : Nat) (s : State) : State := { s with sc := { s.sc with sel := v, sig := scSig s v } }

def execScSelWrite (value : Nat) (s : State) : Host.Outcome State Fault Refusal := .next (regWrite 0x8100 (scSel (value % 2 ^ 10)) s)

/-- AL_SEL (10 R345). -/
def alSel (v : Nat) (s : State) : State := { s with al := { s.al with sel := v, rule := alRule s v } }

def execAlSelWrite (value : Nat) (s : State) : Host.Outcome State Fault Refusal := .next (regWrite 0x9100 (alSel (value % 2 ^ 12)) s)

/-- OV_SEL (12 R408): attribute word, and the counter of an OWNER slot. -/
def ovSel (v : Nat) (s : State) : State :=
  let ctr := match getSlot s v with | some k => if k.owner then k.ctr else 0 | none => 0
  { s with ov := { s.ov with sel := v, selAttr := slotAttr s v, selCtr := ctr } }

def execOvSelWrite (value : Nat) (s : State) : Host.Outcome State Fault Refusal := .next (regWrite 0xC100 (ovSel (value % 2 ^ 8)) s)

/-- EC_SEL (13 R438): a macro above 1,647 is dropped. -/
def ecSel (v : Nat) (s : State) : State :=
  if 1647 < v then s else { s with ec := { s.ec with sel := v, selMacro := ecMacro s v } }

def execEcSelWrite (value : Nat) (s : State) : Host.Outcome State Fault Refusal := .next (regWrite 0xD100 (ecSel (value % 2 ^ 11)) s)

/-- EV_SPOOL_CUR_WRITE (13 R435). -/
def execEvSpoolCurWrite (value : Nat) (s : State) : Host.Outcome State Fault Refusal :=
  .next (regWrite 0xD820 (seekSpool (value % 2 ^ 32)) s)

/-- Bits of HI_ERR and HI_MB_STAT that a write of 1 clears (Tables 2-4, 2-9). -/
def clearErr (v : Nat) (h : Hi) : Hi :=
  { h with offAccess := h.offAccess && !bit v 0, lockAccess := h.lockAccess && !bit v 1, ringFault := h.ringFault && !bit v 2,
           dmaFault := h.dmaFault && !bit v 3, nqWidth := h.nqWidth && !bit v 4 }

/-- A write of an HI register (Table 2-3). -/
def writeHi (o v : Nat) (s : State) : State :=
  if o == 0x10 then { s with hi := clearErr v s.hi }
  else if o == 0x18 then { s with hi := { s.hi with mb := { s.hi.mb with ovr := s.hi.mb.ovr && !bit v 5 } } }
  else if 0x100 ≤ o && o < 0x500 then
    let n := (o - 0x100) / 0x40
    let r := (o - 0x100) % 0x40
    if r == 0x08 then sqConfig n v s
    else if r == 0x0C then sqDoorbell n (v % 2 ^ 16) s
    else if r == 0x18 then cqConfig n v s
    else if r == 0x1C then cqDoorbell n (v % 2 ^ 16) s
    else if r < 0x28 then ringBase n r v s
    else s
  else if 0x800 ≤ o && o < 0xC00 && o % 0x20 == 8 then nqConfig ((o - 0x800) / 0x20) v s
  else s

/-- A write of an NP register (Tables 3-6 and 3-8): ring registers and LINK_CHG. -/
def writeNp (o v : Nat) (s : State) : State :=
  if o < 0xA00 then
    if o % 0x200 == 4 && bit v 0 then updPort (o / 0x200) (fun t => { t with linkChg := false }) s else s
  else if o < 0xC00 then
    let rx := o < 0xB00
    let k := o % 0x100 / 0x20
    let r := o % 0x20
    if r < 8 then ptBase rx k v (r == 4) s
    else if r == 8 then ptConfig rx k v s
    else if r == 0x0C then ptDoorbell rx k (v % 2 ^ 16) s
    else s
  else s

/-- A 32-bit BAR0 write whose domain is on: registers and fields that are RO ignore it (00 Table 0-5); no register of the
manual is RWL. -/
def writeReg (off v : Nat) (s : State) : State :=
  let o := off % 0x1000
  match off / 0x1000 with
  | 0x0 => writeHi o v s
  | 0x1 => writeNp o v s
  | 0x3 => if o == 0x100 then siSel v s else s
  | 0x8 => if o == 0x100 then scSel (v % 2 ^ 10) s else s
  | 0x9 => if o == 0x100 then alSel (v % 2 ^ 12) s else s
  | 0xC => if o == 0x100 then ovSel (v % 2 ^ 8) s else s
  | 0xD => if o == 0x100 then ecSel (v % 2 ^ 11) s else if o == 0x820 then seekSpool v s else s
  | _ => s

/-- A write of one word of the MSI-X table; a vector whose mask it clears fires if it is pending (02 R37; PRESUMED, as PCI
Express defines them). -/
def writeMsix (a v : Nat) (s : State) : State :=
  let n := a / 16
  let e := getMsix s n
  let e := match a % 16 with
    | 0 => { e with addr := putHalf e.addr v 2 false }
    | 4 => { e with addr := putHalf e.addr v 0 true }
    | 8 => { e with data := v }
    | _ => { e with control := v % 2 }
  let s := { s with hi := { s.hi with msix := tset s.hi.msix n e } }
  if bit s.hi.pba n && !bit e.control 0 then
    fireVector n { s with hi := { s.hi with pba := s.hi.pba - 2 ^ n } }
  else s

/-- A write in BAR2: the MSI-X table takes it; every other one is dropped (02 R37), also in FROZEN (01 R33). -/
def writeBar2 (a v : Nat) (s : State) : State := if s.pm.mode == .frozen || 0x400 ≤ a then s else writeMsix a v s

/-- REGISTER_WRITE (01 R23, 00 R7, 02 R37): a 4-byte write to BAR0; offsets from 2^24 up stand for BAR2. -/
def execRegisterWrite (offset value : Nat) (s : State) : Host.Outcome State Fault Refusal :=
  .next (
    if offset % 4 != 0 then s
    else if 0x1000000 ≤ offset then writeBar2 (offset - 0x1000000) (value % 2 ^ 32) s
    else if 0x10000 ≤ offset then s
    else regWrite offset (writeReg offset (value % 2 ^ 32)) s)

/-! ### FLR and PERST_N (02 R38, R39) -/

/-- A ring pair after the reset of the ring engines: the commands it had fetched run on, their completions discarded. -/
def Ring.flr (g : Ring) : Ring := { Ring.reset with fetched := g.fetched.map (fun f => { f with dead := true }) }

/-- An operation of a ring becomes detached; a mailbox handle is not affected. -/
def OpEntry.flr (o : OpEntry) : OpEntry := if o.src == .mailbox then o else { o with detached := true }

/-- FLR, or the assertion of PERST_N. -/
def execFlr (_perst : Bool) (s : State) : Host.Outcome State Fault Refusal :=
  .next { s with hi := { s.hi with rings := s.hi.rings.map (fun e => (e.1, e.2.flr)), ops := s.hi.ops.map OpEntry.flr,
                                   msix := [], pba := 0, lastRing0 := false, turn := 1, turnUsed := 0 } }

/-! ### Management ports (02 R64 to R67) -/

/-- A 32-bit value, most significant byte first. -/
def beBytes4 (v : Nat) : List Nat := (leBytes 4 v).reverse

/-- The bytes of a completion record (Table 2-9a). -/
def Record.bytes (r : Record) : List Nat :=
  leBytes 4 r.handle ++ [r.status % 256, r.stag % 256] ++ leBytes 4 r.ns ++ leBytes 6 r.sec ++ padTo 16 r.result

/-- Registers from an offset upward, `count` of them. No rule says what lies beyond BAR0's end: free values. -/
def readRegs : Nat → Nat → State → List Nat × State
  | 0, _, s => ([], s)
  | count + 1, off, s =>
    let (v, s) := if off < 0x10000 then readBar off s else (freeBits 32 s, bumpFree s)
    let (l, s) := readRegs count (off + 4) s
    (beBytes4 v ++ l, s)

/-- The mailbox takes a packet, or drops it with MB_OVR (02 R67). -/
def mbSubmit (p : Packet) (s : State) : State :=
  let mb := s.hi.mb
  let h := (s.hi.ops.filter (fun o => o.src == .mailbox)).length
  if mb.cmd.isSome || 8 < mb.fifo.length + h + 2 then { s with hi := { s.hi with mb := { mb with ovr := true } } }
  else { s with hi := { s.hi with mb := { mb with cmd := some (packetHead p) } } }

/-- The record count before the fetch, then the oldest record, or zeros (Table 2-9b). -/
def mbFetch (s : State) : State :=
  let mb := s.hi.mb
  match mb.fifo with
  | r :: rest => emit (.readData (mb.fifo.length :: r.bytes)) { s with hi := { s.hi with mb := { mb with fifo := rest } } }
  | [] => emit (.readData (List.replicate 33 0)) s

/-- The command that command byte and offset of Table 2-9b name. -/
def mgmtSel (byte offset : Nat) : MgmtSel :=
  if byte == 0x05 then .status
  else if byte == 0x03 then .read (offset % 2 ^ 16)
  else if byte == 0x40 then .submit
  else if byte == 0x41 then .fetch
  else .unknown

/-- The command that a management command of the table stands for. -/
def selOf : Instr → MgmtSel
  | .mspiStatus c => mgmtSel c.cmd 0
  | .mspiRead _ offset _ => mgmtSel 0x03 offset
  | .mbSubmit _ _ => mgmtSel 0x40 0
  | .mbFetch _ => mgmtSel 0x41 0
  | _ => .status

/-- Further words of 4 bytes that a transaction clocks. -/
def clocked : Instr → Nat
  | .mspiStatus c => c.count
  | .mspiRead _ _ count => count
  | _ => 0

/-- What the device returns after the LSW for a command of Table 2-9b, `count` words being clocked: nothing for STATUS and
MB_SUBMIT, zeros for an unknown byte and for a READ that is not 4-byte aligned (02 R64). -/
def mgmtData (c : MgmtSel) (count : Nat) (s : State) : State :=
  match c with
  | .read off =>
    if off % 4 != 0 then emit (.readData (List.replicate (4 * count) 0)) s
    else
      let (l, s) := readRegs count off s
      emit (.readData l) s
  | .fetch => mbFetch s
  | .unknown => emit (.readData (List.replicate (4 * count) 0)) s
  | .status => s
  | .submit => s

/-- What the host sends after a command byte: a packet with MB_SUBMIT. -/
def mgmtTake (c : Instr) (s : State) : State :=
  match c with
  | .mbSubmit _ p => mbSubmit p s
  | _ => s

/-- What follows the LSW of a management transaction (02 R64, R65): on MSPI the command's data both ways; on MI2C a write
transfer selects the command and takes what it sends, and a read transfer returns the data of the command selected last. -/
def mgmtBody (via : Mgmt) (c : Instr) (s : State) : State :=
  match via with
  | .mspi => mgmtData (selOf c) (clocked c) (mgmtTake c s)
  | .mi2c _ false => mgmtTake c { s with hi := { s.hi with mb := { s.hi.mb with sel := selOf c } } }
  | .mi2c _ true => mgmtData s.hi.mb.sel (clocked c) s

/-- The LSW bytes that MSPI and an MI2C read transfer begin with, of the D_AON copy (02 R41, R64, R65). -/
def mgmtLsw (via : Mgmt) (s : State) : State :=
  match via with
  | .mi2c _ false => s
  | _ => emit (.readData (beBytes4 (lswAon s))) s

/-- A management transaction (02 R64 to R67): the LSW first; MI2C holds the bytes that follow until a wake has completed. A
transfer to another address is not answered. -/
def mgmt (via : Mgmt) (c : Instr) (s : State) : State :=
  match via with
  | .mspi => mgmtBody via c (mgmtLsw via s)
  | .mi2c addr _ =>
    if addr != 0x58 + s.pins.mi2cAddr % 4 then s
    else
      let s := mgmtLsw via (mi2cMatch s)
      if s.pm.waking then { s with hi := { s.hi with mb := { s.hi.mb with held := some c } } } else mgmtBody via c s

/-- MSPI_STATUS: the LSW alone, or zeros after it for an unknown command byte. -/
def execMspiStatus (c : MgmtByte) (s : State) : Host.Outcome State Fault Refusal :=
  .next (mgmt c.via (.mspiStatus c) s)

/-- MSPI_READ. -/
def execMspiRead (via : Mgmt) (offset count : Nat) (s : State) : Host.Outcome State Fault Refusal :=
  .next (mgmt via (.mspiRead via offset count) s)

/-- MB_SUBMIT. -/
def execMbSubmit (via : Mgmt) (p : Packet) (s : State) : Host.Outcome State Fault Refusal :=
  .next (mgmt via (.mbSubmit via p) s)

/-- MB_FETCH. -/
def execMbFetch (via : Mgmt) (s : State) : Host.Outcome State Fault Refusal := .next (mgmt via (.mbFetch via) s)

end Sys2Proof.Machine
end

