-- ==== Sys2Proof/Machine/Final.lean ====
section
/-! DEFINITION. The ends of accepted operations (02 R54, R62, R499), the wake and the commands that waited for it (14 R460),
undefined opcodes (02 R51), and the idle step. -/

namespace Sys2Proof.Machine

/-- A host command as it stands in a state; none for what is no host command. -/
def procOf (c : Instr) (s : State) : Option Proc :=
  match c with
  | .sysNop h => some (procSysNop h s)
  | .sysIdentify h => some (procSysIdentify h s)
  | .sysQueryHandle h handle => some (procSysQueryHandle h handle s)
  | .sysCancel h handle => some (procSysCancel h handle s)
  | .sysSetMode h target => some (procSysSetMode h target s)
  | .sysFreeze h => some (procSysFreeze h s)
  | .sysThaw h => some (procSysThaw h s)
  | .sysReset h kind => some (procSysReset h kind s)
  | .sysNqMark h q => some (procSysNqMark h q s)
  | .sysNqRewind h q => some (procSysNqRewind h q s)
  | .sysNqRelease h q count => some (procSysNqRelease h q count s)
  | .sysClearCounters h mask => some (procSysClearCounters h mask s)
  | .cfgLoad h source addr len img => some (procCfgLoad h source addr len img s)
  | .cfgCommit h => some (procCfgCommit h s)
  | .cfgDiscard h => some (procCfgDiscard h s)
  | .cfgReport h which addr len => some (procCfgReport h which addr len s)
  | .cfgQuery h which => some (procCfgQuery h which s)
  | .cfgStore h => some (procCfgStore h s)
  | .portConfig h p => some (procPortConfig h p s)
  | .portSetExact h port index en addr => some (procPortSetExact h port index en addr s)
  | .portSetHash h p => some (procPortSetHash h p s)
  | .portSetVlan h p => some (procPortSetVlan h p s)
  | .portSetIntake h port e => some (procPortSetIntake h port e s)
  | .portSetPtMap h port map => some (procPortSetPtMap h port map s)
  | .portPrpPair h p => some (procPortPrpPair h p s)
  | .portMacsecCfg h p => some (procPortMacsecCfg h p s)
  | .portSaInstall h p => some (procPortSaInstall h p s)
  | .portSaActivate h port an nextAn => some (procPortSaActivate h port an nextAn s)
  | .portSaDestroy h port dir sc an => some (procPortSaDestroy h port dir sc an s)
  | .portGateLoad h p => some (procPortGateLoad h p s)
  | .portGateQuery h port => some (procPortGateQuery h port s)
  | .portLinkStatus h port => some (procPortLinkStatus h port s)
  | .portClearCounters h mask => some (procPortClearCounters h mask s)
  | .timeConfig h p => some (procTimeConfig h p s)
  | .timeSource h primary secondary revertS => some (procTimeSource h primary secondary revertS s)
  | .timePtpConfig h p => some (procTimePtpConfig h p s)
  | .timePpsConfig h p => some (procTimePpsConfig h p s)
  | .timePortLatency h p => some (procTimePortLatency h p s)
  | .timeRead h => some (procTimeRead h s)
  | .timeSet h t => some (procTimeSet h t s)
  | .timeUtcOffset h ofs valid leap => some (procTimeUtcOffset h ofs valid leap s)
  | .timeCmpArm h p => some (procTimeCmpArm h p s)
  | .timeCmpDisarm h cmp => some (procTimeCmpDisarm h cmp s)
  | .timeCmpQuery h cmp => some (procTimeCmpQuery h cmp s)
  | .timeHoldoverTest h en => some (procTimeHoldoverTest h en s)
  | .timeMainRetest h => some (procTimeMainRetest h s)
  | .timeStatus h => some (procTimeStatus h s)
  | .timeClearCounters h => some (procTimeClearCounters h s)
  | .streamInstall h p => some (procStreamInstall h p s)
  | .streamRemove h sid => some (procStreamRemove h sid s)
  | .streamRekey h sid keyNext keyIdNext => some (procStreamRekey h sid keyNext keyIdNext s)
  | .streamRelease h sid => some (procStreamRelease h sid s)
  | .streamQuery h sid => some (procStreamQuery h sid s)
  | .streamSetTimers h sid staleN lostN => some (procStreamSetTimers h sid staleN lostN s)
  | .streamList h addr len => some (procStreamList h addr len s)
  | .streamGconfig h p => some (procStreamGconfig h p s)
  | .streamClearCounters h first count => some (procStreamClearCounters h first count s)
  | .groupDefine h p => some (procGroupDefine h p s)
  | .groupDelete h gid => some (procGroupDelete h gid s)
  | .groupMembers h gid op count sids => some (procGroupMembers h gid op count sids s)
  | .groupSetTiming h p => some (procGroupSetTiming h p s)
  | .groupQuery h gid => some (procGroupQuery h gid s)
  | .groupSessionDefine h p => some (procGroupSessionDefine h p s)
  | .groupSessionDelete h session => some (procGroupSessionDelete h session s)
  | .groupSessionEnable h session en => some (procGroupSessionEnable h session en s)
  | .groupReadCell h gid sid index addr len => some (procGroupReadCell h gid sid index addr len s)
  | .groupClearCounters h mask => some (procGroupClearCounters h mask s)
  | .groupGconfig h p => some (procGroupGconfig h p s)
  | .caravanJobDefine h p => some (procCaravanJobDefine h p s)
  | .caravanJobDelete h job => some (procCaravanJobDelete h job s)
  | .caravanJobBind h job gid en => some (procCaravanJobBind h job gid en s)
  | .caravanRun h job arg => some (procCaravanRun h job arg s)
  | .caravanLevelConfig h p => some (procCaravanLevelConfig h p s)
  | .caravanEngineRetire h engine => some (procCaravanEngineRetire h engine s)
  | .caravanEngineRestore h engine => some (procCaravanEngineRestore h engine s)
  | .caravanQueryJob h job => some (procCaravanQueryJob h job s)
  | .caravanQueryEngine h engine => some (procCaravanQueryEngine h engine s)
  | .caravanClearCounters h mask => some (procCaravanClearCounters h mask s)
  | .topoModelLoad h addr len sigOk fetchOk m => some (procTopoModelLoad h addr len sigOk fetchOk m s)
  | .topoConfig h p => some (procTopoConfig h p s)
  | .topoCutsetDefine h p => some (procTopoCutsetDefine h p s)
  | .topoCutsetDelete h cut => some (procTopoCutsetDelete h cut s)
  | .topoBranchForce h branch action => some (procTopoBranchForce h branch action s)
  | .topoRefactor h => some (procTopoRefactor h s)
  | .topoReadResult h index sections addr len => some (procTopoReadResult h index sections addr len s)
  | .topoQuery h => some (procTopoQuery h s)
  | .topoClearCounters h => some (procTopoClearCounters h s)
  | .oscConfig h p => some (procOscConfig h p s)
  | .oscSignalDefine h p => some (procOscSignalDefine h p s)
  | .oscSignalDelete h sig => some (procOscSignalDelete h sig s)
  | .oscGroupDefine h p => some (procOscGroupDefine h p s)
  | .oscGroupDelete h group => some (procOscGroupDelete h group s)
  | .oscReadBands h first count depth addr len => some (procOscReadBands h first count depth addr len s)
  | .oscReadModes h group depth addr len => some (procOscReadModes h group depth addr len s)
  | .oscRestart h group => some (procOscRestart h group s)
  | .oscQuery h group => some (procOscQuery h group s)
  | .oscClearCounters h mask => some (procOscClearCounters h mask s)
  | .alarmRuleDefine h p => some (procAlarmRuleDefine h p s)
  | .alarmRuleEnable h first count en => some (procAlarmRuleEnable h first count en s)
  | .alarmRuleDelete h rule => some (procAlarmRuleDelete h rule s)
  | .alarmRuleQuery h rule => some (procAlarmRuleQuery h rule s)
  | .alarmLineConfig h p => some (procAlarmLineConfig h p s)
  | .alarmAck h mask => some (procAlarmAck h mask s)
  | .alarmForce h rule action => some (procAlarmForce h rule action s)
  | .alarmXtrigConfig h p => some (procAlarmXtrigConfig h p s)
  | .alarmClearCounters h first count => some (procAlarmClearCounters h first count s)
  | .acqChannelDefine h p => some (procAcqChannelDefine h p s)
  | .acqRingDefine h p => some (procAcqRingDefine h p s)
  | .acqEnable h ch en => some (procAcqEnable h ch en s)
  | .acqDelete h ch => some (procAcqDelete h ch s)
  | .acqTrigger h mask t => some (procAcqTrigger h mask t s)
  | .acqQuery h ch => some (procAcqQuery h ch s)
  | .acqGconfig h nq => some (procAcqGconfig h nq s)
  | .acqClearCounters h mask => some (procAcqClearCounters h mask s)
  | .meterChannelConfig h p => some (procMeterChannelConfig h p s)
  | .meterCalibrate h p => some (procMeterCalibrate h p s)
  | .meterSensorTemp h ch t => some (procMeterSensorTemp h ch t s)
  | .meterElementDefine h p => some (procMeterElementDefine h p s)
  | .meterElementEnable h el en => some (procMeterElementEnable h el en s)
  | .meterEnergyRead h el reg => some (procMeterEnergyRead h el reg s)
  | .meterEnergySigned h mask slot addr len => some (procMeterEnergySigned h mask slot addr len s)
  | .meterEnergyPreset h el reg rollover count => some (procMeterEnergyPreset h el reg rollover count s)
  | .meterPulseConfig h p => some (procMeterPulseConfig h p s)
  | .meterVstreamDefine h p => some (procMeterVstreamDefine h p s)
  | .meterVstreamRemove h vs => some (procMeterVstreamRemove h vs s)
  | .meterBallastDefine h p => some (procMeterBallastDefine h p s)
  | .meterSave h => some (procMeterSave h s)
  | .meterConfig h p => some (procMeterConfig h p s)
  | .meterQuery h => some (procMeterQuery h s)
  | .meterClearCounters h mask => some (procMeterClearCounters h mask s)
  | .vaultStatus h => some (procVaultStatus h s)
  | .vaultLifecycle h target ownerKey => some (procVaultLifecycle h target ownerKey s)
  | .vaultOwnerLoad h key => some (procVaultOwnerLoad h key s)
  | .vaultRootGenerate h => some (procVaultRootGenerate h s)
  | .vaultTamperClear h => some (procVaultTamperClear h s)
  | .vaultTamperConfig h enables => some (procVaultTamperConfig h enables s)
  | .vaultDebug h en => some (procVaultDebug h en s)
  | .vaultGenerate h slot alg usage lock => some (procVaultGenerate h slot alg usage lock s)
  | .vaultDerive h slot parent alg usage lock label => some (procVaultDerive h slot parent alg usage lock label s)
  | .vaultImport h p => some (procVaultImport h p s)
  | .vaultSeal h slot addr len => some (procVaultSeal h slot addr len s)
  | .vaultExport h slot wrapSlot destUid addr len => some (procVaultExport h slot wrapSlot destUid addr len s)
  | .vaultDestroy h slot => some (procVaultDestroy h slot s)
  | .vaultAttest h slot nonce addr len => some (procVaultAttest h slot nonce addr len s)
  | .vaultSlotQuery h slot => some (procVaultSlotQuery h slot s)
  | .vaultRandom h count => some (procVaultRandom h count s)
  | .vaultClearCounters h => some (procVaultClearCounters h s)
  | .logConfig h p => some (procLogConfig h p s)
  | .logSpoolSeek h seq => some (procLogSpoolSeek h seq s)
  | .logRead h first count addr len => some (procLogRead h first count addr len s)
  | .logFlush h => some (procLogFlush h s)
  | .logWrite h severity arg => some (procLogWrite h severity arg s)
  | .logFaultClear h => some (procLogFaultClear h s)
  | .logMacroQuery h mac => some (procLogMacroQuery h mac s)
  | .logInject h mac word bitA bitB => some (procLogInject h mac word bitA bitB s)
  | .logClearCounters h mask => some (procLogClearCounters h mask s)
  | .powerDoze h => some (procPowerDoze h s)
  | .powerWake h => some (procPowerWake h s)
  | .powerPadRelease h mask => some (procPowerPadRelease h mask s)
  | .powerConfig h p => some (procPowerConfig h p s)
  | .powerQuery h => some (procPowerQuery h s)
  | .powerRefConfig h p => some (procPowerRefConfig h p s)
  | .powerRefSwitch h => some (procPowerRefSwitch h s)
  | .powerClearCounters h mask => some (procPowerClearCounters h mask s)
  | _ => none

/-! ### FINAL_COMPLETION -/

/-- The end of an operation of the SYS, CFG, PORT or TIME class. -/
def finishHost (o : OpEntry) (fin : Finish) (s : State) : State :=
  match o.cmd with
  | .sysSetMode _ target => finishSetMode o target fin.hwFault s
  | .cfgLoad _ source _ _ img => finishCfgLoad o source img fin s
  | .cfgCommit _ => finishCfgCommit o fin.hwFault s
  | .cfgReport _ which addr _ => finishCfgReport o which addr s
  | .cfgStore _ => finishCfgStore o fin.hwFault s
  | .portConfig _ p => finishPortConfig o p fin.hwFault s
  | .portGateLoad _ p => finishGateLoad o p fin.hwFault s
  | .timePtpConfig _ p => finishPtpConfig o p fin.hwFault s
  | .timeMainRetest _ => finishMainRetest o fin.pass s
  | _ => s

/-- The end of an operation of the STREAM, GROUP, CARAVAN, TOPO or OSC class. -/
def finishGrid (o : OpEntry) (fin : Finish) (s : State) : State :=
  match o.cmd with
  | .streamInstall _ p => finishInstall o p fin.hwFault s
  | .streamList _ addr _ => finishList o addr s
  | .groupDefine _ p => finishGroupDefine o p fin.hwFault s
  | .groupMembers _ gid op _ sids => finishGroupMembers o gid op sids fin.hwFault s
  | .groupSetTiming _ p => finishSetTiming o p fin.hwFault s
  | .groupSessionDefine _ p => finishSessionDefine o p fin.hwFault s
  | .groupReadCell _ gid sid index addr _ => finishReadCell o gid sid index addr fin.dataBad s
  | .caravanJobDefine _ p => finishJobDefine o p fin.hwFault s
  | .caravanJobBind _ job gid en => finishJobBind o job gid en s
  | .caravanLevelConfig _ p => finishLevels o p s
  | .caravanEngineRetire _ engine => finishEngineRetire o engine fin.hwFault s
  | .caravanEngineRestore _ engine => finishEngineRestore o engine fin.pass s
  | .topoModelLoad _ _ _ sigOk fetchOk m => finishModelLoad o sigOk fetchOk m fin s
  | .topoReadResult _ index sections addr len => finishReadResult o index sections addr len fin.dataBad s
  | .oscSignalDefine _ p => finishSignal o p fin.hwFault s
  | .oscGroupDefine _ p => finishOscGroup o p fin.hwFault s
  | .oscReadBands _ first count depth addr _ => finishReadBands o first count depth addr fin.dataBad s
  | .oscReadModes _ group depth addr len => finishReadModes o group depth addr len fin.dataBad s
  | _ => s

/-- The end of an operation of the ACQ, METER, VAULT, LOG or POWER class. -/
def finishRest (o : OpEntry) (fin : Finish) (s : State) : State :=
  match o.cmd with
  | .acqChannelDefine _ p => finishChan o p fin.hwFault s
  | .acqRingDefine _ p => finishRing o p fin.hwFault s
  | .meterEnergySigned _ mask slot addr len => finishSigned o mask slot addr len fin.hwFault s
  | .meterVstreamDefine _ p => finishVs o p fin.hwFault s
  | .meterSave _ => finishSave o fin.hwFault s
  | .vaultLifecycle _ target key => finishLifecycle o target key fin.hwFault s
  | .vaultRootGenerate _ => finishRoot o fin.hwFault s
  | .vaultGenerate _ slot alg usage lock => finishGenerate o slot alg usage lock fin.hwFault s
  | .vaultDerive _ slot parent alg usage lock label => finishDerive o slot parent alg usage lock label fin.hwFault s
  | .vaultImport _ p => finishImport o p fin.hwFault s
  | .vaultSeal _ slot addr len => finishSeal o slot addr len fin.hwFault s
  | .vaultExport _ slot wrap uid addr len => finishExport o slot wrap uid addr len fin.hwFault s
  | .vaultAttest _ slot nonce addr _ => finishAttest o slot nonce addr fin.hwFault s
  | .logRead _ first count addr _ => finishLogRead o first count addr fin.dataBad s
  | .logFlush _ => finishFlush o fin.hwFault s
  | .powerRefSwitch _ => finishRefSwitch o fin.hwFault s
  | _ => s

/-- An operation reaches its end. CARAVAN.RUN, TOPO.REFACTOR, PORT.GATE_LOAD, POWER.DOZE and POWER.WAKE end with events of
their own. -/
def finishOp (o : OpEntry) (fin : Finish) (s : State) : State :=
  if o.opcode < 0x1000 then finishHost o fin s else if o.opcode < 0x2800 then finishGrid o fin s else finishRest o fin s

/-- FINAL_COMPLETION (02 R54): of an operation that runs; nothing completes in BOOT or FROZEN (01 R33). -/
def execFinalCompletion (handle : Nat) (fin : Finish) (s : State) : Host.Outcome State Fault Refusal :=
  .next (
    match findOp s handle with
    | some o => if o.phase == .waking || s.pm.mode == .frozen || s.pm.mode == .boot then s else finishOp o fin s
    | none => s)

/-! ### The wake (02 R62, 14 R460) -/

/-- The status a waiting command meets before its own ones: its domains are on now (02 R51, R62). -/
def wokenStatus (p : Proc) (s : State) : Nat :=
  firstBad [(!modeAdmits p.spec s, 0x20), (!p.spec.domOk, 0x60), (blockStopped p.spec s, 0x22), (p.spec.cfgBusy && loadRunning s, 0x22)]

/-- A command that waited executes; its final completion carries the status and result it gives now. One that the opcode
table completes ACCEPTED goes on under the handle it has. -/
def runWoken (o : OpEntry) (s : State) : State :=
  match procOf o.cmd s with
  | none => finalCompletion o 0x60 [] s
  | some p =>
    if wokenStatus p s != 0 then finalCompletion o (wokenStatus p s) [] s
    else match p.work with
      | .done body after =>
        let r := body s
        if r.status == 0 then after (finalCompletion o 0 r.result r.state) else finalCompletion o r.status r.result r.state
      | .accepted phase first start missed =>
        if first s != 0 then finalCompletion o (first s) [] (missed s)
        else start o.handle (updOp o.handle (fun x => { x with phase := phase }) s)

/-- Every POWER.WAKE ends. -/
def endWakes (status : Nat) (s : State) : State :=
  (s.hi.ops.filter (fun o => o.opcode == 0x3801)).foldl (fun s o => finalCompletion o status [] s) s

/-- How a management command comes. -/
def viaOf : Instr → Mgmt
  | .mspiStatus c => c.via
  | .mspiRead via _ _ => via
  | .mbSubmit via _ => via
  | .mbFetch via => via
  | _ => .mspi

/-- An MI2C transfer that the wake held goes on (02 R66). -/
def releaseMi2c (s : State) : State :=
  match s.hi.mb.held with
  | some c => mgmtBody (viaOf c) c { s with hi := { s.hi with mb := { s.hi.mb with held := none } } }
  | none => s

/-- The commands that wait for a wake, oldest first. -/
def waiting (s : State) : List OpEntry := s.hi.ops.filter (fun o => o.phase == .waking)

/-- The domains could not be powered: the device stays in DOZE, and what waited ends HW_FAULT (02 R62). -/
def wakeFailed (s : State) : State :=
  let s := endWakes 0x60 { s with pm := { s.pm with waking := false } }
  releaseMi2c ((waiting s).foldl (fun s o => finalCompletion o 0x60 [] s) s)

/-- WAKE_COMPLETE (14 R460): `passed` are the engines whose self-test passes. -/
def execWakeComplete (failed : Bool) (passed : List Nat) (s : State) : Host.Outcome State Fault Refusal :=
  .next (
    if !s.pm.waking || s.pm.mode != .doze then s
    else if failed then wakeFailed s
    else
      let s := endWakes 0 (wakeUp passed s)
      releaseMi2c ((waiting s).foldl (fun s o => runWoken o s) s))

/-! ### Undefined opcodes and the idle step -/

/-- The defined opcodes, by class: first to last of each run (02 R53, Tables 2-15 to 14-17). -/
def opcodeRuns : List (Nat × Nat) :=
  [(0x0000, 0x0003), (0x0010, 0x0013), (0x0020, 0x0022), (0x0030, 0x0030), (0x0400, 0x0405), (0x0800, 0x0805),
   (0x0808, 0x0808), (0x0810, 0x0813), (0x0820, 0x0821), (0x0830, 0x0830), (0x0840, 0x0840), (0x0C00, 0x0C04),
   (0x0C08, 0x0C0A), (0x0C10, 0x0C12), (0x0C20, 0x0C21), (0x0C30, 0x0C30), (0x0C40, 0x0C40)] ++
  [(0x1000, 0x1006), (0x1010, 0x1010), (0x1020, 0x1020), (0x1400, 0x1404), (0x1408, 0x140A), (0x1410, 0x1410),
   (0x1420, 0x1421), (0x1800, 0x1803), (0x1808, 0x1808), (0x1810, 0x1811), (0x1818, 0x1819), (0x1820, 0x1820),
   (0x1C00, 0x1C03), (0x1C08, 0x1C09), (0x1C10, 0x1C11), (0x1C20, 0x1C20), (0x2000, 0x2002), (0x2008, 0x2009),
   (0x2010, 0x2011), (0x2018, 0x2019), (0x2020, 0x2020), (0x2400, 0x2403), (0x2408, 0x240A), (0x2410, 0x2410),
   (0x2420, 0x2420)] ++
  [(0x2800, 0x2803), (0x2808, 0x2809), (0x2810, 0x2810), (0x2820, 0x2820), (0x2C00, 0x2C02), (0x2C08, 0x2C0C),
   (0x2C10, 0x2C10), (0x2C18, 0x2C19), (0x2C20, 0x2C21), (0x2C28, 0x2C29), (0x2C30, 0x2C30), (0x3000, 0x3006),
   (0x3010, 0x3018), (0x3020, 0x3020), (0x3400, 0x3405), (0x3408, 0x3409), (0x3420, 0x3420), (0x3800, 0x3803),
   (0x3808, 0x3808), (0x3810, 0x3811), (0x3820, 0x3820)]

/-- The opcode is defined. -/
def opcodeDefined (n : Nat) : Bool := opcodeRuns.any (fun r => r.1 ≤ n && n ≤ r.2)

/-- The packet at the head of a source. -/
def headOf (s : State) : Src → Option PacketHead
  | .mailbox => s.hi.mb.cmd
  | .ring n => (getRing s n).fetched.head?.map (·.head)

/-- The source's head is an undefined opcode, and its turn has come (02 R47, R57). -/
def undefinedHead (s : State) (src : Src) : Bool :=
  sourceReady s src && turnOf s src && (headOf s src).any (fun p => !opcodeDefined p.opcode)

/-- An undefined opcode completes BAD_OPCODE, first of the checks of R51. -/
def dropUndefined (s : State) : State :=
  if s.pm.mode == .frozen then s
  else match (Src.mailbox :: (List.range 16).map Src.ring).find? (undefinedHead s) with
    | none => s
    | some src =>
      match headOf s src with
      | none => s
      | some p =>
        let h : Hdr := ⟨src, p.stag, p.indirect, p.fence, p.irq, p.wake, p.authOfs, p.plen, 0, p.bufAddr, true, none, []⟩
        firstCompletion h (headDead s src) (fld (p.opcode / 256) 24 8) 0x10 [] (takeHead src s)

/-- An idle step: an undefined opcode that is due completes, and one FRC count passes. -/
def idleStep (s : State) : State := idle (dropUndefined s)

end Sys2Proof.Machine
end

