-- ==== Sys2Proof/Machine/Jtag.lean ====
section
/-! DEFINITION. The JTAG port (14 R468, Table 14-9; 12 R393, R404). -/

namespace Sys2Proof.Machine

/-- An instruction is in the register: what it does to the pads (1 EXTEST, 2 CLAMP, 3 HIGHZ, 0 none). -/
def jtagSelect (ir padMode : Nat) (s : State) : State := { s with jtag := { s.jtag with ir := ir, padMode := padMode } }

/-- Data leave on TDO. -/
def jtagOut (v : Nat) (s : State) : State := emit (.jtag v) s

/-- What the boundary cells capture: the levels at the pads, a free value. -/
def jtagCapture (s : State) : State := bumpFree (jtagOut (Config.free s.freeCtr) s)

/-- JTAG_EXTEST: the pads are driven from the boundary register, in every mode. -/
def execJtagExtest (pads : Nat) (s : State) : Host.Outcome State Fault Refusal :=
  .next (jtagCapture { (jtagSelect 0x00 1 s) with jtag := { (jtagSelect 0x00 1 s).jtag with boundary := pads } })

/-- JTAG_IDCODE: the 32-bit device identification. -/
def execJtagIdcode (s : State) : Host.Outcome State Fault Refusal :=
  .next (jtagOut (Config.idcode % 2 ^ 32) (jtagSelect 0x01 0 s))

/-- JTAG_SAMPLE_PRELOAD: the pads are sampled and the boundary register preloaded. -/
def execJtagSamplePreload (value : Nat) (s : State) : Host.Outcome State Fault Refusal :=
  .next (jtagCapture { (jtagSelect 0x02 0 s) with jtag := { (jtagSelect 0x02 0 s).jtag with boundary := value } })

/-- JTAG_CLAMP: the pads hold what the boundary register says, with BYPASS selected. -/
def execJtagClamp (s : State) : Host.Outcome State Fault Refusal := .next (jtagSelect 0x04 2 s)

/-- JTAG_HIGHZ: outputs are in high impedance, with BYPASS selected. -/
def execJtagHighz (s : State) : Host.Outcome State Fault Refusal := .next (jtagSelect 0x05 3 s)

/-- The FRZ instructions act in FROZEN and shift out zeros outside it (14 R468). -/
def frzOut (v : Nat) (s : State) : State := jtagOut (if s.pm.mode == .frozen then v else 0) s

/-- JTAG_FRZ_SCAN: a chain recirculates as it shifts out, so the captured state stays. -/
def execJtagFrzScan (chain : Nat) (s : State) : Host.Outcome State Fault Refusal :=
  .next (frzOut (Config.scanChain (chain % 2 ^ 8) s.tm.frc) (jtagSelect 0x10 0 s))

/-- The data bits of a word whose contents the rules place: a live cell's words in the Erg (06 R191), and the engines' local
memory (07 R246). -/
def heldWord (s : State) (m w : Nat) : Option Nat :=
  if m < 640 then
    let l := (m % 10 * 8192 + w) * 64 + m / 10
    (cellAt s (l / 20)).map (fun c => (cellWords c.1 c.2.1 c.2.2.1 c.2.2.2).getD (l % 20) 0)
  else if m < 704 then
    let l := ((m - 640) % 4 * 8192 + w) * 16 + (m - 640) / 4
    (cellAt s (l / 2)).map (fun c => (cellWords c.1 c.2.1 c.2.2.1 c.2.2.2).getD (20 + l % 2) 0)
  else if 1088 ≤ m && m < 1352 then some (tget 0 (getEngine s ((m - 1088) / 4)).lmem ((m - 1088) % 4 * 8192 + w))
  else none

/-- The 80-bit code word of a macro, uncorrected: as stored, with its flipped bits, the data in [71:0] (DESIGN CHOICE,
log 78); a key slot's words read zero (12 R393, 13 R437). -/
def rawWord (s : State) (m w : Nat) : Nat :=
  if 1548 ≤ m && Config.coreMemory m w == 4 then 0
  else
    let v := match heldWord s m w with
      | some d => d % 2 ^ 72 + fld (Config.checkBits (d % 2 ^ 72) w) 72 8
      | none => Config.codeWord m w s.tm.frc % 2 ^ 80
    (flipsOf s m w).foldl (fun v b => v ^^^ 2 ^ b) v

/-- JTAG_FRZ_MEM: one code word; the word address advances after the read. -/
def execJtagFrzMem (mac word : Nat) (s : State) : Host.Outcome State Fault Refusal :=
  .next (
    let m := mac % 2 ^ 11
    let w := word % 2 ^ 13
    let s := frzOut (rawWord s m w) (jtagSelect 0x11 0 s)
    { s with jtag := { s.jtag with frzMacro := m, frzWord := (w + 1) % 2 ^ 13 } })

/-- JTAG_FRZ_REG: one BAR0 register; a domain that is off reads all ones, as in BAR0 (01 R23). -/
def execJtagFrzReg (offset : Nat) (s : State) : Host.Outcome State Fault Refusal :=
  .next (
    let off := offset % 2 ^ 16
    let v := if regOn s off then regValue s off else 0xFFFFFFFF
    frzOut v (jtagSelect 0x12 0 (if off == 0xF008 || off == 0xF00C then bumpFree s else s)))

/-- Debug is open: the Mirage root is in force, or no root exists in this lifecycle (12 R404). -/
def debugOpen (s : State) : Bool := s.ov.mirage.isSome || s.fuses.lifecycle == .blank || s.fuses.lifecycle == .retired

/-- JTAG_DEBUG, codes 0x20 to 0x2F: what an open debug instruction shifts out no rule gives, a free value. -/
def execJtagDebug (code : Nat) (s : State) : Host.Outcome State Fault Refusal :=
  .next (
    if code < 0x20 || 0x2F < code then s
    else
      let s := jtagSelect code 0 s
      if debugOpen s then jtagCapture s else s)

/-- JTAG_BYPASS: the 1-bit register shifts. -/
def execJtagBypass (tdi : Bool) (s : State) : Host.Outcome State Fault Refusal :=
  .next (
    let s := jtagOut s.jtag.bypass (jtagSelect 0xFF 0 s)
    { s with jtag := { s.jtag with bypass := b2n tdi } })

end Sys2Proof.Machine
end

