-- ==== Sys2Proof/Machine/Dispatch.lean ====
section
/-! DEFINITION. One arm per command: its meaning, or its refusal by name. -/

namespace Sys2Proof.Machine

/-- The effect of a command on everything but the queue. -/
def exec (i : Instr) (s : State) : Host.Outcome State Fault Refusal :=
  match i with
  | .commandFetch ring p readOk => Sys2Proof.Machine.execCommandFetch ring p readOk s
  | .fenceRelease ring => Sys2Proof.Machine.execFenceRelease ring s
  | .sysNop h => Sys2Proof.Machine.execSysNop h s
  | .sysIdentify h => Sys2Proof.Machine.execSysIdentify h s
  | .sysQueryHandle h handle => Sys2Proof.Machine.execSysQueryHandle h handle s
  | .sysCancel h handle => Sys2Proof.Machine.execSysCancel h handle s
  | .sysSetMode h target => Sys2Proof.Machine.execSysSetMode h target s
  | .sysFreeze h => Sys2Proof.Machine.execSysFreeze h s
  | .sysThaw h => Sys2Proof.Machine.execSysThaw h s
  | .sysReset h kind => Sys2Proof.Machine.execSysReset h kind s
  | .sysNqMark h q => Sys2Proof.Machine.execSysNqMark h q s
  | .sysNqRewind h q => Sys2Proof.Machine.execSysNqRewind h q s
  | .sysNqRelease h q count => Sys2Proof.Machine.execSysNqRelease h q count s
  | .sysClearCounters h mask => Sys2Proof.Machine.execSysClearCounters h mask s
  | .cfgLoad h source addr len img => Sys2Proof.Machine.execCfgLoad h source addr len img s
  | .cfgCommit h => Sys2Proof.Machine.execCfgCommit h s
  | .cfgDiscard h => Sys2Proof.Machine.execCfgDiscard h s
  | .cfgReport h which addr len => Sys2Proof.Machine.execCfgReport h which addr len s
  | .cfgQuery h which => Sys2Proof.Machine.execCfgQuery h which s
  | .cfgStore h => Sys2Proof.Machine.execCfgStore h s
  | .portConfig h p => Sys2Proof.Machine.execPortConfig h p s
  | .portSetExact h port index en addr => Sys2Proof.Machine.execPortSetExact h port index en addr s
  | .portSetHash h p => Sys2Proof.Machine.execPortSetHash h p s
  | .portSetVlan h p => Sys2Proof.Machine.execPortSetVlan h p s
  | .portSetIntake h port e => Sys2Proof.Machine.execPortSetIntake h port e s
  | .portSetPtMap h port map => Sys2Proof.Machine.execPortSetPtMap h port map s
  | .portPrpPair h p => Sys2Proof.Machine.execPortPrpPair h p s
  | .portMacsecCfg h p => Sys2Proof.Machine.execPortMacsecCfg h p s
  | .portSaInstall h p => Sys2Proof.Machine.execPortSaInstall h p s
  | .portSaActivate h port an nextAn => Sys2Proof.Machine.execPortSaActivate h port an nextAn s
  | .portSaDestroy h port dir sc an => Sys2Proof.Machine.execPortSaDestroy h port dir sc an s
  | .portGateLoad h p => Sys2Proof.Machine.execPortGateLoad h p s
  | .portGateQuery h port => Sys2Proof.Machine.execPortGateQuery h port s
  | .portLinkStatus h port => Sys2Proof.Machine.execPortLinkStatus h port s
  | .portClearCounters h mask => Sys2Proof.Machine.execPortClearCounters h mask s
  | .timeConfig h p => Sys2Proof.Machine.execTimeConfig h p s
  | .timeSource h primary secondary revertS => Sys2Proof.Machine.execTimeSource h primary secondary revertS s
  | .timePtpConfig h p => Sys2Proof.Machine.execTimePtpConfig h p s
  | .timePpsConfig h p => Sys2Proof.Machine.execTimePpsConfig h p s
  | .timePortLatency h p => Sys2Proof.Machine.execTimePortLatency h p s
  | .timeRead h => Sys2Proof.Machine.execTimeRead h s
  | .timeSet h t => Sys2Proof.Machine.execTimeSet h t s
  | .timeUtcOffset h ofs valid leap => Sys2Proof.Machine.execTimeUtcOffset h ofs valid leap s
  | .timeCmpArm h p => Sys2Proof.Machine.execTimeCmpArm h p s
  | .timeCmpDisarm h cmp => Sys2Proof.Machine.execTimeCmpDisarm h cmp s
  | .timeCmpQuery h cmp => Sys2Proof.Machine.execTimeCmpQuery h cmp s
  | .timeHoldoverTest h en => Sys2Proof.Machine.execTimeHoldoverTest h en s
  | .timeMainRetest h => Sys2Proof.Machine.execTimeMainRetest h s
  | .timeStatus h => Sys2Proof.Machine.execTimeStatus h s
  | .timeClearCounters h => Sys2Proof.Machine.execTimeClearCounters h s
  | .streamInstall h p => Sys2Proof.Machine.execStreamInstall h p s
  | .streamRemove h sid => Sys2Proof.Machine.execStreamRemove h sid s
  | .streamRekey h sid keyNext keyIdNext => Sys2Proof.Machine.execStreamRekey h sid keyNext keyIdNext s
  | .streamRelease h sid => Sys2Proof.Machine.execStreamRelease h sid s
  | .streamQuery h sid => Sys2Proof.Machine.execStreamQuery h sid s
  | .streamSetTimers h sid staleN lostN => Sys2Proof.Machine.execStreamSetTimers h sid staleN lostN s
  | .streamList h addr len => Sys2Proof.Machine.execStreamList h addr len s
  | .streamGconfig h p => Sys2Proof.Machine.execStreamGconfig h p s
  | .streamClearCounters h first count => Sys2Proof.Machine.execStreamClearCounters h first count s
  | .groupDefine h p => Sys2Proof.Machine.execGroupDefine h p s
  | .groupDelete h gid => Sys2Proof.Machine.execGroupDelete h gid s
  | .groupMembers h gid op count sids => Sys2Proof.Machine.execGroupMembers h gid op count sids s
  | .groupSetTiming h p => Sys2Proof.Machine.execGroupSetTiming h p s
  | .groupQuery h gid => Sys2Proof.Machine.execGroupQuery h gid s
  | .groupSessionDefine h p => Sys2Proof.Machine.execGroupSessionDefine h p s
  | .groupSessionDelete h session => Sys2Proof.Machine.execGroupSessionDelete h session s
  | .groupSessionEnable h session en => Sys2Proof.Machine.execGroupSessionEnable h session en s
  | .groupReadCell h gid sid index addr len => Sys2Proof.Machine.execGroupReadCell h gid sid index addr len s
  | .groupClearCounters h mask => Sys2Proof.Machine.execGroupClearCounters h mask s
  | .groupGconfig h p => Sys2Proof.Machine.execGroupGconfig h p s
  | .caravanJobDefine h p => Sys2Proof.Machine.execCaravanJobDefine h p s
  | .caravanJobDelete h job => Sys2Proof.Machine.execCaravanJobDelete h job s
  | .caravanJobBind h job gid en => Sys2Proof.Machine.execCaravanJobBind h job gid en s
  | .caravanRun h job arg => Sys2Proof.Machine.execCaravanRun h job arg s
  | .caravanLevelConfig h p => Sys2Proof.Machine.execCaravanLevelConfig h p s
  | .caravanEngineRetire h engine => Sys2Proof.Machine.execCaravanEngineRetire h engine s
  | .caravanEngineRestore h engine => Sys2Proof.Machine.execCaravanEngineRestore h engine s
  | .caravanQueryJob h job => Sys2Proof.Machine.execCaravanQueryJob h job s
  | .caravanQueryEngine h engine => Sys2Proof.Machine.execCaravanQueryEngine h engine s
  | .caravanClearCounters h mask => Sys2Proof.Machine.execCaravanClearCounters h mask s
  | .topoModelLoad h addr len sigOk fetchOk m => Sys2Proof.Machine.execTopoModelLoad h addr len sigOk fetchOk m s
  | .topoConfig h p => Sys2Proof.Machine.execTopoConfig h p s
  | .topoCutsetDefine h p => Sys2Proof.Machine.execTopoCutsetDefine h p s
  | .topoCutsetDelete h cut => Sys2Proof.Machine.execTopoCutsetDelete h cut s
  | .topoBranchForce h branch action => Sys2Proof.Machine.execTopoBranchForce h branch action s
  | .topoRefactor h => Sys2Proof.Machine.execTopoRefactor h s
  | .topoReadResult h index sections addr len => Sys2Proof.Machine.execTopoReadResult h index sections addr len s
  | .topoQuery h => Sys2Proof.Machine.execTopoQuery h s
  | .topoClearCounters h => Sys2Proof.Machine.execTopoClearCounters h s
  | .oscConfig h p => Sys2Proof.Machine.execOscConfig h p s
  | .oscSignalDefine h p => Sys2Proof.Machine.execOscSignalDefine h p s
  | .oscSignalDelete h sig => Sys2Proof.Machine.execOscSignalDelete h sig s
  | .oscGroupDefine h p => Sys2Proof.Machine.execOscGroupDefine h p s
  | .oscGroupDelete h group => Sys2Proof.Machine.execOscGroupDelete h group s
  | .oscReadBands h first count depth addr len => Sys2Proof.Machine.execOscReadBands h first count depth addr len s
  | .oscReadModes h group depth addr len => Sys2Proof.Machine.execOscReadModes h group depth addr len s
  | .oscRestart h group => Sys2Proof.Machine.execOscRestart h group s
  | .oscQuery h group => Sys2Proof.Machine.execOscQuery h group s
  | .oscClearCounters h mask => Sys2Proof.Machine.execOscClearCounters h mask s
  | .alarmRuleDefine h p => Sys2Proof.Machine.execAlarmRuleDefine h p s
  | .alarmRuleEnable h first count en => Sys2Proof.Machine.execAlarmRuleEnable h first count en s
  | .alarmRuleDelete h rule => Sys2Proof.Machine.execAlarmRuleDelete h rule s
  | .alarmRuleQuery h rule => Sys2Proof.Machine.execAlarmRuleQuery h rule s
  | .alarmLineConfig h p => Sys2Proof.Machine.execAlarmLineConfig h p s
  | .alarmAck h mask => Sys2Proof.Machine.execAlarmAck h mask s
  | .alarmForce h rule action => Sys2Proof.Machine.execAlarmForce h rule action s
  | .alarmXtrigConfig h p => Sys2Proof.Machine.execAlarmXtrigConfig h p s
  | .alarmClearCounters h first count => Sys2Proof.Machine.execAlarmClearCounters h first count s
  | .acqChannelDefine h p => Sys2Proof.Machine.execAcqChannelDefine h p s
  | .acqRingDefine h p => Sys2Proof.Machine.execAcqRingDefine h p s
  | .acqEnable h ch en => Sys2Proof.Machine.execAcqEnable h ch en s
  | .acqDelete h ch => Sys2Proof.Machine.execAcqDelete h ch s
  | .acqTrigger h mask t => Sys2Proof.Machine.execAcqTrigger h mask t s
  | .acqQuery h ch => Sys2Proof.Machine.execAcqQuery h ch s
  | .acqGconfig h nq => Sys2Proof.Machine.execAcqGconfig h nq s
  | .acqClearCounters h mask => Sys2Proof.Machine.execAcqClearCounters h mask s
  | .meterChannelConfig h p => Sys2Proof.Machine.execMeterChannelConfig h p s
  | .meterCalibrate h p => Sys2Proof.Machine.execMeterCalibrate h p s
  | .meterSensorTemp h ch t => Sys2Proof.Machine.execMeterSensorTemp h ch t s
  | .meterElementDefine h p => Sys2Proof.Machine.execMeterElementDefine h p s
  | .meterElementEnable h el en => Sys2Proof.Machine.execMeterElementEnable h el en s
  | .meterEnergyRead h el reg => Sys2Proof.Machine.execMeterEnergyRead h el reg s
  | .meterEnergySigned h mask slot addr len => Sys2Proof.Machine.execMeterEnergySigned h mask slot addr len s
  | .meterEnergyPreset h el reg rollover count => Sys2Proof.Machine.execMeterEnergyPreset h el reg rollover count s
  | .meterPulseConfig h p => Sys2Proof.Machine.execMeterPulseConfig h p s
  | .meterVstreamDefine h p => Sys2Proof.Machine.execMeterVstreamDefine h p s
  | .meterVstreamRemove h vs => Sys2Proof.Machine.execMeterVstreamRemove h vs s
  | .meterBallastDefine h p => Sys2Proof.Machine.execMeterBallastDefine h p s
  | .meterSave h => Sys2Proof.Machine.execMeterSave h s
  | .meterConfig h p => Sys2Proof.Machine.execMeterConfig h p s
  | .meterQuery h => Sys2Proof.Machine.execMeterQuery h s
  | .meterClearCounters h mask => Sys2Proof.Machine.execMeterClearCounters h mask s
  | .vaultStatus h => Sys2Proof.Machine.execVaultStatus h s
  | .vaultLifecycle h target ownerKey => Sys2Proof.Machine.execVaultLifecycle h target ownerKey s
  | .vaultOwnerLoad h key => Sys2Proof.Machine.execVaultOwnerLoad h key s
  | .vaultRootGenerate h => Sys2Proof.Machine.execVaultRootGenerate h s
  | .vaultTamperClear h => Sys2Proof.Machine.execVaultTamperClear h s
  | .vaultTamperConfig h enables => Sys2Proof.Machine.execVaultTamperConfig h enables s
  | .vaultDebug h en => Sys2Proof.Machine.execVaultDebug h en s
  | .vaultGenerate h slot alg usage lock => Sys2Proof.Machine.execVaultGenerate h slot alg usage lock s
  | .vaultDerive h slot parent alg usage lock label => Sys2Proof.Machine.execVaultDerive h slot parent alg usage lock label s
  | .vaultImport h p => Sys2Proof.Machine.execVaultImport h p s
  | .vaultSeal h slot addr len => Sys2Proof.Machine.execVaultSeal h slot addr len s
  | .vaultExport h slot wrapSlot destUid addr len => Sys2Proof.Machine.execVaultExport h slot wrapSlot destUid addr len s
  | .vaultDestroy h slot => Sys2Proof.Machine.execVaultDestroy h slot s
  | .vaultAttest h slot nonce addr len => Sys2Proof.Machine.execVaultAttest h slot nonce addr len s
  | .vaultSlotQuery h slot => Sys2Proof.Machine.execVaultSlotQuery h slot s
  | .vaultRandom h count => Sys2Proof.Machine.execVaultRandom h count s
  | .vaultClearCounters h => Sys2Proof.Machine.execVaultClearCounters h s
  | .logConfig h p => Sys2Proof.Machine.execLogConfig h p s
  | .logSpoolSeek h seq => Sys2Proof.Machine.execLogSpoolSeek h seq s
  | .logRead h first count addr len => Sys2Proof.Machine.execLogRead h first count addr len s
  | .logFlush h => Sys2Proof.Machine.execLogFlush h s
  | .logWrite h severity arg => Sys2Proof.Machine.execLogWrite h severity arg s
  | .logFaultClear h => Sys2Proof.Machine.execLogFaultClear h s
  | .logMacroQuery h mac => Sys2Proof.Machine.execLogMacroQuery h mac s
  | .logInject h mac word bitA bitB => Sys2Proof.Machine.execLogInject h mac word bitA bitB s
  | .logClearCounters h mask => Sys2Proof.Machine.execLogClearCounters h mask s
  | .powerDoze h => Sys2Proof.Machine.execPowerDoze h s
  | .powerWake h => Sys2Proof.Machine.execPowerWake h s
  | .powerPadRelease h mask => Sys2Proof.Machine.execPowerPadRelease h mask s
  | .powerConfig h p => Sys2Proof.Machine.execPowerConfig h p s
  | .powerQuery h => Sys2Proof.Machine.execPowerQuery h s
  | .powerRefConfig h p => Sys2Proof.Machine.execPowerRefConfig h p s
  | .powerRefSwitch h => Sys2Proof.Machine.execPowerRefSwitch h s
  | .powerClearCounters h mask => Sys2Proof.Machine.execPowerClearCounters h mask s
  | .hiSqDbWrite ring tail => Sys2Proof.Machine.execHiSqDbWrite ring tail s
  | .hiCqDbWrite ring head => Sys2Proof.Machine.execHiCqDbWrite ring head s
  | .hiSqCfgWrite ring value => Sys2Proof.Machine.execHiSqCfgWrite ring value s
  | .hiCqCfgWrite ring value => Sys2Proof.Machine.execHiCqCfgWrite ring value s
  | .hiNqPopRead q bytes aligned => Sys2Proof.Machine.execHiNqPopRead q bytes aligned s
  | .hiNqCfgWrite q value => Sys2Proof.Machine.execHiNqCfgWrite q value s
  | .npPtDbWrite rx k tail => Sys2Proof.Machine.execNpPtDbWrite rx k tail s
  | .npPtCfgWrite rx k value => Sys2Proof.Machine.execNpPtCfgWrite rx k value s
  | .tmFrcLoRead => Sys2Proof.Machine.execTmFrcLoRead s
  | .counterLowRead r => Sys2Proof.Machine.execCounterLowRead r s
  | .amCountLowRead el reg => Sys2Proof.Machine.execAmCountLowRead el reg s
  | .siSelWrite value => Sys2Proof.Machine.execSiSelWrite value s
  | .scSelWrite value => Sys2Proof.Machine.execScSelWrite value s
  | .alSelWrite value => Sys2Proof.Machine.execAlSelWrite value s
  | .ovSelWrite value => Sys2Proof.Machine.execOvSelWrite value s
  | .ecSelWrite value => Sys2Proof.Machine.execEcSelWrite value s
  | .evSpoolCurWrite value => Sys2Proof.Machine.execEvSpoolCurWrite value s
  | .registerWrite offset value => Sys2Proof.Machine.execRegisterWrite offset value s
  | .mspiStatus c => Sys2Proof.Machine.execMspiStatus c s
  | .mspiRead via offset count => Sys2Proof.Machine.execMspiRead via offset count s
  | .mbSubmit via p => Sys2Proof.Machine.execMbSubmit via p s
  | .mbFetch via => Sys2Proof.Machine.execMbFetch via s
  | .flr perst => Sys2Proof.Machine.execFlr perst s
  | .nqTimeout q => Sys2Proof.Machine.execNqTimeout q s
  | .rxFrame port a twin => Sys2Proof.Machine.execRxFrame port a twin s
  | .ptFrameDelivery k => Sys2Proof.Machine.execPtFrameDelivery k s
  | .ptTxChainFetch k port queue frame prpMode count clear wellFormed => Sys2Proof.Machine.execPtTxChainFetch k port queue frame prpMode count clear wellFormed s
  | .txFrameStart port q => Sys2Proof.Machine.execTxFrameStart port q s
  | .gateBoundary port => Sys2Proof.Machine.execGateBoundary port s
  | .linkStateChange port pcsLock fecLock faults errs => Sys2Proof.Machine.execLinkStateChange port pcsLock fecLock faults errs s
  | .ptpSyncRx m origin correction followUp ingress => Sys2Proof.Machine.execPtpSyncRx m origin correction followUp ingress s
  | .ptpAnnounceRx a => Sys2Proof.Machine.execPtpAnnounceRx a s
  | .ppsInEdge e => Sys2Proof.Machine.execPpsInEdge e s
  | .ppsLost => Sys2Proof.Machine.execPpsLost s
  | .todSentenceRx sumOk statusOk utcSec => Sys2Proof.Machine.execTodSentenceRx sumOk statusOk utcSec s
  | .sourceLoss source => Sys2Proof.Machine.execSourceLoss source s
  | .cmpFire cmp => Sys2Proof.Machine.execCmpFire cmp s
  | .siFrameParse pipe => Sys2Proof.Machine.execSiFrameParse pipe s
  | .streamTimerExpiry sid => Sys2Proof.Machine.execStreamTimerExpiry sid s
  | .instantOpen gid => Sys2Proof.Machine.execInstantOpen gid s
  | .earlyRelease gid => Sys2Proof.Machine.execEarlyRelease gid s
  | .deadlineRelease gid => Sys2Proof.Machine.execDeadlineRelease gid s
  | .publishInstant gid index => Sys2Proof.Machine.execPublishInstant gid index s
  | .cellHoldExpiry gid index => Sys2Proof.Machine.execCellHoldExpiry gid index s
  | .instantRetire gid index => Sys2Proof.Machine.execInstantRetire gid index s
  | .dispatchDecision => Sys2Proof.Machine.execDispatchDecision s
  | .itemCommit item r dataBad => Sys2Proof.Machine.execItemCommit item r dataBad s
  | .budgetOver item => Sys2Proof.Machine.execBudgetOver item s
  | .engineFault engine kind => Sys2Proof.Machine.execEngineFault engine kind s
  | .takeoverResume item => Sys2Proof.Machine.execTakeoverResume item s
  | .xtrigInEdge n level stamp => Sys2Proof.Machine.execXtrigInEdge n level stamp s
  | .aqRecordWrite ring => Sys2Proof.Machine.execAqRecordWrite ring s
  | .sdSample ch vRec vAlm run64 cleanBits => Sys2Proof.Machine.execSdSample ch vRec vAlm run64 cleanBits s
  | .energyBlockEnd el stop e1 e2 e3 trackedF => Sys2Proof.Machine.execEnergyBlockEnd el stop e1 e2 e3 trackedF s
  | .pulseStart n => Sys2Proof.Machine.execPulseStart n s
  | .periodicSave ok => Sys2Proof.Machine.execPeriodicSave ok s
  | .aliveStamp => Sys2Proof.Machine.execAliveStamp s
  | .pfwNFall => Sys2Proof.Machine.execPfwNFall s
  | .pfwQualified durTenthUs => Sys2Proof.Machine.execPfwQualified durTenthUs s
  | .ballastWriteEnd => Sys2Proof.Machine.execBallastWriteEnd s
  | .pfwNRise => Sys2Proof.Machine.execPfwNRise s
  | .zeroizeCause cause => Sys2Proof.Machine.execZeroizeCause cause s
  | .scrubRead mac word => Sys2Proof.Machine.execScrubRead mac word s
  | .internalReset => Sys2Proof.Machine.execInternalReset s
  | .recordClose source code severity => Sys2Proof.Machine.execRecordClose source code severity s
  | .flushMsExpiry => Sys2Proof.Machine.execFlushMsExpiry s
  | .evFlushEnd => Sys2Proof.Machine.execEvFlushEnd s
  | .opsecTick => Sys2Proof.Machine.execOpsecTick s
  | .handshakeAnswer a => Sys2Proof.Machine.execHandshakeAnswer a s
  | .handshakeDelayEnd => Sys2Proof.Machine.execHandshakeDelayEnd s
  | .wakeComplete failed passed => Sys2Proof.Machine.execWakeComplete failed passed s
  | .freezeNAssert low => Sys2Proof.Machine.execFreezeNAssert low s
  | .resetNQualified durTenthUs => Sys2Proof.Machine.execResetNQualified durTenthUs s
  | .resetTakesHold => Sys2Proof.Machine.execResetTakesHold s
  | .warmResetTakesHold => Sys2Proof.Machine.execWarmResetTakesHold s
  | .boot enginesPass badMacros rootOk ownerOk img => Sys2Proof.Machine.execBoot enginesPass badMacros rootOk ownerOk img s
  | .finalCompletion handle fin => Sys2Proof.Machine.execFinalCompletion handle fin s
  | .cairnRelease => Sys2Proof.Machine.execCairnRelease s
  | .mi2cAddressMatch => Sys2Proof.Machine.execMi2cAddressMatch s
  | .prpLanLost pair lan => Sys2Proof.Machine.execPrpLanLost pair lan s
  | .prpEntryForget pair src => Sys2Proof.Machine.execPrpEntryForget pair src s
  | .prpSupervisionTx pair => Sys2Proof.Machine.execPrpSupervisionTx pair s
  | .ptDescriptorTimeout k => Sys2Proof.Machine.execPtDescriptorTimeout k s
  | .gateOperative port => Sys2Proof.Machine.execGateOperative port s
  | .ptpPdelayReqRx port m ingress => Sys2Proof.Machine.execPtpPdelayReqRx port m ingress s
  | .ptpDelayReqRx m ingress => Sys2Proof.Machine.execPtpDelayReqRx m ingress s
  | .ptpPathDelayRx m meanPath => Sys2Proof.Machine.execPtpPathDelayRx m meanPath s
  | .ptpDelayReqTx port => Sys2Proof.Machine.execPtpDelayReqTx port s
  | .ptpMasterAnnounceTx => Sys2Proof.Machine.execPtpMasterAnnounceTx s
  | .ptpMasterSyncTx => Sys2Proof.Machine.execPtpMasterSyncTx s
  | .sourceRevert => Sys2Proof.Machine.execSourceRevert s
  | .holdoverAgeing => Sys2Proof.Machine.execHoldoverAgeing s
  | .integSave => Sys2Proof.Machine.execIntegSave s
  | .leapApply => Sys2Proof.Machine.execLeapApply s
  | .timeCheckpoint => Sys2Proof.Machine.execTimeCheckpoint s
  | .residueMismatch => Sys2Proof.Machine.execResidueMismatch s
  | .timeSelftestEnd pass => Sys2Proof.Machine.execTimeSelftestEnd pass s
  | .outputPulseEnd line => Sys2Proof.Machine.execOutputPulseEnd line s
  | .duneTick => Sys2Proof.Machine.execDuneTick s
  | .vstreamReport r => Sys2Proof.Machine.execVstreamReport r s
  | .amendBatchClose gid index => Sys2Proof.Machine.execAmendBatchClose gid index s
  | .delayExpiry => Sys2Proof.Machine.execDelayExpiry s
  | .itemAging level => Sys2Proof.Machine.execItemAging level s
  | .checkpointWrite item => Sys2Proof.Machine.execCheckpointWrite item s
  | .fencedSelftestEnd engine pass => Sys2Proof.Machine.execFencedSelftestEnd engine pass s
  | .spareSelftest engine pass => Sys2Proof.Machine.execSpareSelftest engine pass s
  | .almStbDeferred => Sys2Proof.Machine.execAlmStbDeferred s
  | .almPulseEnd line => Sys2Proof.Machine.execAlmPulseEnd line s
  | .tempStale ch => Sys2Proof.Machine.execTempStale ch s
  | .pulseEnd n => Sys2Proof.Machine.execPulseEnd n s
  | .entropyFail test => Sys2Proof.Machine.execEntropyFail test s
  | .entropyRetest passed => Sys2Proof.Machine.execEntropyRetest passed s
  | .drbgReseed => Sys2Proof.Machine.execDrbgReseed s
  | .correctionWriteback mac word => Sys2Proof.Machine.execCorrectionWriteback mac word s
  | .suspectExpiry mac word => Sys2Proof.Machine.execSuspectExpiry mac word s
  | .controlDue mac word => Sys2Proof.Machine.execControlDue mac word s
  | .watchdogExpiry sequencer gid => Sys2Proof.Machine.execWatchdogExpiry sequencer gid s
  | .lifecycleWipe => Sys2Proof.Machine.execLifecycleWipe s
  | .powerOnDetect railsOk => Sys2Proof.Machine.execPowerOnDetect railsOk s
  | .refFail what which => Sys2Proof.Machine.execRefFail what which s
  | .refQualified what which => Sys2Proof.Machine.execRefQualified what which s
  | .pllRevert => Sys2Proof.Machine.execPllRevert s
  | .jtagExtest pads => Sys2Proof.Machine.execJtagExtest pads s
  | .jtagIdcode => Sys2Proof.Machine.execJtagIdcode s
  | .jtagSamplePreload value => Sys2Proof.Machine.execJtagSamplePreload value s
  | .jtagClamp => Sys2Proof.Machine.execJtagClamp s
  | .jtagHighz => Sys2Proof.Machine.execJtagHighz s
  | .jtagFrzScan chain => Sys2Proof.Machine.execJtagFrzScan chain s
  | .jtagFrzMem mac word => Sys2Proof.Machine.execJtagFrzMem mac word s
  | .jtagFrzReg offset => Sys2Proof.Machine.execJtagFrzReg offset s
  | .jtagDebug code => Sys2Proof.Machine.execJtagDebug code s
  | .jtagBypass tdi => Sys2Proof.Machine.execJtagBypass tdi s
  | .xtrigInForwardedEdge n => Sys2Proof.Machine.execXtrigInForwardedEdge n s
  | .pdelayTimeout port => Sys2Proof.Machine.execPdelayTimeout port s

end Sys2Proof.Machine
end

