-- ==== Sys2Proof/Machine/Pads.lean ====
section
/-! DEFINITION. The output pads as they stand (15 Table 15-2, R476; 14 R457): what State shows at the balls while no boundary-scan
instruction drives them. -/

namespace Sys2Proof.Machine

/-- Levels of the output balls of Table 15-2, and which SerDes transmitters are in electrical idle. -/
structure Pads where
  alm : Nat
  almStb : Bool
  xtrigOut : Nat
  pulse : Nat
  sdClk : Bool
  ppsOut : Bool
  mspiIrqN : Bool
  portIdle : List Bool
deriving DecidableEq, Repr

/-- The levels of the D_ANCHOR pads: held, or as AM drives them; 0 from a reset to the end of BOOT (14 R457, 15 R476). -/
def anchorPads (s : State) : Nat :=
  if s.pm.holdAnchor then s.pm.heldPads else if s.pm.mode == .boot then 0 else anchorLevels s

/-- The transmitter of port `p` is in electrical idle: its pads held, its domain off, in BOOT, or without LINE (14 R457, 15 R476). -/
def portIdle (s : State) (p : Nat) : Bool :=
  s.pm.holdPorts || !s.pm.domPorts || s.pm.mode == .boot || (getPort s p).line == 0

/-- The output pads while the JTAG port drives none of them (14 R468). -/
def pads (s : State) : Pads :=
  let boot := s.pm.mode == .boot
  let t := fineTime s
  { alm := if boot then 0 else s.al.alm
    almStb := !boot && s.al.stbRise ≤ t && t < s.al.stbFall
    xtrigOut := if boot then 0 else fld (b2n (xtrigOut s 0)) 0 1 + fld (b2n (xtrigOut s 1)) 1 1
    pulse := anchorPads s % 16
    sdClk := bit (anchorPads s) 4
    ppsOut := !boot && decide (t < tget 0 s.tm.pulses 0)
    mspiIrqN := mspiIrqN s
    portIdle := (List.range 5).map (portIdle s) }

end Sys2Proof.Machine
end

