-- ==== Sys2Proof/Safety.lean ====
section
/-! DEFINITION. What counts as a safe run, and the terms the claims use: when a command is taken up, and the states its
completions leave. -/

namespace Sys2Proof

/-- One step answers a next state. -/
def Safety.stepOk (s : Machine.State) : Bool :=
  match Machine.step s with
  | .next _ => true
  | _ => false

namespace Machine

/-- A host command with packet head `h` is the one dispatched next, and it passes the checks of 02 R51 (steps 2 to 6): its
lengths, its tag, its values, its mode and its domains are as `c` asks, no sleep handshake has stopped its block, and no
CFG.LOAD makes it wait. -/
def passes (h : Hdr) (c : CmdSpec) (s : State) : Bool :=
  dispatches h c.opcode s && hostCheck h c (takeHead h.src s) == .pass

/-- A host command of `opcode` completes DONE in state `s`: its effect has left `t`, its tag's counter is recorded, and its
first completion carries status 0 and the RESULT bytes (02 R50, R54; 12 R387). -/
def doneWith (h : Hdr) (opcode : Nat) (result : List Nat) (s t : State) : State :=
  firstCompletion h (headDead s h.src) (fld (opcode / 256) 24 8) 0 result (consumeTag h t)

/-- A host command of `opcode` is ACCEPTED: state `s` with its head taken, its tag's counter recorded, its operation
outstanding under a new handle in `phase`, and its first completion written with status 1 and that handle (02 R54, R55). -/
def acceptedAs (h : Hdr) (opcode : Nat) (cmd : Instr) (phase : Phase) (s : State) : State :=
  firstCompletion h (headDead s h.src) (newHandle opcode (takeHead h.src s)) 1 []
    (openHandle h (headDead s h.src) opcode cmd phase (consumeTag h (takeHead h.src s)))

/-- The handle that an ACCEPTED command of `opcode` is given in state `s`. -/
def handleFor (h : Hdr) (opcode : Nat) (s : State) : Nat := newHandle opcode (takeHead h.src s)

/-- The operation `o`, outstanding under handle `k`, may reach its end: it does not wait for a wake, and the device is neither in
FROZEN nor in BOOT (02 R54, R62; 01 R33). -/
def mayEnd (k : Nat) (o : OpEntry) (s : State) : Prop :=
  findOp s k = some o ∧ o.phase ≠ .waking ∧ s.pm.mode ≠ .frozen ∧ s.pm.mode ≠ .boot

/-- The fuses agree with the lifecycle (12 R382): OWNER_HASH is burned exactly in the lifecycles after BLANK. -/
def FusesOk (s : State) : Prop := s.fuses.lifecycle = .blank ↔ s.fuses.ownerHash = none

/-- The changes of lifecycle that Table 12-6 lists. -/
def lifecycleChanges : List (Lifecycle × Lifecycle) :=
  [(.blank, .provisioned), (.provisioned, .operational), (.provisioned, .retired), (.operational, .retired)]

/-- A counter's form (00 R14): a value of 48 bits, and OVF at bit 63. -/
def CounterForm (v : Nat) : Prop := v % 2 ^ 63 < 2 ^ 48 ∧ v < 2 ^ 64

/-- The counters stand in canonical form: addresses strictly rising, none listed at 0, each in its form. -/
def CountersOk (t : Tbl Nat) : Prop := t.Pairwise (fun a b => a.1 < b.1) ∧ ∀ e ∈ t, e.2 ≠ 0 ∧ CounterForm e.2

/-- A notice queue's indices and entries agree (02 R68, R69): the oldest held entry is not past the next read, nor that past
the next write; at most 1,024 entries are held, and those exactly; a mark that is valid and not lost is held. -/
def NqOk (n : Nq) : Prop :=
  n.l ≤ n.r ∧ n.r ≤ n.w ∧ n.m ≤ n.w ∧ n.w - n.l ≤ 1024 ∧ n.held.length = n.w - n.l ∧
    (n.markValid = true → n.markLost = false → n.l ≤ n.m)

/-- The host interface keeps its bounds: the counters stand in canonical form (00 R14), at most 1,024 handles are outstanding
(02 R55), and every notice queue agrees with itself (02 R68, R69). -/
def HostOk (s : State) : Prop :=
  CountersOk s.counters ∧ s.hi.ops.length ≤ 1024 ∧ ∀ e ∈ s.hi.nqs, NqOk e.2

/-- The commands that may act in FROZEN (01 R33): the endpoint and SYS.THAW, the management interfaces, the pins, tamper and
references that D_AON and D_VAULT watch, what ends on their account, and JTAG. -/
def actsInFrozen : Instr → Bool
  | .sysThaw _ | .commandFetch _ _ _ | .fenceRelease _ | .hiNqPopRead _ _ _ | .tmFrcLoRead | .counterLowRead _
  | .amCountLowRead _ _ | .mspiStatus _ | .mspiRead _ _ _ | .mbSubmit _ _ | .mbFetch _ | .flr _ | .xtrigInEdge _ _ _
  | .xtrigInForwardedEdge _ | .pfwNFall | .pfwQualified _ | .pfwNRise | .resetNQualified _ | .freezeNAssert _
  | .zeroizeCause _ | .ballastWriteEnd | .cairnRelease | .internalReset | .resetTakesHold | .warmResetTakesHold
  | .powerOnDetect _ | .mi2cAddressMatch | .refFail _ _ | .refQualified _ _ | .pllRevert | .jtagExtest _
  | .jtagIdcode | .jtagSamplePreload _ | .jtagClamp | .jtagHighz | .jtagFrzScan _ | .jtagFrzMem _ _ | .jtagFrzReg _
  | .jtagDebug _ | .jtagBypass _ => true
  | _ => false

/-- A host command of `opcode` completes at once with a status other than DONE and ACCEPTED, and `t` is what else stands
(02 R50, R54). -/
def refusedWith (h : Hdr) (opcode status : Nat) (s t : State) : State :=
  firstCompletion h (headDead s h.src) (fld (opcode / 256) 24 8) status [] t

/-- The completion record that an output writes to ring `n`. -/
def recordTo (n : Nat) : Out → Option Record
  | .completion k _ r => if k = n then some r else none
  | _ => none

/-- The completion records of ring `n`, oldest first: those written to the host, then those that wait for the ring. -/
def ringRecords (n : Nat) (s : State) : List Record :=
  s.out.reverse.filterMap (recordTo n) ++ (getRing s n).outbox.map (·.1)

/-- The fields of the state. -/
inductive StateField where
  /-- host interface -/
  | hi
  /-- configuration staging -/
  | cfg
  /-- time -/
  | tm
  /-- memory integrity -/
  | ec
  /-- event log buffer -/
  | ev
  /-- modes and power -/
  | pm
  /-- clocks -/
  | ck
  /-- JTAG -/
  | jtag
  /-- pins -/
  | pins
  /-- vault -/
  | ov
  /-- fuses -/
  | fuses
  /-- Cairn -/
  | cairn
  /-- network ports -/
  | np
  /-- stream intake -/
  | si
  /-- the Erg -/
  | erg
  /-- Caravan -/
  | cv
  /-- topology -/
  | ts
  /-- oscillation -/
  | sc
  /-- alarms -/
  | al
  /-- acquisition rings -/
  | aq
  /-- metering -/
  | am
  /-- statistics counters -/
  | counters
  /-- latched counter halves -/
  | ctrLatch
  /-- boot NOR -/
  | nor
  /-- what has left the device -/
  | out
  /-- free values taken -/
  | freeCtr
  /-- queue of commands -/
  | pending
deriving DecidableEq, Repr

/-- A field stands in `t` as it stood in `s`. -/
def StateField.same : StateField → State → State → Prop
  | .hi, s, t => t.hi = s.hi
  | .cfg, s, t => t.cfg = s.cfg
  | .tm, s, t => t.tm = s.tm
  | .ec, s, t => t.ec = s.ec
  | .ev, s, t => t.ev = s.ev
  | .pm, s, t => t.pm = s.pm
  | .ck, s, t => t.ck = s.ck
  | .jtag, s, t => t.jtag = s.jtag
  | .pins, s, t => t.pins = s.pins
  | .ov, s, t => t.ov = s.ov
  | .fuses, s, t => t.fuses = s.fuses
  | .cairn, s, t => t.cairn = s.cairn
  | .np, s, t => t.np = s.np
  | .si, s, t => t.si = s.si
  | .erg, s, t => t.erg = s.erg
  | .cv, s, t => t.cv = s.cv
  | .ts, s, t => t.ts = s.ts
  | .sc, s, t => t.sc = s.sc
  | .al, s, t => t.al = s.al
  | .aq, s, t => t.aq = s.aq
  | .am, s, t => t.am = s.am
  | .counters, s, t => t.counters = s.counters
  | .ctrLatch, s, t => t.ctrLatch = s.ctrLatch
  | .nor, s, t => t.nor = s.nor
  | .out, s, t => t.out = s.out
  | .freeCtr, s, t => t.freeCtr = s.freeCtr
  | .pending, s, t => t.pending = s.pending

/-- From `s` to `t` no field changes but those listed: the frame of a command. -/
def ChangesOnly (l : List StateField) (s t : State) : Prop := ∀ p, p ∉ l → p.same s t

/-- What dispatching, checking and completing any host command may change: the interface, the log, the counters, a tag's
recorded counter, and what starts or abandons a wake (02 R51, R62; 12 R387; 14 R456). -/
def cmdFields : List StateField := [.hi, .ev, .pm, .ov, .cairn, .erg, .aq, .counters, .out, .freeCtr]

/-- What a reset of the core may change (Table 1-9). The fuses, the boot NOR and the queue are not among it. -/
def resetFields : List StateField := [.hi, .cfg, .tm, .ec, .ev, .pm, .ck, .jtag, .pins, .ov, .cairn, .np, .si, .erg, .cv, .ts, .sc, .al, .aq, .am, .counters, .ctrLatch]

/-- The fields that each command may change; what no rule gives it, it leaves. -/
def mayChange : Instr → List StateField
  | .commandFetch _ _ _ | .hiSqDbWrite _ _ | .hiCqDbWrite _ _ | .hiSqCfgWrite _ _ | .hiCqCfgWrite _ _
  | .hiNqPopRead _ _ _ | .hiNqCfgWrite _ _ | .nqTimeout _ => [.hi, .out]
  | .fenceRelease _ | .flr _ => [.hi]
  | .sysNop _ | .sysIdentify _ | .sysQueryHandle _ _ | .sysSetMode _ _ | .sysReset _ _ | .sysNqMark _ _
  | .sysNqRewind _ _ | .sysNqRelease _ _ _ | .sysClearCounters _ _ | .cfgLoad _ _ _ _ _ | .cfgCommit _
  | .cfgReport _ _ _ _ | .cfgQuery _ _ | .cfgStore _ | .portConfig _ _ | .portGateQuery _ _ | .portLinkStatus _ _
  | .timeRead _ | .timeCmpQuery _ _ | .timeStatus _ | .timeClearCounters _ | .streamInstall _ _ | .streamQuery _ _
  | .streamList _ _ _ | .groupDefine _ _ | .groupDelete _ _ | .groupMembers _ _ _ _ _ | .groupSetTiming _ _
  | .groupQuery _ _ | .groupSessionDefine _ _ | .groupSessionDelete _ _ | .groupSessionEnable _ _ _
  | .groupReadCell _ _ _ _ _ _ | .groupClearCounters _ _ | .groupGconfig _ _ | .caravanJobDefine _ _
  | .caravanLevelConfig _ _ | .caravanEngineRetire _ _ | .caravanQueryJob _ _ | .caravanQueryEngine _ _
  | .caravanClearCounters _ _ | .topoModelLoad _ _ _ _ _ _ | .topoReadResult _ _ _ _ _ | .topoQuery _
  | .topoClearCounters _ | .oscGroupDefine _ _ | .oscReadBands _ _ _ _ _ _ | .oscReadModes _ _ _ _ _ | .oscQuery _ _
  | .oscClearCounters _ _ | .alarmRuleQuery _ _ | .alarmClearCounters _ _ _ | .acqChannelDefine _ _
  | .acqRingDefine _ _ | .acqDelete _ _ | .acqQuery _ _ | .acqGconfig _ _ | .acqClearCounters _ _
  | .meterEnergyRead _ _ _ | .meterEnergySigned _ _ _ _ _ | .meterVstreamDefine _ _ | .meterSave _ | .meterQuery _
  | .meterClearCounters _ _ | .vaultStatus _ | .vaultLifecycle _ _ _ | .vaultOwnerLoad _ _ | .vaultRootGenerate _
  | .vaultTamperClear _ | .vaultTamperConfig _ _ | .vaultDebug _ _ | .vaultGenerate _ _ _ _ _
  | .vaultDerive _ _ _ _ _ _ _ | .vaultImport _ _ | .vaultSeal _ _ _ _ | .vaultExport _ _ _ _ _ _
  | .vaultAttest _ _ _ _ _ | .vaultSlotQuery _ _ | .vaultRandom _ _ | .vaultClearCounters _ | .logSpoolSeek _ _
  | .logRead _ _ _ _ _ | .logFlush _ | .logWrite _ _ _ | .logFaultClear _ | .logMacroQuery _ _
  | .logClearCounters _ _ | .powerDoze _ | .powerWake _ | .powerPadRelease _ _ | .powerConfig _ _ | .powerQuery _
  | .powerClearCounters _ _ => cmdFields
  | .sysCancel _ _ => cmdFields ++ [.np, .cv]
  | .sysFreeze _ | .meterChannelConfig _ _ | .meterCalibrate _ _ | .meterSensorTemp _ _ _ | .meterElementDefine _ _
  | .meterElementEnable _ _ _ | .meterEnergyPreset _ _ _ _ _ | .meterPulseConfig _ _ | .meterBallastDefine _ _
  | .meterConfig _ _ => cmdFields ++ [.am]
  | .sysThaw _ => cmdFields ++ [.tm, .np, .si, .am]
  | .cfgDiscard _ => cmdFields ++ [.cfg]
  | .portSetExact _ _ _ _ _ | .portSetHash _ _ | .portSetVlan _ _ | .portSetIntake _ _ _ | .portSetPtMap _ _ _
  | .portPrpPair _ _ | .portMacsecCfg _ _ | .portSaInstall _ _ | .portSaActivate _ _ _ _ | .portSaDestroy _ _ _ _ _
  | .portGateLoad _ _ | .portClearCounters _ _ => cmdFields ++ [.np]
  | .timeConfig _ _ | .timeSource _ _ _ _ | .timePtpConfig _ _ | .timePpsConfig _ _ | .timePortLatency _ _
  | .timeUtcOffset _ _ _ _ | .timeHoldoverTest _ _ | .timeMainRetest _ => cmdFields ++ [.tm]
  | .timeSet _ _ => cmdFields ++ [.tm, .np, .am]
  | .timeCmpArm _ _ | .timeCmpDisarm _ _ | .oscConfig _ _ => cmdFields ++ [.tm, .ec, .cv, .ts, .sc, .am]
  | .streamRemove _ _ | .streamRekey _ _ _ _ | .streamRelease _ _ | .streamSetTimers _ _ _ _ | .streamGconfig _ _
  | .streamClearCounters _ _ _ => cmdFields ++ [.si]
  | .caravanJobDelete _ _ | .caravanJobBind _ _ _ _ | .caravanEngineRestore _ _ => cmdFields ++ [.cv]
  | .caravanRun _ _ _ => cmdFields ++ [.cv, .ts, .sc]
  | .topoConfig _ _ | .topoCutsetDefine _ _ | .topoCutsetDelete _ _ | .topoBranchForce _ _ _ => cmdFields ++ [.ts]
  | .topoRefactor _ => cmdFields ++ [.cv, .ts]
  | .oscSignalDefine _ _ | .oscSignalDelete _ _ | .oscGroupDelete _ _ | .oscRestart _ _ => cmdFields ++ [.sc]
  | .alarmRuleDefine _ _ | .alarmRuleEnable _ _ _ _ | .alarmRuleDelete _ _ | .alarmLineConfig _ _ | .alarmAck _ _
  | .alarmXtrigConfig _ _ => cmdFields ++ [.al]
  | .alarmForce _ _ _ => cmdFields ++ [.tm, .ec, .al]
  | .acqEnable _ _ _ | .acqTrigger _ _ _ | .logConfig _ _ | .logInject _ _ _ _ _ => cmdFields ++ [.ec]
  | .meterVstreamRemove _ _ => cmdFields ++ [.si, .am]
  | .vaultDestroy _ _ => cmdFields ++ [.np, .si]
  | .powerRefConfig _ _ | .powerRefSwitch _ => cmdFields ++ [.ck]
  | .npPtDbWrite _ _ _ | .ptFrameDelivery _ | .ptTxChainFetch _ _ _ _ _ _ _ _ | .txFrameStart _ _
  | .prpLanLost _ _ | .gateOperative _ => [.hi, .ev, .np, .counters, .out]
  | .npPtCfgWrite _ _ _ => [.hi, .np, .out]
  | .tmFrcLoRead | .amCountLowRead _ _ => [.hi, .tm, .am, .out, .freeCtr]
  | .counterLowRead _ => [.ctrLatch, .out, .freeCtr]
  | .siSelWrite _ => [.hi, .si, .out]
  | .scSelWrite _ => [.hi, .sc, .out]
  | .alSelWrite _ => [.hi, .al, .out]
  | .ovSelWrite _ => [.hi, .ov, .out]
  | .ecSelWrite _ => [.hi, .ec, .out]
  | .evSpoolCurWrite _ | .recordClose _ _ _ | .flushMsExpiry => [.hi, .ev, .counters, .out]
  | .registerWrite _ _ => [.hi, .ec, .ev, .ov, .np, .si, .sc, .al, .counters, .out]
  | .mspiStatus _ | .mspiRead _ _ _ | .mbSubmit _ _ | .mbFetch _ => [.hi, .tm, .ev, .pm, .erg, .aq, .am, .counters, .out, .freeCtr]
  | .rxFrame _ _ _ => [.hi, .ev, .np, .si, .counters, .out]
  | .gateBoundary _ | .prpEntryForget _ _ => [.np]
  | .linkStateChange _ _ _ _ _ => [.hi, .tm, .ev, .pm, .cairn, .np, .counters, .out]
  | .ptpSyncRx _ _ _ _ _ | .ppsInEdge _ | .todSentenceRx _ _ _ => [.hi, .tm, .ev, .pm, .np, .erg, .am, .counters, .out, .freeCtr]
  | .ptpAnnounceRx _ | .sourceRevert | .leapApply => [.hi, .tm, .ev, .counters, .out]
  | .ppsLost => [.hi, .tm, .ev, .pm, .cairn, .np, .erg, .am, .counters, .out, .freeCtr]
  | .sourceLoss _ => [.hi, .tm, .ev, .pm, .cairn, .counters, .out]
  | .cmpFire _ => [.hi, .tm, .ec, .ev, .erg, .cv, .ts, .sc, .aq, .am, .counters, .out, .freeCtr]
  | .siFrameParse _ => [.hi, .ec, .ev, .np, .si, .erg, .counters, .out, .freeCtr]
  | .streamTimerExpiry _ => [.hi, .ev, .si, .counters, .out]
  | .instantOpen _ | .cellHoldExpiry _ _ | .instantRetire _ _ => [.erg]
  | .earlyRelease _ | .deadlineRelease _ | .dispatchDecision => [.hi, .ec, .ev, .erg, .cv, .ts, .sc, .counters, .out, .freeCtr]
  | .publishInstant _ _ => [.hi, .ec, .ev, .np, .erg, .counters, .out, .freeCtr]
  | .itemCommit _ _ _ => [.hi, .tm, .ec, .ev, .pm, .erg, .cv, .ts, .sc, .al, .aq, .am, .counters, .out, .freeCtr]
  | .budgetOver _ => [.hi, .ev, .erg, .cv, .ts, .sc, .counters, .out, .freeCtr]
  | .engineFault _ _ | .fencedSelftestEnd _ _ | .spareSelftest _ _ => [.hi, .ec, .ev, .pm, .erg, .cv, .ts, .sc, .aq, .counters, .out, .freeCtr]
  | .takeoverResume _ | .delayExpiry | .checkpointWrite _ => [.cv]
  | .xtrigInEdge _ _ _ => [.hi, .ec, .ev, .pins, .erg, .al, .aq, .counters, .out, .freeCtr]
  | .aqRecordWrite _ => [.hi, .ec, .ev, .erg, .aq, .counters, .out, .freeCtr]
  | .sdSample _ _ _ _ _ => [.hi, .ev, .am, .counters, .out, .freeCtr]
  | .energyBlockEnd _ _ _ _ _ _ | .tempStale _ => [.hi, .ev, .am, .counters, .out]
  | .pulseStart _ | .pulseEnd _ => [.am]
  | .periodicSave _ => [.hi, .ev, .cairn, .am, .counters, .out]
  | .aliveStamp => [.cairn, .am]
  | .pfwNFall | .resetNQualified _ => [.hi, .tm, .ev, .pm, .pins, .cairn, .np, .si, .erg, .aq, .am, .counters, .out, .freeCtr]
  | .pfwQualified _ => [.hi, .tm, .ev, .pm, .cairn, .am, .counters, .out, .freeCtr]
  | .ballastWriteEnd => resetFields ++ [.out]
  | .pfwNRise | .freezeNAssert _ => [.hi, .ev, .pm, .pins, .erg, .am, .counters, .out, .freeCtr]
  | .zeroizeCause _ | .internalReset | .resetTakesHold | .warmResetTakesHold | .lifecycleWipe | .powerOnDetect _ => resetFields
  | .scrubRead _ _ => [.hi, .ec, .ev, .pm, .cairn, .counters, .out]
  | .evFlushEnd => [.hi, .ev, .cairn, .counters, .out]
  | .opsecTick => [.cairn]
  | .handshakeAnswer _ => [.hi, .tm, .ev, .pm, .cairn, .np, .si, .erg, .cv, .ts, .sc, .al, .aq, .counters, .out, .freeCtr]
  | .handshakeDelayEnd => [.pm]
  | .wakeComplete _ _ => cmdFields ++ [.cfg, .tm, .ec, .ck, .np, .si, .cv, .ts, .sc, .al, .am]
  | .boot _ _ _ _ _ => cmdFields ++ [.cfg, .tm, .ec, .ck, .pins, .np, .si, .cv, .ts, .sc, .al, .am]
  | .finalCompletion _ _ => cmdFields ++ [.cfg, .tm, .ec, .ck, .fuses, .np, .si, .cv, .ts, .sc, .al, .am, .nor]
  | .cairnRelease => [.hi, .ev, .pm, .erg, .aq, .am, .counters, .out, .freeCtr]
  | .mi2cAddressMatch => [.hi, .ev, .pm, .erg, .aq, .counters, .out, .freeCtr]
  | .prpSupervisionTx _ | .ptDescriptorTimeout _ | .ptpPdelayReqRx _ _ _ | .ptpDelayReqRx _ _ => [.np, .counters]
  | .ptpPathDelayRx _ _ | .timeCheckpoint | .residueMismatch | .outputPulseEnd _ => [.tm]
  | .ptpDelayReqTx _ | .ptpMasterAnnounceTx | .ptpMasterSyncTx => [.tm, .np, .counters]
  | .holdoverAgeing | .timeSelftestEnd _ => [.hi, .tm, .ev, .pm, .counters, .out]
  | .integSave => [.tm, .cairn]
  | .duneTick => [.hi, .tm, .ec, .ev, .erg, .cv, .ts, .sc, .aq, .counters, .out, .freeCtr]
  | .vstreamReport _ => [.hi, .ec, .ev, .si, .erg, .am, .counters, .out, .freeCtr]
  | .amendBatchClose _ _ => [.hi, .ec, .ev, .np, .erg, .aq, .counters, .out, .freeCtr]
  | .itemAging _ => [.cv, .counters]
  | .almStbDeferred | .almPulseEnd _ => [.al, .counters]
  | .entropyFail _ | .entropyRetest _ => [.hi, .ev, .ov, .counters, .out]
  | .drbgReseed => [.ov, .counters]
  | .correctionWriteback _ _ => [.hi, .ec, .ev, .counters, .out, .freeCtr]
  | .suspectExpiry _ _ => [.ec]
  | .controlDue _ _ => [.hi, .ec, .ev, .pm, .counters, .out]
  | .watchdogExpiry _ _ => [.hi, .ev, .pm, .counters, .out]
  | .refFail _ _ | .refQualified _ _ | .pllRevert => [.hi, .ev, .pm, .ck, .counters, .out]
  | .jtagExtest _ | .jtagSamplePreload _ | .jtagFrzReg _ | .jtagDebug _ => [.jtag, .out, .freeCtr]
  | .jtagIdcode | .jtagFrzScan _ | .jtagFrzMem _ _ | .jtagBypass _ => [.jtag, .out]
  | .jtagClamp | .jtagHighz => [.jtag]
  | .xtrigInForwardedEdge _ => [.pins]
  | .pdelayTimeout _ => [.tm, .counters]

end Machine

end Sys2Proof
end

