-- ==== Sys2Proof/Certificates/Slice0/Obligations.lean ====
section
/-! DEFINITION. The statements for the provers. -/

open Sys2Proof Sys2Proof.Machine

/-- A step takes the command at the front of the queue and runs it on the state with the rest of the queue (log entry 1: the
queue is the model's). -/
def Obligations.StepRunsTheFrontCommand : Prop :=
  ∀ (c : Instr) (rest : List Instr) (s : State), s.pending = c :: rest → step s = exec c { s with pending := rest }

/-- On an empty queue, with no undefined opcode due, one FRC count passes: the FRC and the fallback clock advance, and nothing
else does; while the clocks are stopped nothing changes (log entry 1: that a step is one count is the model's choice). -/
def Obligations.IdleCountsTheClock : Prop :=
  ∀ s : State, s.pending = [] → (∀ src, undefinedHead s src = false) →
    (timeRuns s = true → step s = .next { s with tm := { s.tm with
      frc := (s.tm.frc + 1) % 2 ^ 64, fallback := s.tm.fallback + s.tm.inc } }) ∧
    (timeRuns s = false → step s = .next s)

/-- An undefined opcode at the head of the source whose turn it is completes BAD_OPCODE with the class byte and sequence 0, first
of the checks of R51; it leaves the head taken and no other trace (log entry 5: the check runs in the idle step). -/
def Obligations.UndefinedOpcodesCompleteBadOpcode : Prop :=
  ∀ (s : State) (src : Src) (p : PacketHead), s.pending = [] → s.pm.mode ≠ .frozen → src.wf = true → undefinedHead s src =
      true →
    headOf s src = some p →
    step s = .next (idle (firstCompletion ⟨src, p.stag, p.indirect, p.fence, p.irq, p.wake, p.authOfs, p.plen, 0, p.bufAddr,
        true, none, []⟩ (headDead s src)
      (fld (p.opcode / 256) 24 8) 0x10 [] (takeHead src s)))

/-- No command of the table ends in a fault or a refusal: exec answers a next state for every command in every state. -/
def Obligations.NoCommandStops : Prop :=
  ∀ (c : Instr) (s : State), ∃ t : State, exec c s = .next t

/-- The values the spec gives for reset: HI_LSW reads BOOT and INVALID (TAMPER_LATCHED and the level of PFW_N in it are the
model's choice, log entry 3), HI_ERR is clear, no handle is outstanding and the sequence starts at 1, the rings and notice
queues are disabled and empty, the counters are 0. The pads in BOOT stand as Table 15-2 has them, held pads as R457 has them,
while the JTAG port drives none; TOD_TXD, QSPI and the management buses are not among State's pads. -/
def Obligations.ResetValues : Prop :=
  lsw State.reset = 7 * 2 ^ 26 ∧ State.reset.hi.offAccess = false ∧ State.reset.hi.lockAccess = false ∧
    State.reset.hi.ringFault = false ∧ State.reset.hi.dmaFault = false ∧ State.reset.hi.nqWidth = false ∧
    State.reset.hi.faultRing = 0 ∧ State.reset.hi.ops = [] ∧ State.reset.hi.seq = 1 ∧ State.reset.hi.mb.cmd = none ∧
    (∀ n, (getRing State.reset n).sqEn = false ∧ (getRing State.reset n).cqEn = false ∧ (getRing State.reset n).sqHead = 0 ∧
      (getRing State.reset n).cqTail = 0) ∧
    (∀ q, (getNq State.reset q).en = false ∧ (getNq State.reset q).w = 0 ∧ (getNq State.reset q).lost = 0) ∧
    (∀ a, tget 0 State.reset.counters a = 0) ∧ State.reset.tm.frc = 0 ∧ State.reset.cfg.staged = none ∧
    State.reset.cfg.activeValid = false ∧ State.reset.pending = [] ∧
    ∀ s : State,
      (s.pm.mode = .boot → (pads s).alm = 0 ∧ (pads s).almStb = false ∧ (pads s).xtrigOut = 0 ∧ (pads s).ppsOut = false ∧
        (pads s).portIdle = List.replicate 5 true ∧ (s.pm.holdAnchor = false → (pads s).pulse = 0 ∧ (pads s).sdClk = false))
            ∧
      (s.pm.holdPorts = true → (pads s).portIdle = List.replicate 5 true) ∧
      (s.pm.holdAnchor = true → (pads s).pulse = s.pm.heldPads % 16 ∧ (pads s).sdClk = bit s.pm.heldPads 4)

/-- The invariants that every step keeps hold at reset. -/
def Obligations.InvariantsHoldAtReset : Prop :=
  FusesOk State.reset ∧ HostOk State.reset

/-- Every step keeps the agreement of the fuses: OWNER_HASH is burned exactly in the lifecycles after BLANK. -/
def Obligations.FusesAgreeAfterEveryStep : Prop :=
  ∀ s t : State, FusesOk s → step s = .next t → FusesOk t

/-- No command changes a fuse but the final completion of an outstanding VAULT.LIFECYCLE, and that makes only a change that
Table 12-6 lists. -/
def Obligations.LifecycleFollowsTheTable : Prop :=
  ∀ (c : Instr) (s t : State), exec c s = .next t → t.fuses = s.fuses ∨
    ((s.fuses.lifecycle, t.fuses.lifecycle) ∈ lifecycleChanges ∧
      ∃ (k : Nat) (fin : Finish) (o : OpEntry) (h : Hdr) (target : Nat) (key : Option Nat), c = .finalCompletion k fin ∧
        findOp s k = some o ∧ o.cmd = .vaultLifecycle h target key ∧ fin.hwFault = false)

/-- Every step keeps the bounds of the host interface: counters of 48 bits with OVF in canonical form, at most 1,024 outstanding
handles, and in every notice queue l ≤ r ≤ w, at most 1,024 held entries, and a mark that is held unless it is lost. -/
def Obligations.HostInterfaceKeepsItsBounds : Prop :=
  ∀ s t : State, HostOk s → step s = .next t → HostOk t

/-- The SYS commands, each with its length, checks and the conditions of its own: the next state is that of its effect, with
its first completion DONE and its RESULT, or ACCEPTED and its operation outstanding under a new handle. -/
def Obligations.SysCommandsComplete : Prop :=
  ∀ (h : Hdr) (s w : State), w = takeHead h.src s →
    (passes h (spec0 0x0000 0) s = true →
      exec (.sysNop h) s = .next (doneWith h 0x0000 [] s w)) ∧
    (passes h (spec0 0x0001 0) s = true →
      exec (.sysIdentify h) s = .next (doneWith h 0x0001 (identity w) s w)) ∧
    (∀ (handle : Nat) (o o' : OpEntry), passes h (spec0 0x0002 4) s = true →
      findOp w handle = some o →
      o' = o.advance (freeBits 64 w) w →
      exec (.sysQueryHandle h handle) s = .next (doneWith h 0x0002 ([handleState w o', 0] ++ leBytes 2 (progress o'))
        s (lookAt handle w))) ∧
    (∀ (handle : Nat) (o o' : OpEntry) (v : State), passes h (spec0 0x0003 4) s = true →
      findOp w handle = some o →
      o' = o.advance (freeBits 64 w) w →
      v = lookAt handle w →
      cancellableOpcodes.contains o'.opcode = true →
      pastCommit v o' = false →
      exec (.sysCancel h handle) s = .next (doneWith h 0x0003 [] s (finalCompletion o' 0x51 [] (if o'.phase ==
        .waking then v else cancelEffect o' v)))) ∧
    (∀ (target : Nat), passes h (specM 0x0010 1 (within 1 3 target) (atTarget target s || modeReachable target s)) s =
      true →
      (atTarget target s = true → exec (.sysSetMode h target) s = .next (doneWith h 0x0010 [] s w)) ∧ (atTarget
        target s = false → runningOp w 0x0010 = false → w.pm.hs = none → s.hi.ops.length < 1024 → exec (.sysSetMode h
        target) s = .next (if s.pm.mode = .provision then (fun v =>
        { v with pm := { v.pm with setMode := some (handleFor h 0x0010 s) } }) (acceptedAs h 0x0010 (.sysSetMode h
        target) .running s) else acceptedAs h 0x0010 (.sysSetMode h target) .committed s))) ∧
    (passes h (spec0 0x0011 0) s = true →
      exec (.sysFreeze h) s = .next (freeze 2 (doneWith h 0x0011 [] s w))) ∧
    (passes h (specM 0x0012 0 true (s.pm.mode == .frozen)) s = true →
      w.pins.freezeN = true →
      exec (.sysThaw h) s = .next (doneWith h 0x0012 [] s (ptpPortsOff (thaw false w)))) ∧
    (∀ (kind : Nat), passes h (specP 0x0013 1 (kind == 0)) s = true →
      exec (.sysReset h kind) s = .next (askWarmReset (doneWith h 0x0013 [] s w))) ∧
    (∀ (q : Nat), passes h (specP 0x0020 1 (q < 32)) s = true →
      exec (.sysNqMark h q) s = .next (doneWith h 0x0020 [] s (setNq q (getNq w q).mark w))) ∧
    (∀ (q : Nat) (n : Nq), passes h (specP 0x0021 1 (q < 32)) s = true →
      (getNq w q).rewind w.tm.frc = (n, true) →
      exec (.sysNqRewind h q) s = .next (doneWith h 0x0021 [] s (if n.threshFires then fireVector (16 + q) (setNq q
        n.settle w) else setNq q n.settle w))) ∧
    (∀ (q count : Nat) (n : Nq), passes h (specP 0x0022 4 (q < 32 && count ≤ 1024)) s = true →
      (getNq w q).release count = (n, true) →
      exec (.sysNqRelease h q count) s = .next (doneWith h 0x0022 [] s (setNq q n w))) ∧
    (∀ (mask : Nat), passes h (spec0 0x0030 4) s = true →
      exec (.sysClearCounters h mask) s = .next (doneWith h 0x0030 [] s
        ({ w with hi := { w.hi with nqs := w.hi.nqs.map (fun e => if bit mask e.1 then (e.1, { e.2 with lost := 0 }) else e) } })))

/-- The CFG commands, each with its length, checks and the conditions of its own: the next state is that of its effect, with
its first completion DONE and its RESULT, or ACCEPTED and its operation outstanding under a new handle. -/
def Obligations.CfgCommandsComplete : Prop :=
  ∀ (h : Hdr) (s w : State), w = takeHead h.src s →
    (∀ (source : Nat) (addr : Nat) (len : Nat) (_img : Image), passes h
      { specM 0x0400 20 (flag source && bufferOk addr && within 4096 67108864 len) (inOpen s) with cfgBusy := true }
      s = true →
      s.hi.ops.length < 1024 →
      exec (.cfgLoad h source addr len _img) s = .next (acceptedAs h 0x0400 (.cfgLoad h source addr len _img)
        .running s)) ∧
    (passes h { specM 0x0401 0 true (inSetup s) with cfgBusy := true } s = true →
      (w.cfg.staged.isNone) = false →
      (stagedInUse w) = false →
      s.hi.ops.length < 1024 →
      exec (.cfgCommit h) s = .next (acceptedAs h 0x0401 (.cfgCommit h) .committed s)) ∧
    (passes h { spec0 0x0402 0 with cfgBusy := true } s = true →
      (stagedInUse w) = false →
      exec (.cfgDiscard h) s = .next (doneWith h 0x0402 [] s ({ w with cfg := { w.cfg with staged := none } }))) ∧
    (∀ (which : Nat) (addr : Nat) (len : Nat), passes h
      { specP 0x0403 20 (flag which && bufferOk addr && len < 2 ^ 32 && whichOk s which) with lenOk := 768 ≤ len } s
      = true →
      s.hi.ops.length < 1024 →
      exec (.cfgReport h which addr len) s = .next (acceptedAs h 0x0403 (.cfgReport h which addr len) .running s)) ∧
    (∀ (which : Nat), passes h (specP 0x0404 1 (flag which && whichOk s which)) s = true →
      exec (.cfgQuery h which) s = .next (doneWith h 0x0404 (let v := if which == 0 then (w.cfg.version, w.cfg.digest12) else (w.cfg.staged.map (fun i => (i.version, i.digest12))).getD (0, 0)
             leBytes 4 v.1 ++ leBytes 12 v.2) s w)) ∧
    (passes h { specM 0x0405 0 true (inSetup s) with auth := .owner, cfgBusy := true } s = true →
      (w.cfg.staged.isNone) = false →
      (stagedInUse w) = false →
      s.hi.ops.length < 1024 →
      exec (.cfgStore h) s = .next (acceptedAs h 0x0405 (.cfgStore h) .committed s))

/-- The PORT commands, each with its length, checks and the conditions of its own: the next state is that of its effect, with
its first completion DONE and its RESULT, or ACCEPTED and its operation outstanding under a new handle. -/
def Obligations.PortCommandsComplete : Prop :=
  ∀ (h : Hdr) (s w : State), w = takeHead h.src s →
    (∀ (p : PortP), passes h (portSpec 0x0800 12 (portOk p) (inSetup s) s) s = true →
      keepsPair p w = true →
      (opsWith w (configsPort p.port) != []) = false →
      s.hi.ops.length < 1024 →
      exec (.portConfig h p) s = .next (acceptedAs h 0x0800 (.portConfig h p) .running s)) ∧
    (∀ (port : Nat) (index : Nat) (en : Nat) (addr : Nat), passes h (portSpec 0x0801 10 (port < 5 && index < 16 &&
      flag en && addr < 2 ^ 48) true s) s = true →
      exec (.portSetExact h port index en addr) s = .next (doneWith h 0x0801 [] s (updPort port (fun t =>
        { t with exact := tset t.exact index (en == 1, addr) }) w))) ∧
    (∀ (p : HashP), passes h (portSpec 0x0802 68 (hashOk p) true s) s = true →
      exec (.portSetHash h p) s = .next (doneWith h 0x0802 [] s (updPort p.port (fun t =>
        { t with hsel := p.hsel, bcast := p.bcast == 1, promisc := p.promisc == 1, hash := p.words }) w))) ∧
    (∀ (p : VlanP), passes h (portSpec 0x0803 (4 + 2 * p.count) (vlanOk p) true s) s = true →
      exec (.portSetVlan h p) s = .next (doneWith h 0x0803 [] s (updPort p.port (fun t =>
        { t with vlanList := p.mode == 1, vids := p.vids }) w))) ∧
    (∀ (port : Nat) (e : List IntakeEntry), passes h (portSpec 0x0804 20 (intakeOk port e) (inSetup s) s) s = true →
      exec (.portSetIntake h port e) s = .next (doneWith h 0x0804 [] s (updPort port (fun t =>
        { t with intake := e }) w))) ∧
    (∀ (port : Nat) (map : Nat), passes h (portSpec 0x0805 8 (port < 5) true s) s = true →
      exec (.portSetPtMap h port map) s = .next (doneWith h 0x0805 [] s (updPort port (fun t =>
        { t with ptMap := map }) w))) ∧
    (∀ (p : PrpP), passes h (portSpec 0x0808 6 (prpOk p) (inSetup s) s) s = true →
      pairAlike w p.pair = true →
      exec (.portPrpPair h p) s = .next (doneWith h 0x0808 [] s (updPrp p.pair (fun x =>
        let y := { x with en := p.en == 1, supMs := p.supMs, forgetMs := p.forgetMs }
        if x.en then y
        else { y with entries := [], silentA := w.tm.frc, silentB := w.tm.frc, heardA := false, heardB := false,
                      lostA := false, lostB := false, supAt := w.tm.frc }) w))) ∧
    (∀ (p : MacsecP), passes h (portOwner 0x0810 20 (macsecOk p) true s) s = true →
      exec (.portMacsecCfg h p) s = .next (doneWith h 0x0810 [] s (updPort p.port (fun t =>
        { t with macsecEn := p.en == 1, validate := p.validate, replay := p.replay, sciPort := p.sciPort, pnThresh := p.pnThresh })
        w))) ∧
    (∀ (p : SaP), passes h (portOwner 0x0811 40 (saOk p) (s.pm.mode != .provision) s) s = true →
      saStatus p w = 0 →
      exec (.portSaInstall h p) s = .next (doneWith h 0x0811 [] s (setSa p w))) ∧
    (∀ (port : Nat) (an : Nat) (nextAn : Nat), passes h (portSpec 0x0812 4 (port < 4 && an < 4 && nextAn < 4) true s)
      s = true →
      (saOf w port 0 0 an).isNone = false →
      exec (.portSaActivate h port an nextAn) s = .next (doneWith h 0x0812 [] s
        ({ w with np := { w.np with ports := tset w.np.ports port ((fun t => { t with activeAn := an, nextAn := nextAn }) (getPort w port)) } })))
            ∧
    (∀ (port : Nat) (dir : Nat) (sc : Nat) (an : Nat), passes h (portOwner 0x0813 4 (scOk port dir sc an) true s) s =
      true →
      ((saOf w port dir sc an).isNone || saNeeded w port dir an) = false →
      exec (.portSaDestroy h port dir sc an) s = .next (doneWith h 0x0813 [] s (updPort port (fun t => if dir == 0
        then { t with txSa := tdel t.txSa an, activeAn := if t.activeAn == an then t.nextAn else t.activeAn } else
        { t with rxSa := tdel t.rxSa (saKey 1 sc an) }) w))) ∧
    (∀ (p : GateP), passes h (portSpec 0x0820 (24 + 8 * p.entries.length) (gateOk p) true s) s = true →
      (gateWaits (getPort w p.port)) = false →
      resourceFits (loadGate p 0 w) 9 = true →
      s.hi.ops.length < 1024 →
      exec (.portGateLoad h p) s = .next (loadGate p (handleFor h 0x0820 s) (acceptedAs h 0x0820 (.portGateLoad h p)
        .running s))) ∧
    (∀ (port : Nat), passes h (portSpec 0x0821 1 (port < 4) true s) s = true →
      exec (.portGateQuery h port) s = .next (doneWith h 0x0821 (gateAnswer port w) s w)) ∧
    (∀ (port : Nat), passes h (portSpec 0x0830 1 (port < 5) true s) s = true →
      exec (.portLinkStatus h port) s = .next (doneWith h 0x0830 (leBytes 4 (pstat (getPort w port)) ++ leBytes 4
        (pcfg w port) ++ leBytes 4 (saTx (getPort w port))) s w)) ∧
    (∀ (mask : Nat), passes h (portSpec 0x0840 1 (mask < 32) true s) s = true →
      exec (.portClearCounters h mask) s = .next (doneWith h 0x0840 [] s (let w := (bitList 5 mask).foldl (fun w p => clearCounters (portCtr p 0) 0x400 w) w
        if mask % 16 == 0 then w else { w with np := { w.np with low := w.np.free } })))

/-- The TIME commands, each with its length, checks and the conditions of its own: the next state is that of its effect, with
its first completion DONE and its RESULT, or ACCEPTED and its operation outstanding under a new handle. -/
def Obligations.TimeCommandsComplete : Prop :=
  ∀ (h : Hdr) (s w : State), w = takeHead h.src s →
    (∀ (p : TimeP), passes h (specM 0x0C00 28 (timeCfgOk p) (inSetup s)) s = true →
      exec (.timeConfig h p) s = .next (doneWith h 0x0C00 [] s (updTether (fun x => { x with p := p }) w))) ∧
    (∀ (primary : Nat) (secondary : Nat) (revertS : Nat), passes h (specM 0x0C01 4 (sourceOk primary secondary
      revertS) (inSetup s)) s = true →
      exec (.timeSource h primary secondary revertS) s = .next (doneWith h 0x0C01 [] s (setSources primary secondary
        revertS w))) ∧
    (∀ (p : PtpP), passes h (specM 0x0C02 20 (ptpOk p) (inSetup s)) s = true →
      (ptpClash p w) = false →
      ((ptpOf w p.inst).busy.isSome) = false →
      s.hi.ops.length < 1024 →
      exec (.timePtpConfig h p) s = .next (markPtp p.inst (some (handleFor h 0x0C02 s)) (acceptedAs h 0x0C02
        (.timePtpConfig h p) .running s))) ∧
    (∀ (p : PpsP), passes h (specM 0x0C03 8 (ppsOk p) (inSetup s)) s = true →
      exec (.timePpsConfig h p) s = .next (doneWith h 0x0C03 [] s (updPps (fun x => { x with p := p }) w))) ∧
    (∀ (p : LatP), passes h (specM 0x0C04 12 (latOk p) (inSetup s)) s = true →
      exec (.timePortLatency h p) s = .next (doneWith h 0x0C04 [] s
        ({ w with tm := { w.tm with lat := tset w.tm.lat p.target (p.rx, if p.target < 5 then p.tx else 0) } }))) ∧
    (passes h (spec0 0x0C08 0) s = true →
      exec (.timeRead h) s = .next (doneWith h 0x0C08 (DT96.bytes (dt96Of (now w)) ++ [w.tm.tq.code]) s w)) ∧
    (∀ (t : DT80), passes h { specP 0x0C09 12 (timeOk t) with auth := .owner } s = true →
      settable w = true →
      exec (.timeSet h t) s = .next (doneWith h 0x0C09 [] s (setDeviceTime t w))) ∧
    (∀ (ofs : Int) (valid : Nat) (leap : Nat), passes h
      { specP 0x0C0A 4 (signedFits 16 ofs && flag valid && leap < 3) with auth := .owner } s = true →
      (ptpSuppliesUtc w) = false →
      exec (.timeUtcOffset h ofs valid leap) s = .next (doneWith h 0x0C0A [] s (let same := w.tm.leap == leap && w.tm.utcOfs == ofs
        { w with tm := { w.tm with utcOfs := ofs, utcValid := (valid == 1), leap := leap,
                                   leapAt := if same then w.tm.leapAt else leapInstant ofs leap w } }))) ∧
    (∀ (p : CmpP), passes h (specP 0x0C10 36 (cmpOk p)) s = true →
      exec (.timeCmpArm h p) s = .next (doneWith h 0x0C10 [] s (armCmp p true w))) ∧
    (∀ (cmp : Nat), passes h (specP 0x0C11 1 (cmp < 16)) s = true →
      exec (.timeCmpDisarm h cmp) s = .next (doneWith h 0x0C11 [] s (disarmCmp cmp w))) ∧
    (∀ (cmp : Nat), passes h (specP 0x0C12 1 (cmp < 16)) s = true →
      exec (.timeCmpQuery h cmp) s = .next (doneWith h 0x0C12 (DT96.bytes (cmpTarget (getCmp w cmp)) ++ leBytes 4
        (getCmp w cmp).fires) s w)) ∧
    (∀ (en : Nat), passes h (specM 0x0C20 1 (flag en) (inCommission s)) s = true →
      exec (.timeHoldoverTest h en) s = .next (doneWith h 0x0C20 [] s (forceHoldover en w))) ∧
    (passes h (spec0 0x0C21 0) s = true →
      w.tm.mainFailed = true →
      (w.tm.retest.isSome) = false →
      s.hi.ops.length < 1024 →
      exec (.timeMainRetest h) s = .next ((fun v => startSelftest
        { v with tm := { v.tm with retest := some (handleFor h 0x0C21 s) } }) (acceptedAs h 0x0C21 (.timeMainRetest
        h) .running s))) ∧
    (passes h (spec0 0x0C30 0) s = true →
      exec (.timeStatus h) s = .next (doneWith h 0x0C30 (leBytes 4 (servoOfs w) ++ leBytes 4 (servoFreq w) ++ leBytes
        4 (holdAgeReg w) ++ leBytes 4 (tmStat w)) s w)) ∧
    (passes h (spec0 0x0C40 0) s = true →
      exec (.timeClearCounters h) s = .next (doneWith h 0x0C40 [] s
        ({ w with counters := w.counters.filter (fun e => !((tmCtr 0) ≤ e.1 && e.1 < (tmCtr 0) + 0x100)) })))

/-- The STREAM commands, each with its length, checks and the conditions of its own: the next state is that of its effect, with
its first completion DONE and its RESULT, or ACCEPTED and its operation outstanding under a new handle. -/
def Obligations.StreamCommandsComplete : Prop :=
  ∀ (h : Hdr) (s w : State), w = takeHead h.src s →
    (∀ (p : StreamP), passes h
      { streamSpec 0x1000 576 (streamOk p) (serving s) with auth := if p.authMode == 0 then .owner else .free, cfgBusy := true }
      s = true →
      installStatus p w = 0 →
      s.hi.ops.length < 1024 →
      exec (.streamInstall h p) s = .next (acceptedAs h 0x1000 (.streamInstall h p) .running s)) ∧
    (∀ (sid : Nat), passes h (streamSpec 0x1001 2 (sid < 16376) (serving s)) s = true →
      ((pendingInstalls w).any (fun q => q.sid == sid)) = false →
      ((getStream w sid).isNone) = false →
      exec (.streamRemove h sid) s = .next (doneWith h 0x1001 [] s (removeStream sid w))) ∧
    (∀ (sid keyNext keyIdNext : Nat), passes h
      { streamSpec 0x1002 8 (sid < 16376 && keyNext < 256 && keyIdNext < 2 ^ 32) (serving s) with auth := .owner } s
      = true →
      rekeyStatus sid keyNext w = 0 →
      exec (.streamRekey h sid keyNext keyIdNext) s = .next (doneWith h 0x1002 [] s (rekey sid keyNext keyIdNext w))) ∧
    (∀ (sid : Nat), passes h { streamSpec 0x1003 2 (sid < 16376) (serving s) with auth := .owner } s = true →
      ((getStream w sid).map (·.state) != some .quarantined) = false →
      exec (.streamRelease h sid) s = .next (doneWith h 0x1003 [] s (let met := (getStream w sid).any (fun x => x.failFrc == some w.tm.frc)
        let w := setStreamState sid .listening
          (updStream sid (fun x => { x.clear with failCur := 0, failPrev := 0, spdu := none, failFrc := none }) w)
        if met then failStream sid w else w))) ∧
    (∀ (sid : Nat), passes h (streamSpec 0x1004 2 (sid < 16384) (inOpen s)) s = true →
      exec (.streamQuery h sid) s = .next (doneWith h 0x1004 (streamAnswer sid w) s w)) ∧
    (∀ (sid : Nat) (staleN : Nat) (lostN : Nat), passes h (streamSpec 0x1005 6 (sid < 16384 && within 1 255 staleN &&
      within (staleN + 1) 65535 lostN) (serving s)) s = true →
      (getStream w sid).isNone = false →
      exec (.streamSetTimers h sid staleN lostN) s = .next (doneWith h 0x1005 [] s (updStream sid (fun x =>
        { x with staleN := staleN, lostN := lostN }) w))) ∧
    (∀ (addr : Nat) (len : Nat), passes h
      { streamSpec 0x1006 12 (bufferOk addr && len < 2 ^ 32) (inOpen s) with lenOk := 16384 ≤ len } s = true →
      s.hi.ops.length < 1024 →
      exec (.streamList h addr len) s = .next (acceptedAs h 0x1006 (.streamList h addr len) .running s)) ∧
    (∀ (p : SiP), passes h { streamSpec 0x1010 6 (siOk p) (inCommission s) with cfgBusy := true } s = true →
      admitted (setSi p w) = true →
      exec (.streamGconfig h p) s = .next (doneWith h 0x1010 [] s
        ({ w with si := { w.si with nq := p.nq, tagTolUs := p.tagTolUs, burstUs := p.burstUs } }))) ∧
    (∀ (first : Nat) (count : Nat), passes h (streamSpec 0x1020 4 (first < 16384 && first + count ≤ 16384) (inOpen s))
      s = true →
      exec (.streamClearCounters h first count) s = .next (doneWith h 0x1020 [] s (if count == 0 then
          let w := clearCounters (siCtr 0) 0x100 w
          { w with si := { w.si with high := w.si.pipes.map (fun e => (e.1, e.2.length)) } }
        else clearCounters (strCtr first 0) (0x40 * count) w)))

/-- The GROUP commands, each with its length, checks and the conditions of its own: the next state is that of its effect, with
its first completion DONE and its RESULT, or ACCEPTED and its operation outstanding under a new handle. -/
def Obligations.GroupCommandsComplete : Prop :=
  ∀ (h : Hdr) (s w : State), w = takeHead h.src s →
    (∀ (p : GroupP), passes h (groupCfg 0x1400 36 (groupOk p) s) s = true →
      (groupLive w p.gid) = false →
      (groupBusy w p.gid) = false →
      s.hi.ops.length < 1024 →
      exec (.groupDefine h p) s = .next (acceptedAs h 0x1400 (.groupDefine h p) .running s)) ∧
    (∀ (gid : Nat), passes h (groupCfg 0x1401 1 (gid < 64) s) s = true →
      (groupLive w gid || (getGroup w gid).any (·.shed)) = true →
      groupReferred w gid = false →
      groupBusy w gid = false →
      exec (.groupDelete h gid) s = .next (doneWith h 0x1401 [] s (reMode (endGroup gid (discardOpen gid w))))) ∧
    (∀ (gid : Nat) (op : Nat) (count : Nat) (sids : List Nat), passes h (groupCfg 0x1402 (4 + 2 * count) (gid < 64 &&
      flag op && within 1 2046 count && sids.length == count && sids.all (· < 16384) && sids.eraseDups.length ==
      count) s) s = true →
      membersStatus gid op sids w = 0 →
      s.hi.ops.length < 1024 →
      exec (.groupMembers h gid op count sids) s = .next (acceptedAs h 0x1402 (.groupMembers h gid op count sids)
        .running s)) ∧
    (∀ (p : TimingP), passes h (groupCfg 0x1403 20 (p.gid < 64 && timingOk 1 p.expect p.windowUs p.horizonUs
      p.lateSpanUs p.amendMs) s) s = true →
      timingStatus p w = 0 →
      s.hi.ops.length < 1024 →
      exec (.groupSetTiming h p) s = .next (acceptedAs h 0x1403 (.groupSetTiming h p) .running s)) ∧
    (∀ (gid : Nat), passes h (groupSpec 0x1404 1 (gid < 64) (inOpen s)) s = true →
      exec (.groupQuery h gid) s = .next (doneWith h 0x1404 (groupAnswer gid w) s w)) ∧
    (∀ (p : SessionP), passes h (groupCfg 0x1408 144 (sessionOk p) s) s = true →
      sessionStatus p w = 0 →
      s.hi.ops.length < 1024 →
      exec (.groupSessionDefine h p) s = .next (acceptedAs h 0x1408 (.groupSessionDefine h p) .running s)) ∧
    (∀ (session : Nat), passes h (groupCfg 0x1409 1 (session < 128) s) s = true →
      (tfind w.erg.sessions session).isNone = false →
      exec (.groupSessionDelete h session) s = .next (doneWith h 0x1409 [] s
        ({ w with erg := { w.erg with sessions := tdel w.erg.sessions session } }))) ∧
    (∀ (session : Nat) (en : Nat), passes h (groupCfg 0x140A 2 (session < 128 && flag en) s) s = true →
      sessionEnableStatus session en w = 0 →
      exec (.groupSessionEnable h session en) s = .next (doneWith h 0x140A [] s (enableSession session (en == 1) w))) ∧
    (∀ (gid : Nat) (sid : Nat) (index : Nat) (addr : Nat) (len : Nat), passes h
      { groupSpec 0x1410 28 (gid < 64 && sid < 16384 && index < 2 ^ 40 && bufferOk addr && len < 2 ^ 32) (serving s) with lenOk := 352 ≤ len }
      s = true →
      readable w gid index = true →
      s.hi.ops.length < 1024 →
      exec (.groupReadCell h gid sid index addr len) s = .next (acceptedAs h 0x1410 (.groupReadCell h gid sid index
        addr len) .running s)) ∧
    (∀ (mask : Nat), passes h (groupSpec 0x1420 8 (mask < 2 ^ 64) (serving s)) s = true →
      exec (.groupClearCounters h mask) s = .next (doneWith h 0x1420 [] s (if mask == 0 then
          let w := clearCounters 0x104000 0x1000 w
          { w with erg := { w.erg with low := w.erg.free } }
        else (bitList 64 mask).foldl (fun w g => clearCounters (grpCtr g 0) 0x80 w) w))) ∧
    (∀ (p : ErgP), passes h { groupSpec 0x1421 8 (ergOk p) (inCommission s) with cfgBusy := true } s = true →
      admitted (setErg p w) = true →
      exec (.groupGconfig h p) s = .next (doneWith h 0x1421 [] s
        ({ w with erg := { w.erg with nq := p.nq, headroom := p.headroom, lowMark := p.lowMark } })))

/-- The CARAVAN commands, each with its length, checks and the conditions of its own: the next state is that of its effect, with
its first completion DONE and its RESULT, or ACCEPTED and its operation outstanding under a new handle. -/
def Obligations.CaravanCommandsComplete : Prop :=
  ∀ (h : Hdr) (s w : State), w = takeHead h.src s →
    (∀ (p : JobP), passes h
      { caravanSpec 0x1800 (16 + 32 * p.nodes.length) (jobOk p) (serving s) with cfgBusy := true } s = true →
      ((getJob w p.job).isSome || !jobFits p w) = false →
      (jobBusy w p.job) = false →
      s.hi.ops.length < 1024 →
      exec (.caravanJobDefine h p) s = .next (acceptedAs h 0x1800 (.caravanJobDefine h p) .running s)) ∧
    (∀ (job : Nat), passes h { caravanSpec 0x1801 2 (job < 1024) (serving s) with cfgBusy := true } s = true →
      jobDeleteStatus job w = 0 →
      exec (.caravanJobDelete h job) s = .next (doneWith h 0x1801 [] s (reMode
        { w with cv := { w.cv with jobs := tdel w.cv.jobs job } }))) ∧
    (∀ (job : Nat) (gid : Nat) (en : Nat), passes h
      { caravanSpec 0x1802 4 (job < 1024 && gid < 64 && flag en) (serving s) with cfgBusy := true } s = true →
      bindJobStatus job gid en w = 0 →
      s.hi.ops.length < 1024 →
      exec (.caravanJobBind h job gid en) s = .next (acceptedAs h 0x1802 (.caravanJobBind h job gid en) .running s)) ∧
    (∀ (job : Nat) (arg : Nat), passes h (caravanSpec 0x1803 8 (job < 1024 && arg < 2 ^ 32) (serving s)) s = true →
      runStatus job w = 0 →
      s.hi.ops.length < 1024 →
      exec (.caravanRun h job arg) s = .next ((fun v => (startInst job (runTrigger arg (some (handleFor h 0x1803 s))
        v) v).2) (acceptedAs h 0x1803 (.caravanRun h job arg) .running s))) ∧
    (∀ (p : LevelP), passes h { caravanSpec 0x1808 52 (levelsOk p) (inCommission s) with cfgBusy := true } s = true →
      (runningOp w 0x1808) = false →
      s.hi.ops.length < 1024 →
      exec (.caravanLevelConfig h p) s = .next (acceptedAs h 0x1808 (.caravanLevelConfig h p) .running s)) ∧
    (∀ (engine : Nat), passes h (caravanSpec 0x1810 1 (engine < 66) (serving s)) s = true →
      ((getEngine w engine).st == .retired || (getEngine w engine).st == .off) = false →
      ((getEngine w engine).st == .selftest || engineOp w) = false →
      s.hi.ops.length < 1024 →
      exec (.caravanEngineRetire h engine) s = .next (acceptedAs h 0x1810 (.caravanEngineRetire h engine) .running s)) ∧
    (∀ (engine : Nat), passes h (caravanSpec 0x1811 1 (engine < 66) (serving s)) s = true →
      ((getEngine w engine).st != .retired) = false →
      (engineOp w) = false →
      s.hi.ops.length < 1024 →
      exec (.caravanEngineRestore h engine) s = .next ((fun v => updEngine engine (fun e =>
        { e with st := .selftest, on := true, busy := some (handleFor h 0x1811 s) }) v) (acceptedAs h 0x1811
        (.caravanEngineRestore h engine) .running s))) ∧
    (∀ (job : Nat) (x : Job), passes h (caravanSpec 0x1818 2 (job < 1024) (inOpen s)) s = true →
      getJob w job = some x →
      exec (.caravanQueryJob h job) s = .next (doneWith h 0x1818 ([(w.cv.insts.filter (fun i => i.job ==
        job)).length, x.bound.head?.getD 0xFF] ++ leBytes 4 x.seq ++ leBytes 2 (listSum (x.p.nodes.map
        (·.residentPages)))) s w)) ∧
    (∀ (engine : Nat), passes h (caravanSpec 0x1819 1 (engine < 66) (inOpen s)) s = true →
      exec (.caravanQueryEngine h engine) s = .next (doneWith h 0x1819 (engineAnswer engine w) s w)) ∧
    (∀ (mask : Nat), passes h (caravanSpec 0x1820 128 (mask < 2 ^ 1024) (serving s)) s = true →
      exec (.caravanClearCounters h mask) s = .next (doneWith h 0x1820 [] s (if mask == 0 then clearCounters (msCtr
        0) 0x40 (clearCounters 0x107000 0x40 w) else (bitList 1024 mask).foldl (fun w j => clearCounters (jobCtr j 0)
        0x20 w) w)))

/-- The TOPO commands, each with its length, checks and the conditions of its own: the next state is that of its effect, with
its first completion DONE and its RESULT, or ACCEPTED and its operation outstanding under a new handle. -/
def Obligations.TopoCommandsComplete : Prop :=
  ∀ (h : Hdr) (s w : State), w = takeHead h.src s →
    (∀ (addr : Nat) (len : Nat) (_sigOk : Bool) (_fetchOk : Bool) (_m : ModelP), passes h
      { topoSpec 0x1C00 12 (bufferOk addr && len < 2 ^ 32) (inCommission s) with cfgBusy := true } s = true →
      (w.ts.refac.isSome || runningOp w 0x1C00) = false →
      s.hi.ops.length < 1024 →
      exec (.topoModelLoad h addr len _sigOk _fetchOk _m) s = .next (acceptedAs h 0x1C00 (.topoModelLoad h addr len
        _sigOk _fetchOk _m) .running s)) ∧
    (∀ (p : TopoP), passes h { topoSpec 0x1C01 12 (topoOk p) (inCommission s) with cfgBusy := true } s = true →
      bindingsOk (setTopo p w) = true →
      admitted (setTopo p w) = true →
      exec (.topoConfig h p) s = .next (doneWith h 0x1C01 [] s (let w' := { w with ts := { w.ts with p := p } }
        if p.gid == w.ts.p.gid then w' else clearHistory w'))) ∧
    (∀ (p : CutP), passes h
      { topoSpec 0x1C02 (28 + 2 * p.branches.length) (cutOk p) (inCommission s) with cfgBusy := true } s = true →
      ((tfind w.ts.cuts p.cut).isSome || !cutNames w p) = false →
      (1024 < cutBranches w + p.branches.length) = false →
      exec (.topoCutsetDefine h p) s = .next (doneWith h 0x1C02 [] s
        ({ w with ts := { w.ts with cuts := tset w.ts.cuts p.cut (Cut.fresh p w.cv.decisions) } }))) ∧
    (∀ (cut : Nat), passes h { topoSpec 0x1C03 1 (cut < 64) (inCommission s) with cfgBusy := true } s = true →
      (tfind w.ts.cuts cut).isNone = false →
      exec (.topoCutsetDelete h cut) s = .next (doneWith h 0x1C03 [] s
        ({ w with ts := { w.ts with cuts := tdel w.ts.cuts cut } }))) ∧
    (∀ (branch : Nat) (action : Nat), passes h
      { topoSpec 0x1C08 4 (branch < 2 ^ 16 && action ≤ 2) (serving s) with auth := .owner } s = true →
      forceStatus branch action w = 0 →
      exec (.topoBranchForce h branch action) s = .next (doneWith h 0x1C08 [] s
        ({ w with ts := { w.ts with forces := if action == 0 then tdel w.ts.forces branch else tset w.ts.forces branch (action == 2) } })))
            ∧
    (passes h (topoSpec 0x1C09 0 true (serving s)) s = true →
      (w.ts.refacNext.isSome) = false →
      s.hi.ops.length < 1024 →
      exec (.topoRefactor h) s = .next (askRefac (handleFor h 0x1C09 s) (acceptedAs h 0x1C09 (.topoRefactor h)
        .running s))) ∧
    (∀ (index : Nat) (sections : Nat) (addr : Nat) (len : Nat), passes h
      { topoSpec 0x1C10 24 (index < 2 ^ 64 && sections < 8 && bufferOk addr && len < 2 ^ 32) (serving s) with lenOk := (pickResult s index).all (fun r => resultBytes r sections ≤ len) }
      s = true →
      (pickResult w index).isSome = true →
      s.hi.ops.length < 1024 →
      exec (.topoReadResult h index sections addr len) s = .next ((pinResult h index sections addr len) (handleFor h
        0x1C10 s) (acceptedAs h 0x1C10 (.topoReadResult h index sections addr len) .running s))) ∧
    (passes h (topoSpec 0x1C11 0 true (serving s)) s = true →
      exec (.topoQuery h) s = .next (doneWith h 0x1C11 (topoAnswer w) s w)) ∧
    (passes h (topoSpec 0x1C20 0 true (serving s)) s = true →
      exec (.topoClearCounters h) s = .next (doneWith h 0x1C20 [] s
        ({ w with counters := w.counters.filter (fun e => !(0x108000 ≤ e.1 && e.1 < 0x108000 + 0x80)) })))

/-- The OSC commands, each with its length, checks and the conditions of its own: the next state is that of its effect, with
its first completion DONE and its RESULT, or ACCEPTED and its operation outstanding under a new handle. -/
def Obligations.OscCommandsComplete : Prop :=
  ∀ (h : Hdr) (s w : State), w = takeHead h.src s →
    (∀ (p : OscP), passes h { oscSpec 0x2000 20 (oscOk p) (inCommission s) with cfgBusy := true } s = true →
      (!oscRateOk w p.gid || !slowJobOk w p.slowJob || !bindingsOk (setOsc p w)) = false →
      admitted (applyOsc p w) = true →
      exec (.oscConfig h p) s = .next (doneWith h 0x2000 [] s (applyOsc p w))) ∧
    (∀ (p : SigP), passes h { oscSpec 0x2001 20 (sigOk p) (serving s) with cfgBusy := true } s = true →
      sigFits p w = true →
      (oscBusy w (definesSignal p.sig p.group)) = false →
      s.hi.ops.length < 1024 →
      exec (.oscSignalDefine h p) s = .next (acceptedAs h 0x2001 (.oscSignalDefine h p) .running s)) ∧
    (∀ (sig : Nat), passes h { oscSpec 0x2002 2 (sig < 1024) (serving s) with cfgBusy := true } s = true →
      ((tfind w.sc.sigs sig).isNone || isRef w sig || !oscGroupsFit (dropSig sig w)) = false →
      exec (.oscSignalDelete h sig) s = .next (doneWith h 0x2002 [] s
        ({ w with sc := { w.sc with sigs := tdel w.sc.sigs sig } }))) ∧
    (∀ (p : OscGroupP), passes h { oscSpec 0x2008 16 (oscGroupOk p) (serving s) with cfgBusy := true } s = true →
      groupFits p (groupSigs w p.group).length = true →
      (oscBusy w (definesOscGroup p.group)) = false →
      s.hi.ops.length < 1024 →
      exec (.oscGroupDefine h p) s = .next (acceptedAs h 0x2008 (.oscGroupDefine h p) .running s)) ∧
    (∀ (group : Nat), passes h { oscSpec 0x2009 1 (group < 128) (serving s) with cfgBusy := true } s = true →
      ((tfind w.sc.groups group).isNone || oscGroupUsed w group) = false →
      exec (.oscGroupDelete h group) s = .next (doneWith h 0x2009 [] s
        ({ w with sc := { w.sc with groups := tdel w.sc.groups group } }))) ∧
    (∀ (first : Nat) (count : Nat) (depth : Nat) (addr : Nat) (len : Nat), passes h
      { oscSpec 0x2010 20 (within 1 1024 count && first + count ≤ 1024 && within 1 8 depth && bufferOk addr && len < 2 ^ 32) (serving s) with lenOk := 152 * count * depth ≤ len }
      s = true →
      s.hi.ops.length < 1024 →
      exec (.oscReadBands h first count depth addr len) s = .next (acceptedAs h 0x2010 (.oscReadBands h first count
        depth addr len) .running s)) ∧
    (∀ (group : Nat) (depth : Nat) (addr : Nat) (len : Nat), passes h (oscSpec 0x2011 16 (group < 128 && within 1 16
      depth && bufferOk addr && len < 2 ^ 32) (serving s)) s = true →
      modesStatus group depth w = 0 →
      s.hi.ops.length < 1024 →
      exec (.oscReadModes h group depth addr len) s = .next (acceptedAs h 0x2011 (.oscReadModes h group depth addr
        len) .running s)) ∧
    (∀ (group : Nat), passes h (oscSpec 0x2018 1 (group < 128 || group == 0xFF) (serving s)) s = true →
      (group != 0xFF && (tfind w.sc.groups group).isNone) = false →
      exec (.oscRestart h group) s = .next (doneWith h 0x2018 [] s (if group == 0xFF then restartAll w else
        restartGroup group w))) ∧
    (∀ (group : Nat), passes h (oscSpec 0x2019 1 (group < 128) (inOpen s)) s = true →
      exec (.oscQuery h group) s = .next (doneWith h 0x2019 (oscAnswer group w) s w)) ∧
    (∀ (mask : Nat), passes h (oscSpec 0x2020 16 (mask < 2 ^ 128) (serving s)) s = true →
      exec (.oscClearCounters h mask) s = .next (doneWith h 0x2020 [] s (if mask == 0 then clearCounters 0x109000
        0x30 w else (bitList 128 mask).foldl (fun w g => clearCounters (oscCtr g 0) 0x20 w) w)))

/-- The ALARM commands, each with its length, checks and the conditions of its own: the next state is that of its effect, with
its first completion DONE and its RESULT, or ACCEPTED and its operation outstanding under a new handle. -/
def Obligations.AlarmCommandsComplete : Prop :=
  ∀ (h : Hdr) (s w : State), w = takeHead h.src s →
    (∀ (p : RuleP), passes h { alarmSpec 0x2400 48 (ruleOk p) (serving s) with auth := .owner, cfgBusy := true } s =
      true →
      ((getRule w p.rule).any (·.en) || !ruleNames w p) = false →
      exec (.alarmRuleDefine h p) s = .next (doneWith h 0x2400 [] s (defineRule p w))) ∧
    (∀ (first : Nat) (count : Nat) (en : Nat), passes h
      { alarmSpec 0x2401 8 (first < 4096 && within 1 4096 count && first + count ≤ 4096 && flag en) (serving s) with auth := .owner, cfgBusy := true }
      s = true →
      ruleEnableStatus first count en w = 0 →
      exec (.alarmRuleEnable h first count en) s = .next (doneWith h 0x2401 [] s (enableRules first count (en == 1)
        w))) ∧
    (∀ (rule : Nat), passes h { alarmSpec 0x2402 2 (rule < 4096) (serving s) with cfgBusy := true } s = true →
      ((getRule w rule).all (·.en)) = false →
      exec (.alarmRuleDelete h rule) s = .next (doneWith h 0x2402 [] s (dropRule rule (adminClear rule 1 w)))) ∧
    (∀ (rule : Nat), passes h (alarmSpec 0x2403 2 (rule < 4096) (inOpen s)) s = true →
      exec (.alarmRuleQuery h rule) s = .next (doneWith h 0x2403 (ruleAnswer rule w) s w)) ∧
    (∀ (p : LineP), passes h
      { alarmSpec 0x2408 8 (p.line < 8 && p.mode ≤ 2 && within 1 10000000 p.pulseUs) (inCommission s) with auth := .owner, cfgBusy := true }
      s = true →
      exec (.alarmLineConfig h p) s = .next (doneWith h 0x2408 [] s (setLine p w))) ∧
    (∀ (mask : Nat), passes h (alarmSpec 0x2409 1 (mask < 256) (serving s)) s = true →
      exec (.alarmAck h mask) s = .next (doneWith h 0x2409 [latchedLines (ackLines mask w)] s (ackLines mask w))) ∧
    (∀ (rule : Nat) (action : Nat), passes h (alarmSpec 0x240A 4 (rule < 4096 && action ≤ 2) (inCommission s)) s =
      true →
      (getRule w rule).any (·.p.test) = true →
      exec (.alarmForce h rule action) s = .next (doneWith h 0x240A [] s (forceRule rule action w))) ∧
    (∀ (p : XtrigP), passes h { alarmSpec 0x2410 16 (xtrigOk p) (inCommission s) with cfgBusy := true } s = true →
      exec (.alarmXtrigConfig h p) s = .next (doneWith h 0x2410 [] s ({ w with al := { w.al with x := p } }))) ∧
    (∀ (first : Nat) (count : Nat), passes h (alarmSpec 0x2420 4 (first < 4096 && first + count ≤ 4096) (serving s)) s
      = true →
      exec (.alarmClearCounters h first count) s = .next (doneWith h 0x2420 [] s (if count == 0 then clearCounters
        0x10B000 0x40 w else clearCounters (ruleCtr first 0) (0x20 * count) w)))

/-- The ACQ commands, each with its length, checks and the conditions of its own: the next state is that of its effect, with
its first completion DONE and its RESULT, or ACCEPTED and its operation outstanding under a new handle. -/
def Obligations.AcqCommandsComplete : Prop :=
  ∀ (h : Hdr) (s w : State), w = takeHead h.src s →
    (∀ (p : ChanP), passes h { acqSpec 0x2800 28 (chanOk p) (serving s) with cfgBusy := true } s = true →
      chanFree p w = true →
      (acqBusy w p.ch) = false →
      s.hi.ops.length < 1024 →
      exec (.acqChannelDefine h p) s = .next (acceptedAs h 0x2800 (.acqChannelDefine h p) .running s)) ∧
    (∀ (p : AqRingP), passes h { acqSpec 0x2801 28 (ringOk p) (serving s) with cfgBusy := true } s = true →
      ringFits p w = true →
      (acqBusy w p.ch) = false →
      s.hi.ops.length < 1024 →
      exec (.acqRingDefine h p) s = .next (acceptedAs h 0x2801 (.acqRingDefine h p) .running s)) ∧
    (∀ (ch : Nat) (en : Nat), passes h (acqSpec 0x2802 2 (ch < 16 && flag en) (serving s)) s = true →
      acqEnableStatus ch en w = 0 →
      exec (.acqEnable h ch en) s = .next (doneWith h 0x2802 [] s (enableChan ch (en == 1) w))) ∧
    (∀ (ch : Nat), passes h { acqSpec 0x2803 1 (ch < 16) (serving s) with cfgBusy := true } s = true →
      ((getChan w ch).all (·.en)) = false →
      (acqBusy w ch) = false →
      exec (.acqDelete h ch) s = .next (doneWith h 0x2803 [] s
        ({ w with aq := { w.aq with chans := tdel w.aq.chans ch, rings := w.aq.rings.filter (fun e => e.1 / 4 != ch) } }))) ∧
    (∀ (mask : Nat) (d : DT80), passes h (acqSpec 0x2808 16 (mask < 2 ^ 16 && timeOk d) (serving s)) s = true →
      exec (.acqTrigger h mask d) s = .next ((fun r => doneWith h 0x2808 (leBytes 2 r.1.1 ++ leBytes 2 r.1.2.1 ++
        leBytes 2 r.1.2.2) s r.2) (hostTrigger (bitList 16 mask) (if d.sec == 0 && d.ns == 0 then now w else
        DT80.toNs d * 2 ^ 16) w))) ∧
    (∀ (ch : Nat), passes h (acqSpec 0x2809 1 (ch < 16) (inOpen s)) s = true →
      exec (.acqQuery h ch) s = .next (doneWith h 0x2809 (acqAnswer ch w) s w)) ∧
    (∀ (nq : Nat), passes h (acqSpec 0x2810 1 (nq < 32) (inCommission s)) s = true →
      exec (.acqGconfig h nq) s = .next (doneWith h 0x2810 [] s ({ w with aq := { w.aq with nq := nq } }))) ∧
    (∀ (mask : Nat), passes h (acqSpec 0x2820 2 (mask < 2 ^ 16) (serving s)) s = true →
      exec (.acqClearCounters h mask) s = .next (doneWith h 0x2820 [] s (if mask == 0 then
          let w := clearCounters 0x10C000 0x400 w
          { w with aq := { w.aq with lowKib := freeKib w } }
        else (bitList 16 mask).foldl (fun w c => clearCounters (0x10C400 + 0x80 * c) 0x80 w) w)))

/-- The METER commands, each with its length, checks and the conditions of its own: the next state is that of its effect, with
its first completion DONE and its RESULT, or ACCEPTED and its operation outstanding under a new handle. -/
def Obligations.MeterCommandsComplete : Prop :=
  ∀ (h : Hdr) (s w : State), w = takeHead h.src s →
    (∀ (p : MChanP), passes h { meterOwner 0x2C00 12 (mchanOk p) s with cfgBusy := true } s = true →
      (chanInUse w p.ch || (p.sensor < 2 && !noTemp (getMChan w p.ch).c)) = false →
      exec (.meterChannelConfig h p) s = .next (doneWith h 0x2C00 [] s (setMChan p w))) ∧
    (∀ (p : CalP), passes h { meterOwner 0x2C01 44 (calOk p) s with cfgBusy := true } s = true →
      (chanInUse w p.ch || ((getMChan w p.ch).p.sensor < 2 && !noTemp p)) = false →
      exec (.meterCalibrate h p) s = .next (doneWith h 0x2C01 [] s (setCal p w))) ∧
    (∀ (ch : Nat) (t : Int), passes h
      { meterSpec 0x2C02 4 (ch < 12 && signedFits 16 t) (servingDoze s) s with domOk := anchorOn s } s = true →
      exec (.meterSensorTemp h ch t) s = .next (doneWith h 0x2C02 [] s (updMChan ch (fun c =>
        let c := { c with hostTemp := some t, tempAt := some w.tm.frc }
        if c.p.tempSrc == 2 then { c with temp := some t, tempStale := false } else c) w))) ∧
    (∀ (p : ElemP), passes h { meterOwner 0x2C08 16 (elemValuesOk p) s with cfgBusy := true } s = true →
      ((getElem' w p.el).en || !elemLimits p w) = false →
      exec (.meterElementDefine h p) s = .next (doneWith h 0x2C08 [] s (placeElem p w))) ∧
    (∀ (el en : Nat) (v : State), passes h (meterOwner 0x2C09 2 (el < 4 && flag en) s) s = true →
      (getElem' w el).defd = true →
      (en == 1 && !elemLimits (getElem' w el).p w) = false →
      v = (if (getElem' w el).en && en != 1 then closeBlock el 64 w else w) →
      exec (.meterElementEnable h el en) s = .next (doneWith h 0x2C09 [] s (updElem el (fun x => if x.en == (en == 1)
        then x else { x with en := en == 1, running := (en == 1) && energyRuns v, blockAt := v.tm.frc, cycle := 0 })
        v))) ∧
    (∀ (el : Nat) (reg : Nat), passes h
      { meterSpec 0x2C0A 2 (el < 4 && reg < 8) (inOpen s || s.pm.mode == .doze) s with domOk := anchorOn s } s = true
      →
      exec (.meterEnergyRead h el reg) s = .next (doneWith h 0x2C0A (leBytes 8 (elemReg w el reg).count ++ leBytes 4
        (elemReg w el reg).roll ++ leBytes 4 (amElStat w el)) s w)) ∧
    (∀ (el : Nat) (reg : Nat) (rollover : Nat) (count : Nat), passes h (meterOwner 0x2C0C 16 (el < 4 && reg < 8 &&
      rollover < 2 ^ 32 && count < 2 ^ 64) s) s = true →
      (10 ^ (getElem' w el).p.digits ≤ count || w.am.halted) = false →
      exec (.meterEnergyPreset h el reg rollover count) s = .next (doneWith h 0x2C0C [] s (presetReg el reg rollover
        count w))) ∧
    (∀ (mask : Nat) (slot : Nat) (addr : Nat) (len : Nat), passes h
      { meterSpec 0x2C0B 20 (mask < 16 && slot < 256 && bufferOk addr && len < 2 ^ 32) (servingDoze s) s with domOk := anchorOn s, lenOk := 512 ≤ len }
      s = true →
      signedStatus mask slot len w = 0 →
      s.hi.ops.length < 1024 →
      exec (.meterEnergySigned h mask slot addr len) s = .next (acceptedAs h 0x2C0B (.meterEnergySigned h mask slot
        addr len) .running s)) ∧
    (∀ (p : PulseP), passes h (meterOwner 0x2C10 12 (pulseOk p) s) s = true →
      exec (.meterPulseConfig h p) s = .next (doneWith h 0x2C10 [] s (setPulse p.pulse
        { getPulse w p.pulse with p := p, residue := 0, backlog := [], prev := none, high := false, ovfOpen := false }
        w))) ∧
    (∀ (p : VsP), passes h (meterCfg 0x2C18 12 (vsOk p) s) s = true →
      (twoPhase p.seqMask w) = false →
      (vsPending w p.vs) = false →
      s.hi.ops.length < 1024 →
      exec (.meterVstreamDefine h p) s = .next (acceptedAs h 0x2C18 (.meterVstreamDefine h p) .running s)) ∧
    (∀ (vs : Nat), passes h (meterCfg 0x2C19 1 (vs < 8) s) s = true →
      ((tfind w.am.vss vs).isNone || w.erg.groups.any (fun g => g.2.members.contains (16376 + vs))) = false →
      (vsPending w vs) = false →
      exec (.meterVstreamRemove h vs) s = .next (doneWith h 0x2C19 [] s (dropVs vs w))) ∧
    (∀ (p : BallastP), passes h (meterOwner 0x2C20 4 (p.set < 8 && flag p.en && p.el < 4 && p.mask < 256) s) s = true
      →
      (p.en == 1 && !(getElem' w p.el).defd) = false →
      exec (.meterBallastDefine h p) s = .next (doneWith h 0x2C20 [] s
        ({ w with am := { w.am with sets := tset w.am.sets p.set p } }))) ∧
    (passes h (meterSpec 0x2C21 0 true (servingDoze s) s) s = true →
      (runningOp w 0x2C21 || w.am.halted) = false →
      s.hi.ops.length < 1024 →
      exec (.meterSave h) s = .next (acceptedAs h 0x2C21 (.meterSave h) .running s)) ∧
    (∀ (p : MeterP), passes h (meterCfg 0x2C28 4 (meterOk p) s) s = true →
      exec (.meterConfig h p) s = .next (doneWith h 0x2C28 [] s (setMeter p w))) ∧
    (passes h { meterSpec 0x2C29 0 true (inOpen s || s.pm.mode == .doze) s with domOk := anchorOn s } s = true →
      exec (.meterQuery h) s = .next (doneWith h 0x2C29 (meterAnswer w) s w)) ∧
    (∀ (mask : Nat), passes h (meterSpec 0x2C30 2 (mask < 2 ^ 16) (inCommission s) s) s = true →
      exec (.meterClearCounters h mask) s = .next (doneWith h 0x2C30 [] s (if mask == 0 then clearCounters (amCtr 0) 0x200 w
        else
          let w := (bitList 4 mask).foldl (fun w e => clearCounters (elCtr e 0) 0x40 w) w
          (bitList 12 (mask / 16)).foldl (fun w k => clearCounters (chCtr k 0) 0x20 w) w)))

/-- The VAULT commands, each with its length, checks and the conditions of its own: the next state is that of its effect, with
its first completion DONE and its RESULT, or ACCEPTED and its operation outstanding under a new handle. -/
def Obligations.VaultCommandsComplete : Prop :=
  ∀ (h : Hdr) (s w : State), w = takeHead h.src s →
    (passes h (spec0 0x3000 0) s = true →
      exec (.vaultStatus h) s = .next (doneWith h 0x3000 (leBytes 4 (ovStat w) ++ leBytes 4 (ovTamper w.ov) ++
        leBytes 4 w.cairn.ownerCtr ++ leBytes 4 w.cairn.stmtCtr) s w)) ∧
    (∀ (target : Nat) (ownerKey : Option Nat), passes h
      { specM 0x3001 (if s.fuses.lifecycle == .blank then 104 else 8) (lifecycleStep s.fuses.lifecycle target) (trueProvision s) with lenOk := (s.fuses.lifecycle == .blank) == ownerKey.isSome, auth := .alg1, key := if s.fuses.lifecycle == .blank then ownerKey else none }
      s = true →
      runningOp w 0x3001 = false →
      w.pm.pendWipe = none →
      s.hi.ops.length < 1024 →
      exec (.vaultLifecycle h target ownerKey) s = .next (acceptedAs h 0x3001 (.vaultLifecycle h target ownerKey)
        .running s)) ∧
    (∀ (key : Nat), passes h (specM 0x3002 96 true (s.pm.mode == .provision)) s = true →
      (w.fuses.ownerHash != some (ownerDigest key)) = false →
      exec (.vaultOwnerLoad h key) s = .next (doneWith h 0x3002 [] s
        ({ w with cairn := { w.cairn with ownerKey := some key }, ov := { w.ov with kreg := some key, ownerBad := false } })))
            ∧
    (passes h
      { specM 0x3003 0 true (trueProvision s && (s.fuses.lifecycle == .provisioned || s.fuses.lifecycle == .operational)) with auth := .alg1 }
      s = true →
      w.ov.root = none →
      w.ov.tamper = false →
      runningOp w 0x3003 = false →
      s.hi.ops.length < 1024 →
      exec (.vaultRootGenerate h) s = .next (acceptedAs h 0x3003 (.vaultRootGenerate h) .running s)) ∧
    (passes h { specM 0x3004 0 true (s.pm.mode == .provision) with auth := .alg1 } s = true →
      exec (.vaultTamperClear h) s = .next (doneWith h 0x3004 [] s
        ({ w with ov := { w.ov with tamper := false, causes := 0 } }))) ∧
    (∀ (enables : Nat), passes h
      { specM 0x3005 4 (enables < 2 ^ 7 && bit enables 3 && bit enables 6) (inSetup s) with auth := if disablesTamper s enables then .alg1 else .owner }
      s = true →
      exec (.vaultTamperConfig h enables) s = .next (doneWith h 0x3005 [] s
        ({ w with ov := { w.ov with tamperCfg := enables } }))) ∧
    (∀ (en : Nat), passes h { specP 0x3006 4 (flag en) with auth := .owner } s = true →
      exec (.vaultDebug h en) s = .next (doneWith h 0x3006 [] s ({ w with ov := { w.ov with dbgArm := en == 1 } }))) ∧
    (∀ (slot : Nat) (alg : Nat) (usage : Nat) (lock : Nat), passes h (slotSpec 0x3010 4 (slot < 256 && usageOk alg
      usage && flag lock) s) s = true →
      spanFree w slot alg = true →
      s.hi.ops.length < 1024 →
      exec (.vaultGenerate h slot alg usage lock) s = .next (acceptedAs h 0x3010 (.vaultGenerate h slot alg usage
        lock) .running s)) ∧
    (∀ (slot : Nat) (parent : Nat) (alg : Nat) (usage : Nat) (lock : Nat) (label : Nat), passes h (slotSpec 0x3011 40
      (slot < 256 && parent < 256 && alg < 4 && usageOk alg usage && flag lock && label != 0 && label < 2 ^ 256 - 1)
      s) s = true →
      deriveStatus slot parent alg w = 0 →
      s.hi.ops.length < 1024 →
      exec (.vaultDerive h slot parent alg usage lock label) s = .next (acceptedAs h 0x3011 (.vaultDerive h slot
        parent alg usage lock label) .running s)) ∧
    (∀ (p : ImportP), passes h
      { slotSpec 0x3012 (8 + materialLen p.form p.alg) (importOk p) s with lenOk := p.material.length == materialLen p.form p.alg, auth := if p.form == 0 || p.owner then .alg1 else .owner }
      s = true →
      importStatus p w = 0 →
      s.hi.ops.length < 1024 →
      exec (.vaultImport h p) s = .next (acceptedAs h 0x3012 (.vaultImport h p) .running s)) ∧
    (∀ (slot : Nat) (addr : Nat) (len : Nat), passes h (slotSpec 0x3013 20 (slot < 256 && bufferOk addr && len < 2 ^
      32) s) s = true →
      sealStatus slot len w = 0 →
      s.hi.ops.length < 1024 →
      exec (.vaultSeal h slot addr len) s = .next (acceptedAs h 0x3013 (.vaultSeal h slot addr len) .running s)) ∧
    (∀ (slot : Nat) (wrapSlot : Nat) (destUid : Nat) (addr : Nat) (len : Nat), passes h (slotSpec 0x3014 44 (slot <
      256 && wrapSlot < 256 && destUid < 2 ^ 128 && bufferOk addr && len < 2 ^ 32) s) s = true →
      exportStatus slot wrapSlot len w = 0 →
      s.hi.ops.length < 1024 →
      exec (.vaultExport h slot wrapSlot destUid addr len) s = .next (acceptedAs h 0x3014 (.vaultExport h slot
        wrapSlot destUid addr len) .running s)) ∧
    (∀ (slot : Nat), passes h
      { slotSpec 0x3015 1 (slot < 256) s with auth := if ((getSlot s slot).map (·.lock)).getD false then .alg1 else .owner }
      s = true →
      slotHeld w slot = true →
      exec (.vaultDestroy h slot) s = .next (doneWith h 0x3015 (leBytes 2 (destroySlot slot w).2) s (destroySlot slot
        w).1)) ∧
    (∀ (slot : Nat) (nonce : Nat) (addr : Nat) (len : Nat), passes h
      { specM 0x3016 52 (slot < 256 && nonce < 2 ^ 256 && bufferOk addr && len < 2 ^ 32) (slotDoze s || (slot == 0xFF && s.pm.mode == .provision)) with lenOk := 272 ≤ len }
      s = true →
      attestStatus slot w = 0 →
      s.hi.ops.length < 1024 →
      exec (.vaultAttest h slot nonce addr len) s = .next (acceptedAs h 0x3016 (.vaultAttest h slot nonce addr len)
        .running s)) ∧
    (∀ (slot : Nat), passes h (specM 0x3017 1 (slot < 256) (slotDoze s)) s = true →
      (((getSlot w slot).map (·.alg)) == some 6) = false →
      exec (.vaultSlotQuery h slot) s = .next (doneWith h 0x3017 (leBytes 4 (slotAttr w slot) ++ leBytes 4 (slotCtr w
        slot)) s w)) ∧
    (∀ (count : Nat), passes h (specM 0x3018 1 (within 1 16 count) (slotDoze s)) s = true →
      drbgServes w = true →
      exec (.vaultRandom h count) s = .next (doneWith h 0x3018 (leBytes count (drawRandom w).1) s (drawRandom w).2)) ∧
    (passes h (spec0 0x3020 0) s = true →
      exec (.vaultClearCounters h) s = .next (doneWith h 0x3020 [] s
        ({ w with counters := w.counters.filter (fun e => !(0x10D000 ≤ e.1 && e.1 < 0x10D000 + 0x40)) })))

/-- The LOG commands, each with its length, checks and the conditions of its own: the next state is that of its effect, with
its first completion DONE and its RESULT, or ACCEPTED and its operation outstanding under a new handle. -/
def Obligations.LogCommandsComplete : Prop :=
  ∀ (h : Hdr) (s w : State), w = takeHead h.src s →
    (∀ (p : LogP), passes h { specM 0x3400 12 (logOk p) (inCommission s) with cfgBusy := true } s = true →
      (vectorTaken w p.faultVec || vectorTaken w p.flushVec) = false →
      exec (.logConfig h p) s = .next (doneWith h 0x3400 [] s (let w := setScrub p.scrubMs w
        { w with ec := { w.ec with nq := p.ecNq },
                 ev := { w.ev with nq := p.evNq, coalesceUs := p.coalesceUs, flushMs := p.flushMs, faultVec := p.faultVec, flushVec := p.flushVec } })))
                     ∧
    (∀ (seq : Nat), passes h (specM 0x3401 4 (seq < 2 ^ 32) (openDoze s)) s = true →
      exec (.logSpoolSeek h seq) s = .next (doneWith h 0x3401 (leBytes 4 (seekSpool seq w).ev.cur ++ leBytes 4
        (evOldest (seekSpool seq w)) ++ leBytes 4 (evNewest (seekSpool seq w))) s (seekSpool seq w))) ∧
    (∀ (first : Nat) (count : Nat) (addr : Nat) (len : Nat), passes h
      { specM 0x3402 20 (first < 2 ^ 32 && within 1 8192 count && bufferOk addr && len < 2 ^ 32) (openDoze s) with lenOk := 32 * count ≤ len }
      s = true →
      s.hi.ops.length < 1024 →
      exec (.logRead h first count addr len) s = .next (acceptedAs h 0x3402 (.logRead h first count addr len)
        .running s)) ∧
    (passes h (specM 0x3403 0 true (openDoze s)) s = true →
      s.hi.ops.length < 1024 →
      exec (.logFlush h) s = .next (flushTrigger (acceptedAs h 0x3403 (.logFlush h) .running s))) ∧
    (∀ (severity : Nat) (arg : Nat), passes h (specM 0x3404 8 (severity < 3 && arg < 2 ^ 56) (openDoze s)) s = true →
      exec (.logWrite h severity arg) s = .next (doneWith h 0x3404 [] s (report 0 0x40 severity arg none w))) ∧
    (∀ (x : Bool), passes h (specM 0x3405 0 true (openDoze s)) s = true →
      x = (w.ev.faultLatched && w.ev.faultAt == some w.tm.frc) →
      exec (.logFaultClear h) s = .next (doneWith h 0x3405 [b2n x] s
        { w with ev := { w.ev with faultLatched := x } })) ∧
    (∀ (mac : Nat), passes h (specM 0x3408 2 (mac < 1648) (openDoze s)) s = true →
      exec (.logMacroQuery h mac) s = .next (doneWith h 0x3408 (leBytes 4 (ecMacro w mac) ++ leBytes 4 (getMacro w
        mac).hard) s w)) ∧
    (∀ (mac : Nat) (word : Nat) (bitA : Nat) (bitB : Nat), passes h
      { specM 0x3409 6 (mac < 1648 && word < 8192 && injectBit bitA && injectBit bitB) (inCommission s) with auth := .owner, domOk := macroOn s mac }
      s = true →
      (injectBarred mac word) = false →
      exec (.logInject h mac word bitA bitB) s = .next (doneWith h 0x3409 [] s (flipBit mac word bitB (flipBit mac
        word bitA w)))) ∧
    (∀ (mask : Nat), passes h (specM 0x3420 1 (mask < 4) (openDoze s)) s = true →
      exec (.logClearCounters h mask) s = .next (doneWith h 0x3420 [] s (let w := if bit mask 0 then clearCounters 0x10E000 0x800 w else w
             if bit mask 1 then clearCounters 0x10E800 0x800 w else w)))

/-- The POWER commands, each with its length, checks and the conditions of its own: the next state is that of its effect, with
its first completion DONE and its RESULT, or ACCEPTED and its operation outstanding under a new handle. -/
def Obligations.PowerCommandsComplete : Prop :=
  ∀ (h : Hdr) (s w : State), w = takeHead h.src s →
    (passes h (specM 0x3800 0 true (serving s)) s = true →
      (w.pm.hs.isSome) = false →
      s.hi.ops.length < 1024 →
      exec (.powerDoze h) s = .next (startHandshake (handleFor h 0x3800 s) (acceptedAs h 0x3800 (.powerDoze h)
        .running s))) ∧
    (passes h (specM 0x3801 0 true (s.pm.mode == .doze)) s = true →
      s.hi.ops.length < 1024 →
      exec (.powerWake h) s = .next (requestWake 3 (acceptedAs h 0x3801 (.powerWake h) .running s))) ∧
    (∀ (mask : Nat), passes h (specP 0x3802 1 (mask &&& 0x28 == mask)) s = true →
      padsOn mask w = true →
      exec (.powerPadRelease h mask) s = .next (doneWith h 0x3802 [] s
        ({ w with pm := { w.pm with holdPorts := w.pm.holdPorts && !bit mask 3, holdAnchor := w.pm.holdAnchor && !bit mask 5 } })))
            ∧
    (∀ (p : PowerP), passes h { specM 0x3803 8 (powerOk p) (inCommission s) with cfgBusy := true } s = true →
      exec (.powerConfig h p) s = .next (doneWith h 0x3803 [] s
        ({ w with pm := { w.pm with nq := p.nq, mi2cWake := p.wakeEn == 1, delayMax := p.delayMaxUs } }))) ∧
    (passes h (spec0 0x3808 0) s = true →
      exec (.powerQuery h) s = .next (doneWith h 0x3808 (leBytes 4 (pmStat w) ++ leBytes 4 (pmDom w.pm) ++ leBytes 4
        (pmHold w.pm) ++ leBytes 4 (ckStat w.ck)) s w)) ∧
    (∀ (p : RefP), passes h { specM 0x3810 8 (refValuesOk p) (inCommission s) with cfgBusy := true } s = true →
      exec (.powerRefConfig h p) s = .next (doneWith h 0x3810 [] s (setRefs p w))) ∧
    (passes h (spec0 0x3811 0) s = true →
      standbyOk w.ck = true →
      (w.ck.switching) = false →
      s.hi.ops.length < 1024 →
      exec (.powerRefSwitch h) s = .next ((fun v => { v with ck := { v.ck with switching := true } }) (acceptedAs h
        0x3811 (.powerRefSwitch h) .running s))) ∧
    (∀ (mask : Nat), passes h (specP 0x3820 1 (mask < 4)) s = true →
      exec (.powerClearCounters h mask) s = .next (doneWith h 0x3820 [] s (let w := if bit mask 0 then clearCounters 0x10F000 0x800 w else w
             if bit mask 1 then clearCounters 0x10F800 0x800 w else w)))

/-- The events of the time path: comparators, ticks, holdover, leap seconds, the fallback clock: where the conditions hold under which the spec lets it
act, each has its effect and nothing else. -/
def Obligations.TimeEventsComplete : Prop :=
  ∀ s : State,
    (∀ (cmp : Nat), cmp < 16 →
      cmpDue s cmp = true →
      edgeReady 5 s = true →
      triggerReady cmp s = true →
      exec (.cmpFire cmp) s = .next (fireCmp cmp s)) ∧
    (s.pm.mode ≠ .frozen →
      s.tm.frc / 400 ≠ s.tm.tickAt / 400 →
      edgeReady 5 s = true →
      exec (.duneTick) s = .next ((fun v => if cvRuns v then caravanTick v else v) (ergTick
          { s with tm := { s.tm with tickAt := s.tm.frc / 400 * 400, tick := now s } }))) ∧
    (∀ (since : Nat), s.pm.mode ≠ .frozen →
      s.tm.tether.revertS ≠ 0 →
      s.tm.tether.primary ≠ 0 →
      s.tm.tether.follow ≠ 0 →
      s.tm.tether.follow ≠ s.tm.tether.primary →
      recentSource s s.tm.tether.primary = true →
      (tfind s.tm.tether.qualified s.tm.tether.primary).map (·.2) = some since →
      since + s.tm.tether.revertS * secCounts ≤ s.tm.frc →
      exec (.sourceRevert) s = .next (switchSource s.tm.tether.primary s)) ∧
    (s.pm.mode ≠ .frozen →
      edgeReady 4 s = true →
      s.tm.tether.tqServo = .holdFresh →
      s.tm.tether.p.freshS ≤ holdAge s →
      exec (.holdoverAgeing) s = .next (setClass .holdAged s)) ∧
    (s.pm.mode ≠ .frozen →
      edgeReady 4 s = true →
      s.tm.tether.tqServo = .holdAged →
      s.tm.tether.p.agedS ≤ holdAge s →
      exec (.holdoverAgeing) s = .next (setClass .freerun s)) ∧
    (s.pm.mode ≠ .frozen →
      s.tm.tq = .locked ∨ s.tm.tq = .lockedFine →
      s.tm.tether.savedAt + 3600 * secCounts ≤ s.tm.frc →
      exec (.integSave) s = .next (saveInteg s)) ∧
    (s.pm.mode ≠ .frozen →
      s.tm.leap ≠ 0 →
      s.tm.leapAt * 1000000000 ≤ nowNs s →
      exec (.leapApply) s = .next ((fun ofs => tmNote 0x08 0 (twosComp 32 ofs)
          { s with tm := { s.tm with utcOfs := ofs, leap := 0 } }) (s.tm.utcOfs + (if s.tm.leap == 1 then 1 else -1)))) ∧
    (∀ (v : State), v = { s with tm := { s.tm with checkAt := s.tm.frc / 409600 * 409600, residue := false } } →
      s.pm.mode ≠ .frozen →
      s.tm.frc / 409600 ≠ s.tm.checkAt / 409600 →
      s.tm.mainFailed = true ∨ s.tm.selftest = true →
      exec (.timeCheckpoint) s = .next (v)) ∧
    (∀ (v : State), v = { s with tm := { s.tm with checkAt := s.tm.frc / 409600 * 409600, residue := false } } →
      s.pm.mode ≠ .frozen →
      s.tm.frc / 409600 ≠ s.tm.checkAt / 409600 →
      s.tm.mainFailed = false →
      s.tm.selftest = false →
      4 * 2 ^ 40 < (clockDiff v).natAbs →
      exec (.timeCheckpoint) s = .next (startSelftest
          { v with tm := { v.tm with difference := clockDiff v / 2 ^ 40, byResidue := s.tm.residue } })) ∧
    (∀ (v : State), v = { s with tm := { s.tm with checkAt := s.tm.frc / 409600 * 409600, residue := false } } →
      s.pm.mode ≠ .frozen →
      s.tm.frc / 409600 ≠ s.tm.checkAt / 409600 →
      s.tm.mainFailed = false →
      s.tm.selftest = false →
      ¬ 4 * 2 ^ 40 < (clockDiff v).natAbs →
      exec (.timeCheckpoint) s = .next (if s.tm.residue = true then v else loadFallback v)) ∧
    (s.pm.mode ≠ .frozen →
      s.tm.mainFailed = false →
      s.tm.selftest = false →
      exec (.residueMismatch) s = .next (startSelftest { s with tm := { s.tm with residue := true, byResidue := true } })) ∧
    (s.pm.mode ≠ .frozen →
      s.tm.selftest = true →
      s.tm.retest = none →
      exec (.timeSelftestEnd false) s = .next (failMain { s with tm := { s.tm with selftest := false } })) ∧
    (s.pm.mode ≠ .frozen →
      s.tm.selftest = true →
      s.tm.retest = none →
      s.tm.byResidue = true →
      exec (.timeSelftestEnd true) s = .next (count (tmCtr 0x058) { s with tm := { s.tm with selftest := false } })) ∧
    (s.pm.mode ≠ .frozen →
      s.tm.selftest = true →
      s.tm.retest = none →
      s.tm.byResidue = false →
      exec (.timeSelftestEnd true) s = .next (tmNote 0x06 2 (arg32 s.tm.difference) (count (tmCtr 0x060) (loadFallback
          { s with tm := { s.tm with selftest := false } }))))

/-- The events of the time sources: PTP, PPS and ToD: where the conditions hold under which the spec lets it
act, each has its effect and nothing else. -/
def Obligations.SourceEventsComplete : Prop :=
  ∀ s : State,
    (∀ (m : PtpHead) (origin correction d : Int) (followUp : Option (Int × Int)) (ingress : Stamp), slaveTakes s m = true →
      (s.tm.slave.selected).any (fun x => x.1 == m.port) = true →
      tfind s.tm.slave.pathDelay m.port = some d →
      exec (.ptpSyncRx m origin correction followUp ingress) s = .next ((fun v => measure 1 (ptpIngress v m.port ingress -
          (syncOrigin origin correction followUp).1 - (syncOrigin origin correction followUp).2 - d) (log16
          v.tm.ptpSlave.p.logSync) true v) (updSlave (fun x => { x with syncAt := some s.tm.frc }) (count (tmCtr 0x018)
          s)))) ∧
    (∀ (a : Announce), slaveTakes s a.head = true →
      exec (.ptpAnnounceRx a) s = .next (announceTaken a s)) ∧
    (s.pm.mode ≠ .frozen →
      edgeReady 3 s = true →
      (ptpTimedOut s).1 = true →
      (ptpTimedOut s).2 = false →
      exec (.sourceLoss 1) s = .next (losePtp s)) ∧
    (s.pm.mode ≠ .frozen →
      edgeReady 3 s = true →
      (ptpTimedOut s).2 = true →
      exec (.sourceLoss 1) s = .next (losePtp (count (tmCtr 0x020) s))) ∧
    (∀ (port : Nat), asksDelay s port = true →
      ptpDue s (tfind s.tm.ptpSlave.sent port) s.tm.ptpSlave.p.logPdelay = true →
      exec (.ptpDelayReqTx port) s = .next ((fun v => if s.tm.ptpSlave.p.delayMech == 0 then sendPtp s.tm.ptpSlave.p port 2
          54 [] v else sendPtp s.tm.ptpSlave.p port 1 44 [] v) (updSlave (fun y =>
          { y with delayReq := tset y.delayReq port s.tm.frc })
          { s with tm := { s.tm with ptpSlave := { s.tm.ptpSlave with sent := tset s.tm.ptpSlave.sent port s.tm.frc } } })))
          ∧
    (∀ (m : PtpHead) (meanPath : Int), ptpTaken s.tm.ptpSlave.p m = true →
      asksDelay s m.port = true →
      (tfind s.tm.slave.delayReq m.port).isSome = true →
      exec (.ptpPathDelayRx m meanPath) s = .next (updSlave (fun x =>
          { x with pathDelay := tset x.pathDelay m.port meanPath, delayReq := tdel x.delayReq m.port }) s)) ∧
    (∀ (port : Nat), s.pm.mode ≠ .frozen →
      (tfind s.tm.slave.delayReq port).isSome = true →
      exec (.pdelayTimeout port) s = .next (count (tmCtr 0x030) (updSlave (fun x =>
          { x with delayReq := tdel x.delayReq port }) s))) ∧
    (∀ (port : Nat) (m : PtpForm) (ingress : Stamp), slaveTakes s { m with port := port } = true →
      s.tm.ptpSlave.p.delayMech = 0 →
      exec (.ptpPdelayReqRx port m ingress) s = .next (sendPtp s.tm.ptpSlave.p port 3 54 [(ptpIngress s port ingress).toNat]
          s)) ∧
    (∀ (m : PtpHead) (ingress : Stamp) (d : DT96), masterTakes s m = true →
      s.tm.ptpMaster.p.delayMech = 1 →
      d = dt96Of (ptpIngress s 4 ingress) →
      exec (.ptpDelayReqRx m ingress) s = .next (sendPtp s.tm.ptpMaster.p 4 9 54 [d.sec, d.ns, d.frac] s)) ∧
    (∀ (w : List Nat), masterRuns s = true →
      s.tm.tq ≠ .invalid →
      ptpDue s (tfind s.tm.ptpMaster.sent 0) s.tm.ptpMaster.p.logAnnounce = true →
      w = [s.tm.ptpMaster.p.prio1, (announced s.tm.tq).1, (announced s.tm.tq).2, s.tm.ptpMaster.p.prio2, twosComp 16
          s.tm.utcOfs, b2n s.tm.utcValid, s.tm.leap] →
      exec (.ptpMasterAnnounceTx) s = .next (if s.tm.ptpMaster.p.profile = 1 then sendPtp s.tm.ptpMaster.p 4 11 86 (w ++
          [announcedInacc s]) (masterSent 0 s) else sendPtp s.tm.ptpMaster.p 4 11 64 w (masterSent 0 s))) ∧
    (masterRuns s = true →
      s.tm.tq ≠ .invalid →
      ptpDue s (tfind s.tm.ptpMaster.sent 1) s.tm.ptpMaster.p.logSync = true →
      exec (.ptpMasterSyncTx) s = .next (sendPtp s.tm.ptpMaster.p 4 0 44 [] (masterSent 1 s))) ∧
    (∀ (rising : Bool) (stamp : Stamp) (t : Int), s.pm.mode ≠ .frozen →
      s.pm.mode ≠ .boot →
      ppsActive s rising = true →
      t = stampAt stamp s - latRx s 5 →
      ppsQualifies t (count (tmCtr 0x040) s) = true →
      exec (.ppsInEdge ⟨rising, stamp⟩) s = .next (edgeTaken t (count (tmCtr 0x040) s))) ∧
    (∀ (rising : Bool) (stamp : Stamp), s.pm.mode ≠ .frozen →
      s.pm.mode ≠ .boot →
      ppsActive s rising = true →
      ppsQualifies (stampAt stamp s - latRx s 5) (count (tmCtr 0x040) s) = false →
      exec (.ppsInEdge ⟨rising, stamp⟩) s = .next (count (tmCtr 0x048) (count (tmCtr 0x040) s))) ∧
    (∀ (rising : Bool) (stamp : Stamp), ppsActive s rising = false →
      exec (.ppsInEdge ⟨rising, stamp⟩) s = .next (s)) ∧
    (∀ (t : Int), s.tm.pps.prev = some t →
      s.pm.mode ≠ .frozen →
      edgeReady 3 s = true →
      t + 2 * sec16 + ppsTol s ≤ now s →
      exec (.ppsLost) s = .next (loseSource 2 (tmNote 0x0B 1 0 (updPps (fun x =>
          { x with ok := false, prev := none, waiting := none, label := none, todOk := false }) (settleEdge s))))) ∧
    (∀ (utcSec : Nat) (l : Option Int), s.pm.mode ≠ .frozen →
      s.pm.mode ≠ .boot →
      l = (if s.tm.utcValid then some ((utcSec : Int) + s.tm.utcOfs) else none) →
      exec (.todSentenceRx true true utcSec) s = .next (if s.tm.pps.p.todEdge = 1 then updPps (fun x =>
          { x with label := some (l, now s), todOk := l.isSome }) s else if todInTime s = true then labelEdge l s else count
          (tmCtr 0x050) s)) ∧
    (∀ (utcSec : Nat) (sumOk statusOk : Bool), s.pm.mode ≠ .frozen →
      s.pm.mode ≠ .boot →
      (sumOk && statusOk) = false →
      exec (.todSentenceRx sumOk statusOk utcSec) s = .next (count (tmCtr 0x050) s))

/-- The events of the network ports: frames, gates, PRP and pass-through: where the conditions hold under which the spec lets it
act, each has its effect and nothing else. -/
def Obligations.NetworkEventsComplete : Prop :=
  ∀ s : State,
    (∀ (port : Nat), port < 4 →
      portsRun s = true →
      exec (.gateBoundary port) s = .next (updPort port (gateNow s) s)) ∧
    (∀ (port k : Nat) (load : Int) (x : GateP), (getPort s port).gatePend = some (x, k, load) →
      portsRun s = true →
      operativeAt x load ≤ ratNs (busTime s) →
      exec (.gateOperative port) s = .next (operatePending port x k s)) ∧
    (∀ (port : Nat) (load : Int) (x : GateP), (getPort s port).gatePend = none →
      (getPort s port).gateNext = some (x, load) →
      portsRun s = true →
      operativeAt x load ≤ ratNs (busTime s) →
      exec (.gateOperative port) s = .next (putGate port x (updPort port (fun t => { t with gateNext := none }) s))) ∧
    (∀ (port queue sub : Nat), port < 5 →
      portsRun s = true →
      (getPort s port).linkUp = true →
      (getPort s port).txUntil ≤ fineTime s →
      sendingQueue s port = some queue →
      exec (.txFrameStart port ⟨queue, sub⟩) s = .next (startFrame port queue sub s)) ∧
    (∀ (pair : Nat), pair < 2 →
      portsRun s = true →
      (getPrp s pair).en = true →
      (getPrp s pair).supAt + countsOfMs (getPrp s pair).supMs ≤ s.tm.frc →
      exec (.prpSupervisionTx pair) s = .next (sendPair pair 0 4 64 [0x01154E000100] (updPrp pair (fun x =>
          { x with supAt := s.tm.frc }) s))) ∧
    (∀ (k : Nat) (x : PtFrame) (rest : List PtFrame), (getRxRing s k).waiting = x :: rest →
      k < 8 →
      portsRun s = true →
      (getRxRing s k).needs x.len ≤ (getRxRing s k).posted →
      exec (.ptFrameDelivery k) s = .next (ptArrival k (freePt x (setRxRing k
          { getRxRing s k with waiting := rest, head := ((getRxRing s k).head + (getRxRing s k).needs x.len) % 2 ^ (getRxRing s k).log2, completed := ((getRxRing s k).completed + 1) % 2 ^ 24 }
          (emit (.ptFrame k x.len (ptDescs (getRxRing s k) x)) s))))) ∧
    (∀ (k : Nat) (x : PtFrame) (rest : List PtFrame), (getRxRing s k).waiting = x :: rest →
      s.pm.mode ≠ .frozen →
      (getRxRing s k).posted < (getRxRing s k).needs x.len →
      x.stored + countsOfUs 100 ≤ s.tm.frc →
      exec (.ptDescriptorTimeout k) s = .next (count (portCtr x.port 0x040) (freePt x (setRxRing k
          { getRxRing s k with waiting := rest } s)))) ∧
    (∀ (pair lan : Nat), pair < 2 →
      portsRun s = true →
      lan < 2 →
      exec (.prpLanLost pair lan) s = .next (reportLanLost pair (lan == 1) s)) ∧
    (∀ (pair src : Nat), pair < 2 →
      s.pm.mode ≠ .frozen →
      exec (.prpEntryForget pair src) s = .next (updPrp pair (fun x =>
          { x with entries := (getPrp s pair).entries.filter (fun e => !(e.src == src && e.last + countsOfMs (getPrp s pair).forgetMs ≤ s.tm.frc)) })
          s)) ∧
    (∀ (port : Nat) (a : Arrival), port < 5 →
      portsRun s = true →
      (getPort s port).linkUp = true →
      exec (.rxFrame port a none) s = .next (receive port a.frame (ingressStamp s port a.stamp) (countLine port a.errs s))) ∧
    (∀ (n : Nat) (a b : Arrival), n < 2 →
      exec (.rxFrame (2 * n) a (some b)) s = .next (arrive (2 * n + 1) b (arrive (2 * n) a s))) ∧
    (∀ (n : Nat) (a b : Arrival), n < 2 →
      exec (.rxFrame (2 * n + 1) a (some b)) s = .next (arrive (2 * n + 1) a (arrive (2 * n) b s))) ∧
    (∀ (k port queue prpMode count : Nat) (clear : Bool) (f : HostFrame), k < 8 →
      portsRun s = true →
      count ≠ 0 →
      count ≤ (getTxRing s k).posted →
      port ≤ 4 →
      queue ≤ 7 →
      prpMode < 3 →
      (txPorts s port prpMode).all (fun p => txRoom s p (max 64 (f.len + 4))) = true →
      exec (.ptTxChainFetch k port queue f prpMode count clear true) s = .next (sendHost port queue (if clear = true ∨
          isPtpKind f.ethertype f.udpDst = true ∨ f.ethertype = 0x888E then 3 else 2) (max 64 (f.len + 4)) prpMode
          (isPtpKind f.ethertype f.udpDst) [k, (getTxRing s k).head] (emit (.hostWrite ((getTxRing s k).base + 32 *
          (getTxRing s k).head + 10) (leBytes 2 (sopFlags count prpMode clear))) (setTxRing k
          { getTxRing s k with head := ((getTxRing s k).head + count) % 2 ^ (getTxRing s k).log2, completed := ((getTxRing s k).completed + 1) % 2 ^ 24 }
          s)))) ∧
    (∀ (k port queue prpMode count : Nat) (clear : Bool) (f : HostFrame), k < 8 →
      portsRun s = true →
      count ≠ 0 →
      count ≤ (getTxRing s k).posted →
      exec (.ptTxChainFetch k port queue f prpMode count clear false) s = .next (faultPtRing false k s)) ∧
    (∀ (port : Nat) (fecLock : Bool) (e : LineErr), port < 5 →
      portsRun s = true →
      s.pm.holdPorts = false →
      (getPort s port).en = true →
      (getPort s port).line ≠ 0 →
      (getPort s port).line ≠ 3 →
      (getPort s port).linkUp = false →
      exec (.linkStateChange port true fecLock ⟨false, false⟩ e) s = .next (note s.np.nq 1 0x01 0 port (updPort port (fun t
          =>
          { t with pcsLock := true, fecLock := false, localFault := false, remoteFault := false, linkUp := true, linkChg := true })
          (countN (portCtr port 0x0F8) e.pcs s))))

/-- The events of stream intake and alignment in the Erg: where the conditions hold under which the spec lets it
act, each has its effect and nothing else. -/
def Obligations.IntakeAndInstantEventsComplete : Prop :=
  ∀ s : State,
    (∀ (pipe : Nat) (f : SiFrame) (rest : List SiFrame), tget [] s.si.pipes pipe = f :: rest →
      pipe < 16 →
      intakeRuns s = true →
      exec (.siFrameParse pipe) s = .next (disposeFrame pipe f
          { s with si := { s.si with pipes := tset s.si.pipes pipe rest } })) ∧
    (∀ (sid : Nat), siClocked s = true →
      exec (.streamTimerExpiry sid) s = .next (streamTimers sid s)) ∧
    (∀ (gid : Nat) (x : Group), getGroup s gid = some x →
      ergRuns s = true →
      x.en = true →
      x.next < 2 ^ 40 →
      openAt x.p x.next ≤ s.tm.tick →
      exec (.instantOpen gid) s = .next (openInstant gid x.next s)) ∧
    (∀ (gid : Nat), ergRuns s = true →
      exec (.earlyRelease gid) s = .next (releaseChain gid (tracked s gid) s)) ∧
    (∀ (gid : Nat) (i : Instant), (getGroup s gid).bind (·.oldestOpen) = some i →
      ergRuns s = true →
      i.deadline ≤ s.tm.tick →
      exec (.deadlineRelease gid) s = .next (releaseChain gid (tracked s gid) (releaseInstant gid i.k true s))) ∧
    (∀ (gid index : Nat) (i r : Instant) (v : State), getInstant s gid index = some i →
      i.st ≠ .opened →
      i.pubHold = true →
      s.pm.mode ≠ .frozen →
      readMembers (publishedMembers s i) i s = (r, v) →
      exec (.publishInstant gid index) s = .next (freeHold gid index (fun i => { i with pubHold := false }) (i.pubs.foldl
          (fun v n => publishSession n gid r r.cells false v) v))) ∧
    (∀ (gid index : Nat) (i : Instant), getInstant s gid index = some i →
      ergRuns s = true →
      i.st = .released →
      i.relAt + countsOfUs 1000 ≤ s.tm.frc →
      exec (.cellHoldExpiry gid index) s = .next (freeInstant gid index s)) ∧
    (∀ (gid index : Nat) (i : Instant) (d : Int) (cells : Tbl Cell), getInstant s gid index = some i →
      i.batch = some (d, cells) →
      ergRuns s = true →
      d ≤ s.tm.tick →
      exec (.amendBatchClose gid index) s = .next (closeBatch gid i cells s)) ∧
    (∀ (gid index : Nat) (i : Instant), getInstant s gid index = some i →
      ergRuns s = true →
      i.st = .trailing →
      i.ended (now s) = true →
      i.batch = none →
      i.lates.isEmpty = true →
      i.unheld = true →
      exec (.instantRetire gid index) s = .next (dropInstant gid index s))

/-- The events of Caravan and its engines: where the conditions hold under which the spec lets it
act, each has its effect and nothing else. -/
def Obligations.CaravanEventsComplete : Prop :=
  ∀ s : State,
    (∀ (it : Item), cvRuns s = true →
      chooseItem s = some it →
      canTake s it = true →
      exec (.dispatchDecision) s = .next (dispatchItem it s)) ∧
    (∀ (level : Nat) (it : Item), cvRuns s = true →
      s.cv.ages.getD level 0 ≠ 0 →
      level < 11 →
      level < s.cv.ageCeil →
      s.cv.items.find? (fun it => it.level == level && eligible s it && s.cv.ages.getD level 0 ≤ (tickCount s + 2 ^ 32 -
          it.enqTick) % 2 ^ 32) = some it →
      exec (.itemAging level) s = .next (count 0x107008 (queueAt (level + 1) it.id s))) ∧
    (∀ (it : Item) (rest : List Item), cvRuns s = true →
      s.cv.expired < 64 →
      dueItems s s.tm.tick = it :: rest →
      exec (.delayExpiry) s = .next (queueAt it.d.level it.id { s with cv := { s.cv with expired := s.cv.expired + 1 } })) ∧
    (∀ (item : Nat), cvRuns s = true →
      exec (.checkpointWrite item) s = .next (updItem item (fun it => match (it.checkpointed s.tm.frc s.cv.ckptUs).st with | .running e since _ => { it.checkpointed s.tm.frc s.cv.ckptUs with st := .running e since s.tm.frc, ckpts := (it.checkpointed s.tm.frc s.cv.ckptUs).ckpts + 1 } | _ => it.checkpointed s.tm.frc s.cv.ckptUs) s)) ∧
    (∀ (item : Nat) (it : Item) (i : Inst), getItem s item = some it →
      cvRuns s = true →
      it.held = true →
      200 * it.d.budgetNs ≤ it.budgetCounts s.tm.frc * 256 →
      solveExempt it (getInst s it.job it.seq) s = false →
      getInst (count 0x107028 s) it.job it.seq = some i →
      exec (.budgetOver item) s = .next (abortInst i it.node 1 (count 0x107028 s))) ∧
    (∀ (item : Nat) (it : Item), getItem s item = some it →
      solveExempt it (getInst s it.job it.seq) s = true →
      exec (.budgetOver item) s = .next (s)) ∧
    (∀ (item since ck : Nat) (e : List Nat) (it : Item) (i : Inst) (r : ItemResult) (sat : Bool) (v t : State), getItem s
        item = some it →
      it.st = .running e since ck →
      cvRuns s = true →
      runMacs e r.macs (writeLocal e r.lmem s) = (sat, v) →
      t = (if sat then count 0x107820 v else v) →
      getInst t it.job it.seq = some i →
      exec (.itemCommit item r false) s = .next (commitNode i it r sat t)) ∧
    (∀ (item since ck : Nat) (e : List Nat) (it : Item) (i : Inst) (r : ItemResult) (sat : Bool) (v : State), getItem s item
        = some it →
      it.st = .running e since ck →
      cvRuns s = true →
      runMacs e r.macs (writeLocal e r.lmem s) = (sat, v) →
      getInst v it.job it.seq = some i →
      exec (.itemCommit item r true) s = .next (abortInst i it.node 3 (count 0x107838 v))) ∧
    (∀ (item since ck : Nat) (e : List Nat) (it : Item) (r : ItemResult) (sat : Bool) (v : State), getItem s item = some it →
      it.st = .running e since ck →
      cvRuns s = true →
      runMacs e r.macs (writeLocal e r.lmem s) = (sat, v) →
      getInst v it.job it.seq = none →
      exec (.itemCommit item r true) s = .next (failRefac 0x61 (count 0x107838 (dropItem it.id (stopItem it v))))) ∧
    (∀ (engine : Nat), cvRuns s = true →
      engine < 66 →
      (getEngine s engine).st = .idle →
      exec (.engineFault engine 1) s = .next (capacityFell (loseEngine engine .selftest (note s.cv.nq 6 0x01 2 (fld 1 8 8 +
          engine) (count (msCtr 0x00) s))))) ∧
    (∀ (engine : Nat), cvRuns s = true →
      engine < 66 →
      (getEngine s engine).st = .idle →
      exec (.engineFault engine 2) s = .next (capacityFell (loseEngine engine .selftest (note s.cv.nq 6 0x01 2 (fld 2 8 8 +
          engine) (count (msCtr 0x08) s))))) ∧
    (∀ (item : Nat), cvRuns s = true →
      exec (.takeoverResume item) s = .next (updItem item (fun it => match it.st with | .takeover e => { it with st := .running e s.tm.frc s.tm.frc } | _ => it) s)) ∧
    (∀ (engine : Nat), cvRuns s = true →
      engine < 66 →
      (getEngine s engine).st = .selftest →
      (getEngine s engine).busy = none →
      exec (.fencedSelftestEnd engine false) s = .next (capacityFell (retireEngine engine (count (msCtr 0x30) s)))) ∧
    (∀ (engine : Nat), cvRuns s = true →
      engine < 66 →
      (getEngine s engine).st = .spare →
      exec (.spareSelftest engine true) s = .next (count (msCtr 0x28) s))

/-- The events of alarm lines, triggers and continuous recording: where the conditions hold under which the spec lets it
act, each has its effect and nothing else. -/
def Obligations.AlarmAndRecordingEventsComplete : Prop :=
  ∀ s : State,
    (alRuns s = true →
      s.al.deferred = true →
      strobeBusy s = false →
      exec (.almStbDeferred) s = .next (driveLines s)) ∧
    (∀ (line e : Nat), (getLine s line).pulseEnd = some e →
      alRuns s = true →
      e ≤ fineTime s →
      exec (.almPulseEnd line) s = .next (driveLines (updLine line (fun x => { x with pulseEnd := none }) s))) ∧
    (∀ (n : Nat) (level : Bool) (stamp : Stamp), n < 2 →
      bit s.pins.xtrigIn n ≠ level →
      level = activeLevel (setXtrigIn n level s) n →
      alRuns (setXtrigIn n level s) = true →
      exec (.xtrigInEdge n level stamp) s = .next (xinEdge n (stampAt stamp (setXtrigIn n level s)) (setXtrigIn n level s)))
          ∧
    (∀ (n : Nat), n < 2 →
      exec (.xtrigInForwardedEdge n) s = .next (setXtrigIn n (!activeLevel s n) s)) ∧
    (∀ (line e : Nat), tfind s.tm.pulses line = some e →
      s.pm.mode ≠ .frozen →
      e ≤ fineTime s →
      exec (.outputPulseEnd line) s = .next ({ s with tm := { s.tm with pulses := tdel s.tm.pulses line } })) ∧
    (∀ (ring : Nat), aqRuns s = true →
      (liveRings s (ring / 4)).contains ring = true →
      exec (.aqRecordWrite ring) s = .next (writeStaged ring (absorb (ring / 4) s)))

/-- The events of metering: where the conditions hold under which the spec lets it
act, each has its effect and nothing else. -/
def Obligations.MeterEventsComplete : Prop :=
  ∀ s : State,
    (∀ (ch : Nat), ch < 12 →
      amClocked s = true →
      (getMChan s ch).p.en = 1 →
      (getMChan s ch).tempStale = false →
      (getMChan s ch).temp.isSome = true →
      tempFresh s (getMChan s ch) = false →
      exec (.tempStale ch) s = .next (note s.am.nq 11 0x03 1 ch (count (chCtr ch 0x18) (updMChan ch (fun c =>
          { c with tempStale := true }) s)))) ∧
    (∀ (ch cleanBits : Nat) (vRec vAlm : Int) (run64 : Bool) (v u : State), ch < 12 →
      sdClkRuns s = true →
      atBoundary s ch = true →
      boundaryTaken s ch = false →
      v = markBoundary ch s →
      (getMChan v ch).p.en = 1 →
      u = takeTemp ch (modFaultStep ch run64 cleanBits v) →
      (getMChan u ch).modFault = false →
      (getMChan v ch).p.kind ≠ 0 →
      exec (.sdSample ch vRec vAlm run64 cleanBits) s = .next (if (getMChan v ch).p.invert = true then storeSample ch
          (-vRec) (-vAlm) u else storeSample ch vRec vAlm u)) ∧
    (∀ (ch cleanBits : Nat) (vRec vAlm : Int) (run64 : Bool) (v u : State), ch < 12 →
      sdClkRuns s = true →
      atBoundary s ch = true →
      boundaryTaken s ch = false →
      v = markBoundary ch s →
      (getMChan v ch).p.en = 1 →
      u = takeTemp ch (modFaultStep ch run64 cleanBits v) →
      (getMChan u ch).modFault = true →
      exec (.sdSample ch vRec vAlm run64 cleanBits) s = .next (missSample ch u)) ∧
    (∀ (ch cleanBits : Nat) (vRec vAlm : Int) (run64 : Bool) (v : State), ch < 12 →
      sdClkRuns s = true →
      atBoundary s ch = true →
      boundaryTaken s ch = false →
      v = markBoundary ch s →
      (getMChan v ch).p.en ≠ 1 →
      exec (.sdSample ch vRec vAlm run64 cleanBits) s = .next (v)) ∧
    (∀ (el stop : Nat) (e1 e2 e3 : Int × Int) (trackedF : Int), el < 4 →
      blockEnd s el = some stop →
      sdClkRuns s = true →
      energyRuns s = true →
      (getElem' s el).en = true →
      (getElem' s el).running = true →
      reaches (finePoints / 2) s el stop = true →
      exec (.energyBlockEnd el stop e1 e2 e3 trackedF) s = .next (trackFreq el trackedF (endBlock el stop (phaseSum
          (getElem' s el).p.phases [e1, e2, e3]) s))) ∧
    (∀ (n due : Nat) (rest : List Nat), (getPulse s n).backlog = due :: rest →
      (getPulse s n).prev = none →
      n < 4 →
      amClocked s = true →
      (getPulse s n).high = false →
      exec (.pulseStart n) s = .next (setPulse n
          { getPulse s n with backlog := rest, prev := some (s.tm.frc, highTime (getPulse s n) due), high := true, count := ((getPulse s n).count + 1) % 2 ^ 32, ovfOpen := false }
          s)) ∧
    (∀ (n t h : Nat), (getPulse s n).prev = some (t, h) →
      (getPulse s n).high = true →
      t + h ≤ s.tm.frc →
      s.pm.mode ≠ .frozen →
      exec (.pulseEnd n) s = .next (setPulse n { getPulse s n with high := false } s)) ∧
    (amClocked s = true →
      s.am.halted = false →
      s.pm.pfwActions = false →
      s.am.savedAt + s.am.saveS * secCounts ≤ s.tm.frc →
      exec (.periodicSave true) s = .next (periodicSave s)) ∧
    (amClocked s = true →
      s.am.halted = false →
      s.pm.pfwActions = false →
      s.am.savedAt + s.am.saveS * secCounts ≤ s.tm.frc →
      exec (.periodicSave false) s = .next (saveFailed s)) ∧
    (amClocked s = true →
      s.am.halted = false →
      s.pm.pfwActions = false →
      s.am.aliveAt + secCounts ≤ s.tm.frc →
      exec (.aliveStamp) s = .next
          ({ s with cairn := { s.cairn with alive := some ((dt80Of (now s)).sec, (dt80Of (now s)).ns, s.cairn.opsec, s.tm.tq.code) }, am := { s.am with aliveAt := s.tm.frc } }))
          ∧
    (∀ (r : VsReport) (x : Vs), tfind s.am.vss r.vs = some x →
      r.vs < 8 →
      sdClkRuns s = true →
      intakeRuns s = true →
      vsDue r x s = true →
      exec (.vstreamReport r) s = .next (vstreamTaken r x s))

/-- The events of the vault, memory integrity and the event log: where the conditions hold under which the spec lets it
act, each has its effect and nothing else. -/
def Obligations.VaultAndLogEventsComplete : Prop :=
  ∀ s : State,
    (∀ (test : Nat), s.ov.entropyOk = true →
      s.pm.mode ≠ .frozen →
      exec (.entropyFail test) s = .next (note s.ov.nq 12 0x03 3 (test % 4) (count 0x10D038
          { s with ov := { s.ov with entropyOk := false, retestAt := some s.tm.frc } }))) ∧
    (∀ (passed a : Nat), s.ov.retestAt = some a →
      s.pm.mode ≠ .frozen →
      s.ov.entropyOk = false →
      a + 390625000 ≤ s.tm.frc →
      1024 ≤ passed →
      exec (.entropyRetest passed) s = .next (note s.ov.nq 12 0x04 0 0
          { s with ov := { s.ov with entropyOk := true, retestAt := none, drbgReq := 0, reseedAt := s.tm.frc } })) ∧
    (∀ (passed a : Nat), s.ov.retestAt = some a →
      s.pm.mode ≠ .frozen →
      s.ov.entropyOk = false →
      a + 390625000 ≤ s.tm.frc →
      passed < 1024 →
      exec (.entropyRetest passed) s = .next ({ s with ov := { s.ov with retestAt := some s.tm.frc } })) ∧
    (s.ov.entropyOk = true →
      s.pm.mode ≠ .frozen →
      s.ov.reseedAt + 390625000 ≤ s.tm.frc →
      exec (.drbgReseed) s = .next (count 0x10D030 { s with ov := { s.ov with drbgReq := 0, reseedAt := s.tm.frc } })) ∧
    (∀ (mac word n : Nat) (x : Macro) (v : State), mac < 1648 →
      word < 8192 →
      ecRuns s = true →
      macroOn s mac = true →
      scrubRead s word = some n →
      x = getMacro s mac →
      x.scrubbed ≤ n →
      v = scrubLate n (updMacro mac (fun x => { x with scrubbed := n + 1 }) s) →
      exec (.scrubRead mac word) s = .next (readWord mac word (if x.markPending = true ∧ word = x.pendingRow * 128 then
          repairRow mac v else v))) ∧
    (∀ (mac word b : Nat), mac < 1648 →
      word < 8192 →
      ecRuns s = true →
      macroOn s mac = true →
      flipsOf s mac word = [b] →
      exec (.correctionWriteback mac word) s = .next (correctWord mac word b s)) ∧
    (∀ (mac word : Nat), ecRuns s = true →
      exec (.suspectExpiry mac word) s = .next
          ({ s with ec := { s.ec with suspects := s.ec.suspects.filter (fun x => !(x.mac == mac && x.word == word && x.since + 4 * msCounts s.ec.scrubMs ≤ s.tm.frc)) } }))
          ∧
    (∀ (mac word : Nat), 1548 ≤ mac →
      mac < 1648 →
      word < 8192 →
      ecRuns s = true →
      exec (.controlDue mac word) s = .next (controlDue mac word s)) ∧
    (∀ (gid : Nat), ecRuns s = true →
      exec (.watchdogExpiry 3 gid) s = .next (startInternal 1 (fld gid 8 8 + 3) s)) ∧
    (s.ev.flushing = true →
      s.pm.pfwActions = false →
      s.pm.mode ≠ .frozen →
      exec (.evFlushEnd) s = .next ((fun v => if v.ev.flushAgain then startFlush
          { v with ev := { v.ev with flushAgain := false } } else v) (fireFlushVec (endLost ((s.ev.buffer.filter
          (·.inFlush)).foldl (fun v b => writeLog b.entry v)
          { s with ev := { s.ev with flushing := false, buffer := s.ev.buffer.filter (fun b => !b.inFlush) } }))))) ∧
    (s.pm.mode ≠ .frozen →
      s.ev.lastFlush + msCounts s.ev.flushMs ≤ s.tm.frc →
      exec (.flushMsExpiry) s = .next (flushTrigger s)) ∧
    (∀ (source code severity : Nat) (o : OpenRec), s.ev.opens.find? (fun o => o.entry.source == source && o.entry.code ==
        code && o.entry.severity == severity) = some o →
      s.pm.mode ≠ .frozen →
      o.opened + countsOfUs s.ev.coalesceUs ≤ s.tm.frc →
      exec (.recordClose source code severity) s = .next (closeRecord o.entry
          { s with ev := { s.ev with opens := s.ev.opens.filter (fun o => !(o.entry.source == source && o.entry.code == code && o.entry.severity == severity)) } }))
          ∧
    (s.pm.mode ≠ .frozen →
      s.cairn.opsecAt + 390625000 ≤ s.tm.frc →
      exec (.opsecTick) s = .next
          ({ s with cairn := { s.cairn with opsec := min (2 ^ 32 - 1) (s.cairn.opsec + 1), opsecAt := s.cairn.opsecAt + 390625000 } }))

/-- The events of resets, ZEROIZE, FREEZE_N and BOOT: where the conditions hold under which the spec lets it
act, each has its effect and nothing else. -/
def Obligations.ResetEventsComplete : Prop :=
  ∀ s : State,
    (∀ (cause : Nat), cause < 6 →
      causeMet s cause = true →
      causeEnabled s cause = true →
      ballastRuns (zeroize cause s) = false →
      exec (.zeroizeCause cause) s = .next (resetDevice .zeroize (zeroize cause s))) ∧
    (∀ (cause : Nat), cause < 6 →
      causeMet s cause = true →
      causeEnabled s cause = true →
      ballastRuns (zeroize cause s) = true →
      exec (.zeroizeCause cause) s = .next
          ({ zeroize cause s with pm := { (zeroize cause s).pm with pendZeroize := true } })) ∧
    (∀ (t : Nat), s.pm.pendWarm = some t →
      flushed s = true →
      elapsed t 1 s = true →
      exec (.warmResetTakesHold) s = .next (resetDevice .sysReset (periodicSave s))) ∧
    (∀ (t : Nat), s.pm.pendInternal = some t →
      flushed s = true →
      exec (.internalReset) s = .next (resetDevice .internal (periodicSave s))) ∧
    (∀ (t : Nat), s.pm.pendWipe = some t →
      s.pm.mode ≠ .frozen →
      elapsed t 1 s = true →
      exec (.lifecycleWipe) s = .next (resetDevice .lifecycle
          { s with cairn := { s.cairn with periodic := [], ballast := [], alive := none, ownerCtr := 0 } })) ∧
    (exec (.powerOnDetect true) s = .next ({ s with pins := { s.pins with railsOk := true } })) ∧
    (exec (.powerOnDetect false) s = .next
        ({ resetDevice .powerOn s with pins := { (resetDevice .powerOn s).pins with railsOk := false } })) ∧
    (ballastRuns s = true →
      elapsed s.pins.pfwFall (1 + ceilDiv s.am.pfwDur 10) s = true →
      s.pm.pendZeroize = false →
      exec (.ballastWriteEnd) s = .next
          ({ logCut s.am.pfwDur s with pm := { (logCut s.am.pfwDur s).pm with evHasCairn := true } })) ∧
    (s.pm.resetQual = true →
      elapsed s.pins.pfwFall 90 s = true →
      exec (.resetTakesHold) s = .next (resetDevice .resetN s)) ∧
    (∀ (passed bad : List Nat) (rootOk ownerOk : Bool) (img : Option Image), s.pm.bootReady = true →
      s.pm.mode = .boot →
      s.pins.railsOk = true →
      exec (.boot passed bad rootOk ownerOk img) s = .next (boot passed bad rootOk ownerOk img
          { s with pins := { s.pins with resetN := true } })) ∧
    (s.pm.ignoreFreezeN = false →
      exec (.freezeNAssert true) s = .next (freeze 1 { s with pins := { s.pins with freezeN := false } })) ∧
    (exec (.freezeNAssert false) s = .next ({ s with pins := { s.pins with freezeN := true } }))

/-- The events of power-fail, the sleep handshake, wakes and references: where the conditions hold under which the spec lets it
act, each has its effect and nothing else. -/
def Obligations.PowerEventsComplete : Prop :=
  ∀ s : State,
    (∀ (a : HsAnswer) (x : Handshake), s.pm.hs = some x →
      hsRuns s = true →
      x.asked.delaying = false →
      answerFits s x.asked.order x.asked.handle a = true →
      exec (.handshakeAnswer a) s = .next (takeAnswer x.asked a
          { s with pm := { s.pm with hs := some x.asked, hsBlock := hsSource x.asked.order } })) ∧
    (∀ (x : Handshake), s.pm.hs = some x →
      hsRuns s = true →
      x.delaying = true →
      x.delayEnd ≤ s.tm.frc →
      exec (.handshakeDelayEnd) s = .next ({ s with pm := { s.pm with hs := some { x with delaying := false } } })) ∧
    (exec (.mi2cAddressMatch) s = .next (mi2cMatch s)) ∧
    (s.pins.pfwN = true →
      exec (.pfwNFall) s = .next (endFreeze { s with pins := { s.pins with pfwN := false, pfwFall := s.tm.frc } })) ∧
    (∀ (dur : Nat), s.pins.pfwN = false →
      s.pm.pfwQual = false →
      dur ≤ 200 →
      elapsed s.pins.pfwFall 1 s = true →
      exec (.pfwQualified dur) s = .next (startPfw dur (note s.pm.nq 15 0x06 2 0 (count 0x10F028
          { s with pm := { s.pm with pfwQual := true } })))) ∧
    (s.pins.pfwN = false →
      s.pm.pfwQual = false →
      exec (.pfwNRise) s = .next (endIgnore (resumeMeters
          { s with pins := { s.pins with pfwN := true }, pm := { s.pm with pfwQual := false } }))) ∧
    (s.pins.pfwN = false →
      s.pm.pfwQual = true →
      exec (.pfwNRise) s = .next (endIgnore (resumeMeters (note s.pm.nq 15 0x07 0 0
          { s with pins := { s.pins with pfwN := true }, pm := { s.pm with pfwQual := false } })))) ∧
    (s.pm.pfwActions = true →
      s.pm.evHasCairn = true →
      s.pm.resetQual = false →
      elapsed s.pins.pfwFall 90 s = true →
      exec (.cairnRelease) s = .next (cairnReleased s)) ∧
    (∀ (dur : Nat), s.pm.resetQual = false →
      dur ≤ 200 →
      exec (.resetNQualified dur) s = .next (startPfw dur (endFreeze
          { s with pins := { s.pins with resetN := false, pfwFall := if s.pm.pfwActions then s.pins.pfwFall else s.tm.frc - countsOfUs 1 }, pm := { s.pm with resetQual := true } })))
          ∧
    (∀ (which : Nat), which < 2 →
      refOk s.ck (which == 1) = true →
      exec (.refFail 0 which) s = .next (takeOverPll ((which == 1) == refOf s.ck s.ck.activeB) 1 (note s.pm.nq 16 0x01 2
          which (count (0x10F808 + 8 * which) (markFailed 0 which
          { s with ck := (s.ck.setRef (which == 1) false).missed (which == 1) }))))) ∧
    (∀ (which : Nat), which < 2 →
      lockOk s.ck (which == 1) = true →
      exec (.refFail 1 which) s = .next (takeOverPll ((which == 1) == s.ck.activeB) 2 (note s.pm.nq 16 0x04 2 which (count
          0x10F818 (markFailed 1 which { s with ck := s.ck.setLock (which == 1) false }))))) ∧
    (∀ (which : Nat), which < 2 →
      requalifies 0 which s = true →
      refOk s.ck (which == 1) = false →
      exec (.refQualified 0 which) s = .next (ckSettle (note s.pm.nq 16 0x02 0 which
          { s with ck := s.ck.setRef (which == 1) true }))) ∧
    (∀ (which : Nat), which < 2 →
      requalifies 1 which s = true →
      lockOk s.ck (which == 1) = false →
      exec (.refQualified 1 which) s = .next (ckSettle { s with ck := s.ck.setLock (which == 1) true })) ∧
    (∀ (t : Nat), s.ck.preferSince = some t →
      s.ck.revertS ≠ 0 →
      s.ck.preferB ≠ s.ck.activeB →
      standbyOk s.ck = true →
      t + s.ck.revertS * 390625000 ≤ s.tm.frc →
      exec (.pllRevert) s = .next (ckSettle (switchPll 4 s))) ∧
    (∀ (passed : List Nat), s.pm.waking = true →
      s.pm.mode = .doze →
      exec (.wakeComplete false passed) s = .next (releaseMi2c ((waiting (endWakes 0 (wakeUp passed s))).foldl (fun v o =>
          runWoken o v) (endWakes 0 (wakeUp passed s))))) ∧
    (∀ (passed : List Nat), s.pm.waking = true →
      s.pm.mode = .doze →
      exec (.wakeComplete true passed) s = .next (wakeFailed s))

/-- The events of JTAG: where the conditions hold under which the spec lets it
act, each has its effect and nothing else. -/
def Obligations.JtagInstructionsComplete : Prop :=
  ∀ s : State,
    (∀ (pads : Nat), exec (.jtagExtest pads) s = .next (jtagCapture
        { (jtagSelect 0x00 1 s) with jtag := { (jtagSelect 0x00 1 s).jtag with boundary := pads } })) ∧
    (exec (.jtagIdcode) s = .next (jtagOut (Config.idcode % 2 ^ 32) (jtagSelect 0x01 0 s))) ∧
    (∀ (value : Nat), exec (.jtagSamplePreload value) s = .next (jtagCapture
        { (jtagSelect 0x02 0 s) with jtag := { (jtagSelect 0x02 0 s).jtag with boundary := value } })) ∧
    (exec (.jtagClamp) s = .next (jtagSelect 0x04 2 s)) ∧
    (exec (.jtagHighz) s = .next (jtagSelect 0x05 3 s)) ∧
    (∀ (chain : Nat), exec (.jtagFrzScan chain) s = .next (frzOut (Config.scanChain (chain % 2 ^ 8) s.tm.frc) (jtagSelect
        0x10 0 s))) ∧
    (∀ (mac word : Nat), mac < 1648 →
      word < 8192 →
      exec (.jtagFrzMem mac word) s = .next ((fun v =>
          { v with jtag := { v.jtag with frzMacro := mac, frzWord := (word + 1) % 2 ^ 13 } }) (frzOut (rawWord s mac word)
          (jtagSelect 0x11 0 s)))) ∧
    (∀ (offset : Nat), offset < 65536 →
      offset ≠ 0xF008 →
      offset ≠ 0xF00C →
      regOn s offset = true →
      exec (.jtagFrzReg offset) s = .next (frzOut (regValue s offset) (jtagSelect 0x12 0 s))) ∧
    (∀ (code : Nat), 0x20 ≤ code →
      code ≤ 0x2F →
      exec (.jtagDebug code) s = .next ((fun v => if debugOpen v then jtagCapture v else v) (jtagSelect code 0 s))) ∧
    (∀ (tdi : Bool), exec (.jtagBypass tdi) s = .next ((fun v => { v with jtag := { v.jtag with bypass := b2n tdi } })
        (jtagOut (jtagSelect 0xFF 0 s).jtag.bypass (jtagSelect 0xFF 0 s))))

/-- The events of rings, notice queues and FLR: where the conditions hold under which the spec lets it
act, each has its effect and nothing else. -/
def Obligations.HostEventsComplete : Prop :=
  ∀ s : State,
    (∀ (ring : Nat) (p : Packet), ring < 16 →
      mayFetch s ring = true →
      s.pm.mode ≠ .frozen →
      exec (.commandFetch ring p true) s = .next (setRing ring
          { getRing s ring with sqHead := ((getRing s ring).sqHead + 1) % 2 ^ (getRing s ring).sqLog2, fetched := (getRing s ring).fetched ++ [⟨packetHead p, false, false⟩] }
          s)) ∧
    (∀ (ring : Nat) (p : Packet), ring < 16 →
      mayFetch s ring = true →
      s.pm.mode ≠ .frozen →
      exec (.commandFetch ring p false) s = .next (dmaErr (.ring ring) s)) ∧
    (∀ (ring : Nat) (f : Fetched) (rest : List Fetched), (getRing s ring).fetched = f :: rest →
      ring < 16 →
      f.head.fence = true →
      fenceMet s ring f.dead = true →
      exec (.fenceRelease ring) s = .next (setRing ring
          { getRing s ring with fetched := { f with released := true } :: rest } s)) ∧
    (∀ (ring tail : Nat), ring < 16 →
      s.pm.mode ≠ .frozen →
      regOn s 0 = true →
      exec (.hiSqDbWrite ring tail) s = .next (sqDoorbell ring (tail % 2 ^ 16) s)) ∧
    (∀ (ring head : Nat), ring < 16 →
      s.pm.mode ≠ .frozen →
      regOn s 0 = true →
      exec (.hiCqDbWrite ring head) s = .next (cqDoorbell ring (head % 2 ^ 16) s)) ∧
    (∀ (ring value : Nat), ring < 16 →
      s.pm.mode ≠ .frozen →
      regOn s 0 = true →
      exec (.hiSqCfgWrite ring value) s = .next (sqConfig ring value s)) ∧
    (∀ (ring value : Nat), ring < 16 →
      s.pm.mode ≠ .frozen →
      regOn s 0 = true →
      exec (.hiCqCfgWrite ring value) s = .next (cqConfig ring value s)) ∧
    (∀ (q : Nat), q < 32 →
      s.pm.mode ≠ .frozen →
      exec (.hiNqPopRead q 8 true) s = .next (emit (.readData (leBytes 8 ((getNq s q).pop s.tm.frc).1)) (setNq q ((getNq s
          q).pop s.tm.frc).2 s))) ∧
    (∀ (q value : Nat), q < 32 →
      s.pm.mode ≠ .frozen →
      regOn s 0 = true →
      exec (.hiNqCfgWrite q value) s = .next (nqConfig q value s)) ∧
    (∀ (q : Nat), q < 32 →
      s.pm.mode ≠ .frozen →
      (getNq s q).timedOut s.tm.tickAt = true →
      exec (.nqTimeout q) s = .next (fireVector (16 + q) (setNq q { getNq s q with firedTimeout := true } s))) ∧
    (∀ (rx : Bool) (k tail : Nat), k < 8 →
      s.pm.mode ≠ .frozen →
      regOn s 0x1A00 = true →
      exec (.npPtDbWrite rx k tail) s = .next (ptDoorbell rx k (tail % 2 ^ 16) s)) ∧
    (∀ (rx : Bool) (k value : Nat), k < 8 →
      s.pm.mode ≠ .frozen →
      regOn s 0x1A00 = true →
      exec (.npPtCfgWrite rx k value) s = .next (ptConfig rx k value s)) ∧
    (∀ (perst : Bool), exec (.flr perst) s = .next
        ({ s with hi := { s.hi with rings := s.hi.rings.map (fun e => (e.1, e.2.flr)), ops := s.hi.ops.map OpEntry.flr, msix := [], pba := 0, lastRing0 := false, turn := 1, turnUsed := 0 } }))

/-- The events of register windows, MSPI, the mailbox: where the conditions hold under which the spec lets it
act, each has its effect and nothing else. -/
def Obligations.RegisterEventsComplete : Prop :=
  ∀ s : State,
    (exec (.tmFrcLoRead) s = .next (hostRead 0x2020 s)) ∧
    (∀ (el reg : Nat), el < 4 →
      reg < 8 →
      exec (.amCountLowRead el reg) s = .next (hostRead (0xB400 + 0x100 * el + 0x10 + 0x10 * reg) s)) ∧
    (∀ (addr v : Nat) (t : State), addr < 0x1000000 →
      addr % 4 = 0 →
      s.pm.mode ≠ .frozen →
      readBar2 addr s = (v, t) →
      exec (.counterLowRead ⟨addr, false⟩) s = .next (emit (.readData (leBytes 4 v)) t)) ∧
    (∀ (addr : Nat), addr < 0x1000000 →
      addr % 8 = 0 →
      s.pm.mode ≠ .frozen →
      exec (.counterLowRead ⟨addr, true⟩) s = .next (emit (.readData (leBytes 8 (readBar2Wide addr s))) s)) ∧
    (∀ (value : Nat), s.pm.mode ≠ .frozen →
      regOn s 0x3100 = true →
      exec (.siSelWrite value) s = .next (siSel (value % 2 ^ 32) s)) ∧
    (∀ (value : Nat), s.pm.mode ≠ .frozen →
      regOn s 0x8100 = true →
      exec (.scSelWrite value) s = .next (scSel (value % 2 ^ 10) s)) ∧
    (∀ (value : Nat), s.pm.mode ≠ .frozen →
      regOn s 0x9100 = true →
      exec (.alSelWrite value) s = .next (alSel (value % 2 ^ 12) s)) ∧
    (∀ (value : Nat), s.pm.mode ≠ .frozen →
      regOn s 0xC100 = true →
      exec (.ovSelWrite value) s = .next (ovSel (value % 2 ^ 8) s)) ∧
    (∀ (value : Nat), s.pm.mode ≠ .frozen →
      regOn s 0xD100 = true →
      exec (.ecSelWrite value) s = .next (ecSel (value % 2 ^ 11) s)) ∧
    (∀ (value : Nat), s.pm.mode ≠ .frozen →
      regOn s 0xD820 = true →
      exec (.evSpoolCurWrite value) s = .next (seekSpool (value % 2 ^ 32) s)) ∧
    (∀ (offset value : Nat), offset % 4 = 0 →
      offset < 0x10000 →
      s.pm.mode ≠ .frozen →
      regOn s offset = true →
      exec (.registerWrite offset value) s = .next (writeReg offset (value % 2 ^ 32) s)) ∧
    (∀ (offset value : Nat), offset % 4 = 0 →
      offset < 0x10000 →
      s.pm.mode ≠ .frozen →
      regOn s offset = false →
      exec (.registerWrite offset value) s = .next (setOffAccess s)) ∧
    (∀ (offset value : Nat), offset % 4 = 0 →
      0x1000000 ≤ offset →
      exec (.registerWrite offset value) s = .next (writeBar2 (offset - 0x1000000) (value % 2 ^ 32) s)) ∧
    (∀ (cmd count : Nat), mgmtSel cmd 0 = .status →
      exec (.mspiStatus ⟨.mspi, cmd, count⟩) s = .next ((mgmtLsw .mspi s))) ∧
    (∀ (cmd count : Nat), mgmtSel cmd 0 = .unknown →
      exec (.mspiStatus ⟨.mspi, cmd, count⟩) s = .next (emit (.readData (List.replicate (4 * count) 0)) (mgmtLsw .mspi s))) ∧
    (∀ (offset count : Nat), offset % 4 ≠ 0 →
      exec (.mspiRead .mspi offset count) s = .next (emit (.readData (List.replicate (4 * count) 0)) (mgmtLsw .mspi s))) ∧
    (∀ (offset count : Nat) (l : List Nat) (t : State), offset % 4 = 0 →
      readRegs count (offset % 2 ^ 16) (mgmtLsw .mspi s) = (l, t) →
      exec (.mspiRead .mspi offset count) s = .next (emit (.readData l) t)) ∧
    (∀ (p : Packet), exec (.mbSubmit .mspi p) s = .next (mgmtTake (.mbSubmit .mspi p) (mgmtLsw .mspi s))) ∧
    (exec (.mbFetch .mspi) s = .next (mbFetch (mgmtLsw .mspi s))) ∧
    (∀ (addr cmd count : Nat) (read : Bool), addr ≠ 0x58 + s.pins.mi2cAddr % 4 →
      exec (.mspiStatus ⟨.mi2c addr read, cmd, count⟩) s = .next (s)) ∧
    (∀ (addr offset count : Nat) (read : Bool), addr ≠ 0x58 + s.pins.mi2cAddr % 4 →
      exec (.mspiRead (.mi2c addr read) offset count) s = .next (s)) ∧
    (∀ (addr : Nat) (read : Bool), addr ≠ 0x58 + s.pins.mi2cAddr % 4 →
      exec (.mbFetch (.mi2c addr read)) s = .next (s))

/-- FINAL_COMPLETION of an operation of the classes SYS, CFG, PORT and TIME: its effect takes place and its
final record is written with the status and RESULT the spec gives; a late check that fails gives its status and no effect. -/
def Obligations.FinalHostOperationsComplete : Prop :=
  ∀ (k : Nat) (o : OpEntry) (fin : Finish) (s : State), mayEnd k o s → o.opcode < 0x1000 →
    (∀ (h : Hdr) (target : Nat) (v : State), o.cmd = .sysSetMode h target →
      fin.hwFault = false →
      v = { s with pm := { s.pm with setMode := none } } →
      (atTarget target s = true → exec (.finalCompletion k fin) s = .next (finalCompletion o 0 [] (v))) ∧
      (atTarget target s = false → target = 1 → exec (.finalCompletion k fin) s = .next (finalCompletion o 0 []
          (enterProvision v))) ∧
      (atTarget target s = false → target = 3 → exec (.finalCompletion k fin) s = .next (finalCompletion o 0 []
          (enterService v))) ∧
      (atTarget target s = false → target ≠ 1 → target ≠ 3 → s.pm.mode = .provision → admitted v = false → exec
          (.finalCompletion k fin) s = .next (finalCompletion o 0x31 [] (v))) ∧
      (atTarget target s = false → target ≠ 1 → target ≠ 3 → (s.pm.mode = .provision → admitted v = true) → exec
          (.finalCompletion k fin) s = .next (finalCompletion o 0 [] (enterCommission v)))) ∧
    (∀ (h : Hdr) (source addr len : Nat) (given img : Image), o.cmd = .cfgLoad h source addr len given →
      fin.hwFault = false →
      fin.dataBad = false →
      stagedInUse s = false →
      img = loadedImage s source given →
      img.fetchOk = true →
      (imageStatus img s = 0 → exec (.finalCompletion k fin) s = .next (finalCompletion o 0 (imageResult img 0 s)
          ({ s with cfg := { s.cfg with staged := some img } }))) ∧
      (imageStatus img s ≠ 0 → exec (.finalCompletion k fin) s = .next (finalCompletion o (imageStatus img s) (imageResult
          img (imageStatus img s) s) (countRevoked (imageStatus img s) s)))) ∧
    (∀ (h : Hdr) (img : Image) (v : State), o.cmd = .cfgCommit h →
      fin.hwFault = false →
      s.cfg.staged = some img →
      v = commitImage img s →
      (if v.pm.mode = .provision ∧ v.fuses.lifecycle = .operational then exec (.finalCompletion k fin) s = .next
          (finalCompletion o 0 [] (enterCommission v))
        else exec (.finalCompletion k fin) s = .next (finalCompletion o 0 [] (v)))) ∧
    (∀ (h : Hdr) (which addr len : Nat), o.cmd = .cfgReport h which addr len →
      exec (.finalCompletion k fin) s = .next (finalCompletion o 0 (leBytes 4 768) (hostOut addr 0x0403 (admissionReport
          (reportState which s) which) s))) ∧
    (∀ (h : Hdr) (img : Image), o.cmd = .cfgStore h →
      fin.hwFault = false →
      s.cfg.staged = some img →
      exec (.finalCompletion k fin) s = .next (finalCompletion o 0 [] ({ s with nor := some img }))) ∧
    (∀ (h : Hdr) (p : PortP), o.cmd = .portConfig h p →
      fin.hwFault = false →
      (if keepsPair p s = true then exec (.finalCompletion k fin) s = .next (finalCompletion o 0 [] (setPort p s))
        else exec (.finalCompletion k fin) s = .next (finalCompletion o 0x60 [] (s)))) ∧
    (∀ (h : Hdr) (p : GateP), o.cmd = .portGateLoad h p →
      fin.hwFault = true →
      exec (.finalCompletion k fin) s = .next (finalCompletion o 0x60 [] (updPort p.port (fun t =>
          { t with gatePend := none }) s))) ∧
    (∀ (h : Hdr) (p : PtpP), o.cmd = .timePtpConfig h p →
      fin.hwFault = false →
      exec (.finalCompletion k fin) s = .next (finalCompletion o 0 [] (setPtp p (markPtp p.inst none s)))) ∧
    (∀ (h : Hdr) (v : State), o.cmd = .timeMainRetest h →
      v = { s with tm := { s.tm with retest := none, selftest := false } } →
      (fin.pass = true → exec (.finalCompletion k fin) s = .next (finalCompletion o 0 [] (restoreMain v))) ∧ (fin.pass =
          false → exec (.finalCompletion k fin) s = .next (finalCompletion o 0x60 [] (v))))

/-- FINAL_COMPLETION of an operation of the classes STREAM, GROUP, CARAVAN, TOPO and OSC: its effect takes place and its
final record is written with the status and RESULT the spec gives; a late check that fails gives its status and no effect. -/
def Obligations.FinalGridOperationsComplete : Prop :=
  ∀ (k : Nat) (o : OpEntry) (fin : Finish) (s : State), mayEnd k o s → 0x1000 ≤ o.opcode → o.opcode < 0x2800 →
    (∀ (h : Hdr) (p : StreamP), o.cmd = .streamInstall h p →
      fin.hwFault = false →
      installStands p s = true →
      (if admitted (placeStream p true s) then exec (.finalCompletion k fin) s = .next (finalCompletion o 0 []
          (installStream p true s))
        else exec (.finalCompletion k fin) s = .next (finalCompletion o 0x31 [] (s)))) ∧
    (∀ (h : Hdr) (addr len : Nat), o.cmd = .streamList h addr len →
      exec (.finalCompletion k fin) s = .next (finalCompletion o 0 [] (hostOut addr 0x1006 (s.si.streams.map (fun e => 2 ^ 8
          * e.1 + e.2.state.code)) s))) ∧
    (∀ (h : Hdr) (p : GroupP), o.cmd = .groupDefine h p →
      fin.hwFault = false →
      groupLive s p.gid = false →
      (if admitted (placeGroup p [] true s) then exec (.finalCompletion k fin) s = .next (finalCompletion o 0 [] (reMode
          (placeGroup p [] true s)))
        else exec (.finalCompletion k fin) s = .next (finalCompletion o 0x31 [] s))) ∧
    (∀ (h : Hdr) (gid op count : Nat) (sids : List Nat) (g : Group) (t : State), o.cmd = .groupMembers h gid op count sids →
      fin.hwFault = false →
      groupLive s gid = true →
      membersStand gid op sids s = true →
      getGroup s gid = some g →
      t = leaveWaiting gid op sids (setGroup gid { g with members := newMembers op sids g.members } s) →
      (if admitted t then exec (.finalCompletion k fin) s = .next (finalCompletion o 0 [] (reMode t))
        else exec (.finalCompletion k fin) s = .next (finalCompletion o 0x31 [] (s)))) ∧
    (∀ (h : Hdr) (p : TimingP) (g : Group) (t : State), o.cmd = .groupSetTiming h p →
      fin.hwFault = false →
      groupLive s p.gid = true →
      getGroup s p.gid = some g →
      t = setGroup p.gid
          { g with p := { g.p with expect := p.expect, windowUs := p.windowUs, horizonUs := p.horizonUs, lateSpanUs := p.lateSpanUs, amendMs := p.amendMs } }
          s →
      (if admitted t then exec (.finalCompletion k fin) s = .next (finalCompletion o 0 [] (reMode t))
        else exec (.finalCompletion k fin) s = .next (finalCompletion o 0x31 [] (s)))) ∧
    (∀ (h : Hdr) (p : SessionP), o.cmd = .groupSessionDefine h p →
      fin.hwFault = false →
      signingOk p s = true →
      groupLive s p.gid = true →
      (tfind s.erg.sessions p.session).any (·.en) = false →
      (if admitted (placeSession p false true s) then exec (.finalCompletion k fin) s = .next (finalCompletion o 0 []
          (reMode (placeSession p false true s)))
        else exec (.finalCompletion k fin) s = .next (finalCompletion o 0x31 [] s))) ∧
    (∀ (h : Hdr) (gid sid index addr len : Nat), o.cmd = .groupReadCell h gid sid index addr len →
      ((getInstant s gid index).bind (fun i => i.cellOf sid) = none → exec (.finalCompletion k fin) s = .next
          (finalCompletion o 0 [1] (s))) ∧
      (∀ c v, (getInstant s gid index).bind (fun i => i.cellOf sid) = some c → readAll c s = (true, v) → fin.dataBad = false
          → exec (.finalCompletion k fin) s = .next (finalCompletion o 0 [0] (hostOut addr 0x1410 (cellWords gid index sid
          c) v))) ∧
      (∀ c v, (getInstant s gid index).bind (fun i => i.cellOf sid) = some c → readAll c s = (false, v) → exec
          (.finalCompletion k fin) s = .next (finalCompletion o 0x61 [] (v)))) ∧
    (∀ (h : Hdr) (p : JobP), o.cmd = .caravanJobDefine h p →
      fin.hwFault = false →
      getJob s p.job = none →
      jobFits p s = true →
      (if admitted (placeJob { p with ruleCap := 0 } true s) then exec (.finalCompletion k fin) s = .next (finalCompletion o
          0 [] (reMode (placeJob { p with ruleCap := 0 } true s)))
        else exec (.finalCompletion k fin) s = .next (finalCompletion o 0x31 [] s))) ∧
    (∀ (h : Hdr) (job gid en : Nat) (t : State), o.cmd = .caravanJobBind h job gid en →
      (getJob s job).isSome = true →
      t = bindJob job gid (en == 1) s →
      (en = 1 → groupLive s gid = true ∧ bindingsOk t = true) →
      (if admitted t then exec (.finalCompletion k fin) s = .next (finalCompletion o 0 [] (reMode t))
        else exec (.finalCompletion k fin) s = .next (finalCompletion o 0x31 [] (s)))) ∧
    (∀ (h : Hdr) (p : LevelP), o.cmd = .caravanLevelConfig h p →
      (if admitted (setLevels p s) then exec (.finalCompletion k fin) s = .next (finalCompletion o 0 [] (reMode (setLevels p
          s)))
        else exec (.finalCompletion k fin) s = .next (finalCompletion o 0x31 [] s))) ∧
    (∀ (h : Hdr) (engine : Nat), o.cmd = .caravanEngineRetire h engine →
      fin.hwFault = false →
      ((getEngine s engine).st = .idle ∨ (getEngine s engine).st = .running ∨ (getEngine s engine).st = .spare) →
      (if admitted (loseEngine engine .selftest s) then exec (.finalCompletion k fin) s = .next (finalCompletion o 0 []
          (retireByCommand engine s))
        else exec (.finalCompletion k fin) s = .next (finalCompletion o 0x31 [] (s)))) ∧
    (∀ (h : Hdr) (engine : Nat) (v : State), o.cmd = .caravanEngineRestore h engine →
      v = updEngine engine (fun e => { e with busy := none }) s →
      (fin.pass = true → exec (.finalCompletion k fin) s = .next (finalCompletion o 0 [] (reMode (restoreEngine engine
          (count (msCtr 0x28) v))))) ∧
      (fin.pass = false → exec (.finalCompletion k fin) s = .next (finalCompletion o 0x60 [] (retireEngine engine (count
          (msCtr 0x30) v))))) ∧
    (∀ (h : Hdr) (addr len : Nat) (m : ModelP) (t : State), o.cmd = .topoModelLoad h addr len true true m →
      fin.hwFault = false →
      fin.dataBad = false →
      o.phase ≠ .committed →
      s.ts.refac = none →
      modelOk s m = true →
      t = placeModel m s →
      (admitted t = false → exec (.finalCompletion k fin) s = .next (finalCompletion o 0x31 [] (s))) ∧
      (admitted t = true → m.hasFactor = true → exec (.finalCompletion k fin) s = .next (finalCompletion o 0 [] (t))) ∧
      (∀ v, v = updOp o.handle (fun o => { o with phase := .committed }) t → admitted t = true → m.hasFactor = false →
        exec (.finalCompletion k fin) s = .next (requestRefac 5 v.ts.facClosed v.ts.facUses [o.handle] v))) ∧
    (∀ (h : Hdr) (index sections addr len : Nat) (r : TsResult) (w : List Nat), o.cmd = .topoReadResult h index sections
        addr len →
      fin.dataBad = false →
      pickResult s index = some r →
      w = (resultWords r sections).take (len / 4) →
      exec (.finalCompletion k fin) s = .next (finalCompletion o 0 (leBytes 4 (4 * w.length)) (hostOut addr 0x1C10 w s))) ∧
    (∀ (h : Hdr) (p : SigP), o.cmd = .oscSignalDefine h p →
      fin.hwFault = false →
      sigFits p s = true →
      (if admitted (placeSig p s) then exec (.finalCompletion k fin) s = .next (finalCompletion o 0 [] (reMode (placeSig p
          s)))
        else exec (.finalCompletion k fin) s = .next (finalCompletion o 0x31 [] (s)))) ∧
    (∀ (h : Hdr) (p : OscGroupP), o.cmd = .oscGroupDefine h p →
      fin.hwFault = false →
      groupFits p (groupSigs s p.group).length = true →
      (if admitted (placeOscGroup p s) then exec (.finalCompletion k fin) s = .next (finalCompletion o 0 [] (reMode
          (placeOscGroup p s)))
        else exec (.finalCompletion k fin) s = .next (finalCompletion o 0x31 [] (s)))) ∧
    (∀ (h : Hdr) (first count depth addr len : Nat), o.cmd = .oscReadBands h first count depth addr len →
      fin.dataBad = false →
      exec (.finalCompletion k fin) s = .next (finalCompletion o 0 []
          ({ hostOut addr 0x2010 ((List.range count).flatMap (fun i => bandsOf s (first + i) depth (s.freeCtr + 3 * depth * i))) s with
          freeCtr := s.freeCtr + 3 * depth * count }))) ∧
    (∀ (h : Hdr) (group depth addr len : Nat) (w : List Nat), o.cmd = .oscReadModes h group depth addr len →
      fin.dataBad = false →
      w = fitRecords (len / 4) (((((tfind s.sc.groups group).map (·.recs)).getD []).take depth).map (slowWords group)) →
      exec (.finalCompletion k fin) s = .next (finalCompletion o 0 (leBytes 4 (4 * w.length)) (hostOut addr 0x2011 w s)))

/-- FINAL_COMPLETION of an operation of the classes ACQ, METER, VAULT, LOG and POWER: its effect takes place and its
final record is written with the status and RESULT the spec gives; a late check that fails gives its status and no effect. -/
def Obligations.FinalRestOperationsComplete : Prop :=
  ∀ (k : Nat) (o : OpEntry) (fin : Finish) (s : State), mayEnd k o s → 0x2800 ≤ o.opcode →
    (∀ (h : Hdr) (p : ChanP), o.cmd = .acqChannelDefine h p →
      fin.hwFault = false →
      chanFree p s = true →
      (if admitted (placeChan p true s) then exec (.finalCompletion k fin) s = .next (finalCompletion o 0 [] (reMode
          (placeChan p true s)))
        else exec (.finalCompletion k fin) s = .next (finalCompletion o 0x31 [] s))) ∧
    (∀ (h : Hdr) (p : AqRingP) (slot : Nat) (t : State), o.cmd = .acqRingDefine h p →
      fin.hwFault = false →
      ringFits p s = true →
      slot = ((getChan s p.ch).map (fun c => slotBytes p.kind c.p)).getD 0 →
      t = placeRing p true (((getAqRing s (ringNo p)).map (·.byCommand)).getD true) s →
      (if admitted t then exec (.finalCompletion k fin) s = .next (finalCompletion o 0 (leBytes 4 slot ++ leBytes 8 (slot *
          2 ^ p.log2Slots)) (t))
        else exec (.finalCompletion k fin) s = .next (finalCompletion o 0x31 [] (s)))) ∧
    (∀ (h : Hdr) (mask slot addr len : Nat) (body : List Nat), o.cmd = .meterEnergySigned h mask slot addr len →
      fin.hwFault = false →
      stmtEnded s = false →
      drbgServes s = true →
      body = statementBody mask s →
      (keyUse s slot 3 [2, 3] = 0 → statementLen s mask slot ≤ len →
        exec (.finalCompletion k fin) s = .next (finalCompletion o 0 [] (hostOut addr 0x2C0B (body ++ signBytes s slot body)
            (takeStatement (drawRandom s).2)))) ∧
      (keyUse s slot 3 [2, 3] ≠ 0 → exec (.finalCompletion k fin) s = .next (finalCompletion o 0x42 [] (countRevoked 0x42
          s)))) ∧
    (∀ (h : Hdr) (p : VsP), o.cmd = .meterVstreamDefine h p →
      fin.hwFault = false →
      twoPhase p.seqMask s = false →
      (if admitted (putVs p true s) then exec (.finalCompletion k fin) s = .next (finalCompletion o 0 [] (placeVs p true s))
        else exec (.finalCompletion k fin) s = .next (finalCompletion o 0x31 [] (s)))) ∧
    (∀ (h : Hdr), o.cmd = .meterSave h →
      (fin.hwFault = false → exec (.finalCompletion k fin) s = .next (finalCompletion o 0 [] (periodicSave s))) ∧
          (fin.hwFault = true → exec (.finalCompletion k fin) s = .next (finalCompletion o 0x60 [] (saveFailed s)))) ∧
    (∀ (h : Hdr) (target : Nat) (key : Option Nat) (l : Lifecycle) (t : State), o.cmd = .vaultLifecycle h target key →
      fin.hwFault = false →
      lifecycleOf target = some l →
      lifecycleStep s.fuses.lifecycle target = true →
      (l = .provisioned → key.isSome = true ∧ drbgServes s = true) →
      t = finalCompletion o 0 [] (burnFuses l key s) →
      exec (.finalCompletion k fin) s = .next { t with pm := { t.pm with pendWipe := some t.tm.frc } }) ∧
    (∀ (h : Hdr) (v : State), o.cmd = .vaultRootGenerate h →
      fin.hwFault = false →
      drbgServes s = true →
      s.ov.tamper = false →
      v = (drawRandom s).2 →
      exec (.finalCompletion k fin) s = .next (finalCompletion o 0 []
          ({ v with ov := { v.ov with root := some ((drawRandom s).1 % 2 ^ 256), rootRegen := true } }))) ∧
    (∀ (h : Hdr) (slot alg usage lock v : Nat) (t : State), o.cmd = .vaultGenerate h slot alg usage lock →
      fin.hwFault = false →
      drbgServes s = true →
      spanEmpty s slot alg = true →
      drawRandom s = (v, t) →
      exec (.finalCompletion k fin) s = .next (finalCompletion o 0 [] (putKey slot ⟨usage, 0, false, false, lock == 1, true,
          alg, false, false, 0, drawnKey alg v, none⟩ t))) ∧
    (∀ (h : Hdr) (slot parent alg usage lock label : Nat), o.cmd = .vaultDerive h slot parent alg usage lock label →
      fin.hwFault = false →
      spanEmpty s slot alg = true →
      parentStatus parent s = 0 →
      exec (.finalCompletion k fin) s = .next (finalCompletion o 0 [] (putKey slot (derivedKey s parent alg usage (lock ==
          1) label) s))) ∧
    (∀ (h : Hdr) (p : ImportP), o.cmd = .vaultImport h p →
      fin.hwFault = false →
      spanEmpty s p.slot p.alg = true →
      (p.form = 1 → keyUse s p.wrapSlot 0 [0] = 0) →
      (p.form = 2 → (rootInForce s).isSome = true) →
      (∀ attr key, importedMaterial p s = some (attr, key) → exec (.finalCompletion k fin) s = .next (finalCompletion o 0 []
          (putKey p.slot (importedKey p.form p.wrapSlot p.alg p.usage p.exportable p.lock p.owner (bit attr 15) key) s))) ∧
      (importedMaterial p s = none → exec (.finalCompletion k fin) s = .next (finalCompletion o 0x41 [] (s)))) ∧
    (∀ (h : Hdr) (slot addr len r : Nat) (x : Slot), o.cmd = .vaultSeal h slot addr len →
      fin.hwFault = false →
      rootInForce s = some r →
      getSlot s slot = some x →
      drbgServes s = true →
      heldStatus s slot = 0 →
      blobLen x.alg ≤ len →
      exec (.finalCompletion k fin) s = .next (finalCompletion o 0 (leBytes 4 (blobLen x.alg)) (hostOut addr o.opcode
          (blobBytes x (sealKey s r) s.fuses.uid
          ((drawRandom s).1 % 2 ^ 96)) (drawRandom s).2))) ∧
    (∀ (h : Hdr) (slot wrapSlot uid addr len : Nat) (x : Slot), o.cmd = .vaultExport h slot wrapSlot uid addr len →
      fin.hwFault = false →
      keyUse s wrapSlot 0 [0] = 0 →
      getSlot s slot = some x →
      x.exportable = true →
      drbgServes s = true →
      heldStatus s slot = 0 →
      blobLen x.alg ≤ len →
      exec (.finalCompletion k fin) s = .next (finalCompletion o 0 (leBytes 4 (blobLen x.alg)) (hostOut addr o.opcode
          (blobBytes x (((getSlot s wrapSlot).map (·.material)).getD 0) uid
          ((drawRandom s).1 % 2 ^ 96)) (drawRandom s).2))) ∧
    (∀ (h : Hdr) (slot nonce addr len : Nat) (body : List Nat), o.cmd = .vaultAttest h slot nonce addr len →
      fin.hwFault = false →
      drbgServes s = true →
      stmtEnded s = false →
      (rootInForce s).isSome = true →
      body = attestBody slot nonce s →
      ((slot = 0xFF ∨ attestable s slot = true) → exec (.finalCompletion k fin) s = .next (finalCompletion o 0 [] (hostOut
          addr 0x3016 (body ++ ecdsaSign p384 (identityKey s) (drawRandom s).1 body) (takeStatement (drawRandom s).2)))) ∧
      (slot ≠ 0xFF → attestable s slot = false → exec (.finalCompletion k fin) s = .next (finalCompletion o 0x42 []
          (countRevoked 0x42 s)))) ∧
    (∀ (h : Hdr) (first count addr len c : Nat) (l : List LogRec) (t : Tbl LogRec) (v : State), o.cmd = .logRead h first
        count addr len →
      fin.dataBad = false →
      c = clampCur s first →
      (l = if s.cairn.log.isEmpty then [] else (logFrom s c).take count) →
      (readRecords l s = (t, true, v) → exec (.finalCompletion k fin) s = .next (finalCompletion o 0 (leBytes 4 c ++ leBytes
          2 l.length) (hostOut addr 0x3402 (l.flatMap logBytes) v))) ∧
      (readRecords l s = (t, false, v) → exec (.finalCompletion k fin) s = .next (finalCompletion o 0x61 [] (v)))) ∧
    (∀ (h : Hdr), o.cmd = .logFlush h →
      fin.hwFault = false →
      s.ev.flushing = false →
      s.ev.flushAgain = false →
      exec (.finalCompletion k fin) s = .next (finalCompletion o 0 (leBytes 4 (evNewest s)) (s))) ∧
    (∀ (h : Hdr) (v : State), o.cmd = .powerRefSwitch h →
      v = { s with ck := { s.ck with switching := false } } →
      (fin.hwFault = false → standbyOk s.ck = true → exec (.finalCompletion k fin) s = .next (finalCompletion o 0 []
          (switchPll 3 v))) ∧
      ((fin.hwFault = true ∨ standbyOk s.ck = false) → exec (.finalCompletion k fin) s = .next (finalCompletion o 0x60 []
          (v))))

/-- An operation of the listed commands that a hardware fault ends completes HW_FAULT and leaves no effect (log entry 7: the
model's reading where an opcode's chapter says nothing; 12 R402 says it of VAULT.LIFECYCLE). -/
def Obligations.FaultedOperationsLeaveNoEffect : Prop :=
  ∀ (k : Nat) (o : OpEntry) (fin : Finish) (s : State), mayEnd k o s → fin.hwFault = true →
    (o.opcode < 0x1000 ∧ ((∃ h, o.cmd = .cfgCommit h) ∨ (∃ h, o.cmd = .cfgStore h) ∨ (∃ h p, o.cmd = .portConfig h p))) ∨
    (0x1000 ≤ o.opcode ∧ o.opcode < 0x2800 ∧
      ((∃ h p, o.cmd = .streamInstall h p) ∨ (∃ h p, o.cmd = .groupDefine h p) ∨ (∃ h gid op n l, o.cmd = .groupMembers h
          gid op n l) ∨ (∃ h p, o.cmd = .groupSetTiming h p) ∨ (∃ h p, o.cmd = .groupSessionDefine h p) ∨ (∃ h p, o.cmd =
          .caravanJobDefine h p) ∨ (∃ h n, o.cmd = .caravanEngineRetire h n) ∨ (∃ h p, o.cmd = .oscSignalDefine h p) ∨ (∃ h
          p, o.cmd = .oscGroupDefine h p))) ∨
    (0x2800 ≤ o.opcode ∧
      ((∃ h p, o.cmd = .acqChannelDefine h p) ∨ (∃ h p, o.cmd = .acqRingDefine h p) ∨ (∃ h m sl a l, o.cmd =
          .meterEnergySigned h m sl a l) ∨ (∃ h p, o.cmd = .meterVstreamDefine h p) ∨ (∃ h t k, o.cmd = .vaultLifecycle h t
          k) ∨ (∃ h, o.cmd = .vaultRootGenerate h) ∨ (∃ h a b c d, o.cmd = .vaultGenerate h a b c d) ∨ (∃ h a b c d e f,
          o.cmd = .vaultDerive h a b c d e f) ∨ (∃ h p, o.cmd = .vaultImport h p) ∨ (∃ h a b c, o.cmd = .vaultSeal h a b c)
          ∨ (∃ h a b c d e, o.cmd = .vaultExport h a b c d e) ∨ (∃ h a b c d, o.cmd = .vaultAttest h a b c d) ∨ (∃ h, o.cmd
          = .logFlush h))) →
    exec (.finalCompletion k fin) s = .next (finalCompletion o 0x60 [] s)

/-- The frame of every host command: no field of the state changes but those listed for it in `mayChange`; the queue of commands
is never among them. -/
def Obligations.HostCommandsKeepTheirFrame : Prop :=
  ∀ (c : Instr) (s t : State) (p : Proc), procOf c s = some p → exec c s = .next t →
    ChangesOnly (mayChange c) s t ∧ t.pending = s.pending ∧ t.fuses = s.fuses ∧ t.jtag = s.jtag ∧ t.pins = s.pins

/-- The frame of every other command, an event on a pin, a line, a timer or a register: no field of the state changes but those
listed for it in `mayChange`; the queue of commands is never among them. -/
def Obligations.EventsKeepTheirFrame : Prop :=
  ∀ (c : Instr) (s t : State), procOf c s = none → exec c s = .next t → ChangesOnly (mayChange c) s t ∧ t.pending = s.pending

/-- Steps 2 to 6 of R51, in their order, for every host command: the first check that fails gives the status, and nothing else
stands but what a failed tag counts (12 R386). A parameter buffer that cannot be read sets DMA_FAULT (02 R42); that it
completes HW_FAULT then is the model's choice (log entry 71). -/
def Obligations.TurnedAwayByTheChecks : Prop :=
  ∀ (c : Instr) (s : State) (p : Proc), procOf c s = some p → dispatches p.h p.spec.opcode s = true →
    ∀ w : State, w = takeHead p.h.src s →
    (lengthOk p.h p.spec = false → exec c s = .next (refusedWith p.h p.spec.opcode 0x12 s w)) ∧
    (lengthOk p.h p.spec = true → bufLost p.h = true →
      exec c s = .next (refusedWith p.h p.spec.opcode 0x60 s (dmaErr p.h.src w))) ∧
    (lengthOk p.h p.spec = true → bufLost p.h = false → (authVerdict p.h p.spec w).1 ≠ 0 →
      exec c s = .next (refusedWith p.h p.spec.opcode (authVerdict p.h p.spec w).1 s (authFailure p.h p.spec w))) ∧
    (lengthOk p.h p.spec = true → bufLost p.h = false → (authVerdict p.h p.spec w).1 = 0 →
      (paramsOk p.h p.spec = false → exec c s = .next (refusedWith p.h p.spec.opcode 0x11 s w)) ∧
      (paramsOk p.h p.spec = true →
        (modeAdmits p.spec w = false → exec c s = .next (refusedWith p.h p.spec.opcode 0x20 s w)) ∧
        (modeAdmits p.spec w = true → p.spec.domOk = false → p.h.wake = false →
          exec c s = .next (refusedWith p.h p.spec.opcode 0x21 s w))))

/-- A command that completes with a status from 0x10 to 0x51 has had no effect, but for the count of commands refused for a
revoked key. SYS.NQ_REWIND, which may move its mark (R69), and CARAVAN.RUN, whose trigger counts as an overrun when it is
BUSY (07 R229), are apart; a SYS.CANCEL that cancels nothing leaves only the model's note of how far the operation has come
(log entry 23). -/
def Obligations.RefusedCommandsLeaveNoTrace : Prop :=
  (∀ (handle : Nat) (v : State), (cancelHandle handle v).status ≠ 0 →
      (cancelHandle handle v).state = v ∨ (cancelHandle handle v).state = lookAt handle v) ∧
    ∀ (c : Instr) (s : State) (p : Proc), procOf c s = some p → (∀ h q, c ≠ .sysNqRewind h q) → (∀ h j a, c ≠ .caravanRun h
        j a) →
    (∀ h k, c ≠ .sysCancel h k) →
    (∀ body after, p.work = .done body after → ∀ v : State, 0x10 ≤ (body v).status → (body v).status ≤ 0x51 →
      (body v).state = v ∨ (body v).state = countRevoked (body v).status v) ∧
    (∀ phase first start missed, p.work = .accepted phase first start missed → ∀ v : State, first v ≠ 0 →
      missed v = v ∨ missed v = countRevoked (first v) v)

/-- In BOOT every host command but SYS.NOP, SYS.IDENTIFY and SYS.QUERY_HANDLE completes MODE_FORBIDS, after the checks of length,
tag and values that R51 puts before it. -/
def Obligations.BootAdmitsThreeCommands : Prop :=
  ∀ (c : Instr) (s : State) (p : Proc), procOf c s = some p → s.pm.mode = .boot → 2 < p.spec.opcode →
    dispatches p.h p.spec.opcode s = true → lengthOk p.h p.spec = true → bufLost p.h = false →
    (authVerdict p.h p.spec (takeHead p.h.src s)).1 = 0 → paramsOk p.h p.spec = true →
    exec c s = .next (refusedWith p.h p.spec.opcode 0x20 s (takeHead p.h.src s))

/-- At most 1,024 handles are outstanding at once, and a command that would need one more completes NO_RESOURCE. -/
def Obligations.HandlesRunOut : Prop :=
  (∀ s t : State, HostOk s → step s = .next t → t.hi.ops.length ≤ 1024) ∧
    (∀ (c : Instr) (s : State) (p : Proc) (phase : Phase) (first : State → Nat) (start : Nat → State → State) (missed :
        State → State),
      procOf c s = some p → p.work = .accepted phase first start missed → passes p.h p.spec s = true →
      first (takeHead p.h.src s) = 0 → 1024 ≤ s.hi.ops.length →
      exec c s = .next (refusedWith p.h p.spec.opcode 0x30 s (takeHead p.h.src s)))

/-- The handle of an ACCEPTED command: the class byte is the opcode's upper byte, the sequence lies in 1 to 0xFFFFFF and is no
outstanding one, and the counter passes from 0xFFFFFF to 1. -/
def Obligations.HandleNumbersAreFresh : Prop :=
  ∀ (s : State) (h : Hdr) (dead : Bool) (opcode : Nat) (cmd : Instr) (phase : Phase), s.hi.ops.length ≤ 1024 → 1 ≤ s.hi.seq →
    s.hi.seq ≤ 0xFFFFFF → opcode < 2 ^ 16 →
    (1 ≤ nextSeq s ∧ nextSeq s ≤ 0xFFFFFF) ∧ (∀ o ∈ s.hi.ops, o.handle % 2 ^ 24 ≠ nextSeq s) ∧
    newHandle opcode s / 2 ^ 24 = opcode / 256 ∧ newHandle opcode s % 2 ^ 24 = nextSeq s ∧
    (openHandle h dead opcode cmd phase s).hi.seq = (if nextSeq s = 0xFFFFFF then 1 else nextSeq s + 1)

/-- The GX9 never drops or overwrites a completion record: a record written to a ring joins the end of the ring's records, those
that have left and those that wait, and draining loses and reorders none. -/
def Obligations.RecordsAreNeverDropped : Prop :=
  (∀ (n : Nat) (r : Record) (fires : Bool) (s : State),
      ringRecords n (writeRecord (.ring n) r fires s) = ringRecords n s ++ [r] ∧
      ∀ m, m ≠ n → ringRecords m (writeRecord (.ring n) r fires s) = ringRecords m s) ∧
    (∀ (n fuel : Nat) (s : State) (m : Nat), ringRecords m (drainRing n fuel s) = ringRecords m s) ∧
    (∀ (r : Record) (fires : Bool) (s : State), (writeRecord .mailbox r fires s).hi.mb.fifo = s.hi.mb.fifo ++ [r])

/-- In FROZEN every command leaves the state as it is but those of the endpoint, the management interfaces, the pins, tamper and
references, the resets they cause, and JTAG; an idle step changes nothing, so the FRC holds. -/
def Obligations.FrozenHoldsStill : Prop :=
  ∀ s : State, s.pm.mode = .frozen →
    (∀ c : Instr, actsInFrozen c = false → exec c s = .next s) ∧ (s.pending = [] → step s = .next s)

/-- An enabled ZEROIZE cause whose condition holds leaves no key behind, and the tamper latch records it through the reset that follows. -/
def Obligations.ZeroizeErasesEveryKey : Prop :=
  ∀ (cause : Nat) (s t : State), cause < 6 → causeEnabled s cause = true → causeMet s cause = true →
    exec (.zeroizeCause cause) s = .next t →
    t.ov.slots = [] ∧ t.ov.kreg = none ∧ t.ov.root = none ∧ t.ov.mirage = none ∧ t.ov.entropyOk = false ∧ t.ov.tamper = true
        ∧
    t.ov.causes = s.ov.causes ||| 2 ^ cause ∧
    (∀ e ∈ t.np.ports, (∀ a ∈ e.2.txSa, a.2.disabled = true) ∧ (∀ a ∈ e.2.rxSa, a.2.disabled = true))

/-- A statistics counter adds one, saturates at 2^48 - 1 with OVF, and no other counter changes; a clear takes value and OVF, and
an increment after it reads 1 (00 R15). -/
def Obligations.CountersSaturateAndClear : Prop :=
  ∀ (a : Nat) (s : State), CountersOk s.counters →
    (tget 0 s.counters a % 2 ^ 48 < 2 ^ 48 - 1 → tget 0 (count a s).counters a = tget 0 s.counters a + 1) ∧
    (tget 0 s.counters a % 2 ^ 48 = 2 ^ 48 - 1 → tget 0 (count a s).counters a = 2 ^ 63 + (2 ^ 48 - 1)) ∧
    (∀ b, b ≠ a → tget 0 (count a s).counters b = tget 0 s.counters b) ∧
    tget 0 (clearCounters a 8 s).counters a = 0 ∧ tget 0 (count a (clearCounters a 8 s)).counters a = 1

/-- The five operations of R69 on the pointers w, r, l and m of a notice queue and on its held entries. -/
def Obligations.NoticeQueuePointers : Prop :=
  ∀ (n : Nq) (e now k : Nat), NqOk n →
    (n.w - n.l = 1024 → (n.produce e now).w = n.w + 1 ∧ (n.produce e now).l = n.l + 1 ∧
      (n.produce e now).r = (if n.r < n.l + 1 then n.l + 1 else n.r) ∧ (n.produce e now).lost = satAdd48 n.lost 1 ∧
      (n.produce e now).m = n.m ∧ (n.produce e now).markValid = n.markValid ∧
      (n.produce e now).markLost = (n.markLost || (n.markValid && decide (n.m < n.l + 1))) ∧
      (n.produce e now).held = n.held.drop 1 ++ [e]) ∧
    (n.w - n.l ≠ 1024 → (n.produce e now).w = n.w + 1 ∧ (n.produce e now).l = n.l ∧ (n.produce e now).r = n.r ∧
      (n.produce e now).lost = n.lost ∧ (n.produce e now).m = n.m ∧ (n.produce e now).markValid = n.markValid ∧
      (n.produce e now).markLost = n.markLost ∧ (n.produce e now).held = n.held ++ [e]) ∧
    (n.r = n.w → n.pop now = (0, n)) ∧
    (n.r ≠ n.w → (n.pop now).1 = n.held.getD (n.r - n.l) 0 ∧ (n.pop now).2.r = n.r + 1 ∧ (n.pop now).2.w = n.w ∧
      (n.pop now).2.l = n.l ∧ (n.pop now).2.m = n.m ∧ (n.pop now).2.held = n.held ∧
      (n.pop now).2.markValid = n.markValid ∧ (n.pop now).2.markLost = n.markLost) ∧
    n.mark = { n with m := n.r, markValid := true, markLost := false } ∧
    (n.markValid = false → n.rewind now = (n, false)) ∧
    (n.markValid = true → n.markLost = true → n.rewind now = ({ n with m := n.l, markLost := false }, false)) ∧
    (n.markValid = true → n.markLost = false → (n.rewind now).2 = true ∧ (n.rewind now).1.r = n.m ∧ (n.rewind now).1.w = n.w
        ∧
      (n.rewind now).1.l = n.l ∧ (n.rewind now).1.m = n.m ∧ (n.rewind now).1.held = n.held ∧
      (n.rewind now).1.markValid = true ∧ (n.rewind now).1.markLost = false) ∧
    (n.r - n.l < k → n.release k = (n, false)) ∧
    (0 < k → k ≤ n.r - n.l →
      n.release k = ({ n with l := n.l + k, held := n.held.drop k, markValid := n.markValid && decide (n.l + k ≤ n.m) },
          true)) ∧
    n.release 0 = ({ n with l := n.r, held := n.held.drop (n.r - n.l), markValid := n.markValid && decide (n.r ≤ n.m) },
        true)

/-- set_rate of R124 loads the new RATE and rebases OFFSET on the same edge, so device time is the same under both pairs; a step
adds its amount to OFFSET, and of the pair changes OFFSET alone. -/
def Obligations.RateChangesKeepTime : Prop :=
  ∀ (r : Nat) (d : Int) (s : State), s.tm.mainFailed = false →
    (setRate r s).tm.rate = r ∧ (setRate r s).tm.offset = s.tm.offset + s.tm.frc * ((s.tm.rate : Int) - r) ∧
    (setRate r s).tm.frc = s.tm.frc ∧ mainTime (setRate r s) = mainTime s ∧
    (moveTime d s).tm.offset = s.tm.offset + d ∧ (moveTime d s).tm.rate = s.tm.rate ∧ (moveTime d s).tm.frc = s.tm.frc ∧
    mainTime (moveTime d s) = mainTime s + d

/-- TM converts T, in 2^-40 ns, to DT96 and DT80 by truncation as R123 states; the nanoseconds stay below 10^9 (00 R13). -/
def Obligations.TimesTruncate : Prop :=
  ∀ t : Nat, t < 2 ^ 48 * 1000000000 * 2 ^ 40 →
    (dt96Of ((t : Int) / 2 ^ 24)).sec = t / 2 ^ 40 / 1000000000 ∧ (dt96Of ((t : Int) / 2 ^ 24)).ns = t / 2 ^ 40 % 1000000000
        ∧
    (dt96Of ((t : Int) / 2 ^ 24)).frac = t / 2 ^ 24 % 2 ^ 16 ∧
    (dt80Of ((t : Int) / 2 ^ 24)).sec = t / 2 ^ 40 / 1000000000 ∧ (dt80Of ((t : Int) / 2 ^ 24)).ns = t / 2 ^ 40 % 1000000000

/-- write_cell of R204 for the cell that SI offers: FUTURE, TOO_OLD, ERG_NOT_MEMBER, DUP, stored, or late, in its order. An instant
whose trailing time is over counts as retired. -/
def Obligations.CellWritesFollowTheirInstant : Prop :=
  ∀ (gid sid : Nat) (k : Int) (c : Cell) (g : Group) (s : State), getGroup s gid = some g →
    (g.front < k → writeCell gid k sid c s = count (grpCtr gid 0x48) s) ∧
    (k ≤ g.front → k < 0 → writeCell gid k sid c s = count (grpCtr gid 0x50) s) ∧
    (∀ j : Nat, k = j → (j : Int) ≤ g.front →
      (g.instant j = none → writeCell gid k sid c s = count (grpCtr gid 0x50) s) ∧
      (∀ i, g.instant j = some i →
        (i.st = .trailing → i.ended (now s) = true → writeCell gid k sid c s = count (grpCtr gid 0x50) s) ∧
        ((i.st = .trailing → i.ended (now s) = false) →
          (i.members.contains sid = false → writeCell gid k sid c s = count 0x104020 s) ∧
          (i.members.contains sid = true →
            ((tfind i.cells sid).isSome = true ∨ i.lateSeen.contains sid = true →
              writeCell gid k sid c s = count (grpCtr gid 0x40) s) ∧
            (tfind i.cells sid = none → i.lateSeen.contains sid = false →
              (i.st = .opened → writeCell gid k sid c s = storeCell gid i.k sid c s) ∧
              (i.st ≠ .opened → writeCell gid k sid c s = lateCell gid sid i c s))))))

/-- The first cell for (g, k, s) stands: whatever the later cell holds, wherever it comes from, it is discarded and counted in DUP,
and nothing else changes, the stored cell with its flags and ARRIVAL included. -/
def Obligations.DuplicateCellsChangeNothing : Prop :=
  ∀ (gid sid j : Nat) (c0 c : Cell) (g : Group) (i : Instant) (s : State), getGroup s gid = some g → g.instant j = some i →
    (j : Int) ≤ g.front → (i.st = .trailing → i.ended (now s) = false) → i.members.contains sid = true → tfind i.cells sid =
        some c0 →
    writeCell gid j sid c s = count (grpCtr gid 0x40) s ∧ (writeCell gid j sid c s).erg = s.erg ∧
    ∀ a, a ≠ grpCtr gid 0x40 → tget 0 (writeCell gid j sid c s).counters a = tget 0 s.counters a

/-- CARAVAN.RUN of a graph that has a node at level 12 or above completes BAD_PARAM. -/
def Obligations.UrgentRunsAreRefused : Prop :=
  ∀ (h : Hdr) (job arg : Nat) (x : Job) (s : State),
    passes h (caravanSpec 0x1803 8 (job < 1024 && arg < 2 ^ 32) (serving s)) s = true → getJob s job = some x →
    (∃ d ∈ x.p.nodes, 12 ≤ d.level) →
    exec (.caravanRun h job arg) s = .next (refusedWith h 0x1803 0x11 s (takeHead h.src s))

/-- POWER.PAD_RELEASE completes BAD_PARAM for a mask bit other than 3 and 5 and for a named domain that is off; a named domain that
is not held is left as it is. -/
def Obligations.PadReleaseRefusals : Prop :=
  ∀ (h : Hdr) (mask : Nat) (s w : State), w = takeHead h.src s →
    (∀ b, b ≠ 3 → b ≠ 5 → mask.testBit b = true → dispatches h 0x3802 s = true → lengthOk h (specP 0x3802 1 false) = true →
      bufLost h = false → h.auth = none → exec (.powerPadRelease h mask) s = .next (refusedWith h 0x3802 0x11 s w)) ∧
    (passes h (specP 0x3802 1 (mask &&& 0x28 == mask)) s = true →
      (bit mask 3 = true ∧ s.pm.domPorts = false ∨ bit mask 5 = true ∧ s.pm.domAnchor = false →
        exec (.powerPadRelease h mask) s = .next (refusedWith h 0x3802 0x11 s w)) ∧
      ((bit mask 3 = true → s.pm.domPorts = true) → (bit mask 5 = true → s.pm.domAnchor = true) →
        exec (.powerPadRelease h mask) s = .next (doneWith h 0x3802 [] s { w with pm := { w.pm with
          holdPorts := w.pm.holdPorts && !bit mask 3, holdAnchor := w.pm.holdAnchor && !bit mask 5 } })))

/-- The checks of step 3 of R51 as R386 has them. The message under VALUE follows R385 and the model's reading of its byte order
(log entry 85). -/
def Obligations.TagsVerify : Prop :=
  ∀ (h : Hdr) (c : CmdSpec) (s : State),
    (h.auth = none → (authVerdict h c s).1 = if c.auth == .free then 0 else 0x40) ∧
    (∀ t : Tag, h.auth = some t →
      ((authVerdict h c s).1 = 0 ↔
        (t.alg = 1 ∧ tagSigned h c s = true ∧ s.cairn.ownerCtr < t.ctr) ∨
        (t.alg = 2 ∧ c.auth ≠ .alg1 ∧ ownerSlotOk s t.keySlot = true ∧ tagMaced h c t s = true ∧ slotCtr s t.keySlot <
            t.ctr)) ∧
      ((authVerdict h c s).1 = 0 ∨ (authVerdict h c s).1 = 0x41 ∨
        (authVerdict h c s).1 = 0x42 ∧ t.alg = 2 ∧ ∃ k, getSlot s t.keySlot = some k ∧ k.orphaned = true) ∧
      ((authVerdict h c s).2 = true → (authVerdict h c s).1 = 0x41 ∧ (tagSigned h c s = true ∨ tagMaced h c t s = true)))
end

