-- ==== Sys2Proof/Laws/Commands.lean ====
section
/-! SUPPORT. How a host command runs, once for all of them: what a command that passes its checks leaves, and what one that
does not. -/

namespace Sys2Proof.Machine

/-- What passing the checks says. -/
theorem passes_iff (h : Hdr) (c : CmdSpec) (s : State) :
    passes h c s = true ↔ dispatches h c.opcode s = true ∧ hostCheck h c (takeHead h.src s) = .pass := by
  simp [passes]

/-- A command that completes DONE and whose body answers status 0. -/
theorem runProc_done (cmd : Instr) (p : Proc) (body : State → Reply) (after : State → State) (s : State)
    (hw : p.work = .done body after) (ha : passes p.h p.spec s = true) (hr : (body (takeHead p.h.src s)).status = 0) :
    runProc cmd p s = after (doneWith p.h p.spec.opcode (body (takeHead p.h.src s)).result s (body (takeHead p.h.src s)).state) := by
  obtain ⟨hd, hc⟩ := (passes_iff _ _ _).mp ha
  simp [runProc, hw, runDone, hd, hc, replyDone, hr, doneWith]

/-- A command that completes DONE but whose body answers another status: the status is its first completion, and what the
body left stands. -/
theorem runProc_bad (cmd : Instr) (p : Proc) (body : State → Reply) (after : State → State) (s : State)
    (hw : p.work = .done body after) (ha : passes p.h p.spec s = true) (hr : (body (takeHead p.h.src s)).status ≠ 0) :
    runProc cmd p s = firstCompletion p.h (headDead s p.h.src) (fld (p.spec.opcode / 256) 24 8)
      (body (takeHead p.h.src s)).status (body (takeHead p.h.src s)).result (body (takeHead p.h.src s)).state := by
  obtain ⟨hd, hc⟩ := (passes_iff _ _ _).mp ha
  simp [runProc, hw, runDone, hd, hc, replyDone, hr]

/-- A command that is ACCEPTED: first status 0 and a handle free. -/
theorem runProc_accepted (cmd : Instr) (p : Proc) (phase : Phase) (first : State → Nat) (start : Nat → State → State)
    (missed : State → State) (s : State) (hw : p.work = .accepted phase first start missed)
    (ha : passes p.h p.spec s = true) (hf : first (takeHead p.h.src s) = 0) (hn : s.hi.ops.length < 1024) :
    runProc cmd p s = start (handleFor p.h p.spec.opcode s) (acceptedAs p.h p.spec.opcode cmd phase s) := by
  obtain ⟨hd, hc⟩ := (passes_iff _ _ _).mp ha
  have ho : (takeHead p.h.src s).hi.ops = s.hi.ops := by
    unfold takeHead
    split
    · rfl
    · simp only [setRing]; split <;> rfl
  simp [runProc, hw, runAccepted, hd, hc, replyAccepted, hf, ho, Nat.not_le.mpr hn, handleFor, acceptedAs]

/-- A command that is not the one dispatched next changes nothing. -/
theorem runProc_waits (cmd : Instr) (p : Proc) (s : State) (hd : dispatches p.h p.spec.opcode s = false) :
    runProc cmd p s = s := by
  unfold runProc
  split <;> simp [runDone, runAccepted, hd]

/-- A command that a check of R51 turns away: its status is its first completion. -/
theorem runProc_status (cmd : Instr) (p : Proc) (code : Nat) (s : State) (hd : dispatches p.h p.spec.opcode s = true)
    (hc : hostCheck p.h p.spec (takeHead p.h.src s) = .status code) :
    runProc cmd p s = firstCompletion p.h (headDead s p.h.src) (fld (p.spec.opcode / 256) 24 8) code []
      (turnedAway p.h p.spec (takeHead p.h.src s)) := by
  unfold runProc
  split <;> simp [runDone, runAccepted, hd, hc]

/-- `exec` runs a host command as its `Proc`. -/
theorem exec_of_procOf (c : Instr) (s : State) (p : Proc) (h : procOf c s = some p) : exec c s = .next (runProc c p s) := by
  cases c <;> first
    | exact nomatch (show none = some p from h)
    | exact congrArg (fun q => Host.Outcome.next (runProc _ q s)) (Option.some.inj h)

end Sys2Proof.Machine
end

