-- ==== Sys2Proof/Laws/LookBase.lean ====
section
/-! SUPPORT. What an operation leaves alone, said once for every reading of the state: `look ρ` is a reading `ρ` of the state
under a name that `simp` can find. An operation's `_look` lemma names, in its premise, the fields the operation may change:
every reading that does not see those fields is the same before and after. Taking for `ρ` one field, or several together,
gives the operation's frame. -/

namespace Sys2Proof.Machine

/-- A reading of the state. -/
def look {β : Type} (ρ : State → β) (s : State) : β := ρ s

/-- A reading after a choice. -/
@[simp] theorem look_ite {β : Type} (ρ : State → β) (c : Prop) [Decidable c] (a b : State) :
    look ρ (if c then a else b) = if c then look ρ a else look ρ b := by split <;> rfl

/-- A fold of steps that leave a reading alone leaves it alone. -/
@[simp] theorem look_foldl {α β : Type} (ρ : State → β) (l : List α) (f : State → α → State) (s : State)
    (h : ∀ s a, look ρ (f s a) = look ρ s) : look ρ (l.foldl f s) = look ρ s := by
  induction l generalizing s with
  | nil => rfl
  | cons a l ih => simp [ih, h]

/-- A fold that carries more than the state, of steps that leave a reading alone, leaves it alone. -/
theorem look_foldl_of {α β γ : Type} (ρ : State → β) (p : γ → State) (l : List α) (f : γ → α → γ) (b : γ)
    (h : ∀ b a, look ρ (p (f b a)) = look ρ (p b)) : look ρ (p (l.foldl f b)) = look ρ (p b) := by
  induction l generalizing b with
  | nil => rfl
  | cons a l ih => simp [ih, h]

/-- A fold of steps that keep a part of what they carry keeps it. -/
theorem foldl_keep {α β γ : Type} (p : β → γ) (l : List α) (f : β → α → β) (b : β) (h : ∀ b a, p (f b a) = p b) :
    p (l.foldl f b) = p b := by
  induction l generalizing b with
  | nil => rfl
  | cons a l ih => simp [ih, h]

end Sys2Proof.Machine
end

