-- ==== Sys2Proof/Laws/LookOps.lean ====
section
/-! SUPPORT. What the operations of Machine/Ops.lean leave alone. -/

namespace Sys2Proof.Machine

@[simp] theorem emit_look {β : Type} (ρ : State → β) (hρ : ∀ (t : State) out, look ρ { t with out := out } = look ρ t)
    (o : Out) (s : State) : look ρ (emit o s) = look ρ s := by
  unfold emit
  (repeat' split) <;> first | with_reducible rfl | simp [*]

@[simp] theorem fireVector_look {β : Type} (ρ : State → β) (hρ : ∀ (t : State) hi out, look ρ { t with hi := hi, out := out }
    = look ρ t) (v : Nat) (s : State) : look ρ (fireVector v s) = look ρ s := by
  unfold fireVector
  (repeat' split) <;> first | with_reducible rfl | simp [*]

@[simp] theorem raiseErr_look {β : Type} (ρ : State → β) (hρ : ∀ (t : State) hi out, look ρ { t with hi := hi, out := out }
    = look ρ t) (was : Bool) (f : Hi → Hi) (s : State) : look ρ (raiseErr was f s) = look ρ s := by
  unfold raiseErr
  (repeat' split) <;> first | with_reducible rfl | simp [*]

@[simp] theorem ringErr_look {β : Type} (ρ : State → β) (hρ : ∀ (t : State) hi out, look ρ { t with hi := hi, out := out }
    = look ρ t) (n : Nat) (s : State) : look ρ (ringErr n s) = look ρ s := by
  unfold ringErr
  (repeat' split) <;> first | with_reducible rfl | simp [*]

@[simp] theorem dmaErr_look {β : Type} (ρ : State → β) (hρ : ∀ (t : State) hi out, look ρ { t with hi := hi, out := out }
    = look ρ t) (src : Src) (s : State) : look ρ (dmaErr src s) = look ρ s := by
  unfold dmaErr
  (repeat' split) <;> first | with_reducible rfl | simp [*]

@[simp] theorem bumpFree_look {β : Type} (ρ : State → β) (hρ : ∀ (t : State) freeCtr, look ρ { t with freeCtr := freeCtr }
    = look ρ t) (s : State) : look ρ (bumpFree s) = look ρ s := by
  unfold bumpFree
  (repeat' split) <;> first | with_reducible rfl | simp [*]

@[simp] theorem countN_look {β : Type} (ρ : State → β) (hρ : ∀ (t : State) counters, look ρ { t with counters := counters }
    = look ρ t) (a n : Nat) (s : State) : look ρ (countN a n s) = look ρ s := by
  unfold countN
  (repeat' split) <;> first | with_reducible rfl | simp [*]

@[simp] theorem count_look {β : Type} (ρ : State → β) (hρ : ∀ (t : State) counters, look ρ { t with counters := counters }
    = look ρ t) (a : Nat) (s : State) : look ρ (count a s) = look ρ s := by
  unfold count
  (repeat' split) <;> first | with_reducible rfl | simp [*]

@[simp] theorem clearCounters_look {β : Type} (ρ : State → β) (hρ : ∀ (t : State) counters, look ρ { t with counters := counters }
    = look ρ t) (a len : Nat) (s : State) : look ρ (clearCounters a len s) = look ρ s := by
  unfold clearCounters
  (repeat' split) <;> first | with_reducible rfl | simp [*]

@[simp] theorem loseRecord_look {β : Type} (ρ : State → β) (hρ : ∀ (t : State) ev counters, look ρ { t with ev := ev, counters := counters }
    = look ρ t) (sev : Nat) (s : State) : look ρ (loseRecord sev s) = look ρ s := by
  unfold loseRecord
  (repeat' split) <;> first | with_reducible rfl | simp [*]

@[simp] theorem dropOne_look {β : Type} (ρ : State → β) (hρ : ∀ (t : State) ev counters, look ρ { t with ev := ev, counters := counters }
    = look ρ t) (s : State) : look ρ (dropOne s) = look ρ s := by
  simp only [dropOne]
  (repeat' split) <;> first | with_reducible rfl | simp [*]

@[simp] theorem admitOnly_look {β : Type} (ρ : State → β) (hρ : ∀ (t : State) hi ev counters out, look ρ { t with hi := hi, ev := ev, counters := counters, out := out }
    = look ρ t) (r : EvRec) (s : State) : look ρ (admitOnly r s) = look ρ s := by
  unfold admitOnly
  (repeat' split) <;> first | with_reducible rfl | simp [*]

@[simp] theorem closeAll_look {β : Type} (ρ : State → β) (hρ : ∀ (t : State) hi ev counters out, look ρ { t with hi := hi, ev := ev, counters := counters, out := out }
    = look ρ t) (s : State) : look ρ (closeAll s) = look ρ s := by
  unfold closeAll
  (repeat' split) <;> first | with_reducible rfl | simp [*]

@[simp] theorem startFlush_look {β : Type} (ρ : State → β) (hρ : ∀ (t : State) ev counters, look ρ { t with ev := ev, counters := counters }
    = look ρ t) (s : State) : look ρ (startFlush s) = look ρ s := by
  unfold startFlush
  (repeat' split) <;> first | with_reducible rfl | simp [*]

@[simp] theorem flushTrigger_look {β : Type} (ρ : State → β) (hρ : ∀ (t : State) hi ev counters out, look ρ { t with hi := hi, ev := ev, counters := counters, out := out }
    = look ρ t) (s : State) : look ρ (flushTrigger s) = look ρ s := by
  unfold flushTrigger
  (repeat' split) <;> first | with_reducible rfl | simp [*]

@[simp] theorem closeRecord_look {β : Type} (ρ : State → β) (hρ : ∀ (t : State) hi ev counters out, look ρ { t with hi := hi, ev := ev, counters := counters, out := out }
    = look ρ t) (r : EvRec) (s : State) : look ρ (closeRecord r s) = look ρ s := by
  unfold closeRecord
  (repeat' split) <;> first | with_reducible rfl | simp [*]

@[simp] theorem coalesce_look {β : Type} (ρ : State → β) (hρ : ∀ (t : State) hi ev counters out, look ρ { t with hi := hi, ev := ev, counters := counters, out := out }
    = look ρ t) (r : EvRec) (s : State) : look ρ (coalesce r s) = look ρ s := by
  simp only [coalesce]
  (repeat' split) <;> first | with_reducible rfl | simp [*]

@[simp] theorem report_look {β : Type} (ρ : State → β) (hρ : ∀ (t : State) hi ev counters out, look ρ { t with hi := hi, ev := ev, counters := counters, out := out }
    = look ρ t) (source code severity arg : Nat) (ext : Option (List Nat)) (s : State) : look ρ (report source code
    severity arg ext s) = look ρ s := by
  unfold report
  (repeat' split) <;> first | with_reducible rfl | simp [*]

@[simp] theorem setNq_look {β : Type} (ρ : State → β) (hρ : ∀ (t : State) hi, look ρ { t with hi := hi } = look ρ t)
    (q : Nat) (n : Nq) (s : State) : look ρ (setNq q n s) = look ρ s := by
  unfold setNq
  (repeat' split) <;> first | with_reducible rfl | simp [*]

@[simp] theorem notify_look {β : Type} (ρ : State → β) (hρ : ∀ (t : State) hi out, look ρ { t with hi := hi, out := out }
    = look ρ t) (q source code severity arg : Nat) (s : State) : look ρ (notify q source code severity arg s) = look ρ
    s := by
  unfold notify
  (repeat' split) <;> first | with_reducible rfl | simp [*]

@[simp] theorem note_look {β : Type} (ρ : State → β) (hρ : ∀ (t : State) hi ev counters out, look ρ { t with hi := hi, ev := ev, counters := counters, out := out }
    = look ρ t) (q source code severity arg : Nat) (s : State) : look ρ (note q source code severity arg s) = look ρ s
    := by
  unfold note
  (repeat' split) <;> first | with_reducible rfl | simp [*]

@[simp] theorem noteExt_look {β : Type} (ρ : State → β) (hρ : ∀ (t : State) hi ev counters out, look ρ { t with hi := hi, ev := ev, counters := counters, out := out }
    = look ρ t) (q source code severity arg recArg : Nat) (ext : Option (List Nat)) (s : State) : look ρ (noteExt q
    source code severity arg recArg ext s) = look ρ s := by
  unfold noteExt
  (repeat' split) <;> first | with_reducible rfl | simp [*]

@[simp] theorem setRing_look {β : Type} (ρ : State → β) (hρ : ∀ (t : State) hi, look ρ { t with hi := hi } = look ρ t)
    (n : Nat) (r : Ring) (s : State) : look ρ (setRing n r s) = look ρ s := by
  unfold setRing
  (repeat' split) <;> first | with_reducible rfl | simp [*]

@[simp] theorem putRecord_look {β : Type} (ρ : State → β) (hρ : ∀ (t : State) hi out, look ρ { t with hi := hi, out := out }
    = look ρ t) (n : Nat) (r : Record) (fires : Bool) (s : State) : look ρ (putRecord n r fires s) = look ρ s := by
  unfold putRecord
  (repeat' split) <;> first | with_reducible rfl | simp [*]

@[simp] theorem drainRing_look {β : Type} (ρ : State → β) (hρ : ∀ (t : State) hi out, look ρ { t with hi := hi, out := out }
    = look ρ t) (n : Nat) (x0 : Nat) (s : State) : look ρ (drainRing n x0 s) = look ρ s := by
  induction x0 generalizing s <;> simp only [drainRing] <;> (repeat' split) <;> simp_all

@[simp] theorem writeRecord_look {β : Type} (ρ : State → β) (hρ : ∀ (t : State) hi out, look ρ { t with hi := hi, out := out }
    = look ρ t) (src : Src) (r : Record) (fires : Bool) (s : State) : look ρ (writeRecord src r fires s) = look ρ s :=
    by
  unfold writeRecord
  (repeat' split) <;> first | with_reducible rfl | simp [*]

@[simp] theorem authFailure_look {β : Type} (ρ : State → β) (hρ : ∀ (t : State) hi ev ov counters out, look ρ { t with hi := hi, ev := ev, ov := ov, counters := counters, out := out }
    = look ρ t) (h : Hdr) (c : CmdSpec) (s : State) : look ρ (authFailure h c s) = look ρ s := by
  unfold authFailure
  (repeat' split) <;> first | with_reducible rfl | simp [*]

@[simp] theorem consumeTag_look {β : Type} (ρ : State → β) (hρ : ∀ (t : State) hi ev ov cairn counters out, look ρ { t with hi := hi, ev := ev, ov := ov, cairn := cairn, counters := counters, out := out }
    = look ρ t) (h : Hdr) (s : State) : look ρ (consumeTag h s) = look ρ s := by
  simp only [consumeTag]
  (repeat' split) <;> first | with_reducible rfl | simp [*]

@[simp] theorem takeHead_look {β : Type} (ρ : State → β) (hρ : ∀ (t : State) hi, look ρ { t with hi := hi } = look ρ
    t) (src : Src) (s : State) : look ρ (takeHead src s) = look ρ s := by
  unfold takeHead
  (repeat' split) <;> first | with_reducible rfl | simp [*]

@[simp] theorem firstCompletion_look {β : Type} (ρ : State → β) (hρ : ∀ (t : State) hi out, look ρ { t with hi := hi, out := out }
    = look ρ t) (h : Hdr) (dead : Bool) (handle status : Nat) (result : List Nat) (s : State) : look ρ
    (firstCompletion h dead handle status result s) = look ρ s := by
  unfold firstCompletion
  (repeat' split) <;> first | with_reducible rfl | simp [*]

@[simp] theorem openHandle_look {β : Type} (ρ : State → β) (hρ : ∀ (t : State) hi, look ρ { t with hi := hi } = look ρ
    t) (h : Hdr) (dead : Bool) (opcode : Nat) (cmd : Instr) (phase : Phase) (s : State) : look ρ (openHandle h dead
    opcode cmd phase s) = look ρ s := by
  unfold openHandle
  (repeat' split) <;> first | with_reducible rfl | simp [*]

@[simp] theorem updOp_look {β : Type} (ρ : State → β) (hρ : ∀ (t : State) hi, look ρ { t with hi := hi } = look ρ t)
    (handle : Nat) (f : OpEntry → OpEntry) (s : State) : look ρ (updOp handle f s) = look ρ s := by
  unfold updOp
  (repeat' split) <;> first | with_reducible rfl | simp [*]

@[simp] theorem finalCompletion_look {β : Type} (ρ : State → β) (hρ : ∀ (t : State) hi ev counters out, look ρ { t with hi := hi, ev := ev, counters := counters, out := out }
    = look ρ t) (o : OpEntry) (status : Nat) (result : List Nat) (s : State) : look ρ (finalCompletion o status result
    s) = look ρ s := by
  unfold finalCompletion
  (repeat' split) <;> first | with_reducible rfl | simp [*]

end Sys2Proof.Machine
end

