-- ==== Sys2Proof/Laws/LookModes.lean ====
section
/-! SUPPORT. What the operations of Machine/Modes.lean leave alone. -/

namespace Sys2Proof.Machine

@[simp] theorem setMode_look {β : Type} (ρ : State → β) (hρ : ∀ (t : State) hi ev pm counters out, look ρ { t with hi := hi, ev := ev, pm := pm, counters := counters, out := out }
    = look ρ t) (m : Mode) (s : State) : look ρ (setMode m s) = look ρ s := by
  unfold setMode
  (repeat' split) <;> first | with_reducible rfl | simp [*]

@[simp] theorem reMode_look {β : Type} (ρ : State → β) (hρ : ∀ (t : State) hi ev pm counters out, look ρ { t with hi := hi, ev := ev, pm := pm, counters := counters, out := out }
    = look ρ t) (s : State) : look ρ (reMode s) = look ρ s := by
  unfold reMode
  (repeat' split) <;> first | with_reducible rfl | simp [*]

@[simp] theorem tqUpdate_look {β : Type} (ρ : State → β) (hρ : ∀ (t : State) hi tm ev pm counters out, look ρ { t with hi := hi, tm := tm, ev := ev, pm := pm, counters := counters, out := out }
    = look ρ t) (s : State) : look ρ (tqUpdate s) = look ρ s := by
  unfold tqUpdate
  (repeat' split) <;> first | with_reducible rfl | simp [*]

@[simp] theorem requestWake_look {β : Type} (ρ : State → β) (hρ : ∀ (t : State) pm, look ρ { t with pm := pm } = look
    ρ t) (cause : Nat) (s : State) : look ρ (requestWake cause s) = look ρ s := by
  unfold requestWake
  (repeat' split) <;> first | with_reducible rfl | simp [*]

end Sys2Proof.Machine
end

