-- ==== Sys2Proof/Laws/LookClock.lean ====
section
/-! SUPPORT. What the operations of Machine/Clock.lean leave alone. -/

namespace Sys2Proof.Machine

@[simp] theorem idle_look {β : Type} (ρ : State → β) (hρ : ∀ (t : State) tm, look ρ { t with tm := tm } = look ρ t) (s
    : State) : look ρ (idle s) = look ρ s := by
  unfold idle
  (repeat' split) <;> first | with_reducible rfl | simp [*]

end Sys2Proof.Machine
end

