-- ==== Sys2Proof/Laws/LookInstants.lean ====
section
/-! SUPPORT. What the operations of Machine/Instants.lean leave alone. -/

namespace Sys2Proof.Machine

@[simp] theorem setGroup_look {β : Type} (ρ : State → β) (hρ : ∀ (t : State) erg, look ρ { t with erg := erg } = look
    ρ t) (gid : Nat) (g : Group) (s : State) : look ρ (setGroup gid g s) = look ρ s := by
  unfold setGroup
  (repeat' split) <;> first | with_reducible rfl | simp [*]

@[simp] theorem updInstant_look {β : Type} (ρ : State → β) (hρ : ∀ (t : State) erg, look ρ { t with erg := erg } =
    look ρ t) (gid k : Nat) (f : Instant → Instant) (s : State) : look ρ (updInstant gid k f s) = look ρ s := by
  unfold updInstant
  (repeat' split) <;> first | with_reducible rfl | simp [*]

@[simp] theorem freeCells_look {β : Type} (ρ : State → β) (hρ : ∀ (t : State) erg, look ρ { t with erg := erg } = look
    ρ t) (n : Nat) (s : State) : look ρ (freeCells n s) = look ρ s := by
  unfold freeCells
  (repeat' split) <;> first | with_reducible rfl | simp [*]

@[simp] theorem takeCell_look {β : Type} (ρ : State → β) (hρ : ∀ (t : State) hi ev erg counters out, look ρ { t with hi := hi, ev := ev, erg := erg, counters := counters, out := out }
    = look ρ t) (s : State) : look ρ (takeCell s) = look ρ s := by
  unfold takeCell
  (repeat' split) <;> first | with_reducible rfl | simp [*]

@[simp] theorem dropInstant_look {β : Type} (ρ : State → β) (hρ : ∀ (t : State) erg, look ρ { t with erg := erg } =
    look ρ t) (gid k : Nat) (s : State) : look ρ (dropInstant gid k s) = look ρ s := by
  unfold dropInstant
  (repeat' split) <;> first | with_reducible rfl | simp [*]

@[simp] theorem retireSpent_look {β : Type} (ρ : State → β) (hρ : ∀ (t : State) erg, look ρ { t with erg := erg } =
    look ρ t) (gid k : Nat) (s : State) : look ρ (retireSpent gid k s) = look ρ s := by
  unfold retireSpent
  (repeat' split) <;> first | with_reducible rfl | simp [*]

@[simp] theorem freeInstant_look {β : Type} (ρ : State → β) (hρ : ∀ (t : State) erg, look ρ { t with erg := erg } =
    look ρ t) (gid k : Nat) (s : State) : look ρ (freeInstant gid k s) = look ρ s := by
  unfold freeInstant
  (repeat' split) <;> first | with_reducible rfl | simp [*]

@[simp] theorem freeHold_look {β : Type} (ρ : State → β) (hρ : ∀ (t : State) erg, look ρ { t with erg := erg } = look
    ρ t) (gid k : Nat) (f : Instant → Instant) (s : State) : look ρ (freeHold gid k f s) = look ρ s := by
  unfold freeHold
  (repeat' split) <;> first | with_reducible rfl | simp [*]

@[simp] theorem freeJobHold_look {β : Type} (ρ : State → β) (hρ : ∀ (t : State) erg, look ρ { t with erg := erg } =
    look ρ t) (gid k : Nat) (s : State) : look ρ (freeJobHold gid k s) = look ρ s := by
  unfold freeJobHold
  (repeat' split) <;> first | with_reducible rfl | simp [*]

end Sys2Proof.Machine
end

