-- ==== Sys2Proof/Laws/LookMemory.lean ====
section
/-! SUPPORT. What the operations of Machine/Memory.lean leave alone. -/

namespace Sys2Proof.Machine

@[simp] theorem updMacro_look {β : Type} (ρ : State → β) (hρ : ∀ (t : State) ec, look ρ { t with ec := ec } = look ρ
    t) (m : Nat) (f : Macro → Macro) (s : State) : look ρ (updMacro m f s) = look ρ s := by
  unfold updMacro
  (repeat' split) <;> first | with_reducible rfl | simp [*]

@[simp] theorem setFlips_look {β : Type} (ρ : State → β) (hρ : ∀ (t : State) ec, look ρ { t with ec := ec } = look ρ
    t) (m w : Nat) (l : List Nat) (s : State) : look ρ (setFlips m w l s) = look ρ s := by
  unfold setFlips
  (repeat' split) <;> first | with_reducible rfl | simp [*]

@[simp] theorem wipeMacros_look {β : Type} (ρ : State → β) (hρ : ∀ (t : State) ec, look ρ { t with ec := ec } = look ρ
    t) (f : Nat → Bool) (s : State) : look ρ (wipeMacros f s) = look ρ s := by
  unfold wipeMacros
  (repeat' split) <;> first | with_reducible rfl | simp [*]

@[simp] theorem ecNote_look {β : Type} (ρ : State → β) (hρ : ∀ (t : State) hi ev counters out, look ρ { t with hi := hi, ev := ev, counters := counters, out := out }
    = look ρ t) (code severity m w b : Nat) (s : State) : look ρ (ecNote code severity m w b s) = look ρ s := by
  unfold ecNote
  (repeat' split) <;> first | with_reducible rfl | simp [*]

@[simp] theorem repairExhausted_look {β : Type} (ρ : State → β) (hρ : ∀ (t : State) hi ec ev counters out, look ρ { t with hi := hi, ec := ec, ev := ev, counters := counters, out := out }
    = look ρ t) (m w b : Nat) (s : State) : look ρ (repairExhausted m w b s) = look ρ s := by
  unfold repairExhausted
  (repeat' split) <;> first | with_reducible rfl | simp [*]

@[simp] theorem markRow_look {β : Type} (ρ : State → β) (hρ : ∀ (t : State) hi ec ev counters out, look ρ { t with hi := hi, ec := ec, ev := ev, counters := counters, out := out }
    = look ρ t) (m w b : Nat) (s : State) : look ρ (markRow m w b s) = look ρ s := by
  unfold markRow
  (repeat' split) <;> first | with_reducible rfl | simp [*]

@[simp] theorem hardFault_look {β : Type} (ρ : State → β) (hρ : ∀ (t : State) hi ec ev counters out, look ρ { t with hi := hi, ec := ec, ev := ev, counters := counters, out := out }
    = look ρ t) (m w b : Nat) (s : State) : look ρ (hardFault m w b s) = look ρ s := by
  unfold hardFault
  (repeat' split) <;> first | with_reducible rfl | simp [*]

@[simp] theorem enterSuspect_look {β : Type} (ρ : State → β) (hρ : ∀ (t : State) ec counters, look ρ { t with ec := ec, counters := counters }
    = look ρ t) (m w : Nat) (s : State) : look ρ (enterSuspect m w s) = look ρ s := by
  unfold enterSuspect
  (repeat' split) <;> first | with_reducible rfl | simp [*]

@[simp] theorem correctWord_look {β : Type} (ρ : State → β) (hρ : ∀ (t : State) hi ec ev counters out, look ρ { t with hi := hi, ec := ec, ev := ev, counters := counters, out := out }
    = look ρ t) (m w b : Nat) (s : State) : look ρ (correctWord m w b s) = look ρ s := by
  unfold correctWord
  (repeat' split) <;> first | with_reducible rfl | simp [*]

@[simp] theorem uncorrectable_look {β : Type} (ρ : State → β) (hρ : ∀ (t : State) hi ec ev counters out, look ρ { t with hi := hi, ec := ec, ev := ev, counters := counters, out := out }
    = look ρ t) (m w : Nat) (s : State) : look ρ (uncorrectable m w s) = look ρ s := by
  unfold uncorrectable
  (repeat' split) <;> first | with_reducible rfl | simp [*]

@[simp] theorem fullWrite_look {β : Type} (ρ : State → β) (hρ : ∀ (t : State) ec, look ρ { t with ec := ec } = look ρ
    t) (m w : Nat) (s : State) : look ρ (fullWrite m w s) = look ρ s := by
  unfold fullWrite
  (repeat' split) <;> first | with_reducible rfl | simp [*]

@[simp] theorem narrowWrite_look {β : Type} (ρ : State → β) (hρ : ∀ (t : State) hi ec ev counters out, look ρ { t with hi := hi, ec := ec, ev := ev, counters := counters, out := out }
    = look ρ t) (m w : Nat) (s : State) : look ρ (narrowWrite m w s).2 = look ρ s := by
  simp only [narrowWrite]
  (repeat' split) <;> first | with_reducible rfl | simp [*]

@[simp] theorem cairnRead_look {β : Type} (ρ : State → β) (hρ : ∀ (t : State) counters, look ρ { t with counters := counters }
    = look ρ t) (flips : List Nat) (s : State) : look ρ (cairnRead flips s).2 = look ρ s := by
  unfold cairnRead
  (repeat' split) <;> first | with_reducible rfl | simp [*]

@[simp] theorem allocCell_look {β : Type} (ρ : State → β) (hρ : ∀ (t : State) hi ec ev erg counters out freeCtr, look
    ρ { t with hi := hi, ec := ec, ev := ev, erg := erg, counters := counters, out := out, freeCtr := freeCtr } = look
    ρ t) (c : Cell) (s : State) : look ρ (allocCell c s).2 = look ρ s := by
  unfold allocCell
  (repeat' split) <;> first | with_reducible rfl | simp [*]

@[simp] theorem markNext_look {β : Type} (ρ : State → β) (hρ : ∀ (t : State) hi ec ev counters out, look ρ { t with hi := hi, ec := ec, ev := ev, counters := counters, out := out }
    = look ρ t) (acc : Tbl Cell × State) (e : Nat × Cell) : look ρ (markNext acc e).2 = look ρ acc.2 := by
  simp [markNext, *]

@[simp] theorem markFrozen_look {β : Type} (ρ : State → β) (hρ : ∀ (t : State) hi ec ev counters out, look ρ { t with hi := hi, ec := ec, ev := ev, counters := counters, out := out }
    = look ρ t) (cells : Tbl Cell) (s : State) : look ρ (markFrozen cells s).2 = look ρ s :=
  look_foldl_of ρ Prod.snd _ _ _ (fun b a => markNext_look ρ hρ b a)

@[simp] theorem readGood_look {β : Type} (ρ : State → β) (hρ : ∀ (t : State) hi ec ev counters out, look ρ { t with hi := hi, ec := ec, ev := ev, counters := counters, out := out }
    = look ρ t) (m w : Nat) (s : State) : look ρ (readGood m w s).2 = look ρ s := by
  unfold readGood
  (repeat' split) <;> first | with_reducible rfl | simp [*]

@[simp] theorem readDataWord_look {β : Type} (ρ : State → β) (hρ : ∀ (t : State) hi ec ev counters out freeCtr, look ρ
    { t with hi := hi, ec := ec, ev := ev, counters := counters, out := out, freeCtr := freeCtr } = look ρ t) (c :
    Cell) (w : Nat) (s : State) : look ρ (readDataWord c w s).2 = look ρ s := by
  simp only [readDataWord]
  (repeat' split) <;> first | with_reducible rfl | simp [*]

@[simp] theorem readWords_look {β : Type} (ρ : State → β) (hρ : ∀ (t : State) hi ec ev counters out freeCtr, look ρ { t with hi := hi, ec := ec, ev := ev, counters := counters, out := out, freeCtr := freeCtr }
    = look ρ t) (c : Cell) (s : State) : look ρ (readWords c s).2 = look ρ s :=
  look_foldl_of ρ Prod.snd _ _ _ (fun b a => readDataWord_look ρ hρ b.1 a b.2)

@[simp] theorem readCell_look {β : Type} (ρ : State → β) (hρ : ∀ (t : State) hi ec ev counters out freeCtr, look ρ { t with hi := hi, ec := ec, ev := ev, counters := counters, out := out, freeCtr := freeCtr }
    = look ρ t) (c : Cell) (s : State) : look ρ (readCell c s).2 = look ρ s := by
  simp [readCell, *]

@[simp] theorem readNext_look {β : Type} (ρ : State → β) (hρ : ∀ (t : State) hi ec ev counters out freeCtr, look ρ { t with hi := hi, ec := ec, ev := ev, counters := counters, out := out, freeCtr := freeCtr }
    = look ρ t) (acc : Tbl Cell × State) (e : Nat × Cell) : look ρ (readNext acc e).2 = look ρ acc.2 := by
  simp [readNext, *]

@[simp] theorem readCells_look {β : Type} (ρ : State → β) (hρ : ∀ (t : State) hi ec ev counters out freeCtr, look ρ { t with hi := hi, ec := ec, ev := ev, counters := counters, out := out, freeCtr := freeCtr }
    = look ρ t) (cells : Tbl Cell) (s : State) : look ρ (readCells cells s).2 = look ρ s := by
  unfold readCells
  split
  · rfl
  · exact look_foldl_of ρ Prod.snd _ _ _ (fun b a => readNext_look ρ hρ b a)

@[simp] theorem readMembers_look {β : Type} (ρ : State → β) (hρ : ∀ (t : State) hi ec ev counters out freeCtr, look ρ
    { t with hi := hi, ec := ec, ev := ev, counters := counters, out := out, freeCtr := freeCtr } = look ρ t) (sids :
    List Nat) (i : Instant) (s : State) : look ρ (readMembers sids i s).2 = look ρ s := by
  simp only [readMembers]
  simp [*]

end Sys2Proof.Machine
end

