-- ==== Sys2Proof/Laws/LookRecording.lean ====
section
/-! SUPPORT. What the operations of Machine/Recording.lean leave alone. -/

namespace Sys2Proof.Machine

@[simp] theorem setChan_look {β : Type} (ρ : State → β) (hρ : ∀ (t : State) aq, look ρ { t with aq := aq } = look ρ t)
    (c : Nat) (x : AqChannel) (s : State) : look ρ (setChan c x s) = look ρ s := by
  unfold setChan
  (repeat' split) <;> first | with_reducible rfl | simp [*]

@[simp] theorem setAqRing_look {β : Type} (ρ : State → β) (hρ : ∀ (t : State) aq, look ρ { t with aq := aq } = look ρ
    t) (r : Nat) (x : AqRing) (s : State) : look ρ (setAqRing r x s) = look ρ s := by
  unfold setAqRing
  (repeat' split) <;> first | with_reducible rfl | simp [*]

@[simp] theorem stageRecord_look {β : Type} (ρ : State → β) (hρ : ∀ (t : State) hi ev aq counters out, look ρ { t with hi := hi, ev := ev, aq := aq, counters := counters, out := out }
    = look ρ t) (r : Nat) (x : AqRec) (s : State) : look ρ (stageRecord r x s) = look ρ s := by
  unfold stageRecord
  (repeat' split) <;> first | with_reducible rfl | simp [*]

@[simp] theorem flushBlock_look {β : Type} (ρ : State → β) (hρ : ∀ (t : State) hi ev aq counters out, look ρ { t with hi := hi, ev := ev, aq := aq, counters := counters, out := out }
    = look ρ t) (r : Nat) (s : State) : look ρ (flushBlock r s) = look ρ s := by
  unfold flushBlock
  (repeat' split) <;> first | with_reducible rfl | simp [*]

@[simp] theorem reduceInstant_look {β : Type} (ρ : State → β) (hρ : ∀ (t : State) hi ev aq counters out, look ρ { t with hi := hi, ev := ev, aq := aq, counters := counters, out := out }
    = look ρ t) (r : Nat) (i : Instant) (s : State) : look ρ (reduceInstant r i s) = look ρ s := by
  simp only [reduceInstant]
  (repeat' split) <;> first | with_reducible rfl | simp [*]

@[simp] theorem endWindows_look {β : Type} (ρ : State → β) (hρ : ∀ (t : State) hi ev aq counters out, look ρ { t with hi := hi, ev := ev, aq := aq, counters := counters, out := out }
    = look ρ t) (c k : Nat) (s : State) : look ρ (endWindows c k s) = look ρ s := by
  simp only [endWindows] <;> repeat' first
    | with_reducible rfl | (simp [*]; done) | split | rw [look_foldl] | intro _ | dsimp only

@[simp] theorem recordInstant_look {β : Type} (ρ : State → β) (hρ : ∀ (t : State) hi ec ev aq counters out freeCtr,
    look ρ { t with hi := hi, ec := ec, ev := ev, aq := aq, counters := counters, out := out, freeCtr := freeCtr } =
    look ρ t) (c : Nat) (i : Instant) (s : State) : look ρ (recordInstant c i s) = look ρ s := by
  simp only [recordInstant]
  (repeat' split) <;> first | with_reducible rfl | simp [*]

@[simp] theorem absorb_look {β : Type} (ρ : State → β) (hρ : ∀ (t : State) hi ec ev erg aq counters out freeCtr, look
    ρ { t with hi := hi, ec := ec, ev := ev, erg := erg, aq := aq, counters := counters, out := out, freeCtr := freeCtr }
    = look ρ t) (c : Nat) (s : State) : look ρ (absorb c s) = look ρ s := by
  unfold absorb
  (repeat' split) <;> first | with_reducible rfl | simp [*]

@[simp] theorem stageLate_look {β : Type} (ρ : State → β) (hρ : ∀ (t : State) hi ev aq counters out, look ρ { t with hi := hi, ev := ev, aq := aq, counters := counters, out := out }
    = look ρ t) (r rate : Nat) (x : AqRec) (s : State) : look ρ (stageLate r rate x s) = look ρ s := by
  unfold stageLate
  (repeat' split) <;> first | with_reducible rfl | simp [*]

@[simp] theorem recordLate_look {β : Type} (ρ : State → β) (hρ : ∀ (t : State) hi ec ev erg aq counters out freeCtr,
    look ρ { t with hi := hi, ec := ec, ev := ev, erg := erg, aq := aq, counters := counters, out := out, freeCtr := freeCtr }
    = look ρ t) (type batch gid : Nat) (i : Instant) (cells : Tbl Cell) (s : State) : look ρ (recordLate type batch
    gid i cells s) = look ρ s := by
  simp only [recordLate] <;> repeat' first
    | with_reducible rfl | (simp [*]; done) | split | rw [look_foldl] | intro _ | dsimp only

@[simp] theorem gapRings_look {β : Type} (ρ : State → β) (hρ : ∀ (t : State) hi ev aq counters out, look ρ { t with hi := hi, ev := ev, aq := aq, counters := counters, out := out }
    = look ρ t) (c gid first last cause : Nat) (s : State) : look ρ (gapRings c gid first last cause s) = look ρ s :=
    by
  unfold gapRings
  (repeat' split) <;> first | with_reducible rfl | simp [*]

@[simp] theorem recordGap_look {β : Type} (ρ : State → β) (hρ : ∀ (t : State) hi ec ev erg aq counters out freeCtr,
    look ρ { t with hi := hi, ec := ec, ev := ev, erg := erg, aq := aq, counters := counters, out := out, freeCtr := freeCtr }
    = look ρ t) (gid first last cause : Nat) (s : State) : look ρ (recordGap gid first last cause s) = look ρ s := by
  simp only [recordGap] <;> repeat' first
    | with_reducible rfl | (simp [*]; done) | split | rw [look_foldl] | intro _ | dsimp only

@[simp] theorem mergeWindow_look {β : Type} (ρ : State → β) (hρ : ∀ (t : State) aq counters, look ρ { t with aq := aq, counters := counters }
    = look ρ t) (c : Nat) (x : AqChannel) (last : Nat) (s : State) : look ρ (mergeWindow c x last s) = look ρ s := by
  unfold mergeWindow
  (repeat' split) <;> first | with_reducible rfl | simp [*]

@[simp] theorem openWindow_look {β : Type} (ρ : State → β) (hρ : ∀ (t : State) hi ev aq counters out, look ρ { t with hi := hi, ev := ev, aq := aq, counters := counters, out := out }
    = look ρ t) (c : Nat) (x : AqChannel) (tokens : Rat) (trig : Int) (first last source id : Nat) (s : State) : look
    ρ (openWindow c x tokens trig first last source id s) = look ρ s := by
  unfold openWindow
  (repeat' split) <;> first | with_reducible rfl | simp [*]

@[simp] theorem triggerChan_look {β : Type} (ρ : State → β) (hρ : ∀ (t : State) hi ec ev erg aq counters out freeCtr,
    look ρ { t with hi := hi, ec := ec, ev := ev, erg := erg, aq := aq, counters := counters, out := out, freeCtr := freeCtr }
    = look ρ t) (c : Nat) (t : Int) (source id : Nat) (s : State) : look ρ (triggerChan c t source id s).2 = look ρ s
    := by
  simp only [triggerChan]
  (repeat' split) <;> first | with_reducible rfl | simp [*]

@[simp] theorem triggerMask_look {β : Type} (ρ : State → β) (hρ : ∀ (t : State) hi ec ev erg aq counters out freeCtr,
    look ρ { t with hi := hi, ec := ec, ev := ev, erg := erg, aq := aq, counters := counters, out := out, freeCtr := freeCtr }
    = look ρ t) (mask : Nat) (t : Int) (source id : Nat) (s : State) : look ρ (triggerMask mask t source id s) = look
    ρ s := by
  unfold triggerMask
  (repeat' split) <;> first | with_reducible rfl | simp [*]

@[simp] theorem writeAqRecord_look {β : Type} (ρ : State → β) (hρ : ∀ (t : State) hi counters out, look ρ { t with hi := hi, counters := counters, out := out }
    = look ρ t) (r : Nat) (g : AqRing) (x : AqRec) (s : State) : look ρ (writeAqRecord r g x s) = look ρ s := by
  unfold writeAqRecord
  (repeat' split) <;> first | with_reducible rfl | simp [*]

@[simp] theorem writeStaged_look {β : Type} (ρ : State → β) (hρ : ∀ (t : State) hi aq counters out, look ρ { t with hi := hi, aq := aq, counters := counters, out := out }
    = look ρ t) (r : Nat) (s : State) : look ρ (writeStaged r s) = look ρ s := by
  unfold writeStaged
  (repeat' split) <;> first | with_reducible rfl | simp [*]

@[simp] theorem enableChan_look {β : Type} (ρ : State → β) (hρ : ∀ (t : State) hi ec ev erg aq counters out freeCtr,
    look ρ { t with hi := hi, ec := ec, ev := ev, erg := erg, aq := aq, counters := counters, out := out, freeCtr := freeCtr }
    = look ρ t) (c : Nat) (en : Bool) (s : State) : look ρ (enableChan c en s) = look ρ s := by
  simp only [enableChan] <;> repeat' first
    | with_reducible rfl | (simp [*]; done) | split | rw [look_foldl] | intro _ | dsimp only | simp [*]

theorem execAqRecordWrite_look {β : Type} (ρ : State → β) (hρ : ∀ (t : State) hi ec ev erg aq counters out freeCtr,
    look ρ { t with hi := hi, ec := ec, ev := ev, erg := erg, aq := aq, counters := counters, out := out, freeCtr := freeCtr }
    = look ρ t) (ring : Nat) (s : State) : ∃ σ, execAqRecordWrite ring s = .next σ ∧ look ρ σ = look ρ s := by
  refine ⟨_, rfl, ?_⟩; (repeat' split) <;> first | with_reducible rfl | simp [*]

end Sys2Proof.Machine
end

