-- ==== Sys2Proof/Laws/LookTopology.lean ====
section
/-! SUPPORT. What the operations of Machine/Topology.lean leave alone. -/

namespace Sys2Proof.Machine

@[simp] theorem onModel_look {β : Type} (ρ : State → β) (hρ : ∀ (t : State) ts, look ρ { t with ts := ts } = look ρ t)
    (epoch : Nat) (f : ModelP → State → State) (s : State) (hf : ∀ y0 t, look ρ (f y0 t) = look ρ t) : look ρ (onModel
    epoch f s) = look ρ s := by
  unfold onModel
  (repeat' split) <;> first | with_reducible rfl | simp [*]

@[simp] theorem cutNotices_look {β : Type} (ρ : State → β) (hρ : ∀ (t : State) hi ev counters out, look ρ { t with hi := hi, ev := ev, counters := counters, out := out }
    = look ρ t) (old new : Tbl Cut) (s : State) : look ρ (cutNotices old new s) = look ρ s := by
  unfold cutNotices
  (repeat' split) <;> first | with_reducible rfl | simp [*]

@[simp] theorem putResult_look {β : Type} (ρ : State → β) (hρ : ∀ (t : State) ts, look ρ { t with ts := ts } = look ρ
    t) (r : TsResult) (s : State) : look ρ (putResult r s) = look ρ s := by
  unfold putResult
  (repeat' split) <;> first | with_reducible rfl | simp [*]

@[simp] theorem topologyAborted_look {β : Type} (ρ : State → β) (hρ : ∀ (t : State) ts counters, look ρ { t with ts := ts, counters := counters }
    = look ρ t) (gid k : Nat) (s : State) : look ρ (topologyAborted gid k s) = look ρ s := by
  unfold topologyAborted
  (repeat' split) <;> first | with_reducible rfl | simp [*]

@[simp] theorem openEpisodes_look {β : Type} (ρ : State → β)  (old nw : List Nat) (f : Nat → State → State) (s :
    State) (hf : ∀ y0 t, look ρ (f y0 t) = look ρ t) : look ρ (openEpisodes old nw f s) = look ρ s := by
  unfold openEpisodes
  (repeat' split) <;> first | with_reducible rfl | simp [*]

@[simp] theorem topoNotices_look {β : Type} (ρ : State → β) (hρ : ∀ (t : State) hi ev counters out, look ρ { t with hi := hi, ev := ev, counters := counters, out := out }
    = look ρ t) (old cuts : Tbl Cut) (unknown conflict : List Nat) (sp mg : List (Nat × Nat)) (held islands : Nat) (s
    : State) : look ρ (topoNotices old cuts unknown conflict sp mg held islands s) = look ρ s := by
  unfold topoNotices
  (repeat' split) <;> first | with_reducible rfl | simp [*]

@[simp] theorem topologyPass_look {β : Type} (ρ : State → β) (hρ : ∀ (t : State) hi ev ts counters out, look ρ { t with hi := hi, ev := ev, ts := ts, counters := counters, out := out }
    = look ρ t) (gid k disp : Nat) (forces : Tbl Bool) (m : ModelP) (i : Instant) (s : State) : look ρ (topologyPass
    gid k disp forces m i s) = look ρ s := by
  unfold topologyPass
  (repeat' split) <;> first | with_reducible rfl | simp [*]

@[simp] theorem refacDone_look {β : Type} (ρ : State → β) (hρ : ∀ (t : State) hi ev counters out, look ρ { t with hi := hi, ev := ev, counters := counters, out := out }
    = look ρ t) (handles : List Nat) (status : Nat) (s : State) : look ρ (refacDone handles status s) = look ρ s := by
  simp only [refacDone] <;> repeat' first
    | with_reducible rfl | (simp [*]; done) | split | rw [look_foldl] | intro _ | dsimp only

theorem enterItem_look {β : Type} (ρ : State → β) (hρ : ∀ (t : State) cv, look ρ { t with cv := cv } = look ρ t) (job
    seq : Nat) (d : NodeP) (st : ItemState) (s t : State) (h : enterItem job seq d st s = some t) : look ρ t = look ρ
    s := by
  simp only [enterItem] at h
  split at h
  · cases h
  · cases h; simp [*]

@[simp] theorem startRefac_look {β : Type} (ρ : State → β) (hρ : ∀ (t : State) hi ev cv ts counters out, look ρ { t with hi := hi, ev := ev, cv := cv, ts := ts, counters := counters, out := out }
    = look ρ t) (r : Refac) (s : State) : look ρ (startRefac r s) = look ρ s := by
  unfold startRefac
  split
  · rename_i h; simp [*, enterItem_look ρ (by simp [hρ]) _ _ _ _ _ _ h]
  · simp [*]

@[simp] theorem requestRefac_look {β : Type} (ρ : State → β) (hρ : ∀ (t : State) hi ev cv ts counters out, look ρ { t with hi := hi, ev := ev, cv := cv, ts := ts, counters := counters, out := out }
    = look ρ t) (cause : Nat) (closed uses handles : List Nat) (s : State) : look ρ (requestRefac cause closed uses
    handles s) = look ρ s := by
  unfold requestRefac
  (repeat' split) <;> first | with_reducible rfl | simp [*]

@[simp] theorem commitRefac_look {β : Type} (ρ : State → β) (hρ : ∀ (t : State) hi ev cv ts counters out, look ρ { t with hi := hi, ev := ev, cv := cv, ts := ts, counters := counters, out := out }
    = look ρ t) (dispatched : Nat) (s : State) : look ρ (commitRefac dispatched s) = look ρ s := by
  simp only [commitRefac] <;> repeat' first
    | with_reducible rfl | (simp [*]; done) | split | rw [look_foldl] | intro _ | dsimp only | simp [*]

@[simp] theorem solveNoFactor_look {β : Type} (ρ : State → β) (hρ : ∀ (t : State) ts counters, look ρ { t with ts := ts, counters := counters }
    = look ρ t) (r : TsResult) (s : State) : look ρ (solveNoFactor r s) = look ρ s := by
  unfold solveNoFactor
  (repeat' split) <;> first | with_reducible rfl | simp [*]

@[simp] theorem factorLost_look {β : Type} (ρ : State → β) (hρ : ∀ (t : State) hi ev cv ts counters out, look ρ { t with hi := hi, ev := ev, cv := cv, ts := ts, counters := counters, out := out }
    = look ρ t) (page : Nat) (f : SolveFac) (r : TsResult) (s : State) : look ρ (factorLost page f r s) = look ρ s :=
    by
  unfold factorLost
  (repeat' split) <;> first | with_reducible rfl | simp [*]

@[simp] theorem countLowRank_look {β : Type} (ρ : State → β) (hρ : ∀ (t : State) hi ev cv ts counters out, look ρ { t with hi := hi, ev := ev, cv := cv, ts := ts, counters := counters, out := out }
    = look ρ t) (r : TsResult) (n : Nat) (s : State) : look ρ (countLowRank r n s) = look ρ s := by
  unfold countLowRank
  (repeat' split) <;> first | with_reducible rfl | simp [*]

@[simp] theorem applyLowRank_look {β : Type} (ρ : State → β) (hρ : ∀ (t : State) hi ev cv ts counters out, look ρ { t with hi := hi, ev := ev, cv := cv, ts := ts, counters := counters, out := out }
    = look ρ t) (r : TsResult) (n : Nat) (s : State) : look ρ (applyLowRank r n s) = look ρ s := by
  unfold applyLowRank
  (repeat' split) <;> first | with_reducible rfl | simp [*]

@[simp] theorem afterSolve_look {β : Type} (ρ : State → β) (hρ : ∀ (t : State) hi ev cv ts counters out, look ρ { t with hi := hi, ev := ev, cv := cv, ts := ts, counters := counters, out := out }
    = look ρ t) (r : TsResult) (f : SolveFac) (stale accSat high : Bool) (n bad : Nat) (j : Rat) (s : State) : look ρ
    (afterSolve r f stale accSat high n bad j s) = look ρ s := by
  unfold afterSolve
  (repeat' split) <;> first | with_reducible rfl | simp [*]

@[simp] theorem stateSolve_look {β : Type} (ρ : State → β) (hρ : ∀ (t : State) hi ev cv ts counters out, look ρ { t with hi := hi, ev := ev, cv := cv, ts := ts, counters := counters, out := out }
    = look ρ t) (gid k : Nat) (f : SolveFac) (cells : Tbl Cell) (x : SolveResult) (accSat : Bool) (m : ModelP) (s :
    State) : look ρ (stateSolve gid k f cells x accSat m s) = look ρ s := by
  unfold stateSolve
  (repeat' split) <;> first | with_reducible rfl | simp [*]

end Sys2Proof.Machine
end

