-- ==== Sys2Proof/Laws/LookSirocco.lean ====
section
/-! SUPPORT. What the operations of Machine/Sirocco.lean leave alone. -/

namespace Sys2Proof.Machine

@[simp] theorem fastWindow_look {β : Type} (ρ : State → β) (hρ : ∀ (t : State) hi ev sc counters out, look ρ { t with hi := hi, ev := ev, sc := sc, counters := counters, out := out }
    = look ρ t) (n : Nat) (i : Instant) (accSat : Bool) (m : Nat) (s : State) : look ρ (fastWindow n i accSat m s) =
    look ρ s := by
  unfold fastWindow
  (repeat' split) <;> first | with_reducible rfl | simp [*]

@[simp] theorem fastSignal_look {β : Type} (ρ : State → β) (hρ : ∀ (t : State) hi ev sc counters out, look ρ { t with hi := hi, ev := ev, sc := sc, counters := counters, out := out }
    = look ρ t) (n : Nat) (i : Instant) (from' to' : Nat) (accSat : Bool) (disp : Nat) (s : State) : look ρ
    (fastSignal n i from' to' accSat disp s) = look ρ s := by
  unfold fastSignal
  (repeat' split) <;> first | with_reducible rfl | simp [*]

@[simp] theorem fastPath_look {β : Type} (ρ : State → β) (hρ : ∀ (t : State) hi ev sc counters out, look ρ { t with hi := hi, ev := ev, sc := sc, counters := counters, out := out }
    = look ρ t) (i : Instant) (accSat : Bool) (disp : Nat) (s : State) : look ρ (fastPath i accSat disp s) = look ρ s
    := by
  unfold fastPath
  (repeat' split) <;> first | with_reducible rfl | simp [*]

@[simp] theorem startSlow_look {β : Type} (ρ : State → β) (hρ : ∀ (t : State) sc, look ρ { t with sc := sc } = look ρ
    t) (node : Nat) (sec : Int) (s : State) : look ρ (startSlow node sec s) = look ρ s := by
  unfold startSlow
  (repeat' split) <;> first | with_reducible rfl | simp [*]

@[simp] theorem modeLost_look {β : Type} (ρ : State → β) (hρ : ∀ (t : State) hi ev counters out, look ρ { t with hi := hi, ev := ev, counters := counters, out := out }
    = look ρ t) (g t : Nat) (s : State) : look ρ (modeLost g t s) = look ρ s := by
  unfold modeLost
  (repeat' split) <;> first | with_reducible rfl | simp [*]

@[simp] theorem forcedNotices_look {β : Type} (ρ : State → β) (hρ : ∀ (t : State) hi ev counters out, look ρ { t with hi := hi, ev := ev, counters := counters, out := out }
    = look ρ t) (g t : Nat) (was now : Bool) (freq : Nat) (s : State) : look ρ (forcedNotices g t was now freq s) =
    look ρ s := by
  unfold forcedNotices
  (repeat' split) <;> first | with_reducible rfl | simp [*]

@[simp] theorem newTrack_look {β : Type} (ρ : State → β) (hρ : ∀ (t : State) hi ev counters out, look ρ { t with hi := hi, ev := ev, counters := counters, out := out }
    = look ρ t) (g : Nat) (ts : Tbl Track) (acc : List (Nat × Nat) × List Nat × State) (r : Nat) (m : RankedMode) :
    look ρ (newTrack g ts acc r m).2.2 = look ρ acc.2.2 := by
  simp only [newTrack]
  (repeat' split) <;> simp [*]

@[simp] theorem assignTracks_look {β : Type} (ρ : State → β) (hρ : ∀ (t : State) hi ev counters out, look ρ { t with hi := hi, ev := ev, counters := counters, out := out }
    = look ρ t) (g : Nat) (ts : Tbl Track) (ms : List RankedMode) (s : State) : look ρ (assignTracks g ts ms s).2.2.2
    = look ρ s := by
  simp only [assignTracks]
  simp [*]
  rw [look_foldl_of ρ (fun x : List (Nat × Nat) × List Nat × State => x.2.2)]
  intro b a; split <;> simp [*]

@[simp] theorem putSlow_look {β : Type} (ρ : State → β) (hρ : ∀ (t : State) sc counters, look ρ { t with sc := sc, counters := counters }
    = look ρ t) (g : Nat) (r : SlowRec) (s : State) : look ρ (putSlow g r s) = look ρ s := by
  unfold putSlow
  (repeat' split) <;> first | with_reducible rfl | simp [*]

@[simp] theorem slowUpdate_look {β : Type} (ρ : State → β) (hρ : ∀ (t : State) hi ev sc counters out freeCtr, look ρ { t with hi := hi, ev := ev, sc := sc, counters := counters, out := out, freeCtr := freeCtr }
    = look ρ t) (g : Nat) (amps : List (List Nat)) (accSat : Bool) (s : State) : look ρ (slowUpdate g amps accSat s) =
    look ρ s := by
  simp only [slowUpdate]
  (repeat' split) <;> first | with_reducible rfl | simp [*]

@[simp] theorem slowPath_look {β : Type} (ρ : State → β) (hρ : ∀ (t : State) hi ev sc counters out freeCtr, look ρ { t with hi := hi, ev := ev, sc := sc, counters := counters, out := out, freeCtr := freeCtr }
    = look ρ t) (rs : List SlowResult) (accSat : Bool) (node : Nat) (s : State) : look ρ (slowPath rs accSat node s) =
    look ρ s := by
  unfold slowPath
  (repeat' split) <;> first | with_reducible rfl | simp [*]

@[simp] theorem slowAborted_look {β : Type} (ρ : State → β) (hρ : ∀ (t : State) sc counters freeCtr, look ρ { t with sc := sc, counters := counters, freeCtr := freeCtr }
    = look ρ t) (node : Nat) (sec : Int) (s : State) : look ρ (slowAborted node sec s) = look ρ s := by
  unfold slowAborted
  (repeat' split) <;> first | with_reducible rfl | simp [*]

@[simp] theorem slowMissed_look {β : Type} (ρ : State → β) (hρ : ∀ (t : State) counters, look ρ { t with counters := counters }
    = look ρ t) (nodes : List NodeP) (s : State) : look ρ (slowMissed nodes s) = look ρ s := by
  unfold slowMissed
  (repeat' split) <;> first | with_reducible rfl | simp [*]

end Sys2Proof.Machine
end

