-- ==== Sys2Proof/Laws/LookAlarms.lean ====
section
/-! SUPPORT. What the operations of Machine/Alarms.lean leave alone. -/

namespace Sys2Proof.Machine

@[simp] theorem drivePulse_look {β : Type} (ρ : State → β) (hρ : ∀ (t : State) tm, look ρ { t with tm := tm } = look ρ
    t) (line ns : Nat) (s : State) : look ρ (drivePulse line ns s) = look ρ s := by
  unfold drivePulse
  (repeat' split) <;> first | with_reducible rfl | simp [*]

@[simp] theorem updLine_look {β : Type} (ρ : State → β) (hρ : ∀ (t : State) al, look ρ { t with al := al } = look ρ t)
    (l : Nat) (f : AlmLine → AlmLine) (s : State) : look ρ (updLine l f s) = look ρ s := by
  unfold updLine
  (repeat' split) <;> first | with_reducible rfl | simp [*]

@[simp] theorem driveLines_look {β : Type} (ρ : State → β) (hρ : ∀ (t : State) al counters, look ρ { t with al := al, counters := counters }
    = look ρ t) (s : State) : look ρ (driveLines s) = look ρ s := by
  unfold driveLines
  (repeat' split) <;> first | with_reducible rfl | simp [*]

@[simp] theorem setRule_look {β : Type} (ρ : State → β) (hρ : ∀ (t : State) al, look ρ { t with al := al } = look ρ t)
    (n : Nat) (r : Rule) (s : State) : look ρ (setRule n r s) = look ρ s := by
  unfold setRule
  (repeat' split) <;> first | with_reducible rfl | simp [*]

@[simp] theorem ruleNote_look {β : Type} (ρ : State → β) (hρ : ∀ (t : State) hi ev counters out, look ρ { t with hi := hi, ev := ev, counters := counters, out := out }
    = look ρ t) (p : RuleP) (code nsev arg rsev rarg : Nat) (s : State) : look ρ (ruleNote p code nsev arg rsev rarg
    s) = look ρ s := by
  unfold ruleNote
  (repeat' split) <;> first | with_reducible rfl | simp [*]

@[simp] theorem driveAssert_look {β : Type} (ρ : State → β) (hρ : ∀ (t : State) tm al, look ρ { t with tm := tm, al := al }
    = look ρ t) (p : RuleP) (s : State) : look ρ (driveAssert p s) = look ρ s := by
  unfold driveAssert
  (repeat' split) <;> first | with_reducible rfl | simp [*]

@[simp] theorem assertRule_look {β : Type} (ρ : State → β) (hρ : ∀ (t : State) hi tm ec ev erg al aq counters out
    freeCtr, look ρ { t with hi := hi, tm := tm, ec := ec, ev := ev, erg := erg, al := al, aq := aq, counters := counters, out := out, freeCtr := freeCtr }
    = look ρ t) (n : Nat) (p : RuleP) (k : Nat) (v tk : Int) (s : State) : look ρ (assertRule n p k v tk s) = look ρ s
    := by
  unfold assertRule
  (repeat' split) <;> first | with_reducible rfl | simp [*]

@[simp] theorem clearRule_look {β : Type} (ρ : State → β) (hρ : ∀ (t : State) hi ev counters out, look ρ { t with hi := hi, ev := ev, counters := counters, out := out }
    = look ρ t) (n : Nat) (p : RuleP) (k : Nat) (v : Int) (s : State) : look ρ (clearRule n p k v s) = look ρ s := by
  unfold clearRule
  (repeat' split) <;> first | with_reducible rfl | simp [*]

@[simp] theorem adminNote_look {β : Type} (ρ : State → β) (hρ : ∀ (t : State) hi ev counters out, look ρ { t with hi := hi, ev := ev, counters := counters, out := out }
    = look ρ t) (n cause : Nat) (p : RuleP) (s : State) : look ρ (adminNote n cause p s) = look ρ s := by
  unfold adminNote
  (repeat' split) <;> first | with_reducible rfl | simp [*]

@[simp] theorem adminClear_look {β : Type} (ρ : State → β) (hρ : ∀ (t : State) hi ev al counters out, look ρ { t with hi := hi, ev := ev, al := al, counters := counters, out := out }
    = look ρ t) (n cause : Nat) (s : State) : look ρ (adminClear n cause s) = look ρ s := by
  unfold adminClear
  (repeat' split) <;> first | with_reducible rfl | simp [*]

@[simp] theorem clearAllRules_look {β : Type} (ρ : State → β) (hρ : ∀ (t : State) hi ev al counters out, look ρ { t with hi := hi, ev := ev, al := al, counters := counters, out := out }
    = look ρ t) (s : State) : look ρ (clearAllRules s) = look ρ s := by
  unfold clearAllRules
  (repeat' split) <;> first | with_reducible rfl | simp [*]

@[simp] theorem invalidNote_look {β : Type} (ρ : State → β) (hρ : ∀ (t : State) hi ev counters out, look ρ { t with hi := hi, ev := ev, counters := counters, out := out }
    = look ρ t) (n : Nat) (r : Rule) (s : State) : look ρ (invalidNote n r s) = look ρ s := by
  unfold invalidNote
  (repeat' split) <;> first | with_reducible rfl | simp [*]

@[simp] theorem ruleEdges_look {β : Type} (ρ : State → β) (hρ : ∀ (t : State) hi tm ec ev erg al aq counters out
    freeCtr, look ρ { t with hi := hi, tm := tm, ec := ec, ev := ev, erg := erg, al := al, aq := aq, counters := counters, out := out, freeCtr := freeCtr }
    = look ρ t) (c : EvalCtx) (n : Nat) (j : Rule × Bool × Bool) (s : State) : look ρ (ruleEdges c n j s).1 = look ρ s
    := by
  unfold ruleEdges
  (repeat' split) <;> first | with_reducible rfl | simp [*]

@[simp] theorem evaluateRule_look {β : Type} (ρ : State → β) (hρ : ∀ (t : State) hi tm ec ev erg al aq counters out
    freeCtr, look ρ { t with hi := hi, tm := tm, ec := ec, ev := ev, erg := erg, al := al, aq := aq, counters := counters, out := out, freeCtr := freeCtr }
    = look ρ t) (c : EvalCtx) (n : Nat) (r : Rule) (s : State) : look ρ (evaluateRule c n r s).1 = look ρ s := by
  have a : ∀ (b d : Bool) (r' : Rule), look ρ (if b = true then count (ruleCtr n 0) (count 0x10B000 (if d = true then count 0x10B020 s else s))
      else invalidNote n r' (count (ruleCtr n 0) (count 0x10B000 (if d = true then count 0x10B020 s else s)))) = look ρ s := by
    intro b d r'
    cases b <;> cases d <;> simp [*]
  have q : ∀ (p : Bool) (x y : State × Bool), look ρ x.1 = look ρ s → look ρ y.1 = look ρ s →
      look ρ (if p = true then x else y).1 = look ρ s := by
    intro p x y hx hy
    cases p
    · exact hy
    · exact hx
  exact q _ _ _ rfl ((ruleEdges_look ρ (by simp [hρ]) _ _ _ _).trans (a _ _ _))

@[simp] theorem ruleStep_look {β : Type} (ρ : State → β) (hρ : ∀ (t : State) hi tm ec ev erg al aq counters out
    freeCtr, look ρ { t with hi := hi, tm := tm, ec := ec, ev := ev, erg := erg, al := al, aq := aq, counters := counters, out := out, freeCtr := freeCtr }
    = look ρ t) (c : EvalCtx) (gid : Nat) (acc : State × Bool) (n : Nat) : look ρ (ruleStep c gid acc n).1 = look ρ
    acc.1 := by
  simp only [ruleStep]
  (repeat' split) <;> simp [*]

@[simp] theorem decide'_look {β : Type} (ρ : State → β) (hρ : ∀ (t : State) hi tm ec ev erg al aq counters out
    freeCtr, look ρ { t with hi := hi, tm := tm, ec := ec, ev := ev, erg := erg, al := al, aq := aq, counters := counters, out := out, freeCtr := freeCtr }
    = look ρ t) (c : EvalCtx) (gid : Nat) (s : State) : look ρ (decide' c gid s).1 = look ρ s := by
  simp only [decide']
  simp [*]
  rw [look_foldl_of ρ (fun x : State × Bool => x.1)]
  intro b a; simp [*]

@[simp] theorem setXtrigIn_look {β : Type} (ρ : State → β) (hρ : ∀ (t : State) pins, look ρ { t with pins := pins } =
    look ρ t) (n : Nat) (level : Bool) (s : State) : look ρ (setXtrigIn n level s) = look ρ s := by
  unfold setXtrigIn
  (repeat' split) <;> first | with_reducible rfl | simp [*]

@[simp] theorem xinEdge_look {β : Type} (ρ : State → β) (hρ : ∀ (t : State) hi ec ev erg al aq counters out freeCtr,
    look ρ { t with hi := hi, ec := ec, ev := ev, erg := erg, al := al, aq := aq, counters := counters, out := out, freeCtr := freeCtr }
    = look ρ t) (n : Nat) (stamp : Int) (s : State) : look ρ (xinEdge n stamp s) = look ρ s := by
  unfold xinEdge
  (repeat' split) <;> first | with_reducible rfl | simp [*]

theorem execAlmStbDeferred_look {β : Type} (ρ : State → β) (hρ : ∀ (t : State) al counters, look ρ { t with al := al, counters := counters }
    = look ρ t) (s : State) : ∃ σ, execAlmStbDeferred s = .next σ ∧ look ρ σ = look ρ s := by
  refine ⟨_, rfl, ?_⟩; (repeat' split) <;> first | with_reducible rfl | simp [*]

theorem execAlmPulseEnd_look {β : Type} (ρ : State → β) (hρ : ∀ (t : State) al counters, look ρ { t with al := al, counters := counters }
    = look ρ t) (line : Nat) (s : State) : ∃ σ, execAlmPulseEnd line s = .next σ ∧ look ρ σ = look ρ s := by
  refine ⟨_, rfl, ?_⟩; (repeat' split) <;> first | with_reducible rfl | simp [*]

theorem execXtrigInEdge_look {β : Type} (ρ : State → β) (hρ : ∀ (t : State) hi ec ev pins erg al aq counters out
    freeCtr, look ρ { t with hi := hi, ec := ec, ev := ev, pins := pins, erg := erg, al := al, aq := aq, counters := counters, out := out, freeCtr := freeCtr }
    = look ρ t) (n : Nat) (level : Bool) (stamp : Stamp) (s : State) : ∃ σ, execXtrigInEdge n level stamp s = .next σ
    ∧ look ρ σ = look ρ s := by
  refine ⟨_, rfl, ?_⟩; (repeat' split) <;> first | with_reducible rfl | simp [*]

theorem execXtrigInForwardedEdge_look {β : Type} (ρ : State → β) (hρ : ∀ (t : State) pins, look ρ { t with pins := pins }
    = look ρ t) (n : Nat) (s : State) : ∃ σ, execXtrigInForwardedEdge n s = .next σ ∧ look ρ σ = look ρ s := by
  refine ⟨_, rfl, ?_⟩; (repeat' split) <;> first | with_reducible rfl | simp [*]

theorem execOutputPulseEnd_look {β : Type} (ρ : State → β) (hρ : ∀ (t : State) tm, look ρ { t with tm := tm } = look ρ
    t) (line : Nat) (s : State) : ∃ σ, execOutputPulseEnd line s = .next σ ∧ look ρ σ = look ρ s := by
  refine ⟨_, rfl, ?_⟩; (repeat' split) <;> first | with_reducible rfl | simp [*]

end Sys2Proof.Machine
end

