-- ==== Sys2Proof/Laws/LookCaravan.lean ====
section
/-! SUPPORT. What the operations of Machine/Caravan.lean leave alone. -/

namespace Sys2Proof.Machine

@[simp] theorem setJob_look {β : Type} (ρ : State → β) (hρ : ∀ (t : State) cv, look ρ { t with cv := cv } = look ρ t)
    (j : Nat) (x : Job) (s : State) : look ρ (setJob j x s) = look ρ s := by
  unfold setJob
  (repeat' split) <;> first | with_reducible rfl | simp [*]

@[simp] theorem updEngine_look {β : Type} (ρ : State → β) (hρ : ∀ (t : State) cv, look ρ { t with cv := cv } = look ρ
    t) (n : Nat) (f : Engine → Engine) (s : State) : look ρ (updEngine n f s) = look ρ s := by
  unfold updEngine
  (repeat' split) <;> first | with_reducible rfl | simp [*]

@[simp] theorem putEngine_look {β : Type} (ρ : State → β) (hρ : ∀ (t : State) cv, look ρ { t with cv := cv } = look ρ
    t) (st : EngState) (n : Nat) (s : State) : look ρ (putEngine st n s) = look ρ s := by
  unfold putEngine
  (repeat' split) <;> first | with_reducible rfl | simp [*]

@[simp] theorem updItem_look {β : Type} (ρ : State → β) (hρ : ∀ (t : State) cv, look ρ { t with cv := cv } = look ρ t)
    (id : Nat) (f : Item → Item) (s : State) : look ρ (updItem id f s) = look ρ s := by
  unfold updItem
  (repeat' split) <;> first | with_reducible rfl | simp [*]

@[simp] theorem dropItem_look {β : Type} (ρ : State → β) (hρ : ∀ (t : State) cv, look ρ { t with cv := cv } = look ρ
    t) (id : Nat) (s : State) : look ρ (dropItem id s) = look ρ s := by
  unfold dropItem
  (repeat' split) <;> first | with_reducible rfl | simp [*]

@[simp] theorem queueAt_look {β : Type} (ρ : State → β) (hρ : ∀ (t : State) cv, look ρ { t with cv := cv } = look ρ t)
    (level id : Nat) (s : State) : look ρ (queueAt level id s) = look ρ s := by
  unfold queueAt
  (repeat' split) <;> first | with_reducible rfl | simp [*]

@[simp] theorem chargeItem_look {β : Type} (ρ : State → β) (hρ : ∀ (t : State) cv, look ρ { t with cv := cv } = look ρ
    t) (it : Item) (s : State) : look ρ (chargeItem it s) = look ρ s := by
  unfold chargeItem
  (repeat' split) <;> first | with_reducible rfl | simp [*]

@[simp] theorem stopItem_look {β : Type} (ρ : State → β) (hρ : ∀ (t : State) cv, look ρ { t with cv := cv } = look ρ
    t) (it : Item) (s : State) : look ρ (stopItem it s) = look ρ s := by
  unfold stopItem
  (repeat' split) <;> first | with_reducible rfl | simp [*]

@[simp] theorem updInst_look {β : Type} (ρ : State → β) (hρ : ∀ (t : State) cv, look ρ { t with cv := cv } = look ρ t)
    (job seq : Nat) (f : Inst → Inst) (s : State) : look ρ (updInst job seq f s) = look ρ s := by
  unfold updInst
  (repeat' split) <;> first | with_reducible rfl | simp [*]

@[simp] theorem dropInst_look {β : Type} (ρ : State → β) (hρ : ∀ (t : State) cv, look ρ { t with cv := cv } = look ρ
    t) (i : Inst) (s : State) : look ρ (dropInst i s) = look ρ s := by
  unfold dropInst
  (repeat' split) <;> first | with_reducible rfl | simp [*]

@[simp] theorem freeInstHold_look {β : Type} (ρ : State → β) (hρ : ∀ (t : State) erg, look ρ { t with erg := erg } =
    look ρ t) (i : Inst) (s : State) : look ρ (freeInstHold i s) = look ρ s := by
  unfold freeInstHold
  (repeat' split) <;> first | with_reducible rfl | simp [*]

@[simp] theorem finishRun_look {β : Type} (ρ : State → β) (hρ : ∀ (t : State) hi ev counters out, look ρ { t with hi := hi, ev := ev, counters := counters, out := out }
    = look ρ t) (i : Inst) (status : Nat) (s : State) : look ρ (finishRun i status s) = look ρ s := by
  unfold finishRun
  (repeat' split) <;> first | with_reducible rfl | simp [*]

@[simp] theorem abortReports_look {β : Type} (ρ : State → β) (hρ : ∀ (t : State) ts sc counters freeCtr, look ρ { t with ts := ts, sc := sc, counters := counters, freeCtr := freeCtr }
    = look ρ t) (i : Inst) (s : State) : look ρ (abortReports i s) = look ρ s := by
  unfold abortReports
  (repeat' split) <;> first | with_reducible rfl | simp [*]

@[simp] theorem abortInst_look {β : Type} (ρ : State → β) (hρ : ∀ (t : State) hi ev erg cv ts sc counters out freeCtr,
    look ρ { t with hi := hi, ev := ev, erg := erg, cv := cv, ts := ts, sc := sc, counters := counters, out := out, freeCtr := freeCtr }
    = look ρ t) (i : Inst) (node cause : Nat) (s : State) : look ρ (abortInst i node cause s) = look ρ s := by
  unfold abortInst
  (repeat' split) <;> first | with_reducible rfl | simp [*]

@[simp] theorem endInst_look {β : Type} (ρ : State → β) (hρ : ∀ (t : State) hi ev erg cv counters out, look ρ { t with hi := hi, ev := ev, erg := erg, cv := cv, counters := counters, out := out }
    = look ρ t) (i : Inst) (s : State) : look ρ (endInst i s) = look ρ s := by
  unfold endInst
  (repeat' split) <;> first | with_reducible rfl | simp [*]

theorem createItem_look {β : Type} (ρ : State → β) (hρ : ∀ (t : State) cv, look ρ { t with cv := cv } = look ρ t) (i :
    Inst) (d : NodeP) (s t : State) (h : createItem i d s = some t) : look ρ t = look ρ s := by
  simp only [createItem] at h
  split at h
  · cases h
  · exact enterItem_look ρ (by simp [hρ]) _ _ _ _ _ _ h

@[simp] theorem makeReady_look {β : Type} (ρ : State → β) (hρ : ∀ (t : State) hi ev erg cv ts sc counters out freeCtr,
    look ρ { t with hi := hi, ev := ev, erg := erg, cv := cv, ts := ts, sc := sc, counters := counters, out := out, freeCtr := freeCtr }
    = look ρ t) (job seq : Nat) (s : State) : look ρ (makeReady job seq s) = look ρ s := by
  unfold makeReady
  split
  · simp
  · rw [look_foldl]
    intro s a; (repeat' split) <;> simp [*]
    exact createItem_look ρ (by simp [hρ]) _ _ _ _ ‹_›

@[simp] theorem startInst_look {β : Type} (ρ : State → β) (hρ : ∀ (t : State) hi ev erg cv ts sc counters out freeCtr,
    look ρ { t with hi := hi, ev := ev, erg := erg, cv := cv, ts := ts, sc := sc, counters := counters, out := out, freeCtr := freeCtr }
    = look ρ t) (j : Nat) (t : Trigger) (s : State) : look ρ (startInst j t s).2 = look ρ s := by
  simp only [startInst]
  (repeat' split) <;> simp [*]

@[simp] theorem startBound_look {β : Type} (ρ : State → β) (hρ : ∀ (t : State) hi ev erg cv ts sc counters out
    freeCtr, look ρ { t with hi := hi, ev := ev, erg := erg, cv := cv, ts := ts, sc := sc, counters := counters, out := out, freeCtr := freeCtr }
    = look ρ t) (gid k : Nat) (t : Int) (s : State) : look ρ (startBound gid k t s) = look ρ s := by
  unfold startBound
  (repeat' split) <;> first | with_reducible rfl | simp [*]

@[simp] theorem discardInsts_look {β : Type} (ρ : State → β) (hρ : ∀ (t : State) hi ev erg cv counters out, look ρ { t with hi := hi, ev := ev, erg := erg, cv := cv, counters := counters, out := out }
    = look ρ t) (s : State) : look ρ (discardInsts s) = look ρ s := by
  unfold discardInsts
  (repeat' split) <;> first | with_reducible rfl | simp [*]

@[simp] theorem readInput_look {β : Type} (ρ : State → β) (hρ : ∀ (t : State) hi ec ev counters out freeCtr, look ρ { t with hi := hi, ec := ec, ev := ev, counters := counters, out := out, freeCtr := freeCtr }
    = look ρ t) (i : Inst) (s : State) : look ρ (readInput i s).2 = look ρ s := by
  simp only [readInput]
  (repeat' split) <;> first | with_reducible rfl | simp [*]

@[simp] theorem stageStart_look {β : Type} (ρ : State → β) (hρ : ∀ (t : State) cv sc, look ρ { t with cv := cv, sc := sc }
    = look ρ t) (i : Option Inst) (it : Item) (s : State) : look ρ (stageStart i it s) = look ρ s := by
  unfold stageStart
  (repeat' split) <;> first | with_reducible rfl | simp [*]

@[simp] theorem loadEngine_look {β : Type} (ρ : State → β) (hρ : ∀ (t : State) cv, look ρ { t with cv := cv } = look ρ
    t) (words : Tbl Nat) (n : Nat) (s : State) : look ρ (loadEngine words n s) = look ρ s := by
  unfold loadEngine
  (repeat' split) <;> first | with_reducible rfl | simp [*]

@[simp] theorem takeService_look {β : Type} (ρ : State → β) (hρ : ∀ (t : State) hi cv sc counters, look ρ { t with hi := hi, cv := cv, sc := sc, counters := counters }
    = look ρ t) (it : Item) (input : Option Instant) (s : State) : look ρ (takeService it input s) = look ρ s := by
  simp only [takeService]
  (repeat' split) <;> first | with_reducible rfl | simp [*]

@[simp] theorem dispatchItem_look {β : Type} (ρ : State → β) (hρ : ∀ (t : State) hi ec ev erg cv ts sc counters out
    freeCtr, look ρ { t with hi := hi, ec := ec, ev := ev, erg := erg, cv := cv, ts := ts, sc := sc, counters := counters, out := out, freeCtr := freeCtr }
    = look ρ t) (it : Item) (s : State) : look ρ (dispatchItem it s) = look ρ s := by
  unfold dispatchItem
  split
  · simp [*]
  · rename_i i _
    have hr := readInput_look ρ (by simp [hρ]) i s
    (repeat' split) <;> first | (simp [*]; done) | (rename_i h; rw [h] at hr; simp [*])

@[simp] theorem caravanTick_look {β : Type} (ρ : State → β) (hρ : ∀ (t : State) cv counters, look ρ { t with cv := cv, counters := counters }
    = look ρ t) (s : State) : look ρ (caravanTick s) = look ρ s := by
  unfold caravanTick
  (repeat' split) <;> first | with_reducible rfl | simp [*]

@[simp] theorem failRefac_look {β : Type} (ρ : State → β) (hρ : ∀ (t : State) hi ev cv ts counters out, look ρ { t with hi := hi, ev := ev, cv := cv, ts := ts, counters := counters, out := out }
    = look ρ t) (status : Nat) (s : State) : look ρ (failRefac status s) = look ρ s := by
  simp only [failRefac] <;> repeat' first
    | with_reducible rfl | (simp [*]; done) | split | rw [look_foldl] | intro _ | dsimp only | simp [*]

theorem execDispatchDecision_look {β : Type} (ρ : State → β) (hρ : ∀ (t : State) hi ec ev erg cv ts sc counters out
    freeCtr, look ρ { t with hi := hi, ec := ec, ev := ev, erg := erg, cv := cv, ts := ts, sc := sc, counters := counters, out := out, freeCtr := freeCtr }
    = look ρ t) (s : State) : ∃ σ, execDispatchDecision s = .next σ ∧ look ρ σ = look ρ s := by
  refine ⟨_, rfl, ?_⟩; (repeat' split) <;> first | with_reducible rfl | simp [*]

theorem execItemAging_look {β : Type} (ρ : State → β) (hρ : ∀ (t : State) cv counters, look ρ { t with cv := cv, counters := counters }
    = look ρ t) (level : Nat) (s : State) : ∃ σ, execItemAging level s = .next σ ∧ look ρ σ = look ρ s := by
  refine ⟨_, rfl, ?_⟩; (repeat' split) <;> first | with_reducible rfl | simp [*]

theorem execDelayExpiry_look {β : Type} (ρ : State → β) (hρ : ∀ (t : State) cv, look ρ { t with cv := cv } = look ρ t)
    (s : State) : ∃ σ, execDelayExpiry s = .next σ ∧ look ρ σ = look ρ s := by
  refine ⟨_, rfl, ?_⟩; (repeat' split) <;> first | with_reducible rfl | simp [*]

theorem execCheckpointWrite_look {β : Type} (ρ : State → β) (hρ : ∀ (t : State) cv, look ρ { t with cv := cv } = look
    ρ t) (item : Nat) (s : State) : ∃ σ, execCheckpointWrite item s = .next σ ∧ look ρ σ = look ρ s := by
  refine ⟨_, rfl, ?_⟩; (repeat' split) <;> first | with_reducible rfl | simp [*]

theorem execBudgetOver_look {β : Type} (ρ : State → β) (hρ : ∀ (t : State) hi ev erg cv ts sc counters out freeCtr,
    look ρ { t with hi := hi, ev := ev, erg := erg, cv := cv, ts := ts, sc := sc, counters := counters, out := out, freeCtr := freeCtr }
    = look ρ t) (item : Nat) (s : State) : ∃ σ, execBudgetOver item s = .next σ ∧ look ρ σ = look ρ s := by
  refine ⟨_, rfl, ?_⟩; repeat' first
    | rfl | (simp [*]; done) | split | rw [look_foldl] | intro _ | dsimp only

end Sys2Proof.Machine
end

