-- ==== Sys2Proof/Laws/LookTransmit.lean ====
section
/-! SUPPORT. What the operations of Machine/Transmit.lean leave alone. -/

namespace Sys2Proof.Machine

@[simp] theorem updPort_look {β : Type} (ρ : State → β) (hρ : ∀ (t : State) np, look ρ { t with np := np } = look ρ t)
    (p : Nat) (f : Port → Port) (s : State) : look ρ (updPort p f s) = look ρ s := by
  unfold updPort
  (repeat' split) <;> first | with_reducible rfl | simp [*]

@[simp] theorem updPrp_look {β : Type} (ρ : State → β) (hρ : ∀ (t : State) np, look ρ { t with np := np } = look ρ t)
    (n : Nat) (f : Prp → Prp) (s : State) : look ρ (updPrp n f s) = look ρ s := by
  unfold updPrp
  (repeat' split) <;> first | with_reducible rfl | simp [*]

@[simp] theorem putGate_look {β : Type} (ρ : State → β) (hρ : ∀ (t : State) hi ev np counters out, look ρ { t with hi := hi, ev := ev, np := np, counters := counters, out := out }
    = look ρ t) (port : Nat) (g : GateP) (s : State) : look ρ (putGate port g s) = look ρ s := by
  unfold putGate
  (repeat' split) <;> first | with_reducible rfl | simp [*]

@[simp] theorem operatePending_look {β : Type} (ρ : State → β) (hρ : ∀ (t : State) hi ev np counters out, look ρ { t with hi := hi, ev := ev, np := np, counters := counters, out := out }
    = look ρ t) (port : Nat) (g : GateP) (h : Nat) (s : State) : look ρ (operatePending port g h s) = look ρ s := by
  simp only [operatePending]
  (repeat' split) <;> first | with_reducible rfl | simp [*]

@[simp] theorem realignGates_look {β : Type} (ρ : State → β) (hρ : ∀ (t : State) hi ev np counters out, look ρ { t with hi := hi, ev := ev, np := np, counters := counters, out := out }
    = look ρ t) (s : State) : look ρ (realignGates s) = look ρ s := by
  unfold realignGates
  (repeat' split) <;> first | with_reducible rfl | simp [*]

@[simp] theorem offerFrame_look {β : Type} (ρ : State → β) (hρ : ∀ (t : State) np counters, look ρ { t with np := np, counters := counters }
    = look ρ t) (p q : Nat) (x : TxFrame) (s : State) : look ρ (offerFrame p q x s) = look ρ s := by
  unfold offerFrame
  (repeat' split) <;> first | with_reducible rfl | simp [*]

@[simp] theorem sendPort_look {β : Type} (ρ : State → β) (hρ : ∀ (t : State) np counters, look ρ { t with np := np, counters := counters }
    = look ρ t) (p q kind len : Nat) (words : List Nat) (s : State) : look ρ (sendPort p q kind len words s) = look ρ
    s := by
  unfold sendPort
  (repeat' split) <;> first | with_reducible rfl | simp [*]

@[simp] theorem sendPair_look {β : Type} (ρ : State → β) (hρ : ∀ (t : State) np counters, look ρ { t with np := np, counters := counters }
    = look ρ t) (n q kind len : Nat) (words : List Nat) (s : State) : look ρ (sendPair n q kind len words s) = look ρ
    s := by
  unfold sendPair
  (repeat' split) <;> first | with_reducible rfl | simp [*]

@[simp] theorem sendAny_look {β : Type} (ρ : State → β) (hρ : ∀ (t : State) np counters, look ρ { t with np := np, counters := counters }
    = look ρ t) (p q kind len : Nat) (words : List Nat) (s : State) : look ρ (sendAny p q kind len words s) = look ρ s
    := by
  unfold sendAny
  (repeat' split) <;> first | with_reducible rfl | simp [*]

@[simp] theorem usePn_look {β : Type} (ρ : State → β) (hρ : ∀ (t : State) hi ev np counters out, look ρ { t with hi := hi, ev := ev, np := np, counters := counters, out := out }
    = look ρ t) (p : Nat) (s : State) : look ρ (usePn p s) = look ρ s := by
  simp only [usePn]
  (repeat' split) <;> first | with_reducible rfl | simp [*]

@[simp] theorem rollSa_look {β : Type} (ρ : State → β) (hρ : ∀ (t : State) np, look ρ { t with np := np } = look ρ t)
    (p : Nat) (s : State) : look ρ (rollSa p s) = look ρ s := by
  simp only [rollSa]
  (repeat' split) <;> first | with_reducible rfl | simp [*]

@[simp] theorem dropUnprotected_look {β : Type} (ρ : State → β) (hρ : ∀ (t : State) hi ev np counters out, look ρ { t with hi := hi, ev := ev, np := np, counters := counters, out := out }
    = look ρ t) (p : Nat) (s : State) : look ρ (dropUnprotected p s) = look ρ s := by
  simp only [dropUnprotected]
  (repeat' split) <;> first | with_reducible rfl | simp [*]

@[simp] theorem putOnWire_look {β : Type} (ρ : State → β) (hρ : ∀ (t : State) np counters out, look ρ { t with np := np, counters := counters, out := out }
    = look ρ t) (p q sub : Nat) (x : TxFrame) (sec : List Nat) (s : State) : look ρ (putOnWire p q sub x sec s) = look
    ρ s := by
  unfold putOnWire
  (repeat' split) <;> first | with_reducible rfl | simp [*]

@[simp] theorem startFrame_look {β : Type} (ρ : State → β) (hρ : ∀ (t : State) hi ev np counters out, look ρ { t with hi := hi, ev := ev, np := np, counters := counters, out := out }
    = look ρ t) (p q sub : Nat) (s : State) : look ρ (startFrame p q sub s) = look ρ s := by
  unfold startFrame
  (repeat' split) <;> first | with_reducible rfl | simp [*]

theorem execGateBoundary_look {β : Type} (ρ : State → β) (hρ : ∀ (t : State) np, look ρ { t with np := np } = look ρ
    t) (port : Nat) (s : State) : ∃ σ, execGateBoundary port s = .next σ ∧ look ρ σ = look ρ s := by
  refine ⟨_, rfl, ?_⟩; (repeat' split) <;> first | with_reducible rfl | simp [*]

theorem execGateOperative_look {β : Type} (ρ : State → β) (hρ : ∀ (t : State) hi ev np counters out, look ρ { t with hi := hi, ev := ev, np := np, counters := counters, out := out }
    = look ρ t) (port : Nat) (s : State) : ∃ σ, execGateOperative port s = .next σ ∧ look ρ σ = look ρ s := by
  refine ⟨_, rfl, ?_⟩; repeat' first
    | rfl | (simp [*]; done) | split | rw [look_foldl] | intro _ | dsimp only

theorem execTxFrameStart_look {β : Type} (ρ : State → β) (hρ : ∀ (t : State) hi ev np counters out, look ρ { t with hi := hi, ev := ev, np := np, counters := counters, out := out }
    = look ρ t) (port : Nat) (q : FrameStart) (s : State) : ∃ σ, execTxFrameStart port q s = .next σ ∧ look ρ σ =
    look ρ s := by
  refine ⟨_, rfl, ?_⟩; (repeat' split) <;> first | with_reducible rfl | simp [*]

theorem execPrpSupervisionTx_look {β : Type} (ρ : State → β) (hρ : ∀ (t : State) np counters, look ρ { t with np := np, counters := counters }
    = look ρ t) (pair : Nat) (s : State) : ∃ σ, execPrpSupervisionTx pair s = .next σ ∧ look ρ σ = look ρ s := by
  refine ⟨_, rfl, ?_⟩; (repeat' split) <;> first | with_reducible rfl | simp [*]

end Sys2Proof.Machine
end

