-- ==== Sys2Proof/Laws/LookPublish.lean ====
section
/-! SUPPORT. What the operations of Machine/Publish.lean leave alone. -/

namespace Sys2Proof.Machine

@[simp] theorem sendSession_look {β : Type} (ρ : State → β) (hρ : ∀ (t : State) np counters, look ρ { t with np := np, counters := counters }
    = look ρ t) (x : SessionP) (len : Nat) (words : List Nat) (s : State) : look ρ (sendSession x len words s) = look
    ρ s := by
  unfold sendSession
  (repeat' split) <;> first | with_reducible rfl | simp [*]

@[simp] theorem publishSession_look {β : Type} (ρ : State → β) (hρ : ∀ (t : State) np erg counters, look ρ { t with np := np, erg := erg, counters := counters }
    = look ρ t) (n gid : Nat) (i : Instant) (cells : Tbl Cell) (amend : Bool) (s : State) : look ρ (publishSession n
    gid i cells amend s) = look ρ s := by
  unfold publishSession
  (repeat' split) <;> first | with_reducible rfl | simp [*]

theorem execPublishInstant_look {β : Type} (ρ : State → β) (hρ : ∀ (t : State) hi ec ev np erg counters out freeCtr,
    look ρ { t with hi := hi, ec := ec, ev := ev, np := np, erg := erg, counters := counters, out := out, freeCtr := freeCtr }
    = look ρ t) (gid index : Nat) (s : State) : ∃ σ, execPublishInstant gid index s = .next σ ∧ look ρ σ = look ρ s := by
  refine ⟨_, rfl, ?_⟩; repeat' first
    | with_reducible rfl | (simp [*]; done) | split | rw [look_foldl] | intro _ | dsimp only

end Sys2Proof.Machine
end

