-- ==== Sys2Proof/Laws/LookErg.lean ====
section
/-! SUPPORT. What the operations of Machine/Erg.lean leave alone. -/

namespace Sys2Proof.Machine

@[simp] theorem openInstant_look {β : Type} (ρ : State → β) (hρ : ∀ (t : State) erg, look ρ { t with erg := erg } =
    look ρ t) (gid k : Nat) (s : State) : look ρ (openInstant gid k s) = look ρ s := by
  unfold openInstant
  (repeat' split) <;> first | with_reducible rfl | simp [*]

@[simp] theorem countRelease_look {β : Type} (ρ : State → β) (hρ : ∀ (t : State) counters, look ρ { t with counters := counters }
    = look ρ t) (gid : Nat) (i : Instant) (s : State) : look ρ (countRelease gid i s) = look ρ s := by
  unfold countRelease
  (repeat' split) <;> first | with_reducible rfl | simp [*]

@[simp] theorem releaseInstant_look {β : Type} (ρ : State → β) (hρ : ∀ (t : State) hi ec ev erg cv ts sc counters out
    freeCtr, look ρ { t with hi := hi, ec := ec, ev := ev, erg := erg, cv := cv, ts := ts, sc := sc, counters := counters, out := out, freeCtr := freeCtr }
    = look ρ t) (gid k : Nat) (byDeadline : Bool) (s : State) : look ρ (releaseInstant gid k byDeadline s) = look ρ s
    := by
  simp only [releaseInstant]
  (repeat' split) <;> first | with_reducible rfl | simp [*]

@[simp] theorem releaseChain_look {β : Type} (ρ : State → β) (hρ : ∀ (t : State) hi ec ev erg cv ts sc counters out
    freeCtr, look ρ { t with hi := hi, ec := ec, ev := ev, erg := erg, cv := cv, ts := ts, sc := sc, counters := counters, out := out, freeCtr := freeCtr }
    = look ρ t) (gid : Nat) (x0 : Nat) (s : State) : look ρ (releaseChain gid x0 s) = look ρ s := by
  induction x0 generalizing s <;> simp only [releaseChain] <;> (repeat' split) <;> simp_all

@[simp] theorem releaseDue_look {β : Type} (ρ : State → β) (hρ : ∀ (t : State) hi ec ev erg cv ts sc counters out
    freeCtr, look ρ { t with hi := hi, ec := ec, ev := ev, erg := erg, cv := cv, ts := ts, sc := sc, counters := counters, out := out, freeCtr := freeCtr }
    = look ρ t) (gid : Nat) (t : Int) (x0 : Nat) (s : State) : look ρ (releaseDue gid t x0 s) = look ρ s := by
  induction x0 generalizing s <;> simp only [releaseDue] <;> (repeat' split) <;> simp_all

@[simp] theorem releaseAll_look {β : Type} (ρ : State → β) (hρ : ∀ (t : State) hi ec ev erg cv ts sc counters out
    freeCtr, look ρ { t with hi := hi, ec := ec, ev := ev, erg := erg, cv := cv, ts := ts, sc := sc, counters := counters, out := out, freeCtr := freeCtr }
    = look ρ t) (gid : Nat) (s : State) : look ρ (releaseAll gid s) = look ρ s := by
  unfold releaseAll
  (repeat' split) <;> first | with_reducible rfl | simp [*]

@[simp] theorem closeBatch_look {β : Type} (ρ : State → β) (hρ : ∀ (t : State) hi ec ev np erg aq counters out
    freeCtr, look ρ { t with hi := hi, ec := ec, ev := ev, np := np, erg := erg, aq := aq, counters := counters, out := out, freeCtr := freeCtr }
    = look ρ t) (gid : Nat) (i : Instant) (cells : Tbl Cell) (s : State) : look ρ (closeBatch gid i cells s) = look ρ
    s := by
  simp only [closeBatch]
  (repeat' split) <;> first | with_reducible rfl | simp [*]

@[simp] theorem flushLates_look {β : Type} (ρ : State → β) (hρ : ∀ (t : State) hi ec ev erg aq counters out freeCtr,
    look ρ { t with hi := hi, ec := ec, ev := ev, erg := erg, aq := aq, counters := counters, out := out, freeCtr := freeCtr }
    = look ρ t) (gid k : Nat) (s : State) : look ρ (flushLates gid k s) = look ρ s := by
  unfold flushLates
  (repeat' split) <;> first | with_reducible rfl | simp [*]

@[simp] theorem noCell_look {β : Type} (ρ : State → β) (hρ : ∀ (t : State) hi ev erg counters out, look ρ { t with hi := hi, ev := ev, erg := erg, counters := counters, out := out }
    = look ρ t) (gid : Nat) (s : State) : look ρ (noCell gid s) = look ρ s := by
  unfold noCell
  (repeat' split) <;> first | with_reducible rfl | simp [*]

@[simp] theorem lateRecord_look {β : Type} (ρ : State → β) (hρ : ∀ (t : State) hi ec ev erg counters out freeCtr, look
    ρ { t with hi := hi, ec := ec, ev := ev, erg := erg, counters := counters, out := out, freeCtr := freeCtr } = look
    ρ t) (gid k sid : Nat) (c : Cell) (s : State) : look ρ (lateRecord gid k sid c s) = look ρ s := by
  simp only [lateRecord]
  (repeat' split) <;> first | with_reducible rfl | simp [*]

@[simp] theorem lateAmend_look {β : Type} (ρ : State → β) (hρ : ∀ (t : State) hi ec ev erg counters out freeCtr, look
    ρ { t with hi := hi, ec := ec, ev := ev, erg := erg, counters := counters, out := out, freeCtr := freeCtr } = look
    ρ t) (gid sid : Nat) (i : Instant) (c : Cell) (s : State) : look ρ (lateAmend gid sid i c s) = look ρ s := by
  simp only [lateAmend]
  (repeat' split) <;> first | with_reducible rfl | simp [*]

@[simp] theorem lateCell_look {β : Type} (ρ : State → β) (hρ : ∀ (t : State) hi ec ev erg counters out freeCtr, look ρ
    { t with hi := hi, ec := ec, ev := ev, erg := erg, counters := counters, out := out, freeCtr := freeCtr } = look ρ
    t) (gid sid : Nat) (i : Instant) (c : Cell) (s : State) : look ρ (lateCell gid sid i c s) = look ρ s := by
  unfold lateCell
  (repeat' split) <;> first | with_reducible rfl | simp [*]

@[simp] theorem storeCell_look {β : Type} (ρ : State → β) (hρ : ∀ (t : State) hi ec ev erg counters out freeCtr, look
    ρ { t with hi := hi, ec := ec, ev := ev, erg := erg, counters := counters, out := out, freeCtr := freeCtr } = look
    ρ t) (gid k sid : Nat) (c : Cell) (s : State) : look ρ (storeCell gid k sid c s) = look ρ s := by
  simp only [storeCell]
  (repeat' split) <;> first | with_reducible rfl | simp [*]

@[simp] theorem writeCell_look {β : Type} (ρ : State → β) (hρ : ∀ (t : State) hi ec ev erg counters out freeCtr, look
    ρ { t with hi := hi, ec := ec, ev := ev, erg := erg, counters := counters, out := out, freeCtr := freeCtr } = look
    ρ t) (gid : Nat) (k : Int) (sid : Nat) (c : Cell) (s : State) : look ρ (writeCell gid k sid c s) = look ρ s := by
  unfold writeCell
  (repeat' split) <;> first | with_reducible rfl | simp [*]

@[simp] theorem skipInstants_look {β : Type} (ρ : State → β) (hρ : ∀ (t : State) hi ec ev erg aq counters out freeCtr,
    look ρ { t with hi := hi, ec := ec, ev := ev, erg := erg, aq := aq, counters := counters, out := out, freeCtr := freeCtr }
    = look ρ t) (gid first n : Nat) (s : State) : look ρ (skipInstants gid first n s) = look ρ s := by
  unfold skipInstants
  (repeat' split) <;> first | with_reducible rfl | simp [*]

@[simp] theorem openRelease_look {β : Type} (ρ : State → β) (hρ : ∀ (t : State) hi ec ev erg cv ts sc counters out
    freeCtr, look ρ { t with hi := hi, ec := ec, ev := ev, erg := erg, cv := cv, ts := ts, sc := sc, counters := counters, out := out, freeCtr := freeCtr }
    = look ρ t) (gid n k : Nat) (s : State) : look ρ (openRelease gid n k s) = look ρ s := by
  induction n generalizing k s with
  | zero => simp [openRelease]
  | succ n ih => simp [openRelease, *]

@[simp] theorem catchUp_look {β : Type} (ρ : State → β) (hρ : ∀ (t : State) hi ec ev erg cv ts sc aq counters out
    freeCtr, look ρ { t with hi := hi, ec := ec, ev := ev, erg := erg, cv := cv, ts := ts, sc := sc, aq := aq, counters := counters, out := out, freeCtr := freeCtr }
    = look ρ t) (gid : Nat) (s : State) : look ρ (catchUp gid s) = look ρ s := by
  simp only [catchUp]
  (repeat' split) <;> first | with_reducible rfl | simp [*]

@[simp] theorem ergTick_look {β : Type} (ρ : State → β) (hρ : ∀ (t : State) hi ec ev erg cv ts sc aq counters out
    freeCtr, look ρ { t with hi := hi, ec := ec, ev := ev, erg := erg, cv := cv, ts := ts, sc := sc, aq := aq, counters := counters, out := out, freeCtr := freeCtr }
    = look ρ t) (s : State) : look ρ (ergTick s) = look ρ s := by
  simp only [ergTick] <;> repeat' first
    | with_reducible rfl | (simp [*]; done) | split | rw [look_foldl] | intro _ | dsimp only

@[simp] theorem ergStep_look {β : Type} (ρ : State → β) (hρ : ∀ (t : State) hi ev erg counters out, look ρ { t with hi := hi, ev := ev, erg := erg, counters := counters, out := out }
    = look ρ t) (s : State) : look ρ (ergStep s) = look ρ s := by
  simp only [ergStep] <;> repeat' first
    | with_reducible rfl | (simp [*]; done) | split | rw [look_foldl] | intro _ | dsimp only

@[simp] theorem ergFreeze_look {β : Type} (ρ : State → β) (hρ : ∀ (t : State) erg, look ρ { t with erg := erg } = look
    ρ t) (s : State) : look ρ (ergFreeze s) = look ρ s := by
  unfold ergFreeze
  (repeat' split) <;> first | with_reducible rfl | simp [*]

@[simp] theorem discardInstants_look {β : Type} (ρ : State → β) (hρ : ∀ (t : State) erg counters, look ρ { t with erg := erg, counters := counters }
    = look ρ t) (gid : Nat) (s : State) : look ρ (discardInstants gid s) = look ρ s := by
  unfold discardInstants
  (repeat' split) <;> first | with_reducible rfl | simp [*]

@[simp] theorem discardAll_look {β : Type} (ρ : State → β) (hρ : ∀ (t : State) erg counters, look ρ { t with erg := erg, counters := counters }
    = look ρ t) (s : State) : look ρ (discardAll s) = look ρ s := by
  unfold discardAll
  (repeat' split) <;> first | with_reducible rfl | simp [*]

@[simp] theorem ergResume_look {β : Type} (ρ : State → β) (hρ : ∀ (t : State) erg, look ρ { t with erg := erg } = look
    ρ t) (s : State) : look ρ (ergResume s) = look ρ s := by
  simp only [ergResume] <;> repeat' first
    | with_reducible rfl | (simp [*]; done) | split | rw [look_foldl] | intro _ | dsimp only

@[simp] theorem shedGroup_look {β : Type} (ρ : State → β) (hρ : ∀ (t : State) hi ec ev erg cv ts sc aq counters out
    freeCtr, look ρ { t with hi := hi, ec := ec, ev := ev, erg := erg, cv := cv, ts := ts, sc := sc, aq := aq, counters := counters, out := out, freeCtr := freeCtr }
    = look ρ t) (gid : Nat) (s : State) : look ρ (shedGroup gid s) = look ρ s := by
  simp only [shedGroup]
  (repeat' split) <;> first | with_reducible rfl | simp [*]

@[simp] theorem revokeSessions_look {β : Type} (ρ : State → β) (hρ : ∀ (t : State) hi ev erg counters out, look ρ { t with hi := hi, ev := ev, erg := erg, counters := counters, out := out }
    = look ρ t) (slot : Nat) (s : State) : look ρ (revokeSessions slot s) = look ρ s := by
  simp only [revokeSessions] <;> repeat' first
    | with_reducible rfl | (simp [*]; done) | split | rw [look_foldl] | intro _ | dsimp only

theorem execInstantOpen_look {β : Type} (ρ : State → β) (hρ : ∀ (t : State) erg, look ρ { t with erg := erg } = look ρ
    t) (gid : Nat) (s : State) : ∃ σ, execInstantOpen gid s = .next σ ∧ look ρ σ = look ρ s := by
  refine ⟨_, rfl, ?_⟩; (repeat' split) <;> first | with_reducible rfl | simp [*]

theorem execEarlyRelease_look {β : Type} (ρ : State → β) (hρ : ∀ (t : State) hi ec ev erg cv ts sc counters out
    freeCtr, look ρ { t with hi := hi, ec := ec, ev := ev, erg := erg, cv := cv, ts := ts, sc := sc, counters := counters, out := out, freeCtr := freeCtr }
    = look ρ t) (gid : Nat) (s : State) : ∃ σ, execEarlyRelease gid s = .next σ ∧ look ρ σ = look ρ s := by
  refine ⟨_, rfl, ?_⟩; (repeat' split) <;> first | with_reducible rfl | simp [*]

theorem execDeadlineRelease_look {β : Type} (ρ : State → β) (hρ : ∀ (t : State) hi ec ev erg cv ts sc counters out
    freeCtr, look ρ { t with hi := hi, ec := ec, ev := ev, erg := erg, cv := cv, ts := ts, sc := sc, counters := counters, out := out, freeCtr := freeCtr }
    = look ρ t) (gid : Nat) (s : State) : ∃ σ, execDeadlineRelease gid s = .next σ ∧ look ρ σ = look ρ s := by
  refine ⟨_, rfl, ?_⟩; (repeat' split) <;> first | with_reducible rfl | simp [*]

theorem execCellHoldExpiry_look {β : Type} (ρ : State → β) (hρ : ∀ (t : State) erg, look ρ { t with erg := erg } =
    look ρ t) (gid index : Nat) (s : State) : ∃ σ, execCellHoldExpiry gid index s = .next σ ∧ look ρ σ = look ρ s := by
  refine ⟨_, rfl, ?_⟩; (repeat' split) <;> first | with_reducible rfl | simp [*]

theorem execInstantRetire_look {β : Type} (ρ : State → β) (hρ : ∀ (t : State) erg, look ρ { t with erg := erg } = look
    ρ t) (gid index : Nat) (s : State) : ∃ σ, execInstantRetire gid index s = .next σ ∧ look ρ σ = look ρ s := by
  refine ⟨_, rfl, ?_⟩; (repeat' split) <;> first | with_reducible rfl | simp [*]

theorem execAmendBatchClose_look {β : Type} (ρ : State → β) (hρ : ∀ (t : State) hi ec ev np erg aq counters out
    freeCtr, look ρ { t with hi := hi, ec := ec, ev := ev, np := np, erg := erg, aq := aq, counters := counters, out := out, freeCtr := freeCtr }
    = look ρ t) (gid index : Nat) (s : State) : ∃ σ, execAmendBatchClose gid index s = .next σ ∧ look ρ σ = look ρ s
    := by
  refine ⟨_, rfl, ?_⟩; (repeat' split) <;> first | with_reducible rfl | simp [*]

end Sys2Proof.Machine
end

