-- ==== Sys2Proof/Laws/LookAdmission.lean ====
section
/-! SUPPORT. What the operations of Machine/Admission.lean leave alone. -/

namespace Sys2Proof.Machine

@[simp] theorem shedJobs_look {β : Type} (ρ : State → β) (hρ : ∀ (t : State) hi ev cv counters out, look ρ { t with hi := hi, ev := ev, cv := cv, counters := counters, out := out }
    = look ρ t) (x0 : Nat) (s : State) : look ρ (shedJobs x0 s) = look ρ s := by
  induction x0 generalizing s <;> simp only [shedJobs] <;> (repeat' split) <;> simp_all

@[simp] theorem shedGroups_look {β : Type} (ρ : State → β) (hρ : ∀ (t : State) hi ec ev erg cv ts sc aq counters out
    freeCtr, look ρ { t with hi := hi, ec := ec, ev := ev, erg := erg, cv := cv, ts := ts, sc := sc, aq := aq, counters := counters, out := out, freeCtr := freeCtr }
    = look ρ t) (x0 : List Nat) (s : State) : look ρ (shedGroups x0 s) = look ρ s := by
  induction x0 generalizing s <;> simp only [shedGroups] <;> (repeat' split) <;> simp_all

@[simp] theorem capacityFell_look {β : Type} (ρ : State → β) (hρ : ∀ (t : State) hi ec ev pm erg cv ts sc aq counters
    out freeCtr, look ρ { t with hi := hi, ec := ec, ev := ev, pm := pm, erg := erg, cv := cv, ts := ts, sc := sc, aq := aq, counters := counters, out := out, freeCtr := freeCtr }
    = look ρ t) (s : State) : look ρ (capacityFell s) = look ρ s := by
  unfold capacityFell
  (repeat' split) <;> first | with_reducible rfl | simp [*]

end Sys2Proof.Machine
end

