-- ==== Sys2Proof/Laws/LookSleep.lean ====
section
/-! SUPPORT. What the operations of Machine/Sleep.lean leave alone. -/

namespace Sys2Proof.Machine

@[simp] theorem dozeGap_look {β : Type} (ρ : State → β) (hρ : ∀ (t : State) hi ev aq counters out freeCtr, look ρ { t with hi := hi, ev := ev, aq := aq, counters := counters, out := out, freeCtr := freeCtr }
    = look ρ t) (s : State) : look ρ (dozeGap s) = look ρ s := by
  simp only [dozeGap] <;> repeat' first
    | with_reducible rfl | (simp [*]; done) | split | rw [look_foldl] | intro _ | dsimp only

@[simp] theorem sleepRefused_look {β : Type} (ρ : State → β) (hρ : ∀ (t : State) hi ev pm erg aq counters out freeCtr,
    look ρ { t with hi := hi, ev := ev, pm := pm, erg := erg, aq := aq, counters := counters, out := out, freeCtr := freeCtr }
    = look ρ t) (block reason : Nat) (s : State) : look ρ (sleepRefused block reason s) = look ρ s := by
  simp only [sleepRefused]
  (repeat' split) <;> first | with_reducible rfl | simp [*]

@[simp] theorem haltSleep_look {β : Type} (ρ : State → β) (hρ : ∀ (t : State) pm, look ρ { t with pm := pm } = look ρ
    t) (reason : Nat) (s : State) : look ρ (haltSleep reason s) = look ρ s := by
  unfold haltSleep
  (repeat' split) <;> first | with_reducible rfl | simp [*]

@[simp] theorem endHalted_look {β : Type} (ρ : State → β) (hρ : ∀ (t : State) hi ev pm erg aq counters out freeCtr,
    look ρ { t with hi := hi, ev := ev, pm := pm, erg := erg, aq := aq, counters := counters, out := out, freeCtr := freeCtr }
    = look ρ t) (reason : Nat) (s : State) : look ρ (endHalted reason s) = look ρ s := by
  unfold endHalted
  (repeat' split) <;> first | with_reducible rfl | simp [*]

end Sys2Proof.Machine
end

