-- ==== Sys2Proof/Laws/LookCommand.lean ====
section
/-! SUPPORT. What the operations of Machine/Command.lean leave alone. -/

namespace Sys2Proof.Machine

@[simp] theorem turnedAway_look {β : Type} (ρ : State → β) (hρ : ∀ (t : State) hi ev ov counters out, look ρ { t with hi := hi, ev := ev, ov := ov, counters := counters, out := out }
    = look ρ t) (h : Hdr) (c : CmdSpec) (s : State) : look ρ (turnedAway h c s) = look ρ s := by
  unfold turnedAway
  (repeat' split) <;> first | with_reducible rfl | simp [*]

@[simp] theorem acceptWaking_look {β : Type} (ρ : State → β) (hρ : ∀ (t : State) hi ev pm ov cairn counters out, look
    ρ { t with hi := hi, ev := ev, pm := pm, ov := ov, cairn := cairn, counters := counters, out := out } = look ρ t)
    (h : Hdr) (dead : Bool) (c : CmdSpec) (cmd : Instr) (s : State) : look ρ (acceptWaking h dead c cmd s) = look ρ s
    := by
  unfold acceptWaking
  (repeat' split) <;> first | with_reducible rfl | simp [*]

theorem replyAccepted_look {β : Type} (ρ : State → β) (hρ : ∀ (t : State) hi ev ov cairn counters out, look ρ { t with hi := hi, ev := ev, ov := ov, cairn := cairn, counters := counters, out := out }
    = look ρ t) (h : Hdr) (dead : Bool) (c : CmdSpec) (cmd : Instr) (phase : Phase) (first : State → Nat) (start : Nat
    → State → State) (missed : State → State) (s : State) (hs : ∀ k t, look ρ (start k t) = look ρ t) (hm : ∀ t, look
    ρ (missed t) = look ρ t) : look ρ (replyAccepted h dead c cmd phase first start missed s) = look ρ s := by
  unfold replyAccepted; dsimp only
  (repeat' split) <;> simp [*]

theorem replyDone_look {β : Type} (ρ : State → β) (hρ : ∀ (t : State) hi ev ov cairn counters out, look ρ { t with hi := hi, ev := ev, ov := ov, cairn := cairn, counters := counters, out := out }
    = look ρ t) (h : Hdr) (dead : Bool) (cls : Nat) (after : State → State) (r : Reply) (ha : ∀ t, look ρ (after t) =
    look ρ t) : look ρ (replyDone h dead cls after r) = look ρ r.state := by
  unfold replyDone
  split <;> simp [*]

theorem runDone_look {β : Type} (ρ : State → β) (hρ : ∀ (t : State) hi ev pm ov cairn erg aq counters out freeCtr,
    look ρ { t with hi := hi, ev := ev, pm := pm, ov := ov, cairn := cairn, erg := erg, aq := aq, counters := counters, out := out, freeCtr := freeCtr }
    = look ρ t) (h : Hdr) (c : CmdSpec) (cmd : Instr) (body : State → Reply) (after : State → State) (s : State) (hb :
    ∀ t, look ρ (body t).state = look ρ t) (ha : ∀ t, look ρ (after t) = look ρ t) : look ρ (runDone h c cmd body
    after s) = look ρ s := by
  have hr := fun dead cls r => replyDone_look ρ (by simp [hρ]) h dead cls after r ha
  unfold runDone; dsimp only
  (repeat' split) <;> simp [*]

theorem runAccepted_look {β : Type} (ρ : State → β) (hρ : ∀ (t : State) hi ev pm ov cairn erg aq counters out freeCtr,
    look ρ { t with hi := hi, ev := ev, pm := pm, ov := ov, cairn := cairn, erg := erg, aq := aq, counters := counters, out := out, freeCtr := freeCtr }
    = look ρ t) (h : Hdr) (c : CmdSpec) (cmd : Instr) (phase : Phase) (first : State → Nat) (start : Nat → State →
    State) (missed : State → State) (s : State) (hs : ∀ k t, look ρ (start k t) = look ρ t) (hm : ∀ t, look ρ (missed
    t) = look ρ t) : look ρ (runAccepted h c cmd phase first start missed s) = look ρ s := by
  have hr := fun t => replyAccepted_look ρ (by simp [hρ]) h (headDead s h.src) c cmd phase first start missed t hs hm
  unfold runAccepted; dsimp only
  (repeat' split) <;> simp [*]

/-- The work of a host command leaves a reading alone, whatever the state. -/
def Work.Look {β : Type} (ρ : State → β) : Work → Prop
  | .done body after => (∀ t, look ρ (body t).state = look ρ t) ∧ ∀ t, look ρ (after t) = look ρ t
  | .accepted _ _ start missed => (∀ k t, look ρ (start k t) = look ρ t) ∧ ∀ t, look ρ (missed t) = look ρ t

@[simp] theorem ite_state (c : Prop) [Decidable c] (a b : Reply) :
    (if c then a else b).state = if c then a.state else b.state := by split <;> rfl


@[simp] theorem effect_state (f : State → State) (s : State) : (effect f s).state = f s := rfl

@[simp] theorem answer_state (bytes : State → List Nat) (s : State) : (answer bytes s).state = s := rfl

@[simp] theorem refuseIf_state (bad : Bool) (st : Nat) (body : State → Reply) (s : State) :
    (refuseIf bad st body s).state = if bad then s else (body s).state := by unfold refuseIf; split <;> rfl

theorem runProc_look {β : Type} (ρ : State → β) (hρ : ∀ (t : State) hi ev pm ov cairn erg aq counters out freeCtr,
    look ρ { t with hi := hi, ev := ev, pm := pm, ov := ov, cairn := cairn, erg := erg, aq := aq, counters := counters, out := out, freeCtr := freeCtr }
    = look ρ t) (cmd : Instr) (p : Proc) (s : State) (h : p.work.Look ρ) : look ρ (runProc cmd p s) = look ρ s := by
  unfold runProc
  unfold Work.Look at h
  split <;> simp_all only
  · exact runDone_look ρ (by simp [hρ]) _ _ _ _ _ _ h.1 h.2
  · exact runAccepted_look ρ (by simp [hρ]) _ _ _ _ _ _ _ _ h.1 h.2

@[simp] theorem later_look {β : Type} (ρ : State → β) (first : State → Nat) : (later first).Look ρ := by simp [later, Work.Look]

@[simp] theorem hostOut_look {β : Type} (ρ : State → β) (hρ : ∀ (t : State) out, look ρ { t with out := out } = look ρ
    t) (addr kind : Nat) (words : List Nat) (s : State) : look ρ (hostOut addr kind words s) = look ρ s := by
  unfold hostOut
  (repeat' split) <;> first | with_reducible rfl | simp [*]

end Sys2Proof.Machine
end

