-- ==== Sys2Proof/Laws/LookOutage.lean ====
section
/-! SUPPORT. What the operations of Machine/Outage.lean leave alone. -/

namespace Sys2Proof.Machine

@[simp] theorem updElem_look {β : Type} (ρ : State → β) (hρ : ∀ (t : State) am, look ρ { t with am := am } = look ρ t)
    (e : Nat) (f : Elem → Elem) (s : State) : look ρ (updElem e f s) = look ρ s := by
  unfold updElem
  (repeat' split) <;> first | with_reducible rfl | simp [*]

@[simp] theorem updMChan_look {β : Type} (ρ : State → β) (hρ : ∀ (t : State) am, look ρ { t with am := am } = look ρ
    t) (c : Nat) (f : MChan → MChan) (s : State) : look ρ (updMChan c f s) = look ρ s := by
  unfold updMChan
  (repeat' split) <;> first | with_reducible rfl | simp [*]

@[simp] theorem meterOutage_look {β : Type} (ρ : State → β) (hρ : ∀ (t : State) hi ev counters out, look ρ { t with hi := hi, ev := ev, counters := counters, out := out }
    = look ρ t) (e : Nat) (power : Rat) (ms : Nat) (s : State) : look ρ (meterOutage e power ms s) = look ρ s := by
  unfold meterOutage
  (repeat' split) <;> first | with_reducible rfl | simp [*]

@[simp] theorem energyUnsaved_look {β : Type} (ρ : State → β) (hρ : ∀ (t : State) hi ev counters out, look ρ { t with hi := hi, ev := ev, counters := counters, out := out }
    = look ρ t) (e mask : Nat) (power : Rat) (ms : Nat) (s : State) : look ρ (energyUnsaved e mask power ms s) = look
    ρ s := by
  unfold energyUnsaved
  (repeat' split) <;> first | with_reducible rfl | simp [*]

@[simp] theorem outageStep_look {β : Type} (ρ : State → β) (hρ : ∀ (t : State) hi ev am counters out, look ρ { t with hi := hi, ev := ev, am := am, counters := counters, out := out }
    = look ρ t) (d : Int) (s : State) : look ρ (outageStep d s) = look ρ s := by
  simp only [outageStep] <;> repeat' first
    | with_reducible rfl | (simp [*]; done) | split | rw [look_foldl] | intro _ | dsimp only

@[simp] theorem outageBlock_look {β : Type} (ρ : State → β) (hρ : ∀ (t : State) hi ev am counters out, look ρ { t with hi := hi, ev := ev, am := am, counters := counters, out := out }
    = look ρ t) (e : Nat) (s : State) : look ρ (outageBlock e s) = look ρ s := by
  unfold outageBlock
  (repeat' split) <;> first | with_reducible rfl | simp [*]

end Sys2Proof.Machine
end

