-- ==== Sys2Proof/Laws/LookEnergy.lean ====
section
/-! SUPPORT. What the operations of Machine/Energy.lean leave alone. -/

namespace Sys2Proof.Machine

@[simp] theorem addPulses_look {β : Type} (ρ : State → β) (hρ : ∀ (t : State) hi ev am counters out, look ρ { t with hi := hi, ev := ev, am := am, counters := counters, out := out }
    = look ρ t) (e r units : Nat) (s : State) : look ρ (addPulses e r units s) = look ρ s := by
  unfold addPulses
  (repeat' split) <;> first | with_reducible rfl | simp [*]

@[simp] theorem accumulate_look {β : Type} (ρ : State → β) (hρ : ∀ (t : State) hi ev am counters out, look ρ { t with hi := hi, ev := ev, am := am, counters := counters, out := out }
    = look ρ t) (e r : Nat) (aj : Nat) (s : State) : look ρ (accumulate e r aj s) = look ρ s := by
  unfold accumulate
  (repeat' split) <;> first | with_reducible rfl | simp [*]

@[simp] theorem addBlock_look {β : Type} (ρ : State → β) (hρ : ∀ (t : State) hi ev am counters out, look ρ { t with hi := hi, ev := ev, am := am, counters := counters, out := out }
    = look ρ t) (e : Nat) (s : State) (a : Nat × Nat) : look ρ (addBlock e s a) = look ρ s := by
  unfold addBlock
  (repeat' split) <;> first | with_reducible rfl | simp [*]

@[simp] theorem keepBlock_look {β : Type} (ρ : State → β) (hρ : ∀ (t : State) hi ev am counters out, look ρ { t with hi := hi, ev := ev, am := am, counters := counters, out := out }
    = look ρ t) (e : Nat) (p q : Int) (es : Nat) (durNs : Rat) (noload : Bool) (s : State) : look ρ (keepBlock e p q
    es durNs noload s) = look ρ s := by
  unfold keepBlock
  (repeat' split) <;> first | with_reducible rfl | simp [*]

@[simp] theorem validBlock_look {β : Type} (ρ : State → β) (hρ : ∀ (t : State) hi ev am counters out, look ρ { t with hi := hi, ev := ev, am := am, counters := counters, out := out }
    = look ρ t) (e : Nat) (eP eQ : Int) (durNs : Rat) (s : State) : look ρ (validBlock e eP eQ durNs s) = look ρ s :=
    by
  unfold validBlock
  (repeat' split) <;> first | with_reducible rfl | simp [*]

@[simp] theorem endInvalid_look {β : Type} (ρ : State → β) (hρ : ∀ (t : State) hi ev am counters out, look ρ { t with hi := hi, ev := ev, am := am, counters := counters, out := out }
    = look ρ t) (e : Nat) (s : State) : look ρ (endInvalid e s) = look ρ s := by
  simp only [endInvalid]
  (repeat' split) <;> first | with_reducible rfl | simp [*]

@[simp] theorem invalidBlock_look {β : Type} (ρ : State → β) (hρ : ∀ (t : State) hi ev am counters out, look ρ { t with hi := hi, ev := ev, am := am, counters := counters, out := out }
    = look ρ t) (e : Nat) (s : State) : look ρ (invalidBlock e s) = look ρ s := by
  unfold invalidBlock
  (repeat' split) <;> first | with_reducible rfl | simp [*]

@[simp] theorem endBlock_look {β : Type} (ρ : State → β) (hρ : ∀ (t : State) hi ev am counters out, look ρ { t with hi := hi, ev := ev, am := am, counters := counters, out := out }
    = look ρ t) (e stop : Nat) (raw : Int × Int) (s : State) : look ρ (endBlock e stop raw s) = look ρ s := by
  unfold endBlock
  (repeat' split) <;> first | with_reducible rfl | simp [*]

@[simp] theorem trackFreq_look {β : Type} (ρ : State → β) (hρ : ∀ (t : State) am, look ρ { t with am := am } = look ρ
    t) (e : Nat) (raw : Int) (s : State) : look ρ (trackFreq e raw s) = look ρ s := by
  unfold trackFreq
  (repeat' split) <;> first | with_reducible rfl | simp [*]

@[simp] theorem closeBlock_look {β : Type} (ρ : State → β) (hρ : ∀ (t : State) hi ev am counters out freeCtr, look ρ { t with hi := hi, ev := ev, am := am, counters := counters, out := out, freeCtr := freeCtr }
    = look ρ t) (e : Nat) (x0 : Nat) (s : State) : look ρ (closeBlock e x0 s) = look ρ s := by
  induction x0 generalizing s <;> simp only [closeBlock] <;> (repeat' split) <;> simp_all

@[simp] theorem closeBlocks_look {β : Type} (ρ : State → β) (hρ : ∀ (t : State) hi ev am counters out freeCtr, look ρ
    { t with hi := hi, ev := ev, am := am, counters := counters, out := out, freeCtr := freeCtr } = look ρ t) (s :
    State) : look ρ (closeBlocks s) = look ρ s := by
  unfold closeBlocks
  (repeat' split) <;> first | with_reducible rfl | simp [*]

end Sys2Proof.Machine
end

