-- ==== Sys2Proof/Laws/LookFreeze.lean ====
section
/-! SUPPORT. What the operations of Machine/Freeze.lean leave alone. -/

namespace Sys2Proof.Machine

@[simp] theorem stopEnergy_look {β : Type} (ρ : State → β) (hρ : ∀ (t : State) hi ev am counters out freeCtr, look ρ { t with hi := hi, ev := ev, am := am, counters := counters, out := out, freeCtr := freeCtr }
    = look ρ t) (kind : Nat) (s : State) : look ρ (stopEnergy kind s) = look ρ s := by
  unfold stopEnergy
  (repeat' split) <;> first | with_reducible rfl | simp [*]

@[simp] theorem resumeEnergy_look {β : Type} (ρ : State → β) (hρ : ∀ (t : State) am, look ρ { t with am := am } = look
    ρ t) (s : State) : look ρ (resumeEnergy s) = look ρ s := by
  unfold resumeEnergy
  (repeat' split) <;> first | with_reducible rfl | simp [*]

@[simp] theorem restartChannels_look {β : Type} (ρ : State → β) (hρ : ∀ (t : State) am, look ρ { t with am := am } =
    look ρ t) (s : State) : look ρ (restartChannels s) = look ρ s := by
  unfold restartChannels
  (repeat' split) <;> first | with_reducible rfl | simp [*]

@[simp] theorem clearHistories_look {β : Type} (ρ : State → β) (hρ : ∀ (t : State) si, look ρ { t with si := si } =
    look ρ t) (s : State) : look ρ (clearHistories s) = look ρ s := by
  unfold clearHistories
  (repeat' split) <;> first | with_reducible rfl | simp [*]

@[simp] theorem dropLink_look {β : Type} (ρ : State → β) (hρ : ∀ (t : State) hi ev np counters out, look ρ { t with hi := hi, ev := ev, np := np, counters := counters, out := out }
    = look ρ t) (p : Nat) (s : State) : look ρ (dropLink p s) = look ρ s := by
  unfold dropLink
  (repeat' split) <;> first | with_reducible rfl | simp [*]

@[simp] theorem dropLinks_look {β : Type} (ρ : State → β) (hρ : ∀ (t : State) hi ev np counters out, look ρ { t with hi := hi, ev := ev, np := np, counters := counters, out := out }
    = look ρ t) (s : State) : look ρ (dropLinks s) = look ρ s := by
  unfold dropLinks
  (repeat' split) <;> first | with_reducible rfl | simp [*]

@[simp] theorem tetherInvalid_look {β : Type} (ρ : State → β) (hρ : ∀ (t : State) hi tm ev pm counters out, look ρ { t with hi := hi, tm := tm, ev := ev, pm := pm, counters := counters, out := out }
    = look ρ t) (s : State) : look ρ (tetherInvalid s) = look ρ s := by
  unfold tetherInvalid
  (repeat' split) <;> first | with_reducible rfl | simp [*]

@[simp] theorem stopClocks_look {β : Type} (ρ : State → β) (hρ : ∀ (t : State) hi ev pm erg am counters out freeCtr,
    look ρ { t with hi := hi, ev := ev, pm := pm, erg := erg, am := am, counters := counters, out := out, freeCtr := freeCtr }
    = look ρ t) (cause : Nat) (s : State) : look ρ (stopClocks cause s) = look ρ s := by
  unfold stopClocks
  (repeat' split) <;> first | with_reducible rfl | simp [*]

@[simp] theorem freeze_look {β : Type} (ρ : State → β) (hρ : ∀ (t : State) hi ev pm erg am counters out freeCtr, look
    ρ { t with hi := hi, ev := ev, pm := pm, erg := erg, am := am, counters := counters, out := out, freeCtr := freeCtr }
    = look ρ t) (cause : Nat) (s : State) : look ρ (freeze cause s) = look ρ s := by
  unfold freeze
  (repeat' split) <;> first | with_reducible rfl | simp [*]

@[simp] theorem thaw_look {β : Type} (ρ : State → β) (hρ : ∀ (t : State) hi tm ev pm np si erg aq am counters out
    freeCtr, look ρ { t with hi := hi, tm := tm, ev := ev, pm := pm, np := np, si := si, erg := erg, aq := aq, am := am, counters := counters, out := out, freeCtr := freeCtr }
    = look ρ t) (byPfw : Bool) (s : State) : look ρ (thaw byPfw s) = look ρ s := by
  simp [thaw, *]

theorem execFreezeNAssert_look {β : Type} (ρ : State → β) (hρ : ∀ (t : State) hi ev pm pins erg am counters out
    freeCtr, look ρ { t with hi := hi, ev := ev, pm := pm, pins := pins, erg := erg, am := am, counters := counters, out := out, freeCtr := freeCtr }
    = look ρ t) (low : Bool) (s : State) : ∃ σ, execFreezeNAssert low s = .next σ ∧ look ρ σ = look ρ s := by
  refine ⟨_, rfl, ?_⟩; (repeat' split) <;> first | with_reducible rfl | simp [*]

end Sys2Proof.Machine
end

