-- ==== Sys2Proof/Laws/LookEngines.lean ====
section
/-! SUPPORT. What the operations of Machine/Engines.lean leave alone. -/

namespace Sys2Proof.Machine

@[simp] theorem commitTopology_look {β : Type} (ρ : State → β) (hρ : ∀ (t : State) hi ev ts counters out, look ρ { t with hi := hi, ev := ev, ts := ts, counters := counters, out := out }
    = look ρ t) (i : Inst) (it : Item) (s : State) : look ρ (commitTopology i it s) = look ρ s := by
  unfold commitTopology
  (repeat' split) <;> first | with_reducible rfl | simp [*]

@[simp] theorem commitSolve_look {β : Type} (ρ : State → β) (hρ : ∀ (t : State) hi ev cv ts counters out, look ρ { t with hi := hi, ev := ev, cv := cv, ts := ts, counters := counters, out := out }
    = look ρ t) (i : Inst) (it : Item) (r : ItemResult) (sat : Bool) (s : State) : look ρ (commitSolve i it r sat s) =
    look ρ s := by
  unfold commitSolve
  (repeat' split) <;> first | with_reducible rfl | simp [*]

@[simp] theorem commitFast_look {β : Type} (ρ : State → β) (hρ : ∀ (t : State) hi ev sc counters out, look ρ { t with hi := hi, ev := ev, sc := sc, counters := counters, out := out }
    = look ρ t) (i : Inst) (it : Item) (sat : Bool) (s : State) : look ρ (commitFast i it sat s) = look ρ s := by
  unfold commitFast
  (repeat' split) <;> first | with_reducible rfl | simp [*]

@[simp] theorem commitRules_look {β : Type} (ρ : State → β) (hρ : ∀ (t : State) hi tm ec ev erg al aq counters out
    freeCtr, look ρ { t with hi := hi, tm := tm, ec := ec, ev := ev, erg := erg, al := al, aq := aq, counters := counters, out := out, freeCtr := freeCtr }
    = look ρ t) (i : Inst) (it : Item) (s : State) : look ρ (commitRules i it s).1 = look ρ s := by
  unfold commitRules
  (repeat' split) <;> first | with_reducible rfl | simp [*]

@[simp] theorem publishOutputs_look {β : Type} (ρ : State → β) (hρ : ∀ (t : State) hi tm ec ev erg cv ts sc al aq
    counters out freeCtr, look ρ { t with hi := hi, tm := tm, ec := ec, ev := ev, erg := erg, cv := cv, ts := ts, sc := sc, al := al, aq := aq, counters := counters, out := out, freeCtr := freeCtr }
    = look ρ t) (i : Inst) (it : Item) (r : ItemResult) (sat : Bool) (s : State) : look ρ (publishOutputs i it r sat
    s).1 = look ρ s := by
  unfold publishOutputs
  (repeat' split) <;> first | with_reducible rfl | simp [*]

@[simp] theorem runProgress_look {β : Type} (ρ : State → β) (hρ : ∀ (t : State) hi, look ρ { t with hi := hi } = look
    ρ t) (i : Inst) (s : State) : look ρ (runProgress i s) = look ρ s := by
  unfold runProgress
  (repeat' split) <;> first | with_reducible rfl | simp [*]

@[simp] theorem afterCommit_look {β : Type} (ρ : State → β) (hρ : ∀ (t : State) hi ev erg cv ts sc counters out
    freeCtr, look ρ { t with hi := hi, ev := ev, erg := erg, cv := cv, ts := ts, sc := sc, counters := counters, out := out, freeCtr := freeCtr }
    = look ρ t) (i : Inst) (it : Item) (s : State) : look ρ (afterCommit i it s) = look ρ s := by
  simp only [afterCommit]
  (repeat' split) <;> first | with_reducible rfl | simp [*]

@[simp] theorem runMacs_look {β : Type} (ρ : State → β) (hρ : ∀ (t : State) cv, look ρ { t with cv := cv } = look ρ t)
    (es : List Nat) (ms : List Mac) (s : State) : look ρ (runMacs es ms s).2 = look ρ s := by
  simp only [runMacs] <;> repeat' first
    | with_reducible rfl | (simp [*]; done) | split | rw [look_foldl_of ρ Prod.snd] | rw [look_foldl_of ρ Prod.fst] | rw [look_foldl] | intro _ | dsimp only | simp [*]

@[simp] theorem writeLocal_look {β : Type} (ρ : State → β) (hρ : ∀ (t : State) cv, look ρ { t with cv := cv } = look ρ
    t) (es : List Nat) (ws : List WordWrite) (s : State) : look ρ (writeLocal es ws s) = look ρ s := by
  simp only [writeLocal] <;> repeat' first
    | with_reducible rfl | (simp [*]; done) | split | rw [look_foldl] | intro _ | dsimp only

@[simp] theorem writeResident_look {β : Type} (ρ : State → β) (hρ : ∀ (t : State) cv, look ρ { t with cv := cv } =
    look ρ t) (it : Item) (ws : List WordWrite) (s : State) : look ρ (writeResident it ws s) = look ρ s := by
  unfold writeResident
  (repeat' split) <;> first | with_reducible rfl | simp [*]

@[simp] theorem commitNode_look {β : Type} (ρ : State → β) (hρ : ∀ (t : State) hi tm ec ev pm erg cv ts sc al aq am
    counters out freeCtr, look ρ { t with hi := hi, tm := tm, ec := ec, ev := ev, pm := pm, erg := erg, cv := cv, ts := ts, sc := sc, al := al, aq := aq, am := am, counters := counters, out := out, freeCtr := freeCtr }
    = look ρ t) (i : Inst) (it : Item) (r : ItemResult) (sat : Bool) (s : State) : look ρ (commitNode i it r sat s) =
    look ρ s := by
  unfold commitNode
  (repeat' split) <;> first | with_reducible rfl | simp [*]

@[simp] theorem takeOver_look {β : Type} (ρ : State → β) (hρ : ∀ (t : State) hi ev cv counters out, look ρ { t with hi := hi, ev := ev, cv := cv, counters := counters, out := out }
    = look ρ t) (it : Item) (n spare : Nat) (s : State) : look ρ (takeOver it n spare s) = look ρ s := by
  unfold takeOver
  (repeat' split) <;> first | with_reducible rfl | simp [*]

@[simp] theorem requeue_look {β : Type} (ρ : State → β) (hρ : ∀ (t : State) hi ev cv counters out, look ρ { t with hi := hi, ev := ev, cv := cv, counters := counters, out := out }
    = look ρ t) (it : Item) (n : Nat) (s : State) : look ρ (requeue it n s) = look ρ s := by
  unfold requeue
  (repeat' split) <;> first | with_reducible rfl | simp [*]

@[simp] theorem loseEngine_look {β : Type} (ρ : State → β) (hρ : ∀ (t : State) hi ev cv counters out, look ρ { t with hi := hi, ev := ev, cv := cv, counters := counters, out := out }
    = look ρ t) (n : Nat) (to' : EngState) (s : State) : look ρ (loseEngine n to' s) = look ρ s := by
  simp only [loseEngine]
  (repeat' split) <;> first | with_reducible rfl | simp [*]

@[simp] theorem retireEngine_look {β : Type} (ρ : State → β) (hρ : ∀ (t : State) hi ev cv counters out, look ρ { t with hi := hi, ev := ev, cv := cv, counters := counters, out := out }
    = look ρ t) (n : Nat) (s : State) : look ρ (retireEngine n s) = look ρ s := by
  unfold retireEngine
  (repeat' split) <;> first | with_reducible rfl | simp [*]

@[simp] theorem restoreEngine_look {β : Type} (ρ : State → β) (hρ : ∀ (t : State) hi ev cv counters out, look ρ { t with hi := hi, ev := ev, cv := cv, counters := counters, out := out }
    = look ρ t) (n : Nat) (s : State) : look ρ (restoreEngine n s) = look ρ s := by
  unfold restoreEngine
  (repeat' split) <;> first | with_reducible rfl | simp [*]

@[simp] theorem assignEngines_look {β : Type} (ρ : State → β) (hρ : ∀ (t : State) cv, look ρ { t with cv := cv } =
    look ρ t) (passed : List Nat) (s : State) : look ρ (assignEngines passed s) = look ρ s := by
  unfold assignEngines
  (repeat' split) <;> first | with_reducible rfl | simp [*]

theorem execItemCommit_look {β : Type} (ρ : State → β) (hρ : ∀ (t : State) hi tm ec ev pm erg cv ts sc al aq am
    counters out freeCtr, look ρ { t with hi := hi, tm := tm, ec := ec, ev := ev, pm := pm, erg := erg, cv := cv, ts := ts, sc := sc, al := al, aq := aq, am := am, counters := counters, out := out, freeCtr := freeCtr }
    = look ρ t) (item : Nat) (r : ItemResult) (dataBad : Bool) (s : State) : ∃ σ, execItemCommit item r dataBad s =
    .next σ ∧ look ρ σ = look ρ s := by
  refine ⟨_, rfl, ?_⟩
  split
  · rfl
  · split
    · rename_i es _ _ _
      split
      · rfl
      · have hr := runMacs_look ρ (by simp [hρ]) es r.macs (writeLocal es r.lmem s)
        generalize runMacs es r.macs (writeLocal es r.lmem s) = v at hr ⊢
        obtain ⟨b, t⟩ := v
        dsimp only
        (repeat' split) <;> simp [*]
    · rfl

theorem execEngineFault_look {β : Type} (ρ : State → β) (hρ : ∀ (t : State) hi ec ev pm erg cv ts sc aq counters out
    freeCtr, look ρ { t with hi := hi, ec := ec, ev := ev, pm := pm, erg := erg, cv := cv, ts := ts, sc := sc, aq := aq, counters := counters, out := out, freeCtr := freeCtr }
    = look ρ t) (engine kind : Nat) (s : State) : ∃ σ, execEngineFault engine kind s = .next σ ∧ look ρ σ = look ρ s
    := by
  refine ⟨_, rfl, ?_⟩; (repeat' split) <;> first | with_reducible rfl | simp [*]

theorem execTakeoverResume_look {β : Type} (ρ : State → β) (hρ : ∀ (t : State) cv, look ρ { t with cv := cv } = look ρ
    t) (item : Nat) (s : State) : ∃ σ, execTakeoverResume item s = .next σ ∧ look ρ σ = look ρ s := by
  refine ⟨_, rfl, ?_⟩; (repeat' split) <;> first | with_reducible rfl | simp [*]

theorem execFencedSelftestEnd_look {β : Type} (ρ : State → β) (hρ : ∀ (t : State) hi ec ev pm erg cv ts sc aq counters
    out freeCtr, look ρ { t with hi := hi, ec := ec, ev := ev, pm := pm, erg := erg, cv := cv, ts := ts, sc := sc, aq := aq, counters := counters, out := out, freeCtr := freeCtr }
    = look ρ t) (engine : Nat) (pass : Bool) (s : State) : ∃ σ, execFencedSelftestEnd engine pass s = .next σ ∧ look ρ
    σ = look ρ s := by
  refine ⟨_, rfl, ?_⟩; (repeat' split) <;> first | with_reducible rfl | simp [*]

theorem execSpareSelftest_look {β : Type} (ρ : State → β) (hρ : ∀ (t : State) hi ec ev pm erg cv ts sc aq counters out
    freeCtr, look ρ { t with hi := hi, ec := ec, ev := ev, pm := pm, erg := erg, cv := cv, ts := ts, sc := sc, aq := aq, counters := counters, out := out, freeCtr := freeCtr }
    = look ρ t) (engine : Nat) (pass : Bool) (s : State) : ∃ σ, execSpareSelftest engine pass s = .next σ ∧ look ρ σ =
    look ρ s := by
  refine ⟨_, rfl, ?_⟩; repeat' first
    | rfl | (simp [*]; done) | split | rw [look_foldl] | intro _ | dsimp only

end Sys2Proof.Machine
end

