-- ==== Sys2Proof/Laws/LookTime.lean ====
section
/-! SUPPORT. What the operations of Machine/Time.lean leave alone. -/

namespace Sys2Proof.Machine

@[simp] theorem tmNote_look {β : Type} (ρ : State → β) (hρ : ∀ (t : State) hi ev counters out, look ρ { t with hi := hi, ev := ev, counters := counters, out := out }
    = look ρ t) (code severity arg : Nat) (s : State) : look ρ (tmNote code severity arg s) = look ρ s := by
  unfold tmNote
  (repeat' split) <;> first | with_reducible rfl | simp [*]

@[simp] theorem updTether_look {β : Type} (ρ : State → β) (hρ : ∀ (t : State) tm, look ρ { t with tm := tm } = look ρ
    t) (f : Tether → Tether) (s : State) : look ρ (updTether f s) = look ρ s := by
  unfold updTether
  (repeat' split) <;> first | with_reducible rfl | simp [*]

@[simp] theorem loadFallback_look {β : Type} (ρ : State → β) (hρ : ∀ (t : State) tm, look ρ { t with tm := tm } = look
    ρ t) (s : State) : look ρ (loadFallback s) = look ρ s := by
  unfold loadFallback
  (repeat' split) <;> first | with_reducible rfl | simp [*]

@[simp] theorem setRate_look {β : Type} (ρ : State → β) (hρ : ∀ (t : State) tm, look ρ { t with tm := tm } = look ρ t)
    (new : Nat) (s : State) : look ρ (setRate new s) = look ρ s := by
  unfold setRate
  (repeat' split) <;> first | with_reducible rfl | simp [*]

@[simp] theorem setClass_look {β : Type} (ρ : State → β) (hρ : ∀ (t : State) hi tm ev pm counters out, look ρ { t with hi := hi, tm := tm, ev := ev, pm := pm, counters := counters, out := out }
    = look ρ t) (t : Tq) (s : State) : look ρ (setClass t s) = look ρ s := by
  unfold setClass
  (repeat' split) <;> first | with_reducible rfl | simp [*]

@[simp] theorem noteStep_look {β : Type} (ρ : State → β) (hρ : ∀ (t : State) hi ev counters out, look ρ { t with hi := hi, ev := ev, counters := counters, out := out }
    = look ρ t) (d : Int) (s : State) : look ρ (noteStep d s) = look ρ s := by
  unfold noteStep
  (repeat' split) <;> first | with_reducible rfl | simp [*]

@[simp] theorem moveTime_look {β : Type} (ρ : State → β) (hρ : ∀ (t : State) tm, look ρ { t with tm := tm } = look ρ
    t) (d : Int) (s : State) : look ρ (moveTime d s) = look ρ s := by
  unfold moveTime
  (repeat' split) <;> first | with_reducible rfl | simp [*]

@[simp] theorem stepTime_look {β : Type} (ρ : State → β) (hρ : ∀ (t : State) hi tm ev pm np erg am counters out, look
    ρ { t with hi := hi, tm := tm, ev := ev, pm := pm, np := np, erg := erg, am := am, counters := counters, out := out }
    = look ρ t) (d : Int) (s : State) : look ρ (stepTime d s) = look ρ s := by
  simp [stepTime, *]

@[simp] theorem setY_look {β : Type} (ρ : State → β) (hρ : ∀ (t : State) tm, look ρ { t with tm := tm } = look ρ t) (y
    : Rat) (s : State) : look ρ (setY y s) = look ρ s := by
  unfold setY
  (repeat' split) <;> first | with_reducible rfl | simp [*]

@[simp] theorem saveInteg_look {β : Type} (ρ : State → β) (hρ : ∀ (t : State) tm cairn, look ρ { t with tm := tm, cairn := cairn }
    = look ρ t) (s : State) : look ρ (saveInteg s) = look ρ s := by
  unfold saveInteg
  (repeat' split) <;> first | with_reducible rfl | simp [*]

@[simp] theorem enterHoldover_look {β : Type} (ρ : State → β) (hρ : ∀ (t : State) hi tm ev pm cairn counters out, look
    ρ { t with hi := hi, tm := tm, ev := ev, pm := pm, cairn := cairn, counters := counters, out := out } = look ρ t)
    (forced : Bool) (s : State) : look ρ (enterHoldover forced s) = look ρ s := by
  unfold enterHoldover
  (repeat' split) <;> first | with_reducible rfl | simp [*]

@[simp] theorem switchSource_look {β : Type} (ρ : State → β) (hρ : ∀ (t : State) hi tm ev counters out, look ρ { t with hi := hi, tm := tm, ev := ev, counters := counters, out := out }
    = look ρ t) (src : TimeSource) (s : State) : look ρ (switchSource src s) = look ρ s := by
  unfold switchSource
  (repeat' split) <;> first | with_reducible rfl | simp [*]

@[simp] theorem offerSource_look {β : Type} (ρ : State → β) (hρ : ∀ (t : State) hi tm ev counters out, look ρ { t with hi := hi, tm := tm, ev := ev, counters := counters, out := out }
    = look ρ t) (src : TimeSource) (s : State) : look ρ (offerSource src s) = look ρ s := by
  unfold offerSource
  (repeat' split) <;> first | with_reducible rfl | simp [*]

@[simp] theorem loseSource_look {β : Type} (ρ : State → β) (hρ : ∀ (t : State) hi tm ev pm cairn counters out, look ρ
    { t with hi := hi, tm := tm, ev := ev, pm := pm, cairn := cairn, counters := counters, out := out } = look ρ t)
    (src : TimeSource) (s : State) : look ρ (loseSource src s) = look ρ s := by
  unfold loseSource
  (repeat' split) <;> first | with_reducible rfl | simp [*]

@[simp] theorem noteClamp_look {β : Type} (ρ : State → β) (hρ : ∀ (t : State) hi tm ev counters out, look ρ { t with hi := hi, tm := tm, ev := ev, counters := counters, out := out }
    = look ρ t) (acts : Bool) (y : Rat) (s : State) : look ρ (noteClamp acts y s) = look ρ s := by
  unfold noteClamp
  (repeat' split) <;> first | with_reducible rfl | simp [*]

@[simp] theorem slew_look {β : Type} (ρ : State → β) (hρ : ∀ (t : State) hi tm ev counters out freeCtr, look ρ { t with hi := hi, tm := tm, ev := ev, counters := counters, out := out, freeCtr := freeCtr }
    = look ρ t) (theta : Int) (nominal : Nat) (s : State) : look ρ (slew theta nominal s) = look ρ s := by
  unfold slew
  (repeat' split) <;> first | with_reducible rfl | simp [*]

@[simp] theorem onOffset_look {β : Type} (ρ : State → β) (hρ : ∀ (t : State) hi tm ev pm np erg am counters out
    freeCtr, look ρ { t with hi := hi, tm := tm, ev := ev, pm := pm, np := np, erg := erg, am := am, counters := counters, out := out, freeCtr := freeCtr }
    = look ρ t) (theta : Int) (nominal : Nat) (maySteps : Bool) (s : State) : look ρ (onOffset theta nominal maySteps
    s) = look ρ s := by
  unfold onOffset
  (repeat' split) <;> first | with_reducible rfl | simp [*]

@[simp] theorem markQualified_look {β : Type} (ρ : State → β) (hρ : ∀ (t : State) tm, look ρ { t with tm := tm } =
    look ρ t) (src : TimeSource) (s : State) : look ρ (markQualified src s) = look ρ s := by
  unfold markQualified
  (repeat' split) <;> first | with_reducible rfl | simp [*]

@[simp] theorem measure_look {β : Type} (ρ : State → β) (hρ : ∀ (t : State) hi tm ev pm np erg am counters out
    freeCtr, look ρ { t with hi := hi, tm := tm, ev := ev, pm := pm, np := np, erg := erg, am := am, counters := counters, out := out, freeCtr := freeCtr }
    = look ρ t) (src : TimeSource) (theta : Int) (nominal : Nat) (maySteps : Bool) (s : State) : look ρ (measure src
    theta nominal maySteps s) = look ρ s := by
  unfold measure
  (repeat' split) <;> first | with_reducible rfl | simp [*]

@[simp] theorem setUtc_look {β : Type} (ρ : State → β) (hρ : ∀ (t : State) tm, look ρ { t with tm := tm } = look ρ t)
    (ofs : Int) (valid : Bool) (leap : Nat) (s : State) : look ρ (setUtc ofs valid leap s) = look ρ s := by
  unfold setUtc
  (repeat' split) <;> first | with_reducible rfl | simp [*]

@[simp] theorem startSelftest_look {β : Type} (ρ : State → β) (hρ : ∀ (t : State) tm, look ρ { t with tm := tm } =
    look ρ t) (s : State) : look ρ (startSelftest s) = look ρ s := by
  unfold startSelftest
  (repeat' split) <;> first | with_reducible rfl | simp [*]

@[simp] theorem failMain_look {β : Type} (ρ : State → β) (hρ : ∀ (t : State) hi tm ev pm counters out, look ρ { t with hi := hi, tm := tm, ev := ev, pm := pm, counters := counters, out := out }
    = look ρ t) (s : State) : look ρ (failMain s) = look ρ s := by
  unfold failMain
  (repeat' split) <;> first | with_reducible rfl | simp [*]

@[simp] theorem restoreMain_look {β : Type} (ρ : State → β) (hρ : ∀ (t : State) hi tm ev pm counters out, look ρ { t with hi := hi, tm := tm, ev := ev, pm := pm, counters := counters, out := out }
    = look ρ t) (s : State) : look ρ (restoreMain s) = look ρ s := by
  unfold restoreMain
  (repeat' split) <;> first | with_reducible rfl | simp [*]

@[simp] theorem setCmp_look {β : Type} (ρ : State → β) (hρ : ∀ (t : State) tm, look ρ { t with tm := tm } = look ρ t)
    (n : Nat) (c : Cmp) (s : State) : look ρ (setCmp n c s) = look ρ s := by
  unfold setCmp
  (repeat' split) <;> first | with_reducible rfl | simp [*]

@[simp] theorem actionOr_look {β : Type} (ρ : State → β) (hρ : ∀ (t : State) counters, look ρ { t with counters := counters }
    = look ρ t) (on : Bool) (f : State → State) (s : State) (hf : ∀ t, look ρ (f t) = look ρ t) : look ρ (actionOr on
    f s) = look ρ s := by
  unfold actionOr
  (repeat' split) <;> first | with_reducible rfl | simp [*]

@[simp] theorem ppsOut_look {β : Type} (ρ : State → β) (hρ : ∀ (t : State) tm out, look ρ { t with tm := tm, out := out }
    = look ρ t) (pulseNs : Nat) (t : Int) (s : State) : look ρ (ppsOut pulseNs t s) = look ρ s := by
  unfold ppsOut
  (repeat' split) <;> first | with_reducible rfl | simp [*]

@[simp] theorem sdSync_look {β : Type} (ρ : State → β) (hρ : ∀ (t : State) am, look ρ { t with am := am } = look ρ t)
    (s : State) : look ρ (sdSync s) = look ρ s := by
  unfold sdSync
  (repeat' split) <;> first | with_reducible rfl | simp [*]

@[simp] theorem cmpActions_look {β : Type} (ρ : State → β) (hρ : ∀ (t : State) hi tm ec ev erg cv ts sc aq am counters
    out freeCtr, look ρ { t with hi := hi, tm := tm, ec := ec, ev := ev, erg := erg, cv := cv, ts := ts, sc := sc, aq := aq, am := am, counters := counters, out := out, freeCtr := freeCtr }
    = look ρ t) (n : Nat) (c : Cmp) (t : Int) (s : State) : look ρ (cmpActions n c t s) = look ρ s := by
  unfold cmpActions
  (repeat' split) <;> first | with_reducible rfl | simp [*]

@[simp] theorem fireCmp_look {β : Type} (ρ : State → β) (hρ : ∀ (t : State) hi tm ec ev erg cv ts sc aq am counters
    out freeCtr, look ρ { t with hi := hi, tm := tm, ec := ec, ev := ev, erg := erg, cv := cv, ts := ts, sc := sc, aq := aq, am := am, counters := counters, out := out, freeCtr := freeCtr }
    = look ρ t) (n : Nat) (s : State) : look ρ (fireCmp n s) = look ρ s := by
  unfold fireCmp
  (repeat' split) <;> first | with_reducible rfl | simp [*]

@[simp] theorem armCmp_look {β : Type} (ρ : State → β) (hρ : ∀ (t : State) hi tm ec ev erg cv ts sc aq am counters out
    freeCtr, look ρ { t with hi := hi, tm := tm, ec := ec, ev := ev, erg := erg, cv := cv, ts := ts, sc := sc, aq := aq, am := am, counters := counters, out := out, freeCtr := freeCtr }
    = look ρ t) (p : CmpP) (byCommand : Bool) (s : State) : look ρ (armCmp p byCommand s) = look ρ s := by
  unfold armCmp
  (repeat' split) <;> first | with_reducible rfl | simp [*]

theorem execSourceRevert_look {β : Type} (ρ : State → β) (hρ : ∀ (t : State) hi tm ev counters out, look ρ { t with hi := hi, tm := tm, ev := ev, counters := counters, out := out }
    = look ρ t) (s : State) : ∃ σ, execSourceRevert s = .next σ ∧ look ρ σ = look ρ s := by
  refine ⟨_, rfl, ?_⟩; repeat' first
    | rfl | (simp [*]; done) | split | rw [look_foldl] | intro _ | dsimp only

theorem execHoldoverAgeing_look {β : Type} (ρ : State → β) (hρ : ∀ (t : State) hi tm ev pm counters out, look ρ { t with hi := hi, tm := tm, ev := ev, pm := pm, counters := counters, out := out }
    = look ρ t) (s : State) : ∃ σ, execHoldoverAgeing s = .next σ ∧ look ρ σ = look ρ s := by
  refine ⟨_, rfl, ?_⟩; (repeat' split) <;> first | with_reducible rfl | simp [*]

theorem execIntegSave_look {β : Type} (ρ : State → β) (hρ : ∀ (t : State) tm cairn, look ρ { t with tm := tm, cairn := cairn }
    = look ρ t) (s : State) : ∃ σ, execIntegSave s = .next σ ∧ look ρ σ = look ρ s := by
  refine ⟨_, rfl, ?_⟩; (repeat' split) <;> first | with_reducible rfl | simp [*]

theorem execLeapApply_look {β : Type} (ρ : State → β) (hρ : ∀ (t : State) hi tm ev counters out, look ρ { t with hi := hi, tm := tm, ev := ev, counters := counters, out := out }
    = look ρ t) (s : State) : ∃ σ, execLeapApply s = .next σ ∧ look ρ σ = look ρ s := by
  refine ⟨_, rfl, ?_⟩; (repeat' split) <;> first | with_reducible rfl | simp [*]

theorem execTimeCheckpoint_look {β : Type} (ρ : State → β) (hρ : ∀ (t : State) tm, look ρ { t with tm := tm } = look ρ
    t) (s : State) : ∃ σ, execTimeCheckpoint s = .next σ ∧ look ρ σ = look ρ s := by
  refine ⟨_, rfl, ?_⟩; (repeat' split) <;> first | with_reducible rfl | simp [*]

theorem execResidueMismatch_look {β : Type} (ρ : State → β) (hρ : ∀ (t : State) tm, look ρ { t with tm := tm } = look
    ρ t) (s : State) : ∃ σ, execResidueMismatch s = .next σ ∧ look ρ σ = look ρ s := by
  refine ⟨_, rfl, ?_⟩; (repeat' split) <;> first | with_reducible rfl | simp [*]

theorem execTimeSelftestEnd_look {β : Type} (ρ : State → β) (hρ : ∀ (t : State) hi tm ev pm counters out, look ρ { t with hi := hi, tm := tm, ev := ev, pm := pm, counters := counters, out := out }
    = look ρ t) (pass : Bool) (s : State) : ∃ σ, execTimeSelftestEnd pass s = .next σ ∧ look ρ σ = look ρ s := by
  refine ⟨_, rfl, ?_⟩; (repeat' split) <;> first | with_reducible rfl | simp [*]

theorem execCmpFire_look {β : Type} (ρ : State → β) (hρ : ∀ (t : State) hi tm ec ev erg cv ts sc aq am counters out
    freeCtr, look ρ { t with hi := hi, tm := tm, ec := ec, ev := ev, erg := erg, cv := cv, ts := ts, sc := sc, aq := aq, am := am, counters := counters, out := out, freeCtr := freeCtr }
    = look ρ t) (cmp : Nat) (s : State) : ∃ σ, execCmpFire cmp s = .next σ ∧ look ρ σ = look ρ s := by
  refine ⟨_, rfl, ?_⟩; (repeat' split) <;> first | with_reducible rfl | simp [*]

theorem execDuneTick_look {β : Type} (ρ : State → β) (hρ : ∀ (t : State) hi tm ec ev erg cv ts sc aq counters out
    freeCtr, look ρ { t with hi := hi, tm := tm, ec := ec, ev := ev, erg := erg, cv := cv, ts := ts, sc := sc, aq := aq, counters := counters, out := out, freeCtr := freeCtr }
    = look ρ t) (s : State) : ∃ σ, execDuneTick s = .next σ ∧ look ρ σ = look ρ s := by
  refine ⟨_, rfl, ?_⟩; (repeat' split) <;> first | with_reducible rfl | simp [*]

end Sys2Proof.Machine
end

