-- ==== Sys2Proof/Laws/LookSources.lean ====
section
/-! SUPPORT. What the operations of Machine/Sources.lean leave alone. -/

namespace Sys2Proof.Machine

@[simp] theorem updSlave_look {β : Type} (ρ : State → β) (hρ : ∀ (t : State) tm, look ρ { t with tm := tm } = look ρ
    t) (f : Slave → Slave) (s : State) : look ρ (updSlave f s) = look ρ s := by
  unfold updSlave
  (repeat' split) <;> first | with_reducible rfl | simp [*]

@[simp] theorem utcFromPtp_look {β : Type} (ρ : State → β) (hρ : ∀ (t : State) tm, look ρ { t with tm := tm } = look ρ
    t) (a : Announce) (s : State) : look ρ (utcFromPtp a s) = look ρ s := by
  unfold utcFromPtp
  (repeat' split) <;> first | with_reducible rfl | simp [*]

@[simp] theorem runBmca_look {β : Type} (ρ : State → β) (hρ : ∀ (t : State) hi tm ev counters out, look ρ { t with hi := hi, tm := tm, ev := ev, counters := counters, out := out }
    = look ρ t) (s : State) : look ρ (runBmca s) = look ρ s := by
  unfold runBmca
  (repeat' split) <;> first | with_reducible rfl | simp [*]

@[simp] theorem losePtp_look {β : Type} (ρ : State → β) (hρ : ∀ (t : State) hi tm ev pm cairn counters out, look ρ { t with hi := hi, tm := tm, ev := ev, pm := pm, cairn := cairn, counters := counters, out := out }
    = look ρ t) (s : State) : look ρ (losePtp s) = look ρ s := by
  unfold losePtp
  (repeat' split) <;> first | with_reducible rfl | simp [*]

@[simp] theorem ptpLinkDown_look {β : Type} (ρ : State → β) (hρ : ∀ (t : State) hi tm ev pm cairn counters out, look ρ
    { t with hi := hi, tm := tm, ev := ev, pm := pm, cairn := cairn, counters := counters, out := out } = look ρ t) (p
    : Nat) (s : State) : look ρ (ptpLinkDown p s) = look ρ s := by
  unfold ptpLinkDown
  (repeat' split) <;> first | with_reducible rfl | simp [*]

@[simp] theorem ptpPortsOff_look {β : Type} (ρ : State → β) (hρ : ∀ (t : State) hi tm ev pm cairn counters out, look ρ
    { t with hi := hi, tm := tm, ev := ev, pm := pm, cairn := cairn, counters := counters, out := out } = look ρ t) (s
    : State) : look ρ (ptpPortsOff s) = look ρ s := by
  unfold ptpPortsOff
  (repeat' split) <;> first | with_reducible rfl | simp [*]

@[simp] theorem announceTaken_look {β : Type} (ρ : State → β) (hρ : ∀ (t : State) hi tm ev counters out, look ρ { t with hi := hi, tm := tm, ev := ev, counters := counters, out := out }
    = look ρ t) (a : Announce) (s : State) : look ρ (announceTaken a s) = look ρ s := by
  unfold announceTaken
  (repeat' split) <;> first | with_reducible rfl | simp [*]

@[simp] theorem sendPtp_look {β : Type} (ρ : State → β) (hρ : ∀ (t : State) np counters, look ρ { t with np := np, counters := counters }
    = look ρ t) (p : PtpP) (port msg n : Nat) (words : List Nat) (s : State) : look ρ (sendPtp p port msg n words s) =
    look ρ s := by
  unfold sendPtp
  (repeat' split) <;> first | with_reducible rfl | simp [*]

@[simp] theorem masterSent_look {β : Type} (ρ : State → β) (hρ : ∀ (t : State) tm, look ρ { t with tm := tm } = look ρ
    t) (m : Nat) (s : State) : look ρ (masterSent m s) = look ρ s := by
  unfold masterSent
  (repeat' split) <;> first | with_reducible rfl | simp [*]

@[simp] theorem updPps_look {β : Type} (ρ : State → β) (hρ : ∀ (t : State) tm, look ρ { t with tm := tm } = look ρ t)
    (f : Pps → Pps) (s : State) : look ρ (updPps f s) = look ρ s := by
  unfold updPps
  (repeat' split) <;> first | with_reducible rfl | simp [*]

@[simp] theorem ppsOffset_look {β : Type} (ρ : State → β) (hρ : ∀ (t : State) hi tm ev pm np erg am counters out
    freeCtr, look ρ { t with hi := hi, tm := tm, ev := ev, pm := pm, np := np, erg := erg, am := am, counters := counters, out := out, freeCtr := freeCtr }
    = look ρ t) (stamp : Int) (label : Option Int) (s : State) : look ρ (ppsOffset stamp label s) = look ρ s := by
  unfold ppsOffset
  (repeat' split) <;> first | with_reducible rfl | simp [*]

@[simp] theorem settleEdge_look {β : Type} (ρ : State → β) (hρ : ∀ (t : State) hi tm ev pm np erg am counters out
    freeCtr, look ρ { t with hi := hi, tm := tm, ev := ev, pm := pm, np := np, erg := erg, am := am, counters := counters, out := out, freeCtr := freeCtr }
    = look ρ t) (s : State) : look ρ (settleEdge s) = look ρ s := by
  unfold settleEdge
  (repeat' split) <;> first | with_reducible rfl | simp [*]

@[simp] theorem takeLabel_look {β : Type} (ρ : State → β) (hρ : ∀ (t : State) counters, look ρ { t with counters := counters }
    = look ρ t) (stamp : Int) (s : State) : look ρ (takeLabel stamp s).2 = look ρ s := by
  unfold takeLabel
  (repeat' split) <;> first | with_reducible rfl | simp [*]

@[simp] theorem edgeTaken_look {β : Type} (ρ : State → β) (hρ : ∀ (t : State) hi tm ev pm np erg am counters out
    freeCtr, look ρ { t with hi := hi, tm := tm, ev := ev, pm := pm, np := np, erg := erg, am := am, counters := counters, out := out, freeCtr := freeCtr }
    = look ρ t) (stamp : Int) (s : State) : look ρ (edgeTaken stamp s) = look ρ s := by
  unfold edgeTaken
  (repeat' split) <;> first | with_reducible rfl | simp [*]

@[simp] theorem labelEdge_look {β : Type} (ρ : State → β) (hρ : ∀ (t : State) hi tm ev pm np erg am counters out
    freeCtr, look ρ { t with hi := hi, tm := tm, ev := ev, pm := pm, np := np, erg := erg, am := am, counters := counters, out := out, freeCtr := freeCtr }
    = look ρ t) (l : Option Int) (s : State) : look ρ (labelEdge l s) = look ρ s := by
  unfold labelEdge
  (repeat' split) <;> first | with_reducible rfl | simp [*]

theorem execPtpAnnounceRx_look {β : Type} (ρ : State → β) (hρ : ∀ (t : State) hi tm ev counters out, look ρ { t with hi := hi, tm := tm, ev := ev, counters := counters, out := out }
    = look ρ t) (a : Announce) (s : State) : ∃ σ, execPtpAnnounceRx a s = .next σ ∧ look ρ σ = look ρ s := by
  refine ⟨_, rfl, ?_⟩; (repeat' split) <;> first | with_reducible rfl | simp [*]

theorem execPtpSyncRx_look {β : Type} (ρ : State → β) (hρ : ∀ (t : State) hi tm ev pm np erg am counters out freeCtr,
    look ρ { t with hi := hi, tm := tm, ev := ev, pm := pm, np := np, erg := erg, am := am, counters := counters, out := out, freeCtr := freeCtr }
    = look ρ t) (m : PtpHead) (origin correction : Int) (followUp : Option (Int × Int)) (ingress : Stamp) (s : State)
    : ∃ σ, execPtpSyncRx m origin correction followUp ingress s = .next σ ∧ look ρ σ = look ρ s := by
  refine ⟨_, rfl, ?_⟩; repeat' first
    | rfl | (simp [*]; done) | split | rw [look_foldl] | intro _ | dsimp only

theorem execSourceLoss_look {β : Type} (ρ : State → β) (hρ : ∀ (t : State) hi tm ev pm cairn counters out, look ρ { t with hi := hi, tm := tm, ev := ev, pm := pm, cairn := cairn, counters := counters, out := out }
    = look ρ t) (source : Nat) (s : State) : ∃ σ, execSourceLoss source s = .next σ ∧ look ρ σ = look ρ s := by
  refine ⟨_, rfl, ?_⟩; (repeat' split) <;> first | with_reducible rfl | simp [*]

theorem execPtpDelayReqTx_look {β : Type} (ρ : State → β) (hρ : ∀ (t : State) tm np counters, look ρ { t with tm := tm, np := np, counters := counters }
    = look ρ t) (port : Nat) (s : State) : ∃ σ, execPtpDelayReqTx port s = .next σ ∧ look ρ σ = look ρ s := by
  refine ⟨_, rfl, ?_⟩; (repeat' split) <;> first | with_reducible rfl | simp [*]

theorem execPtpPathDelayRx_look {β : Type} (ρ : State → β) (hρ : ∀ (t : State) tm, look ρ { t with tm := tm } = look ρ
    t) (m : PtpHead) (meanPath : Int) (s : State) : ∃ σ, execPtpPathDelayRx m meanPath s = .next σ ∧ look ρ σ = look ρ
    s := by
  refine ⟨_, rfl, ?_⟩; (repeat' split) <;> first | with_reducible rfl | simp [*]

theorem execPdelayTimeout_look {β : Type} (ρ : State → β) (hρ : ∀ (t : State) tm counters, look ρ { t with tm := tm, counters := counters }
    = look ρ t) (port : Nat) (s : State) : ∃ σ, execPdelayTimeout port s = .next σ ∧ look ρ σ = look ρ s := by
  refine ⟨_, rfl, ?_⟩; (repeat' split) <;> first | with_reducible rfl | simp [*]

theorem execPtpPdelayReqRx_look {β : Type} (ρ : State → β) (hρ : ∀ (t : State) np counters, look ρ { t with np := np, counters := counters }
    = look ρ t) (port : Nat) (m : PtpForm) (ingress : Stamp) (s : State) : ∃ σ, execPtpPdelayReqRx port m ingress s = .next σ ∧ look ρ σ
    = look ρ s := by
  refine ⟨_, rfl, ?_⟩; (repeat' split) <;> first | with_reducible rfl | simp [*]

theorem execPtpDelayReqRx_look {β : Type} (ρ : State → β) (hρ : ∀ (t : State) np counters, look ρ { t with np := np, counters := counters }
    = look ρ t) (m : PtpHead) (ingress : Stamp) (s : State) : ∃ σ, execPtpDelayReqRx m ingress s = .next σ ∧ look ρ σ
    = look ρ s := by
  refine ⟨_, rfl, ?_⟩; (repeat' split) <;> first | with_reducible rfl | simp [*]

theorem execPtpMasterAnnounceTx_look {β : Type} (ρ : State → β) (hρ : ∀ (t : State) tm np counters, look ρ { t with tm := tm, np := np, counters := counters }
    = look ρ t) (s : State) : ∃ σ, execPtpMasterAnnounceTx s = .next σ ∧ look ρ σ = look ρ s := by
  refine ⟨_, rfl, ?_⟩; (repeat' split) <;> first | with_reducible rfl | simp [*]

theorem execPtpMasterSyncTx_look {β : Type} (ρ : State → β) (hρ : ∀ (t : State) tm np counters, look ρ { t with tm := tm, np := np, counters := counters }
    = look ρ t) (s : State) : ∃ σ, execPtpMasterSyncTx s = .next σ ∧ look ρ σ = look ρ s := by
  refine ⟨_, rfl, ?_⟩; (repeat' split) <;> first | with_reducible rfl | simp [*]

theorem execPpsInEdge_look {β : Type} (ρ : State → β) (hρ : ∀ (t : State) hi tm ev pm np erg am counters out freeCtr,
    look ρ { t with hi := hi, tm := tm, ev := ev, pm := pm, np := np, erg := erg, am := am, counters := counters, out := out, freeCtr := freeCtr }
    = look ρ t) (e : PpsEdge) (s : State) : ∃ σ, execPpsInEdge e s = .next σ ∧ look ρ σ =
    look ρ s := by
  refine ⟨_, rfl, ?_⟩; (repeat' split) <;> first | with_reducible rfl | simp [*]

theorem execPpsLost_look {β : Type} (ρ : State → β) (hρ : ∀ (t : State) hi tm ev pm cairn np erg am counters out
    freeCtr, look ρ { t with hi := hi, tm := tm, ev := ev, pm := pm, cairn := cairn, np := np, erg := erg, am := am, counters := counters, out := out, freeCtr := freeCtr }
    = look ρ t) (s : State) : ∃ σ, execPpsLost s = .next σ ∧ look ρ σ = look ρ s := by
  refine ⟨_, rfl, ?_⟩; (repeat' split) <;> first | with_reducible rfl | simp [*]

theorem execTodSentenceRx_look {β : Type} (ρ : State → β) (hρ : ∀ (t : State) hi tm ev pm np erg am counters out
    freeCtr, look ρ { t with hi := hi, tm := tm, ev := ev, pm := pm, np := np, erg := erg, am := am, counters := counters, out := out, freeCtr := freeCtr }
    = look ρ t) (sumOk statusOk : Bool) (utcSec : Nat) (s : State) : ∃ σ, execTodSentenceRx sumOk statusOk utcSec s = .next σ ∧ look ρ σ =
    look ρ s := by
  refine ⟨_, rfl, ?_⟩; repeat' first
    | rfl | (simp [*]; done) | split | rw [look_foldl] | intro _ | dsimp only

end Sys2Proof.Machine
end

