-- ==== Sys2Proof/Laws/LookNetwork.lean ====
section
/-! SUPPORT. What the operations of Machine/Network.lean leave alone. -/

namespace Sys2Proof.Machine

@[simp] theorem takeBuffer_look {β : Type} (ρ : State → β) (hρ : ∀ (t : State) np, look ρ { t with np := np } = look ρ
    t) (port n : Nat) (s : State) : look ρ (takeBuffer port n s) = look ρ s := by
  unfold takeBuffer
  (repeat' split) <;> first | with_reducible rfl | simp [*]

@[simp] theorem freeBuffer_look {β : Type} (ρ : State → β) (hρ : ∀ (t : State) np, look ρ { t with np := np } = look ρ
    t) (port n : Nat) (s : State) : look ρ (freeBuffer port n s) = look ρ s := by
  unfold freeBuffer
  (repeat' split) <;> first | with_reducible rfl | simp [*]

@[simp] theorem discard_look {β : Type} (ρ : State → β) (hρ : ∀ (t : State) np counters, look ρ { t with np := np, counters := counters }
    = look ρ t) (x : Rx) (ctr : Nat) (s : State) : look ρ (discard x ctr s) = look ρ s := by
  unfold discard
  (repeat' split) <;> first | with_reducible rfl | simp [*]

@[simp] theorem setRxRing_look {β : Type} (ρ : State → β) (hρ : ∀ (t : State) np, look ρ { t with np := np } = look ρ
    t) (k : Nat) (r : PtRing) (s : State) : look ρ (setRxRing k r s) = look ρ s := by
  unfold setRxRing
  (repeat' split) <;> first | with_reducible rfl | simp [*]

@[simp] theorem freePt_look {β : Type} (ρ : State → β) (hρ : ∀ (t : State) np, look ρ { t with np := np } = look ρ t)
    (x : PtFrame) (s : State) : look ρ (freePt x s) = look ρ s := by
  unfold freePt
  (repeat' split) <;> first | with_reducible rfl | simp [*]

@[simp] theorem toPassThrough_look {β : Type} (ρ : State → β) (hρ : ∀ (t : State) np counters, look ρ { t with np := np, counters := counters }
    = look ρ t) (x : Rx) (cls : Nat) (handed : Bool) (s : State) : look ρ (toPassThrough x cls handed s) = look ρ s :=
    by
  unfold toPassThrough
  (repeat' split) <;> first | with_reducible rfl | simp [*]

@[simp] theorem ptArrival_look {β : Type} (ρ : State → β) (hρ : ∀ (t : State) hi ev np counters out, look ρ { t with hi := hi, ev := ev, np := np, counters := counters, out := out }
    = look ρ t) (k : Nat) (s : State) : look ρ (ptArrival k s) = look ρ s := by
  unfold ptArrival
  (repeat' split) <;> first | with_reducible rfl | simp [*]

@[simp] theorem acceptPn_look {β : Type} (ρ : State → β) (hρ : ∀ (t : State) np, look ρ { t with np := np } = look ρ
    t) (p : Nat) (f : Frame) (s : State) : look ρ (acceptPn p f s) = look ρ s := by
  simp only [acceptPn]
  (repeat' split) <;> first | with_reducible rfl | simp [*]

@[simp] theorem verifySec_look {β : Type} (ρ : State → β) (hρ : ∀ (t : State) np counters, look ρ { t with np := np, counters := counters }
    = look ρ t) (x : Rx) (s : State) : look ρ (verifySec x s).2 = look ρ s := by
  simp only [verifySec]
  (repeat' split) <;> first | with_reducible rfl | simp [*]

@[simp] theorem evictEntry_look {β : Type} (ρ : State → β) (hρ : ∀ (t : State) counters, look ρ { t with counters := counters }
    = look ρ t) (n : Nat) (l : List PrpEntry) (s : State) : look ρ (evictEntry n l s).2 = look ρ s := by
  unfold evictEntry
  (repeat' split) <;> first | with_reducible rfl | simp [*]

@[simp] theorem prpAccept_look {β : Type} (ρ : State → β) (hρ : ∀ (t : State) np counters, look ρ { t with np := np, counters := counters }
    = look ρ t) (n src q : Nat) (s : State) : look ρ (prpAccept n src q s).2 = look ρ s := by
  simp only [prpAccept]
  (repeat' split) <;> first | with_reducible rfl | simp [*]

@[simp] theorem reportLanLost_look {β : Type} (ρ : State → β) (hρ : ∀ (t : State) hi ev np counters out, look ρ { t with hi := hi, ev := ev, np := np, counters := counters, out := out }
    = look ρ t) (n : Nat) (b : Bool) (s : State) : look ρ (reportLanLost n b s) = look ρ s := by
  unfold reportLanLost
  (repeat' split) <;> first | with_reducible rfl | simp [*]

@[simp] theorem lanHeard_look {β : Type} (ρ : State → β) (hρ : ∀ (t : State) hi ev np counters out, look ρ { t with hi := hi, ev := ev, np := np, counters := counters, out := out }
    = look ρ t) (n : Nat) (b : Bool) (s : State) : look ρ (lanHeard n b s) = look ρ s := by
  unfold lanHeard
  (repeat' split) <;> first | with_reducible rfl | simp [*]

@[simp] theorem prpStage_look {β : Type} (ρ : State → β) (hρ : ∀ (t : State) hi ev np counters out, look ρ { t with hi := hi, ev := ev, np := np, counters := counters, out := out }
    = look ρ t) (x : Rx) (s : State) : look ρ (prpStage x s).2 = look ρ s := by
  simp only [prpStage]
  (repeat' split) <;> first | with_reducible rfl | simp [*]

@[simp] theorem joinPipe_look {β : Type} (ρ : State → β) (hρ : ∀ (t : State) si, look ρ { t with si := si } = look ρ
    t) (q : Nat) (f : SiFrame) (s : State) : look ρ (joinPipe q f s) = look ρ s := by
  unfold joinPipe
  (repeat' split) <;> first | with_reducible rfl | simp [*]

@[simp] theorem toSi_look {β : Type} (ρ : State → β) (hρ : ∀ (t : State) si counters, look ρ { t with si := si, counters := counters }
    = look ρ t) (x : Rx) (proto : Nat) (s : State) : look ρ (toSi x proto s) = look ρ s := by
  simp only [toSi]
  (repeat' split) <;> first | with_reducible rfl | simp [*]

@[simp] theorem classify_look {β : Type} (ρ : State → β) (hρ : ∀ (t : State) np si counters, look ρ { t with np := np, si := si, counters := counters }
    = look ρ t) (x : Rx) (s : State) : look ρ (classify x s) = look ρ s := by
  simp only [classify]
  (repeat' split) <;> first | with_reducible rfl | simp [*]

@[simp] theorem laterStages_look {β : Type} (ρ : State → β) (hρ : ∀ (t : State) hi ev np si counters out, look ρ { t with hi := hi, ev := ev, np := np, si := si, counters := counters, out := out }
    = look ρ t) (x : Rx) (s : State) : look ρ (laterStages x s) = look ρ s := by
  have hv := verifySec_look ρ (by simp [hρ]) x s
  simp only [laterStages]
  generalize verifySec x s = v at hv ⊢
  obtain ⟨o, t⟩ := v
  cases o <;> simp only at hv ⊢ <;> (repeat' split) <;> simp [*]

@[simp] theorem filterStage_look {β : Type} (ρ : State → β) (hρ : ∀ (t : State) hi ev np si counters out, look ρ { t with hi := hi, ev := ev, np := np, si := si, counters := counters, out := out }
    = look ρ t) (x : Rx) (trunc : Bool) (s : State) : look ρ (filterStage x trunc s) = look ρ s := by
  unfold filterStage
  (repeat' split) <;> first | with_reducible rfl | simp [*]

@[simp] theorem receive_look {β : Type} (ρ : State → β) (hρ : ∀ (t : State) hi ev np si counters out, look ρ { t with hi := hi, ev := ev, np := np, si := si, counters := counters, out := out }
    = look ρ t) (port : Nat) (f : Frame) (stamp : Int) (s : State) : look ρ (receive port f stamp s) = look ρ s := by
  unfold receive
  (repeat' split) <;> first | with_reducible rfl | simp [*]

@[simp] theorem countLine_look {β : Type} (ρ : State → β) (hρ : ∀ (t : State) counters, look ρ { t with counters := counters }
    = look ρ t) (port : Nat) (e : LineErr) (s : State) : look ρ (countLine port e s) = look ρ s := by
  unfold countLine
  (repeat' split) <;> first | with_reducible rfl | simp [*]

@[simp] theorem arrive_look {β : Type} (ρ : State → β) (hρ : ∀ (t : State) hi ev np si counters out, look ρ { t with hi := hi, ev := ev, np := np, si := si, counters := counters, out := out }
    = look ρ t) (port : Nat) (a : Arrival) (s : State) : look ρ (arrive port a s) = look ρ s := by
  unfold arrive
  (repeat' split) <;> first | with_reducible rfl | simp [*]

@[simp] theorem setTxRing_look {β : Type} (ρ : State → β) (hρ : ∀ (t : State) np, look ρ { t with np := np } = look ρ
    t) (k : Nat) (r : PtRing) (s : State) : look ρ (setTxRing k r s) = look ρ s := by
  unfold setTxRing
  (repeat' split) <;> first | with_reducible rfl | simp [*]

@[simp] theorem faultPtRing_look {β : Type} (ρ : State → β) (hρ : ∀ (t : State) hi ev np counters out, look ρ { t with hi := hi, ev := ev, np := np, counters := counters, out := out }
    = look ρ t) (rx : Bool) (k : Nat) (s : State) : look ρ (faultPtRing rx k s) = look ρ s := by
  unfold faultPtRing
  (repeat' split) <;> first | with_reducible rfl | simp [*]

@[simp] theorem sendHost_look {β : Type} (ρ : State → β) (hρ : ∀ (t : State) np counters, look ρ { t with np := np, counters := counters }
    = look ρ t) (port queue kind n prpMode : Nat) (ptp : Bool) (words : List Nat) (s : State) : look ρ (sendHost port
    queue kind n prpMode ptp words s) = look ρ s := by
  unfold sendHost
  (repeat' split) <;> first | with_reducible rfl | simp [*]

theorem execPtFrameDelivery_look {β : Type} (ρ : State → β) (hρ : ∀ (t : State) hi ev np counters out, look ρ { t with hi := hi, ev := ev, np := np, counters := counters, out := out }
    = look ρ t) (k : Nat) (s : State) : ∃ σ, execPtFrameDelivery k s = .next σ ∧ look ρ σ = look ρ s := by
  refine ⟨_, rfl, ?_⟩; repeat' first
    | rfl | (simp [*]; done) | split | rw [look_foldl] | intro _ | dsimp only

theorem execPtDescriptorTimeout_look {β : Type} (ρ : State → β) (hρ : ∀ (t : State) np counters, look ρ { t with np := np, counters := counters }
    = look ρ t) (k : Nat) (s : State) : ∃ σ, execPtDescriptorTimeout k s = .next σ ∧ look ρ σ = look ρ s := by
  refine ⟨_, rfl, ?_⟩; repeat' first
    | rfl | (simp [*]; done) | split | rw [look_foldl] | intro _ | dsimp only

theorem execPrpLanLost_look {β : Type} (ρ : State → β) (hρ : ∀ (t : State) hi ev np counters out, look ρ { t with hi := hi, ev := ev, np := np, counters := counters, out := out }
    = look ρ t) (pair lan : Nat) (s : State) : ∃ σ, execPrpLanLost pair lan s = .next σ ∧ look ρ σ = look ρ s := by
  refine ⟨_, rfl, ?_⟩; (repeat' split) <;> first | with_reducible rfl | simp [*]

theorem execPrpEntryForget_look {β : Type} (ρ : State → β) (hρ : ∀ (t : State) np, look ρ { t with np := np } = look ρ
    t) (pair src : Nat) (s : State) : ∃ σ, execPrpEntryForget pair src s = .next σ ∧ look ρ σ = look ρ s := by
  refine ⟨_, rfl, ?_⟩; (repeat' split) <;> first | with_reducible rfl | simp [*]

theorem execRxFrame_look {β : Type} (ρ : State → β) (hρ : ∀ (t : State) hi ev np si counters out, look ρ { t with hi := hi, ev := ev, np := np, si := si, counters := counters, out := out }
    = look ρ t) (port : Nat) (a : Arrival) (twin : Option Arrival) (s : State) : ∃ σ, execRxFrame port a twin s =
    .next σ ∧ look ρ σ = look ρ s := by
  refine ⟨_, rfl, ?_⟩; (repeat' split) <;> first | with_reducible rfl | simp [*]

theorem execPtTxChainFetch_look {β : Type} (ρ : State → β) (hρ : ∀ (t : State) hi ev np counters out, look ρ { t with hi := hi, ev := ev, np := np, counters := counters, out := out }
    = look ρ t) (k port queue : Nat) (frame : HostFrame) (prpMode count : Nat) (clear wellFormed : Bool) (s : State) : ∃ σ, execPtTxChainFetch k port queue frame prpMode count clear wellFormed s = .next σ ∧ look ρ σ =
    look ρ s := by
  refine ⟨_, rfl, ?_⟩; (repeat' split) <;> first | with_reducible rfl | simp [*]

theorem execLinkStateChange_look {β : Type} (ρ : State → β) (hρ : ∀ (t : State) hi tm ev pm cairn np counters out,
    look ρ { t with hi := hi, tm := tm, ev := ev, pm := pm, cairn := cairn, np := np, counters := counters, out := out }
    = look ρ t) (port : Nat) (pcsLock fecLock : Bool) (faults : LinkFaults) (errs : LineErr) (s : State) : ∃ σ,
    execLinkStateChange port pcsLock fecLock faults errs s = .next σ ∧ look ρ σ = look ρ s := by
  refine ⟨_, rfl, ?_⟩; (repeat' split) <;> first | with_reducible rfl | simp [*]

end Sys2Proof.Machine
end

