-- ==== Sys2Proof/Laws/LookIntake.lean ====
section
/-! SUPPORT. What the operations of Machine/Intake.lean leave alone. -/

namespace Sys2Proof.Machine

@[simp] theorem updStream_look {β : Type} (ρ : State → β) (hρ : ∀ (t : State) si, look ρ { t with si := si } = look ρ
    t) (sid : Nat) (f : Stream → Stream) (s : State) : look ρ (updStream sid f s) = look ρ s := by
  unfold updStream
  (repeat' split) <;> first | with_reducible rfl | simp [*]

@[simp] theorem noteState_look {β : Type} (ρ : State → β) (hρ : ∀ (t : State) hi ev counters out, look ρ { t with hi := hi, ev := ev, counters := counters, out := out }
    = look ρ t) (sid : Nat) (old new : StreamState) (s : State) : look ρ (noteState sid old new s) = look ρ s := by
  unfold noteState
  (repeat' split) <;> first | with_reducible rfl | simp [*]

@[simp] theorem setStreamState_look {β : Type} (ρ : State → β) (hρ : ∀ (t : State) hi ev si counters out, look ρ { t with hi := hi, ev := ev, si := si, counters := counters, out := out }
    = look ρ t) (sid : Nat) (new : StreamState) (s : State) : look ρ (setStreamState sid new s) = look ρ s := by
  unfold setStreamState
  (repeat' split) <;> first | with_reducible rfl | simp [*]

@[simp] theorem quarantine_look {β : Type} (ρ : State → β) (hρ : ∀ (t : State) hi ev si counters out, look ρ { t with hi := hi, ev := ev, si := si, counters := counters, out := out }
    = look ρ t) (sid cause : Nat) (s : State) : look ρ (quarantine sid cause s) = look ρ s := by
  unfold quarantine
  (repeat' split) <;> first | with_reducible rfl | simp [*]

@[simp] theorem failStream_look {β : Type} (ρ : State → β) (hρ : ∀ (t : State) hi ev si counters out, look ρ { t with hi := hi, ev := ev, si := si, counters := counters, out := out }
    = look ρ t) (sid : Nat) (s : State) : look ρ (failStream sid s) = look ρ s := by
  unfold failStream
  (repeat' split) <;> first | with_reducible rfl | simp [*]

@[simp] theorem rollKey_look {β : Type} (ρ : State → β) (hρ : ∀ (t : State) hi ev si counters out, look ρ { t with hi := hi, ev := ev, si := si, counters := counters, out := out }
    = look ρ t) (sid : Nat) (s : State) : look ρ (rollKey sid s) = look ρ s := by
  unfold rollKey
  (repeat' split) <;> first | with_reducible rfl | simp [*]

@[simp] theorem settleConv_look {β : Type} (ρ : State → β) (hρ : ∀ (t : State) freeCtr, look ρ { t with freeCtr := freeCtr }
    = look ρ t) (ch : Nat) (c : Conv) (s : State) : look ρ (settleConv ch c s).2.2 = look ρ s := by
  unfold settleConv
  (repeat' split) <;> first | with_reducible rfl | simp [*]

@[simp] theorem settleSecond_look {β : Type} (ρ : State → β) (hρ : ∀ (t : State) freeCtr, look ρ { t with freeCtr := freeCtr }
    = look ρ t) (ch : Nat) (c : Option Conv) (s : State) : look ρ (settleSecond ch c s).2.2 = look ρ s := by
  unfold settleSecond; split <;> simp [*]

@[simp] theorem normalizeQuant_look {β : Type} (ρ : State → β) (hρ : ∀ (t : State) counters freeCtr, look ρ { t with counters := counters, freeCtr := freeCtr }
    = look ρ t) (sid : Nat) (acc : List ChanVal × State) (q : Quant) : look ρ (normalizeQuant sid acc q).2 = look ρ
    acc.2 := by
  simp only [normalizeQuant]
  (repeat' split) <;> simp [*]

@[simp] theorem normalize_look {β : Type} (ρ : State → β) (hρ : ∀ (t : State) counters freeCtr, look ρ { t with counters := counters, freeCtr := freeCtr }
    = look ρ t) (sid : Nat) (qs : List Quant) (s : State) : look ρ (normalize sid qs s).2 = look ρ s := by
  unfold normalize
  rw [look_foldl_of ρ (fun x : List ChanVal × State => x.2)]; intro b a; simp [*]

@[simp] theorem interpCellChan_look {β : Type} (ρ : State → β) (hρ : ∀ (t : State) counters freeCtr, look ρ { t with counters := counters, freeCtr := freeCtr }
    = look ρ t) (sid : Nat) (cubic : Bool) (tk : Rat) (ps : List (Rat × HistFrame)) (held : HistFrame) (acc : List
    CellChan × State) (ch : Nat) : look ρ (interpCellChan sid cubic tk ps held acc ch).2 = look ρ acc.2 := by
  unfold interpCellChan
  (repeat' split) <;> simp [*]

@[simp] theorem interpCell_look {β : Type} (ρ : State → β) (hρ : ∀ (t : State) counters freeCtr, look ρ { t with counters := counters, freeCtr := freeCtr }
    = look ρ t) (sid : Nat) (p : GroupP) (cubic : Bool) (k : Nat) (pts : List HistFrame) (held : HistFrame) (s :
    State) : look ρ (interpCell sid p cubic k pts held s).2 = look ρ s := by
  simp only [interpCell]
  rw [look_foldl_of ρ (fun x : List CellChan × State => x.2)]; intro b a; simp [*]

@[simp] theorem offerCell_look {β : Type} (ρ : State → β) (hρ : ∀ (t : State) hi ec ev erg counters out freeCtr, look
    ρ { t with hi := hi, ec := ec, ev := ev, erg := erg, counters := counters, out := out, freeCtr := freeCtr } = look
    ρ t) (m : Membership) (k : Int) (sid : Nat) (c : Cell) (s : State) : look ρ (offerCell m k sid c s) = look ρ s :=
    by
  unfold offerCell
  (repeat' split) <;> first | with_reducible rfl | simp [*]

@[simp] theorem interpolate_look {β : Type} (ρ : State → β) (hρ : ∀ (t : State) hi ec ev erg counters out freeCtr,
    look ρ { t with hi := hi, ec := ec, ev := ev, erg := erg, counters := counters, out := out, freeCtr := freeCtr } =
    look ρ t) (sid : Nat) (m : Membership) (cubic : Bool) (hist : List HistFrame) (tol : Int) (s : State) : look ρ
    (interpolate sid m cubic hist tol s) = look ρ s := by
  simp only [interpolate]
  (repeat' split) <;> first | with_reducible rfl | simp [*]

@[simp] theorem feedMembership_look {β : Type} (ρ : State → β) (hρ : ∀ (t : State) hi ec ev erg counters out freeCtr,
    look ρ { t with hi := hi, ec := ec, ev := ev, erg := erg, counters := counters, out := out, freeCtr := freeCtr } =
    look ρ t) (sid : Nat) (x : Stream) (f : HistFrame) (newest miss : Bool) (tol : Int) (m : Membership) (s : State) :
    look ρ (feedMembership sid x f newest miss tol m s) = look ρ s := by
  unfold feedMembership
  (repeat' split) <;> first | with_reducible rfl | simp [*]

@[simp] theorem resample_look {β : Type} (ρ : State → β) (hρ : ∀ (t : State) hi ec ev erg counters out freeCtr, look ρ
    { t with hi := hi, ec := ec, ev := ev, erg := erg, counters := counters, out := out, freeCtr := freeCtr } = look ρ
    t) (sid : Nat) (x : Stream) (f : HistFrame) (newest : Bool) (leaving : List (Nat × Nat)) (s : State) : look ρ
    (resample sid x f newest leaving s) = look ρ s := by
  unfold resample
  (repeat' split) <;> first | with_reducible rfl | simp [*]

@[simp] theorem acceptFrame_look {β : Type} (ρ : State → β) (hρ : ∀ (t : State) hi ec ev si erg counters out freeCtr,
    look ρ { t with hi := hi, ec := ec, ev := ev, si := si, erg := erg, counters := counters, out := out, freeCtr := freeCtr }
    = look ρ t) (sid : Nat) (f : HistFrame) (leaving : List (Nat × Nat)) (s : State) : look ρ (acceptFrame sid f
    leaving s) = look ρ s := by
  unfold acceptFrame
  (repeat' split) <;> first | with_reducible rfl | simp [*]

@[simp] theorem disposeFor_look {β : Type} (ρ : State → β) (hρ : ∀ (t : State) hi ec ev si erg counters out freeCtr,
    look ρ { t with hi := hi, ec := ec, ev := ev, si := si, erg := erg, counters := counters, out := out, freeCtr := freeCtr }
    = look ρ t) (f : SiFrame) (sid : Nat) (s : State) : look ρ (disposeFor f sid s) = look ρ s := by
  unfold disposeFor
  (repeat' split) <;> first | with_reducible rfl | simp [*]

@[simp] theorem returnFrame_look {β : Type} (ρ : State → β) (hρ : ∀ (t : State) np counters, look ρ { t with np := np, counters := counters }
    = look ρ t) (f : SiFrame) (ctr : Nat) (s : State) : look ρ (returnFrame f ctr s) = look ρ s := by
  unfold returnFrame
  (repeat' split) <;> first | with_reducible rfl | simp [*]

@[simp] theorem disposeFrame_look {β : Type} (ρ : State → β) (hρ : ∀ (t : State) hi ec ev np si erg counters out
    freeCtr, look ρ { t with hi := hi, ec := ec, ev := ev, np := np, si := si, erg := erg, counters := counters, out := out, freeCtr := freeCtr }
    = look ρ t) (q : Nat) (f : SiFrame) (s : State) : look ρ (disposeFrame q f s) = look ρ s := by
  unfold disposeFrame
  (repeat' split) <;> first | with_reducible rfl | simp [*]

@[simp] theorem streamTimers_look {β : Type} (ρ : State → β) (hρ : ∀ (t : State) hi ev si counters out, look ρ { t with hi := hi, ev := ev, si := si, counters := counters, out := out }
    = look ρ t) (sid : Nat) (s : State) : look ρ (streamTimers sid s) = look ρ s := by
  simp only [streamTimers]
  (repeat' split) <;> first | with_reducible rfl | simp [*]

theorem execSiFrameParse_look {β : Type} (ρ : State → β) (hρ : ∀ (t : State) hi ec ev np si erg counters out freeCtr,
    look ρ { t with hi := hi, ec := ec, ev := ev, np := np, si := si, erg := erg, counters := counters, out := out, freeCtr := freeCtr }
    = look ρ t) (pipe : Nat) (s : State) : ∃ σ, execSiFrameParse pipe s = .next σ ∧ look ρ σ = look ρ s := by
  refine ⟨_, rfl, ?_⟩; (repeat' split) <;> first | with_reducible rfl | simp [*]

theorem execStreamTimerExpiry_look {β : Type} (ρ : State → β) (hρ : ∀ (t : State) hi ev si counters out, look ρ { t with hi := hi, ev := ev, si := si, counters := counters, out := out }
    = look ρ t) (sid : Nat) (s : State) : ∃ σ, execStreamTimerExpiry sid s = .next σ ∧ look ρ σ = look ρ s := by
  refine ⟨_, rfl, ?_⟩; (repeat' split) <;> first | with_reducible rfl | simp [*]

end Sys2Proof.Machine
end

