-- ==== Sys2Proof/Laws/LookMeter.lean ====
section
/-! SUPPORT. What the operations of Machine/Meter.lean leave alone. -/

namespace Sys2Proof.Machine

@[simp] theorem takeTemp_look {β : Type} (ρ : State → β) (hρ : ∀ (t : State) am, look ρ { t with am := am } = look ρ
    t) (k : Nat) (s : State) : look ρ (takeTemp k s) = look ρ s := by
  simp only [takeTemp]
  (repeat' split) <;> first | with_reducible rfl | simp [*]

@[simp] theorem modFaultStep_look {β : Type} (ρ : State → β) (hρ : ∀ (t : State) hi ev am counters out, look ρ { t with hi := hi, ev := ev, am := am, counters := counters, out := out }
    = look ρ t) (ch : Nat) (run64 : Bool) (cleanBits : Nat) (s : State) : look ρ (modFaultStep ch run64 cleanBits s) =
    look ρ s := by
  unfold modFaultStep
  (repeat' split) <;> first | with_reducible rfl | simp [*]

@[simp] theorem pushOutput_look {β : Type} (ρ : State → β) (hρ : ∀ (t : State) am, look ρ { t with am := am } = look ρ
    t) (ch : Nat) (a b : Option Int) (s : State) : look ρ (pushOutput ch a b s) = look ρ s := by
  unfold pushOutput
  (repeat' split) <;> first | with_reducible rfl | simp [*]

@[simp] theorem updateRms_look {β : Type} (ρ : State → β) (hρ : ∀ (t : State) am freeCtr, look ρ { t with am := am, freeCtr := freeCtr }
    = look ρ t) (ch : Nat) (s : State) : look ρ (updateRms ch s) = look ρ s := by
  unfold updateRms
  (repeat' split) <;> first | with_reducible rfl | simp [*]

@[simp] theorem storeSample_look {β : Type} (ρ : State → β) (hρ : ∀ (t : State) am counters freeCtr, look ρ { t with am := am, counters := counters, freeCtr := freeCtr }
    = look ρ t) (ch : Nat) (vRec vAlm : Int) (s : State) : look ρ (storeSample ch vRec vAlm s) = look ρ s := by
  unfold storeSample
  (repeat' split) <;> first | with_reducible rfl | simp [*]

@[simp] theorem missSample_look {β : Type} (ρ : State → β) (hρ : ∀ (t : State) am, look ρ { t with am := am } = look ρ
    t) (ch : Nat) (s : State) : look ρ (missSample ch s) = look ρ s := by
  unfold missSample
  (repeat' split) <;> first | with_reducible rfl | simp [*]

@[simp] theorem markBoundary_look {β : Type} (ρ : State → β) (hρ : ∀ (t : State) am, look ρ { t with am := am } = look
    ρ t) (ch : Nat) (s : State) : look ρ (markBoundary ch s) = look ρ s := by
  unfold markBoundary
  (repeat' split) <;> first | with_reducible rfl | simp [*]

@[simp] theorem takeSample_look {β : Type} (ρ : State → β) (hρ : ∀ (t : State) hi ev am counters out freeCtr, look ρ { t with hi := hi, ev := ev, am := am, counters := counters, out := out, freeCtr := freeCtr }
    = look ρ t) (ch : Nat) (vRec vAlm : Int) (run64 : Bool) (cleanBits : Nat) (s : State) : look ρ (takeSample ch vRec
    vAlm run64 cleanBits s) = look ρ s := by
  unfold takeSample
  (repeat' split) <;> first | with_reducible rfl | simp [*]

@[simp] theorem setPulse_look {β : Type} (ρ : State → β) (hρ : ∀ (t : State) am, look ρ { t with am := am } = look ρ
    t) (n : Nat) (x : Pulse) (s : State) : look ρ (setPulse n x s) = look ρ s := by
  unfold setPulse
  (repeat' split) <;> first | with_reducible rfl | simp [*]

@[simp] theorem periodicSave_look {β : Type} (ρ : State → β) (hρ : ∀ (t : State) cairn am counters, look ρ { t with cairn := cairn, am := am, counters := counters }
    = look ρ t) (s : State) : look ρ (periodicSave s) = look ρ s := by
  unfold periodicSave
  (repeat' split) <;> first | with_reducible rfl | simp [*]

@[simp] theorem saveFailed_look {β : Type} (ρ : State → β) (hρ : ∀ (t : State) hi ev cairn am counters out, look ρ { t with hi := hi, ev := ev, cairn := cairn, am := am, counters := counters, out := out }
    = look ρ t) (s : State) : look ρ (saveFailed s) = look ρ s := by
  unfold saveFailed
  (repeat' split) <;> first | with_reducible rfl | simp [*]

@[simp] theorem ballastWrite_look {β : Type} (ρ : State → β) (hρ : ∀ (t : State) cairn am counters, look ρ { t with cairn := cairn, am := am, counters := counters }
    = look ρ t) (durTenthUs : Nat) (s : State) : look ρ (ballastWrite durTenthUs s) = look ρ s := by
  unfold ballastWrite
  (repeat' split) <;> first | with_reducible rfl | simp [*]

@[simp] theorem restoreEnergy_look {β : Type} (ρ : State → β) (hρ : ∀ (t : State) am, look ρ { t with am := am } =
    look ρ t) (s : State) : look ρ (restoreEnergy s) = look ρ s := by
  unfold restoreEnergy
  (repeat' split) <;> first | with_reducible rfl | simp [*]

@[simp] theorem reportUnsaved_look {β : Type} (ρ : State → β) (hρ : ∀ (t : State) hi ev counters out, look ρ { t with hi := hi, ev := ev, counters := counters, out := out }
    = look ρ t) (s : State) : look ρ (reportUnsaved s) = look ρ s := by
  unfold reportUnsaved
  (repeat' split) <;> simp_all

@[simp] theorem vstreamTaken_look {β : Type} (ρ : State → β) (hρ : ∀ (t : State) hi ec ev si erg am counters out
    freeCtr, look ρ { t with hi := hi, ec := ec, ev := ev, si := si, erg := erg, am := am, counters := counters, out := out, freeCtr := freeCtr }
    = look ρ t) (r : VsReport) (v : Vs) (s : State) : look ρ (vstreamTaken r v s) = look ρ s := by
  unfold vstreamTaken
  (repeat' split) <;> first | with_reducible rfl | simp [*]

theorem execTempStale_look {β : Type} (ρ : State → β) (hρ : ∀ (t : State) hi ev am counters out, look ρ { t with hi := hi, ev := ev, am := am, counters := counters, out := out }
    = look ρ t) (ch : Nat) (s : State) : ∃ σ, execTempStale ch s = .next σ ∧ look ρ σ = look ρ s := by
  refine ⟨_, rfl, ?_⟩; (repeat' split) <;> first | with_reducible rfl | simp [*]

theorem execSdSample_look {β : Type} (ρ : State → β) (hρ : ∀ (t : State) hi ev am counters out freeCtr, look ρ { t with hi := hi, ev := ev, am := am, counters := counters, out := out, freeCtr := freeCtr }
    = look ρ t) (ch : Nat) (vRec vAlm : Int) (run64 : Bool) (cleanBits : Nat) (s : State) : ∃ σ, execSdSample ch vRec
    vAlm run64 cleanBits s = .next σ ∧ look ρ σ = look ρ s := by
  refine ⟨_, rfl, ?_⟩; (repeat' split) <;> first | with_reducible rfl | simp [*]

theorem execEnergyBlockEnd_look {β : Type} (ρ : State → β) (hρ : ∀ (t : State) hi ev am counters out, look ρ { t with hi := hi, ev := ev, am := am, counters := counters, out := out }
    = look ρ t) (el stop : Nat) (e1 e2 e3 : Int × Int) (trackedF : Int) (s : State) : ∃ σ, execEnergyBlockEnd el stop e1 e2 e3 trackedF s = .next σ
    ∧ look ρ σ = look ρ s := by
  refine ⟨_, rfl, ?_⟩; (repeat' split) <;> first | with_reducible rfl | simp [*]

theorem execPulseStart_look {β : Type} (ρ : State → β) (hρ : ∀ (t : State) am, look ρ { t with am := am } = look ρ t)
    (n : Nat) (s : State) : ∃ σ, execPulseStart n s = .next σ ∧ look ρ σ = look ρ s := by
  refine ⟨_, rfl, ?_⟩; repeat' first
    | rfl | (simp [*]; done) | split | rw [look_foldl] | intro _ | dsimp only

theorem execPulseEnd_look {β : Type} (ρ : State → β) (hρ : ∀ (t : State) am, look ρ { t with am := am } = look ρ t) (n
    : Nat) (s : State) : ∃ σ, execPulseEnd n s = .next σ ∧ look ρ σ = look ρ s := by
  refine ⟨_, rfl, ?_⟩; repeat' first
    | rfl | (simp [*]; done) | split | rw [look_foldl] | intro _ | dsimp only

theorem execPeriodicSave_look {β : Type} (ρ : State → β) (hρ : ∀ (t : State) hi ev cairn am counters out, look ρ { t with hi := hi, ev := ev, cairn := cairn, am := am, counters := counters, out := out }
    = look ρ t) (ok : Bool) (s : State) : ∃ σ, execPeriodicSave ok s = .next σ ∧ look ρ σ = look ρ s := by
  refine ⟨_, rfl, ?_⟩; (repeat' split) <;> first | with_reducible rfl | simp [*]

theorem execAliveStamp_look {β : Type} (ρ : State → β) (hρ : ∀ (t : State) cairn am, look ρ { t with cairn := cairn, am := am }
    = look ρ t) (s : State) : ∃ σ, execAliveStamp s = .next σ ∧ look ρ σ = look ρ s := by
  refine ⟨_, rfl, ?_⟩; (repeat' split) <;> first | with_reducible rfl | simp [*]

theorem execVstreamReport_look {β : Type} (ρ : State → β) (hρ : ∀ (t : State) hi ec ev si erg am counters out freeCtr,
    look ρ { t with hi := hi, ec := ec, ev := ev, si := si, erg := erg, am := am, counters := counters, out := out, freeCtr := freeCtr }
    = look ρ t) (r : VsReport) (s : State) : ∃ σ, execVstreamReport r s = .next σ ∧ look ρ σ = look ρ s := by
  refine ⟨_, rfl, ?_⟩; (repeat' split) <;> first | with_reducible rfl | simp [*]

end Sys2Proof.Machine
end

