-- ==== Sys2Proof/Laws/LookLogEv.lean ====
section
/-! SUPPORT. What the operations of Machine/LogEv.lean leave alone. -/

namespace Sys2Proof.Machine

@[simp] theorem repairRow_look {β : Type} (ρ : State → β) (hρ : ∀ (t : State) hi ec ev cairn counters out, look ρ { t with hi := hi, ec := ec, ev := ev, cairn := cairn, counters := counters, out := out }
    = look ρ t) (m : Nat) (s : State) : look ρ (repairRow m s) = look ρ s := by
  simp [repairRow, *]

@[simp] theorem startInternal_look {β : Type} (ρ : State → β) (hρ : ∀ (t : State) hi ev pm counters out, look ρ { t with hi := hi, ev := ev, pm := pm, counters := counters, out := out }
    = look ρ t) (cause arg : Nat) (s : State) : look ρ (startInternal cause arg s) = look ρ s := by
  unfold startInternal
  (repeat' split) <;> first | with_reducible rfl | simp [*]

@[simp] theorem controlDue_look {β : Type} (ρ : State → β) (hρ : ∀ (t : State) hi ec ev pm counters out, look ρ { t with hi := hi, ec := ec, ev := ev, pm := pm, counters := counters, out := out }
    = look ρ t) (m w : Nat) (s : State) : look ρ (controlDue m w s) = look ρ s := by
  unfold controlDue
  (repeat' split) <;> first | with_reducible rfl | simp [*]

@[simp] theorem scrubLate_look {β : Type} (ρ : State → β) (hρ : ∀ (t : State) ec counters, look ρ { t with ec := ec, counters := counters }
    = look ρ t) (read : Nat) (s : State) : look ρ (scrubLate read s) = look ρ s := by
  unfold scrubLate
  (repeat' split) <;> first | with_reducible rfl | simp [*]

@[simp] theorem readWord_look {β : Type} (ρ : State → β) (hρ : ∀ (t : State) hi ec ev pm counters out, look ρ { t with hi := hi, ec := ec, ev := ev, pm := pm, counters := counters, out := out }
    = look ρ t) (m w : Nat) (s : State) : look ρ (readWord m w s) = look ρ s := by
  unfold readWord
  (repeat' split) <;> first | with_reducible rfl | simp [*]

@[simp] theorem readRecords_look {β : Type} (ρ : State → β) (hρ : ∀ (t : State) counters, look ρ { t with counters := counters }
    = look ρ t) (l : List LogRec) (s : State) : look ρ (readRecords l s).2.2 = look ρ s := by
  simp only [readRecords]
  rw [look_foldl_of ρ (fun x : Tbl LogRec × Bool × State => x.2.2)]
  intro b a; simp [*]

@[simp] theorem seekSpool_look {β : Type} (ρ : State → β) (hρ : ∀ (t : State) ev counters, look ρ { t with ev := ev, counters := counters }
    = look ρ t) (cur : Nat) (s : State) : look ρ (seekSpool cur s) = look ρ s := by
  simp only [seekSpool]
  (repeat' split) <;> first | with_reducible rfl | simp [*]

@[simp] theorem fillSlot_look {β : Type} (ρ : State → β) (hρ : ∀ (t : State) ev, look ρ { t with ev := ev } = look ρ
    t) (r : LogRec) (s : State) : look ρ (fillSlot r s) = look ρ s := by
  unfold fillSlot
  (repeat' split) <;> first | with_reducible rfl | simp [*]

@[simp] theorem writeLine_look {β : Type} (ρ : State → β) (hρ : ∀ (t : State) ev cairn counters, look ρ { t with ev := ev, cairn := cairn, counters := counters }
    = look ρ t) (r : EvRec) (isExt : Bool) (s : State) : look ρ (writeLine r isExt s) = look ρ s := by
  unfold writeLine
  (repeat' split) <;> first | with_reducible rfl | simp [*]

@[simp] theorem writeLog_look {β : Type} (ρ : State → β) (hρ : ∀ (t : State) ev cairn counters, look ρ { t with ev := ev, cairn := cairn, counters := counters }
    = look ρ t) (r : EvRec) (s : State) : look ρ (writeLog r s) = look ρ s := by
  unfold writeLog
  (repeat' split) <;> first | with_reducible rfl | simp [*]

@[simp] theorem endLost_look {β : Type} (ρ : State → β) (hρ : ∀ (t : State) hi ev counters out, look ρ { t with hi := hi, ev := ev, counters := counters, out := out }
    = look ρ t) (s : State) : look ρ (endLost s) = look ρ s := by
  unfold endLost
  (repeat' split) <;> first | with_reducible rfl | simp [*]

@[simp] theorem fireFlushVec_look {β : Type} (ρ : State → β) (hρ : ∀ (t : State) hi out, look ρ { t with hi := hi, out := out }
    = look ρ t) (s : State) : look ρ (fireFlushVec s) = look ρ s := by
  unfold fireFlushVec
  (repeat' split) <;> first | with_reducible rfl | simp [*]

@[simp] theorem writeCut_look {β : Type} (ρ : State → β) (hρ : ∀ (t : State) ev cairn counters, look ρ { t with ev := ev, cairn := cairn, counters := counters }
    = look ρ t) (lost : List EvRec) (s : State) : look ρ (writeCut lost s) = look ρ s := by
  unfold writeCut
  (repeat' split) <;> first | with_reducible rfl | simp [*]

@[simp] theorem logCut_look {β : Type} (ρ : State → β) (hρ : ∀ (t : State) hi ev cairn counters out, look ρ { t with hi := hi, ev := ev, cairn := cairn, counters := counters, out := out }
    = look ρ t) (dur : Nat) (s : State) : look ρ (logCut dur s) = look ρ s := by
  unfold logCut
  (repeat' split) <;> first | with_reducible rfl | simp [*]

theorem execScrubRead_look {β : Type} (ρ : State → β) (hρ : ∀ (t : State) hi ec ev pm cairn counters out, look ρ { t with hi := hi, ec := ec, ev := ev, pm := pm, cairn := cairn, counters := counters, out := out }
    = look ρ t) (mac word : Nat) (s : State) : ∃ σ, execScrubRead mac word s = .next σ ∧ look ρ σ = look ρ s := by
  refine ⟨_, rfl, ?_⟩; (repeat' split) <;> first | with_reducible rfl | simp [*]

theorem execCorrectionWriteback_look {β : Type} (ρ : State → β) (hρ : ∀ (t : State) hi ec ev counters out freeCtr,
    look ρ { t with hi := hi, ec := ec, ev := ev, counters := counters, out := out, freeCtr := freeCtr } = look ρ t)
    (mac word : Nat) (s : State) : ∃ σ, execCorrectionWriteback mac word s = .next σ ∧ look ρ σ = look ρ s := by
  refine ⟨_, rfl, ?_⟩; (repeat' split) <;> first | with_reducible rfl | simp [*]

theorem execSuspectExpiry_look {β : Type} (ρ : State → β) (hρ : ∀ (t : State) ec, look ρ { t with ec := ec } = look ρ
    t) (mac word : Nat) (s : State) : ∃ σ, execSuspectExpiry mac word s = .next σ ∧ look ρ σ = look ρ s := by
  refine ⟨_, rfl, ?_⟩; (repeat' split) <;> first | with_reducible rfl | simp [*]

theorem execControlDue_look {β : Type} (ρ : State → β) (hρ : ∀ (t : State) hi ec ev pm counters out, look ρ { t with hi := hi, ec := ec, ev := ev, pm := pm, counters := counters, out := out }
    = look ρ t) (mac word : Nat) (s : State) : ∃ σ, execControlDue mac word s = .next σ ∧ look ρ σ = look ρ s := by
  refine ⟨_, rfl, ?_⟩; (repeat' split) <;> first | with_reducible rfl | simp [*]

theorem execWatchdogExpiry_look {β : Type} (ρ : State → β) (hρ : ∀ (t : State) hi ev pm counters out, look ρ { t with hi := hi, ev := ev, pm := pm, counters := counters, out := out }
    = look ρ t) (sequencer gid : Nat) (s : State) : ∃ σ, execWatchdogExpiry sequencer gid s = .next σ ∧ look ρ σ =
    look ρ s := by
  refine ⟨_, rfl, ?_⟩; (repeat' split) <;> first | with_reducible rfl | simp [*]

theorem execEvFlushEnd_look {β : Type} (ρ : State → β) (hρ : ∀ (t : State) hi ev cairn counters out, look ρ { t with hi := hi, ev := ev, cairn := cairn, counters := counters, out := out }
    = look ρ t) (s : State) : ∃ σ, execEvFlushEnd s = .next σ ∧ look ρ σ = look ρ s := by
  refine ⟨_, rfl, ?_⟩; (repeat' split) <;> first | with_reducible rfl | simp [*]

theorem execFlushMsExpiry_look {β : Type} (ρ : State → β) (hρ : ∀ (t : State) hi ev counters out, look ρ { t with hi := hi, ev := ev, counters := counters, out := out }
    = look ρ t) (s : State) : ∃ σ, execFlushMsExpiry s = .next σ ∧ look ρ σ = look ρ s := by
  refine ⟨_, rfl, ?_⟩; (repeat' split) <;> first | with_reducible rfl | simp [*]

theorem execRecordClose_look {β : Type} (ρ : State → β) (hρ : ∀ (t : State) hi ev counters out, look ρ { t with hi := hi, ev := ev, counters := counters, out := out }
    = look ρ t) (source code severity : Nat) (s : State) : ∃ σ, execRecordClose source code severity s = .next σ ∧
    look ρ σ = look ρ s := by
  refine ⟨_, rfl, ?_⟩; repeat' first
    | rfl | (simp [*]; done) | split | rw [look_foldl] | intro _ | dsimp only

theorem execOpsecTick_look {β : Type} (ρ : State → β) (hρ : ∀ (t : State) cairn, look ρ { t with cairn := cairn } =
    look ρ t) (s : State) : ∃ σ, execOpsecTick s = .next σ ∧ look ρ σ = look ρ s := by
  refine ⟨_, rfl, ?_⟩; (repeat' split) <;> first | with_reducible rfl | simp [*]

end Sys2Proof.Machine
end

