-- ==== Sys2Proof/Laws/LookReset.lean ====
section
/-! SUPPORT. What the operations of Machine/Reset.lean leave alone. -/

namespace Sys2Proof.Machine

@[simp] theorem warmReset_look {β : Type} (ρ : State → β) (hρ : ∀ (t : State) hi cfg tm ec ev pm ck ov np si erg cv ts
    sc al aq am counters ctrLatch, look ρ { t with hi := hi, cfg := cfg, tm := tm, ec := ec, ev := ev, pm := pm, ck := ck, ov := ov, np := np, si := si, erg := erg, cv := cv, ts := ts, sc := sc, al := al, aq := aq, am := am, counters := counters, ctrLatch := ctrLatch }
    = look ρ t) (src : ResetSource) (s : State) : look ρ (warmReset src s) = look ρ s := by
  unfold warmReset
  (repeat' split) <;> first | with_reducible rfl | simp [*]

@[simp] theorem coldReset_look {β : Type} (ρ : State → β) (hρ : ∀ (t : State) hi cfg tm ec ev pm ck jtag pins ov cairn
    np si erg cv ts sc al aq am counters ctrLatch, look ρ { t with hi := hi, cfg := cfg, tm := tm, ec := ec, ev := ev, pm := pm, ck := ck, jtag := jtag, pins := pins, ov := ov, cairn := cairn, np := np, si := si, erg := erg, cv := cv, ts := ts, sc := sc, al := al, aq := aq, am := am, counters := counters, ctrLatch := ctrLatch }
    = look ρ t) (src : ResetSource) (s : State) : look ρ (coldReset src s) = look ρ s := by
  unfold coldReset
  (repeat' split) <;> first | with_reducible rfl | simp [*]

@[simp] theorem resetDevice_look {β : Type} (ρ : State → β) (hρ : ∀ (t : State) hi cfg tm ec ev pm ck jtag pins ov
    cairn np si erg cv ts sc al aq am counters ctrLatch, look ρ { t with hi := hi, cfg := cfg, tm := tm, ec := ec, ev := ev, pm := pm, ck := ck, jtag := jtag, pins := pins, ov := ov, cairn := cairn, np := np, si := si, erg := erg, cv := cv, ts := ts, sc := sc, al := al, aq := aq, am := am, counters := counters, ctrLatch := ctrLatch }
    = look ρ t) (src : ResetSource) (s : State) : look ρ (resetDevice src s) = look ρ s := by
  unfold resetDevice
  (repeat' split) <;> first | with_reducible rfl | simp [*]

@[simp] theorem zeroize_look {β : Type} (ρ : State → β) (hρ : ∀ (t : State) ov np, look ρ { t with ov := ov, np := np }
    = look ρ t) (cause : Nat) (s : State) : look ρ (zeroize cause s) = look ρ s := by
  unfold zeroize
  (repeat' split) <;> first | with_reducible rfl | simp [*]

@[simp] theorem abandonSave_look {β : Type} (ρ : State → β) (hρ : ∀ (t : State) hi ev counters out, look ρ { t with hi := hi, ev := ev, counters := counters, out := out }
    = look ρ t) (s : State) : look ρ (abandonSave s) = look ρ s := by
  unfold abandonSave
  (repeat' split) <;> first | with_reducible rfl | simp [*]

@[simp] theorem startPfw_look {β : Type} (ρ : State → β) (hρ : ∀ (t : State) hi tm ev pm cairn am counters out
    freeCtr, look ρ { t with hi := hi, tm := tm, ev := ev, pm := pm, cairn := cairn, am := am, counters := counters, out := out, freeCtr := freeCtr }
    = look ρ t) (dur : Nat) (s : State) : look ρ (startPfw dur s) = look ρ s := by
  unfold startPfw
  (repeat' split) <;> first | with_reducible rfl | simp [*]

theorem execZeroizeCause_look {β : Type} (ρ : State → β) (hρ : ∀ (t : State) hi cfg tm ec ev pm ck jtag pins ov cairn
    np si erg cv ts sc al aq am counters ctrLatch, look ρ { t with hi := hi, cfg := cfg, tm := tm, ec := ec, ev := ev, pm := pm, ck := ck, jtag := jtag, pins := pins, ov := ov, cairn := cairn, np := np, si := si, erg := erg, cv := cv, ts := ts, sc := sc, al := al, aq := aq, am := am, counters := counters, ctrLatch := ctrLatch }
    = look ρ t) (cause : Nat) (s : State) : ∃ σ, execZeroizeCause cause s = .next σ ∧ look ρ σ = look ρ s := by
  refine ⟨_, rfl, ?_⟩; (repeat' split) <;> first | with_reducible rfl | simp [*]

theorem execWarmResetTakesHold_look {β : Type} (ρ : State → β) (hρ : ∀ (t : State) hi cfg tm ec ev pm ck jtag pins ov
    cairn np si erg cv ts sc al aq am counters ctrLatch, look ρ { t with hi := hi, cfg := cfg, tm := tm, ec := ec, ev := ev, pm := pm, ck := ck, jtag := jtag, pins := pins, ov := ov, cairn := cairn, np := np, si := si, erg := erg, cv := cv, ts := ts, sc := sc, al := al, aq := aq, am := am, counters := counters, ctrLatch := ctrLatch }
    = look ρ t) (s : State) : ∃ σ, execWarmResetTakesHold s = .next σ ∧ look ρ σ = look ρ s := by
  refine ⟨_, rfl, ?_⟩; (repeat' split) <;> first | with_reducible rfl | simp [*]

theorem execInternalReset_look {β : Type} (ρ : State → β) (hρ : ∀ (t : State) hi cfg tm ec ev pm ck jtag pins ov cairn
    np si erg cv ts sc al aq am counters ctrLatch, look ρ { t with hi := hi, cfg := cfg, tm := tm, ec := ec, ev := ev, pm := pm, ck := ck, jtag := jtag, pins := pins, ov := ov, cairn := cairn, np := np, si := si, erg := erg, cv := cv, ts := ts, sc := sc, al := al, aq := aq, am := am, counters := counters, ctrLatch := ctrLatch }
    = look ρ t) (s : State) : ∃ σ, execInternalReset s = .next σ ∧ look ρ σ = look ρ s := by
  refine ⟨_, rfl, ?_⟩; (repeat' split) <;> first | with_reducible rfl | simp [*]

theorem execLifecycleWipe_look {β : Type} (ρ : State → β) (hρ : ∀ (t : State) hi cfg tm ec ev pm ck jtag pins ov cairn
    np si erg cv ts sc al aq am counters ctrLatch, look ρ { t with hi := hi, cfg := cfg, tm := tm, ec := ec, ev := ev, pm := pm, ck := ck, jtag := jtag, pins := pins, ov := ov, cairn := cairn, np := np, si := si, erg := erg, cv := cv, ts := ts, sc := sc, al := al, aq := aq, am := am, counters := counters, ctrLatch := ctrLatch }
    = look ρ t) (s : State) : ∃ σ, execLifecycleWipe s = .next σ ∧ look ρ σ = look ρ s := by
  refine ⟨_, rfl, ?_⟩; (repeat' split) <;> first | with_reducible rfl | simp [*]

theorem execPowerOnDetect_look {β : Type} (ρ : State → β) (hρ : ∀ (t : State) hi cfg tm ec ev pm ck jtag pins ov cairn
    np si erg cv ts sc al aq am counters ctrLatch, look ρ { t with hi := hi, cfg := cfg, tm := tm, ec := ec, ev := ev, pm := pm, ck := ck, jtag := jtag, pins := pins, ov := ov, cairn := cairn, np := np, si := si, erg := erg, cv := cv, ts := ts, sc := sc, al := al, aq := aq, am := am, counters := counters, ctrLatch := ctrLatch }
    = look ρ t) (railsOk : Bool) (s : State) : ∃ σ, execPowerOnDetect railsOk s = .next σ ∧ look ρ σ = look ρ s := by
  refine ⟨_, rfl, ?_⟩; (repeat' split) <;> first | with_reducible rfl | simp [*]

theorem execBallastWriteEnd_look {β : Type} (ρ : State → β) (hρ : ∀ (t : State) hi cfg tm ec ev pm ck jtag pins ov
    cairn np si erg cv ts sc al aq am counters ctrLatch out, look ρ { t with hi := hi, cfg := cfg, tm := tm, ec := ec, ev := ev, pm := pm, ck := ck, jtag := jtag, pins := pins, ov := ov, cairn := cairn, np := np, si := si, erg := erg, cv := cv, ts := ts, sc := sc, al := al, aq := aq, am := am, counters := counters, ctrLatch := ctrLatch, out := out }
    = look ρ t) (s : State) : ∃ σ, execBallastWriteEnd s = .next σ ∧ look ρ σ = look ρ s := by
  refine ⟨_, rfl, ?_⟩; (repeat' split) <;> first | with_reducible rfl | simp [*]

theorem execResetTakesHold_look {β : Type} (ρ : State → β) (hρ : ∀ (t : State) hi cfg tm ec ev pm ck jtag pins ov
    cairn np si erg cv ts sc al aq am counters ctrLatch, look ρ { t with hi := hi, cfg := cfg, tm := tm, ec := ec, ev := ev, pm := pm, ck := ck, jtag := jtag, pins := pins, ov := ov, cairn := cairn, np := np, si := si, erg := erg, cv := cv, ts := ts, sc := sc, al := al, aq := aq, am := am, counters := counters, ctrLatch := ctrLatch }
    = look ρ t) (s : State) : ∃ σ, execResetTakesHold s = .next σ ∧ look ρ σ = look ρ s := by
  refine ⟨_, rfl, ?_⟩; (repeat' split) <;> first | with_reducible rfl | simp [*]

end Sys2Proof.Machine
end

