-- ==== Sys2Proof/Laws/LookVault.lean ====
section
/-! SUPPORT. What the operations of Machine/Vault.lean leave alone. -/

namespace Sys2Proof.Machine

@[simp] theorem countRevoked_look {β : Type} (ρ : State → β) (hρ : ∀ (t : State) counters, look ρ { t with counters := counters }
    = look ρ t) (st : Nat) (s : State) : look ρ (countRevoked st s) = look ρ s := by
  unfold countRevoked
  (repeat' split) <;> first | with_reducible rfl | simp [*]

@[simp] theorem putKey_look {β : Type} (ρ : State → β) (hρ : ∀ (t : State) ov, look ρ { t with ov := ov } = look ρ t)
    (n : Nat) (k : Slot) (s : State) : look ρ (putKey n k s) = look ρ s := by
  unfold putKey
  (repeat' split) <;> first | with_reducible rfl | simp [*]

@[simp] theorem disableSas_look {β : Type} (ρ : State → β) (hρ : ∀ (t : State) hi ev np counters out, look ρ { t with hi := hi, ev := ev, np := np, counters := counters, out := out }
    = look ρ t) (n : Nat) (s : State) : look ρ (disableSas n s) = look ρ s := by
  unfold disableSas
  rw [look_foldl]
  intro s a
  dsimp only
  simp [*]

@[simp] theorem quarantineBound_look {β : Type} (ρ : State → β) (hρ : ∀ (t : State) hi ev si counters out, look ρ { t with hi := hi, ev := ev, si := si, counters := counters, out := out }
    = look ρ t) (n : Nat) (s : State) : look ρ (quarantineBound n s) = look ρ s := by
  simp only [quarantineBound] <;> repeat' first
    | with_reducible rfl | (simp [*]; done) | split | rw [look_foldl] | intro _ | dsimp only

@[simp] theorem tellConsumers_look {β : Type} (ρ : State → β) (hρ : ∀ (t : State) hi ev np si erg counters out, look ρ
    { t with hi := hi, ev := ev, np := np, si := si, erg := erg, counters := counters, out := out } = look ρ t) (n :
    Nat) (s : State) : look ρ (tellConsumers n s) = look ρ s := by
  simp [tellConsumers, *]

@[simp] theorem orphanFrom_look {β : Type} (ρ : State → β) (hρ : ∀ (t : State) hi ev ov np si erg counters out, look ρ
    { t with hi := hi, ev := ev, ov := ov, np := np, si := si, erg := erg, counters := counters, out := out } = look ρ
    t) (root n : Nat) (l : List Nat) (s : State) : look ρ (orphanFrom root n l s).1 = look ρ s := by
  induction n generalizing l s with
  | zero => simp [orphanFrom]
  | succ n ih =>
    simp only [orphanFrom]
    split
    · simp
    · simp only [ih]
      rw [look_foldl]; intro s a; split <;> simp [*]

@[simp] theorem destroySlot_look {β : Type} (ρ : State → β) (hρ : ∀ (t : State) hi ev ov np si erg counters out, look
    ρ { t with hi := hi, ev := ev, ov := ov, np := np, si := si, erg := erg, counters := counters, out := out } = look
    ρ t) (n : Nat) (s : State) : look ρ (destroySlot n s).1 = look ρ s := by
  unfold destroySlot
  (repeat' split) <;> simp_all

@[simp] theorem writeEntry_look {β : Type} (ρ : State → β) (hρ : ∀ (t : State) ov, look ρ { t with ov := ov } = look ρ
    t) (p : KeyP) (s : State) : look ρ (writeEntry p s) = look ρ s := by
  unfold writeEntry
  (repeat' split) <;> first | with_reducible rfl | simp [*]

@[simp] theorem commitKeys_look {β : Type} (ρ : State → β) (hρ : ∀ (t : State) hi ev ov np si erg counters out, look ρ
    { t with hi := hi, ev := ev, ov := ov, np := np, si := si, erg := erg, counters := counters, out := out } = look ρ
    t) (keys : List KeyP) (s : State) : look ρ (commitKeys keys s) = look ρ s := by
  unfold commitKeys
  (repeat' split) <;> first | with_reducible rfl | simp [*]

@[simp] theorem drawRandom_look {β : Type} (ρ : State → β) (hρ : ∀ (t : State) ov counters freeCtr, look ρ { t with ov := ov, counters := counters, freeCtr := freeCtr }
    = look ρ t) (s : State) : look ρ (drawRandom s).2 = look ρ s := by
  simp only [drawRandom]
  (repeat' split) <;> first | with_reducible rfl | simp [*]

@[simp] theorem takeStatement_look {β : Type} (ρ : State → β) (hρ : ∀ (t : State) hi ev cairn counters out, look ρ { t with hi := hi, ev := ev, cairn := cairn, counters := counters, out := out }
    = look ρ t) (s : State) : look ρ (takeStatement s) = look ρ s := by
  unfold takeStatement
  (repeat' split) <;> first | with_reducible rfl | simp [*]

theorem execEntropyFail_look {β : Type} (ρ : State → β) (hρ : ∀ (t : State) hi ev ov counters out, look ρ { t with hi := hi, ev := ev, ov := ov, counters := counters, out := out }
    = look ρ t) (test : Nat) (s : State) : ∃ σ, execEntropyFail test s = .next σ ∧ look ρ σ = look ρ s := by
  refine ⟨_, rfl, ?_⟩; (repeat' split) <;> first | with_reducible rfl | simp [*]

theorem execEntropyRetest_look {β : Type} (ρ : State → β) (hρ : ∀ (t : State) hi ev ov counters out, look ρ { t with hi := hi, ev := ev, ov := ov, counters := counters, out := out }
    = look ρ t) (passed : Nat) (s : State) : ∃ σ, execEntropyRetest passed s = .next σ ∧ look ρ σ = look ρ s := by
  refine ⟨_, rfl, ?_⟩; (repeat' split) <;> first | with_reducible rfl | simp [*]

theorem execDrbgReseed_look {β : Type} (ρ : State → β) (hρ : ∀ (t : State) ov counters, look ρ { t with ov := ov, counters := counters }
    = look ρ t) (s : State) : ∃ σ, execDrbgReseed s = .next σ ∧ look ρ σ = look ρ s := by
  refine ⟨_, rfl, ?_⟩; (repeat' split) <;> first | with_reducible rfl | simp [*]

end Sys2Proof.Machine
end

