-- ==== Sys2Proof/Laws/LookPower.lean ====
section
/-! SUPPORT. What the operations of Machine/Power.lean leave alone. -/

namespace Sys2Proof.Machine

@[simp] theorem dropPulses_look {β : Type} (ρ : State → β) (hρ : ∀ (t : State) al, look ρ { t with al := al } = look ρ
    t) (s : State) : look ρ (dropPulses s) = look ρ s := by
  unfold dropPulses
  (repeat' split) <;> first | with_reducible rfl | simp [*]

@[simp] theorem stopBlock_look {β : Type} (ρ : State → β) (hρ : ∀ (t : State) hi ev erg cv al counters out, look ρ { t with hi := hi, ev := ev, erg := erg, cv := cv, al := al, counters := counters, out := out }
    = look ρ t) (order : Nat) (s : State) : look ρ (stopBlock order s) = look ρ s := by
  unfold stopBlock
  (repeat' split) <;> first | with_reducible rfl | simp [*]

@[simp] theorem portsOff_look {β : Type} (ρ : State → β) (hρ : ∀ (t : State) hi tm ev pm cairn np si counters out,
    look ρ { t with hi := hi, tm := tm, ev := ev, pm := pm, cairn := cairn, np := np, si := si, counters := counters, out := out }
    = look ρ t) (s : State) : look ρ (portsOff s) = look ρ s := by
  unfold portsOff
  (repeat' split) <;> first | with_reducible rfl | simp [*]

@[simp] theorem playaOff_look {β : Type} (ρ : State → β) (hρ : ∀ (t : State) cv ts sc, look ρ { t with cv := cv, ts := ts, sc := sc }
    = look ρ t) (s : State) : look ρ (playaOff s) = look ρ s := by
  unfold playaOff
  (repeat' split) <;> first | with_reducible rfl | simp [*]

@[simp] theorem enterDoze_look {β : Type} (ρ : State → β) (hρ : ∀ (t : State) hi tm ev pm cairn np si cv ts sc
    counters out, look ρ { t with hi := hi, tm := tm, ev := ev, pm := pm, cairn := cairn, np := np, si := si, cv := cv, ts := ts, sc := sc, counters := counters, out := out }
    = look ρ t) (handle : Nat) (s : State) : look ρ (enterDoze handle s) = look ρ s := by
  simp only [enterDoze]
  (repeat' split) <;> first | with_reducible rfl | simp [*]

@[simp] theorem nextBlock_look {β : Type} (ρ : State → β) (hρ : ∀ (t : State) hi tm ev pm cairn np si cv ts sc
    counters out, look ρ { t with hi := hi, tm := tm, ev := ev, pm := pm, cairn := cairn, np := np, si := si, cv := cv, ts := ts, sc := sc, counters := counters, out := out }
    = look ρ t) (hs : Handshake) (s : State) : look ρ (nextBlock hs s) = look ρ s := by
  simp [nextBlock, *]

@[simp] theorem takeAnswer_look {β : Type} (ρ : State → β) (hρ : ∀ (t : State) hi tm ev pm cairn np si erg cv ts sc al
    aq counters out freeCtr, look ρ { t with hi := hi, tm := tm, ev := ev, pm := pm, cairn := cairn, np := np, si := si, erg := erg, cv := cv, ts := ts, sc := sc, al := al, aq := aq, counters := counters, out := out, freeCtr := freeCtr }
    = look ρ t) (hs : Handshake) (a : HsAnswer) (s : State) : look ρ (takeAnswer hs a s) = look ρ s := by
  unfold takeAnswer
  (repeat' split) <;> simp_all

@[simp] theorem mi2cMatch_look {β : Type} (ρ : State → β) (hρ : ∀ (t : State) hi ev pm erg aq counters out freeCtr,
    look ρ { t with hi := hi, ev := ev, pm := pm, erg := erg, aq := aq, counters := counters, out := out, freeCtr := freeCtr }
    = look ρ t) (s : State) : look ρ (mi2cMatch s) = look ρ s := by
  unfold mi2cMatch
  (repeat' split) <;> first | with_reducible rfl | simp [*]

@[simp] theorem wakeEngines_look {β : Type} (ρ : State → β) (hρ : ∀ (t : State) hi ev cv counters out, look ρ { t with hi := hi, ev := ev, cv := cv, counters := counters, out := out }
    = look ρ t) (passed : List Nat) (s : State) : look ρ (wakeEngines passed s) = look ρ s := by
  unfold wakeEngines
  (repeat' split) <;> first | with_reducible rfl | simp [*]

@[simp] theorem wakeRefac_look {β : Type} (ρ : State → β) (hρ : ∀ (t : State) hi ev cv ts counters out freeCtr, look ρ
    { t with hi := hi, ev := ev, cv := cv, ts := ts, counters := counters, out := out, freeCtr := freeCtr } = look ρ
    t) (s : State) : look ρ (wakeRefac s) = look ρ s := by
  unfold wakeRefac
  (repeat' split) <;> first | with_reducible rfl | simp [*]

@[simp] theorem wakeUp_look {β : Type} (ρ : State → β) (hρ : ∀ (t : State) hi ec ev pm np si erg cv ts sc aq am
    counters out freeCtr, look ρ { t with hi := hi, ec := ec, ev := ev, pm := pm, np := np, si := si, erg := erg, cv := cv, ts := ts, sc := sc, aq := aq, am := am, counters := counters, out := out, freeCtr := freeCtr }
    = look ρ t) (passed : List Nat) (s : State) : look ρ (wakeUp passed s) = look ρ s := by
  simp [wakeUp, *]

@[simp] theorem endFreeze_look {β : Type} (ρ : State → β) (hρ : ∀ (t : State) hi tm ev pm cairn np si erg aq am
    counters out freeCtr, look ρ { t with hi := hi, tm := tm, ev := ev, pm := pm, cairn := cairn, np := np, si := si, erg := erg, aq := aq, am := am, counters := counters, out := out, freeCtr := freeCtr }
    = look ρ t) (s : State) : look ρ (endFreeze s) = look ρ s := by
  unfold endFreeze
  (repeat' split) <;> first | with_reducible rfl | simp [*]

@[simp] theorem resumeMeters_look {β : Type} (ρ : State → β) (hρ : ∀ (t : State) am, look ρ { t with am := am } = look
    ρ t) (s : State) : look ρ (resumeMeters s) = look ρ s := by
  unfold resumeMeters
  (repeat' split) <;> first | with_reducible rfl | simp [*]

@[simp] theorem endIgnore_look {β : Type} (ρ : State → β) (hρ : ∀ (t : State) hi ev pm erg am counters out freeCtr,
    look ρ { t with hi := hi, ev := ev, pm := pm, erg := erg, am := am, counters := counters, out := out, freeCtr := freeCtr }
    = look ρ t) (s : State) : look ρ (endIgnore s) = look ρ s := by
  unfold endIgnore
  (repeat' split) <;> first | with_reducible rfl | simp [*]

@[simp] theorem cairnReleased_look {β : Type} (ρ : State → β) (hρ : ∀ (t : State) hi ev pm erg aq am counters out
    freeCtr, look ρ { t with hi := hi, ev := ev, pm := pm, erg := erg, aq := aq, am := am, counters := counters, out := out, freeCtr := freeCtr }
    = look ρ t) (s : State) : look ρ (cairnReleased s) = look ρ s := by
  unfold cairnReleased
  (repeat' split) <;> first | with_reducible rfl | simp [*]

@[simp] theorem ckSettle_look {β : Type} (ρ : State → β) (hρ : ∀ (t : State) hi ev pm ck counters out, look ρ { t with hi := hi, ev := ev, pm := pm, ck := ck, counters := counters, out := out }
    = look ρ t) (s : State) : look ρ (ckSettle s) = look ρ s := by
  unfold ckSettle
  (repeat' split) <;> first | with_reducible rfl | simp [*]

@[simp] theorem switchPll_look {β : Type} (ρ : State → β) (hρ : ∀ (t : State) hi ev ck counters out, look ρ { t with hi := hi, ev := ev, ck := ck, counters := counters, out := out }
    = look ρ t) (cause : Nat) (s : State) : look ρ (switchPll cause s) = look ρ s := by
  unfold switchPll
  (repeat' split) <;> first | with_reducible rfl | simp [*]

@[simp] theorem markFailed_look {β : Type} (ρ : State → β) (hρ : ∀ (t : State) ck, look ρ { t with ck := ck } = look ρ
    t) (what which : Nat) (s : State) : look ρ (markFailed what which s) = look ρ s := by
  unfold markFailed
  (repeat' split) <;> first | with_reducible rfl | simp [*]

@[simp] theorem takeOverPll_look {β : Type} (ρ : State → β) (hρ : ∀ (t : State) hi ev pm ck counters out, look ρ { t with hi := hi, ev := ev, pm := pm, ck := ck, counters := counters, out := out }
    = look ρ t) (hit : Bool) (cause : Nat) (s : State) : look ρ (takeOverPll hit cause s) = look ρ s := by
  unfold takeOverPll
  (repeat' split) <;> first | with_reducible rfl | simp [*]

theorem execHandshakeAnswer_look {β : Type} (ρ : State → β) (hρ : ∀ (t : State) hi tm ev pm cairn np si erg cv ts sc
    al aq counters out freeCtr, look ρ { t with hi := hi, tm := tm, ev := ev, pm := pm, cairn := cairn, np := np, si := si, erg := erg, cv := cv, ts := ts, sc := sc, al := al, aq := aq, counters := counters, out := out, freeCtr := freeCtr }
    = look ρ t) (a : HsAnswer) (s : State) : ∃ σ, execHandshakeAnswer a s = .next σ ∧ look ρ σ = look ρ s := by
  refine ⟨_, rfl, ?_⟩; (repeat' split) <;> first | with_reducible rfl | simp [*]

theorem execHandshakeDelayEnd_look {β : Type} (ρ : State → β) (hρ : ∀ (t : State) pm, look ρ { t with pm := pm } =
    look ρ t) (s : State) : ∃ σ, execHandshakeDelayEnd s = .next σ ∧ look ρ σ = look ρ s := by
  refine ⟨_, rfl, ?_⟩; (repeat' split) <;> first | with_reducible rfl | simp [*]

theorem execMi2cAddressMatch_look {β : Type} (ρ : State → β) (hρ : ∀ (t : State) hi ev pm erg aq counters out freeCtr,
    look ρ { t with hi := hi, ev := ev, pm := pm, erg := erg, aq := aq, counters := counters, out := out, freeCtr := freeCtr }
    = look ρ t) (s : State) : ∃ σ, execMi2cAddressMatch s = .next σ ∧ look ρ σ = look ρ s := by
  refine ⟨_, rfl, ?_⟩; (repeat' split) <;> first | with_reducible rfl | simp [*]

theorem execPfwNFall_look {β : Type} (ρ : State → β) (hρ : ∀ (t : State) hi tm ev pm pins cairn np si erg aq am
    counters out freeCtr, look ρ { t with hi := hi, tm := tm, ev := ev, pm := pm, pins := pins, cairn := cairn, np := np, si := si, erg := erg, aq := aq, am := am, counters := counters, out := out, freeCtr := freeCtr }
    = look ρ t) (s : State) : ∃ σ, execPfwNFall s = .next σ ∧ look ρ σ = look ρ s := by
  refine ⟨_, rfl, ?_⟩; (repeat' split) <;> first | with_reducible rfl | simp [*]

theorem execPfwQualified_look {β : Type} (ρ : State → β) (hρ : ∀ (t : State) hi tm ev pm cairn am counters out
    freeCtr, look ρ { t with hi := hi, tm := tm, ev := ev, pm := pm, cairn := cairn, am := am, counters := counters, out := out, freeCtr := freeCtr }
    = look ρ t) (durTenthUs : Nat) (s : State) : ∃ σ, execPfwQualified durTenthUs s = .next σ ∧ look ρ σ = look ρ s := by
  refine ⟨_, rfl, ?_⟩; (repeat' split) <;> first | with_reducible rfl | simp [*]

theorem execPfwNRise_look {β : Type} (ρ : State → β) (hρ : ∀ (t : State) hi ev pm pins erg am counters out freeCtr,
    look ρ { t with hi := hi, ev := ev, pm := pm, pins := pins, erg := erg, am := am, counters := counters, out := out, freeCtr := freeCtr }
    = look ρ t) (s : State) : ∃ σ, execPfwNRise s = .next σ ∧ look ρ σ = look ρ s := by
  refine ⟨_, rfl, ?_⟩; (repeat' split) <;> first | with_reducible rfl | simp [*]

theorem execCairnRelease_look {β : Type} (ρ : State → β) (hρ : ∀ (t : State) hi ev pm erg aq am counters out freeCtr,
    look ρ { t with hi := hi, ev := ev, pm := pm, erg := erg, aq := aq, am := am, counters := counters, out := out, freeCtr := freeCtr }
    = look ρ t) (s : State) : ∃ σ, execCairnRelease s = .next σ ∧ look ρ σ = look ρ s := by
  refine ⟨_, rfl, ?_⟩; (repeat' split) <;> first | with_reducible rfl | simp [*]

theorem execResetNQualified_look {β : Type} (ρ : State → β) (hρ : ∀ (t : State) hi tm ev pm pins cairn np si erg aq am
    counters out freeCtr, look ρ { t with hi := hi, tm := tm, ev := ev, pm := pm, pins := pins, cairn := cairn, np := np, si := si, erg := erg, aq := aq, am := am, counters := counters, out := out, freeCtr := freeCtr }
    = look ρ t) (durTenthUs : Nat) (s : State) : ∃ σ, execResetNQualified durTenthUs s = .next σ ∧ look ρ σ = look ρ s
    := by
  refine ⟨_, rfl, ?_⟩; (repeat' split) <;> first | with_reducible rfl | simp [*]

theorem execRefFail_look {β : Type} (ρ : State → β) (hρ : ∀ (t : State) hi ev pm ck counters out, look ρ { t with hi := hi, ev := ev, pm := pm, ck := ck, counters := counters, out := out }
    = look ρ t) (what which : Nat) (s : State) : ∃ σ, execRefFail what which s = .next σ ∧ look ρ σ = look ρ s := by
  refine ⟨_, rfl, ?_⟩; (repeat' split) <;> first | with_reducible rfl | simp [*]

theorem execRefQualified_look {β : Type} (ρ : State → β) (hρ : ∀ (t : State) hi ev pm ck counters out, look ρ { t with hi := hi, ev := ev, pm := pm, ck := ck, counters := counters, out := out }
    = look ρ t) (what which : Nat) (s : State) : ∃ σ, execRefQualified what which s = .next σ ∧ look ρ σ = look ρ s := by
  refine ⟨_, rfl, ?_⟩; (repeat' split) <;> first | with_reducible rfl | simp [*]

theorem execPllRevert_look {β : Type} (ρ : State → β) (hρ : ∀ (t : State) hi ev pm ck counters out, look ρ { t with hi := hi, ev := ev, pm := pm, ck := ck, counters := counters, out := out }
    = look ρ t) (s : State) : ∃ σ, execPllRevert s = .next σ ∧ look ρ σ = look ρ s := by
  refine ⟨_, rfl, ?_⟩; (repeat' split) <;> first | with_reducible rfl | simp [*]

end Sys2Proof.Machine
end

