-- ==== Sys2Proof/Laws/LookRegs.lean ====
section
/-! SUPPORT. What the operations of Machine/Regs.lean leave alone. -/

namespace Sys2Proof.Machine

@[simp] theorem setOffAccess_look {β : Type} (ρ : State → β) (hρ : ∀ (t : State) hi out, look ρ { t with hi := hi, out := out }
    = look ρ t) (s : State) : look ρ (setOffAccess s) = look ρ s := by
  unfold setOffAccess
  (repeat' split) <;> first | with_reducible rfl | simp [*]

@[simp] theorem readReg_look {β : Type} (ρ : State → β) (hρ : ∀ (t : State) hi out freeCtr, look ρ { t with hi := hi, out := out, freeCtr := freeCtr }
    = look ρ t) (off : Nat) (s : State) : look ρ (readReg off s).2 = look ρ s := by
  unfold readReg
  (repeat' split) <;> first | with_reducible rfl | simp [*]

end Sys2Proof.Machine
end

