-- ==== Sys2Proof/Laws/LookSysCmd.lean ====
section
/-! SUPPORT. What the operations of Machine/SysCmd.lean leave alone. -/

namespace Sys2Proof.Machine

@[simp] theorem lookAt_look {β : Type} (ρ : State → β) (hρ : ∀ (t : State) hi freeCtr, look ρ { t with hi := hi, freeCtr := freeCtr }
    = look ρ t) (handle : Nat) (s : State) : look ρ (lookAt handle s) = look ρ s := by
  unfold lookAt
  (repeat' split) <;> first | with_reducible rfl | simp [*]

@[simp] theorem queryHandle_look {β : Type} (ρ : State → β) (hρ : ∀ (t : State) hi freeCtr, look ρ { t with hi := hi, freeCtr := freeCtr }
    = look ρ t) (handle : Nat) (s : State) : look ρ (queryHandle handle s).state = look ρ s := by
  unfold queryHandle
  (repeat' split) <;> first | with_reducible rfl | simp [*]

@[simp] theorem cancelEffect_look {β : Type} (ρ : State → β) (hρ : ∀ (t : State) pm np cv, look ρ { t with pm := pm, np := np, cv := cv }
    = look ρ t) (o : OpEntry) (s : State) : look ρ (cancelEffect o s) = look ρ s := by
  unfold cancelEffect
  (repeat' split) <;> first | with_reducible rfl | simp [*]

@[simp] theorem cancelHandle_look {β : Type} (ρ : State → β) (hρ : ∀ (t : State) hi ev pm np cv counters out freeCtr,
    look ρ { t with hi := hi, ev := ev, pm := pm, np := np, cv := cv, counters := counters, out := out, freeCtr := freeCtr }
    = look ρ t) (handle : Nat) (s : State) : look ρ (cancelHandle handle s).state = look ρ s := by
  unfold cancelHandle
  (repeat' split) <;> first | with_reducible rfl | simp [*]

@[simp] theorem lowerLines_look {β : Type} (ρ : State → β) (hρ : ∀ (t : State) al, look ρ { t with al := al } = look ρ
    t) (s : State) : look ρ (lowerLines s) = look ρ s := by
  unfold lowerLines
  (repeat' split) <;> first | with_reducible rfl | simp [*]

@[simp] theorem enterProvision_look {β : Type} (ρ : State → β) (hρ : ∀ (t : State) hi ev pm erg cv al am counters out,
    look ρ { t with hi := hi, ev := ev, pm := pm, erg := erg, cv := cv, al := al, am := am, counters := counters, out := out }
    = look ρ t) (s : State) : look ρ (enterProvision s) = look ρ s := by
  unfold enterProvision
  (repeat' split) <;> first | with_reducible rfl | simp [*]

@[simp] theorem enterCommission_look {β : Type} (ρ : State → β) (hρ : ∀ (t : State) hi ev pm erg al am counters out,
    look ρ { t with hi := hi, ev := ev, pm := pm, erg := erg, al := al, am := am, counters := counters, out := out } =
    look ρ t) (s : State) : look ρ (enterCommission s) = look ρ s := by
  unfold enterCommission
  (repeat' split) <;> first | with_reducible rfl | simp [*]

@[simp] theorem enterService_look {β : Type} (ρ : State → β) (hρ : ∀ (t : State) hi ev pm al counters out, look ρ { t with hi := hi, ev := ev, pm := pm, al := al, counters := counters, out := out }
    = look ρ t) (s : State) : look ρ (enterService s) = look ρ s := by
  unfold enterService
  (repeat' split) <;> first | with_reducible rfl | simp [*]

@[simp] theorem finishSetMode_look {β : Type} (ρ : State → β) (hρ : ∀ (t : State) hi ev pm erg cv al am counters out,
    look ρ { t with hi := hi, ev := ev, pm := pm, erg := erg, cv := cv, al := al, am := am, counters := counters, out := out }
    = look ρ t) (o : OpEntry) (target : Nat) (hwFault : Bool) (s : State) : look ρ (finishSetMode o target hwFault s)
    = look ρ s := by
  unfold finishSetMode
  (repeat' split) <;> first | with_reducible rfl | simp [*]

@[simp] theorem askWarmReset_look {β : Type} (ρ : State → β) (hρ : ∀ (t : State) hi ev pm counters out, look ρ { t with hi := hi, ev := ev, pm := pm, counters := counters, out := out }
    = look ρ t) (s : State) : look ρ (askWarmReset s) = look ρ s := by
  unfold askWarmReset
  (repeat' split) <;> first | with_reducible rfl | simp [*]

@[simp] theorem rewindNq_look {β : Type} (ρ : State → β) (hρ : ∀ (t : State) hi out, look ρ { t with hi := hi, out := out }
    = look ρ t) (q : Nat) (s : State) : look ρ (rewindNq q s).state = look ρ s := by
  unfold rewindNq
  (repeat' split) <;> first | with_reducible rfl | simp [*]

@[simp] theorem releaseNq_look {β : Type} (ρ : State → β) (hρ : ∀ (t : State) hi, look ρ { t with hi := hi } = look ρ
    t) (q k : Nat) (s : State) : look ρ (releaseNq q k s).state = look ρ s := by
  unfold releaseNq
  (repeat' split) <;> first | with_reducible rfl | simp [*]

@[simp] theorem procSysNop_look {β : Type} (ρ : State → β)  (h : Hdr) (s : State) : (procSysNop h s).work.Look ρ := by
  simp [procSysNop, Work.Look, *]

@[simp] theorem procSysIdentify_look {β : Type} (ρ : State → β)  (h : Hdr) (s : State) : (procSysIdentify h
    s).work.Look ρ := by
  simp [procSysIdentify, Work.Look, *]

@[simp] theorem procSysQueryHandle_look {β : Type} (ρ : State → β) (hρ : ∀ (t : State) hi freeCtr, look ρ { t with hi := hi, freeCtr := freeCtr }
    = look ρ t) (h : Hdr) (handle : Nat) (s : State) : (procSysQueryHandle h handle s).work.Look ρ := by
  simp [procSysQueryHandle, Work.Look, *]

@[simp] theorem procSysCancel_look {β : Type} (ρ : State → β) (hρ : ∀ (t : State) hi ev pm np cv counters out freeCtr,
    look ρ { t with hi := hi, ev := ev, pm := pm, np := np, cv := cv, counters := counters, out := out, freeCtr := freeCtr }
    = look ρ t) (h : Hdr) (handle : Nat) (s : State) : (procSysCancel h handle s).work.Look ρ := by
  simp [procSysCancel, Work.Look, *]

@[simp] theorem procSysSetMode_look {β : Type} (ρ : State → β) (hρ : ∀ (t : State) pm, look ρ { t with pm := pm } =
    look ρ t) (h : Hdr) (target : Nat) (s : State) : (procSysSetMode h target s).work.Look ρ := by
  unfold procSysSetMode; dsimp only; (repeat' split) <;> simp [Work.Look, *]

@[simp] theorem procSysFreeze_look {β : Type} (ρ : State → β) (hρ : ∀ (t : State) hi ev pm erg am counters out
    freeCtr, look ρ { t with hi := hi, ev := ev, pm := pm, erg := erg, am := am, counters := counters, out := out, freeCtr := freeCtr }
    = look ρ t) (h : Hdr) (s : State) : (procSysFreeze h s).work.Look ρ := by
  simp [procSysFreeze, Work.Look, *]

@[simp] theorem procSysThaw_look {β : Type} (ρ : State → β) (hρ : ∀ (t : State) hi tm ev pm cairn np si erg aq am
    counters out freeCtr, look ρ { t with hi := hi, tm := tm, ev := ev, pm := pm, cairn := cairn, np := np, si := si, erg := erg, aq := aq, am := am, counters := counters, out := out, freeCtr := freeCtr }
    = look ρ t) (h : Hdr) (s : State) : (procSysThaw h s).work.Look ρ := by
  simp [procSysThaw, Work.Look, *]

@[simp] theorem procSysReset_look {β : Type} (ρ : State → β) (hρ : ∀ (t : State) hi ev pm counters out, look ρ { t with hi := hi, ev := ev, pm := pm, counters := counters, out := out }
    = look ρ t) (h : Hdr) (kind : Nat) (s : State) : (procSysReset h kind s).work.Look ρ := by
  simp [procSysReset, Work.Look, *]

@[simp] theorem procSysNqMark_look {β : Type} (ρ : State → β) (hρ : ∀ (t : State) hi, look ρ { t with hi := hi } =
    look ρ t) (h : Hdr) (q : Nat) (s : State) : (procSysNqMark h q s).work.Look ρ := by
  simp [procSysNqMark, Work.Look, *]

@[simp] theorem procSysNqRewind_look {β : Type} (ρ : State → β) (hρ : ∀ (t : State) hi out, look ρ { t with hi := hi, out := out }
    = look ρ t) (h : Hdr) (q : Nat) (s : State) : (procSysNqRewind h q s).work.Look ρ := by
  simp [procSysNqRewind, Work.Look, *]

@[simp] theorem procSysNqRelease_look {β : Type} (ρ : State → β) (hρ : ∀ (t : State) hi, look ρ { t with hi := hi } =
    look ρ t) (h : Hdr) (q count : Nat) (s : State) : (procSysNqRelease h q count s).work.Look ρ := by
  simp [procSysNqRelease, Work.Look, *]

@[simp] theorem procSysClearCounters_look {β : Type} (ρ : State → β) (hρ : ∀ (t : State) hi, look ρ { t with hi := hi }
    = look ρ t) (h : Hdr) (mask : Nat) (s : State) : (procSysClearCounters h mask s).work.Look ρ := by
  simp [procSysClearCounters, Work.Look, *]

theorem execSysNop_look {β : Type} (ρ : State → β) (hρ : ∀ (t : State) hi ev pm ov cairn erg aq counters out freeCtr,
    look ρ { t with hi := hi, ev := ev, pm := pm, ov := ov, cairn := cairn, erg := erg, aq := aq, counters := counters, out := out, freeCtr := freeCtr }
    = look ρ t) (h : Hdr) (s : State) : ∃ σ, execSysNop h s = .next σ ∧ look ρ σ = look ρ s := ⟨_, rfl, runProc_look ρ (by simp [hρ]) _ _ _ (procSysNop_look ρ _ _)⟩

theorem execSysIdentify_look {β : Type} (ρ : State → β) (hρ : ∀ (t : State) hi ev pm ov cairn erg aq counters out
    freeCtr, look ρ { t with hi := hi, ev := ev, pm := pm, ov := ov, cairn := cairn, erg := erg, aq := aq, counters := counters, out := out, freeCtr := freeCtr }
    = look ρ t) (h : Hdr) (s : State) : ∃ σ, execSysIdentify h s = .next σ ∧ look ρ σ = look ρ s := ⟨_, rfl, runProc_look ρ (by simp [hρ]) _ _ _ (procSysIdentify_look ρ _ _)⟩

theorem execSysQueryHandle_look {β : Type} (ρ : State → β) (hρ : ∀ (t : State) hi ev pm ov cairn erg aq counters out
    freeCtr, look ρ { t with hi := hi, ev := ev, pm := pm, ov := ov, cairn := cairn, erg := erg, aq := aq, counters := counters, out := out, freeCtr := freeCtr }
    = look ρ t) (h : Hdr) (handle : Nat) (s : State) : ∃ σ, execSysQueryHandle h handle s = .next σ ∧ look ρ σ = look
    ρ s := ⟨_, rfl, runProc_look ρ (by simp [hρ]) _ _ _ (procSysQueryHandle_look ρ (by simp [hρ]) _ _ _)⟩

theorem execSysCancel_look {β : Type} (ρ : State → β) (hρ : ∀ (t : State) hi ev pm ov cairn np erg cv aq counters out
    freeCtr, look ρ { t with hi := hi, ev := ev, pm := pm, ov := ov, cairn := cairn, np := np, erg := erg, cv := cv, aq := aq, counters := counters, out := out, freeCtr := freeCtr }
    = look ρ t) (h : Hdr) (handle : Nat) (s : State) : ∃ σ, execSysCancel h handle s = .next σ ∧ look ρ σ = look ρ s
    := ⟨_, rfl, runProc_look ρ (by simp [hρ]) _ _ _ (procSysCancel_look ρ (by simp [hρ]) _ _ _)⟩

theorem execSysSetMode_look {β : Type} (ρ : State → β) (hρ : ∀ (t : State) hi ev pm ov cairn erg aq counters out
    freeCtr, look ρ { t with hi := hi, ev := ev, pm := pm, ov := ov, cairn := cairn, erg := erg, aq := aq, counters := counters, out := out, freeCtr := freeCtr }
    = look ρ t) (h : Hdr) (target : Nat) (s : State) : ∃ σ, execSysSetMode h target s = .next σ ∧ look ρ σ = look ρ s
    := ⟨_, rfl, runProc_look ρ (by simp [hρ]) _ _ _ (procSysSetMode_look ρ (by simp [hρ]) _ _ _)⟩

theorem execSysFreeze_look {β : Type} (ρ : State → β) (hρ : ∀ (t : State) hi ev pm ov cairn erg aq am counters out
    freeCtr, look ρ { t with hi := hi, ev := ev, pm := pm, ov := ov, cairn := cairn, erg := erg, aq := aq, am := am, counters := counters, out := out, freeCtr := freeCtr }
    = look ρ t) (h : Hdr) (s : State) : ∃ σ, execSysFreeze h s = .next σ ∧ look ρ σ = look ρ s := ⟨_, rfl, runProc_look ρ (by simp [hρ]) _ _ _ (procSysFreeze_look ρ (by simp [hρ]) _ _)⟩

theorem execSysThaw_look {β : Type} (ρ : State → β) (hρ : ∀ (t : State) hi tm ev pm ov cairn np si erg aq am counters
    out freeCtr, look ρ { t with hi := hi, tm := tm, ev := ev, pm := pm, ov := ov, cairn := cairn, np := np, si := si, erg := erg, aq := aq, am := am, counters := counters, out := out, freeCtr := freeCtr }
    = look ρ t) (h : Hdr) (s : State) : ∃ σ, execSysThaw h s = .next σ ∧ look ρ σ = look ρ s := ⟨_, rfl, runProc_look ρ (by simp [hρ]) _ _ _ (procSysThaw_look ρ (by simp [hρ]) _ _)⟩

theorem execSysReset_look {β : Type} (ρ : State → β) (hρ : ∀ (t : State) hi ev pm ov cairn erg aq counters out
    freeCtr, look ρ { t with hi := hi, ev := ev, pm := pm, ov := ov, cairn := cairn, erg := erg, aq := aq, counters := counters, out := out, freeCtr := freeCtr }
    = look ρ t) (h : Hdr) (kind : Nat) (s : State) : ∃ σ, execSysReset h kind s = .next σ ∧ look ρ σ = look ρ s := ⟨_, rfl, runProc_look ρ (by simp [hρ]) _ _ _ (procSysReset_look ρ (by simp [hρ]) _ _ _)⟩

theorem execSysNqMark_look {β : Type} (ρ : State → β) (hρ : ∀ (t : State) hi ev pm ov cairn erg aq counters out
    freeCtr, look ρ { t with hi := hi, ev := ev, pm := pm, ov := ov, cairn := cairn, erg := erg, aq := aq, counters := counters, out := out, freeCtr := freeCtr }
    = look ρ t) (h : Hdr) (q : Nat) (s : State) : ∃ σ, execSysNqMark h q s = .next σ ∧ look ρ σ = look ρ s := ⟨_, rfl, runProc_look ρ (by simp [hρ]) _ _ _ (procSysNqMark_look ρ (by simp [hρ]) _ _ _)⟩

theorem execSysNqRewind_look {β : Type} (ρ : State → β) (hρ : ∀ (t : State) hi ev pm ov cairn erg aq counters out
    freeCtr, look ρ { t with hi := hi, ev := ev, pm := pm, ov := ov, cairn := cairn, erg := erg, aq := aq, counters := counters, out := out, freeCtr := freeCtr }
    = look ρ t) (h : Hdr) (q : Nat) (s : State) : ∃ σ, execSysNqRewind h q s = .next σ ∧ look ρ σ = look ρ s := ⟨_, rfl, runProc_look ρ (by simp [hρ]) _ _ _ (procSysNqRewind_look ρ (by simp [hρ]) _ _ _)⟩

theorem execSysNqRelease_look {β : Type} (ρ : State → β) (hρ : ∀ (t : State) hi ev pm ov cairn erg aq counters out
    freeCtr, look ρ { t with hi := hi, ev := ev, pm := pm, ov := ov, cairn := cairn, erg := erg, aq := aq, counters := counters, out := out, freeCtr := freeCtr }
    = look ρ t) (h : Hdr) (q count : Nat) (s : State) : ∃ σ, execSysNqRelease h q count s = .next σ ∧ look ρ σ = look
    ρ s := ⟨_, rfl, runProc_look ρ (by simp [hρ]) _ _ _ (procSysNqRelease_look ρ (by simp [hρ]) _ _ _ _)⟩

theorem execSysClearCounters_look {β : Type} (ρ : State → β) (hρ : ∀ (t : State) hi ev pm ov cairn erg aq counters out
    freeCtr, look ρ { t with hi := hi, ev := ev, pm := pm, ov := ov, cairn := cairn, erg := erg, aq := aq, counters := counters, out := out, freeCtr := freeCtr }
    = look ρ t) (h : Hdr) (mask : Nat) (s : State) : ∃ σ, execSysClearCounters h mask s = .next σ ∧ look ρ σ = look ρ
    s := ⟨_, rfl, runProc_look ρ (by simp [hρ]) _ _ _ (procSysClearCounters_look ρ (by simp [hρ]) _ _ _)⟩

end Sys2Proof.Machine
end

