-- ==== Sys2Proof/Laws/LookPortCmd.lean ====
section
/-! SUPPORT. What the operations of Machine/PortCmd.lean leave alone. -/

namespace Sys2Proof.Machine

@[simp] theorem setPort_look {β : Type} (ρ : State → β) (hρ : ∀ (t : State) hi tm ev pm cairn np counters out, look ρ
    { t with hi := hi, tm := tm, ev := ev, pm := pm, cairn := cairn, np := np, counters := counters, out := out } =
    look ρ t) (p : PortP) (s : State) : look ρ (setPort p s) = look ρ s := by
  unfold setPort
  (repeat' split) <;> first | with_reducible rfl | simp [*]

@[simp] theorem finishPortConfig_look {β : Type} (ρ : State → β) (hρ : ∀ (t : State) hi tm ev pm cairn np counters
    out, look ρ { t with hi := hi, tm := tm, ev := ev, pm := pm, cairn := cairn, np := np, counters := counters, out := out }
    = look ρ t) (o : OpEntry) (p : PortP) (hwFault : Bool) (s : State) : look ρ (finishPortConfig o p hwFault s) =
    look ρ s := by
  unfold finishPortConfig
  (repeat' split) <;> first | with_reducible rfl | simp [*]

@[simp] theorem setExact_look {β : Type} (ρ : State → β) (hρ : ∀ (t : State) np, look ρ { t with np := np } = look ρ
    t) (port index en addr : Nat) (s : State) : look ρ (setExact port index en addr s) = look ρ s := by
  unfold setExact
  (repeat' split) <;> first | with_reducible rfl | simp [*]

@[simp] theorem setHash_look {β : Type} (ρ : State → β) (hρ : ∀ (t : State) np, look ρ { t with np := np } = look ρ t)
    (p : HashP) (s : State) : look ρ (setHash p s) = look ρ s := by
  unfold setHash
  (repeat' split) <;> first | with_reducible rfl | simp [*]

@[simp] theorem setVlan_look {β : Type} (ρ : State → β) (hρ : ∀ (t : State) np, look ρ { t with np := np } = look ρ t)
    (p : VlanP) (s : State) : look ρ (setVlan p s) = look ρ s := by
  unfold setVlan
  (repeat' split) <;> first | with_reducible rfl | simp [*]

@[simp] theorem setIntake_look {β : Type} (ρ : State → β) (hρ : ∀ (t : State) np, look ρ { t with np := np } = look ρ
    t) (port : Nat) (e : List IntakeEntry) (s : State) : look ρ (setIntake port e s) = look ρ s := by
  unfold setIntake
  (repeat' split) <;> first | with_reducible rfl | simp [*]

@[simp] theorem setPtMap_look {β : Type} (ρ : State → β) (hρ : ∀ (t : State) np, look ρ { t with np := np } = look ρ
    t) (port map : Nat) (s : State) : look ρ (setPtMap port map s) = look ρ s := by
  unfold setPtMap
  (repeat' split) <;> first | with_reducible rfl | simp [*]

@[simp] theorem setPrp_look {β : Type} (ρ : State → β) (hρ : ∀ (t : State) np, look ρ { t with np := np } = look ρ t)
    (p : PrpP) (s : State) : look ρ (setPrp p s) = look ρ s := by
  unfold setPrp
  (repeat' split) <;> first | with_reducible rfl | simp [*]

@[simp] theorem setMacsec_look {β : Type} (ρ : State → β) (hρ : ∀ (t : State) np, look ρ { t with np := np } = look ρ
    t) (p : MacsecP) (s : State) : look ρ (setMacsec p s) = look ρ s := by
  unfold setMacsec
  (repeat' split) <;> first | with_reducible rfl | simp [*]

@[simp] theorem setSa_look {β : Type} (ρ : State → β) (hρ : ∀ (t : State) np, look ρ { t with np := np } = look ρ t)
    (p : SaP) (s : State) : look ρ (setSa p s) = look ρ s := by
  unfold setSa
  (repeat' split) <;> first | with_reducible rfl | simp [*]

@[simp] theorem destroySa_look {β : Type} (ρ : State → β) (hρ : ∀ (t : State) np, look ρ { t with np := np } = look ρ
    t) (port dir sc an : Nat) (s : State) : look ρ (destroySa port dir sc an s) = look ρ s := by
  unfold destroySa
  (repeat' split) <;> first | with_reducible rfl | simp [*]

@[simp] theorem loadGate_look {β : Type} (ρ : State → β) (hρ : ∀ (t : State) np, look ρ { t with np := np } = look ρ
    t) (p : GateP) (handle : Nat) (s : State) : look ρ (loadGate p handle s) = look ρ s := by
  unfold loadGate
  (repeat' split) <;> first | with_reducible rfl | simp [*]

@[simp] theorem finishGateLoad_look {β : Type} (ρ : State → β) (hρ : ∀ (t : State) hi ev np counters out, look ρ { t with hi := hi, ev := ev, np := np, counters := counters, out := out }
    = look ρ t) (o : OpEntry) (p : GateP) (hwFault : Bool) (s : State) : look ρ (finishGateLoad o p hwFault s) = look
    ρ s := by
  unfold finishGateLoad
  (repeat' split) <;> first | with_reducible rfl | simp [*]

@[simp] theorem clearPorts_look {β : Type} (ρ : State → β) (hρ : ∀ (t : State) np counters, look ρ { t with np := np, counters := counters }
    = look ρ t) (mask : Nat) (s : State) : look ρ (clearPorts mask s) = look ρ s := by
  unfold clearPorts
  (repeat' split) <;> first | with_reducible rfl | simp [*]

@[simp] theorem procPortConfig_look {β : Type} (ρ : State → β)  (h : Hdr) (p : PortP) (s : State) : (procPortConfig h
    p s).work.Look ρ := by
  simp [procPortConfig, *]

@[simp] theorem procPortSetExact_look {β : Type} (ρ : State → β) (hρ : ∀ (t : State) np, look ρ { t with np := np } =
    look ρ t) (h : Hdr) (port index en addr : Nat) (s : State) : (procPortSetExact h port index en addr s).work.Look ρ
    := by
  simp [procPortSetExact, Work.Look, *]

@[simp] theorem procPortSetHash_look {β : Type} (ρ : State → β) (hρ : ∀ (t : State) np, look ρ { t with np := np } =
    look ρ t) (h : Hdr) (p : HashP) (s : State) : (procPortSetHash h p s).work.Look ρ := by
  simp [procPortSetHash, Work.Look, *]

@[simp] theorem procPortSetVlan_look {β : Type} (ρ : State → β) (hρ : ∀ (t : State) np, look ρ { t with np := np } =
    look ρ t) (h : Hdr) (p : VlanP) (s : State) : (procPortSetVlan h p s).work.Look ρ := by
  simp [procPortSetVlan, Work.Look, *]

@[simp] theorem procPortSetIntake_look {β : Type} (ρ : State → β) (hρ : ∀ (t : State) np, look ρ { t with np := np } =
    look ρ t) (h : Hdr) (port : Nat) (e : List IntakeEntry) (s : State) : (procPortSetIntake h port e s).work.Look ρ
    := by
  simp [procPortSetIntake, Work.Look, *]

@[simp] theorem procPortSetPtMap_look {β : Type} (ρ : State → β) (hρ : ∀ (t : State) np, look ρ { t with np := np } =
    look ρ t) (h : Hdr) (port map : Nat) (s : State) : (procPortSetPtMap h port map s).work.Look ρ := by
  simp [procPortSetPtMap, Work.Look, *]

@[simp] theorem procPortPrpPair_look {β : Type} (ρ : State → β) (hρ : ∀ (t : State) np, look ρ { t with np := np } =
    look ρ t) (h : Hdr) (p : PrpP) (s : State) : (procPortPrpPair h p s).work.Look ρ := by
  simp [procPortPrpPair, Work.Look, *]

@[simp] theorem procPortMacsecCfg_look {β : Type} (ρ : State → β) (hρ : ∀ (t : State) np, look ρ { t with np := np } =
    look ρ t) (h : Hdr) (p : MacsecP) (s : State) : (procPortMacsecCfg h p s).work.Look ρ := by
  simp [procPortMacsecCfg, Work.Look, *]

@[simp] theorem procPortSaInstall_look {β : Type} (ρ : State → β) (hρ : ∀ (t : State) np counters, look ρ { t with np := np, counters := counters }
    = look ρ t) (h : Hdr) (p : SaP) (s : State) : (procPortSaInstall h p s).work.Look ρ := by
  simp [procPortSaInstall, Work.Look, *]

@[simp] theorem procPortSaActivate_look {β : Type} (ρ : State → β) (hρ : ∀ (t : State) np, look ρ { t with np := np }
    = look ρ t) (h : Hdr) (port an nextAn : Nat) (s : State) : (procPortSaActivate h port an nextAn s).work.Look ρ :=
    by
  simp [procPortSaActivate, Work.Look, *]

@[simp] theorem procPortSaDestroy_look {β : Type} (ρ : State → β) (hρ : ∀ (t : State) np, look ρ { t with np := np } =
    look ρ t) (h : Hdr) (port dir sc an : Nat) (s : State) : (procPortSaDestroy h port dir sc an s).work.Look ρ := by
  simp [procPortSaDestroy, Work.Look, *]

@[simp] theorem procPortGateLoad_look {β : Type} (ρ : State → β) (hρ : ∀ (t : State) np, look ρ { t with np := np } =
    look ρ t) (h : Hdr) (p : GateP) (s : State) : (procPortGateLoad h p s).work.Look ρ := by
  simp [procPortGateLoad, Work.Look, *]

@[simp] theorem procPortGateQuery_look {β : Type} (ρ : State → β)  (h : Hdr) (port : Nat) (s : State) :
    (procPortGateQuery h port s).work.Look ρ := by
  simp [procPortGateQuery, Work.Look, *]

@[simp] theorem procPortLinkStatus_look {β : Type} (ρ : State → β)  (h : Hdr) (port : Nat) (s : State) :
    (procPortLinkStatus h port s).work.Look ρ := by
  simp [procPortLinkStatus, Work.Look, *]

@[simp] theorem procPortClearCounters_look {β : Type} (ρ : State → β) (hρ : ∀ (t : State) np counters, look ρ { t with np := np, counters := counters }
    = look ρ t) (h : Hdr) (mask : Nat) (s : State) : (procPortClearCounters h mask s).work.Look ρ := by
  simp [procPortClearCounters, Work.Look, *]

theorem execPortConfig_look {β : Type} (ρ : State → β) (hρ : ∀ (t : State) hi ev pm ov cairn erg aq counters out
    freeCtr, look ρ { t with hi := hi, ev := ev, pm := pm, ov := ov, cairn := cairn, erg := erg, aq := aq, counters := counters, out := out, freeCtr := freeCtr }
    = look ρ t) (h : Hdr) (p : PortP) (s : State) : ∃ σ, execPortConfig h p s = .next σ ∧ look ρ σ = look ρ s := ⟨_, rfl, runProc_look ρ (by simp [hρ]) _ _ _ (procPortConfig_look ρ _ _ _)⟩

theorem execPortSetExact_look {β : Type} (ρ : State → β) (hρ : ∀ (t : State) hi ev pm ov cairn np erg aq counters out
    freeCtr, look ρ { t with hi := hi, ev := ev, pm := pm, ov := ov, cairn := cairn, np := np, erg := erg, aq := aq, counters := counters, out := out, freeCtr := freeCtr }
    = look ρ t) (h : Hdr) (port index en addr : Nat) (s : State) : ∃ σ, execPortSetExact h port index en addr s =
    .next σ ∧ look ρ σ = look ρ s := ⟨_, rfl, runProc_look ρ (by simp [hρ]) _ _ _ (procPortSetExact_look ρ (by simp [hρ]) _ _ _ _ _ _)⟩

theorem execPortSetHash_look {β : Type} (ρ : State → β) (hρ : ∀ (t : State) hi ev pm ov cairn np erg aq counters out
    freeCtr, look ρ { t with hi := hi, ev := ev, pm := pm, ov := ov, cairn := cairn, np := np, erg := erg, aq := aq, counters := counters, out := out, freeCtr := freeCtr }
    = look ρ t) (h : Hdr) (p : HashP) (s : State) : ∃ σ, execPortSetHash h p s = .next σ ∧ look ρ σ = look ρ s := ⟨_, rfl, runProc_look ρ (by simp [hρ]) _ _ _ (procPortSetHash_look ρ (by simp [hρ]) _ _ _)⟩

theorem execPortSetVlan_look {β : Type} (ρ : State → β) (hρ : ∀ (t : State) hi ev pm ov cairn np erg aq counters out
    freeCtr, look ρ { t with hi := hi, ev := ev, pm := pm, ov := ov, cairn := cairn, np := np, erg := erg, aq := aq, counters := counters, out := out, freeCtr := freeCtr }
    = look ρ t) (h : Hdr) (p : VlanP) (s : State) : ∃ σ, execPortSetVlan h p s = .next σ ∧ look ρ σ = look ρ s := ⟨_, rfl, runProc_look ρ (by simp [hρ]) _ _ _ (procPortSetVlan_look ρ (by simp [hρ]) _ _ _)⟩

theorem execPortSetIntake_look {β : Type} (ρ : State → β) (hρ : ∀ (t : State) hi ev pm ov cairn np erg aq counters out
    freeCtr, look ρ { t with hi := hi, ev := ev, pm := pm, ov := ov, cairn := cairn, np := np, erg := erg, aq := aq, counters := counters, out := out, freeCtr := freeCtr }
    = look ρ t) (h : Hdr) (port : Nat) (e : List IntakeEntry) (s : State) : ∃ σ, execPortSetIntake h port e s = .next
    σ ∧ look ρ σ = look ρ s := ⟨_, rfl, runProc_look ρ (by simp [hρ]) _ _ _ (procPortSetIntake_look ρ (by simp [hρ]) _ _ _ _)⟩

theorem execPortSetPtMap_look {β : Type} (ρ : State → β) (hρ : ∀ (t : State) hi ev pm ov cairn np erg aq counters out
    freeCtr, look ρ { t with hi := hi, ev := ev, pm := pm, ov := ov, cairn := cairn, np := np, erg := erg, aq := aq, counters := counters, out := out, freeCtr := freeCtr }
    = look ρ t) (h : Hdr) (port map : Nat) (s : State) : ∃ σ, execPortSetPtMap h port map s = .next σ ∧ look ρ σ =
    look ρ s := ⟨_, rfl, runProc_look ρ (by simp [hρ]) _ _ _ (procPortSetPtMap_look ρ (by simp [hρ]) _ _ _ _)⟩

theorem execPortPrpPair_look {β : Type} (ρ : State → β) (hρ : ∀ (t : State) hi ev pm ov cairn np erg aq counters out
    freeCtr, look ρ { t with hi := hi, ev := ev, pm := pm, ov := ov, cairn := cairn, np := np, erg := erg, aq := aq, counters := counters, out := out, freeCtr := freeCtr }
    = look ρ t) (h : Hdr) (p : PrpP) (s : State) : ∃ σ, execPortPrpPair h p s = .next σ ∧ look ρ σ = look ρ s := ⟨_, rfl, runProc_look ρ (by simp [hρ]) _ _ _ (procPortPrpPair_look ρ (by simp [hρ]) _ _ _)⟩

theorem execPortMacsecCfg_look {β : Type} (ρ : State → β) (hρ : ∀ (t : State) hi ev pm ov cairn np erg aq counters out
    freeCtr, look ρ { t with hi := hi, ev := ev, pm := pm, ov := ov, cairn := cairn, np := np, erg := erg, aq := aq, counters := counters, out := out, freeCtr := freeCtr }
    = look ρ t) (h : Hdr) (p : MacsecP) (s : State) : ∃ σ, execPortMacsecCfg h p s = .next σ ∧ look ρ σ = look ρ s := ⟨_, rfl, runProc_look ρ (by simp [hρ]) _ _ _ (procPortMacsecCfg_look ρ (by simp [hρ]) _ _ _)⟩

theorem execPortSaInstall_look {β : Type} (ρ : State → β) (hρ : ∀ (t : State) hi ev pm ov cairn np erg aq counters out
    freeCtr, look ρ { t with hi := hi, ev := ev, pm := pm, ov := ov, cairn := cairn, np := np, erg := erg, aq := aq, counters := counters, out := out, freeCtr := freeCtr }
    = look ρ t) (h : Hdr) (p : SaP) (s : State) : ∃ σ, execPortSaInstall h p s = .next σ ∧ look ρ σ = look ρ s := ⟨_, rfl, runProc_look ρ (by simp [hρ]) _ _ _ (procPortSaInstall_look ρ (by simp [hρ]) _ _ _)⟩

theorem execPortSaActivate_look {β : Type} (ρ : State → β) (hρ : ∀ (t : State) hi ev pm ov cairn np erg aq counters
    out freeCtr, look ρ { t with hi := hi, ev := ev, pm := pm, ov := ov, cairn := cairn, np := np, erg := erg, aq := aq, counters := counters, out := out, freeCtr := freeCtr }
    = look ρ t) (h : Hdr) (port an nextAn : Nat) (s : State) : ∃ σ, execPortSaActivate h port an nextAn s = .next σ ∧
    look ρ σ = look ρ s := ⟨_, rfl, runProc_look ρ (by simp [hρ]) _ _ _ (procPortSaActivate_look ρ (by simp [hρ]) _ _ _ _ _)⟩

theorem execPortSaDestroy_look {β : Type} (ρ : State → β) (hρ : ∀ (t : State) hi ev pm ov cairn np erg aq counters out
    freeCtr, look ρ { t with hi := hi, ev := ev, pm := pm, ov := ov, cairn := cairn, np := np, erg := erg, aq := aq, counters := counters, out := out, freeCtr := freeCtr }
    = look ρ t) (h : Hdr) (port dir sc an : Nat) (s : State) : ∃ σ, execPortSaDestroy h port dir sc an s = .next σ ∧
    look ρ σ = look ρ s := ⟨_, rfl, runProc_look ρ (by simp [hρ]) _ _ _ (procPortSaDestroy_look ρ (by simp [hρ]) _ _ _ _ _ _)⟩

theorem execPortGateLoad_look {β : Type} (ρ : State → β) (hρ : ∀ (t : State) hi ev pm ov cairn np erg aq counters out
    freeCtr, look ρ { t with hi := hi, ev := ev, pm := pm, ov := ov, cairn := cairn, np := np, erg := erg, aq := aq, counters := counters, out := out, freeCtr := freeCtr }
    = look ρ t) (h : Hdr) (p : GateP) (s : State) : ∃ σ, execPortGateLoad h p s = .next σ ∧ look ρ σ = look ρ s := ⟨_, rfl, runProc_look ρ (by simp [hρ]) _ _ _ (procPortGateLoad_look ρ (by simp [hρ]) _ _ _)⟩

theorem execPortGateQuery_look {β : Type} (ρ : State → β) (hρ : ∀ (t : State) hi ev pm ov cairn erg aq counters out
    freeCtr, look ρ { t with hi := hi, ev := ev, pm := pm, ov := ov, cairn := cairn, erg := erg, aq := aq, counters := counters, out := out, freeCtr := freeCtr }
    = look ρ t) (h : Hdr) (port : Nat) (s : State) : ∃ σ, execPortGateQuery h port s = .next σ ∧ look ρ σ = look ρ s
    := ⟨_, rfl, runProc_look ρ (by simp [hρ]) _ _ _ (procPortGateQuery_look ρ _ _ _)⟩

theorem execPortLinkStatus_look {β : Type} (ρ : State → β) (hρ : ∀ (t : State) hi ev pm ov cairn erg aq counters out
    freeCtr, look ρ { t with hi := hi, ev := ev, pm := pm, ov := ov, cairn := cairn, erg := erg, aq := aq, counters := counters, out := out, freeCtr := freeCtr }
    = look ρ t) (h : Hdr) (port : Nat) (s : State) : ∃ σ, execPortLinkStatus h port s = .next σ ∧ look ρ σ = look ρ s
    := ⟨_, rfl, runProc_look ρ (by simp [hρ]) _ _ _ (procPortLinkStatus_look ρ _ _ _)⟩

theorem execPortClearCounters_look {β : Type} (ρ : State → β) (hρ : ∀ (t : State) hi ev pm ov cairn np erg aq counters
    out freeCtr, look ρ { t with hi := hi, ev := ev, pm := pm, ov := ov, cairn := cairn, np := np, erg := erg, aq := aq, counters := counters, out := out, freeCtr := freeCtr }
    = look ρ t) (h : Hdr) (mask : Nat) (s : State) : ∃ σ, execPortClearCounters h mask s = .next σ ∧ look ρ σ = look ρ
    s := ⟨_, rfl, runProc_look ρ (by simp [hρ]) _ _ _ (procPortClearCounters_look ρ (by simp [hρ]) _ _ _)⟩

end Sys2Proof.Machine
end

