-- ==== Sys2Proof/Laws/LookTimeCmd.lean ====
section
/-! SUPPORT. What the operations of Machine/TimeCmd.lean leave alone. -/

namespace Sys2Proof.Machine

@[simp] theorem setTime_look {β : Type} (ρ : State → β) (hρ : ∀ (t : State) tm, look ρ { t with tm := tm } = look ρ t)
    (p : TimeP) (s : State) : look ρ (setTime p s) = look ρ s := by
  unfold setTime
  (repeat' split) <;> first | with_reducible rfl | simp [*]

@[simp] theorem setSources_look {β : Type} (ρ : State → β) (hρ : ∀ (t : State) hi tm ev pm cairn counters out, look ρ
    { t with hi := hi, tm := tm, ev := ev, pm := pm, cairn := cairn, counters := counters, out := out } = look ρ t)
    (primary secondary revertS : Nat) (s : State) : look ρ (setSources primary secondary revertS s) = look ρ s := by
  unfold setSources
  (repeat' split) <;> first | with_reducible rfl | simp [*]

@[simp] theorem setPtp_look {β : Type} (ρ : State → β) (hρ : ∀ (t : State) hi tm ev pm cairn counters out, look ρ { t with hi := hi, tm := tm, ev := ev, pm := pm, cairn := cairn, counters := counters, out := out }
    = look ρ t) (p : PtpP) (s : State) : look ρ (setPtp p s) = look ρ s := by
  unfold setPtp
  (repeat' split) <;> first | with_reducible rfl | simp [*]

@[simp] theorem markPtp_look {β : Type} (ρ : State → β) (hρ : ∀ (t : State) tm, look ρ { t with tm := tm } = look ρ t)
    (inst : Nat) (h : Option Nat) (s : State) : look ρ (markPtp inst h s) = look ρ s := by
  unfold markPtp
  (repeat' split) <;> first | with_reducible rfl | simp [*]

@[simp] theorem finishPtpConfig_look {β : Type} (ρ : State → β) (hρ : ∀ (t : State) hi tm ev pm cairn counters out,
    look ρ { t with hi := hi, tm := tm, ev := ev, pm := pm, cairn := cairn, counters := counters, out := out } = look
    ρ t) (o : OpEntry) (p : PtpP) (hwFault : Bool) (s : State) : look ρ (finishPtpConfig o p hwFault s) = look ρ s :=
    by
  unfold finishPtpConfig
  (repeat' split) <;> first | with_reducible rfl | simp [*]

@[simp] theorem setPps_look {β : Type} (ρ : State → β) (hρ : ∀ (t : State) tm, look ρ { t with tm := tm } = look ρ t)
    (p : PpsP) (s : State) : look ρ (setPps p s) = look ρ s := by
  unfold setPps
  (repeat' split) <;> first | with_reducible rfl | simp [*]

@[simp] theorem setLat_look {β : Type} (ρ : State → β) (hρ : ∀ (t : State) tm, look ρ { t with tm := tm } = look ρ t)
    (p : LatP) (s : State) : look ρ (setLat p s) = look ρ s := by
  unfold setLat
  (repeat' split) <;> first | with_reducible rfl | simp [*]

@[simp] theorem setDeviceTime_look {β : Type} (ρ : State → β) (hρ : ∀ (t : State) hi tm ev pm np erg am counters out,
    look ρ { t with hi := hi, tm := tm, ev := ev, pm := pm, np := np, erg := erg, am := am, counters := counters, out := out }
    = look ρ t) (t : DT80) (s : State) : look ρ (setDeviceTime t s) = look ρ s := by
  unfold setDeviceTime
  (repeat' split) <;> first | with_reducible rfl | simp [*]

@[simp] theorem disarmCmp_look {β : Type} (ρ : State → β) (hρ : ∀ (t : State) hi tm ec ev erg cv ts sc aq am counters
    out freeCtr, look ρ { t with hi := hi, tm := tm, ec := ec, ev := ev, erg := erg, cv := cv, ts := ts, sc := sc, aq := aq, am := am, counters := counters, out := out, freeCtr := freeCtr }
    = look ρ t) (n : Nat) (s : State) : look ρ (disarmCmp n s) = look ρ s := by
  unfold disarmCmp
  (repeat' split) <;> first | with_reducible rfl | simp [*]

@[simp] theorem forceHoldover_look {β : Type} (ρ : State → β) (hρ : ∀ (t : State) hi tm ev pm cairn counters out, look
    ρ { t with hi := hi, tm := tm, ev := ev, pm := pm, cairn := cairn, counters := counters, out := out } = look ρ t)
    (en : Nat) (s : State) : look ρ (forceHoldover en s) = look ρ s := by
  unfold forceHoldover
  (repeat' split) <;> first | with_reducible rfl | simp [*]

@[simp] theorem finishMainRetest_look {β : Type} (ρ : State → β) (hρ : ∀ (t : State) hi tm ev pm counters out, look ρ
    { t with hi := hi, tm := tm, ev := ev, pm := pm, counters := counters, out := out } = look ρ t) (o : OpEntry)
    (pass : Bool) (s : State) : look ρ (finishMainRetest o pass s) = look ρ s := by
  unfold finishMainRetest
  (repeat' split) <;> first | with_reducible rfl | simp [*]

@[simp] theorem procTimeConfig_look {β : Type} (ρ : State → β) (hρ : ∀ (t : State) tm, look ρ { t with tm := tm } =
    look ρ t) (h : Hdr) (p : TimeP) (s : State) : (procTimeConfig h p s).work.Look ρ := by
  simp [procTimeConfig, Work.Look, *]

@[simp] theorem procTimeSource_look {β : Type} (ρ : State → β) (hρ : ∀ (t : State) hi tm ev pm cairn counters out,
    look ρ { t with hi := hi, tm := tm, ev := ev, pm := pm, cairn := cairn, counters := counters, out := out } = look
    ρ t) (h : Hdr) (primary secondary revertS : Nat) (s : State) : (procTimeSource h primary secondary revertS
    s).work.Look ρ := by
  simp [procTimeSource, Work.Look, *]

@[simp] theorem procTimePtpConfig_look {β : Type} (ρ : State → β) (hρ : ∀ (t : State) tm, look ρ { t with tm := tm } =
    look ρ t) (h : Hdr) (p : PtpP) (s : State) : (procTimePtpConfig h p s).work.Look ρ := by
  simp [procTimePtpConfig, Work.Look, *]

@[simp] theorem procTimePpsConfig_look {β : Type} (ρ : State → β) (hρ : ∀ (t : State) tm, look ρ { t with tm := tm } =
    look ρ t) (h : Hdr) (p : PpsP) (s : State) : (procTimePpsConfig h p s).work.Look ρ := by
  simp [procTimePpsConfig, Work.Look, *]

@[simp] theorem procTimePortLatency_look {β : Type} (ρ : State → β) (hρ : ∀ (t : State) tm, look ρ { t with tm := tm }
    = look ρ t) (h : Hdr) (p : LatP) (s : State) : (procTimePortLatency h p s).work.Look ρ := by
  simp [procTimePortLatency, Work.Look, *]

@[simp] theorem procTimeRead_look {β : Type} (ρ : State → β)  (h : Hdr) (s : State) : (procTimeRead h s).work.Look ρ
    := by
  simp [procTimeRead, Work.Look, *]

@[simp] theorem procTimeSet_look {β : Type} (ρ : State → β) (hρ : ∀ (t : State) hi tm ev pm np erg am counters out,
    look ρ { t with hi := hi, tm := tm, ev := ev, pm := pm, np := np, erg := erg, am := am, counters := counters, out := out }
    = look ρ t) (h : Hdr) (t : DT80) (s : State) : (procTimeSet h t s).work.Look ρ := by
  simp [procTimeSet, Work.Look, *]

@[simp] theorem procTimeUtcOffset_look {β : Type} (ρ : State → β) (hρ : ∀ (t : State) tm, look ρ { t with tm := tm } =
    look ρ t) (h : Hdr) (ofs : Int) (valid leap : Nat) (s : State) : (procTimeUtcOffset h ofs valid leap s).work.Look
    ρ := by
  simp [procTimeUtcOffset, Work.Look, *]

@[simp] theorem procTimeCmpArm_look {β : Type} (ρ : State → β) (hρ : ∀ (t : State) hi tm ec ev erg cv ts sc aq am
    counters out freeCtr, look ρ { t with hi := hi, tm := tm, ec := ec, ev := ev, erg := erg, cv := cv, ts := ts, sc := sc, aq := aq, am := am, counters := counters, out := out, freeCtr := freeCtr }
    = look ρ t) (h : Hdr) (p : CmpP) (s : State) : (procTimeCmpArm h p s).work.Look ρ := by
  simp [procTimeCmpArm, Work.Look, *]

@[simp] theorem procTimeCmpDisarm_look {β : Type} (ρ : State → β) (hρ : ∀ (t : State) hi tm ec ev erg cv ts sc aq am
    counters out freeCtr, look ρ { t with hi := hi, tm := tm, ec := ec, ev := ev, erg := erg, cv := cv, ts := ts, sc := sc, aq := aq, am := am, counters := counters, out := out, freeCtr := freeCtr }
    = look ρ t) (h : Hdr) (cmp : Nat) (s : State) : (procTimeCmpDisarm h cmp s).work.Look ρ := by
  simp [procTimeCmpDisarm, Work.Look, *]

@[simp] theorem procTimeCmpQuery_look {β : Type} (ρ : State → β)  (h : Hdr) (cmp : Nat) (s : State) :
    (procTimeCmpQuery h cmp s).work.Look ρ := by
  simp [procTimeCmpQuery, Work.Look, *]

@[simp] theorem procTimeHoldoverTest_look {β : Type} (ρ : State → β) (hρ : ∀ (t : State) hi tm ev pm cairn counters
    out, look ρ { t with hi := hi, tm := tm, ev := ev, pm := pm, cairn := cairn, counters := counters, out := out } =
    look ρ t) (h : Hdr) (en : Nat) (s : State) : (procTimeHoldoverTest h en s).work.Look ρ := by
  simp [procTimeHoldoverTest, Work.Look, *]

@[simp] theorem procTimeMainRetest_look {β : Type} (ρ : State → β) (hρ : ∀ (t : State) tm, look ρ { t with tm := tm }
    = look ρ t) (h : Hdr) (s : State) : (procTimeMainRetest h s).work.Look ρ := by
  simp [procTimeMainRetest, Work.Look, *]

@[simp] theorem procTimeStatus_look {β : Type} (ρ : State → β)  (h : Hdr) (s : State) : (procTimeStatus h s).work.Look
    ρ := by
  simp [procTimeStatus, Work.Look, *]

@[simp] theorem procTimeClearCounters_look {β : Type} (ρ : State → β) (hρ : ∀ (t : State) counters, look ρ { t with counters := counters }
    = look ρ t) (h : Hdr) (s : State) : (procTimeClearCounters h s).work.Look ρ := by
  simp [procTimeClearCounters, Work.Look, *]

theorem execTimeConfig_look {β : Type} (ρ : State → β) (hρ : ∀ (t : State) hi tm ev pm ov cairn erg aq counters out
    freeCtr, look ρ { t with hi := hi, tm := tm, ev := ev, pm := pm, ov := ov, cairn := cairn, erg := erg, aq := aq, counters := counters, out := out, freeCtr := freeCtr }
    = look ρ t) (h : Hdr) (p : TimeP) (s : State) : ∃ σ, execTimeConfig h p s = .next σ ∧ look ρ σ = look ρ s := ⟨_, rfl, runProc_look ρ (by simp [hρ]) _ _ _ (procTimeConfig_look ρ (by simp [hρ]) _ _ _)⟩

theorem execTimeSource_look {β : Type} (ρ : State → β) (hρ : ∀ (t : State) hi tm ev pm ov cairn erg aq counters out
    freeCtr, look ρ { t with hi := hi, tm := tm, ev := ev, pm := pm, ov := ov, cairn := cairn, erg := erg, aq := aq, counters := counters, out := out, freeCtr := freeCtr }
    = look ρ t) (h : Hdr) (primary secondary revertS : Nat) (s : State) : ∃ σ, execTimeSource h primary secondary
    revertS s = .next σ ∧ look ρ σ = look ρ s := ⟨_, rfl, runProc_look ρ (by simp [hρ]) _ _ _ (procTimeSource_look ρ (by simp [hρ]) _ _ _ _ _)⟩

theorem execTimePtpConfig_look {β : Type} (ρ : State → β) (hρ : ∀ (t : State) hi tm ev pm ov cairn erg aq counters out
    freeCtr, look ρ { t with hi := hi, tm := tm, ev := ev, pm := pm, ov := ov, cairn := cairn, erg := erg, aq := aq, counters := counters, out := out, freeCtr := freeCtr }
    = look ρ t) (h : Hdr) (p : PtpP) (s : State) : ∃ σ, execTimePtpConfig h p s = .next σ ∧ look ρ σ = look ρ s := ⟨_, rfl, runProc_look ρ (by simp [hρ]) _ _ _ (procTimePtpConfig_look ρ (by simp [hρ]) _ _ _)⟩

theorem execTimePpsConfig_look {β : Type} (ρ : State → β) (hρ : ∀ (t : State) hi tm ev pm ov cairn erg aq counters out
    freeCtr, look ρ { t with hi := hi, tm := tm, ev := ev, pm := pm, ov := ov, cairn := cairn, erg := erg, aq := aq, counters := counters, out := out, freeCtr := freeCtr }
    = look ρ t) (h : Hdr) (p : PpsP) (s : State) : ∃ σ, execTimePpsConfig h p s = .next σ ∧ look ρ σ = look ρ s := ⟨_, rfl, runProc_look ρ (by simp [hρ]) _ _ _ (procTimePpsConfig_look ρ (by simp [hρ]) _ _ _)⟩

theorem execTimePortLatency_look {β : Type} (ρ : State → β) (hρ : ∀ (t : State) hi tm ev pm ov cairn erg aq counters
    out freeCtr, look ρ { t with hi := hi, tm := tm, ev := ev, pm := pm, ov := ov, cairn := cairn, erg := erg, aq := aq, counters := counters, out := out, freeCtr := freeCtr }
    = look ρ t) (h : Hdr) (p : LatP) (s : State) : ∃ σ, execTimePortLatency h p s = .next σ ∧ look ρ σ = look ρ s := ⟨_, rfl, runProc_look ρ (by simp [hρ]) _ _ _ (procTimePortLatency_look ρ (by simp [hρ]) _ _ _)⟩

theorem execTimeRead_look {β : Type} (ρ : State → β) (hρ : ∀ (t : State) hi ev pm ov cairn erg aq counters out
    freeCtr, look ρ { t with hi := hi, ev := ev, pm := pm, ov := ov, cairn := cairn, erg := erg, aq := aq, counters := counters, out := out, freeCtr := freeCtr }
    = look ρ t) (h : Hdr) (s : State) : ∃ σ, execTimeRead h s = .next σ ∧ look ρ σ = look ρ s := ⟨_, rfl, runProc_look ρ (by simp [hρ]) _ _ _ (procTimeRead_look ρ _ _)⟩

theorem execTimeSet_look {β : Type} (ρ : State → β) (hρ : ∀ (t : State) hi tm ev pm ov cairn np erg aq am counters out
    freeCtr, look ρ { t with hi := hi, tm := tm, ev := ev, pm := pm, ov := ov, cairn := cairn, np := np, erg := erg, aq := aq, am := am, counters := counters, out := out, freeCtr := freeCtr }
    = look ρ t) (h : Hdr) (t : DT80) (s : State) : ∃ σ, execTimeSet h t s = .next σ ∧ look ρ σ = look ρ s := ⟨_, rfl, runProc_look ρ (by simp [hρ]) _ _ _ (procTimeSet_look ρ (by simp [hρ]) _ _ _)⟩

theorem execTimeUtcOffset_look {β : Type} (ρ : State → β) (hρ : ∀ (t : State) hi tm ev pm ov cairn erg aq counters out
    freeCtr, look ρ { t with hi := hi, tm := tm, ev := ev, pm := pm, ov := ov, cairn := cairn, erg := erg, aq := aq, counters := counters, out := out, freeCtr := freeCtr }
    = look ρ t) (h : Hdr) (ofs : Int) (valid leap : Nat) (s : State) : ∃ σ, execTimeUtcOffset h ofs valid leap s =
    .next σ ∧ look ρ σ = look ρ s := ⟨_, rfl, runProc_look ρ (by simp [hρ]) _ _ _ (procTimeUtcOffset_look ρ (by simp [hρ]) _ _ _ _ _)⟩

theorem execTimeCmpArm_look {β : Type} (ρ : State → β) (hρ : ∀ (t : State) hi tm ec ev pm ov cairn erg cv ts sc aq am
    counters out freeCtr, look ρ { t with hi := hi, tm := tm, ec := ec, ev := ev, pm := pm, ov := ov, cairn := cairn, erg := erg, cv := cv, ts := ts, sc := sc, aq := aq, am := am, counters := counters, out := out, freeCtr := freeCtr }
    = look ρ t) (h : Hdr) (p : CmpP) (s : State) : ∃ σ, execTimeCmpArm h p s = .next σ ∧ look ρ σ = look ρ s := ⟨_, rfl, runProc_look ρ (by simp [hρ]) _ _ _ (procTimeCmpArm_look ρ (by simp [hρ]) _ _ _)⟩

theorem execTimeCmpDisarm_look {β : Type} (ρ : State → β) (hρ : ∀ (t : State) hi tm ec ev pm ov cairn erg cv ts sc aq
    am counters out freeCtr, look ρ { t with hi := hi, tm := tm, ec := ec, ev := ev, pm := pm, ov := ov, cairn := cairn, erg := erg, cv := cv, ts := ts, sc := sc, aq := aq, am := am, counters := counters, out := out, freeCtr := freeCtr }
    = look ρ t) (h : Hdr) (cmp : Nat) (s : State) : ∃ σ, execTimeCmpDisarm h cmp s = .next σ ∧ look ρ σ = look ρ s := ⟨_, rfl, runProc_look ρ (by simp [hρ]) _ _ _ (procTimeCmpDisarm_look ρ (by simp [hρ]) _ _ _)⟩

theorem execTimeCmpQuery_look {β : Type} (ρ : State → β) (hρ : ∀ (t : State) hi ev pm ov cairn erg aq counters out
    freeCtr, look ρ { t with hi := hi, ev := ev, pm := pm, ov := ov, cairn := cairn, erg := erg, aq := aq, counters := counters, out := out, freeCtr := freeCtr }
    = look ρ t) (h : Hdr) (cmp : Nat) (s : State) : ∃ σ, execTimeCmpQuery h cmp s = .next σ ∧ look ρ σ = look ρ s := ⟨_, rfl, runProc_look ρ (by simp [hρ]) _ _ _ (procTimeCmpQuery_look ρ _ _ _)⟩

theorem execTimeHoldoverTest_look {β : Type} (ρ : State → β) (hρ : ∀ (t : State) hi tm ev pm ov cairn erg aq counters
    out freeCtr, look ρ { t with hi := hi, tm := tm, ev := ev, pm := pm, ov := ov, cairn := cairn, erg := erg, aq := aq, counters := counters, out := out, freeCtr := freeCtr }
    = look ρ t) (h : Hdr) (en : Nat) (s : State) : ∃ σ, execTimeHoldoverTest h en s = .next σ ∧ look ρ σ = look ρ s := ⟨_, rfl, runProc_look ρ (by simp [hρ]) _ _ _ (procTimeHoldoverTest_look ρ (by simp [hρ]) _ _ _)⟩

theorem execTimeMainRetest_look {β : Type} (ρ : State → β) (hρ : ∀ (t : State) hi tm ev pm ov cairn erg aq counters
    out freeCtr, look ρ { t with hi := hi, tm := tm, ev := ev, pm := pm, ov := ov, cairn := cairn, erg := erg, aq := aq, counters := counters, out := out, freeCtr := freeCtr }
    = look ρ t) (h : Hdr) (s : State) : ∃ σ, execTimeMainRetest h s = .next σ ∧ look ρ σ = look ρ s := ⟨_, rfl, runProc_look ρ (by simp [hρ]) _ _ _ (procTimeMainRetest_look ρ (by simp [hρ]) _ _)⟩

theorem execTimeStatus_look {β : Type} (ρ : State → β) (hρ : ∀ (t : State) hi ev pm ov cairn erg aq counters out
    freeCtr, look ρ { t with hi := hi, ev := ev, pm := pm, ov := ov, cairn := cairn, erg := erg, aq := aq, counters := counters, out := out, freeCtr := freeCtr }
    = look ρ t) (h : Hdr) (s : State) : ∃ σ, execTimeStatus h s = .next σ ∧ look ρ σ = look ρ s := ⟨_, rfl, runProc_look ρ (by simp [hρ]) _ _ _ (procTimeStatus_look ρ _ _)⟩

theorem execTimeClearCounters_look {β : Type} (ρ : State → β) (hρ : ∀ (t : State) hi ev pm ov cairn erg aq counters
    out freeCtr, look ρ { t with hi := hi, ev := ev, pm := pm, ov := ov, cairn := cairn, erg := erg, aq := aq, counters := counters, out := out, freeCtr := freeCtr }
    = look ρ t) (h : Hdr) (s : State) : ∃ σ, execTimeClearCounters h s = .next σ ∧ look ρ σ = look ρ s := ⟨_, rfl, runProc_look ρ (by simp [hρ]) _ _ _ (procTimeClearCounters_look ρ (by simp [hρ]) _ _)⟩

end Sys2Proof.Machine
end

