-- ==== Sys2Proof/Laws/LookStreamCmd.lean ====
section
/-! SUPPORT. What the operations of Machine/StreamCmd.lean leave alone. -/

namespace Sys2Proof.Machine

@[simp] theorem placeStream_look {β : Type} (ρ : State → β) (hρ : ∀ (t : State) si, look ρ { t with si := si } = look
    ρ t) (p : StreamP) (byCommand : Bool) (s : State) : look ρ (placeStream p byCommand s) = look ρ s := by
  unfold placeStream
  (repeat' split) <;> first | with_reducible rfl | simp [*]

@[simp] theorem installStream_look {β : Type} (ρ : State → β) (hρ : ∀ (t : State) hi ev si counters out, look ρ { t with hi := hi, ev := ev, si := si, counters := counters, out := out }
    = look ρ t) (p : StreamP) (byCommand : Bool) (s : State) : look ρ (installStream p byCommand s) = look ρ s := by
  unfold installStream
  (repeat' split) <;> first | with_reducible rfl | simp [*]

@[simp] theorem finishInstall_look {β : Type} (ρ : State → β) (hρ : ∀ (t : State) hi ev si counters out, look ρ { t with hi := hi, ev := ev, si := si, counters := counters, out := out }
    = look ρ t) (o : OpEntry) (p : StreamP) (hwFault : Bool) (s : State) : look ρ (finishInstall o p hwFault s) = look
    ρ s := by
  unfold finishInstall
  (repeat' split) <;> first | with_reducible rfl | simp [*]

@[simp] theorem removeStream_look {β : Type} (ρ : State → β) (hρ : ∀ (t : State) hi ev si counters out, look ρ { t with hi := hi, ev := ev, si := si, counters := counters, out := out }
    = look ρ t) (sid : Nat) (s : State) : look ρ (removeStream sid s) = look ρ s := by
  unfold removeStream
  (repeat' split) <;> first | with_reducible rfl | simp [*]

@[simp] theorem rekey_look {β : Type} (ρ : State → β) (hρ : ∀ (t : State) si, look ρ { t with si := si } = look ρ t)
    (sid keyNext keyIdNext : Nat) (s : State) : look ρ (rekey sid keyNext keyIdNext s) = look ρ s := by
  unfold rekey
  (repeat' split) <;> first | with_reducible rfl | simp [*]

@[simp] theorem releaseStream_look {β : Type} (ρ : State → β) (hρ : ∀ (t : State) hi ev si counters out, look ρ { t with hi := hi, ev := ev, si := si, counters := counters, out := out }
    = look ρ t) (sid : Nat) (s : State) : look ρ (releaseStream sid s) = look ρ s := by
  unfold releaseStream
  (repeat' split) <;> first | with_reducible rfl | simp [*]

@[simp] theorem finishList_look {β : Type} (ρ : State → β) (hρ : ∀ (t : State) hi ev counters out, look ρ { t with hi := hi, ev := ev, counters := counters, out := out }
    = look ρ t) (o : OpEntry) (addr : Nat) (s : State) : look ρ (finishList o addr s) = look ρ s := by
  unfold finishList
  (repeat' split) <;> first | with_reducible rfl | simp [*]

@[simp] theorem setSi_look {β : Type} (ρ : State → β) (hρ : ∀ (t : State) si, look ρ { t with si := si } = look ρ t)
    (p : SiP) (s : State) : look ρ (setSi p s) = look ρ s := by
  unfold setSi
  (repeat' split) <;> first | with_reducible rfl | simp [*]

@[simp] theorem clearStreams_look {β : Type} (ρ : State → β) (hρ : ∀ (t : State) si counters, look ρ { t with si := si, counters := counters }
    = look ρ t) (first count : Nat) (s : State) : look ρ (clearStreams first count s) = look ρ s := by
  unfold clearStreams
  (repeat' split) <;> first | with_reducible rfl | simp [*]

@[simp] theorem procStreamInstall_look {β : Type} (ρ : State → β) (hρ : ∀ (t : State) counters, look ρ { t with counters := counters }
    = look ρ t) (h : Hdr) (p : StreamP) (s : State) : (procStreamInstall h p s).work.Look ρ := by
  simp [procStreamInstall, Work.Look, *]

@[simp] theorem procStreamRemove_look {β : Type} (ρ : State → β) (hρ : ∀ (t : State) hi ev si counters out, look ρ { t with hi := hi, ev := ev, si := si, counters := counters, out := out }
    = look ρ t) (h : Hdr) (sid : Nat) (s : State) : (procStreamRemove h sid s).work.Look ρ := by
  simp [procStreamRemove, Work.Look, *]

@[simp] theorem procStreamRekey_look {β : Type} (ρ : State → β) (hρ : ∀ (t : State) si counters, look ρ { t with si := si, counters := counters }
    = look ρ t) (h : Hdr) (sid keyNext keyIdNext : Nat) (s : State) : (procStreamRekey h sid keyNext keyIdNext
    s).work.Look ρ := by
  simp [procStreamRekey, Work.Look, *]

@[simp] theorem procStreamRelease_look {β : Type} (ρ : State → β) (hρ : ∀ (t : State) hi ev si counters out, look ρ { t with hi := hi, ev := ev, si := si, counters := counters, out := out }
    = look ρ t) (h : Hdr) (sid : Nat) (s : State) : (procStreamRelease h sid s).work.Look ρ := by
  simp [procStreamRelease, Work.Look, *]

@[simp] theorem procStreamQuery_look {β : Type} (ρ : State → β)  (h : Hdr) (sid : Nat) (s : State) : (procStreamQuery
    h sid s).work.Look ρ := by
  simp [procStreamQuery, Work.Look, *]

@[simp] theorem procStreamSetTimers_look {β : Type} (ρ : State → β) (hρ : ∀ (t : State) si, look ρ { t with si := si }
    = look ρ t) (h : Hdr) (sid staleN lostN : Nat) (s : State) : (procStreamSetTimers h sid staleN lostN s).work.Look
    ρ := by
  simp [procStreamSetTimers, Work.Look, *]

@[simp] theorem procStreamList_look {β : Type} (ρ : State → β)  (h : Hdr) (addr len : Nat) (s : State) :
    (procStreamList h addr len s).work.Look ρ := by
  simp [procStreamList, *]

@[simp] theorem procStreamGconfig_look {β : Type} (ρ : State → β) (hρ : ∀ (t : State) si, look ρ { t with si := si } =
    look ρ t) (h : Hdr) (p : SiP) (s : State) : (procStreamGconfig h p s).work.Look ρ := by
  simp [procStreamGconfig, Work.Look, *]

@[simp] theorem procStreamClearCounters_look {β : Type} (ρ : State → β) (hρ : ∀ (t : State) si counters, look ρ { t with si := si, counters := counters }
    = look ρ t) (h : Hdr) (first count : Nat) (s : State) : (procStreamClearCounters h first count s).work.Look ρ :=
    by
  simp [procStreamClearCounters, Work.Look, *]

theorem execStreamInstall_look {β : Type} (ρ : State → β) (hρ : ∀ (t : State) hi ev pm ov cairn erg aq counters out
    freeCtr, look ρ { t with hi := hi, ev := ev, pm := pm, ov := ov, cairn := cairn, erg := erg, aq := aq, counters := counters, out := out, freeCtr := freeCtr }
    = look ρ t) (h : Hdr) (p : StreamP) (s : State) : ∃ σ, execStreamInstall h p s = .next σ ∧ look ρ σ = look ρ s := ⟨_, rfl, runProc_look ρ (by simp [hρ]) _ _ _ (procStreamInstall_look ρ (by simp [hρ]) _ _ _)⟩

theorem execStreamRemove_look {β : Type} (ρ : State → β) (hρ : ∀ (t : State) hi ev pm ov cairn si erg aq counters out
    freeCtr, look ρ { t with hi := hi, ev := ev, pm := pm, ov := ov, cairn := cairn, si := si, erg := erg, aq := aq, counters := counters, out := out, freeCtr := freeCtr }
    = look ρ t) (h : Hdr) (sid : Nat) (s : State) : ∃ σ, execStreamRemove h sid s = .next σ ∧ look ρ σ = look ρ s := ⟨_, rfl, runProc_look ρ (by simp [hρ]) _ _ _ (procStreamRemove_look ρ (by simp [hρ]) _ _ _)⟩

theorem execStreamRekey_look {β : Type} (ρ : State → β) (hρ : ∀ (t : State) hi ev pm ov cairn si erg aq counters out
    freeCtr, look ρ { t with hi := hi, ev := ev, pm := pm, ov := ov, cairn := cairn, si := si, erg := erg, aq := aq, counters := counters, out := out, freeCtr := freeCtr }
    = look ρ t) (h : Hdr) (sid keyNext keyIdNext : Nat) (s : State) : ∃ σ, execStreamRekey h sid keyNext keyIdNext s =
    .next σ ∧ look ρ σ = look ρ s := ⟨_, rfl, runProc_look ρ (by simp [hρ]) _ _ _ (procStreamRekey_look ρ (by simp [hρ]) _ _ _ _ _)⟩

theorem execStreamRelease_look {β : Type} (ρ : State → β) (hρ : ∀ (t : State) hi ev pm ov cairn si erg aq counters out
    freeCtr, look ρ { t with hi := hi, ev := ev, pm := pm, ov := ov, cairn := cairn, si := si, erg := erg, aq := aq, counters := counters, out := out, freeCtr := freeCtr }
    = look ρ t) (h : Hdr) (sid : Nat) (s : State) : ∃ σ, execStreamRelease h sid s = .next σ ∧ look ρ σ = look ρ s := ⟨_, rfl, runProc_look ρ (by simp [hρ]) _ _ _ (procStreamRelease_look ρ (by simp [hρ]) _ _ _)⟩

theorem execStreamQuery_look {β : Type} (ρ : State → β) (hρ : ∀ (t : State) hi ev pm ov cairn erg aq counters out
    freeCtr, look ρ { t with hi := hi, ev := ev, pm := pm, ov := ov, cairn := cairn, erg := erg, aq := aq, counters := counters, out := out, freeCtr := freeCtr }
    = look ρ t) (h : Hdr) (sid : Nat) (s : State) : ∃ σ, execStreamQuery h sid s = .next σ ∧ look ρ σ = look ρ s := ⟨_, rfl, runProc_look ρ (by simp [hρ]) _ _ _ (procStreamQuery_look ρ _ _ _)⟩

theorem execStreamSetTimers_look {β : Type} (ρ : State → β) (hρ : ∀ (t : State) hi ev pm ov cairn si erg aq counters
    out freeCtr, look ρ { t with hi := hi, ev := ev, pm := pm, ov := ov, cairn := cairn, si := si, erg := erg, aq := aq, counters := counters, out := out, freeCtr := freeCtr }
    = look ρ t) (h : Hdr) (sid staleN lostN : Nat) (s : State) : ∃ σ, execStreamSetTimers h sid staleN lostN s = .next
    σ ∧ look ρ σ = look ρ s := ⟨_, rfl, runProc_look ρ (by simp [hρ]) _ _ _ (procStreamSetTimers_look ρ (by simp [hρ]) _ _ _ _ _)⟩

theorem execStreamList_look {β : Type} (ρ : State → β) (hρ : ∀ (t : State) hi ev pm ov cairn erg aq counters out
    freeCtr, look ρ { t with hi := hi, ev := ev, pm := pm, ov := ov, cairn := cairn, erg := erg, aq := aq, counters := counters, out := out, freeCtr := freeCtr }
    = look ρ t) (h : Hdr) (addr len : Nat) (s : State) : ∃ σ, execStreamList h addr len s = .next σ ∧ look ρ σ = look
    ρ s := ⟨_, rfl, runProc_look ρ (by simp [hρ]) _ _ _ (procStreamList_look ρ _ _ _ _)⟩

theorem execStreamGconfig_look {β : Type} (ρ : State → β) (hρ : ∀ (t : State) hi ev pm ov cairn si erg aq counters out
    freeCtr, look ρ { t with hi := hi, ev := ev, pm := pm, ov := ov, cairn := cairn, si := si, erg := erg, aq := aq, counters := counters, out := out, freeCtr := freeCtr }
    = look ρ t) (h : Hdr) (p : SiP) (s : State) : ∃ σ, execStreamGconfig h p s = .next σ ∧ look ρ σ = look ρ s := ⟨_, rfl, runProc_look ρ (by simp [hρ]) _ _ _ (procStreamGconfig_look ρ (by simp [hρ]) _ _ _)⟩

theorem execStreamClearCounters_look {β : Type} (ρ : State → β) (hρ : ∀ (t : State) hi ev pm ov cairn si erg aq
    counters out freeCtr, look ρ { t with hi := hi, ev := ev, pm := pm, ov := ov, cairn := cairn, si := si, erg := erg, aq := aq, counters := counters, out := out, freeCtr := freeCtr }
    = look ρ t) (h : Hdr) (first count : Nat) (s : State) : ∃ σ, execStreamClearCounters h first count s = .next σ ∧
    look ρ σ = look ρ s := ⟨_, rfl, runProc_look ρ (by simp [hρ]) _ _ _ (procStreamClearCounters_look ρ (by simp [hρ]) _ _ _ _)⟩

end Sys2Proof.Machine
end

