-- ==== Sys2Proof/Laws/LookGroupCmd.lean ====
section
/-! SUPPORT. What the operations of Machine/GroupCmd.lean leave alone. -/

namespace Sys2Proof.Machine

@[simp] theorem placeGroup_look {β : Type} (ρ : State → β) (hρ : ∀ (t : State) erg, look ρ { t with erg := erg } =
    look ρ t) (p : GroupP) (members : List Nat) (byCommand : Bool) (s : State) : look ρ (placeGroup p members
    byCommand s) = look ρ s := by
  unfold placeGroup
  (repeat' split) <;> first | with_reducible rfl | simp [*]

@[simp] theorem endGroup_look {β : Type} (ρ : State → β) (hρ : ∀ (t : State) erg, look ρ { t with erg := erg } = look
    ρ t) (gid : Nat) (s : State) : look ρ (endGroup gid s) = look ρ s := by
  unfold endGroup
  (repeat' split) <;> first | with_reducible rfl | simp [*]

@[simp] theorem finishAdmit_look {β : Type} (ρ : State → β) (hρ : ∀ (t : State) hi ev pm counters out, look ρ { t with hi := hi, ev := ev, pm := pm, counters := counters, out := out }
    = look ρ t) (o : OpEntry) (ok : Bool) (change : State → State) (s : State) (hchange : ∀ t, look ρ (change t) =
    look ρ t) : look ρ (finishAdmit o ok change s) = look ρ s := by
  unfold finishAdmit
  (repeat' split) <;> first | with_reducible rfl | simp [*]

@[simp] theorem finishGroupDefine_look {β : Type} (ρ : State → β) (hρ : ∀ (t : State) hi ev pm erg counters out, look
    ρ { t with hi := hi, ev := ev, pm := pm, erg := erg, counters := counters, out := out } = look ρ t) (o : OpEntry)
    (p : GroupP) (hwFault : Bool) (s : State) : look ρ (finishGroupDefine o p hwFault s) = look ρ s := by
  unfold finishGroupDefine
  (repeat' split) <;> first | with_reducible rfl | simp [*]

@[simp] theorem discardOpen_look {β : Type} (ρ : State → β) (hρ : ∀ (t : State) erg counters, look ρ { t with erg := erg, counters := counters }
    = look ρ t) (gid : Nat) (s : State) : look ρ (discardOpen gid s) = look ρ s := by
  unfold discardOpen
  (repeat' split) <;> first | with_reducible rfl | simp [*]

@[simp] theorem changeGroup_look {β : Type} (ρ : State → β) (hρ : ∀ (t : State) erg, look ρ { t with erg := erg } =
    look ρ t) (gid : Nat) (f : Group → Group) (s : State) : look ρ (changeGroup gid f s) = look ρ s := by
  unfold changeGroup
  (repeat' split) <;> first | with_reducible rfl | simp [*]

@[simp] theorem finishGroupChange_look {β : Type} (ρ : State → β) (hρ : ∀ (t : State) hi ev pm erg counters out, look
    ρ { t with hi := hi, ev := ev, pm := pm, erg := erg, counters := counters, out := out } = look ρ t) (o : OpEntry)
    (gid : Nat) (f : Group → Group) (hwFault : Bool) (s : State) : look ρ (finishGroupChange o gid f hwFault s) = look
    ρ s := by
  unfold finishGroupChange
  apply finishAdmit_look ρ (by simp [hρ]) <;> intro s <;> simp [*]

@[simp] theorem leaveWaiting_look {β : Type} (ρ : State → β) (hρ : ∀ (t : State) si, look ρ { t with si := si } = look
    ρ t) (gid op : Nat) (sids : List Nat) (s : State) : look ρ (leaveWaiting gid op sids s) = look ρ s := by
  unfold leaveWaiting
  (repeat' split) <;> first | with_reducible rfl | simp [*]

@[simp] theorem finishGroupMembers_look {β : Type} (ρ : State → β) (hρ : ∀ (t : State) hi ev pm si erg counters out,
    look ρ { t with hi := hi, ev := ev, pm := pm, si := si, erg := erg, counters := counters, out := out } = look ρ t)
    (o : OpEntry) (gid op : Nat) (sids : List Nat) (hwFault : Bool) (s : State) : look ρ (finishGroupMembers o gid op
    sids hwFault s) = look ρ s := by
  unfold finishGroupMembers
  (repeat' split) <;> first | with_reducible rfl | simp [*]

@[simp] theorem finishSetTiming_look {β : Type} (ρ : State → β) (hρ : ∀ (t : State) hi ev pm erg counters out, look ρ
    { t with hi := hi, ev := ev, pm := pm, erg := erg, counters := counters, out := out } = look ρ t) (o : OpEntry) (p
    : TimingP) (hwFault : Bool) (s : State) : look ρ (finishSetTiming o p hwFault s) = look ρ s := by
  unfold finishSetTiming
  (repeat' split) <;> first | with_reducible rfl | simp [*]

@[simp] theorem placeSession_look {β : Type} (ρ : State → β) (hρ : ∀ (t : State) erg, look ρ { t with erg := erg } =
    look ρ t) (p : SessionP) (en byCommand : Bool) (s : State) : look ρ (placeSession p en byCommand s) = look ρ s :=
    by
  unfold placeSession
  (repeat' split) <;> first | with_reducible rfl | simp [*]

@[simp] theorem finishSessionDefine_look {β : Type} (ρ : State → β) (hρ : ∀ (t : State) hi ev pm erg counters out,
    look ρ { t with hi := hi, ev := ev, pm := pm, erg := erg, counters := counters, out := out } = look ρ t) (o :
    OpEntry) (p : SessionP) (hwFault : Bool) (s : State) : look ρ (finishSessionDefine o p hwFault s) = look ρ s := by
  unfold finishSessionDefine
  (repeat' split) <;> first | with_reducible rfl | simp [*]

@[simp] theorem enableSession_look {β : Type} (ρ : State → β) (hρ : ∀ (t : State) erg, look ρ { t with erg := erg } =
    look ρ t) (session : Nat) (en : Bool) (s : State) : look ρ (enableSession session en s) = look ρ s := by
  unfold enableSession
  (repeat' split) <;> first | with_reducible rfl | simp [*]

@[simp] theorem readAll_look {β : Type} (ρ : State → β) (hρ : ∀ (t : State) hi ec ev counters out, look ρ { t with hi := hi, ec := ec, ev := ev, counters := counters, out := out }
    = look ρ t) (c : Cell) (s : State) : look ρ (readAll c s).2 = look ρ s := by
  simp only [readAll] <;> repeat' first
    | with_reducible rfl | (simp [*]; done) | split | rw [look_foldl_of ρ Prod.snd] | rw [look_foldl_of ρ Prod.fst] | rw [look_foldl] | intro _ | dsimp only | simp [*]

@[simp] theorem finishReadCell_look {β : Type} (ρ : State → β) (hρ : ∀ (t : State) hi ec ev counters out, look ρ { t with hi := hi, ec := ec, ev := ev, counters := counters, out := out }
    = look ρ t) (o : OpEntry) (gid sid index addr : Nat) (dataBad : Bool) (s : State) : look ρ (finishReadCell o gid
    sid index addr dataBad s) = look ρ s := by
  simp only [finishReadCell]
  (repeat' split) <;> first | with_reducible rfl | simp [*]

@[simp] theorem clearGroups_look {β : Type} (ρ : State → β) (hρ : ∀ (t : State) erg counters, look ρ { t with erg := erg, counters := counters }
    = look ρ t) (mask : Nat) (s : State) : look ρ (clearGroups mask s) = look ρ s := by
  unfold clearGroups
  (repeat' split) <;> first | with_reducible rfl | simp [*]

@[simp] theorem setErg_look {β : Type} (ρ : State → β) (hρ : ∀ (t : State) erg, look ρ { t with erg := erg } = look ρ
    t) (p : ErgP) (s : State) : look ρ (setErg p s) = look ρ s := by
  unfold setErg
  (repeat' split) <;> first | with_reducible rfl | simp [*]

@[simp] theorem procGroupDefine_look {β : Type} (ρ : State → β)  (h : Hdr) (p : GroupP) (s : State) : (procGroupDefine
    h p s).work.Look ρ := by
  simp [procGroupDefine, *]

@[simp] theorem procGroupDelete_look {β : Type} (ρ : State → β) (hρ : ∀ (t : State) hi ev pm erg counters out, look ρ
    { t with hi := hi, ev := ev, pm := pm, erg := erg, counters := counters, out := out } = look ρ t) (h : Hdr) (gid :
    Nat) (s : State) : (procGroupDelete h gid s).work.Look ρ := by
  simp [procGroupDelete, Work.Look, *]

@[simp] theorem procGroupMembers_look {β : Type} (ρ : State → β)  (h : Hdr) (gid op count : Nat) (sids : List Nat) (s
    : State) : (procGroupMembers h gid op count sids s).work.Look ρ := by
  simp [procGroupMembers, *]

@[simp] theorem procGroupSetTiming_look {β : Type} (ρ : State → β)  (h : Hdr) (p : TimingP) (s : State) :
    (procGroupSetTiming h p s).work.Look ρ := by
  simp [procGroupSetTiming, *]

@[simp] theorem procGroupQuery_look {β : Type} (ρ : State → β)  (h : Hdr) (gid : Nat) (s : State) : (procGroupQuery h
    gid s).work.Look ρ := by
  simp [procGroupQuery, Work.Look, *]

@[simp] theorem procGroupSessionDefine_look {β : Type} (ρ : State → β)  (h : Hdr) (p : SessionP) (s : State) :
    (procGroupSessionDefine h p s).work.Look ρ := by
  simp [procGroupSessionDefine, *]

@[simp] theorem procGroupSessionDelete_look {β : Type} (ρ : State → β) (hρ : ∀ (t : State) erg, look ρ { t with erg := erg }
    = look ρ t) (h : Hdr) (session : Nat) (s : State) : (procGroupSessionDelete h session s).work.Look ρ := by
  simp [procGroupSessionDelete, Work.Look, *]

@[simp] theorem procGroupSessionEnable_look {β : Type} (ρ : State → β) (hρ : ∀ (t : State) erg, look ρ { t with erg := erg }
    = look ρ t) (h : Hdr) (session en : Nat) (s : State) : (procGroupSessionEnable h session en s).work.Look ρ := by
  simp [procGroupSessionEnable, Work.Look, *]

@[simp] theorem procGroupReadCell_look {β : Type} (ρ : State → β)  (h : Hdr) (gid sid index addr len : Nat) (s :
    State) : (procGroupReadCell h gid sid index addr len s).work.Look ρ := by
  simp [procGroupReadCell, *]

@[simp] theorem procGroupClearCounters_look {β : Type} (ρ : State → β) (hρ : ∀ (t : State) erg counters, look ρ { t with erg := erg, counters := counters }
    = look ρ t) (h : Hdr) (mask : Nat) (s : State) : (procGroupClearCounters h mask s).work.Look ρ := by
  simp [procGroupClearCounters, Work.Look, *]

@[simp] theorem procGroupGconfig_look {β : Type} (ρ : State → β) (hρ : ∀ (t : State) erg, look ρ { t with erg := erg }
    = look ρ t) (h : Hdr) (p : ErgP) (s : State) : (procGroupGconfig h p s).work.Look ρ := by
  simp [procGroupGconfig, Work.Look, *]

theorem execGroupDefine_look {β : Type} (ρ : State → β) (hρ : ∀ (t : State) hi ev pm ov cairn erg aq counters out
    freeCtr, look ρ { t with hi := hi, ev := ev, pm := pm, ov := ov, cairn := cairn, erg := erg, aq := aq, counters := counters, out := out, freeCtr := freeCtr }
    = look ρ t) (h : Hdr) (p : GroupP) (s : State) : ∃ σ, execGroupDefine h p s = .next σ ∧ look ρ σ = look ρ s := ⟨_, rfl, runProc_look ρ (by simp [hρ]) _ _ _ (procGroupDefine_look ρ _ _ _)⟩

theorem execGroupDelete_look {β : Type} (ρ : State → β) (hρ : ∀ (t : State) hi ev pm ov cairn erg aq counters out
    freeCtr, look ρ { t with hi := hi, ev := ev, pm := pm, ov := ov, cairn := cairn, erg := erg, aq := aq, counters := counters, out := out, freeCtr := freeCtr }
    = look ρ t) (h : Hdr) (gid : Nat) (s : State) : ∃ σ, execGroupDelete h gid s = .next σ ∧ look ρ σ = look ρ s := ⟨_, rfl, runProc_look ρ (by simp [hρ]) _ _ _ (procGroupDelete_look ρ (by simp [hρ]) _ _ _)⟩

theorem execGroupMembers_look {β : Type} (ρ : State → β) (hρ : ∀ (t : State) hi ev pm ov cairn erg aq counters out
    freeCtr, look ρ { t with hi := hi, ev := ev, pm := pm, ov := ov, cairn := cairn, erg := erg, aq := aq, counters := counters, out := out, freeCtr := freeCtr }
    = look ρ t) (h : Hdr) (gid op count : Nat) (sids : List Nat) (s : State) : ∃ σ, execGroupMembers h gid op count
    sids s = .next σ ∧ look ρ σ = look ρ s := ⟨_, rfl, runProc_look ρ (by simp [hρ]) _ _ _ (procGroupMembers_look ρ _ _ _ _ _ _)⟩

theorem execGroupSetTiming_look {β : Type} (ρ : State → β) (hρ : ∀ (t : State) hi ev pm ov cairn erg aq counters out
    freeCtr, look ρ { t with hi := hi, ev := ev, pm := pm, ov := ov, cairn := cairn, erg := erg, aq := aq, counters := counters, out := out, freeCtr := freeCtr }
    = look ρ t) (h : Hdr) (p : TimingP) (s : State) : ∃ σ, execGroupSetTiming h p s = .next σ ∧ look ρ σ = look ρ s := ⟨_, rfl, runProc_look ρ (by simp [hρ]) _ _ _ (procGroupSetTiming_look ρ _ _ _)⟩

theorem execGroupQuery_look {β : Type} (ρ : State → β) (hρ : ∀ (t : State) hi ev pm ov cairn erg aq counters out
    freeCtr, look ρ { t with hi := hi, ev := ev, pm := pm, ov := ov, cairn := cairn, erg := erg, aq := aq, counters := counters, out := out, freeCtr := freeCtr }
    = look ρ t) (h : Hdr) (gid : Nat) (s : State) : ∃ σ, execGroupQuery h gid s = .next σ ∧ look ρ σ = look ρ s := ⟨_, rfl, runProc_look ρ (by simp [hρ]) _ _ _ (procGroupQuery_look ρ _ _ _)⟩

theorem execGroupSessionDefine_look {β : Type} (ρ : State → β) (hρ : ∀ (t : State) hi ev pm ov cairn erg aq counters
    out freeCtr, look ρ { t with hi := hi, ev := ev, pm := pm, ov := ov, cairn := cairn, erg := erg, aq := aq, counters := counters, out := out, freeCtr := freeCtr }
    = look ρ t) (h : Hdr) (p : SessionP) (s : State) : ∃ σ, execGroupSessionDefine h p s = .next σ ∧ look ρ σ = look ρ
    s := ⟨_, rfl, runProc_look ρ (by simp [hρ]) _ _ _ (procGroupSessionDefine_look ρ _ _ _)⟩

theorem execGroupSessionDelete_look {β : Type} (ρ : State → β) (hρ : ∀ (t : State) hi ev pm ov cairn erg aq counters
    out freeCtr, look ρ { t with hi := hi, ev := ev, pm := pm, ov := ov, cairn := cairn, erg := erg, aq := aq, counters := counters, out := out, freeCtr := freeCtr }
    = look ρ t) (h : Hdr) (session : Nat) (s : State) : ∃ σ, execGroupSessionDelete h session s = .next σ ∧ look ρ σ =
    look ρ s := ⟨_, rfl, runProc_look ρ (by simp [hρ]) _ _ _ (procGroupSessionDelete_look ρ (by simp [hρ]) _ _ _)⟩

theorem execGroupSessionEnable_look {β : Type} (ρ : State → β) (hρ : ∀ (t : State) hi ev pm ov cairn erg aq counters
    out freeCtr, look ρ { t with hi := hi, ev := ev, pm := pm, ov := ov, cairn := cairn, erg := erg, aq := aq, counters := counters, out := out, freeCtr := freeCtr }
    = look ρ t) (h : Hdr) (session en : Nat) (s : State) : ∃ σ, execGroupSessionEnable h session en s = .next σ ∧ look
    ρ σ = look ρ s := ⟨_, rfl, runProc_look ρ (by simp [hρ]) _ _ _ (procGroupSessionEnable_look ρ (by simp [hρ]) _ _ _ _)⟩

theorem execGroupReadCell_look {β : Type} (ρ : State → β) (hρ : ∀ (t : State) hi ev pm ov cairn erg aq counters out
    freeCtr, look ρ { t with hi := hi, ev := ev, pm := pm, ov := ov, cairn := cairn, erg := erg, aq := aq, counters := counters, out := out, freeCtr := freeCtr }
    = look ρ t) (h : Hdr) (gid sid index addr len : Nat) (s : State) : ∃ σ, execGroupReadCell h gid sid index addr len
    s = .next σ ∧ look ρ σ = look ρ s := ⟨_, rfl, runProc_look ρ (by simp [hρ]) _ _ _ (procGroupReadCell_look ρ _ _ _ _ _ _ _)⟩

theorem execGroupClearCounters_look {β : Type} (ρ : State → β) (hρ : ∀ (t : State) hi ev pm ov cairn erg aq counters
    out freeCtr, look ρ { t with hi := hi, ev := ev, pm := pm, ov := ov, cairn := cairn, erg := erg, aq := aq, counters := counters, out := out, freeCtr := freeCtr }
    = look ρ t) (h : Hdr) (mask : Nat) (s : State) : ∃ σ, execGroupClearCounters h mask s = .next σ ∧ look ρ σ = look
    ρ s := ⟨_, rfl, runProc_look ρ (by simp [hρ]) _ _ _ (procGroupClearCounters_look ρ (by simp [hρ]) _ _ _)⟩

theorem execGroupGconfig_look {β : Type} (ρ : State → β) (hρ : ∀ (t : State) hi ev pm ov cairn erg aq counters out
    freeCtr, look ρ { t with hi := hi, ev := ev, pm := pm, ov := ov, cairn := cairn, erg := erg, aq := aq, counters := counters, out := out, freeCtr := freeCtr }
    = look ρ t) (h : Hdr) (p : ErgP) (s : State) : ∃ σ, execGroupGconfig h p s = .next σ ∧ look ρ σ = look ρ s := ⟨_, rfl, runProc_look ρ (by simp [hρ]) _ _ _ (procGroupGconfig_look ρ (by simp [hρ]) _ _ _)⟩

end Sys2Proof.Machine
end

