-- ==== Sys2Proof/Laws/LookCaravanCmd.lean ====
section
/-! SUPPORT. What the operations of Machine/CaravanCmd.lean leave alone. -/

namespace Sys2Proof.Machine

@[simp] theorem placeJob_look {β : Type} (ρ : State → β) (hρ : ∀ (t : State) cv, look ρ { t with cv := cv } = look ρ
    t) (p : JobP) (byCommand : Bool) (s : State) : look ρ (placeJob p byCommand s) = look ρ s := by
  unfold placeJob
  (repeat' split) <;> first | with_reducible rfl | simp [*]

@[simp] theorem finishJobDefine_look {β : Type} (ρ : State → β) (hρ : ∀ (t : State) hi ev pm cv counters out, look ρ { t with hi := hi, ev := ev, pm := pm, cv := cv, counters := counters, out := out }
    = look ρ t) (o : OpEntry) (p : JobP) (hwFault : Bool) (s : State) : look ρ (finishJobDefine o p hwFault s) = look
    ρ s := by
  unfold finishJobDefine
  (repeat' split) <;> first | with_reducible rfl | simp [*]

@[simp] theorem bindJob_look {β : Type} (ρ : State → β) (hρ : ∀ (t : State) cv, look ρ { t with cv := cv } = look ρ t)
    (job gid : Nat) (en : Bool) (s : State) : look ρ (bindJob job gid en s) = look ρ s := by
  unfold bindJob
  (repeat' split) <;> first | with_reducible rfl | simp [*]

@[simp] theorem finishJobBind_look {β : Type} (ρ : State → β) (hρ : ∀ (t : State) hi ev pm cv counters out, look ρ { t with hi := hi, ev := ev, pm := pm, cv := cv, counters := counters, out := out }
    = look ρ t) (o : OpEntry) (job gid en : Nat) (s : State) : look ρ (finishJobBind o job gid en s) = look ρ s := by
  unfold finishJobBind
  (repeat' split) <;> first | with_reducible rfl | simp [*]

@[simp] theorem setLevels_look {β : Type} (ρ : State → β) (hρ : ∀ (t : State) cv, look ρ { t with cv := cv } = look ρ
    t) (p : LevelP) (s : State) : look ρ (setLevels p s) = look ρ s := by
  unfold setLevels
  (repeat' split) <;> first | with_reducible rfl | simp [*]

@[simp] theorem finishLevels_look {β : Type} (ρ : State → β) (hρ : ∀ (t : State) hi ev pm cv counters out, look ρ { t with hi := hi, ev := ev, pm := pm, cv := cv, counters := counters, out := out }
    = look ρ t) (o : OpEntry) (p : LevelP) (s : State) : look ρ (finishLevels o p s) = look ρ s := by
  unfold finishLevels
  (repeat' split) <;> first | with_reducible rfl | simp [*]

@[simp] theorem retireByCommand_look {β : Type} (ρ : State → β) (hρ : ∀ (t : State) hi ec ev pm erg cv ts sc aq
    counters out freeCtr, look ρ { t with hi := hi, ec := ec, ev := ev, pm := pm, erg := erg, cv := cv, ts := ts, sc := sc, aq := aq, counters := counters, out := out, freeCtr := freeCtr }
    = look ρ t) (engine : Nat) (s : State) : look ρ (retireByCommand engine s) = look ρ s := by
  unfold retireByCommand
  (repeat' split) <;> first | with_reducible rfl | simp [*]

@[simp] theorem finishEngineRetire_look {β : Type} (ρ : State → β) (hρ : ∀ (t : State) hi ec ev pm erg cv ts sc aq
    counters out freeCtr, look ρ { t with hi := hi, ec := ec, ev := ev, pm := pm, erg := erg, cv := cv, ts := ts, sc := sc, aq := aq, counters := counters, out := out, freeCtr := freeCtr }
    = look ρ t) (o : OpEntry) (engine : Nat) (hwFault : Bool) (s : State) : look ρ (finishEngineRetire o engine
    hwFault s) = look ρ s := by
  unfold finishEngineRetire
  (repeat' split) <;> first | with_reducible rfl | simp [*]

@[simp] theorem finishEngineRestore_look {β : Type} (ρ : State → β) (hρ : ∀ (t : State) hi ev pm cv counters out, look
    ρ { t with hi := hi, ev := ev, pm := pm, cv := cv, counters := counters, out := out } = look ρ t) (o : OpEntry)
    (engine : Nat) (pass : Bool) (s : State) : look ρ (finishEngineRestore o engine pass s) = look ρ s := by
  unfold finishEngineRestore
  (repeat' split) <;> first | with_reducible rfl | simp [*]

@[simp] theorem jobAnswer_look {β : Type} (ρ : State → β)  (job : Nat) (s : State) : look ρ (jobAnswer job s).state =
    look ρ s := by
  unfold jobAnswer
  (repeat' split) <;> first | with_reducible rfl | simp [*]

@[simp] theorem clearJobs_look {β : Type} (ρ : State → β) (hρ : ∀ (t : State) counters, look ρ { t with counters := counters }
    = look ρ t) (mask : Nat) (s : State) : look ρ (clearJobs mask s) = look ρ s := by
  unfold clearJobs
  (repeat' split) <;> first | with_reducible rfl | simp [*]

@[simp] theorem procCaravanJobDefine_look {β : Type} (ρ : State → β)  (h : Hdr) (p : JobP) (s : State) :
    (procCaravanJobDefine h p s).work.Look ρ := by
  simp [procCaravanJobDefine, *]

@[simp] theorem procCaravanJobDelete_look {β : Type} (ρ : State → β) (hρ : ∀ (t : State) hi ev pm cv counters out,
    look ρ { t with hi := hi, ev := ev, pm := pm, cv := cv, counters := counters, out := out } = look ρ t) (h : Hdr)
    (job : Nat) (s : State) : (procCaravanJobDelete h job s).work.Look ρ := by
  simp [procCaravanJobDelete, Work.Look, *]

@[simp] theorem procCaravanJobBind_look {β : Type} (ρ : State → β) (hρ : ∀ (t : State) cv, look ρ { t with cv := cv }
    = look ρ t) (h : Hdr) (job gid en : Nat) (s : State) : (procCaravanJobBind h job gid en s).work.Look ρ := by
  simp [procCaravanJobBind, *]

@[simp] theorem procCaravanRun_look {β : Type} (ρ : State → β) (hρ : ∀ (t : State) hi ev erg cv ts sc counters out
    freeCtr, look ρ { t with hi := hi, ev := ev, erg := erg, cv := cv, ts := ts, sc := sc, counters := counters, out := out, freeCtr := freeCtr }
    = look ρ t) (h : Hdr) (job arg : Nat) (s : State) : (procCaravanRun h job arg s).work.Look ρ := by
  simp [procCaravanRun, Work.Look, *]

@[simp] theorem procCaravanLevelConfig_look {β : Type} (ρ : State → β)  (h : Hdr) (p : LevelP) (s : State) :
    (procCaravanLevelConfig h p s).work.Look ρ := by
  simp [procCaravanLevelConfig, *]

@[simp] theorem procCaravanEngineRetire_look {β : Type} (ρ : State → β)  (h : Hdr) (engine : Nat) (s : State) :
    (procCaravanEngineRetire h engine s).work.Look ρ := by
  simp [procCaravanEngineRetire, *]

@[simp] theorem procCaravanEngineRestore_look {β : Type} (ρ : State → β) (hρ : ∀ (t : State) cv, look ρ { t with cv := cv }
    = look ρ t) (h : Hdr) (engine : Nat) (s : State) : (procCaravanEngineRestore h engine s).work.Look ρ := by
  simp [procCaravanEngineRestore, Work.Look, *]

@[simp] theorem procCaravanQueryJob_look {β : Type} (ρ : State → β)  (h : Hdr) (job : Nat) (s : State) :
    (procCaravanQueryJob h job s).work.Look ρ := by
  simp [procCaravanQueryJob, Work.Look, *]

@[simp] theorem procCaravanQueryEngine_look {β : Type} (ρ : State → β)  (h : Hdr) (engine : Nat) (s : State) :
    (procCaravanQueryEngine h engine s).work.Look ρ := by
  simp [procCaravanQueryEngine, Work.Look, *]

@[simp] theorem procCaravanClearCounters_look {β : Type} (ρ : State → β) (hρ : ∀ (t : State) counters, look ρ { t with counters := counters }
    = look ρ t) (h : Hdr) (mask : Nat) (s : State) : (procCaravanClearCounters h mask s).work.Look ρ := by
  simp [procCaravanClearCounters, Work.Look, *]

theorem execCaravanJobDefine_look {β : Type} (ρ : State → β) (hρ : ∀ (t : State) hi ev pm ov cairn erg aq counters out
    freeCtr, look ρ { t with hi := hi, ev := ev, pm := pm, ov := ov, cairn := cairn, erg := erg, aq := aq, counters := counters, out := out, freeCtr := freeCtr }
    = look ρ t) (h : Hdr) (p : JobP) (s : State) : ∃ σ, execCaravanJobDefine h p s = .next σ ∧ look ρ σ = look ρ s := ⟨_, rfl, runProc_look ρ (by simp [hρ]) _ _ _ (procCaravanJobDefine_look ρ _ _ _)⟩

theorem execCaravanJobDelete_look {β : Type} (ρ : State → β) (hρ : ∀ (t : State) hi ev pm ov cairn erg cv aq counters
    out freeCtr, look ρ { t with hi := hi, ev := ev, pm := pm, ov := ov, cairn := cairn, erg := erg, cv := cv, aq := aq, counters := counters, out := out, freeCtr := freeCtr }
    = look ρ t) (h : Hdr) (job : Nat) (s : State) : ∃ σ, execCaravanJobDelete h job s = .next σ ∧ look ρ σ = look ρ s
    := ⟨_, rfl, runProc_look ρ (by simp [hρ]) _ _ _ (procCaravanJobDelete_look ρ (by simp [hρ]) _ _ _)⟩

theorem execCaravanJobBind_look {β : Type} (ρ : State → β) (hρ : ∀ (t : State) hi ev pm ov cairn erg cv aq counters
    out freeCtr, look ρ { t with hi := hi, ev := ev, pm := pm, ov := ov, cairn := cairn, erg := erg, cv := cv, aq := aq, counters := counters, out := out, freeCtr := freeCtr }
    = look ρ t) (h : Hdr) (job gid en : Nat) (s : State) : ∃ σ, execCaravanJobBind h job gid en s = .next σ ∧ look ρ σ
    = look ρ s := ⟨_, rfl, runProc_look ρ (by simp [hρ]) _ _ _ (procCaravanJobBind_look ρ (by simp [hρ]) _ _ _ _ _)⟩

theorem execCaravanRun_look {β : Type} (ρ : State → β) (hρ : ∀ (t : State) hi ev pm ov cairn erg cv ts sc aq counters
    out freeCtr, look ρ { t with hi := hi, ev := ev, pm := pm, ov := ov, cairn := cairn, erg := erg, cv := cv, ts := ts, sc := sc, aq := aq, counters := counters, out := out, freeCtr := freeCtr }
    = look ρ t) (h : Hdr) (job arg : Nat) (s : State) : ∃ σ, execCaravanRun h job arg s = .next σ ∧ look ρ σ = look ρ
    s := ⟨_, rfl, runProc_look ρ (by simp [hρ]) _ _ _ (procCaravanRun_look ρ (by simp [hρ]) _ _ _ _)⟩

theorem execCaravanLevelConfig_look {β : Type} (ρ : State → β) (hρ : ∀ (t : State) hi ev pm ov cairn erg aq counters
    out freeCtr, look ρ { t with hi := hi, ev := ev, pm := pm, ov := ov, cairn := cairn, erg := erg, aq := aq, counters := counters, out := out, freeCtr := freeCtr }
    = look ρ t) (h : Hdr) (p : LevelP) (s : State) : ∃ σ, execCaravanLevelConfig h p s = .next σ ∧ look ρ σ = look ρ s
    := ⟨_, rfl, runProc_look ρ (by simp [hρ]) _ _ _ (procCaravanLevelConfig_look ρ _ _ _)⟩

theorem execCaravanEngineRetire_look {β : Type} (ρ : State → β) (hρ : ∀ (t : State) hi ev pm ov cairn erg aq counters
    out freeCtr, look ρ { t with hi := hi, ev := ev, pm := pm, ov := ov, cairn := cairn, erg := erg, aq := aq, counters := counters, out := out, freeCtr := freeCtr }
    = look ρ t) (h : Hdr) (engine : Nat) (s : State) : ∃ σ, execCaravanEngineRetire h engine s = .next σ ∧ look ρ σ =
    look ρ s := ⟨_, rfl, runProc_look ρ (by simp [hρ]) _ _ _ (procCaravanEngineRetire_look ρ _ _ _)⟩

theorem execCaravanEngineRestore_look {β : Type} (ρ : State → β) (hρ : ∀ (t : State) hi ev pm ov cairn erg cv aq
    counters out freeCtr, look ρ { t with hi := hi, ev := ev, pm := pm, ov := ov, cairn := cairn, erg := erg, cv := cv, aq := aq, counters := counters, out := out, freeCtr := freeCtr }
    = look ρ t) (h : Hdr) (engine : Nat) (s : State) : ∃ σ, execCaravanEngineRestore h engine s = .next σ ∧ look ρ σ =
    look ρ s := ⟨_, rfl, runProc_look ρ (by simp [hρ]) _ _ _ (procCaravanEngineRestore_look ρ (by simp [hρ]) _ _ _)⟩

theorem execCaravanQueryJob_look {β : Type} (ρ : State → β) (hρ : ∀ (t : State) hi ev pm ov cairn erg aq counters out
    freeCtr, look ρ { t with hi := hi, ev := ev, pm := pm, ov := ov, cairn := cairn, erg := erg, aq := aq, counters := counters, out := out, freeCtr := freeCtr }
    = look ρ t) (h : Hdr) (job : Nat) (s : State) : ∃ σ, execCaravanQueryJob h job s = .next σ ∧ look ρ σ = look ρ s
    := ⟨_, rfl, runProc_look ρ (by simp [hρ]) _ _ _ (procCaravanQueryJob_look ρ _ _ _)⟩

theorem execCaravanQueryEngine_look {β : Type} (ρ : State → β) (hρ : ∀ (t : State) hi ev pm ov cairn erg aq counters
    out freeCtr, look ρ { t with hi := hi, ev := ev, pm := pm, ov := ov, cairn := cairn, erg := erg, aq := aq, counters := counters, out := out, freeCtr := freeCtr }
    = look ρ t) (h : Hdr) (engine : Nat) (s : State) : ∃ σ, execCaravanQueryEngine h engine s = .next σ ∧ look ρ σ =
    look ρ s := ⟨_, rfl, runProc_look ρ (by simp [hρ]) _ _ _ (procCaravanQueryEngine_look ρ _ _ _)⟩

theorem execCaravanClearCounters_look {β : Type} (ρ : State → β) (hρ : ∀ (t : State) hi ev pm ov cairn erg aq counters
    out freeCtr, look ρ { t with hi := hi, ev := ev, pm := pm, ov := ov, cairn := cairn, erg := erg, aq := aq, counters := counters, out := out, freeCtr := freeCtr }
    = look ρ t) (h : Hdr) (mask : Nat) (s : State) : ∃ σ, execCaravanClearCounters h mask s = .next σ ∧ look ρ σ =
    look ρ s := ⟨_, rfl, runProc_look ρ (by simp [hρ]) _ _ _ (procCaravanClearCounters_look ρ (by simp [hρ]) _ _ _)⟩

end Sys2Proof.Machine
end

