-- ==== Sys2Proof/Laws/LookTopoCmd.lean ====
section
/-! SUPPORT. What the operations of Machine/TopoCmd.lean leave alone. -/

namespace Sys2Proof.Machine

@[simp] theorem clearHistory_look {β : Type} (ρ : State → β) (hρ : ∀ (t : State) ts, look ρ { t with ts := ts } = look
    ρ t) (s : State) : look ρ (clearHistory s) = look ρ s := by
  unfold clearHistory
  (repeat' split) <;> first | with_reducible rfl | simp [*]

@[simp] theorem placeModel_look {β : Type} (ρ : State → β) (hρ : ∀ (t : State) ts, look ρ { t with ts := ts } = look ρ
    t) (m : ModelP) (s : State) : look ρ (placeModel m s) = look ρ s := by
  unfold placeModel
  (repeat' split) <;> first | with_reducible rfl | simp [*]

@[simp] theorem finishModelLoad_look {β : Type} (ρ : State → β) (hρ : ∀ (t : State) hi ev cv ts counters out, look ρ { t with hi := hi, ev := ev, cv := cv, ts := ts, counters := counters, out := out }
    = look ρ t) (o : OpEntry) (sigOk fetchOk : Bool) (m : ModelP) (fin : Finish) (s : State) : look ρ (finishModelLoad
    o sigOk fetchOk m fin s) = look ρ s := by
  unfold finishModelLoad
  (repeat' split) <;> first | with_reducible rfl | simp [*]

@[simp] theorem setTopo_look {β : Type} (ρ : State → β) (hρ : ∀ (t : State) ts, look ρ { t with ts := ts } = look ρ t)
    (p : TopoP) (s : State) : look ρ (setTopo p s) = look ρ s := by
  unfold setTopo
  (repeat' split) <;> first | with_reducible rfl | simp [*]

@[simp] theorem placeCut_look {β : Type} (ρ : State → β) (hρ : ∀ (t : State) ts, look ρ { t with ts := ts } = look ρ
    t) (p : CutP) (s : State) : look ρ (placeCut p s) = look ρ s := by
  unfold placeCut
  (repeat' split) <;> first | with_reducible rfl | simp [*]

@[simp] theorem forceBranch_look {β : Type} (ρ : State → β) (hρ : ∀ (t : State) ts, look ρ { t with ts := ts } = look
    ρ t) (branch action : Nat) (s : State) : look ρ (forceBranch branch action s) = look ρ s := by
  unfold forceBranch
  (repeat' split) <;> first | with_reducible rfl | simp [*]

@[simp] theorem askRefac_look {β : Type} (ρ : State → β) (hρ : ∀ (t : State) hi ev cv ts counters out, look ρ { t with hi := hi, ev := ev, cv := cv, ts := ts, counters := counters, out := out }
    = look ρ t) (k : Nat) (s : State) : look ρ (askRefac k s) = look ρ s := by
  unfold askRefac
  (repeat' split) <;> first | with_reducible rfl | simp [*]

@[simp] theorem pinResult_look {β : Type} (ρ : State → β) (hρ : ∀ (t : State) hi, look ρ { t with hi := hi } = look ρ
    t) (h : Hdr) (index sections addr len k : Nat) (s : State) : look ρ (pinResult h index sections addr len k s) =
    look ρ s := by
  unfold pinResult
  (repeat' split) <;> first | with_reducible rfl | simp [*]

@[simp] theorem finishReadResult_look {β : Type} (ρ : State → β) (hρ : ∀ (t : State) hi ev counters out, look ρ { t with hi := hi, ev := ev, counters := counters, out := out }
    = look ρ t) (o : OpEntry) (index sections addr len : Nat) (dataBad : Bool) (s : State) : look ρ (finishReadResult
    o index sections addr len dataBad s) = look ρ s := by
  unfold finishReadResult
  (repeat' split) <;> first | with_reducible rfl | simp [*]

@[simp] theorem procTopoModelLoad_look {β : Type} (ρ : State → β)  (h : Hdr) (addr len : Nat) (_sigOk _fetchOk : Bool)
    (_m : ModelP) (s : State) : (procTopoModelLoad h addr len _sigOk _fetchOk _m s).work.Look ρ := by
  simp [procTopoModelLoad, *]

@[simp] theorem procTopoConfig_look {β : Type} (ρ : State → β) (hρ : ∀ (t : State) ts, look ρ { t with ts := ts } =
    look ρ t) (h : Hdr) (p : TopoP) (s : State) : (procTopoConfig h p s).work.Look ρ := by
  simp [procTopoConfig, Work.Look, *]

@[simp] theorem procTopoCutsetDefine_look {β : Type} (ρ : State → β) (hρ : ∀ (t : State) ts, look ρ { t with ts := ts }
    = look ρ t) (h : Hdr) (p : CutP) (s : State) : (procTopoCutsetDefine h p s).work.Look ρ := by
  simp [procTopoCutsetDefine, Work.Look, *]

@[simp] theorem procTopoCutsetDelete_look {β : Type} (ρ : State → β) (hρ : ∀ (t : State) ts, look ρ { t with ts := ts }
    = look ρ t) (h : Hdr) (cut : Nat) (s : State) : (procTopoCutsetDelete h cut s).work.Look ρ := by
  simp [procTopoCutsetDelete, Work.Look, *]

@[simp] theorem procTopoBranchForce_look {β : Type} (ρ : State → β) (hρ : ∀ (t : State) ts, look ρ { t with ts := ts }
    = look ρ t) (h : Hdr) (branch action : Nat) (s : State) : (procTopoBranchForce h branch action s).work.Look ρ :=
    by
  simp [procTopoBranchForce, Work.Look, *]

@[simp] theorem procTopoRefactor_look {β : Type} (ρ : State → β) (hρ : ∀ (t : State) hi ev cv ts counters out, look ρ
    { t with hi := hi, ev := ev, cv := cv, ts := ts, counters := counters, out := out } = look ρ t) (h : Hdr) (s :
    State) : (procTopoRefactor h s).work.Look ρ := by
  simp [procTopoRefactor, Work.Look, *]

@[simp] theorem procTopoReadResult_look {β : Type} (ρ : State → β) (hρ : ∀ (t : State) hi, look ρ { t with hi := hi }
    = look ρ t) (h : Hdr) (index sections addr len : Nat) (s : State) : (procTopoReadResult h index sections addr len
    s).work.Look ρ := by
  simp [procTopoReadResult, Work.Look, *]

@[simp] theorem procTopoQuery_look {β : Type} (ρ : State → β)  (h : Hdr) (s : State) : (procTopoQuery h s).work.Look ρ
    := by
  simp [procTopoQuery, Work.Look, *]

@[simp] theorem procTopoClearCounters_look {β : Type} (ρ : State → β) (hρ : ∀ (t : State) counters, look ρ { t with counters := counters }
    = look ρ t) (h : Hdr) (s : State) : (procTopoClearCounters h s).work.Look ρ := by
  simp [procTopoClearCounters, Work.Look, *]

theorem execTopoModelLoad_look {β : Type} (ρ : State → β) (hρ : ∀ (t : State) hi ev pm ov cairn erg aq counters out
    freeCtr, look ρ { t with hi := hi, ev := ev, pm := pm, ov := ov, cairn := cairn, erg := erg, aq := aq, counters := counters, out := out, freeCtr := freeCtr }
    = look ρ t) (h : Hdr) (addr len : Nat) (sigOk fetchOk : Bool) (m : ModelP) (s : State) : ∃ σ, execTopoModelLoad h
    addr len sigOk fetchOk m s = .next σ ∧ look ρ σ = look ρ s := ⟨_, rfl, runProc_look ρ (by simp [hρ]) _ _ _ (procTopoModelLoad_look ρ _ _ _ _ _ _ _)⟩

theorem execTopoConfig_look {β : Type} (ρ : State → β) (hρ : ∀ (t : State) hi ev pm ov cairn erg ts aq counters out
    freeCtr, look ρ { t with hi := hi, ev := ev, pm := pm, ov := ov, cairn := cairn, erg := erg, ts := ts, aq := aq, counters := counters, out := out, freeCtr := freeCtr }
    = look ρ t) (h : Hdr) (p : TopoP) (s : State) : ∃ σ, execTopoConfig h p s = .next σ ∧ look ρ σ = look ρ s := ⟨_, rfl, runProc_look ρ (by simp [hρ]) _ _ _ (procTopoConfig_look ρ (by simp [hρ]) _ _ _)⟩

theorem execTopoCutsetDefine_look {β : Type} (ρ : State → β) (hρ : ∀ (t : State) hi ev pm ov cairn erg ts aq counters
    out freeCtr, look ρ { t with hi := hi, ev := ev, pm := pm, ov := ov, cairn := cairn, erg := erg, ts := ts, aq := aq, counters := counters, out := out, freeCtr := freeCtr }
    = look ρ t) (h : Hdr) (p : CutP) (s : State) : ∃ σ, execTopoCutsetDefine h p s = .next σ ∧ look ρ σ = look ρ s := ⟨_, rfl, runProc_look ρ (by simp [hρ]) _ _ _ (procTopoCutsetDefine_look ρ (by simp [hρ]) _ _ _)⟩

theorem execTopoCutsetDelete_look {β : Type} (ρ : State → β) (hρ : ∀ (t : State) hi ev pm ov cairn erg ts aq counters
    out freeCtr, look ρ { t with hi := hi, ev := ev, pm := pm, ov := ov, cairn := cairn, erg := erg, ts := ts, aq := aq, counters := counters, out := out, freeCtr := freeCtr }
    = look ρ t) (h : Hdr) (cut : Nat) (s : State) : ∃ σ, execTopoCutsetDelete h cut s = .next σ ∧ look ρ σ = look ρ s
    := ⟨_, rfl, runProc_look ρ (by simp [hρ]) _ _ _ (procTopoCutsetDelete_look ρ (by simp [hρ]) _ _ _)⟩

theorem execTopoBranchForce_look {β : Type} (ρ : State → β) (hρ : ∀ (t : State) hi ev pm ov cairn erg ts aq counters
    out freeCtr, look ρ { t with hi := hi, ev := ev, pm := pm, ov := ov, cairn := cairn, erg := erg, ts := ts, aq := aq, counters := counters, out := out, freeCtr := freeCtr }
    = look ρ t) (h : Hdr) (branch action : Nat) (s : State) : ∃ σ, execTopoBranchForce h branch action s = .next σ ∧
    look ρ σ = look ρ s := ⟨_, rfl, runProc_look ρ (by simp [hρ]) _ _ _ (procTopoBranchForce_look ρ (by simp [hρ]) _ _ _ _)⟩

theorem execTopoRefactor_look {β : Type} (ρ : State → β) (hρ : ∀ (t : State) hi ev pm ov cairn erg cv ts aq counters
    out freeCtr, look ρ { t with hi := hi, ev := ev, pm := pm, ov := ov, cairn := cairn, erg := erg, cv := cv, ts := ts, aq := aq, counters := counters, out := out, freeCtr := freeCtr }
    = look ρ t) (h : Hdr) (s : State) : ∃ σ, execTopoRefactor h s = .next σ ∧ look ρ σ = look ρ s := ⟨_, rfl, runProc_look ρ (by simp [hρ]) _ _ _ (procTopoRefactor_look ρ (by simp [hρ]) _ _)⟩

theorem execTopoReadResult_look {β : Type} (ρ : State → β) (hρ : ∀ (t : State) hi ev pm ov cairn erg aq counters out
    freeCtr, look ρ { t with hi := hi, ev := ev, pm := pm, ov := ov, cairn := cairn, erg := erg, aq := aq, counters := counters, out := out, freeCtr := freeCtr }
    = look ρ t) (h : Hdr) (index sections addr len : Nat) (s : State) : ∃ σ, execTopoReadResult h index sections addr
    len s = .next σ ∧ look ρ σ = look ρ s := ⟨_, rfl, runProc_look ρ (by simp [hρ]) _ _ _ (procTopoReadResult_look ρ (by simp [hρ]) _ _ _ _ _ _)⟩

theorem execTopoQuery_look {β : Type} (ρ : State → β) (hρ : ∀ (t : State) hi ev pm ov cairn erg aq counters out
    freeCtr, look ρ { t with hi := hi, ev := ev, pm := pm, ov := ov, cairn := cairn, erg := erg, aq := aq, counters := counters, out := out, freeCtr := freeCtr }
    = look ρ t) (h : Hdr) (s : State) : ∃ σ, execTopoQuery h s = .next σ ∧ look ρ σ = look ρ s := ⟨_, rfl, runProc_look ρ (by simp [hρ]) _ _ _ (procTopoQuery_look ρ _ _)⟩

theorem execTopoClearCounters_look {β : Type} (ρ : State → β) (hρ : ∀ (t : State) hi ev pm ov cairn erg aq counters
    out freeCtr, look ρ { t with hi := hi, ev := ev, pm := pm, ov := ov, cairn := cairn, erg := erg, aq := aq, counters := counters, out := out, freeCtr := freeCtr }
    = look ρ t) (h : Hdr) (s : State) : ∃ σ, execTopoClearCounters h s = .next σ ∧ look ρ σ = look ρ s := ⟨_, rfl, runProc_look ρ (by simp [hρ]) _ _ _ (procTopoClearCounters_look ρ (by simp [hρ]) _ _)⟩

end Sys2Proof.Machine
end

