-- ==== Sys2Proof/Laws/LookOscCmd.lean ====
section
/-! SUPPORT. What the operations of Machine/OscCmd.lean leave alone. -/

namespace Sys2Proof.Machine

@[simp] theorem armSlow_look {β : Type} (ρ : State → β) (hρ : ∀ (t : State) hi tm ec ev erg cv ts sc aq am counters
    out freeCtr, look ρ { t with hi := hi, tm := tm, ec := ec, ev := ev, erg := erg, cv := cv, ts := ts, sc := sc, aq := aq, am := am, counters := counters, out := out, freeCtr := freeCtr }
    = look ρ t) (p : OscP) (s : State) : look ρ (armSlow p s) = look ρ s := by
  unfold armSlow
  (repeat' split) <;> first | with_reducible rfl | simp [*]

@[simp] theorem restartOsc_look {β : Type} (ρ : State → β) (hρ : ∀ (t : State) sc, look ρ { t with sc := sc } = look ρ
    t) (s : State) : look ρ (restartOsc s) = look ρ s := by
  unfold restartOsc
  (repeat' split) <;> first | with_reducible rfl | simp [*]

@[simp] theorem setOsc_look {β : Type} (ρ : State → β) (hρ : ∀ (t : State) sc, look ρ { t with sc := sc } = look ρ t)
    (p : OscP) (s : State) : look ρ (setOsc p s) = look ρ s := by
  unfold setOsc
  (repeat' split) <;> first | with_reducible rfl | simp [*]

@[simp] theorem applyOsc_look {β : Type} (ρ : State → β) (hρ : ∀ (t : State) hi tm ec ev erg cv ts sc aq am counters
    out freeCtr, look ρ { t with hi := hi, tm := tm, ec := ec, ev := ev, erg := erg, cv := cv, ts := ts, sc := sc, aq := aq, am := am, counters := counters, out := out, freeCtr := freeCtr }
    = look ρ t) (p : OscP) (s : State) : look ρ (applyOsc p s) = look ρ s := by
  unfold applyOsc
  (repeat' split) <;> first | with_reducible rfl | simp [*]

@[simp] theorem placeSig_look {β : Type} (ρ : State → β) (hρ : ∀ (t : State) sc, look ρ { t with sc := sc } = look ρ
    t) (p : SigP) (s : State) : look ρ (placeSig p s) = look ρ s := by
  unfold placeSig
  (repeat' split) <;> first | with_reducible rfl | simp [*]

@[simp] theorem finishSignal_look {β : Type} (ρ : State → β) (hρ : ∀ (t : State) hi ev pm sc counters out, look ρ { t with hi := hi, ev := ev, pm := pm, sc := sc, counters := counters, out := out }
    = look ρ t) (o : OpEntry) (p : SigP) (hwFault : Bool) (s : State) : look ρ (finishSignal o p hwFault s) = look ρ s
    := by
  unfold finishSignal
  (repeat' split) <;> first | with_reducible rfl | simp [*]

@[simp] theorem dropSig_look {β : Type} (ρ : State → β) (hρ : ∀ (t : State) sc, look ρ { t with sc := sc } = look ρ t)
    (n : Nat) (s : State) : look ρ (dropSig n s) = look ρ s := by
  unfold dropSig
  (repeat' split) <;> first | with_reducible rfl | simp [*]

@[simp] theorem placeOscGroup_look {β : Type} (ρ : State → β) (hρ : ∀ (t : State) sc, look ρ { t with sc := sc } =
    look ρ t) (p : OscGroupP) (s : State) : look ρ (placeOscGroup p s) = look ρ s := by
  unfold placeOscGroup
  (repeat' split) <;> first | with_reducible rfl | simp [*]

@[simp] theorem finishOscGroup_look {β : Type} (ρ : State → β) (hρ : ∀ (t : State) hi ev pm sc counters out, look ρ { t with hi := hi, ev := ev, pm := pm, sc := sc, counters := counters, out := out }
    = look ρ t) (o : OpEntry) (p : OscGroupP) (hwFault : Bool) (s : State) : look ρ (finishOscGroup o p hwFault s) =
    look ρ s := by
  unfold finishOscGroup
  (repeat' split) <;> first | with_reducible rfl | simp [*]

@[simp] theorem finishReadBands_look {β : Type} (ρ : State → β) (hρ : ∀ (t : State) hi ev counters out freeCtr, look ρ
    { t with hi := hi, ev := ev, counters := counters, out := out, freeCtr := freeCtr } = look ρ t) (o : OpEntry)
    (first count depth addr : Nat) (dataBad : Bool) (s : State) : look ρ (finishReadBands o first count depth addr
    dataBad s) = look ρ s := by
  unfold finishReadBands
  (repeat' split) <;> first | with_reducible rfl | simp [*]

@[simp] theorem finishReadModes_look {β : Type} (ρ : State → β) (hρ : ∀ (t : State) hi ev counters out, look ρ { t with hi := hi, ev := ev, counters := counters, out := out }
    = look ρ t) (o : OpEntry) (group depth addr len : Nat) (dataBad : Bool) (s : State) : look ρ (finishReadModes o
    group depth addr len dataBad s) = look ρ s := by
  unfold finishReadModes
  (repeat' split) <;> first | with_reducible rfl | simp [*]

@[simp] theorem restartGroup_look {β : Type} (ρ : State → β) (hρ : ∀ (t : State) sc, look ρ { t with sc := sc } = look
    ρ t) (g : Nat) (s : State) : look ρ (restartGroup g s) = look ρ s := by
  unfold restartGroup
  (repeat' split) <;> first | with_reducible rfl | simp [*]

@[simp] theorem restartAll_look {β : Type} (ρ : State → β) (hρ : ∀ (t : State) sc, look ρ { t with sc := sc } = look ρ
    t) (s : State) : look ρ (restartAll s) = look ρ s := by
  unfold restartAll
  (repeat' split) <;> first | with_reducible rfl | simp [*]

@[simp] theorem clearOsc_look {β : Type} (ρ : State → β) (hρ : ∀ (t : State) counters, look ρ { t with counters := counters }
    = look ρ t) (mask : Nat) (s : State) : look ρ (clearOsc mask s) = look ρ s := by
  unfold clearOsc
  (repeat' split) <;> first | with_reducible rfl | simp [*]

@[simp] theorem procOscConfig_look {β : Type} (ρ : State → β) (hρ : ∀ (t : State) hi tm ec ev erg cv ts sc aq am
    counters out freeCtr, look ρ { t with hi := hi, tm := tm, ec := ec, ev := ev, erg := erg, cv := cv, ts := ts, sc := sc, aq := aq, am := am, counters := counters, out := out, freeCtr := freeCtr }
    = look ρ t) (h : Hdr) (p : OscP) (s : State) : (procOscConfig h p s).work.Look ρ := by
  simp [procOscConfig, Work.Look, *]

@[simp] theorem procOscSignalDefine_look {β : Type} (ρ : State → β) (hρ : ∀ (t : State) sc, look ρ { t with sc := sc }
    = look ρ t) (h : Hdr) (p : SigP) (s : State) : (procOscSignalDefine h p s).work.Look ρ := by
  simp [procOscSignalDefine, *]

@[simp] theorem procOscSignalDelete_look {β : Type} (ρ : State → β) (hρ : ∀ (t : State) sc, look ρ { t with sc := sc }
    = look ρ t) (h : Hdr) (sig : Nat) (s : State) : (procOscSignalDelete h sig s).work.Look ρ := by
  simp [procOscSignalDelete, Work.Look, *]

@[simp] theorem procOscGroupDefine_look {β : Type} (ρ : State → β)  (h : Hdr) (p : OscGroupP) (s : State) :
    (procOscGroupDefine h p s).work.Look ρ := by
  simp [procOscGroupDefine, *]

@[simp] theorem procOscGroupDelete_look {β : Type} (ρ : State → β) (hρ : ∀ (t : State) sc, look ρ { t with sc := sc }
    = look ρ t) (h : Hdr) (group : Nat) (s : State) : (procOscGroupDelete h group s).work.Look ρ := by
  simp [procOscGroupDelete, Work.Look, *]

@[simp] theorem procOscReadBands_look {β : Type} (ρ : State → β)  (h : Hdr) (first count depth addr len : Nat) (s :
    State) : (procOscReadBands h first count depth addr len s).work.Look ρ := by
  simp [procOscReadBands, *]

@[simp] theorem procOscReadModes_look {β : Type} (ρ : State → β)  (h : Hdr) (group depth addr len : Nat) (s : State) :
    (procOscReadModes h group depth addr len s).work.Look ρ := by
  simp [procOscReadModes, *]

@[simp] theorem procOscRestart_look {β : Type} (ρ : State → β) (hρ : ∀ (t : State) sc, look ρ { t with sc := sc } =
    look ρ t) (h : Hdr) (group : Nat) (s : State) : (procOscRestart h group s).work.Look ρ := by
  simp [procOscRestart, Work.Look, *]

@[simp] theorem procOscQuery_look {β : Type} (ρ : State → β)  (h : Hdr) (group : Nat) (s : State) : (procOscQuery h
    group s).work.Look ρ := by
  simp [procOscQuery, Work.Look, *]

@[simp] theorem procOscClearCounters_look {β : Type} (ρ : State → β) (hρ : ∀ (t : State) counters, look ρ { t with counters := counters }
    = look ρ t) (h : Hdr) (mask : Nat) (s : State) : (procOscClearCounters h mask s).work.Look ρ := by
  simp [procOscClearCounters, Work.Look, *]

theorem execOscConfig_look {β : Type} (ρ : State → β) (hρ : ∀ (t : State) hi tm ec ev pm ov cairn erg cv ts sc aq am
    counters out freeCtr, look ρ { t with hi := hi, tm := tm, ec := ec, ev := ev, pm := pm, ov := ov, cairn := cairn, erg := erg, cv := cv, ts := ts, sc := sc, aq := aq, am := am, counters := counters, out := out, freeCtr := freeCtr }
    = look ρ t) (h : Hdr) (p : OscP) (s : State) : ∃ σ, execOscConfig h p s = .next σ ∧ look ρ σ = look ρ s := ⟨_, rfl, runProc_look ρ (by simp [hρ]) _ _ _ (procOscConfig_look ρ (by simp [hρ]) _ _ _)⟩

theorem execOscSignalDefine_look {β : Type} (ρ : State → β) (hρ : ∀ (t : State) hi ev pm ov cairn erg sc aq counters
    out freeCtr, look ρ { t with hi := hi, ev := ev, pm := pm, ov := ov, cairn := cairn, erg := erg, sc := sc, aq := aq, counters := counters, out := out, freeCtr := freeCtr }
    = look ρ t) (h : Hdr) (p : SigP) (s : State) : ∃ σ, execOscSignalDefine h p s = .next σ ∧ look ρ σ = look ρ s := ⟨_, rfl, runProc_look ρ (by simp [hρ]) _ _ _ (procOscSignalDefine_look ρ (by simp [hρ]) _ _ _)⟩

theorem execOscSignalDelete_look {β : Type} (ρ : State → β) (hρ : ∀ (t : State) hi ev pm ov cairn erg sc aq counters
    out freeCtr, look ρ { t with hi := hi, ev := ev, pm := pm, ov := ov, cairn := cairn, erg := erg, sc := sc, aq := aq, counters := counters, out := out, freeCtr := freeCtr }
    = look ρ t) (h : Hdr) (sig : Nat) (s : State) : ∃ σ, execOscSignalDelete h sig s = .next σ ∧ look ρ σ = look ρ s
    := ⟨_, rfl, runProc_look ρ (by simp [hρ]) _ _ _ (procOscSignalDelete_look ρ (by simp [hρ]) _ _ _)⟩

theorem execOscGroupDefine_look {β : Type} (ρ : State → β) (hρ : ∀ (t : State) hi ev pm ov cairn erg aq counters out
    freeCtr, look ρ { t with hi := hi, ev := ev, pm := pm, ov := ov, cairn := cairn, erg := erg, aq := aq, counters := counters, out := out, freeCtr := freeCtr }
    = look ρ t) (h : Hdr) (p : OscGroupP) (s : State) : ∃ σ, execOscGroupDefine h p s = .next σ ∧ look ρ σ = look ρ s
    := ⟨_, rfl, runProc_look ρ (by simp [hρ]) _ _ _ (procOscGroupDefine_look ρ _ _ _)⟩

theorem execOscGroupDelete_look {β : Type} (ρ : State → β) (hρ : ∀ (t : State) hi ev pm ov cairn erg sc aq counters
    out freeCtr, look ρ { t with hi := hi, ev := ev, pm := pm, ov := ov, cairn := cairn, erg := erg, sc := sc, aq := aq, counters := counters, out := out, freeCtr := freeCtr }
    = look ρ t) (h : Hdr) (group : Nat) (s : State) : ∃ σ, execOscGroupDelete h group s = .next σ ∧ look ρ σ = look ρ
    s := ⟨_, rfl, runProc_look ρ (by simp [hρ]) _ _ _ (procOscGroupDelete_look ρ (by simp [hρ]) _ _ _)⟩

theorem execOscReadBands_look {β : Type} (ρ : State → β) (hρ : ∀ (t : State) hi ev pm ov cairn erg aq counters out
    freeCtr, look ρ { t with hi := hi, ev := ev, pm := pm, ov := ov, cairn := cairn, erg := erg, aq := aq, counters := counters, out := out, freeCtr := freeCtr }
    = look ρ t) (h : Hdr) (first count depth addr len : Nat) (s : State) : ∃ σ, execOscReadBands h first count depth
    addr len s = .next σ ∧ look ρ σ = look ρ s := ⟨_, rfl, runProc_look ρ (by simp [hρ]) _ _ _ (procOscReadBands_look ρ _ _ _ _ _ _ _)⟩

theorem execOscReadModes_look {β : Type} (ρ : State → β) (hρ : ∀ (t : State) hi ev pm ov cairn erg aq counters out
    freeCtr, look ρ { t with hi := hi, ev := ev, pm := pm, ov := ov, cairn := cairn, erg := erg, aq := aq, counters := counters, out := out, freeCtr := freeCtr }
    = look ρ t) (h : Hdr) (group depth addr len : Nat) (s : State) : ∃ σ, execOscReadModes h group depth addr len s =
    .next σ ∧ look ρ σ = look ρ s := ⟨_, rfl, runProc_look ρ (by simp [hρ]) _ _ _ (procOscReadModes_look ρ _ _ _ _ _ _)⟩

theorem execOscRestart_look {β : Type} (ρ : State → β) (hρ : ∀ (t : State) hi ev pm ov cairn erg sc aq counters out
    freeCtr, look ρ { t with hi := hi, ev := ev, pm := pm, ov := ov, cairn := cairn, erg := erg, sc := sc, aq := aq, counters := counters, out := out, freeCtr := freeCtr }
    = look ρ t) (h : Hdr) (group : Nat) (s : State) : ∃ σ, execOscRestart h group s = .next σ ∧ look ρ σ = look ρ s := ⟨_, rfl, runProc_look ρ (by simp [hρ]) _ _ _ (procOscRestart_look ρ (by simp [hρ]) _ _ _)⟩

theorem execOscQuery_look {β : Type} (ρ : State → β) (hρ : ∀ (t : State) hi ev pm ov cairn erg aq counters out
    freeCtr, look ρ { t with hi := hi, ev := ev, pm := pm, ov := ov, cairn := cairn, erg := erg, aq := aq, counters := counters, out := out, freeCtr := freeCtr }
    = look ρ t) (h : Hdr) (group : Nat) (s : State) : ∃ σ, execOscQuery h group s = .next σ ∧ look ρ σ = look ρ s := ⟨_, rfl, runProc_look ρ (by simp [hρ]) _ _ _ (procOscQuery_look ρ _ _ _)⟩

theorem execOscClearCounters_look {β : Type} (ρ : State → β) (hρ : ∀ (t : State) hi ev pm ov cairn erg aq counters out
    freeCtr, look ρ { t with hi := hi, ev := ev, pm := pm, ov := ov, cairn := cairn, erg := erg, aq := aq, counters := counters, out := out, freeCtr := freeCtr }
    = look ρ t) (h : Hdr) (mask : Nat) (s : State) : ∃ σ, execOscClearCounters h mask s = .next σ ∧ look ρ σ = look ρ
    s := ⟨_, rfl, runProc_look ρ (by simp [hρ]) _ _ _ (procOscClearCounters_look ρ (by simp [hρ]) _ _ _)⟩

end Sys2Proof.Machine
end

