-- ==== Sys2Proof/Laws/LookAlarmCmd.lean ====
section
/-! SUPPORT. What the operations of Machine/AlarmCmd.lean leave alone. -/

namespace Sys2Proof.Machine

@[simp] theorem defineRule_look {β : Type} (ρ : State → β) (hρ : ∀ (t : State) hi ev al counters out, look ρ { t with hi := hi, ev := ev, al := al, counters := counters, out := out }
    = look ρ t) (p : RuleP) (s : State) : look ρ (defineRule p s) = look ρ s := by
  unfold defineRule
  (repeat' split) <;> first | with_reducible rfl | simp [*]

@[simp] theorem enableRule_look {β : Type} (ρ : State → β) (hρ : ∀ (t : State) al, look ρ { t with al := al } = look ρ
    t) (en : Bool) (n : Nat) (s : State) : look ρ (enableRule en n s) = look ρ s := by
  unfold enableRule
  (repeat' split) <;> first | with_reducible rfl | simp [*]

@[simp] theorem enableRules_look {β : Type} (ρ : State → β) (hρ : ∀ (t : State) al, look ρ { t with al := al } = look
    ρ t) (first count : Nat) (en : Bool) (s : State) : look ρ (enableRules first count en s) = look ρ s := by
  unfold enableRules
  (repeat' split) <;> first | with_reducible rfl | simp [*]

@[simp] theorem dropRule_look {β : Type} (ρ : State → β) (hρ : ∀ (t : State) al, look ρ { t with al := al } = look ρ
    t) (n : Nat) (s : State) : look ρ (dropRule n s) = look ρ s := by
  unfold dropRule
  (repeat' split) <;> first | with_reducible rfl | simp [*]

@[simp] theorem setLine_look {β : Type} (ρ : State → β) (hρ : ∀ (t : State) al counters, look ρ { t with al := al, counters := counters }
    = look ρ t) (p : LineP) (s : State) : look ρ (setLine p s) = look ρ s := by
  unfold setLine
  (repeat' split) <;> first | with_reducible rfl | simp [*]

@[simp] theorem ackLines_look {β : Type} (ρ : State → β) (hρ : ∀ (t : State) al counters, look ρ { t with al := al, counters := counters }
    = look ρ t) (mask : Nat) (s : State) : look ρ (ackLines mask s) = look ρ s := by
  unfold ackLines
  (repeat' split) <;> first | with_reducible rfl | simp [*]

@[simp] theorem forceRule_look {β : Type} (ρ : State → β) (hρ : ∀ (t : State) hi tm ec ev erg al aq counters out
    freeCtr, look ρ { t with hi := hi, tm := tm, ec := ec, ev := ev, erg := erg, al := al, aq := aq, counters := counters, out := out, freeCtr := freeCtr }
    = look ρ t) (n action : Nat) (s : State) : look ρ (forceRule n action s) = look ρ s := by
  unfold forceRule
  (repeat' split) <;> first | with_reducible rfl | simp [*]

@[simp] theorem setXtrig_look {β : Type} (ρ : State → β) (hρ : ∀ (t : State) al, look ρ { t with al := al } = look ρ
    t) (p : XtrigP) (s : State) : look ρ (setXtrig p s) = look ρ s := by
  unfold setXtrig
  (repeat' split) <;> first | with_reducible rfl | simp [*]

@[simp] theorem clearAlarms_look {β : Type} (ρ : State → β) (hρ : ∀ (t : State) counters, look ρ { t with counters := counters }
    = look ρ t) (first count : Nat) (s : State) : look ρ (clearAlarms first count s) = look ρ s := by
  unfold clearAlarms
  (repeat' split) <;> first | with_reducible rfl | simp [*]

@[simp] theorem procAlarmRuleDefine_look {β : Type} (ρ : State → β) (hρ : ∀ (t : State) hi ev al counters out, look ρ
    { t with hi := hi, ev := ev, al := al, counters := counters, out := out } = look ρ t) (h : Hdr) (p : RuleP) (s :
    State) : (procAlarmRuleDefine h p s).work.Look ρ := by
  simp [procAlarmRuleDefine, Work.Look, *]

@[simp] theorem procAlarmRuleEnable_look {β : Type} (ρ : State → β) (hρ : ∀ (t : State) al, look ρ { t with al := al }
    = look ρ t) (h : Hdr) (first count en : Nat) (s : State) : (procAlarmRuleEnable h first count en s).work.Look ρ :=
    by
  simp [procAlarmRuleEnable, Work.Look, *]

@[simp] theorem procAlarmRuleDelete_look {β : Type} (ρ : State → β) (hρ : ∀ (t : State) hi ev al counters out, look ρ
    { t with hi := hi, ev := ev, al := al, counters := counters, out := out } = look ρ t) (h : Hdr) (rule : Nat) (s :
    State) : (procAlarmRuleDelete h rule s).work.Look ρ := by
  simp [procAlarmRuleDelete, Work.Look, *]

@[simp] theorem procAlarmRuleQuery_look {β : Type} (ρ : State → β)  (h : Hdr) (rule : Nat) (s : State) :
    (procAlarmRuleQuery h rule s).work.Look ρ := by
  simp [procAlarmRuleQuery, Work.Look, *]

@[simp] theorem procAlarmLineConfig_look {β : Type} (ρ : State → β) (hρ : ∀ (t : State) al counters, look ρ { t with al := al, counters := counters }
    = look ρ t) (h : Hdr) (p : LineP) (s : State) : (procAlarmLineConfig h p s).work.Look ρ := by
  simp [procAlarmLineConfig, Work.Look, *]

@[simp] theorem procAlarmAck_look {β : Type} (ρ : State → β) (hρ : ∀ (t : State) al counters, look ρ { t with al := al, counters := counters }
    = look ρ t) (h : Hdr) (mask : Nat) (s : State) : (procAlarmAck h mask s).work.Look ρ := by
  simp [procAlarmAck, Work.Look, *]

@[simp] theorem procAlarmForce_look {β : Type} (ρ : State → β) (hρ : ∀ (t : State) hi tm ec ev erg al aq counters out
    freeCtr, look ρ { t with hi := hi, tm := tm, ec := ec, ev := ev, erg := erg, al := al, aq := aq, counters := counters, out := out, freeCtr := freeCtr }
    = look ρ t) (h : Hdr) (rule action : Nat) (s : State) : (procAlarmForce h rule action s).work.Look ρ := by
  simp [procAlarmForce, Work.Look, *]

@[simp] theorem procAlarmXtrigConfig_look {β : Type} (ρ : State → β) (hρ : ∀ (t : State) al, look ρ { t with al := al }
    = look ρ t) (h : Hdr) (p : XtrigP) (s : State) : (procAlarmXtrigConfig h p s).work.Look ρ := by
  simp [procAlarmXtrigConfig, Work.Look, *]

@[simp] theorem procAlarmClearCounters_look {β : Type} (ρ : State → β) (hρ : ∀ (t : State) counters, look ρ { t with counters := counters }
    = look ρ t) (h : Hdr) (first count : Nat) (s : State) : (procAlarmClearCounters h first count s).work.Look ρ := by
  simp [procAlarmClearCounters, Work.Look, *]

theorem execAlarmRuleDefine_look {β : Type} (ρ : State → β) (hρ : ∀ (t : State) hi ev pm ov cairn erg al aq counters
    out freeCtr, look ρ { t with hi := hi, ev := ev, pm := pm, ov := ov, cairn := cairn, erg := erg, al := al, aq := aq, counters := counters, out := out, freeCtr := freeCtr }
    = look ρ t) (h : Hdr) (p : RuleP) (s : State) : ∃ σ, execAlarmRuleDefine h p s = .next σ ∧ look ρ σ = look ρ s := ⟨_, rfl, runProc_look ρ (by simp [hρ]) _ _ _ (procAlarmRuleDefine_look ρ (by simp [hρ]) _ _ _)⟩

theorem execAlarmRuleEnable_look {β : Type} (ρ : State → β) (hρ : ∀ (t : State) hi ev pm ov cairn erg al aq counters
    out freeCtr, look ρ { t with hi := hi, ev := ev, pm := pm, ov := ov, cairn := cairn, erg := erg, al := al, aq := aq, counters := counters, out := out, freeCtr := freeCtr }
    = look ρ t) (h : Hdr) (first count en : Nat) (s : State) : ∃ σ, execAlarmRuleEnable h first count en s = .next σ ∧
    look ρ σ = look ρ s := ⟨_, rfl, runProc_look ρ (by simp [hρ]) _ _ _ (procAlarmRuleEnable_look ρ (by simp [hρ]) _ _ _ _ _)⟩

theorem execAlarmRuleDelete_look {β : Type} (ρ : State → β) (hρ : ∀ (t : State) hi ev pm ov cairn erg al aq counters
    out freeCtr, look ρ { t with hi := hi, ev := ev, pm := pm, ov := ov, cairn := cairn, erg := erg, al := al, aq := aq, counters := counters, out := out, freeCtr := freeCtr }
    = look ρ t) (h : Hdr) (rule : Nat) (s : State) : ∃ σ, execAlarmRuleDelete h rule s = .next σ ∧ look ρ σ = look ρ s
    := ⟨_, rfl, runProc_look ρ (by simp [hρ]) _ _ _ (procAlarmRuleDelete_look ρ (by simp [hρ]) _ _ _)⟩

theorem execAlarmRuleQuery_look {β : Type} (ρ : State → β) (hρ : ∀ (t : State) hi ev pm ov cairn erg aq counters out
    freeCtr, look ρ { t with hi := hi, ev := ev, pm := pm, ov := ov, cairn := cairn, erg := erg, aq := aq, counters := counters, out := out, freeCtr := freeCtr }
    = look ρ t) (h : Hdr) (rule : Nat) (s : State) : ∃ σ, execAlarmRuleQuery h rule s = .next σ ∧ look ρ σ = look ρ s
    := ⟨_, rfl, runProc_look ρ (by simp [hρ]) _ _ _ (procAlarmRuleQuery_look ρ _ _ _)⟩

theorem execAlarmLineConfig_look {β : Type} (ρ : State → β) (hρ : ∀ (t : State) hi ev pm ov cairn erg al aq counters
    out freeCtr, look ρ { t with hi := hi, ev := ev, pm := pm, ov := ov, cairn := cairn, erg := erg, al := al, aq := aq, counters := counters, out := out, freeCtr := freeCtr }
    = look ρ t) (h : Hdr) (p : LineP) (s : State) : ∃ σ, execAlarmLineConfig h p s = .next σ ∧ look ρ σ = look ρ s := ⟨_, rfl, runProc_look ρ (by simp [hρ]) _ _ _ (procAlarmLineConfig_look ρ (by simp [hρ]) _ _ _)⟩

theorem execAlarmAck_look {β : Type} (ρ : State → β) (hρ : ∀ (t : State) hi ev pm ov cairn erg al aq counters out
    freeCtr, look ρ { t with hi := hi, ev := ev, pm := pm, ov := ov, cairn := cairn, erg := erg, al := al, aq := aq, counters := counters, out := out, freeCtr := freeCtr }
    = look ρ t) (h : Hdr) (mask : Nat) (s : State) : ∃ σ, execAlarmAck h mask s = .next σ ∧ look ρ σ = look ρ s := ⟨_, rfl, runProc_look ρ (by simp [hρ]) _ _ _ (procAlarmAck_look ρ (by simp [hρ]) _ _ _)⟩

theorem execAlarmForce_look {β : Type} (ρ : State → β) (hρ : ∀ (t : State) hi tm ec ev pm ov cairn erg al aq counters
    out freeCtr, look ρ { t with hi := hi, tm := tm, ec := ec, ev := ev, pm := pm, ov := ov, cairn := cairn, erg := erg, al := al, aq := aq, counters := counters, out := out, freeCtr := freeCtr }
    = look ρ t) (h : Hdr) (rule action : Nat) (s : State) : ∃ σ, execAlarmForce h rule action s = .next σ ∧ look ρ σ =
    look ρ s := ⟨_, rfl, runProc_look ρ (by simp [hρ]) _ _ _ (procAlarmForce_look ρ (by simp [hρ]) _ _ _ _)⟩

theorem execAlarmXtrigConfig_look {β : Type} (ρ : State → β) (hρ : ∀ (t : State) hi ev pm ov cairn erg al aq counters
    out freeCtr, look ρ { t with hi := hi, ev := ev, pm := pm, ov := ov, cairn := cairn, erg := erg, al := al, aq := aq, counters := counters, out := out, freeCtr := freeCtr }
    = look ρ t) (h : Hdr) (p : XtrigP) (s : State) : ∃ σ, execAlarmXtrigConfig h p s = .next σ ∧ look ρ σ = look ρ s
    := ⟨_, rfl, runProc_look ρ (by simp [hρ]) _ _ _ (procAlarmXtrigConfig_look ρ (by simp [hρ]) _ _ _)⟩

theorem execAlarmClearCounters_look {β : Type} (ρ : State → β) (hρ : ∀ (t : State) hi ev pm ov cairn erg aq counters
    out freeCtr, look ρ { t with hi := hi, ev := ev, pm := pm, ov := ov, cairn := cairn, erg := erg, aq := aq, counters := counters, out := out, freeCtr := freeCtr }
    = look ρ t) (h : Hdr) (first count : Nat) (s : State) : ∃ σ, execAlarmClearCounters h first count s = .next σ ∧
    look ρ σ = look ρ s := ⟨_, rfl, runProc_look ρ (by simp [hρ]) _ _ _ (procAlarmClearCounters_look ρ (by simp [hρ]) _ _ _ _)⟩

end Sys2Proof.Machine
end

