-- ==== Sys2Proof/Laws/LookAcqCmd.lean ====
section
/-! SUPPORT. What the operations of Machine/AcqCmd.lean leave alone. -/

namespace Sys2Proof.Machine

@[simp] theorem placeChan_look {β : Type} (ρ : State → β) (hρ : ∀ (t : State) aq, look ρ { t with aq := aq } = look ρ
    t) (p : ChanP) (byCommand : Bool) (s : State) : look ρ (placeChan p byCommand s) = look ρ s := by
  unfold placeChan
  (repeat' split) <;> first | with_reducible rfl | simp [*]

@[simp] theorem finishChan_look {β : Type} (ρ : State → β) (hρ : ∀ (t : State) hi ev pm aq counters out, look ρ { t with hi := hi, ev := ev, pm := pm, aq := aq, counters := counters, out := out }
    = look ρ t) (o : OpEntry) (p : ChanP) (hwFault : Bool) (s : State) : look ρ (finishChan o p hwFault s) = look ρ s
    := by
  unfold finishChan
  (repeat' split) <;> first | with_reducible rfl | simp [*]

@[simp] theorem placeRing_look {β : Type} (ρ : State → β) (hρ : ∀ (t : State) aq, look ρ { t with aq := aq } = look ρ
    t) (p : AqRingP) (addressed byCommand : Bool) (s : State) : look ρ (placeRing p addressed byCommand s) = look ρ s
    := by
  unfold placeRing
  (repeat' split) <;> first | with_reducible rfl | simp [*]

@[simp] theorem finishRing_look {β : Type} (ρ : State → β) (hρ : ∀ (t : State) hi ev aq counters out, look ρ { t with hi := hi, ev := ev, aq := aq, counters := counters, out := out }
    = look ρ t) (o : OpEntry) (p : AqRingP) (hwFault : Bool) (s : State) : look ρ (finishRing o p hwFault s) = look ρ
    s := by
  unfold finishRing
  (repeat' split) <;> first | with_reducible rfl | simp [*]

@[simp] theorem dropChan_look {β : Type} (ρ : State → β) (hρ : ∀ (t : State) aq, look ρ { t with aq := aq } = look ρ
    t) (c : Nat) (s : State) : look ρ (dropChan c s) = look ρ s := by
  unfold dropChan
  (repeat' split) <;> first | with_reducible rfl | simp [*]

@[simp] theorem hostTrigger_look {β : Type} (ρ : State → β) (hρ : ∀ (t : State) hi ec ev erg aq counters out freeCtr,
    look ρ { t with hi := hi, ec := ec, ev := ev, erg := erg, aq := aq, counters := counters, out := out, freeCtr := freeCtr }
    = look ρ t) (l : List Nat) (t : Int) (s : State) : look ρ (hostTrigger l t s).2 = look ρ s := by
  induction l generalizing s with
  | nil => simp [hostTrigger]
  | cons c l ih => simp [hostTrigger, *]

@[simp] theorem acqTriggerBody_look {β : Type} (ρ : State → β) (hρ : ∀ (t : State) hi ec ev erg aq counters out
    freeCtr, look ρ { t with hi := hi, ec := ec, ev := ev, erg := erg, aq := aq, counters := counters, out := out, freeCtr := freeCtr }
    = look ρ t) (mask : Nat) (t : DT80) (s : State) : look ρ (acqTriggerBody mask t s).state = look ρ s := by
  simp [acqTriggerBody, *]

@[simp] theorem setAq_look {β : Type} (ρ : State → β) (hρ : ∀ (t : State) aq, look ρ { t with aq := aq } = look ρ t)
    (nq : Nat) (s : State) : look ρ (setAq nq s) = look ρ s := by
  unfold setAq
  (repeat' split) <;> first | with_reducible rfl | simp [*]

@[simp] theorem clearAcq_look {β : Type} (ρ : State → β) (hρ : ∀ (t : State) aq counters, look ρ { t with aq := aq, counters := counters }
    = look ρ t) (mask : Nat) (s : State) : look ρ (clearAcq mask s) = look ρ s := by
  unfold clearAcq
  (repeat' split) <;> first | with_reducible rfl | simp [*]

@[simp] theorem procAcqChannelDefine_look {β : Type} (ρ : State → β)  (h : Hdr) (p : ChanP) (s : State) :
    (procAcqChannelDefine h p s).work.Look ρ := by
  simp [procAcqChannelDefine, *]

@[simp] theorem procAcqRingDefine_look {β : Type} (ρ : State → β)  (h : Hdr) (p : AqRingP) (s : State) :
    (procAcqRingDefine h p s).work.Look ρ := by
  simp [procAcqRingDefine, *]

@[simp] theorem procAcqEnable_look {β : Type} (ρ : State → β) (hρ : ∀ (t : State) hi ec ev erg aq counters out
    freeCtr, look ρ { t with hi := hi, ec := ec, ev := ev, erg := erg, aq := aq, counters := counters, out := out, freeCtr := freeCtr }
    = look ρ t) (h : Hdr) (ch en : Nat) (s : State) : (procAcqEnable h ch en s).work.Look ρ := by
  simp [procAcqEnable, Work.Look, *]

@[simp] theorem procAcqDelete_look {β : Type} (ρ : State → β) (hρ : ∀ (t : State) aq, look ρ { t with aq := aq } =
    look ρ t) (h : Hdr) (ch : Nat) (s : State) : (procAcqDelete h ch s).work.Look ρ := by
  simp [procAcqDelete, Work.Look, *]

@[simp] theorem procAcqTrigger_look {β : Type} (ρ : State → β) (hρ : ∀ (t : State) hi ec ev erg aq counters out
    freeCtr, look ρ { t with hi := hi, ec := ec, ev := ev, erg := erg, aq := aq, counters := counters, out := out, freeCtr := freeCtr }
    = look ρ t) (h : Hdr) (mask : Nat) (t : DT80) (s : State) : (procAcqTrigger h mask t s).work.Look ρ := by
  simp [procAcqTrigger, Work.Look, *]

@[simp] theorem procAcqQuery_look {β : Type} (ρ : State → β)  (h : Hdr) (ch : Nat) (s : State) : (procAcqQuery h ch
    s).work.Look ρ := by
  simp [procAcqQuery, Work.Look, *]

@[simp] theorem procAcqGconfig_look {β : Type} (ρ : State → β) (hρ : ∀ (t : State) aq, look ρ { t with aq := aq } =
    look ρ t) (h : Hdr) (nq : Nat) (s : State) : (procAcqGconfig h nq s).work.Look ρ := by
  simp [procAcqGconfig, Work.Look, *]

@[simp] theorem procAcqClearCounters_look {β : Type} (ρ : State → β) (hρ : ∀ (t : State) aq counters, look ρ { t with aq := aq, counters := counters }
    = look ρ t) (h : Hdr) (mask : Nat) (s : State) : (procAcqClearCounters h mask s).work.Look ρ := by
  simp [procAcqClearCounters, Work.Look, *]

theorem execAcqChannelDefine_look {β : Type} (ρ : State → β) (hρ : ∀ (t : State) hi ev pm ov cairn erg aq counters out
    freeCtr, look ρ { t with hi := hi, ev := ev, pm := pm, ov := ov, cairn := cairn, erg := erg, aq := aq, counters := counters, out := out, freeCtr := freeCtr }
    = look ρ t) (h : Hdr) (p : ChanP) (s : State) : ∃ σ, execAcqChannelDefine h p s = .next σ ∧ look ρ σ = look ρ s := ⟨_, rfl, runProc_look ρ (by simp [hρ]) _ _ _ (procAcqChannelDefine_look ρ _ _ _)⟩

theorem execAcqRingDefine_look {β : Type} (ρ : State → β) (hρ : ∀ (t : State) hi ev pm ov cairn erg aq counters out
    freeCtr, look ρ { t with hi := hi, ev := ev, pm := pm, ov := ov, cairn := cairn, erg := erg, aq := aq, counters := counters, out := out, freeCtr := freeCtr }
    = look ρ t) (h : Hdr) (p : AqRingP) (s : State) : ∃ σ, execAcqRingDefine h p s = .next σ ∧ look ρ σ = look ρ s := ⟨_, rfl, runProc_look ρ (by simp [hρ]) _ _ _ (procAcqRingDefine_look ρ _ _ _)⟩

theorem execAcqEnable_look {β : Type} (ρ : State → β) (hρ : ∀ (t : State) hi ec ev pm ov cairn erg aq counters out
    freeCtr, look ρ { t with hi := hi, ec := ec, ev := ev, pm := pm, ov := ov, cairn := cairn, erg := erg, aq := aq, counters := counters, out := out, freeCtr := freeCtr }
    = look ρ t) (h : Hdr) (ch en : Nat) (s : State) : ∃ σ, execAcqEnable h ch en s = .next σ ∧ look ρ σ = look ρ s := ⟨_, rfl, runProc_look ρ (by simp [hρ]) _ _ _ (procAcqEnable_look ρ (by simp [hρ]) _ _ _ _)⟩

theorem execAcqDelete_look {β : Type} (ρ : State → β) (hρ : ∀ (t : State) hi ev pm ov cairn erg aq counters out
    freeCtr, look ρ { t with hi := hi, ev := ev, pm := pm, ov := ov, cairn := cairn, erg := erg, aq := aq, counters := counters, out := out, freeCtr := freeCtr }
    = look ρ t) (h : Hdr) (ch : Nat) (s : State) : ∃ σ, execAcqDelete h ch s = .next σ ∧ look ρ σ = look ρ s := ⟨_, rfl, runProc_look ρ (by simp [hρ]) _ _ _ (procAcqDelete_look ρ (by simp [hρ]) _ _ _)⟩

theorem execAcqTrigger_look {β : Type} (ρ : State → β) (hρ : ∀ (t : State) hi ec ev pm ov cairn erg aq counters out
    freeCtr, look ρ { t with hi := hi, ec := ec, ev := ev, pm := pm, ov := ov, cairn := cairn, erg := erg, aq := aq, counters := counters, out := out, freeCtr := freeCtr }
    = look ρ t) (h : Hdr) (mask : Nat) (t : DT80) (s : State) : ∃ σ, execAcqTrigger h mask t s = .next σ ∧ look ρ σ =
    look ρ s := ⟨_, rfl, runProc_look ρ (by simp [hρ]) _ _ _ (procAcqTrigger_look ρ (by simp [hρ]) _ _ _ _)⟩

theorem execAcqQuery_look {β : Type} (ρ : State → β) (hρ : ∀ (t : State) hi ev pm ov cairn erg aq counters out
    freeCtr, look ρ { t with hi := hi, ev := ev, pm := pm, ov := ov, cairn := cairn, erg := erg, aq := aq, counters := counters, out := out, freeCtr := freeCtr }
    = look ρ t) (h : Hdr) (ch : Nat) (s : State) : ∃ σ, execAcqQuery h ch s = .next σ ∧ look ρ σ = look ρ s := ⟨_, rfl, runProc_look ρ (by simp [hρ]) _ _ _ (procAcqQuery_look ρ _ _ _)⟩

theorem execAcqGconfig_look {β : Type} (ρ : State → β) (hρ : ∀ (t : State) hi ev pm ov cairn erg aq counters out
    freeCtr, look ρ { t with hi := hi, ev := ev, pm := pm, ov := ov, cairn := cairn, erg := erg, aq := aq, counters := counters, out := out, freeCtr := freeCtr }
    = look ρ t) (h : Hdr) (nq : Nat) (s : State) : ∃ σ, execAcqGconfig h nq s = .next σ ∧ look ρ σ = look ρ s := ⟨_, rfl, runProc_look ρ (by simp [hρ]) _ _ _ (procAcqGconfig_look ρ (by simp [hρ]) _ _ _)⟩

theorem execAcqClearCounters_look {β : Type} (ρ : State → β) (hρ : ∀ (t : State) hi ev pm ov cairn erg aq counters out
    freeCtr, look ρ { t with hi := hi, ev := ev, pm := pm, ov := ov, cairn := cairn, erg := erg, aq := aq, counters := counters, out := out, freeCtr := freeCtr }
    = look ρ t) (h : Hdr) (mask : Nat) (s : State) : ∃ σ, execAcqClearCounters h mask s = .next σ ∧ look ρ σ = look ρ
    s := ⟨_, rfl, runProc_look ρ (by simp [hρ]) _ _ _ (procAcqClearCounters_look ρ (by simp [hρ]) _ _ _)⟩

end Sys2Proof.Machine
end

