-- ==== Sys2Proof/Laws/LookMeterCmd.lean ====
section
/-! SUPPORT. What the operations of Machine/MeterCmd.lean leave alone. -/

namespace Sys2Proof.Machine

@[simp] theorem markVs_look {β : Type} (ρ : State → β) (hρ : ∀ (t : State) am, look ρ { t with am := am } = look ρ t)
    (ch : Nat) (s : State) : look ρ (markVs ch s) = look ρ s := by
  unfold markVs
  (repeat' split) <;> first | with_reducible rfl | simp [*]

@[simp] theorem setMChan_look {β : Type} (ρ : State → β) (hρ : ∀ (t : State) am, look ρ { t with am := am } = look ρ
    t) (p : MChanP) (s : State) : look ρ (setMChan p s) = look ρ s := by
  unfold setMChan
  (repeat' split) <;> first | with_reducible rfl | simp [*]

@[simp] theorem setCal_look {β : Type} (ρ : State → β) (hρ : ∀ (t : State) am, look ρ { t with am := am } = look ρ t)
    (p : CalP) (s : State) : look ρ (setCal p s) = look ρ s := by
  unfold setCal
  (repeat' split) <;> first | with_reducible rfl | simp [*]

@[simp] theorem setTemp_look {β : Type} (ρ : State → β) (hρ : ∀ (t : State) am, look ρ { t with am := am } = look ρ t)
    (ch : Nat) (t : Int) (s : State) : look ρ (setTemp ch t s) = look ρ s := by
  unfold setTemp
  (repeat' split) <;> first | with_reducible rfl | simp [*]

@[simp] theorem placeElem_look {β : Type} (ρ : State → β) (hρ : ∀ (t : State) am, look ρ { t with am := am } = look ρ
    t) (p : ElemP) (s : State) : look ρ (placeElem p s) = look ρ s := by
  unfold placeElem
  (repeat' split) <;> first | with_reducible rfl | simp [*]

@[simp] theorem enableElem_look {β : Type} (ρ : State → β) (hρ : ∀ (t : State) hi ev am counters out freeCtr, look ρ { t with hi := hi, ev := ev, am := am, counters := counters, out := out, freeCtr := freeCtr }
    = look ρ t) (el : Nat) (en : Bool) (s : State) : look ρ (enableElem el en s) = look ρ s := by
  unfold enableElem
  (repeat' split) <;> first | with_reducible rfl | simp [*]

@[simp] theorem presetReg_look {β : Type} (ρ : State → β) (hρ : ∀ (t : State) hi ev am counters out, look ρ { t with hi := hi, ev := ev, am := am, counters := counters, out := out }
    = look ρ t) (el reg rollover count : Nat) (s : State) : look ρ (presetReg el reg rollover count s) = look ρ s :=
    by
  unfold presetReg
  (repeat' split) <;> first | with_reducible rfl | simp [*]

@[simp] theorem finishSigned_look {β : Type} (ρ : State → β) (hρ : ∀ (t : State) hi ev ov cairn counters out freeCtr,
    look ρ { t with hi := hi, ev := ev, ov := ov, cairn := cairn, counters := counters, out := out, freeCtr := freeCtr }
    = look ρ t) (o : OpEntry) (mask slot addr len : Nat) (hwFault : Bool) (s : State) : look ρ (finishSigned o mask
    slot addr len hwFault s) = look ρ s := by
  unfold finishSigned
  (repeat' split) <;> first | with_reducible rfl | simp [*]

@[simp] theorem setPulseP_look {β : Type} (ρ : State → β) (hρ : ∀ (t : State) am, look ρ { t with am := am } = look ρ
    t) (p : PulseP) (s : State) : look ρ (setPulseP p s) = look ρ s := by
  unfold setPulseP
  (repeat' split) <;> first | with_reducible rfl | simp [*]

@[simp] theorem putVs_look {β : Type} (ρ : State → β) (hρ : ∀ (t : State) si am, look ρ { t with si := si, am := am }
    = look ρ t) (p : VsP) (byCommand : Bool) (s : State) : look ρ (putVs p byCommand s) = look ρ s := by
  unfold putVs
  (repeat' split) <;> first | with_reducible rfl | simp [*]

@[simp] theorem placeVs_look {β : Type} (ρ : State → β) (hρ : ∀ (t : State) hi ev si am counters out, look ρ { t with hi := hi, ev := ev, si := si, am := am, counters := counters, out := out }
    = look ρ t) (p : VsP) (byCommand : Bool) (s : State) : look ρ (placeVs p byCommand s) = look ρ s := by
  unfold placeVs
  (repeat' split) <;> first | with_reducible rfl | simp [*]

@[simp] theorem finishVs_look {β : Type} (ρ : State → β) (hρ : ∀ (t : State) hi ev si am counters out, look ρ { t with hi := hi, ev := ev, si := si, am := am, counters := counters, out := out }
    = look ρ t) (o : OpEntry) (p : VsP) (hwFault : Bool) (s : State) : look ρ (finishVs o p hwFault s) = look ρ s :=
    by
  unfold finishVs
  (repeat' split) <;> first | with_reducible rfl | simp [*]

@[simp] theorem dropVs_look {β : Type} (ρ : State → β) (hρ : ∀ (t : State) hi ev si am counters out, look ρ { t with hi := hi, ev := ev, si := si, am := am, counters := counters, out := out }
    = look ρ t) (vs : Nat) (s : State) : look ρ (dropVs vs s) = look ρ s := by
  unfold dropVs
  (repeat' split) <;> first | with_reducible rfl | simp [*]

@[simp] theorem setBallast_look {β : Type} (ρ : State → β) (hρ : ∀ (t : State) am, look ρ { t with am := am } = look ρ
    t) (p : BallastP) (s : State) : look ρ (setBallast p s) = look ρ s := by
  unfold setBallast
  (repeat' split) <;> first | with_reducible rfl | simp [*]

@[simp] theorem finishSave_look {β : Type} (ρ : State → β) (hρ : ∀ (t : State) hi ev cairn am counters out, look ρ { t with hi := hi, ev := ev, cairn := cairn, am := am, counters := counters, out := out }
    = look ρ t) (o : OpEntry) (hwFault : Bool) (s : State) : look ρ (finishSave o hwFault s) = look ρ s := by
  unfold finishSave
  (repeat' split) <;> first | with_reducible rfl | simp [*]

@[simp] theorem setMeter_look {β : Type} (ρ : State → β) (hρ : ∀ (t : State) am, look ρ { t with am := am } = look ρ
    t) (p : MeterP) (s : State) : look ρ (setMeter p s) = look ρ s := by
  unfold setMeter
  (repeat' split) <;> first | with_reducible rfl | simp [*]

@[simp] theorem clearMeter_look {β : Type} (ρ : State → β) (hρ : ∀ (t : State) counters, look ρ { t with counters := counters }
    = look ρ t) (mask : Nat) (s : State) : look ρ (clearMeter mask s) = look ρ s := by
  unfold clearMeter
  (repeat' split) <;> first | with_reducible rfl | simp [*]

@[simp] theorem procMeterChannelConfig_look {β : Type} (ρ : State → β) (hρ : ∀ (t : State) am, look ρ { t with am := am }
    = look ρ t) (h : Hdr) (p : MChanP) (s : State) : (procMeterChannelConfig h p s).work.Look ρ := by
  simp [procMeterChannelConfig, Work.Look, *]

@[simp] theorem procMeterCalibrate_look {β : Type} (ρ : State → β) (hρ : ∀ (t : State) am, look ρ { t with am := am }
    = look ρ t) (h : Hdr) (p : CalP) (s : State) : (procMeterCalibrate h p s).work.Look ρ := by
  simp [procMeterCalibrate, Work.Look, *]

@[simp] theorem procMeterSensorTemp_look {β : Type} (ρ : State → β) (hρ : ∀ (t : State) am, look ρ { t with am := am }
    = look ρ t) (h : Hdr) (ch : Nat) (t : Int) (s : State) : (procMeterSensorTemp h ch t s).work.Look ρ := by
  simp [procMeterSensorTemp, Work.Look, *]

@[simp] theorem procMeterElementDefine_look {β : Type} (ρ : State → β) (hρ : ∀ (t : State) am, look ρ { t with am := am }
    = look ρ t) (h : Hdr) (p : ElemP) (s : State) : (procMeterElementDefine h p s).work.Look ρ := by
  simp [procMeterElementDefine, Work.Look, *]

@[simp] theorem procMeterElementEnable_look {β : Type} (ρ : State → β) (hρ : ∀ (t : State) hi ev am counters out
    freeCtr, look ρ { t with hi := hi, ev := ev, am := am, counters := counters, out := out, freeCtr := freeCtr } =
    look ρ t) (h : Hdr) (el en : Nat) (s : State) : (procMeterElementEnable h el en s).work.Look ρ := by
  simp [procMeterElementEnable, Work.Look, *]

@[simp] theorem procMeterEnergyRead_look {β : Type} (ρ : State → β)  (h : Hdr) (el reg : Nat) (s : State) :
    (procMeterEnergyRead h el reg s).work.Look ρ := by
  simp [procMeterEnergyRead, Work.Look, *]

@[simp] theorem procMeterEnergyPreset_look {β : Type} (ρ : State → β) (hρ : ∀ (t : State) hi ev am counters out, look
    ρ { t with hi := hi, ev := ev, am := am, counters := counters, out := out } = look ρ t) (h : Hdr) (el reg rollover
    count : Nat) (s : State) : (procMeterEnergyPreset h el reg rollover count s).work.Look ρ := by
  simp [procMeterEnergyPreset, Work.Look, *]

@[simp] theorem procMeterEnergySigned_look {β : Type} (ρ : State → β)  (h : Hdr) (mask slot addr len : Nat) (s :
    State) : (procMeterEnergySigned h mask slot addr len s).work.Look ρ := by
  simp [procMeterEnergySigned, *]

@[simp] theorem procMeterPulseConfig_look {β : Type} (ρ : State → β) (hρ : ∀ (t : State) am, look ρ { t with am := am }
    = look ρ t) (h : Hdr) (p : PulseP) (s : State) : (procMeterPulseConfig h p s).work.Look ρ := by
  simp [procMeterPulseConfig, Work.Look, *]

@[simp] theorem procMeterVstreamDefine_look {β : Type} (ρ : State → β)  (h : Hdr) (p : VsP) (s : State) :
    (procMeterVstreamDefine h p s).work.Look ρ := by
  simp [procMeterVstreamDefine, *]

@[simp] theorem procMeterVstreamRemove_look {β : Type} (ρ : State → β) (hρ : ∀ (t : State) hi ev si am counters out,
    look ρ { t with hi := hi, ev := ev, si := si, am := am, counters := counters, out := out } = look ρ t) (h : Hdr)
    (vs : Nat) (s : State) : (procMeterVstreamRemove h vs s).work.Look ρ := by
  simp [procMeterVstreamRemove, Work.Look, *]

@[simp] theorem procMeterBallastDefine_look {β : Type} (ρ : State → β) (hρ : ∀ (t : State) am, look ρ { t with am := am }
    = look ρ t) (h : Hdr) (p : BallastP) (s : State) : (procMeterBallastDefine h p s).work.Look ρ := by
  simp [procMeterBallastDefine, Work.Look, *]

@[simp] theorem procMeterSave_look {β : Type} (ρ : State → β)  (h : Hdr) (s : State) : (procMeterSave h s).work.Look ρ
    := by
  simp [procMeterSave, *]

@[simp] theorem procMeterConfig_look {β : Type} (ρ : State → β) (hρ : ∀ (t : State) am, look ρ { t with am := am } =
    look ρ t) (h : Hdr) (p : MeterP) (s : State) : (procMeterConfig h p s).work.Look ρ := by
  simp [procMeterConfig, Work.Look, *]

@[simp] theorem procMeterQuery_look {β : Type} (ρ : State → β)  (h : Hdr) (s : State) : (procMeterQuery h s).work.Look
    ρ := by
  simp [procMeterQuery, Work.Look, *]

@[simp] theorem procMeterClearCounters_look {β : Type} (ρ : State → β) (hρ : ∀ (t : State) counters, look ρ { t with counters := counters }
    = look ρ t) (h : Hdr) (mask : Nat) (s : State) : (procMeterClearCounters h mask s).work.Look ρ := by
  simp [procMeterClearCounters, Work.Look, *]

theorem execMeterChannelConfig_look {β : Type} (ρ : State → β) (hρ : ∀ (t : State) hi ev pm ov cairn erg aq am
    counters out freeCtr, look ρ { t with hi := hi, ev := ev, pm := pm, ov := ov, cairn := cairn, erg := erg, aq := aq, am := am, counters := counters, out := out, freeCtr := freeCtr }
    = look ρ t) (h : Hdr) (p : MChanP) (s : State) : ∃ σ, execMeterChannelConfig h p s = .next σ ∧ look ρ σ = look ρ s
    := ⟨_, rfl, runProc_look ρ (by simp [hρ]) _ _ _ (procMeterChannelConfig_look ρ (by simp [hρ]) _ _ _)⟩

theorem execMeterCalibrate_look {β : Type} (ρ : State → β) (hρ : ∀ (t : State) hi ev pm ov cairn erg aq am counters
    out freeCtr, look ρ { t with hi := hi, ev := ev, pm := pm, ov := ov, cairn := cairn, erg := erg, aq := aq, am := am, counters := counters, out := out, freeCtr := freeCtr }
    = look ρ t) (h : Hdr) (p : CalP) (s : State) : ∃ σ, execMeterCalibrate h p s = .next σ ∧ look ρ σ = look ρ s := ⟨_, rfl, runProc_look ρ (by simp [hρ]) _ _ _ (procMeterCalibrate_look ρ (by simp [hρ]) _ _ _)⟩

theorem execMeterSensorTemp_look {β : Type} (ρ : State → β) (hρ : ∀ (t : State) hi ev pm ov cairn erg aq am counters
    out freeCtr, look ρ { t with hi := hi, ev := ev, pm := pm, ov := ov, cairn := cairn, erg := erg, aq := aq, am := am, counters := counters, out := out, freeCtr := freeCtr }
    = look ρ t) (h : Hdr) (ch : Nat) (t : Int) (s : State) : ∃ σ, execMeterSensorTemp h ch t s = .next σ ∧ look ρ σ =
    look ρ s := ⟨_, rfl, runProc_look ρ (by simp [hρ]) _ _ _ (procMeterSensorTemp_look ρ (by simp [hρ]) _ _ _ _)⟩

theorem execMeterElementDefine_look {β : Type} (ρ : State → β) (hρ : ∀ (t : State) hi ev pm ov cairn erg aq am
    counters out freeCtr, look ρ { t with hi := hi, ev := ev, pm := pm, ov := ov, cairn := cairn, erg := erg, aq := aq, am := am, counters := counters, out := out, freeCtr := freeCtr }
    = look ρ t) (h : Hdr) (p : ElemP) (s : State) : ∃ σ, execMeterElementDefine h p s = .next σ ∧ look ρ σ = look ρ s
    := ⟨_, rfl, runProc_look ρ (by simp [hρ]) _ _ _ (procMeterElementDefine_look ρ (by simp [hρ]) _ _ _)⟩

theorem execMeterElementEnable_look {β : Type} (ρ : State → β) (hρ : ∀ (t : State) hi ev pm ov cairn erg aq am
    counters out freeCtr, look ρ { t with hi := hi, ev := ev, pm := pm, ov := ov, cairn := cairn, erg := erg, aq := aq, am := am, counters := counters, out := out, freeCtr := freeCtr }
    = look ρ t) (h : Hdr) (el en : Nat) (s : State) : ∃ σ, execMeterElementEnable h el en s = .next σ ∧ look ρ σ =
    look ρ s := ⟨_, rfl, runProc_look ρ (by simp [hρ]) _ _ _ (procMeterElementEnable_look ρ (by simp [hρ]) _ _ _ _)⟩

theorem execMeterEnergyRead_look {β : Type} (ρ : State → β) (hρ : ∀ (t : State) hi ev pm ov cairn erg aq counters out
    freeCtr, look ρ { t with hi := hi, ev := ev, pm := pm, ov := ov, cairn := cairn, erg := erg, aq := aq, counters := counters, out := out, freeCtr := freeCtr }
    = look ρ t) (h : Hdr) (el reg : Nat) (s : State) : ∃ σ, execMeterEnergyRead h el reg s = .next σ ∧ look ρ σ = look
    ρ s := ⟨_, rfl, runProc_look ρ (by simp [hρ]) _ _ _ (procMeterEnergyRead_look ρ _ _ _ _)⟩

theorem execMeterEnergyPreset_look {β : Type} (ρ : State → β) (hρ : ∀ (t : State) hi ev pm ov cairn erg aq am counters
    out freeCtr, look ρ { t with hi := hi, ev := ev, pm := pm, ov := ov, cairn := cairn, erg := erg, aq := aq, am := am, counters := counters, out := out, freeCtr := freeCtr }
    = look ρ t) (h : Hdr) (el reg rollover count : Nat) (s : State) : ∃ σ, execMeterEnergyPreset h el reg rollover
    count s = .next σ ∧ look ρ σ = look ρ s := ⟨_, rfl, runProc_look ρ (by simp [hρ]) _ _ _ (procMeterEnergyPreset_look ρ (by simp [hρ]) _ _ _ _ _ _)⟩

theorem execMeterEnergySigned_look {β : Type} (ρ : State → β) (hρ : ∀ (t : State) hi ev pm ov cairn erg aq counters
    out freeCtr, look ρ { t with hi := hi, ev := ev, pm := pm, ov := ov, cairn := cairn, erg := erg, aq := aq, counters := counters, out := out, freeCtr := freeCtr }
    = look ρ t) (h : Hdr) (mask slot addr len : Nat) (s : State) : ∃ σ, execMeterEnergySigned h mask slot addr len s =
    .next σ ∧ look ρ σ = look ρ s := ⟨_, rfl, runProc_look ρ (by simp [hρ]) _ _ _ (procMeterEnergySigned_look ρ _ _ _ _ _ _)⟩

theorem execMeterPulseConfig_look {β : Type} (ρ : State → β) (hρ : ∀ (t : State) hi ev pm ov cairn erg aq am counters
    out freeCtr, look ρ { t with hi := hi, ev := ev, pm := pm, ov := ov, cairn := cairn, erg := erg, aq := aq, am := am, counters := counters, out := out, freeCtr := freeCtr }
    = look ρ t) (h : Hdr) (p : PulseP) (s : State) : ∃ σ, execMeterPulseConfig h p s = .next σ ∧ look ρ σ = look ρ s
    := ⟨_, rfl, runProc_look ρ (by simp [hρ]) _ _ _ (procMeterPulseConfig_look ρ (by simp [hρ]) _ _ _)⟩

theorem execMeterVstreamDefine_look {β : Type} (ρ : State → β) (hρ : ∀ (t : State) hi ev pm ov cairn erg aq counters
    out freeCtr, look ρ { t with hi := hi, ev := ev, pm := pm, ov := ov, cairn := cairn, erg := erg, aq := aq, counters := counters, out := out, freeCtr := freeCtr }
    = look ρ t) (h : Hdr) (p : VsP) (s : State) : ∃ σ, execMeterVstreamDefine h p s = .next σ ∧ look ρ σ = look ρ s := ⟨_, rfl, runProc_look ρ (by simp [hρ]) _ _ _ (procMeterVstreamDefine_look ρ _ _ _)⟩

theorem execMeterVstreamRemove_look {β : Type} (ρ : State → β) (hρ : ∀ (t : State) hi ev pm ov cairn si erg aq am
    counters out freeCtr, look ρ { t with hi := hi, ev := ev, pm := pm, ov := ov, cairn := cairn, si := si, erg := erg, aq := aq, am := am, counters := counters, out := out, freeCtr := freeCtr }
    = look ρ t) (h : Hdr) (vs : Nat) (s : State) : ∃ σ, execMeterVstreamRemove h vs s = .next σ ∧ look ρ σ = look ρ s
    := ⟨_, rfl, runProc_look ρ (by simp [hρ]) _ _ _ (procMeterVstreamRemove_look ρ (by simp [hρ]) _ _ _)⟩

theorem execMeterBallastDefine_look {β : Type} (ρ : State → β) (hρ : ∀ (t : State) hi ev pm ov cairn erg aq am
    counters out freeCtr, look ρ { t with hi := hi, ev := ev, pm := pm, ov := ov, cairn := cairn, erg := erg, aq := aq, am := am, counters := counters, out := out, freeCtr := freeCtr }
    = look ρ t) (h : Hdr) (p : BallastP) (s : State) : ∃ σ, execMeterBallastDefine h p s = .next σ ∧ look ρ σ = look ρ
    s := ⟨_, rfl, runProc_look ρ (by simp [hρ]) _ _ _ (procMeterBallastDefine_look ρ (by simp [hρ]) _ _ _)⟩

theorem execMeterSave_look {β : Type} (ρ : State → β) (hρ : ∀ (t : State) hi ev pm ov cairn erg aq counters out
    freeCtr, look ρ { t with hi := hi, ev := ev, pm := pm, ov := ov, cairn := cairn, erg := erg, aq := aq, counters := counters, out := out, freeCtr := freeCtr }
    = look ρ t) (h : Hdr) (s : State) : ∃ σ, execMeterSave h s = .next σ ∧ look ρ σ = look ρ s := ⟨_, rfl, runProc_look ρ (by simp [hρ]) _ _ _ (procMeterSave_look ρ _ _)⟩

theorem execMeterConfig_look {β : Type} (ρ : State → β) (hρ : ∀ (t : State) hi ev pm ov cairn erg aq am counters out
    freeCtr, look ρ { t with hi := hi, ev := ev, pm := pm, ov := ov, cairn := cairn, erg := erg, aq := aq, am := am, counters := counters, out := out, freeCtr := freeCtr }
    = look ρ t) (h : Hdr) (p : MeterP) (s : State) : ∃ σ, execMeterConfig h p s = .next σ ∧ look ρ σ = look ρ s := ⟨_, rfl, runProc_look ρ (by simp [hρ]) _ _ _ (procMeterConfig_look ρ (by simp [hρ]) _ _ _)⟩

theorem execMeterQuery_look {β : Type} (ρ : State → β) (hρ : ∀ (t : State) hi ev pm ov cairn erg aq counters out
    freeCtr, look ρ { t with hi := hi, ev := ev, pm := pm, ov := ov, cairn := cairn, erg := erg, aq := aq, counters := counters, out := out, freeCtr := freeCtr }
    = look ρ t) (h : Hdr) (s : State) : ∃ σ, execMeterQuery h s = .next σ ∧ look ρ σ = look ρ s := ⟨_, rfl, runProc_look ρ (by simp [hρ]) _ _ _ (procMeterQuery_look ρ _ _)⟩

theorem execMeterClearCounters_look {β : Type} (ρ : State → β) (hρ : ∀ (t : State) hi ev pm ov cairn erg aq counters
    out freeCtr, look ρ { t with hi := hi, ev := ev, pm := pm, ov := ov, cairn := cairn, erg := erg, aq := aq, counters := counters, out := out, freeCtr := freeCtr }
    = look ρ t) (h : Hdr) (mask : Nat) (s : State) : ∃ σ, execMeterClearCounters h mask s = .next σ ∧ look ρ σ = look
    ρ s := ⟨_, rfl, runProc_look ρ (by simp [hρ]) _ _ _ (procMeterClearCounters_look ρ (by simp [hρ]) _ _ _)⟩

end Sys2Proof.Machine
end

