-- ==== Sys2Proof/Laws/LookVaultCmd.lean ====
section
/-! SUPPORT. What the operations of Machine/VaultCmd.lean leave alone. -/

namespace Sys2Proof.Machine

@[simp] theorem burnFuses_look {β : Type} (ρ : State → β) (hρ : ∀ (t : State) ov fuses cairn counters freeCtr, look ρ
    { t with ov := ov, fuses := fuses, cairn := cairn, counters := counters, freeCtr := freeCtr } = look ρ t) (l :
    Lifecycle) (ownerKey : Option Nat) (s : State) : look ρ (burnFuses l ownerKey s) = look ρ s := by
  unfold burnFuses
  cases l <;> simp [*]

@[simp] theorem laterUse_look {β : Type} (ρ : State → β) (hρ : ∀ (t : State) counters, look ρ { t with counters := counters }
    = look ρ t) (first : State → Nat) : (laterUse first).Look ρ := by simp [laterUse, Work.Look, *]

@[simp] theorem finishLifecycle_look {β : Type} (ρ : State → β) (hρ : ∀ (t : State) hi ev pm ov fuses cairn counters
    out freeCtr, look ρ { t with hi := hi, ev := ev, pm := pm, ov := ov, fuses := fuses, cairn := cairn, counters := counters, out := out, freeCtr := freeCtr }
    = look ρ t) (o : OpEntry) (target : Nat) (ownerKey : Option Nat) (hwFault : Bool) (s : State) : look ρ
    (finishLifecycle o target ownerKey hwFault s) = look ρ s := by
  unfold finishLifecycle
  (repeat' split) <;> first | with_reducible rfl | simp [*]

@[simp] theorem loadOwner_look {β : Type} (ρ : State → β) (hρ : ∀ (t : State) ov cairn, look ρ { t with ov := ov, cairn := cairn }
    = look ρ t) (key : Nat) (s : State) : look ρ (loadOwner key s) = look ρ s := by
  unfold loadOwner
  (repeat' split) <;> first | with_reducible rfl | simp [*]

@[simp] theorem finishRoot_look {β : Type} (ρ : State → β) (hρ : ∀ (t : State) hi ev ov counters out freeCtr, look ρ { t with hi := hi, ev := ev, ov := ov, counters := counters, out := out, freeCtr := freeCtr }
    = look ρ t) (o : OpEntry) (hwFault : Bool) (s : State) : look ρ (finishRoot o hwFault s) = look ρ s := by
  simp only [finishRoot]
  (repeat' split) <;> first | with_reducible rfl | simp [*]

@[simp] theorem finishGenerate_look {β : Type} (ρ : State → β) (hρ : ∀ (t : State) hi ev ov counters out freeCtr, look
    ρ { t with hi := hi, ev := ev, ov := ov, counters := counters, out := out, freeCtr := freeCtr } = look ρ t) (o :
    OpEntry) (slot alg usage lock : Nat) (hwFault : Bool) (s : State) : look ρ (finishGenerate o slot alg usage lock
    hwFault s) = look ρ s := by
  simp only [finishGenerate]
  (repeat' split) <;> first | with_reducible rfl | simp [*]

@[simp] theorem finishDerive_look {β : Type} (ρ : State → β) (hρ : ∀ (t : State) hi ev ov counters out, look ρ { t with hi := hi, ev := ev, ov := ov, counters := counters, out := out }
    = look ρ t) (o : OpEntry) (slot parent alg usage lock label : Nat) (hwFault : Bool) (s : State) : look ρ
    (finishDerive o slot parent alg usage lock label hwFault s) = look ρ s := by
  unfold finishDerive
  (repeat' split) <;> first | with_reducible rfl | simp [*]

@[simp] theorem finishImport_look {β : Type} (ρ : State → β) (hρ : ∀ (t : State) hi ev ov counters out, look ρ { t with hi := hi, ev := ev, ov := ov, counters := counters, out := out }
    = look ρ t) (o : OpEntry) (p : ImportP) (hwFault : Bool) (s : State) : look ρ (finishImport o p hwFault s) = look
    ρ s := by
  unfold finishImport
  (repeat' split) <;> first | with_reducible rfl | simp [*]

@[simp] theorem finishBlob_look {β : Type} (ρ : State → β) (hρ : ∀ (t : State) hi ev ov counters out freeCtr, look ρ { t with hi := hi, ev := ev, ov := ov, counters := counters, out := out, freeCtr := freeCtr }
    = look ρ t) (o : OpEntry) (slot addr len wrap uid : Nat) (ok : Bool) (s : State) : look ρ (finishBlob o slot addr
    len wrap uid ok s) = look ρ s := by
  simp only [finishBlob]
  (repeat' split) <;> first | with_reducible rfl | simp [*]

@[simp] theorem finishSeal_look {β : Type} (ρ : State → β) (hρ : ∀ (t : State) hi ev ov counters out freeCtr, look ρ { t with hi := hi, ev := ev, ov := ov, counters := counters, out := out, freeCtr := freeCtr }
    = look ρ t) (o : OpEntry) (slot addr len : Nat) (hwFault : Bool) (s : State) : look ρ (finishSeal o slot addr len
    hwFault s) = look ρ s := by
  unfold finishSeal
  (repeat' split) <;> first | with_reducible rfl | simp [*]

@[simp] theorem finishExport_look {β : Type} (ρ : State → β) (hρ : ∀ (t : State) hi ev ov counters out freeCtr, look ρ
    { t with hi := hi, ev := ev, ov := ov, counters := counters, out := out, freeCtr := freeCtr } = look ρ t) (o :
    OpEntry) (slot wrapSlot destUid addr len : Nat) (hwFault : Bool) (s : State) : look ρ (finishExport o slot
    wrapSlot destUid addr len hwFault s) = look ρ s := by
  unfold finishExport
  (repeat' split) <;> first | with_reducible rfl | simp [*]

@[simp] theorem finishAttest_look {β : Type} (ρ : State → β) (hρ : ∀ (t : State) hi ev ov cairn counters out freeCtr,
    look ρ { t with hi := hi, ev := ev, ov := ov, cairn := cairn, counters := counters, out := out, freeCtr := freeCtr }
    = look ρ t) (o : OpEntry) (slot nonce addr : Nat) (hwFault : Bool) (s : State) : look ρ (finishAttest o slot nonce
    addr hwFault s) = look ρ s := by
  unfold finishAttest
  (repeat' split) <;> first | with_reducible rfl | simp [*]

@[simp] theorem procVaultStatus_look {β : Type} (ρ : State → β)  (h : Hdr) (s : State) : (procVaultStatus h
    s).work.Look ρ := by
  simp [procVaultStatus, Work.Look, *]

@[simp] theorem procVaultLifecycle_look {β : Type} (ρ : State → β)  (h : Hdr) (target : Nat) (ownerKey : Option Nat)
    (s : State) : (procVaultLifecycle h target ownerKey s).work.Look ρ := by
  simp [procVaultLifecycle, *]

@[simp] theorem procVaultOwnerLoad_look {β : Type} (ρ : State → β) (hρ : ∀ (t : State) ov cairn, look ρ { t with ov := ov, cairn := cairn }
    = look ρ t) (h : Hdr) (key : Nat) (s : State) : (procVaultOwnerLoad h key s).work.Look ρ := by
  simp [procVaultOwnerLoad, Work.Look, *]

@[simp] theorem procVaultRootGenerate_look {β : Type} (ρ : State → β)  (h : Hdr) (s : State) : (procVaultRootGenerate
    h s).work.Look ρ := by
  simp [procVaultRootGenerate, *]

@[simp] theorem procVaultTamperClear_look {β : Type} (ρ : State → β) (hρ : ∀ (t : State) ov, look ρ { t with ov := ov }
    = look ρ t) (h : Hdr) (s : State) : (procVaultTamperClear h s).work.Look ρ := by
  simp [procVaultTamperClear, Work.Look, *]

@[simp] theorem procVaultTamperConfig_look {β : Type} (ρ : State → β) (hρ : ∀ (t : State) ov, look ρ { t with ov := ov }
    = look ρ t) (h : Hdr) (enables : Nat) (s : State) : (procVaultTamperConfig h enables s).work.Look ρ := by
  simp [procVaultTamperConfig, Work.Look, *]

@[simp] theorem procVaultDebug_look {β : Type} (ρ : State → β) (hρ : ∀ (t : State) ov, look ρ { t with ov := ov } =
    look ρ t) (h : Hdr) (en : Nat) (s : State) : (procVaultDebug h en s).work.Look ρ := by
  simp [procVaultDebug, Work.Look, *]

@[simp] theorem procVaultGenerate_look {β : Type} (ρ : State → β)  (h : Hdr) (slot alg usage lock : Nat) (s : State) :
    (procVaultGenerate h slot alg usage lock s).work.Look ρ := by
  simp [procVaultGenerate, *]

@[simp] theorem procVaultDerive_look {β : Type} (ρ : State → β) (hρ : ∀ (t : State) counters, look ρ { t with counters := counters }
    = look ρ t) (h : Hdr) (slot parent alg usage lock label : Nat) (s : State) : (procVaultDerive h slot parent alg
    usage lock label s).work.Look ρ := by
  simp [procVaultDerive, *]

@[simp] theorem procVaultImport_look {β : Type} (ρ : State → β) (hρ : ∀ (t : State) counters, look ρ { t with counters := counters }
    = look ρ t) (h : Hdr) (p : ImportP) (s : State) : (procVaultImport h p s).work.Look ρ := by
  simp [procVaultImport, *]

@[simp] theorem procVaultSeal_look {β : Type} (ρ : State → β) (hρ : ∀ (t : State) counters, look ρ { t with counters := counters }
    = look ρ t) (h : Hdr) (slot addr len : Nat) (s : State) : (procVaultSeal h slot addr len s).work.Look ρ := by
  simp [procVaultSeal, *]

@[simp] theorem procVaultExport_look {β : Type} (ρ : State → β) (hρ : ∀ (t : State) counters, look ρ { t with counters := counters }
    = look ρ t) (h : Hdr) (slot wrapSlot destUid addr len : Nat) (s : State) : (procVaultExport h slot wrapSlot
    destUid addr len s).work.Look ρ := by
  simp [procVaultExport, *]

@[simp] theorem procVaultDestroy_look {β : Type} (ρ : State → β) (hρ : ∀ (t : State) hi ev ov np si erg counters out,
    look ρ { t with hi := hi, ev := ev, ov := ov, np := np, si := si, erg := erg, counters := counters, out := out } =
    look ρ t) (h : Hdr) (slot : Nat) (s : State) : (procVaultDestroy h slot s).work.Look ρ := by
  simp [procVaultDestroy, Work.Look, *]

@[simp] theorem procVaultAttest_look {β : Type} (ρ : State → β)  (h : Hdr) (slot nonce addr len : Nat) (s : State) :
    (procVaultAttest h slot nonce addr len s).work.Look ρ := by
  simp [procVaultAttest, *]

@[simp] theorem procVaultSlotQuery_look {β : Type} (ρ : State → β)  (h : Hdr) (slot : Nat) (s : State) :
    (procVaultSlotQuery h slot s).work.Look ρ := by
  simp [procVaultSlotQuery, Work.Look, *]

@[simp] theorem procVaultRandom_look {β : Type} (ρ : State → β) (hρ : ∀ (t : State) ov counters freeCtr, look ρ { t with ov := ov, counters := counters, freeCtr := freeCtr }
    = look ρ t) (h : Hdr) (count : Nat) (s : State) : (procVaultRandom h count s).work.Look ρ := by
  simp [procVaultRandom, Work.Look, *]

@[simp] theorem procVaultClearCounters_look {β : Type} (ρ : State → β) (hρ : ∀ (t : State) counters, look ρ { t with counters := counters }
    = look ρ t) (h : Hdr) (s : State) : (procVaultClearCounters h s).work.Look ρ := by
  simp [procVaultClearCounters, Work.Look, *]

theorem execVaultStatus_look {β : Type} (ρ : State → β) (hρ : ∀ (t : State) hi ev pm ov cairn erg aq counters out
    freeCtr, look ρ { t with hi := hi, ev := ev, pm := pm, ov := ov, cairn := cairn, erg := erg, aq := aq, counters := counters, out := out, freeCtr := freeCtr }
    = look ρ t) (h : Hdr) (s : State) : ∃ σ, execVaultStatus h s = .next σ ∧ look ρ σ = look ρ s := ⟨_, rfl, runProc_look ρ (by simp [hρ]) _ _ _ (procVaultStatus_look ρ _ _)⟩

theorem execVaultLifecycle_look {β : Type} (ρ : State → β) (hρ : ∀ (t : State) hi ev pm ov cairn erg aq counters out
    freeCtr, look ρ { t with hi := hi, ev := ev, pm := pm, ov := ov, cairn := cairn, erg := erg, aq := aq, counters := counters, out := out, freeCtr := freeCtr }
    = look ρ t) (h : Hdr) (target : Nat) (ownerKey : Option Nat) (s : State) : ∃ σ, execVaultLifecycle h target
    ownerKey s = .next σ ∧ look ρ σ = look ρ s := ⟨_, rfl, runProc_look ρ (by simp [hρ]) _ _ _ (procVaultLifecycle_look ρ _ _ _ _)⟩

theorem execVaultOwnerLoad_look {β : Type} (ρ : State → β) (hρ : ∀ (t : State) hi ev pm ov cairn erg aq counters out
    freeCtr, look ρ { t with hi := hi, ev := ev, pm := pm, ov := ov, cairn := cairn, erg := erg, aq := aq, counters := counters, out := out, freeCtr := freeCtr }
    = look ρ t) (h : Hdr) (key : Nat) (s : State) : ∃ σ, execVaultOwnerLoad h key s = .next σ ∧ look ρ σ = look ρ s := ⟨_, rfl, runProc_look ρ (by simp [hρ]) _ _ _ (procVaultOwnerLoad_look ρ (by simp [hρ]) _ _ _)⟩

theorem execVaultRootGenerate_look {β : Type} (ρ : State → β) (hρ : ∀ (t : State) hi ev pm ov cairn erg aq counters
    out freeCtr, look ρ { t with hi := hi, ev := ev, pm := pm, ov := ov, cairn := cairn, erg := erg, aq := aq, counters := counters, out := out, freeCtr := freeCtr }
    = look ρ t) (h : Hdr) (s : State) : ∃ σ, execVaultRootGenerate h s = .next σ ∧ look ρ σ = look ρ s := ⟨_, rfl, runProc_look ρ (by simp [hρ]) _ _ _ (procVaultRootGenerate_look ρ _ _)⟩

theorem execVaultTamperClear_look {β : Type} (ρ : State → β) (hρ : ∀ (t : State) hi ev pm ov cairn erg aq counters out
    freeCtr, look ρ { t with hi := hi, ev := ev, pm := pm, ov := ov, cairn := cairn, erg := erg, aq := aq, counters := counters, out := out, freeCtr := freeCtr }
    = look ρ t) (h : Hdr) (s : State) : ∃ σ, execVaultTamperClear h s = .next σ ∧ look ρ σ = look ρ s := ⟨_, rfl, runProc_look ρ (by simp [hρ]) _ _ _ (procVaultTamperClear_look ρ (by simp [hρ]) _ _)⟩

theorem execVaultTamperConfig_look {β : Type} (ρ : State → β) (hρ : ∀ (t : State) hi ev pm ov cairn erg aq counters
    out freeCtr, look ρ { t with hi := hi, ev := ev, pm := pm, ov := ov, cairn := cairn, erg := erg, aq := aq, counters := counters, out := out, freeCtr := freeCtr }
    = look ρ t) (h : Hdr) (enables : Nat) (s : State) : ∃ σ, execVaultTamperConfig h enables s = .next σ ∧ look ρ σ =
    look ρ s := ⟨_, rfl, runProc_look ρ (by simp [hρ]) _ _ _ (procVaultTamperConfig_look ρ (by simp [hρ]) _ _ _)⟩

theorem execVaultDebug_look {β : Type} (ρ : State → β) (hρ : ∀ (t : State) hi ev pm ov cairn erg aq counters out
    freeCtr, look ρ { t with hi := hi, ev := ev, pm := pm, ov := ov, cairn := cairn, erg := erg, aq := aq, counters := counters, out := out, freeCtr := freeCtr }
    = look ρ t) (h : Hdr) (en : Nat) (s : State) : ∃ σ, execVaultDebug h en s = .next σ ∧ look ρ σ = look ρ s := ⟨_, rfl, runProc_look ρ (by simp [hρ]) _ _ _ (procVaultDebug_look ρ (by simp [hρ]) _ _ _)⟩

theorem execVaultGenerate_look {β : Type} (ρ : State → β) (hρ : ∀ (t : State) hi ev pm ov cairn erg aq counters out
    freeCtr, look ρ { t with hi := hi, ev := ev, pm := pm, ov := ov, cairn := cairn, erg := erg, aq := aq, counters := counters, out := out, freeCtr := freeCtr }
    = look ρ t) (h : Hdr) (slot alg usage lock : Nat) (s : State) : ∃ σ, execVaultGenerate h slot alg usage lock s =
    .next σ ∧ look ρ σ = look ρ s := ⟨_, rfl, runProc_look ρ (by simp [hρ]) _ _ _ (procVaultGenerate_look ρ _ _ _ _ _ _)⟩

theorem execVaultDerive_look {β : Type} (ρ : State → β) (hρ : ∀ (t : State) hi ev pm ov cairn erg aq counters out
    freeCtr, look ρ { t with hi := hi, ev := ev, pm := pm, ov := ov, cairn := cairn, erg := erg, aq := aq, counters := counters, out := out, freeCtr := freeCtr }
    = look ρ t) (h : Hdr) (slot parent alg usage lock label : Nat) (s : State) : ∃ σ, execVaultDerive h slot parent
    alg usage lock label s = .next σ ∧ look ρ σ = look ρ s := ⟨_, rfl, runProc_look ρ (by simp [hρ]) _ _ _ (procVaultDerive_look ρ (by simp [hρ]) _ _ _ _ _ _ _ _)⟩

theorem execVaultImport_look {β : Type} (ρ : State → β) (hρ : ∀ (t : State) hi ev pm ov cairn erg aq counters out
    freeCtr, look ρ { t with hi := hi, ev := ev, pm := pm, ov := ov, cairn := cairn, erg := erg, aq := aq, counters := counters, out := out, freeCtr := freeCtr }
    = look ρ t) (h : Hdr) (p : ImportP) (s : State) : ∃ σ, execVaultImport h p s = .next σ ∧ look ρ σ = look ρ s := ⟨_, rfl, runProc_look ρ (by simp [hρ]) _ _ _ (procVaultImport_look ρ (by simp [hρ]) _ _ _)⟩

theorem execVaultSeal_look {β : Type} (ρ : State → β) (hρ : ∀ (t : State) hi ev pm ov cairn erg aq counters out
    freeCtr, look ρ { t with hi := hi, ev := ev, pm := pm, ov := ov, cairn := cairn, erg := erg, aq := aq, counters := counters, out := out, freeCtr := freeCtr }
    = look ρ t) (h : Hdr) (slot addr len : Nat) (s : State) : ∃ σ, execVaultSeal h slot addr len s = .next σ ∧ look ρ
    σ = look ρ s := ⟨_, rfl, runProc_look ρ (by simp [hρ]) _ _ _ (procVaultSeal_look ρ (by simp [hρ]) _ _ _ _ _)⟩

theorem execVaultExport_look {β : Type} (ρ : State → β) (hρ : ∀ (t : State) hi ev pm ov cairn erg aq counters out
    freeCtr, look ρ { t with hi := hi, ev := ev, pm := pm, ov := ov, cairn := cairn, erg := erg, aq := aq, counters := counters, out := out, freeCtr := freeCtr }
    = look ρ t) (h : Hdr) (slot wrapSlot destUid addr len : Nat) (s : State) : ∃ σ, execVaultExport h slot wrapSlot
    destUid addr len s = .next σ ∧ look ρ σ = look ρ s := ⟨_, rfl, runProc_look ρ (by simp [hρ]) _ _ _ (procVaultExport_look ρ (by simp [hρ]) _ _ _ _ _ _ _)⟩

theorem execVaultDestroy_look {β : Type} (ρ : State → β) (hρ : ∀ (t : State) hi ev pm ov cairn np si erg aq counters
    out freeCtr, look ρ { t with hi := hi, ev := ev, pm := pm, ov := ov, cairn := cairn, np := np, si := si, erg := erg, aq := aq, counters := counters, out := out, freeCtr := freeCtr }
    = look ρ t) (h : Hdr) (slot : Nat) (s : State) : ∃ σ, execVaultDestroy h slot s = .next σ ∧ look ρ σ = look ρ s := ⟨_, rfl, runProc_look ρ (by simp [hρ]) _ _ _ (procVaultDestroy_look ρ (by simp [hρ]) _ _ _)⟩

theorem execVaultAttest_look {β : Type} (ρ : State → β) (hρ : ∀ (t : State) hi ev pm ov cairn erg aq counters out
    freeCtr, look ρ { t with hi := hi, ev := ev, pm := pm, ov := ov, cairn := cairn, erg := erg, aq := aq, counters := counters, out := out, freeCtr := freeCtr }
    = look ρ t) (h : Hdr) (slot nonce addr len : Nat) (s : State) : ∃ σ, execVaultAttest h slot nonce addr len s =
    .next σ ∧ look ρ σ = look ρ s := ⟨_, rfl, runProc_look ρ (by simp [hρ]) _ _ _ (procVaultAttest_look ρ _ _ _ _ _ _)⟩

theorem execVaultSlotQuery_look {β : Type} (ρ : State → β) (hρ : ∀ (t : State) hi ev pm ov cairn erg aq counters out
    freeCtr, look ρ { t with hi := hi, ev := ev, pm := pm, ov := ov, cairn := cairn, erg := erg, aq := aq, counters := counters, out := out, freeCtr := freeCtr }
    = look ρ t) (h : Hdr) (slot : Nat) (s : State) : ∃ σ, execVaultSlotQuery h slot s = .next σ ∧ look ρ σ = look ρ s
    := ⟨_, rfl, runProc_look ρ (by simp [hρ]) _ _ _ (procVaultSlotQuery_look ρ _ _ _)⟩

theorem execVaultRandom_look {β : Type} (ρ : State → β) (hρ : ∀ (t : State) hi ev pm ov cairn erg aq counters out
    freeCtr, look ρ { t with hi := hi, ev := ev, pm := pm, ov := ov, cairn := cairn, erg := erg, aq := aq, counters := counters, out := out, freeCtr := freeCtr }
    = look ρ t) (h : Hdr) (count : Nat) (s : State) : ∃ σ, execVaultRandom h count s = .next σ ∧ look ρ σ = look ρ s
    := ⟨_, rfl, runProc_look ρ (by simp [hρ]) _ _ _ (procVaultRandom_look ρ (by simp [hρ]) _ _ _)⟩

theorem execVaultClearCounters_look {β : Type} (ρ : State → β) (hρ : ∀ (t : State) hi ev pm ov cairn erg aq counters
    out freeCtr, look ρ { t with hi := hi, ev := ev, pm := pm, ov := ov, cairn := cairn, erg := erg, aq := aq, counters := counters, out := out, freeCtr := freeCtr }
    = look ρ t) (h : Hdr) (s : State) : ∃ σ, execVaultClearCounters h s = .next σ ∧ look ρ σ = look ρ s := ⟨_, rfl, runProc_look ρ (by simp [hρ]) _ _ _ (procVaultClearCounters_look ρ (by simp [hρ]) _ _)⟩

end Sys2Proof.Machine
end

