-- ==== Sys2Proof/Laws/LookLogCmd.lean ====
section
/-! SUPPORT. What the operations of Machine/LogCmd.lean leave alone. -/

namespace Sys2Proof.Machine

@[simp] theorem setScrub_look {β : Type} (ρ : State → β) (hρ : ∀ (t : State) ec, look ρ { t with ec := ec } = look ρ
    t) (ms : Nat) (s : State) : look ρ (setScrub ms s) = look ρ s := by
  unfold setScrub
  (repeat' split) <;> first | with_reducible rfl | simp [*]

@[simp] theorem setLog_look {β : Type} (ρ : State → β) (hρ : ∀ (t : State) ec ev, look ρ { t with ec := ec, ev := ev }
    = look ρ t) (p : LogP) (s : State) : look ρ (setLog p s) = look ρ s := by
  unfold setLog
  (repeat' split) <;> first | with_reducible rfl | simp [*]

@[simp] theorem finishLogRead_look {β : Type} (ρ : State → β) (hρ : ∀ (t : State) hi ev counters out, look ρ { t with hi := hi, ev := ev, counters := counters, out := out }
    = look ρ t) (o : OpEntry) (first count addr : Nat) (dataBad : Bool) (s : State) : look ρ (finishLogRead o first
    count addr dataBad s) = look ρ s := by
  unfold finishLogRead
  (repeat' split) <;> first | with_reducible rfl | simp [*]

@[simp] theorem finishFlush_look {β : Type} (ρ : State → β) (hρ : ∀ (t : State) hi ev counters out, look ρ { t with hi := hi, ev := ev, counters := counters, out := out }
    = look ρ t) (o : OpEntry) (hwFault : Bool) (s : State) : look ρ (finishFlush o hwFault s) = look ρ s := by
  unfold finishFlush
  (repeat' split) <;> first | with_reducible rfl | simp [*]

@[simp] theorem clearFault_look {β : Type} (ρ : State → β) (hρ : ∀ (t : State) ev, look ρ { t with ev := ev } = look ρ
    t) (s : State) : look ρ (clearFault s) = look ρ s := by
  unfold clearFault
  (repeat' split) <;> first | with_reducible rfl | simp [*]

@[simp] theorem flipBit_look {β : Type} (ρ : State → β) (hρ : ∀ (t : State) ec, look ρ { t with ec := ec } = look ρ t)
    (m w b : Nat) (s : State) : look ρ (flipBit m w b s) = look ρ s := by
  unfold flipBit
  (repeat' split) <;> first | with_reducible rfl | simp [*]

@[simp] theorem procLogConfig_look {β : Type} (ρ : State → β) (hρ : ∀ (t : State) ec ev, look ρ { t with ec := ec, ev := ev }
    = look ρ t) (h : Hdr) (p : LogP) (s : State) : (procLogConfig h p s).work.Look ρ := by
  simp [procLogConfig, Work.Look, *]

@[simp] theorem procLogSpoolSeek_look {β : Type} (ρ : State → β) (hρ : ∀ (t : State) ev counters, look ρ { t with ev := ev, counters := counters }
    = look ρ t) (h : Hdr) (seq : Nat) (s : State) : (procLogSpoolSeek h seq s).work.Look ρ := by
  simp [procLogSpoolSeek, Work.Look, *]

@[simp] theorem procLogRead_look {β : Type} (ρ : State → β)  (h : Hdr) (first count addr len : Nat) (s : State) :
    (procLogRead h first count addr len s).work.Look ρ := by
  simp [procLogRead, *]

@[simp] theorem procLogFlush_look {β : Type} (ρ : State → β) (hρ : ∀ (t : State) hi ev counters out, look ρ { t with hi := hi, ev := ev, counters := counters, out := out }
    = look ρ t) (h : Hdr) (s : State) : (procLogFlush h s).work.Look ρ := by
  simp [procLogFlush, Work.Look, *]

@[simp] theorem procLogWrite_look {β : Type} (ρ : State → β) (hρ : ∀ (t : State) hi ev counters out, look ρ { t with hi := hi, ev := ev, counters := counters, out := out }
    = look ρ t) (h : Hdr) (severity arg : Nat) (s : State) : (procLogWrite h severity arg s).work.Look ρ := by
  simp [procLogWrite, Work.Look, *]

@[simp] theorem procLogFaultClear_look {β : Type} (ρ : State → β) (hρ : ∀ (t : State) ev, look ρ { t with ev := ev } =
    look ρ t) (h : Hdr) (s : State) : (procLogFaultClear h s).work.Look ρ := by
  simp [procLogFaultClear, Work.Look, *]

@[simp] theorem procLogMacroQuery_look {β : Type} (ρ : State → β)  (h : Hdr) (mac : Nat) (s : State) :
    (procLogMacroQuery h mac s).work.Look ρ := by
  simp [procLogMacroQuery, Work.Look, *]

@[simp] theorem procLogInject_look {β : Type} (ρ : State → β) (hρ : ∀ (t : State) ec, look ρ { t with ec := ec } =
    look ρ t) (h : Hdr) (mac word bitA bitB : Nat) (s : State) : (procLogInject h mac word bitA bitB s).work.Look ρ :=
    by
  simp [procLogInject, Work.Look, *]

@[simp] theorem procLogClearCounters_look {β : Type} (ρ : State → β) (hρ : ∀ (t : State) counters, look ρ { t with counters := counters }
    = look ρ t) (h : Hdr) (mask : Nat) (s : State) : (procLogClearCounters h mask s).work.Look ρ := by
  simp [procLogClearCounters, Work.Look, *]

theorem execLogConfig_look {β : Type} (ρ : State → β) (hρ : ∀ (t : State) hi ec ev pm ov cairn erg aq counters out
    freeCtr, look ρ { t with hi := hi, ec := ec, ev := ev, pm := pm, ov := ov, cairn := cairn, erg := erg, aq := aq, counters := counters, out := out, freeCtr := freeCtr }
    = look ρ t) (h : Hdr) (p : LogP) (s : State) : ∃ σ, execLogConfig h p s = .next σ ∧ look ρ σ = look ρ s := ⟨_, rfl, runProc_look ρ (by simp [hρ]) _ _ _ (procLogConfig_look ρ (by simp [hρ]) _ _ _)⟩

theorem execLogSpoolSeek_look {β : Type} (ρ : State → β) (hρ : ∀ (t : State) hi ev pm ov cairn erg aq counters out
    freeCtr, look ρ { t with hi := hi, ev := ev, pm := pm, ov := ov, cairn := cairn, erg := erg, aq := aq, counters := counters, out := out, freeCtr := freeCtr }
    = look ρ t) (h : Hdr) (seq : Nat) (s : State) : ∃ σ, execLogSpoolSeek h seq s = .next σ ∧ look ρ σ = look ρ s := ⟨_, rfl, runProc_look ρ (by simp [hρ]) _ _ _ (procLogSpoolSeek_look ρ (by simp [hρ]) _ _ _)⟩

theorem execLogRead_look {β : Type} (ρ : State → β) (hρ : ∀ (t : State) hi ev pm ov cairn erg aq counters out freeCtr,
    look ρ { t with hi := hi, ev := ev, pm := pm, ov := ov, cairn := cairn, erg := erg, aq := aq, counters := counters, out := out, freeCtr := freeCtr }
    = look ρ t) (h : Hdr) (first count addr len : Nat) (s : State) : ∃ σ, execLogRead h first count addr len s = .next
    σ ∧ look ρ σ = look ρ s := ⟨_, rfl, runProc_look ρ (by simp [hρ]) _ _ _ (procLogRead_look ρ _ _ _ _ _ _)⟩

theorem execLogFlush_look {β : Type} (ρ : State → β) (hρ : ∀ (t : State) hi ev pm ov cairn erg aq counters out
    freeCtr, look ρ { t with hi := hi, ev := ev, pm := pm, ov := ov, cairn := cairn, erg := erg, aq := aq, counters := counters, out := out, freeCtr := freeCtr }
    = look ρ t) (h : Hdr) (s : State) : ∃ σ, execLogFlush h s = .next σ ∧ look ρ σ = look ρ s := ⟨_, rfl, runProc_look ρ (by simp [hρ]) _ _ _ (procLogFlush_look ρ (by simp [hρ]) _ _)⟩

theorem execLogWrite_look {β : Type} (ρ : State → β) (hρ : ∀ (t : State) hi ev pm ov cairn erg aq counters out
    freeCtr, look ρ { t with hi := hi, ev := ev, pm := pm, ov := ov, cairn := cairn, erg := erg, aq := aq, counters := counters, out := out, freeCtr := freeCtr }
    = look ρ t) (h : Hdr) (severity arg : Nat) (s : State) : ∃ σ, execLogWrite h severity arg s = .next σ ∧ look ρ σ =
    look ρ s := ⟨_, rfl, runProc_look ρ (by simp [hρ]) _ _ _ (procLogWrite_look ρ (by simp [hρ]) _ _ _ _)⟩

theorem execLogFaultClear_look {β : Type} (ρ : State → β) (hρ : ∀ (t : State) hi ev pm ov cairn erg aq counters out
    freeCtr, look ρ { t with hi := hi, ev := ev, pm := pm, ov := ov, cairn := cairn, erg := erg, aq := aq, counters := counters, out := out, freeCtr := freeCtr }
    = look ρ t) (h : Hdr) (s : State) : ∃ σ, execLogFaultClear h s = .next σ ∧ look ρ σ = look ρ s := ⟨_, rfl, runProc_look ρ (by simp [hρ]) _ _ _ (procLogFaultClear_look ρ (by simp [hρ]) _ _)⟩

theorem execLogMacroQuery_look {β : Type} (ρ : State → β) (hρ : ∀ (t : State) hi ev pm ov cairn erg aq counters out
    freeCtr, look ρ { t with hi := hi, ev := ev, pm := pm, ov := ov, cairn := cairn, erg := erg, aq := aq, counters := counters, out := out, freeCtr := freeCtr }
    = look ρ t) (h : Hdr) (mac : Nat) (s : State) : ∃ σ, execLogMacroQuery h mac s = .next σ ∧ look ρ σ = look ρ s := ⟨_, rfl, runProc_look ρ (by simp [hρ]) _ _ _ (procLogMacroQuery_look ρ _ _ _)⟩

theorem execLogInject_look {β : Type} (ρ : State → β) (hρ : ∀ (t : State) hi ec ev pm ov cairn erg aq counters out
    freeCtr, look ρ { t with hi := hi, ec := ec, ev := ev, pm := pm, ov := ov, cairn := cairn, erg := erg, aq := aq, counters := counters, out := out, freeCtr := freeCtr }
    = look ρ t) (h : Hdr) (mac word bitA bitB : Nat) (s : State) : ∃ σ, execLogInject h mac word bitA bitB s = .next σ
    ∧ look ρ σ = look ρ s := ⟨_, rfl, runProc_look ρ (by simp [hρ]) _ _ _ (procLogInject_look ρ (by simp [hρ]) _ _ _ _ _ _)⟩

theorem execLogClearCounters_look {β : Type} (ρ : State → β) (hρ : ∀ (t : State) hi ev pm ov cairn erg aq counters out
    freeCtr, look ρ { t with hi := hi, ev := ev, pm := pm, ov := ov, cairn := cairn, erg := erg, aq := aq, counters := counters, out := out, freeCtr := freeCtr }
    = look ρ t) (h : Hdr) (mask : Nat) (s : State) : ∃ σ, execLogClearCounters h mask s = .next σ ∧ look ρ σ = look ρ
    s := ⟨_, rfl, runProc_look ρ (by simp [hρ]) _ _ _ (procLogClearCounters_look ρ (by simp [hρ]) _ _ _)⟩

end Sys2Proof.Machine
end

