-- ==== Sys2Proof/Laws/LookPowerCmd.lean ====
section
/-! SUPPORT. What the operations of Machine/PowerCmd.lean leave alone. -/

namespace Sys2Proof.Machine

@[simp] theorem startHandshake_look {β : Type} (ρ : State → β) (hρ : ∀ (t : State) pm, look ρ { t with pm := pm } =
    look ρ t) (handle : Nat) (s : State) : look ρ (startHandshake handle s) = look ρ s := by
  unfold startHandshake
  (repeat' split) <;> first | with_reducible rfl | simp [*]

@[simp] theorem releasePads_look {β : Type} (ρ : State → β) (hρ : ∀ (t : State) pm, look ρ { t with pm := pm } = look
    ρ t) (mask : Nat) (s : State) : look ρ (releasePads mask s) = look ρ s := by
  unfold releasePads
  (repeat' split) <;> first | with_reducible rfl | simp [*]

@[simp] theorem setPower_look {β : Type} (ρ : State → β) (hρ : ∀ (t : State) pm, look ρ { t with pm := pm } = look ρ
    t) (p : PowerP) (s : State) : look ρ (setPower p s) = look ρ s := by
  unfold setPower
  (repeat' split) <;> first | with_reducible rfl | simp [*]

@[simp] theorem setRefs_look {β : Type} (ρ : State → β) (hρ : ∀ (t : State) hi ev pm ck counters out, look ρ { t with hi := hi, ev := ev, pm := pm, ck := ck, counters := counters, out := out }
    = look ρ t) (p : RefP) (s : State) : look ρ (setRefs p s) = look ρ s := by
  unfold setRefs
  (repeat' split) <;> first | with_reducible rfl | simp [*]

@[simp] theorem finishRefSwitch_look {β : Type} (ρ : State → β) (hρ : ∀ (t : State) hi ev ck counters out, look ρ { t with hi := hi, ev := ev, ck := ck, counters := counters, out := out }
    = look ρ t) (o : OpEntry) (hwFault : Bool) (s : State) : look ρ (finishRefSwitch o hwFault s) = look ρ s := by
  unfold finishRefSwitch
  (repeat' split) <;> first | with_reducible rfl | simp [*]

@[simp] theorem procPowerDoze_look {β : Type} (ρ : State → β) (hρ : ∀ (t : State) pm, look ρ { t with pm := pm } =
    look ρ t) (h : Hdr) (s : State) : (procPowerDoze h s).work.Look ρ := by
  simp [procPowerDoze, Work.Look, *]

@[simp] theorem procPowerWake_look {β : Type} (ρ : State → β) (hρ : ∀ (t : State) pm, look ρ { t with pm := pm } =
    look ρ t) (h : Hdr) (s : State) : (procPowerWake h s).work.Look ρ := by
  simp [procPowerWake, Work.Look, *]

@[simp] theorem procPowerPadRelease_look {β : Type} (ρ : State → β) (hρ : ∀ (t : State) pm, look ρ { t with pm := pm }
    = look ρ t) (h : Hdr) (mask : Nat) (s : State) : (procPowerPadRelease h mask s).work.Look ρ := by
  simp [procPowerPadRelease, Work.Look, *]

@[simp] theorem procPowerConfig_look {β : Type} (ρ : State → β) (hρ : ∀ (t : State) pm, look ρ { t with pm := pm } =
    look ρ t) (h : Hdr) (p : PowerP) (s : State) : (procPowerConfig h p s).work.Look ρ := by
  simp [procPowerConfig, Work.Look, *]

@[simp] theorem procPowerQuery_look {β : Type} (ρ : State → β)  (h : Hdr) (s : State) : (procPowerQuery h s).work.Look
    ρ := by
  simp [procPowerQuery, Work.Look, *]

@[simp] theorem procPowerRefConfig_look {β : Type} (ρ : State → β) (hρ : ∀ (t : State) hi ev pm ck counters out, look
    ρ { t with hi := hi, ev := ev, pm := pm, ck := ck, counters := counters, out := out } = look ρ t) (h : Hdr) (p :
    RefP) (s : State) : (procPowerRefConfig h p s).work.Look ρ := by
  simp [procPowerRefConfig, Work.Look, *]

@[simp] theorem procPowerRefSwitch_look {β : Type} (ρ : State → β) (hρ : ∀ (t : State) ck, look ρ { t with ck := ck }
    = look ρ t) (h : Hdr) (s : State) : (procPowerRefSwitch h s).work.Look ρ := by
  simp [procPowerRefSwitch, Work.Look, *]

@[simp] theorem procPowerClearCounters_look {β : Type} (ρ : State → β) (hρ : ∀ (t : State) counters, look ρ { t with counters := counters }
    = look ρ t) (h : Hdr) (mask : Nat) (s : State) : (procPowerClearCounters h mask s).work.Look ρ := by
  simp [procPowerClearCounters, Work.Look, *]

theorem execPowerDoze_look {β : Type} (ρ : State → β) (hρ : ∀ (t : State) hi ev pm ov cairn erg aq counters out
    freeCtr, look ρ { t with hi := hi, ev := ev, pm := pm, ov := ov, cairn := cairn, erg := erg, aq := aq, counters := counters, out := out, freeCtr := freeCtr }
    = look ρ t) (h : Hdr) (s : State) : ∃ σ, execPowerDoze h s = .next σ ∧ look ρ σ = look ρ s := ⟨_, rfl, runProc_look ρ (by simp [hρ]) _ _ _ (procPowerDoze_look ρ (by simp [hρ]) _ _)⟩

theorem execPowerWake_look {β : Type} (ρ : State → β) (hρ : ∀ (t : State) hi ev pm ov cairn erg aq counters out
    freeCtr, look ρ { t with hi := hi, ev := ev, pm := pm, ov := ov, cairn := cairn, erg := erg, aq := aq, counters := counters, out := out, freeCtr := freeCtr }
    = look ρ t) (h : Hdr) (s : State) : ∃ σ, execPowerWake h s = .next σ ∧ look ρ σ = look ρ s := ⟨_, rfl, runProc_look ρ (by simp [hρ]) _ _ _ (procPowerWake_look ρ (by simp [hρ]) _ _)⟩

theorem execPowerPadRelease_look {β : Type} (ρ : State → β) (hρ : ∀ (t : State) hi ev pm ov cairn erg aq counters out
    freeCtr, look ρ { t with hi := hi, ev := ev, pm := pm, ov := ov, cairn := cairn, erg := erg, aq := aq, counters := counters, out := out, freeCtr := freeCtr }
    = look ρ t) (h : Hdr) (mask : Nat) (s : State) : ∃ σ, execPowerPadRelease h mask s = .next σ ∧ look ρ σ = look ρ s
    := ⟨_, rfl, runProc_look ρ (by simp [hρ]) _ _ _ (procPowerPadRelease_look ρ (by simp [hρ]) _ _ _)⟩

theorem execPowerConfig_look {β : Type} (ρ : State → β) (hρ : ∀ (t : State) hi ev pm ov cairn erg aq counters out
    freeCtr, look ρ { t with hi := hi, ev := ev, pm := pm, ov := ov, cairn := cairn, erg := erg, aq := aq, counters := counters, out := out, freeCtr := freeCtr }
    = look ρ t) (h : Hdr) (p : PowerP) (s : State) : ∃ σ, execPowerConfig h p s = .next σ ∧ look ρ σ = look ρ s := ⟨_, rfl, runProc_look ρ (by simp [hρ]) _ _ _ (procPowerConfig_look ρ (by simp [hρ]) _ _ _)⟩

theorem execPowerQuery_look {β : Type} (ρ : State → β) (hρ : ∀ (t : State) hi ev pm ov cairn erg aq counters out
    freeCtr, look ρ { t with hi := hi, ev := ev, pm := pm, ov := ov, cairn := cairn, erg := erg, aq := aq, counters := counters, out := out, freeCtr := freeCtr }
    = look ρ t) (h : Hdr) (s : State) : ∃ σ, execPowerQuery h s = .next σ ∧ look ρ σ = look ρ s := ⟨_, rfl, runProc_look ρ (by simp [hρ]) _ _ _ (procPowerQuery_look ρ _ _)⟩

theorem execPowerRefConfig_look {β : Type} (ρ : State → β) (hρ : ∀ (t : State) hi ev pm ck ov cairn erg aq counters
    out freeCtr, look ρ { t with hi := hi, ev := ev, pm := pm, ck := ck, ov := ov, cairn := cairn, erg := erg, aq := aq, counters := counters, out := out, freeCtr := freeCtr }
    = look ρ t) (h : Hdr) (p : RefP) (s : State) : ∃ σ, execPowerRefConfig h p s = .next σ ∧ look ρ σ = look ρ s := ⟨_, rfl, runProc_look ρ (by simp [hρ]) _ _ _ (procPowerRefConfig_look ρ (by simp [hρ]) _ _ _)⟩

theorem execPowerRefSwitch_look {β : Type} (ρ : State → β) (hρ : ∀ (t : State) hi ev pm ck ov cairn erg aq counters
    out freeCtr, look ρ { t with hi := hi, ev := ev, pm := pm, ck := ck, ov := ov, cairn := cairn, erg := erg, aq := aq, counters := counters, out := out, freeCtr := freeCtr }
    = look ρ t) (h : Hdr) (s : State) : ∃ σ, execPowerRefSwitch h s = .next σ ∧ look ρ σ = look ρ s := ⟨_, rfl, runProc_look ρ (by simp [hρ]) _ _ _ (procPowerRefSwitch_look ρ (by simp [hρ]) _ _)⟩

theorem execPowerClearCounters_look {β : Type} (ρ : State → β) (hρ : ∀ (t : State) hi ev pm ov cairn erg aq counters
    out freeCtr, look ρ { t with hi := hi, ev := ev, pm := pm, ov := ov, cairn := cairn, erg := erg, aq := aq, counters := counters, out := out, freeCtr := freeCtr }
    = look ρ t) (h : Hdr) (mask : Nat) (s : State) : ∃ σ, execPowerClearCounters h mask s = .next σ ∧ look ρ σ = look
    ρ s := ⟨_, rfl, runProc_look ρ (by simp [hρ]) _ _ _ (procPowerClearCounters_look ρ (by simp [hρ]) _ _ _)⟩

end Sys2Proof.Machine
end

