-- ==== Sys2Proof/Laws/LookImage.lean ====
section
/-! SUPPORT. What the operations of Machine/Image.lean leave alone. -/

namespace Sys2Proof.Machine

@[simp] theorem putSetting_look {β : Type} (ρ : State → β) (hρ : ∀ (t : State) hi tm ec ev pm ck cairn np si erg cv ts
    sc al aq am counters out, look ρ { t with hi := hi, tm := tm, ec := ec, ev := ev, pm := pm, ck := ck, cairn := cairn, np := np, si := si, erg := erg, cv := cv, ts := ts, sc := sc, al := al, aq := aq, am := am, counters := counters, out := out }
    = look ρ t) (x : Setting) (s : State) : look ρ (putSetting x s) = look ρ s := by
  unfold putSetting
  (repeat' split) <;> first | with_reducible rfl | simp [*]

@[simp] theorem putKinds_look {β : Type} (ρ : State → β) (hρ : ∀ (t : State) hi tm ec ev pm ck cairn np si erg cv ts
    sc al aq am counters out, look ρ { t with hi := hi, tm := tm, ec := ec, ev := ev, pm := pm, ck := ck, cairn := cairn, np := np, si := si, erg := erg, cv := cv, ts := ts, sc := sc, al := al, aq := aq, am := am, counters := counters, out := out }
    = look ρ t) (ks : List Nat) (img : Image) (s : State) : look ρ (putKinds ks img s) = look ρ s := by
  unfold putKinds
  (repeat' split) <;> first | with_reducible rfl | simp [*]

@[simp] theorem blankConfig_look {β : Type} (ρ : State → β) (hρ : ∀ (t : State) cfg tm ev np si erg cv ts sc al aq am,
    look ρ { t with cfg := cfg, tm := tm, ev := ev, np := np, si := si, erg := erg, cv := cv, ts := ts, sc := sc, al := al, aq := aq, am := am }
    = look ρ t) (s : State) : look ρ (blankConfig s) = look ρ s := by
  unfold blankConfig
  (repeat' split) <;> first | with_reducible rfl | simp [*]

@[simp] theorem imageState_look {β : Type} (ρ : State → β) (hρ : ∀ (t : State) hi cfg tm ec ev pm ck ov cairn np si
    erg cv ts sc al aq am counters out, look ρ { t with hi := hi, cfg := cfg, tm := tm, ec := ec, ev := ev, pm := pm, ck := ck, ov := ov, cairn := cairn, np := np, si := si, erg := erg, cv := cv, ts := ts, sc := sc, al := al, aq := aq, am := am, counters := counters, out := out }
    = look ρ t) (img : Image) (s : State) : look ρ (imageState img s) = look ρ s := by
  unfold imageState
  (repeat' split) <;> first | with_reducible rfl | simp [*]

end Sys2Proof.Machine
end

