-- ==== Sys2Proof/Laws/LookCfgCmd.lean ====
section
/-! SUPPORT. What the operations of Machine/CfgCmd.lean leave alone. -/

namespace Sys2Proof.Machine

@[simp] theorem commitSa_look {β : Type} (ρ : State → β) (hρ : ∀ (t : State) np, look ρ { t with np := np } = look ρ
    t) (old : State) (s : State) (p : SaP) : look ρ (commitSa old s p) = look ρ s := by
  unfold commitSa
  (repeat' split) <;> first | with_reducible rfl | simp [*]

@[simp] theorem commitGate_look {β : Type} (ρ : State → β) (hρ : ∀ (t : State) np, look ρ { t with np := np } = look ρ
    t) (g : Option GateP) (n : Nat) (s : State) : look ρ (commitGate g n s) = look ρ s := by
  unfold commitGate
  (repeat' split) <;> first | with_reducible rfl | simp [*]

@[simp] theorem commitPorts_look {β : Type} (ρ : State → β) (hρ : ∀ (t : State) hi tm ec ev pm ck cairn np si erg cv
    ts sc al aq am counters out, look ρ { t with hi := hi, tm := tm, ec := ec, ev := ev, pm := pm, ck := ck, cairn := cairn, np := np, si := si, erg := erg, cv := cv, ts := ts, sc := sc, al := al, aq := aq, am := am, counters := counters, out := out }
    = look ρ t) (img : Image) (s : State) : look ρ (commitPorts img s) = look ρ s := by
  unfold commitPorts
  (repeat' split) <;> first | with_reducible rfl | simp [*]

@[simp] theorem commitCmp_look {β : Type} (ρ : State → β) (hρ : ∀ (t : State) hi tm ec ev erg cv ts sc aq am counters
    out freeCtr, look ρ { t with hi := hi, tm := tm, ec := ec, ev := ev, erg := erg, cv := cv, ts := ts, sc := sc, aq := aq, am := am, counters := counters, out := out, freeCtr := freeCtr }
    = look ρ t) (p : Option CmpP) (n : Nat) (s : State) : look ρ (commitCmp p n s) = look ρ s := by
  unfold commitCmp
  (repeat' split) <;> first | with_reducible rfl | simp [*]

@[simp] theorem commitTime_look {β : Type} (ρ : State → β) (hρ : ∀ (t : State) hi tm ec ev pm cairn erg cv ts sc aq am
    counters out freeCtr, look ρ { t with hi := hi, tm := tm, ec := ec, ev := ev, pm := pm, cairn := cairn, erg := erg, cv := cv, ts := ts, sc := sc, aq := aq, am := am, counters := counters, out := out, freeCtr := freeCtr }
    = look ρ t) (img : Image) (s : State) : look ρ (commitTime img s) = look ρ s := by
  unfold commitTime
  (repeat' split) <;> first | with_reducible rfl | simp [*]

@[simp] theorem commitStream_look {β : Type} (ρ : State → β) (hρ : ∀ (t : State) hi ev si counters out, look ρ { t with hi := hi, ev := ev, si := si, counters := counters, out := out }
    = look ρ t) (s : State) (p : StreamP) : look ρ (commitStream s p) = look ρ s := by
  unfold commitStream
  (repeat' split) <;> first | with_reducible rfl | simp [*]

@[simp] theorem commitVs_look {β : Type} (ρ : State → β) (hρ : ∀ (t : State) hi ev si am counters out, look ρ { t with hi := hi, ev := ev, si := si, am := am, counters := counters, out := out }
    = look ρ t) (p : Option VsP) (v : Nat) (s : State) : look ρ (commitVs p v s) = look ρ s := by
  unfold commitVs
  (repeat' split) <;> first | with_reducible rfl | simp [*]

@[simp] theorem commitStreams_look {β : Type} (ρ : State → β) (hρ : ∀ (t : State) hi ev si am counters out, look ρ { t with hi := hi, ev := ev, si := si, am := am, counters := counters, out := out }
    = look ρ t) (img : Image) (s : State) : look ρ (commitStreams img s) = look ρ s := by
  unfold commitStreams
  (repeat' split) <;> first | with_reducible rfl | simp [*]

@[simp] theorem replaceGroup_look {β : Type} (ρ : State → β) (hρ : ∀ (t : State) hi ec ev erg cv ts sc counters out
    freeCtr, look ρ { t with hi := hi, ec := ec, ev := ev, erg := erg, cv := cv, ts := ts, sc := sc, counters := counters, out := out, freeCtr := freeCtr }
    = look ρ t) (p : GroupP) (members : List Nat) (s : State) : look ρ (replaceGroup p members s) = look ρ s := by
  simp only [replaceGroup]
  (repeat' split) <;> first | with_reducible rfl | simp [*]

@[simp] theorem commitGroup_look {β : Type} (ρ : State → β) (hρ : ∀ (t : State) hi ec ev erg cv ts sc counters out
    freeCtr, look ρ { t with hi := hi, ec := ec, ev := ev, erg := erg, cv := cv, ts := ts, sc := sc, counters := counters, out := out, freeCtr := freeCtr }
    = look ρ t) (d : Option (GroupP × List Nat)) (gid : Nat) (s : State) : look ρ (commitGroup d gid s) = look ρ s :=
    by
  unfold commitGroup
  (repeat' split) <;> first | with_reducible rfl | simp [*]

@[simp] theorem commitSession_look {β : Type} (ρ : State → β) (hρ : ∀ (t : State) erg, look ρ { t with erg := erg } =
    look ρ t) (old : State) (s : State) (e : SessionP × Bool) : look ρ (commitSession old s e) = look ρ s := by
  unfold commitSession
  (repeat' split) <;> first | with_reducible rfl | simp [*]

@[simp] theorem commitErg_look {β : Type} (ρ : State → β) (hρ : ∀ (t : State) hi ec ev erg cv ts sc counters out
    freeCtr, look ρ { t with hi := hi, ec := ec, ev := ev, erg := erg, cv := cv, ts := ts, sc := sc, counters := counters, out := out, freeCtr := freeCtr }
    = look ρ t) (img : Image) (s : State) : look ρ (commitErg img s) = look ρ s := by
  unfold commitErg
  (repeat' split) <;> first | with_reducible rfl | simp [*]

@[simp] theorem commitJob_look {β : Type} (ρ : State → β) (hρ : ∀ (t : State) cv, look ρ { t with cv := cv } = look ρ
    t) (old : State) (binds : List (Nat × Nat)) (s : State) (p : JobP) : look ρ (commitJob old binds s p) = look ρ s
    := by
  simp only [commitJob]
  (repeat' split) <;> first | with_reducible rfl | simp [*]

@[simp] theorem commitJobs_look {β : Type} (ρ : State → β) (hρ : ∀ (t : State) cv, look ρ { t with cv := cv } = look ρ
    t) (img : Image) (s : State) : look ρ (commitJobs img s) = look ρ s := by
  unfold commitJobs
  (repeat' split) <;> first | with_reducible rfl | simp [*]

@[simp] theorem dropRefacs_look {β : Type} (ρ : State → β) (hρ : ∀ (t : State) hi ev cv ts counters out, look ρ { t with hi := hi, ev := ev, cv := cv, ts := ts, counters := counters, out := out }
    = look ρ t) (s : State) : look ρ (dropRefacs s) = look ρ s := by
  unfold dropRefacs
  (repeat' split) <;> first | with_reducible rfl | simp [*]

@[simp] theorem dropModel_look {β : Type} (ρ : State → β) (hρ : ∀ (t : State) ts, look ρ { t with ts := ts } = look ρ
    t) (s : State) : look ρ (dropModel s) = look ρ s := by
  unfold dropModel
  (repeat' split) <;> first | with_reducible rfl | simp [*]

@[simp] theorem commitTopo_look {β : Type} (ρ : State → β) (hρ : ∀ (t : State) hi ev cv ts counters out, look ρ { t with hi := hi, ev := ev, cv := cv, ts := ts, counters := counters, out := out }
    = look ρ t) (img : Image) (s : State) : look ρ (commitTopo img s) = look ρ s := by
  simp only [commitTopo]
  (repeat' split) <;> first | with_reducible rfl | simp [*]

@[simp] theorem disarmSlow_look {β : Type} (ρ : State → β) (hρ : ∀ (t : State) hi tm ec ev erg cv ts sc aq am counters
    out freeCtr, look ρ { t with hi := hi, tm := tm, ec := ec, ev := ev, erg := erg, cv := cv, ts := ts, sc := sc, aq := aq, am := am, counters := counters, out := out, freeCtr := freeCtr }
    = look ρ t) (s : State) : look ρ (disarmSlow s) = look ρ s := by
  unfold disarmSlow
  (repeat' split) <;> first | with_reducible rfl | simp [*]

@[simp] theorem commitOscP_look {β : Type} (ρ : State → β) (hρ : ∀ (t : State) hi tm ec ev erg cv ts sc aq am counters
    out freeCtr, look ρ { t with hi := hi, tm := tm, ec := ec, ev := ev, erg := erg, cv := cv, ts := ts, sc := sc, aq := aq, am := am, counters := counters, out := out, freeCtr := freeCtr }
    = look ρ t) (p : Option OscP) (s : State) : look ρ (commitOscP p s) = look ρ s := by
  unfold commitOscP
  (repeat' split) <;> first | with_reducible rfl | simp [*]

@[simp] theorem commitSig_look {β : Type} (ρ : State → β) (hρ : ∀ (t : State) sc, look ρ { t with sc := sc } = look ρ
    t) (s : State) (p : SigP) : look ρ (commitSig s p) = look ρ s := by
  unfold commitSig
  (repeat' split) <;> first | with_reducible rfl | simp [*]

@[simp] theorem commitOsc_look {β : Type} (ρ : State → β) (hρ : ∀ (t : State) hi tm ec ev erg cv ts sc aq am counters
    out freeCtr, look ρ { t with hi := hi, tm := tm, ec := ec, ev := ev, erg := erg, cv := cv, ts := ts, sc := sc, aq := aq, am := am, counters := counters, out := out, freeCtr := freeCtr }
    = look ρ t) (img : Image) (s : State) : look ρ (commitOsc img s) = look ρ s := by
  unfold commitOsc
  (repeat' split) <;> first | with_reducible rfl | simp [*]

@[simp] theorem commitRule_look {β : Type} (ρ : State → β) (hρ : ∀ (t : State) hi ev al counters out, look ρ { t with hi := hi, ev := ev, al := al, counters := counters, out := out }
    = look ρ t) (d : Option (RuleP × Bool)) (n : Nat) (s : State) : look ρ (commitRule d n s) = look ρ s := by
  unfold commitRule
  (repeat' split) <;> first | with_reducible rfl | simp [*]

@[simp] theorem commitAlarms_look {β : Type} (ρ : State → β) (hρ : ∀ (t : State) hi ev al counters out, look ρ { t with hi := hi, ev := ev, al := al, counters := counters, out := out }
    = look ρ t) (img : Image) (s : State) : look ρ (commitAlarms img s) = look ρ s := by
  unfold commitAlarms
  (repeat' split) <;> first | with_reducible rfl | simp [*]

@[simp] theorem commitRing_look {β : Type} (ρ : State → β) (hρ : ∀ (t : State) aq, look ρ { t with aq := aq } = look ρ
    t) (s : State) (d : AqRingP × Bool) : look ρ (commitRing s d) = look ρ s := by
  unfold commitRing
  (repeat' split) <;> first | with_reducible rfl | simp [*]

@[simp] theorem commitChan_look {β : Type} (ρ : State → β) (hρ : ∀ (t : State) hi ec ev erg aq counters out freeCtr,
    look ρ { t with hi := hi, ec := ec, ev := ev, erg := erg, aq := aq, counters := counters, out := out, freeCtr := freeCtr }
    = look ρ t) (d : Option (ChanP × Bool)) (rs : List (AqRingP × Bool)) (c : Nat) (s : State) : look ρ (commitChan d
    rs c s) = look ρ s := by
  simp only [commitChan]
  (repeat' split) <;> first | with_reducible rfl | simp [*]

@[simp] theorem commitAcq_look {β : Type} (ρ : State → β) (hρ : ∀ (t : State) hi ec ev erg aq counters out freeCtr,
    look ρ { t with hi := hi, ec := ec, ev := ev, erg := erg, aq := aq, counters := counters, out := out, freeCtr := freeCtr }
    = look ρ t) (img : Image) (s : State) : look ρ (commitAcq img s) = look ρ s := by
  unfold commitAcq
  (repeat' split) <;> first | with_reducible rfl | simp [*]

@[simp] theorem commitElem_look {β : Type} (ρ : State → β) (hρ : ∀ (t : State) hi ev am counters out freeCtr, look ρ { t with hi := hi, ev := ev, am := am, counters := counters, out := out, freeCtr := freeCtr }
    = look ρ t) (d : Option (ElemP × Bool)) (e : Nat) (s : State) : look ρ (commitElem d e s) = look ρ s := by
  unfold commitElem
  (repeat' split) <;> first | with_reducible rfl | simp [*]

@[simp] theorem commitMeters_look {β : Type} (ρ : State → β) (hρ : ∀ (t : State) hi ev am counters out freeCtr, look ρ
    { t with hi := hi, ev := ev, am := am, counters := counters, out := out, freeCtr := freeCtr } = look ρ t) (img :
    Image) (s : State) : look ρ (commitMeters img s) = look ρ s := by
  unfold commitMeters
  (repeat' split) <;> first | with_reducible rfl | simp [*]

@[simp] theorem commitRest_look {β : Type} (ρ : State → β) (hρ : ∀ (t : State) hi ec ev pm ck counters out, look ρ { t with hi := hi, ec := ec, ev := ev, pm := pm, ck := ck, counters := counters, out := out }
    = look ρ t) (img : Image) (s : State) : look ρ (commitRest img s) = look ρ s := by
  unfold commitRest
  (repeat' split) <;> first | with_reducible rfl | simp [*]

@[simp] theorem commitImage_look {β : Type} (ρ : State → β) (hρ : ∀ (t : State) hi cfg tm ec ev pm ck ov cairn np si
    erg cv ts sc al aq am counters out freeCtr, look ρ { t with hi := hi, cfg := cfg, tm := tm, ec := ec, ev := ev, pm := pm, ck := ck, ov := ov, cairn := cairn, np := np, si := si, erg := erg, cv := cv, ts := ts, sc := sc, al := al, aq := aq, am := am, counters := counters, out := out, freeCtr := freeCtr }
    = look ρ t) (img : Image) (s : State) : look ρ (commitImage img s) = look ρ s := by
  unfold commitImage
  (repeat' split) <;> first | with_reducible rfl | simp [*]

@[simp] theorem finishCfgLoad_look {β : Type} (ρ : State → β) (hρ : ∀ (t : State) hi cfg tm ec ev pm ck ov cairn np si
    erg cv ts sc al aq am counters out, look ρ { t with hi := hi, cfg := cfg, tm := tm, ec := ec, ev := ev, pm := pm, ck := ck, ov := ov, cairn := cairn, np := np, si := si, erg := erg, cv := cv, ts := ts, sc := sc, al := al, aq := aq, am := am, counters := counters, out := out }
    = look ρ t) (o : OpEntry) (source : Nat) (given : Image) (fin : Finish) (s : State) : look ρ (finishCfgLoad o
    source given fin s) = look ρ s := by
  unfold finishCfgLoad
  (repeat' split) <;> first | with_reducible rfl | simp [*]

@[simp] theorem finishCfgCommit_look {β : Type} (ρ : State → β) (hρ : ∀ (t : State) hi cfg tm ec ev pm ck ov cairn np
    si erg cv ts sc al aq am counters out freeCtr, look ρ { t with hi := hi, cfg := cfg, tm := tm, ec := ec, ev := ev, pm := pm, ck := ck, ov := ov, cairn := cairn, np := np, si := si, erg := erg, cv := cv, ts := ts, sc := sc, al := al, aq := aq, am := am, counters := counters, out := out, freeCtr := freeCtr }
    = look ρ t) (o : OpEntry) (hwFault : Bool) (s : State) : look ρ (finishCfgCommit o hwFault s) = look ρ s := by
  unfold finishCfgCommit
  (repeat' split) <;> first | with_reducible rfl | simp [*]

@[simp] theorem reportState_look {β : Type} (ρ : State → β) (hρ : ∀ (t : State) hi cfg tm ec ev pm ck ov cairn np si
    erg cv ts sc al aq am counters out, look ρ { t with hi := hi, cfg := cfg, tm := tm, ec := ec, ev := ev, pm := pm, ck := ck, ov := ov, cairn := cairn, np := np, si := si, erg := erg, cv := cv, ts := ts, sc := sc, al := al, aq := aq, am := am, counters := counters, out := out }
    = look ρ t) (which : Nat) (s : State) : look ρ (reportState which s) = look ρ s := by
  unfold reportState
  split
  · simp [*]
  · cases s.cfg.staged <;> simp [*]

@[simp] theorem finishCfgReport_look {β : Type} (ρ : State → β) (hρ : ∀ (t : State) hi cfg tm ec ev pm ck ov cairn np
    si erg cv ts sc al aq am counters out, look ρ { t with hi := hi, cfg := cfg, tm := tm, ec := ec, ev := ev, pm := pm, ck := ck, ov := ov, cairn := cairn, np := np, si := si, erg := erg, cv := cv, ts := ts, sc := sc, al := al, aq := aq, am := am, counters := counters, out := out }
    = look ρ t) (o : OpEntry) (which addr : Nat) (s : State) : look ρ (finishCfgReport o which addr s) = look ρ s :=
    by
  unfold finishCfgReport
  (repeat' split) <;> first | with_reducible rfl | simp [*]

@[simp] theorem finishCfgStore_look {β : Type} (ρ : State → β) (hρ : ∀ (t : State) hi ev counters nor out, look ρ { t with hi := hi, ev := ev, counters := counters, nor := nor, out := out }
    = look ρ t) (o : OpEntry) (hwFault : Bool) (s : State) : look ρ (finishCfgStore o hwFault s) = look ρ s := by
  unfold finishCfgStore
  (repeat' split) <;> first | with_reducible rfl | simp [*]

@[simp] theorem procCfgLoad_look {β : Type} (ρ : State → β)  (h : Hdr) (source addr len : Nat) (_img : Image) (s :
    State) : (procCfgLoad h source addr len _img s).work.Look ρ := by
  simp [procCfgLoad, *]

@[simp] theorem procCfgCommit_look {β : Type} (ρ : State → β)  (h : Hdr) (s : State) : (procCfgCommit h s).work.Look ρ
    := by
  simp [procCfgCommit, Work.Look, *]

@[simp] theorem procCfgDiscard_look {β : Type} (ρ : State → β) (hρ : ∀ (t : State) cfg, look ρ { t with cfg := cfg } =
    look ρ t) (h : Hdr) (s : State) : (procCfgDiscard h s).work.Look ρ := by
  simp [procCfgDiscard, Work.Look, *]

@[simp] theorem procCfgReport_look {β : Type} (ρ : State → β)  (h : Hdr) (which addr len : Nat) (s : State) :
    (procCfgReport h which addr len s).work.Look ρ := by
  simp [procCfgReport, *]

@[simp] theorem procCfgQuery_look {β : Type} (ρ : State → β)  (h : Hdr) (which : Nat) (s : State) : (procCfgQuery h
    which s).work.Look ρ := by
  simp [procCfgQuery, Work.Look, *]

@[simp] theorem procCfgStore_look {β : Type} (ρ : State → β)  (h : Hdr) (s : State) : (procCfgStore h s).work.Look ρ
    := by
  simp [procCfgStore, Work.Look, *]

theorem execCfgLoad_look {β : Type} (ρ : State → β) (hρ : ∀ (t : State) hi ev pm ov cairn erg aq counters out freeCtr,
    look ρ { t with hi := hi, ev := ev, pm := pm, ov := ov, cairn := cairn, erg := erg, aq := aq, counters := counters, out := out, freeCtr := freeCtr }
    = look ρ t) (h : Hdr) (source addr len : Nat) (img : Image) (s : State) : ∃ σ, execCfgLoad h source addr len img s
    = .next σ ∧ look ρ σ = look ρ s := ⟨_, rfl, runProc_look ρ (by simp [hρ]) _ _ _ (procCfgLoad_look ρ _ _ _ _ _ _)⟩

theorem execCfgCommit_look {β : Type} (ρ : State → β) (hρ : ∀ (t : State) hi ev pm ov cairn erg aq counters out
    freeCtr, look ρ { t with hi := hi, ev := ev, pm := pm, ov := ov, cairn := cairn, erg := erg, aq := aq, counters := counters, out := out, freeCtr := freeCtr }
    = look ρ t) (h : Hdr) (s : State) : ∃ σ, execCfgCommit h s = .next σ ∧ look ρ σ = look ρ s := ⟨_, rfl, runProc_look ρ (by simp [hρ]) _ _ _ (procCfgCommit_look ρ _ _)⟩

theorem execCfgDiscard_look {β : Type} (ρ : State → β) (hρ : ∀ (t : State) hi cfg ev pm ov cairn erg aq counters out
    freeCtr, look ρ { t with hi := hi, cfg := cfg, ev := ev, pm := pm, ov := ov, cairn := cairn, erg := erg, aq := aq, counters := counters, out := out, freeCtr := freeCtr }
    = look ρ t) (h : Hdr) (s : State) : ∃ σ, execCfgDiscard h s = .next σ ∧ look ρ σ = look ρ s := ⟨_, rfl, runProc_look ρ (by simp [hρ]) _ _ _ (procCfgDiscard_look ρ (by simp [hρ]) _ _)⟩

theorem execCfgReport_look {β : Type} (ρ : State → β) (hρ : ∀ (t : State) hi ev pm ov cairn erg aq counters out
    freeCtr, look ρ { t with hi := hi, ev := ev, pm := pm, ov := ov, cairn := cairn, erg := erg, aq := aq, counters := counters, out := out, freeCtr := freeCtr }
    = look ρ t) (h : Hdr) (which addr len : Nat) (s : State) : ∃ σ, execCfgReport h which addr len s = .next σ ∧ look
    ρ σ = look ρ s := ⟨_, rfl, runProc_look ρ (by simp [hρ]) _ _ _ (procCfgReport_look ρ _ _ _ _ _)⟩

theorem execCfgQuery_look {β : Type} (ρ : State → β) (hρ : ∀ (t : State) hi ev pm ov cairn erg aq counters out
    freeCtr, look ρ { t with hi := hi, ev := ev, pm := pm, ov := ov, cairn := cairn, erg := erg, aq := aq, counters := counters, out := out, freeCtr := freeCtr }
    = look ρ t) (h : Hdr) (which : Nat) (s : State) : ∃ σ, execCfgQuery h which s = .next σ ∧ look ρ σ = look ρ s := ⟨_, rfl, runProc_look ρ (by simp [hρ]) _ _ _ (procCfgQuery_look ρ _ _ _)⟩

theorem execCfgStore_look {β : Type} (ρ : State → β) (hρ : ∀ (t : State) hi ev pm ov cairn erg aq counters out
    freeCtr, look ρ { t with hi := hi, ev := ev, pm := pm, ov := ov, cairn := cairn, erg := erg, aq := aq, counters := counters, out := out, freeCtr := freeCtr }
    = look ρ t) (h : Hdr) (s : State) : ∃ σ, execCfgStore h s = .next σ ∧ look ρ σ = look ρ s := ⟨_, rfl, runProc_look ρ (by simp [hρ]) _ _ _ (procCfgStore_look ρ _ _)⟩

end Sys2Proof.Machine
end

