-- ==== Sys2Proof/Laws/LookBoot.lean ====
section
/-! SUPPORT. What the operations of Machine/Boot.lean leave alone. -/

namespace Sys2Proof.Machine

@[simp] theorem bootClocks_look {β : Type} (ρ : State → β) (hρ : ∀ (t : State) ck, look ρ { t with ck := ck } = look ρ
    t) (s : State) : look ρ (bootClocks s) = look ρ s := by
  unfold bootClocks
  (repeat' split) <;> first | with_reducible rfl | simp [*]

@[simp] theorem loseRoot_look {β : Type} (ρ : State → β) (hρ : ∀ (t : State) ov, look ρ { t with ov := ov } = look ρ
    t) (s : State) : look ρ (loseRoot s) = look ρ s := by
  unfold loseRoot
  (repeat' split) <;> first | with_reducible rfl | simp [*]

@[simp] theorem bootVault_look {β : Type} (ρ : State → β) (hρ : ∀ (t : State) ov counters freeCtr, look ρ { t with ov := ov, counters := counters, freeCtr := freeCtr }
    = look ρ t) (rootOk ownerOk : Bool) (s : State) : look ρ (bootVault rootOk ownerOk s) = look ρ s := by
  simp only [bootVault]
  (repeat' split) <;> first | with_reducible rfl | simp [*]

@[simp] theorem bootMacros_look {β : Type} (ρ : State → β) (hρ : ∀ (t : State) hi ec ev cv counters out, look ρ { t with hi := hi, ec := ec, ev := ev, cv := cv, counters := counters, out := out }
    = look ρ t) (bad : List Nat) (s : State) : look ρ (bootMacros bad s) = look ρ s := by
  unfold bootMacros
  (repeat' split) <;> first | with_reducible rfl | simp [*]

@[simp] theorem bootEngines_look {β : Type} (ρ : State → β) (hρ : ∀ (t : State) cv counters, look ρ { t with cv := cv, counters := counters }
    = look ρ t) (passed bad : List Nat) (s : State) : look ρ (bootEngines passed bad s) = look ρ s := by
  unfold bootEngines
  (repeat' split) <;> first | with_reducible rfl | simp [*]

@[simp] theorem bootCairn_look {β : Type} (ρ : State → β) (hρ : ∀ (t : State) hi tm ev cairn am counters out, look ρ { t with hi := hi, tm := tm, ev := ev, cairn := cairn, am := am, counters := counters, out := out }
    = look ρ t) (s : State) : look ρ (bootCairn s) = look ρ s := by
  unfold bootCairn
  (repeat' split) <;> first | with_reducible rfl | simp [*]

@[simp] theorem oweOutages_look {β : Type} (ρ : State → β) (hρ : ∀ (t : State) am, look ρ { t with am := am } = look ρ
    t) (s : State) : look ρ (oweOutages s) = look ρ s := by
  unfold oweOutages
  (repeat' split) <;> first | with_reducible rfl | simp [*]

@[simp] theorem recordImage_look {β : Type} (ρ : State → β) (hρ : ∀ (t : State) hi ev counters out, look ρ { t with hi := hi, ev := ev, counters := counters, out := out }
    = look ρ t) (st : Option Nat) (s : State) : look ρ (recordImage st s) = look ρ s := by
  unfold recordImage
  (repeat' split) <;> first | with_reducible rfl | simp [*]

@[simp] theorem bootInto_look {β : Type} (ρ : State → β) (hρ : ∀ (t : State) hi cfg tm ec ev pm ck ov cairn np si erg
    cv ts sc al aq am counters out freeCtr, look ρ { t with hi := hi, cfg := cfg, tm := tm, ec := ec, ev := ev, pm := pm, ck := ck, ov := ov, cairn := cairn, np := np, si := si, erg := erg, cv := cv, ts := ts, sc := sc, al := al, aq := aq, am := am, counters := counters, out := out, freeCtr := freeCtr }
    = look ρ t) (img : Image) (s : State) : look ρ (bootInto img s) = look ρ s := by
  unfold bootInto
  (repeat' split) <;> first | with_reducible rfl | simp [*]

@[simp] theorem bootExit_look {β : Type} (ρ : State → β) (hρ : ∀ (t : State) hi cfg tm ec ev pm ck ov cairn np si erg
    cv ts sc al aq am counters out freeCtr, look ρ { t with hi := hi, cfg := cfg, tm := tm, ec := ec, ev := ev, pm := pm, ck := ck, ov := ov, cairn := cairn, np := np, si := si, erg := erg, cv := cv, ts := ts, sc := sc, al := al, aq := aq, am := am, counters := counters, out := out, freeCtr := freeCtr }
    = look ρ t) (img : Option Image) (failed : Bool) (s : State) : look ρ (bootExit img failed s) = look ρ s := by
  unfold bootExit
  (repeat' split) <;> first | with_reducible rfl | simp [*]

@[simp] theorem bootNotices_look {β : Type} (ρ : State → β) (hρ : ∀ (t : State) hi ev ov counters out, look ρ { t with hi := hi, ev := ev, ov := ov, counters := counters, out := out }
    = look ρ t) (s : State) : look ρ (bootNotices s) = look ρ s := by
  unfold bootNotices
  (repeat' split) <;> first | with_reducible rfl | simp [*]

@[simp] theorem bootOpen_look {β : Type} (ρ : State → β) (hρ : ∀ (t : State) ec pm, look ρ { t with ec := ec, pm := pm }
    = look ρ t) (s : State) : look ρ (bootOpen s) = look ρ s := by
  unfold bootOpen
  (repeat' split) <;> first | with_reducible rfl | simp [*]

@[simp] theorem boot_look {β : Type} (ρ : State → β) (hρ : ∀ (t : State) hi cfg tm ec ev pm ck ov cairn np si erg cv
    ts sc al aq am counters out freeCtr, look ρ { t with hi := hi, cfg := cfg, tm := tm, ec := ec, ev := ev, pm := pm, ck := ck, ov := ov, cairn := cairn, np := np, si := si, erg := erg, cv := cv, ts := ts, sc := sc, al := al, aq := aq, am := am, counters := counters, out := out, freeCtr := freeCtr }
    = look ρ t) (enginesPass badMacros : List Nat) (rootOk ownerOk : Bool) (img : Option Image) (s : State) : look ρ
    (boot enginesPass badMacros rootOk ownerOk img s) = look ρ s := by
  unfold boot
  (repeat' split) <;> first | with_reducible rfl | simp [*]

theorem execBoot_look {β : Type} (ρ : State → β) (hρ : ∀ (t : State) hi cfg tm ec ev pm ck pins ov cairn np si erg cv
    ts sc al aq am counters out freeCtr, look ρ { t with hi := hi, cfg := cfg, tm := tm, ec := ec, ev := ev, pm := pm, ck := ck, pins := pins, ov := ov, cairn := cairn, np := np, si := si, erg := erg, cv := cv, ts := ts, sc := sc, al := al, aq := aq, am := am, counters := counters, out := out, freeCtr := freeCtr }
    = look ρ t) (enginesPass badMacros : List Nat) (rootOk ownerOk : Bool) (img : Option Image) (s : State) : ∃ σ,
    execBoot enginesPass badMacros rootOk ownerOk img s = .next σ ∧ look ρ σ = look ρ s := by
  refine ⟨_, rfl, ?_⟩; (repeat' split) <;> first | with_reducible rfl | simp [*]

end Sys2Proof.Machine
end

