-- ==== Sys2Proof/Laws/LookJtag.lean ====
section
/-! SUPPORT. What the operations of Machine/Jtag.lean leave alone. -/

namespace Sys2Proof.Machine

@[simp] theorem jtagSelect_look {β : Type} (ρ : State → β) (hρ : ∀ (t : State) jtag, look ρ { t with jtag := jtag } =
    look ρ t) (ir padMode : Nat) (s : State) : look ρ (jtagSelect ir padMode s) = look ρ s := by
  unfold jtagSelect
  (repeat' split) <;> first | with_reducible rfl | simp [*]

@[simp] theorem jtagOut_look {β : Type} (ρ : State → β) (hρ : ∀ (t : State) out, look ρ { t with out := out } = look ρ
    t) (v : Nat) (s : State) : look ρ (jtagOut v s) = look ρ s := by
  unfold jtagOut
  (repeat' split) <;> first | with_reducible rfl | simp [*]

@[simp] theorem jtagCapture_look {β : Type} (ρ : State → β) (hρ : ∀ (t : State) out freeCtr, look ρ { t with out := out, freeCtr := freeCtr }
    = look ρ t) (s : State) : look ρ (jtagCapture s) = look ρ s := by
  unfold jtagCapture
  (repeat' split) <;> first | with_reducible rfl | simp [*]

@[simp] theorem frzOut_look {β : Type} (ρ : State → β) (hρ : ∀ (t : State) out, look ρ { t with out := out } = look ρ
    t) (v : Nat) (s : State) : look ρ (frzOut v s) = look ρ s := by
  unfold frzOut
  (repeat' split) <;> first | with_reducible rfl | simp [*]

theorem execJtagExtest_look {β : Type} (ρ : State → β) (hρ : ∀ (t : State) jtag out freeCtr, look ρ { t with jtag := jtag, out := out, freeCtr := freeCtr }
    = look ρ t) (pads : Nat) (s : State) : ∃ σ, execJtagExtest pads s = .next σ ∧ look ρ σ = look ρ s := by
  refine ⟨_, rfl, ?_⟩; (repeat' split) <;> first | with_reducible rfl | simp [*]

theorem execJtagIdcode_look {β : Type} (ρ : State → β) (hρ : ∀ (t : State) jtag out, look ρ { t with jtag := jtag, out := out }
    = look ρ t) (s : State) : ∃ σ, execJtagIdcode s = .next σ ∧ look ρ σ = look ρ s := by
  refine ⟨_, rfl, ?_⟩; (repeat' split) <;> first | with_reducible rfl | simp [*]

theorem execJtagSamplePreload_look {β : Type} (ρ : State → β) (hρ : ∀ (t : State) jtag out freeCtr, look ρ { t with jtag := jtag, out := out, freeCtr := freeCtr }
    = look ρ t) (value : Nat) (s : State) : ∃ σ, execJtagSamplePreload value s = .next σ ∧ look ρ σ = look ρ s := by
  refine ⟨_, rfl, ?_⟩; (repeat' split) <;> first | with_reducible rfl | simp [*]

theorem execJtagClamp_look {β : Type} (ρ : State → β) (hρ : ∀ (t : State) jtag, look ρ { t with jtag := jtag } = look
    ρ t) (s : State) : ∃ σ, execJtagClamp s = .next σ ∧ look ρ σ = look ρ s := by
  refine ⟨_, rfl, ?_⟩; (repeat' split) <;> first | with_reducible rfl | simp [*]

theorem execJtagHighz_look {β : Type} (ρ : State → β) (hρ : ∀ (t : State) jtag, look ρ { t with jtag := jtag } = look
    ρ t) (s : State) : ∃ σ, execJtagHighz s = .next σ ∧ look ρ σ = look ρ s := by
  refine ⟨_, rfl, ?_⟩; (repeat' split) <;> first | with_reducible rfl | simp [*]

theorem execJtagFrzScan_look {β : Type} (ρ : State → β) (hρ : ∀ (t : State) jtag out, look ρ { t with jtag := jtag, out := out }
    = look ρ t) (chain : Nat) (s : State) : ∃ σ, execJtagFrzScan chain s = .next σ ∧ look ρ σ = look ρ s := by
  refine ⟨_, rfl, ?_⟩; (repeat' split) <;> first | with_reducible rfl | simp [*]

theorem execJtagFrzMem_look {β : Type} (ρ : State → β) (hρ : ∀ (t : State) jtag out, look ρ { t with jtag := jtag, out := out }
    = look ρ t) (mac word : Nat) (s : State) : ∃ σ, execJtagFrzMem mac word s = .next σ ∧ look ρ σ = look ρ s := by
  refine ⟨_, rfl, ?_⟩; (repeat' split) <;> first | with_reducible rfl | simp [*]

theorem execJtagFrzReg_look {β : Type} (ρ : State → β) (hρ : ∀ (t : State) jtag out freeCtr, look ρ { t with jtag := jtag, out := out, freeCtr := freeCtr }
    = look ρ t) (offset : Nat) (s : State) : ∃ σ, execJtagFrzReg offset s = .next σ ∧ look ρ σ = look ρ s := by
  refine ⟨_, rfl, ?_⟩; (repeat' split) <;> first | with_reducible rfl | simp [*]

theorem execJtagDebug_look {β : Type} (ρ : State → β) (hρ : ∀ (t : State) jtag out freeCtr, look ρ { t with jtag := jtag, out := out, freeCtr := freeCtr }
    = look ρ t) (code : Nat) (s : State) : ∃ σ, execJtagDebug code s = .next σ ∧ look ρ σ = look ρ s := by
  refine ⟨_, rfl, ?_⟩; (repeat' split) <;> first | with_reducible rfl | simp [*]

theorem execJtagBypass_look {β : Type} (ρ : State → β) (hρ : ∀ (t : State) jtag out, look ρ { t with jtag := jtag, out := out }
    = look ρ t) (tdi : Bool) (s : State) : ∃ σ, execJtagBypass tdi s = .next σ ∧ look ρ σ = look ρ s := by
  refine ⟨_, rfl, ?_⟩; (repeat' split) <;> first | with_reducible rfl | simp [*]

end Sys2Proof.Machine
end

