-- ==== Sys2Proof/Laws/LookHost.lean ====
section
/-! SUPPORT. What the operations of Machine/Host.lean leave alone. -/

namespace Sys2Proof.Machine

@[simp] theorem stopRing_look {β : Type} (ρ : State → β) (hρ : ∀ (t : State) hi out, look ρ { t with hi := hi, out := out }
    = look ρ t) (n : Nat) (s : State) : look ρ (stopRing n s) = look ρ s := by
  unfold stopRing
  (repeat' split) <;> first | with_reducible rfl | simp [*]

@[simp] theorem regWrite_look {β : Type} (ρ : State → β) (hρ : ∀ (t : State) hi out, look ρ { t with hi := hi, out := out }
    = look ρ t) (off : Nat) (f : State → State) (s : State) (hf : ∀ t, look ρ (f t) = look ρ t) : look ρ (regWrite off
    f s) = look ρ s := by
  unfold regWrite
  (repeat' split) <;> first | with_reducible rfl | simp [*]

@[simp] theorem sqDoorbell_look {β : Type} (ρ : State → β) (hρ : ∀ (t : State) hi out, look ρ { t with hi := hi, out := out }
    = look ρ t) (n tail : Nat) (s : State) : look ρ (sqDoorbell n tail s) = look ρ s := by
  unfold sqDoorbell
  (repeat' split) <;> first | with_reducible rfl | simp [*]

@[simp] theorem cqDoorbell_look {β : Type} (ρ : State → β) (hρ : ∀ (t : State) hi out, look ρ { t with hi := hi, out := out }
    = look ρ t) (n head : Nat) (s : State) : look ρ (cqDoorbell n head s) = look ρ s := by
  unfold cqDoorbell
  (repeat' split) <;> first | with_reducible rfl | simp [*]

@[simp] theorem sqConfig_look {β : Type} (ρ : State → β) (hρ : ∀ (t : State) hi out, look ρ { t with hi := hi, out := out }
    = look ρ t) (n v : Nat) (s : State) : look ρ (sqConfig n v s) = look ρ s := by
  unfold sqConfig
  (repeat' split) <;> first | with_reducible rfl | simp [*]

@[simp] theorem cqConfig_look {β : Type} (ρ : State → β) (hρ : ∀ (t : State) hi out, look ρ { t with hi := hi, out := out }
    = look ρ t) (n v : Nat) (s : State) : look ρ (cqConfig n v s) = look ρ s := by
  unfold cqConfig
  (repeat' split) <;> first | with_reducible rfl | simp [*]

@[simp] theorem ringBase_look {β : Type} (ρ : State → β) (hρ : ∀ (t : State) hi, look ρ { t with hi := hi } = look ρ
    t) (n o value : Nat) (s : State) : look ρ (ringBase n o value s) = look ρ s := by
  unfold ringBase
  (repeat' split) <;> first | with_reducible rfl | simp [*]

@[simp] theorem popRead_look {β : Type} (ρ : State → β) (hρ : ∀ (t : State) hi out, look ρ { t with hi := hi, out := out }
    = look ρ t) (q bytes : Nat) (aligned : Bool) (s : State) : look ρ (popRead q bytes aligned s) = look ρ s := by
  unfold popRead
  (repeat' split) <;> first | with_reducible rfl | simp [*]

@[simp] theorem nqConfig_look {β : Type} (ρ : State → β) (hρ : ∀ (t : State) hi out, look ρ { t with hi := hi, out := out }
    = look ρ t) (q v : Nat) (s : State) : look ρ (nqConfig q v s) = look ρ s := by
  unfold nqConfig
  (repeat' split) <;> first | with_reducible rfl | simp [*]

@[simp] theorem putPtRing_look {β : Type} (ρ : State → β) (hρ : ∀ (t : State) np, look ρ { t with np := np } = look ρ
    t) (rx : Bool) (k : Nat) (g : PtRing) (s : State) : look ρ (putPtRing rx k g s) = look ρ s := by
  unfold putPtRing
  (repeat' split) <;> first | with_reducible rfl | simp [*]

@[simp] theorem ptDoorbell_look {β : Type} (ρ : State → β) (hρ : ∀ (t : State) hi ev np counters out, look ρ { t with hi := hi, ev := ev, np := np, counters := counters, out := out }
    = look ρ t) (rx : Bool) (k tail : Nat) (s : State) : look ρ (ptDoorbell rx k tail s) = look ρ s := by
  unfold ptDoorbell
  (repeat' split) <;> first | with_reducible rfl | simp [*]

@[simp] theorem ptConfig_look {β : Type} (ρ : State → β) (hρ : ∀ (t : State) np, look ρ { t with np := np } = look ρ
    t) (rx : Bool) (k v : Nat) (s : State) : look ρ (ptConfig rx k v s) = look ρ s := by
  unfold ptConfig
  (repeat' split) <;> first | with_reducible rfl | simp [*]

@[simp] theorem ptBase_look {β : Type} (ρ : State → β) (hρ : ∀ (t : State) np, look ρ { t with np := np } = look ρ t)
    (rx : Bool) (k value : Nat) (high : Bool) (s : State) : look ρ (ptBase rx k value high s) = look ρ s := by
  unfold ptBase
  (repeat' split) <;> first | with_reducible rfl | simp [*]

@[simp] theorem latchTime_look {β : Type} (ρ : State → β) (hρ : ∀ (t : State) tm, look ρ { t with tm := tm } = look ρ
    t) (s : State) : look ρ (latchTime s) = look ρ s := by
  unfold latchTime
  (repeat' split) <;> first | with_reducible rfl | simp [*]

@[simp] theorem latchCount_look {β : Type} (ρ : State → β) (hρ : ∀ (t : State) am, look ρ { t with am := am } = look ρ
    t) (el reg : Nat) (s : State) : look ρ (latchCount el reg s) = look ρ s := by
  unfold latchCount
  (repeat' split) <;> first | with_reducible rfl | simp [*]

@[simp] theorem readBar_look {β : Type} (ρ : State → β) (hρ : ∀ (t : State) hi tm am out freeCtr, look ρ { t with hi := hi, tm := tm, am := am, out := out, freeCtr := freeCtr }
    = look ρ t) (off : Nat) (s : State) : look ρ (readBar off s).2 = look ρ s := by
  simp only [readBar]
  (repeat' split) <;> first | with_reducible rfl | simp [*]

@[simp] theorem hostRead_look {β : Type} (ρ : State → β) (hρ : ∀ (t : State) hi tm am out freeCtr, look ρ { t with hi := hi, tm := tm, am := am, out := out, freeCtr := freeCtr }
    = look ρ t) (off : Nat) (s : State) : look ρ (hostRead off s) = look ρ s := by
  simp only [hostRead]
  (repeat' split) <;> first | with_reducible rfl | simp [*]

@[simp] theorem readBar2_look {β : Type} (ρ : State → β) (hρ : ∀ (t : State) ctrLatch, look ρ { t with ctrLatch := ctrLatch }
    = look ρ t) (a : Nat) (s : State) : look ρ (readBar2 a s).2 = look ρ s := by
  unfold readBar2
  (repeat' split) <;> first | with_reducible rfl | simp [*]

@[simp] theorem siSel_look {β : Type} (ρ : State → β) (hρ : ∀ (t : State) si, look ρ { t with si := si } = look ρ t)
    (v : Nat) (s : State) : look ρ (siSel v s) = look ρ s := by
  unfold siSel
  (repeat' split) <;> first | with_reducible rfl | simp [*]

@[simp] theorem scSel_look {β : Type} (ρ : State → β) (hρ : ∀ (t : State) sc, look ρ { t with sc := sc } = look ρ t)
    (v : Nat) (s : State) : look ρ (scSel v s) = look ρ s := by
  unfold scSel
  (repeat' split) <;> first | with_reducible rfl | simp [*]

@[simp] theorem alSel_look {β : Type} (ρ : State → β) (hρ : ∀ (t : State) al, look ρ { t with al := al } = look ρ t)
    (v : Nat) (s : State) : look ρ (alSel v s) = look ρ s := by
  unfold alSel
  (repeat' split) <;> first | with_reducible rfl | simp [*]

@[simp] theorem ovSel_look {β : Type} (ρ : State → β) (hρ : ∀ (t : State) ov, look ρ { t with ov := ov } = look ρ t)
    (v : Nat) (s : State) : look ρ (ovSel v s) = look ρ s := by
  unfold ovSel
  (repeat' split) <;> first | with_reducible rfl | simp [*]

@[simp] theorem ecSel_look {β : Type} (ρ : State → β) (hρ : ∀ (t : State) ec, look ρ { t with ec := ec } = look ρ t)
    (v : Nat) (s : State) : look ρ (ecSel v s) = look ρ s := by
  unfold ecSel
  (repeat' split) <;> first | with_reducible rfl | simp [*]

@[simp] theorem writeHi_look {β : Type} (ρ : State → β) (hρ : ∀ (t : State) hi out, look ρ { t with hi := hi, out := out }
    = look ρ t) (o v : Nat) (s : State) : look ρ (writeHi o v s) = look ρ s := by
  unfold writeHi
  (repeat' split) <;> first | with_reducible rfl | simp [*]

@[simp] theorem writeNp_look {β : Type} (ρ : State → β) (hρ : ∀ (t : State) hi ev np counters out, look ρ { t with hi := hi, ev := ev, np := np, counters := counters, out := out }
    = look ρ t) (o v : Nat) (s : State) : look ρ (writeNp o v s) = look ρ s := by
  unfold writeNp
  (repeat' split) <;> first | with_reducible rfl | simp [*]

@[simp] theorem writeReg_look {β : Type} (ρ : State → β) (hρ : ∀ (t : State) hi ec ev ov np si sc al counters out,
    look ρ { t with hi := hi, ec := ec, ev := ev, ov := ov, np := np, si := si, sc := sc, al := al, counters := counters, out := out }
    = look ρ t) (off v : Nat) (s : State) : look ρ (writeReg off v s) = look ρ s := by
  unfold writeReg
  (repeat' split) <;> first | with_reducible rfl | simp [*]

@[simp] theorem writeMsix_look {β : Type} (ρ : State → β) (hρ : ∀ (t : State) hi out, look ρ { t with hi := hi, out := out }
    = look ρ t) (a v : Nat) (s : State) : look ρ (writeMsix a v s) = look ρ s := by
  unfold writeMsix
  (repeat' split) <;> first | with_reducible rfl | simp [*]

@[simp] theorem writeBar2_look {β : Type} (ρ : State → β) (hρ : ∀ (t : State) hi out, look ρ { t with hi := hi, out := out }
    = look ρ t) (a v : Nat) (s : State) : look ρ (writeBar2 a v s) = look ρ s := by
  unfold writeBar2
  (repeat' split) <;> first | with_reducible rfl | simp [*]

@[simp] theorem readRegs_look {β : Type} (ρ : State → β) (hρ : ∀ (t : State) hi tm am out freeCtr, look ρ { t with hi := hi, tm := tm, am := am, out := out, freeCtr := freeCtr }
    = look ρ t) (n off : Nat) (s : State) : look ρ (readRegs n off s).2 = look ρ s := by
  induction n generalizing off s with
  | zero => simp [readRegs]
  | succ n ih => simp only [readRegs]; (repeat' split) <;> simp [*]

@[simp] theorem mbSubmit_look {β : Type} (ρ : State → β) (hρ : ∀ (t : State) hi, look ρ { t with hi := hi } = look ρ
    t) (p : Packet) (s : State) : look ρ (mbSubmit p s) = look ρ s := by
  unfold mbSubmit
  (repeat' split) <;> first | with_reducible rfl | simp [*]

@[simp] theorem mbFetch_look {β : Type} (ρ : State → β) (hρ : ∀ (t : State) hi out, look ρ { t with hi := hi, out := out }
    = look ρ t) (s : State) : look ρ (mbFetch s) = look ρ s := by
  simp only [mbFetch]
  (repeat' split) <;> first | with_reducible rfl | simp [*]

@[simp] theorem mgmtData_look {β : Type} (ρ : State → β) (hρ : ∀ (t : State) hi tm am out freeCtr, look ρ { t with hi := hi, tm := tm, am := am, out := out, freeCtr := freeCtr }
    = look ρ t) (c : MgmtSel) (count : Nat) (s : State) : look ρ (mgmtData c count s) = look ρ s := by
  simp only [mgmtData]
  (repeat' split) <;> first | with_reducible rfl | simp [*]

@[simp] theorem mgmtTake_look {β : Type} (ρ : State → β) (hρ : ∀ (t : State) hi, look ρ { t with hi := hi } = look ρ
    t) (c : Instr) (s : State) : look ρ (mgmtTake c s) = look ρ s := by
  unfold mgmtTake
  (repeat' split) <;> first | with_reducible rfl | simp [*]

@[simp] theorem mgmtBody_look {β : Type} (ρ : State → β) (hρ : ∀ (t : State) hi tm am out freeCtr, look ρ { t with hi := hi, tm := tm, am := am, out := out, freeCtr := freeCtr }
    = look ρ t) (via : Mgmt) (c : Instr) (s : State) : look ρ (mgmtBody via c s) = look ρ s := by
  unfold mgmtBody
  (repeat' split) <;> first | with_reducible rfl | simp [*]

@[simp] theorem mgmtLsw_look {β : Type} (ρ : State → β) (hρ : ∀ (t : State) out, look ρ { t with out := out } = look ρ
    t) (via : Mgmt) (s : State) : look ρ (mgmtLsw via s) = look ρ s := by
  unfold mgmtLsw
  (repeat' split) <;> first | with_reducible rfl | simp [*]

@[simp] theorem mgmt_look {β : Type} (ρ : State → β) (hρ : ∀ (t : State) hi tm ev pm erg aq am counters out freeCtr,
    look ρ { t with hi := hi, tm := tm, ev := ev, pm := pm, erg := erg, aq := aq, am := am, counters := counters, out := out, freeCtr := freeCtr }
    = look ρ t) (via : Mgmt) (c : Instr) (s : State) : look ρ (mgmt via c s) = look ρ s := by
  unfold mgmt
  (repeat' split) <;> first | with_reducible rfl | simp [*]

theorem execCommandFetch_look {β : Type} (ρ : State → β) (hρ : ∀ (t : State) hi out, look ρ { t with hi := hi, out := out }
    = look ρ t) (ring : Nat) (p : Packet) (readOk : Bool) (s : State) : ∃ σ, execCommandFetch ring p readOk s = .next
    σ ∧ look ρ σ = look ρ s := by
  refine ⟨_, rfl, ?_⟩; (repeat' split) <;> first | with_reducible rfl | simp [*]

theorem execFenceRelease_look {β : Type} (ρ : State → β) (hρ : ∀ (t : State) hi, look ρ { t with hi := hi } = look ρ
    t) (ring : Nat) (s : State) : ∃ σ, execFenceRelease ring s = .next σ ∧ look ρ σ = look ρ s := by
  refine ⟨_, rfl, ?_⟩; repeat' first
    | with_reducible rfl | (simp [*]; done) | split | rw [look_foldl] | intro _ | dsimp only

theorem execHiSqDbWrite_look {β : Type} (ρ : State → β) (hρ : ∀ (t : State) hi out, look ρ { t with hi := hi, out := out }
    = look ρ t) (ring tail : Nat) (s : State) : ∃ σ, execHiSqDbWrite ring tail s = .next σ ∧ look ρ σ = look ρ s := by
  refine ⟨_, rfl, ?_⟩; (repeat' split) <;> first | with_reducible rfl | simp [*]

theorem execHiCqDbWrite_look {β : Type} (ρ : State → β) (hρ : ∀ (t : State) hi out, look ρ { t with hi := hi, out := out }
    = look ρ t) (ring head : Nat) (s : State) : ∃ σ, execHiCqDbWrite ring head s = .next σ ∧ look ρ σ = look ρ s := by
  refine ⟨_, rfl, ?_⟩; (repeat' split) <;> first | with_reducible rfl | simp [*]

theorem execHiSqCfgWrite_look {β : Type} (ρ : State → β) (hρ : ∀ (t : State) hi out, look ρ { t with hi := hi, out := out }
    = look ρ t) (ring value : Nat) (s : State) : ∃ σ, execHiSqCfgWrite ring value s = .next σ ∧ look ρ σ = look ρ s := by
  refine ⟨_, rfl, ?_⟩; (repeat' split) <;> first | with_reducible rfl | simp [*]

theorem execHiCqCfgWrite_look {β : Type} (ρ : State → β) (hρ : ∀ (t : State) hi out, look ρ { t with hi := hi, out := out }
    = look ρ t) (ring value : Nat) (s : State) : ∃ σ, execHiCqCfgWrite ring value s = .next σ ∧ look ρ σ = look ρ s := by
  refine ⟨_, rfl, ?_⟩; (repeat' split) <;> first | with_reducible rfl | simp [*]

theorem execHiNqPopRead_look {β : Type} (ρ : State → β) (hρ : ∀ (t : State) hi out, look ρ { t with hi := hi, out := out }
    = look ρ t) (q bytes : Nat) (aligned : Bool) (s : State) : ∃ σ, execHiNqPopRead q bytes aligned s = .next σ ∧ look
    ρ σ = look ρ s := by
  refine ⟨_, rfl, ?_⟩; (repeat' split) <;> first | with_reducible rfl | simp [*]

theorem execHiNqCfgWrite_look {β : Type} (ρ : State → β) (hρ : ∀ (t : State) hi out, look ρ { t with hi := hi, out := out }
    = look ρ t) (q value : Nat) (s : State) : ∃ σ, execHiNqCfgWrite q value s = .next σ ∧ look ρ σ = look ρ s := by
  refine ⟨_, rfl, ?_⟩; (repeat' split) <;> first | with_reducible rfl | simp [*]

theorem execNqTimeout_look {β : Type} (ρ : State → β) (hρ : ∀ (t : State) hi out, look ρ { t with hi := hi, out := out }
    = look ρ t) (q : Nat) (s : State) : ∃ σ, execNqTimeout q s = .next σ ∧ look ρ σ = look ρ s := by
  refine ⟨_, rfl, ?_⟩; (repeat' split) <;> first | with_reducible rfl | simp [*]

theorem execNpPtDbWrite_look {β : Type} (ρ : State → β) (hρ : ∀ (t : State) hi ev np counters out, look ρ { t with hi := hi, ev := ev, np := np, counters := counters, out := out }
    = look ρ t) (rx : Bool) (k tail : Nat) (s : State) : ∃ σ, execNpPtDbWrite rx k tail s = .next σ ∧ look ρ σ = look
    ρ s := by
  refine ⟨_, rfl, ?_⟩; (repeat' split) <;> first | with_reducible rfl | simp [*]

theorem execNpPtCfgWrite_look {β : Type} (ρ : State → β) (hρ : ∀ (t : State) hi np out, look ρ { t with hi := hi, np := np, out := out }
    = look ρ t) (rx : Bool) (k value : Nat) (s : State) : ∃ σ, execNpPtCfgWrite rx k value s = .next σ ∧ look ρ σ =
    look ρ s := by
  refine ⟨_, rfl, ?_⟩; (repeat' split) <;> first | with_reducible rfl | simp [*]

theorem execTmFrcLoRead_look {β : Type} (ρ : State → β) (hρ : ∀ (t : State) hi tm am out freeCtr, look ρ { t with hi := hi, tm := tm, am := am, out := out, freeCtr := freeCtr }
    = look ρ t) (s : State) : ∃ σ, execTmFrcLoRead s = .next σ ∧ look ρ σ = look ρ s := by
  refine ⟨_, rfl, ?_⟩; (repeat' split) <;> first | with_reducible rfl | simp [*]

theorem execAmCountLowRead_look {β : Type} (ρ : State → β) (hρ : ∀ (t : State) hi tm am out freeCtr, look ρ { t with hi := hi, tm := tm, am := am, out := out, freeCtr := freeCtr }
    = look ρ t) (el reg : Nat) (s : State) : ∃ σ, execAmCountLowRead el reg s = .next σ ∧ look ρ σ = look ρ s := by
  refine ⟨_, rfl, ?_⟩; (repeat' split) <;> first | with_reducible rfl | simp [*]

theorem execCounterLowRead_look {β : Type} (ρ : State → β) (hρ : ∀ (t : State) ctrLatch out freeCtr, look ρ { t with ctrLatch := ctrLatch, out := out, freeCtr := freeCtr }
    = look ρ t) (r : Bar2Read) (s : State) : ∃ σ, execCounterLowRead r s = .next σ ∧ look ρ σ =
    look ρ s := by
  refine ⟨_, rfl, ?_⟩; repeat' first
    | with_reducible rfl | (simp [*]; done) | split | rw [look_foldl] | intro _ | dsimp only

theorem execSiSelWrite_look {β : Type} (ρ : State → β) (hρ : ∀ (t : State) hi si out, look ρ { t with hi := hi, si := si, out := out }
    = look ρ t) (value : Nat) (s : State) : ∃ σ, execSiSelWrite value s = .next σ ∧ look ρ σ = look ρ s := by
  refine ⟨_, rfl, ?_⟩; (repeat' split) <;> first | with_reducible rfl | simp [*]

theorem execScSelWrite_look {β : Type} (ρ : State → β) (hρ : ∀ (t : State) hi sc out, look ρ { t with hi := hi, sc := sc, out := out }
    = look ρ t) (value : Nat) (s : State) : ∃ σ, execScSelWrite value s = .next σ ∧ look ρ σ = look ρ s := by
  refine ⟨_, rfl, ?_⟩; (repeat' split) <;> first | with_reducible rfl | simp [*]

theorem execAlSelWrite_look {β : Type} (ρ : State → β) (hρ : ∀ (t : State) hi al out, look ρ { t with hi := hi, al := al, out := out }
    = look ρ t) (value : Nat) (s : State) : ∃ σ, execAlSelWrite value s = .next σ ∧ look ρ σ = look ρ s := by
  refine ⟨_, rfl, ?_⟩; (repeat' split) <;> first | with_reducible rfl | simp [*]

theorem execOvSelWrite_look {β : Type} (ρ : State → β) (hρ : ∀ (t : State) hi ov out, look ρ { t with hi := hi, ov := ov, out := out }
    = look ρ t) (value : Nat) (s : State) : ∃ σ, execOvSelWrite value s = .next σ ∧ look ρ σ = look ρ s := by
  refine ⟨_, rfl, ?_⟩; (repeat' split) <;> first | with_reducible rfl | simp [*]

theorem execEcSelWrite_look {β : Type} (ρ : State → β) (hρ : ∀ (t : State) hi ec out, look ρ { t with hi := hi, ec := ec, out := out }
    = look ρ t) (value : Nat) (s : State) : ∃ σ, execEcSelWrite value s = .next σ ∧ look ρ σ = look ρ s := by
  refine ⟨_, rfl, ?_⟩; (repeat' split) <;> first | with_reducible rfl | simp [*]

theorem execEvSpoolCurWrite_look {β : Type} (ρ : State → β) (hρ : ∀ (t : State) hi ev counters out, look ρ { t with hi := hi, ev := ev, counters := counters, out := out }
    = look ρ t) (value : Nat) (s : State) : ∃ σ, execEvSpoolCurWrite value s = .next σ ∧ look ρ σ = look ρ s := by
  refine ⟨_, rfl, ?_⟩; (repeat' split) <;> first | with_reducible rfl | simp [*]

theorem execRegisterWrite_look {β : Type} (ρ : State → β) (hρ : ∀ (t : State) hi ec ev ov np si sc al counters out,
    look ρ { t with hi := hi, ec := ec, ev := ev, ov := ov, np := np, si := si, sc := sc, al := al, counters := counters, out := out }
    = look ρ t) (offset value : Nat) (s : State) : ∃ σ, execRegisterWrite offset value s = .next σ ∧ look ρ σ = look ρ
    s := by
  refine ⟨_, rfl, ?_⟩; (repeat' split) <;> first | with_reducible rfl | simp [*]

theorem execFlr_look {β : Type} (ρ : State → β) (hρ : ∀ (t : State) hi, look ρ { t with hi := hi } = look ρ t) (_perst
    : Bool) (s : State) : ∃ σ, execFlr _perst s = .next σ ∧ look ρ σ = look ρ s := by
  refine ⟨_, rfl, ?_⟩; (repeat' split) <;> first | with_reducible rfl | simp [*]

theorem execMspiStatus_look {β : Type} (ρ : State → β) (hρ : ∀ (t : State) hi tm ev pm erg aq am counters out freeCtr,
    look ρ { t with hi := hi, tm := tm, ev := ev, pm := pm, erg := erg, aq := aq, am := am, counters := counters, out := out, freeCtr := freeCtr }
    = look ρ t) (c : MgmtByte) (s : State) : ∃ σ, execMspiStatus c s = .next σ ∧ look ρ σ
    = look ρ s := by
  refine ⟨_, rfl, ?_⟩; (repeat' split) <;> first | with_reducible rfl | simp [*]

theorem execMspiRead_look {β : Type} (ρ : State → β) (hρ : ∀ (t : State) hi tm ev pm erg aq am counters out freeCtr,
    look ρ { t with hi := hi, tm := tm, ev := ev, pm := pm, erg := erg, aq := aq, am := am, counters := counters, out := out, freeCtr := freeCtr }
    = look ρ t) (via : Mgmt) (offset count : Nat) (s : State) : ∃ σ, execMspiRead via offset count s = .next σ ∧ look
    ρ σ = look ρ s := by
  refine ⟨_, rfl, ?_⟩; (repeat' split) <;> first | with_reducible rfl | simp [*]

theorem execMbSubmit_look {β : Type} (ρ : State → β) (hρ : ∀ (t : State) hi tm ev pm erg aq am counters out freeCtr,
    look ρ { t with hi := hi, tm := tm, ev := ev, pm := pm, erg := erg, aq := aq, am := am, counters := counters, out := out, freeCtr := freeCtr }
    = look ρ t) (via : Mgmt) (p : Packet) (s : State) : ∃ σ, execMbSubmit via p s = .next σ ∧ look ρ σ = look ρ s := by
  refine ⟨_, rfl, ?_⟩; (repeat' split) <;> first | with_reducible rfl | simp [*]

theorem execMbFetch_look {β : Type} (ρ : State → β) (hρ : ∀ (t : State) hi tm ev pm erg aq am counters out freeCtr,
    look ρ { t with hi := hi, tm := tm, ev := ev, pm := pm, erg := erg, aq := aq, am := am, counters := counters, out := out, freeCtr := freeCtr }
    = look ρ t) (via : Mgmt) (s : State) : ∃ σ, execMbFetch via s = .next σ ∧ look ρ σ = look ρ s := by
  refine ⟨_, rfl, ?_⟩; (repeat' split) <;> first | with_reducible rfl | simp [*]

end Sys2Proof.Machine
end

