-- ==== Sys2Proof/Laws/LookFinal.lean ====
section
/-! SUPPORT. What the operations of Machine/Final.lean leave alone. -/

namespace Sys2Proof.Machine

@[simp] theorem finishHost_look {β : Type} (ρ : State → β) (hρ : ∀ (t : State) hi cfg tm ec ev pm ck ov cairn np si
    erg cv ts sc al aq am counters nor out freeCtr, look ρ { t with hi := hi, cfg := cfg, tm := tm, ec := ec, ev := ev, pm := pm, ck := ck, ov := ov, cairn := cairn, np := np, si := si, erg := erg, cv := cv, ts := ts, sc := sc, al := al, aq := aq, am := am, counters := counters, nor := nor, out := out, freeCtr := freeCtr }
    = look ρ t) (o : OpEntry) (fin : Finish) (s : State) : look ρ (finishHost o fin s) = look ρ s := by
  unfold finishHost
  (repeat' split) <;> first | with_reducible rfl | simp [*]

@[simp] theorem finishGrid_look {β : Type} (ρ : State → β) (hρ : ∀ (t : State) hi ec ev pm si erg cv ts sc aq counters
    out freeCtr, look ρ { t with hi := hi, ec := ec, ev := ev, pm := pm, si := si, erg := erg, cv := cv, ts := ts, sc := sc, aq := aq, counters := counters, out := out, freeCtr := freeCtr }
    = look ρ t) (o : OpEntry) (fin : Finish) (s : State) : look ρ (finishGrid o fin s) = look ρ s := by
  unfold finishGrid
  (repeat' split) <;> first | with_reducible rfl | simp [*]

@[simp] theorem finishRest_look {β : Type} (ρ : State → β) (hρ : ∀ (t : State) hi ev pm ck ov fuses cairn si aq am
    counters out freeCtr, look ρ { t with hi := hi, ev := ev, pm := pm, ck := ck, ov := ov, fuses := fuses, cairn := cairn, si := si, aq := aq, am := am, counters := counters, out := out, freeCtr := freeCtr }
    = look ρ t) (o : OpEntry) (fin : Finish) (s : State) : look ρ (finishRest o fin s) = look ρ s := by
  unfold finishRest
  (repeat' split) <;> first | with_reducible rfl | simp [*]

@[simp] theorem finishOp_look {β : Type} (ρ : State → β) (hρ : ∀ (t : State) hi cfg tm ec ev pm ck ov fuses cairn np
    si erg cv ts sc al aq am counters nor out freeCtr, look ρ { t with hi := hi, cfg := cfg, tm := tm, ec := ec, ev := ev, pm := pm, ck := ck, ov := ov, fuses := fuses, cairn := cairn, np := np, si := si, erg := erg, cv := cv, ts := ts, sc := sc, al := al, aq := aq, am := am, counters := counters, nor := nor, out := out, freeCtr := freeCtr }
    = look ρ t) (o : OpEntry) (fin : Finish) (s : State) : look ρ (finishOp o fin s) = look ρ s := by
  unfold finishOp
  (repeat' split) <;> first | with_reducible rfl | simp [*]

/-- Every host command of the opcode table leaves alone a reading that does not see what some host command may change. -/
theorem procOf_look {β : Type} (ρ : State → β) (hρ : ∀ (t : State) hi cfg tm ec ev pm ck ov cairn np si erg cv ts sc
    al aq am counters out freeCtr, look ρ { t with hi := hi, cfg := cfg, tm := tm, ec := ec, ev := ev, pm := pm, ck := ck, ov := ov, cairn := cairn, np := np, si := si, erg := erg, cv := cv, ts := ts, sc := sc, al := al, aq := aq, am := am, counters := counters, out := out, freeCtr := freeCtr }
    = look ρ t) (c : Instr) (s : State) (p : Proc) (h : procOf c s = some p) : p.work.Look ρ := by
  cases c <;> simp only [procOf, Option.some.injEq, reduceCtorEq] at h <;> subst h <;> simp [*]

@[simp] theorem runWoken_look {β : Type} (ρ : State → β) (hρ : ∀ (t : State) hi cfg tm ec ev pm ck ov cairn np si erg
    cv ts sc al aq am counters out freeCtr, look ρ { t with hi := hi, cfg := cfg, tm := tm, ec := ec, ev := ev, pm := pm, ck := ck, ov := ov, cairn := cairn, np := np, si := si, erg := erg, cv := cv, ts := ts, sc := sc, al := al, aq := aq, am := am, counters := counters, out := out, freeCtr := freeCtr }
    = look ρ t) (o : OpEntry) (s : State) : look ρ (runWoken o s) = look ρ s := by
  unfold runWoken
  split
  · simp [*]
  · rename_i p hp
    have hk := procOf_look ρ (by simp [hρ]) _ _ _ hp
    split
    · simp [*]
    · split <;> rename_i hw <;> rw [hw] at hk <;> simp only [Work.Look] at hk
      · dsimp only; split <;> simp [*]
      · split <;> simp [*]

@[simp] theorem endWakes_look {β : Type} (ρ : State → β) (hρ : ∀ (t : State) hi ev counters out, look ρ { t with hi := hi, ev := ev, counters := counters, out := out }
    = look ρ t) (status : Nat) (s : State) : look ρ (endWakes status s) = look ρ s := by
  unfold endWakes
  (repeat' split) <;> first | with_reducible rfl | simp [*]

@[simp] theorem releaseMi2c_look {β : Type} (ρ : State → β) (hρ : ∀ (t : State) hi tm am out freeCtr, look ρ { t with hi := hi, tm := tm, am := am, out := out, freeCtr := freeCtr }
    = look ρ t) (s : State) : look ρ (releaseMi2c s) = look ρ s := by
  unfold releaseMi2c
  (repeat' split) <;> first | with_reducible rfl | simp [*]

@[simp] theorem wakeFailed_look {β : Type} (ρ : State → β) (hρ : ∀ (t : State) hi tm ev pm am counters out freeCtr,
    look ρ { t with hi := hi, tm := tm, ev := ev, pm := pm, am := am, counters := counters, out := out, freeCtr := freeCtr }
    = look ρ t) (s : State) : look ρ (wakeFailed s) = look ρ s := by
  unfold wakeFailed
  (repeat' split) <;> first | with_reducible rfl | simp [*]

@[simp] theorem dropUndefined_look {β : Type} (ρ : State → β) (hρ : ∀ (t : State) hi out, look ρ { t with hi := hi, out := out }
    = look ρ t) (s : State) : look ρ (dropUndefined s) = look ρ s := by
  unfold dropUndefined
  (repeat' split) <;> first | with_reducible rfl | simp [*]

@[simp] theorem idleStep_look {β : Type} (ρ : State → β) (hρ : ∀ (t : State) hi tm out, look ρ { t with hi := hi, tm := tm, out := out }
    = look ρ t) (s : State) : look ρ (idleStep s) = look ρ s := by
  unfold idleStep
  (repeat' split) <;> first | with_reducible rfl | simp [*]

theorem execFinalCompletion_look {β : Type} (ρ : State → β) (hρ : ∀ (t : State) hi cfg tm ec ev pm ck ov fuses cairn
    np si erg cv ts sc al aq am counters nor out freeCtr, look ρ { t with hi := hi, cfg := cfg, tm := tm, ec := ec, ev := ev, pm := pm, ck := ck, ov := ov, fuses := fuses, cairn := cairn, np := np, si := si, erg := erg, cv := cv, ts := ts, sc := sc, al := al, aq := aq, am := am, counters := counters, nor := nor, out := out, freeCtr := freeCtr }
    = look ρ t) (handle : Nat) (fin : Finish) (s : State) : ∃ σ, execFinalCompletion handle fin s = .next σ ∧ look ρ σ
    = look ρ s := by
  refine ⟨_, rfl, ?_⟩; (repeat' split) <;> first | with_reducible rfl | simp [*]

theorem execWakeComplete_look {β : Type} (ρ : State → β) (hρ : ∀ (t : State) hi cfg tm ec ev pm ck ov cairn np si erg
    cv ts sc al aq am counters out freeCtr, look ρ { t with hi := hi, cfg := cfg, tm := tm, ec := ec, ev := ev, pm := pm, ck := ck, ov := ov, cairn := cairn, np := np, si := si, erg := erg, cv := cv, ts := ts, sc := sc, al := al, aq := aq, am := am, counters := counters, out := out, freeCtr := freeCtr }
    = look ρ t) (failed : Bool) (passed : List Nat) (s : State) : ∃ σ, execWakeComplete failed passed s = .next σ ∧
    look ρ σ = look ρ s := by
  refine ⟨_, rfl, ?_⟩; (repeat' split) <;> first | with_reducible rfl | simp [*]

end Sys2Proof.Machine
end

