-- ==== Sys2Proof/Laws/Fuses.lean ====
section
/-! SUPPORT. Where the fuses change: only in the end of VAULT.LIFECYCLE (12 R402). -/

namespace Sys2Proof.Machine

/-- The fuses are no other field. -/
theorem fuses_blind (t : State) : ∀ hi cfg tm ec ev pm ck jtag pins ov cairn np si erg cv ts sc al aq am counters ctrLatch nor out freeCtr pending, look State.fuses { t with hi := hi, cfg := cfg, tm := tm, ec := ec, ev := ev, pm := pm, ck := ck, jtag := jtag, pins := pins, ov := ov, cairn := cairn, np := np, si := si, erg := erg, cv := cv, ts := ts, sc := sc, al := al, aq := aq, am := am, counters := counters, ctrLatch := ctrLatch, nor := nor, out := out, freeCtr := freeCtr, pending := pending } = look State.fuses t := by
  intros; rfl

/-- What a burn leaves in the fuses. -/
theorem burnFuses_fuses (l : Lifecycle) (k : Option Nat) (s : State) :
    (burnFuses l k s).fuses = ⟨s.fuses.uid, l, if l = .provisioned then k.map ownerDigest else s.fuses.ownerHash⟩ := by
  have hd := fun t => drawRandom_look State.fuses (by simp [fuses_blind]) t
  simp only [look] at hd
  unfold burnFuses
  cases l <;> simp [hd]

/-- The fuses after a final completion's own writes. -/
theorem finalCompletion_fuses (o : OpEntry) (st : Nat) (r : List Nat) (s : State) : (finalCompletion o st r s).fuses = s.fuses :=
  finalCompletion_look (fun s => s.fuses) (fun _ _ _ _ _ => rfl) o st r s

/-- Either the fuses stand, or the change is one of Table 12-6 and the owner hash is burned with BLANK to PROVISIONED. -/
theorem finishLifecycle_cases (o : OpEntry) (target : Nat) (k : Option Nat) (hw : Bool) (s : State) :
    (finishLifecycle o target k hw s).fuses = s.fuses ∨
    ∃ l, lifecycleOf target = some l ∧ hw = false ∧ lifecycleStep s.fuses.lifecycle target = true ∧
      (l = .provisioned → k ≠ none) ∧
      (finishLifecycle o target k hw s).fuses = ⟨s.fuses.uid, l, if l = .provisioned then k.map ownerDigest else s.fuses.ownerHash⟩ := by
  unfold finishLifecycle
  split
  · exact .inl (finalCompletion_fuses _ _ _ _)
  · rename_i l hl
    split
    · exact .inl (finalCompletion_fuses _ _ _ _)
    · rename_i hc
      right
      refine ⟨l, hl, ?_⟩
      simp only [finalCompletion_fuses, burnFuses_fuses]
      cases l <;> cases k <;> simp_all

/-- Only the end of VAULT.LIFECYCLE reaches the fuses. -/
theorem finishRest_cases (o : OpEntry) (fin : Finish) (s : State) :
    (finishRest o fin s).fuses = s.fuses ∨
      ∃ h t k, o.cmd = .vaultLifecycle h t k ∧ finishRest o fin s = finishLifecycle o t k fin.hwFault s := by
  unfold finishRest
  split <;> first
    | exact .inr ⟨_, _, _, ‹_›, rfl⟩
    | exact .inl rfl
    | exact .inl (show look State.fuses _ = look State.fuses s by simp [fuses_blind])

/-- Only the end of VAULT.LIFECYCLE reaches the fuses. -/
theorem finishOp_cases (o : OpEntry) (fin : Finish) (s : State) :
    (finishOp o fin s).fuses = s.fuses ∨
      ∃ h t k, o.cmd = .vaultLifecycle h t k ∧ finishOp o fin s = finishLifecycle o t k fin.hwFault s := by
  unfold finishOp
  (repeat' split)
  · exact .inl (finishHost_look State.fuses (by simp [fuses_blind]) o fin s)
  · exact .inl (finishGrid_look State.fuses (by simp [fuses_blind]) o fin s)
  · exact finishRest_cases o fin s

/-- A final completion keeps the fuses, unless it ends VAULT.LIFECYCLE. -/
theorem execFinalCompletion_cases (handle : Nat) (fin : Finish) (s : State) :
    ∃ s', execFinalCompletion handle fin s = .next s' ∧ (s'.fuses = s.fuses ∨
      ∃ o h t k, findOp s handle = some o ∧ o.cmd = .vaultLifecycle h t k ∧
        s' = finishLifecycle o t k fin.hwFault s) := by
  refine ⟨_, rfl, ?_⟩
  split
  · split
    · exact .inl rfl
    · rename_i o ho _
      exact (finishOp_cases o fin s).imp_right (fun ⟨h, t, k, hc, he⟩ => ⟨o, h, t, k, ho, hc, he⟩)
  · exact .inl rfl

end Sys2Proof.Machine
end

