-- ==== Sys2Proof/Laws/State.lean ====
section
/-! SUPPORT. The small laws of the state: the sparse tables every register file and counter stands in, the counters of 00 R14,
and what each named update changes. A field read after a plain record update of another field reduces by itself. -/

namespace Sys2Proof.Machine

/-! ### Sparse tables -/

@[simp] theorem tfind_nil {α : Type} (k : Nat) : tfind ([] : Tbl α) k = none := rfl

/-- A key just set holds what was set. -/
@[simp] theorem tfind_tset_same {α : Type} (t : Tbl α) (k : Nat) (v : α) : tfind (tset t k v) k = some v := by
  induction t with
  | nil => simp [tset, tfind]
  | cons e t ih =>
    obtain ⟨j, w⟩ := e
    simp only [tset]
    split
    · simp [tfind]
    · split
      · simp [tfind]
      · have : j ≠ k := by omega
        simp [tfind, this, ih]

/-- Every other key holds what it held. -/
@[simp] theorem tfind_tset_ne {α : Type} (t : Tbl α) (k i : Nat) (v : α) (h : i ≠ k) : tfind (tset t k v) i = tfind t i := by
  induction t with
  | nil => simp [tset, tfind, h.symm]
  | cons e t ih =>
    obtain ⟨j, w⟩ := e
    simp only [tset]
    split
    · simp [tfind, h.symm]
    · split
      · rename_i hk; subst hk; simp [tfind, h.symm]
      · simp only [tfind]; split <;> simp_all

@[simp] theorem tget_tset_same {α : Type} (d : α) (t : Tbl α) (k : Nat) (v : α) : tget d (tset t k v) k = v := by
  simp [tget]

@[simp] theorem tget_tset_ne {α : Type} (d : α) (t : Tbl α) (k i : Nat) (v : α) (h : i ≠ k) :
    tget d (tset t k v) i = tget d t i := by simp [tget, h]

/-- A deleted key lists nothing. -/
@[simp] theorem tfind_tdel_same {α : Type} (t : Tbl α) (k : Nat) : tfind (tdel t k) k = none := by
  induction t with
  | nil => rfl
  | cons e t ih =>
    obtain ⟨j, w⟩ := e
    by_cases hj : j = k
    · simpa [tdel, hj] using ih
    · simp only [tdel, List.filter_cons] at *
      simp [hj, tfind, ih]

@[simp] theorem tfind_tdel_ne {α : Type} (t : Tbl α) (k i : Nat) (h : i ≠ k) : tfind (tdel t k) i = tfind t i := by
  induction t with
  | nil => rfl
  | cons e t ih =>
    obtain ⟨j, w⟩ := e
    by_cases hj : j = k
    · subst hj; simpa [tdel, tfind, h.symm] using ih
    · simp only [tdel, List.filter_cons] at *
      simp only [bne_iff_ne, ne_eq, hj, not_false_eq_true, ↓reduceIte, tfind]
      split <;> simp_all

/-- The canonical form of a sparse table: keys strictly rising. -/
def Rising {α : Type} (t : Tbl α) : Prop := t.Pairwise (fun a b => a.1 < b.1)

theorem mem_tset {α : Type} (t : Tbl α) (k : Nat) (v : α) (e : Nat × α) (h : e ∈ tset t k v) : e = (k, v) ∨ e ∈ t := by
  induction t with
  | nil => simpa [tset] using h
  | cons x t ih =>
    obtain ⟨j, w⟩ := x
    simp only [tset] at h
    split at h
    · simpa using h
    · split at h
      · rcases List.mem_cons.mp h with h | h
        · exact .inl h
        · exact .inr (List.mem_cons_of_mem _ h)
      · rcases List.mem_cons.mp h with h | h
        · exact .inr (h ▸ List.mem_cons_self)
        · exact (ih h).imp_right (List.mem_cons_of_mem _)

/-- Setting a key keeps the canonical form. -/
theorem Rising.tset {α : Type} {t : Tbl α} (h : Rising t) (k : Nat) (v : α) : Rising (tset t k v) := by
  induction t with
  | nil => simp [Machine.tset, Rising]
  | cons e t ih =>
    obtain ⟨j, w⟩ := e
    have h0 : ∀ b ∈ t, j < b.1 := fun b hb => List.rel_of_pairwise_cons h hb
    have h1 : Rising t := List.Pairwise.of_cons h
    simp only [Machine.tset]
    split
    · rename_i hk
      refine List.Pairwise.cons ?_ h
      intro b hb
      rcases List.mem_cons.mp hb with rfl | hb
      · exact hk
      · exact Nat.lt_trans hk (h0 b hb)
    · split
      · rename_i hk
        exact List.Pairwise.cons (fun b hb => hk ▸ h0 b hb) h1
      · refine List.Pairwise.cons ?_ (ih h1)
        intro b hb
        rcases mem_tset t k v b hb with rfl | hb
        · show j < k; omega
        · exact h0 b hb

/-- Dropping entries keeps the canonical form. -/
theorem Rising.filter {α : Type} {t : Tbl α} (h : Rising t) (f : Nat × α → Bool) : Rising (t.filter f) :=
  List.Pairwise.filter f h

/-! ### Counters (00 R14, R15) -/

/-- A counter that advances keeps its form, and is not 0. -/
theorem satAdd48_form (v n : Nat) (h : v < 2 ^ 64) : CounterForm (satAdd48 v n) := by
  simp only [satAdd48, CounterForm]
  split <;> omega

theorem satAdd48_pos (v n : Nat) (h : CounterForm v) (hn : n ≠ 0) : satAdd48 v n ≠ 0 := by
  simp only [satAdd48, CounterForm] at *
  split <;> omega

theorem tfind_mem {α : Type} (t : Tbl α) (k : Nat) (v : α) (h : tfind t k = some v) : (k, v) ∈ t := by
  induction t with
  | nil => simp at h
  | cons e t ih =>
    obtain ⟨j, w⟩ := e
    simp only [tfind] at h
    split at h
    · simp_all
    · exact List.mem_cons_of_mem _ (ih h)

/-- What a counter reads as has its form. -/
theorem CountersOk.read {t : Tbl Nat} (h : CountersOk t) (a : Nat) : CounterForm (tget 0 t a) := by
  unfold tget
  cases hf : tfind t a with
  | none => simp [CounterForm]
  | some v => exact (h.2 _ (tfind_mem t a v hf)).2

/-- Counting keeps the canonical form. -/
theorem countN_ok (a n : Nat) (s : State) (h : CountersOk s.counters) : CountersOk (countN a n s).counters := by
  unfold countN
  split
  · exact h
  · rename_i hn
    refine ⟨Rising.tset h.1 _ _, ?_⟩
    intro e he
    rcases mem_tset _ _ _ _ he with rfl | he
    · exact ⟨satAdd48_pos _ _ (h.read a) hn, satAdd48_form _ _ (h.read a).2⟩
    · exact h.2 e he

/-- Clearing keeps the canonical form. -/
theorem clearCounters_ok (a len : Nat) (s : State) (h : CountersOk s.counters) :
    CountersOk (clearCounters a len s).counters :=
  ⟨Rising.filter h.1 _, fun e he => h.2 e (List.mem_filter.mp he).1⟩

/-! ### Register files: read after write -/

@[simp] theorem getNq_setNq_same (q : Nat) (n : Nq) (s : State) : getNq (setNq q n s) q = n := by
  simp [getNq, setNq]

@[simp] theorem getNq_setNq_ne (q i : Nat) (n : Nq) (s : State) (h : i ≠ q) : getNq (setNq q n s) i = getNq s i := by
  simp [getNq, setNq, h]

@[simp] theorem getRing_setRing_same (n : Nat) (g : Ring) (s : State) : getRing (setRing n g s) n = g := by
  simp [getRing, setRing]

@[simp] theorem getRing_setRing_ne (n i : Nat) (g : Ring) (s : State) (h : i ≠ n) : getRing (setRing n g s) i = getRing s i := by
  simp [getRing, setRing, h]

@[simp] theorem getPulse_setPulse_same (n : Nat) (x : Pulse) (s : State) : getPulse (setPulse n x s) n = x := by
  simp [getPulse, setPulse]

@[simp] theorem getPulse_setPulse_ne (n i : Nat) (x : Pulse) (s : State) (h : i ≠ n) : getPulse (setPulse n x s) i = getPulse s i := by
  simp [getPulse, setPulse, h]

@[simp] theorem getCmp_setCmp_same (n : Nat) (c : Cmp) (s : State) : getCmp (setCmp n c s) n = c := by
  simp [getCmp, setCmp]

@[simp] theorem getCmp_setCmp_ne (n i : Nat) (c : Cmp) (s : State) (h : i ≠ n) : getCmp (setCmp n c s) i = getCmp s i := by
  simp [getCmp, setCmp, h]

@[simp] theorem getRxRing_setRxRing_same (k : Nat) (r : PtRing) (s : State) : getRxRing (setRxRing k r s) k = r := by
  simp [getRxRing, setRxRing]

@[simp] theorem getRxRing_setRxRing_ne (k i : Nat) (r : PtRing) (s : State) (h : i ≠ k) : getRxRing (setRxRing k r s) i = getRxRing s i := by
  simp [getRxRing, setRxRing, h]

@[simp] theorem getTxRing_setTxRing_same (k : Nat) (r : PtRing) (s : State) : getTxRing (setTxRing k r s) k = r := by
  simp [getTxRing, setTxRing]

@[simp] theorem getTxRing_setTxRing_ne (k i : Nat) (r : PtRing) (s : State) (h : i ≠ k) : getTxRing (setTxRing k r s) i = getTxRing s i := by
  simp [getTxRing, setTxRing, h]

@[simp] theorem getRule_setRule_same (n : Nat) (r : Rule) (s : State) : getRule (setRule n r s) n = some r := by
  simp [getRule, setRule]

@[simp] theorem getRule_setRule_ne (n i : Nat) (r : Rule) (s : State) (h : i ≠ n) : getRule (setRule n r s) i = getRule s i := by
  simp [getRule, setRule, h]

@[simp] theorem getJob_setJob_same (j : Nat) (x : Job) (s : State) : getJob (setJob j x s) j = some x := by
  simp [getJob, setJob]

@[simp] theorem getJob_setJob_ne (j i : Nat) (x : Job) (s : State) (h : i ≠ j) : getJob (setJob j x s) i = getJob s i := by
  simp [getJob, setJob, h]

@[simp] theorem getGroup_setGroup_same (gid : Nat) (g : Group) (s : State) : getGroup (setGroup gid g s) gid = some g := by
  simp [getGroup, setGroup]

@[simp] theorem getGroup_setGroup_ne (gid i : Nat) (g : Group) (s : State) (h : i ≠ gid) : getGroup (setGroup gid g s) i = getGroup s i := by
  simp [getGroup, setGroup, h]

@[simp] theorem getChan_setChan_same (c : Nat) (x : AqChannel) (s : State) : getChan (setChan c x s) c = some x := by
  simp [getChan, setChan]

@[simp] theorem getChan_setChan_ne (c i : Nat) (x : AqChannel) (s : State) (h : i ≠ c) : getChan (setChan c x s) i = getChan s i := by
  simp [getChan, setChan, h]

@[simp] theorem getAqRing_setAqRing_same (r : Nat) (x : AqRing) (s : State) : getAqRing (setAqRing r x s) r = some x := by
  simp [getAqRing, setAqRing]

@[simp] theorem getAqRing_setAqRing_ne (r i : Nat) (x : AqRing) (s : State) (h : i ≠ r) : getAqRing (setAqRing r x s) i = getAqRing s i := by
  simp [getAqRing, setAqRing, h]

@[simp] theorem getPort_updPort_same (p : Nat) (f : Port → Port) (s : State) : getPort (updPort p f s) p = f (getPort s p) := by
  simp [getPort, updPort]

@[simp] theorem getPort_updPort_ne (p i : Nat) (f : Port → Port) (s : State) (h : i ≠ p) : getPort (updPort p f s) i = getPort s i := by
  simp [getPort, updPort, h]

@[simp] theorem getPrp_updPrp_same (n : Nat) (f : Prp → Prp) (s : State) : getPrp (updPrp n f s) n = f (getPrp s n) := by
  simp [getPrp, updPrp]

@[simp] theorem getPrp_updPrp_ne (n i : Nat) (f : Prp → Prp) (s : State) (h : i ≠ n) : getPrp (updPrp n f s) i = getPrp s i := by
  simp [getPrp, updPrp, h]

@[simp] theorem getElem_updElem_same (e : Nat) (f : Elem → Elem) (s : State) : getElem' (updElem e f s) e = f (getElem' s e) := by
  simp [getElem', updElem]

@[simp] theorem getElem_updElem_ne (e i : Nat) (f : Elem → Elem) (s : State) (h : i ≠ e) : getElem' (updElem e f s) i = getElem' s i := by
  simp [getElem', updElem, h]

@[simp] theorem getMChan_updMChan_same (c : Nat) (f : MChan → MChan) (s : State) : getMChan (updMChan c f s) c = f (getMChan s c) := by
  simp [getMChan, updMChan]

@[simp] theorem getMChan_updMChan_ne (c i : Nat) (f : MChan → MChan) (s : State) (h : i ≠ c) : getMChan (updMChan c f s) i = getMChan s i := by
  simp [getMChan, updMChan, h]

@[simp] theorem getMacro_updMacro_same (m : Nat) (f : Macro → Macro) (s : State) : getMacro (updMacro m f s) m = f (getMacro s m) := by
  simp [getMacro, updMacro]

@[simp] theorem getMacro_updMacro_ne (m i : Nat) (f : Macro → Macro) (s : State) (h : i ≠ m) : getMacro (updMacro m f s) i = getMacro s i := by
  simp [getMacro, updMacro, h]

@[simp] theorem getLine_updLine_same (l : Nat) (f : AlmLine → AlmLine) (s : State) : getLine (updLine l f s) l = f (getLine s l) := by
  simp [getLine, updLine]

@[simp] theorem getLine_updLine_ne (l i : Nat) (f : AlmLine → AlmLine) (s : State) (h : i ≠ l) : getLine (updLine l f s) i = getLine s i := by
  simp [getLine, updLine, h]

@[simp] theorem getEngine_updEngine_same (n : Nat) (f : Engine → Engine) (s : State) : getEngine (updEngine n f s) n = f (getEngine s n) := by
  simp [getEngine, updEngine]

@[simp] theorem getEngine_updEngine_ne (n i : Nat) (f : Engine → Engine) (s : State) (h : i ≠ n) : getEngine (updEngine n f s) i = getEngine s i := by
  simp [getEngine, updEngine, h]

/-! ### Each named update, field by field -/

@[simp] theorem bumpFree_frame (s : State) :
    (bumpFree s).hi = s.hi ∧ (bumpFree s).cfg = s.cfg ∧ (bumpFree s).tm = s.tm ∧ (bumpFree s).ec = s.ec ∧
    (bumpFree s).ev = s.ev ∧ (bumpFree s).pm = s.pm ∧ (bumpFree s).ck = s.ck ∧ (bumpFree s).jtag = s.jtag ∧
    (bumpFree s).pins = s.pins ∧ (bumpFree s).ov = s.ov ∧ (bumpFree s).fuses = s.fuses ∧ (bumpFree s).cairn = s.cairn ∧
    (bumpFree s).np = s.np ∧ (bumpFree s).si = s.si ∧ (bumpFree s).erg = s.erg ∧ (bumpFree s).cv = s.cv ∧
    (bumpFree s).ts = s.ts ∧ (bumpFree s).sc = s.sc ∧ (bumpFree s).al = s.al ∧ (bumpFree s).aq = s.aq ∧
    (bumpFree s).am = s.am ∧ (bumpFree s).counters = s.counters ∧ (bumpFree s).ctrLatch = s.ctrLatch ∧
    (bumpFree s).nor = s.nor ∧ (bumpFree s).out = s.out ∧ (bumpFree s).pending = s.pending := by
  (repeat' apply And.intro) <;> rfl

@[simp] theorem clearCounters_frame (a len : Nat) (s : State) :
    (clearCounters a len s).hi = s.hi ∧ (clearCounters a len s).cfg = s.cfg ∧ (clearCounters a len s).tm = s.tm ∧
    (clearCounters a len s).ec = s.ec ∧ (clearCounters a len s).ev = s.ev ∧ (clearCounters a len s).pm = s.pm ∧
    (clearCounters a len s).ck = s.ck ∧ (clearCounters a len s).jtag = s.jtag ∧ (clearCounters a len s).pins = s.pins ∧
    (clearCounters a len s).ov = s.ov ∧ (clearCounters a len s).fuses = s.fuses ∧
    (clearCounters a len s).cairn = s.cairn ∧ (clearCounters a len s).np = s.np ∧ (clearCounters a len s).si = s.si ∧
    (clearCounters a len s).erg = s.erg ∧ (clearCounters a len s).cv = s.cv ∧ (clearCounters a len s).ts = s.ts ∧
    (clearCounters a len s).sc = s.sc ∧ (clearCounters a len s).al = s.al ∧ (clearCounters a len s).aq = s.aq ∧
    (clearCounters a len s).am = s.am ∧ (clearCounters a len s).ctrLatch = s.ctrLatch ∧
    (clearCounters a len s).nor = s.nor ∧ (clearCounters a len s).out = s.out ∧
    (clearCounters a len s).freeCtr = s.freeCtr ∧ (clearCounters a len s).pending = s.pending := by
  (repeat' apply And.intro) <;> rfl

@[simp] theorem updPort_frame (p : Nat) (f : Port → Port) (s : State) :
    (updPort p f s).hi = s.hi ∧ (updPort p f s).cfg = s.cfg ∧ (updPort p f s).tm = s.tm ∧ (updPort p f s).ec = s.ec ∧
    (updPort p f s).ev = s.ev ∧ (updPort p f s).pm = s.pm ∧ (updPort p f s).ck = s.ck ∧ (updPort p f s).jtag = s.jtag ∧
    (updPort p f s).pins = s.pins ∧ (updPort p f s).ov = s.ov ∧ (updPort p f s).fuses = s.fuses ∧
    (updPort p f s).cairn = s.cairn ∧ (updPort p f s).si = s.si ∧ (updPort p f s).erg = s.erg ∧
    (updPort p f s).cv = s.cv ∧ (updPort p f s).ts = s.ts ∧ (updPort p f s).sc = s.sc ∧ (updPort p f s).al = s.al ∧
    (updPort p f s).aq = s.aq ∧ (updPort p f s).am = s.am ∧ (updPort p f s).counters = s.counters ∧
    (updPort p f s).ctrLatch = s.ctrLatch ∧ (updPort p f s).nor = s.nor ∧ (updPort p f s).out = s.out ∧
    (updPort p f s).freeCtr = s.freeCtr ∧ (updPort p f s).pending = s.pending := by
  (repeat' apply And.intro) <;> rfl

@[simp] theorem updPrp_frame (n : Nat) (f : Prp → Prp) (s : State) :
    (updPrp n f s).hi = s.hi ∧ (updPrp n f s).cfg = s.cfg ∧ (updPrp n f s).tm = s.tm ∧ (updPrp n f s).ec = s.ec ∧
    (updPrp n f s).ev = s.ev ∧ (updPrp n f s).pm = s.pm ∧ (updPrp n f s).ck = s.ck ∧ (updPrp n f s).jtag = s.jtag ∧
    (updPrp n f s).pins = s.pins ∧ (updPrp n f s).ov = s.ov ∧ (updPrp n f s).fuses = s.fuses ∧
    (updPrp n f s).cairn = s.cairn ∧ (updPrp n f s).si = s.si ∧ (updPrp n f s).erg = s.erg ∧ (updPrp n f s).cv = s.cv ∧
    (updPrp n f s).ts = s.ts ∧ (updPrp n f s).sc = s.sc ∧ (updPrp n f s).al = s.al ∧ (updPrp n f s).aq = s.aq ∧
    (updPrp n f s).am = s.am ∧ (updPrp n f s).counters = s.counters ∧ (updPrp n f s).ctrLatch = s.ctrLatch ∧
    (updPrp n f s).nor = s.nor ∧ (updPrp n f s).out = s.out ∧ (updPrp n f s).freeCtr = s.freeCtr ∧
    (updPrp n f s).pending = s.pending := by
  (repeat' apply And.intro) <;> rfl

@[simp] theorem setRxRing_frame (k : Nat) (r : PtRing) (s : State) :
    (setRxRing k r s).hi = s.hi ∧ (setRxRing k r s).cfg = s.cfg ∧ (setRxRing k r s).tm = s.tm ∧
    (setRxRing k r s).ec = s.ec ∧ (setRxRing k r s).ev = s.ev ∧ (setRxRing k r s).pm = s.pm ∧
    (setRxRing k r s).ck = s.ck ∧ (setRxRing k r s).jtag = s.jtag ∧ (setRxRing k r s).pins = s.pins ∧
    (setRxRing k r s).ov = s.ov ∧ (setRxRing k r s).fuses = s.fuses ∧ (setRxRing k r s).cairn = s.cairn ∧
    (setRxRing k r s).si = s.si ∧ (setRxRing k r s).erg = s.erg ∧ (setRxRing k r s).cv = s.cv ∧
    (setRxRing k r s).ts = s.ts ∧ (setRxRing k r s).sc = s.sc ∧ (setRxRing k r s).al = s.al ∧
    (setRxRing k r s).aq = s.aq ∧ (setRxRing k r s).am = s.am ∧ (setRxRing k r s).counters = s.counters ∧
    (setRxRing k r s).ctrLatch = s.ctrLatch ∧ (setRxRing k r s).nor = s.nor ∧ (setRxRing k r s).out = s.out ∧
    (setRxRing k r s).freeCtr = s.freeCtr ∧ (setRxRing k r s).pending = s.pending := by
  (repeat' apply And.intro) <;> rfl

@[simp] theorem setTxRing_frame (k : Nat) (r : PtRing) (s : State) :
    (setTxRing k r s).hi = s.hi ∧ (setTxRing k r s).cfg = s.cfg ∧ (setTxRing k r s).tm = s.tm ∧
    (setTxRing k r s).ec = s.ec ∧ (setTxRing k r s).ev = s.ev ∧ (setTxRing k r s).pm = s.pm ∧
    (setTxRing k r s).ck = s.ck ∧ (setTxRing k r s).jtag = s.jtag ∧ (setTxRing k r s).pins = s.pins ∧
    (setTxRing k r s).ov = s.ov ∧ (setTxRing k r s).fuses = s.fuses ∧ (setTxRing k r s).cairn = s.cairn ∧
    (setTxRing k r s).si = s.si ∧ (setTxRing k r s).erg = s.erg ∧ (setTxRing k r s).cv = s.cv ∧
    (setTxRing k r s).ts = s.ts ∧ (setTxRing k r s).sc = s.sc ∧ (setTxRing k r s).al = s.al ∧
    (setTxRing k r s).aq = s.aq ∧ (setTxRing k r s).am = s.am ∧ (setTxRing k r s).counters = s.counters ∧
    (setTxRing k r s).ctrLatch = s.ctrLatch ∧ (setTxRing k r s).nor = s.nor ∧ (setTxRing k r s).out = s.out ∧
    (setTxRing k r s).freeCtr = s.freeCtr ∧ (setTxRing k r s).pending = s.pending := by
  (repeat' apply And.intro) <;> rfl

@[simp] theorem setGroup_frame (gid : Nat) (g : Group) (s : State) :
    (setGroup gid g s).hi = s.hi ∧ (setGroup gid g s).cfg = s.cfg ∧ (setGroup gid g s).tm = s.tm ∧
    (setGroup gid g s).ec = s.ec ∧ (setGroup gid g s).ev = s.ev ∧ (setGroup gid g s).pm = s.pm ∧
    (setGroup gid g s).ck = s.ck ∧ (setGroup gid g s).jtag = s.jtag ∧ (setGroup gid g s).pins = s.pins ∧
    (setGroup gid g s).ov = s.ov ∧ (setGroup gid g s).fuses = s.fuses ∧ (setGroup gid g s).cairn = s.cairn ∧
    (setGroup gid g s).np = s.np ∧ (setGroup gid g s).si = s.si ∧ (setGroup gid g s).cv = s.cv ∧
    (setGroup gid g s).ts = s.ts ∧ (setGroup gid g s).sc = s.sc ∧ (setGroup gid g s).al = s.al ∧
    (setGroup gid g s).aq = s.aq ∧ (setGroup gid g s).am = s.am ∧ (setGroup gid g s).counters = s.counters ∧
    (setGroup gid g s).ctrLatch = s.ctrLatch ∧ (setGroup gid g s).nor = s.nor ∧ (setGroup gid g s).out = s.out ∧
    (setGroup gid g s).freeCtr = s.freeCtr ∧ (setGroup gid g s).pending = s.pending := by
  (repeat' apply And.intro) <;> rfl

@[simp] theorem updMacro_frame (m : Nat) (f : Macro → Macro) (s : State) :
    (updMacro m f s).hi = s.hi ∧ (updMacro m f s).cfg = s.cfg ∧ (updMacro m f s).tm = s.tm ∧
    (updMacro m f s).ev = s.ev ∧ (updMacro m f s).pm = s.pm ∧ (updMacro m f s).ck = s.ck ∧
    (updMacro m f s).jtag = s.jtag ∧ (updMacro m f s).pins = s.pins ∧ (updMacro m f s).ov = s.ov ∧
    (updMacro m f s).fuses = s.fuses ∧ (updMacro m f s).cairn = s.cairn ∧ (updMacro m f s).np = s.np ∧
    (updMacro m f s).si = s.si ∧ (updMacro m f s).erg = s.erg ∧ (updMacro m f s).cv = s.cv ∧
    (updMacro m f s).ts = s.ts ∧ (updMacro m f s).sc = s.sc ∧ (updMacro m f s).al = s.al ∧ (updMacro m f s).aq = s.aq ∧
    (updMacro m f s).am = s.am ∧ (updMacro m f s).counters = s.counters ∧ (updMacro m f s).ctrLatch = s.ctrLatch ∧
    (updMacro m f s).nor = s.nor ∧ (updMacro m f s).out = s.out ∧ (updMacro m f s).freeCtr = s.freeCtr ∧
    (updMacro m f s).pending = s.pending := by
  (repeat' apply And.intro) <;> rfl

@[simp] theorem setFlips_frame (m w : Nat) (l : List Nat) (s : State) :
    (setFlips m w l s).hi = s.hi ∧ (setFlips m w l s).cfg = s.cfg ∧ (setFlips m w l s).tm = s.tm ∧
    (setFlips m w l s).ev = s.ev ∧ (setFlips m w l s).pm = s.pm ∧ (setFlips m w l s).ck = s.ck ∧
    (setFlips m w l s).jtag = s.jtag ∧ (setFlips m w l s).pins = s.pins ∧ (setFlips m w l s).ov = s.ov ∧
    (setFlips m w l s).fuses = s.fuses ∧ (setFlips m w l s).cairn = s.cairn ∧ (setFlips m w l s).np = s.np ∧
    (setFlips m w l s).si = s.si ∧ (setFlips m w l s).erg = s.erg ∧ (setFlips m w l s).cv = s.cv ∧
    (setFlips m w l s).ts = s.ts ∧ (setFlips m w l s).sc = s.sc ∧ (setFlips m w l s).al = s.al ∧
    (setFlips m w l s).aq = s.aq ∧ (setFlips m w l s).am = s.am ∧ (setFlips m w l s).counters = s.counters ∧
    (setFlips m w l s).ctrLatch = s.ctrLatch ∧ (setFlips m w l s).nor = s.nor ∧ (setFlips m w l s).out = s.out ∧
    (setFlips m w l s).freeCtr = s.freeCtr ∧ (setFlips m w l s).pending = s.pending := by
  (repeat' apply And.intro) <;> rfl

@[simp] theorem updElem_frame (e : Nat) (f : Elem → Elem) (s : State) :
    (updElem e f s).hi = s.hi ∧ (updElem e f s).cfg = s.cfg ∧ (updElem e f s).tm = s.tm ∧ (updElem e f s).ec = s.ec ∧
    (updElem e f s).ev = s.ev ∧ (updElem e f s).pm = s.pm ∧ (updElem e f s).ck = s.ck ∧ (updElem e f s).jtag = s.jtag ∧
    (updElem e f s).pins = s.pins ∧ (updElem e f s).ov = s.ov ∧ (updElem e f s).fuses = s.fuses ∧
    (updElem e f s).cairn = s.cairn ∧ (updElem e f s).np = s.np ∧ (updElem e f s).si = s.si ∧
    (updElem e f s).erg = s.erg ∧ (updElem e f s).cv = s.cv ∧ (updElem e f s).ts = s.ts ∧ (updElem e f s).sc = s.sc ∧
    (updElem e f s).al = s.al ∧ (updElem e f s).aq = s.aq ∧ (updElem e f s).counters = s.counters ∧
    (updElem e f s).ctrLatch = s.ctrLatch ∧ (updElem e f s).nor = s.nor ∧ (updElem e f s).out = s.out ∧
    (updElem e f s).freeCtr = s.freeCtr ∧ (updElem e f s).pending = s.pending := by
  (repeat' apply And.intro) <;> rfl

@[simp] theorem updMChan_frame (c : Nat) (f : MChan → MChan) (s : State) :
    (updMChan c f s).hi = s.hi ∧ (updMChan c f s).cfg = s.cfg ∧ (updMChan c f s).tm = s.tm ∧
    (updMChan c f s).ec = s.ec ∧ (updMChan c f s).ev = s.ev ∧ (updMChan c f s).pm = s.pm ∧ (updMChan c f s).ck = s.ck ∧
    (updMChan c f s).jtag = s.jtag ∧ (updMChan c f s).pins = s.pins ∧ (updMChan c f s).ov = s.ov ∧
    (updMChan c f s).fuses = s.fuses ∧ (updMChan c f s).cairn = s.cairn ∧ (updMChan c f s).np = s.np ∧
    (updMChan c f s).si = s.si ∧ (updMChan c f s).erg = s.erg ∧ (updMChan c f s).cv = s.cv ∧
    (updMChan c f s).ts = s.ts ∧ (updMChan c f s).sc = s.sc ∧ (updMChan c f s).al = s.al ∧ (updMChan c f s).aq = s.aq ∧
    (updMChan c f s).counters = s.counters ∧ (updMChan c f s).ctrLatch = s.ctrLatch ∧ (updMChan c f s).nor = s.nor ∧
    (updMChan c f s).out = s.out ∧ (updMChan c f s).freeCtr = s.freeCtr ∧ (updMChan c f s).pending = s.pending := by
  (repeat' apply And.intro) <;> rfl

@[simp] theorem setPulse_frame (n : Nat) (x : Pulse) (s : State) :
    (setPulse n x s).hi = s.hi ∧ (setPulse n x s).cfg = s.cfg ∧ (setPulse n x s).tm = s.tm ∧
    (setPulse n x s).ec = s.ec ∧ (setPulse n x s).ev = s.ev ∧ (setPulse n x s).pm = s.pm ∧ (setPulse n x s).ck = s.ck ∧
    (setPulse n x s).jtag = s.jtag ∧ (setPulse n x s).pins = s.pins ∧ (setPulse n x s).ov = s.ov ∧
    (setPulse n x s).fuses = s.fuses ∧ (setPulse n x s).cairn = s.cairn ∧ (setPulse n x s).np = s.np ∧
    (setPulse n x s).si = s.si ∧ (setPulse n x s).erg = s.erg ∧ (setPulse n x s).cv = s.cv ∧
    (setPulse n x s).ts = s.ts ∧ (setPulse n x s).sc = s.sc ∧ (setPulse n x s).al = s.al ∧ (setPulse n x s).aq = s.aq ∧
    (setPulse n x s).counters = s.counters ∧ (setPulse n x s).ctrLatch = s.ctrLatch ∧ (setPulse n x s).nor = s.nor ∧
    (setPulse n x s).out = s.out ∧ (setPulse n x s).freeCtr = s.freeCtr ∧ (setPulse n x s).pending = s.pending := by
  (repeat' apply And.intro) <;> rfl

@[simp] theorem setCmp_frame (n : Nat) (c : Cmp) (s : State) :
    (setCmp n c s).hi = s.hi ∧ (setCmp n c s).cfg = s.cfg ∧ (setCmp n c s).ec = s.ec ∧ (setCmp n c s).ev = s.ev ∧
    (setCmp n c s).pm = s.pm ∧ (setCmp n c s).ck = s.ck ∧ (setCmp n c s).jtag = s.jtag ∧ (setCmp n c s).pins = s.pins ∧
    (setCmp n c s).ov = s.ov ∧ (setCmp n c s).fuses = s.fuses ∧ (setCmp n c s).cairn = s.cairn ∧
    (setCmp n c s).np = s.np ∧ (setCmp n c s).si = s.si ∧ (setCmp n c s).erg = s.erg ∧ (setCmp n c s).cv = s.cv ∧
    (setCmp n c s).ts = s.ts ∧ (setCmp n c s).sc = s.sc ∧ (setCmp n c s).al = s.al ∧ (setCmp n c s).aq = s.aq ∧
    (setCmp n c s).am = s.am ∧ (setCmp n c s).counters = s.counters ∧ (setCmp n c s).ctrLatch = s.ctrLatch ∧
    (setCmp n c s).nor = s.nor ∧ (setCmp n c s).out = s.out ∧ (setCmp n c s).freeCtr = s.freeCtr ∧
    (setCmp n c s).pending = s.pending := by
  (repeat' apply And.intro) <;> rfl

@[simp] theorem updTether_frame (f : Tether → Tether) (s : State) :
    (updTether f s).hi = s.hi ∧ (updTether f s).cfg = s.cfg ∧ (updTether f s).ec = s.ec ∧ (updTether f s).ev = s.ev ∧
    (updTether f s).pm = s.pm ∧ (updTether f s).ck = s.ck ∧ (updTether f s).jtag = s.jtag ∧
    (updTether f s).pins = s.pins ∧ (updTether f s).ov = s.ov ∧ (updTether f s).fuses = s.fuses ∧
    (updTether f s).cairn = s.cairn ∧ (updTether f s).np = s.np ∧ (updTether f s).si = s.si ∧
    (updTether f s).erg = s.erg ∧ (updTether f s).cv = s.cv ∧ (updTether f s).ts = s.ts ∧ (updTether f s).sc = s.sc ∧
    (updTether f s).al = s.al ∧ (updTether f s).aq = s.aq ∧ (updTether f s).am = s.am ∧
    (updTether f s).counters = s.counters ∧ (updTether f s).ctrLatch = s.ctrLatch ∧ (updTether f s).nor = s.nor ∧
    (updTether f s).out = s.out ∧ (updTether f s).freeCtr = s.freeCtr ∧ (updTether f s).pending = s.pending := by
  (repeat' apply And.intro) <;> rfl

@[simp] theorem updSlave_frame (f : Slave → Slave) (s : State) :
    (updSlave f s).hi = s.hi ∧ (updSlave f s).cfg = s.cfg ∧ (updSlave f s).ec = s.ec ∧ (updSlave f s).ev = s.ev ∧
    (updSlave f s).pm = s.pm ∧ (updSlave f s).ck = s.ck ∧ (updSlave f s).jtag = s.jtag ∧ (updSlave f s).pins = s.pins ∧
    (updSlave f s).ov = s.ov ∧ (updSlave f s).fuses = s.fuses ∧ (updSlave f s).cairn = s.cairn ∧
    (updSlave f s).np = s.np ∧ (updSlave f s).si = s.si ∧ (updSlave f s).erg = s.erg ∧ (updSlave f s).cv = s.cv ∧
    (updSlave f s).ts = s.ts ∧ (updSlave f s).sc = s.sc ∧ (updSlave f s).al = s.al ∧ (updSlave f s).aq = s.aq ∧
    (updSlave f s).am = s.am ∧ (updSlave f s).counters = s.counters ∧ (updSlave f s).ctrLatch = s.ctrLatch ∧
    (updSlave f s).nor = s.nor ∧ (updSlave f s).out = s.out ∧ (updSlave f s).freeCtr = s.freeCtr ∧
    (updSlave f s).pending = s.pending := by
  (repeat' apply And.intro) <;> rfl

@[simp] theorem updPps_frame (f : Pps → Pps) (s : State) :
    (updPps f s).hi = s.hi ∧ (updPps f s).cfg = s.cfg ∧ (updPps f s).ec = s.ec ∧ (updPps f s).ev = s.ev ∧
    (updPps f s).pm = s.pm ∧ (updPps f s).ck = s.ck ∧ (updPps f s).jtag = s.jtag ∧ (updPps f s).pins = s.pins ∧
    (updPps f s).ov = s.ov ∧ (updPps f s).fuses = s.fuses ∧ (updPps f s).cairn = s.cairn ∧ (updPps f s).np = s.np ∧
    (updPps f s).si = s.si ∧ (updPps f s).erg = s.erg ∧ (updPps f s).cv = s.cv ∧ (updPps f s).ts = s.ts ∧
    (updPps f s).sc = s.sc ∧ (updPps f s).al = s.al ∧ (updPps f s).aq = s.aq ∧ (updPps f s).am = s.am ∧
    (updPps f s).counters = s.counters ∧ (updPps f s).ctrLatch = s.ctrLatch ∧ (updPps f s).nor = s.nor ∧
    (updPps f s).out = s.out ∧ (updPps f s).freeCtr = s.freeCtr ∧ (updPps f s).pending = s.pending := by
  (repeat' apply And.intro) <;> rfl

@[simp] theorem setChan_frame (c : Nat) (x : AqChannel) (s : State) :
    (setChan c x s).hi = s.hi ∧ (setChan c x s).cfg = s.cfg ∧ (setChan c x s).tm = s.tm ∧ (setChan c x s).ec = s.ec ∧
    (setChan c x s).ev = s.ev ∧ (setChan c x s).pm = s.pm ∧ (setChan c x s).ck = s.ck ∧ (setChan c x s).jtag = s.jtag ∧
    (setChan c x s).pins = s.pins ∧ (setChan c x s).ov = s.ov ∧ (setChan c x s).fuses = s.fuses ∧
    (setChan c x s).cairn = s.cairn ∧ (setChan c x s).np = s.np ∧ (setChan c x s).si = s.si ∧
    (setChan c x s).erg = s.erg ∧ (setChan c x s).cv = s.cv ∧ (setChan c x s).ts = s.ts ∧ (setChan c x s).sc = s.sc ∧
    (setChan c x s).al = s.al ∧ (setChan c x s).am = s.am ∧ (setChan c x s).counters = s.counters ∧
    (setChan c x s).ctrLatch = s.ctrLatch ∧ (setChan c x s).nor = s.nor ∧ (setChan c x s).out = s.out ∧
    (setChan c x s).freeCtr = s.freeCtr ∧ (setChan c x s).pending = s.pending := by
  (repeat' apply And.intro) <;> rfl

@[simp] theorem setAqRing_frame (r : Nat) (x : AqRing) (s : State) :
    (setAqRing r x s).hi = s.hi ∧ (setAqRing r x s).cfg = s.cfg ∧ (setAqRing r x s).tm = s.tm ∧
    (setAqRing r x s).ec = s.ec ∧ (setAqRing r x s).ev = s.ev ∧ (setAqRing r x s).pm = s.pm ∧
    (setAqRing r x s).ck = s.ck ∧ (setAqRing r x s).jtag = s.jtag ∧ (setAqRing r x s).pins = s.pins ∧
    (setAqRing r x s).ov = s.ov ∧ (setAqRing r x s).fuses = s.fuses ∧ (setAqRing r x s).cairn = s.cairn ∧
    (setAqRing r x s).np = s.np ∧ (setAqRing r x s).si = s.si ∧ (setAqRing r x s).erg = s.erg ∧
    (setAqRing r x s).cv = s.cv ∧ (setAqRing r x s).ts = s.ts ∧ (setAqRing r x s).sc = s.sc ∧
    (setAqRing r x s).al = s.al ∧ (setAqRing r x s).am = s.am ∧ (setAqRing r x s).counters = s.counters ∧
    (setAqRing r x s).ctrLatch = s.ctrLatch ∧ (setAqRing r x s).nor = s.nor ∧ (setAqRing r x s).out = s.out ∧
    (setAqRing r x s).freeCtr = s.freeCtr ∧ (setAqRing r x s).pending = s.pending := by
  (repeat' apply And.intro) <;> rfl

@[simp] theorem setRule_frame (n : Nat) (r : Rule) (s : State) :
    (setRule n r s).hi = s.hi ∧ (setRule n r s).cfg = s.cfg ∧ (setRule n r s).tm = s.tm ∧ (setRule n r s).ec = s.ec ∧
    (setRule n r s).ev = s.ev ∧ (setRule n r s).pm = s.pm ∧ (setRule n r s).ck = s.ck ∧ (setRule n r s).jtag = s.jtag ∧
    (setRule n r s).pins = s.pins ∧ (setRule n r s).ov = s.ov ∧ (setRule n r s).fuses = s.fuses ∧
    (setRule n r s).cairn = s.cairn ∧ (setRule n r s).np = s.np ∧ (setRule n r s).si = s.si ∧
    (setRule n r s).erg = s.erg ∧ (setRule n r s).cv = s.cv ∧ (setRule n r s).ts = s.ts ∧ (setRule n r s).sc = s.sc ∧
    (setRule n r s).aq = s.aq ∧ (setRule n r s).am = s.am ∧ (setRule n r s).counters = s.counters ∧
    (setRule n r s).ctrLatch = s.ctrLatch ∧ (setRule n r s).nor = s.nor ∧ (setRule n r s).out = s.out ∧
    (setRule n r s).freeCtr = s.freeCtr ∧ (setRule n r s).pending = s.pending := by
  (repeat' apply And.intro) <;> rfl

@[simp] theorem updLine_frame (l : Nat) (f : AlmLine → AlmLine) (s : State) :
    (updLine l f s).hi = s.hi ∧ (updLine l f s).cfg = s.cfg ∧ (updLine l f s).tm = s.tm ∧ (updLine l f s).ec = s.ec ∧
    (updLine l f s).ev = s.ev ∧ (updLine l f s).pm = s.pm ∧ (updLine l f s).ck = s.ck ∧ (updLine l f s).jtag = s.jtag ∧
    (updLine l f s).pins = s.pins ∧ (updLine l f s).ov = s.ov ∧ (updLine l f s).fuses = s.fuses ∧
    (updLine l f s).cairn = s.cairn ∧ (updLine l f s).np = s.np ∧ (updLine l f s).si = s.si ∧
    (updLine l f s).erg = s.erg ∧ (updLine l f s).cv = s.cv ∧ (updLine l f s).ts = s.ts ∧ (updLine l f s).sc = s.sc ∧
    (updLine l f s).aq = s.aq ∧ (updLine l f s).am = s.am ∧ (updLine l f s).counters = s.counters ∧
    (updLine l f s).ctrLatch = s.ctrLatch ∧ (updLine l f s).nor = s.nor ∧ (updLine l f s).out = s.out ∧
    (updLine l f s).freeCtr = s.freeCtr ∧ (updLine l f s).pending = s.pending := by
  (repeat' apply And.intro) <;> rfl

@[simp] theorem setJob_frame (j : Nat) (x : Job) (s : State) :
    (setJob j x s).hi = s.hi ∧ (setJob j x s).cfg = s.cfg ∧ (setJob j x s).tm = s.tm ∧ (setJob j x s).ec = s.ec ∧
    (setJob j x s).ev = s.ev ∧ (setJob j x s).pm = s.pm ∧ (setJob j x s).ck = s.ck ∧ (setJob j x s).jtag = s.jtag ∧
    (setJob j x s).pins = s.pins ∧ (setJob j x s).ov = s.ov ∧ (setJob j x s).fuses = s.fuses ∧
    (setJob j x s).cairn = s.cairn ∧ (setJob j x s).np = s.np ∧ (setJob j x s).si = s.si ∧ (setJob j x s).erg = s.erg ∧
    (setJob j x s).ts = s.ts ∧ (setJob j x s).sc = s.sc ∧ (setJob j x s).al = s.al ∧ (setJob j x s).aq = s.aq ∧
    (setJob j x s).am = s.am ∧ (setJob j x s).counters = s.counters ∧ (setJob j x s).ctrLatch = s.ctrLatch ∧
    (setJob j x s).nor = s.nor ∧ (setJob j x s).out = s.out ∧ (setJob j x s).freeCtr = s.freeCtr ∧
    (setJob j x s).pending = s.pending := by
  (repeat' apply And.intro) <;> rfl

@[simp] theorem updEngine_frame (n : Nat) (f : Engine → Engine) (s : State) :
    (updEngine n f s).hi = s.hi ∧ (updEngine n f s).cfg = s.cfg ∧ (updEngine n f s).tm = s.tm ∧
    (updEngine n f s).ec = s.ec ∧ (updEngine n f s).ev = s.ev ∧ (updEngine n f s).pm = s.pm ∧
    (updEngine n f s).ck = s.ck ∧ (updEngine n f s).jtag = s.jtag ∧ (updEngine n f s).pins = s.pins ∧
    (updEngine n f s).ov = s.ov ∧ (updEngine n f s).fuses = s.fuses ∧ (updEngine n f s).cairn = s.cairn ∧
    (updEngine n f s).np = s.np ∧ (updEngine n f s).si = s.si ∧ (updEngine n f s).erg = s.erg ∧
    (updEngine n f s).ts = s.ts ∧ (updEngine n f s).sc = s.sc ∧ (updEngine n f s).al = s.al ∧
    (updEngine n f s).aq = s.aq ∧ (updEngine n f s).am = s.am ∧ (updEngine n f s).counters = s.counters ∧
    (updEngine n f s).ctrLatch = s.ctrLatch ∧ (updEngine n f s).nor = s.nor ∧ (updEngine n f s).out = s.out ∧
    (updEngine n f s).freeCtr = s.freeCtr ∧ (updEngine n f s).pending = s.pending := by
  (repeat' apply And.intro) <;> rfl

@[simp] theorem updItem_frame (id : Nat) (f : Item → Item) (s : State) :
    (updItem id f s).hi = s.hi ∧ (updItem id f s).cfg = s.cfg ∧ (updItem id f s).tm = s.tm ∧
    (updItem id f s).ec = s.ec ∧ (updItem id f s).ev = s.ev ∧ (updItem id f s).pm = s.pm ∧ (updItem id f s).ck = s.ck ∧
    (updItem id f s).jtag = s.jtag ∧ (updItem id f s).pins = s.pins ∧ (updItem id f s).ov = s.ov ∧
    (updItem id f s).fuses = s.fuses ∧ (updItem id f s).cairn = s.cairn ∧ (updItem id f s).np = s.np ∧
    (updItem id f s).si = s.si ∧ (updItem id f s).erg = s.erg ∧ (updItem id f s).ts = s.ts ∧
    (updItem id f s).sc = s.sc ∧ (updItem id f s).al = s.al ∧ (updItem id f s).aq = s.aq ∧ (updItem id f s).am = s.am ∧
    (updItem id f s).counters = s.counters ∧ (updItem id f s).ctrLatch = s.ctrLatch ∧ (updItem id f s).nor = s.nor ∧
    (updItem id f s).out = s.out ∧ (updItem id f s).freeCtr = s.freeCtr ∧ (updItem id f s).pending = s.pending := by
  (repeat' apply And.intro) <;> rfl

@[simp] theorem updInst_frame (job seq : Nat) (f : Inst → Inst) (s : State) :
    (updInst job seq f s).hi = s.hi ∧ (updInst job seq f s).cfg = s.cfg ∧ (updInst job seq f s).tm = s.tm ∧
    (updInst job seq f s).ec = s.ec ∧ (updInst job seq f s).ev = s.ev ∧ (updInst job seq f s).pm = s.pm ∧
    (updInst job seq f s).ck = s.ck ∧ (updInst job seq f s).jtag = s.jtag ∧ (updInst job seq f s).pins = s.pins ∧
    (updInst job seq f s).ov = s.ov ∧ (updInst job seq f s).fuses = s.fuses ∧ (updInst job seq f s).cairn = s.cairn ∧
    (updInst job seq f s).np = s.np ∧ (updInst job seq f s).si = s.si ∧ (updInst job seq f s).erg = s.erg ∧
    (updInst job seq f s).ts = s.ts ∧ (updInst job seq f s).sc = s.sc ∧ (updInst job seq f s).al = s.al ∧
    (updInst job seq f s).aq = s.aq ∧ (updInst job seq f s).am = s.am ∧ (updInst job seq f s).counters = s.counters ∧
    (updInst job seq f s).ctrLatch = s.ctrLatch ∧ (updInst job seq f s).nor = s.nor ∧
    (updInst job seq f s).out = s.out ∧ (updInst job seq f s).freeCtr = s.freeCtr ∧
    (updInst job seq f s).pending = s.pending := by
  (repeat' apply And.intro) <;> rfl

end Sys2Proof.Machine
end

