-- ==== Sys2Proof/Laws/OkBase.lean ====
section
/-! SUPPORT. The bounds of the host interface (`HostOk`) through choices and folds, and through the parts they rest on. -/

namespace Sys2Proof.Machine

/-- `HostOk` reads the counters, the handles and the notice queues only. -/
theorem HostOk.of_eq {s t : State} (h : HostOk s) (hc : t.counters = s.counters) (ho : t.hi.ops = s.hi.ops)
    (hn : t.hi.nqs = s.hi.nqs) : HostOk t := by
  unfold HostOk
  rw [hc, ho, hn]
  exact h

/-- A step that leaves the counters and HI alone leaves `HostOk` alone. -/
theorem HostOk.of_look {s t : State} (h : HostOk s)
    (he : look (fun s => (s.counters, s.hi)) t = look (fun s => (s.counters, s.hi)) s) : HostOk t := by
  simp only [look, Prod.mk.injEq] at he
  exact h.of_eq he.1 (by rw [he.2]) (by rw [he.2])

/-- A state with the counters of `s`, and with its handles and queues, has what `s` has. -/
theorem HostOk.mk_of {s : State} {hi cfg tm ec ev pm ck jtag pins ov fuses cairn np si erg cv ts sc al aq am ctrLatch nor out
    freeCtr pending} (h : HostOk s) (ho : hi.ops = s.hi.ops) (hn : hi.nqs = s.hi.nqs) :
    HostOk (State.mk hi cfg tm ec ev pm ck jtag pins ov fuses cairn np si erg cv ts sc al aq am s.counters ctrLatch nor out freeCtr pending) :=
  HostOk.of_eq h rfl ho hn

/-- A fold of steps that keep `HostOk` keeps it. -/
theorem HostOk.foldl {α : Type} (l : List α) (f : State → α → State) {s : State}
    (hf : ∀ s a, HostOk s → HostOk (f s a)) (h : HostOk s) : HostOk (l.foldl f s) := by
  induction l generalizing s with
  | nil => exact h
  | cons a l ih => exact ih (hf s a h)

/-- A fold that carries more than the state, of steps that keep `HostOk`, keeps it. -/
theorem HostOk.foldl_of {α γ : Type} (p : γ → State) (l : List α) (f : γ → α → γ) {b : γ}
    (hf : ∀ b a, HostOk (p b) → HostOk (p (f b a))) (h : HostOk (p b)) : HostOk (p (l.foldl f b)) := by
  induction l generalizing b with
  | nil => exact h
  | cons a l ih => exact ih (hf b a h)

/-- A choice between states that have `HostOk` has it. -/
theorem HostOk.ite {c : Prop} [Decidable c] {a b : State} (ha : HostOk a) (hb : HostOk b) : HostOk (if c then a else b) := by
  split
  · exact ha
  · exact hb

/-- What a table lists after a set is the new entry or was listed. -/
theorem forall_tset {α : Type} {p : α → Prop} {t : Tbl α} (h : ∀ e ∈ t, p e.2) (k : Nat) (v : α) (hv : p v) :
    ∀ e ∈ tset t k v, p e.2 := by
  intro e he
  rcases mem_tset t k v e he with rfl | he
  · exact hv
  · exact h e he

theorem Nq.reset_ok : NqOk Nq.reset := by simp [NqOk, Nq.reset]

theorem getNq_ok {s : State} (h : HostOk s) (q : Nat) : NqOk (getNq s q) := by
  unfold getNq tget
  cases hf : tfind s.hi.nqs q with
  | none => exact Nq.reset_ok
  | some n => exact h.2.2 _ (tfind_mem _ _ _ hf)

theorem Nq.settle_ok {n : Nq} (h : NqOk n) : NqOk n.settle := h

theorem Nq.produce_ok {n : Nq} (h : NqOk n) (e now : Nat) : NqOk (n.produce e now) := by
  obtain ⟨h1, h2, h3, h4, h5, h6⟩ := h
  simp only [NqOk, Nq.produce, beq_iff_eq]
  by_cases hf : n.w - n.l = 1024
  · simp only [hf, decide_true, beq_self_eq_true, ↓reduceIte]
    refine ⟨?_, ?_, by omega, by omega, ?_, ?_⟩
    · split <;> omega
    · split <;> omega
    · simp [h5]; omega
    · intro hv
      simp only [hv, Bool.and_true, Bool.true_and, Bool.or_eq_false_iff, decide_eq_false_iff_not]
      rintro ⟨_, hx⟩
      omega
  · have hb : (n.w - n.l == 1024) = false := by simpa using hf
    simp only [hf, hb, ↓reduceIte]
    refine ⟨?_, ?_, by omega, by omega, ?_, ?_⟩
    · split <;> omega
    · split <;> omega
    · simp [h5]; omega
    · intro hv hl
      simp only [Bool.false_and, Bool.or_false] at hl
      exact h6 hv hl

theorem setNq_ok (q : Nat) (n : Nq) {s : State} (hn : NqOk n) (h : HostOk s) : HostOk (setNq q n s) :=
  ⟨h.1, h.2.1, forall_tset (p := NqOk) h.2.2 q n hn⟩

end Sys2Proof.Machine
end

