-- ==== Sys2Proof/Laws/OkOps.lean ====
section
/-! SUPPORT. The operations of Machine/Ops.lean keep the bounds of the host interface (`HostOk`). -/

namespace Sys2Proof.Machine

theorem emit_hostOk (o : Out) (s : State) (hs : HostOk s) : HostOk (emit o s) :=
  hs.of_look (emit_look _ (fun _ _ => rfl) o s)

theorem fireVector_hostOk (v : Nat) (s : State) (hs : HostOk s) : HostOk (fireVector v s) := by
  simp only [fireVector]
  repeat' first
    | with_reducible assumption | split | with_reducible apply emit_hostOk | with_reducible apply HostOk.ite
    | with_reducible apply HostOk.foldl | with_reducible apply HostOk.mk_of | with_reducible rfl | intro _
    | dsimp only

theorem raiseErr_hostOk (was : Bool) (f : Hi → Hi) (s : State) (hs : HostOk s) (ho : (f s.hi).ops = s.hi.ops)
    (hn : (f s.hi).nqs = s.hi.nqs) : HostOk (raiseErr was f s) := by
  have h : HostOk { s with hi := f s.hi } := HostOk.mk_of hs ho hn
  unfold raiseErr
  dsimp only
  split
  · exact h
  · exact fireVector_hostOk _ _ h

theorem ringErr_hostOk (n : Nat) (s : State) (hs : HostOk s) : HostOk (ringErr n s) := by
  simp only [ringErr]
  repeat' first
    | with_reducible assumption | split | with_reducible apply raiseErr_hostOk | with_reducible apply HostOk.ite
    | with_reducible apply HostOk.foldl | with_reducible apply HostOk.mk_of | with_reducible rfl | intro _
    | dsimp only

theorem dmaErr_hostOk (src : Src) (s : State) (hs : HostOk s) : HostOk (dmaErr src s) := by
  simp only [dmaErr]
  repeat' first
    | with_reducible assumption | split | with_reducible apply raiseErr_hostOk | with_reducible apply HostOk.ite
    | with_reducible apply HostOk.foldl | with_reducible apply HostOk.mk_of | with_reducible rfl | intro _
    | dsimp only

theorem bumpFree_hostOk (s : State) (hs : HostOk s) : HostOk (bumpFree s) :=
  hs.of_look (bumpFree_look _ (fun _ _ => rfl) s)

theorem countN_hostOk (a n : Nat) (s : State) (hs : HostOk s) : HostOk (countN a n s) := by
  refine ⟨countN_ok a n s hs.1, ?_⟩
  unfold countN; split <;> exact hs.2

theorem count_hostOk (a : Nat) (s : State) (hs : HostOk s) : HostOk (count a s) := by
  simp only [count]
  repeat' first
    | with_reducible assumption | split | with_reducible apply countN_hostOk | with_reducible apply HostOk.ite
    | with_reducible apply HostOk.foldl | with_reducible apply HostOk.mk_of | with_reducible rfl | intro _
    | dsimp only

theorem clearCounters_hostOk (a len : Nat) (s : State) (hs : HostOk s) : HostOk (clearCounters a len s) :=
  ⟨clearCounters_ok a len s hs.1, hs.2⟩

theorem loseRecord_hostOk (sev : Nat) (s : State) (hs : HostOk s) : HostOk (loseRecord sev s) := by
  simp only [loseRecord]
  repeat' first
    | with_reducible assumption | split | with_reducible apply count_hostOk | with_reducible apply HostOk.ite
    | with_reducible apply HostOk.foldl | with_reducible apply HostOk.mk_of | with_reducible rfl | intro _
    | dsimp only

theorem dropOne_hostOk (s : State) (hs : HostOk s) : HostOk (dropOne s) := by
  simp only [dropOne]
  repeat' first
    | with_reducible assumption | split | with_reducible apply loseRecord_hostOk | with_reducible apply HostOk.ite
    | with_reducible apply HostOk.foldl | with_reducible apply HostOk.mk_of | with_reducible rfl | intro _
    | dsimp only

theorem admitOnly_hostOk (r : EvRec) (s : State) (hs : HostOk s) : HostOk (admitOnly r s) := by
  simp only [admitOnly]
  repeat' first
    | with_reducible assumption | split | with_reducible apply loseRecord_hostOk
    | with_reducible apply dropOne_hostOk | with_reducible apply fireVector_hostOk | with_reducible apply HostOk.ite
    | with_reducible apply HostOk.foldl | with_reducible apply HostOk.mk_of | with_reducible rfl | intro _
    | dsimp only

theorem closeAll_hostOk (s : State) (hs : HostOk s) : HostOk (closeAll s) := by
  simp only [closeAll]
  repeat' first
    | with_reducible assumption | split | with_reducible apply admitOnly_hostOk | with_reducible apply HostOk.ite
    | with_reducible apply HostOk.foldl | with_reducible apply HostOk.mk_of | with_reducible rfl | intro _
    | dsimp only

theorem startFlush_hostOk (s : State) (hs : HostOk s) : HostOk (startFlush s) := by
  simp only [startFlush]
  repeat' first
    | with_reducible assumption | split | with_reducible apply count_hostOk | with_reducible apply HostOk.ite
    | with_reducible apply HostOk.foldl | with_reducible apply HostOk.mk_of | with_reducible rfl | intro _
    | dsimp only

theorem flushTrigger_hostOk (s : State) (hs : HostOk s) : HostOk (flushTrigger s) := by
  simp only [flushTrigger]
  repeat' first
    | with_reducible assumption | split | with_reducible apply closeAll_hostOk
    | with_reducible apply startFlush_hostOk | with_reducible apply HostOk.ite | with_reducible apply HostOk.foldl
    | with_reducible apply HostOk.mk_of | with_reducible rfl | intro _ | dsimp only

theorem closeRecord_hostOk (r : EvRec) (s : State) (hs : HostOk s) : HostOk (closeRecord r s) := by
  simp only [closeRecord]
  repeat' first
    | with_reducible assumption | split | with_reducible apply admitOnly_hostOk
    | with_reducible apply flushTrigger_hostOk | with_reducible apply HostOk.ite | with_reducible apply HostOk.foldl
    | with_reducible apply HostOk.mk_of | with_reducible rfl | intro _ | dsimp only

theorem coalesce_hostOk (r : EvRec) (s : State) (hs : HostOk s) : HostOk (coalesce r s) := by
  simp only [coalesce]
  repeat' first
    | with_reducible assumption | split | with_reducible apply count_hostOk
    | with_reducible apply closeRecord_hostOk | with_reducible apply HostOk.ite | with_reducible apply HostOk.foldl
    | with_reducible apply HostOk.mk_of | with_reducible rfl | intro _ | dsimp only

theorem report_hostOk (source code severity arg : Nat) (ext : Option (List Nat)) (s : State) (hs : HostOk s) : HostOk
    (report source code severity arg ext s) := by
  simp only [report]
  repeat' first
    | with_reducible assumption | split | with_reducible apply closeRecord_hostOk
    | with_reducible apply coalesce_hostOk | with_reducible apply HostOk.ite | with_reducible apply HostOk.foldl
    | with_reducible apply HostOk.mk_of | with_reducible rfl | intro _ | dsimp only

theorem setNq_hostOk (q : Nat) (n : Nq) (s : State) (hs : HostOk s) (hn : NqOk n) : HostOk (setNq q n s) :=
  setNq_ok q n hn hs

theorem notify_hostOk (q source code severity arg : Nat) (s : State) (hs : HostOk s) :
    HostOk (notify q source code severity arg s) := by
  have h := setNq_hostOk q _ s hs (Nq.settle_ok (Nq.produce_ok (getNq_ok hs q) (noticeEntry severity source code (getNq s q).w arg) s.tm.frc))
  unfold notify; dsimp only
  split
  · exact hs
  · split
    · exact fireVector_hostOk _ _ h
    · exact h

theorem note_hostOk (q source code severity arg : Nat) (s : State) (hs : HostOk s) : HostOk (note q source code
    severity arg s) := by
  simp only [note]
  repeat' first
    | with_reducible assumption | split | with_reducible apply report_hostOk | with_reducible apply notify_hostOk
    | with_reducible apply HostOk.ite | with_reducible apply HostOk.foldl | with_reducible apply HostOk.mk_of
    | with_reducible rfl | intro _ | dsimp only

theorem noteExt_hostOk (q source code severity arg recArg : Nat) (ext : Option (List Nat)) (s : State) (hs : HostOk s)
    : HostOk (noteExt q source code severity arg recArg ext s) := by
  simp only [noteExt]
  repeat' first
    | with_reducible assumption | split | with_reducible apply report_hostOk | with_reducible apply notify_hostOk
    | with_reducible apply HostOk.ite | with_reducible apply HostOk.foldl | with_reducible apply HostOk.mk_of
    | with_reducible rfl | intro _ | dsimp only

theorem setRing_hostOk (n : Nat) (r : Ring) (s : State) (hs : HostOk s) : HostOk (setRing n r s) := by
  simp only [setRing]
  repeat' first
    | with_reducible assumption | split | with_reducible apply HostOk.ite | with_reducible apply HostOk.foldl
    | with_reducible apply HostOk.mk_of | with_reducible rfl | intro _ | dsimp only

theorem putRecord_hostOk (n : Nat) (r : Record) (fires : Bool) (s : State) (hs : HostOk s) : HostOk (putRecord n r
    fires s) := by
  simp only [putRecord]
  repeat' first
    | with_reducible assumption | split | with_reducible apply emit_hostOk | with_reducible apply setRing_hostOk
    | with_reducible apply fireVector_hostOk | with_reducible apply HostOk.ite | with_reducible apply HostOk.foldl
    | with_reducible apply HostOk.mk_of | with_reducible rfl | intro _ | dsimp only

theorem drainRing_hostOk (n fuel : Nat) (s : State) (hs : HostOk s) : HostOk (drainRing n fuel s) := by
  induction fuel generalizing s with
  | zero => exact hs
  | succ k ih =>
    unfold drainRing; dsimp only
    split
    · split
      · exact ih _ (putRecord_hostOk _ _ _ _ (setRing_hostOk _ _ _ hs))
      · exact hs
    · exact hs

theorem writeRecord_hostOk (src : Src) (r : Record) (fires : Bool) (s : State) (hs : HostOk s) : HostOk (writeRecord
    src r fires s) := by
  simp only [writeRecord]
  repeat' first
    | with_reducible assumption | split | with_reducible apply emit_hostOk | with_reducible apply putRecord_hostOk
    | with_reducible apply setRing_hostOk | with_reducible apply HostOk.ite | with_reducible apply HostOk.foldl
    | with_reducible apply HostOk.mk_of | with_reducible rfl | intro _ | dsimp only

theorem authFailure_hostOk (h : Hdr) (c : CmdSpec) (s : State) (hs : HostOk s) : HostOk (authFailure h c s) := by
  simp only [authFailure]
  repeat' first
    | with_reducible assumption | split | with_reducible apply count_hostOk | with_reducible apply note_hostOk
    | with_reducible apply HostOk.ite | with_reducible apply HostOk.foldl | with_reducible apply HostOk.mk_of
    | with_reducible rfl | intro _ | dsimp only

theorem consumeTag_hostOk (h : Hdr) (s : State) (hs : HostOk s) : HostOk (consumeTag h s) := by
  simp only [consumeTag]
  repeat' first
    | with_reducible assumption | split | with_reducible apply count_hostOk | with_reducible apply note_hostOk
    | with_reducible apply HostOk.ite | with_reducible apply HostOk.foldl | with_reducible apply HostOk.mk_of
    | with_reducible rfl | intro _ | dsimp only

theorem takeHead_hostOk (src : Src) (s : State) (hs : HostOk s) : HostOk (takeHead src s) := by
  simp only [takeHead]
  repeat' first
    | with_reducible assumption | split | with_reducible apply setRing_hostOk | with_reducible apply HostOk.ite
    | with_reducible apply HostOk.foldl | with_reducible apply HostOk.mk_of | with_reducible rfl | intro _
    | dsimp only

theorem firstCompletion_hostOk (h : Hdr) (dead : Bool) (handle status : Nat) (result : List Nat) (s : State) (hs :
    HostOk s) : HostOk (firstCompletion h dead handle status result s) := by
  simp only [firstCompletion]
  repeat' first
    | with_reducible assumption | split | with_reducible apply writeRecord_hostOk | with_reducible apply HostOk.ite
    | with_reducible apply HostOk.foldl | with_reducible apply HostOk.mk_of | with_reducible rfl | intro _
    | dsimp only

theorem openHandle_hostOk (h : Hdr) (dead : Bool) (opcode : Nat) (cmd : Instr) (phase : Phase) (s : State) (hs : HostOk s)
    (hl : s.hi.ops.length < 1024) : HostOk (openHandle h dead opcode cmd phase s) :=
  ⟨hs.1, by simp [openHandle]; omega, hs.2.2⟩

theorem updOp_hostOk (handle : Nat) (f : OpEntry → OpEntry) (s : State) (hs : HostOk s) : HostOk (updOp handle f s) :=
  ⟨hs.1, by simpa [updOp] using hs.2.1, hs.2.2⟩

theorem finalCompletion_hostOk (o : OpEntry) (status : Nat) (result : List Nat) (s : State) (hs : HostOk s) :
    HostOk (finalCompletion o status result s) := by
  have h : HostOk { s with hi := { s.hi with ops := s.hi.ops.filter (fun x => x.handle != o.handle) } } :=
    ⟨hs.1, Nat.le_trans (List.length_filter_le _ _) hs.2.1, hs.2.2⟩
  unfold finalCompletion; dsimp only
  split
  · exact report_hostOk _ _ _ _ _ _ (notify_hostOk _ _ _ _ _ _ h)
  · exact writeRecord_hostOk _ _ _ _ h

end Sys2Proof.Machine
end

