-- ==== Sys2Proof/Laws/OkModes.lean ====
section
/-! SUPPORT. The operations of Machine/Modes.lean keep the bounds of the host interface (`HostOk`). -/

namespace Sys2Proof.Machine

theorem setMode_hostOk (m : Mode) (s : State) (hs : HostOk s) : HostOk (setMode m s) := by
  simp only [setMode]
  repeat' first
    | with_reducible assumption | split | with_reducible apply note_hostOk | with_reducible apply HostOk.ite
    | with_reducible apply HostOk.foldl | with_reducible apply HostOk.mk_of | with_reducible rfl | intro _
    | dsimp only

theorem reMode_hostOk (s : State) (hs : HostOk s) : HostOk (reMode s) := by
  simp only [reMode]
  repeat' first
    | with_reducible assumption | split | with_reducible apply setMode_hostOk | with_reducible apply HostOk.ite
    | with_reducible apply HostOk.foldl | with_reducible apply HostOk.mk_of | with_reducible rfl | intro _
    | dsimp only

theorem tqUpdate_hostOk (s : State) (hs : HostOk s) : HostOk (tqUpdate s) := by
  simp only [tqUpdate]
  repeat' first
    | with_reducible assumption | split | with_reducible apply reMode_hostOk | with_reducible apply note_hostOk
    | with_reducible apply HostOk.ite | with_reducible apply HostOk.foldl | with_reducible apply HostOk.mk_of
    | with_reducible rfl | intro _ | dsimp only

theorem requestWake_hostOk (cause : Nat) (s : State) (hs : HostOk s) : HostOk (requestWake cause s) :=
  hs.of_look (requestWake_look _ (fun _ _ => rfl) cause s)

end Sys2Proof.Machine
end

