-- ==== Sys2Proof/Laws/OkClock.lean ====
section
/-! SUPPORT. The operations of Machine/Clock.lean keep the bounds of the host interface (`HostOk`). -/

namespace Sys2Proof.Machine

theorem idle_hostOk (s : State) (hs : HostOk s) : HostOk (idle s) :=
  hs.of_look (idle_look _ (fun _ _ => rfl) s)

end Sys2Proof.Machine
end

