-- ==== Sys2Proof/Laws/OkInstants.lean ====
section
/-! SUPPORT. The operations of Machine/Instants.lean keep the bounds of the host interface (`HostOk`). -/

namespace Sys2Proof.Machine

theorem setGroup_hostOk (gid : Nat) (g : Group) (s : State) (hs : HostOk s) : HostOk (setGroup gid g s) :=
  hs.of_look (setGroup_look _ (fun _ _ => rfl) gid g s)

theorem updInstant_hostOk (gid k : Nat) (f : Instant → Instant) (s : State) (hs : HostOk s) : HostOk (updInstant gid k
    f s) :=
  hs.of_look (updInstant_look _ (fun _ _ => rfl) gid k f s)

theorem freeCells_hostOk (n : Nat) (s : State) (hs : HostOk s) : HostOk (freeCells n s) :=
  hs.of_look (freeCells_look _ (fun _ _ => rfl) n s)

theorem takeCell_hostOk (s : State) (hs : HostOk s) : HostOk (takeCell s) := by
  simp only [takeCell]
  repeat' first
    | with_reducible assumption | split | with_reducible apply note_hostOk | with_reducible apply HostOk.ite
    | with_reducible apply HostOk.foldl | with_reducible apply HostOk.mk_of | with_reducible rfl | intro _
    | dsimp only

theorem dropInstant_hostOk (gid k : Nat) (s : State) (hs : HostOk s) : HostOk (dropInstant gid k s) :=
  hs.of_look (dropInstant_look _ (fun _ _ => rfl) gid k s)

theorem retireSpent_hostOk (gid k : Nat) (s : State) (hs : HostOk s) : HostOk (retireSpent gid k s) :=
  hs.of_look (retireSpent_look _ (fun _ _ => rfl) gid k s)

theorem freeInstant_hostOk (gid k : Nat) (s : State) (hs : HostOk s) : HostOk (freeInstant gid k s) :=
  hs.of_look (freeInstant_look _ (fun _ _ => rfl) gid k s)

theorem freeHold_hostOk (gid k : Nat) (f : Instant → Instant) (s : State) (hs : HostOk s) : HostOk (freeHold gid k f
    s) :=
  hs.of_look (freeHold_look _ (fun _ _ => rfl) gid k f s)

theorem freeJobHold_hostOk (gid k : Nat) (s : State) (hs : HostOk s) : HostOk (freeJobHold gid k s) :=
  hs.of_look (freeJobHold_look _ (fun _ _ => rfl) gid k s)

end Sys2Proof.Machine
end

