-- ==== Sys2Proof/Laws/OkMemory.lean ====
section
/-! SUPPORT. The operations of Machine/Memory.lean keep the bounds of the host interface (`HostOk`). -/

namespace Sys2Proof.Machine

theorem updMacro_hostOk (m : Nat) (f : Macro → Macro) (s : State) (hs : HostOk s) : HostOk (updMacro m f s) :=
  hs.of_look (updMacro_look _ (fun _ _ => rfl) m f s)

theorem setFlips_hostOk (m w : Nat) (l : List Nat) (s : State) (hs : HostOk s) : HostOk (setFlips m w l s) :=
  hs.of_look (setFlips_look _ (fun _ _ => rfl) m w l s)

theorem wipeMacros_hostOk (f : Nat → Bool) (s : State) (hs : HostOk s) : HostOk (wipeMacros f s) :=
  hs.of_look (wipeMacros_look _ (fun _ _ => rfl) f s)

theorem ecNote_hostOk (code severity m w b : Nat) (s : State) (hs : HostOk s) : HostOk (ecNote code severity m w b s)
    := by
  simp only [ecNote]
  repeat' first
    | with_reducible assumption | split | with_reducible apply noteExt_hostOk | with_reducible apply HostOk.ite
    | with_reducible apply HostOk.foldl | with_reducible apply HostOk.mk_of | with_reducible rfl | intro _
    | dsimp only

theorem repairExhausted_hostOk (m w b : Nat) (s : State) (hs : HostOk s) : HostOk (repairExhausted m w b s) := by
  simp only [repairExhausted]
  repeat' first
    | with_reducible assumption | split | with_reducible apply ecNote_hostOk | with_reducible apply count_hostOk
    | with_reducible apply updMacro_hostOk | with_reducible apply HostOk.ite | with_reducible apply HostOk.foldl
    | with_reducible apply HostOk.mk_of | with_reducible rfl | intro _ | dsimp only

theorem markRow_hostOk (m w b : Nat) (s : State) (hs : HostOk s) : HostOk (markRow m w b s) := by
  simp only [markRow]
  repeat' first
    | with_reducible assumption | split | with_reducible apply repairExhausted_hostOk
    | with_reducible apply updMacro_hostOk | with_reducible apply HostOk.ite | with_reducible apply HostOk.foldl
    | with_reducible apply HostOk.mk_of | with_reducible rfl | intro _ | dsimp only

theorem hardFault_hostOk (m w b : Nat) (s : State) (hs : HostOk s) : HostOk (hardFault m w b s) := by
  simp only [hardFault]
  repeat' first
    | with_reducible assumption | split | with_reducible apply markRow_hostOk | with_reducible apply ecNote_hostOk
    | with_reducible apply count_hostOk | with_reducible apply updMacro_hostOk | with_reducible apply HostOk.ite
    | with_reducible apply HostOk.foldl | with_reducible apply HostOk.mk_of | with_reducible rfl | intro _
    | dsimp only

theorem enterSuspect_hostOk (m w : Nat) (s : State) (hs : HostOk s) : HostOk (enterSuspect m w s) := by
  simp only [enterSuspect]
  repeat' first
    | with_reducible assumption | split | with_reducible apply count_hostOk | with_reducible apply HostOk.ite
    | with_reducible apply HostOk.foldl | with_reducible apply HostOk.mk_of | with_reducible rfl | intro _
    | dsimp only

theorem correctWord_hostOk (m w b : Nat) (s : State) (hs : HostOk s) : HostOk (correctWord m w b s) := by
  simp only [correctWord]
  repeat' first
    | with_reducible assumption | split | with_reducible apply count_hostOk | with_reducible apply setFlips_hostOk
    | with_reducible apply updMacro_hostOk | with_reducible apply hardFault_hostOk
    | with_reducible apply enterSuspect_hostOk | with_reducible apply HostOk.ite | with_reducible apply HostOk.foldl
    | with_reducible apply HostOk.mk_of | with_reducible rfl | intro _ | dsimp only

theorem uncorrectable_hostOk (m w : Nat) (s : State) (hs : HostOk s) : HostOk (uncorrectable m w s) := by
  simp only [uncorrectable]
  repeat' first
    | with_reducible assumption | split | with_reducible apply count_hostOk | with_reducible apply note_hostOk
    | with_reducible apply HostOk.ite | with_reducible apply HostOk.foldl | with_reducible apply HostOk.mk_of
    | with_reducible rfl | intro _ | dsimp only

theorem fullWrite_hostOk (m w : Nat) (s : State) (hs : HostOk s) : HostOk (fullWrite m w s) :=
  hs.of_look (fullWrite_look _ (fun _ _ => rfl) m w s)

theorem narrowWrite_hostOk (m w : Nat) (s : State) (hs : HostOk s) : HostOk (narrowWrite m w s).2 := by
  simp only [narrowWrite]
  repeat' first
    | with_reducible assumption | split | with_reducible apply count_hostOk
    | with_reducible apply correctWord_hostOk | with_reducible apply uncorrectable_hostOk
    | with_reducible apply HostOk.ite | with_reducible apply HostOk.foldl | with_reducible apply HostOk.mk_of
    | with_reducible rfl | intro _ | dsimp only

theorem cairnRead_hostOk (flips : List Nat) (s : State) (hs : HostOk s) : HostOk (cairnRead flips s).2 := by
  simp only [cairnRead]
  repeat' first
    | with_reducible assumption | split | with_reducible apply countN_hostOk | with_reducible apply HostOk.ite
    | with_reducible apply HostOk.foldl | with_reducible apply HostOk.mk_of | with_reducible rfl | intro _
    | dsimp only

theorem allocCell_hostOk (c : Cell) (s : State) (hs : HostOk s) : HostOk (allocCell c s).2 := by
  simp only [allocCell]
  repeat' first
    | with_reducible assumption | split | with_reducible apply bumpFree_hostOk
    | with_reducible apply takeCell_hostOk | with_reducible apply count_hostOk
    | with_reducible apply fullWrite_hostOk | with_reducible apply HostOk.ite | with_reducible apply HostOk.foldl
    | with_reducible apply HostOk.mk_of | with_reducible rfl | intro _ | dsimp only

theorem markNext_hostOk (acc : Tbl Cell × State) (e : Nat × Cell) (hs : HostOk acc.2) : HostOk (markNext acc e).2 := by
  simp only [markNext]; exact narrowWrite_hostOk _ _ _ hs

theorem markFrozen_hostOk (cells : Tbl Cell) (s : State) (hs : HostOk s) : HostOk (markFrozen cells s).2 :=
  HostOk.foldl_of Prod.snd _ _ (fun b a h => markNext_hostOk b a h) hs

theorem readGood_hostOk (m w : Nat) (s : State) (hs : HostOk s) : HostOk (readGood m w s).2 := by
  simp only [readGood]
  repeat' first
    | with_reducible assumption | split | with_reducible apply correctWord_hostOk
    | with_reducible apply uncorrectable_hostOk | with_reducible apply HostOk.ite
    | with_reducible apply HostOk.foldl | with_reducible apply HostOk.mk_of | with_reducible rfl | intro _
    | dsimp only

theorem readDataWord_hostOk (c : Cell) (w : Nat) (s : State) (hs : HostOk s) : HostOk (readDataWord c w s).2 := by
  simp only [readDataWord]
  repeat' first
    | with_reducible assumption | split | with_reducible apply readGood_hostOk
    | with_reducible apply bumpFree_hostOk | with_reducible apply HostOk.ite | with_reducible apply HostOk.foldl
    | with_reducible apply HostOk.mk_of | with_reducible rfl | intro _ | dsimp only

theorem readWords_hostOk (c : Cell) (s : State) (hs : HostOk s) : HostOk (readWords c s).2 :=
  HostOk.foldl_of Prod.snd _ _ (fun b a h => readDataWord_hostOk b.1 a b.2 h) hs

theorem readCell_hostOk (c : Cell) (s : State) (hs : HostOk s) : HostOk (readCell c s).2 := by
  simp only [readCell]
  repeat' first
    | with_reducible assumption | split | with_reducible apply readGood_hostOk
    | with_reducible apply readWords_hostOk | with_reducible apply HostOk.ite | with_reducible apply HostOk.foldl
    | with_reducible apply HostOk.mk_of | with_reducible rfl | intro _ | dsimp only

theorem readNext_hostOk (acc : Tbl Cell × State) (e : Nat × Cell) (hs : HostOk acc.2) : HostOk (readNext acc e).2 := by
  simp only [readNext]; exact readCell_hostOk _ _ hs

theorem readCells_hostOk (cells : Tbl Cell) (s : State) (hs : HostOk s) : HostOk (readCells cells s).2 := by
  unfold readCells
  split
  · exact hs
  · exact HostOk.foldl_of Prod.snd _ _ (fun b a h => readNext_hostOk b a h) hs

theorem readMembers_hostOk (sids : List Nat) (i : Instant) (s : State) (hs : HostOk s) : HostOk (readMembers sids i
    s).2 := by
  unfold readMembers; dsimp only
  repeat' first
    | with_reducible assumption | split | with_reducible apply countN_hostOk | with_reducible apply readCells_hostOk
    | with_reducible apply HostOk.ite | with_reducible apply HostOk.foldl | with_reducible apply HostOk.mk_of
    | with_reducible rfl | intro _ | dsimp only

end Sys2Proof.Machine
end

