-- ==== Sys2Proof/Laws/OkRecording.lean ====
section
/-! SUPPORT. The operations of Machine/Recording.lean keep the bounds of the host interface (`HostOk`). -/

namespace Sys2Proof.Machine

theorem setChan_hostOk (c : Nat) (x : AqChannel) (s : State) (hs : HostOk s) : HostOk (setChan c x s) :=
  hs.of_look (setChan_look _ (fun _ _ => rfl) c x s)

theorem setAqRing_hostOk (r : Nat) (x : AqRing) (s : State) (hs : HostOk s) : HostOk (setAqRing r x s) :=
  hs.of_look (setAqRing_look _ (fun _ _ => rfl) r x s)

theorem stageRecord_hostOk (r : Nat) (x : AqRec) (s : State) (hs : HostOk s) : HostOk (stageRecord r x s) := by
  simp only [stageRecord]
  repeat' first
    | with_reducible assumption | split | with_reducible apply setAqRing_hostOk | with_reducible apply count_hostOk
    | with_reducible apply note_hostOk | with_reducible apply HostOk.ite | with_reducible apply HostOk.foldl
    | with_reducible apply HostOk.mk_of | with_reducible rfl | intro _ | dsimp only

theorem flushBlock_hostOk (r : Nat) (s : State) (hs : HostOk s) : HostOk (flushBlock r s) := by
  simp only [flushBlock]
  repeat' first
    | with_reducible assumption | split | with_reducible apply stageRecord_hostOk
    | with_reducible apply setAqRing_hostOk | with_reducible apply HostOk.ite | with_reducible apply HostOk.foldl
    | with_reducible apply HostOk.mk_of | with_reducible rfl | intro _ | dsimp only

theorem reduceInstant_hostOk (r : Nat) (i : Instant) (s : State) (hs : HostOk s) : HostOk (reduceInstant r i s) := by
  simp only [reduceInstant]
  repeat' first
    | with_reducible assumption | split | with_reducible apply flushBlock_hostOk
    | with_reducible apply setAqRing_hostOk | with_reducible apply HostOk.ite | with_reducible apply HostOk.foldl
    | with_reducible apply HostOk.mk_of | with_reducible rfl | intro _ | dsimp only

theorem endWindows_hostOk (c k : Nat) (s : State) (hs : HostOk s) : HostOk (endWindows c k s) := by
  simp only [endWindows]
  repeat' first
    | with_reducible assumption | split | with_reducible apply setChan_hostOk
    | with_reducible apply stageRecord_hostOk | with_reducible apply note_hostOk | with_reducible apply HostOk.ite
    | with_reducible apply HostOk.foldl | with_reducible apply HostOk.mk_of | with_reducible rfl | intro _
    | dsimp only

theorem recordInstant_hostOk (c : Nat) (i : Instant) (s : State) (hs : HostOk s) : HostOk (recordInstant c i s) := by
  simp only [recordInstant]
  repeat' first
    | with_reducible assumption | split | with_reducible apply readMembers_hostOk
    | with_reducible apply stageRecord_hostOk | with_reducible apply reduceInstant_hostOk
    | with_reducible apply setChan_hostOk | with_reducible apply endWindows_hostOk | with_reducible apply HostOk.ite
    | with_reducible apply HostOk.foldl | with_reducible apply HostOk.mk_of | with_reducible rfl | intro _
    | dsimp only

theorem absorb_hostOk (c : Nat) (s : State) (hs : HostOk s) : HostOk (absorb c s) := by
  simp only [absorb]
  repeat' first
    | with_reducible assumption | split | with_reducible apply freeHold_hostOk
    | with_reducible apply recordInstant_hostOk | with_reducible apply HostOk.ite
    | with_reducible apply HostOk.foldl | with_reducible apply HostOk.mk_of | with_reducible rfl | intro _
    | dsimp only

theorem stageLate_hostOk (r rate : Nat) (x : AqRec) (s : State) (hs : HostOk s) : HostOk (stageLate r rate x s) := by
  simp only [stageLate]
  repeat' first
    | with_reducible assumption | split | with_reducible apply count_hostOk | with_reducible apply setAqRing_hostOk
    | with_reducible apply stageRecord_hostOk | with_reducible apply HostOk.ite | with_reducible apply HostOk.foldl
    | with_reducible apply HostOk.mk_of | with_reducible rfl | intro _ | dsimp only

theorem recordLate_hostOk (type batch gid : Nat) (i : Instant) (cells : Tbl Cell) (s : State) (hs : HostOk s) : HostOk
    (recordLate type batch gid i cells s) := by
  simp only [recordLate]
  repeat' first
    | with_reducible assumption | split | with_reducible apply readCells_hostOk | with_reducible apply absorb_hostOk
    | with_reducible apply stageLate_hostOk | with_reducible apply HostOk.ite | with_reducible apply HostOk.foldl
    | with_reducible apply HostOk.mk_of | with_reducible rfl | intro _ | dsimp only

theorem gapRings_hostOk (c gid first last cause : Nat) (s : State) (hs : HostOk s) : HostOk (gapRings c gid first last
    cause s) := by
  simp only [gapRings]
  repeat' first
    | with_reducible assumption | split | with_reducible apply count_hostOk
    | with_reducible apply stageRecord_hostOk | with_reducible apply HostOk.ite | with_reducible apply HostOk.foldl
    | with_reducible apply HostOk.mk_of | with_reducible rfl | intro _ | dsimp only

theorem recordGap_hostOk (gid first last cause : Nat) (s : State) (hs : HostOk s) : HostOk (recordGap gid first last
    cause s) := by
  simp only [recordGap]
  repeat' first
    | with_reducible assumption | split | with_reducible apply gapRings_hostOk | with_reducible apply absorb_hostOk
    | with_reducible apply setChan_hostOk | with_reducible apply HostOk.ite | with_reducible apply HostOk.foldl
    | with_reducible apply HostOk.mk_of | with_reducible rfl | intro _ | dsimp only

theorem mergeWindow_hostOk (c : Nat) (x : AqChannel) (last : Nat) (s : State) (hs : HostOk s) : HostOk (mergeWindow c
    x last s) := by
  simp only [mergeWindow]
  repeat' first
    | with_reducible assumption | split | with_reducible apply count_hostOk | with_reducible apply setChan_hostOk
    | with_reducible apply HostOk.ite | with_reducible apply HostOk.foldl | with_reducible apply HostOk.mk_of
    | with_reducible rfl | intro _ | dsimp only

theorem openWindow_hostOk (c : Nat) (x : AqChannel) (tokens : Rat) (trig : Int) (first last source id : Nat) (s :
    State) (hs : HostOk s) : HostOk (openWindow c x tokens trig first last source id s) := by
  simp only [openWindow]
  repeat' first
    | with_reducible assumption | split | with_reducible apply setChan_hostOk
    | with_reducible apply stageRecord_hostOk | with_reducible apply count_hostOk | with_reducible apply HostOk.ite
    | with_reducible apply HostOk.foldl | with_reducible apply HostOk.mk_of | with_reducible rfl | intro _
    | dsimp only

theorem triggerChan_hostOk (c : Nat) (t : Int) (source id : Nat) (s : State) (hs : HostOk s) : HostOk (triggerChan c t
    source id s).2 := by
  simp only [triggerChan]
  repeat' first
    | with_reducible assumption | split | with_reducible apply absorb_hostOk
    | with_reducible apply mergeWindow_hostOk | with_reducible apply openWindow_hostOk
    | with_reducible apply note_hostOk | with_reducible apply count_hostOk | with_reducible apply HostOk.ite
    | with_reducible apply HostOk.foldl | with_reducible apply HostOk.mk_of | with_reducible rfl | intro _
    | dsimp only

theorem triggerMask_hostOk (mask : Nat) (t : Int) (source id : Nat) (s : State) (hs : HostOk s) : HostOk (triggerMask
    mask t source id s) := by
  simp only [triggerMask]
  repeat' first
    | with_reducible assumption | split | with_reducible apply triggerChan_hostOk | with_reducible apply HostOk.ite
    | with_reducible apply HostOk.foldl | with_reducible apply HostOk.mk_of | with_reducible rfl | intro _
    | dsimp only

theorem writeAqRecord_hostOk (r : Nat) (g : AqRing) (x : AqRec) (s : State) (hs : HostOk s) : HostOk (writeAqRecord r
    g x s) := by
  simp only [writeAqRecord]
  repeat' first
    | with_reducible assumption | split | with_reducible apply emit_hostOk | with_reducible apply countN_hostOk
    | with_reducible apply count_hostOk | with_reducible apply fireVector_hostOk | with_reducible apply HostOk.ite
    | with_reducible apply HostOk.foldl | with_reducible apply HostOk.mk_of | with_reducible rfl | intro _
    | dsimp only

theorem writeStaged_hostOk (r : Nat) (s : State) (hs : HostOk s) : HostOk (writeStaged r s) := by
  simp only [writeStaged]
  repeat' first
    | with_reducible assumption | split | with_reducible apply writeAqRecord_hostOk
    | with_reducible apply setAqRing_hostOk | with_reducible apply HostOk.ite | with_reducible apply HostOk.foldl
    | with_reducible apply HostOk.mk_of | with_reducible rfl | intro _ | dsimp only

theorem enableChan_hostOk (c : Nat) (en : Bool) (s : State) (hs : HostOk s) : HostOk (enableChan c en s) := by
  simp only [enableChan]
  repeat' first
    | with_reducible assumption | split | with_reducible apply absorb_hostOk | with_reducible apply setAqRing_hostOk
    | with_reducible apply setChan_hostOk | with_reducible apply HostOk.ite | with_reducible apply HostOk.foldl
    | with_reducible apply HostOk.mk_of | with_reducible rfl | intro _ | dsimp only

theorem execAqRecordWrite_hostOk (ring : Nat) (s : State) (hs : HostOk s) : ∃ σ, execAqRecordWrite ring s = .next σ ∧
    HostOk σ := by
  refine ⟨_, rfl, ?_⟩; repeat' first
    | with_reducible assumption | split | with_reducible apply writeStaged_hostOk
    | with_reducible apply absorb_hostOk | with_reducible apply HostOk.ite | with_reducible apply HostOk.foldl
    | with_reducible apply HostOk.mk_of | with_reducible rfl | intro _ | dsimp only

end Sys2Proof.Machine
end

