-- ==== Sys2Proof/Laws/OkTopology.lean ====
section
/-! SUPPORT. The operations of Machine/Topology.lean keep the bounds of the host interface (`HostOk`). -/

namespace Sys2Proof.Machine

theorem onModel_hostOk (epoch : Nat) (f : ModelP → State → State) (s : State) (hs : HostOk s) (hf : ∀ y0 t, HostOk t →
    HostOk (f y0 t)) : HostOk (onModel epoch f s) := by
  simp only [onModel]
  repeat' first
    | with_reducible assumption | split | with_reducible apply hf | with_reducible apply HostOk.ite
    | with_reducible apply HostOk.foldl | with_reducible apply HostOk.mk_of | with_reducible rfl | intro _
    | dsimp only

theorem cutNotices_hostOk (old new : Tbl Cut) (s : State) (hs : HostOk s) : HostOk (cutNotices old new s) := by
  simp only [cutNotices]
  repeat' first
    | with_reducible assumption | split | with_reducible apply note_hostOk | with_reducible apply count_hostOk
    | with_reducible apply HostOk.ite | with_reducible apply HostOk.foldl | with_reducible apply HostOk.mk_of
    | with_reducible rfl | intro _ | dsimp only

theorem putResult_hostOk (r : TsResult) (s : State) (hs : HostOk s) : HostOk (putResult r s) :=
  hs.of_look (putResult_look _ (fun _ _ => rfl) r s)

theorem topologyAborted_hostOk (gid k : Nat) (s : State) (hs : HostOk s) : HostOk (topologyAborted gid k s) := by
  simp only [topologyAborted]
  repeat' first
    | with_reducible assumption | split | with_reducible apply count_hostOk | with_reducible apply putResult_hostOk
    | with_reducible apply HostOk.ite | with_reducible apply HostOk.foldl | with_reducible apply HostOk.mk_of
    | with_reducible rfl | intro _ | dsimp only

theorem openEpisodes_hostOk (old nw : List Nat) (f : Nat → State → State) (s : State) (hs : HostOk s)
    (hf : ∀ k t, HostOk t → HostOk (f k t)) : HostOk (openEpisodes old nw f s) :=
  HostOk.foldl _ _ (fun _ a h => hf a _ h) hs

theorem topoNotices_hostOk (old cuts : Tbl Cut) (unknown conflict : List Nat) (sp mg : List (Nat × Nat)) (held islands
    : Nat) (s : State) (hs : HostOk s) : HostOk (topoNotices old cuts unknown conflict sp mg held islands s) := by
  have hc := fun a n t h => countN_hostOk a n t h
  have hn := fun q a b c d t h => note_hostOk q a b c d t h
  have h1 : HostOk (countN 0x108050 conflict.length (countN 0x108048 unknown.length (countN 0x108040 held (count 0x108000 s)))) :=
    hc _ _ _ (hc _ _ _ (hc _ _ _ (count_hostOk _ _ hs)))
  have h2 := cutNotices_hostOk old cuts _ h1
  have h3 := openEpisodes_hostOk s.ts.unknowns unknown (fun b s => note s.ts.p.nq 7 0x09 1 b s) _ h2 (fun _ _ h => hn _ _ _ _ _ _ h)
  have h4 := openEpisodes_hostOk s.ts.conflicts conflict (fun b s => note s.ts.p.nq 7 0x08 2 b s) _ h3 (fun _ _ h => hn _ _ _ _ _ _ h)
  have h5 := HostOk.foldl sp (fun s e => note s.ts.p.nq 7 0x01 2 (fld e.1 16 13 + fld e.2 0 13) s) (fun _ _ h => hn _ _ _ _ _ _ h) h4
  have h6 := HostOk.foldl mg (fun s e => note s.ts.p.nq 7 0x02 1 (fld e.1 16 13 + fld e.2 0 13) s) (fun _ _ h => hn _ _ _ _ _ _ h) h5
  exact HostOk.ite (hn _ _ _ _ _ _ (count_hostOk _ _ h6)) h6

theorem topologyPass_hostOk (gid k disp : Nat) (forces : Tbl Bool) (m : ModelP) (i : Instant) (s : State) (hs : HostOk
    s) : HostOk (topologyPass gid k disp forces m i s) := by
  simp only [topologyPass]
  repeat' first
    | with_reducible assumption | split | with_reducible apply topoNotices_hostOk
    | with_reducible apply putResult_hostOk | with_reducible apply HostOk.ite | with_reducible apply HostOk.foldl
    | with_reducible apply HostOk.mk_of | with_reducible rfl | intro _ | dsimp only

theorem refacDone_hostOk (handles : List Nat) (status : Nat) (s : State) (hs : HostOk s) : HostOk (refacDone handles
    status s) := by
  simp only [refacDone]
  repeat' first
    | with_reducible assumption | split | with_reducible apply finalCompletion_hostOk
    | with_reducible apply HostOk.ite | with_reducible apply HostOk.foldl | with_reducible apply HostOk.mk_of
    | with_reducible rfl | intro _ | dsimp only

theorem enterItem_hostOk (job seq : Nat) (d : NodeP) (st : ItemState) (s t : State)
    (h : enterItem job seq d st s = some t) (hs : HostOk s) : HostOk t :=
  hs.of_look (enterItem_look _ (fun _ _ => rfl) job seq d st s t h)

theorem startRefac_hostOk (r : Refac) (s : State) (hs : HostOk s) : HostOk (startRefac r s) := by
  unfold startRefac
  split
  · rename_i h
    exact note_hostOk _ _ _ _ _ _ (HostOk.mk_of (enterItem_hostOk _ _ _ _ _ _ h hs) rfl rfl)
  · exact refacDone_hostOk _ _ _ (count_hostOk _ _ hs)

theorem requestRefac_hostOk (cause : Nat) (closed uses handles : List Nat) (s : State) (hs : HostOk s) : HostOk
    (requestRefac cause closed uses handles s) := by
  simp only [requestRefac]
  repeat' first
    | with_reducible assumption | split | with_reducible apply startRefac_hostOk | with_reducible apply HostOk.ite
    | with_reducible apply HostOk.foldl | with_reducible apply HostOk.mk_of | with_reducible rfl | intro _
    | dsimp only

theorem commitRefac_hostOk (dispatched : Nat) (s : State) (hs : HostOk s) : HostOk (commitRefac dispatched s) := by
  simp only [commitRefac]
  repeat' first
    | with_reducible assumption | split | with_reducible apply note_hostOk | with_reducible apply count_hostOk
    | with_reducible apply refacDone_hostOk | with_reducible apply startRefac_hostOk
    | with_reducible apply HostOk.ite | with_reducible apply HostOk.foldl | with_reducible apply HostOk.mk_of
    | with_reducible rfl | intro _ | dsimp only

theorem solveNoFactor_hostOk (r : TsResult) (s : State) (hs : HostOk s) : HostOk (solveNoFactor r s) := by
  simp only [solveNoFactor]
  repeat' first
    | with_reducible assumption | split | with_reducible apply count_hostOk | with_reducible apply putResult_hostOk
    | with_reducible apply HostOk.ite | with_reducible apply HostOk.foldl | with_reducible apply HostOk.mk_of
    | with_reducible rfl | intro _ | dsimp only

theorem factorLost_hostOk (page : Nat) (f : SolveFac) (r : TsResult) (s : State) (hs : HostOk s) : HostOk (factorLost
    page f r s) := by
  simp only [factorLost]
  repeat' first
    | with_reducible assumption | split | with_reducible apply solveNoFactor_hostOk
    | with_reducible apply note_hostOk | with_reducible apply requestRefac_hostOk | with_reducible apply HostOk.ite
    | with_reducible apply HostOk.foldl | with_reducible apply HostOk.mk_of | with_reducible rfl | intro _
    | dsimp only

theorem countLowRank_hostOk (r : TsResult) (n : Nat) (s : State) (hs : HostOk s) : HostOk (countLowRank r n s) := by
  simp only [countLowRank]
  repeat' first
    | with_reducible assumption | split | with_reducible apply countN_hostOk
    | with_reducible apply requestRefac_hostOk | with_reducible apply HostOk.ite | with_reducible apply HostOk.foldl
    | with_reducible apply HostOk.mk_of | with_reducible rfl | intro _ | dsimp only

theorem applyLowRank_hostOk (r : TsResult) (n : Nat) (s : State) (hs : HostOk s) : HostOk (applyLowRank r n s) := by
  simp only [applyLowRank]
  repeat' first
    | with_reducible assumption | split | with_reducible apply countLowRank_hostOk | with_reducible apply HostOk.ite
    | with_reducible apply HostOk.foldl | with_reducible apply HostOk.mk_of | with_reducible rfl | intro _
    | dsimp only

theorem afterSolve_hostOk (r : TsResult) (f : SolveFac) (stale accSat high : Bool) (n bad : Nat) (j : Rat) (s : State)
    (hs : HostOk s) : HostOk (afterSolve r f stale accSat high n bad j s) := by
  simp only [afterSolve]
  repeat' first
    | with_reducible assumption | split | with_reducible apply countN_hostOk | with_reducible apply count_hostOk
    | with_reducible apply requestRefac_hostOk | with_reducible apply countLowRank_hostOk
    | with_reducible apply applyLowRank_hostOk | with_reducible apply note_hostOk | with_reducible apply HostOk.ite
    | with_reducible apply HostOk.foldl | with_reducible apply HostOk.mk_of | with_reducible rfl | intro _
    | dsimp only

theorem stateSolve_hostOk (gid k : Nat) (f : SolveFac) (cells : Tbl Cell) (x : SolveResult) (accSat : Bool) (m :
    ModelP) (s : State) (hs : HostOk s) : HostOk (stateSolve gid k f cells x accSat m s) := by
  simp only [stateSolve]
  repeat' first
    | with_reducible assumption | split | with_reducible apply solveNoFactor_hostOk
    | with_reducible apply factorLost_hostOk | with_reducible apply afterSolve_hostOk
    | with_reducible apply putResult_hostOk | with_reducible apply HostOk.ite | with_reducible apply HostOk.foldl
    | with_reducible apply HostOk.mk_of | with_reducible rfl | intro _ | dsimp only

end Sys2Proof.Machine
end

