-- ==== Sys2Proof/Laws/OkSirocco.lean ====
section
/-! SUPPORT. The operations of Machine/Sirocco.lean keep the bounds of the host interface (`HostOk`). -/

namespace Sys2Proof.Machine

theorem fastWindow_hostOk (n : Nat) (i : Instant) (accSat : Bool) (m : Nat) (s : State) (hs : HostOk s) : HostOk
    (fastWindow n i accSat m s) := by
  simp only [fastWindow]
  repeat' first
    | with_reducible assumption | split | with_reducible apply count_hostOk | with_reducible apply note_hostOk
    | with_reducible apply HostOk.ite | with_reducible apply HostOk.foldl | with_reducible apply HostOk.mk_of
    | with_reducible rfl | intro _ | dsimp only

theorem fastSignal_hostOk (n : Nat) (i : Instant) (from' to' : Nat) (accSat : Bool) (disp : Nat) (s : State) (hs :
    HostOk s) : HostOk (fastSignal n i from' to' accSat disp s) := by
  simp only [fastSignal]
  repeat' first
    | with_reducible assumption | split | with_reducible apply fastWindow_hostOk | with_reducible apply HostOk.ite
    | with_reducible apply HostOk.foldl | with_reducible apply HostOk.mk_of | with_reducible rfl | intro _
    | dsimp only

theorem fastPath_hostOk (i : Instant) (accSat : Bool) (disp : Nat) (s : State) (hs : HostOk s) : HostOk (fastPath i
    accSat disp s) := by
  simp only [fastPath]
  repeat' first
    | with_reducible assumption | split | with_reducible apply countN_hostOk
    | with_reducible apply fastSignal_hostOk | with_reducible apply note_hostOk | with_reducible apply count_hostOk
    | with_reducible apply HostOk.ite | with_reducible apply HostOk.foldl | with_reducible apply HostOk.mk_of
    | with_reducible rfl | intro _ | dsimp only

theorem startSlow_hostOk (node : Nat) (sec : Int) (s : State) (hs : HostOk s) : HostOk (startSlow node sec s) :=
  hs.of_look (startSlow_look _ (fun _ _ => rfl) node sec s)

theorem modeLost_hostOk (g t : Nat) (s : State) (hs : HostOk s) : HostOk (modeLost g t s) := by
  simp only [modeLost]
  repeat' first
    | with_reducible assumption | split | with_reducible apply note_hostOk | with_reducible apply HostOk.ite
    | with_reducible apply HostOk.foldl | with_reducible apply HostOk.mk_of | with_reducible rfl | intro _
    | dsimp only

theorem forcedNotices_hostOk (g t : Nat) (was now : Bool) (freq : Nat) (s : State) (hs : HostOk s) : HostOk
    (forcedNotices g t was now freq s) := by
  simp only [forcedNotices]
  repeat' first
    | with_reducible assumption | split | with_reducible apply note_hostOk | with_reducible apply count_hostOk
    | with_reducible apply HostOk.ite | with_reducible apply HostOk.foldl | with_reducible apply HostOk.mk_of
    | with_reducible rfl | intro _ | dsimp only

theorem newTrack_hostOk (g : Nat) (ts : Tbl Track) (acc : List (Nat × Nat) × List Nat × State) (r : Nat) (m : RankedMode)
    (hs : HostOk acc.2.2) : HostOk (newTrack g ts acc r m).2.2 :=
  note_hostOk _ _ _ _ _ _ (count_hostOk _ _ (HostOk.ite (modeLost_hostOk _ _ _ hs) hs))

theorem assignTracks_hostOk (g : Nat) (ts : Tbl Track) (ms : List RankedMode) (s : State) (hs : HostOk s) :
    HostOk (assignTracks g ts ms s).2.2.2 := by
  simp only [assignTracks]
  refine HostOk.foldl _ _ (fun _ _ h => forcedNotices_hostOk _ _ _ _ _ _ h) ?_
  refine HostOk.foldl _ _ (fun _ _ h => modeLost_hostOk _ _ _ h) ?_
  refine HostOk.foldl_of (fun x : List (Nat × Nat) × List Nat × State => x.2.2) _ _ (fun b a h => ?_) hs
  try dsimp only
  split
  · exact newTrack_hostOk _ _ _ _ _ h
  · exact h

theorem putSlow_hostOk (g : Nat) (r : SlowRec) (s : State) (hs : HostOk s) : HostOk (putSlow g r s) := by
  simp only [putSlow]
  repeat' first
    | with_reducible assumption | split | with_reducible apply count_hostOk | with_reducible apply HostOk.ite
    | with_reducible apply HostOk.foldl | with_reducible apply HostOk.mk_of | with_reducible rfl | intro _
    | dsimp only

theorem slowUpdate_hostOk (g : Nat) (amps : List (List Nat)) (accSat : Bool) (s : State) (hs : HostOk s) : HostOk
    (slowUpdate g amps accSat s) := by
  simp only [slowUpdate]
  repeat' first
    | with_reducible assumption | split | with_reducible apply bumpFree_hostOk
    | with_reducible apply assignTracks_hostOk | with_reducible apply putSlow_hostOk
    | with_reducible apply note_hostOk | with_reducible apply HostOk.ite | with_reducible apply HostOk.foldl
    | with_reducible apply HostOk.mk_of | with_reducible rfl | intro _ | dsimp only

theorem slowPath_hostOk (rs : List SlowResult) (accSat : Bool) (node : Nat) (s : State) (hs : HostOk s) : HostOk
    (slowPath rs accSat node s) := by
  simp only [slowPath]
  repeat' first
    | with_reducible assumption | split | with_reducible apply slowUpdate_hostOk | with_reducible apply HostOk.ite
    | with_reducible apply HostOk.foldl | with_reducible apply HostOk.mk_of | with_reducible rfl | intro _
    | dsimp only

theorem slowAborted_hostOk (node : Nat) (sec : Int) (s : State) (hs : HostOk s) : HostOk (slowAborted node sec s) :=
    by
  simp only [slowAborted]
  repeat' first
    | with_reducible assumption | split | with_reducible apply bumpFree_hostOk | with_reducible apply putSlow_hostOk
    | with_reducible apply HostOk.ite | with_reducible apply HostOk.foldl | with_reducible apply HostOk.mk_of
    | with_reducible rfl | intro _ | dsimp only

theorem slowMissed_hostOk (nodes : List NodeP) (s : State) (hs : HostOk s) : HostOk (slowMissed nodes s) := by
  simp only [slowMissed]
  repeat' first
    | with_reducible assumption | split | with_reducible apply count_hostOk | with_reducible apply HostOk.ite
    | with_reducible apply HostOk.foldl | with_reducible apply HostOk.mk_of | with_reducible rfl | intro _
    | dsimp only

end Sys2Proof.Machine
end

