-- ==== Sys2Proof/Laws/OkAlarms.lean ====
section
/-! SUPPORT. The operations of Machine/Alarms.lean keep the bounds of the host interface (`HostOk`). -/

namespace Sys2Proof.Machine

theorem drivePulse_hostOk (line ns : Nat) (s : State) (hs : HostOk s) : HostOk (drivePulse line ns s) :=
  hs.of_look (drivePulse_look _ (fun _ _ => rfl) line ns s)

theorem updLine_hostOk (l : Nat) (f : AlmLine → AlmLine) (s : State) (hs : HostOk s) : HostOk (updLine l f s) :=
  hs.of_look (updLine_look _ (fun _ _ => rfl) l f s)

theorem driveLines_hostOk (s : State) (hs : HostOk s) : HostOk (driveLines s) := by
  simp only [driveLines]
  repeat' first
    | with_reducible assumption | split | with_reducible apply count_hostOk | with_reducible apply HostOk.ite
    | with_reducible apply HostOk.foldl | with_reducible apply HostOk.mk_of | with_reducible rfl | intro _
    | dsimp only

theorem setRule_hostOk (n : Nat) (r : Rule) (s : State) (hs : HostOk s) : HostOk (setRule n r s) :=
  hs.of_look (setRule_look _ (fun _ _ => rfl) n r s)

theorem ruleNote_hostOk (p : RuleP) (code nsev arg rsev rarg : Nat) (s : State) (hs : HostOk s) : HostOk (ruleNote p
    code nsev arg rsev rarg s) := by
  simp only [ruleNote]
  repeat' first
    | with_reducible assumption | split | with_reducible apply notify_hostOk | with_reducible apply report_hostOk
    | with_reducible apply HostOk.ite | with_reducible apply HostOk.foldl | with_reducible apply HostOk.mk_of
    | with_reducible rfl | intro _ | dsimp only

theorem driveAssert_hostOk (p : RuleP) (s : State) (hs : HostOk s) : HostOk (driveAssert p s) :=
  hs.of_look (driveAssert_look _ (fun _ _ _ => rfl) p s)

theorem assertRule_hostOk (n : Nat) (p : RuleP) (k : Nat) (v tk : Int) (s : State) (hs : HostOk s) : HostOk
    (assertRule n p k v tk s) := by
  simp only [assertRule]
  repeat' first
    | with_reducible assumption | split | with_reducible apply count_hostOk | with_reducible apply ruleNote_hostOk
    | with_reducible apply triggerMask_hostOk | with_reducible apply driveAssert_hostOk
    | with_reducible apply HostOk.ite | with_reducible apply HostOk.foldl | with_reducible apply HostOk.mk_of
    | with_reducible rfl | intro _ | dsimp only

theorem clearRule_hostOk (n : Nat) (p : RuleP) (k : Nat) (v : Int) (s : State) (hs : HostOk s) : HostOk (clearRule n p
    k v s) := by
  simp only [clearRule]
  repeat' first
    | with_reducible assumption | split | with_reducible apply ruleNote_hostOk | with_reducible apply count_hostOk
    | with_reducible apply HostOk.ite | with_reducible apply HostOk.foldl | with_reducible apply HostOk.mk_of
    | with_reducible rfl | intro _ | dsimp only

theorem adminNote_hostOk (n cause : Nat) (p : RuleP) (s : State) (hs : HostOk s) : HostOk (adminNote n cause p s) :=
    by
  simp only [adminNote]
  repeat' first
    | with_reducible assumption | split | with_reducible apply ruleNote_hostOk | with_reducible apply count_hostOk
    | with_reducible apply HostOk.ite | with_reducible apply HostOk.foldl | with_reducible apply HostOk.mk_of
    | with_reducible rfl | intro _ | dsimp only

theorem adminClear_hostOk (n cause : Nat) (s : State) (hs : HostOk s) : HostOk (adminClear n cause s) := by
  simp only [adminClear]
  repeat' first
    | with_reducible assumption | split | with_reducible apply driveLines_hostOk
    | with_reducible apply adminNote_hostOk | with_reducible apply setRule_hostOk | with_reducible apply HostOk.ite
    | with_reducible apply HostOk.foldl | with_reducible apply HostOk.mk_of | with_reducible rfl | intro _
    | dsimp only

theorem clearAllRules_hostOk (s : State) (hs : HostOk s) : HostOk (clearAllRules s) := by
  simp only [clearAllRules]
  repeat' first
    | with_reducible assumption | split | with_reducible apply driveLines_hostOk
    | with_reducible apply adminClear_hostOk | with_reducible apply HostOk.ite | with_reducible apply HostOk.foldl
    | with_reducible apply HostOk.mk_of | with_reducible rfl | intro _ | dsimp only

theorem invalidNote_hostOk (n : Nat) (r : Rule) (s : State) (hs : HostOk s) : HostOk (invalidNote n r s) := by
  simp only [invalidNote]
  repeat' first
    | with_reducible assumption | split | with_reducible apply count_hostOk | with_reducible apply notify_hostOk
    | with_reducible apply report_hostOk | with_reducible apply HostOk.ite | with_reducible apply HostOk.foldl
    | with_reducible apply HostOk.mk_of | with_reducible rfl | intro _ | dsimp only

theorem ruleEdges_hostOk (c : EvalCtx) (n : Nat) (j : Rule × Bool × Bool) (s : State) (hs : HostOk s) : HostOk
    (ruleEdges c n j s).1 := by
  simp only [ruleEdges]
  repeat' first
    | with_reducible assumption | split | with_reducible apply setRule_hostOk | with_reducible apply count_hostOk
    | with_reducible apply assertRule_hostOk | with_reducible apply freeze_hostOk
    | with_reducible apply clearRule_hostOk | with_reducible apply HostOk.ite | with_reducible apply HostOk.foldl
    | with_reducible apply HostOk.mk_of | with_reducible rfl | intro _ | dsimp only

theorem evaluateRule_hostOk (c : EvalCtx) (n : Nat) (r : Rule) (s : State) (hs : HostOk s) : HostOk (evaluateRule c n
    r s).1 := by
  have q : ∀ (p : Bool) (x y : State × Bool), HostOk x.1 → HostOk y.1 → HostOk (if p = true then x else y).1 := by
    intro p x y hx hy
    cases p
    · exact hy
    · exact hx
  have hc : ∀ (d : Bool), HostOk (count (ruleCtr n 0) (count 0x10B000 (if d = true then count 0x10B020 s else s))) := fun d =>
    count_hostOk _ _ (count_hostOk _ _ (HostOk.ite (count_hostOk _ _ hs) hs))
  exact q _ _ _ hs (ruleEdges_hostOk _ _ _ _ (HostOk.ite (hc _) (invalidNote_hostOk _ _ _ (hc _))))

theorem ruleStep_hostOk (c : EvalCtx) (gid : Nat) (acc : State × Bool) (n : Nat) (hs : HostOk acc.1) :
    HostOk (ruleStep c gid acc n).1 := by
  unfold ruleStep
  split
  · exact hs
  · split
    · exact hs
    · split
      · split
        · exact adminNote_hostOk _ _ _ _ (setRule_hostOk _ _ _ hs)
        · exact hs
      · split
        · exact hs
        · exact evaluateRule_hostOk _ _ _ _ hs

theorem decide'_hostOk (c : EvalCtx) (gid : Nat) (s : State) (hs : HostOk s) : HostOk (decide' c gid s).1 :=
  driveLines_hostOk _ (HostOk.foldl_of (fun x : State × Bool => x.1) _ _ (fun _ _ h => ruleStep_hostOk _ _ _ _ h) hs)

theorem setXtrigIn_hostOk (n : Nat) (level : Bool) (s : State) (hs : HostOk s) : HostOk (setXtrigIn n level s) :=
  hs.of_look (setXtrigIn_look _ (fun _ _ => rfl) n level s)

theorem xinEdge_hostOk (n : Nat) (stamp : Int) (s : State) (hs : HostOk s) : HostOk (xinEdge n stamp s) := by
  simp only [xinEdge]
  repeat' first
    | with_reducible assumption | split | with_reducible apply count_hostOk
    | with_reducible apply triggerMask_hostOk | with_reducible apply note_hostOk | with_reducible apply HostOk.ite
    | with_reducible apply HostOk.foldl | with_reducible apply HostOk.mk_of | with_reducible rfl | intro _
    | dsimp only

theorem execAlmStbDeferred_hostOk (s : State) (hs : HostOk s) : ∃ σ, execAlmStbDeferred s = .next σ ∧ HostOk σ := by
  refine ⟨_, rfl, ?_⟩; repeat' first
    | with_reducible assumption | split | with_reducible apply driveLines_hostOk | with_reducible apply HostOk.ite
    | with_reducible apply HostOk.foldl | with_reducible apply HostOk.mk_of | with_reducible rfl | intro _
    | dsimp only

theorem execAlmPulseEnd_hostOk (line : Nat) (s : State) (hs : HostOk s) : ∃ σ, execAlmPulseEnd line s = .next σ ∧
    HostOk σ := by
  refine ⟨_, rfl, ?_⟩; repeat' first
    | with_reducible assumption | split | with_reducible apply driveLines_hostOk
    | with_reducible apply updLine_hostOk | with_reducible apply HostOk.ite | with_reducible apply HostOk.foldl
    | with_reducible apply HostOk.mk_of | with_reducible rfl | intro _ | dsimp only

theorem execXtrigInEdge_hostOk (n : Nat) (level : Bool) (stamp : Stamp) (s : State) (hs : HostOk s) : ∃ σ,
    execXtrigInEdge n level stamp s = .next σ ∧ HostOk σ := by
  refine ⟨_, rfl, ?_⟩; repeat' first
    | with_reducible assumption | split | with_reducible apply setXtrigIn_hostOk
    | with_reducible apply xinEdge_hostOk | with_reducible apply HostOk.ite | with_reducible apply HostOk.foldl
    | with_reducible apply HostOk.mk_of | with_reducible rfl | intro _ | dsimp only

theorem execXtrigInForwardedEdge_hostOk (n : Nat) (s : State) (hs : HostOk s) : ∃ σ, execXtrigInForwardedEdge n s =
    .next σ ∧ HostOk σ := by
  obtain ⟨σ, h1, h2⟩ := execXtrigInForwardedEdge_look (fun s => (s.counters, s.hi)) (fun _ _ => rfl) n s
  exact ⟨σ, h1, hs.of_look h2⟩

theorem execOutputPulseEnd_hostOk (line : Nat) (s : State) (hs : HostOk s) : ∃ σ, execOutputPulseEnd line s = .next σ
    ∧ HostOk σ := by
  obtain ⟨σ, h1, h2⟩ := execOutputPulseEnd_look (fun s => (s.counters, s.hi)) (fun _ _ => rfl) line s
  exact ⟨σ, h1, hs.of_look h2⟩

end Sys2Proof.Machine
end

