-- ==== Sys2Proof/Laws/OkCaravan.lean ====
section
/-! SUPPORT. The operations of Machine/Caravan.lean keep the bounds of the host interface (`HostOk`). -/

namespace Sys2Proof.Machine

theorem setJob_hostOk (j : Nat) (x : Job) (s : State) (hs : HostOk s) : HostOk (setJob j x s) :=
  hs.of_look (setJob_look _ (fun _ _ => rfl) j x s)

theorem updEngine_hostOk (n : Nat) (f : Engine → Engine) (s : State) (hs : HostOk s) : HostOk (updEngine n f s) :=
  hs.of_look (updEngine_look _ (fun _ _ => rfl) n f s)

theorem putEngine_hostOk (st : EngState) (n : Nat) (s : State) (hs : HostOk s) : HostOk (putEngine st n s) :=
  hs.of_look (putEngine_look _ (fun _ _ => rfl) st n s)

theorem updItem_hostOk (id : Nat) (f : Item → Item) (s : State) (hs : HostOk s) : HostOk (updItem id f s) :=
  hs.of_look (updItem_look _ (fun _ _ => rfl) id f s)

theorem dropItem_hostOk (id : Nat) (s : State) (hs : HostOk s) : HostOk (dropItem id s) :=
  hs.of_look (dropItem_look _ (fun _ _ => rfl) id s)

theorem queueAt_hostOk (level id : Nat) (s : State) (hs : HostOk s) : HostOk (queueAt level id s) :=
  hs.of_look (queueAt_look _ (fun _ _ => rfl) level id s)

theorem chargeItem_hostOk (it : Item) (s : State) (hs : HostOk s) : HostOk (chargeItem it s) :=
  hs.of_look (chargeItem_look _ (fun _ _ => rfl) it s)

theorem stopItem_hostOk (it : Item) (s : State) (hs : HostOk s) : HostOk (stopItem it s) :=
  hs.of_look (stopItem_look _ (fun _ _ => rfl) it s)

theorem updInst_hostOk (job seq : Nat) (f : Inst → Inst) (s : State) (hs : HostOk s) : HostOk (updInst job seq f s) :=
  hs.of_look (updInst_look _ (fun _ _ => rfl) job seq f s)

theorem dropInst_hostOk (i : Inst) (s : State) (hs : HostOk s) : HostOk (dropInst i s) :=
  hs.of_look (dropInst_look _ (fun _ _ => rfl) i s)

theorem freeInstHold_hostOk (i : Inst) (s : State) (hs : HostOk s) : HostOk (freeInstHold i s) :=
  hs.of_look (freeInstHold_look _ (fun _ _ => rfl) i s)

theorem finishRun_hostOk (i : Inst) (status : Nat) (s : State) (hs : HostOk s) : HostOk (finishRun i status s) := by
  simp only [finishRun]
  repeat' first
    | with_reducible assumption | split | with_reducible apply finalCompletion_hostOk
    | with_reducible apply HostOk.ite | with_reducible apply HostOk.foldl | with_reducible apply HostOk.mk_of
    | with_reducible rfl | intro _ | dsimp only

theorem abortReports_hostOk (i : Inst) (s : State) (hs : HostOk s) : HostOk (abortReports i s) := by
  simp only [abortReports]
  repeat' first
    | with_reducible assumption | split | with_reducible apply topologyAborted_hostOk
    | with_reducible apply slowAborted_hostOk | with_reducible apply HostOk.ite | with_reducible apply HostOk.foldl
    | with_reducible apply HostOk.mk_of | with_reducible rfl | intro _ | dsimp only

theorem abortInst_hostOk (i : Inst) (node cause : Nat) (s : State) (hs : HostOk s) : HostOk (abortInst i node cause s)
    := by
  simp only [abortInst]
  repeat' first
    | with_reducible assumption | split | with_reducible apply dropInst_hostOk | with_reducible apply count_hostOk
    | with_reducible apply note_hostOk | with_reducible apply freeInstHold_hostOk
    | with_reducible apply abortReports_hostOk | with_reducible apply finishRun_hostOk
    | with_reducible apply HostOk.ite | with_reducible apply HostOk.foldl | with_reducible apply HostOk.mk_of
    | with_reducible rfl | intro _ | dsimp only

theorem endInst_hostOk (i : Inst) (s : State) (hs : HostOk s) : HostOk (endInst i s) := by
  simp only [endInst]
  repeat' first
    | with_reducible assumption | split | with_reducible apply finishRun_hostOk
    | with_reducible apply freeInstHold_hostOk | with_reducible apply dropInst_hostOk
    | with_reducible apply HostOk.ite | with_reducible apply HostOk.foldl | with_reducible apply HostOk.mk_of
    | with_reducible rfl | intro _ | dsimp only

theorem createItem_hostOk (i : Inst) (d : NodeP) (s t : State) (h : createItem i d s = some t) (hs : HostOk s) : HostOk t :=
  hs.of_look (createItem_look _ (fun _ _ => rfl) i d s t h)

theorem makeReady_hostOk (job seq : Nat) (s : State) (hs : HostOk s) : HostOk (makeReady job seq s) := by
  unfold makeReady
  split
  · exact hs
  · refine HostOk.foldl _ _ (fun t d h => ?_) hs
    try dsimp only
    split
    · exact h
    · split
      · exact updInst_hostOk _ _ _ _ (createItem_hostOk _ _ _ _ ‹_› h)
      · exact abortInst_hostOk _ _ _ _ (count_hostOk _ _ h)

theorem startInst_hostOk (j : Nat) (t : Trigger) (s : State) (hs : HostOk s) : HostOk (startInst j t s).2 := by
  simp only [startInst]
  repeat' first
    | with_reducible assumption | split | with_reducible apply count_hostOk | with_reducible apply setJob_hostOk
    | with_reducible apply note_hostOk | with_reducible apply slowMissed_hostOk
    | with_reducible apply makeReady_hostOk | with_reducible apply HostOk.ite | with_reducible apply HostOk.foldl
    | with_reducible apply HostOk.mk_of | with_reducible rfl | intro _ | dsimp only

theorem startBound_hostOk (gid k : Nat) (t : Int) (s : State) (hs : HostOk s) : HostOk (startBound gid k t s) := by
  simp only [startBound]
  repeat' first
    | with_reducible assumption | split | with_reducible apply startInst_hostOk
    | with_reducible apply freeJobHold_hostOk | with_reducible apply HostOk.ite | with_reducible apply HostOk.foldl
    | with_reducible apply HostOk.mk_of | with_reducible rfl | intro _ | dsimp only

theorem discardInsts_hostOk (s : State) (hs : HostOk s) : HostOk (discardInsts s) := by
  simp only [discardInsts]
  repeat' first
    | with_reducible assumption | split | with_reducible apply finishRun_hostOk
    | with_reducible apply freeInstHold_hostOk | with_reducible apply dropInst_hostOk
    | with_reducible apply count_hostOk | with_reducible apply HostOk.ite | with_reducible apply HostOk.foldl
    | with_reducible apply HostOk.mk_of | with_reducible rfl | intro _ | dsimp only

theorem readInput_hostOk (i : Inst) (s : State) (hs : HostOk s) : HostOk (readInput i s).2 := by
  simp only [readInput]
  repeat' first
    | with_reducible assumption | split | with_reducible apply readMembers_hostOk | with_reducible apply HostOk.ite
    | with_reducible apply HostOk.foldl | with_reducible apply HostOk.mk_of | with_reducible rfl | intro _
    | dsimp only

theorem stageStart_hostOk (i : Option Inst) (it : Item) (s : State) (hs : HostOk s) : HostOk (stageStart i it s) :=
  hs.of_look (stageStart_look _ (fun _ _ _ => rfl) i it s)

theorem loadEngine_hostOk (words : Tbl Nat) (n : Nat) (s : State) (hs : HostOk s) : HostOk (loadEngine words n s) :=
  hs.of_look (loadEngine_look _ (fun _ _ => rfl) words n s)

theorem takeService_hostOk (it : Item) (input : Option Instant) (s : State) (hs : HostOk s) : HostOk (takeService it
    input s) := by
  simp only [takeService]
  repeat' first
    | with_reducible assumption | split | with_reducible apply idle_hostOk | with_reducible apply loadEngine_hostOk
    | with_reducible apply updItem_hostOk | with_reducible apply updOp_hostOk | with_reducible apply count_hostOk
    | with_reducible apply stageStart_hostOk | with_reducible apply HostOk.ite | with_reducible apply HostOk.foldl
    | with_reducible apply HostOk.mk_of | with_reducible rfl | intro _ | dsimp only

theorem dispatchItem_hostOk (it : Item) (s : State) (hs : HostOk s) : HostOk (dispatchItem it s) := by
  unfold dispatchItem
  split
  · exact takeService_hostOk _ _ _ hs
  · rename_i i _
    have hr := readInput_hostOk i s hs
    split
    · exact takeService_hostOk _ _ _ hs
    · split
      · exact takeService_hostOk _ _ _ hs
      · split
        · rename_i h; rw [h] at hr; exact takeService_hostOk _ _ _ hr
        · rename_i h; rw [h] at hr; exact abortInst_hostOk _ _ _ _ hr

theorem caravanTick_hostOk (s : State) (hs : HostOk s) : HostOk (caravanTick s) := by
  simp only [caravanTick]
  repeat' first
    | with_reducible assumption | split | with_reducible apply countN_hostOk | with_reducible apply HostOk.ite
    | with_reducible apply HostOk.foldl | with_reducible apply HostOk.mk_of | with_reducible rfl | intro _
    | dsimp only

theorem failRefac_hostOk (status : Nat) (s : State) (hs : HostOk s) : HostOk (failRefac status s) := by
  simp only [failRefac]
  repeat' first
    | with_reducible assumption | split | with_reducible apply refacDone_hostOk
    | with_reducible apply startRefac_hostOk | with_reducible apply HostOk.ite | with_reducible apply HostOk.foldl
    | with_reducible apply HostOk.mk_of | with_reducible rfl | intro _ | dsimp only

theorem execDispatchDecision_hostOk (s : State) (hs : HostOk s) : ∃ σ, execDispatchDecision s = .next σ ∧ HostOk σ := by
  refine ⟨_, rfl, ?_⟩; repeat' first
    | with_reducible assumption | split | with_reducible apply dispatchItem_hostOk | with_reducible apply HostOk.ite
    | with_reducible apply HostOk.foldl | with_reducible apply HostOk.mk_of | with_reducible rfl | intro _
    | dsimp only

theorem execItemAging_hostOk (level : Nat) (s : State) (hs : HostOk s) : ∃ σ, execItemAging level s = .next σ ∧ HostOk
    σ := by
  refine ⟨_, rfl, ?_⟩; repeat' first
    | with_reducible assumption | split | with_reducible apply count_hostOk | with_reducible apply queueAt_hostOk
    | with_reducible apply HostOk.ite | with_reducible apply HostOk.foldl | with_reducible apply HostOk.mk_of
    | with_reducible rfl | intro _ | dsimp only

theorem execDelayExpiry_hostOk (s : State) (hs : HostOk s) : ∃ σ, execDelayExpiry s = .next σ ∧ HostOk σ := by
  obtain ⟨σ, h1, h2⟩ := execDelayExpiry_look (fun s => (s.counters, s.hi)) (fun _ _ => rfl) s
  exact ⟨σ, h1, hs.of_look h2⟩

theorem execCheckpointWrite_hostOk (item : Nat) (s : State) (hs : HostOk s) : ∃ σ, execCheckpointWrite item s = .next
    σ ∧ HostOk σ := by
  obtain ⟨σ, h1, h2⟩ := execCheckpointWrite_look (fun s => (s.counters, s.hi)) (fun _ _ => rfl) item s
  exact ⟨σ, h1, hs.of_look h2⟩

theorem execBudgetOver_hostOk (item : Nat) (s : State) (hs : HostOk s) : ∃ σ, execBudgetOver item s = .next σ ∧ HostOk
    σ := by
  refine ⟨_, rfl, ?_⟩; repeat' first
    | with_reducible assumption | split | with_reducible apply count_hostOk | with_reducible apply abortInst_hostOk
    | with_reducible apply failRefac_hostOk | with_reducible apply dropItem_hostOk
    | with_reducible apply stopItem_hostOk | with_reducible apply HostOk.ite | with_reducible apply HostOk.foldl
    | with_reducible apply HostOk.mk_of | with_reducible rfl | intro _ | dsimp only

end Sys2Proof.Machine
end

