-- ==== Sys2Proof/Laws/OkTransmit.lean ====
section
/-! SUPPORT. The operations of Machine/Transmit.lean keep the bounds of the host interface (`HostOk`). -/

namespace Sys2Proof.Machine

theorem updPort_hostOk (p : Nat) (f : Port → Port) (s : State) (hs : HostOk s) : HostOk (updPort p f s) :=
  hs.of_look (updPort_look _ (fun _ _ => rfl) p f s)

theorem updPrp_hostOk (n : Nat) (f : Prp → Prp) (s : State) (hs : HostOk s) : HostOk (updPrp n f s) :=
  hs.of_look (updPrp_look _ (fun _ _ => rfl) n f s)

theorem putGate_hostOk (port : Nat) (g : GateP) (s : State) (hs : HostOk s) : HostOk (putGate port g s) := by
  simp only [putGate]
  repeat' first
    | with_reducible assumption | split | with_reducible apply note_hostOk | with_reducible apply updPort_hostOk
    | with_reducible apply HostOk.ite | with_reducible apply HostOk.foldl | with_reducible apply HostOk.mk_of
    | with_reducible rfl | intro _ | dsimp only

theorem operatePending_hostOk (port : Nat) (g : GateP) (h : Nat) (s : State) (hs : HostOk s) : HostOk (operatePending
    port g h s) := by
  simp only [operatePending]
  repeat' first
    | with_reducible assumption | split | with_reducible apply putGate_hostOk | with_reducible apply updPort_hostOk
    | with_reducible apply finalCompletion_hostOk | with_reducible apply HostOk.ite
    | with_reducible apply HostOk.foldl | with_reducible apply HostOk.mk_of | with_reducible rfl | intro _
    | dsimp only

theorem realignGates_hostOk (s : State) (hs : HostOk s) : HostOk (realignGates s) := by
  simp only [realignGates]
  repeat' first
    | with_reducible assumption | split | with_reducible apply note_hostOk | with_reducible apply updPort_hostOk
    | with_reducible apply HostOk.ite | with_reducible apply HostOk.foldl | with_reducible apply HostOk.mk_of
    | with_reducible rfl | intro _ | dsimp only

theorem offerFrame_hostOk (p q : Nat) (x : TxFrame) (s : State) (hs : HostOk s) : HostOk (offerFrame p q x s) := by
  simp only [offerFrame]
  repeat' first
    | with_reducible assumption | split | with_reducible apply count_hostOk | with_reducible apply updPort_hostOk
    | with_reducible apply HostOk.ite | with_reducible apply HostOk.foldl | with_reducible apply HostOk.mk_of
    | with_reducible rfl | intro _ | dsimp only

theorem sendPort_hostOk (p q kind len : Nat) (words : List Nat) (s : State) (hs : HostOk s) : HostOk (sendPort p q
    kind len words s) := by
  simp only [sendPort]
  repeat' first
    | with_reducible assumption | split | with_reducible apply offerFrame_hostOk | with_reducible apply HostOk.ite
    | with_reducible apply HostOk.foldl | with_reducible apply HostOk.mk_of | with_reducible rfl | intro _
    | dsimp only

theorem sendPair_hostOk (n q kind len : Nat) (words : List Nat) (s : State) (hs : HostOk s) : HostOk (sendPair n q
    kind len words s) := by
  simp only [sendPair]
  repeat' first
    | with_reducible assumption | split | with_reducible apply updPrp_hostOk
    | with_reducible apply offerFrame_hostOk | with_reducible apply HostOk.ite | with_reducible apply HostOk.foldl
    | with_reducible apply HostOk.mk_of | with_reducible rfl | intro _ | dsimp only

theorem sendAny_hostOk (p q kind len : Nat) (words : List Nat) (s : State) (hs : HostOk s) : HostOk (sendAny p q kind
    len words s) := by
  simp only [sendAny]
  repeat' first
    | with_reducible assumption | split | with_reducible apply sendPair_hostOk
    | with_reducible apply sendPort_hostOk | with_reducible apply HostOk.ite | with_reducible apply HostOk.foldl
    | with_reducible apply HostOk.mk_of | with_reducible rfl | intro _ | dsimp only

theorem usePn_hostOk (p : Nat) (s : State) (hs : HostOk s) : HostOk (usePn p s) := by
  simp only [usePn]
  repeat' first
    | with_reducible assumption | split | with_reducible apply updPort_hostOk | with_reducible apply note_hostOk
    | with_reducible apply HostOk.ite | with_reducible apply HostOk.foldl | with_reducible apply HostOk.mk_of
    | with_reducible rfl | intro _ | dsimp only

theorem rollSa_hostOk (p : Nat) (s : State) (hs : HostOk s) : HostOk (rollSa p s) :=
  hs.of_look (rollSa_look _ (fun _ _ => rfl) p s)

theorem dropUnprotected_hostOk (p : Nat) (s : State) (hs : HostOk s) : HostOk (dropUnprotected p s) := by
  simp only [dropUnprotected]
  repeat' first
    | with_reducible assumption | split | with_reducible apply count_hostOk | with_reducible apply updPort_hostOk
    | with_reducible apply note_hostOk | with_reducible apply HostOk.ite | with_reducible apply HostOk.foldl
    | with_reducible apply HostOk.mk_of | with_reducible rfl | intro _ | dsimp only

theorem putOnWire_hostOk (p q sub : Nat) (x : TxFrame) (sec : List Nat) (s : State) (hs : HostOk s) : HostOk
    (putOnWire p q sub x sec s) := by
  simp only [putOnWire]
  repeat' first
    | with_reducible assumption | split | with_reducible apply updPort_hostOk | with_reducible apply emit_hostOk
    | with_reducible apply countN_hostOk | with_reducible apply count_hostOk | with_reducible apply HostOk.ite
    | with_reducible apply HostOk.foldl | with_reducible apply HostOk.mk_of | with_reducible rfl | intro _
    | dsimp only

theorem startFrame_hostOk (p q sub : Nat) (s : State) (hs : HostOk s) : HostOk (startFrame p q sub s) := by
  simp only [startFrame]
  repeat' first
    | with_reducible assumption | split | with_reducible apply updPort_hostOk | with_reducible apply rollSa_hostOk
    | with_reducible apply putOnWire_hostOk | with_reducible apply usePn_hostOk
    | with_reducible apply dropUnprotected_hostOk | with_reducible apply HostOk.ite
    | with_reducible apply HostOk.foldl | with_reducible apply HostOk.mk_of | with_reducible rfl | intro _
    | dsimp only

theorem execGateBoundary_hostOk (port : Nat) (s : State) (hs : HostOk s) : ∃ σ, execGateBoundary port s = .next σ ∧
    HostOk σ := by
  obtain ⟨σ, h1, h2⟩ := execGateBoundary_look (fun s => (s.counters, s.hi)) (fun _ _ => rfl) port s
  exact ⟨σ, h1, hs.of_look h2⟩

theorem execGateOperative_hostOk (port : Nat) (s : State) (hs : HostOk s) : ∃ σ, execGateOperative port s = .next σ ∧
    HostOk σ := by
  refine ⟨_, rfl, ?_⟩; repeat' first
    | with_reducible assumption | split | with_reducible apply operatePending_hostOk
    | with_reducible apply putGate_hostOk | with_reducible apply updPort_hostOk | with_reducible apply HostOk.ite
    | with_reducible apply HostOk.foldl | with_reducible apply HostOk.mk_of | with_reducible rfl | intro _
    | dsimp only

theorem execTxFrameStart_hostOk (port : Nat) (q : FrameStart) (s : State) (hs : HostOk s) : ∃ σ, execTxFrameStart port q s = .next σ ∧ HostOk σ := by
  refine ⟨_, rfl, ?_⟩; repeat' first
    | with_reducible assumption | split | with_reducible apply startFrame_hostOk | with_reducible apply HostOk.ite
    | with_reducible apply HostOk.foldl | with_reducible apply HostOk.mk_of | with_reducible rfl | intro _
    | dsimp only

theorem execPrpSupervisionTx_hostOk (pair : Nat) (s : State) (hs : HostOk s) : ∃ σ, execPrpSupervisionTx pair s =
    .next σ ∧ HostOk σ := by
  refine ⟨_, rfl, ?_⟩; repeat' first
    | with_reducible assumption | split | with_reducible apply sendPair_hostOk | with_reducible apply updPrp_hostOk
    | with_reducible apply HostOk.ite | with_reducible apply HostOk.foldl | with_reducible apply HostOk.mk_of
    | with_reducible rfl | intro _ | dsimp only

end Sys2Proof.Machine
end

