-- ==== Sys2Proof/Laws/OkPublish.lean ====
section
/-! SUPPORT. The operations of Machine/Publish.lean keep the bounds of the host interface (`HostOk`). -/

namespace Sys2Proof.Machine

theorem sendSession_hostOk (x : SessionP) (len : Nat) (words : List Nat) (s : State) (hs : HostOk s) : HostOk
    (sendSession x len words s) := by
  simp only [sendSession]
  repeat' first
    | with_reducible assumption | split | with_reducible apply sendPort_hostOk
    | with_reducible apply sendPair_hostOk | with_reducible apply HostOk.ite | with_reducible apply HostOk.foldl
    | with_reducible apply HostOk.mk_of | with_reducible rfl | intro _ | dsimp only

theorem publishSession_hostOk (n gid : Nat) (i : Instant) (cells : Tbl Cell) (amend : Bool) (s : State) (hs : HostOk
    s) : HostOk (publishSession n gid i cells amend s) := by
  simp only [publishSession]
  repeat' first
    | with_reducible assumption | split | with_reducible apply count_hostOk
    | with_reducible apply sendSession_hostOk | with_reducible apply HostOk.ite | with_reducible apply HostOk.foldl
    | with_reducible apply HostOk.mk_of | with_reducible rfl | intro _ | dsimp only

theorem execPublishInstant_hostOk (gid index : Nat) (s : State) (hs : HostOk s) : ∃ σ, execPublishInstant gid index s
    = .next σ ∧ HostOk σ := by
  refine ⟨_, rfl, ?_⟩
  split
  · exact hs
  · split
    · exact hs
    · dsimp only
      exact freeHold_hostOk _ _ _ _ (HostOk.foldl _ _ (fun _ _ h => publishSession_hostOk _ _ _ _ _ _ h) (readMembers_hostOk _ _ _ hs))

end Sys2Proof.Machine
end

