-- ==== Sys2Proof/Laws/OkErg.lean ====
section
/-! SUPPORT. The operations of Machine/Erg.lean keep the bounds of the host interface (`HostOk`). -/

namespace Sys2Proof.Machine

theorem openInstant_hostOk (gid k : Nat) (s : State) (hs : HostOk s) : HostOk (openInstant gid k s) :=
  hs.of_look (openInstant_look _ (fun _ _ => rfl) gid k s)

theorem countRelease_hostOk (gid : Nat) (i : Instant) (s : State) (hs : HostOk s) : HostOk (countRelease gid i s) :=
    by
  simp only [countRelease]
  repeat' first
    | with_reducible assumption | split | with_reducible apply count_hostOk | with_reducible apply countN_hostOk
    | with_reducible apply HostOk.ite | with_reducible apply HostOk.foldl | with_reducible apply HostOk.mk_of
    | with_reducible rfl | intro _ | dsimp only

theorem releaseInstant_hostOk (gid k : Nat) (byDeadline : Bool) (s : State) (hs : HostOk s) : HostOk (releaseInstant
    gid k byDeadline s) := by
  simp only [releaseInstant]
  repeat' first
    | with_reducible assumption | split | with_reducible apply markFrozen_hostOk
    | with_reducible apply countRelease_hostOk | with_reducible apply setGroup_hostOk
    | with_reducible apply freeInstant_hostOk | with_reducible apply startBound_hostOk
    | with_reducible apply HostOk.ite | with_reducible apply HostOk.foldl | with_reducible apply HostOk.mk_of
    | with_reducible rfl | intro _ | dsimp only

theorem releaseChain_hostOk (gid : Nat) (x0 : Nat) (s : State) (hs : HostOk s) : HostOk (releaseChain gid x0 s) := by
  induction x0 generalizing s with
  | zero => exact hs
  | succ n ih =>
    unfold releaseChain
    split
    · split
      · exact ih _ (releaseInstant_hostOk _ _ _ _ hs)
      · exact hs
    · exact hs

theorem releaseDue_hostOk (gid : Nat) (t : Int) (x0 : Nat) (s : State) (hs : HostOk s) : HostOk (releaseDue gid t x0 s) := by
  induction x0 generalizing s with
  | zero => exact hs
  | succ n ih =>
    unfold releaseDue
    split
    · split
      · exact ih _ (releaseInstant_hostOk _ _ _ _ hs)
      · exact hs
    · exact hs

theorem releaseAll_hostOk (gid : Nat) (s : State) (hs : HostOk s) : HostOk (releaseAll gid s) := by
  simp only [releaseAll]
  repeat' first
    | with_reducible assumption | split | with_reducible apply releaseInstant_hostOk
    | with_reducible apply HostOk.ite | with_reducible apply HostOk.foldl | with_reducible apply HostOk.mk_of
    | with_reducible rfl | intro _ | dsimp only

theorem closeBatch_hostOk (gid : Nat) (i : Instant) (cells : Tbl Cell) (s : State) (hs : HostOk s) : HostOk
    (closeBatch gid i cells s) := by
  simp only [closeBatch]
  repeat' first
    | with_reducible assumption | split | with_reducible apply readCells_hostOk
    | with_reducible apply publishSession_hostOk | with_reducible apply recordLate_hostOk
    | with_reducible apply freeCells_hostOk | with_reducible apply count_hostOk | with_reducible apply note_hostOk
    | with_reducible apply retireSpent_hostOk | with_reducible apply updInstant_hostOk
    | with_reducible apply HostOk.ite | with_reducible apply HostOk.foldl | with_reducible apply HostOk.mk_of
    | with_reducible rfl | intro _ | dsimp only

theorem flushLates_hostOk (gid k : Nat) (s : State) (hs : HostOk s) : HostOk (flushLates gid k s) := by
  simp only [flushLates]
  repeat' first
    | with_reducible assumption | split | with_reducible apply freeCells_hostOk
    | with_reducible apply recordLate_hostOk | with_reducible apply retireSpent_hostOk
    | with_reducible apply updInstant_hostOk | with_reducible apply HostOk.ite | with_reducible apply HostOk.foldl
    | with_reducible apply HostOk.mk_of | with_reducible rfl | intro _ | dsimp only

theorem noCell_hostOk (gid : Nat) (s : State) (hs : HostOk s) : HostOk (noCell gid s) := by
  simp only [noCell]
  repeat' first
    | with_reducible assumption | split | with_reducible apply count_hostOk | with_reducible apply note_hostOk
    | with_reducible apply HostOk.ite | with_reducible apply HostOk.foldl | with_reducible apply HostOk.mk_of
    | with_reducible rfl | intro _ | dsimp only

theorem lateRecord_hostOk (gid k sid : Nat) (c : Cell) (s : State) (hs : HostOk s) : HostOk (lateRecord gid k sid c s)
    := by
  simp only [lateRecord]
  repeat' first
    | with_reducible assumption | split | with_reducible apply count_hostOk | with_reducible apply noCell_hostOk
    | with_reducible apply allocCell_hostOk | with_reducible apply updInstant_hostOk
    | with_reducible apply HostOk.ite | with_reducible apply HostOk.foldl | with_reducible apply HostOk.mk_of
    | with_reducible rfl | intro _ | dsimp only

theorem lateAmend_hostOk (gid sid : Nat) (i : Instant) (c : Cell) (s : State) (hs : HostOk s) : HostOk (lateAmend gid
    sid i c s) := by
  simp only [lateAmend]
  repeat' first
    | with_reducible assumption | split | with_reducible apply lateRecord_hostOk | with_reducible apply count_hostOk
    | with_reducible apply noCell_hostOk | with_reducible apply allocCell_hostOk
    | with_reducible apply updInstant_hostOk | with_reducible apply HostOk.ite | with_reducible apply HostOk.foldl
    | with_reducible apply HostOk.mk_of | with_reducible rfl | intro _ | dsimp only

theorem lateCell_hostOk (gid sid : Nat) (i : Instant) (c : Cell) (s : State) (hs : HostOk s) : HostOk (lateCell gid
    sid i c s) := by
  simp only [lateCell]
  repeat' first
    | with_reducible assumption | split | with_reducible apply updInstant_hostOk | with_reducible apply count_hostOk
    | with_reducible apply lateAmend_hostOk | with_reducible apply lateRecord_hostOk
    | with_reducible apply HostOk.ite | with_reducible apply HostOk.foldl | with_reducible apply HostOk.mk_of
    | with_reducible rfl | intro _ | dsimp only

theorem storeCell_hostOk (gid k sid : Nat) (c : Cell) (s : State) (hs : HostOk s) : HostOk (storeCell gid k sid c s)
    := by
  simp only [storeCell]
  repeat' first
    | with_reducible assumption | split | with_reducible apply noCell_hostOk | with_reducible apply allocCell_hostOk
    | with_reducible apply updInstant_hostOk | with_reducible apply HostOk.ite | with_reducible apply HostOk.foldl
    | with_reducible apply HostOk.mk_of | with_reducible rfl | intro _ | dsimp only

theorem writeCell_hostOk (gid : Nat) (k : Int) (sid : Nat) (c : Cell) (s : State) (hs : HostOk s) : HostOk (writeCell
    gid k sid c s) := by
  simp only [writeCell]
  repeat' first
    | with_reducible assumption | split | with_reducible apply count_hostOk | with_reducible apply storeCell_hostOk
    | with_reducible apply lateCell_hostOk | with_reducible apply HostOk.ite | with_reducible apply HostOk.foldl
    | with_reducible apply HostOk.mk_of | with_reducible rfl | intro _ | dsimp only

theorem skipInstants_hostOk (gid first n : Nat) (s : State) (hs : HostOk s) : HostOk (skipInstants gid first n s) :=
    by
  simp only [skipInstants]
  repeat' first
    | with_reducible assumption | split | with_reducible apply countN_hostOk | with_reducible apply note_hostOk
    | with_reducible apply recordGap_hostOk | with_reducible apply HostOk.ite | with_reducible apply HostOk.foldl
    | with_reducible apply HostOk.mk_of | with_reducible rfl | intro _ | dsimp only

theorem openRelease_hostOk (gid n k : Nat) (s : State) (hs : HostOk s) : HostOk (openRelease gid n k s) := by
  induction n generalizing k s with
  | zero => simpa [openRelease] using hs
  | succ n ih => simp only [openRelease]; exact ih _ _ (releaseInstant_hostOk _ _ _ _ (openInstant_hostOk _ _ _ hs))

theorem catchUp_hostOk (gid : Nat) (s : State) (hs : HostOk s) : HostOk (catchUp gid s) := by
  simp only [catchUp]
  repeat' first
    | with_reducible assumption | split | with_reducible apply releaseDue_hostOk
    | with_reducible apply setGroup_hostOk | with_reducible apply skipInstants_hostOk
    | with_reducible apply openRelease_hostOk | with_reducible apply HostOk.ite | with_reducible apply HostOk.foldl
    | with_reducible apply HostOk.mk_of | with_reducible rfl | intro _ | dsimp only

theorem ergTick_hostOk (s : State) (hs : HostOk s) : HostOk (ergTick s) := by
  simp only [ergTick]
  repeat' first
    | with_reducible assumption | split | with_reducible apply catchUp_hostOk
    | with_reducible apply flushLates_hostOk | with_reducible apply HostOk.ite | with_reducible apply HostOk.foldl
    | with_reducible apply HostOk.mk_of | with_reducible rfl | intro _ | dsimp only

theorem ergStep_hostOk (s : State) (hs : HostOk s) : HostOk (ergStep s) := by
  simp only [ergStep]
  repeat' first
    | with_reducible assumption | split | with_reducible apply note_hostOk | with_reducible apply setGroup_hostOk
    | with_reducible apply HostOk.ite | with_reducible apply HostOk.foldl | with_reducible apply HostOk.mk_of
    | with_reducible rfl | intro _ | dsimp only

theorem ergFreeze_hostOk (s : State) (hs : HostOk s) : HostOk (ergFreeze s) :=
  hs.of_look (ergFreeze_look _ (fun _ _ => rfl) s)

theorem discardInstants_hostOk (gid : Nat) (s : State) (hs : HostOk s) : HostOk (discardInstants gid s) := by
  simp only [discardInstants]
  repeat' first
    | with_reducible assumption | split | with_reducible apply countN_hostOk | with_reducible apply freeCells_hostOk
    | with_reducible apply setGroup_hostOk | with_reducible apply HostOk.ite | with_reducible apply HostOk.foldl
    | with_reducible apply HostOk.mk_of | with_reducible rfl | intro _ | dsimp only

theorem discardAll_hostOk (s : State) (hs : HostOk s) : HostOk (discardAll s) := by
  simp only [discardAll]
  repeat' first
    | with_reducible assumption | split | with_reducible apply discardInstants_hostOk
    | with_reducible apply HostOk.ite | with_reducible apply HostOk.foldl | with_reducible apply HostOk.mk_of
    | with_reducible rfl | intro _ | dsimp only

theorem ergResume_hostOk (s : State) (hs : HostOk s) : HostOk (ergResume s) :=
  hs.of_look (ergResume_look _ (fun _ _ => rfl) s)

theorem shedGroup_hostOk (gid : Nat) (s : State) (hs : HostOk s) : HostOk (shedGroup gid s) := by
  simp only [shedGroup]
  repeat' first
    | with_reducible assumption | split | with_reducible apply releaseAll_hostOk
    | with_reducible apply setGroup_hostOk | with_reducible apply recordGap_hostOk
    | with_reducible apply note_hostOk | with_reducible apply HostOk.ite | with_reducible apply HostOk.foldl
    | with_reducible apply HostOk.mk_of | with_reducible rfl | intro _ | dsimp only

theorem revokeSessions_hostOk (slot : Nat) (s : State) (hs : HostOk s) : HostOk (revokeSessions slot s) := by
  simp only [revokeSessions]
  repeat' first
    | with_reducible assumption | split | with_reducible apply note_hostOk | with_reducible apply HostOk.ite
    | with_reducible apply HostOk.foldl | with_reducible apply HostOk.mk_of | with_reducible rfl | intro _
    | dsimp only

theorem execInstantOpen_hostOk (gid : Nat) (s : State) (hs : HostOk s) : ∃ σ, execInstantOpen gid s = .next σ ∧ HostOk
    σ := by
  obtain ⟨σ, h1, h2⟩ := execInstantOpen_look (fun s => (s.counters, s.hi)) (fun _ _ => rfl) gid s
  exact ⟨σ, h1, hs.of_look h2⟩

theorem execEarlyRelease_hostOk (gid : Nat) (s : State) (hs : HostOk s) : ∃ σ, execEarlyRelease gid s = .next σ ∧
    HostOk σ := by
  refine ⟨_, rfl, ?_⟩; repeat' first
    | with_reducible assumption | split | with_reducible apply releaseChain_hostOk | with_reducible apply HostOk.ite
    | with_reducible apply HostOk.foldl | with_reducible apply HostOk.mk_of | with_reducible rfl | intro _
    | dsimp only

theorem execDeadlineRelease_hostOk (gid : Nat) (s : State) (hs : HostOk s) : ∃ σ, execDeadlineRelease gid s = .next σ
    ∧ HostOk σ := by
  refine ⟨_, rfl, ?_⟩; repeat' first
    | with_reducible assumption | split | with_reducible apply releaseChain_hostOk
    | with_reducible apply releaseInstant_hostOk | with_reducible apply HostOk.ite
    | with_reducible apply HostOk.foldl | with_reducible apply HostOk.mk_of | with_reducible rfl | intro _
    | dsimp only

theorem execCellHoldExpiry_hostOk (gid index : Nat) (s : State) (hs : HostOk s) : ∃ σ, execCellHoldExpiry gid index s
    = .next σ ∧ HostOk σ := by
  obtain ⟨σ, h1, h2⟩ := execCellHoldExpiry_look (fun s => (s.counters, s.hi)) (fun _ _ => rfl) gid index s
  exact ⟨σ, h1, hs.of_look h2⟩

theorem execInstantRetire_hostOk (gid index : Nat) (s : State) (hs : HostOk s) : ∃ σ, execInstantRetire gid index s =
    .next σ ∧ HostOk σ := by
  obtain ⟨σ, h1, h2⟩ := execInstantRetire_look (fun s => (s.counters, s.hi)) (fun _ _ => rfl) gid index s
  exact ⟨σ, h1, hs.of_look h2⟩

theorem execAmendBatchClose_hostOk (gid index : Nat) (s : State) (hs : HostOk s) : ∃ σ, execAmendBatchClose gid index
    s = .next σ ∧ HostOk σ := by
  refine ⟨_, rfl, ?_⟩; repeat' first
    | with_reducible assumption | split | with_reducible apply closeBatch_hostOk | with_reducible apply HostOk.ite
    | with_reducible apply HostOk.foldl | with_reducible apply HostOk.mk_of | with_reducible rfl | intro _
    | dsimp only

end Sys2Proof.Machine
end

