-- ==== Sys2Proof/Laws/OkAdmission.lean ====
section
/-! SUPPORT. The operations of Machine/Admission.lean keep the bounds of the host interface (`HostOk`). -/

namespace Sys2Proof.Machine

theorem shedJobs_hostOk (x0 : Nat) (s : State) (hs : HostOk s) : HostOk (shedJobs x0 s) := by
  induction x0 generalizing s with
  | zero => exact hs
  | succ n ih =>
    unfold shedJobs
    split
    · exact hs
    · split
      · exact hs
      · split
        · exact hs
        · exact ih _ (note_hostOk _ _ _ _ _ _ (count_hostOk _ _ (setJob_hostOk _ _ _ hs)))

theorem shedGroups_hostOk (x0 : List Nat) (s : State) (hs : HostOk s) : HostOk (shedGroups x0 s) := by
  induction x0 generalizing s with
  | nil => exact hs
  | cons g gs ih =>
    unfold shedGroups
    split
    · exact hs
    · exact ih _ (shedGroup_hostOk _ _ hs)

theorem capacityFell_hostOk (s : State) (hs : HostOk s) : HostOk (capacityFell s) := by
  simp only [capacityFell]
  repeat' first
    | with_reducible assumption | split | with_reducible apply shedJobs_hostOk | with_reducible apply reMode_hostOk
    | with_reducible apply shedGroups_hostOk | with_reducible apply HostOk.ite | with_reducible apply HostOk.foldl
    | with_reducible apply HostOk.mk_of | with_reducible rfl | intro _ | dsimp only

end Sys2Proof.Machine
end

