-- ==== Sys2Proof/Laws/OkSleep.lean ====
section
/-! SUPPORT. The operations of Machine/Sleep.lean keep the bounds of the host interface (`HostOk`). -/

namespace Sys2Proof.Machine

theorem dozeGap_hostOk (s : State) (hs : HostOk s) : HostOk (dozeGap s) := by
  simp only [dozeGap]
  repeat' first
    | with_reducible assumption | split | with_reducible apply setChan_hostOk | with_reducible apply gapRings_hostOk
    | with_reducible apply bumpFree_hostOk | with_reducible apply HostOk.ite | with_reducible apply HostOk.foldl
    | with_reducible apply HostOk.mk_of | with_reducible rfl | intro _ | dsimp only

theorem sleepRefused_hostOk (block reason : Nat) (s : State) (hs : HostOk s) : HostOk (sleepRefused block reason s) :=
    by
  simp only [sleepRefused]
  repeat' first
    | with_reducible assumption | split | with_reducible apply ergResume_hostOk
    | with_reducible apply dozeGap_hostOk | with_reducible apply finalCompletion_hostOk
    | with_reducible apply count_hostOk | with_reducible apply note_hostOk | with_reducible apply HostOk.ite
    | with_reducible apply HostOk.foldl | with_reducible apply HostOk.mk_of | with_reducible rfl | intro _
    | dsimp only

theorem haltSleep_hostOk (reason : Nat) (s : State) (hs : HostOk s) : HostOk (haltSleep reason s) :=
  hs.of_look (haltSleep_look _ (fun _ _ => rfl) reason s)

theorem endHalted_hostOk (reason : Nat) (s : State) (hs : HostOk s) : HostOk (endHalted reason s) := by
  simp only [endHalted]
  repeat' first
    | with_reducible assumption | split | with_reducible apply sleepRefused_hostOk | with_reducible apply HostOk.ite
    | with_reducible apply HostOk.foldl | with_reducible apply HostOk.mk_of | with_reducible rfl | intro _
    | dsimp only

end Sys2Proof.Machine
end

