-- ==== Sys2Proof/Laws/OkCommand.lean ====
section
/-! SUPPORT. The operations of Machine/Command.lean keep the bounds of the host interface (`HostOk`). -/

namespace Sys2Proof.Machine

theorem turnedAway_hostOk (h : Hdr) (c : CmdSpec) (s : State) (hs : HostOk s) : HostOk (turnedAway h c s) := by
  simp only [turnedAway]
  repeat' first
    | with_reducible assumption | split | with_reducible apply dmaErr_hostOk
    | with_reducible apply authFailure_hostOk | with_reducible apply HostOk.ite | with_reducible apply HostOk.foldl
    | with_reducible apply HostOk.mk_of | with_reducible rfl | intro _ | dsimp only

theorem fireVector_ops (v : Nat) (s : State) : (fireVector v s).hi.ops = s.hi.ops := by
  unfold fireVector
  split
  · rfl
  · split <;> rfl

theorem admitOnly_ops (r : EvRec) (s : State) : (admitOnly r s).hi.ops = s.hi.ops := by
  have hd : ∀ (m n : Nat) (t : State), (if m < n then dropOne t else t).hi.ops = t.hi.ops := by
    intro m n t; split
    · exact dropOne_look (fun s => s.hi.ops) (fun _ _ _ => rfl) t
    · rfl
  unfold admitOnly; dsimp only
  split
  · exact loseRecord_look (fun s => s.hi.ops) (fun _ _ _ => rfl) _ _
  · generalize ht : (if 4096 < bufferedLines (if 4096 < bufferedLines s.ev + r.lines then dropOne s else s).ev + r.lines then
        dropOne (if 4096 < bufferedLines s.ev + r.lines then dropOne s else s)
      else (if 4096 < bufferedLines s.ev + r.lines then dropOne s else s)) = t
    have h : t.hi.ops = s.hi.ops := by rw [← ht]; exact (hd _ _ _).trans (hd _ _ _)
    (repeat' split) <;> first | exact h | exact (fireVector_ops _ _).trans h

theorem closeRecord_ops (r : EvRec) (s : State) : (closeRecord r s).hi.ops = s.hi.ops := by
  have hc : ∀ (l : List OpenRec) (t : State), (l.foldl (fun s o => admitOnly o.entry s) t).hi.ops = t.hi.ops := fun l t =>
    foldl_keep (fun s : State => s.hi.ops) l _ t (fun t o => admitOnly_ops o.entry t)
  have hf : ∀ t, (startFlush t).hi.ops = t.hi.ops := startFlush_look (fun s => s.hi.ops) (fun _ _ _ => rfl)
  unfold closeRecord; dsimp only
  split
  · unfold flushTrigger closeAll; dsimp only
    rw [hf]; dsimp only
    rw [hc]; exact admitOnly_ops _ _
  · exact admitOnly_ops _ _

theorem count_ops (a : Nat) (s : State) : (count a s).hi.ops = s.hi.ops := count_look (fun s => s.hi.ops) (fun _ _ => rfl) a s

theorem report_ops (source code severity arg : Nat) (ext : Option (List Nat)) (s : State) :
    (report source code severity arg ext s).hi.ops = s.hi.ops := by
  unfold report; dsimp only
  split
  · exact closeRecord_ops _ _
  · unfold coalesce; dsimp only
    (repeat' split) <;> first
      | rfl
      | exact (closeRecord_ops _ _).trans (closeRecord_ops _ _)
      | exact (closeRecord_ops _ _).trans (count_ops _ _)
      | exact closeRecord_ops _ _
      | exact count_ops _ _

theorem notify_ops (q source code severity arg : Nat) (s : State) : (notify q source code severity arg s).hi.ops = s.hi.ops := by
  unfold notify; dsimp only
  split
  · rfl
  · split
    · exact fireVector_ops _ _
    · rfl

theorem note_ops (q source code severity arg : Nat) (s : State) : (note q source code severity arg s).hi.ops = s.hi.ops :=
  (report_ops _ _ _ _ _ _).trans (notify_ops _ _ _ _ _ _)

theorem consumeTag_ops (h : Hdr) (s : State) : (consumeTag h s).hi.ops = s.hi.ops := by
  unfold consumeTag
  split
  · rfl
  · dsimp only
    split
    · split
      · exact (note_ops _ _ _ _ _ _).trans (count_ops 0x10D000 s)
      · exact count_ops 0x10D000 s
    · split
      · exact count_ops 0x10D000 s
      · exact count_ops 0x10D000 s

theorem acceptWaking_hostOk (h : Hdr) (dead : Bool) (c : CmdSpec) (cmd : Instr) (s : State) (hs : HostOk s) :
    HostOk (acceptWaking h dead c cmd s) := by
  unfold acceptWaking
  split
  · exact firstCompletion_hostOk _ _ _ _ _ _ hs
  · exact requestWake_hostOk _ _ (firstCompletion_hostOk _ _ _ _ _ _ (openHandle_hostOk _ _ _ _ _ _ (consumeTag_hostOk _ _ hs)
      (by rw [consumeTag_ops]; omega)))

theorem replyAccepted_hostOk (h : Hdr) (dead : Bool) (c : CmdSpec) (cmd : Instr) (phase : Phase) (first : State → Nat)
    (start : Nat → State → State) (missed : State → State) (s : State) (hs : HostOk s)
    (hst : ∀ k t, HostOk t → HostOk (start k t)) (hm : ∀ t, HostOk t → HostOk (missed t)) :
    HostOk (replyAccepted h dead c cmd phase first start missed s) := by
  unfold replyAccepted
  dsimp only
  split
  · exact firstCompletion_hostOk _ _ _ _ _ _ (hm _ hs)
  · split
    · exact firstCompletion_hostOk _ _ _ _ _ _ hs
    · exact hst _ _ (firstCompletion_hostOk _ _ _ _ _ _ (openHandle_hostOk _ _ _ _ _ _ (consumeTag_hostOk _ _ hs)
        (by rw [consumeTag_ops]; omega)))

theorem replyDone_hostOk (h : Hdr) (dead : Bool) (cls : Nat) (after : State → State) (r : Reply) (hs : HostOk r.state)
    (ha : ∀ t, HostOk t → HostOk (after t)) : HostOk (replyDone h dead cls after r) := by
  unfold replyDone
  split
  · exact ha _ (firstCompletion_hostOk _ _ _ _ _ _ (consumeTag_hostOk _ _ hs))
  · exact firstCompletion_hostOk _ _ _ _ _ _ hs

theorem runDone_hostOk (h : Hdr) (c : CmdSpec) (cmd : Instr) (body : State → Reply) (after : State → State) (s : State)
    (hs : HostOk s) (hb : ∀ t, HostOk t → HostOk (body t).state) (ha : ∀ t, HostOk t → HostOk (after t)) :
    HostOk (runDone h c cmd body after s) := by
  have ht := takeHead_hostOk h.src s hs
  unfold runDone
  split
  · exact hs
  · dsimp only
    split
    · exact firstCompletion_hostOk _ _ _ _ _ _ (turnedAway_hostOk _ _ _ ht)
    · exact acceptWaking_hostOk _ _ _ _ _ ht
    · exact replyDone_hostOk _ _ _ _ _ (hb _ ht) ha
    · exact replyDone_hostOk _ _ _ _ _ (hb _ (sleepRefused_hostOk _ _ _ ht)) ha

theorem runAccepted_hostOk (h : Hdr) (c : CmdSpec) (cmd : Instr) (phase : Phase) (first : State → Nat)
    (start : Nat → State → State) (missed : State → State) (s : State) (hs : HostOk s)
    (hst : ∀ k t, HostOk t → HostOk (start k t)) (hm : ∀ t, HostOk t → HostOk (missed t)) :
    HostOk (runAccepted h c cmd phase first start missed s) := by
  have ht := takeHead_hostOk h.src s hs
  unfold runAccepted
  split
  · exact hs
  · dsimp only
    split
    · exact firstCompletion_hostOk _ _ _ _ _ _ (turnedAway_hostOk _ _ _ ht)
    · exact acceptWaking_hostOk _ _ _ _ _ ht
    · exact replyAccepted_hostOk _ _ _ _ _ _ _ _ _ ht hst hm
    · exact replyAccepted_hostOk _ _ _ _ _ _ _ _ _ (sleepRefused_hostOk _ _ _ ht) hst hm

/-- The work of a host command keeps the bounds of the host interface, whatever the state. -/
def Work.Ok : Work → Prop
  | .done body after => (∀ t, HostOk t → HostOk (body t).state) ∧ ∀ t, HostOk t → HostOk (after t)
  | .accepted _ _ start missed => (∀ k t, HostOk t → HostOk (start k t)) ∧ ∀ t, HostOk t → HostOk (missed t)

theorem Work.later_ok (first : State → Nat) : (later first).Ok := ⟨fun _ _ h => h, fun _ h => h⟩

theorem runProc_hostOk (cmd : Instr) (p : Proc) {s : State} (h : p.work.Ok) (hs : HostOk s) : HostOk (runProc cmd p s) := by
  unfold runProc
  unfold Work.Ok at h
  split <;> simp_all only
  · exact runDone_hostOk _ _ _ _ _ _ hs h.1 h.2
  · exact runAccepted_hostOk _ _ _ _ _ _ _ _ hs h.1 h.2

theorem refuse_hostOk {bad : Bool} {st : Nat} {body : State → Reply} {s : State} (hs : HostOk s) (hb : HostOk (body s).state) :
    HostOk (refuseIf bad st body s).state := by
  unfold refuseIf
  split
  · exact hs
  · exact hb

theorem hostOut_hostOk (addr kind : Nat) (words : List Nat) (s : State) (hs : HostOk s) : HostOk (hostOut addr kind
    words s) :=
  hs.of_look (hostOut_look _ (fun _ _ => rfl) addr kind words s)

end Sys2Proof.Machine
end

