-- ==== Sys2Proof/Laws/OkOutage.lean ====
section
/-! SUPPORT. The operations of Machine/Outage.lean keep the bounds of the host interface (`HostOk`). -/

namespace Sys2Proof.Machine

theorem updElem_hostOk (e : Nat) (f : Elem → Elem) (s : State) (hs : HostOk s) : HostOk (updElem e f s) :=
  hs.of_look (updElem_look _ (fun _ _ => rfl) e f s)

theorem updMChan_hostOk (c : Nat) (f : MChan → MChan) (s : State) (hs : HostOk s) : HostOk (updMChan c f s) :=
  hs.of_look (updMChan_look _ (fun _ _ => rfl) c f s)

theorem meterOutage_hostOk (e : Nat) (power : Rat) (ms : Nat) (s : State) (hs : HostOk s) : HostOk (meterOutage e
    power ms s) := by
  simp only [meterOutage]
  repeat' first
    | with_reducible assumption | split | with_reducible apply noteExt_hostOk | with_reducible apply HostOk.ite
    | with_reducible apply HostOk.foldl | with_reducible apply HostOk.mk_of | with_reducible rfl | intro _
    | dsimp only

theorem energyUnsaved_hostOk (e mask : Nat) (power : Rat) (ms : Nat) (s : State) (hs : HostOk s) : HostOk
    (energyUnsaved e mask power ms s) := by
  simp only [energyUnsaved]
  repeat' first
    | with_reducible assumption | split | with_reducible apply noteExt_hostOk | with_reducible apply HostOk.ite
    | with_reducible apply HostOk.foldl | with_reducible apply HostOk.mk_of | with_reducible rfl | intro _
    | dsimp only

theorem outageStep_hostOk (d : Int) (s : State) (hs : HostOk s) : HostOk (outageStep d s) := by
  simp only [outageStep]
  repeat' first
    | with_reducible assumption | split | with_reducible apply meterOutage_hostOk
    | with_reducible apply updElem_hostOk | with_reducible apply HostOk.ite | with_reducible apply HostOk.foldl
    | with_reducible apply HostOk.mk_of | with_reducible rfl | intro _ | dsimp only

theorem outageBlock_hostOk (e : Nat) (s : State) (hs : HostOk s) : HostOk (outageBlock e s) := by
  simp only [outageBlock]
  repeat' first
    | with_reducible assumption | split | with_reducible apply meterOutage_hostOk
    | with_reducible apply updElem_hostOk | with_reducible apply HostOk.ite | with_reducible apply HostOk.foldl
    | with_reducible apply HostOk.mk_of | with_reducible rfl | intro _ | dsimp only

end Sys2Proof.Machine
end

