-- ==== Sys2Proof/Laws/OkEnergy.lean ====
section
/-! SUPPORT. The operations of Machine/Energy.lean keep the bounds of the host interface (`HostOk`). -/

namespace Sys2Proof.Machine

theorem addPulses_hostOk (e r units : Nat) (s : State) (hs : HostOk s) : HostOk (addPulses e r units s) := by
  simp only [addPulses]
  repeat' first
    | with_reducible assumption | split | with_reducible apply countN_hostOk | with_reducible apply note_hostOk
    | with_reducible apply HostOk.ite | with_reducible apply HostOk.foldl | with_reducible apply HostOk.mk_of
    | with_reducible rfl | intro _ | dsimp only

theorem accumulate_hostOk (e r : Nat) (aj : Nat) (s : State) (hs : HostOk s) : HostOk (accumulate e r aj s) := by
  simp only [accumulate]
  repeat' first
    | with_reducible assumption | split | with_reducible apply addPulses_hostOk
    | with_reducible apply updElem_hostOk | with_reducible apply note_hostOk | with_reducible apply countN_hostOk
    | with_reducible apply HostOk.ite | with_reducible apply HostOk.foldl | with_reducible apply HostOk.mk_of
    | with_reducible rfl | intro _ | dsimp only

theorem addBlock_hostOk (e : Nat) (s : State) (a : Nat × Nat) (hs : HostOk s) : HostOk (addBlock e s a) := by
  simp only [addBlock]
  repeat' first
    | with_reducible assumption | split | with_reducible apply accumulate_hostOk | with_reducible apply HostOk.ite
    | with_reducible apply HostOk.foldl | with_reducible apply HostOk.mk_of | with_reducible rfl | intro _
    | dsimp only

theorem keepBlock_hostOk (e : Nat) (p q : Int) (es : Nat) (durNs : Rat) (noload : Bool) (s : State) (hs : HostOk s) :
    HostOk (keepBlock e p q es durNs noload s) := by
  simp only [keepBlock]
  repeat' first
    | with_reducible assumption | split | with_reducible apply updElem_hostOk | with_reducible apply count_hostOk
    | with_reducible apply addBlock_hostOk | with_reducible apply HostOk.ite | with_reducible apply HostOk.foldl
    | with_reducible apply HostOk.mk_of | with_reducible rfl | intro _ | dsimp only

theorem validBlock_hostOk (e : Nat) (eP eQ : Int) (durNs : Rat) (s : State) (hs : HostOk s) : HostOk (validBlock e eP
    eQ durNs s) := by
  simp only [validBlock]
  repeat' first
    | with_reducible assumption | split | with_reducible apply keepBlock_hostOk | with_reducible apply HostOk.ite
    | with_reducible apply HostOk.foldl | with_reducible apply HostOk.mk_of | with_reducible rfl | intro _
    | dsimp only

theorem endInvalid_hostOk (e : Nat) (s : State) (hs : HostOk s) : HostOk (endInvalid e s) := by
  simp only [endInvalid]
  repeat' first
    | with_reducible assumption | split | with_reducible apply meterOutage_hostOk
    | with_reducible apply updElem_hostOk | with_reducible apply HostOk.ite | with_reducible apply HostOk.foldl
    | with_reducible apply HostOk.mk_of | with_reducible rfl | intro _ | dsimp only

theorem invalidBlock_hostOk (e : Nat) (s : State) (hs : HostOk s) : HostOk (invalidBlock e s) := by
  simp only [invalidBlock]
  repeat' first
    | with_reducible assumption | split | with_reducible apply count_hostOk | with_reducible apply updElem_hostOk
    | with_reducible apply note_hostOk | with_reducible apply HostOk.ite | with_reducible apply HostOk.foldl
    | with_reducible apply HostOk.mk_of | with_reducible rfl | intro _ | dsimp only

theorem endBlock_hostOk (e stop : Nat) (raw : Int × Int) (s : State) (hs : HostOk s) : HostOk (endBlock e stop raw s)
    := by
  simp only [endBlock]
  repeat' first
    | with_reducible assumption | split | with_reducible apply count_hostOk
    | with_reducible apply outageBlock_hostOk | with_reducible apply updElem_hostOk
    | with_reducible apply invalidBlock_hostOk | with_reducible apply validBlock_hostOk
    | with_reducible apply endInvalid_hostOk | with_reducible apply HostOk.ite | with_reducible apply HostOk.foldl
    | with_reducible apply HostOk.mk_of | with_reducible rfl | intro _ | dsimp only

theorem trackFreq_hostOk (e : Nat) (raw : Int) (s : State) (hs : HostOk s) : HostOk (trackFreq e raw s) :=
  hs.of_look (trackFreq_look _ (fun _ _ => rfl) e raw s)

theorem closeBlock_hostOk (e : Nat) (x0 : Nat) (s : State) (hs : HostOk s) : HostOk (closeBlock e x0 s) := by
  induction x0 generalizing s with
  | zero => exact hs
  | succ n ih =>
    have he := fun b p => endBlock_hostOk e b p _ (hs := bumpFree_hostOk _ (bumpFree_hostOk _ hs))
    unfold closeBlock
    repeat' first | with_reducible assumption | split | with_reducible apply ih | with_reducible apply he | dsimp only

theorem closeBlocks_hostOk (s : State) (hs : HostOk s) : HostOk (closeBlocks s) := by
  exact HostOk.foldl _ _ (fun _ _ h => closeBlock_hostOk _ _ _ h) hs

end Sys2Proof.Machine
end

