-- ==== Sys2Proof/Laws/OkFreeze.lean ====
section
/-! SUPPORT. The operations of Machine/Freeze.lean keep the bounds of the host interface (`HostOk`). -/

namespace Sys2Proof.Machine

theorem stopEnergy_hostOk (kind : Nat) (s : State) (hs : HostOk s) : HostOk (stopEnergy kind s) := by
  simp only [stopEnergy]
  repeat' first
    | with_reducible assumption | split | with_reducible apply closeBlocks_hostOk | with_reducible apply HostOk.ite
    | with_reducible apply HostOk.foldl | with_reducible apply HostOk.mk_of | with_reducible rfl | intro _
    | dsimp only

theorem resumeEnergy_hostOk (s : State) (hs : HostOk s) : HostOk (resumeEnergy s) :=
  hs.of_look (resumeEnergy_look _ (fun _ _ => rfl) s)

theorem restartChannels_hostOk (s : State) (hs : HostOk s) : HostOk (restartChannels s) :=
  hs.of_look (restartChannels_look _ (fun _ _ => rfl) s)

theorem clearHistories_hostOk (s : State) (hs : HostOk s) : HostOk (clearHistories s) :=
  hs.of_look (clearHistories_look _ (fun _ _ => rfl) s)

theorem dropLink_hostOk (p : Nat) (s : State) (hs : HostOk s) : HostOk (dropLink p s) := by
  simp only [dropLink]
  repeat' first
    | with_reducible assumption | split | with_reducible apply updPort_hostOk | with_reducible apply note_hostOk
    | with_reducible apply count_hostOk | with_reducible apply HostOk.ite | with_reducible apply HostOk.foldl
    | with_reducible apply HostOk.mk_of | with_reducible rfl | intro _ | dsimp only

theorem dropLinks_hostOk (s : State) (hs : HostOk s) : HostOk (dropLinks s) := by
  simp only [dropLinks]
  repeat' first
    | with_reducible assumption | split | with_reducible apply dropLink_hostOk | with_reducible apply HostOk.ite
    | with_reducible apply HostOk.foldl | with_reducible apply HostOk.mk_of | with_reducible rfl | intro _
    | dsimp only

theorem tetherInvalid_hostOk (s : State) (hs : HostOk s) : HostOk (tetherInvalid s) := by
  simp only [tetherInvalid]
  repeat' first
    | with_reducible assumption | split | with_reducible apply tqUpdate_hostOk | with_reducible apply HostOk.ite
    | with_reducible apply HostOk.foldl | with_reducible apply HostOk.mk_of | with_reducible rfl | intro _
    | dsimp only

theorem stopClocks_hostOk (cause : Nat) (s : State) (hs : HostOk s) : HostOk (stopClocks cause s) := by
  simp only [stopClocks]
  repeat' first
    | with_reducible assumption | split | with_reducible apply ergFreeze_hostOk
    | with_reducible apply stopEnergy_hostOk | with_reducible apply haltSleep_hostOk
    | with_reducible apply note_hostOk | with_reducible apply count_hostOk | with_reducible apply setMode_hostOk
    | with_reducible apply HostOk.ite | with_reducible apply HostOk.foldl | with_reducible apply HostOk.mk_of
    | with_reducible rfl | intro _ | dsimp only

theorem freeze_hostOk (cause : Nat) (s : State) (hs : HostOk s) : HostOk (freeze cause s) := by
  simp only [freeze]
  repeat' first
    | with_reducible assumption | split | with_reducible apply boot_hostOk | with_reducible apply stopClocks_hostOk
    | with_reducible apply HostOk.ite | with_reducible apply HostOk.foldl | with_reducible apply HostOk.mk_of
    | with_reducible rfl | intro _ | dsimp only

theorem thaw_hostOk (byPfw : Bool) (s : State) (hs : HostOk s) : HostOk (thaw byPfw s) := by
  simp only [thaw]
  repeat' first
    | with_reducible assumption | split | with_reducible apply tetherInvalid_hostOk
    | with_reducible apply setMode_hostOk | with_reducible apply note_hostOk
    | with_reducible apply clearHistories_hostOk | with_reducible apply restartChannels_hostOk
    | with_reducible apply endHalted_hostOk | with_reducible apply dropLinks_hostOk
    | with_reducible apply resumeEnergy_hostOk | with_reducible apply HostOk.ite | with_reducible apply HostOk.foldl
    | with_reducible apply HostOk.mk_of | with_reducible rfl | intro _ | dsimp only

theorem execFreezeNAssert_hostOk (low : Bool) (s : State) (hs : HostOk s) : ∃ σ, execFreezeNAssert low s = .next σ ∧
    HostOk σ := by
  refine ⟨_, rfl, ?_⟩; repeat' first
    | with_reducible assumption | split | with_reducible apply freeze_hostOk | with_reducible apply HostOk.ite
    | with_reducible apply HostOk.foldl | with_reducible apply HostOk.mk_of | with_reducible rfl | intro _
    | dsimp only

end Sys2Proof.Machine
end

