-- ==== Sys2Proof/Laws/OkEngines.lean ====
section
/-! SUPPORT. The operations of Machine/Engines.lean keep the bounds of the host interface (`HostOk`). -/

namespace Sys2Proof.Machine

theorem commitTopology_hostOk (i : Inst) (it : Item) (s : State) (hs : HostOk s) : HostOk (commitTopology i it s) :=
    by
  simp only [commitTopology]
  repeat' first
    | with_reducible assumption | split | with_reducible apply onModel_hostOk
    | with_reducible apply topologyPass_hostOk | with_reducible apply HostOk.ite | with_reducible apply HostOk.foldl
    | with_reducible apply HostOk.mk_of | with_reducible rfl | intro _ | dsimp only

theorem commitSolve_hostOk (i : Inst) (it : Item) (r : ItemResult) (sat : Bool) (s : State) (hs : HostOk s) : HostOk
    (commitSolve i it r sat s) := by
  simp only [commitSolve]
  repeat' first
    | with_reducible assumption | split | with_reducible apply onModel_hostOk
    | with_reducible apply stateSolve_hostOk | with_reducible apply HostOk.ite | with_reducible apply HostOk.foldl
    | with_reducible apply HostOk.mk_of | with_reducible rfl | intro _ | dsimp only

theorem commitFast_hostOk (i : Inst) (it : Item) (sat : Bool) (s : State) (hs : HostOk s) : HostOk (commitFast i it
    sat s) := by
  simp only [commitFast]
  repeat' first
    | with_reducible assumption | split | with_reducible apply fastPath_hostOk | with_reducible apply HostOk.ite
    | with_reducible apply HostOk.foldl | with_reducible apply HostOk.mk_of | with_reducible rfl | intro _
    | dsimp only

theorem commitRules_hostOk (i : Inst) (it : Item) (s : State) (hs : HostOk s) : HostOk (commitRules i it s).1 := by
  simp only [commitRules]
  repeat' first
    | with_reducible assumption | split | with_reducible apply decide'_hostOk | with_reducible apply HostOk.ite
    | with_reducible apply HostOk.foldl | with_reducible apply HostOk.mk_of | with_reducible rfl | intro _
    | dsimp only

theorem publishOutputs_hostOk (i : Inst) (it : Item) (r : ItemResult) (sat : Bool) (s : State) (hs : HostOk s) :
    HostOk (publishOutputs i it r sat s).1 := by
  simp only [publishOutputs]
  repeat' first
    | with_reducible assumption | split | with_reducible apply slowPath_hostOk
    | with_reducible apply commitTopology_hostOk | with_reducible apply commitFast_hostOk
    | with_reducible apply commitSolve_hostOk | with_reducible apply commitRules_hostOk
    | with_reducible apply HostOk.ite | with_reducible apply HostOk.foldl | with_reducible apply HostOk.mk_of
    | with_reducible rfl | intro _ | dsimp only

theorem runProgress_hostOk (i : Inst) (s : State) (hs : HostOk s) : HostOk (runProgress i s) := by
  simp only [runProgress]
  repeat' first
    | with_reducible assumption | split | with_reducible apply updOp_hostOk | with_reducible apply HostOk.ite
    | with_reducible apply HostOk.foldl | with_reducible apply HostOk.mk_of | with_reducible rfl | intro _
    | dsimp only

theorem afterCommit_hostOk (i : Inst) (it : Item) (s : State) (hs : HostOk s) : HostOk (afterCommit i it s) := by
  simp only [afterCommit]
  repeat' first
    | with_reducible assumption | split | with_reducible apply updInst_hostOk
    | with_reducible apply runProgress_hostOk | with_reducible apply startInst_hostOk
    | with_reducible apply makeReady_hostOk | with_reducible apply endInst_hostOk | with_reducible apply HostOk.ite
    | with_reducible apply HostOk.foldl | with_reducible apply HostOk.mk_of | with_reducible rfl | intro _
    | dsimp only

theorem runMacs_hostOk (es : List Nat) (ms : List Mac) (s : State) (hs : HostOk s) : HostOk (runMacs es ms s).2 :=
  hs.of_look (runMacs_look _ (fun _ _ => rfl) es ms s)

theorem writeLocal_hostOk (es : List Nat) (ws : List WordWrite) (s : State) (hs : HostOk s) : HostOk (writeLocal es ws
    s) :=
  hs.of_look (writeLocal_look _ (fun _ _ => rfl) es ws s)

theorem writeResident_hostOk (it : Item) (ws : List WordWrite) (s : State) (hs : HostOk s) : HostOk (writeResident it
    ws s) :=
  hs.of_look (writeResident_look _ (fun _ _ => rfl) it ws s)

theorem commitNode_hostOk (i : Inst) (it : Item) (r : ItemResult) (sat : Bool) (s : State) (hs : HostOk s) : HostOk
    (commitNode i it r sat s) := by
  simp only [commitNode]
  repeat' first
    | with_reducible assumption | split | with_reducible apply writeResident_hostOk
    | with_reducible apply dropItem_hostOk | with_reducible apply stopItem_hostOk
    | with_reducible apply publishOutputs_hostOk | with_reducible apply afterCommit_hostOk
    | with_reducible apply freeze_hostOk | with_reducible apply HostOk.ite | with_reducible apply HostOk.foldl
    | with_reducible apply HostOk.mk_of | with_reducible rfl | intro _ | dsimp only

theorem takeOver_hostOk (it : Item) (n spare : Nat) (s : State) (hs : HostOk s) : HostOk (takeOver it n spare s) := by
  simp only [takeOver]
  repeat' first
    | with_reducible assumption | split | with_reducible apply putEngine_hostOk
    | with_reducible apply updItem_hostOk | with_reducible apply count_hostOk | with_reducible apply note_hostOk
    | with_reducible apply HostOk.ite | with_reducible apply HostOk.foldl | with_reducible apply HostOk.mk_of
    | with_reducible rfl | intro _ | dsimp only

theorem requeue_hostOk (it : Item) (n : Nat) (s : State) (hs : HostOk s) : HostOk (requeue it n s) := by
  simp only [requeue]
  repeat' first
    | with_reducible assumption | split | with_reducible apply putEngine_hostOk | with_reducible apply idle_hostOk
    | with_reducible apply count_hostOk | with_reducible apply note_hostOk | with_reducible apply HostOk.ite
    | with_reducible apply HostOk.foldl | with_reducible apply HostOk.mk_of | with_reducible rfl | intro _
    | dsimp only

theorem loseEngine_hostOk (n : Nat) (to' : EngState) (s : State) (hs : HostOk s) : HostOk (loseEngine n to' s) := by
  simp only [loseEngine]
  repeat' first
    | with_reducible assumption | split | with_reducible apply putEngine_hostOk
    | with_reducible apply takeOver_hostOk | with_reducible apply requeue_hostOk | with_reducible apply HostOk.ite
    | with_reducible apply HostOk.foldl | with_reducible apply HostOk.mk_of | with_reducible rfl | intro _
    | dsimp only

theorem retireEngine_hostOk (n : Nat) (s : State) (hs : HostOk s) : HostOk (retireEngine n s) := by
  simp only [retireEngine]
  repeat' first
    | with_reducible assumption | split | with_reducible apply note_hostOk | with_reducible apply updEngine_hostOk
    | with_reducible apply HostOk.ite | with_reducible apply HostOk.foldl | with_reducible apply HostOk.mk_of
    | with_reducible rfl | intro _ | dsimp only

theorem restoreEngine_hostOk (n : Nat) (s : State) (hs : HostOk s) : HostOk (restoreEngine n s) := by
  simp only [restoreEngine]
  repeat' first
    | with_reducible assumption | split | with_reducible apply note_hostOk | with_reducible apply updEngine_hostOk
    | with_reducible apply HostOk.ite | with_reducible apply HostOk.foldl | with_reducible apply HostOk.mk_of
    | with_reducible rfl | intro _ | dsimp only

theorem assignEngines_hostOk (passed : List Nat) (s : State) (hs : HostOk s) : HostOk (assignEngines passed s) :=
  hs.of_look (assignEngines_look _ (fun _ _ => rfl) passed s)

theorem execItemCommit_hostOk (item : Nat) (r : ItemResult) (dataBad : Bool) (s : State) (hs : HostOk s) : ∃ σ,
    execItemCommit item r dataBad s = .next σ ∧ HostOk σ := by
  refine ⟨_, rfl, ?_⟩
  split
  · exact hs
  · split
    · rename_i es _ _ _
      split
      · exact hs
      · have hr := runMacs_hostOk es r.macs (writeLocal es r.lmem s) (writeLocal_hostOk _ _ _ hs)
        generalize runMacs es r.macs (writeLocal es r.lmem s) = v at hr ⊢
        obtain ⟨b, t⟩ := v
        have h1 : ∀ c : Prop, [Decidable c] → HostOk (if c then count 0x107820 t else t) := fun c _ =>
          HostOk.ite (count_hostOk _ _ hr) hr
        dsimp only
        split
        · split
          · exact abortInst_hostOk _ _ _ _ (count_hostOk _ _ (h1 _))
          · exact commitNode_hostOk _ _ _ _ _ (h1 _)
        · split
          · exact failRefac_hostOk _ _ (count_hostOk _ _ (dropItem_hostOk _ _ (stopItem_hostOk _ _ (h1 _))))
          · exact commitRefac_hostOk _ _ (dropItem_hostOk _ _ (stopItem_hostOk _ _ (h1 _)))
    · exact hs

theorem execEngineFault_hostOk (engine kind : Nat) (s : State) (hs : HostOk s) : ∃ σ, execEngineFault engine kind s =
    .next σ ∧ HostOk σ := by
  refine ⟨_, rfl, ?_⟩; repeat' first
    | with_reducible assumption | split | with_reducible apply idle_hostOk | with_reducible apply count_hostOk
    | with_reducible apply bumpFree_hostOk | with_reducible apply note_hostOk
    | with_reducible apply capacityFell_hostOk | with_reducible apply loseEngine_hostOk
    | with_reducible apply HostOk.ite | with_reducible apply HostOk.foldl | with_reducible apply HostOk.mk_of
    | with_reducible rfl | intro _ | dsimp only

theorem execTakeoverResume_hostOk (item : Nat) (s : State) (hs : HostOk s) : ∃ σ, execTakeoverResume item s = .next σ
    ∧ HostOk σ := by
  obtain ⟨σ, h1, h2⟩ := execTakeoverResume_look (fun s => (s.counters, s.hi)) (fun _ _ => rfl) item s
  exact ⟨σ, h1, hs.of_look h2⟩

theorem execFencedSelftestEnd_hostOk (engine : Nat) (pass : Bool) (s : State) (hs : HostOk s) : ∃ σ,
    execFencedSelftestEnd engine pass s = .next σ ∧ HostOk σ := by
  refine ⟨_, rfl, ?_⟩; repeat' first
    | with_reducible assumption | split | with_reducible apply count_hostOk | with_reducible apply updEngine_hostOk
    | with_reducible apply reMode_hostOk | with_reducible apply restoreEngine_hostOk
    | with_reducible apply capacityFell_hostOk | with_reducible apply retireEngine_hostOk
    | with_reducible apply HostOk.ite | with_reducible apply HostOk.foldl | with_reducible apply HostOk.mk_of
    | with_reducible rfl | intro _ | dsimp only

theorem execSpareSelftest_hostOk (engine : Nat) (pass : Bool) (s : State) (hs : HostOk s) : ∃ σ, execSpareSelftest
    engine pass s = .next σ ∧ HostOk σ := by
  refine ⟨_, rfl, ?_⟩; repeat' first
    | with_reducible assumption | split | with_reducible apply count_hostOk
    | with_reducible apply capacityFell_hostOk | with_reducible apply retireEngine_hostOk
    | with_reducible apply HostOk.ite | with_reducible apply HostOk.foldl | with_reducible apply HostOk.mk_of
    | with_reducible rfl | intro _ | dsimp only

end Sys2Proof.Machine
end

