-- ==== Sys2Proof/Laws/OkTime.lean ====
section
/-! SUPPORT. The operations of Machine/Time.lean keep the bounds of the host interface (`HostOk`). -/

namespace Sys2Proof.Machine

theorem tmNote_hostOk (code severity arg : Nat) (s : State) (hs : HostOk s) : HostOk (tmNote code severity arg s) :=
    by
  simp only [tmNote]
  repeat' first
    | with_reducible assumption | split | with_reducible apply note_hostOk | with_reducible apply HostOk.ite
    | with_reducible apply HostOk.foldl | with_reducible apply HostOk.mk_of | with_reducible rfl | intro _
    | dsimp only

theorem updTether_hostOk (f : Tether → Tether) (s : State) (hs : HostOk s) : HostOk (updTether f s) :=
  hs.of_look (updTether_look _ (fun _ _ => rfl) f s)

theorem loadFallback_hostOk (s : State) (hs : HostOk s) : HostOk (loadFallback s) :=
  hs.of_look (loadFallback_look _ (fun _ _ => rfl) s)

theorem setRate_hostOk (new : Nat) (s : State) (hs : HostOk s) : HostOk (setRate new s) :=
  hs.of_look (setRate_look _ (fun _ _ => rfl) new s)

theorem setClass_hostOk (t : Tq) (s : State) (hs : HostOk s) : HostOk (setClass t s) := by
  simp only [setClass]
  repeat' first
    | with_reducible assumption | split | with_reducible apply tqUpdate_hostOk
    | with_reducible apply updTether_hostOk | with_reducible apply HostOk.ite | with_reducible apply HostOk.foldl
    | with_reducible apply HostOk.mk_of | with_reducible rfl | intro _ | dsimp only

theorem noteStep_hostOk (d : Int) (s : State) (hs : HostOk s) : HostOk (noteStep d s) := by
  simp only [noteStep]
  repeat' first
    | with_reducible assumption | split | with_reducible apply noteExt_hostOk | with_reducible apply HostOk.ite
    | with_reducible apply HostOk.foldl | with_reducible apply HostOk.mk_of | with_reducible rfl | intro _
    | dsimp only

theorem moveTime_hostOk (d : Int) (s : State) (hs : HostOk s) : HostOk (moveTime d s) :=
  hs.of_look (moveTime_look _ (fun _ _ => rfl) d s)

theorem stepTime_hostOk (d : Int) (s : State) (hs : HostOk s) : HostOk (stepTime d s) := by
  simp only [stepTime]
  repeat' first
    | with_reducible assumption | split | with_reducible apply moveTime_hostOk
    | with_reducible apply noteStep_hostOk | with_reducible apply count_hostOk
    | with_reducible apply updTether_hostOk | with_reducible apply realignGates_hostOk
    | with_reducible apply ergStep_hostOk | with_reducible apply outageStep_hostOk
    | with_reducible apply setClass_hostOk | with_reducible apply HostOk.ite | with_reducible apply HostOk.foldl
    | with_reducible apply HostOk.mk_of | with_reducible rfl | intro _ | dsimp only

theorem setY_hostOk (y : Rat) (s : State) (hs : HostOk s) : HostOk (setY y s) :=
  hs.of_look (setY_look _ (fun _ _ => rfl) y s)

theorem saveInteg_hostOk (s : State) (hs : HostOk s) : HostOk (saveInteg s) :=
  hs.of_look (saveInteg_look _ (fun _ _ _ => rfl) s)

theorem enterHoldover_hostOk (forced : Bool) (s : State) (hs : HostOk s) : HostOk (enterHoldover forced s) := by
  simp only [enterHoldover]
  repeat' first
    | with_reducible assumption | split | with_reducible apply updTether_hostOk
    | with_reducible apply saveInteg_hostOk | with_reducible apply setY_hostOk
    | with_reducible apply setClass_hostOk | with_reducible apply HostOk.ite | with_reducible apply HostOk.foldl
    | with_reducible apply HostOk.mk_of | with_reducible rfl | intro _ | dsimp only

theorem switchSource_hostOk (src : TimeSource) (s : State) (hs : HostOk s) : HostOk (switchSource src s) := by
  simp only [switchSource]
  repeat' first
    | with_reducible assumption | split | with_reducible apply updTether_hostOk | with_reducible apply tmNote_hostOk
    | with_reducible apply HostOk.ite | with_reducible apply HostOk.foldl | with_reducible apply HostOk.mk_of
    | with_reducible rfl | intro _ | dsimp only

theorem offerSource_hostOk (src : TimeSource) (s : State) (hs : HostOk s) : HostOk (offerSource src s) := by
  simp only [offerSource]
  repeat' first
    | with_reducible assumption | split | with_reducible apply switchSource_hostOk | with_reducible apply HostOk.ite
    | with_reducible apply HostOk.foldl | with_reducible apply HostOk.mk_of | with_reducible rfl | intro _
    | dsimp only

theorem loseSource_hostOk (src : TimeSource) (s : State) (hs : HostOk s) : HostOk (loseSource src s) := by
  simp only [loseSource]
  repeat' first
    | with_reducible assumption | split | with_reducible apply updTether_hostOk
    | with_reducible apply switchSource_hostOk | with_reducible apply enterHoldover_hostOk
    | with_reducible apply HostOk.ite | with_reducible apply HostOk.foldl | with_reducible apply HostOk.mk_of
    | with_reducible rfl | intro _ | dsimp only

theorem noteClamp_hostOk (acts : Bool) (y : Rat) (s : State) (hs : HostOk s) : HostOk (noteClamp acts y s) := by
  simp only [noteClamp]
  repeat' first
    | with_reducible assumption | split | with_reducible apply updTether_hostOk | with_reducible apply count_hostOk
    | with_reducible apply tmNote_hostOk | with_reducible apply HostOk.ite | with_reducible apply HostOk.foldl
    | with_reducible apply HostOk.mk_of | with_reducible rfl | intro _ | dsimp only

theorem slew_hostOk (theta : Int) (nominal : Nat) (s : State) (hs : HostOk s) : HostOk (slew theta nominal s) := by
  simp only [slew]
  repeat' first
    | with_reducible assumption | split | with_reducible apply bumpFree_hostOk | with_reducible apply count_hostOk
    | with_reducible apply updTether_hostOk | with_reducible apply noteClamp_hostOk
    | with_reducible apply setY_hostOk | with_reducible apply HostOk.ite | with_reducible apply HostOk.foldl
    | with_reducible apply HostOk.mk_of | with_reducible rfl | intro _ | dsimp only

theorem onOffset_hostOk (theta : Int) (nominal : Nat) (maySteps : Bool) (s : State) (hs : HostOk s) : HostOk (onOffset
    theta nominal maySteps s) := by
  simp only [onOffset]
  repeat' first
    | with_reducible assumption | split | with_reducible apply updTether_hostOk
    | with_reducible apply stepTime_hostOk | with_reducible apply slew_hostOk | with_reducible apply setClass_hostOk
    | with_reducible apply HostOk.ite | with_reducible apply HostOk.foldl | with_reducible apply HostOk.mk_of
    | with_reducible rfl | intro _ | dsimp only

theorem markQualified_hostOk (src : TimeSource) (s : State) (hs : HostOk s) : HostOk (markQualified src s) :=
  hs.of_look (markQualified_look _ (fun _ _ => rfl) src s)

theorem measure_hostOk (src : TimeSource) (theta : Int) (nominal : Nat) (maySteps : Bool) (s : State) (hs : HostOk s)
    : HostOk (measure src theta nominal maySteps s) := by
  simp only [measure]
  repeat' first
    | with_reducible assumption | split | with_reducible apply offerSource_hostOk
    | with_reducible apply markQualified_hostOk | with_reducible apply count_hostOk
    | with_reducible apply updTether_hostOk | with_reducible apply onOffset_hostOk | with_reducible apply HostOk.ite
    | with_reducible apply HostOk.foldl | with_reducible apply HostOk.mk_of | with_reducible rfl | intro _
    | dsimp only

theorem setUtc_hostOk (ofs : Int) (valid : Bool) (leap : Nat) (s : State) (hs : HostOk s) : HostOk (setUtc ofs valid
    leap s) :=
  hs.of_look (setUtc_look _ (fun _ _ => rfl) ofs valid leap s)

theorem startSelftest_hostOk (s : State) (hs : HostOk s) : HostOk (startSelftest s) :=
  hs.of_look (startSelftest_look _ (fun _ _ => rfl) s)

theorem failMain_hostOk (s : State) (hs : HostOk s) : HostOk (failMain s) := by
  simp only [failMain]
  repeat' first
    | with_reducible assumption | split | with_reducible apply reMode_hostOk | with_reducible apply tqUpdate_hostOk
    | with_reducible apply tmNote_hostOk | with_reducible apply HostOk.ite | with_reducible apply HostOk.foldl
    | with_reducible apply HostOk.mk_of | with_reducible rfl | intro _ | dsimp only

theorem restoreMain_hostOk (s : State) (hs : HostOk s) : HostOk (restoreMain s) := by
  simp only [restoreMain]
  repeat' first
    | with_reducible assumption | split | with_reducible apply reMode_hostOk | with_reducible apply tmNote_hostOk
    | with_reducible apply tqUpdate_hostOk | with_reducible apply HostOk.ite | with_reducible apply HostOk.foldl
    | with_reducible apply HostOk.mk_of | with_reducible rfl | intro _ | dsimp only

theorem setCmp_hostOk (n : Nat) (c : Cmp) (s : State) (hs : HostOk s) : HostOk (setCmp n c s) :=
  hs.of_look (setCmp_look _ (fun _ _ => rfl) n c s)

theorem actionOr_hostOk (on : Bool) (f : State → State) (s : State) (hs : HostOk s) (hf : ∀ t, HostOk t → HostOk (f
    t)) : HostOk (actionOr on f s) := by
  simp only [actionOr]
  repeat' first
    | with_reducible assumption | split | with_reducible apply hf | with_reducible apply count_hostOk
    | with_reducible apply HostOk.ite | with_reducible apply HostOk.foldl | with_reducible apply HostOk.mk_of
    | with_reducible rfl | intro _ | dsimp only

theorem ppsOut_hostOk (pulseNs : Nat) (t : Int) (s : State) (hs : HostOk s) : HostOk (ppsOut pulseNs t s) :=
  hs.of_look (ppsOut_look _ (fun _ _ _ => rfl) pulseNs t s)

theorem sdSync_hostOk (s : State) (hs : HostOk s) : HostOk (sdSync s) :=
  hs.of_look (sdSync_look _ (fun _ _ => rfl) s)

theorem cmpActions_hostOk (n : Nat) (c : Cmp) (t : Int) (s : State) (hs : HostOk s) : HostOk (cmpActions n c t s) :=
    by
  have ha : ∀ (b : Nat) (f : State → State) (t : State), HostOk t → (∀ u, HostOk u → HostOk (f u)) →
      HostOk (if bit c.p.actions b = true then f t else t) := fun b f t ht hf => HostOk.ite (hf t ht) ht
  have ho : ∀ (on : Bool) (f : State → State), (∀ u, HostOk u → HostOk (f u)) → ∀ u, HostOk u → HostOk (actionOr on f u) :=
    fun on f hf u hu => actionOr_hostOk on f u hu hf
  exact ha 6 _ _ (ha 5 _ _ (ha 4 _ _ (ha 3 _ _ (ha 2 _ _ (ha 1 _ _ (ha 0 _ _ hs (fun u hu => ppsOut_hostOk _ _ u hu))
    (fun u hu => drivePulse_hostOk _ _ u hu)) (fun u hu => drivePulse_hostOk _ _ u hu))
    (ho _ _ (fun u hu => sdSync_hostOk u hu))) (ho _ _ (fun u hu => startInst_hostOk _ _ u hu)))
    (ho _ _ (fun u hu => triggerMask_hostOk _ _ _ _ u hu))) (fun u hu => tmNote_hostOk _ _ _ u hu)

theorem fireCmp_hostOk (n : Nat) (s : State) (hs : HostOk s) : HostOk (fireCmp n s) := by
  simp only [fireCmp]
  repeat' first
    | with_reducible assumption | split | with_reducible apply count_hostOk | with_reducible apply setCmp_hostOk
    | with_reducible apply cmpActions_hostOk | with_reducible apply HostOk.ite | with_reducible apply HostOk.foldl
    | with_reducible apply HostOk.mk_of | with_reducible rfl | intro _ | dsimp only

theorem armCmp_hostOk (p : CmpP) (byCommand : Bool) (s : State) (hs : HostOk s) : HostOk (armCmp p byCommand s) := by
  simp only [armCmp]
  repeat' first
    | with_reducible assumption | split | with_reducible apply fireCmp_hostOk | with_reducible apply setCmp_hostOk
    | with_reducible apply HostOk.ite | with_reducible apply HostOk.foldl | with_reducible apply HostOk.mk_of
    | with_reducible rfl | intro _ | dsimp only

theorem execSourceRevert_hostOk (s : State) (hs : HostOk s) : ∃ σ, execSourceRevert s = .next σ ∧ HostOk σ := by
  refine ⟨_, rfl, ?_⟩; repeat' first
    | with_reducible assumption | split | with_reducible apply switchSource_hostOk | with_reducible apply HostOk.ite
    | with_reducible apply HostOk.foldl | with_reducible apply HostOk.mk_of | with_reducible rfl | intro _
    | dsimp only

theorem execHoldoverAgeing_hostOk (s : State) (hs : HostOk s) : ∃ σ, execHoldoverAgeing s = .next σ ∧ HostOk σ := by
  refine ⟨_, rfl, ?_⟩; repeat' first
    | with_reducible assumption | split | with_reducible apply setClass_hostOk | with_reducible apply HostOk.ite
    | with_reducible apply HostOk.foldl | with_reducible apply HostOk.mk_of | with_reducible rfl | intro _
    | dsimp only

theorem execIntegSave_hostOk (s : State) (hs : HostOk s) : ∃ σ, execIntegSave s = .next σ ∧ HostOk σ := by
  obtain ⟨σ, h1, h2⟩ := execIntegSave_look (fun s => (s.counters, s.hi)) (fun _ _ _ => rfl) s
  exact ⟨σ, h1, hs.of_look h2⟩

theorem execLeapApply_hostOk (s : State) (hs : HostOk s) : ∃ σ, execLeapApply s = .next σ ∧ HostOk σ := by
  refine ⟨_, rfl, ?_⟩; repeat' first
    | with_reducible assumption | split | with_reducible apply tmNote_hostOk | with_reducible apply HostOk.ite
    | with_reducible apply HostOk.foldl | with_reducible apply HostOk.mk_of | with_reducible rfl | intro _
    | dsimp only

theorem execTimeCheckpoint_hostOk (s : State) (hs : HostOk s) : ∃ σ, execTimeCheckpoint s = .next σ ∧ HostOk σ := by
  obtain ⟨σ, h1, h2⟩ := execTimeCheckpoint_look (fun s => (s.counters, s.hi)) (fun _ _ => rfl) s
  exact ⟨σ, h1, hs.of_look h2⟩

theorem execResidueMismatch_hostOk (s : State) (hs : HostOk s) : ∃ σ, execResidueMismatch s = .next σ ∧ HostOk σ := by
  obtain ⟨σ, h1, h2⟩ := execResidueMismatch_look (fun s => (s.counters, s.hi)) (fun _ _ => rfl) s
  exact ⟨σ, h1, hs.of_look h2⟩

theorem execTimeSelftestEnd_hostOk (pass : Bool) (s : State) (hs : HostOk s) : ∃ σ, execTimeSelftestEnd pass s = .next
    σ ∧ HostOk σ := by
  refine ⟨_, rfl, ?_⟩; repeat' first
    | with_reducible assumption | split | with_reducible apply failMain_hostOk | with_reducible apply count_hostOk
    | with_reducible apply tmNote_hostOk | with_reducible apply loadFallback_hostOk
    | with_reducible apply HostOk.ite | with_reducible apply HostOk.foldl | with_reducible apply HostOk.mk_of
    | with_reducible rfl | intro _ | dsimp only

theorem execCmpFire_hostOk (cmp : Nat) (s : State) (hs : HostOk s) : ∃ σ, execCmpFire cmp s = .next σ ∧ HostOk σ := by
  refine ⟨_, rfl, ?_⟩; repeat' first
    | with_reducible assumption | split | with_reducible apply fireCmp_hostOk | with_reducible apply HostOk.ite
    | with_reducible apply HostOk.foldl | with_reducible apply HostOk.mk_of | with_reducible rfl | intro _
    | dsimp only

theorem execDuneTick_hostOk (s : State) (hs : HostOk s) : ∃ σ, execDuneTick s = .next σ ∧ HostOk σ := by
  refine ⟨_, rfl, ?_⟩; repeat' first
    | with_reducible assumption | split | with_reducible apply ergTick_hostOk
    | with_reducible apply caravanTick_hostOk | with_reducible apply HostOk.ite | with_reducible apply HostOk.foldl
    | with_reducible apply HostOk.mk_of | with_reducible rfl | intro _ | dsimp only

end Sys2Proof.Machine
end

