-- ==== Sys2Proof/Laws/OkSources.lean ====
section
/-! SUPPORT. The operations of Machine/Sources.lean keep the bounds of the host interface (`HostOk`). -/

namespace Sys2Proof.Machine

theorem updSlave_hostOk (f : Slave → Slave) (s : State) (hs : HostOk s) : HostOk (updSlave f s) :=
  hs.of_look (updSlave_look _ (fun _ _ => rfl) f s)

theorem utcFromPtp_hostOk (a : Announce) (s : State) (hs : HostOk s) : HostOk (utcFromPtp a s) :=
  hs.of_look (utcFromPtp_look _ (fun _ _ => rfl) a s)

theorem runBmca_hostOk (s : State) (hs : HostOk s) : HostOk (runBmca s) := by
  simp only [runBmca]
  repeat' first
    | with_reducible assumption | split | with_reducible apply updSlave_hostOk | with_reducible apply tmNote_hostOk
    | with_reducible apply updTether_hostOk | with_reducible apply utcFromPtp_hostOk
    | with_reducible apply offerSource_hostOk | with_reducible apply HostOk.ite | with_reducible apply HostOk.foldl
    | with_reducible apply HostOk.mk_of | with_reducible rfl | intro _ | dsimp only

theorem losePtp_hostOk (s : State) (hs : HostOk s) : HostOk (losePtp s) := by
  simp only [losePtp]
  repeat' first
    | with_reducible assumption | split | with_reducible apply updSlave_hostOk | with_reducible apply runBmca_hostOk
    | with_reducible apply loseSource_hostOk | with_reducible apply HostOk.ite | with_reducible apply HostOk.foldl
    | with_reducible apply HostOk.mk_of | with_reducible rfl | intro _ | dsimp only

theorem ptpLinkDown_hostOk (p : Nat) (s : State) (hs : HostOk s) : HostOk (ptpLinkDown p s) := by
  simp only [ptpLinkDown]
  repeat' first
    | with_reducible assumption | split | with_reducible apply updSlave_hostOk | with_reducible apply losePtp_hostOk
    | with_reducible apply HostOk.ite | with_reducible apply HostOk.foldl | with_reducible apply HostOk.mk_of
    | with_reducible rfl | intro _ | dsimp only

theorem ptpPortsOff_hostOk (s : State) (hs : HostOk s) : HostOk (ptpPortsOff s) := by
  simp only [ptpPortsOff]
  repeat' first
    | with_reducible assumption | split | with_reducible apply ptpLinkDown_hostOk | with_reducible apply HostOk.ite
    | with_reducible apply HostOk.foldl | with_reducible apply HostOk.mk_of | with_reducible rfl | intro _
    | dsimp only

theorem announceTaken_hostOk (a : Announce) (s : State) (hs : HostOk s) : HostOk (announceTaken a s) := by
  simp only [announceTaken]
  repeat' first
    | with_reducible assumption | split | with_reducible apply count_hostOk | with_reducible apply runBmca_hostOk
    | with_reducible apply updSlave_hostOk | with_reducible apply utcFromPtp_hostOk
    | with_reducible apply HostOk.ite | with_reducible apply HostOk.foldl | with_reducible apply HostOk.mk_of
    | with_reducible rfl | intro _ | dsimp only

theorem sendPtp_hostOk (p : PtpP) (port msg n : Nat) (words : List Nat) (s : State) (hs : HostOk s) : HostOk (sendPtp
    p port msg n words s) := by
  simp only [sendPtp]
  repeat' first
    | with_reducible assumption | split | with_reducible apply sendPort_hostOk | with_reducible apply HostOk.ite
    | with_reducible apply HostOk.foldl | with_reducible apply HostOk.mk_of | with_reducible rfl | intro _
    | dsimp only

theorem masterSent_hostOk (m : Nat) (s : State) (hs : HostOk s) : HostOk (masterSent m s) :=
  hs.of_look (masterSent_look _ (fun _ _ => rfl) m s)

theorem updPps_hostOk (f : Pps → Pps) (s : State) (hs : HostOk s) : HostOk (updPps f s) :=
  hs.of_look (updPps_look _ (fun _ _ => rfl) f s)

theorem ppsOffset_hostOk (stamp : Int) (label : Option Int) (s : State) (hs : HostOk s) : HostOk (ppsOffset stamp
    label s) := by
  simp only [ppsOffset]
  repeat' first
    | with_reducible assumption | split | with_reducible apply measure_hostOk | with_reducible apply updPps_hostOk
    | with_reducible apply HostOk.ite | with_reducible apply HostOk.foldl | with_reducible apply HostOk.mk_of
    | with_reducible rfl | intro _ | dsimp only

theorem settleEdge_hostOk (s : State) (hs : HostOk s) : HostOk (settleEdge s) := by
  simp only [settleEdge]
  repeat' first
    | with_reducible assumption | split | with_reducible apply ppsOffset_hostOk | with_reducible apply updPps_hostOk
    | with_reducible apply HostOk.ite | with_reducible apply HostOk.foldl | with_reducible apply HostOk.mk_of
    | with_reducible rfl | intro _ | dsimp only

theorem takeLabel_hostOk (stamp : Int) (s : State) (hs : HostOk s) : HostOk (takeLabel stamp s).2 := by
  simp only [takeLabel]
  repeat' first
    | with_reducible assumption | split | with_reducible apply count_hostOk | with_reducible apply HostOk.ite
    | with_reducible apply HostOk.foldl | with_reducible apply HostOk.mk_of | with_reducible rfl | intro _
    | dsimp only

theorem edgeTaken_hostOk (stamp : Int) (s : State) (hs : HostOk s) : HostOk (edgeTaken stamp s) := by
  simp only [edgeTaken]
  repeat' first
    | with_reducible assumption | split | with_reducible apply offerSource_hostOk
    | with_reducible apply updPps_hostOk | with_reducible apply settleEdge_hostOk
    | with_reducible apply takeLabel_hostOk | with_reducible apply ppsOffset_hostOk
    | with_reducible apply HostOk.ite | with_reducible apply HostOk.foldl | with_reducible apply HostOk.mk_of
    | with_reducible rfl | intro _ | dsimp only

theorem labelEdge_hostOk (l : Option Int) (s : State) (hs : HostOk s) : HostOk (labelEdge l s) := by
  simp only [labelEdge]
  repeat' first
    | with_reducible assumption | split | with_reducible apply ppsOffset_hostOk | with_reducible apply updPps_hostOk
    | with_reducible apply HostOk.ite | with_reducible apply HostOk.foldl | with_reducible apply HostOk.mk_of
    | with_reducible rfl | intro _ | dsimp only

theorem execPtpAnnounceRx_hostOk (a : Announce) (s : State) (hs : HostOk s) : ∃ σ, execPtpAnnounceRx a s = .next σ ∧
    HostOk σ := by
  refine ⟨_, rfl, ?_⟩; repeat' first
    | with_reducible assumption | split | with_reducible apply announceTaken_hostOk
    | with_reducible apply HostOk.ite | with_reducible apply HostOk.foldl | with_reducible apply HostOk.mk_of
    | with_reducible rfl | intro _ | dsimp only

theorem execPtpSyncRx_hostOk (m : PtpHead) (origin correction : Int) (followUp : Option (Int × Int)) (ingress : Stamp)
    (s : State) (hs : HostOk s) : ∃ σ, execPtpSyncRx m origin correction followUp ingress s = .next σ ∧ HostOk σ := by
  refine ⟨_, rfl, ?_⟩; repeat' first
    | with_reducible assumption | split | with_reducible apply count_hostOk | with_reducible apply updSlave_hostOk
    | with_reducible apply measure_hostOk | with_reducible apply HostOk.ite | with_reducible apply HostOk.foldl
    | with_reducible apply HostOk.mk_of | with_reducible rfl | intro _ | dsimp only

theorem execSourceLoss_hostOk (source : Nat) (s : State) (hs : HostOk s) : ∃ σ, execSourceLoss source s = .next σ ∧
    HostOk σ := by
  refine ⟨_, rfl, ?_⟩; repeat' first
    | with_reducible assumption | split | with_reducible apply losePtp_hostOk | with_reducible apply count_hostOk
    | with_reducible apply HostOk.ite | with_reducible apply HostOk.foldl | with_reducible apply HostOk.mk_of
    | with_reducible rfl | intro _ | dsimp only

theorem execPtpDelayReqTx_hostOk (port : Nat) (s : State) (hs : HostOk s) : ∃ σ, execPtpDelayReqTx port s = .next σ ∧
    HostOk σ := by
  refine ⟨_, rfl, ?_⟩; repeat' first
    | with_reducible assumption | split | with_reducible apply updSlave_hostOk | with_reducible apply sendPtp_hostOk
    | with_reducible apply HostOk.ite | with_reducible apply HostOk.foldl | with_reducible apply HostOk.mk_of
    | with_reducible rfl | intro _ | dsimp only

theorem execPtpPathDelayRx_hostOk (m : PtpHead) (meanPath : Int) (s : State) (hs : HostOk s) : ∃ σ, execPtpPathDelayRx
    m meanPath s = .next σ ∧ HostOk σ := by
  obtain ⟨σ, h1, h2⟩ := execPtpPathDelayRx_look (fun s => (s.counters, s.hi)) (fun _ _ => rfl) m meanPath s
  exact ⟨σ, h1, hs.of_look h2⟩

theorem execPdelayTimeout_hostOk (port : Nat) (s : State) (hs : HostOk s) : ∃ σ, execPdelayTimeout port s = .next σ ∧
    HostOk σ := by
  refine ⟨_, rfl, ?_⟩; repeat' first
    | with_reducible assumption | split | with_reducible apply count_hostOk | with_reducible apply updSlave_hostOk
    | with_reducible apply HostOk.ite | with_reducible apply HostOk.foldl | with_reducible apply HostOk.mk_of
    | with_reducible rfl | intro _ | dsimp only

theorem execPtpPdelayReqRx_hostOk (port : Nat) (m : PtpForm) (ingress : Stamp) (s : State) (hs : HostOk s) : ∃ σ,
    execPtpPdelayReqRx port m ingress s = .next σ ∧ HostOk σ := by
  refine ⟨_, rfl, ?_⟩; repeat' first
    | with_reducible assumption | split | with_reducible apply sendPtp_hostOk | with_reducible apply HostOk.ite
    | with_reducible apply HostOk.foldl | with_reducible apply HostOk.mk_of | with_reducible rfl | intro _
    | dsimp only

theorem execPtpDelayReqRx_hostOk (m : PtpHead) (ingress : Stamp) (s : State) (hs : HostOk s) : ∃ σ, execPtpDelayReqRx
    m ingress s = .next σ ∧ HostOk σ := by
  refine ⟨_, rfl, ?_⟩; repeat' first
    | with_reducible assumption | split | with_reducible apply sendPtp_hostOk | with_reducible apply HostOk.ite
    | with_reducible apply HostOk.foldl | with_reducible apply HostOk.mk_of | with_reducible rfl | intro _
    | dsimp only

theorem execPtpMasterAnnounceTx_hostOk (s : State) (hs : HostOk s) : ∃ σ, execPtpMasterAnnounceTx s = .next σ ∧ HostOk
    σ := by
  refine ⟨_, rfl, ?_⟩; repeat' first
    | with_reducible assumption | split | with_reducible apply sendPtp_hostOk
    | with_reducible apply masterSent_hostOk | with_reducible apply HostOk.ite | with_reducible apply HostOk.foldl
    | with_reducible apply HostOk.mk_of | with_reducible rfl | intro _ | dsimp only

theorem execPtpMasterSyncTx_hostOk (s : State) (hs : HostOk s) : ∃ σ, execPtpMasterSyncTx s = .next σ ∧ HostOk σ := by
  refine ⟨_, rfl, ?_⟩; repeat' first
    | with_reducible assumption | split | with_reducible apply sendPtp_hostOk
    | with_reducible apply masterSent_hostOk | with_reducible apply HostOk.ite | with_reducible apply HostOk.foldl
    | with_reducible apply HostOk.mk_of | with_reducible rfl | intro _ | dsimp only

theorem execPpsInEdge_hostOk (e : PpsEdge) (s : State) (hs : HostOk s) : ∃ σ, execPpsInEdge e s = .next σ ∧ HostOk σ := by
  refine ⟨_, rfl, ?_⟩; repeat' first
    | with_reducible assumption | split | with_reducible apply boot_hostOk | with_reducible apply count_hostOk
    | with_reducible apply edgeTaken_hostOk | with_reducible apply HostOk.ite | with_reducible apply HostOk.foldl
    | with_reducible apply HostOk.mk_of | with_reducible rfl | intro _ | dsimp only

theorem execPpsLost_hostOk (s : State) (hs : HostOk s) : ∃ σ, execPpsLost s = .next σ ∧ HostOk σ := by
  refine ⟨_, rfl, ?_⟩; repeat' first
    | with_reducible assumption | split | with_reducible apply updPps_hostOk
    | with_reducible apply settleEdge_hostOk | with_reducible apply loseSource_hostOk
    | with_reducible apply tmNote_hostOk | with_reducible apply HostOk.ite | with_reducible apply HostOk.foldl
    | with_reducible apply HostOk.mk_of | with_reducible rfl | intro _ | dsimp only

theorem execTodSentenceRx_hostOk (sumOk statusOk : Bool) (utcSec : Nat) (s : State) (hs : HostOk s) : ∃ σ, execTodSentenceRx sumOk statusOk utcSec s = .next σ ∧ HostOk σ := by
  refine ⟨_, rfl, ?_⟩; repeat' first
    | with_reducible assumption | split | with_reducible apply boot_hostOk | with_reducible apply count_hostOk
    | with_reducible apply updPps_hostOk | with_reducible apply labelEdge_hostOk | with_reducible apply HostOk.ite
    | with_reducible apply HostOk.foldl | with_reducible apply HostOk.mk_of | with_reducible rfl | intro _
    | dsimp only

end Sys2Proof.Machine
end

