-- ==== Sys2Proof/Laws/OkNetwork.lean ====
section
/-! SUPPORT. The operations of Machine/Network.lean keep the bounds of the host interface (`HostOk`). -/

namespace Sys2Proof.Machine

theorem takeBuffer_hostOk (port n : Nat) (s : State) (hs : HostOk s) : HostOk (takeBuffer port n s) :=
  hs.of_look (takeBuffer_look _ (fun _ _ => rfl) port n s)

theorem freeBuffer_hostOk (port n : Nat) (s : State) (hs : HostOk s) : HostOk (freeBuffer port n s) :=
  hs.of_look (freeBuffer_look _ (fun _ _ => rfl) port n s)

theorem discard_hostOk (x : Rx) (ctr : Nat) (s : State) (hs : HostOk s) : HostOk (discard x ctr s) := by
  simp only [discard]
  repeat' first
    | with_reducible assumption | split | with_reducible apply count_hostOk | with_reducible apply freeBuffer_hostOk
    | with_reducible apply HostOk.ite | with_reducible apply HostOk.foldl | with_reducible apply HostOk.mk_of
    | with_reducible rfl | intro _ | dsimp only

theorem setRxRing_hostOk (k : Nat) (r : PtRing) (s : State) (hs : HostOk s) : HostOk (setRxRing k r s) :=
  hs.of_look (setRxRing_look _ (fun _ _ => rfl) k r s)

theorem freePt_hostOk (x : PtFrame) (s : State) (hs : HostOk s) : HostOk (freePt x s) :=
  hs.of_look (freePt_look _ (fun _ _ => rfl) x s)

theorem toPassThrough_hostOk (x : Rx) (cls : Nat) (handed : Bool) (s : State) (hs : HostOk s) : HostOk (toPassThrough
    x cls handed s) := by
  simp only [toPassThrough]
  repeat' first
    | with_reducible assumption | split | with_reducible apply discard_hostOk | with_reducible apply count_hostOk
    | with_reducible apply setRxRing_hostOk | with_reducible apply HostOk.ite | with_reducible apply HostOk.foldl
    | with_reducible apply HostOk.mk_of | with_reducible rfl | intro _ | dsimp only

theorem ptArrival_hostOk (k : Nat) (s : State) (hs : HostOk s) : HostOk (ptArrival k s) := by
  simp only [ptArrival]
  repeat' first
    | with_reducible assumption | split | with_reducible apply setRxRing_hostOk | with_reducible apply note_hostOk
    | with_reducible apply HostOk.ite | with_reducible apply HostOk.foldl | with_reducible apply HostOk.mk_of
    | with_reducible rfl | intro _ | dsimp only

theorem acceptPn_hostOk (p : Nat) (f : Frame) (s : State) (hs : HostOk s) : HostOk (acceptPn p f s) :=
  hs.of_look (acceptPn_look _ (fun _ _ => rfl) p f s)

theorem verifySec_hostOk (x : Rx) (s : State) (hs : HostOk s) : HostOk (verifySec x s).2 := by
  simp only [verifySec]
  repeat' first
    | with_reducible assumption | split | with_reducible apply acceptPn_hostOk | with_reducible apply count_hostOk
    | with_reducible apply discard_hostOk | with_reducible apply HostOk.ite | with_reducible apply HostOk.foldl
    | with_reducible apply HostOk.mk_of | with_reducible rfl | intro _ | dsimp only

theorem evictEntry_hostOk (n : Nat) (l : List PrpEntry) (s : State) (hs : HostOk s) : HostOk (evictEntry n l s).2 :=
    by
  simp only [evictEntry]
  repeat' first
    | with_reducible assumption | split | with_reducible apply count_hostOk | with_reducible apply HostOk.ite
    | with_reducible apply HostOk.foldl | with_reducible apply HostOk.mk_of | with_reducible rfl | intro _
    | dsimp only

theorem prpAccept_hostOk (n src q : Nat) (s : State) (hs : HostOk s) : HostOk (prpAccept n src q s).2 := by
  simp only [prpAccept]
  repeat' first
    | with_reducible assumption | split | with_reducible apply updPrp_hostOk
    | with_reducible apply evictEntry_hostOk | with_reducible apply HostOk.ite | with_reducible apply HostOk.foldl
    | with_reducible apply HostOk.mk_of | with_reducible rfl | intro _ | dsimp only

theorem reportLanLost_hostOk (n : Nat) (b : Bool) (s : State) (hs : HostOk s) : HostOk (reportLanLost n b s) := by
  simp only [reportLanLost]
  repeat' first
    | with_reducible assumption | split | with_reducible apply note_hostOk | with_reducible apply updPrp_hostOk
    | with_reducible apply HostOk.ite | with_reducible apply HostOk.foldl | with_reducible apply HostOk.mk_of
    | with_reducible rfl | intro _ | dsimp only

theorem lanHeard_hostOk (n : Nat) (b : Bool) (s : State) (hs : HostOk s) : HostOk (lanHeard n b s) := by
  simp only [lanHeard]
  repeat' first
    | with_reducible assumption | split | with_reducible apply updPrp_hostOk | with_reducible apply note_hostOk
    | with_reducible apply reportLanLost_hostOk | with_reducible apply HostOk.ite
    | with_reducible apply HostOk.foldl | with_reducible apply HostOk.mk_of | with_reducible rfl | intro _
    | dsimp only

theorem prpStage_hostOk (x : Rx) (s : State) (hs : HostOk s) : HostOk (prpStage x s).2 := by
  simp only [prpStage]
  repeat' first
    | with_reducible assumption | split | with_reducible apply count_hostOk | with_reducible apply prpAccept_hostOk
    | with_reducible apply lanHeard_hostOk | with_reducible apply freeBuffer_hostOk
    | with_reducible apply HostOk.ite | with_reducible apply HostOk.foldl | with_reducible apply HostOk.mk_of
    | with_reducible rfl | intro _ | dsimp only

theorem joinPipe_hostOk (q : Nat) (f : SiFrame) (s : State) (hs : HostOk s) : HostOk (joinPipe q f s) :=
  hs.of_look (joinPipe_look _ (fun _ _ => rfl) q f s)

theorem toSi_hostOk (x : Rx) (proto : Nat) (s : State) (hs : HostOk s) : HostOk (toSi x proto s) := by
  simp only [toSi]
  repeat' first
    | with_reducible assumption | split | with_reducible apply count_hostOk | with_reducible apply joinPipe_hostOk
    | with_reducible apply HostOk.ite | with_reducible apply HostOk.foldl | with_reducible apply HostOk.mk_of
    | with_reducible rfl | intro _ | dsimp only

theorem classify_hostOk (x : Rx) (s : State) (hs : HostOk s) : HostOk (classify x s) := by
  simp only [classify]
  repeat' first
    | with_reducible assumption | split | with_reducible apply toPassThrough_hostOk
    | with_reducible apply count_hostOk | with_reducible apply freeBuffer_hostOk
    | with_reducible apply discard_hostOk | with_reducible apply toSi_hostOk | with_reducible apply HostOk.ite
    | with_reducible apply HostOk.foldl | with_reducible apply HostOk.mk_of | with_reducible rfl | intro _
    | dsimp only

theorem laterStages_hostOk (x : Rx) (s : State) (hs : HostOk s) : HostOk (laterStages x s) := by
  have hv := verifySec_hostOk x s hs
  simp only [laterStages]
  generalize verifySec x s = v at hv ⊢
  obtain ⟨o, t⟩ := v
  cases o with
  | none => exact hv
  | some y =>
    dsimp only
    split
    · exact toPassThrough_hostOk _ _ _ _ hv
    · split
      · exact discard_hostOk _ _ _ hv
      · split
        · exact classify_hostOk _ _ (prpStage_hostOk _ _ hv)
        · exact prpStage_hostOk _ _ hv

theorem filterStage_hostOk (x : Rx) (trunc : Bool) (s : State) (hs : HostOk s) : HostOk (filterStage x trunc s) := by
  simp only [filterStage]
  repeat' first
    | with_reducible assumption | split | with_reducible apply discard_hostOk
    | with_reducible apply toPassThrough_hostOk | with_reducible apply laterStages_hostOk
    | with_reducible apply HostOk.ite | with_reducible apply HostOk.foldl | with_reducible apply HostOk.mk_of
    | with_reducible rfl | intro _ | dsimp only

theorem receive_hostOk (port : Nat) (f : Frame) (stamp : Int) (s : State) (hs : HostOk s) : HostOk (receive port f
    stamp s) := by
  simp only [receive]
  repeat' first
    | with_reducible assumption | split | with_reducible apply count_hostOk | with_reducible apply takeBuffer_hostOk
    | with_reducible apply discard_hostOk | with_reducible apply updPort_hostOk | with_reducible apply countN_hostOk
    | with_reducible apply filterStage_hostOk | with_reducible apply HostOk.ite | with_reducible apply HostOk.foldl
    | with_reducible apply HostOk.mk_of | with_reducible rfl | intro _ | dsimp only

theorem countLine_hostOk (port : Nat) (e : LineErr) (s : State) (hs : HostOk s) : HostOk (countLine port e s) := by
  simp only [countLine]
  repeat' first
    | with_reducible assumption | split | with_reducible apply countN_hostOk | with_reducible apply HostOk.ite
    | with_reducible apply HostOk.foldl | with_reducible apply HostOk.mk_of | with_reducible rfl | intro _
    | dsimp only

theorem arrive_hostOk (port : Nat) (a : Arrival) (s : State) (hs : HostOk s) : HostOk (arrive port a s) := by
  simp only [arrive]
  repeat' first
    | with_reducible assumption | split | with_reducible apply receive_hostOk
    | with_reducible apply countLine_hostOk | with_reducible apply HostOk.ite | with_reducible apply HostOk.foldl
    | with_reducible apply HostOk.mk_of | with_reducible rfl | intro _ | dsimp only

theorem setTxRing_hostOk (k : Nat) (r : PtRing) (s : State) (hs : HostOk s) : HostOk (setTxRing k r s) :=
  hs.of_look (setTxRing_look _ (fun _ _ => rfl) k r s)

theorem faultPtRing_hostOk (rx : Bool) (k : Nat) (s : State) (hs : HostOk s) : HostOk (faultPtRing rx k s) := by
  simp only [faultPtRing]
  repeat' first
    | with_reducible assumption | split | with_reducible apply setRxRing_hostOk
    | with_reducible apply setTxRing_hostOk | with_reducible apply note_hostOk | with_reducible apply HostOk.ite
    | with_reducible apply HostOk.foldl | with_reducible apply HostOk.mk_of | with_reducible rfl | intro _
    | dsimp only

theorem sendHost_hostOk (port queue kind n prpMode : Nat) (ptp : Bool) (words : List Nat) (s : State) (hs : HostOk s)
    : HostOk (sendHost port queue kind n prpMode ptp words s) := by
  simp only [sendHost]
  repeat' first
    | with_reducible assumption | split | with_reducible apply sendAny_hostOk | with_reducible apply sendPort_hostOk
    | with_reducible apply HostOk.ite | with_reducible apply HostOk.foldl | with_reducible apply HostOk.mk_of
    | with_reducible rfl | intro _ | dsimp only

theorem execPtFrameDelivery_hostOk (k : Nat) (s : State) (hs : HostOk s) : ∃ σ, execPtFrameDelivery k s = .next σ ∧
    HostOk σ := by
  refine ⟨_, rfl, ?_⟩; repeat' first
    | with_reducible assumption | split | with_reducible apply emit_hostOk | with_reducible apply setRxRing_hostOk
    | with_reducible apply ptArrival_hostOk | with_reducible apply freePt_hostOk | with_reducible apply HostOk.ite
    | with_reducible apply HostOk.foldl | with_reducible apply HostOk.mk_of | with_reducible rfl | intro _
    | dsimp only

theorem execPtDescriptorTimeout_hostOk (k : Nat) (s : State) (hs : HostOk s) : ∃ σ, execPtDescriptorTimeout k s =
    .next σ ∧ HostOk σ := by
  refine ⟨_, rfl, ?_⟩; repeat' first
    | with_reducible assumption | split | with_reducible apply count_hostOk | with_reducible apply freePt_hostOk
    | with_reducible apply setRxRing_hostOk | with_reducible apply HostOk.ite | with_reducible apply HostOk.foldl
    | with_reducible apply HostOk.mk_of | with_reducible rfl | intro _ | dsimp only

theorem execPrpLanLost_hostOk (pair lan : Nat) (s : State) (hs : HostOk s) : ∃ σ, execPrpLanLost pair lan s = .next σ
    ∧ HostOk σ := by
  refine ⟨_, rfl, ?_⟩; repeat' first
    | with_reducible assumption | split | with_reducible apply reportLanLost_hostOk
    | with_reducible apply HostOk.ite | with_reducible apply HostOk.foldl | with_reducible apply HostOk.mk_of
    | with_reducible rfl | intro _ | dsimp only

theorem execPrpEntryForget_hostOk (pair src : Nat) (s : State) (hs : HostOk s) : ∃ σ, execPrpEntryForget pair src s =
    .next σ ∧ HostOk σ := by
  obtain ⟨σ, h1, h2⟩ := execPrpEntryForget_look (fun s => (s.counters, s.hi)) (fun _ _ => rfl) pair src s
  exact ⟨σ, h1, hs.of_look h2⟩

theorem execRxFrame_hostOk (port : Nat) (a : Arrival) (twin : Option Arrival) (s : State) (hs : HostOk s) : ∃ σ,
    execRxFrame port a twin s = .next σ ∧ HostOk σ := by
  refine ⟨_, rfl, ?_⟩; repeat' first
    | with_reducible assumption | split | with_reducible apply arrive_hostOk | with_reducible apply HostOk.ite
    | with_reducible apply HostOk.foldl | with_reducible apply HostOk.mk_of | with_reducible rfl | intro _
    | dsimp only

theorem execPtTxChainFetch_hostOk (k port queue : Nat) (frame : HostFrame) (prpMode count : Nat) (clear wellFormed : Bool) (s : State) (hs : HostOk s) : ∃ σ, execPtTxChainFetch k port queue frame prpMode count clear wellFormed s = .next σ ∧ HostOk σ := by
  refine ⟨_, rfl, ?_⟩; repeat' first
    | with_reducible assumption | split | with_reducible apply count_hostOk
    | with_reducible apply faultPtRing_hostOk | with_reducible apply setTxRing_hostOk
    | with_reducible apply emit_hostOk | with_reducible apply sendHost_hostOk | with_reducible apply HostOk.ite
    | with_reducible apply HostOk.foldl | with_reducible apply HostOk.mk_of | with_reducible rfl | intro _
    | dsimp only

theorem execLinkStateChange_hostOk (port : Nat) (pcsLock fecLock : Bool) (faults : LinkFaults) (errs : LineErr) (s :
    State) (hs : HostOk s) : ∃ σ, execLinkStateChange port pcsLock fecLock faults errs s = .next σ ∧
    HostOk σ := by
  refine ⟨_, rfl, ?_⟩; repeat' first
    | with_reducible assumption | split | with_reducible apply countLine_hostOk
    | with_reducible apply updPort_hostOk | with_reducible apply note_hostOk
    | with_reducible apply ptpLinkDown_hostOk | with_reducible apply dropLink_hostOk
    | with_reducible apply HostOk.ite | with_reducible apply HostOk.foldl | with_reducible apply HostOk.mk_of
    | with_reducible rfl | intro _ | dsimp only

end Sys2Proof.Machine
end

