-- ==== Sys2Proof/Laws/OkIntake.lean ====
section
/-! SUPPORT. The operations of Machine/Intake.lean keep the bounds of the host interface (`HostOk`). -/

namespace Sys2Proof.Machine

theorem updStream_hostOk (sid : Nat) (f : Stream → Stream) (s : State) (hs : HostOk s) : HostOk (updStream sid f s) :=
  hs.of_look (updStream_look _ (fun _ _ => rfl) sid f s)

theorem noteState_hostOk (sid : Nat) (old new : StreamState) (s : State) (hs : HostOk s) : HostOk (noteState sid old
    new s) := by
  simp only [noteState]
  repeat' first
    | with_reducible assumption | split | with_reducible apply note_hostOk | with_reducible apply HostOk.ite
    | with_reducible apply HostOk.foldl | with_reducible apply HostOk.mk_of | with_reducible rfl | intro _
    | dsimp only

theorem setStreamState_hostOk (sid : Nat) (new : StreamState) (s : State) (hs : HostOk s) : HostOk (setStreamState sid
    new s) := by
  simp only [setStreamState]
  repeat' first
    | with_reducible assumption | split | with_reducible apply noteState_hostOk
    | with_reducible apply updStream_hostOk | with_reducible apply HostOk.ite | with_reducible apply HostOk.foldl
    | with_reducible apply HostOk.mk_of | with_reducible rfl | intro _ | dsimp only

theorem quarantine_hostOk (sid cause : Nat) (s : State) (hs : HostOk s) : HostOk (quarantine sid cause s) := by
  simp only [quarantine]
  repeat' first
    | with_reducible assumption | split | with_reducible apply note_hostOk | with_reducible apply updStream_hostOk
    | with_reducible apply HostOk.ite | with_reducible apply HostOk.foldl | with_reducible apply HostOk.mk_of
    | with_reducible rfl | intro _ | dsimp only

theorem failStream_hostOk (sid : Nat) (s : State) (hs : HostOk s) : HostOk (failStream sid s) := by
  simp only [failStream]
  repeat' first
    | with_reducible assumption | split | with_reducible apply updStream_hostOk
    | with_reducible apply quarantine_hostOk | with_reducible apply HostOk.ite | with_reducible apply HostOk.foldl
    | with_reducible apply HostOk.mk_of | with_reducible rfl | intro _ | dsimp only

theorem rollKey_hostOk (sid : Nat) (s : State) (hs : HostOk s) : HostOk (rollKey sid s) := by
  simp only [rollKey]
  repeat' first
    | with_reducible assumption | split | with_reducible apply updStream_hostOk | with_reducible apply note_hostOk
    | with_reducible apply HostOk.ite | with_reducible apply HostOk.foldl | with_reducible apply HostOk.mk_of
    | with_reducible rfl | intro _ | dsimp only

theorem settleConv_hostOk (ch : Nat) (c : Conv) (s : State) (hs : HostOk s) : HostOk (settleConv ch c s).2.2 :=
  hs.of_look (settleConv_look _ (fun _ _ => rfl) ch c s)

theorem settleSecond_hostOk (ch : Nat) (c : Option Conv) (s : State) (hs : HostOk s) : HostOk (settleSecond ch c s).2.2 :=
  hs.of_look (settleSecond_look _ (fun _ _ => rfl) ch c s)

theorem normalizeQuant_hostOk (sid : Nat) (acc : List ChanVal × State) (q : Quant) (hs : HostOk acc.2) :
    HostOk (normalizeQuant sid acc q).2 := by
  have h0 : HostOk (if q.nans == 0 then acc.2 else countN (strCtr sid 0x20) q.nans acc.2) := HostOk.ite hs (countN_hostOk _ _ _ hs)
  simp only [normalizeQuant]
  split
  · exact h0
  · exact countN_hostOk _ _ _ (settleSecond_hostOk _ _ _ (settleConv_hostOk _ _ _ h0))

theorem normalize_hostOk (sid : Nat) (qs : List Quant) (s : State) (hs : HostOk s) : HostOk (normalize sid qs s).2 :=
  HostOk.foldl_of (fun x : List ChanVal × State => x.2) _ _ (fun _ _ h => normalizeQuant_hostOk _ _ _ h) hs

theorem interpCellChan_hostOk (sid : Nat) (cubic : Bool) (tk : Rat) (ps : List (Rat × HistFrame)) (held : HistFrame)
    (acc : List CellChan × State) (ch : Nat) (hs : HostOk acc.2) : HostOk (interpCellChan sid cubic tk ps held acc ch).2 := by
  unfold interpCellChan
  split
  · exact hs
  · exact bumpFree_hostOk _ (bumpFree_hostOk _ hs)
  · exact countN_hostOk _ _ _ hs

theorem interpCell_hostOk (sid : Nat) (p : GroupP) (cubic : Bool) (k : Nat) (pts : List HistFrame) (held : HistFrame)
    (s : State) (hs : HostOk s) : HostOk (interpCell sid p cubic k pts held s).2 :=
  HostOk.foldl_of (fun x : List CellChan × State => x.2) _ _ (fun _ _ h => interpCellChan_hostOk _ _ _ _ _ _ _ h) hs

theorem offerCell_hostOk (m : Membership) (k : Int) (sid : Nat) (c : Cell) (s : State) (hs : HostOk s) : HostOk
    (offerCell m k sid c s) := by
  simp only [offerCell]
  repeat' first
    | with_reducible assumption | split | with_reducible apply writeCell_hostOk | with_reducible apply HostOk.ite
    | with_reducible apply HostOk.foldl | with_reducible apply HostOk.mk_of | with_reducible rfl | intro _
    | dsimp only

theorem interpolate_hostOk (sid : Nat) (m : Membership) (cubic : Bool) (hist : List HistFrame) (tol : Int) (s : State)
    (hs : HostOk s) : HostOk (interpolate sid m cubic hist tol s) := by
  simp only [interpolate]
  repeat' first
    | with_reducible assumption | split | with_reducible apply interpCell_hostOk
    | with_reducible apply offerCell_hostOk | with_reducible apply HostOk.ite | with_reducible apply HostOk.foldl
    | with_reducible apply HostOk.mk_of | with_reducible rfl | intro _ | dsimp only

theorem feedMembership_hostOk (sid : Nat) (x : Stream) (f : HistFrame) (newest miss : Bool) (tol : Int) (m :
    Membership) (s : State) (hs : HostOk s) : HostOk (feedMembership sid x f newest miss tol m s) := by
  simp only [feedMembership]
  repeat' first
    | with_reducible assumption | split | with_reducible apply offerCell_hostOk
    | with_reducible apply interpolate_hostOk | with_reducible apply HostOk.ite | with_reducible apply HostOk.foldl
    | with_reducible apply HostOk.mk_of | with_reducible rfl | intro _ | dsimp only

theorem resample_hostOk (sid : Nat) (x : Stream) (f : HistFrame) (newest : Bool) (leaving : List (Nat × Nat)) (s :
    State) (hs : HostOk s) : HostOk (resample sid x f newest leaving s) := by
  simp only [resample]
  repeat' first
    | with_reducible assumption | split | with_reducible apply count_hostOk
    | with_reducible apply feedMembership_hostOk | with_reducible apply HostOk.ite
    | with_reducible apply HostOk.foldl | with_reducible apply HostOk.mk_of | with_reducible rfl | intro _
    | dsimp only

theorem acceptFrame_hostOk (sid : Nat) (f : HistFrame) (leaving : List (Nat × Nat)) (s : State) (hs : HostOk s) :
    HostOk (acceptFrame sid f leaving s) := by
  simp only [acceptFrame]
  repeat' first
    | with_reducible assumption | split | with_reducible apply setStreamState_hostOk
    | with_reducible apply note_hostOk | with_reducible apply updStream_hostOk | with_reducible apply count_hostOk
    | with_reducible apply resample_hostOk | with_reducible apply HostOk.ite | with_reducible apply HostOk.foldl
    | with_reducible apply HostOk.mk_of | with_reducible rfl | intro _ | dsimp only

theorem disposeFor_hostOk (f : SiFrame) (sid : Nat) (s : State) (hs : HostOk s) : HostOk (disposeFor f sid s) := by
  simp only [disposeFor]
  repeat' first
    | with_reducible assumption | split | with_reducible apply count_hostOk | with_reducible apply failStream_hostOk
    | with_reducible apply rollKey_hostOk | with_reducible apply updStream_hostOk
    | with_reducible apply normalize_hostOk | with_reducible apply acceptFrame_hostOk
    | with_reducible apply HostOk.ite | with_reducible apply HostOk.foldl | with_reducible apply HostOk.mk_of
    | with_reducible rfl | intro _ | dsimp only

theorem returnFrame_hostOk (f : SiFrame) (ctr : Nat) (s : State) (hs : HostOk s) : HostOk (returnFrame f ctr s) := by
  simp only [returnFrame]
  repeat' first
    | with_reducible assumption | split | with_reducible apply toPassThrough_hostOk
    | with_reducible apply count_hostOk | with_reducible apply HostOk.ite | with_reducible apply HostOk.foldl
    | with_reducible apply HostOk.mk_of | with_reducible rfl | intro _ | dsimp only

theorem disposeFrame_hostOk (q : Nat) (f : SiFrame) (s : State) (hs : HostOk s) : HostOk (disposeFrame q f s) := by
  simp only [disposeFrame]
  repeat' first
    | with_reducible assumption | split | with_reducible apply count_hostOk
    | with_reducible apply returnFrame_hostOk | with_reducible apply freeBuffer_hostOk
    | with_reducible apply disposeFor_hostOk | with_reducible apply HostOk.ite | with_reducible apply HostOk.foldl
    | with_reducible apply HostOk.mk_of | with_reducible rfl | intro _ | dsimp only

theorem streamTimers_hostOk (sid : Nat) (s : State) (hs : HostOk s) : HostOk (streamTimers sid s) := by
  simp only [streamTimers]
  repeat' first
    | with_reducible assumption | split | with_reducible apply setStreamState_hostOk
    | with_reducible apply HostOk.ite | with_reducible apply HostOk.foldl | with_reducible apply HostOk.mk_of
    | with_reducible rfl | intro _ | dsimp only

theorem execSiFrameParse_hostOk (pipe : Nat) (s : State) (hs : HostOk s) : ∃ σ, execSiFrameParse pipe s = .next σ ∧
    HostOk σ := by
  refine ⟨_, rfl, ?_⟩; repeat' first
    | with_reducible assumption | split | with_reducible apply disposeFrame_hostOk | with_reducible apply HostOk.ite
    | with_reducible apply HostOk.foldl | with_reducible apply HostOk.mk_of | with_reducible rfl | intro _
    | dsimp only

theorem execStreamTimerExpiry_hostOk (sid : Nat) (s : State) (hs : HostOk s) : ∃ σ, execStreamTimerExpiry sid s =
    .next σ ∧ HostOk σ := by
  refine ⟨_, rfl, ?_⟩; repeat' first
    | with_reducible assumption | split | with_reducible apply streamTimers_hostOk | with_reducible apply HostOk.ite
    | with_reducible apply HostOk.foldl | with_reducible apply HostOk.mk_of | with_reducible rfl | intro _
    | dsimp only

end Sys2Proof.Machine
end

