-- ==== Sys2Proof/Laws/OkMeter.lean ====
section
/-! SUPPORT. The operations of Machine/Meter.lean keep the bounds of the host interface (`HostOk`). -/

namespace Sys2Proof.Machine

theorem takeTemp_hostOk (k : Nat) (s : State) (hs : HostOk s) : HostOk (takeTemp k s) :=
  hs.of_look (takeTemp_look _ (fun _ _ => rfl) k s)

theorem modFaultStep_hostOk (ch : Nat) (run64 : Bool) (cleanBits : Nat) (s : State) (hs : HostOk s) : HostOk
    (modFaultStep ch run64 cleanBits s) := by
  simp only [modFaultStep]
  repeat' first
    | with_reducible assumption | split | with_reducible apply note_hostOk | with_reducible apply count_hostOk
    | with_reducible apply updMChan_hostOk | with_reducible apply HostOk.ite | with_reducible apply HostOk.foldl
    | with_reducible apply HostOk.mk_of | with_reducible rfl | intro _ | dsimp only

theorem pushOutput_hostOk (ch : Nat) (a b : Option Int) (s : State) (hs : HostOk s) : HostOk (pushOutput ch a b s) :=
  hs.of_look (pushOutput_look _ (fun _ _ => rfl) ch a b s)

theorem updateRms_hostOk (ch : Nat) (s : State) (hs : HostOk s) : HostOk (updateRms ch s) :=
  hs.of_look (updateRms_look _ (fun _ _ _ => rfl) ch s)

theorem storeSample_hostOk (ch : Nat) (vRec vAlm : Int) (s : State) (hs : HostOk s) : HostOk (storeSample ch vRec vAlm
    s) := by
  simp only [storeSample]
  repeat' first
    | with_reducible assumption | split | with_reducible apply updMChan_hostOk
    | with_reducible apply updateRms_hostOk | with_reducible apply pushOutput_hostOk
    | with_reducible apply count_hostOk | with_reducible apply HostOk.ite | with_reducible apply HostOk.foldl
    | with_reducible apply HostOk.mk_of | with_reducible rfl | intro _ | dsimp only

theorem missSample_hostOk (ch : Nat) (s : State) (hs : HostOk s) : HostOk (missSample ch s) :=
  hs.of_look (missSample_look _ (fun _ _ => rfl) ch s)

theorem markBoundary_hostOk (ch : Nat) (s : State) (hs : HostOk s) : HostOk (markBoundary ch s) :=
  hs.of_look (markBoundary_look _ (fun _ _ => rfl) ch s)

theorem takeSample_hostOk (ch : Nat) (vRec vAlm : Int) (run64 : Bool) (cleanBits : Nat) (s : State) (hs : HostOk s) :
    HostOk (takeSample ch vRec vAlm run64 cleanBits s) := by
  simp only [takeSample]
  repeat' first
    | with_reducible assumption | split | with_reducible apply takeTemp_hostOk
    | with_reducible apply modFaultStep_hostOk | with_reducible apply missSample_hostOk
    | with_reducible apply storeSample_hostOk | with_reducible apply HostOk.ite | with_reducible apply HostOk.foldl
    | with_reducible apply HostOk.mk_of | with_reducible rfl | intro _ | dsimp only

theorem setPulse_hostOk (n : Nat) (x : Pulse) (s : State) (hs : HostOk s) : HostOk (setPulse n x s) :=
  hs.of_look (setPulse_look _ (fun _ _ => rfl) n x s)

theorem periodicSave_hostOk (s : State) (hs : HostOk s) : HostOk (periodicSave s) := by
  simp only [periodicSave]
  repeat' first
    | with_reducible assumption | split | with_reducible apply count_hostOk | with_reducible apply HostOk.ite
    | with_reducible apply HostOk.foldl | with_reducible apply HostOk.mk_of | with_reducible rfl | intro _
    | dsimp only

theorem saveFailed_hostOk (s : State) (hs : HostOk s) : HostOk (saveFailed s) := by
  simp only [saveFailed]
  repeat' first
    | with_reducible assumption | split | with_reducible apply note_hostOk | with_reducible apply HostOk.ite
    | with_reducible apply HostOk.foldl | with_reducible apply HostOk.mk_of | with_reducible rfl | intro _
    | dsimp only

theorem ballastWrite_hostOk (durTenthUs : Nat) (s : State) (hs : HostOk s) : HostOk (ballastWrite durTenthUs s) := by
  simp only [ballastWrite]
  repeat' first
    | with_reducible assumption | split | with_reducible apply count_hostOk | with_reducible apply HostOk.ite
    | with_reducible apply HostOk.foldl | with_reducible apply HostOk.mk_of | with_reducible rfl | intro _
    | dsimp only

theorem restoreEnergy_hostOk (s : State) (hs : HostOk s) : HostOk (restoreEnergy s) :=
  hs.of_look (restoreEnergy_look _ (fun _ _ => rfl) s)

theorem reportUnsaved_hostOk (s : State) (hs : HostOk s) : HostOk (reportUnsaved s) := by
  simp only [reportUnsaved]
  repeat' first
    | with_reducible assumption | split | with_reducible apply energyUnsaved_hostOk
    | with_reducible apply HostOk.ite | with_reducible apply HostOk.foldl | with_reducible apply HostOk.mk_of
    | with_reducible rfl | intro _ | dsimp only

theorem vstreamTaken_hostOk (r : VsReport) (v : Vs) (s : State) (hs : HostOk s) : HostOk (vstreamTaken r v s) := by
  simp only [vstreamTaken]
  repeat' first
    | with_reducible assumption | split | with_reducible apply acceptFrame_hostOk
    | with_reducible apply count_hostOk | with_reducible apply HostOk.ite | with_reducible apply HostOk.foldl
    | with_reducible apply HostOk.mk_of | with_reducible rfl | intro _ | dsimp only

theorem execTempStale_hostOk (ch : Nat) (s : State) (hs : HostOk s) : ∃ σ, execTempStale ch s = .next σ ∧ HostOk σ := by
  refine ⟨_, rfl, ?_⟩; repeat' first
    | with_reducible assumption | split | with_reducible apply note_hostOk | with_reducible apply count_hostOk
    | with_reducible apply updMChan_hostOk | with_reducible apply HostOk.ite | with_reducible apply HostOk.foldl
    | with_reducible apply HostOk.mk_of | with_reducible rfl | intro _ | dsimp only

theorem execSdSample_hostOk (ch : Nat) (vRec vAlm : Int) (run64 : Bool) (cleanBits : Nat) (s : State) (hs : HostOk s)
    : ∃ σ, execSdSample ch vRec vAlm run64 cleanBits s = .next σ ∧ HostOk σ := by
  refine ⟨_, rfl, ?_⟩; repeat' first
    | with_reducible assumption | split | with_reducible apply takeSample_hostOk
    | with_reducible apply markBoundary_hostOk | with_reducible apply HostOk.ite | with_reducible apply HostOk.foldl
    | with_reducible apply HostOk.mk_of | with_reducible rfl | intro _ | dsimp only

theorem execEnergyBlockEnd_hostOk (el stop : Nat) (e1 e2 e3 : Int × Int) (trackedF : Int) (s : State) (hs : HostOk s) : ∃ σ,
    execEnergyBlockEnd el stop e1 e2 e3 trackedF s = .next σ ∧ HostOk σ := by
  refine ⟨_, rfl, ?_⟩; repeat' first
    | with_reducible assumption | split | with_reducible apply trackFreq_hostOk
    | with_reducible apply endBlock_hostOk | with_reducible apply HostOk.ite | with_reducible apply HostOk.foldl
    | with_reducible apply HostOk.mk_of | with_reducible rfl | intro _ | dsimp only

theorem execPulseStart_hostOk (n : Nat) (s : State) (hs : HostOk s) : ∃ σ, execPulseStart n s = .next σ ∧ HostOk σ := by
  obtain ⟨σ, h1, h2⟩ := execPulseStart_look (fun s => (s.counters, s.hi)) (fun _ _ => rfl) n s
  exact ⟨σ, h1, hs.of_look h2⟩

theorem execPulseEnd_hostOk (n : Nat) (s : State) (hs : HostOk s) : ∃ σ, execPulseEnd n s = .next σ ∧ HostOk σ := by
  obtain ⟨σ, h1, h2⟩ := execPulseEnd_look (fun s => (s.counters, s.hi)) (fun _ _ => rfl) n s
  exact ⟨σ, h1, hs.of_look h2⟩

theorem execPeriodicSave_hostOk (ok : Bool) (s : State) (hs : HostOk s) : ∃ σ, execPeriodicSave ok s = .next σ ∧
    HostOk σ := by
  refine ⟨_, rfl, ?_⟩; repeat' first
    | with_reducible assumption | split | with_reducible apply periodicSave_hostOk
    | with_reducible apply saveFailed_hostOk | with_reducible apply HostOk.ite | with_reducible apply HostOk.foldl
    | with_reducible apply HostOk.mk_of | with_reducible rfl | intro _ | dsimp only

theorem execAliveStamp_hostOk (s : State) (hs : HostOk s) : ∃ σ, execAliveStamp s = .next σ ∧ HostOk σ := by
  obtain ⟨σ, h1, h2⟩ := execAliveStamp_look (fun s => (s.counters, s.hi)) (fun _ _ _ => rfl) s
  exact ⟨σ, h1, hs.of_look h2⟩

theorem execVstreamReport_hostOk (r : VsReport) (s : State) (hs : HostOk s) : ∃ σ, execVstreamReport r s = .next σ ∧
    HostOk σ := by
  refine ⟨_, rfl, ?_⟩; repeat' first
    | with_reducible assumption | split | with_reducible apply vstreamTaken_hostOk | with_reducible apply HostOk.ite
    | with_reducible apply HostOk.foldl | with_reducible apply HostOk.mk_of | with_reducible rfl | intro _
    | dsimp only

end Sys2Proof.Machine
end

