-- ==== Sys2Proof/Laws/OkLogEv.lean ====
section
/-! SUPPORT. The operations of Machine/LogEv.lean keep the bounds of the host interface (`HostOk`). -/

namespace Sys2Proof.Machine

theorem repairRow_hostOk (m : Nat) (s : State) (hs : HostOk s) : HostOk (repairRow m s) := by
  simp only [repairRow]
  repeat' first
    | with_reducible assumption | split | with_reducible apply repairExhausted_hostOk
    | with_reducible apply updMacro_hostOk | with_reducible apply setFlips_hostOk
    | with_reducible apply ecNote_hostOk | with_reducible apply count_hostOk | with_reducible apply HostOk.ite
    | with_reducible apply HostOk.foldl | with_reducible apply HostOk.mk_of | with_reducible rfl | intro _
    | dsimp only

theorem startInternal_hostOk (cause arg : Nat) (s : State) (hs : HostOk s) : HostOk (startInternal cause arg s) := by
  simp only [startInternal]
  repeat' first
    | with_reducible assumption | split | with_reducible apply flushTrigger_hostOk
    | with_reducible apply report_hostOk | with_reducible apply HostOk.ite | with_reducible apply HostOk.foldl
    | with_reducible apply HostOk.mk_of | with_reducible rfl | intro _ | dsimp only

theorem controlDue_hostOk (m w : Nat) (s : State) (hs : HostOk s) : HostOk (controlDue m w s) := by
  simp only [controlDue]
  repeat' first
    | with_reducible assumption | split | with_reducible apply startInternal_hostOk
    | with_reducible apply uncorrectable_hostOk | with_reducible apply HostOk.ite
    | with_reducible apply HostOk.foldl | with_reducible apply HostOk.mk_of | with_reducible rfl | intro _
    | dsimp only

theorem scrubLate_hostOk (read : Nat) (s : State) (hs : HostOk s) : HostOk (scrubLate read s) := by
  simp only [scrubLate]
  repeat' first
    | with_reducible assumption | split | with_reducible apply count_hostOk | with_reducible apply HostOk.ite
    | with_reducible apply HostOk.foldl | with_reducible apply HostOk.mk_of | with_reducible rfl | intro _
    | dsimp only

theorem readWord_hostOk (m w : Nat) (s : State) (hs : HostOk s) : HostOk (readWord m w s) := by
  simp only [readWord]
  repeat' first
    | with_reducible assumption | split | with_reducible apply correctWord_hostOk
    | with_reducible apply controlDue_hostOk | with_reducible apply uncorrectable_hostOk
    | with_reducible apply HostOk.ite | with_reducible apply HostOk.foldl | with_reducible apply HostOk.mk_of
    | with_reducible rfl | intro _ | dsimp only

theorem readRecords_hostOk (l : List LogRec) (s : State) (hs : HostOk s) : HostOk (readRecords l s).2.2 := by
  simp only [readRecords]
  exact HostOk.foldl_of (fun x : Tbl LogRec × Bool × State => x.2.2) _ _ (fun b a h => cairnRead_hostOk _ _ h) hs

theorem seekSpool_hostOk (cur : Nat) (s : State) (hs : HostOk s) : HostOk (seekSpool cur s) := by
  simp only [seekSpool]
  repeat' first
    | with_reducible assumption | split | with_reducible apply readRecords_hostOk | with_reducible apply HostOk.ite
    | with_reducible apply HostOk.foldl | with_reducible apply HostOk.mk_of | with_reducible rfl | intro _
    | dsimp only

theorem fillSlot_hostOk (r : LogRec) (s : State) (hs : HostOk s) : HostOk (fillSlot r s) :=
  hs.of_look (fillSlot_look _ (fun _ _ => rfl) r s)

theorem writeLine_hostOk (r : EvRec) (isExt : Bool) (s : State) (hs : HostOk s) : HostOk (writeLine r isExt s) := by
  simp only [writeLine]
  repeat' first
    | with_reducible assumption | split | with_reducible apply fillSlot_hostOk | with_reducible apply count_hostOk
    | with_reducible apply HostOk.ite | with_reducible apply HostOk.foldl | with_reducible apply HostOk.mk_of
    | with_reducible rfl | intro _ | dsimp only

theorem writeLog_hostOk (r : EvRec) (s : State) (hs : HostOk s) : HostOk (writeLog r s) := by
  simp only [writeLog]
  repeat' first
    | with_reducible assumption | split | with_reducible apply writeLine_hostOk | with_reducible apply HostOk.ite
    | with_reducible apply HostOk.foldl | with_reducible apply HostOk.mk_of | with_reducible rfl | intro _
    | dsimp only

theorem endLost_hostOk (s : State) (hs : HostOk s) : HostOk (endLost s) := by
  simp only [endLost]
  repeat' first
    | with_reducible assumption | split | with_reducible apply note_hostOk | with_reducible apply HostOk.ite
    | with_reducible apply HostOk.foldl | with_reducible apply HostOk.mk_of | with_reducible rfl | intro _
    | dsimp only

theorem fireFlushVec_hostOk (s : State) (hs : HostOk s) : HostOk (fireFlushVec s) := by
  simp only [fireFlushVec]
  repeat' first
    | with_reducible assumption | split | with_reducible apply fireVector_hostOk | with_reducible apply HostOk.ite
    | with_reducible apply HostOk.foldl | with_reducible apply HostOk.mk_of | with_reducible rfl | intro _
    | dsimp only

theorem writeCut_hostOk (lost : List EvRec) (s : State) (hs : HostOk s) : HostOk (writeCut lost s) := by
  simp only [writeCut]
  repeat' first
    | with_reducible assumption | split | with_reducible apply countN_hostOk | with_reducible apply writeLog_hostOk
    | with_reducible apply count_hostOk | with_reducible apply HostOk.ite | with_reducible apply HostOk.foldl
    | with_reducible apply HostOk.mk_of | with_reducible rfl | intro _ | dsimp only

theorem logCut_hostOk (dur : Nat) (s : State) (hs : HostOk s) : HostOk (logCut dur s) := by
  simp only [logCut]
  repeat' first
    | with_reducible assumption | split | with_reducible apply closeAll_hostOk | with_reducible apply endLost_hostOk
    | with_reducible apply count_hostOk | with_reducible apply fireFlushVec_hostOk
    | with_reducible apply writeLog_hostOk | with_reducible apply writeCut_hostOk | with_reducible apply HostOk.ite
    | with_reducible apply HostOk.foldl | with_reducible apply HostOk.mk_of | with_reducible rfl | intro _
    | dsimp only

theorem execScrubRead_hostOk (mac word : Nat) (s : State) (hs : HostOk s) : ∃ σ, execScrubRead mac word s = .next σ ∧
    HostOk σ := by
  refine ⟨_, rfl, ?_⟩; repeat' first
    | with_reducible assumption | split | with_reducible apply scrubLate_hostOk
    | with_reducible apply updMacro_hostOk | with_reducible apply readWord_hostOk
    | with_reducible apply repairRow_hostOk | with_reducible apply HostOk.ite | with_reducible apply HostOk.foldl
    | with_reducible apply HostOk.mk_of | with_reducible rfl | intro _ | dsimp only

theorem execCorrectionWriteback_hostOk (mac word : Nat) (s : State) (hs : HostOk s) : ∃ σ, execCorrectionWriteback mac
    word s = .next σ ∧ HostOk σ := by
  refine ⟨_, rfl, ?_⟩; repeat' first
    | with_reducible assumption | split | with_reducible apply correctWord_hostOk
    | with_reducible apply bumpFree_hostOk | with_reducible apply HostOk.ite | with_reducible apply HostOk.foldl
    | with_reducible apply HostOk.mk_of | with_reducible rfl | intro _ | dsimp only

theorem execSuspectExpiry_hostOk (mac word : Nat) (s : State) (hs : HostOk s) : ∃ σ, execSuspectExpiry mac word s =
    .next σ ∧ HostOk σ := by
  obtain ⟨σ, h1, h2⟩ := execSuspectExpiry_look (fun s => (s.counters, s.hi)) (fun _ _ => rfl) mac word s
  exact ⟨σ, h1, hs.of_look h2⟩

theorem execControlDue_hostOk (mac word : Nat) (s : State) (hs : HostOk s) : ∃ σ, execControlDue mac word s = .next σ
    ∧ HostOk σ := by
  refine ⟨_, rfl, ?_⟩; repeat' first
    | with_reducible assumption | split | with_reducible apply controlDue_hostOk | with_reducible apply HostOk.ite
    | with_reducible apply HostOk.foldl | with_reducible apply HostOk.mk_of | with_reducible rfl | intro _
    | dsimp only

theorem execWatchdogExpiry_hostOk (sequencer gid : Nat) (s : State) (hs : HostOk s) : ∃ σ, execWatchdogExpiry
    sequencer gid s = .next σ ∧ HostOk σ := by
  refine ⟨_, rfl, ?_⟩; repeat' first
    | with_reducible assumption | split | with_reducible apply startInternal_hostOk
    | with_reducible apply HostOk.ite | with_reducible apply HostOk.foldl | with_reducible apply HostOk.mk_of
    | with_reducible rfl | intro _ | dsimp only

theorem execEvFlushEnd_hostOk (s : State) (hs : HostOk s) : ∃ σ, execEvFlushEnd s = .next σ ∧ HostOk σ := by
  refine ⟨_, rfl, ?_⟩; repeat' first
    | with_reducible assumption | split | with_reducible apply fireFlushVec_hostOk
    | with_reducible apply endLost_hostOk | with_reducible apply writeLog_hostOk
    | with_reducible apply startFlush_hostOk | with_reducible apply HostOk.ite | with_reducible apply HostOk.foldl
    | with_reducible apply HostOk.mk_of | with_reducible rfl | intro _ | dsimp only

theorem execFlushMsExpiry_hostOk (s : State) (hs : HostOk s) : ∃ σ, execFlushMsExpiry s = .next σ ∧ HostOk σ := by
  refine ⟨_, rfl, ?_⟩; repeat' first
    | with_reducible assumption | split | with_reducible apply flushTrigger_hostOk | with_reducible apply HostOk.ite
    | with_reducible apply HostOk.foldl | with_reducible apply HostOk.mk_of | with_reducible rfl | intro _
    | dsimp only

theorem execRecordClose_hostOk (source code severity : Nat) (s : State) (hs : HostOk s) : ∃ σ, execRecordClose source
    code severity s = .next σ ∧ HostOk σ := by
  refine ⟨_, rfl, ?_⟩; repeat' first
    | with_reducible assumption | split | with_reducible apply closeRecord_hostOk | with_reducible apply HostOk.ite
    | with_reducible apply HostOk.foldl | with_reducible apply HostOk.mk_of | with_reducible rfl | intro _
    | dsimp only

theorem execOpsecTick_hostOk (s : State) (hs : HostOk s) : ∃ σ, execOpsecTick s = .next σ ∧ HostOk σ := by
  obtain ⟨σ, h1, h2⟩ := execOpsecTick_look (fun s => (s.counters, s.hi)) (fun _ _ => rfl) s
  exact ⟨σ, h1, hs.of_look h2⟩

end Sys2Proof.Machine
end

