-- ==== Sys2Proof/Laws/OkReset.lean ====
section
/-! SUPPORT. The operations of Machine/Reset.lean keep the bounds of the host interface (`HostOk`). -/

namespace Sys2Proof.Machine

theorem reset_hi : State.reset.hi.ops.length ≤ 1024 ∧ ∀ e ∈ State.reset.hi.nqs, NqOk e.2 := by
  refine ⟨by decide, ?_⟩
  intro e he
  cases he

theorem nil_countersOk : CountersOk [] := ⟨List.Pairwise.nil, fun _ he => by cases he⟩

theorem warmReset_hostOk (src : ResetSource) (s : State) (hs : HostOk s) : HostOk (warmReset src s) := by
  refine count_hostOk _ _ ⟨?_, reset_hi⟩
  exact ⟨List.Pairwise.filter _ hs.1.1, fun e he => hs.1.2 e (List.mem_filter.mp he).1⟩

theorem coldReset_hostOk (src : ResetSource) (s : State) : HostOk (coldReset src s) :=
  ⟨nil_countersOk, reset_hi⟩

theorem resetDevice_hostOk (src : ResetSource) (s : State) (hs : HostOk s) : HostOk (resetDevice src s) :=
  HostOk.ite (coldReset_hostOk _ _) (warmReset_hostOk _ _ hs)

theorem zeroize_hostOk (cause : Nat) (s : State) (hs : HostOk s) : HostOk (zeroize cause s) :=
  hs.of_look (zeroize_look _ (fun _ _ _ => rfl) cause s)

theorem abandonSave_hostOk (s : State) (hs : HostOk s) : HostOk (abandonSave s) := by
  simp only [abandonSave]
  repeat' first
    | with_reducible assumption | split | with_reducible apply finalCompletion_hostOk
    | with_reducible apply count_hostOk | with_reducible apply HostOk.ite | with_reducible apply HostOk.foldl
    | with_reducible apply HostOk.mk_of | with_reducible rfl | intro _ | dsimp only

theorem startPfw_hostOk (dur : Nat) (s : State) (hs : HostOk s) : HostOk (startPfw dur s) := by
  simp only [startPfw]
  repeat' first
    | with_reducible assumption | split | with_reducible apply haltSleep_hostOk
    | with_reducible apply abandonSave_hostOk | with_reducible apply boot_hostOk
    | with_reducible apply ballastWrite_hostOk | with_reducible apply stopEnergy_hostOk
    | with_reducible apply saveInteg_hostOk | with_reducible apply HostOk.ite | with_reducible apply HostOk.foldl
    | with_reducible apply HostOk.mk_of | with_reducible rfl | intro _ | dsimp only

theorem execZeroizeCause_hostOk (cause : Nat) (s : State) (hs : HostOk s) : ∃ σ, execZeroizeCause cause s = .next σ ∧
    HostOk σ := by
  refine ⟨_, rfl, ?_⟩; repeat' first
    | with_reducible assumption | split | with_reducible apply zeroize_hostOk
    | with_reducible apply resetDevice_hostOk | with_reducible apply HostOk.ite | with_reducible apply HostOk.foldl
    | with_reducible apply HostOk.mk_of | with_reducible rfl | intro _ | dsimp only

theorem execWarmResetTakesHold_hostOk (s : State) (hs : HostOk s) : ∃ σ, execWarmResetTakesHold s = .next σ ∧ HostOk σ
    := by
  refine ⟨_, rfl, ?_⟩; repeat' first
    | with_reducible assumption | split | with_reducible apply resetDevice_hostOk
    | with_reducible apply periodicSave_hostOk | with_reducible apply HostOk.ite | with_reducible apply HostOk.foldl
    | with_reducible apply HostOk.mk_of | with_reducible rfl | intro _ | dsimp only

theorem execInternalReset_hostOk (s : State) (hs : HostOk s) : ∃ σ, execInternalReset s = .next σ ∧ HostOk σ := by
  refine ⟨_, rfl, ?_⟩; repeat' first
    | with_reducible assumption | split | with_reducible apply resetDevice_hostOk
    | with_reducible apply periodicSave_hostOk | with_reducible apply HostOk.ite | with_reducible apply HostOk.foldl
    | with_reducible apply HostOk.mk_of | with_reducible rfl | intro _ | dsimp only

theorem execLifecycleWipe_hostOk (s : State) (hs : HostOk s) : ∃ σ, execLifecycleWipe s = .next σ ∧ HostOk σ := by
  refine ⟨_, rfl, ?_⟩; repeat' first
    | with_reducible assumption | split | with_reducible apply resetDevice_hostOk | with_reducible apply HostOk.ite
    | with_reducible apply HostOk.foldl | with_reducible apply HostOk.mk_of | with_reducible rfl | intro _
    | dsimp only

theorem execPowerOnDetect_hostOk (railsOk : Bool) (s : State) (hs : HostOk s) : ∃ σ, execPowerOnDetect railsOk s =
    .next σ ∧ HostOk σ := by
  refine ⟨_, rfl, ?_⟩; repeat' first
    | with_reducible assumption | split | with_reducible apply resetDevice_hostOk | with_reducible apply HostOk.ite
    | with_reducible apply HostOk.foldl | with_reducible apply HostOk.mk_of | with_reducible rfl | intro _
    | dsimp only

theorem execBallastWriteEnd_hostOk (s : State) (hs : HostOk s) : ∃ σ, execBallastWriteEnd s = .next σ ∧ HostOk σ := by
  refine ⟨_, rfl, ?_⟩; repeat' first
    | with_reducible assumption | split | with_reducible apply resetDevice_hostOk
    | with_reducible apply zeroize_hostOk | with_reducible apply logCut_hostOk | with_reducible apply HostOk.ite
    | with_reducible apply HostOk.foldl | with_reducible apply HostOk.mk_of | with_reducible rfl | intro _
    | dsimp only

theorem execResetTakesHold_hostOk (s : State) (hs : HostOk s) : ∃ σ, execResetTakesHold s = .next σ ∧ HostOk σ := by
  refine ⟨_, rfl, ?_⟩; repeat' first
    | with_reducible assumption | split | with_reducible apply resetDevice_hostOk | with_reducible apply HostOk.ite
    | with_reducible apply HostOk.foldl | with_reducible apply HostOk.mk_of | with_reducible rfl | intro _
    | dsimp only

end Sys2Proof.Machine
end

