-- ==== Sys2Proof/Laws/OkVault.lean ====
section
/-! SUPPORT. The operations of Machine/Vault.lean keep the bounds of the host interface (`HostOk`). -/

namespace Sys2Proof.Machine

theorem countRevoked_hostOk (st : Nat) (s : State) (hs : HostOk s) : HostOk (countRevoked st s) := by
  simp only [countRevoked]
  repeat' first
    | with_reducible assumption | split | with_reducible apply count_hostOk | with_reducible apply HostOk.ite
    | with_reducible apply HostOk.foldl | with_reducible apply HostOk.mk_of | with_reducible rfl | intro _
    | dsimp only

theorem putKey_hostOk (n : Nat) (k : Slot) (s : State) (hs : HostOk s) : HostOk (putKey n k s) :=
  hs.of_look (putKey_look _ (fun _ _ => rfl) n k s)

theorem disableSas_hostOk (n : Nat) (s : State) (hs : HostOk s) : HostOk (disableSas n s) :=
  HostOk.foldl _ _ (fun _ _ h => HostOk.foldl _ _ (fun _ _ h => note_hostOk _ _ _ _ _ _ h)
    (HostOk.foldl _ _ (fun _ _ h => note_hostOk _ _ _ _ _ _ h) (updPort_hostOk _ _ _ h))) hs

theorem quarantineBound_hostOk (n : Nat) (s : State) (hs : HostOk s) : HostOk (quarantineBound n s) := by
  simp only [quarantineBound]
  repeat' first
    | with_reducible assumption | split | with_reducible apply quarantine_hostOk | with_reducible apply HostOk.ite
    | with_reducible apply HostOk.foldl | with_reducible apply HostOk.mk_of | with_reducible rfl | intro _
    | dsimp only

theorem tellConsumers_hostOk (n : Nat) (s : State) (hs : HostOk s) : HostOk (tellConsumers n s) := by
  simp only [tellConsumers]
  repeat' first
    | with_reducible assumption | split | with_reducible apply revokeSessions_hostOk
    | with_reducible apply disableSas_hostOk | with_reducible apply quarantineBound_hostOk
    | with_reducible apply HostOk.ite | with_reducible apply HostOk.foldl | with_reducible apply HostOk.mk_of
    | with_reducible rfl | intro _ | dsimp only

theorem orphanFrom_hostOk (root n : Nat) (l : List Nat) (s : State) (hs : HostOk s) : HostOk (orphanFrom root n l s).1 := by
  induction n generalizing l s with
  | zero => exact hs
  | succ n ih =>
    simp only [orphanFrom]
    split
    · exact hs
    · refine ih _ _ (HostOk.foldl _ _ (fun t a h => ?_) hs)
      split
      · exact tellConsumers_hostOk _ _ (note_hostOk _ _ _ _ _ _ (count_hostOk _ _ (HostOk.mk_of h rfl rfl)))
      · exact h

theorem destroySlot_hostOk (n : Nat) (s : State) (hs : HostOk s) : HostOk (destroySlot n s).1 := by
  simp only [destroySlot]
  repeat' first
    | with_reducible assumption | split | with_reducible apply orphanFrom_hostOk
    | with_reducible apply tellConsumers_hostOk | with_reducible apply HostOk.ite
    | with_reducible apply HostOk.foldl | with_reducible apply HostOk.mk_of | with_reducible rfl | intro _
    | dsimp only

theorem writeEntry_hostOk (p : KeyP) (s : State) (hs : HostOk s) : HostOk (writeEntry p s) :=
  hs.of_look (writeEntry_look _ (fun _ _ => rfl) p s)

theorem commitKeys_hostOk (keys : List KeyP) (s : State) (hs : HostOk s) : HostOk (commitKeys keys s) := by
  simp only [commitKeys]
  repeat' first
    | with_reducible assumption | split | with_reducible apply destroySlot_hostOk
    | with_reducible apply writeEntry_hostOk | with_reducible apply HostOk.ite | with_reducible apply HostOk.foldl
    | with_reducible apply HostOk.mk_of | with_reducible rfl | intro _ | dsimp only

theorem drawRandom_hostOk (s : State) (hs : HostOk s) : HostOk (drawRandom s).2 := by
  simp only [drawRandom]
  repeat' first
    | with_reducible assumption | split | with_reducible apply bumpFree_hostOk | with_reducible apply count_hostOk
    | with_reducible apply HostOk.ite | with_reducible apply HostOk.foldl | with_reducible apply HostOk.mk_of
    | with_reducible rfl | intro _ | dsimp only

theorem takeStatement_hostOk (s : State) (hs : HostOk s) : HostOk (takeStatement s) := by
  simp only [takeStatement]
  repeat' first
    | with_reducible assumption | split | with_reducible apply count_hostOk | with_reducible apply note_hostOk
    | with_reducible apply HostOk.ite | with_reducible apply HostOk.foldl | with_reducible apply HostOk.mk_of
    | with_reducible rfl | intro _ | dsimp only

theorem execEntropyFail_hostOk (test : Nat) (s : State) (hs : HostOk s) : ∃ σ, execEntropyFail test s = .next σ ∧
    HostOk σ := by
  refine ⟨_, rfl, ?_⟩; repeat' first
    | with_reducible assumption | split | with_reducible apply note_hostOk | with_reducible apply count_hostOk
    | with_reducible apply HostOk.ite | with_reducible apply HostOk.foldl | with_reducible apply HostOk.mk_of
    | with_reducible rfl | intro _ | dsimp only

theorem execEntropyRetest_hostOk (passed : Nat) (s : State) (hs : HostOk s) : ∃ σ, execEntropyRetest passed s = .next
    σ ∧ HostOk σ := by
  refine ⟨_, rfl, ?_⟩; repeat' first
    | with_reducible assumption | split | with_reducible apply note_hostOk | with_reducible apply HostOk.ite
    | with_reducible apply HostOk.foldl | with_reducible apply HostOk.mk_of | with_reducible rfl | intro _
    | dsimp only

theorem execDrbgReseed_hostOk (s : State) (hs : HostOk s) : ∃ σ, execDrbgReseed s = .next σ ∧ HostOk σ := by
  refine ⟨_, rfl, ?_⟩; repeat' first
    | with_reducible assumption | split | with_reducible apply count_hostOk | with_reducible apply HostOk.ite
    | with_reducible apply HostOk.foldl | with_reducible apply HostOk.mk_of | with_reducible rfl | intro _
    | dsimp only

end Sys2Proof.Machine
end

