-- ==== Sys2Proof/Laws/OkPower.lean ====
section
/-! SUPPORT. The operations of Machine/Power.lean keep the bounds of the host interface (`HostOk`). -/

namespace Sys2Proof.Machine

theorem dropPulses_hostOk (s : State) (hs : HostOk s) : HostOk (dropPulses s) :=
  hs.of_look (dropPulses_look _ (fun _ _ => rfl) s)

theorem stopBlock_hostOk (order : Nat) (s : State) (hs : HostOk s) : HostOk (stopBlock order s) := by
  simp only [stopBlock]
  repeat' first
    | with_reducible assumption | split | with_reducible apply driveLines_hostOk
    | with_reducible apply dropPulses_hostOk | with_reducible apply clearAllRules_hostOk
    | with_reducible apply discardInsts_hostOk | with_reducible apply discardAll_hostOk
    | with_reducible apply HostOk.ite | with_reducible apply HostOk.foldl | with_reducible apply HostOk.mk_of
    | with_reducible rfl | intro _ | dsimp only

theorem portsOff_hostOk (s : State) (hs : HostOk s) : HostOk (portsOff s) := by
  simp only [portsOff]
  repeat' first
    | with_reducible assumption | split | with_reducible apply ptpPortsOff_hostOk
    | with_reducible apply dropLinks_hostOk | with_reducible apply HostOk.ite | with_reducible apply HostOk.foldl
    | with_reducible apply HostOk.mk_of | with_reducible rfl | intro _ | dsimp only

theorem playaOff_hostOk (s : State) (hs : HostOk s) : HostOk (playaOff s) :=
  hs.of_look (playaOff_look _ (fun _ _ _ _ => rfl) s)

theorem enterDoze_hostOk (handle : Nat) (s : State) (hs : HostOk s) : HostOk (enterDoze handle s) := by
  simp only [enterDoze]
  repeat' first
    | with_reducible assumption | split | with_reducible apply portsOff_hostOk
    | with_reducible apply playaOff_hostOk | with_reducible apply finalCompletion_hostOk
    | with_reducible apply count_hostOk | with_reducible apply note_hostOk | with_reducible apply setMode_hostOk
    | with_reducible apply HostOk.ite | with_reducible apply HostOk.foldl | with_reducible apply HostOk.mk_of
    | with_reducible rfl | intro _ | dsimp only

theorem nextBlock_hostOk (hs : Handshake) (s : State) (hok : HostOk s) : HostOk (nextBlock hs s) := by
  simp only [nextBlock]
  repeat' first
    | with_reducible assumption | split | with_reducible apply enterDoze_hostOk | with_reducible apply HostOk.ite
    | with_reducible apply HostOk.foldl | with_reducible apply HostOk.mk_of | with_reducible rfl | intro _
    | dsimp only

theorem takeAnswer_hostOk (hs : Handshake) (a : HsAnswer) (s : State) (hok : HostOk s) : HostOk (takeAnswer hs a s) :=
    by
  simp only [takeAnswer]
  repeat' first
    | with_reducible assumption | split | with_reducible apply nextBlock_hostOk
    | with_reducible apply stopBlock_hostOk | with_reducible apply sleepRefused_hostOk
    | with_reducible apply HostOk.ite | with_reducible apply HostOk.foldl | with_reducible apply HostOk.mk_of
    | with_reducible rfl | intro _ | dsimp only

theorem mi2cMatch_hostOk (s : State) (hs : HostOk s) : HostOk (mi2cMatch s) := by
  simp only [mi2cMatch]
  repeat' first
    | with_reducible assumption | split | with_reducible apply sleepRefused_hostOk
    | with_reducible apply requestWake_hostOk | with_reducible apply HostOk.ite | with_reducible apply HostOk.foldl
    | with_reducible apply HostOk.mk_of | with_reducible rfl | intro _ | dsimp only

theorem wakeEngines_hostOk (passed : List Nat) (s : State) (hs : HostOk s) : HostOk (wakeEngines passed s) := by
  simp only [wakeEngines]
  repeat' first
    | with_reducible assumption | split | with_reducible apply countN_hostOk
    | with_reducible apply assignEngines_hostOk | with_reducible apply note_hostOk | with_reducible apply HostOk.ite
    | with_reducible apply HostOk.foldl | with_reducible apply HostOk.mk_of | with_reducible rfl | intro _
    | dsimp only

theorem wakeRefac_hostOk (s : State) (hs : HostOk s) : HostOk (wakeRefac s) := by
  simp only [wakeRefac]
  repeat' first
    | with_reducible assumption | split | with_reducible apply bumpFree_hostOk
    | with_reducible apply requestRefac_hostOk | with_reducible apply HostOk.ite | with_reducible apply HostOk.foldl
    | with_reducible apply HostOk.mk_of | with_reducible rfl | intro _ | dsimp only

theorem wakeUp_hostOk (passed : List Nat) (s : State) (hs : HostOk s) : HostOk (wakeUp passed s) := by
  simp only [wakeUp]
  repeat' first
    | with_reducible assumption | split | with_reducible apply restartChannels_hostOk
    | with_reducible apply wakeEngines_hostOk | with_reducible apply wipeMacros_hostOk
    | with_reducible apply clearHistories_hostOk | with_reducible apply streamTimers_hostOk
    | with_reducible apply ergResume_hostOk | with_reducible apply wakeRefac_hostOk
    | with_reducible apply capacityFell_hostOk | with_reducible apply setMode_hostOk
    | with_reducible apply dozeGap_hostOk | with_reducible apply realignGates_hostOk
    | with_reducible apply count_hostOk | with_reducible apply note_hostOk | with_reducible apply HostOk.ite
    | with_reducible apply HostOk.foldl | with_reducible apply HostOk.mk_of | with_reducible rfl | intro _
    | dsimp only

theorem endFreeze_hostOk (s : State) (hs : HostOk s) : HostOk (endFreeze s) := by
  simp only [endFreeze]
  repeat' first
    | with_reducible assumption | split | with_reducible apply ptpPortsOff_hostOk | with_reducible apply thaw_hostOk
    | with_reducible apply HostOk.ite | with_reducible apply HostOk.foldl | with_reducible apply HostOk.mk_of
    | with_reducible rfl | intro _ | dsimp only

theorem resumeMeters_hostOk (s : State) (hs : HostOk s) : HostOk (resumeMeters s) :=
  hs.of_look (resumeMeters_look _ (fun _ _ => rfl) s)

theorem endIgnore_hostOk (s : State) (hs : HostOk s) : HostOk (endIgnore s) := by
  simp only [endIgnore]
  repeat' first
    | with_reducible assumption | split | with_reducible apply freeze_hostOk | with_reducible apply HostOk.ite
    | with_reducible apply HostOk.foldl | with_reducible apply HostOk.mk_of | with_reducible rfl | intro _
    | dsimp only

theorem cairnReleased_hostOk (s : State) (hs : HostOk s) : HostOk (cairnReleased s) := by
  simp only [cairnReleased]
  repeat' first
    | with_reducible assumption | split | with_reducible apply endHalted_hostOk
    | with_reducible apply resumeMeters_hostOk | with_reducible apply flushTrigger_hostOk
    | with_reducible apply freeze_hostOk | with_reducible apply HostOk.ite | with_reducible apply HostOk.foldl
    | with_reducible apply HostOk.mk_of | with_reducible rfl | intro _ | dsimp only

theorem ckSettle_hostOk (s : State) (hs : HostOk s) : HostOk (ckSettle s) := by
  simp only [ckSettle]
  repeat' first
    | with_reducible assumption | split | with_reducible apply reMode_hostOk | with_reducible apply HostOk.ite
    | with_reducible apply HostOk.foldl | with_reducible apply HostOk.mk_of | with_reducible rfl | intro _
    | dsimp only

theorem switchPll_hostOk (cause : Nat) (s : State) (hs : HostOk s) : HostOk (switchPll cause s) := by
  simp only [switchPll]
  repeat' first
    | with_reducible assumption | split | with_reducible apply note_hostOk | with_reducible apply count_hostOk
    | with_reducible apply HostOk.ite | with_reducible apply HostOk.foldl | with_reducible apply HostOk.mk_of
    | with_reducible rfl | intro _ | dsimp only

theorem markFailed_hostOk (what which : Nat) (s : State) (hs : HostOk s) : HostOk (markFailed what which s) :=
  hs.of_look (markFailed_look _ (fun _ _ => rfl) what which s)

theorem takeOverPll_hostOk (hit : Bool) (cause : Nat) (s : State) (hs : HostOk s) : HostOk (takeOverPll hit cause s)
    := by
  simp only [takeOverPll]
  repeat' first
    | with_reducible assumption | split | with_reducible apply ckSettle_hostOk
    | with_reducible apply switchPll_hostOk | with_reducible apply HostOk.ite | with_reducible apply HostOk.foldl
    | with_reducible apply HostOk.mk_of | with_reducible rfl | intro _ | dsimp only

theorem execHandshakeAnswer_hostOk (a : HsAnswer) (s : State) (hs : HostOk s) : ∃ σ, execHandshakeAnswer a s = .next σ
    ∧ HostOk σ := by
  refine ⟨_, rfl, ?_⟩; repeat' first
    | with_reducible assumption | split | with_reducible apply takeAnswer_hostOk | with_reducible apply HostOk.ite
    | with_reducible apply HostOk.foldl | with_reducible apply HostOk.mk_of | with_reducible rfl | intro _
    | dsimp only

theorem execHandshakeDelayEnd_hostOk (s : State) (hs : HostOk s) : ∃ σ, execHandshakeDelayEnd s = .next σ ∧ HostOk σ
    := by
  obtain ⟨σ, h1, h2⟩ := execHandshakeDelayEnd_look (fun s => (s.counters, s.hi)) (fun _ _ => rfl) s
  exact ⟨σ, h1, hs.of_look h2⟩

theorem execMi2cAddressMatch_hostOk (s : State) (hs : HostOk s) : ∃ σ, execMi2cAddressMatch s = .next σ ∧ HostOk σ := by
  refine ⟨_, rfl, ?_⟩; repeat' first
    | with_reducible assumption | split | with_reducible apply mi2cMatch_hostOk | with_reducible apply HostOk.ite
    | with_reducible apply HostOk.foldl | with_reducible apply HostOk.mk_of | with_reducible rfl | intro _
    | dsimp only

theorem execPfwNFall_hostOk (s : State) (hs : HostOk s) : ∃ σ, execPfwNFall s = .next σ ∧ HostOk σ := by
  refine ⟨_, rfl, ?_⟩; repeat' first
    | with_reducible assumption | split | with_reducible apply endFreeze_hostOk | with_reducible apply HostOk.ite
    | with_reducible apply HostOk.foldl | with_reducible apply HostOk.mk_of | with_reducible rfl | intro _
    | dsimp only

theorem execPfwQualified_hostOk (durTenthUs : Nat) (s : State) (hs : HostOk s) : ∃ σ, execPfwQualified durTenthUs s =
    .next σ ∧ HostOk σ := by
  refine ⟨_, rfl, ?_⟩; repeat' first
    | with_reducible assumption | split | with_reducible apply note_hostOk | with_reducible apply count_hostOk
    | with_reducible apply startPfw_hostOk | with_reducible apply HostOk.ite | with_reducible apply HostOk.foldl
    | with_reducible apply HostOk.mk_of | with_reducible rfl | intro _ | dsimp only

theorem execPfwNRise_hostOk (s : State) (hs : HostOk s) : ∃ σ, execPfwNRise s = .next σ ∧ HostOk σ := by
  refine ⟨_, rfl, ?_⟩; repeat' first
    | with_reducible assumption | split | with_reducible apply note_hostOk | with_reducible apply endIgnore_hostOk
    | with_reducible apply resumeMeters_hostOk | with_reducible apply HostOk.ite | with_reducible apply HostOk.foldl
    | with_reducible apply HostOk.mk_of | with_reducible rfl | intro _ | dsimp only

theorem execCairnRelease_hostOk (s : State) (hs : HostOk s) : ∃ σ, execCairnRelease s = .next σ ∧ HostOk σ := by
  refine ⟨_, rfl, ?_⟩; repeat' first
    | with_reducible assumption | split | with_reducible apply cairnReleased_hostOk
    | with_reducible apply HostOk.ite | with_reducible apply HostOk.foldl | with_reducible apply HostOk.mk_of
    | with_reducible rfl | intro _ | dsimp only

theorem execResetNQualified_hostOk (durTenthUs : Nat) (s : State) (hs : HostOk s) : ∃ σ, execResetNQualified
    durTenthUs s = .next σ ∧ HostOk σ := by
  refine ⟨_, rfl, ?_⟩; repeat' first
    | with_reducible assumption | split | with_reducible apply startPfw_hostOk
    | with_reducible apply endFreeze_hostOk | with_reducible apply HostOk.ite | with_reducible apply HostOk.foldl
    | with_reducible apply HostOk.mk_of | with_reducible rfl | intro _ | dsimp only

theorem execRefFail_hostOk (what which : Nat) (s : State) (hs : HostOk s) : ∃ σ, execRefFail what which s = .next σ ∧
    HostOk σ := by
  refine ⟨_, rfl, ?_⟩; repeat' first
    | with_reducible assumption | split | with_reducible apply count_hostOk | with_reducible apply markFailed_hostOk
    | with_reducible apply takeOverPll_hostOk | with_reducible apply note_hostOk | with_reducible apply HostOk.ite
    | with_reducible apply HostOk.foldl | with_reducible apply HostOk.mk_of | with_reducible rfl | intro _
    | dsimp only

theorem execRefQualified_hostOk (what which : Nat) (s : State) (hs : HostOk s) : ∃ σ, execRefQualified what which s =
    .next σ ∧ HostOk σ := by
  refine ⟨_, rfl, ?_⟩; repeat' first
    | with_reducible assumption | split | with_reducible apply ckSettle_hostOk | with_reducible apply note_hostOk
    | with_reducible apply HostOk.ite | with_reducible apply HostOk.foldl | with_reducible apply HostOk.mk_of
    | with_reducible rfl | intro _ | dsimp only

theorem execPllRevert_hostOk (s : State) (hs : HostOk s) : ∃ σ, execPllRevert s = .next σ ∧ HostOk σ := by
  refine ⟨_, rfl, ?_⟩; repeat' first
    | with_reducible assumption | split | with_reducible apply ckSettle_hostOk
    | with_reducible apply switchPll_hostOk | with_reducible apply HostOk.ite | with_reducible apply HostOk.foldl
    | with_reducible apply HostOk.mk_of | with_reducible rfl | intro _ | dsimp only

end Sys2Proof.Machine
end

