-- ==== Sys2Proof/Laws/OkRegs.lean ====
section
/-! SUPPORT. The operations of Machine/Regs.lean keep the bounds of the host interface (`HostOk`). -/

namespace Sys2Proof.Machine

theorem setOffAccess_hostOk (s : State) (hs : HostOk s) : HostOk (setOffAccess s) := by
  simp only [setOffAccess]
  repeat' first
    | with_reducible assumption | split | with_reducible apply fireVector_hostOk | with_reducible apply HostOk.ite
    | with_reducible apply HostOk.foldl | with_reducible apply HostOk.mk_of | with_reducible rfl | intro _
    | dsimp only

theorem readReg_hostOk (off : Nat) (s : State) (hs : HostOk s) : HostOk (readReg off s).2 := by
  simp only [readReg]
  repeat' first
    | with_reducible assumption | split | with_reducible apply setOffAccess_hostOk
    | with_reducible apply bumpFree_hostOk | with_reducible apply HostOk.ite | with_reducible apply HostOk.foldl
    | with_reducible apply HostOk.mk_of | with_reducible rfl | intro _ | dsimp only

end Sys2Proof.Machine
end

