-- ==== Sys2Proof/Laws/OkSysCmd.lean ====
section
/-! SUPPORT. The operations of Machine/SysCmd.lean keep the bounds of the host interface (`HostOk`). -/

namespace Sys2Proof.Machine

theorem lookAt_hostOk (handle : Nat) (s : State) (hs : HostOk s) : HostOk (lookAt handle s) := by
  simp only [lookAt]
  repeat' first
    | with_reducible assumption | split | with_reducible apply bumpFree_hostOk | with_reducible apply updOp_hostOk
    | with_reducible apply HostOk.ite | with_reducible apply HostOk.foldl | with_reducible apply HostOk.mk_of
    | with_reducible rfl | intro _ | dsimp only

theorem queryHandle_hostOk (handle : Nat) (s : State) (hs : HostOk s) : HostOk (queryHandle handle s).state := by
  simp only [queryHandle]
  repeat' first
    | with_reducible assumption | split | with_reducible apply lookAt_hostOk | with_reducible apply HostOk.ite
    | with_reducible apply HostOk.foldl | with_reducible apply HostOk.mk_of | with_reducible rfl | intro _
    | dsimp only

theorem cancelEffect_hostOk (o : OpEntry) (s : State) (hs : HostOk s) : HostOk (cancelEffect o s) :=
  hs.of_look (cancelEffect_look _ (fun _ _ _ _ => rfl) o s)

theorem cancelHandle_hostOk (handle : Nat) (s : State) (hs : HostOk s) : HostOk (cancelHandle handle s).state := by
  simp only [cancelHandle]
  repeat' first
    | with_reducible assumption | split | with_reducible apply lookAt_hostOk
    | with_reducible apply finalCompletion_hostOk | with_reducible apply cancelEffect_hostOk
    | with_reducible apply HostOk.ite | with_reducible apply HostOk.foldl | with_reducible apply HostOk.mk_of
    | with_reducible rfl | intro _ | dsimp only

theorem lowerLines_hostOk (s : State) (hs : HostOk s) : HostOk (lowerLines s) :=
  hs.of_look (lowerLines_look _ (fun _ _ => rfl) s)

theorem enterProvision_hostOk (s : State) (hs : HostOk s) : HostOk (enterProvision s) := by
  simp only [enterProvision]
  repeat' first
    | with_reducible assumption | split | with_reducible apply discardAll_hostOk
    | with_reducible apply discardInsts_hostOk | with_reducible apply clearAllRules_hostOk
    | with_reducible apply setMode_hostOk | with_reducible apply lowerLines_hostOk | with_reducible apply HostOk.ite
    | with_reducible apply HostOk.foldl | with_reducible apply HostOk.mk_of | with_reducible rfl | intro _
    | dsimp only

theorem enterCommission_hostOk (s : State) (hs : HostOk s) : HostOk (enterCommission s) := by
  simp only [enterCommission]
  repeat' first
    | with_reducible assumption | split | with_reducible apply resumeEnergy_hostOk
    | with_reducible apply ergResume_hostOk | with_reducible apply setMode_hostOk
    | with_reducible apply driveLines_hostOk | with_reducible apply clearAllRules_hostOk
    | with_reducible apply HostOk.ite | with_reducible apply HostOk.foldl | with_reducible apply HostOk.mk_of
    | with_reducible rfl | intro _ | dsimp only

theorem enterService_hostOk (s : State) (hs : HostOk s) : HostOk (enterService s) := by
  simp only [enterService]
  repeat' first
    | with_reducible assumption | split | with_reducible apply driveLines_hostOk
    | with_reducible apply setMode_hostOk | with_reducible apply clearAllRules_hostOk
    | with_reducible apply HostOk.ite | with_reducible apply HostOk.foldl | with_reducible apply HostOk.mk_of
    | with_reducible rfl | intro _ | dsimp only

theorem finishSetMode_hostOk (o : OpEntry) (target : Nat) (hwFault : Bool) (s : State) (hs : HostOk s) : HostOk
    (finishSetMode o target hwFault s) := by
  simp only [finishSetMode]
  repeat' first
    | with_reducible assumption | split | with_reducible apply setMode_hostOk
    | with_reducible apply finalCompletion_hostOk | with_reducible apply enterProvision_hostOk
    | with_reducible apply enterService_hostOk | with_reducible apply enterCommission_hostOk
    | with_reducible apply HostOk.ite | with_reducible apply HostOk.foldl | with_reducible apply HostOk.mk_of
    | with_reducible rfl | intro _ | dsimp only

theorem askWarmReset_hostOk (s : State) (hs : HostOk s) : HostOk (askWarmReset s) := by
  simp only [askWarmReset]
  repeat' first
    | with_reducible assumption | split | with_reducible apply flushTrigger_hostOk | with_reducible apply HostOk.ite
    | with_reducible apply HostOk.foldl | with_reducible apply HostOk.mk_of | with_reducible rfl | intro _
    | dsimp only

theorem Nq.rewind_ok {n : Nq} (h : NqOk n) (now : Nat) : NqOk (n.rewind now).1 := by
  obtain ⟨h1, h2, h3, h4, h5, h6⟩ := h
  unfold Nq.rewind
  split
  · exact ⟨h1, h2, h3, h4, h5, h6⟩
  · split
    · exact ⟨h1, h2, by simp only; omega, h4, h5, fun _ _ => Nat.le_refl _⟩
    · rename_i hv hl
      exact ⟨h6 (by simpa using hv) (by simpa using hl), h3, h3, h4, h5, h6⟩

theorem Nq.release_ok {n : Nq} (h : NqOk n) (k : Nat) : NqOk (n.release k).1 := by
  obtain ⟨h1, h2, h3, h4, h5, h6⟩ := h
  unfold Nq.release
  dsimp only
  generalize (if (k == 0) = true then n.r - n.l else k) = j
  split
  · exact ⟨h1, h2, h3, h4, h5, h6⟩
  · rename_i hj
    refine ⟨by simp only; omega, h2, h3, by simp only; omega, by simp [h5]; omega, ?_⟩
    intro hv _
    simp at hv
    exact hv.2

theorem Nq.mark_ok {n : Nq} (h : NqOk n) : NqOk n.mark :=
  ⟨h.1, h.2.1, h.2.1, h.2.2.2.1, h.2.2.2.2.1, fun _ _ => h.1⟩

theorem rewindNq_hostOk (q : Nat) (s : State) (hs : HostOk s) : HostOk (rewindNq q s).state := by
  have h := setNq_hostOk q _ s hs (Nq.settle_ok (Nq.rewind_ok (getNq_ok hs q) s.tm.frc))
  unfold rewindNq
  dsimp only
  split
  · exact fireVector_hostOk _ _ h
  · exact h

theorem releaseNq_hostOk (q k : Nat) (s : State) (hs : HostOk s) : HostOk (releaseNq q k s).state := by
  have h := setNq_hostOk q _ s hs (Nq.release_ok (getNq_ok hs q) k)
  unfold releaseNq
  dsimp only
  split
  · exact h
  · exact hs

theorem procSysNop_hostOk (h : Hdr) (s : State) : (procSysNop h s).work.Ok := by
  refine ⟨fun t ht => ?_, fun t ht => ?_⟩ <;> repeat' first
    | with_reducible assumption | with_reducible apply refuse_hostOk | dsimp only [effect, answer, id] | split | with_reducible apply HostOk.ite | with_reducible apply HostOk.foldl
    | with_reducible apply HostOk.mk_of | with_reducible rfl | intro _ | dsimp only

theorem procSysIdentify_hostOk (h : Hdr) (s : State) : (procSysIdentify h s).work.Ok := by
  refine ⟨fun t ht => ?_, fun t ht => ?_⟩ <;> repeat' first
    | with_reducible assumption | with_reducible apply refuse_hostOk | dsimp only [effect, answer, id] | split | with_reducible apply HostOk.ite | with_reducible apply HostOk.foldl
    | with_reducible apply HostOk.mk_of | with_reducible rfl | intro _ | dsimp only

theorem procSysQueryHandle_hostOk (h : Hdr) (handle : Nat) (s : State) : (procSysQueryHandle h handle s).work.Ok := by
  refine ⟨fun t ht => ?_, fun t ht => ?_⟩ <;> repeat' first
    | with_reducible assumption | with_reducible apply refuse_hostOk | dsimp only [effect, answer, id] | split | with_reducible apply queryHandle_hostOk | with_reducible apply HostOk.ite
    | with_reducible apply HostOk.foldl | with_reducible apply HostOk.mk_of | with_reducible rfl | intro _
    | dsimp only

theorem procSysCancel_hostOk (h : Hdr) (handle : Nat) (s : State) : (procSysCancel h handle s).work.Ok := by
  refine ⟨fun t ht => ?_, fun t ht => ?_⟩ <;> repeat' first
    | with_reducible assumption | with_reducible apply refuse_hostOk | dsimp only [effect, answer, id] | split | with_reducible apply cancelHandle_hostOk | with_reducible apply HostOk.ite
    | with_reducible apply HostOk.foldl | with_reducible apply HostOk.mk_of | with_reducible rfl | intro _
    | dsimp only

theorem procSysSetMode_hostOk (h : Hdr) (target : Nat) (s : State) : (procSysSetMode h target s).work.Ok := by
  unfold procSysSetMode
  dsimp only
  split
  · exact ⟨fun t ht => ht, fun t ht => ht⟩
  · refine ⟨fun k t ht => ?_, fun t ht => ht⟩
    try dsimp only
    split
    · exact HostOk.mk_of ht rfl rfl
    · exact ht

theorem procSysFreeze_hostOk (h : Hdr) (s : State) : (procSysFreeze h s).work.Ok := by
  refine ⟨fun t ht => ?_, fun t ht => ?_⟩ <;> repeat' first
    | with_reducible assumption | with_reducible apply refuse_hostOk | dsimp only [effect, answer, id] | split | with_reducible apply freeze_hostOk | with_reducible apply HostOk.ite
    | with_reducible apply HostOk.foldl | with_reducible apply HostOk.mk_of | with_reducible rfl | intro _
    | dsimp only

theorem procSysThaw_hostOk (h : Hdr) (s : State) : (procSysThaw h s).work.Ok := by
  refine ⟨fun t ht => ?_, fun t ht => ?_⟩ <;> repeat' first
    | with_reducible assumption | with_reducible apply refuse_hostOk | dsimp only [effect, answer, id] | split | with_reducible apply ptpPortsOff_hostOk | with_reducible apply thaw_hostOk
    | with_reducible apply HostOk.ite | with_reducible apply HostOk.foldl | with_reducible apply HostOk.mk_of
    | with_reducible rfl | intro _ | dsimp only

theorem procSysReset_hostOk (h : Hdr) (kind : Nat) (s : State) : (procSysReset h kind s).work.Ok := by
  refine ⟨fun t ht => ?_, fun t ht => ?_⟩ <;> repeat' first
    | with_reducible assumption | with_reducible apply refuse_hostOk | dsimp only [effect, answer, id] | split | with_reducible apply askWarmReset_hostOk | with_reducible apply HostOk.ite
    | with_reducible apply HostOk.foldl | with_reducible apply HostOk.mk_of | with_reducible rfl | intro _
    | dsimp only

theorem procSysNqMark_hostOk (h : Hdr) (q : Nat) (s : State) : (procSysNqMark h q s).work.Ok := by
  exact ⟨fun t ht => setNq_hostOk q _ t ht (Nq.mark_ok (getNq_ok ht q)), fun t ht => ht⟩

theorem procSysNqRewind_hostOk (h : Hdr) (q : Nat) (s : State) : (procSysNqRewind h q s).work.Ok := by
  refine ⟨fun t ht => ?_, fun t ht => ?_⟩ <;> repeat' first
    | with_reducible assumption | with_reducible apply refuse_hostOk | dsimp only [effect, answer, id] | split | with_reducible apply rewindNq_hostOk | with_reducible apply HostOk.ite
    | with_reducible apply HostOk.foldl | with_reducible apply HostOk.mk_of | with_reducible rfl | intro _
    | dsimp only

theorem procSysNqRelease_hostOk (h : Hdr) (q count : Nat) (s : State) : (procSysNqRelease h q count s).work.Ok := by
  refine ⟨fun t ht => ?_, fun t ht => ?_⟩ <;> repeat' first
    | with_reducible assumption | with_reducible apply refuse_hostOk | dsimp only [effect, answer, id] | split | with_reducible apply count_hostOk | with_reducible apply releaseNq_hostOk
    | with_reducible apply HostOk.ite | with_reducible apply HostOk.foldl | with_reducible apply HostOk.mk_of
    | with_reducible rfl | intro _ | dsimp only

theorem procSysClearCounters_hostOk (h : Hdr) (mask : Nat) (s : State) : (procSysClearCounters h mask s).work.Ok := by
  refine ⟨fun t ht => ⟨ht.1, ht.2.1, fun e he => ?_⟩, fun t ht => ht⟩
  simp only [effect, List.mem_map] at he
  obtain ⟨x, hx, rfl⟩ := he
  split <;> exact ht.2.2 x hx

theorem execSysNop_hostOk (h : Hdr) (s : State) (hs : HostOk s) : ∃ σ, execSysNop h s = .next σ ∧ HostOk σ := ⟨_, rfl, runProc_hostOk _ _ (procSysNop_hostOk _ _) hs⟩

theorem execSysIdentify_hostOk (h : Hdr) (s : State) (hs : HostOk s) : ∃ σ, execSysIdentify h s = .next σ ∧ HostOk σ
    := ⟨_, rfl, runProc_hostOk _ _ (procSysIdentify_hostOk _ _) hs⟩

theorem execSysQueryHandle_hostOk (h : Hdr) (handle : Nat) (s : State) (hs : HostOk s) : ∃ σ, execSysQueryHandle h
    handle s = .next σ ∧ HostOk σ := ⟨_, rfl, runProc_hostOk _ _ (procSysQueryHandle_hostOk _ _ _) hs⟩

theorem execSysCancel_hostOk (h : Hdr) (handle : Nat) (s : State) (hs : HostOk s) : ∃ σ, execSysCancel h handle s =
    .next σ ∧ HostOk σ := ⟨_, rfl, runProc_hostOk _ _ (procSysCancel_hostOk _ _ _) hs⟩

theorem execSysSetMode_hostOk (h : Hdr) (target : Nat) (s : State) (hs : HostOk s) : ∃ σ, execSysSetMode h target s =
    .next σ ∧ HostOk σ := ⟨_, rfl, runProc_hostOk _ _ (procSysSetMode_hostOk _ _ _) hs⟩

theorem execSysFreeze_hostOk (h : Hdr) (s : State) (hs : HostOk s) : ∃ σ, execSysFreeze h s = .next σ ∧ HostOk σ := ⟨_, rfl, runProc_hostOk _ _ (procSysFreeze_hostOk _ _) hs⟩

theorem execSysThaw_hostOk (h : Hdr) (s : State) (hs : HostOk s) : ∃ σ, execSysThaw h s = .next σ ∧ HostOk σ := ⟨_, rfl, runProc_hostOk _ _ (procSysThaw_hostOk _ _) hs⟩

theorem execSysReset_hostOk (h : Hdr) (kind : Nat) (s : State) (hs : HostOk s) : ∃ σ, execSysReset h kind s = .next σ
    ∧ HostOk σ := ⟨_, rfl, runProc_hostOk _ _ (procSysReset_hostOk _ _ _) hs⟩

theorem execSysNqMark_hostOk (h : Hdr) (q : Nat) (s : State) (hs : HostOk s) : ∃ σ, execSysNqMark h q s = .next σ ∧
    HostOk σ := ⟨_, rfl, runProc_hostOk _ _ (procSysNqMark_hostOk _ _ _) hs⟩

theorem execSysNqRewind_hostOk (h : Hdr) (q : Nat) (s : State) (hs : HostOk s) : ∃ σ, execSysNqRewind h q s = .next σ
    ∧ HostOk σ := ⟨_, rfl, runProc_hostOk _ _ (procSysNqRewind_hostOk _ _ _) hs⟩

theorem execSysNqRelease_hostOk (h : Hdr) (q count : Nat) (s : State) (hs : HostOk s) : ∃ σ, execSysNqRelease h q
    count s = .next σ ∧ HostOk σ := ⟨_, rfl, runProc_hostOk _ _ (procSysNqRelease_hostOk _ _ _ _) hs⟩

theorem execSysClearCounters_hostOk (h : Hdr) (mask : Nat) (s : State) (hs : HostOk s) : ∃ σ, execSysClearCounters h
    mask s = .next σ ∧ HostOk σ := ⟨_, rfl, runProc_hostOk _ _ (procSysClearCounters_hostOk _ _ _) hs⟩

end Sys2Proof.Machine
end

