-- ==== Sys2Proof/Laws/OkPortCmd.lean ====
section
/-! SUPPORT. The operations of Machine/PortCmd.lean keep the bounds of the host interface (`HostOk`). -/

namespace Sys2Proof.Machine

theorem setPort_hostOk (p : PortP) (s : State) (hs : HostOk s) : HostOk (setPort p s) := by
  simp only [setPort]
  repeat' first
    | with_reducible assumption | split | with_reducible apply ptpLinkDown_hostOk
    | with_reducible apply dropLink_hostOk | with_reducible apply updPort_hostOk | with_reducible apply HostOk.ite
    | with_reducible apply HostOk.foldl | with_reducible apply HostOk.mk_of | with_reducible rfl | intro _
    | dsimp only

theorem finishPortConfig_hostOk (o : OpEntry) (p : PortP) (hwFault : Bool) (s : State) (hs : HostOk s) : HostOk
    (finishPortConfig o p hwFault s) := by
  simp only [finishPortConfig]
  repeat' first
    | with_reducible assumption | split | with_reducible apply finalCompletion_hostOk
    | with_reducible apply setPort_hostOk | with_reducible apply HostOk.ite | with_reducible apply HostOk.foldl
    | with_reducible apply HostOk.mk_of | with_reducible rfl | intro _ | dsimp only

theorem setExact_hostOk (port index en addr : Nat) (s : State) (hs : HostOk s) : HostOk (setExact port index en addr
    s) :=
  hs.of_look (setExact_look _ (fun _ _ => rfl) port index en addr s)

theorem setHash_hostOk (p : HashP) (s : State) (hs : HostOk s) : HostOk (setHash p s) :=
  hs.of_look (setHash_look _ (fun _ _ => rfl) p s)

theorem setVlan_hostOk (p : VlanP) (s : State) (hs : HostOk s) : HostOk (setVlan p s) :=
  hs.of_look (setVlan_look _ (fun _ _ => rfl) p s)

theorem setIntake_hostOk (port : Nat) (e : List IntakeEntry) (s : State) (hs : HostOk s) : HostOk (setIntake port e s)
    :=
  hs.of_look (setIntake_look _ (fun _ _ => rfl) port e s)

theorem setPtMap_hostOk (port map : Nat) (s : State) (hs : HostOk s) : HostOk (setPtMap port map s) :=
  hs.of_look (setPtMap_look _ (fun _ _ => rfl) port map s)

theorem setPrp_hostOk (p : PrpP) (s : State) (hs : HostOk s) : HostOk (setPrp p s) :=
  hs.of_look (setPrp_look _ (fun _ _ => rfl) p s)

theorem setMacsec_hostOk (p : MacsecP) (s : State) (hs : HostOk s) : HostOk (setMacsec p s) :=
  hs.of_look (setMacsec_look _ (fun _ _ => rfl) p s)

theorem setSa_hostOk (p : SaP) (s : State) (hs : HostOk s) : HostOk (setSa p s) :=
  hs.of_look (setSa_look _ (fun _ _ => rfl) p s)

theorem destroySa_hostOk (port dir sc an : Nat) (s : State) (hs : HostOk s) : HostOk (destroySa port dir sc an s) :=
  hs.of_look (destroySa_look _ (fun _ _ => rfl) port dir sc an s)

theorem loadGate_hostOk (p : GateP) (handle : Nat) (s : State) (hs : HostOk s) : HostOk (loadGate p handle s) :=
  hs.of_look (loadGate_look _ (fun _ _ => rfl) p handle s)

theorem finishGateLoad_hostOk (o : OpEntry) (p : GateP) (hwFault : Bool) (s : State) (hs : HostOk s) : HostOk
    (finishGateLoad o p hwFault s) := by
  simp only [finishGateLoad]
  repeat' first
    | with_reducible assumption | split | with_reducible apply finalCompletion_hostOk
    | with_reducible apply updPort_hostOk | with_reducible apply HostOk.ite | with_reducible apply HostOk.foldl
    | with_reducible apply HostOk.mk_of | with_reducible rfl | intro _ | dsimp only

theorem clearPorts_hostOk (mask : Nat) (s : State) (hs : HostOk s) : HostOk (clearPorts mask s) := by
  simp only [clearPorts]
  repeat' first
    | with_reducible assumption | split | with_reducible apply clearCounters_hostOk
    | with_reducible apply HostOk.ite | with_reducible apply HostOk.foldl | with_reducible apply HostOk.mk_of
    | with_reducible rfl | intro _ | dsimp only

theorem procPortConfig_hostOk (h : Hdr) (p : PortP) (s : State) : (procPortConfig h p s).work.Ok := by
  exact Work.later_ok _

theorem procPortSetExact_hostOk (h : Hdr) (port index en addr : Nat) (s : State) : (procPortSetExact h port index en
    addr s).work.Ok := by
  refine ⟨fun t ht => ?_, fun t ht => ?_⟩ <;> repeat' first
    | with_reducible assumption | with_reducible apply refuse_hostOk | dsimp only [effect, answer, id] | split | with_reducible apply setExact_hostOk | with_reducible apply HostOk.ite
    | with_reducible apply HostOk.foldl | with_reducible apply HostOk.mk_of | with_reducible rfl | intro _
    | dsimp only

theorem procPortSetHash_hostOk (h : Hdr) (p : HashP) (s : State) : (procPortSetHash h p s).work.Ok := by
  refine ⟨fun t ht => ?_, fun t ht => ?_⟩ <;> repeat' first
    | with_reducible assumption | with_reducible apply refuse_hostOk | dsimp only [effect, answer, id] | split | with_reducible apply setHash_hostOk | with_reducible apply HostOk.ite
    | with_reducible apply HostOk.foldl | with_reducible apply HostOk.mk_of | with_reducible rfl | intro _
    | dsimp only

theorem procPortSetVlan_hostOk (h : Hdr) (p : VlanP) (s : State) : (procPortSetVlan h p s).work.Ok := by
  refine ⟨fun t ht => ?_, fun t ht => ?_⟩ <;> repeat' first
    | with_reducible assumption | with_reducible apply refuse_hostOk | dsimp only [effect, answer, id] | split | with_reducible apply count_hostOk | with_reducible apply setVlan_hostOk
    | with_reducible apply HostOk.ite | with_reducible apply HostOk.foldl | with_reducible apply HostOk.mk_of
    | with_reducible rfl | intro _ | dsimp only

theorem procPortSetIntake_hostOk (h : Hdr) (port : Nat) (e : List IntakeEntry) (s : State) : (procPortSetIntake h port
    e s).work.Ok := by
  refine ⟨fun t ht => ?_, fun t ht => ?_⟩ <;> repeat' first
    | with_reducible assumption | with_reducible apply refuse_hostOk | dsimp only [effect, answer, id] | split | with_reducible apply setIntake_hostOk | with_reducible apply HostOk.ite
    | with_reducible apply HostOk.foldl | with_reducible apply HostOk.mk_of | with_reducible rfl | intro _
    | dsimp only

theorem procPortSetPtMap_hostOk (h : Hdr) (port map : Nat) (s : State) : (procPortSetPtMap h port map s).work.Ok := by
  refine ⟨fun t ht => ?_, fun t ht => ?_⟩ <;> repeat' first
    | with_reducible assumption | with_reducible apply refuse_hostOk | dsimp only [effect, answer, id] | split | with_reducible apply setPtMap_hostOk | with_reducible apply HostOk.ite
    | with_reducible apply HostOk.foldl | with_reducible apply HostOk.mk_of | with_reducible rfl | intro _
    | dsimp only

theorem procPortPrpPair_hostOk (h : Hdr) (p : PrpP) (s : State) : (procPortPrpPair h p s).work.Ok := by
  refine ⟨fun t ht => ?_, fun t ht => ?_⟩ <;> repeat' first
    | with_reducible assumption | with_reducible apply refuse_hostOk | dsimp only [effect, answer, id] | split | with_reducible apply setPrp_hostOk | with_reducible apply HostOk.ite
    | with_reducible apply HostOk.foldl | with_reducible apply HostOk.mk_of | with_reducible rfl | intro _
    | dsimp only

theorem procPortMacsecCfg_hostOk (h : Hdr) (p : MacsecP) (s : State) : (procPortMacsecCfg h p s).work.Ok := by
  refine ⟨fun t ht => ?_, fun t ht => ?_⟩ <;> repeat' first
    | with_reducible assumption | with_reducible apply refuse_hostOk | dsimp only [effect, answer, id] | split | with_reducible apply setMacsec_hostOk | with_reducible apply HostOk.ite
    | with_reducible apply HostOk.foldl | with_reducible apply HostOk.mk_of | with_reducible rfl | intro _
    | dsimp only

theorem procPortSaInstall_hostOk (h : Hdr) (p : SaP) (s : State) : (procPortSaInstall h p s).work.Ok := by
  refine ⟨fun t ht => ?_, fun t ht => ?_⟩ <;> repeat' first
    | with_reducible assumption | with_reducible apply refuse_hostOk | dsimp only [effect, answer, id] | split | with_reducible apply countRevoked_hostOk
    | with_reducible apply setSa_hostOk | with_reducible apply HostOk.ite | with_reducible apply HostOk.foldl
    | with_reducible apply HostOk.mk_of | with_reducible rfl | intro _ | dsimp only

theorem procPortSaActivate_hostOk (h : Hdr) (port an nextAn : Nat) (s : State) : (procPortSaActivate h port an nextAn
    s).work.Ok := by
  refine ⟨fun t ht => ?_, fun t ht => ?_⟩ <;> repeat' first
    | with_reducible assumption | with_reducible apply refuse_hostOk | dsimp only [effect, answer, id] | split | with_reducible apply updPort_hostOk | with_reducible apply HostOk.ite
    | with_reducible apply HostOk.foldl | with_reducible apply HostOk.mk_of | with_reducible rfl | intro _
    | dsimp only

theorem procPortSaDestroy_hostOk (h : Hdr) (port dir sc an : Nat) (s : State) : (procPortSaDestroy h port dir sc an
    s).work.Ok := by
  refine ⟨fun t ht => ?_, fun t ht => ?_⟩ <;> repeat' first
    | with_reducible assumption | with_reducible apply refuse_hostOk | dsimp only [effect, answer, id] | split | with_reducible apply destroySa_hostOk | with_reducible apply HostOk.ite
    | with_reducible apply HostOk.foldl | with_reducible apply HostOk.mk_of | with_reducible rfl | intro _
    | dsimp only

theorem procPortGateLoad_hostOk (h : Hdr) (p : GateP) (s : State) : (procPortGateLoad h p s).work.Ok := by
  refine ⟨fun k t ht => ?_, fun t ht => ?_⟩ <;> repeat' first
    | with_reducible assumption | with_reducible apply refuse_hostOk | dsimp only [effect, answer, id] | split | with_reducible apply loadGate_hostOk | with_reducible apply HostOk.ite
    | with_reducible apply HostOk.foldl | with_reducible apply HostOk.mk_of | with_reducible rfl | intro _
    | dsimp only

theorem procPortGateQuery_hostOk (h : Hdr) (port : Nat) (s : State) : (procPortGateQuery h port s).work.Ok := by
  refine ⟨fun t ht => ?_, fun t ht => ?_⟩ <;> repeat' first
    | with_reducible assumption | with_reducible apply refuse_hostOk | dsimp only [effect, answer, id] | split | with_reducible apply HostOk.ite | with_reducible apply HostOk.foldl
    | with_reducible apply HostOk.mk_of | with_reducible rfl | intro _ | dsimp only

theorem procPortLinkStatus_hostOk (h : Hdr) (port : Nat) (s : State) : (procPortLinkStatus h port s).work.Ok := by
  refine ⟨fun t ht => ?_, fun t ht => ?_⟩ <;> repeat' first
    | with_reducible assumption | with_reducible apply refuse_hostOk | dsimp only [effect, answer, id] | split | with_reducible apply HostOk.ite | with_reducible apply HostOk.foldl
    | with_reducible apply HostOk.mk_of | with_reducible rfl | intro _ | dsimp only

theorem procPortClearCounters_hostOk (h : Hdr) (mask : Nat) (s : State) : (procPortClearCounters h mask s).work.Ok :=
    by
  refine ⟨fun t ht => ?_, fun t ht => ?_⟩ <;> repeat' first
    | with_reducible assumption | with_reducible apply refuse_hostOk | dsimp only [effect, answer, id] | split | with_reducible apply clearPorts_hostOk | with_reducible apply HostOk.ite
    | with_reducible apply HostOk.foldl | with_reducible apply HostOk.mk_of | with_reducible rfl | intro _
    | dsimp only

theorem execPortConfig_hostOk (h : Hdr) (p : PortP) (s : State) (hs : HostOk s) : ∃ σ, execPortConfig h p s = .next σ
    ∧ HostOk σ := ⟨_, rfl, runProc_hostOk _ _ (procPortConfig_hostOk _ _ _) hs⟩

theorem execPortSetExact_hostOk (h : Hdr) (port index en addr : Nat) (s : State) (hs : HostOk s) : ∃ σ,
    execPortSetExact h port index en addr s = .next σ ∧ HostOk σ := ⟨_, rfl, runProc_hostOk _ _ (procPortSetExact_hostOk _ _ _ _ _ _) hs⟩

theorem execPortSetHash_hostOk (h : Hdr) (p : HashP) (s : State) (hs : HostOk s) : ∃ σ, execPortSetHash h p s = .next
    σ ∧ HostOk σ := ⟨_, rfl, runProc_hostOk _ _ (procPortSetHash_hostOk _ _ _) hs⟩

theorem execPortSetVlan_hostOk (h : Hdr) (p : VlanP) (s : State) (hs : HostOk s) : ∃ σ, execPortSetVlan h p s = .next
    σ ∧ HostOk σ := ⟨_, rfl, runProc_hostOk _ _ (procPortSetVlan_hostOk _ _ _) hs⟩

theorem execPortSetIntake_hostOk (h : Hdr) (port : Nat) (e : List IntakeEntry) (s : State) (hs : HostOk s) : ∃ σ,
    execPortSetIntake h port e s = .next σ ∧ HostOk σ := ⟨_, rfl, runProc_hostOk _ _ (procPortSetIntake_hostOk _ _ _ _) hs⟩

theorem execPortSetPtMap_hostOk (h : Hdr) (port map : Nat) (s : State) (hs : HostOk s) : ∃ σ, execPortSetPtMap h port
    map s = .next σ ∧ HostOk σ := ⟨_, rfl, runProc_hostOk _ _ (procPortSetPtMap_hostOk _ _ _ _) hs⟩

theorem execPortPrpPair_hostOk (h : Hdr) (p : PrpP) (s : State) (hs : HostOk s) : ∃ σ, execPortPrpPair h p s = .next σ
    ∧ HostOk σ := ⟨_, rfl, runProc_hostOk _ _ (procPortPrpPair_hostOk _ _ _) hs⟩

theorem execPortMacsecCfg_hostOk (h : Hdr) (p : MacsecP) (s : State) (hs : HostOk s) : ∃ σ, execPortMacsecCfg h p s =
    .next σ ∧ HostOk σ := ⟨_, rfl, runProc_hostOk _ _ (procPortMacsecCfg_hostOk _ _ _) hs⟩

theorem execPortSaInstall_hostOk (h : Hdr) (p : SaP) (s : State) (hs : HostOk s) : ∃ σ, execPortSaInstall h p s =
    .next σ ∧ HostOk σ := ⟨_, rfl, runProc_hostOk _ _ (procPortSaInstall_hostOk _ _ _) hs⟩

theorem execPortSaActivate_hostOk (h : Hdr) (port an nextAn : Nat) (s : State) (hs : HostOk s) : ∃ σ,
    execPortSaActivate h port an nextAn s = .next σ ∧ HostOk σ := ⟨_, rfl, runProc_hostOk _ _ (procPortSaActivate_hostOk _ _ _ _ _) hs⟩

theorem execPortSaDestroy_hostOk (h : Hdr) (port dir sc an : Nat) (s : State) (hs : HostOk s) : ∃ σ, execPortSaDestroy
    h port dir sc an s = .next σ ∧ HostOk σ := ⟨_, rfl, runProc_hostOk _ _ (procPortSaDestroy_hostOk _ _ _ _ _ _) hs⟩

theorem execPortGateLoad_hostOk (h : Hdr) (p : GateP) (s : State) (hs : HostOk s) : ∃ σ, execPortGateLoad h p s =
    .next σ ∧ HostOk σ := ⟨_, rfl, runProc_hostOk _ _ (procPortGateLoad_hostOk _ _ _) hs⟩

theorem execPortGateQuery_hostOk (h : Hdr) (port : Nat) (s : State) (hs : HostOk s) : ∃ σ, execPortGateQuery h port s
    = .next σ ∧ HostOk σ := ⟨_, rfl, runProc_hostOk _ _ (procPortGateQuery_hostOk _ _ _) hs⟩

theorem execPortLinkStatus_hostOk (h : Hdr) (port : Nat) (s : State) (hs : HostOk s) : ∃ σ, execPortLinkStatus h port
    s = .next σ ∧ HostOk σ := ⟨_, rfl, runProc_hostOk _ _ (procPortLinkStatus_hostOk _ _ _) hs⟩

theorem execPortClearCounters_hostOk (h : Hdr) (mask : Nat) (s : State) (hs : HostOk s) : ∃ σ, execPortClearCounters h
    mask s = .next σ ∧ HostOk σ := ⟨_, rfl, runProc_hostOk _ _ (procPortClearCounters_hostOk _ _ _) hs⟩

end Sys2Proof.Machine
end

