-- ==== Sys2Proof/Laws/OkTimeCmd.lean ====
section
/-! SUPPORT. The operations of Machine/TimeCmd.lean keep the bounds of the host interface (`HostOk`). -/

namespace Sys2Proof.Machine

theorem setTime_hostOk (p : TimeP) (s : State) (hs : HostOk s) : HostOk (setTime p s) :=
  hs.of_look (setTime_look _ (fun _ _ => rfl) p s)

theorem setSources_hostOk (primary secondary revertS : Nat) (s : State) (hs : HostOk s) : HostOk (setSources primary
    secondary revertS s) := by
  simp only [setSources]
  repeat' first
    | with_reducible assumption | split | with_reducible apply updTether_hostOk
    | with_reducible apply loseSource_hostOk | with_reducible apply HostOk.ite | with_reducible apply HostOk.foldl
    | with_reducible apply HostOk.mk_of | with_reducible rfl | intro _ | dsimp only

theorem setPtp_hostOk (p : PtpP) (s : State) (hs : HostOk s) : HostOk (setPtp p s) := by
  simp only [setPtp]
  repeat' first
    | with_reducible assumption | split | with_reducible apply losePtp_hostOk | with_reducible apply updSlave_hostOk
    | with_reducible apply HostOk.ite | with_reducible apply HostOk.foldl | with_reducible apply HostOk.mk_of
    | with_reducible rfl | intro _ | dsimp only

theorem markPtp_hostOk (inst : Nat) (h : Option Nat) (s : State) (hs : HostOk s) : HostOk (markPtp inst h s) :=
  hs.of_look (markPtp_look _ (fun _ _ => rfl) inst h s)

theorem finishPtpConfig_hostOk (o : OpEntry) (p : PtpP) (hwFault : Bool) (s : State) (hs : HostOk s) : HostOk
    (finishPtpConfig o p hwFault s) := by
  simp only [finishPtpConfig]
  repeat' first
    | with_reducible assumption | split | with_reducible apply markPtp_hostOk
    | with_reducible apply finalCompletion_hostOk | with_reducible apply setPtp_hostOk
    | with_reducible apply HostOk.ite | with_reducible apply HostOk.foldl | with_reducible apply HostOk.mk_of
    | with_reducible rfl | intro _ | dsimp only

theorem setPps_hostOk (p : PpsP) (s : State) (hs : HostOk s) : HostOk (setPps p s) :=
  hs.of_look (setPps_look _ (fun _ _ => rfl) p s)

theorem setLat_hostOk (p : LatP) (s : State) (hs : HostOk s) : HostOk (setLat p s) :=
  hs.of_look (setLat_look _ (fun _ _ => rfl) p s)

theorem setDeviceTime_hostOk (t : DT80) (s : State) (hs : HostOk s) : HostOk (setDeviceTime t s) := by
  simp only [setDeviceTime]
  repeat' first
    | with_reducible assumption | split | with_reducible apply updTether_hostOk
    | with_reducible apply stepTime_hostOk | with_reducible apply HostOk.ite | with_reducible apply HostOk.foldl
    | with_reducible apply HostOk.mk_of | with_reducible rfl | intro _ | dsimp only

theorem disarmCmp_hostOk (n : Nat) (s : State) (hs : HostOk s) : HostOk (disarmCmp n s) := by
  simp only [disarmCmp]
  repeat' first
    | with_reducible assumption | split | with_reducible apply fireCmp_hostOk | with_reducible apply setCmp_hostOk
    | with_reducible apply HostOk.ite | with_reducible apply HostOk.foldl | with_reducible apply HostOk.mk_of
    | with_reducible rfl | intro _ | dsimp only

theorem forceHoldover_hostOk (en : Nat) (s : State) (hs : HostOk s) : HostOk (forceHoldover en s) := by
  simp only [forceHoldover]
  repeat' first
    | with_reducible assumption | split | with_reducible apply enterHoldover_hostOk
    | with_reducible apply updTether_hostOk | with_reducible apply HostOk.ite | with_reducible apply HostOk.foldl
    | with_reducible apply HostOk.mk_of | with_reducible rfl | intro _ | dsimp only

theorem finishMainRetest_hostOk (o : OpEntry) (pass : Bool) (s : State) (hs : HostOk s) : HostOk (finishMainRetest o
    pass s) := by
  simp only [finishMainRetest]
  repeat' first
    | with_reducible assumption | split | with_reducible apply finalCompletion_hostOk
    | with_reducible apply restoreMain_hostOk | with_reducible apply HostOk.ite | with_reducible apply HostOk.foldl
    | with_reducible apply HostOk.mk_of | with_reducible rfl | intro _ | dsimp only

theorem procTimeConfig_hostOk (h : Hdr) (p : TimeP) (s : State) : (procTimeConfig h p s).work.Ok := by
  refine ⟨fun t ht => ?_, fun t ht => ?_⟩ <;> repeat' first
    | with_reducible assumption | with_reducible apply refuse_hostOk | dsimp only [effect, answer, id] | split | with_reducible apply setTime_hostOk | with_reducible apply HostOk.ite
    | with_reducible apply HostOk.foldl | with_reducible apply HostOk.mk_of | with_reducible rfl | intro _
    | dsimp only

theorem procTimeSource_hostOk (h : Hdr) (primary secondary revertS : Nat) (s : State) : (procTimeSource h primary
    secondary revertS s).work.Ok := by
  refine ⟨fun t ht => ?_, fun t ht => ?_⟩ <;> repeat' first
    | with_reducible assumption | with_reducible apply refuse_hostOk | dsimp only [effect, answer, id] | split | with_reducible apply setSources_hostOk | with_reducible apply HostOk.ite
    | with_reducible apply HostOk.foldl | with_reducible apply HostOk.mk_of | with_reducible rfl | intro _
    | dsimp only

theorem procTimePtpConfig_hostOk (h : Hdr) (p : PtpP) (s : State) : (procTimePtpConfig h p s).work.Ok := by
  refine ⟨fun k t ht => ?_, fun t ht => ?_⟩ <;> repeat' first
    | with_reducible assumption | with_reducible apply refuse_hostOk | dsimp only [effect, answer, id] | split | with_reducible apply markPtp_hostOk | with_reducible apply HostOk.ite
    | with_reducible apply HostOk.foldl | with_reducible apply HostOk.mk_of | with_reducible rfl | intro _
    | dsimp only

theorem procTimePpsConfig_hostOk (h : Hdr) (p : PpsP) (s : State) : (procTimePpsConfig h p s).work.Ok := by
  refine ⟨fun t ht => ?_, fun t ht => ?_⟩ <;> repeat' first
    | with_reducible assumption | with_reducible apply refuse_hostOk | dsimp only [effect, answer, id] | split | with_reducible apply setPps_hostOk | with_reducible apply HostOk.ite
    | with_reducible apply HostOk.foldl | with_reducible apply HostOk.mk_of | with_reducible rfl | intro _
    | dsimp only

theorem procTimePortLatency_hostOk (h : Hdr) (p : LatP) (s : State) : (procTimePortLatency h p s).work.Ok := by
  refine ⟨fun t ht => ?_, fun t ht => ?_⟩ <;> repeat' first
    | with_reducible assumption | with_reducible apply refuse_hostOk | dsimp only [effect, answer, id] | split | with_reducible apply setLat_hostOk | with_reducible apply HostOk.ite
    | with_reducible apply HostOk.foldl | with_reducible apply HostOk.mk_of | with_reducible rfl | intro _
    | dsimp only

theorem procTimeRead_hostOk (h : Hdr) (s : State) : (procTimeRead h s).work.Ok := by
  refine ⟨fun t ht => ?_, fun t ht => ?_⟩ <;> repeat' first
    | with_reducible assumption | with_reducible apply refuse_hostOk | dsimp only [effect, answer, id] | split | with_reducible apply HostOk.ite | with_reducible apply HostOk.foldl
    | with_reducible apply HostOk.mk_of | with_reducible rfl | intro _ | dsimp only

theorem procTimeSet_hostOk (h : Hdr) (t : DT80) (s : State) : (procTimeSet h t s).work.Ok := by
  refine ⟨fun t ht => ?_, fun t ht => ?_⟩ <;> repeat' first
    | with_reducible assumption | with_reducible apply refuse_hostOk | dsimp only [effect, answer, id] | split | with_reducible apply setDeviceTime_hostOk
    | with_reducible apply HostOk.ite | with_reducible apply HostOk.foldl | with_reducible apply HostOk.mk_of
    | with_reducible rfl | intro _ | dsimp only

theorem procTimeUtcOffset_hostOk (h : Hdr) (ofs : Int) (valid leap : Nat) (s : State) : (procTimeUtcOffset h ofs valid
    leap s).work.Ok := by
  refine ⟨fun t ht => ?_, fun t ht => ?_⟩ <;> repeat' first
    | with_reducible assumption | with_reducible apply refuse_hostOk | dsimp only [effect, answer, id] | split | with_reducible apply setUtc_hostOk | with_reducible apply HostOk.ite
    | with_reducible apply HostOk.foldl | with_reducible apply HostOk.mk_of | with_reducible rfl | intro _
    | dsimp only

theorem procTimeCmpArm_hostOk (h : Hdr) (p : CmpP) (s : State) : (procTimeCmpArm h p s).work.Ok := by
  refine ⟨fun t ht => ?_, fun t ht => ?_⟩ <;> repeat' first
    | with_reducible assumption | with_reducible apply refuse_hostOk | dsimp only [effect, answer, id] | split | with_reducible apply armCmp_hostOk | with_reducible apply HostOk.ite
    | with_reducible apply HostOk.foldl | with_reducible apply HostOk.mk_of | with_reducible rfl | intro _
    | dsimp only

theorem procTimeCmpDisarm_hostOk (h : Hdr) (cmp : Nat) (s : State) : (procTimeCmpDisarm h cmp s).work.Ok := by
  refine ⟨fun t ht => ?_, fun t ht => ?_⟩ <;> repeat' first
    | with_reducible assumption | with_reducible apply refuse_hostOk | dsimp only [effect, answer, id] | split | with_reducible apply disarmCmp_hostOk | with_reducible apply HostOk.ite
    | with_reducible apply HostOk.foldl | with_reducible apply HostOk.mk_of | with_reducible rfl | intro _
    | dsimp only

theorem procTimeCmpQuery_hostOk (h : Hdr) (cmp : Nat) (s : State) : (procTimeCmpQuery h cmp s).work.Ok := by
  refine ⟨fun t ht => ?_, fun t ht => ?_⟩ <;> repeat' first
    | with_reducible assumption | with_reducible apply refuse_hostOk | dsimp only [effect, answer, id] | split | with_reducible apply HostOk.ite | with_reducible apply HostOk.foldl
    | with_reducible apply HostOk.mk_of | with_reducible rfl | intro _ | dsimp only

theorem procTimeHoldoverTest_hostOk (h : Hdr) (en : Nat) (s : State) : (procTimeHoldoverTest h en s).work.Ok := by
  refine ⟨fun t ht => ?_, fun t ht => ?_⟩ <;> repeat' first
    | with_reducible assumption | with_reducible apply refuse_hostOk | dsimp only [effect, answer, id] | split | with_reducible apply forceHoldover_hostOk
    | with_reducible apply HostOk.ite | with_reducible apply HostOk.foldl | with_reducible apply HostOk.mk_of
    | with_reducible rfl | intro _ | dsimp only

theorem procTimeMainRetest_hostOk (h : Hdr) (s : State) : (procTimeMainRetest h s).work.Ok := by
  refine ⟨fun k t ht => ?_, fun t ht => ?_⟩ <;> repeat' first
    | with_reducible assumption | with_reducible apply refuse_hostOk | dsimp only [effect, answer, id] | split | with_reducible apply startSelftest_hostOk
    | with_reducible apply HostOk.ite | with_reducible apply HostOk.foldl | with_reducible apply HostOk.mk_of
    | with_reducible rfl | intro _ | dsimp only

theorem procTimeStatus_hostOk (h : Hdr) (s : State) : (procTimeStatus h s).work.Ok := by
  refine ⟨fun t ht => ?_, fun t ht => ?_⟩ <;> repeat' first
    | with_reducible assumption | with_reducible apply refuse_hostOk | dsimp only [effect, answer, id] | split | with_reducible apply HostOk.ite | with_reducible apply HostOk.foldl
    | with_reducible apply HostOk.mk_of | with_reducible rfl | intro _ | dsimp only

theorem procTimeClearCounters_hostOk (h : Hdr) (s : State) : (procTimeClearCounters h s).work.Ok := by
  refine ⟨fun t ht => ?_, fun t ht => ?_⟩ <;> repeat' first
    | with_reducible assumption | with_reducible apply refuse_hostOk | dsimp only [effect, answer, id] | split | with_reducible apply clearCounters_hostOk
    | with_reducible apply HostOk.ite | with_reducible apply HostOk.foldl | with_reducible apply HostOk.mk_of
    | with_reducible rfl | intro _ | dsimp only

theorem execTimeConfig_hostOk (h : Hdr) (p : TimeP) (s : State) (hs : HostOk s) : ∃ σ, execTimeConfig h p s = .next σ
    ∧ HostOk σ := ⟨_, rfl, runProc_hostOk _ _ (procTimeConfig_hostOk _ _ _) hs⟩

theorem execTimeSource_hostOk (h : Hdr) (primary secondary revertS : Nat) (s : State) (hs : HostOk s) : ∃ σ,
    execTimeSource h primary secondary revertS s = .next σ ∧ HostOk σ := ⟨_, rfl, runProc_hostOk _ _ (procTimeSource_hostOk _ _ _ _ _) hs⟩

theorem execTimePtpConfig_hostOk (h : Hdr) (p : PtpP) (s : State) (hs : HostOk s) : ∃ σ, execTimePtpConfig h p s =
    .next σ ∧ HostOk σ := ⟨_, rfl, runProc_hostOk _ _ (procTimePtpConfig_hostOk _ _ _) hs⟩

theorem execTimePpsConfig_hostOk (h : Hdr) (p : PpsP) (s : State) (hs : HostOk s) : ∃ σ, execTimePpsConfig h p s =
    .next σ ∧ HostOk σ := ⟨_, rfl, runProc_hostOk _ _ (procTimePpsConfig_hostOk _ _ _) hs⟩

theorem execTimePortLatency_hostOk (h : Hdr) (p : LatP) (s : State) (hs : HostOk s) : ∃ σ, execTimePortLatency h p s =
    .next σ ∧ HostOk σ := ⟨_, rfl, runProc_hostOk _ _ (procTimePortLatency_hostOk _ _ _) hs⟩

theorem execTimeRead_hostOk (h : Hdr) (s : State) (hs : HostOk s) : ∃ σ, execTimeRead h s = .next σ ∧ HostOk σ := ⟨_, rfl, runProc_hostOk _ _ (procTimeRead_hostOk _ _) hs⟩

theorem execTimeSet_hostOk (h : Hdr) (t : DT80) (s : State) (hs : HostOk s) : ∃ σ, execTimeSet h t s = .next σ ∧
    HostOk σ := ⟨_, rfl, runProc_hostOk _ _ (procTimeSet_hostOk _ _ _) hs⟩

theorem execTimeUtcOffset_hostOk (h : Hdr) (ofs : Int) (valid leap : Nat) (s : State) (hs : HostOk s) : ∃ σ,
    execTimeUtcOffset h ofs valid leap s = .next σ ∧ HostOk σ := ⟨_, rfl, runProc_hostOk _ _ (procTimeUtcOffset_hostOk _ _ _ _ _) hs⟩

theorem execTimeCmpArm_hostOk (h : Hdr) (p : CmpP) (s : State) (hs : HostOk s) : ∃ σ, execTimeCmpArm h p s = .next σ ∧
    HostOk σ := ⟨_, rfl, runProc_hostOk _ _ (procTimeCmpArm_hostOk _ _ _) hs⟩

theorem execTimeCmpDisarm_hostOk (h : Hdr) (cmp : Nat) (s : State) (hs : HostOk s) : ∃ σ, execTimeCmpDisarm h cmp s =
    .next σ ∧ HostOk σ := ⟨_, rfl, runProc_hostOk _ _ (procTimeCmpDisarm_hostOk _ _ _) hs⟩

theorem execTimeCmpQuery_hostOk (h : Hdr) (cmp : Nat) (s : State) (hs : HostOk s) : ∃ σ, execTimeCmpQuery h cmp s =
    .next σ ∧ HostOk σ := ⟨_, rfl, runProc_hostOk _ _ (procTimeCmpQuery_hostOk _ _ _) hs⟩

theorem execTimeHoldoverTest_hostOk (h : Hdr) (en : Nat) (s : State) (hs : HostOk s) : ∃ σ, execTimeHoldoverTest h en
    s = .next σ ∧ HostOk σ := ⟨_, rfl, runProc_hostOk _ _ (procTimeHoldoverTest_hostOk _ _ _) hs⟩

theorem execTimeMainRetest_hostOk (h : Hdr) (s : State) (hs : HostOk s) : ∃ σ, execTimeMainRetest h s = .next σ ∧
    HostOk σ := ⟨_, rfl, runProc_hostOk _ _ (procTimeMainRetest_hostOk _ _) hs⟩

theorem execTimeStatus_hostOk (h : Hdr) (s : State) (hs : HostOk s) : ∃ σ, execTimeStatus h s = .next σ ∧ HostOk σ := ⟨_, rfl, runProc_hostOk _ _ (procTimeStatus_hostOk _ _) hs⟩

theorem execTimeClearCounters_hostOk (h : Hdr) (s : State) (hs : HostOk s) : ∃ σ, execTimeClearCounters h s = .next σ
    ∧ HostOk σ := ⟨_, rfl, runProc_hostOk _ _ (procTimeClearCounters_hostOk _ _) hs⟩

end Sys2Proof.Machine
end

