-- ==== Sys2Proof/Laws/OkStreamCmd.lean ====
section
/-! SUPPORT. The operations of Machine/StreamCmd.lean keep the bounds of the host interface (`HostOk`). -/

namespace Sys2Proof.Machine

theorem placeStream_hostOk (p : StreamP) (byCommand : Bool) (s : State) (hs : HostOk s) : HostOk (placeStream p
    byCommand s) :=
  hs.of_look (placeStream_look _ (fun _ _ => rfl) p byCommand s)

theorem installStream_hostOk (p : StreamP) (byCommand : Bool) (s : State) (hs : HostOk s) : HostOk (installStream p
    byCommand s) := by
  simp only [installStream]
  repeat' first
    | with_reducible assumption | split | with_reducible apply noteState_hostOk
    | with_reducible apply placeStream_hostOk | with_reducible apply quarantine_hostOk
    | with_reducible apply HostOk.ite | with_reducible apply HostOk.foldl | with_reducible apply HostOk.mk_of
    | with_reducible rfl | intro _ | dsimp only

theorem finishInstall_hostOk (o : OpEntry) (p : StreamP) (hwFault : Bool) (s : State) (hs : HostOk s) : HostOk
    (finishInstall o p hwFault s) := by
  simp only [finishInstall]
  repeat' first
    | with_reducible assumption | split | with_reducible apply finalCompletion_hostOk
    | with_reducible apply placeStream_hostOk | with_reducible apply installStream_hostOk
    | with_reducible apply HostOk.ite | with_reducible apply HostOk.foldl | with_reducible apply HostOk.mk_of
    | with_reducible rfl | intro _ | dsimp only

theorem removeStream_hostOk (sid : Nat) (s : State) (hs : HostOk s) : HostOk (removeStream sid s) := by
  simp only [removeStream]
  repeat' first
    | with_reducible assumption | split | with_reducible apply setStreamState_hostOk
    | with_reducible apply HostOk.ite | with_reducible apply HostOk.foldl | with_reducible apply HostOk.mk_of
    | with_reducible rfl | intro _ | dsimp only

theorem rekey_hostOk (sid keyNext keyIdNext : Nat) (s : State) (hs : HostOk s) : HostOk (rekey sid keyNext keyIdNext
    s) :=
  hs.of_look (rekey_look _ (fun _ _ => rfl) sid keyNext keyIdNext s)

theorem releaseStream_hostOk (sid : Nat) (s : State) (hs : HostOk s) : HostOk (releaseStream sid s) := by
  simp only [releaseStream]
  repeat' first
    | with_reducible assumption | split | with_reducible apply setStreamState_hostOk
    | with_reducible apply updStream_hostOk | with_reducible apply failStream_hostOk
    | with_reducible apply HostOk.ite | with_reducible apply HostOk.foldl | with_reducible apply HostOk.mk_of
    | with_reducible rfl | intro _ | dsimp only

theorem finishList_hostOk (o : OpEntry) (addr : Nat) (s : State) (hs : HostOk s) : HostOk (finishList o addr s) := by
  simp only [finishList]
  repeat' first
    | with_reducible assumption | split | with_reducible apply finalCompletion_hostOk
    | with_reducible apply hostOut_hostOk | with_reducible apply HostOk.ite | with_reducible apply HostOk.foldl
    | with_reducible apply HostOk.mk_of | with_reducible rfl | intro _ | dsimp only

theorem setSi_hostOk (p : SiP) (s : State) (hs : HostOk s) : HostOk (setSi p s) :=
  hs.of_look (setSi_look _ (fun _ _ => rfl) p s)

theorem clearStreams_hostOk (first count : Nat) (s : State) (hs : HostOk s) : HostOk (clearStreams first count s) :=
    by
  simp only [clearStreams]
  repeat' first
    | with_reducible assumption | split | with_reducible apply count_hostOk
    | with_reducible apply clearCounters_hostOk | with_reducible apply HostOk.ite
    | with_reducible apply HostOk.foldl | with_reducible apply HostOk.mk_of | with_reducible rfl | intro _
    | dsimp only

theorem procStreamInstall_hostOk (h : Hdr) (p : StreamP) (s : State) : (procStreamInstall h p s).work.Ok := by
  refine ⟨fun k t ht => ?_, fun t ht => ?_⟩ <;> repeat' first
    | with_reducible assumption | with_reducible apply refuse_hostOk | dsimp only [effect, answer, id] | split | with_reducible apply countRevoked_hostOk | with_reducible apply HostOk.ite
    | with_reducible apply HostOk.foldl | with_reducible apply HostOk.mk_of | with_reducible rfl | intro _
    | dsimp only

theorem procStreamRemove_hostOk (h : Hdr) (sid : Nat) (s : State) : (procStreamRemove h sid s).work.Ok := by
  refine ⟨fun t ht => ?_, fun t ht => ?_⟩ <;> repeat' first
    | with_reducible assumption | with_reducible apply refuse_hostOk | dsimp only [effect, answer, id] | split | with_reducible apply removeStream_hostOk | with_reducible apply HostOk.ite
    | with_reducible apply HostOk.foldl | with_reducible apply HostOk.mk_of | with_reducible rfl | intro _
    | dsimp only

theorem procStreamRekey_hostOk (h : Hdr) (sid keyNext keyIdNext : Nat) (s : State) : (procStreamRekey h sid keyNext
    keyIdNext s).work.Ok := by
  refine ⟨fun t ht => ?_, fun t ht => ?_⟩ <;> repeat' first
    | with_reducible assumption | with_reducible apply refuse_hostOk | dsimp only [effect, answer, id] | split | with_reducible apply countRevoked_hostOk
    | with_reducible apply rekey_hostOk | with_reducible apply HostOk.ite | with_reducible apply HostOk.foldl
    | with_reducible apply HostOk.mk_of | with_reducible rfl | intro _ | dsimp only

theorem procStreamRelease_hostOk (h : Hdr) (sid : Nat) (s : State) : (procStreamRelease h sid s).work.Ok := by
  refine ⟨fun t ht => ?_, fun t ht => ?_⟩ <;> repeat' first
    | with_reducible assumption | with_reducible apply refuse_hostOk | dsimp only [effect, answer, id] | split | with_reducible apply releaseStream_hostOk
    | with_reducible apply HostOk.ite | with_reducible apply HostOk.foldl | with_reducible apply HostOk.mk_of
    | with_reducible rfl | intro _ | dsimp only

theorem procStreamQuery_hostOk (h : Hdr) (sid : Nat) (s : State) : (procStreamQuery h sid s).work.Ok := by
  refine ⟨fun t ht => ?_, fun t ht => ?_⟩ <;> repeat' first
    | with_reducible assumption | with_reducible apply refuse_hostOk | dsimp only [effect, answer, id] | split | with_reducible apply HostOk.ite | with_reducible apply HostOk.foldl
    | with_reducible apply HostOk.mk_of | with_reducible rfl | intro _ | dsimp only

theorem procStreamSetTimers_hostOk (h : Hdr) (sid staleN lostN : Nat) (s : State) : (procStreamSetTimers h sid staleN
    lostN s).work.Ok := by
  refine ⟨fun t ht => ?_, fun t ht => ?_⟩ <;> repeat' first
    | with_reducible assumption | with_reducible apply refuse_hostOk | dsimp only [effect, answer, id] | split | with_reducible apply updStream_hostOk | with_reducible apply HostOk.ite
    | with_reducible apply HostOk.foldl | with_reducible apply HostOk.mk_of | with_reducible rfl | intro _
    | dsimp only

theorem procStreamList_hostOk (h : Hdr) (addr len : Nat) (s : State) : (procStreamList h addr len s).work.Ok := by
  exact Work.later_ok _

theorem procStreamGconfig_hostOk (h : Hdr) (p : SiP) (s : State) : (procStreamGconfig h p s).work.Ok := by
  refine ⟨fun t ht => ?_, fun t ht => ?_⟩ <;> repeat' first
    | with_reducible assumption | with_reducible apply refuse_hostOk | dsimp only [effect, answer, id] | split | with_reducible apply setSi_hostOk | with_reducible apply HostOk.ite
    | with_reducible apply HostOk.foldl | with_reducible apply HostOk.mk_of | with_reducible rfl | intro _
    | dsimp only

theorem procStreamClearCounters_hostOk (h : Hdr) (first count : Nat) (s : State) : (procStreamClearCounters h first
    count s).work.Ok := by
  refine ⟨fun t ht => ?_, fun t ht => ?_⟩ <;> repeat' first
    | with_reducible assumption | with_reducible apply refuse_hostOk | dsimp only [effect, answer, id] | split | with_reducible apply count_hostOk
    | with_reducible apply clearStreams_hostOk | with_reducible apply HostOk.ite | with_reducible apply HostOk.foldl
    | with_reducible apply HostOk.mk_of | with_reducible rfl | intro _ | dsimp only

theorem execStreamInstall_hostOk (h : Hdr) (p : StreamP) (s : State) (hs : HostOk s) : ∃ σ, execStreamInstall h p s =
    .next σ ∧ HostOk σ := ⟨_, rfl, runProc_hostOk _ _ (procStreamInstall_hostOk _ _ _) hs⟩

theorem execStreamRemove_hostOk (h : Hdr) (sid : Nat) (s : State) (hs : HostOk s) : ∃ σ, execStreamRemove h sid s =
    .next σ ∧ HostOk σ := ⟨_, rfl, runProc_hostOk _ _ (procStreamRemove_hostOk _ _ _) hs⟩

theorem execStreamRekey_hostOk (h : Hdr) (sid keyNext keyIdNext : Nat) (s : State) (hs : HostOk s) : ∃ σ,
    execStreamRekey h sid keyNext keyIdNext s = .next σ ∧ HostOk σ := ⟨_, rfl, runProc_hostOk _ _ (procStreamRekey_hostOk _ _ _ _ _) hs⟩

theorem execStreamRelease_hostOk (h : Hdr) (sid : Nat) (s : State) (hs : HostOk s) : ∃ σ, execStreamRelease h sid s =
    .next σ ∧ HostOk σ := ⟨_, rfl, runProc_hostOk _ _ (procStreamRelease_hostOk _ _ _) hs⟩

theorem execStreamQuery_hostOk (h : Hdr) (sid : Nat) (s : State) (hs : HostOk s) : ∃ σ, execStreamQuery h sid s =
    .next σ ∧ HostOk σ := ⟨_, rfl, runProc_hostOk _ _ (procStreamQuery_hostOk _ _ _) hs⟩

theorem execStreamSetTimers_hostOk (h : Hdr) (sid staleN lostN : Nat) (s : State) (hs : HostOk s) : ∃ σ,
    execStreamSetTimers h sid staleN lostN s = .next σ ∧ HostOk σ := ⟨_, rfl, runProc_hostOk _ _ (procStreamSetTimers_hostOk _ _ _ _ _) hs⟩

theorem execStreamList_hostOk (h : Hdr) (addr len : Nat) (s : State) (hs : HostOk s) : ∃ σ, execStreamList h addr len
    s = .next σ ∧ HostOk σ := ⟨_, rfl, runProc_hostOk _ _ (procStreamList_hostOk _ _ _ _) hs⟩

theorem execStreamGconfig_hostOk (h : Hdr) (p : SiP) (s : State) (hs : HostOk s) : ∃ σ, execStreamGconfig h p s =
    .next σ ∧ HostOk σ := ⟨_, rfl, runProc_hostOk _ _ (procStreamGconfig_hostOk _ _ _) hs⟩

theorem execStreamClearCounters_hostOk (h : Hdr) (first count : Nat) (s : State) (hs : HostOk s) : ∃ σ,
    execStreamClearCounters h first count s = .next σ ∧ HostOk σ := ⟨_, rfl, runProc_hostOk _ _ (procStreamClearCounters_hostOk _ _ _ _) hs⟩

end Sys2Proof.Machine
end

