-- ==== Sys2Proof/Laws/OkGroupCmd.lean ====
section
/-! SUPPORT. The operations of Machine/GroupCmd.lean keep the bounds of the host interface (`HostOk`). -/

namespace Sys2Proof.Machine

theorem placeGroup_hostOk (p : GroupP) (members : List Nat) (byCommand : Bool) (s : State) (hs : HostOk s) : HostOk
    (placeGroup p members byCommand s) :=
  hs.of_look (placeGroup_look _ (fun _ _ => rfl) p members byCommand s)

theorem endGroup_hostOk (gid : Nat) (s : State) (hs : HostOk s) : HostOk (endGroup gid s) :=
  hs.of_look (endGroup_look _ (fun _ _ => rfl) gid s)

theorem finishAdmit_hostOk (o : OpEntry) (ok : Bool) (change : State → State) (s : State) (hs : HostOk s) (hchange : ∀
    t, HostOk t → HostOk (change t)) : HostOk (finishAdmit o ok change s) := by
  simp only [finishAdmit]
  repeat' first
    | with_reducible assumption | split | with_reducible apply hchange | with_reducible apply finalCompletion_hostOk
    | with_reducible apply reMode_hostOk | with_reducible apply HostOk.ite | with_reducible apply HostOk.foldl
    | with_reducible apply HostOk.mk_of | with_reducible rfl | intro _ | dsimp only

theorem finishGroupDefine_hostOk (o : OpEntry) (p : GroupP) (hwFault : Bool) (s : State) (hs : HostOk s) : HostOk
    (finishGroupDefine o p hwFault s) := by
  simp only [finishGroupDefine]
  repeat' first
    | with_reducible assumption | split | with_reducible apply finishAdmit_hostOk
    | with_reducible apply placeGroup_hostOk | with_reducible apply HostOk.ite | with_reducible apply HostOk.foldl
    | with_reducible apply HostOk.mk_of | with_reducible rfl | intro _ | dsimp only

theorem discardOpen_hostOk (gid : Nat) (s : State) (hs : HostOk s) : HostOk (discardOpen gid s) := by
  simp only [discardOpen]
  repeat' first
    | with_reducible assumption | split | with_reducible apply freeCells_hostOk | with_reducible apply countN_hostOk
    | with_reducible apply setGroup_hostOk | with_reducible apply HostOk.ite | with_reducible apply HostOk.foldl
    | with_reducible apply HostOk.mk_of | with_reducible rfl | intro _ | dsimp only

theorem changeGroup_hostOk (gid : Nat) (f : Group → Group) (s : State) (hs : HostOk s) : HostOk (changeGroup gid f s)
    :=
  hs.of_look (changeGroup_look _ (fun _ _ => rfl) gid f s)

theorem finishGroupChange_hostOk (o : OpEntry) (gid : Nat) (f : Group → Group) (hwFault : Bool) (s : State) (hs : HostOk s) :
    HostOk (finishGroupChange o gid f hwFault s) := by
  unfold finishGroupChange
  exact finishAdmit_hostOk _ _ _ _ hs (fun _ h => changeGroup_hostOk _ _ _ h)

theorem leaveWaiting_hostOk (gid op : Nat) (sids : List Nat) (s : State) (hs : HostOk s) : HostOk (leaveWaiting gid op
    sids s) :=
  hs.of_look (leaveWaiting_look _ (fun _ _ => rfl) gid op sids s)

theorem finishGroupMembers_hostOk (o : OpEntry) (gid op : Nat) (sids : List Nat) (hwFault : Bool) (s : State) (hs :
    HostOk s) : HostOk (finishGroupMembers o gid op sids hwFault s) := by
  simp only [finishGroupMembers]
  repeat' first
    | with_reducible assumption | split | with_reducible apply finishAdmit_hostOk
    | with_reducible apply leaveWaiting_hostOk | with_reducible apply changeGroup_hostOk
    | with_reducible apply HostOk.ite | with_reducible apply HostOk.foldl | with_reducible apply HostOk.mk_of
    | with_reducible rfl | intro _ | dsimp only

theorem finishSetTiming_hostOk (o : OpEntry) (p : TimingP) (hwFault : Bool) (s : State) (hs : HostOk s) : HostOk
    (finishSetTiming o p hwFault s) := by
  simp only [finishSetTiming]
  repeat' first
    | with_reducible assumption | split | with_reducible apply finishGroupChange_hostOk
    | with_reducible apply HostOk.ite | with_reducible apply HostOk.foldl | with_reducible apply HostOk.mk_of
    | with_reducible rfl | intro _ | dsimp only

theorem placeSession_hostOk (p : SessionP) (en byCommand : Bool) (s : State) (hs : HostOk s) : HostOk (placeSession p
    en byCommand s) :=
  hs.of_look (placeSession_look _ (fun _ _ => rfl) p en byCommand s)

theorem finishSessionDefine_hostOk (o : OpEntry) (p : SessionP) (hwFault : Bool) (s : State) (hs : HostOk s) : HostOk
    (finishSessionDefine o p hwFault s) := by
  simp only [finishSessionDefine]
  repeat' first
    | with_reducible assumption | split | with_reducible apply finishAdmit_hostOk
    | with_reducible apply placeSession_hostOk | with_reducible apply HostOk.ite | with_reducible apply HostOk.foldl
    | with_reducible apply HostOk.mk_of | with_reducible rfl | intro _ | dsimp only

theorem enableSession_hostOk (session : Nat) (en : Bool) (s : State) (hs : HostOk s) : HostOk (enableSession session
    en s) :=
  hs.of_look (enableSession_look _ (fun _ _ => rfl) session en s)

theorem readAll_hostOk (c : Cell) (s : State) (hs : HostOk s) : HostOk (readAll c s).2 := by
  unfold readAll
  split
  · exact hs
  · exact HostOk.foldl_of (fun x : Bool × State => x.2) _ _ (fun b a h => readGood_hostOk _ _ _ h) hs

theorem finishReadCell_hostOk (o : OpEntry) (gid sid index addr : Nat) (dataBad : Bool) (s : State) (hs : HostOk s) :
    HostOk (finishReadCell o gid sid index addr dataBad s) := by
  unfold finishReadCell
  split
  · exact finalCompletion_hostOk _ _ _ _ hs
  · rename_i c _
    have hr := readAll_hostOk c s hs
    dsimp only
    split
    · exact finalCompletion_hostOk _ _ _ _ hr
    · exact finalCompletion_hostOk _ _ _ _ (hostOut_hostOk _ _ _ _ hr)

theorem clearGroups_hostOk (mask : Nat) (s : State) (hs : HostOk s) : HostOk (clearGroups mask s) := by
  simp only [clearGroups]
  repeat' first
    | with_reducible assumption | split | with_reducible apply clearCounters_hostOk
    | with_reducible apply HostOk.ite | with_reducible apply HostOk.foldl | with_reducible apply HostOk.mk_of
    | with_reducible rfl | intro _ | dsimp only

theorem setErg_hostOk (p : ErgP) (s : State) (hs : HostOk s) : HostOk (setErg p s) :=
  hs.of_look (setErg_look _ (fun _ _ => rfl) p s)

theorem procGroupDefine_hostOk (h : Hdr) (p : GroupP) (s : State) : (procGroupDefine h p s).work.Ok := by
  exact Work.later_ok _

theorem procGroupDelete_hostOk (h : Hdr) (gid : Nat) (s : State) : (procGroupDelete h gid s).work.Ok := by
  refine ⟨fun t ht => ?_, fun t ht => ?_⟩ <;> repeat' first
    | with_reducible assumption | with_reducible apply refuse_hostOk | dsimp only [effect, answer, id] | split | with_reducible apply reMode_hostOk | with_reducible apply endGroup_hostOk
    | with_reducible apply discardOpen_hostOk | with_reducible apply HostOk.ite | with_reducible apply HostOk.foldl
    | with_reducible apply HostOk.mk_of | with_reducible rfl | intro _ | dsimp only

theorem procGroupMembers_hostOk (h : Hdr) (gid op count : Nat) (sids : List Nat) (s : State) : (procGroupMembers h gid
    op count sids s).work.Ok := by
  exact Work.later_ok _

theorem procGroupSetTiming_hostOk (h : Hdr) (p : TimingP) (s : State) : (procGroupSetTiming h p s).work.Ok := by
  exact Work.later_ok _

theorem procGroupQuery_hostOk (h : Hdr) (gid : Nat) (s : State) : (procGroupQuery h gid s).work.Ok := by
  refine ⟨fun t ht => ?_, fun t ht => ?_⟩ <;> repeat' first
    | with_reducible assumption | with_reducible apply refuse_hostOk | dsimp only [effect, answer, id] | split | with_reducible apply HostOk.ite | with_reducible apply HostOk.foldl
    | with_reducible apply HostOk.mk_of | with_reducible rfl | intro _ | dsimp only

theorem procGroupSessionDefine_hostOk (h : Hdr) (p : SessionP) (s : State) : (procGroupSessionDefine h p s).work.Ok :=
    by
  exact Work.later_ok _

theorem procGroupSessionDelete_hostOk (h : Hdr) (session : Nat) (s : State) : (procGroupSessionDelete h session
    s).work.Ok := by
  refine ⟨fun t ht => ?_, fun t ht => ?_⟩ <;> repeat' first
    | with_reducible assumption | with_reducible apply refuse_hostOk | dsimp only [effect, answer, id] | split | with_reducible apply HostOk.ite | with_reducible apply HostOk.foldl
    | with_reducible apply HostOk.mk_of | with_reducible rfl | intro _ | dsimp only

theorem procGroupSessionEnable_hostOk (h : Hdr) (session en : Nat) (s : State) : (procGroupSessionEnable h session en
    s).work.Ok := by
  refine ⟨fun t ht => ?_, fun t ht => ?_⟩ <;> repeat' first
    | with_reducible assumption | with_reducible apply refuse_hostOk | dsimp only [effect, answer, id] | split | with_reducible apply enableSession_hostOk
    | with_reducible apply HostOk.ite | with_reducible apply HostOk.foldl | with_reducible apply HostOk.mk_of
    | with_reducible rfl | intro _ | dsimp only

theorem procGroupReadCell_hostOk (h : Hdr) (gid sid index addr len : Nat) (s : State) : (procGroupReadCell h gid sid
    index addr len s).work.Ok := by
  exact Work.later_ok _

theorem procGroupClearCounters_hostOk (h : Hdr) (mask : Nat) (s : State) : (procGroupClearCounters h mask s).work.Ok
    := by
  refine ⟨fun t ht => ?_, fun t ht => ?_⟩ <;> repeat' first
    | with_reducible assumption | with_reducible apply refuse_hostOk | dsimp only [effect, answer, id] | split | with_reducible apply clearGroups_hostOk | with_reducible apply HostOk.ite
    | with_reducible apply HostOk.foldl | with_reducible apply HostOk.mk_of | with_reducible rfl | intro _
    | dsimp only

theorem procGroupGconfig_hostOk (h : Hdr) (p : ErgP) (s : State) : (procGroupGconfig h p s).work.Ok := by
  refine ⟨fun t ht => ?_, fun t ht => ?_⟩ <;> repeat' first
    | with_reducible assumption | with_reducible apply refuse_hostOk | dsimp only [effect, answer, id] | split | with_reducible apply setErg_hostOk | with_reducible apply HostOk.ite
    | with_reducible apply HostOk.foldl | with_reducible apply HostOk.mk_of | with_reducible rfl | intro _
    | dsimp only

theorem execGroupDefine_hostOk (h : Hdr) (p : GroupP) (s : State) (hs : HostOk s) : ∃ σ, execGroupDefine h p s = .next
    σ ∧ HostOk σ := ⟨_, rfl, runProc_hostOk _ _ (procGroupDefine_hostOk _ _ _) hs⟩

theorem execGroupDelete_hostOk (h : Hdr) (gid : Nat) (s : State) (hs : HostOk s) : ∃ σ, execGroupDelete h gid s =
    .next σ ∧ HostOk σ := ⟨_, rfl, runProc_hostOk _ _ (procGroupDelete_hostOk _ _ _) hs⟩

theorem execGroupMembers_hostOk (h : Hdr) (gid op count : Nat) (sids : List Nat) (s : State) (hs : HostOk s) : ∃ σ,
    execGroupMembers h gid op count sids s = .next σ ∧ HostOk σ := ⟨_, rfl, runProc_hostOk _ _ (procGroupMembers_hostOk _ _ _ _ _ _) hs⟩

theorem execGroupSetTiming_hostOk (h : Hdr) (p : TimingP) (s : State) (hs : HostOk s) : ∃ σ, execGroupSetTiming h p s
    = .next σ ∧ HostOk σ := ⟨_, rfl, runProc_hostOk _ _ (procGroupSetTiming_hostOk _ _ _) hs⟩

theorem execGroupQuery_hostOk (h : Hdr) (gid : Nat) (s : State) (hs : HostOk s) : ∃ σ, execGroupQuery h gid s = .next
    σ ∧ HostOk σ := ⟨_, rfl, runProc_hostOk _ _ (procGroupQuery_hostOk _ _ _) hs⟩

theorem execGroupSessionDefine_hostOk (h : Hdr) (p : SessionP) (s : State) (hs : HostOk s) : ∃ σ,
    execGroupSessionDefine h p s = .next σ ∧ HostOk σ := ⟨_, rfl, runProc_hostOk _ _ (procGroupSessionDefine_hostOk _ _ _) hs⟩

theorem execGroupSessionDelete_hostOk (h : Hdr) (session : Nat) (s : State) (hs : HostOk s) : ∃ σ,
    execGroupSessionDelete h session s = .next σ ∧ HostOk σ := ⟨_, rfl, runProc_hostOk _ _ (procGroupSessionDelete_hostOk _ _ _) hs⟩

theorem execGroupSessionEnable_hostOk (h : Hdr) (session en : Nat) (s : State) (hs : HostOk s) : ∃ σ,
    execGroupSessionEnable h session en s = .next σ ∧ HostOk σ := ⟨_, rfl, runProc_hostOk _ _ (procGroupSessionEnable_hostOk _ _ _ _) hs⟩

theorem execGroupReadCell_hostOk (h : Hdr) (gid sid index addr len : Nat) (s : State) (hs : HostOk s) : ∃ σ,
    execGroupReadCell h gid sid index addr len s = .next σ ∧ HostOk σ := ⟨_, rfl, runProc_hostOk _ _ (procGroupReadCell_hostOk _ _ _ _ _ _ _) hs⟩

theorem execGroupClearCounters_hostOk (h : Hdr) (mask : Nat) (s : State) (hs : HostOk s) : ∃ σ, execGroupClearCounters
    h mask s = .next σ ∧ HostOk σ := ⟨_, rfl, runProc_hostOk _ _ (procGroupClearCounters_hostOk _ _ _) hs⟩

theorem execGroupGconfig_hostOk (h : Hdr) (p : ErgP) (s : State) (hs : HostOk s) : ∃ σ, execGroupGconfig h p s = .next
    σ ∧ HostOk σ := ⟨_, rfl, runProc_hostOk _ _ (procGroupGconfig_hostOk _ _ _) hs⟩

end Sys2Proof.Machine
end

