-- ==== Sys2Proof/Laws/OkCaravanCmd.lean ====
section
/-! SUPPORT. The operations of Machine/CaravanCmd.lean keep the bounds of the host interface (`HostOk`). -/

namespace Sys2Proof.Machine

theorem placeJob_hostOk (p : JobP) (byCommand : Bool) (s : State) (hs : HostOk s) : HostOk (placeJob p byCommand s) :=
  hs.of_look (placeJob_look _ (fun _ _ => rfl) p byCommand s)

theorem finishJobDefine_hostOk (o : OpEntry) (p : JobP) (hwFault : Bool) (s : State) (hs : HostOk s) : HostOk
    (finishJobDefine o p hwFault s) := by
  simp only [finishJobDefine]
  repeat' first
    | with_reducible assumption | split | with_reducible apply finishAdmit_hostOk
    | with_reducible apply placeJob_hostOk | with_reducible apply HostOk.ite | with_reducible apply HostOk.foldl
    | with_reducible apply HostOk.mk_of | with_reducible rfl | intro _ | dsimp only

theorem bindJob_hostOk (job gid : Nat) (en : Bool) (s : State) (hs : HostOk s) : HostOk (bindJob job gid en s) :=
  hs.of_look (bindJob_look _ (fun _ _ => rfl) job gid en s)

theorem finishJobBind_hostOk (o : OpEntry) (job gid en : Nat) (s : State) (hs : HostOk s) : HostOk (finishJobBind o
    job gid en s) := by
  simp only [finishJobBind]
  repeat' first
    | with_reducible assumption | split | with_reducible apply bindJob_hostOk
    | with_reducible apply finalCompletion_hostOk | with_reducible apply reMode_hostOk
    | with_reducible apply HostOk.ite | with_reducible apply HostOk.foldl | with_reducible apply HostOk.mk_of
    | with_reducible rfl | intro _ | dsimp only

theorem setLevels_hostOk (p : LevelP) (s : State) (hs : HostOk s) : HostOk (setLevels p s) :=
  hs.of_look (setLevels_look _ (fun _ _ => rfl) p s)

theorem finishLevels_hostOk (o : OpEntry) (p : LevelP) (s : State) (hs : HostOk s) : HostOk (finishLevels o p s) := by
  simp only [finishLevels]
  repeat' first
    | with_reducible assumption | split | with_reducible apply finishAdmit_hostOk
    | with_reducible apply setLevels_hostOk | with_reducible apply HostOk.ite | with_reducible apply HostOk.foldl
    | with_reducible apply HostOk.mk_of | with_reducible rfl | intro _ | dsimp only

theorem retireByCommand_hostOk (engine : Nat) (s : State) (hs : HostOk s) : HostOk (retireByCommand engine s) := by
  simp only [retireByCommand]
  repeat' first
    | with_reducible assumption | split | with_reducible apply capacityFell_hostOk
    | with_reducible apply retireEngine_hostOk | with_reducible apply loseEngine_hostOk
    | with_reducible apply HostOk.ite | with_reducible apply HostOk.foldl | with_reducible apply HostOk.mk_of
    | with_reducible rfl | intro _ | dsimp only

theorem finishEngineRetire_hostOk (o : OpEntry) (engine : Nat) (hwFault : Bool) (s : State) (hs : HostOk s) : HostOk
    (finishEngineRetire o engine hwFault s) := by
  simp only [finishEngineRetire]
  repeat' first
    | with_reducible assumption | split | with_reducible apply idle_hostOk
    | with_reducible apply finalCompletion_hostOk | with_reducible apply loseEngine_hostOk
    | with_reducible apply retireByCommand_hostOk | with_reducible apply HostOk.ite
    | with_reducible apply HostOk.foldl | with_reducible apply HostOk.mk_of | with_reducible rfl | intro _
    | dsimp only

theorem finishEngineRestore_hostOk (o : OpEntry) (engine : Nat) (pass : Bool) (s : State) (hs : HostOk s) : HostOk
    (finishEngineRestore o engine pass s) := by
  simp only [finishEngineRestore]
  repeat' first
    | with_reducible assumption | split | with_reducible apply updEngine_hostOk
    | with_reducible apply finalCompletion_hostOk | with_reducible apply reMode_hostOk
    | with_reducible apply restoreEngine_hostOk | with_reducible apply count_hostOk
    | with_reducible apply retireEngine_hostOk | with_reducible apply HostOk.ite | with_reducible apply HostOk.foldl
    | with_reducible apply HostOk.mk_of | with_reducible rfl | intro _ | dsimp only

theorem jobAnswer_hostOk (job : Nat) (s : State) (hs : HostOk s) : HostOk (jobAnswer job s).state :=
  hs.of_look (jobAnswer_look _ job s)

theorem clearJobs_hostOk (mask : Nat) (s : State) (hs : HostOk s) : HostOk (clearJobs mask s) := by
  simp only [clearJobs]
  repeat' first
    | with_reducible assumption | split | with_reducible apply clearCounters_hostOk
    | with_reducible apply HostOk.ite | with_reducible apply HostOk.foldl | with_reducible apply HostOk.mk_of
    | with_reducible rfl | intro _ | dsimp only

theorem procCaravanJobDefine_hostOk (h : Hdr) (p : JobP) (s : State) : (procCaravanJobDefine h p s).work.Ok := by
  exact Work.later_ok _

theorem procCaravanJobDelete_hostOk (h : Hdr) (job : Nat) (s : State) : (procCaravanJobDelete h job s).work.Ok := by
  refine ⟨fun t ht => ?_, fun t ht => ?_⟩ <;> repeat' first
    | with_reducible assumption | with_reducible apply refuse_hostOk | dsimp only [effect, answer, id] | split | with_reducible apply reMode_hostOk | with_reducible apply HostOk.ite
    | with_reducible apply HostOk.foldl | with_reducible apply HostOk.mk_of | with_reducible rfl | intro _
    | dsimp only

theorem procCaravanJobBind_hostOk (h : Hdr) (job gid en : Nat) (s : State) : (procCaravanJobBind h job gid en
    s).work.Ok := by
  exact Work.later_ok _

theorem procCaravanRun_hostOk (h : Hdr) (job arg : Nat) (s : State) : (procCaravanRun h job arg s).work.Ok := by
  refine ⟨fun k t ht => ?_, fun t ht => ?_⟩ <;> repeat' first
    | with_reducible assumption | with_reducible apply refuse_hostOk | dsimp only [effect, answer, id] | split | with_reducible apply startInst_hostOk | with_reducible apply HostOk.ite
    | with_reducible apply HostOk.foldl | with_reducible apply HostOk.mk_of | with_reducible rfl | intro _
    | dsimp only

theorem procCaravanLevelConfig_hostOk (h : Hdr) (p : LevelP) (s : State) : (procCaravanLevelConfig h p s).work.Ok :=
    by
  exact Work.later_ok _

theorem procCaravanEngineRetire_hostOk (h : Hdr) (engine : Nat) (s : State) : (procCaravanEngineRetire h engine
    s).work.Ok := by
  exact Work.later_ok _

theorem procCaravanEngineRestore_hostOk (h : Hdr) (engine : Nat) (s : State) : (procCaravanEngineRestore h engine
    s).work.Ok := by
  refine ⟨fun k t ht => ?_, fun t ht => ?_⟩ <;> repeat' first
    | with_reducible assumption | with_reducible apply refuse_hostOk | dsimp only [effect, answer, id] | split | with_reducible apply updEngine_hostOk | with_reducible apply HostOk.ite
    | with_reducible apply HostOk.foldl | with_reducible apply HostOk.mk_of | with_reducible rfl | intro _
    | dsimp only

theorem procCaravanQueryJob_hostOk (h : Hdr) (job : Nat) (s : State) : (procCaravanQueryJob h job s).work.Ok := by
  refine ⟨fun t ht => ?_, fun t ht => ?_⟩ <;> repeat' first
    | with_reducible assumption | with_reducible apply refuse_hostOk | dsimp only [effect, answer, id] | split | with_reducible apply jobAnswer_hostOk | with_reducible apply HostOk.ite
    | with_reducible apply HostOk.foldl | with_reducible apply HostOk.mk_of | with_reducible rfl | intro _
    | dsimp only

theorem procCaravanQueryEngine_hostOk (h : Hdr) (engine : Nat) (s : State) : (procCaravanQueryEngine h engine
    s).work.Ok := by
  refine ⟨fun t ht => ?_, fun t ht => ?_⟩ <;> repeat' first
    | with_reducible assumption | with_reducible apply refuse_hostOk | dsimp only [effect, answer, id] | split | with_reducible apply HostOk.ite | with_reducible apply HostOk.foldl
    | with_reducible apply HostOk.mk_of | with_reducible rfl | intro _ | dsimp only

theorem procCaravanClearCounters_hostOk (h : Hdr) (mask : Nat) (s : State) : (procCaravanClearCounters h mask
    s).work.Ok := by
  refine ⟨fun t ht => ?_, fun t ht => ?_⟩ <;> repeat' first
    | with_reducible assumption | with_reducible apply refuse_hostOk | dsimp only [effect, answer, id] | split | with_reducible apply clearJobs_hostOk | with_reducible apply HostOk.ite
    | with_reducible apply HostOk.foldl | with_reducible apply HostOk.mk_of | with_reducible rfl | intro _
    | dsimp only

theorem execCaravanJobDefine_hostOk (h : Hdr) (p : JobP) (s : State) (hs : HostOk s) : ∃ σ, execCaravanJobDefine h p s
    = .next σ ∧ HostOk σ := ⟨_, rfl, runProc_hostOk _ _ (procCaravanJobDefine_hostOk _ _ _) hs⟩

theorem execCaravanJobDelete_hostOk (h : Hdr) (job : Nat) (s : State) (hs : HostOk s) : ∃ σ, execCaravanJobDelete h
    job s = .next σ ∧ HostOk σ := ⟨_, rfl, runProc_hostOk _ _ (procCaravanJobDelete_hostOk _ _ _) hs⟩

theorem execCaravanJobBind_hostOk (h : Hdr) (job gid en : Nat) (s : State) (hs : HostOk s) : ∃ σ, execCaravanJobBind h
    job gid en s = .next σ ∧ HostOk σ := ⟨_, rfl, runProc_hostOk _ _ (procCaravanJobBind_hostOk _ _ _ _ _) hs⟩

theorem execCaravanRun_hostOk (h : Hdr) (job arg : Nat) (s : State) (hs : HostOk s) : ∃ σ, execCaravanRun h job arg s
    = .next σ ∧ HostOk σ := ⟨_, rfl, runProc_hostOk _ _ (procCaravanRun_hostOk _ _ _ _) hs⟩

theorem execCaravanLevelConfig_hostOk (h : Hdr) (p : LevelP) (s : State) (hs : HostOk s) : ∃ σ, execCaravanLevelConfig
    h p s = .next σ ∧ HostOk σ := ⟨_, rfl, runProc_hostOk _ _ (procCaravanLevelConfig_hostOk _ _ _) hs⟩

theorem execCaravanEngineRetire_hostOk (h : Hdr) (engine : Nat) (s : State) (hs : HostOk s) : ∃ σ,
    execCaravanEngineRetire h engine s = .next σ ∧ HostOk σ := ⟨_, rfl, runProc_hostOk _ _ (procCaravanEngineRetire_hostOk _ _ _) hs⟩

theorem execCaravanEngineRestore_hostOk (h : Hdr) (engine : Nat) (s : State) (hs : HostOk s) : ∃ σ,
    execCaravanEngineRestore h engine s = .next σ ∧ HostOk σ := ⟨_, rfl, runProc_hostOk _ _ (procCaravanEngineRestore_hostOk _ _ _) hs⟩

theorem execCaravanQueryJob_hostOk (h : Hdr) (job : Nat) (s : State) (hs : HostOk s) : ∃ σ, execCaravanQueryJob h job
    s = .next σ ∧ HostOk σ := ⟨_, rfl, runProc_hostOk _ _ (procCaravanQueryJob_hostOk _ _ _) hs⟩

theorem execCaravanQueryEngine_hostOk (h : Hdr) (engine : Nat) (s : State) (hs : HostOk s) : ∃ σ,
    execCaravanQueryEngine h engine s = .next σ ∧ HostOk σ := ⟨_, rfl, runProc_hostOk _ _ (procCaravanQueryEngine_hostOk _ _ _) hs⟩

theorem execCaravanClearCounters_hostOk (h : Hdr) (mask : Nat) (s : State) (hs : HostOk s) : ∃ σ,
    execCaravanClearCounters h mask s = .next σ ∧ HostOk σ := ⟨_, rfl, runProc_hostOk _ _ (procCaravanClearCounters_hostOk _ _ _) hs⟩

end Sys2Proof.Machine
end

