-- ==== Sys2Proof/Laws/OkTopoCmd.lean ====
section
/-! SUPPORT. The operations of Machine/TopoCmd.lean keep the bounds of the host interface (`HostOk`). -/

namespace Sys2Proof.Machine

theorem clearHistory_hostOk (s : State) (hs : HostOk s) : HostOk (clearHistory s) :=
  hs.of_look (clearHistory_look _ (fun _ _ => rfl) s)

theorem placeModel_hostOk (m : ModelP) (s : State) (hs : HostOk s) : HostOk (placeModel m s) :=
  hs.of_look (placeModel_look _ (fun _ _ => rfl) m s)

theorem finishModelLoad_hostOk (o : OpEntry) (sigOk fetchOk : Bool) (m : ModelP) (fin : Finish) (s : State) (hs :
    HostOk s) : HostOk (finishModelLoad o sigOk fetchOk m fin s) := by
  simp only [finishModelLoad]
  repeat' first
    | with_reducible assumption | split | with_reducible apply finalCompletion_hostOk
    | with_reducible apply placeModel_hostOk | with_reducible apply updOp_hostOk
    | with_reducible apply requestRefac_hostOk | with_reducible apply HostOk.ite | with_reducible apply HostOk.foldl
    | with_reducible apply HostOk.mk_of | with_reducible rfl | intro _ | dsimp only

theorem setTopo_hostOk (p : TopoP) (s : State) (hs : HostOk s) : HostOk (setTopo p s) :=
  hs.of_look (setTopo_look _ (fun _ _ => rfl) p s)

theorem placeCut_hostOk (p : CutP) (s : State) (hs : HostOk s) : HostOk (placeCut p s) :=
  hs.of_look (placeCut_look _ (fun _ _ => rfl) p s)

theorem forceBranch_hostOk (branch action : Nat) (s : State) (hs : HostOk s) : HostOk (forceBranch branch action s) :=
  hs.of_look (forceBranch_look _ (fun _ _ => rfl) branch action s)

theorem askRefac_hostOk (k : Nat) (s : State) (hs : HostOk s) : HostOk (askRefac k s) := by
  simp only [askRefac]
  repeat' first
    | with_reducible assumption | split | with_reducible apply requestRefac_hostOk
    | with_reducible apply finalCompletion_hostOk | with_reducible apply HostOk.ite
    | with_reducible apply HostOk.foldl | with_reducible apply HostOk.mk_of | with_reducible rfl | intro _
    | dsimp only

theorem pinResult_hostOk (h : Hdr) (index sections addr len k : Nat) (s : State) (hs : HostOk s) : HostOk (pinResult h
    index sections addr len k s) := by
  simp only [pinResult]
  repeat' first
    | with_reducible assumption | split | with_reducible apply updOp_hostOk | with_reducible apply HostOk.ite
    | with_reducible apply HostOk.foldl | with_reducible apply HostOk.mk_of | with_reducible rfl | intro _
    | dsimp only

theorem finishReadResult_hostOk (o : OpEntry) (index sections addr len : Nat) (dataBad : Bool) (s : State) (hs :
    HostOk s) : HostOk (finishReadResult o index sections addr len dataBad s) := by
  simp only [finishReadResult]
  repeat' first
    | with_reducible assumption | split | with_reducible apply finalCompletion_hostOk
    | with_reducible apply hostOut_hostOk | with_reducible apply HostOk.ite | with_reducible apply HostOk.foldl
    | with_reducible apply HostOk.mk_of | with_reducible rfl | intro _ | dsimp only

theorem procTopoModelLoad_hostOk (h : Hdr) (addr len : Nat) (_sigOk _fetchOk : Bool) (_m : ModelP) (s : State) :
    (procTopoModelLoad h addr len _sigOk _fetchOk _m s).work.Ok := by
  exact Work.later_ok _

theorem procTopoConfig_hostOk (h : Hdr) (p : TopoP) (s : State) : (procTopoConfig h p s).work.Ok := by
  refine ⟨fun t ht => ?_, fun t ht => ?_⟩ <;> repeat' first
    | with_reducible assumption | with_reducible apply refuse_hostOk | dsimp only [effect, answer, id] | split | with_reducible apply setTopo_hostOk | with_reducible apply HostOk.ite
    | with_reducible apply HostOk.foldl | with_reducible apply HostOk.mk_of | with_reducible rfl | intro _
    | dsimp only

theorem procTopoCutsetDefine_hostOk (h : Hdr) (p : CutP) (s : State) : (procTopoCutsetDefine h p s).work.Ok := by
  refine ⟨fun t ht => ?_, fun t ht => ?_⟩ <;> repeat' first
    | with_reducible assumption | with_reducible apply refuse_hostOk | dsimp only [effect, answer, id] | split | with_reducible apply placeCut_hostOk | with_reducible apply HostOk.ite
    | with_reducible apply HostOk.foldl | with_reducible apply HostOk.mk_of | with_reducible rfl | intro _
    | dsimp only

theorem procTopoCutsetDelete_hostOk (h : Hdr) (cut : Nat) (s : State) : (procTopoCutsetDelete h cut s).work.Ok := by
  refine ⟨fun t ht => ?_, fun t ht => ?_⟩ <;> repeat' first
    | with_reducible assumption | with_reducible apply refuse_hostOk | dsimp only [effect, answer, id] | split | with_reducible apply HostOk.ite | with_reducible apply HostOk.foldl
    | with_reducible apply HostOk.mk_of | with_reducible rfl | intro _ | dsimp only

theorem procTopoBranchForce_hostOk (h : Hdr) (branch action : Nat) (s : State) : (procTopoBranchForce h branch action
    s).work.Ok := by
  refine ⟨fun t ht => ?_, fun t ht => ?_⟩ <;> repeat' first
    | with_reducible assumption | with_reducible apply refuse_hostOk | dsimp only [effect, answer, id] | split | with_reducible apply forceBranch_hostOk | with_reducible apply HostOk.ite
    | with_reducible apply HostOk.foldl | with_reducible apply HostOk.mk_of | with_reducible rfl | intro _
    | dsimp only

theorem procTopoRefactor_hostOk (h : Hdr) (s : State) : (procTopoRefactor h s).work.Ok := by
  refine ⟨fun k t ht => ?_, fun t ht => ?_⟩ <;> repeat' first
    | with_reducible assumption | with_reducible apply refuse_hostOk | dsimp only [effect, answer, id] | split | with_reducible apply askRefac_hostOk | with_reducible apply HostOk.ite
    | with_reducible apply HostOk.foldl | with_reducible apply HostOk.mk_of | with_reducible rfl | intro _
    | dsimp only

theorem procTopoReadResult_hostOk (h : Hdr) (index sections addr len : Nat) (s : State) : (procTopoReadResult h index
    sections addr len s).work.Ok := by
  refine ⟨fun k t ht => ?_, fun t ht => ?_⟩ <;> repeat' first
    | with_reducible assumption | with_reducible apply refuse_hostOk | dsimp only [effect, answer, id] | split | with_reducible apply pinResult_hostOk | with_reducible apply HostOk.ite
    | with_reducible apply HostOk.foldl | with_reducible apply HostOk.mk_of | with_reducible rfl | intro _
    | dsimp only

theorem procTopoQuery_hostOk (h : Hdr) (s : State) : (procTopoQuery h s).work.Ok := by
  refine ⟨fun t ht => ?_, fun t ht => ?_⟩ <;> repeat' first
    | with_reducible assumption | with_reducible apply refuse_hostOk | dsimp only [effect, answer, id] | split | with_reducible apply HostOk.ite | with_reducible apply HostOk.foldl
    | with_reducible apply HostOk.mk_of | with_reducible rfl | intro _ | dsimp only

theorem procTopoClearCounters_hostOk (h : Hdr) (s : State) : (procTopoClearCounters h s).work.Ok := by
  refine ⟨fun t ht => ?_, fun t ht => ?_⟩ <;> repeat' first
    | with_reducible assumption | with_reducible apply refuse_hostOk | dsimp only [effect, answer, id] | split | with_reducible apply clearCounters_hostOk
    | with_reducible apply HostOk.ite | with_reducible apply HostOk.foldl | with_reducible apply HostOk.mk_of
    | with_reducible rfl | intro _ | dsimp only

theorem execTopoModelLoad_hostOk (h : Hdr) (addr len : Nat) (sigOk fetchOk : Bool) (m : ModelP) (s : State) (hs :
    HostOk s) : ∃ σ, execTopoModelLoad h addr len sigOk fetchOk m s = .next σ ∧ HostOk σ := ⟨_, rfl, runProc_hostOk _ _ (procTopoModelLoad_hostOk _ _ _ _ _ _ _) hs⟩

theorem execTopoConfig_hostOk (h : Hdr) (p : TopoP) (s : State) (hs : HostOk s) : ∃ σ, execTopoConfig h p s = .next σ
    ∧ HostOk σ := ⟨_, rfl, runProc_hostOk _ _ (procTopoConfig_hostOk _ _ _) hs⟩

theorem execTopoCutsetDefine_hostOk (h : Hdr) (p : CutP) (s : State) (hs : HostOk s) : ∃ σ, execTopoCutsetDefine h p s
    = .next σ ∧ HostOk σ := ⟨_, rfl, runProc_hostOk _ _ (procTopoCutsetDefine_hostOk _ _ _) hs⟩

theorem execTopoCutsetDelete_hostOk (h : Hdr) (cut : Nat) (s : State) (hs : HostOk s) : ∃ σ, execTopoCutsetDelete h
    cut s = .next σ ∧ HostOk σ := ⟨_, rfl, runProc_hostOk _ _ (procTopoCutsetDelete_hostOk _ _ _) hs⟩

theorem execTopoBranchForce_hostOk (h : Hdr) (branch action : Nat) (s : State) (hs : HostOk s) : ∃ σ,
    execTopoBranchForce h branch action s = .next σ ∧ HostOk σ := ⟨_, rfl, runProc_hostOk _ _ (procTopoBranchForce_hostOk _ _ _ _) hs⟩

theorem execTopoRefactor_hostOk (h : Hdr) (s : State) (hs : HostOk s) : ∃ σ, execTopoRefactor h s = .next σ ∧ HostOk σ
    := ⟨_, rfl, runProc_hostOk _ _ (procTopoRefactor_hostOk _ _) hs⟩

theorem execTopoReadResult_hostOk (h : Hdr) (index sections addr len : Nat) (s : State) (hs : HostOk s) : ∃ σ,
    execTopoReadResult h index sections addr len s = .next σ ∧ HostOk σ := ⟨_, rfl, runProc_hostOk _ _ (procTopoReadResult_hostOk _ _ _ _ _ _) hs⟩

theorem execTopoQuery_hostOk (h : Hdr) (s : State) (hs : HostOk s) : ∃ σ, execTopoQuery h s = .next σ ∧ HostOk σ := ⟨_, rfl, runProc_hostOk _ _ (procTopoQuery_hostOk _ _) hs⟩

theorem execTopoClearCounters_hostOk (h : Hdr) (s : State) (hs : HostOk s) : ∃ σ, execTopoClearCounters h s = .next σ
    ∧ HostOk σ := ⟨_, rfl, runProc_hostOk _ _ (procTopoClearCounters_hostOk _ _) hs⟩

end Sys2Proof.Machine
end

