-- ==== Sys2Proof/Laws/OkOscCmd.lean ====
section
/-! SUPPORT. The operations of Machine/OscCmd.lean keep the bounds of the host interface (`HostOk`). -/

namespace Sys2Proof.Machine

theorem armSlow_hostOk (p : OscP) (s : State) (hs : HostOk s) : HostOk (armSlow p s) := by
  simp only [armSlow]
  repeat' first
    | with_reducible assumption | split | with_reducible apply armCmp_hostOk | with_reducible apply HostOk.ite
    | with_reducible apply HostOk.foldl | with_reducible apply HostOk.mk_of | with_reducible rfl | intro _
    | dsimp only

theorem restartOsc_hostOk (s : State) (hs : HostOk s) : HostOk (restartOsc s) :=
  hs.of_look (restartOsc_look _ (fun _ _ => rfl) s)

theorem setOsc_hostOk (p : OscP) (s : State) (hs : HostOk s) : HostOk (setOsc p s) :=
  hs.of_look (setOsc_look _ (fun _ _ => rfl) p s)

theorem applyOsc_hostOk (p : OscP) (s : State) (hs : HostOk s) : HostOk (applyOsc p s) := by
  simp only [applyOsc]
  repeat' first
    | with_reducible assumption | split | with_reducible apply disarmCmp_hostOk
    | with_reducible apply armSlow_hostOk | with_reducible apply setOsc_hostOk | with_reducible apply HostOk.ite
    | with_reducible apply HostOk.foldl | with_reducible apply HostOk.mk_of | with_reducible rfl | intro _
    | dsimp only

theorem placeSig_hostOk (p : SigP) (s : State) (hs : HostOk s) : HostOk (placeSig p s) :=
  hs.of_look (placeSig_look _ (fun _ _ => rfl) p s)

theorem finishSignal_hostOk (o : OpEntry) (p : SigP) (hwFault : Bool) (s : State) (hs : HostOk s) : HostOk
    (finishSignal o p hwFault s) := by
  simp only [finishSignal]
  repeat' first
    | with_reducible assumption | split | with_reducible apply finishAdmit_hostOk
    | with_reducible apply placeSig_hostOk | with_reducible apply HostOk.ite | with_reducible apply HostOk.foldl
    | with_reducible apply HostOk.mk_of | with_reducible rfl | intro _ | dsimp only

theorem dropSig_hostOk (n : Nat) (s : State) (hs : HostOk s) : HostOk (dropSig n s) :=
  hs.of_look (dropSig_look _ (fun _ _ => rfl) n s)

theorem placeOscGroup_hostOk (p : OscGroupP) (s : State) (hs : HostOk s) : HostOk (placeOscGroup p s) :=
  hs.of_look (placeOscGroup_look _ (fun _ _ => rfl) p s)

theorem finishOscGroup_hostOk (o : OpEntry) (p : OscGroupP) (hwFault : Bool) (s : State) (hs : HostOk s) : HostOk
    (finishOscGroup o p hwFault s) := by
  simp only [finishOscGroup]
  repeat' first
    | with_reducible assumption | split | with_reducible apply finishAdmit_hostOk
    | with_reducible apply placeOscGroup_hostOk | with_reducible apply HostOk.ite
    | with_reducible apply HostOk.foldl | with_reducible apply HostOk.mk_of | with_reducible rfl | intro _
    | dsimp only

theorem finishReadBands_hostOk (o : OpEntry) (first count depth addr : Nat) (dataBad : Bool) (s : State) (hs : HostOk
    s) : HostOk (finishReadBands o first count depth addr dataBad s) := by
  simp only [finishReadBands]
  repeat' first
    | with_reducible assumption | split | with_reducible apply finalCompletion_hostOk
    | with_reducible apply count_hostOk | with_reducible apply hostOut_hostOk | with_reducible apply HostOk.ite
    | with_reducible apply HostOk.foldl | with_reducible apply HostOk.mk_of | with_reducible rfl | intro _
    | dsimp only

theorem finishReadModes_hostOk (o : OpEntry) (group depth addr len : Nat) (dataBad : Bool) (s : State) (hs : HostOk s)
    : HostOk (finishReadModes o group depth addr len dataBad s) := by
  simp only [finishReadModes]
  repeat' first
    | with_reducible assumption | split | with_reducible apply finalCompletion_hostOk
    | with_reducible apply hostOut_hostOk | with_reducible apply HostOk.ite | with_reducible apply HostOk.foldl
    | with_reducible apply HostOk.mk_of | with_reducible rfl | intro _ | dsimp only

theorem restartGroup_hostOk (g : Nat) (s : State) (hs : HostOk s) : HostOk (restartGroup g s) :=
  hs.of_look (restartGroup_look _ (fun _ _ => rfl) g s)

theorem restartAll_hostOk (s : State) (hs : HostOk s) : HostOk (restartAll s) :=
  hs.of_look (restartAll_look _ (fun _ _ => rfl) s)

theorem clearOsc_hostOk (mask : Nat) (s : State) (hs : HostOk s) : HostOk (clearOsc mask s) := by
  simp only [clearOsc]
  repeat' first
    | with_reducible assumption | split | with_reducible apply clearCounters_hostOk
    | with_reducible apply HostOk.ite | with_reducible apply HostOk.foldl | with_reducible apply HostOk.mk_of
    | with_reducible rfl | intro _ | dsimp only

theorem procOscConfig_hostOk (h : Hdr) (p : OscP) (s : State) : (procOscConfig h p s).work.Ok := by
  refine ⟨fun t ht => ?_, fun t ht => ?_⟩ <;> repeat' first
    | with_reducible assumption | with_reducible apply refuse_hostOk | dsimp only [effect, answer, id] | split | with_reducible apply setOsc_hostOk | with_reducible apply applyOsc_hostOk
    | with_reducible apply HostOk.ite | with_reducible apply HostOk.foldl | with_reducible apply HostOk.mk_of
    | with_reducible rfl | intro _ | dsimp only

theorem procOscSignalDefine_hostOk (h : Hdr) (p : SigP) (s : State) : (procOscSignalDefine h p s).work.Ok := by
  exact Work.later_ok _

theorem procOscSignalDelete_hostOk (h : Hdr) (sig : Nat) (s : State) : (procOscSignalDelete h sig s).work.Ok := by
  refine ⟨fun t ht => ?_, fun t ht => ?_⟩ <;> repeat' first
    | with_reducible assumption | with_reducible apply refuse_hostOk | dsimp only [effect, answer, id] | split | with_reducible apply dropSig_hostOk | with_reducible apply HostOk.ite
    | with_reducible apply HostOk.foldl | with_reducible apply HostOk.mk_of | with_reducible rfl | intro _
    | dsimp only

theorem procOscGroupDefine_hostOk (h : Hdr) (p : OscGroupP) (s : State) : (procOscGroupDefine h p s).work.Ok := by
  exact Work.later_ok _

theorem procOscGroupDelete_hostOk (h : Hdr) (group : Nat) (s : State) : (procOscGroupDelete h group s).work.Ok := by
  refine ⟨fun t ht => ?_, fun t ht => ?_⟩ <;> repeat' first
    | with_reducible assumption | with_reducible apply refuse_hostOk | dsimp only [effect, answer, id] | split | with_reducible apply HostOk.ite | with_reducible apply HostOk.foldl
    | with_reducible apply HostOk.mk_of | with_reducible rfl | intro _ | dsimp only

theorem procOscReadBands_hostOk (h : Hdr) (first count depth addr len : Nat) (s : State) : (procOscReadBands h first
    count depth addr len s).work.Ok := by
  exact Work.later_ok _

theorem procOscReadModes_hostOk (h : Hdr) (group depth addr len : Nat) (s : State) : (procOscReadModes h group depth
    addr len s).work.Ok := by
  exact Work.later_ok _

theorem procOscRestart_hostOk (h : Hdr) (group : Nat) (s : State) : (procOscRestart h group s).work.Ok := by
  refine ⟨fun t ht => ?_, fun t ht => ?_⟩ <;> repeat' first
    | with_reducible assumption | with_reducible apply refuse_hostOk | dsimp only [effect, answer, id] | split | with_reducible apply restartAll_hostOk
    | with_reducible apply restartGroup_hostOk | with_reducible apply HostOk.ite | with_reducible apply HostOk.foldl
    | with_reducible apply HostOk.mk_of | with_reducible rfl | intro _ | dsimp only

theorem procOscQuery_hostOk (h : Hdr) (group : Nat) (s : State) : (procOscQuery h group s).work.Ok := by
  refine ⟨fun t ht => ?_, fun t ht => ?_⟩ <;> repeat' first
    | with_reducible assumption | with_reducible apply refuse_hostOk | dsimp only [effect, answer, id] | split | with_reducible apply HostOk.ite | with_reducible apply HostOk.foldl
    | with_reducible apply HostOk.mk_of | with_reducible rfl | intro _ | dsimp only

theorem procOscClearCounters_hostOk (h : Hdr) (mask : Nat) (s : State) : (procOscClearCounters h mask s).work.Ok := by
  refine ⟨fun t ht => ?_, fun t ht => ?_⟩ <;> repeat' first
    | with_reducible assumption | with_reducible apply refuse_hostOk | dsimp only [effect, answer, id] | split | with_reducible apply clearOsc_hostOk | with_reducible apply HostOk.ite
    | with_reducible apply HostOk.foldl | with_reducible apply HostOk.mk_of | with_reducible rfl | intro _
    | dsimp only

theorem execOscConfig_hostOk (h : Hdr) (p : OscP) (s : State) (hs : HostOk s) : ∃ σ, execOscConfig h p s = .next σ ∧
    HostOk σ := ⟨_, rfl, runProc_hostOk _ _ (procOscConfig_hostOk _ _ _) hs⟩

theorem execOscSignalDefine_hostOk (h : Hdr) (p : SigP) (s : State) (hs : HostOk s) : ∃ σ, execOscSignalDefine h p s =
    .next σ ∧ HostOk σ := ⟨_, rfl, runProc_hostOk _ _ (procOscSignalDefine_hostOk _ _ _) hs⟩

theorem execOscSignalDelete_hostOk (h : Hdr) (sig : Nat) (s : State) (hs : HostOk s) : ∃ σ, execOscSignalDelete h sig
    s = .next σ ∧ HostOk σ := ⟨_, rfl, runProc_hostOk _ _ (procOscSignalDelete_hostOk _ _ _) hs⟩

theorem execOscGroupDefine_hostOk (h : Hdr) (p : OscGroupP) (s : State) (hs : HostOk s) : ∃ σ, execOscGroupDefine h p
    s = .next σ ∧ HostOk σ := ⟨_, rfl, runProc_hostOk _ _ (procOscGroupDefine_hostOk _ _ _) hs⟩

theorem execOscGroupDelete_hostOk (h : Hdr) (group : Nat) (s : State) (hs : HostOk s) : ∃ σ, execOscGroupDelete h
    group s = .next σ ∧ HostOk σ := ⟨_, rfl, runProc_hostOk _ _ (procOscGroupDelete_hostOk _ _ _) hs⟩

theorem execOscReadBands_hostOk (h : Hdr) (first count depth addr len : Nat) (s : State) (hs : HostOk s) : ∃ σ,
    execOscReadBands h first count depth addr len s = .next σ ∧ HostOk σ := ⟨_, rfl, runProc_hostOk _ _ (procOscReadBands_hostOk _ _ _ _ _ _ _) hs⟩

theorem execOscReadModes_hostOk (h : Hdr) (group depth addr len : Nat) (s : State) (hs : HostOk s) : ∃ σ,
    execOscReadModes h group depth addr len s = .next σ ∧ HostOk σ := ⟨_, rfl, runProc_hostOk _ _ (procOscReadModes_hostOk _ _ _ _ _ _) hs⟩

theorem execOscRestart_hostOk (h : Hdr) (group : Nat) (s : State) (hs : HostOk s) : ∃ σ, execOscRestart h group s =
    .next σ ∧ HostOk σ := ⟨_, rfl, runProc_hostOk _ _ (procOscRestart_hostOk _ _ _) hs⟩

theorem execOscQuery_hostOk (h : Hdr) (group : Nat) (s : State) (hs : HostOk s) : ∃ σ, execOscQuery h group s = .next
    σ ∧ HostOk σ := ⟨_, rfl, runProc_hostOk _ _ (procOscQuery_hostOk _ _ _) hs⟩

theorem execOscClearCounters_hostOk (h : Hdr) (mask : Nat) (s : State) (hs : HostOk s) : ∃ σ, execOscClearCounters h
    mask s = .next σ ∧ HostOk σ := ⟨_, rfl, runProc_hostOk _ _ (procOscClearCounters_hostOk _ _ _) hs⟩

end Sys2Proof.Machine
end

