-- ==== Sys2Proof/Laws/OkAlarmCmd.lean ====
section
/-! SUPPORT. The operations of Machine/AlarmCmd.lean keep the bounds of the host interface (`HostOk`). -/

namespace Sys2Proof.Machine

theorem defineRule_hostOk (p : RuleP) (s : State) (hs : HostOk s) : HostOk (defineRule p s) := by
  simp only [defineRule]
  repeat' first
    | with_reducible assumption | split | with_reducible apply setRule_hostOk
    | with_reducible apply adminClear_hostOk | with_reducible apply HostOk.ite | with_reducible apply HostOk.foldl
    | with_reducible apply HostOk.mk_of | with_reducible rfl | intro _ | dsimp only

theorem enableRule_hostOk (en : Bool) (n : Nat) (s : State) (hs : HostOk s) : HostOk (enableRule en n s) :=
  hs.of_look (enableRule_look _ (fun _ _ => rfl) en n s)

theorem enableRules_hostOk (first count : Nat) (en : Bool) (s : State) (hs : HostOk s) : HostOk (enableRules first
    count en s) :=
  hs.of_look (enableRules_look _ (fun _ _ => rfl) first count en s)

theorem dropRule_hostOk (n : Nat) (s : State) (hs : HostOk s) : HostOk (dropRule n s) :=
  hs.of_look (dropRule_look _ (fun _ _ => rfl) n s)

theorem setLine_hostOk (p : LineP) (s : State) (hs : HostOk s) : HostOk (setLine p s) := by
  simp only [setLine]
  repeat' first
    | with_reducible assumption | split | with_reducible apply driveLines_hostOk
    | with_reducible apply updLine_hostOk | with_reducible apply HostOk.ite | with_reducible apply HostOk.foldl
    | with_reducible apply HostOk.mk_of | with_reducible rfl | intro _ | dsimp only

theorem ackLines_hostOk (mask : Nat) (s : State) (hs : HostOk s) : HostOk (ackLines mask s) := by
  simp only [ackLines]
  repeat' first
    | with_reducible assumption | split | with_reducible apply driveLines_hostOk
    | with_reducible apply updLine_hostOk | with_reducible apply HostOk.ite | with_reducible apply HostOk.foldl
    | with_reducible apply HostOk.mk_of | with_reducible rfl | intro _ | dsimp only

theorem forceRule_hostOk (n action : Nat) (s : State) (hs : HostOk s) : HostOk (forceRule n action s) := by
  simp only [forceRule]
  repeat' first
    | with_reducible assumption | split | with_reducible apply setRule_hostOk
    | with_reducible apply driveLines_hostOk | with_reducible apply assertRule_hostOk
    | with_reducible apply adminClear_hostOk | with_reducible apply HostOk.ite | with_reducible apply HostOk.foldl
    | with_reducible apply HostOk.mk_of | with_reducible rfl | intro _ | dsimp only

theorem setXtrig_hostOk (p : XtrigP) (s : State) (hs : HostOk s) : HostOk (setXtrig p s) :=
  hs.of_look (setXtrig_look _ (fun _ _ => rfl) p s)

theorem clearAlarms_hostOk (first count : Nat) (s : State) (hs : HostOk s) : HostOk (clearAlarms first count s) := by
  simp only [clearAlarms]
  repeat' first
    | with_reducible assumption | split | with_reducible apply count_hostOk
    | with_reducible apply clearCounters_hostOk | with_reducible apply HostOk.ite
    | with_reducible apply HostOk.foldl | with_reducible apply HostOk.mk_of | with_reducible rfl | intro _
    | dsimp only

theorem procAlarmRuleDefine_hostOk (h : Hdr) (p : RuleP) (s : State) : (procAlarmRuleDefine h p s).work.Ok := by
  refine ⟨fun t ht => ?_, fun t ht => ?_⟩ <;> repeat' first
    | with_reducible assumption | with_reducible apply refuse_hostOk | dsimp only [effect, answer, id] | split | with_reducible apply defineRule_hostOk | with_reducible apply HostOk.ite
    | with_reducible apply HostOk.foldl | with_reducible apply HostOk.mk_of | with_reducible rfl | intro _
    | dsimp only

theorem procAlarmRuleEnable_hostOk (h : Hdr) (first count en : Nat) (s : State) : (procAlarmRuleEnable h first count
    en s).work.Ok := by
  refine ⟨fun t ht => ?_, fun t ht => ?_⟩ <;> repeat' first
    | with_reducible assumption | with_reducible apply refuse_hostOk | dsimp only [effect, answer, id] | split | with_reducible apply count_hostOk
    | with_reducible apply enableRules_hostOk | with_reducible apply HostOk.ite | with_reducible apply HostOk.foldl
    | with_reducible apply HostOk.mk_of | with_reducible rfl | intro _ | dsimp only

theorem procAlarmRuleDelete_hostOk (h : Hdr) (rule : Nat) (s : State) : (procAlarmRuleDelete h rule s).work.Ok := by
  refine ⟨fun t ht => ?_, fun t ht => ?_⟩ <;> repeat' first
    | with_reducible assumption | with_reducible apply refuse_hostOk | dsimp only [effect, answer, id] | split | with_reducible apply dropRule_hostOk
    | with_reducible apply adminClear_hostOk | with_reducible apply HostOk.ite | with_reducible apply HostOk.foldl
    | with_reducible apply HostOk.mk_of | with_reducible rfl | intro _ | dsimp only

theorem procAlarmRuleQuery_hostOk (h : Hdr) (rule : Nat) (s : State) : (procAlarmRuleQuery h rule s).work.Ok := by
  refine ⟨fun t ht => ?_, fun t ht => ?_⟩ <;> repeat' first
    | with_reducible assumption | with_reducible apply refuse_hostOk | dsimp only [effect, answer, id] | split | with_reducible apply HostOk.ite | with_reducible apply HostOk.foldl
    | with_reducible apply HostOk.mk_of | with_reducible rfl | intro _ | dsimp only

theorem procAlarmLineConfig_hostOk (h : Hdr) (p : LineP) (s : State) : (procAlarmLineConfig h p s).work.Ok := by
  refine ⟨fun t ht => ?_, fun t ht => ?_⟩ <;> repeat' first
    | with_reducible assumption | with_reducible apply refuse_hostOk | dsimp only [effect, answer, id] | split | with_reducible apply setLine_hostOk | with_reducible apply HostOk.ite
    | with_reducible apply HostOk.foldl | with_reducible apply HostOk.mk_of | with_reducible rfl | intro _
    | dsimp only

theorem procAlarmAck_hostOk (h : Hdr) (mask : Nat) (s : State) : (procAlarmAck h mask s).work.Ok := by
  refine ⟨fun t ht => ?_, fun t ht => ?_⟩ <;> repeat' first
    | with_reducible assumption | with_reducible apply refuse_hostOk | dsimp only [effect, answer, id] | split | with_reducible apply ackLines_hostOk | with_reducible apply HostOk.ite
    | with_reducible apply HostOk.foldl | with_reducible apply HostOk.mk_of | with_reducible rfl | intro _
    | dsimp only

theorem procAlarmForce_hostOk (h : Hdr) (rule action : Nat) (s : State) : (procAlarmForce h rule action s).work.Ok :=
    by
  refine ⟨fun t ht => ?_, fun t ht => ?_⟩ <;> repeat' first
    | with_reducible assumption | with_reducible apply refuse_hostOk | dsimp only [effect, answer, id] | split | with_reducible apply forceRule_hostOk | with_reducible apply HostOk.ite
    | with_reducible apply HostOk.foldl | with_reducible apply HostOk.mk_of | with_reducible rfl | intro _
    | dsimp only

theorem procAlarmXtrigConfig_hostOk (h : Hdr) (p : XtrigP) (s : State) : (procAlarmXtrigConfig h p s).work.Ok := by
  refine ⟨fun t ht => ?_, fun t ht => ?_⟩ <;> repeat' first
    | with_reducible assumption | with_reducible apply refuse_hostOk | dsimp only [effect, answer, id] | split | with_reducible apply setXtrig_hostOk | with_reducible apply HostOk.ite
    | with_reducible apply HostOk.foldl | with_reducible apply HostOk.mk_of | with_reducible rfl | intro _
    | dsimp only

theorem procAlarmClearCounters_hostOk (h : Hdr) (first count : Nat) (s : State) : (procAlarmClearCounters h first
    count s).work.Ok := by
  refine ⟨fun t ht => ?_, fun t ht => ?_⟩ <;> repeat' first
    | with_reducible assumption | with_reducible apply refuse_hostOk | dsimp only [effect, answer, id] | split | with_reducible apply count_hostOk
    | with_reducible apply clearAlarms_hostOk | with_reducible apply HostOk.ite | with_reducible apply HostOk.foldl
    | with_reducible apply HostOk.mk_of | with_reducible rfl | intro _ | dsimp only

theorem execAlarmRuleDefine_hostOk (h : Hdr) (p : RuleP) (s : State) (hs : HostOk s) : ∃ σ, execAlarmRuleDefine h p s
    = .next σ ∧ HostOk σ := ⟨_, rfl, runProc_hostOk _ _ (procAlarmRuleDefine_hostOk _ _ _) hs⟩

theorem execAlarmRuleEnable_hostOk (h : Hdr) (first count en : Nat) (s : State) (hs : HostOk s) : ∃ σ,
    execAlarmRuleEnable h first count en s = .next σ ∧ HostOk σ := ⟨_, rfl, runProc_hostOk _ _ (procAlarmRuleEnable_hostOk _ _ _ _ _) hs⟩

theorem execAlarmRuleDelete_hostOk (h : Hdr) (rule : Nat) (s : State) (hs : HostOk s) : ∃ σ, execAlarmRuleDelete h
    rule s = .next σ ∧ HostOk σ := ⟨_, rfl, runProc_hostOk _ _ (procAlarmRuleDelete_hostOk _ _ _) hs⟩

theorem execAlarmRuleQuery_hostOk (h : Hdr) (rule : Nat) (s : State) (hs : HostOk s) : ∃ σ, execAlarmRuleQuery h rule
    s = .next σ ∧ HostOk σ := ⟨_, rfl, runProc_hostOk _ _ (procAlarmRuleQuery_hostOk _ _ _) hs⟩

theorem execAlarmLineConfig_hostOk (h : Hdr) (p : LineP) (s : State) (hs : HostOk s) : ∃ σ, execAlarmLineConfig h p s
    = .next σ ∧ HostOk σ := ⟨_, rfl, runProc_hostOk _ _ (procAlarmLineConfig_hostOk _ _ _) hs⟩

theorem execAlarmAck_hostOk (h : Hdr) (mask : Nat) (s : State) (hs : HostOk s) : ∃ σ, execAlarmAck h mask s = .next σ
    ∧ HostOk σ := ⟨_, rfl, runProc_hostOk _ _ (procAlarmAck_hostOk _ _ _) hs⟩

theorem execAlarmForce_hostOk (h : Hdr) (rule action : Nat) (s : State) (hs : HostOk s) : ∃ σ, execAlarmForce h rule
    action s = .next σ ∧ HostOk σ := ⟨_, rfl, runProc_hostOk _ _ (procAlarmForce_hostOk _ _ _ _) hs⟩

theorem execAlarmXtrigConfig_hostOk (h : Hdr) (p : XtrigP) (s : State) (hs : HostOk s) : ∃ σ, execAlarmXtrigConfig h p
    s = .next σ ∧ HostOk σ := ⟨_, rfl, runProc_hostOk _ _ (procAlarmXtrigConfig_hostOk _ _ _) hs⟩

theorem execAlarmClearCounters_hostOk (h : Hdr) (first count : Nat) (s : State) (hs : HostOk s) : ∃ σ,
    execAlarmClearCounters h first count s = .next σ ∧ HostOk σ := ⟨_, rfl, runProc_hostOk _ _ (procAlarmClearCounters_hostOk _ _ _ _) hs⟩

end Sys2Proof.Machine
end

