-- ==== Sys2Proof/Laws/OkAcqCmd.lean ====
section
/-! SUPPORT. The operations of Machine/AcqCmd.lean keep the bounds of the host interface (`HostOk`). -/

namespace Sys2Proof.Machine

theorem placeChan_hostOk (p : ChanP) (byCommand : Bool) (s : State) (hs : HostOk s) : HostOk (placeChan p byCommand s)
    :=
  hs.of_look (placeChan_look _ (fun _ _ => rfl) p byCommand s)

theorem finishChan_hostOk (o : OpEntry) (p : ChanP) (hwFault : Bool) (s : State) (hs : HostOk s) : HostOk (finishChan
    o p hwFault s) := by
  simp only [finishChan]
  repeat' first
    | with_reducible assumption | split | with_reducible apply finishAdmit_hostOk
    | with_reducible apply placeChan_hostOk | with_reducible apply HostOk.ite | with_reducible apply HostOk.foldl
    | with_reducible apply HostOk.mk_of | with_reducible rfl | intro _ | dsimp only

theorem placeRing_hostOk (p : AqRingP) (addressed byCommand : Bool) (s : State) (hs : HostOk s) : HostOk (placeRing p
    addressed byCommand s) :=
  hs.of_look (placeRing_look _ (fun _ _ => rfl) p addressed byCommand s)

theorem finishRing_hostOk (o : OpEntry) (p : AqRingP) (hwFault : Bool) (s : State) (hs : HostOk s) : HostOk
    (finishRing o p hwFault s) := by
  simp only [finishRing]
  repeat' first
    | with_reducible assumption | split | with_reducible apply placeRing_hostOk
    | with_reducible apply finalCompletion_hostOk | with_reducible apply HostOk.ite
    | with_reducible apply HostOk.foldl | with_reducible apply HostOk.mk_of | with_reducible rfl | intro _
    | dsimp only

theorem dropChan_hostOk (c : Nat) (s : State) (hs : HostOk s) : HostOk (dropChan c s) :=
  hs.of_look (dropChan_look _ (fun _ _ => rfl) c s)

theorem hostTrigger_hostOk (l : List Nat) (t : Int) (s : State) (hs : HostOk s) : HostOk (hostTrigger l t s).2 := by
  induction l generalizing s with
  | nil => exact hs
  | cons c l ih => exact ih _ (triggerChan_hostOk _ _ _ _ _ hs)

theorem acqTriggerBody_hostOk (mask : Nat) (t : DT80) (s : State) (hs : HostOk s) : HostOk (acqTriggerBody mask t s).state :=
  hostTrigger_hostOk _ _ _ hs

theorem setAq_hostOk (nq : Nat) (s : State) (hs : HostOk s) : HostOk (setAq nq s) :=
  hs.of_look (setAq_look _ (fun _ _ => rfl) nq s)

theorem clearAcq_hostOk (mask : Nat) (s : State) (hs : HostOk s) : HostOk (clearAcq mask s) := by
  simp only [clearAcq]
  repeat' first
    | with_reducible assumption | split | with_reducible apply clearCounters_hostOk
    | with_reducible apply HostOk.ite | with_reducible apply HostOk.foldl | with_reducible apply HostOk.mk_of
    | with_reducible rfl | intro _ | dsimp only

theorem procAcqChannelDefine_hostOk (h : Hdr) (p : ChanP) (s : State) : (procAcqChannelDefine h p s).work.Ok := by
  exact Work.later_ok _

theorem procAcqRingDefine_hostOk (h : Hdr) (p : AqRingP) (s : State) : (procAcqRingDefine h p s).work.Ok := by
  exact Work.later_ok _

theorem procAcqEnable_hostOk (h : Hdr) (ch en : Nat) (s : State) : (procAcqEnable h ch en s).work.Ok := by
  refine ⟨fun t ht => ?_, fun t ht => ?_⟩ <;> repeat' first
    | with_reducible assumption | with_reducible apply refuse_hostOk | dsimp only [effect, answer, id] | split | with_reducible apply enableChan_hostOk | with_reducible apply HostOk.ite
    | with_reducible apply HostOk.foldl | with_reducible apply HostOk.mk_of | with_reducible rfl | intro _
    | dsimp only

theorem procAcqDelete_hostOk (h : Hdr) (ch : Nat) (s : State) : (procAcqDelete h ch s).work.Ok := by
  refine ⟨fun t ht => ?_, fun t ht => ?_⟩ <;> repeat' first
    | with_reducible assumption | with_reducible apply refuse_hostOk | dsimp only [effect, answer, id] | split | with_reducible apply dropChan_hostOk | with_reducible apply HostOk.ite
    | with_reducible apply HostOk.foldl | with_reducible apply HostOk.mk_of | with_reducible rfl | intro _
    | dsimp only

theorem procAcqTrigger_hostOk (h : Hdr) (mask : Nat) (t : DT80) (s : State) : (procAcqTrigger h mask t s).work.Ok :=
    by
  refine ⟨fun t ht => ?_, fun t ht => ?_⟩ <;> repeat' first
    | with_reducible assumption | with_reducible apply refuse_hostOk | dsimp only [effect, answer, id] | split | with_reducible apply acqTriggerBody_hostOk
    | with_reducible apply HostOk.ite | with_reducible apply HostOk.foldl | with_reducible apply HostOk.mk_of
    | with_reducible rfl | intro _ | dsimp only

theorem procAcqQuery_hostOk (h : Hdr) (ch : Nat) (s : State) : (procAcqQuery h ch s).work.Ok := by
  refine ⟨fun t ht => ?_, fun t ht => ?_⟩ <;> repeat' first
    | with_reducible assumption | with_reducible apply refuse_hostOk | dsimp only [effect, answer, id] | split | with_reducible apply HostOk.ite | with_reducible apply HostOk.foldl
    | with_reducible apply HostOk.mk_of | with_reducible rfl | intro _ | dsimp only

theorem procAcqGconfig_hostOk (h : Hdr) (nq : Nat) (s : State) : (procAcqGconfig h nq s).work.Ok := by
  refine ⟨fun t ht => ?_, fun t ht => ?_⟩ <;> repeat' first
    | with_reducible assumption | with_reducible apply refuse_hostOk | dsimp only [effect, answer, id] | split | with_reducible apply setAq_hostOk | with_reducible apply HostOk.ite
    | with_reducible apply HostOk.foldl | with_reducible apply HostOk.mk_of | with_reducible rfl | intro _
    | dsimp only

theorem procAcqClearCounters_hostOk (h : Hdr) (mask : Nat) (s : State) : (procAcqClearCounters h mask s).work.Ok := by
  refine ⟨fun t ht => ?_, fun t ht => ?_⟩ <;> repeat' first
    | with_reducible assumption | with_reducible apply refuse_hostOk | dsimp only [effect, answer, id] | split | with_reducible apply clearAcq_hostOk | with_reducible apply HostOk.ite
    | with_reducible apply HostOk.foldl | with_reducible apply HostOk.mk_of | with_reducible rfl | intro _
    | dsimp only

theorem execAcqChannelDefine_hostOk (h : Hdr) (p : ChanP) (s : State) (hs : HostOk s) : ∃ σ, execAcqChannelDefine h p
    s = .next σ ∧ HostOk σ := ⟨_, rfl, runProc_hostOk _ _ (procAcqChannelDefine_hostOk _ _ _) hs⟩

theorem execAcqRingDefine_hostOk (h : Hdr) (p : AqRingP) (s : State) (hs : HostOk s) : ∃ σ, execAcqRingDefine h p s =
    .next σ ∧ HostOk σ := ⟨_, rfl, runProc_hostOk _ _ (procAcqRingDefine_hostOk _ _ _) hs⟩

theorem execAcqEnable_hostOk (h : Hdr) (ch en : Nat) (s : State) (hs : HostOk s) : ∃ σ, execAcqEnable h ch en s =
    .next σ ∧ HostOk σ := ⟨_, rfl, runProc_hostOk _ _ (procAcqEnable_hostOk _ _ _ _) hs⟩

theorem execAcqDelete_hostOk (h : Hdr) (ch : Nat) (s : State) (hs : HostOk s) : ∃ σ, execAcqDelete h ch s = .next σ ∧
    HostOk σ := ⟨_, rfl, runProc_hostOk _ _ (procAcqDelete_hostOk _ _ _) hs⟩

theorem execAcqTrigger_hostOk (h : Hdr) (mask : Nat) (t : DT80) (s : State) (hs : HostOk s) : ∃ σ, execAcqTrigger h
    mask t s = .next σ ∧ HostOk σ := ⟨_, rfl, runProc_hostOk _ _ (procAcqTrigger_hostOk _ _ _ _) hs⟩

theorem execAcqQuery_hostOk (h : Hdr) (ch : Nat) (s : State) (hs : HostOk s) : ∃ σ, execAcqQuery h ch s = .next σ ∧
    HostOk σ := ⟨_, rfl, runProc_hostOk _ _ (procAcqQuery_hostOk _ _ _) hs⟩

theorem execAcqGconfig_hostOk (h : Hdr) (nq : Nat) (s : State) (hs : HostOk s) : ∃ σ, execAcqGconfig h nq s = .next σ
    ∧ HostOk σ := ⟨_, rfl, runProc_hostOk _ _ (procAcqGconfig_hostOk _ _ _) hs⟩

theorem execAcqClearCounters_hostOk (h : Hdr) (mask : Nat) (s : State) (hs : HostOk s) : ∃ σ, execAcqClearCounters h
    mask s = .next σ ∧ HostOk σ := ⟨_, rfl, runProc_hostOk _ _ (procAcqClearCounters_hostOk _ _ _) hs⟩

end Sys2Proof.Machine
end

