-- ==== Sys2Proof/Laws/OkMeterCmd.lean ====
section
/-! SUPPORT. The operations of Machine/MeterCmd.lean keep the bounds of the host interface (`HostOk`). -/

namespace Sys2Proof.Machine

theorem markVs_hostOk (ch : Nat) (s : State) (hs : HostOk s) : HostOk (markVs ch s) :=
  hs.of_look (markVs_look _ (fun _ _ => rfl) ch s)

theorem setMChan_hostOk (p : MChanP) (s : State) (hs : HostOk s) : HostOk (setMChan p s) :=
  hs.of_look (setMChan_look _ (fun _ _ => rfl) p s)

theorem setCal_hostOk (p : CalP) (s : State) (hs : HostOk s) : HostOk (setCal p s) :=
  hs.of_look (setCal_look _ (fun _ _ => rfl) p s)

theorem setTemp_hostOk (ch : Nat) (t : Int) (s : State) (hs : HostOk s) : HostOk (setTemp ch t s) :=
  hs.of_look (setTemp_look _ (fun _ _ => rfl) ch t s)

theorem placeElem_hostOk (p : ElemP) (s : State) (hs : HostOk s) : HostOk (placeElem p s) :=
  hs.of_look (placeElem_look _ (fun _ _ => rfl) p s)

theorem enableElem_hostOk (el : Nat) (en : Bool) (s : State) (hs : HostOk s) : HostOk (enableElem el en s) := by
  simp only [enableElem]
  repeat' first
    | with_reducible assumption | split | with_reducible apply closeBlock_hostOk
    | with_reducible apply updElem_hostOk | with_reducible apply HostOk.ite | with_reducible apply HostOk.foldl
    | with_reducible apply HostOk.mk_of | with_reducible rfl | intro _ | dsimp only

theorem presetReg_hostOk (el reg rollover count : Nat) (s : State) (hs : HostOk s) : HostOk (presetReg el reg rollover
    count s) := by
  simp only [presetReg]
  repeat' first
    | with_reducible assumption | split | with_reducible apply updElem_hostOk | with_reducible apply count_hostOk
    | with_reducible apply report_hostOk | with_reducible apply HostOk.ite | with_reducible apply HostOk.foldl
    | with_reducible apply HostOk.mk_of | with_reducible rfl | intro _ | dsimp only

theorem finishSigned_hostOk (o : OpEntry) (mask slot addr len : Nat) (hwFault : Bool) (s : State) (hs : HostOk s) :
    HostOk (finishSigned o mask slot addr len hwFault s) := by
  simp only [finishSigned]
  repeat' first
    | with_reducible assumption | split | with_reducible apply finalCompletion_hostOk
    | with_reducible apply countRevoked_hostOk | with_reducible apply hostOut_hostOk
    | with_reducible apply takeStatement_hostOk | with_reducible apply drawRandom_hostOk
    | with_reducible apply HostOk.ite | with_reducible apply HostOk.foldl | with_reducible apply HostOk.mk_of
    | with_reducible rfl | intro _ | dsimp only

theorem setPulseP_hostOk (p : PulseP) (s : State) (hs : HostOk s) : HostOk (setPulseP p s) :=
  hs.of_look (setPulseP_look _ (fun _ _ => rfl) p s)

theorem putVs_hostOk (p : VsP) (byCommand : Bool) (s : State) (hs : HostOk s) : HostOk (putVs p byCommand s) :=
  hs.of_look (putVs_look _ (fun _ _ _ => rfl) p byCommand s)

theorem placeVs_hostOk (p : VsP) (byCommand : Bool) (s : State) (hs : HostOk s) : HostOk (placeVs p byCommand s) := by
  simp only [placeVs]
  repeat' first
    | with_reducible assumption | split | with_reducible apply noteState_hostOk | with_reducible apply putVs_hostOk
    | with_reducible apply HostOk.ite | with_reducible apply HostOk.foldl | with_reducible apply HostOk.mk_of
    | with_reducible rfl | intro _ | dsimp only

theorem finishVs_hostOk (o : OpEntry) (p : VsP) (hwFault : Bool) (s : State) (hs : HostOk s) : HostOk (finishVs o p
    hwFault s) := by
  simp only [finishVs]
  repeat' first
    | with_reducible assumption | split | with_reducible apply finalCompletion_hostOk
    | with_reducible apply putVs_hostOk | with_reducible apply placeVs_hostOk | with_reducible apply HostOk.ite
    | with_reducible apply HostOk.foldl | with_reducible apply HostOk.mk_of | with_reducible rfl | intro _
    | dsimp only

theorem dropVs_hostOk (vs : Nat) (s : State) (hs : HostOk s) : HostOk (dropVs vs s) := by
  simp only [dropVs]
  repeat' first
    | with_reducible assumption | split | with_reducible apply removeStream_hostOk | with_reducible apply HostOk.ite
    | with_reducible apply HostOk.foldl | with_reducible apply HostOk.mk_of | with_reducible rfl | intro _
    | dsimp only

theorem setBallast_hostOk (p : BallastP) (s : State) (hs : HostOk s) : HostOk (setBallast p s) :=
  hs.of_look (setBallast_look _ (fun _ _ => rfl) p s)

theorem finishSave_hostOk (o : OpEntry) (hwFault : Bool) (s : State) (hs : HostOk s) : HostOk (finishSave o hwFault s)
    := by
  simp only [finishSave]
  repeat' first
    | with_reducible assumption | split | with_reducible apply finalCompletion_hostOk
    | with_reducible apply saveFailed_hostOk | with_reducible apply periodicSave_hostOk
    | with_reducible apply HostOk.ite | with_reducible apply HostOk.foldl | with_reducible apply HostOk.mk_of
    | with_reducible rfl | intro _ | dsimp only

theorem setMeter_hostOk (p : MeterP) (s : State) (hs : HostOk s) : HostOk (setMeter p s) :=
  hs.of_look (setMeter_look _ (fun _ _ => rfl) p s)

theorem clearMeter_hostOk (mask : Nat) (s : State) (hs : HostOk s) : HostOk (clearMeter mask s) := by
  simp only [clearMeter]
  repeat' first
    | with_reducible assumption | split | with_reducible apply clearCounters_hostOk
    | with_reducible apply HostOk.ite | with_reducible apply HostOk.foldl | with_reducible apply HostOk.mk_of
    | with_reducible rfl | intro _ | dsimp only

theorem procMeterChannelConfig_hostOk (h : Hdr) (p : MChanP) (s : State) : (procMeterChannelConfig h p s).work.Ok :=
    by
  refine ⟨fun t ht => ?_, fun t ht => ?_⟩ <;> repeat' first
    | with_reducible assumption | with_reducible apply refuse_hostOk | dsimp only [effect, answer, id] | split | with_reducible apply setMChan_hostOk | with_reducible apply HostOk.ite
    | with_reducible apply HostOk.foldl | with_reducible apply HostOk.mk_of | with_reducible rfl | intro _
    | dsimp only

theorem procMeterCalibrate_hostOk (h : Hdr) (p : CalP) (s : State) : (procMeterCalibrate h p s).work.Ok := by
  refine ⟨fun t ht => ?_, fun t ht => ?_⟩ <;> repeat' first
    | with_reducible assumption | with_reducible apply refuse_hostOk | dsimp only [effect, answer, id] | split | with_reducible apply setCal_hostOk | with_reducible apply HostOk.ite
    | with_reducible apply HostOk.foldl | with_reducible apply HostOk.mk_of | with_reducible rfl | intro _
    | dsimp only

theorem procMeterSensorTemp_hostOk (h : Hdr) (ch : Nat) (t : Int) (s : State) : (procMeterSensorTemp h ch t s).work.Ok
    := by
  refine ⟨fun t ht => ?_, fun t ht => ?_⟩ <;> repeat' first
    | with_reducible assumption | with_reducible apply refuse_hostOk | dsimp only [effect, answer, id] | split | with_reducible apply setTemp_hostOk | with_reducible apply HostOk.ite
    | with_reducible apply HostOk.foldl | with_reducible apply HostOk.mk_of | with_reducible rfl | intro _
    | dsimp only

theorem procMeterElementDefine_hostOk (h : Hdr) (p : ElemP) (s : State) : (procMeterElementDefine h p s).work.Ok := by
  refine ⟨fun t ht => ?_, fun t ht => ?_⟩ <;> repeat' first
    | with_reducible assumption | with_reducible apply refuse_hostOk | dsimp only [effect, answer, id] | split | with_reducible apply placeElem_hostOk | with_reducible apply HostOk.ite
    | with_reducible apply HostOk.foldl | with_reducible apply HostOk.mk_of | with_reducible rfl | intro _
    | dsimp only

theorem procMeterElementEnable_hostOk (h : Hdr) (el en : Nat) (s : State) : (procMeterElementEnable h el en s).work.Ok
    := by
  refine ⟨fun t ht => ?_, fun t ht => ?_⟩ <;> repeat' first
    | with_reducible assumption | with_reducible apply refuse_hostOk | dsimp only [effect, answer, id] | split | with_reducible apply enableElem_hostOk | with_reducible apply HostOk.ite
    | with_reducible apply HostOk.foldl | with_reducible apply HostOk.mk_of | with_reducible rfl | intro _
    | dsimp only

theorem procMeterEnergyRead_hostOk (h : Hdr) (el reg : Nat) (s : State) : (procMeterEnergyRead h el reg s).work.Ok :=
    by
  refine ⟨fun t ht => ?_, fun t ht => ?_⟩ <;> repeat' first
    | with_reducible assumption | with_reducible apply refuse_hostOk | dsimp only [effect, answer, id] | split | with_reducible apply count_hostOk | with_reducible apply HostOk.ite
    | with_reducible apply HostOk.foldl | with_reducible apply HostOk.mk_of | with_reducible rfl | intro _
    | dsimp only

theorem procMeterEnergyPreset_hostOk (h : Hdr) (el reg rollover count : Nat) (s : State) : (procMeterEnergyPreset h el
    reg rollover count s).work.Ok := by
  refine ⟨fun t ht => ?_, fun t ht => ?_⟩ <;> repeat' first
    | with_reducible assumption | with_reducible apply refuse_hostOk | dsimp only [effect, answer, id] | split | with_reducible apply count_hostOk | with_reducible apply presetReg_hostOk
    | with_reducible apply HostOk.ite | with_reducible apply HostOk.foldl | with_reducible apply HostOk.mk_of
    | with_reducible rfl | intro _ | dsimp only

theorem procMeterEnergySigned_hostOk (h : Hdr) (mask slot addr len : Nat) (s : State) : (procMeterEnergySigned h mask
    slot addr len s).work.Ok := by
  exact Work.later_ok _

theorem procMeterPulseConfig_hostOk (h : Hdr) (p : PulseP) (s : State) : (procMeterPulseConfig h p s).work.Ok := by
  refine ⟨fun t ht => ?_, fun t ht => ?_⟩ <;> repeat' first
    | with_reducible assumption | with_reducible apply refuse_hostOk | dsimp only [effect, answer, id] | split | with_reducible apply setPulseP_hostOk | with_reducible apply HostOk.ite
    | with_reducible apply HostOk.foldl | with_reducible apply HostOk.mk_of | with_reducible rfl | intro _
    | dsimp only

theorem procMeterVstreamDefine_hostOk (h : Hdr) (p : VsP) (s : State) : (procMeterVstreamDefine h p s).work.Ok := by
  exact Work.later_ok _

theorem procMeterVstreamRemove_hostOk (h : Hdr) (vs : Nat) (s : State) : (procMeterVstreamRemove h vs s).work.Ok := by
  refine ⟨fun t ht => ?_, fun t ht => ?_⟩ <;> repeat' first
    | with_reducible assumption | with_reducible apply refuse_hostOk | dsimp only [effect, answer, id] | split | with_reducible apply dropVs_hostOk | with_reducible apply HostOk.ite
    | with_reducible apply HostOk.foldl | with_reducible apply HostOk.mk_of | with_reducible rfl | intro _
    | dsimp only

theorem procMeterBallastDefine_hostOk (h : Hdr) (p : BallastP) (s : State) : (procMeterBallastDefine h p s).work.Ok :=
    by
  refine ⟨fun t ht => ?_, fun t ht => ?_⟩ <;> repeat' first
    | with_reducible assumption | with_reducible apply refuse_hostOk | dsimp only [effect, answer, id] | split | with_reducible apply setBallast_hostOk | with_reducible apply HostOk.ite
    | with_reducible apply HostOk.foldl | with_reducible apply HostOk.mk_of | with_reducible rfl | intro _
    | dsimp only

theorem procMeterSave_hostOk (h : Hdr) (s : State) : (procMeterSave h s).work.Ok := by
  exact Work.later_ok _

theorem procMeterConfig_hostOk (h : Hdr) (p : MeterP) (s : State) : (procMeterConfig h p s).work.Ok := by
  refine ⟨fun t ht => ?_, fun t ht => ?_⟩ <;> repeat' first
    | with_reducible assumption | with_reducible apply refuse_hostOk | dsimp only [effect, answer, id] | split | with_reducible apply setMeter_hostOk | with_reducible apply HostOk.ite
    | with_reducible apply HostOk.foldl | with_reducible apply HostOk.mk_of | with_reducible rfl | intro _
    | dsimp only

theorem procMeterQuery_hostOk (h : Hdr) (s : State) : (procMeterQuery h s).work.Ok := by
  refine ⟨fun t ht => ?_, fun t ht => ?_⟩ <;> repeat' first
    | with_reducible assumption | with_reducible apply refuse_hostOk | dsimp only [effect, answer, id] | split | with_reducible apply HostOk.ite | with_reducible apply HostOk.foldl
    | with_reducible apply HostOk.mk_of | with_reducible rfl | intro _ | dsimp only

theorem procMeterClearCounters_hostOk (h : Hdr) (mask : Nat) (s : State) : (procMeterClearCounters h mask s).work.Ok
    := by
  refine ⟨fun t ht => ?_, fun t ht => ?_⟩ <;> repeat' first
    | with_reducible assumption | with_reducible apply refuse_hostOk | dsimp only [effect, answer, id] | split | with_reducible apply clearMeter_hostOk | with_reducible apply HostOk.ite
    | with_reducible apply HostOk.foldl | with_reducible apply HostOk.mk_of | with_reducible rfl | intro _
    | dsimp only

theorem execMeterChannelConfig_hostOk (h : Hdr) (p : MChanP) (s : State) (hs : HostOk s) : ∃ σ, execMeterChannelConfig
    h p s = .next σ ∧ HostOk σ := ⟨_, rfl, runProc_hostOk _ _ (procMeterChannelConfig_hostOk _ _ _) hs⟩

theorem execMeterCalibrate_hostOk (h : Hdr) (p : CalP) (s : State) (hs : HostOk s) : ∃ σ, execMeterCalibrate h p s =
    .next σ ∧ HostOk σ := ⟨_, rfl, runProc_hostOk _ _ (procMeterCalibrate_hostOk _ _ _) hs⟩

theorem execMeterSensorTemp_hostOk (h : Hdr) (ch : Nat) (t : Int) (s : State) (hs : HostOk s) : ∃ σ,
    execMeterSensorTemp h ch t s = .next σ ∧ HostOk σ := ⟨_, rfl, runProc_hostOk _ _ (procMeterSensorTemp_hostOk _ _ _ _) hs⟩

theorem execMeterElementDefine_hostOk (h : Hdr) (p : ElemP) (s : State) (hs : HostOk s) : ∃ σ, execMeterElementDefine
    h p s = .next σ ∧ HostOk σ := ⟨_, rfl, runProc_hostOk _ _ (procMeterElementDefine_hostOk _ _ _) hs⟩

theorem execMeterElementEnable_hostOk (h : Hdr) (el en : Nat) (s : State) (hs : HostOk s) : ∃ σ,
    execMeterElementEnable h el en s = .next σ ∧ HostOk σ := ⟨_, rfl, runProc_hostOk _ _ (procMeterElementEnable_hostOk _ _ _ _) hs⟩

theorem execMeterEnergyRead_hostOk (h : Hdr) (el reg : Nat) (s : State) (hs : HostOk s) : ∃ σ, execMeterEnergyRead h
    el reg s = .next σ ∧ HostOk σ := ⟨_, rfl, runProc_hostOk _ _ (procMeterEnergyRead_hostOk _ _ _ _) hs⟩

theorem execMeterEnergyPreset_hostOk (h : Hdr) (el reg rollover count : Nat) (s : State) (hs : HostOk s) : ∃ σ,
    execMeterEnergyPreset h el reg rollover count s = .next σ ∧ HostOk σ := ⟨_, rfl, runProc_hostOk _ _ (procMeterEnergyPreset_hostOk _ _ _ _ _ _) hs⟩

theorem execMeterEnergySigned_hostOk (h : Hdr) (mask slot addr len : Nat) (s : State) (hs : HostOk s) : ∃ σ,
    execMeterEnergySigned h mask slot addr len s = .next σ ∧ HostOk σ := ⟨_, rfl, runProc_hostOk _ _ (procMeterEnergySigned_hostOk _ _ _ _ _ _) hs⟩

theorem execMeterPulseConfig_hostOk (h : Hdr) (p : PulseP) (s : State) (hs : HostOk s) : ∃ σ, execMeterPulseConfig h p
    s = .next σ ∧ HostOk σ := ⟨_, rfl, runProc_hostOk _ _ (procMeterPulseConfig_hostOk _ _ _) hs⟩

theorem execMeterVstreamDefine_hostOk (h : Hdr) (p : VsP) (s : State) (hs : HostOk s) : ∃ σ, execMeterVstreamDefine h
    p s = .next σ ∧ HostOk σ := ⟨_, rfl, runProc_hostOk _ _ (procMeterVstreamDefine_hostOk _ _ _) hs⟩

theorem execMeterVstreamRemove_hostOk (h : Hdr) (vs : Nat) (s : State) (hs : HostOk s) : ∃ σ, execMeterVstreamRemove h
    vs s = .next σ ∧ HostOk σ := ⟨_, rfl, runProc_hostOk _ _ (procMeterVstreamRemove_hostOk _ _ _) hs⟩

theorem execMeterBallastDefine_hostOk (h : Hdr) (p : BallastP) (s : State) (hs : HostOk s) : ∃ σ,
    execMeterBallastDefine h p s = .next σ ∧ HostOk σ := ⟨_, rfl, runProc_hostOk _ _ (procMeterBallastDefine_hostOk _ _ _) hs⟩

theorem execMeterSave_hostOk (h : Hdr) (s : State) (hs : HostOk s) : ∃ σ, execMeterSave h s = .next σ ∧ HostOk σ := ⟨_, rfl, runProc_hostOk _ _ (procMeterSave_hostOk _ _) hs⟩

theorem execMeterConfig_hostOk (h : Hdr) (p : MeterP) (s : State) (hs : HostOk s) : ∃ σ, execMeterConfig h p s = .next
    σ ∧ HostOk σ := ⟨_, rfl, runProc_hostOk _ _ (procMeterConfig_hostOk _ _ _) hs⟩

theorem execMeterQuery_hostOk (h : Hdr) (s : State) (hs : HostOk s) : ∃ σ, execMeterQuery h s = .next σ ∧ HostOk σ := ⟨_, rfl, runProc_hostOk _ _ (procMeterQuery_hostOk _ _) hs⟩

theorem execMeterClearCounters_hostOk (h : Hdr) (mask : Nat) (s : State) (hs : HostOk s) : ∃ σ, execMeterClearCounters
    h mask s = .next σ ∧ HostOk σ := ⟨_, rfl, runProc_hostOk _ _ (procMeterClearCounters_hostOk _ _ _) hs⟩

end Sys2Proof.Machine
end

