-- ==== Sys2Proof/Laws/OkVaultCmd.lean ====
section
/-! SUPPORT. The operations of Machine/VaultCmd.lean keep the bounds of the host interface (`HostOk`). -/

namespace Sys2Proof.Machine

theorem Work.laterUse_ok (first : State → Nat) : (laterUse first).Ok := by
  refine ⟨fun _ _ h => h, fun t h => ?_⟩
  dsimp only
  unfold countRevoked
  split
  · exact count_hostOk _ _ h
  · exact h

theorem burnFuses_hostOk (l : Lifecycle) (ownerKey : Option Nat) (s : State) (hs : HostOk s) : HostOk (burnFuses l ownerKey s) := by
  have h : ∀ t, HostOk t → HostOk (drawRandom t).2 := fun t ht => drawRandom_hostOk t ht
  unfold burnFuses
  cases l
  · exact HostOk.mk_of hs rfl rfl
  · exact HostOk.mk_of (h _ (HostOk.mk_of hs rfl rfl)) rfl rfl
  · exact HostOk.mk_of hs rfl rfl
  · exact HostOk.mk_of (HostOk.mk_of hs rfl rfl) rfl rfl

theorem finishLifecycle_hostOk (o : OpEntry) (target : Nat) (ownerKey : Option Nat) (hwFault : Bool) (s : State) (hs :
    HostOk s) : HostOk (finishLifecycle o target ownerKey hwFault s) := by
  simp only [finishLifecycle]
  repeat' first
    | with_reducible assumption | split | with_reducible apply finalCompletion_hostOk
    | with_reducible apply burnFuses_hostOk | with_reducible apply HostOk.ite | with_reducible apply HostOk.foldl
    | with_reducible apply HostOk.mk_of | with_reducible rfl | intro _ | dsimp only

theorem loadOwner_hostOk (key : Nat) (s : State) (hs : HostOk s) : HostOk (loadOwner key s) :=
  hs.of_look (loadOwner_look _ (fun _ _ _ => rfl) key s)

theorem finishRoot_hostOk (o : OpEntry) (hwFault : Bool) (s : State) (hs : HostOk s) : HostOk (finishRoot o hwFault s)
    := by
  simp only [finishRoot]
  repeat' first
    | with_reducible assumption | split | with_reducible apply finalCompletion_hostOk
    | with_reducible apply drawRandom_hostOk | with_reducible apply HostOk.ite | with_reducible apply HostOk.foldl
    | with_reducible apply HostOk.mk_of | with_reducible rfl | intro _ | dsimp only

theorem finishGenerate_hostOk (o : OpEntry) (slot alg usage lock : Nat) (hwFault : Bool) (s : State) (hs : HostOk s) :
    HostOk (finishGenerate o slot alg usage lock hwFault s) := by
  simp only [finishGenerate]
  repeat' first
    | with_reducible assumption | split | with_reducible apply finalCompletion_hostOk
    | with_reducible apply drawRandom_hostOk | with_reducible apply putKey_hostOk | with_reducible apply HostOk.ite
    | with_reducible apply HostOk.foldl | with_reducible apply HostOk.mk_of | with_reducible rfl | intro _
    | dsimp only

theorem finishDerive_hostOk (o : OpEntry) (slot parent alg usage lock label : Nat) (hwFault : Bool) (s : State) (hs :
    HostOk s) : HostOk (finishDerive o slot parent alg usage lock label hwFault s) := by
  simp only [finishDerive]
  repeat' first
    | with_reducible assumption | split | with_reducible apply finalCompletion_hostOk
    | with_reducible apply putKey_hostOk | with_reducible apply HostOk.ite | with_reducible apply HostOk.foldl
    | with_reducible apply HostOk.mk_of | with_reducible rfl | intro _ | dsimp only

theorem finishImport_hostOk (o : OpEntry) (p : ImportP) (hwFault : Bool) (s : State) (hs : HostOk s) : HostOk
    (finishImport o p hwFault s) := by
  simp only [finishImport]
  repeat' first
    | with_reducible assumption | split | with_reducible apply finalCompletion_hostOk
    | with_reducible apply putKey_hostOk | with_reducible apply HostOk.ite | with_reducible apply HostOk.foldl
    | with_reducible apply HostOk.mk_of | with_reducible rfl | intro _ | dsimp only

theorem finishBlob_hostOk (o : OpEntry) (slot addr len wrap uid : Nat) (ok : Bool) (s : State) (hs : HostOk s) :
    HostOk (finishBlob o slot addr len wrap uid ok s) := by
  simp only [finishBlob]
  repeat' first
    | with_reducible assumption | split | with_reducible apply finalCompletion_hostOk
    | with_reducible apply drawRandom_hostOk | with_reducible apply hostOut_hostOk | with_reducible apply HostOk.ite
    | with_reducible apply HostOk.foldl | with_reducible apply HostOk.mk_of | with_reducible rfl | intro _
    | dsimp only

theorem finishSeal_hostOk (o : OpEntry) (slot addr len : Nat) (hwFault : Bool) (s : State) (hs : HostOk s) : HostOk
    (finishSeal o slot addr len hwFault s) := by
  simp only [finishSeal]
  repeat' first
    | with_reducible assumption | split | with_reducible apply finalCompletion_hostOk
    | with_reducible apply finishBlob_hostOk | with_reducible apply HostOk.ite | with_reducible apply HostOk.foldl
    | with_reducible apply HostOk.mk_of | with_reducible rfl | intro _ | dsimp only

theorem finishExport_hostOk (o : OpEntry) (slot wrapSlot destUid addr len : Nat) (hwFault : Bool) (s : State) (hs :
    HostOk s) : HostOk (finishExport o slot wrapSlot destUid addr len hwFault s) := by
  simp only [finishExport]
  repeat' first
    | with_reducible assumption | split | with_reducible apply finishBlob_hostOk | with_reducible apply HostOk.ite
    | with_reducible apply HostOk.foldl | with_reducible apply HostOk.mk_of | with_reducible rfl | intro _
    | dsimp only

theorem finishAttest_hostOk (o : OpEntry) (slot nonce addr : Nat) (hwFault : Bool) (s : State) (hs : HostOk s) :
    HostOk (finishAttest o slot nonce addr hwFault s) := by
  simp only [finishAttest]
  repeat' first
    | with_reducible assumption | split | with_reducible apply finalCompletion_hostOk
    | with_reducible apply countRevoked_hostOk | with_reducible apply hostOut_hostOk
    | with_reducible apply drawRandom_hostOk | with_reducible apply takeStatement_hostOk
    | with_reducible apply HostOk.ite | with_reducible apply HostOk.foldl | with_reducible apply HostOk.mk_of
    | with_reducible rfl | intro _ | dsimp only

theorem procVaultStatus_hostOk (h : Hdr) (s : State) : (procVaultStatus h s).work.Ok := by
  refine ⟨fun t ht => ?_, fun t ht => ?_⟩ <;> repeat' first
    | with_reducible assumption | with_reducible apply refuse_hostOk | dsimp only [effect, answer, id] | split | with_reducible apply HostOk.ite | with_reducible apply HostOk.foldl
    | with_reducible apply HostOk.mk_of | with_reducible rfl | intro _ | dsimp only

theorem procVaultLifecycle_hostOk (h : Hdr) (target : Nat) (ownerKey : Option Nat) (s : State) : (procVaultLifecycle h
    target ownerKey s).work.Ok := by
  exact Work.later_ok _

theorem procVaultOwnerLoad_hostOk (h : Hdr) (key : Nat) (s : State) : (procVaultOwnerLoad h key s).work.Ok := by
  refine ⟨fun t ht => ?_, fun t ht => ?_⟩ <;> repeat' first
    | with_reducible assumption | with_reducible apply refuse_hostOk | dsimp only [effect, answer, id] | split | with_reducible apply loadOwner_hostOk | with_reducible apply HostOk.ite
    | with_reducible apply HostOk.foldl | with_reducible apply HostOk.mk_of | with_reducible rfl | intro _
    | dsimp only

theorem procVaultRootGenerate_hostOk (h : Hdr) (s : State) : (procVaultRootGenerate h s).work.Ok := by
  exact Work.later_ok _

theorem procVaultTamperClear_hostOk (h : Hdr) (s : State) : (procVaultTamperClear h s).work.Ok := by
  refine ⟨fun t ht => ?_, fun t ht => ?_⟩ <;> repeat' first
    | with_reducible assumption | with_reducible apply refuse_hostOk | dsimp only [effect, answer, id] | split | with_reducible apply HostOk.ite | with_reducible apply HostOk.foldl
    | with_reducible apply HostOk.mk_of | with_reducible rfl | intro _ | dsimp only

theorem procVaultTamperConfig_hostOk (h : Hdr) (enables : Nat) (s : State) : (procVaultTamperConfig h enables
    s).work.Ok := by
  refine ⟨fun t ht => ?_, fun t ht => ?_⟩ <;> repeat' first
    | with_reducible assumption | with_reducible apply refuse_hostOk | dsimp only [effect, answer, id] | split | with_reducible apply HostOk.ite | with_reducible apply HostOk.foldl
    | with_reducible apply HostOk.mk_of | with_reducible rfl | intro _ | dsimp only

theorem procVaultDebug_hostOk (h : Hdr) (en : Nat) (s : State) : (procVaultDebug h en s).work.Ok := by
  refine ⟨fun t ht => ?_, fun t ht => ?_⟩ <;> repeat' first
    | with_reducible assumption | with_reducible apply refuse_hostOk | dsimp only [effect, answer, id] | split | with_reducible apply HostOk.ite | with_reducible apply HostOk.foldl
    | with_reducible apply HostOk.mk_of | with_reducible rfl | intro _ | dsimp only

theorem procVaultGenerate_hostOk (h : Hdr) (slot alg usage lock : Nat) (s : State) : (procVaultGenerate h slot alg
    usage lock s).work.Ok := by
  exact Work.later_ok _

theorem procVaultDerive_hostOk (h : Hdr) (slot parent alg usage lock label : Nat) (s : State) : (procVaultDerive h
    slot parent alg usage lock label s).work.Ok := by
  exact Work.laterUse_ok _

theorem procVaultImport_hostOk (h : Hdr) (p : ImportP) (s : State) : (procVaultImport h p s).work.Ok := by
  exact Work.laterUse_ok _

theorem procVaultSeal_hostOk (h : Hdr) (slot addr len : Nat) (s : State) : (procVaultSeal h slot addr len s).work.Ok
    := by
  exact Work.laterUse_ok _

theorem procVaultExport_hostOk (h : Hdr) (slot wrapSlot destUid addr len : Nat) (s : State) : (procVaultExport h slot
    wrapSlot destUid addr len s).work.Ok := by
  exact Work.laterUse_ok _

theorem procVaultDestroy_hostOk (h : Hdr) (slot : Nat) (s : State) : (procVaultDestroy h slot s).work.Ok := by
  refine ⟨fun t ht => ?_, fun t ht => ?_⟩ <;> repeat' first
    | with_reducible assumption | with_reducible apply refuse_hostOk | dsimp only [effect, answer, id] | split | with_reducible apply destroySlot_hostOk | with_reducible apply HostOk.ite
    | with_reducible apply HostOk.foldl | with_reducible apply HostOk.mk_of | with_reducible rfl | intro _
    | dsimp only

theorem procVaultAttest_hostOk (h : Hdr) (slot nonce addr len : Nat) (s : State) : (procVaultAttest h slot nonce addr
    len s).work.Ok := by
  exact Work.later_ok _

theorem procVaultSlotQuery_hostOk (h : Hdr) (slot : Nat) (s : State) : (procVaultSlotQuery h slot s).work.Ok := by
  refine ⟨fun t ht => ?_, fun t ht => ?_⟩ <;> repeat' first
    | with_reducible assumption | with_reducible apply refuse_hostOk | dsimp only [effect, answer, id] | split | with_reducible apply HostOk.ite | with_reducible apply HostOk.foldl
    | with_reducible apply HostOk.mk_of | with_reducible rfl | intro _ | dsimp only

theorem procVaultRandom_hostOk (h : Hdr) (count : Nat) (s : State) : (procVaultRandom h count s).work.Ok := by
  refine ⟨fun t ht => ?_, fun t ht => ?_⟩ <;> repeat' first
    | with_reducible assumption | with_reducible apply refuse_hostOk | dsimp only [effect, answer, id] | split | with_reducible apply count_hostOk | with_reducible apply drawRandom_hostOk
    | with_reducible apply HostOk.ite | with_reducible apply HostOk.foldl | with_reducible apply HostOk.mk_of
    | with_reducible rfl | intro _ | dsimp only

theorem procVaultClearCounters_hostOk (h : Hdr) (s : State) : (procVaultClearCounters h s).work.Ok := by
  refine ⟨fun t ht => ?_, fun t ht => ?_⟩ <;> repeat' first
    | with_reducible assumption | with_reducible apply refuse_hostOk | dsimp only [effect, answer, id] | split | with_reducible apply clearCounters_hostOk
    | with_reducible apply HostOk.ite | with_reducible apply HostOk.foldl | with_reducible apply HostOk.mk_of
    | with_reducible rfl | intro _ | dsimp only

theorem execVaultStatus_hostOk (h : Hdr) (s : State) (hs : HostOk s) : ∃ σ, execVaultStatus h s = .next σ ∧ HostOk σ
    := ⟨_, rfl, runProc_hostOk _ _ (procVaultStatus_hostOk _ _) hs⟩

theorem execVaultLifecycle_hostOk (h : Hdr) (target : Nat) (ownerKey : Option Nat) (s : State) (hs : HostOk s) : ∃ σ,
    execVaultLifecycle h target ownerKey s = .next σ ∧ HostOk σ := ⟨_, rfl, runProc_hostOk _ _ (procVaultLifecycle_hostOk _ _ _ _) hs⟩

theorem execVaultOwnerLoad_hostOk (h : Hdr) (key : Nat) (s : State) (hs : HostOk s) : ∃ σ, execVaultOwnerLoad h key s
    = .next σ ∧ HostOk σ := ⟨_, rfl, runProc_hostOk _ _ (procVaultOwnerLoad_hostOk _ _ _) hs⟩

theorem execVaultRootGenerate_hostOk (h : Hdr) (s : State) (hs : HostOk s) : ∃ σ, execVaultRootGenerate h s = .next σ
    ∧ HostOk σ := ⟨_, rfl, runProc_hostOk _ _ (procVaultRootGenerate_hostOk _ _) hs⟩

theorem execVaultTamperClear_hostOk (h : Hdr) (s : State) (hs : HostOk s) : ∃ σ, execVaultTamperClear h s = .next σ ∧
    HostOk σ := ⟨_, rfl, runProc_hostOk _ _ (procVaultTamperClear_hostOk _ _) hs⟩

theorem execVaultTamperConfig_hostOk (h : Hdr) (enables : Nat) (s : State) (hs : HostOk s) : ∃ σ,
    execVaultTamperConfig h enables s = .next σ ∧ HostOk σ := ⟨_, rfl, runProc_hostOk _ _ (procVaultTamperConfig_hostOk _ _ _) hs⟩

theorem execVaultDebug_hostOk (h : Hdr) (en : Nat) (s : State) (hs : HostOk s) : ∃ σ, execVaultDebug h en s = .next σ
    ∧ HostOk σ := ⟨_, rfl, runProc_hostOk _ _ (procVaultDebug_hostOk _ _ _) hs⟩

theorem execVaultGenerate_hostOk (h : Hdr) (slot alg usage lock : Nat) (s : State) (hs : HostOk s) : ∃ σ,
    execVaultGenerate h slot alg usage lock s = .next σ ∧ HostOk σ := ⟨_, rfl, runProc_hostOk _ _ (procVaultGenerate_hostOk _ _ _ _ _ _) hs⟩

theorem execVaultDerive_hostOk (h : Hdr) (slot parent alg usage lock label : Nat) (s : State) (hs : HostOk s) : ∃ σ,
    execVaultDerive h slot parent alg usage lock label s = .next σ ∧ HostOk σ := ⟨_, rfl, runProc_hostOk _ _ (procVaultDerive_hostOk _ _ _ _ _ _ _ _) hs⟩

theorem execVaultImport_hostOk (h : Hdr) (p : ImportP) (s : State) (hs : HostOk s) : ∃ σ, execVaultImport h p s =
    .next σ ∧ HostOk σ := ⟨_, rfl, runProc_hostOk _ _ (procVaultImport_hostOk _ _ _) hs⟩

theorem execVaultSeal_hostOk (h : Hdr) (slot addr len : Nat) (s : State) (hs : HostOk s) : ∃ σ, execVaultSeal h slot
    addr len s = .next σ ∧ HostOk σ := ⟨_, rfl, runProc_hostOk _ _ (procVaultSeal_hostOk _ _ _ _ _) hs⟩

theorem execVaultExport_hostOk (h : Hdr) (slot wrapSlot destUid addr len : Nat) (s : State) (hs : HostOk s) : ∃ σ,
    execVaultExport h slot wrapSlot destUid addr len s = .next σ ∧ HostOk σ := ⟨_, rfl, runProc_hostOk _ _ (procVaultExport_hostOk _ _ _ _ _ _ _) hs⟩

theorem execVaultDestroy_hostOk (h : Hdr) (slot : Nat) (s : State) (hs : HostOk s) : ∃ σ, execVaultDestroy h slot s =
    .next σ ∧ HostOk σ := ⟨_, rfl, runProc_hostOk _ _ (procVaultDestroy_hostOk _ _ _) hs⟩

theorem execVaultAttest_hostOk (h : Hdr) (slot nonce addr len : Nat) (s : State) (hs : HostOk s) : ∃ σ,
    execVaultAttest h slot nonce addr len s = .next σ ∧ HostOk σ := ⟨_, rfl, runProc_hostOk _ _ (procVaultAttest_hostOk _ _ _ _ _ _) hs⟩

theorem execVaultSlotQuery_hostOk (h : Hdr) (slot : Nat) (s : State) (hs : HostOk s) : ∃ σ, execVaultSlotQuery h slot
    s = .next σ ∧ HostOk σ := ⟨_, rfl, runProc_hostOk _ _ (procVaultSlotQuery_hostOk _ _ _) hs⟩

theorem execVaultRandom_hostOk (h : Hdr) (count : Nat) (s : State) (hs : HostOk s) : ∃ σ, execVaultRandom h count s =
    .next σ ∧ HostOk σ := ⟨_, rfl, runProc_hostOk _ _ (procVaultRandom_hostOk _ _ _) hs⟩

theorem execVaultClearCounters_hostOk (h : Hdr) (s : State) (hs : HostOk s) : ∃ σ, execVaultClearCounters h s = .next
    σ ∧ HostOk σ := ⟨_, rfl, runProc_hostOk _ _ (procVaultClearCounters_hostOk _ _) hs⟩

end Sys2Proof.Machine
end

