-- ==== Sys2Proof/Laws/OkLogCmd.lean ====
section
/-! SUPPORT. The operations of Machine/LogCmd.lean keep the bounds of the host interface (`HostOk`). -/

namespace Sys2Proof.Machine

theorem setScrub_hostOk (ms : Nat) (s : State) (hs : HostOk s) : HostOk (setScrub ms s) :=
  hs.of_look (setScrub_look _ (fun _ _ => rfl) ms s)

theorem setLog_hostOk (p : LogP) (s : State) (hs : HostOk s) : HostOk (setLog p s) :=
  hs.of_look (setLog_look _ (fun _ _ _ => rfl) p s)

theorem finishLogRead_hostOk (o : OpEntry) (first count addr : Nat) (dataBad : Bool) (s : State) (hs : HostOk s) :
    HostOk (finishLogRead o first count addr dataBad s) := by
  simp only [finishLogRead]
  repeat' first
    | with_reducible assumption | split | with_reducible apply finalCompletion_hostOk
    | with_reducible apply cairnRead_hostOk | with_reducible apply count_hostOk
    | with_reducible apply readRecords_hostOk | with_reducible apply hostOut_hostOk
    | with_reducible apply HostOk.ite | with_reducible apply HostOk.foldl | with_reducible apply HostOk.mk_of
    | with_reducible rfl | intro _ | dsimp only

theorem finishFlush_hostOk (o : OpEntry) (hwFault : Bool) (s : State) (hs : HostOk s) : HostOk (finishFlush o hwFault
    s) := by
  simp only [finishFlush]
  repeat' first
    | with_reducible assumption | split | with_reducible apply finalCompletion_hostOk
    | with_reducible apply HostOk.ite | with_reducible apply HostOk.foldl | with_reducible apply HostOk.mk_of
    | with_reducible rfl | intro _ | dsimp only

theorem clearFault_hostOk (s : State) (hs : HostOk s) : HostOk (clearFault s) :=
  hs.of_look (clearFault_look _ (fun _ _ => rfl) s)

theorem flipBit_hostOk (m w b : Nat) (s : State) (hs : HostOk s) : HostOk (flipBit m w b s) :=
  hs.of_look (flipBit_look _ (fun _ _ => rfl) m w b s)

theorem procLogConfig_hostOk (h : Hdr) (p : LogP) (s : State) : (procLogConfig h p s).work.Ok := by
  refine ⟨fun t ht => ?_, fun t ht => ?_⟩ <;> repeat' first
    | with_reducible assumption | with_reducible apply refuse_hostOk | dsimp only [effect, answer, id] | split | with_reducible apply setLog_hostOk | with_reducible apply HostOk.ite
    | with_reducible apply HostOk.foldl | with_reducible apply HostOk.mk_of | with_reducible rfl | intro _
    | dsimp only

theorem procLogSpoolSeek_hostOk (h : Hdr) (seq : Nat) (s : State) : (procLogSpoolSeek h seq s).work.Ok := by
  refine ⟨fun t ht => ?_, fun t ht => ?_⟩ <;> repeat' first
    | with_reducible assumption | with_reducible apply refuse_hostOk | dsimp only [effect, answer, id] | split | with_reducible apply seekSpool_hostOk | with_reducible apply HostOk.ite
    | with_reducible apply HostOk.foldl | with_reducible apply HostOk.mk_of | with_reducible rfl | intro _
    | dsimp only

theorem procLogRead_hostOk (h : Hdr) (first count addr len : Nat) (s : State) : (procLogRead h first count addr len
    s).work.Ok := by
  exact Work.later_ok _

theorem procLogFlush_hostOk (h : Hdr) (s : State) : (procLogFlush h s).work.Ok := by
  refine ⟨fun k t ht => ?_, fun t ht => ?_⟩ <;> repeat' first
    | with_reducible assumption | with_reducible apply refuse_hostOk | dsimp only [effect, answer, id] | split | with_reducible apply flushTrigger_hostOk | with_reducible apply HostOk.ite
    | with_reducible apply HostOk.foldl | with_reducible apply HostOk.mk_of | with_reducible rfl | intro _
    | dsimp only

theorem procLogWrite_hostOk (h : Hdr) (severity arg : Nat) (s : State) : (procLogWrite h severity arg s).work.Ok := by
  refine ⟨fun t ht => ?_, fun t ht => ?_⟩ <;> repeat' first
    | with_reducible assumption | with_reducible apply refuse_hostOk | dsimp only [effect, answer, id] | split | with_reducible apply report_hostOk | with_reducible apply HostOk.ite
    | with_reducible apply HostOk.foldl | with_reducible apply HostOk.mk_of | with_reducible rfl | intro _
    | dsimp only

theorem procLogFaultClear_hostOk (h : Hdr) (s : State) : (procLogFaultClear h s).work.Ok := by
  refine ⟨fun t ht => ?_, fun t ht => ?_⟩ <;> repeat' first
    | with_reducible assumption | with_reducible apply refuse_hostOk | dsimp only [effect, answer, id] | split | with_reducible apply clearFault_hostOk | with_reducible apply HostOk.ite
    | with_reducible apply HostOk.foldl | with_reducible apply HostOk.mk_of | with_reducible rfl | intro _
    | dsimp only

theorem procLogMacroQuery_hostOk (h : Hdr) (mac : Nat) (s : State) : (procLogMacroQuery h mac s).work.Ok := by
  refine ⟨fun t ht => ?_, fun t ht => ?_⟩ <;> repeat' first
    | with_reducible assumption | with_reducible apply refuse_hostOk | dsimp only [effect, answer, id] | split | with_reducible apply HostOk.ite | with_reducible apply HostOk.foldl
    | with_reducible apply HostOk.mk_of | with_reducible rfl | intro _ | dsimp only

theorem procLogInject_hostOk (h : Hdr) (mac word bitA bitB : Nat) (s : State) : (procLogInject h mac word bitA bitB
    s).work.Ok := by
  refine ⟨fun t ht => ?_, fun t ht => ?_⟩ <;> repeat' first
    | with_reducible assumption | with_reducible apply refuse_hostOk | dsimp only [effect, answer, id] | split | with_reducible apply flipBit_hostOk | with_reducible apply HostOk.ite
    | with_reducible apply HostOk.foldl | with_reducible apply HostOk.mk_of | with_reducible rfl | intro _
    | dsimp only

theorem procLogClearCounters_hostOk (h : Hdr) (mask : Nat) (s : State) : (procLogClearCounters h mask s).work.Ok := by
  refine ⟨fun t ht => ?_, fun t ht => ?_⟩ <;> repeat' first
    | with_reducible assumption | with_reducible apply refuse_hostOk | dsimp only [effect, answer, id] | split | with_reducible apply clearCounters_hostOk
    | with_reducible apply HostOk.ite | with_reducible apply HostOk.foldl | with_reducible apply HostOk.mk_of
    | with_reducible rfl | intro _ | dsimp only

theorem execLogConfig_hostOk (h : Hdr) (p : LogP) (s : State) (hs : HostOk s) : ∃ σ, execLogConfig h p s = .next σ ∧
    HostOk σ := ⟨_, rfl, runProc_hostOk _ _ (procLogConfig_hostOk _ _ _) hs⟩

theorem execLogSpoolSeek_hostOk (h : Hdr) (seq : Nat) (s : State) (hs : HostOk s) : ∃ σ, execLogSpoolSeek h seq s =
    .next σ ∧ HostOk σ := ⟨_, rfl, runProc_hostOk _ _ (procLogSpoolSeek_hostOk _ _ _) hs⟩

theorem execLogRead_hostOk (h : Hdr) (first count addr len : Nat) (s : State) (hs : HostOk s) : ∃ σ, execLogRead h
    first count addr len s = .next σ ∧ HostOk σ := ⟨_, rfl, runProc_hostOk _ _ (procLogRead_hostOk _ _ _ _ _ _) hs⟩

theorem execLogFlush_hostOk (h : Hdr) (s : State) (hs : HostOk s) : ∃ σ, execLogFlush h s = .next σ ∧ HostOk σ := ⟨_, rfl, runProc_hostOk _ _ (procLogFlush_hostOk _ _) hs⟩

theorem execLogWrite_hostOk (h : Hdr) (severity arg : Nat) (s : State) (hs : HostOk s) : ∃ σ, execLogWrite h severity
    arg s = .next σ ∧ HostOk σ := ⟨_, rfl, runProc_hostOk _ _ (procLogWrite_hostOk _ _ _ _) hs⟩

theorem execLogFaultClear_hostOk (h : Hdr) (s : State) (hs : HostOk s) : ∃ σ, execLogFaultClear h s = .next σ ∧ HostOk
    σ := ⟨_, rfl, runProc_hostOk _ _ (procLogFaultClear_hostOk _ _) hs⟩

theorem execLogMacroQuery_hostOk (h : Hdr) (mac : Nat) (s : State) (hs : HostOk s) : ∃ σ, execLogMacroQuery h mac s =
    .next σ ∧ HostOk σ := ⟨_, rfl, runProc_hostOk _ _ (procLogMacroQuery_hostOk _ _ _) hs⟩

theorem execLogInject_hostOk (h : Hdr) (mac word bitA bitB : Nat) (s : State) (hs : HostOk s) : ∃ σ, execLogInject h
    mac word bitA bitB s = .next σ ∧ HostOk σ := ⟨_, rfl, runProc_hostOk _ _ (procLogInject_hostOk _ _ _ _ _ _) hs⟩

theorem execLogClearCounters_hostOk (h : Hdr) (mask : Nat) (s : State) (hs : HostOk s) : ∃ σ, execLogClearCounters h
    mask s = .next σ ∧ HostOk σ := ⟨_, rfl, runProc_hostOk _ _ (procLogClearCounters_hostOk _ _ _) hs⟩

end Sys2Proof.Machine
end

