-- ==== Sys2Proof/Laws/OkPowerCmd.lean ====
section
/-! SUPPORT. The operations of Machine/PowerCmd.lean keep the bounds of the host interface (`HostOk`). -/

namespace Sys2Proof.Machine

theorem startHandshake_hostOk (handle : Nat) (s : State) (hs : HostOk s) : HostOk (startHandshake handle s) :=
  hs.of_look (startHandshake_look _ (fun _ _ => rfl) handle s)

theorem releasePads_hostOk (mask : Nat) (s : State) (hs : HostOk s) : HostOk (releasePads mask s) :=
  hs.of_look (releasePads_look _ (fun _ _ => rfl) mask s)

theorem setPower_hostOk (p : PowerP) (s : State) (hs : HostOk s) : HostOk (setPower p s) :=
  hs.of_look (setPower_look _ (fun _ _ => rfl) p s)

theorem setRefs_hostOk (p : RefP) (s : State) (hs : HostOk s) : HostOk (setRefs p s) := by
  simp only [setRefs]
  repeat' first
    | with_reducible assumption | split | with_reducible apply ckSettle_hostOk | with_reducible apply HostOk.ite
    | with_reducible apply HostOk.foldl | with_reducible apply HostOk.mk_of | with_reducible rfl | intro _
    | dsimp only

theorem finishRefSwitch_hostOk (o : OpEntry) (hwFault : Bool) (s : State) (hs : HostOk s) : HostOk (finishRefSwitch o
    hwFault s) := by
  simp only [finishRefSwitch]
  repeat' first
    | with_reducible assumption | split | with_reducible apply finalCompletion_hostOk
    | with_reducible apply switchPll_hostOk | with_reducible apply HostOk.ite | with_reducible apply HostOk.foldl
    | with_reducible apply HostOk.mk_of | with_reducible rfl | intro _ | dsimp only

theorem procPowerDoze_hostOk (h : Hdr) (s : State) : (procPowerDoze h s).work.Ok := by
  refine ⟨fun k t ht => ?_, fun t ht => ?_⟩ <;> repeat' first
    | with_reducible assumption | with_reducible apply refuse_hostOk | dsimp only [effect, answer, id] | split | with_reducible apply startHandshake_hostOk
    | with_reducible apply HostOk.ite | with_reducible apply HostOk.foldl | with_reducible apply HostOk.mk_of
    | with_reducible rfl | intro _ | dsimp only

theorem procPowerWake_hostOk (h : Hdr) (s : State) : (procPowerWake h s).work.Ok := by
  refine ⟨fun k t ht => ?_, fun t ht => ?_⟩ <;> repeat' first
    | with_reducible assumption | with_reducible apply refuse_hostOk | dsimp only [effect, answer, id] | split | with_reducible apply requestWake_hostOk | with_reducible apply HostOk.ite
    | with_reducible apply HostOk.foldl | with_reducible apply HostOk.mk_of | with_reducible rfl | intro _
    | dsimp only

theorem procPowerPadRelease_hostOk (h : Hdr) (mask : Nat) (s : State) : (procPowerPadRelease h mask s).work.Ok := by
  refine ⟨fun t ht => ?_, fun t ht => ?_⟩ <;> repeat' first
    | with_reducible assumption | with_reducible apply refuse_hostOk | dsimp only [effect, answer, id] | split | with_reducible apply releasePads_hostOk | with_reducible apply HostOk.ite
    | with_reducible apply HostOk.foldl | with_reducible apply HostOk.mk_of | with_reducible rfl | intro _
    | dsimp only

theorem procPowerConfig_hostOk (h : Hdr) (p : PowerP) (s : State) : (procPowerConfig h p s).work.Ok := by
  refine ⟨fun t ht => ?_, fun t ht => ?_⟩ <;> repeat' first
    | with_reducible assumption | with_reducible apply refuse_hostOk | dsimp only [effect, answer, id] | split | with_reducible apply setPower_hostOk | with_reducible apply HostOk.ite
    | with_reducible apply HostOk.foldl | with_reducible apply HostOk.mk_of | with_reducible rfl | intro _
    | dsimp only

theorem procPowerQuery_hostOk (h : Hdr) (s : State) : (procPowerQuery h s).work.Ok := by
  refine ⟨fun t ht => ?_, fun t ht => ?_⟩ <;> repeat' first
    | with_reducible assumption | with_reducible apply refuse_hostOk | dsimp only [effect, answer, id] | split | with_reducible apply HostOk.ite | with_reducible apply HostOk.foldl
    | with_reducible apply HostOk.mk_of | with_reducible rfl | intro _ | dsimp only

theorem procPowerRefConfig_hostOk (h : Hdr) (p : RefP) (s : State) : (procPowerRefConfig h p s).work.Ok := by
  refine ⟨fun t ht => ?_, fun t ht => ?_⟩ <;> repeat' first
    | with_reducible assumption | with_reducible apply refuse_hostOk | dsimp only [effect, answer, id] | split | with_reducible apply setRefs_hostOk | with_reducible apply HostOk.ite
    | with_reducible apply HostOk.foldl | with_reducible apply HostOk.mk_of | with_reducible rfl | intro _
    | dsimp only

theorem procPowerRefSwitch_hostOk (h : Hdr) (s : State) : (procPowerRefSwitch h s).work.Ok := by
  refine ⟨fun k t ht => ?_, fun t ht => ?_⟩ <;> repeat' first
    | with_reducible assumption | with_reducible apply refuse_hostOk | dsimp only [effect, answer, id] | split | with_reducible apply HostOk.ite | with_reducible apply HostOk.foldl
    | with_reducible apply HostOk.mk_of | with_reducible rfl | intro _ | dsimp only

theorem procPowerClearCounters_hostOk (h : Hdr) (mask : Nat) (s : State) : (procPowerClearCounters h mask s).work.Ok
    := by
  refine ⟨fun t ht => ?_, fun t ht => ?_⟩ <;> repeat' first
    | with_reducible assumption | with_reducible apply refuse_hostOk | dsimp only [effect, answer, id] | split | with_reducible apply clearCounters_hostOk
    | with_reducible apply HostOk.ite | with_reducible apply HostOk.foldl | with_reducible apply HostOk.mk_of
    | with_reducible rfl | intro _ | dsimp only

theorem execPowerDoze_hostOk (h : Hdr) (s : State) (hs : HostOk s) : ∃ σ, execPowerDoze h s = .next σ ∧ HostOk σ := ⟨_, rfl, runProc_hostOk _ _ (procPowerDoze_hostOk _ _) hs⟩

theorem execPowerWake_hostOk (h : Hdr) (s : State) (hs : HostOk s) : ∃ σ, execPowerWake h s = .next σ ∧ HostOk σ := ⟨_, rfl, runProc_hostOk _ _ (procPowerWake_hostOk _ _) hs⟩

theorem execPowerPadRelease_hostOk (h : Hdr) (mask : Nat) (s : State) (hs : HostOk s) : ∃ σ, execPowerPadRelease h
    mask s = .next σ ∧ HostOk σ := ⟨_, rfl, runProc_hostOk _ _ (procPowerPadRelease_hostOk _ _ _) hs⟩

theorem execPowerConfig_hostOk (h : Hdr) (p : PowerP) (s : State) (hs : HostOk s) : ∃ σ, execPowerConfig h p s = .next
    σ ∧ HostOk σ := ⟨_, rfl, runProc_hostOk _ _ (procPowerConfig_hostOk _ _ _) hs⟩

theorem execPowerQuery_hostOk (h : Hdr) (s : State) (hs : HostOk s) : ∃ σ, execPowerQuery h s = .next σ ∧ HostOk σ := ⟨_, rfl, runProc_hostOk _ _ (procPowerQuery_hostOk _ _) hs⟩

theorem execPowerRefConfig_hostOk (h : Hdr) (p : RefP) (s : State) (hs : HostOk s) : ∃ σ, execPowerRefConfig h p s =
    .next σ ∧ HostOk σ := ⟨_, rfl, runProc_hostOk _ _ (procPowerRefConfig_hostOk _ _ _) hs⟩

theorem execPowerRefSwitch_hostOk (h : Hdr) (s : State) (hs : HostOk s) : ∃ σ, execPowerRefSwitch h s = .next σ ∧
    HostOk σ := ⟨_, rfl, runProc_hostOk _ _ (procPowerRefSwitch_hostOk _ _) hs⟩

theorem execPowerClearCounters_hostOk (h : Hdr) (mask : Nat) (s : State) (hs : HostOk s) : ∃ σ, execPowerClearCounters
    h mask s = .next σ ∧ HostOk σ := ⟨_, rfl, runProc_hostOk _ _ (procPowerClearCounters_hostOk _ _ _) hs⟩

end Sys2Proof.Machine
end

