-- ==== Sys2Proof/Laws/OkImage.lean ====
section
/-! SUPPORT. The operations of Machine/Image.lean keep the bounds of the host interface (`HostOk`). -/

namespace Sys2Proof.Machine

theorem putSetting_hostOk (x : Setting) (s : State) (hs : HostOk s) : HostOk (putSetting x s) := by
  simp only [putSetting]
  repeat' first
    | with_reducible assumption | split | with_reducible apply setPort_hostOk | with_reducible apply setExact_hostOk
    | with_reducible apply setHash_hostOk | with_reducible apply setVlan_hostOk
    | with_reducible apply setIntake_hostOk | with_reducible apply setPtMap_hostOk
    | with_reducible apply setPrp_hostOk | with_reducible apply setMacsec_hostOk | with_reducible apply setSa_hostOk
    | with_reducible apply updPort_hostOk | with_reducible apply setTime_hostOk
    | with_reducible apply setSources_hostOk | with_reducible apply setPtp_hostOk
    | with_reducible apply setPps_hostOk | with_reducible apply setLat_hostOk | with_reducible apply setCmp_hostOk
    | with_reducible apply setSi_hostOk | with_reducible apply placeStream_hostOk
    | with_reducible apply putVs_hostOk | with_reducible apply setErg_hostOk
    | with_reducible apply placeGroup_hostOk | with_reducible apply placeSession_hostOk
    | with_reducible apply setLevels_hostOk | with_reducible apply placeJob_hostOk
    | with_reducible apply bindJob_hostOk | with_reducible apply setTopo_hostOk
    | with_reducible apply placeModel_hostOk | with_reducible apply placeCut_hostOk
    | with_reducible apply setOsc_hostOk | with_reducible apply placeSig_hostOk
    | with_reducible apply placeOscGroup_hostOk | with_reducible apply setXtrig_hostOk
    | with_reducible apply updLine_hostOk | with_reducible apply setRule_hostOk | with_reducible apply setAq_hostOk
    | with_reducible apply setChan_hostOk | with_reducible apply placeRing_hostOk
    | with_reducible apply setMeter_hostOk | with_reducible apply setMChan_hostOk
    | with_reducible apply setCal_hostOk | with_reducible apply updElem_hostOk
    | with_reducible apply setPulseP_hostOk | with_reducible apply setBallast_hostOk
    | with_reducible apply setLog_hostOk | with_reducible apply setPower_hostOk
    | with_reducible apply setRefs_hostOk | with_reducible apply HostOk.ite | with_reducible apply HostOk.foldl
    | with_reducible apply HostOk.mk_of | with_reducible rfl | intro _ | dsimp only

theorem putKinds_hostOk (ks : List Nat) (img : Image) (s : State) (hs : HostOk s) : HostOk (putKinds ks img s) := by
  simp only [putKinds]
  repeat' first
    | with_reducible assumption | split | with_reducible apply putSetting_hostOk | with_reducible apply HostOk.ite
    | with_reducible apply HostOk.foldl | with_reducible apply HostOk.mk_of | with_reducible rfl | intro _
    | dsimp only

theorem blankConfig_hostOk (s : State) (hs : HostOk s) : HostOk (blankConfig s) :=
  hs.of_look (blankConfig_look _ (fun _ _ _ _ _ _ _ _ _ _ _ _ _ => rfl) s)

theorem imageState_hostOk (img : Image) (s : State) (hs : HostOk s) : HostOk (imageState img s) := by
  simp only [imageState]
  repeat' first
    | with_reducible assumption | split | with_reducible apply commitKeys_hostOk
    | with_reducible apply blankConfig_hostOk | with_reducible apply putKinds_hostOk
    | with_reducible apply HostOk.ite | with_reducible apply HostOk.foldl | with_reducible apply HostOk.mk_of
    | with_reducible rfl | intro _ | dsimp only

end Sys2Proof.Machine
end

