-- ==== Sys2Proof/Laws/OkCfgCmd.lean ====
section
/-! SUPPORT. The operations of Machine/CfgCmd.lean keep the bounds of the host interface (`HostOk`). -/

namespace Sys2Proof.Machine

theorem commitSa_hostOk (old : State) (s : State) (p : SaP) (hs : HostOk s) : HostOk (commitSa old s p) :=
  hs.of_look (commitSa_look _ (fun _ _ => rfl) old s p)

theorem commitGate_hostOk (g : Option GateP) (n : Nat) (s : State) (hs : HostOk s) : HostOk (commitGate g n s) :=
  hs.of_look (commitGate_look _ (fun _ _ => rfl) g n s)

theorem commitPorts_hostOk (img : Image) (s : State) (hs : HostOk s) : HostOk (commitPorts img s) := by
  simp only [commitPorts]
  repeat' first
    | with_reducible assumption | split | with_reducible apply updPort_hostOk | with_reducible apply setPort_hostOk
    | with_reducible apply putKinds_hostOk | with_reducible apply setPrp_hostOk
    | with_reducible apply commitSa_hostOk | with_reducible apply commitGate_hostOk
    | with_reducible apply HostOk.ite | with_reducible apply HostOk.foldl | with_reducible apply HostOk.mk_of
    | with_reducible rfl | intro _ | dsimp only

theorem commitCmp_hostOk (p : Option CmpP) (n : Nat) (s : State) (hs : HostOk s) : HostOk (commitCmp p n s) := by
  simp only [commitCmp]
  repeat' first
    | with_reducible assumption | split | with_reducible apply armCmp_hostOk | with_reducible apply disarmCmp_hostOk
    | with_reducible apply HostOk.ite | with_reducible apply HostOk.foldl | with_reducible apply HostOk.mk_of
    | with_reducible rfl | intro _ | dsimp only

theorem commitTime_hostOk (img : Image) (s : State) (hs : HostOk s) : HostOk (commitTime img s) := by
  simp only [commitTime]
  repeat' first
    | with_reducible assumption | split | with_reducible apply setTime_hostOk
    | with_reducible apply setSources_hostOk | with_reducible apply setPtp_hostOk
    | with_reducible apply setPps_hostOk | with_reducible apply setLat_hostOk
    | with_reducible apply commitCmp_hostOk | with_reducible apply HostOk.ite | with_reducible apply HostOk.foldl
    | with_reducible apply HostOk.mk_of | with_reducible rfl | intro _ | dsimp only

theorem commitStream_hostOk (s : State) (p : StreamP) (hs : HostOk s) : HostOk (commitStream s p) := by
  simp only [commitStream]
  repeat' first
    | with_reducible assumption | split | with_reducible apply installStream_hostOk
    | with_reducible apply updStream_hostOk | with_reducible apply noteState_hostOk
    | with_reducible apply placeStream_hostOk | with_reducible apply HostOk.ite | with_reducible apply HostOk.foldl
    | with_reducible apply HostOk.mk_of | with_reducible rfl | intro _ | dsimp only

theorem commitVs_hostOk (p : Option VsP) (v : Nat) (s : State) (hs : HostOk s) : HostOk (commitVs p v s) := by
  simp only [commitVs]
  repeat' first
    | with_reducible assumption | split | with_reducible apply updStream_hostOk
    | with_reducible apply placeVs_hostOk | with_reducible apply dropVs_hostOk | with_reducible apply HostOk.ite
    | with_reducible apply HostOk.foldl | with_reducible apply HostOk.mk_of | with_reducible rfl | intro _
    | dsimp only

theorem commitStreams_hostOk (img : Image) (s : State) (hs : HostOk s) : HostOk (commitStreams img s) := by
  simp only [commitStreams]
  repeat' first
    | with_reducible assumption | split | with_reducible apply setSi_hostOk
    | with_reducible apply commitStream_hostOk | with_reducible apply removeStream_hostOk
    | with_reducible apply commitVs_hostOk | with_reducible apply HostOk.ite | with_reducible apply HostOk.foldl
    | with_reducible apply HostOk.mk_of | with_reducible rfl | intro _ | dsimp only

theorem replaceGroup_hostOk (p : GroupP) (members : List Nat) (s : State) (hs : HostOk s) : HostOk (replaceGroup p
    members s) := by
  simp only [replaceGroup]
  repeat' first
    | with_reducible assumption | split | with_reducible apply placeGroup_hostOk
    | with_reducible apply releaseAll_hostOk | with_reducible apply setGroup_hostOk
    | with_reducible apply HostOk.ite | with_reducible apply HostOk.foldl | with_reducible apply HostOk.mk_of
    | with_reducible rfl | intro _ | dsimp only

theorem commitGroup_hostOk (d : Option (GroupP × List Nat)) (gid : Nat) (s : State) (hs : HostOk s) : HostOk
    (commitGroup d gid s) := by
  simp only [commitGroup]
  repeat' first
    | with_reducible assumption | split | with_reducible apply setGroup_hostOk
    | with_reducible apply replaceGroup_hostOk | with_reducible apply placeGroup_hostOk
    | with_reducible apply endGroup_hostOk | with_reducible apply releaseAll_hostOk
    | with_reducible apply HostOk.ite | with_reducible apply HostOk.foldl | with_reducible apply HostOk.mk_of
    | with_reducible rfl | intro _ | dsimp only

theorem commitSession_hostOk (old : State) (s : State) (e : SessionP × Bool) (hs : HostOk s) : HostOk (commitSession
    old s e) :=
  hs.of_look (commitSession_look _ (fun _ _ => rfl) old s e)

theorem commitErg_hostOk (img : Image) (s : State) (hs : HostOk s) : HostOk (commitErg img s) := by
  simp only [commitErg]
  repeat' first
    | with_reducible assumption | split | with_reducible apply setErg_hostOk
    | with_reducible apply commitGroup_hostOk | with_reducible apply commitSession_hostOk
    | with_reducible apply HostOk.ite | with_reducible apply HostOk.foldl | with_reducible apply HostOk.mk_of
    | with_reducible rfl | intro _ | dsimp only

theorem commitJob_hostOk (old : State) (binds : List (Nat × Nat)) (s : State) (p : JobP) (hs : HostOk s) : HostOk
    (commitJob old binds s p) :=
  hs.of_look (commitJob_look _ (fun _ _ => rfl) old binds s p)

theorem commitJobs_hostOk (img : Image) (s : State) (hs : HostOk s) : HostOk (commitJobs img s) :=
  hs.of_look (commitJobs_look _ (fun _ _ => rfl) img s)

theorem dropRefacs_hostOk (s : State) (hs : HostOk s) : HostOk (dropRefacs s) := by
  simp only [dropRefacs]
  repeat' first
    | with_reducible assumption | split | with_reducible apply dropItem_hostOk
    | with_reducible apply stopItem_hostOk | with_reducible apply failRefac_hostOk | with_reducible apply HostOk.ite
    | with_reducible apply HostOk.foldl | with_reducible apply HostOk.mk_of | with_reducible rfl | intro _
    | dsimp only

theorem dropModel_hostOk (s : State) (hs : HostOk s) : HostOk (dropModel s) :=
  hs.of_look (dropModel_look _ (fun _ _ => rfl) s)

theorem commitTopo_hostOk (img : Image) (s : State) (hs : HostOk s) : HostOk (commitTopo img s) := by
  simp only [commitTopo]
  repeat' first
    | with_reducible assumption | split | with_reducible apply dropRefacs_hostOk
    | with_reducible apply placeCut_hostOk | with_reducible apply placeModel_hostOk
    | with_reducible apply dropModel_hostOk | with_reducible apply requestRefac_hostOk
    | with_reducible apply HostOk.ite | with_reducible apply HostOk.foldl | with_reducible apply HostOk.mk_of
    | with_reducible rfl | intro _ | dsimp only

theorem disarmSlow_hostOk (s : State) (hs : HostOk s) : HostOk (disarmSlow s) := by
  simp only [disarmSlow]
  repeat' first
    | with_reducible assumption | split | with_reducible apply disarmCmp_hostOk | with_reducible apply HostOk.ite
    | with_reducible apply HostOk.foldl | with_reducible apply HostOk.mk_of | with_reducible rfl | intro _
    | dsimp only

theorem commitOscP_hostOk (p : Option OscP) (s : State) (hs : HostOk s) : HostOk (commitOscP p s) := by
  simp only [commitOscP]
  repeat' first
    | with_reducible assumption | split | with_reducible apply applyOsc_hostOk | with_reducible apply setOsc_hostOk
    | with_reducible apply disarmSlow_hostOk | with_reducible apply HostOk.ite | with_reducible apply HostOk.foldl
    | with_reducible apply HostOk.mk_of | with_reducible rfl | intro _ | dsimp only

theorem commitSig_hostOk (s : State) (p : SigP) (hs : HostOk s) : HostOk (commitSig s p) :=
  hs.of_look (commitSig_look _ (fun _ _ => rfl) s p)

theorem commitOsc_hostOk (img : Image) (s : State) (hs : HostOk s) : HostOk (commitOsc img s) := by
  simp only [commitOsc]
  repeat' first
    | with_reducible assumption | split | with_reducible apply commitOscP_hostOk
    | with_reducible apply commitSig_hostOk | with_reducible apply dropSig_hostOk
    | with_reducible apply placeOscGroup_hostOk | with_reducible apply HostOk.ite
    | with_reducible apply HostOk.foldl | with_reducible apply HostOk.mk_of | with_reducible rfl | intro _
    | dsimp only

theorem commitRule_hostOk (d : Option (RuleP × Bool)) (n : Nat) (s : State) (hs : HostOk s) : HostOk (commitRule d n
    s) := by
  simp only [commitRule]
  repeat' first
    | with_reducible assumption | split | with_reducible apply setRule_hostOk
    | with_reducible apply enableRule_hostOk | with_reducible apply adminClear_hostOk
    | with_reducible apply dropRule_hostOk | with_reducible apply HostOk.ite | with_reducible apply HostOk.foldl
    | with_reducible apply HostOk.mk_of | with_reducible rfl | intro _ | dsimp only

theorem commitAlarms_hostOk (img : Image) (s : State) (hs : HostOk s) : HostOk (commitAlarms img s) := by
  simp only [commitAlarms]
  repeat' first
    | with_reducible assumption | split | with_reducible apply setXtrig_hostOk
    | with_reducible apply commitRule_hostOk | with_reducible apply driveLines_hostOk
    | with_reducible apply setLine_hostOk | with_reducible apply HostOk.ite | with_reducible apply HostOk.foldl
    | with_reducible apply HostOk.mk_of | with_reducible rfl | intro _ | dsimp only

theorem commitRing_hostOk (s : State) (d : AqRingP × Bool) (hs : HostOk s) : HostOk (commitRing s d) :=
  hs.of_look (commitRing_look _ (fun _ _ => rfl) s d)

theorem commitChan_hostOk (d : Option (ChanP × Bool)) (rs : List (AqRingP × Bool)) (c : Nat) (s : State) (hs : HostOk
    s) : HostOk (commitChan d rs c s) := by
  simp only [commitChan]
  repeat' first
    | with_reducible assumption | split | with_reducible apply dropChan_hostOk
    | with_reducible apply enableChan_hostOk | with_reducible apply setChan_hostOk
    | with_reducible apply placeChan_hostOk | with_reducible apply commitRing_hostOk
    | with_reducible apply HostOk.ite | with_reducible apply HostOk.foldl | with_reducible apply HostOk.mk_of
    | with_reducible rfl | intro _ | dsimp only

theorem commitAcq_hostOk (img : Image) (s : State) (hs : HostOk s) : HostOk (commitAcq img s) := by
  simp only [commitAcq]
  repeat' first
    | with_reducible assumption | split | with_reducible apply setAq_hostOk | with_reducible apply commitChan_hostOk
    | with_reducible apply HostOk.ite | with_reducible apply HostOk.foldl | with_reducible apply HostOk.mk_of
    | with_reducible rfl | intro _ | dsimp only

theorem commitElem_hostOk (d : Option (ElemP × Bool)) (e : Nat) (s : State) (hs : HostOk s) : HostOk (commitElem d e
    s) := by
  simp only [commitElem]
  repeat' first
    | with_reducible assumption | split | with_reducible apply enableElem_hostOk
    | with_reducible apply placeElem_hostOk | with_reducible apply closeBlock_hostOk
    | with_reducible apply updElem_hostOk | with_reducible apply HostOk.ite | with_reducible apply HostOk.foldl
    | with_reducible apply HostOk.mk_of | with_reducible rfl | intro _ | dsimp only

theorem commitMeters_hostOk (img : Image) (s : State) (hs : HostOk s) : HostOk (commitMeters img s) := by
  simp only [commitMeters]
  repeat' first
    | with_reducible assumption | split | with_reducible apply setMeter_hostOk
    | with_reducible apply setMChan_hostOk | with_reducible apply setCal_hostOk
    | with_reducible apply commitElem_hostOk | with_reducible apply setPulseP_hostOk
    | with_reducible apply setBallast_hostOk | with_reducible apply HostOk.ite | with_reducible apply HostOk.foldl
    | with_reducible apply HostOk.mk_of | with_reducible rfl | intro _ | dsimp only

theorem commitRest_hostOk (img : Image) (s : State) (hs : HostOk s) : HostOk (commitRest img s) := by
  simp only [commitRest]
  repeat' first
    | with_reducible assumption | split | with_reducible apply setLog_hostOk | with_reducible apply setPower_hostOk
    | with_reducible apply setRefs_hostOk | with_reducible apply HostOk.ite | with_reducible apply HostOk.foldl
    | with_reducible apply HostOk.mk_of | with_reducible rfl | intro _ | dsimp only

theorem commitImage_hostOk (img : Image) (s : State) (hs : HostOk s) : HostOk (commitImage img s) := by
  simp only [commitImage]
  repeat' first
    | with_reducible assumption | split | with_reducible apply commitKeys_hostOk
    | with_reducible apply commitStreams_hostOk | with_reducible apply commitTime_hostOk
    | with_reducible apply commitPorts_hostOk | with_reducible apply commitOsc_hostOk
    | with_reducible apply commitTopo_hostOk | with_reducible apply commitJobs_hostOk
    | with_reducible apply commitErg_hostOk | with_reducible apply commitRest_hostOk
    | with_reducible apply commitMeters_hostOk | with_reducible apply commitAcq_hostOk
    | with_reducible apply commitAlarms_hostOk | with_reducible apply capacityFell_hostOk
    | with_reducible apply HostOk.ite | with_reducible apply HostOk.foldl | with_reducible apply HostOk.mk_of
    | with_reducible rfl | intro _ | dsimp only

theorem finishCfgLoad_hostOk (o : OpEntry) (source : Nat) (given : Image) (fin : Finish) (s : State) (hs : HostOk s) :
    HostOk (finishCfgLoad o source given fin s) := by
  simp only [finishCfgLoad]
  repeat' first
    | with_reducible assumption | split | with_reducible apply countRevoked_hostOk
    | with_reducible apply finalCompletion_hostOk | with_reducible apply HostOk.ite
    | with_reducible apply HostOk.foldl | with_reducible apply HostOk.mk_of | with_reducible rfl | intro _
    | dsimp only

theorem finishCfgCommit_hostOk (o : OpEntry) (hwFault : Bool) (s : State) (hs : HostOk s) : HostOk (finishCfgCommit o
    hwFault s) := by
  simp only [finishCfgCommit]
  repeat' first
    | with_reducible assumption | split | with_reducible apply finalCompletion_hostOk
    | with_reducible apply commitImage_hostOk | with_reducible apply enterCommission_hostOk
    | with_reducible apply HostOk.ite | with_reducible apply HostOk.foldl | with_reducible apply HostOk.mk_of
    | with_reducible rfl | intro _ | dsimp only

theorem reportState_hostOk (which : Nat) (s : State) (hs : HostOk s) : HostOk (reportState which s) := by
  unfold reportState
  split
  · exact hs
  · cases s.cfg.staged with
    | none => exact blankConfig_hostOk _ hs
    | some img => exact imageState_hostOk _ _ hs

theorem finishCfgReport_hostOk (o : OpEntry) (which addr : Nat) (s : State) (hs : HostOk s) : HostOk (finishCfgReport
    o which addr s) := by
  simp only [finishCfgReport]
  repeat' first
    | with_reducible assumption | split | with_reducible apply finalCompletion_hostOk
    | with_reducible apply hostOut_hostOk | with_reducible apply reportState_hostOk
    | with_reducible apply HostOk.ite | with_reducible apply HostOk.foldl | with_reducible apply HostOk.mk_of
    | with_reducible rfl | intro _ | dsimp only

theorem finishCfgStore_hostOk (o : OpEntry) (hwFault : Bool) (s : State) (hs : HostOk s) : HostOk (finishCfgStore o
    hwFault s) := by
  simp only [finishCfgStore]
  repeat' first
    | with_reducible assumption | split | with_reducible apply finalCompletion_hostOk
    | with_reducible apply HostOk.ite | with_reducible apply HostOk.foldl | with_reducible apply HostOk.mk_of
    | with_reducible rfl | intro _ | dsimp only

theorem procCfgLoad_hostOk (h : Hdr) (source addr len : Nat) (_img : Image) (s : State) : (procCfgLoad h source addr
    len _img s).work.Ok := by
  exact Work.later_ok _

theorem procCfgCommit_hostOk (h : Hdr) (s : State) : (procCfgCommit h s).work.Ok := by
  refine ⟨fun k t ht => ?_, fun t ht => ?_⟩ <;> repeat' first
    | with_reducible assumption | with_reducible apply refuse_hostOk | dsimp only [effect, answer, id] | split | with_reducible apply HostOk.ite | with_reducible apply HostOk.foldl
    | with_reducible apply HostOk.mk_of | with_reducible rfl | intro _ | dsimp only

theorem procCfgDiscard_hostOk (h : Hdr) (s : State) : (procCfgDiscard h s).work.Ok := by
  refine ⟨fun t ht => ?_, fun t ht => ?_⟩ <;> repeat' first
    | with_reducible assumption | with_reducible apply refuse_hostOk | dsimp only [effect, answer, id] | split | with_reducible apply HostOk.ite | with_reducible apply HostOk.foldl
    | with_reducible apply HostOk.mk_of | with_reducible rfl | intro _ | dsimp only

theorem procCfgReport_hostOk (h : Hdr) (which addr len : Nat) (s : State) : (procCfgReport h which addr len s).work.Ok
    := by
  exact Work.later_ok _

theorem procCfgQuery_hostOk (h : Hdr) (which : Nat) (s : State) : (procCfgQuery h which s).work.Ok := by
  refine ⟨fun t ht => ?_, fun t ht => ?_⟩ <;> repeat' first
    | with_reducible assumption | with_reducible apply refuse_hostOk | dsimp only [effect, answer, id] | split | with_reducible apply HostOk.ite | with_reducible apply HostOk.foldl
    | with_reducible apply HostOk.mk_of | with_reducible rfl | intro _ | dsimp only

theorem procCfgStore_hostOk (h : Hdr) (s : State) : (procCfgStore h s).work.Ok := by
  refine ⟨fun k t ht => ?_, fun t ht => ?_⟩ <;> repeat' first
    | with_reducible assumption | with_reducible apply refuse_hostOk | dsimp only [effect, answer, id] | split | with_reducible apply HostOk.ite | with_reducible apply HostOk.foldl
    | with_reducible apply HostOk.mk_of | with_reducible rfl | intro _ | dsimp only

theorem execCfgLoad_hostOk (h : Hdr) (source addr len : Nat) (img : Image) (s : State) (hs : HostOk s) : ∃ σ,
    execCfgLoad h source addr len img s = .next σ ∧ HostOk σ := ⟨_, rfl, runProc_hostOk _ _ (procCfgLoad_hostOk _ _ _ _ _ _) hs⟩

theorem execCfgCommit_hostOk (h : Hdr) (s : State) (hs : HostOk s) : ∃ σ, execCfgCommit h s = .next σ ∧ HostOk σ := ⟨_, rfl, runProc_hostOk _ _ (procCfgCommit_hostOk _ _) hs⟩

theorem execCfgDiscard_hostOk (h : Hdr) (s : State) (hs : HostOk s) : ∃ σ, execCfgDiscard h s = .next σ ∧ HostOk σ := ⟨_, rfl, runProc_hostOk _ _ (procCfgDiscard_hostOk _ _) hs⟩

theorem execCfgReport_hostOk (h : Hdr) (which addr len : Nat) (s : State) (hs : HostOk s) : ∃ σ, execCfgReport h which
    addr len s = .next σ ∧ HostOk σ := ⟨_, rfl, runProc_hostOk _ _ (procCfgReport_hostOk _ _ _ _ _) hs⟩

theorem execCfgQuery_hostOk (h : Hdr) (which : Nat) (s : State) (hs : HostOk s) : ∃ σ, execCfgQuery h which s = .next
    σ ∧ HostOk σ := ⟨_, rfl, runProc_hostOk _ _ (procCfgQuery_hostOk _ _ _) hs⟩

theorem execCfgStore_hostOk (h : Hdr) (s : State) (hs : HostOk s) : ∃ σ, execCfgStore h s = .next σ ∧ HostOk σ := ⟨_, rfl, runProc_hostOk _ _ (procCfgStore_hostOk _ _) hs⟩

end Sys2Proof.Machine
end

