-- ==== Sys2Proof/Laws/OkBoot.lean ====
section
/-! SUPPORT. The operations of Machine/Boot.lean keep the bounds of the host interface (`HostOk`). -/

namespace Sys2Proof.Machine

theorem bootClocks_hostOk (s : State) (hs : HostOk s) : HostOk (bootClocks s) :=
  hs.of_look (bootClocks_look _ (fun _ _ => rfl) s)

theorem loseRoot_hostOk (s : State) (hs : HostOk s) : HostOk (loseRoot s) :=
  hs.of_look (loseRoot_look _ (fun _ _ => rfl) s)

theorem bootVault_hostOk (rootOk ownerOk : Bool) (s : State) (hs : HostOk s) : HostOk (bootVault rootOk ownerOk s) :=
    by
  simp only [bootVault]
  repeat' first
    | with_reducible assumption | split | with_reducible apply loseRoot_hostOk
    | with_reducible apply drawRandom_hostOk | with_reducible apply HostOk.ite | with_reducible apply HostOk.foldl
    | with_reducible apply HostOk.mk_of | with_reducible rfl | intro _ | dsimp only

theorem bootMacros_hostOk (bad : List Nat) (s : State) (hs : HostOk s) : HostOk (bootMacros bad s) := by
  simp only [bootMacros]
  repeat' first
    | with_reducible assumption | split | with_reducible apply updMacro_hostOk | with_reducible apply ecNote_hostOk
    | with_reducible apply HostOk.ite | with_reducible apply HostOk.foldl | with_reducible apply HostOk.mk_of
    | with_reducible rfl | intro _ | dsimp only

theorem bootEngines_hostOk (passed bad : List Nat) (s : State) (hs : HostOk s) : HostOk (bootEngines passed bad s) :=
    by
  simp only [bootEngines]
  repeat' first
    | with_reducible assumption | split | with_reducible apply assignEngines_hostOk
    | with_reducible apply countN_hostOk | with_reducible apply HostOk.ite | with_reducible apply HostOk.foldl
    | with_reducible apply HostOk.mk_of | with_reducible rfl | intro _ | dsimp only

theorem bootCairn_hostOk (s : State) (hs : HostOk s) : HostOk (bootCairn s) := by
  simp only [bootCairn]
  repeat' first
    | with_reducible assumption | split | with_reducible apply setY_hostOk | with_reducible apply updTether_hostOk
    | with_reducible apply restoreEnergy_hostOk | with_reducible apply cairnRead_hostOk
    | with_reducible apply note_hostOk | with_reducible apply HostOk.ite | with_reducible apply HostOk.foldl
    | with_reducible apply HostOk.mk_of | with_reducible rfl | intro _ | dsimp only

theorem oweOutages_hostOk (s : State) (hs : HostOk s) : HostOk (oweOutages s) :=
  hs.of_look (oweOutages_look _ (fun _ _ => rfl) s)

theorem recordImage_hostOk (st : Option Nat) (s : State) (hs : HostOk s) : HostOk (recordImage st s) := by
  simp only [recordImage]
  repeat' first
    | with_reducible assumption | split | with_reducible apply report_hostOk | with_reducible apply HostOk.ite
    | with_reducible apply HostOk.foldl | with_reducible apply HostOk.mk_of | with_reducible rfl | intro _
    | dsimp only

theorem bootInto_hostOk (img : Image) (s : State) (hs : HostOk s) : HostOk (bootInto img s) := by
  simp only [bootInto]
  repeat' first
    | with_reducible assumption | split | with_reducible apply resumeEnergy_hostOk
    | with_reducible apply ergResume_hostOk | with_reducible apply setMode_hostOk
    | with_reducible apply commitImage_hostOk | with_reducible apply enterService_hostOk
    | with_reducible apply HostOk.ite | with_reducible apply HostOk.foldl | with_reducible apply HostOk.mk_of
    | with_reducible rfl | intro _ | dsimp only

theorem bootExit_hostOk (img : Option Image) (failed : Bool) (s : State) (hs : HostOk s) : HostOk (bootExit img failed
    s) := by
  simp only [bootExit]
  repeat' first
    | with_reducible assumption | split | with_reducible apply recordImage_hostOk
    | with_reducible apply bootInto_hostOk | with_reducible apply setMode_hostOk | with_reducible apply HostOk.ite
    | with_reducible apply HostOk.foldl | with_reducible apply HostOk.mk_of | with_reducible rfl | intro _
    | dsimp only

theorem bootNotices_hostOk (s : State) (hs : HostOk s) : HostOk (bootNotices s) := by
  simp only [bootNotices]
  repeat' first
    | with_reducible assumption | split | with_reducible apply note_hostOk | with_reducible apply HostOk.ite
    | with_reducible apply HostOk.foldl | with_reducible apply HostOk.mk_of | with_reducible rfl | intro _
    | dsimp only

theorem bootOpen_hostOk (s : State) (hs : HostOk s) : HostOk (bootOpen s) :=
  hs.of_look (bootOpen_look _ (fun _ _ _ => rfl) s)

theorem boot_hostOk (enginesPass badMacros : List Nat) (rootOk ownerOk : Bool) (img : Option Image) (s : State) (hs :
    HostOk s) : HostOk (boot enginesPass badMacros rootOk ownerOk img s) := by
  simp only [boot]
  repeat' first
    | with_reducible assumption | split | with_reducible apply bootMacros_hostOk
    | with_reducible apply bootVault_hostOk | with_reducible apply bootClocks_hostOk
    | with_reducible apply bootCairn_hostOk | with_reducible apply bootEngines_hostOk
    | with_reducible apply bootExit_hostOk | with_reducible apply bootOpen_hostOk
    | with_reducible apply oweOutages_hostOk | with_reducible apply reportUnsaved_hostOk
    | with_reducible apply seekSpool_hostOk | with_reducible apply bootNotices_hostOk
    | with_reducible apply freeze_hostOk | with_reducible apply HostOk.ite | with_reducible apply HostOk.foldl
    | with_reducible apply HostOk.mk_of | with_reducible rfl | intro _ | dsimp only

theorem execBoot_hostOk (enginesPass badMacros : List Nat) (rootOk ownerOk : Bool) (img : Option Image) (s : State)
    (hs : HostOk s) : ∃ σ, execBoot enginesPass badMacros rootOk ownerOk img s = .next σ ∧ HostOk σ := by
  refine ⟨_, rfl, ?_⟩; repeat' first
    | with_reducible assumption | split | with_reducible apply boot_hostOk | with_reducible apply HostOk.ite
    | with_reducible apply HostOk.foldl | with_reducible apply HostOk.mk_of | with_reducible rfl | intro _
    | dsimp only

end Sys2Proof.Machine
end

