-- ==== Sys2Proof/Laws/OkJtag.lean ====
section
/-! SUPPORT. The operations of Machine/Jtag.lean keep the bounds of the host interface (`HostOk`). -/

namespace Sys2Proof.Machine

theorem jtagSelect_hostOk (ir padMode : Nat) (s : State) (hs : HostOk s) : HostOk (jtagSelect ir padMode s) :=
  hs.of_look (jtagSelect_look _ (fun _ _ => rfl) ir padMode s)

theorem jtagOut_hostOk (v : Nat) (s : State) (hs : HostOk s) : HostOk (jtagOut v s) :=
  hs.of_look (jtagOut_look _ (fun _ _ => rfl) v s)

theorem jtagCapture_hostOk (s : State) (hs : HostOk s) : HostOk (jtagCapture s) :=
  hs.of_look (jtagCapture_look _ (fun _ _ _ => rfl) s)

theorem frzOut_hostOk (v : Nat) (s : State) (hs : HostOk s) : HostOk (frzOut v s) :=
  hs.of_look (frzOut_look _ (fun _ _ => rfl) v s)

theorem execJtagExtest_hostOk (pads : Nat) (s : State) (hs : HostOk s) : ∃ σ, execJtagExtest pads s = .next σ ∧ HostOk
    σ := by
  obtain ⟨σ, h1, h2⟩ := execJtagExtest_look (fun s => (s.counters, s.hi)) (fun _ _ _ _ => rfl) pads s
  exact ⟨σ, h1, hs.of_look h2⟩

theorem execJtagIdcode_hostOk (s : State) (hs : HostOk s) : ∃ σ, execJtagIdcode s = .next σ ∧ HostOk σ := by
  obtain ⟨σ, h1, h2⟩ := execJtagIdcode_look (fun s => (s.counters, s.hi)) (fun _ _ _ => rfl) s
  exact ⟨σ, h1, hs.of_look h2⟩

theorem execJtagSamplePreload_hostOk (value : Nat) (s : State) (hs : HostOk s) : ∃ σ, execJtagSamplePreload value s =
    .next σ ∧ HostOk σ := by
  obtain ⟨σ, h1, h2⟩ := execJtagSamplePreload_look (fun s => (s.counters, s.hi)) (fun _ _ _ _ => rfl) value s
  exact ⟨σ, h1, hs.of_look h2⟩

theorem execJtagClamp_hostOk (s : State) (hs : HostOk s) : ∃ σ, execJtagClamp s = .next σ ∧ HostOk σ := by
  obtain ⟨σ, h1, h2⟩ := execJtagClamp_look (fun s => (s.counters, s.hi)) (fun _ _ => rfl) s
  exact ⟨σ, h1, hs.of_look h2⟩

theorem execJtagHighz_hostOk (s : State) (hs : HostOk s) : ∃ σ, execJtagHighz s = .next σ ∧ HostOk σ := by
  obtain ⟨σ, h1, h2⟩ := execJtagHighz_look (fun s => (s.counters, s.hi)) (fun _ _ => rfl) s
  exact ⟨σ, h1, hs.of_look h2⟩

theorem execJtagFrzScan_hostOk (chain : Nat) (s : State) (hs : HostOk s) : ∃ σ, execJtagFrzScan chain s = .next σ ∧
    HostOk σ := by
  obtain ⟨σ, h1, h2⟩ := execJtagFrzScan_look (fun s => (s.counters, s.hi)) (fun _ _ _ => rfl) chain s
  exact ⟨σ, h1, hs.of_look h2⟩

theorem execJtagFrzMem_hostOk (mac word : Nat) (s : State) (hs : HostOk s) : ∃ σ, execJtagFrzMem mac word s = .next σ
    ∧ HostOk σ := by
  obtain ⟨σ, h1, h2⟩ := execJtagFrzMem_look (fun s => (s.counters, s.hi)) (fun _ _ _ => rfl) mac word s
  exact ⟨σ, h1, hs.of_look h2⟩

theorem execJtagFrzReg_hostOk (offset : Nat) (s : State) (hs : HostOk s) : ∃ σ, execJtagFrzReg offset s = .next σ ∧
    HostOk σ := by
  obtain ⟨σ, h1, h2⟩ := execJtagFrzReg_look (fun s => (s.counters, s.hi)) (fun _ _ _ _ => rfl) offset s
  exact ⟨σ, h1, hs.of_look h2⟩

theorem execJtagDebug_hostOk (code : Nat) (s : State) (hs : HostOk s) : ∃ σ, execJtagDebug code s = .next σ ∧ HostOk σ
    := by
  obtain ⟨σ, h1, h2⟩ := execJtagDebug_look (fun s => (s.counters, s.hi)) (fun _ _ _ _ => rfl) code s
  exact ⟨σ, h1, hs.of_look h2⟩

theorem execJtagBypass_hostOk (tdi : Bool) (s : State) (hs : HostOk s) : ∃ σ, execJtagBypass tdi s = .next σ ∧ HostOk
    σ := by
  obtain ⟨σ, h1, h2⟩ := execJtagBypass_look (fun s => (s.counters, s.hi)) (fun _ _ _ => rfl) tdi s
  exact ⟨σ, h1, hs.of_look h2⟩

end Sys2Proof.Machine
end

