-- ==== Sys2Proof/Laws/OkHost.lean ====
section
/-! SUPPORT. The operations of Machine/Host.lean keep the bounds of the host interface (`HostOk`). -/

namespace Sys2Proof.Machine

theorem stopRing_hostOk (n : Nat) (s : State) (hs : HostOk s) : HostOk (stopRing n s) := by
  simp only [stopRing]
  repeat' first
    | with_reducible assumption | split | with_reducible apply ringErr_hostOk | with_reducible apply setRing_hostOk
    | with_reducible apply HostOk.ite | with_reducible apply HostOk.foldl | with_reducible apply HostOk.mk_of
    | with_reducible rfl | intro _ | dsimp only

theorem regWrite_hostOk (off : Nat) (f : State → State) (s : State) (hs : HostOk s) (hf : ∀ t, HostOk t → HostOk (f
    t)) : HostOk (regWrite off f s) := by
  simp only [regWrite]
  repeat' first
    | with_reducible assumption | split | with_reducible apply hf | with_reducible apply setOffAccess_hostOk
    | with_reducible apply HostOk.ite | with_reducible apply HostOk.foldl | with_reducible apply HostOk.mk_of
    | with_reducible rfl | intro _ | dsimp only

theorem sqDoorbell_hostOk (n tail : Nat) (s : State) (hs : HostOk s) : HostOk (sqDoorbell n tail s) := by
  simp only [sqDoorbell]
  repeat' first
    | with_reducible assumption | split | with_reducible apply stopRing_hostOk | with_reducible apply setRing_hostOk
    | with_reducible apply HostOk.ite | with_reducible apply HostOk.foldl | with_reducible apply HostOk.mk_of
    | with_reducible rfl | intro _ | dsimp only

theorem cqDoorbell_hostOk (n head : Nat) (s : State) (hs : HostOk s) : HostOk (cqDoorbell n head s) := by
  simp only [cqDoorbell]
  repeat' first
    | with_reducible assumption | split | with_reducible apply stopRing_hostOk
    | with_reducible apply drainRing_hostOk | with_reducible apply setRing_hostOk | with_reducible apply HostOk.ite
    | with_reducible apply HostOk.foldl | with_reducible apply HostOk.mk_of | with_reducible rfl | intro _
    | dsimp only

theorem sqConfig_hostOk (n v : Nat) (s : State) (hs : HostOk s) : HostOk (sqConfig n v s) := by
  simp only [sqConfig]
  repeat' first
    | with_reducible assumption | split | with_reducible apply setRing_hostOk | with_reducible apply ringErr_hostOk
    | with_reducible apply HostOk.ite | with_reducible apply HostOk.foldl | with_reducible apply HostOk.mk_of
    | with_reducible rfl | intro _ | dsimp only

theorem cqConfig_hostOk (n v : Nat) (s : State) (hs : HostOk s) : HostOk (cqConfig n v s) := by
  simp only [cqConfig]
  repeat' first
    | with_reducible assumption | split | with_reducible apply setRing_hostOk
    | with_reducible apply drainRing_hostOk | with_reducible apply HostOk.ite | with_reducible apply HostOk.foldl
    | with_reducible apply HostOk.mk_of | with_reducible rfl | intro _ | dsimp only

theorem ringBase_hostOk (n o value : Nat) (s : State) (hs : HostOk s) : HostOk (ringBase n o value s) := by
  simp only [ringBase]
  repeat' first
    | with_reducible assumption | split | with_reducible apply setRing_hostOk | with_reducible apply HostOk.ite
    | with_reducible apply HostOk.foldl | with_reducible apply HostOk.mk_of | with_reducible rfl | intro _
    | dsimp only

theorem Nq.pop_ok {n : Nq} (h : NqOk n) (now : Nat) : NqOk (n.pop now).2 := by
  obtain ⟨h1, h2, h3, h4, h5, h6⟩ := h
  unfold Nq.pop
  split
  · exact ⟨h1, h2, h3, h4, h5, h6⟩
  · rename_i hr
    refine Nq.settle_ok ⟨by simp only; omega, ?_, h3, h4, h5, h6⟩
    simp only
    have : n.r ≠ n.w := by simpa using hr
    omega

theorem popRead_hostOk (q bytes : Nat) (aligned : Bool) (s : State) (hs : HostOk s) : HostOk (popRead q bytes aligned s) := by
  unfold popRead
  split
  · exact emit_hostOk _ _ (setNq_hostOk _ _ _ hs (Nq.pop_ok (getNq_ok hs q) s.tm.frc))
  · exact emit_hostOk _ _ (raiseErr_hostOk _ _ _ hs rfl rfl)

theorem nqConfig_hostOk (q v : Nat) (s : State) (hs : HostOk s) : HostOk (nqConfig q v s) := by
  have h : ∀ n, NqOk n → HostOk (if n.threshFires then fireVector (16 + q) (setNq q n.settle s) else setNq q n.settle s) :=
    fun n hn => HostOk.ite (fireVector_hostOk _ _ (setNq_hostOk _ _ _ hs (Nq.settle_ok hn))) (setNq_hostOk _ _ _ hs (Nq.settle_ok hn))
  exact h _ (getNq_ok hs q)

theorem putPtRing_hostOk (rx : Bool) (k : Nat) (g : PtRing) (s : State) (hs : HostOk s) : HostOk (putPtRing rx k g s)
    :=
  hs.of_look (putPtRing_look _ (fun _ _ => rfl) rx k g s)

theorem ptDoorbell_hostOk (rx : Bool) (k tail : Nat) (s : State) (hs : HostOk s) : HostOk (ptDoorbell rx k tail s) :=
    by
  simp only [ptDoorbell]
  repeat' first
    | with_reducible assumption | split | with_reducible apply faultPtRing_hostOk
    | with_reducible apply putPtRing_hostOk | with_reducible apply HostOk.ite | with_reducible apply HostOk.foldl
    | with_reducible apply HostOk.mk_of | with_reducible rfl | intro _ | dsimp only

theorem ptConfig_hostOk (rx : Bool) (k v : Nat) (s : State) (hs : HostOk s) : HostOk (ptConfig rx k v s) :=
  hs.of_look (ptConfig_look _ (fun _ _ => rfl) rx k v s)

theorem ptBase_hostOk (rx : Bool) (k value : Nat) (high : Bool) (s : State) (hs : HostOk s) : HostOk (ptBase rx k
    value high s) :=
  hs.of_look (ptBase_look _ (fun _ _ => rfl) rx k value high s)

theorem latchTime_hostOk (s : State) (hs : HostOk s) : HostOk (latchTime s) :=
  hs.of_look (latchTime_look _ (fun _ _ => rfl) s)

theorem latchCount_hostOk (el reg : Nat) (s : State) (hs : HostOk s) : HostOk (latchCount el reg s) :=
  hs.of_look (latchCount_look _ (fun _ _ => rfl) el reg s)

theorem readBar_hostOk (off : Nat) (s : State) (hs : HostOk s) : HostOk (readBar off s).2 := by
  simp only [readBar]
  repeat' first
    | with_reducible assumption | split | with_reducible apply readReg_hostOk
    | with_reducible apply latchTime_hostOk | with_reducible apply raiseErr_hostOk
    | with_reducible apply latchCount_hostOk | with_reducible apply HostOk.ite | with_reducible apply HostOk.foldl
    | with_reducible apply HostOk.mk_of | with_reducible rfl | intro _ | dsimp only

theorem hostRead_hostOk (off : Nat) (s : State) (hs : HostOk s) : HostOk (hostRead off s) := by
  simp only [hostRead]
  repeat' first
    | with_reducible assumption | split | with_reducible apply readBar_hostOk | with_reducible apply emit_hostOk
    | with_reducible apply HostOk.ite | with_reducible apply HostOk.foldl | with_reducible apply HostOk.mk_of
    | with_reducible rfl | intro _ | dsimp only

theorem readBar2_hostOk (a : Nat) (s : State) (hs : HostOk s) : HostOk (readBar2 a s).2 :=
  hs.of_look (readBar2_look _ (fun _ _ => rfl) a s)

theorem siSel_hostOk (v : Nat) (s : State) (hs : HostOk s) : HostOk (siSel v s) :=
  hs.of_look (siSel_look _ (fun _ _ => rfl) v s)

theorem scSel_hostOk (v : Nat) (s : State) (hs : HostOk s) : HostOk (scSel v s) :=
  hs.of_look (scSel_look _ (fun _ _ => rfl) v s)

theorem alSel_hostOk (v : Nat) (s : State) (hs : HostOk s) : HostOk (alSel v s) :=
  hs.of_look (alSel_look _ (fun _ _ => rfl) v s)

theorem ovSel_hostOk (v : Nat) (s : State) (hs : HostOk s) : HostOk (ovSel v s) :=
  hs.of_look (ovSel_look _ (fun _ _ => rfl) v s)

theorem ecSel_hostOk (v : Nat) (s : State) (hs : HostOk s) : HostOk (ecSel v s) :=
  hs.of_look (ecSel_look _ (fun _ _ => rfl) v s)

theorem writeHi_hostOk (o v : Nat) (s : State) (hs : HostOk s) : HostOk (writeHi o v s) := by
  have hc : ∀ (b : Bool), HostOk { s with hi := { s.hi with mb := { s.hi.mb with ovr := b } } } := fun b => HostOk.mk_of hs rfl rfl
  have he : HostOk { s with hi := clearErr v s.hi } := HostOk.mk_of hs rfl rfl
  unfold writeHi; dsimp only
  (repeat' split) <;> first
    | with_reducible exact hs
    | with_reducible exact he
    | with_reducible exact hc _
    | with_reducible exact sqConfig_hostOk _ _ _ hs
    | with_reducible exact sqDoorbell_hostOk _ _ _ hs
    | with_reducible exact cqConfig_hostOk _ _ _ hs
    | with_reducible exact cqDoorbell_hostOk _ _ _ hs
    | with_reducible exact ringBase_hostOk _ _ _ _ hs
    | with_reducible exact nqConfig_hostOk _ _ _ hs
    | exact HostOk.mk_of hs rfl rfl

theorem writeNp_hostOk (o v : Nat) (s : State) (hs : HostOk s) : HostOk (writeNp o v s) := by
  simp only [writeNp]
  repeat' first
    | with_reducible assumption | split | with_reducible apply updPort_hostOk | with_reducible apply ptBase_hostOk
    | with_reducible apply ptConfig_hostOk | with_reducible apply ptDoorbell_hostOk
    | with_reducible apply HostOk.ite | with_reducible apply HostOk.foldl | with_reducible apply HostOk.mk_of
    | with_reducible rfl | intro _ | dsimp only

theorem writeReg_hostOk (off v : Nat) (s : State) (hs : HostOk s) : HostOk (writeReg off v s) := by
  simp only [writeReg]
  repeat' first
    | with_reducible assumption | split | with_reducible apply writeHi_hostOk | with_reducible apply writeNp_hostOk
    | with_reducible apply siSel_hostOk | with_reducible apply scSel_hostOk | with_reducible apply alSel_hostOk
    | with_reducible apply ovSel_hostOk | with_reducible apply ecSel_hostOk | with_reducible apply seekSpool_hostOk
    | with_reducible apply HostOk.ite | with_reducible apply HostOk.foldl | with_reducible apply HostOk.mk_of
    | with_reducible rfl | intro _ | dsimp only

theorem writeMsix_hostOk (a v : Nat) (s : State) (hs : HostOk s) : HostOk (writeMsix a v s) := by
  simp only [writeMsix]
  repeat' first
    | with_reducible assumption | split | with_reducible apply fireVector_hostOk | with_reducible apply HostOk.ite
    | with_reducible apply HostOk.foldl | with_reducible apply HostOk.mk_of | with_reducible rfl | intro _
    | dsimp only

theorem writeBar2_hostOk (a v : Nat) (s : State) (hs : HostOk s) : HostOk (writeBar2 a v s) := by
  simp only [writeBar2]
  repeat' first
    | with_reducible assumption | split | with_reducible apply writeMsix_hostOk | with_reducible apply HostOk.ite
    | with_reducible apply HostOk.foldl | with_reducible apply HostOk.mk_of | with_reducible rfl | intro _
    | dsimp only

theorem readRegs_hostOk (n off : Nat) (s : State) (hs : HostOk s) : HostOk (readRegs n off s).2 := by
  induction n generalizing off s with
  | zero => exact hs
  | succ n ih =>
    simp only [readRegs]
    split
    · exact ih _ _ (readBar_hostOk _ _ hs)
    · exact ih _ _ (bumpFree_hostOk _ hs)

theorem mbSubmit_hostOk (p : Packet) (s : State) (hs : HostOk s) : HostOk (mbSubmit p s) := by
  simp only [mbSubmit]
  repeat' first
    | with_reducible assumption | split | with_reducible apply HostOk.ite | with_reducible apply HostOk.foldl
    | with_reducible apply HostOk.mk_of | with_reducible rfl | intro _ | dsimp only

theorem mbFetch_hostOk (s : State) (hs : HostOk s) : HostOk (mbFetch s) := by
  simp only [mbFetch]
  repeat' first
    | with_reducible assumption | split | with_reducible apply emit_hostOk | with_reducible apply HostOk.ite
    | with_reducible apply HostOk.foldl | with_reducible apply HostOk.mk_of | with_reducible rfl | intro _
    | dsimp only

theorem mgmtData_hostOk (c : MgmtSel) (count : Nat) (s : State) (hs : HostOk s) : HostOk (mgmtData c count s) := by
  simp only [mgmtData]
  repeat' first
    | with_reducible assumption | split | with_reducible apply emit_hostOk | with_reducible apply count_hostOk
    | with_reducible apply readRegs_hostOk | with_reducible apply mbFetch_hostOk | with_reducible apply HostOk.ite
    | with_reducible apply HostOk.foldl | with_reducible apply HostOk.mk_of | with_reducible rfl | intro _
    | dsimp only

theorem mgmtTake_hostOk (c : Instr) (s : State) (hs : HostOk s) : HostOk (mgmtTake c s) := by
  simp only [mgmtTake]
  repeat' first
    | with_reducible assumption | split | with_reducible apply mbSubmit_hostOk | with_reducible apply HostOk.ite
    | with_reducible apply HostOk.foldl | with_reducible apply HostOk.mk_of | with_reducible rfl | intro _
    | dsimp only

theorem mgmtBody_hostOk (via : Mgmt) (c : Instr) (s : State) (hs : HostOk s) : HostOk (mgmtBody via c s) := by
  simp only [mgmtBody]
  repeat' first
    | with_reducible assumption | split | with_reducible apply mgmtData_hostOk
    | with_reducible apply mgmtTake_hostOk | with_reducible apply HostOk.ite | with_reducible apply HostOk.foldl
    | with_reducible apply HostOk.mk_of | with_reducible rfl | intro _ | dsimp only

theorem mgmtLsw_hostOk (via : Mgmt) (s : State) (hs : HostOk s) : HostOk (mgmtLsw via s) :=
  hs.of_look (mgmtLsw_look _ (fun _ _ => rfl) via s)

theorem mgmt_hostOk (via : Mgmt) (c : Instr) (s : State) (hs : HostOk s) : HostOk (mgmt via c s) := by
  simp only [mgmt]
  repeat' first
    | with_reducible assumption | split | with_reducible apply mgmtBody_hostOk | with_reducible apply mgmtLsw_hostOk
    | with_reducible apply mi2cMatch_hostOk | with_reducible apply HostOk.ite | with_reducible apply HostOk.foldl
    | with_reducible apply HostOk.mk_of | with_reducible rfl | intro _ | dsimp only

theorem execCommandFetch_hostOk (ring : Nat) (p : Packet) (readOk : Bool) (s : State) (hs : HostOk s) : ∃ σ,
    execCommandFetch ring p readOk s = .next σ ∧ HostOk σ := by
  refine ⟨_, rfl, ?_⟩; repeat' first
    | with_reducible assumption | split | with_reducible apply dmaErr_hostOk | with_reducible apply setRing_hostOk
    | with_reducible apply HostOk.ite | with_reducible apply HostOk.foldl | with_reducible apply HostOk.mk_of
    | with_reducible rfl | intro _ | dsimp only

theorem execFenceRelease_hostOk (ring : Nat) (s : State) (hs : HostOk s) : ∃ σ, execFenceRelease ring s = .next σ ∧
    HostOk σ := by
  refine ⟨_, rfl, ?_⟩; repeat' first
    | with_reducible assumption | split | with_reducible apply setRing_hostOk | with_reducible apply HostOk.ite
    | with_reducible apply HostOk.foldl | with_reducible apply HostOk.mk_of | with_reducible rfl | intro _
    | dsimp only

theorem execHiSqDbWrite_hostOk (ring tail : Nat) (s : State) (hs : HostOk s) : ∃ σ, execHiSqDbWrite ring tail s =
    .next σ ∧ HostOk σ := by
  refine ⟨_, rfl, ?_⟩; repeat' first
    | with_reducible assumption | split | with_reducible apply regWrite_hostOk
    | with_reducible apply sqDoorbell_hostOk | with_reducible apply HostOk.ite | with_reducible apply HostOk.foldl
    | with_reducible apply HostOk.mk_of | with_reducible rfl | intro _ | dsimp only

theorem execHiCqDbWrite_hostOk (ring head : Nat) (s : State) (hs : HostOk s) : ∃ σ, execHiCqDbWrite ring head s =
    .next σ ∧ HostOk σ := by
  refine ⟨_, rfl, ?_⟩; repeat' first
    | with_reducible assumption | split | with_reducible apply regWrite_hostOk
    | with_reducible apply cqDoorbell_hostOk | with_reducible apply HostOk.ite | with_reducible apply HostOk.foldl
    | with_reducible apply HostOk.mk_of | with_reducible rfl | intro _ | dsimp only

theorem execHiSqCfgWrite_hostOk (ring value : Nat) (s : State) (hs : HostOk s) : ∃ σ, execHiSqCfgWrite ring value s =
    .next σ ∧ HostOk σ := by
  refine ⟨_, rfl, ?_⟩; repeat' first
    | with_reducible assumption | split | with_reducible apply regWrite_hostOk
    | with_reducible apply sqConfig_hostOk | with_reducible apply HostOk.ite | with_reducible apply HostOk.foldl
    | with_reducible apply HostOk.mk_of | with_reducible rfl | intro _ | dsimp only

theorem execHiCqCfgWrite_hostOk (ring value : Nat) (s : State) (hs : HostOk s) : ∃ σ, execHiCqCfgWrite ring value s =
    .next σ ∧ HostOk σ := by
  refine ⟨_, rfl, ?_⟩; repeat' first
    | with_reducible assumption | split | with_reducible apply regWrite_hostOk
    | with_reducible apply cqConfig_hostOk | with_reducible apply HostOk.ite | with_reducible apply HostOk.foldl
    | with_reducible apply HostOk.mk_of | with_reducible rfl | intro _ | dsimp only

theorem execHiNqPopRead_hostOk (q bytes : Nat) (aligned : Bool) (s : State) (hs : HostOk s) : ∃ σ, execHiNqPopRead q
    bytes aligned s = .next σ ∧ HostOk σ := by
  refine ⟨_, rfl, ?_⟩; repeat' first
    | with_reducible assumption | split | with_reducible apply emit_hostOk | with_reducible apply popRead_hostOk
    | with_reducible apply HostOk.ite | with_reducible apply HostOk.foldl | with_reducible apply HostOk.mk_of
    | with_reducible rfl | intro _ | dsimp only

theorem execHiNqCfgWrite_hostOk (q value : Nat) (s : State) (hs : HostOk s) : ∃ σ, execHiNqCfgWrite q value s = .next
    σ ∧ HostOk σ := by
  refine ⟨_, rfl, ?_⟩; repeat' first
    | with_reducible assumption | split | with_reducible apply regWrite_hostOk
    | with_reducible apply nqConfig_hostOk | with_reducible apply HostOk.ite | with_reducible apply HostOk.foldl
    | with_reducible apply HostOk.mk_of | with_reducible rfl | intro _ | dsimp only

theorem execNqTimeout_hostOk (q : Nat) (s : State) (hs : HostOk s) : ∃ σ, execNqTimeout q s = .next σ ∧ HostOk σ := by
  refine ⟨_, rfl, ?_⟩
  split
  · exact hs
  · exact fireVector_hostOk _ _ (setNq_hostOk _ _ _ hs (getNq_ok hs q))

theorem execNpPtDbWrite_hostOk (rx : Bool) (k tail : Nat) (s : State) (hs : HostOk s) : ∃ σ, execNpPtDbWrite rx k tail
    s = .next σ ∧ HostOk σ := by
  refine ⟨_, rfl, ?_⟩; repeat' first
    | with_reducible assumption | split | with_reducible apply regWrite_hostOk
    | with_reducible apply ptDoorbell_hostOk | with_reducible apply HostOk.ite | with_reducible apply HostOk.foldl
    | with_reducible apply HostOk.mk_of | with_reducible rfl | intro _ | dsimp only

theorem execNpPtCfgWrite_hostOk (rx : Bool) (k value : Nat) (s : State) (hs : HostOk s) : ∃ σ, execNpPtCfgWrite rx k
    value s = .next σ ∧ HostOk σ := by
  refine ⟨_, rfl, ?_⟩; repeat' first
    | with_reducible assumption | split | with_reducible apply regWrite_hostOk
    | with_reducible apply ptConfig_hostOk | with_reducible apply HostOk.ite | with_reducible apply HostOk.foldl
    | with_reducible apply HostOk.mk_of | with_reducible rfl | intro _ | dsimp only

theorem execTmFrcLoRead_hostOk (s : State) (hs : HostOk s) : ∃ σ, execTmFrcLoRead s = .next σ ∧ HostOk σ := by
  refine ⟨_, rfl, ?_⟩; repeat' first
    | with_reducible assumption | split | with_reducible apply hostRead_hostOk | with_reducible apply HostOk.ite
    | with_reducible apply HostOk.foldl | with_reducible apply HostOk.mk_of | with_reducible rfl | intro _
    | dsimp only

theorem execAmCountLowRead_hostOk (el reg : Nat) (s : State) (hs : HostOk s) : ∃ σ, execAmCountLowRead el reg s =
    .next σ ∧ HostOk σ := by
  refine ⟨_, rfl, ?_⟩; repeat' first
    | with_reducible assumption | split | with_reducible apply hostRead_hostOk | with_reducible apply HostOk.ite
    | with_reducible apply HostOk.foldl | with_reducible apply HostOk.mk_of | with_reducible rfl | intro _
    | dsimp only

theorem execCounterLowRead_hostOk (r : Bar2Read) (s : State) (hs : HostOk s) : ∃ σ, execCounterLowRead r s = .next σ ∧ HostOk σ := by
  obtain ⟨σ, h1, h2⟩ := execCounterLowRead_look (fun s => (s.counters, s.hi)) (fun _ _ _ _ => rfl) r s
  exact ⟨σ, h1, hs.of_look h2⟩

theorem execSiSelWrite_hostOk (value : Nat) (s : State) (hs : HostOk s) : ∃ σ, execSiSelWrite value s = .next σ ∧
    HostOk σ := by
  refine ⟨_, rfl, ?_⟩; repeat' first
    | with_reducible assumption | split | with_reducible apply regWrite_hostOk | with_reducible apply siSel_hostOk
    | with_reducible apply HostOk.ite | with_reducible apply HostOk.foldl | with_reducible apply HostOk.mk_of
    | with_reducible rfl | intro _ | dsimp only

theorem execScSelWrite_hostOk (value : Nat) (s : State) (hs : HostOk s) : ∃ σ, execScSelWrite value s = .next σ ∧
    HostOk σ := by
  refine ⟨_, rfl, ?_⟩; repeat' first
    | with_reducible assumption | split | with_reducible apply regWrite_hostOk | with_reducible apply scSel_hostOk
    | with_reducible apply HostOk.ite | with_reducible apply HostOk.foldl | with_reducible apply HostOk.mk_of
    | with_reducible rfl | intro _ | dsimp only

theorem execAlSelWrite_hostOk (value : Nat) (s : State) (hs : HostOk s) : ∃ σ, execAlSelWrite value s = .next σ ∧
    HostOk σ := by
  refine ⟨_, rfl, ?_⟩; repeat' first
    | with_reducible assumption | split | with_reducible apply regWrite_hostOk | with_reducible apply alSel_hostOk
    | with_reducible apply HostOk.ite | with_reducible apply HostOk.foldl | with_reducible apply HostOk.mk_of
    | with_reducible rfl | intro _ | dsimp only

theorem execOvSelWrite_hostOk (value : Nat) (s : State) (hs : HostOk s) : ∃ σ, execOvSelWrite value s = .next σ ∧
    HostOk σ := by
  refine ⟨_, rfl, ?_⟩; repeat' first
    | with_reducible assumption | split | with_reducible apply regWrite_hostOk | with_reducible apply ovSel_hostOk
    | with_reducible apply HostOk.ite | with_reducible apply HostOk.foldl | with_reducible apply HostOk.mk_of
    | with_reducible rfl | intro _ | dsimp only

theorem execEcSelWrite_hostOk (value : Nat) (s : State) (hs : HostOk s) : ∃ σ, execEcSelWrite value s = .next σ ∧
    HostOk σ := by
  refine ⟨_, rfl, ?_⟩; repeat' first
    | with_reducible assumption | split | with_reducible apply regWrite_hostOk | with_reducible apply ecSel_hostOk
    | with_reducible apply HostOk.ite | with_reducible apply HostOk.foldl | with_reducible apply HostOk.mk_of
    | with_reducible rfl | intro _ | dsimp only

theorem execEvSpoolCurWrite_hostOk (value : Nat) (s : State) (hs : HostOk s) : ∃ σ, execEvSpoolCurWrite value s =
    .next σ ∧ HostOk σ := by
  refine ⟨_, rfl, ?_⟩; repeat' first
    | with_reducible assumption | split | with_reducible apply regWrite_hostOk
    | with_reducible apply seekSpool_hostOk | with_reducible apply HostOk.ite | with_reducible apply HostOk.foldl
    | with_reducible apply HostOk.mk_of | with_reducible rfl | intro _ | dsimp only

theorem execRegisterWrite_hostOk (offset value : Nat) (s : State) (hs : HostOk s) : ∃ σ, execRegisterWrite offset
    value s = .next σ ∧ HostOk σ := by
  refine ⟨_, rfl, ?_⟩; repeat' first
    | with_reducible assumption | split | with_reducible apply writeBar2_hostOk
    | with_reducible apply regWrite_hostOk | with_reducible apply writeReg_hostOk | with_reducible apply HostOk.ite
    | with_reducible apply HostOk.foldl | with_reducible apply HostOk.mk_of | with_reducible rfl | intro _
    | dsimp only

theorem execFlr_hostOk (_perst : Bool) (s : State) (hs : HostOk s) : ∃ σ, execFlr _perst s = .next σ ∧ HostOk σ := by
  refine ⟨_, rfl, hs.1, ?_, hs.2.2⟩
  simpa using hs.2.1

theorem execMspiStatus_hostOk (c : MgmtByte) (s : State) (hs : HostOk s) : ∃ σ, execMspiStatus c s = .next σ ∧ HostOk σ := by
  refine ⟨_, rfl, ?_⟩; repeat' first
    | with_reducible assumption | split | with_reducible apply mgmt_hostOk | with_reducible apply count_hostOk
    | with_reducible apply HostOk.ite | with_reducible apply HostOk.foldl | with_reducible apply HostOk.mk_of
    | with_reducible rfl | intro _ | dsimp only

theorem execMspiRead_hostOk (via : Mgmt) (offset count : Nat) (s : State) (hs : HostOk s) : ∃ σ, execMspiRead via
    offset count s = .next σ ∧ HostOk σ := by
  refine ⟨_, rfl, ?_⟩; repeat' first
    | with_reducible assumption | split | with_reducible apply mgmt_hostOk | with_reducible apply count_hostOk
    | with_reducible apply HostOk.ite | with_reducible apply HostOk.foldl | with_reducible apply HostOk.mk_of
    | with_reducible rfl | intro _ | dsimp only

theorem execMbSubmit_hostOk (via : Mgmt) (p : Packet) (s : State) (hs : HostOk s) : ∃ σ, execMbSubmit via p s = .next
    σ ∧ HostOk σ := by
  refine ⟨_, rfl, ?_⟩; repeat' first
    | with_reducible assumption | split | with_reducible apply mgmt_hostOk | with_reducible apply mbSubmit_hostOk
    | with_reducible apply HostOk.ite | with_reducible apply HostOk.foldl | with_reducible apply HostOk.mk_of
    | with_reducible rfl | intro _ | dsimp only

theorem execMbFetch_hostOk (via : Mgmt) (s : State) (hs : HostOk s) : ∃ σ, execMbFetch via s = .next σ ∧ HostOk σ := by
  refine ⟨_, rfl, ?_⟩; repeat' first
    | with_reducible assumption | split | with_reducible apply mgmt_hostOk | with_reducible apply mbFetch_hostOk
    | with_reducible apply HostOk.ite | with_reducible apply HostOk.foldl | with_reducible apply HostOk.mk_of
    | with_reducible rfl | intro _ | dsimp only

end Sys2Proof.Machine
end

