-- ==== Sys2Proof/Laws/OkFinal.lean ====
section
/-! SUPPORT. The operations of Machine/Final.lean keep the bounds of the host interface (`HostOk`). -/

namespace Sys2Proof.Machine

theorem finishHost_hostOk (o : OpEntry) (fin : Finish) (s : State) (hs : HostOk s) : HostOk (finishHost o fin s) := by
  simp only [finishHost]
  repeat' first
    | with_reducible assumption | split | with_reducible apply finishSetMode_hostOk
    | with_reducible apply finishCfgLoad_hostOk | with_reducible apply finishCfgCommit_hostOk
    | with_reducible apply finishCfgReport_hostOk | with_reducible apply finishCfgStore_hostOk
    | with_reducible apply finishPortConfig_hostOk | with_reducible apply finishGateLoad_hostOk
    | with_reducible apply finishPtpConfig_hostOk | with_reducible apply finishMainRetest_hostOk
    | with_reducible apply HostOk.ite | with_reducible apply HostOk.foldl | with_reducible apply HostOk.mk_of
    | with_reducible rfl | intro _ | dsimp only

theorem finishGrid_hostOk (o : OpEntry) (fin : Finish) (s : State) (hs : HostOk s) : HostOk (finishGrid o fin s) := by
  simp only [finishGrid]
  repeat' first
    | with_reducible assumption | split | with_reducible apply finishInstall_hostOk
    | with_reducible apply finishList_hostOk | with_reducible apply finishGroupDefine_hostOk
    | with_reducible apply finishGroupMembers_hostOk | with_reducible apply finishSetTiming_hostOk
    | with_reducible apply finishSessionDefine_hostOk | with_reducible apply finishReadCell_hostOk
    | with_reducible apply finishJobDefine_hostOk | with_reducible apply finishJobBind_hostOk
    | with_reducible apply finishLevels_hostOk | with_reducible apply finishEngineRetire_hostOk
    | with_reducible apply finishEngineRestore_hostOk | with_reducible apply finishModelLoad_hostOk
    | with_reducible apply finishReadResult_hostOk | with_reducible apply finishSignal_hostOk
    | with_reducible apply finishOscGroup_hostOk | with_reducible apply count_hostOk
    | with_reducible apply finishReadBands_hostOk | with_reducible apply finishReadModes_hostOk
    | with_reducible apply HostOk.ite | with_reducible apply HostOk.foldl | with_reducible apply HostOk.mk_of
    | with_reducible rfl | intro _ | dsimp only

theorem finishRest_hostOk (o : OpEntry) (fin : Finish) (s : State) (hs : HostOk s) : HostOk (finishRest o fin s) := by
  simp only [finishRest]
  repeat' first
    | with_reducible assumption | split | with_reducible apply finishChan_hostOk
    | with_reducible apply finishRing_hostOk | with_reducible apply finishSigned_hostOk
    | with_reducible apply finishVs_hostOk | with_reducible apply finishSave_hostOk
    | with_reducible apply finishLifecycle_hostOk | with_reducible apply finishRoot_hostOk
    | with_reducible apply finishGenerate_hostOk | with_reducible apply finishDerive_hostOk
    | with_reducible apply finishImport_hostOk | with_reducible apply finishSeal_hostOk
    | with_reducible apply finishExport_hostOk | with_reducible apply finishAttest_hostOk
    | with_reducible apply count_hostOk | with_reducible apply finishLogRead_hostOk
    | with_reducible apply finishFlush_hostOk | with_reducible apply finishRefSwitch_hostOk
    | with_reducible apply HostOk.ite | with_reducible apply HostOk.foldl | with_reducible apply HostOk.mk_of
    | with_reducible rfl | intro _ | dsimp only

theorem finishOp_hostOk (o : OpEntry) (fin : Finish) (s : State) (hs : HostOk s) : HostOk (finishOp o fin s) := by
  simp only [finishOp]
  repeat' first
    | with_reducible assumption | split | with_reducible apply finishHost_hostOk
    | with_reducible apply finishGrid_hostOk | with_reducible apply finishRest_hostOk
    | with_reducible apply HostOk.ite | with_reducible apply HostOk.foldl | with_reducible apply HostOk.mk_of
    | with_reducible rfl | intro _ | dsimp only

/-- The work of every host command of the opcode table keeps the bounds of the host interface. -/
theorem procOf_hostOk (c : Instr) (s : State) (p : Proc) (h : procOf c s = some p) : p.work.Ok := by
  cases c <;> simp only [procOf, Option.some.injEq, reduceCtorEq] at h <;> subst h
  · exact procSysNop_hostOk _ _
  · exact procSysIdentify_hostOk _ _
  · exact procSysQueryHandle_hostOk _ _ _
  · exact procSysCancel_hostOk _ _ _
  · exact procSysSetMode_hostOk _ _ _
  · exact procSysFreeze_hostOk _ _
  · exact procSysThaw_hostOk _ _
  · exact procSysReset_hostOk _ _ _
  · exact procSysNqMark_hostOk _ _ _
  · exact procSysNqRewind_hostOk _ _ _
  · exact procSysNqRelease_hostOk _ _ _ _
  · exact procSysClearCounters_hostOk _ _ _
  · exact procCfgLoad_hostOk _ _ _ _ _ _
  · exact procCfgCommit_hostOk _ _
  · exact procCfgDiscard_hostOk _ _
  · exact procCfgReport_hostOk _ _ _ _ _
  · exact procCfgQuery_hostOk _ _ _
  · exact procCfgStore_hostOk _ _
  · exact procPortConfig_hostOk _ _ _
  · exact procPortSetExact_hostOk _ _ _ _ _ _
  · exact procPortSetHash_hostOk _ _ _
  · exact procPortSetVlan_hostOk _ _ _
  · exact procPortSetIntake_hostOk _ _ _ _
  · exact procPortSetPtMap_hostOk _ _ _ _
  · exact procPortPrpPair_hostOk _ _ _
  · exact procPortMacsecCfg_hostOk _ _ _
  · exact procPortSaInstall_hostOk _ _ _
  · exact procPortSaActivate_hostOk _ _ _ _ _
  · exact procPortSaDestroy_hostOk _ _ _ _ _ _
  · exact procPortGateLoad_hostOk _ _ _
  · exact procPortGateQuery_hostOk _ _ _
  · exact procPortLinkStatus_hostOk _ _ _
  · exact procPortClearCounters_hostOk _ _ _
  · exact procTimeConfig_hostOk _ _ _
  · exact procTimeSource_hostOk _ _ _ _ _
  · exact procTimePtpConfig_hostOk _ _ _
  · exact procTimePpsConfig_hostOk _ _ _
  · exact procTimePortLatency_hostOk _ _ _
  · exact procTimeRead_hostOk _ _
  · exact procTimeSet_hostOk _ _ _
  · exact procTimeUtcOffset_hostOk _ _ _ _ _
  · exact procTimeCmpArm_hostOk _ _ _
  · exact procTimeCmpDisarm_hostOk _ _ _
  · exact procTimeCmpQuery_hostOk _ _ _
  · exact procTimeHoldoverTest_hostOk _ _ _
  · exact procTimeMainRetest_hostOk _ _
  · exact procTimeStatus_hostOk _ _
  · exact procTimeClearCounters_hostOk _ _
  · exact procStreamInstall_hostOk _ _ _
  · exact procStreamRemove_hostOk _ _ _
  · exact procStreamRekey_hostOk _ _ _ _ _
  · exact procStreamRelease_hostOk _ _ _
  · exact procStreamQuery_hostOk _ _ _
  · exact procStreamSetTimers_hostOk _ _ _ _ _
  · exact procStreamList_hostOk _ _ _ _
  · exact procStreamGconfig_hostOk _ _ _
  · exact procStreamClearCounters_hostOk _ _ _ _
  · exact procGroupDefine_hostOk _ _ _
  · exact procGroupDelete_hostOk _ _ _
  · exact procGroupMembers_hostOk _ _ _ _ _ _
  · exact procGroupSetTiming_hostOk _ _ _
  · exact procGroupQuery_hostOk _ _ _
  · exact procGroupSessionDefine_hostOk _ _ _
  · exact procGroupSessionDelete_hostOk _ _ _
  · exact procGroupSessionEnable_hostOk _ _ _ _
  · exact procGroupReadCell_hostOk _ _ _ _ _ _ _
  · exact procGroupClearCounters_hostOk _ _ _
  · exact procGroupGconfig_hostOk _ _ _
  · exact procCaravanJobDefine_hostOk _ _ _
  · exact procCaravanJobDelete_hostOk _ _ _
  · exact procCaravanJobBind_hostOk _ _ _ _ _
  · exact procCaravanRun_hostOk _ _ _ _
  · exact procCaravanLevelConfig_hostOk _ _ _
  · exact procCaravanEngineRetire_hostOk _ _ _
  · exact procCaravanEngineRestore_hostOk _ _ _
  · exact procCaravanQueryJob_hostOk _ _ _
  · exact procCaravanQueryEngine_hostOk _ _ _
  · exact procCaravanClearCounters_hostOk _ _ _
  · exact procTopoModelLoad_hostOk _ _ _ _ _ _ _
  · exact procTopoConfig_hostOk _ _ _
  · exact procTopoCutsetDefine_hostOk _ _ _
  · exact procTopoCutsetDelete_hostOk _ _ _
  · exact procTopoBranchForce_hostOk _ _ _ _
  · exact procTopoRefactor_hostOk _ _
  · exact procTopoReadResult_hostOk _ _ _ _ _ _
  · exact procTopoQuery_hostOk _ _
  · exact procTopoClearCounters_hostOk _ _
  · exact procOscConfig_hostOk _ _ _
  · exact procOscSignalDefine_hostOk _ _ _
  · exact procOscSignalDelete_hostOk _ _ _
  · exact procOscGroupDefine_hostOk _ _ _
  · exact procOscGroupDelete_hostOk _ _ _
  · exact procOscReadBands_hostOk _ _ _ _ _ _ _
  · exact procOscReadModes_hostOk _ _ _ _ _ _
  · exact procOscRestart_hostOk _ _ _
  · exact procOscQuery_hostOk _ _ _
  · exact procOscClearCounters_hostOk _ _ _
  · exact procAlarmRuleDefine_hostOk _ _ _
  · exact procAlarmRuleEnable_hostOk _ _ _ _ _
  · exact procAlarmRuleDelete_hostOk _ _ _
  · exact procAlarmRuleQuery_hostOk _ _ _
  · exact procAlarmLineConfig_hostOk _ _ _
  · exact procAlarmAck_hostOk _ _ _
  · exact procAlarmForce_hostOk _ _ _ _
  · exact procAlarmXtrigConfig_hostOk _ _ _
  · exact procAlarmClearCounters_hostOk _ _ _ _
  · exact procAcqChannelDefine_hostOk _ _ _
  · exact procAcqRingDefine_hostOk _ _ _
  · exact procAcqEnable_hostOk _ _ _ _
  · exact procAcqDelete_hostOk _ _ _
  · exact procAcqTrigger_hostOk _ _ _ _
  · exact procAcqQuery_hostOk _ _ _
  · exact procAcqGconfig_hostOk _ _ _
  · exact procAcqClearCounters_hostOk _ _ _
  · exact procMeterChannelConfig_hostOk _ _ _
  · exact procMeterCalibrate_hostOk _ _ _
  · exact procMeterSensorTemp_hostOk _ _ _ _
  · exact procMeterElementDefine_hostOk _ _ _
  · exact procMeterElementEnable_hostOk _ _ _ _
  · exact procMeterEnergyRead_hostOk _ _ _ _
  · exact procMeterEnergySigned_hostOk _ _ _ _ _ _
  · exact procMeterEnergyPreset_hostOk _ _ _ _ _ _
  · exact procMeterPulseConfig_hostOk _ _ _
  · exact procMeterVstreamDefine_hostOk _ _ _
  · exact procMeterVstreamRemove_hostOk _ _ _
  · exact procMeterBallastDefine_hostOk _ _ _
  · exact procMeterSave_hostOk _ _
  · exact procMeterConfig_hostOk _ _ _
  · exact procMeterQuery_hostOk _ _
  · exact procMeterClearCounters_hostOk _ _ _
  · exact procVaultStatus_hostOk _ _
  · exact procVaultLifecycle_hostOk _ _ _ _
  · exact procVaultOwnerLoad_hostOk _ _ _
  · exact procVaultRootGenerate_hostOk _ _
  · exact procVaultTamperClear_hostOk _ _
  · exact procVaultTamperConfig_hostOk _ _ _
  · exact procVaultDebug_hostOk _ _ _
  · exact procVaultGenerate_hostOk _ _ _ _ _ _
  · exact procVaultDerive_hostOk _ _ _ _ _ _ _ _
  · exact procVaultImport_hostOk _ _ _
  · exact procVaultSeal_hostOk _ _ _ _ _
  · exact procVaultExport_hostOk _ _ _ _ _ _ _
  · exact procVaultDestroy_hostOk _ _ _
  · exact procVaultAttest_hostOk _ _ _ _ _ _
  · exact procVaultSlotQuery_hostOk _ _ _
  · exact procVaultRandom_hostOk _ _ _
  · exact procVaultClearCounters_hostOk _ _
  · exact procLogConfig_hostOk _ _ _
  · exact procLogSpoolSeek_hostOk _ _ _
  · exact procLogRead_hostOk _ _ _ _ _ _
  · exact procLogFlush_hostOk _ _
  · exact procLogWrite_hostOk _ _ _ _
  · exact procLogFaultClear_hostOk _ _
  · exact procLogMacroQuery_hostOk _ _ _
  · exact procLogInject_hostOk _ _ _ _ _ _
  · exact procLogClearCounters_hostOk _ _ _
  · exact procPowerDoze_hostOk _ _
  · exact procPowerWake_hostOk _ _
  · exact procPowerPadRelease_hostOk _ _ _
  · exact procPowerConfig_hostOk _ _ _
  · exact procPowerQuery_hostOk _ _
  · exact procPowerRefConfig_hostOk _ _ _
  · exact procPowerRefSwitch_hostOk _ _
  · exact procPowerClearCounters_hostOk _ _ _

theorem runWoken_hostOk (o : OpEntry) (s : State) (hs : HostOk s) : HostOk (runWoken o s) := by
  unfold runWoken
  split
  · exact finalCompletion_hostOk _ _ _ _ hs
  · rename_i p hp
    have hk := procOf_hostOk _ _ _ hp
    split
    · exact finalCompletion_hostOk _ _ _ _ hs
    · split <;> rename_i hw <;> rw [hw] at hk
      · dsimp only
        split
        · exact hk.2 _ (finalCompletion_hostOk _ _ _ _ (hk.1 _ hs))
        · exact finalCompletion_hostOk _ _ _ _ (hk.1 _ hs)
      · split
        · exact finalCompletion_hostOk _ _ _ _ (hk.2 _ hs)
        · exact hk.1 _ _ (updOp_hostOk _ _ _ hs)

theorem endWakes_hostOk (status : Nat) (s : State) (hs : HostOk s) : HostOk (endWakes status s) := by
  simp only [endWakes]
  repeat' first
    | with_reducible assumption | split | with_reducible apply finalCompletion_hostOk
    | with_reducible apply HostOk.ite | with_reducible apply HostOk.foldl | with_reducible apply HostOk.mk_of
    | with_reducible rfl | intro _ | dsimp only

theorem releaseMi2c_hostOk (s : State) (hs : HostOk s) : HostOk (releaseMi2c s) := by
  simp only [releaseMi2c]
  repeat' first
    | with_reducible assumption | split | with_reducible apply mgmtBody_hostOk | with_reducible apply HostOk.ite
    | with_reducible apply HostOk.foldl | with_reducible apply HostOk.mk_of | with_reducible rfl | intro _
    | dsimp only

theorem wakeFailed_hostOk (s : State) (hs : HostOk s) : HostOk (wakeFailed s) := by
  simp only [wakeFailed]
  repeat' first
    | with_reducible assumption | split | with_reducible apply endWakes_hostOk
    | with_reducible apply releaseMi2c_hostOk | with_reducible apply finalCompletion_hostOk
    | with_reducible apply HostOk.ite | with_reducible apply HostOk.foldl | with_reducible apply HostOk.mk_of
    | with_reducible rfl | intro _ | dsimp only

theorem dropUndefined_hostOk (s : State) (hs : HostOk s) : HostOk (dropUndefined s) := by
  simp only [dropUndefined]
  repeat' first
    | with_reducible assumption | split | with_reducible apply firstCompletion_hostOk
    | with_reducible apply takeHead_hostOk | with_reducible apply HostOk.ite | with_reducible apply HostOk.foldl
    | with_reducible apply HostOk.mk_of | with_reducible rfl | intro _ | dsimp only

theorem idleStep_hostOk (s : State) (hs : HostOk s) : HostOk (idleStep s) := by
  simp only [idleStep]
  repeat' first
    | with_reducible assumption | split | with_reducible apply idle_hostOk
    | with_reducible apply dropUndefined_hostOk | with_reducible apply HostOk.ite
    | with_reducible apply HostOk.foldl | with_reducible apply HostOk.mk_of | with_reducible rfl | intro _
    | dsimp only

theorem execFinalCompletion_hostOk (handle : Nat) (fin : Finish) (s : State) (hs : HostOk s) : ∃ σ,
    execFinalCompletion handle fin s = .next σ ∧ HostOk σ := by
  refine ⟨_, rfl, ?_⟩; repeat' first
    | with_reducible assumption | split | with_reducible apply boot_hostOk | with_reducible apply finishOp_hostOk
    | with_reducible apply HostOk.ite | with_reducible apply HostOk.foldl | with_reducible apply HostOk.mk_of
    | with_reducible rfl | intro _ | dsimp only

theorem execWakeComplete_hostOk (failed : Bool) (passed : List Nat) (s : State) (hs : HostOk s) : ∃ σ,
    execWakeComplete failed passed s = .next σ ∧ HostOk σ := by
  refine ⟨_, rfl, ?_⟩; repeat' first
    | with_reducible assumption | split | with_reducible apply wakeFailed_hostOk
    | with_reducible apply endWakes_hostOk | with_reducible apply wakeUp_hostOk
    | with_reducible apply releaseMi2c_hostOk | with_reducible apply runWoken_hostOk
    | with_reducible apply HostOk.ite | with_reducible apply HostOk.foldl | with_reducible apply HostOk.mk_of
    | with_reducible rfl | intro _ | dsimp only

end Sys2Proof.Machine
end

