-- ==== Sys2Proof/Laws/Shared.lean ====
section
/-! SUPPORT. What the operations every family shares leave alone, field by field: reports change event records, counters and
outputs, and HI through a masked vector; notices and completions change HI and outputs; a tag's counter changes OV and
Cairn. Each `_frame` lemma is the operation's `_look` lemma at every field that it does not change. -/

namespace Sys2Proof.Machine

@[simp] theorem emit_frame (o : Out) (s : State) :
    (emit o s).hi = s.hi ∧ (emit o s).cfg = s.cfg ∧ (emit o s).tm = s.tm ∧ (emit o s).ec = s.ec ∧
    (emit o s).ev = s.ev ∧ (emit o s).pm = s.pm ∧ (emit o s).ck = s.ck ∧ (emit o s).jtag = s.jtag ∧
    (emit o s).pins = s.pins ∧ (emit o s).ov = s.ov ∧ (emit o s).fuses = s.fuses ∧ (emit o s).cairn = s.cairn ∧
    (emit o s).np = s.np ∧ (emit o s).si = s.si ∧ (emit o s).erg = s.erg ∧ (emit o s).cv = s.cv ∧
    (emit o s).ts = s.ts ∧ (emit o s).sc = s.sc ∧ (emit o s).al = s.al ∧ (emit o s).aq = s.aq ∧ (emit o s).am = s.am ∧
    (emit o s).counters = s.counters ∧ (emit o s).ctrLatch = s.ctrLatch ∧ (emit o s).nor = s.nor ∧
    (emit o s).freeCtr = s.freeCtr ∧ (emit o s).pending = s.pending := by
  have h := fun {β : Type} (ρ : State → β) hρ => emit_look ρ hρ o s
  exact ⟨h (·.hi) (fun _ _ => rfl), h (·.cfg) (fun _ _ => rfl), h (·.tm) (fun _ _ => rfl), h (·.ec) (fun _ _ => rfl),
    h (·.ev) (fun _ _ => rfl), h (·.pm) (fun _ _ => rfl), h (·.ck) (fun _ _ => rfl), h (·.jtag) (fun _ _ => rfl),
    h (·.pins) (fun _ _ => rfl), h (·.ov) (fun _ _ => rfl), h (·.fuses) (fun _ _ => rfl), h (·.cairn) (fun _ _ => rfl),
    h (·.np) (fun _ _ => rfl), h (·.si) (fun _ _ => rfl), h (·.erg) (fun _ _ => rfl), h (·.cv) (fun _ _ => rfl),
    h (·.ts) (fun _ _ => rfl), h (·.sc) (fun _ _ => rfl), h (·.al) (fun _ _ => rfl), h (·.aq) (fun _ _ => rfl),
    h (·.am) (fun _ _ => rfl), h (·.counters) (fun _ _ => rfl), h (·.ctrLatch) (fun _ _ => rfl),
    h (·.nor) (fun _ _ => rfl), h (·.freeCtr) (fun _ _ => rfl), h (·.pending) (fun _ _ => rfl)⟩

@[simp] theorem fireVector_frame (v : Nat) (s : State) :
    (fireVector v s).cfg = s.cfg ∧ (fireVector v s).tm = s.tm ∧ (fireVector v s).ec = s.ec ∧
    (fireVector v s).ev = s.ev ∧ (fireVector v s).pm = s.pm ∧ (fireVector v s).ck = s.ck ∧
    (fireVector v s).jtag = s.jtag ∧ (fireVector v s).pins = s.pins ∧ (fireVector v s).ov = s.ov ∧
    (fireVector v s).fuses = s.fuses ∧ (fireVector v s).cairn = s.cairn ∧ (fireVector v s).np = s.np ∧
    (fireVector v s).si = s.si ∧ (fireVector v s).erg = s.erg ∧ (fireVector v s).cv = s.cv ∧
    (fireVector v s).ts = s.ts ∧ (fireVector v s).sc = s.sc ∧ (fireVector v s).al = s.al ∧ (fireVector v s).aq = s.aq ∧
    (fireVector v s).am = s.am ∧ (fireVector v s).counters = s.counters ∧ (fireVector v s).ctrLatch = s.ctrLatch ∧
    (fireVector v s).nor = s.nor ∧ (fireVector v s).freeCtr = s.freeCtr ∧ (fireVector v s).pending = s.pending := by
  have h := fun {β : Type} (ρ : State → β) hρ => fireVector_look ρ hρ v s
  exact ⟨h (·.cfg) (fun _ _ _ => rfl), h (·.tm) (fun _ _ _ => rfl), h (·.ec) (fun _ _ _ => rfl),
    h (·.ev) (fun _ _ _ => rfl), h (·.pm) (fun _ _ _ => rfl), h (·.ck) (fun _ _ _ => rfl),
    h (·.jtag) (fun _ _ _ => rfl), h (·.pins) (fun _ _ _ => rfl), h (·.ov) (fun _ _ _ => rfl),
    h (·.fuses) (fun _ _ _ => rfl), h (·.cairn) (fun _ _ _ => rfl), h (·.np) (fun _ _ _ => rfl),
    h (·.si) (fun _ _ _ => rfl), h (·.erg) (fun _ _ _ => rfl), h (·.cv) (fun _ _ _ => rfl),
    h (·.ts) (fun _ _ _ => rfl), h (·.sc) (fun _ _ _ => rfl), h (·.al) (fun _ _ _ => rfl), h (·.aq) (fun _ _ _ => rfl),
    h (·.am) (fun _ _ _ => rfl), h (·.counters) (fun _ _ _ => rfl), h (·.ctrLatch) (fun _ _ _ => rfl),
    h (·.nor) (fun _ _ _ => rfl), h (·.freeCtr) (fun _ _ _ => rfl), h (·.pending) (fun _ _ _ => rfl)⟩

@[simp] theorem countN_frame (a n : Nat) (s : State) :
    (countN a n s).hi = s.hi ∧ (countN a n s).cfg = s.cfg ∧ (countN a n s).tm = s.tm ∧ (countN a n s).ec = s.ec ∧
    (countN a n s).ev = s.ev ∧ (countN a n s).pm = s.pm ∧ (countN a n s).ck = s.ck ∧ (countN a n s).jtag = s.jtag ∧
    (countN a n s).pins = s.pins ∧ (countN a n s).ov = s.ov ∧ (countN a n s).fuses = s.fuses ∧
    (countN a n s).cairn = s.cairn ∧ (countN a n s).np = s.np ∧ (countN a n s).si = s.si ∧ (countN a n s).erg = s.erg ∧
    (countN a n s).cv = s.cv ∧ (countN a n s).ts = s.ts ∧ (countN a n s).sc = s.sc ∧ (countN a n s).al = s.al ∧
    (countN a n s).aq = s.aq ∧ (countN a n s).am = s.am ∧ (countN a n s).ctrLatch = s.ctrLatch ∧
    (countN a n s).nor = s.nor ∧ (countN a n s).out = s.out ∧ (countN a n s).freeCtr = s.freeCtr ∧
    (countN a n s).pending = s.pending := by
  have h := fun {β : Type} (ρ : State → β) hρ => countN_look ρ hρ a n s
  exact ⟨h (·.hi) (fun _ _ => rfl), h (·.cfg) (fun _ _ => rfl), h (·.tm) (fun _ _ => rfl), h (·.ec) (fun _ _ => rfl),
    h (·.ev) (fun _ _ => rfl), h (·.pm) (fun _ _ => rfl), h (·.ck) (fun _ _ => rfl), h (·.jtag) (fun _ _ => rfl),
    h (·.pins) (fun _ _ => rfl), h (·.ov) (fun _ _ => rfl), h (·.fuses) (fun _ _ => rfl), h (·.cairn) (fun _ _ => rfl),
    h (·.np) (fun _ _ => rfl), h (·.si) (fun _ _ => rfl), h (·.erg) (fun _ _ => rfl), h (·.cv) (fun _ _ => rfl),
    h (·.ts) (fun _ _ => rfl), h (·.sc) (fun _ _ => rfl), h (·.al) (fun _ _ => rfl), h (·.aq) (fun _ _ => rfl),
    h (·.am) (fun _ _ => rfl), h (·.ctrLatch) (fun _ _ => rfl), h (·.nor) (fun _ _ => rfl), h (·.out) (fun _ _ => rfl),
    h (·.freeCtr) (fun _ _ => rfl), h (·.pending) (fun _ _ => rfl)⟩

@[simp] theorem count_frame (a : Nat) (s : State) :
    (count a s).hi = s.hi ∧ (count a s).cfg = s.cfg ∧ (count a s).tm = s.tm ∧ (count a s).ec = s.ec ∧
    (count a s).ev = s.ev ∧ (count a s).pm = s.pm ∧ (count a s).ck = s.ck ∧ (count a s).jtag = s.jtag ∧
    (count a s).pins = s.pins ∧ (count a s).ov = s.ov ∧ (count a s).fuses = s.fuses ∧ (count a s).cairn = s.cairn ∧
    (count a s).np = s.np ∧ (count a s).si = s.si ∧ (count a s).erg = s.erg ∧ (count a s).cv = s.cv ∧
    (count a s).ts = s.ts ∧ (count a s).sc = s.sc ∧ (count a s).al = s.al ∧ (count a s).aq = s.aq ∧
    (count a s).am = s.am ∧ (count a s).ctrLatch = s.ctrLatch ∧ (count a s).nor = s.nor ∧ (count a s).out = s.out ∧
    (count a s).freeCtr = s.freeCtr ∧ (count a s).pending = s.pending := by
  have h := fun {β : Type} (ρ : State → β) hρ => count_look ρ hρ a s
  exact ⟨h (·.hi) (fun _ _ => rfl), h (·.cfg) (fun _ _ => rfl), h (·.tm) (fun _ _ => rfl), h (·.ec) (fun _ _ => rfl),
    h (·.ev) (fun _ _ => rfl), h (·.pm) (fun _ _ => rfl), h (·.ck) (fun _ _ => rfl), h (·.jtag) (fun _ _ => rfl),
    h (·.pins) (fun _ _ => rfl), h (·.ov) (fun _ _ => rfl), h (·.fuses) (fun _ _ => rfl), h (·.cairn) (fun _ _ => rfl),
    h (·.np) (fun _ _ => rfl), h (·.si) (fun _ _ => rfl), h (·.erg) (fun _ _ => rfl), h (·.cv) (fun _ _ => rfl),
    h (·.ts) (fun _ _ => rfl), h (·.sc) (fun _ _ => rfl), h (·.al) (fun _ _ => rfl), h (·.aq) (fun _ _ => rfl),
    h (·.am) (fun _ _ => rfl), h (·.ctrLatch) (fun _ _ => rfl), h (·.nor) (fun _ _ => rfl), h (·.out) (fun _ _ => rfl),
    h (·.freeCtr) (fun _ _ => rfl), h (·.pending) (fun _ _ => rfl)⟩

@[simp] theorem report_frame (source code severity arg : Nat) (ext : Option (List Nat)) (s : State) :
    (report source code severity arg ext s).cfg = s.cfg ∧ (report source code severity arg ext s).tm = s.tm ∧
    (report source code severity arg ext s).ec = s.ec ∧ (report source code severity arg ext s).pm = s.pm ∧
    (report source code severity arg ext s).ck = s.ck ∧ (report source code severity arg ext s).jtag = s.jtag ∧
    (report source code severity arg ext s).pins = s.pins ∧ (report source code severity arg ext s).ov = s.ov ∧
    (report source code severity arg ext s).fuses = s.fuses ∧ (report source code severity arg ext s).cairn = s.cairn ∧
    (report source code severity arg ext s).np = s.np ∧ (report source code severity arg ext s).si = s.si ∧
    (report source code severity arg ext s).erg = s.erg ∧ (report source code severity arg ext s).cv = s.cv ∧
    (report source code severity arg ext s).ts = s.ts ∧ (report source code severity arg ext s).sc = s.sc ∧
    (report source code severity arg ext s).al = s.al ∧ (report source code severity arg ext s).aq = s.aq ∧
    (report source code severity arg ext s).am = s.am ∧ (report source code severity arg ext s).ctrLatch = s.ctrLatch ∧
    (report source code severity arg ext s).nor = s.nor ∧ (report source code severity arg ext s).freeCtr = s.freeCtr ∧
    (report source code severity arg ext s).pending = s.pending := by
  have h := fun {β : Type} (ρ : State → β) hρ => report_look ρ hρ source code severity arg ext s
  exact ⟨h (·.cfg) (fun _ _ _ _ _ => rfl), h (·.tm) (fun _ _ _ _ _ => rfl), h (·.ec) (fun _ _ _ _ _ => rfl),
    h (·.pm) (fun _ _ _ _ _ => rfl), h (·.ck) (fun _ _ _ _ _ => rfl), h (·.jtag) (fun _ _ _ _ _ => rfl),
    h (·.pins) (fun _ _ _ _ _ => rfl), h (·.ov) (fun _ _ _ _ _ => rfl), h (·.fuses) (fun _ _ _ _ _ => rfl),
    h (·.cairn) (fun _ _ _ _ _ => rfl), h (·.np) (fun _ _ _ _ _ => rfl), h (·.si) (fun _ _ _ _ _ => rfl),
    h (·.erg) (fun _ _ _ _ _ => rfl), h (·.cv) (fun _ _ _ _ _ => rfl), h (·.ts) (fun _ _ _ _ _ => rfl),
    h (·.sc) (fun _ _ _ _ _ => rfl), h (·.al) (fun _ _ _ _ _ => rfl), h (·.aq) (fun _ _ _ _ _ => rfl),
    h (·.am) (fun _ _ _ _ _ => rfl), h (·.ctrLatch) (fun _ _ _ _ _ => rfl), h (·.nor) (fun _ _ _ _ _ => rfl),
    h (·.freeCtr) (fun _ _ _ _ _ => rfl), h (·.pending) (fun _ _ _ _ _ => rfl)⟩

@[simp] theorem notify_frame (q source code severity arg : Nat) (s : State) :
    (notify q source code severity arg s).cfg = s.cfg ∧ (notify q source code severity arg s).tm = s.tm ∧
    (notify q source code severity arg s).ec = s.ec ∧ (notify q source code severity arg s).ev = s.ev ∧
    (notify q source code severity arg s).pm = s.pm ∧ (notify q source code severity arg s).ck = s.ck ∧
    (notify q source code severity arg s).jtag = s.jtag ∧ (notify q source code severity arg s).pins = s.pins ∧
    (notify q source code severity arg s).ov = s.ov ∧ (notify q source code severity arg s).fuses = s.fuses ∧
    (notify q source code severity arg s).cairn = s.cairn ∧ (notify q source code severity arg s).np = s.np ∧
    (notify q source code severity arg s).si = s.si ∧ (notify q source code severity arg s).erg = s.erg ∧
    (notify q source code severity arg s).cv = s.cv ∧ (notify q source code severity arg s).ts = s.ts ∧
    (notify q source code severity arg s).sc = s.sc ∧ (notify q source code severity arg s).al = s.al ∧
    (notify q source code severity arg s).aq = s.aq ∧ (notify q source code severity arg s).am = s.am ∧
    (notify q source code severity arg s).counters = s.counters ∧
    (notify q source code severity arg s).ctrLatch = s.ctrLatch ∧ (notify q source code severity arg s).nor = s.nor ∧
    (notify q source code severity arg s).freeCtr = s.freeCtr ∧
    (notify q source code severity arg s).pending = s.pending := by
  have h := fun {β : Type} (ρ : State → β) hρ => notify_look ρ hρ q source code severity arg s
  exact ⟨h (·.cfg) (fun _ _ _ => rfl), h (·.tm) (fun _ _ _ => rfl), h (·.ec) (fun _ _ _ => rfl),
    h (·.ev) (fun _ _ _ => rfl), h (·.pm) (fun _ _ _ => rfl), h (·.ck) (fun _ _ _ => rfl),
    h (·.jtag) (fun _ _ _ => rfl), h (·.pins) (fun _ _ _ => rfl), h (·.ov) (fun _ _ _ => rfl),
    h (·.fuses) (fun _ _ _ => rfl), h (·.cairn) (fun _ _ _ => rfl), h (·.np) (fun _ _ _ => rfl),
    h (·.si) (fun _ _ _ => rfl), h (·.erg) (fun _ _ _ => rfl), h (·.cv) (fun _ _ _ => rfl),
    h (·.ts) (fun _ _ _ => rfl), h (·.sc) (fun _ _ _ => rfl), h (·.al) (fun _ _ _ => rfl), h (·.aq) (fun _ _ _ => rfl),
    h (·.am) (fun _ _ _ => rfl), h (·.counters) (fun _ _ _ => rfl), h (·.ctrLatch) (fun _ _ _ => rfl),
    h (·.nor) (fun _ _ _ => rfl), h (·.freeCtr) (fun _ _ _ => rfl), h (·.pending) (fun _ _ _ => rfl)⟩

@[simp] theorem setNq_frame (q : Nat) (n : Nq) (s : State) :
    (setNq q n s).cfg = s.cfg ∧ (setNq q n s).tm = s.tm ∧ (setNq q n s).ec = s.ec ∧ (setNq q n s).ev = s.ev ∧
    (setNq q n s).pm = s.pm ∧ (setNq q n s).ck = s.ck ∧ (setNq q n s).jtag = s.jtag ∧ (setNq q n s).pins = s.pins ∧
    (setNq q n s).ov = s.ov ∧ (setNq q n s).fuses = s.fuses ∧ (setNq q n s).cairn = s.cairn ∧ (setNq q n s).np = s.np ∧
    (setNq q n s).si = s.si ∧ (setNq q n s).erg = s.erg ∧ (setNq q n s).cv = s.cv ∧ (setNq q n s).ts = s.ts ∧
    (setNq q n s).sc = s.sc ∧ (setNq q n s).al = s.al ∧ (setNq q n s).aq = s.aq ∧ (setNq q n s).am = s.am ∧
    (setNq q n s).counters = s.counters ∧ (setNq q n s).ctrLatch = s.ctrLatch ∧ (setNq q n s).nor = s.nor ∧
    (setNq q n s).out = s.out ∧ (setNq q n s).freeCtr = s.freeCtr ∧ (setNq q n s).pending = s.pending := by
  have h := fun {β : Type} (ρ : State → β) hρ => setNq_look ρ hρ q n s
  exact ⟨h (·.cfg) (fun _ _ => rfl), h (·.tm) (fun _ _ => rfl), h (·.ec) (fun _ _ => rfl), h (·.ev) (fun _ _ => rfl),
    h (·.pm) (fun _ _ => rfl), h (·.ck) (fun _ _ => rfl), h (·.jtag) (fun _ _ => rfl), h (·.pins) (fun _ _ => rfl),
    h (·.ov) (fun _ _ => rfl), h (·.fuses) (fun _ _ => rfl), h (·.cairn) (fun _ _ => rfl), h (·.np) (fun _ _ => rfl),
    h (·.si) (fun _ _ => rfl), h (·.erg) (fun _ _ => rfl), h (·.cv) (fun _ _ => rfl), h (·.ts) (fun _ _ => rfl),
    h (·.sc) (fun _ _ => rfl), h (·.al) (fun _ _ => rfl), h (·.aq) (fun _ _ => rfl), h (·.am) (fun _ _ => rfl),
    h (·.counters) (fun _ _ => rfl), h (·.ctrLatch) (fun _ _ => rfl), h (·.nor) (fun _ _ => rfl),
    h (·.out) (fun _ _ => rfl), h (·.freeCtr) (fun _ _ => rfl), h (·.pending) (fun _ _ => rfl)⟩

@[simp] theorem setRing_frame (n : Nat) (r : Ring) (s : State) :
    (setRing n r s).cfg = s.cfg ∧ (setRing n r s).tm = s.tm ∧ (setRing n r s).ec = s.ec ∧ (setRing n r s).ev = s.ev ∧
    (setRing n r s).pm = s.pm ∧ (setRing n r s).ck = s.ck ∧ (setRing n r s).jtag = s.jtag ∧
    (setRing n r s).pins = s.pins ∧ (setRing n r s).ov = s.ov ∧ (setRing n r s).fuses = s.fuses ∧
    (setRing n r s).cairn = s.cairn ∧ (setRing n r s).np = s.np ∧ (setRing n r s).si = s.si ∧
    (setRing n r s).erg = s.erg ∧ (setRing n r s).cv = s.cv ∧ (setRing n r s).ts = s.ts ∧ (setRing n r s).sc = s.sc ∧
    (setRing n r s).al = s.al ∧ (setRing n r s).aq = s.aq ∧ (setRing n r s).am = s.am ∧
    (setRing n r s).counters = s.counters ∧ (setRing n r s).ctrLatch = s.ctrLatch ∧ (setRing n r s).nor = s.nor ∧
    (setRing n r s).out = s.out ∧ (setRing n r s).freeCtr = s.freeCtr ∧ (setRing n r s).pending = s.pending := by
  have h := fun {β : Type} (ρ : State → β) hρ => setRing_look ρ hρ n r s
  exact ⟨h (·.cfg) (fun _ _ => rfl), h (·.tm) (fun _ _ => rfl), h (·.ec) (fun _ _ => rfl), h (·.ev) (fun _ _ => rfl),
    h (·.pm) (fun _ _ => rfl), h (·.ck) (fun _ _ => rfl), h (·.jtag) (fun _ _ => rfl), h (·.pins) (fun _ _ => rfl),
    h (·.ov) (fun _ _ => rfl), h (·.fuses) (fun _ _ => rfl), h (·.cairn) (fun _ _ => rfl), h (·.np) (fun _ _ => rfl),
    h (·.si) (fun _ _ => rfl), h (·.erg) (fun _ _ => rfl), h (·.cv) (fun _ _ => rfl), h (·.ts) (fun _ _ => rfl),
    h (·.sc) (fun _ _ => rfl), h (·.al) (fun _ _ => rfl), h (·.aq) (fun _ _ => rfl), h (·.am) (fun _ _ => rfl),
    h (·.counters) (fun _ _ => rfl), h (·.ctrLatch) (fun _ _ => rfl), h (·.nor) (fun _ _ => rfl),
    h (·.out) (fun _ _ => rfl), h (·.freeCtr) (fun _ _ => rfl), h (·.pending) (fun _ _ => rfl)⟩

@[simp] theorem writeRecord_frame (src : Src) (r : Record) (fires : Bool) (s : State) :
    (writeRecord src r fires s).cfg = s.cfg ∧ (writeRecord src r fires s).tm = s.tm ∧
    (writeRecord src r fires s).ec = s.ec ∧ (writeRecord src r fires s).ev = s.ev ∧
    (writeRecord src r fires s).pm = s.pm ∧ (writeRecord src r fires s).ck = s.ck ∧
    (writeRecord src r fires s).jtag = s.jtag ∧ (writeRecord src r fires s).pins = s.pins ∧
    (writeRecord src r fires s).ov = s.ov ∧ (writeRecord src r fires s).fuses = s.fuses ∧
    (writeRecord src r fires s).cairn = s.cairn ∧ (writeRecord src r fires s).np = s.np ∧
    (writeRecord src r fires s).si = s.si ∧ (writeRecord src r fires s).erg = s.erg ∧
    (writeRecord src r fires s).cv = s.cv ∧ (writeRecord src r fires s).ts = s.ts ∧
    (writeRecord src r fires s).sc = s.sc ∧ (writeRecord src r fires s).al = s.al ∧
    (writeRecord src r fires s).aq = s.aq ∧ (writeRecord src r fires s).am = s.am ∧
    (writeRecord src r fires s).counters = s.counters ∧ (writeRecord src r fires s).ctrLatch = s.ctrLatch ∧
    (writeRecord src r fires s).nor = s.nor ∧ (writeRecord src r fires s).freeCtr = s.freeCtr ∧
    (writeRecord src r fires s).pending = s.pending := by
  have h := fun {β : Type} (ρ : State → β) hρ => writeRecord_look ρ hρ src r fires s
  exact ⟨h (·.cfg) (fun _ _ _ => rfl), h (·.tm) (fun _ _ _ => rfl), h (·.ec) (fun _ _ _ => rfl),
    h (·.ev) (fun _ _ _ => rfl), h (·.pm) (fun _ _ _ => rfl), h (·.ck) (fun _ _ _ => rfl),
    h (·.jtag) (fun _ _ _ => rfl), h (·.pins) (fun _ _ _ => rfl), h (·.ov) (fun _ _ _ => rfl),
    h (·.fuses) (fun _ _ _ => rfl), h (·.cairn) (fun _ _ _ => rfl), h (·.np) (fun _ _ _ => rfl),
    h (·.si) (fun _ _ _ => rfl), h (·.erg) (fun _ _ _ => rfl), h (·.cv) (fun _ _ _ => rfl),
    h (·.ts) (fun _ _ _ => rfl), h (·.sc) (fun _ _ _ => rfl), h (·.al) (fun _ _ _ => rfl), h (·.aq) (fun _ _ _ => rfl),
    h (·.am) (fun _ _ _ => rfl), h (·.counters) (fun _ _ _ => rfl), h (·.ctrLatch) (fun _ _ _ => rfl),
    h (·.nor) (fun _ _ _ => rfl), h (·.freeCtr) (fun _ _ _ => rfl), h (·.pending) (fun _ _ _ => rfl)⟩

@[simp] theorem drainRing_frame (n : Nat) (x0 : Nat) (s : State) :
    (drainRing n x0 s).cfg = s.cfg ∧ (drainRing n x0 s).tm = s.tm ∧ (drainRing n x0 s).ec = s.ec ∧
    (drainRing n x0 s).ev = s.ev ∧ (drainRing n x0 s).pm = s.pm ∧ (drainRing n x0 s).ck = s.ck ∧
    (drainRing n x0 s).jtag = s.jtag ∧ (drainRing n x0 s).pins = s.pins ∧ (drainRing n x0 s).ov = s.ov ∧
    (drainRing n x0 s).fuses = s.fuses ∧ (drainRing n x0 s).cairn = s.cairn ∧ (drainRing n x0 s).np = s.np ∧
    (drainRing n x0 s).si = s.si ∧ (drainRing n x0 s).erg = s.erg ∧ (drainRing n x0 s).cv = s.cv ∧
    (drainRing n x0 s).ts = s.ts ∧ (drainRing n x0 s).sc = s.sc ∧ (drainRing n x0 s).al = s.al ∧
    (drainRing n x0 s).aq = s.aq ∧ (drainRing n x0 s).am = s.am ∧ (drainRing n x0 s).counters = s.counters ∧
    (drainRing n x0 s).ctrLatch = s.ctrLatch ∧ (drainRing n x0 s).nor = s.nor ∧
    (drainRing n x0 s).freeCtr = s.freeCtr ∧ (drainRing n x0 s).pending = s.pending := by
  have h := fun {β : Type} (ρ : State → β) hρ => drainRing_look ρ hρ n x0 s
  exact ⟨h (·.cfg) (fun _ _ _ => rfl), h (·.tm) (fun _ _ _ => rfl), h (·.ec) (fun _ _ _ => rfl),
    h (·.ev) (fun _ _ _ => rfl), h (·.pm) (fun _ _ _ => rfl), h (·.ck) (fun _ _ _ => rfl),
    h (·.jtag) (fun _ _ _ => rfl), h (·.pins) (fun _ _ _ => rfl), h (·.ov) (fun _ _ _ => rfl),
    h (·.fuses) (fun _ _ _ => rfl), h (·.cairn) (fun _ _ _ => rfl), h (·.np) (fun _ _ _ => rfl),
    h (·.si) (fun _ _ _ => rfl), h (·.erg) (fun _ _ _ => rfl), h (·.cv) (fun _ _ _ => rfl),
    h (·.ts) (fun _ _ _ => rfl), h (·.sc) (fun _ _ _ => rfl), h (·.al) (fun _ _ _ => rfl), h (·.aq) (fun _ _ _ => rfl),
    h (·.am) (fun _ _ _ => rfl), h (·.counters) (fun _ _ _ => rfl), h (·.ctrLatch) (fun _ _ _ => rfl),
    h (·.nor) (fun _ _ _ => rfl), h (·.freeCtr) (fun _ _ _ => rfl), h (·.pending) (fun _ _ _ => rfl)⟩

@[simp] theorem firstCompletion_frame (h : Hdr) (dead : Bool) (handle status : Nat) (result : List Nat) (s : State) :
    (firstCompletion h dead handle status result s).cfg = s.cfg ∧
    (firstCompletion h dead handle status result s).tm = s.tm ∧
    (firstCompletion h dead handle status result s).ec = s.ec ∧
    (firstCompletion h dead handle status result s).ev = s.ev ∧
    (firstCompletion h dead handle status result s).pm = s.pm ∧
    (firstCompletion h dead handle status result s).ck = s.ck ∧
    (firstCompletion h dead handle status result s).jtag = s.jtag ∧
    (firstCompletion h dead handle status result s).pins = s.pins ∧
    (firstCompletion h dead handle status result s).ov = s.ov ∧
    (firstCompletion h dead handle status result s).fuses = s.fuses ∧
    (firstCompletion h dead handle status result s).cairn = s.cairn ∧
    (firstCompletion h dead handle status result s).np = s.np ∧
    (firstCompletion h dead handle status result s).si = s.si ∧
    (firstCompletion h dead handle status result s).erg = s.erg ∧
    (firstCompletion h dead handle status result s).cv = s.cv ∧
    (firstCompletion h dead handle status result s).ts = s.ts ∧
    (firstCompletion h dead handle status result s).sc = s.sc ∧
    (firstCompletion h dead handle status result s).al = s.al ∧
    (firstCompletion h dead handle status result s).aq = s.aq ∧
    (firstCompletion h dead handle status result s).am = s.am ∧
    (firstCompletion h dead handle status result s).counters = s.counters ∧
    (firstCompletion h dead handle status result s).ctrLatch = s.ctrLatch ∧
    (firstCompletion h dead handle status result s).nor = s.nor ∧
    (firstCompletion h dead handle status result s).freeCtr = s.freeCtr ∧
    (firstCompletion h dead handle status result s).pending = s.pending := by
  have h := fun {β : Type} (ρ : State → β) hρ => firstCompletion_look ρ hρ h dead handle status result s
  exact ⟨h (·.cfg) (fun _ _ _ => rfl), h (·.tm) (fun _ _ _ => rfl), h (·.ec) (fun _ _ _ => rfl),
    h (·.ev) (fun _ _ _ => rfl), h (·.pm) (fun _ _ _ => rfl), h (·.ck) (fun _ _ _ => rfl),
    h (·.jtag) (fun _ _ _ => rfl), h (·.pins) (fun _ _ _ => rfl), h (·.ov) (fun _ _ _ => rfl),
    h (·.fuses) (fun _ _ _ => rfl), h (·.cairn) (fun _ _ _ => rfl), h (·.np) (fun _ _ _ => rfl),
    h (·.si) (fun _ _ _ => rfl), h (·.erg) (fun _ _ _ => rfl), h (·.cv) (fun _ _ _ => rfl),
    h (·.ts) (fun _ _ _ => rfl), h (·.sc) (fun _ _ _ => rfl), h (·.al) (fun _ _ _ => rfl), h (·.aq) (fun _ _ _ => rfl),
    h (·.am) (fun _ _ _ => rfl), h (·.counters) (fun _ _ _ => rfl), h (·.ctrLatch) (fun _ _ _ => rfl),
    h (·.nor) (fun _ _ _ => rfl), h (·.freeCtr) (fun _ _ _ => rfl), h (·.pending) (fun _ _ _ => rfl)⟩

@[simp] theorem takeHead_frame (src : Src) (s : State) :
    (takeHead src s).cfg = s.cfg ∧ (takeHead src s).tm = s.tm ∧ (takeHead src s).ec = s.ec ∧
    (takeHead src s).ev = s.ev ∧ (takeHead src s).pm = s.pm ∧ (takeHead src s).ck = s.ck ∧
    (takeHead src s).jtag = s.jtag ∧ (takeHead src s).pins = s.pins ∧ (takeHead src s).ov = s.ov ∧
    (takeHead src s).fuses = s.fuses ∧ (takeHead src s).cairn = s.cairn ∧ (takeHead src s).np = s.np ∧
    (takeHead src s).si = s.si ∧ (takeHead src s).erg = s.erg ∧ (takeHead src s).cv = s.cv ∧
    (takeHead src s).ts = s.ts ∧ (takeHead src s).sc = s.sc ∧ (takeHead src s).al = s.al ∧ (takeHead src s).aq = s.aq ∧
    (takeHead src s).am = s.am ∧ (takeHead src s).counters = s.counters ∧ (takeHead src s).ctrLatch = s.ctrLatch ∧
    (takeHead src s).nor = s.nor ∧ (takeHead src s).out = s.out ∧ (takeHead src s).freeCtr = s.freeCtr ∧
    (takeHead src s).pending = s.pending := by
  have h := fun {β : Type} (ρ : State → β) hρ => takeHead_look ρ hρ src s
  exact ⟨h (·.cfg) (fun _ _ => rfl), h (·.tm) (fun _ _ => rfl), h (·.ec) (fun _ _ => rfl), h (·.ev) (fun _ _ => rfl),
    h (·.pm) (fun _ _ => rfl), h (·.ck) (fun _ _ => rfl), h (·.jtag) (fun _ _ => rfl), h (·.pins) (fun _ _ => rfl),
    h (·.ov) (fun _ _ => rfl), h (·.fuses) (fun _ _ => rfl), h (·.cairn) (fun _ _ => rfl), h (·.np) (fun _ _ => rfl),
    h (·.si) (fun _ _ => rfl), h (·.erg) (fun _ _ => rfl), h (·.cv) (fun _ _ => rfl), h (·.ts) (fun _ _ => rfl),
    h (·.sc) (fun _ _ => rfl), h (·.al) (fun _ _ => rfl), h (·.aq) (fun _ _ => rfl), h (·.am) (fun _ _ => rfl),
    h (·.counters) (fun _ _ => rfl), h (·.ctrLatch) (fun _ _ => rfl), h (·.nor) (fun _ _ => rfl),
    h (·.out) (fun _ _ => rfl), h (·.freeCtr) (fun _ _ => rfl), h (·.pending) (fun _ _ => rfl)⟩

@[simp] theorem openHandle_frame (h : Hdr) (dead : Bool) (opcode : Nat) (cmd : Instr) (phase : Phase) (s : State) :
    (openHandle h dead opcode cmd phase s).cfg = s.cfg ∧ (openHandle h dead opcode cmd phase s).tm = s.tm ∧
    (openHandle h dead opcode cmd phase s).ec = s.ec ∧ (openHandle h dead opcode cmd phase s).ev = s.ev ∧
    (openHandle h dead opcode cmd phase s).pm = s.pm ∧ (openHandle h dead opcode cmd phase s).ck = s.ck ∧
    (openHandle h dead opcode cmd phase s).jtag = s.jtag ∧ (openHandle h dead opcode cmd phase s).pins = s.pins ∧
    (openHandle h dead opcode cmd phase s).ov = s.ov ∧ (openHandle h dead opcode cmd phase s).fuses = s.fuses ∧
    (openHandle h dead opcode cmd phase s).cairn = s.cairn ∧ (openHandle h dead opcode cmd phase s).np = s.np ∧
    (openHandle h dead opcode cmd phase s).si = s.si ∧ (openHandle h dead opcode cmd phase s).erg = s.erg ∧
    (openHandle h dead opcode cmd phase s).cv = s.cv ∧ (openHandle h dead opcode cmd phase s).ts = s.ts ∧
    (openHandle h dead opcode cmd phase s).sc = s.sc ∧ (openHandle h dead opcode cmd phase s).al = s.al ∧
    (openHandle h dead opcode cmd phase s).aq = s.aq ∧ (openHandle h dead opcode cmd phase s).am = s.am ∧
    (openHandle h dead opcode cmd phase s).counters = s.counters ∧
    (openHandle h dead opcode cmd phase s).ctrLatch = s.ctrLatch ∧ (openHandle h dead opcode cmd phase s).nor = s.nor ∧
    (openHandle h dead opcode cmd phase s).out = s.out ∧ (openHandle h dead opcode cmd phase s).freeCtr = s.freeCtr ∧
    (openHandle h dead opcode cmd phase s).pending = s.pending := by
  have h := fun {β : Type} (ρ : State → β) hρ => openHandle_look ρ hρ h dead opcode cmd phase s
  exact ⟨h (·.cfg) (fun _ _ => rfl), h (·.tm) (fun _ _ => rfl), h (·.ec) (fun _ _ => rfl), h (·.ev) (fun _ _ => rfl),
    h (·.pm) (fun _ _ => rfl), h (·.ck) (fun _ _ => rfl), h (·.jtag) (fun _ _ => rfl), h (·.pins) (fun _ _ => rfl),
    h (·.ov) (fun _ _ => rfl), h (·.fuses) (fun _ _ => rfl), h (·.cairn) (fun _ _ => rfl), h (·.np) (fun _ _ => rfl),
    h (·.si) (fun _ _ => rfl), h (·.erg) (fun _ _ => rfl), h (·.cv) (fun _ _ => rfl), h (·.ts) (fun _ _ => rfl),
    h (·.sc) (fun _ _ => rfl), h (·.al) (fun _ _ => rfl), h (·.aq) (fun _ _ => rfl), h (·.am) (fun _ _ => rfl),
    h (·.counters) (fun _ _ => rfl), h (·.ctrLatch) (fun _ _ => rfl), h (·.nor) (fun _ _ => rfl),
    h (·.out) (fun _ _ => rfl), h (·.freeCtr) (fun _ _ => rfl), h (·.pending) (fun _ _ => rfl)⟩

@[simp] theorem updOp_frame (handle : Nat) (f : OpEntry → OpEntry) (s : State) :
    (updOp handle f s).cfg = s.cfg ∧ (updOp handle f s).tm = s.tm ∧ (updOp handle f s).ec = s.ec ∧
    (updOp handle f s).ev = s.ev ∧ (updOp handle f s).pm = s.pm ∧ (updOp handle f s).ck = s.ck ∧
    (updOp handle f s).jtag = s.jtag ∧ (updOp handle f s).pins = s.pins ∧ (updOp handle f s).ov = s.ov ∧
    (updOp handle f s).fuses = s.fuses ∧ (updOp handle f s).cairn = s.cairn ∧ (updOp handle f s).np = s.np ∧
    (updOp handle f s).si = s.si ∧ (updOp handle f s).erg = s.erg ∧ (updOp handle f s).cv = s.cv ∧
    (updOp handle f s).ts = s.ts ∧ (updOp handle f s).sc = s.sc ∧ (updOp handle f s).al = s.al ∧
    (updOp handle f s).aq = s.aq ∧ (updOp handle f s).am = s.am ∧ (updOp handle f s).counters = s.counters ∧
    (updOp handle f s).ctrLatch = s.ctrLatch ∧ (updOp handle f s).nor = s.nor ∧ (updOp handle f s).out = s.out ∧
    (updOp handle f s).freeCtr = s.freeCtr ∧ (updOp handle f s).pending = s.pending := by
  have h := fun {β : Type} (ρ : State → β) hρ => updOp_look ρ hρ handle f s
  exact ⟨h (·.cfg) (fun _ _ => rfl), h (·.tm) (fun _ _ => rfl), h (·.ec) (fun _ _ => rfl), h (·.ev) (fun _ _ => rfl),
    h (·.pm) (fun _ _ => rfl), h (·.ck) (fun _ _ => rfl), h (·.jtag) (fun _ _ => rfl), h (·.pins) (fun _ _ => rfl),
    h (·.ov) (fun _ _ => rfl), h (·.fuses) (fun _ _ => rfl), h (·.cairn) (fun _ _ => rfl), h (·.np) (fun _ _ => rfl),
    h (·.si) (fun _ _ => rfl), h (·.erg) (fun _ _ => rfl), h (·.cv) (fun _ _ => rfl), h (·.ts) (fun _ _ => rfl),
    h (·.sc) (fun _ _ => rfl), h (·.al) (fun _ _ => rfl), h (·.aq) (fun _ _ => rfl), h (·.am) (fun _ _ => rfl),
    h (·.counters) (fun _ _ => rfl), h (·.ctrLatch) (fun _ _ => rfl), h (·.nor) (fun _ _ => rfl),
    h (·.out) (fun _ _ => rfl), h (·.freeCtr) (fun _ _ => rfl), h (·.pending) (fun _ _ => rfl)⟩

@[simp] theorem note_frame (q source code severity arg : Nat) (s : State) :
    (note q source code severity arg s).cfg = s.cfg ∧ (note q source code severity arg s).tm = s.tm ∧
    (note q source code severity arg s).ec = s.ec ∧ (note q source code severity arg s).pm = s.pm ∧
    (note q source code severity arg s).ck = s.ck ∧ (note q source code severity arg s).jtag = s.jtag ∧
    (note q source code severity arg s).pins = s.pins ∧ (note q source code severity arg s).ov = s.ov ∧
    (note q source code severity arg s).fuses = s.fuses ∧ (note q source code severity arg s).cairn = s.cairn ∧
    (note q source code severity arg s).np = s.np ∧ (note q source code severity arg s).si = s.si ∧
    (note q source code severity arg s).erg = s.erg ∧ (note q source code severity arg s).cv = s.cv ∧
    (note q source code severity arg s).ts = s.ts ∧ (note q source code severity arg s).sc = s.sc ∧
    (note q source code severity arg s).al = s.al ∧ (note q source code severity arg s).aq = s.aq ∧
    (note q source code severity arg s).am = s.am ∧ (note q source code severity arg s).ctrLatch = s.ctrLatch ∧
    (note q source code severity arg s).nor = s.nor ∧ (note q source code severity arg s).freeCtr = s.freeCtr ∧
    (note q source code severity arg s).pending = s.pending := by
  have h := fun {β : Type} (ρ : State → β) hρ => note_look ρ hρ q source code severity arg s
  exact ⟨h (·.cfg) (fun _ _ _ _ _ => rfl), h (·.tm) (fun _ _ _ _ _ => rfl), h (·.ec) (fun _ _ _ _ _ => rfl),
    h (·.pm) (fun _ _ _ _ _ => rfl), h (·.ck) (fun _ _ _ _ _ => rfl), h (·.jtag) (fun _ _ _ _ _ => rfl),
    h (·.pins) (fun _ _ _ _ _ => rfl), h (·.ov) (fun _ _ _ _ _ => rfl), h (·.fuses) (fun _ _ _ _ _ => rfl),
    h (·.cairn) (fun _ _ _ _ _ => rfl), h (·.np) (fun _ _ _ _ _ => rfl), h (·.si) (fun _ _ _ _ _ => rfl),
    h (·.erg) (fun _ _ _ _ _ => rfl), h (·.cv) (fun _ _ _ _ _ => rfl), h (·.ts) (fun _ _ _ _ _ => rfl),
    h (·.sc) (fun _ _ _ _ _ => rfl), h (·.al) (fun _ _ _ _ _ => rfl), h (·.aq) (fun _ _ _ _ _ => rfl),
    h (·.am) (fun _ _ _ _ _ => rfl), h (·.ctrLatch) (fun _ _ _ _ _ => rfl), h (·.nor) (fun _ _ _ _ _ => rfl),
    h (·.freeCtr) (fun _ _ _ _ _ => rfl), h (·.pending) (fun _ _ _ _ _ => rfl)⟩

@[simp] theorem noteExt_frame (q source code severity arg recArg : Nat) (ext : Option (List Nat)) (s : State) :
    (noteExt q source code severity arg recArg ext s).cfg = s.cfg ∧
    (noteExt q source code severity arg recArg ext s).tm = s.tm ∧
    (noteExt q source code severity arg recArg ext s).ec = s.ec ∧
    (noteExt q source code severity arg recArg ext s).pm = s.pm ∧
    (noteExt q source code severity arg recArg ext s).ck = s.ck ∧
    (noteExt q source code severity arg recArg ext s).jtag = s.jtag ∧
    (noteExt q source code severity arg recArg ext s).pins = s.pins ∧
    (noteExt q source code severity arg recArg ext s).ov = s.ov ∧
    (noteExt q source code severity arg recArg ext s).fuses = s.fuses ∧
    (noteExt q source code severity arg recArg ext s).cairn = s.cairn ∧
    (noteExt q source code severity arg recArg ext s).np = s.np ∧
    (noteExt q source code severity arg recArg ext s).si = s.si ∧
    (noteExt q source code severity arg recArg ext s).erg = s.erg ∧
    (noteExt q source code severity arg recArg ext s).cv = s.cv ∧
    (noteExt q source code severity arg recArg ext s).ts = s.ts ∧
    (noteExt q source code severity arg recArg ext s).sc = s.sc ∧
    (noteExt q source code severity arg recArg ext s).al = s.al ∧
    (noteExt q source code severity arg recArg ext s).aq = s.aq ∧
    (noteExt q source code severity arg recArg ext s).am = s.am ∧
    (noteExt q source code severity arg recArg ext s).ctrLatch = s.ctrLatch ∧
    (noteExt q source code severity arg recArg ext s).nor = s.nor ∧
    (noteExt q source code severity arg recArg ext s).freeCtr = s.freeCtr ∧
    (noteExt q source code severity arg recArg ext s).pending = s.pending := by
  have h := fun {β : Type} (ρ : State → β) hρ => noteExt_look ρ hρ q source code severity arg recArg ext s
  exact ⟨h (·.cfg) (fun _ _ _ _ _ => rfl), h (·.tm) (fun _ _ _ _ _ => rfl), h (·.ec) (fun _ _ _ _ _ => rfl),
    h (·.pm) (fun _ _ _ _ _ => rfl), h (·.ck) (fun _ _ _ _ _ => rfl), h (·.jtag) (fun _ _ _ _ _ => rfl),
    h (·.pins) (fun _ _ _ _ _ => rfl), h (·.ov) (fun _ _ _ _ _ => rfl), h (·.fuses) (fun _ _ _ _ _ => rfl),
    h (·.cairn) (fun _ _ _ _ _ => rfl), h (·.np) (fun _ _ _ _ _ => rfl), h (·.si) (fun _ _ _ _ _ => rfl),
    h (·.erg) (fun _ _ _ _ _ => rfl), h (·.cv) (fun _ _ _ _ _ => rfl), h (·.ts) (fun _ _ _ _ _ => rfl),
    h (·.sc) (fun _ _ _ _ _ => rfl), h (·.al) (fun _ _ _ _ _ => rfl), h (·.aq) (fun _ _ _ _ _ => rfl),
    h (·.am) (fun _ _ _ _ _ => rfl), h (·.ctrLatch) (fun _ _ _ _ _ => rfl), h (·.nor) (fun _ _ _ _ _ => rfl),
    h (·.freeCtr) (fun _ _ _ _ _ => rfl), h (·.pending) (fun _ _ _ _ _ => rfl)⟩

@[simp] theorem finalCompletion_frame (o : OpEntry) (status : Nat) (result : List Nat) (s : State) :
    (finalCompletion o status result s).cfg = s.cfg ∧ (finalCompletion o status result s).tm = s.tm ∧
    (finalCompletion o status result s).ec = s.ec ∧ (finalCompletion o status result s).pm = s.pm ∧
    (finalCompletion o status result s).ck = s.ck ∧ (finalCompletion o status result s).jtag = s.jtag ∧
    (finalCompletion o status result s).pins = s.pins ∧ (finalCompletion o status result s).ov = s.ov ∧
    (finalCompletion o status result s).fuses = s.fuses ∧ (finalCompletion o status result s).cairn = s.cairn ∧
    (finalCompletion o status result s).np = s.np ∧ (finalCompletion o status result s).si = s.si ∧
    (finalCompletion o status result s).erg = s.erg ∧ (finalCompletion o status result s).cv = s.cv ∧
    (finalCompletion o status result s).ts = s.ts ∧ (finalCompletion o status result s).sc = s.sc ∧
    (finalCompletion o status result s).al = s.al ∧ (finalCompletion o status result s).aq = s.aq ∧
    (finalCompletion o status result s).am = s.am ∧ (finalCompletion o status result s).ctrLatch = s.ctrLatch ∧
    (finalCompletion o status result s).nor = s.nor ∧ (finalCompletion o status result s).freeCtr = s.freeCtr ∧
    (finalCompletion o status result s).pending = s.pending := by
  have h := fun {β : Type} (ρ : State → β) hρ => finalCompletion_look ρ hρ o status result s
  exact ⟨h (·.cfg) (fun _ _ _ _ _ => rfl), h (·.tm) (fun _ _ _ _ _ => rfl), h (·.ec) (fun _ _ _ _ _ => rfl),
    h (·.pm) (fun _ _ _ _ _ => rfl), h (·.ck) (fun _ _ _ _ _ => rfl), h (·.jtag) (fun _ _ _ _ _ => rfl),
    h (·.pins) (fun _ _ _ _ _ => rfl), h (·.ov) (fun _ _ _ _ _ => rfl), h (·.fuses) (fun _ _ _ _ _ => rfl),
    h (·.cairn) (fun _ _ _ _ _ => rfl), h (·.np) (fun _ _ _ _ _ => rfl), h (·.si) (fun _ _ _ _ _ => rfl),
    h (·.erg) (fun _ _ _ _ _ => rfl), h (·.cv) (fun _ _ _ _ _ => rfl), h (·.ts) (fun _ _ _ _ _ => rfl),
    h (·.sc) (fun _ _ _ _ _ => rfl), h (·.al) (fun _ _ _ _ _ => rfl), h (·.aq) (fun _ _ _ _ _ => rfl),
    h (·.am) (fun _ _ _ _ _ => rfl), h (·.ctrLatch) (fun _ _ _ _ _ => rfl), h (·.nor) (fun _ _ _ _ _ => rfl),
    h (·.freeCtr) (fun _ _ _ _ _ => rfl), h (·.pending) (fun _ _ _ _ _ => rfl)⟩

@[simp] theorem authFailure_frame (h : Hdr) (c : CmdSpec) (s : State) :
    (authFailure h c s).cfg = s.cfg ∧ (authFailure h c s).tm = s.tm ∧ (authFailure h c s).ec = s.ec ∧
    (authFailure h c s).pm = s.pm ∧ (authFailure h c s).ck = s.ck ∧ (authFailure h c s).jtag = s.jtag ∧
    (authFailure h c s).pins = s.pins ∧ (authFailure h c s).fuses = s.fuses ∧ (authFailure h c s).cairn = s.cairn ∧
    (authFailure h c s).np = s.np ∧ (authFailure h c s).si = s.si ∧ (authFailure h c s).erg = s.erg ∧
    (authFailure h c s).cv = s.cv ∧ (authFailure h c s).ts = s.ts ∧ (authFailure h c s).sc = s.sc ∧
    (authFailure h c s).al = s.al ∧ (authFailure h c s).aq = s.aq ∧ (authFailure h c s).am = s.am ∧
    (authFailure h c s).ctrLatch = s.ctrLatch ∧ (authFailure h c s).nor = s.nor ∧
    (authFailure h c s).freeCtr = s.freeCtr ∧ (authFailure h c s).pending = s.pending := by
  have h := fun {β : Type} (ρ : State → β) hρ => authFailure_look ρ hρ h c s
  exact ⟨h (·.cfg) (fun _ _ _ _ _ _ => rfl), h (·.tm) (fun _ _ _ _ _ _ => rfl), h (·.ec) (fun _ _ _ _ _ _ => rfl),
    h (·.pm) (fun _ _ _ _ _ _ => rfl), h (·.ck) (fun _ _ _ _ _ _ => rfl), h (·.jtag) (fun _ _ _ _ _ _ => rfl),
    h (·.pins) (fun _ _ _ _ _ _ => rfl), h (·.fuses) (fun _ _ _ _ _ _ => rfl), h (·.cairn) (fun _ _ _ _ _ _ => rfl),
    h (·.np) (fun _ _ _ _ _ _ => rfl), h (·.si) (fun _ _ _ _ _ _ => rfl), h (·.erg) (fun _ _ _ _ _ _ => rfl),
    h (·.cv) (fun _ _ _ _ _ _ => rfl), h (·.ts) (fun _ _ _ _ _ _ => rfl), h (·.sc) (fun _ _ _ _ _ _ => rfl),
    h (·.al) (fun _ _ _ _ _ _ => rfl), h (·.aq) (fun _ _ _ _ _ _ => rfl), h (·.am) (fun _ _ _ _ _ _ => rfl),
    h (·.ctrLatch) (fun _ _ _ _ _ _ => rfl), h (·.nor) (fun _ _ _ _ _ _ => rfl),
    h (·.freeCtr) (fun _ _ _ _ _ _ => rfl), h (·.pending) (fun _ _ _ _ _ _ => rfl)⟩

@[simp] theorem consumeTag_frame (h : Hdr) (s : State) :
    (consumeTag h s).cfg = s.cfg ∧ (consumeTag h s).tm = s.tm ∧ (consumeTag h s).ec = s.ec ∧
    (consumeTag h s).pm = s.pm ∧ (consumeTag h s).ck = s.ck ∧ (consumeTag h s).jtag = s.jtag ∧
    (consumeTag h s).pins = s.pins ∧ (consumeTag h s).fuses = s.fuses ∧ (consumeTag h s).np = s.np ∧
    (consumeTag h s).si = s.si ∧ (consumeTag h s).erg = s.erg ∧ (consumeTag h s).cv = s.cv ∧
    (consumeTag h s).ts = s.ts ∧ (consumeTag h s).sc = s.sc ∧ (consumeTag h s).al = s.al ∧ (consumeTag h s).aq = s.aq ∧
    (consumeTag h s).am = s.am ∧ (consumeTag h s).ctrLatch = s.ctrLatch ∧ (consumeTag h s).nor = s.nor ∧
    (consumeTag h s).freeCtr = s.freeCtr ∧ (consumeTag h s).pending = s.pending := by
  have h := fun {β : Type} (ρ : State → β) hρ => consumeTag_look ρ hρ h s
  exact ⟨h (·.cfg) (fun _ _ _ _ _ _ _ => rfl), h (·.tm) (fun _ _ _ _ _ _ _ => rfl), h (·.ec) (fun _ _ _ _ _ _ _ => rfl),
    h (·.pm) (fun _ _ _ _ _ _ _ => rfl), h (·.ck) (fun _ _ _ _ _ _ _ => rfl), h (·.jtag) (fun _ _ _ _ _ _ _ => rfl),
    h (·.pins) (fun _ _ _ _ _ _ _ => rfl), h (·.fuses) (fun _ _ _ _ _ _ _ => rfl), h (·.np) (fun _ _ _ _ _ _ _ => rfl),
    h (·.si) (fun _ _ _ _ _ _ _ => rfl), h (·.erg) (fun _ _ _ _ _ _ _ => rfl), h (·.cv) (fun _ _ _ _ _ _ _ => rfl),
    h (·.ts) (fun _ _ _ _ _ _ _ => rfl), h (·.sc) (fun _ _ _ _ _ _ _ => rfl), h (·.al) (fun _ _ _ _ _ _ _ => rfl),
    h (·.aq) (fun _ _ _ _ _ _ _ => rfl), h (·.am) (fun _ _ _ _ _ _ _ => rfl),
    h (·.ctrLatch) (fun _ _ _ _ _ _ _ => rfl), h (·.nor) (fun _ _ _ _ _ _ _ => rfl),
    h (·.freeCtr) (fun _ _ _ _ _ _ _ => rfl), h (·.pending) (fun _ _ _ _ _ _ _ => rfl)⟩

@[simp] theorem turnedAway_frame (h : Hdr) (c : CmdSpec) (s : State) :
    (turnedAway h c s).cfg = s.cfg ∧ (turnedAway h c s).tm = s.tm ∧ (turnedAway h c s).ec = s.ec ∧
    (turnedAway h c s).pm = s.pm ∧ (turnedAway h c s).ck = s.ck ∧ (turnedAway h c s).jtag = s.jtag ∧
    (turnedAway h c s).pins = s.pins ∧ (turnedAway h c s).fuses = s.fuses ∧ (turnedAway h c s).cairn = s.cairn ∧
    (turnedAway h c s).np = s.np ∧ (turnedAway h c s).si = s.si ∧ (turnedAway h c s).erg = s.erg ∧
    (turnedAway h c s).cv = s.cv ∧ (turnedAway h c s).ts = s.ts ∧ (turnedAway h c s).sc = s.sc ∧
    (turnedAway h c s).al = s.al ∧ (turnedAway h c s).aq = s.aq ∧ (turnedAway h c s).am = s.am ∧
    (turnedAway h c s).ctrLatch = s.ctrLatch ∧ (turnedAway h c s).nor = s.nor ∧
    (turnedAway h c s).freeCtr = s.freeCtr ∧ (turnedAway h c s).pending = s.pending := by
  have h := fun {β : Type} (ρ : State → β) hρ => turnedAway_look ρ hρ h c s
  exact ⟨h (·.cfg) (fun _ _ _ _ _ _ => rfl), h (·.tm) (fun _ _ _ _ _ _ => rfl), h (·.ec) (fun _ _ _ _ _ _ => rfl),
    h (·.pm) (fun _ _ _ _ _ _ => rfl), h (·.ck) (fun _ _ _ _ _ _ => rfl), h (·.jtag) (fun _ _ _ _ _ _ => rfl),
    h (·.pins) (fun _ _ _ _ _ _ => rfl), h (·.fuses) (fun _ _ _ _ _ _ => rfl), h (·.cairn) (fun _ _ _ _ _ _ => rfl),
    h (·.np) (fun _ _ _ _ _ _ => rfl), h (·.si) (fun _ _ _ _ _ _ => rfl), h (·.erg) (fun _ _ _ _ _ _ => rfl),
    h (·.cv) (fun _ _ _ _ _ _ => rfl), h (·.ts) (fun _ _ _ _ _ _ => rfl), h (·.sc) (fun _ _ _ _ _ _ => rfl),
    h (·.al) (fun _ _ _ _ _ _ => rfl), h (·.aq) (fun _ _ _ _ _ _ => rfl), h (·.am) (fun _ _ _ _ _ _ => rfl),
    h (·.ctrLatch) (fun _ _ _ _ _ _ => rfl), h (·.nor) (fun _ _ _ _ _ _ => rfl),
    h (·.freeCtr) (fun _ _ _ _ _ _ => rfl), h (·.pending) (fun _ _ _ _ _ _ => rfl)⟩

end Sys2Proof.Machine
end

