-- ==== Sys2Proof/Tests/Slice0.lean ====
section
/-! SUPPORT. The model's own tests: ill-formed operands that the checks refuse, single steps with results from the manual's examples,
and for every statement with hypotheses a state and operands that meet them together. -/

open Sys2Proof Sys2Proof.Machine

set_option Elab.async false
set_option linter.unusedVariables false

namespace Sys2Proof.Tests

/-! ### Ill-formed operands -/

/-- An ill-formed ring number is refused. -/
theorem test_src_ill_formed : (Src.ring 16).wf = false := by decide

theorem test_tag_ill_formed (p : Tag) :
    ({ p with alg := 256 } : Tag).wf = false ∧
    ({ p with keySlot := 256 } : Tag).wf = false ∧
    ({ p with ctr := 2 ^ 32 } : Tag).wf = false := by
  simp [Tag.wf, fits]

theorem test_hdr_ill_formed (p : Hdr) :
    ({ p with stag := 256 } : Hdr).wf = false ∧
    ({ p with plen := 65536 } : Hdr).wf = false ∧
    ({ p with authOfs := 65536 } : Hdr).wf = false ∧
    ({ p with bufAddr := 2 ^ 64 } : Hdr).wf = false ∧
    ({ p with params := [2 ^ 8] } : Hdr).wf = false ∧
    ({ p with src := .ring 16 } : Hdr).wf = false := by
  simp [Hdr.wf, fits, fitsAll, Src.wf]

theorem test_packet_ill_formed (p : Packet) :
    ({ p with bytes := [] } : Packet).wf = false ∧
    ({ p with bytes := [2 ^ 8] } : Packet).wf = false := by
  simp [Packet.wf, fitsAll]

theorem test_dT80_ill_formed (p : DT80) :
    ({ p with sec := 2 ^ 48 } : DT80).wf = false ∧
    ({ p with ns := 2 ^ 30 } : DT80).wf = false := by
  simp [DT80.wf, fits]

theorem test_dT96_ill_formed (p : DT96) :
    ({ p with sec := 2 ^ 48 } : DT96).wf = false ∧
    ({ p with ns := 2 ^ 30 } : DT96).wf = false ∧
    ({ p with frac := 65536 } : DT96).wf = false := by
  simp [DT96.wf, fits]

theorem test_portP_ill_formed (p : PortP) :
    ({ p with port := 256 } : PortP).wf = false ∧
    ({ p with line := 256 } : PortP).wf = false ∧
    ({ p with maxlen := 65536 } : PortP).wf = false ∧
    ({ p with mac := 2 ^ 48 } : PortP).wf = false := by
  simp [PortP.wf, fits]

theorem test_hashP_ill_formed (p : HashP) :
    ({ p with port := 256 } : HashP).wf = false ∧
    ({ p with hsel := 256 } : HashP).wf = false ∧
    ({ p with bcast := 256 } : HashP).wf = false ∧
    ({ p with promisc := 256 } : HashP).wf = false ∧
    ({ p with words := [] } : HashP).wf = false ∧
    ({ p with words := [2 ^ 32] } : HashP).wf = false := by
  simp [HashP.wf, fits, fitsAll]

theorem test_vlanP_ill_formed (p : VlanP) :
    ({ p with port := 256 } : VlanP).wf = false ∧
    ({ p with mode := 256 } : VlanP).wf = false ∧
    ({ p with count := 256 } : VlanP).wf = false ∧
    ({ p with vids := [], count := 1 } : VlanP).wf = false ∧
    ({ p with vids := [2 ^ 16] } : VlanP).wf = false := by
  simp [VlanP.wf, fits, fitsAll]

theorem test_intakeEntry_ill_formed (p : IntakeEntry) :
    ({ p with udp := 65536 } : IntakeEntry).wf = false ∧
    ({ p with en := 256 } : IntakeEntry).wf = false ∧
    ({ p with proto := 256 } : IntakeEntry).wf = false := by
  simp [IntakeEntry.wf, fits]

theorem test_prpP_ill_formed (p : PrpP) :
    ({ p with pair := 256 } : PrpP).wf = false ∧
    ({ p with en := 256 } : PrpP).wf = false ∧
    ({ p with supMs := 65536 } : PrpP).wf = false ∧
    ({ p with forgetMs := 65536 } : PrpP).wf = false := by
  simp [PrpP.wf, fits]

theorem test_macsecP_ill_formed (p : MacsecP) :
    ({ p with port := 256 } : MacsecP).wf = false ∧
    ({ p with en := 256 } : MacsecP).wf = false ∧
    ({ p with validate := 256 } : MacsecP).wf = false ∧
    ({ p with replay := 2 ^ 32 } : MacsecP).wf = false ∧
    ({ p with sciPort := 65536 } : MacsecP).wf = false ∧
    ({ p with pnThresh := 2 ^ 64 } : MacsecP).wf = false := by
  simp [MacsecP.wf, fits]

theorem test_saP_ill_formed (p : SaP) :
    ({ p with port := 256 } : SaP).wf = false ∧
    ({ p with dir := 256 } : SaP).wf = false ∧
    ({ p with sc := 256 } : SaP).wf = false ∧
    ({ p with an := 256 } : SaP).wf = false ∧
    ({ p with slot := 256 } : SaP).wf = false ∧
    ({ p with cipher := 256 } : SaP).wf = false ∧
    ({ p with conf := 256 } : SaP).wf = false ∧
    ({ p with ssci := 2 ^ 32 } : SaP).wf = false ∧
    ({ p with peerSci := 2 ^ 64 } : SaP).wf = false ∧
    ({ p with firstPn := 2 ^ 64 } : SaP).wf = false ∧
    ({ p with salt := 2 ^ 96 } : SaP).wf = false := by
  simp [SaP.wf, fits]

theorem test_gateEntry_ill_formed (p : GateEntry) :
    ({ p with mask := 256 } : GateEntry).wf = false ∧
    ({ p with ns := 2 ^ 32 } : GateEntry).wf = false := by
  simp [GateEntry.wf, fits]

theorem test_gateP_ill_formed (p : GateP) :
    ({ p with port := 256 } : GateP).wf = false ∧
    ({ p with num := 2 ^ 32 } : GateP).wf = false ∧
    ({ p with den := 2 ^ 32 } : GateP).wf = false ∧
    ({ p with base := ⟨2 ^ 48, 0⟩ } : GateP).wf = false := by
  simp [GateP.wf, fits, DT80.wf]

theorem test_timeP_ill_formed (p : TimeP) :
    ({ p with kp := 65536 } : TimeP).wf = false ∧
    ({ p with ki := 65536 } : TimeP).wf = false ∧
    ({ p with stepNs := 2 ^ 32 } : TimeP).wf = false ∧
    ({ p with policy := 256 } : TimeP).wf = false ∧
    ({ p with lockCount := 256 } : TimeP).wf = false ∧
    ({ p with nq := 256 } : TimeP).wf = false ∧
    ({ p with fmaxPpb := 2 ^ 32 } : TimeP).wf = false ∧
    ({ p with outlierNs := 2 ^ 32 } : TimeP).wf = false ∧
    ({ p with freshS := 2 ^ 32 } : TimeP).wf = false ∧
    ({ p with agedS := 2 ^ 32 } : TimeP).wf = false := by
  simp [TimeP.wf, fits]

theorem test_ptpP_ill_formed (p : PtpP) :
    ({ p with inst := 256 } : PtpP).wf = false ∧
    ({ p with en := 256 } : PtpP).wf = false ∧
    ({ p with profile := 256 } : PtpP).wf = false ∧
    ({ p with domain := 256 } : PtpP).wf = false ∧
    ({ p with transport := 256 } : PtpP).wf = false ∧
    ({ p with delayMech := 256 } : PtpP).wf = false ∧
    ({ p with portMask := 256 } : PtpP).wf = false ∧
    ({ p with annTimeout := 256 } : PtpP).wf = false ∧
    ({ p with prio1 := 256 } : PtpP).wf = false ∧
    ({ p with prio2 := 256 } : PtpP).wf = false ∧
    ({ p with inaccAdd := 2 ^ 32 } : PtpP).wf = false ∧
    ({ p with logSync := 2 ^ 7 } : PtpP).wf = false ∧
    ({ p with logAnnounce := 2 ^ 7 } : PtpP).wf = false ∧
    ({ p with logPdelay := 2 ^ 7 } : PtpP).wf = false := by
  simp [PtpP.wf, fits, sfits]

theorem test_ppsP_ill_formed (p : PpsP) :
    ({ p with edge := 256 } : PpsP).wf = false ∧
    ({ p with todEdge := 256 } : PpsP).wf = false ∧
    ({ p with baud := 256 } : PpsP).wf = false ∧
    ({ p with todTx := 256 } : PpsP).wf = false ∧
    ({ p with tolNs := 2 ^ 32 } : PpsP).wf = false := by
  simp [PpsP.wf, fits]

theorem test_latP_ill_formed (p : LatP) :
    ({ p with target := 256 } : LatP).wf = false ∧
    ({ p with rx := 2 ^ 31 } : LatP).wf = false ∧
    ({ p with tx := 2 ^ 31 } : LatP).wf = false := by
  simp [LatP.wf, fits, sfits]

theorem test_cmpP_ill_formed (p : CmpP) :
    ({ p with cmp := 256 } : CmpP).wf = false ∧
    ({ p with actions := 65536 } : CmpP).wf = false ∧
    ({ p with period := 2 ^ 64 } : CmpP).wf = false ∧
    ({ p with count := 2 ^ 32 } : CmpP).wf = false ∧
    ({ p with job := 65536 } : CmpP).wf = false ∧
    ({ p with acqMask := 65536 } : CmpP).wf = false ∧
    ({ p with pulseNs := 2 ^ 32 } : CmpP).wf = false ∧
    ({ p with target := ⟨2 ^ 48, 0, 0⟩ } : CmpP).wf = false := by
  simp [CmpP.wf, fits, DT96.wf]

theorem test_streamP_ill_formed (p : StreamP) :
    ({ p with sid := 65536 } : StreamP).wf = false ∧
    ({ p with proto := 256 } : StreamP).wf = false ∧
    ({ p with authMode := 256 } : StreamP).wf = false ∧
    ({ p with portMask := 256 } : StreamP).wf = false ∧
    ({ p with lane := 256 } : StreamP).wf = false ∧
    ({ p with method := 256 } : StreamP).wf = false ∧
    ({ p with align := 256 } : StreamP).wf = false ∧
    ({ p with rate := 65536 } : StreamP).wf = false ∧
    ({ p with fnom := 256 } : StreamP).wf = false ∧
    ({ p with qlimit := 256 } : StreamP).wf = false ∧
    ({ p with srcAddr := 2 ^ 128 } : StreamP).wf = false ∧
    ({ p with udpDst := 65536 } : StreamP).wf = false ∧
    ({ p with block := 256 } : StreamP).wf = false ∧
    ({ p with keyCur := 256 } : StreamP).wf = false ∧
    ({ p with keyNext := 256 } : StreamP).wf = false ∧
    ({ p with tqMax := 16 } : StreamP).wf = false ∧
    ({ p with unlockMax := 4 } : StreamP).wf = false ∧
    ({ p with idcode := 65536 } : StreamP).wf = false ∧
    ({ p with keyIdCur := 2 ^ 32 } : StreamP).wf = false ∧
    ({ p with keyIdNext := 2 ^ 32 } : StreamP).wf = false ∧
    ({ p with format := 65536 } : StreamP).wf = false ∧
    ({ p with framesize := 65536 } : StreamP).wf = false ∧
    ({ p with timeBase := 2 ^ 32 } : StreamP).wf = false ∧
    ({ p with blockOfs := 65536 } : StreamP).wf = false ∧
    ({ p with phnmr := 256 } : StreamP).wf = false ∧
    ({ p with annmr := 256 } : StreamP).wf = false ∧
    ({ p with dgnmr := 256 } : StreamP).wf = false ∧
    ({ p with svidLen := 256 } : StreamP).wf = false ∧
    ({ p with phSel := 2 ^ 64 } : StreamP).wf = false ∧
    ({ p with anSel := 65536 } : StreamP).wf = false ∧
    ({ p with dgSel := 256 } : StreamP).wf = false ∧
    ({ p with phFs := [] } : StreamP).wf = false ∧
    ({ p with phFactor := [] } : StreamP).wf = false ∧
    ({ p with anFs := [] } : StreamP).wf = false ∧
    ({ p with anFactor := [] } : StreamP).wf = false ∧
    ({ p with memberMap := [] } : StreamP).wf = false ∧
    ({ p with svid := [], svidLen := 1 } : StreamP).wf = false ∧
    ({ p with svid := [2 ^ 8] } : StreamP).wf = false ∧
    ({ p with phFs := [2 ^ 32] } : StreamP).wf = false ∧
    ({ p with phFactor := [2 ^ 32] } : StreamP).wf = false ∧
    ({ p with anFs := [2 ^ 32] } : StreamP).wf = false ∧
    ({ p with anFactor := [2 ^ 32] } : StreamP).wf = false ∧
    ({ p with memberMap := [2 ^ 8] } : StreamP).wf = false := by
  simp [StreamP.wf, fits, fitsAll]

theorem test_siP_ill_formed (p : SiP) :
    ({ p with nq := 256 } : SiP).wf = false ∧
    ({ p with tagTolUs := 65536 } : SiP).wf = false ∧
    ({ p with burstUs := 65536 } : SiP).wf = false := by
  simp [SiP.wf, fits]

theorem test_groupP_ill_formed (p : GroupP) :
    ({ p with gid := 256 } : GroupP).wf = false ∧
    ({ p with latePolicy := 256 } : GroupP).wf = false ∧
    ({ p with expect := 256 } : GroupP).wf = false ∧
    ({ p with rate := 65536 } : GroupP).wf = false ∧
    ({ p with windowUs := 2 ^ 32 } : GroupP).wf = false ∧
    ({ p with horizonUs := 2 ^ 32 } : GroupP).wf = false ∧
    ({ p with lateSpanUs := 2 ^ 32 } : GroupP).wf = false ∧
    ({ p with amendMs := 256 } : GroupP).wf = false ∧
    ({ p with epoch := ⟨2 ^ 48, 0⟩ } : GroupP).wf = false := by
  simp [GroupP.wf, fits, DT80.wf]

theorem test_timingP_ill_formed (p : TimingP) :
    ({ p with gid := 256 } : TimingP).wf = false ∧
    ({ p with expect := 256 } : TimingP).wf = false ∧
    ({ p with windowUs := 2 ^ 32 } : TimingP).wf = false ∧
    ({ p with horizonUs := 2 ^ 32 } : TimingP).wf = false ∧
    ({ p with lateSpanUs := 2 ^ 32 } : TimingP).wf = false ∧
    ({ p with amendMs := 256 } : TimingP).wf = false := by
  simp [TimingP.wf, fits]

theorem test_sessionP_ill_formed (p : SessionP) :
    ({ p with session := 256 } : SessionP).wf = false ∧
    ({ p with gid := 256 } : SessionP).wf = false ∧
    ({ p with target := 256 } : SessionP).wf = false ∧
    ({ p with queue := 256 } : SessionP).wf = false ∧
    ({ p with format := 256 } : SessionP).wf = false ∧
    ({ p with keySlot := 256 } : SessionP).wf = false ∧
    ({ p with sig := 256 } : SessionP).wf = false ∧
    ({ p with first := 65536 } : SessionP).wf = false ∧
    ({ p with count := 65536 } : SessionP).wf = false ∧
    ({ p with idcode := 65536 } : SessionP).wf = false ∧
    ({ p with formatWord := 65536 } : SessionP).wf = false ∧
    ({ p with timeBase := 2 ^ 32 } : SessionP).wf = false ∧
    ({ p with dstMac := 2 ^ 48 } : SessionP).wf = false ∧
    ({ p with vlanTci := 65536 } : SessionP).wf = false ∧
    ({ p with dscp := 256 } : SessionP).wf = false ∧
    ({ p with ttl := 256 } : SessionP).wf = false ∧
    ({ p with srcUdp := 65536 } : SessionP).wf = false ∧
    ({ p with dstUdp := 65536 } : SessionP).wf = false ∧
    ({ p with srcIp := 2 ^ 128 } : SessionP).wf = false ∧
    ({ p with dstIp := 2 ^ 128 } : SessionP).wf = false ∧
    ({ p with keyId := 2 ^ 32 } : SessionP).wf = false ∧
    ({ p with svidLen := 256 } : SessionP).wf = false ∧
    ({ p with svid := [], svidLen := 1 } : SessionP).wf = false ∧
    ({ p with svid := [2 ^ 8] } : SessionP).wf = false := by
  simp [SessionP.wf, fits, fitsAll]

theorem test_ergP_ill_formed (p : ErgP) :
    ({ p with nq := 256 } : ErgP).wf = false ∧
    ({ p with headroom := 256 } : ErgP).wf = false ∧
    ({ p with lowMark := 2 ^ 32 } : ErgP).wf = false := by
  simp [ErgP.wf, fits]

theorem test_nodeP_ill_formed (p : NodeP) :
    ({ p with node := 256 } : NodeP).wf = false ∧
    ({ p with level := 16 } : NodeP).wf = false ∧
    ({ p with gang := 256 } : NodeP).wf = false ∧
    ({ p with ckptPages := 256 } : NodeP).wf = false ∧
    ({ p with flow := 65536 } : NodeP).wf = false ∧
    ({ p with program := 65536 } : NodeP).wf = false ∧
    ({ p with budgetNs := 2 ^ 32 } : NodeP).wf = false ∧
    ({ p with residentPages := 2 ^ 32 } : NodeP).wf = false ∧
    ({ p with stage := 256 } : NodeP).wf = false ∧
    ({ p with crypto := 256 } : NodeP).wf = false ∧
    ({ p with delayUs := 2 ^ 32 } : NodeP).wf = false ∧
    ({ p with chain := 65536 } : NodeP).wf = false ∧
    ({ p with pred := [] } : NodeP).wf = false ∧
    ({ p with pred := [2 ^ 8] } : NodeP).wf = false := by
  simp [NodeP.wf, fits, fitsAll]

theorem test_jobP_ill_formed (p : JobP) :
    ({ p with job := 65536 } : JobP).wf = false ∧
    ({ p with maxInflight := 256 } : JobP).wf = false := by
  simp [JobP.wf, fits]

theorem test_levelP_ill_formed (p : LevelP) :
    ({ p with urgentReserve := 256 } : LevelP).wf = false ∧
    ({ p with ageCeil := 256 } : LevelP).wf = false ∧
    ({ p with ckptUs := 256 } : LevelP).wf = false ∧
    ({ p with nq := 256 } : LevelP).wf = false ∧
    ({ p with shares := [] } : LevelP).wf = false ∧
    ({ p with ages := [] } : LevelP).wf = false ∧
    ({ p with shares := [2 ^ 16] } : LevelP).wf = false ∧
    ({ p with ages := [2 ^ 16] } : LevelP).wf = false := by
  simp [LevelP.wf, fits, fitsAll]

theorem test_topoP_ill_formed (p : TopoP) :
    ({ p with nq := 256 } : TopoP).wf = false ∧
    ({ p with gid := 256 } : TopoP).wf = false ∧
    ({ p with hold := 256 } : TopoP).wf = false ∧
    ({ p with badMax := 256 } : TopoP).wf = false ∧
    ({ p with refLevel := 256 } : TopoP).wf = false ∧
    ({ p with measReq := 8 } : TopoP).wf = false ∧
    ({ p with refRate := 256 } : TopoP).wf = false ∧
    ({ p with iOpenMax := 256 } : TopoP).wf = false ∧
    ({ p with lnr := 65536 } : TopoP).wf = false ∧
    ({ p with chi2z := 65536 } : TopoP).wf = false := by
  simp [TopoP.wf, fits]

theorem test_cutP_ill_formed (p : CutP) :
    ({ p with cut := 256 } : CutP).wf = false ∧
    ({ p with apply := 256 } : CutP).wf = false ∧
    ({ p with n := 256 } : CutP).wf = false ∧
    ({ p with pickup := 256 } : CutP).wf = false ∧
    ({ p with dropout := 256 } : CutP).wf = false ∧
    ({ p with drift := 65536 } : CutP).wf = false ∧
    ({ p with branches := [2 ^ 16] } : CutP).wf = false := by
  simp [CutP.wf, fits, fitsAll]

theorem test_oscP_ill_formed (p : OscP) :
    ({ p with nq := 256 } : OscP).wf = false ∧
    ({ p with gid := 256 } : OscP).wf = false ∧
    ({ p with cycles := 256 } : OscP).wf = false ∧
    ({ p with fillMax := 256 } : OscP).wf = false ∧
    ({ p with measReq := 8 } : OscP).wf = false ∧
    ({ p with cmp := 256 } : OscP).wf = false ∧
    ({ p with ofsMs := 65536 } : OscP).wf = false ∧
    ({ p with slowJob := 65536 } : OscP).wf = false ∧
    ({ p with trackHold := 256 } : OscP).wf = false ∧
    ({ p with forcedN := 256 } : OscP).wf = false ∧
    ({ p with trackDf := 65536 } : OscP).wf = false ∧
    ({ p with trackDz := 65536 } : OscP).wf = false ∧
    ({ p with forcedZeta := 65536 } : OscP).wf = false ∧
    ({ p with forcedPr := 65536 } : OscP).wf = false := by
  simp [OscP.wf, fits]

theorem test_sigP_ill_formed (p : SigP) :
    ({ p with sig := 65536 } : SigP).wf = false ∧
    ({ p with kind := 256 } : SigP).wf = false ∧
    ({ p with group := 256 } : SigP).wf = false ∧
    ({ p with aSid := 65536 } : SigP).wf = false ∧
    ({ p with aCh := 256 } : SigP).wf = false ∧
    ({ p with bSid := 65536 } : SigP).wf = false ∧
    ({ p with bCh := 256 } : SigP).wf = false ∧
    ({ p with fsFlow := 2 ^ 32 } : SigP).wf = false ∧
    ({ p with zcFloor := 65536 } : SigP).wf = false := by
  simp [SigP.wf, fits]

theorem test_oscGroupP_ill_formed (p : OscGroupP) :
    ({ p with group := 256 } : OscGroupP).wf = false ∧
    ({ p with window := 256 } : OscGroupP).wf = false ∧
    ({ p with order := 256 } : OscGroupP).wf = false ∧
    ({ p with rows := 256 } : OscGroupP).wf = false ∧
    ({ p with modesMax := 256 } : OscGroupP).wf = false ∧
    ({ p with ref := 256 } : OscGroupP).wf = false ∧
    ({ p with retain := 256 } : OscGroupP).wf = false ∧
    ({ p with node := 256 } : OscGroupP).wf = false ∧
    ({ p with fmin := 65536 } : OscGroupP).wf = false ∧
    ({ p with fmax := 65536 } : OscGroupP).wf = false ∧
    ({ p with zetaMax := 65536 } : OscGroupP).wf = false := by
  simp [OscGroupP.wf, fits]

theorem test_ruleP_ill_formed (p : RuleP) :
    ({ p with rule := 65536 } : RuleP).wf = false ∧
    ({ p with kind := 256 } : RuleP).wf = false ∧
    ({ p with cond := 4 } : RuleP).wf = false ∧
    ({ p with invalid := 4 } : RuleP).wf = false ∧
    ({ p with gid := 256 } : RuleP).wf = false ∧
    ({ p with severity := 4 } : RuleP).wf = false ∧
    ({ p with pickup := 256 } : RuleP).wf = false ∧
    ({ p with dropout := 256 } : RuleP).wf = false ∧
    ({ p with a := 65536 } : RuleP).wf = false ∧
    ({ p with aSub := 256 } : RuleP).wf = false ∧
    ({ p with bSub := 256 } : RuleP).wf = false ∧
    ({ p with b := 65536 } : RuleP).wf = false ∧
    ({ p with almMask := 256 } : RuleP).wf = false ∧
    ({ p with nq := 32 } : RuleP).wf = false ∧
    ({ p with xtrig := 4 } : RuleP).wf = false ∧
    ({ p with acqMask := 65536 } : RuleP).wf = false ∧
    ({ p with req := 32 } : RuleP).wf = false ∧
    ({ p with hi := 2 ^ 32 } : RuleP).wf = false ∧
    ({ p with lo := 2 ^ 32 } : RuleP).wf = false ∧
    ({ p with hiRst := 2 ^ 32 } : RuleP).wf = false ∧
    ({ p with loRst := 2 ^ 32 } : RuleP).wf = false := by
  simp [RuleP.wf, fits]

theorem test_lineP_ill_formed (p : LineP) :
    ({ p with line := 256 } : LineP).wf = false ∧
    ({ p with mode := 256 } : LineP).wf = false ∧
    ({ p with pulseUs := 2 ^ 32 } : LineP).wf = false := by
  simp [LineP.wf, fits]

theorem test_xtrigP_ill_formed (p : XtrigP) :
    ({ p with xinEdge := 256 } : XtrigP).wf = false ∧
    ({ p with fwd := 256 } : XtrigP).wf = false ∧
    ({ p with xinNote := 256 } : XtrigP).wf = false ∧
    ({ p with nq := 256 } : XtrigP).wf = false ∧
    ({ p with pulseNs := 2 ^ 32 } : XtrigP).wf = false ∧
    ({ p with xinLatNs := 2 ^ 32 } : XtrigP).wf = false ∧
    ({ p with stbNs := 65536 } : XtrigP).wf = false := by
  simp [XtrigP.wf, fits]

theorem test_chanP_ill_formed (p : ChanP) :
    ({ p with ch := 256 } : ChanP).wf = false ∧
    ({ p with gid := 256 } : ChanP).wf = false ∧
    ({ p with srcEn := 256 } : ChanP).wf = false ∧
    ({ p with retrig := 256 } : ChanP).wf = false ∧
    ({ p with first := 65536 } : ChanP).wf = false ∧
    ({ p with count := 65536 } : ChanP).wf = false ∧
    ({ p with chMask := 2 ^ 64 } : ChanP).wf = false ∧
    ({ p with pre := 2 ^ 32 } : ChanP).wf = false ∧
    ({ p with post := 2 ^ 32 } : ChanP).wf = false ∧
    ({ p with markRate := 65536 } : ChanP).wf = false := by
  simp [ChanP.wf, fits]

theorem test_aqRingP_ill_formed (p : AqRingP) :
    ({ p with ch := 256 } : AqRingP).wf = false ∧
    ({ p with ring := 256 } : AqRingP).wf = false ∧
    ({ p with kind := 256 } : AqRingP).wf = false ∧
    ({ p with log2Slots := 256 } : AqRingP).wf = false ∧
    ({ p with n := 65536 } : AqRingP).wf = false ∧
    ({ p with vector := 256 } : AqRingP).wf = false ∧
    ({ p with statusEvery := 256 } : AqRingP).wf = false ∧
    ({ p with base := 2 ^ 64 } : AqRingP).wf = false ∧
    ({ p with statusAddr := 2 ^ 64 } : AqRingP).wf = false := by
  simp [AqRingP.wf, fits]

theorem test_mChanP_ill_formed (p : MChanP) :
    ({ p with ch := 256 } : MChanP).wf = false ∧
    ({ p with en := 256 } : MChanP).wf = false ∧
    ({ p with kind := 256 } : MChanP).wf = false ∧
    ({ p with sensor := 256 } : MChanP).wf = false ∧
    ({ p with respRec := 256 } : MChanP).wf = false ∧
    ({ p with respAlm := 256 } : MChanP).wf = false ∧
    ({ p with tempSrc := 4 } : MChanP).wf = false ∧
    ({ p with tempCh := 16 } : MChanP).wf = false ∧
    ({ p with fs := 2 ^ 32 } : MChanP).wf = false := by
  simp [MChanP.wf, fits]

theorem test_calP_ill_formed (p : CalP) :
    ({ p with ch := 256 } : CalP).wf = false ∧
    ({ p with gainS := 2 ^ 32 } : CalP).wf = false ∧
    ({ p with gainR := 2 ^ 32 } : CalP).wf = false ∧
    ({ p with offsetS := 2 ^ 31 } : CalP).wf = false ∧
    ({ p with offsetR := 2 ^ 31 } : CalP).wf = false ∧
    ({ p with phDelay := 2 ^ 31 } : CalP).wf = false ∧
    ({ p with phOfs := 2 ^ 31 } : CalP).wf = false ∧
    ({ p with tcA1 := 2 ^ 31 } : CalP).wf = false ∧
    ({ p with tcA2 := 2 ^ 31 } : CalP).wf = false ∧
    ({ p with tcB1 := 2 ^ 31 } : CalP).wf = false ∧
    ({ p with tRef := 2 ^ 31 } : CalP).wf = false := by
  simp [CalP.wf, fits, sfits]

theorem test_elemP_ill_formed (p : ElemP) :
    ({ p with el := 256 } : ElemP).wf = false ∧
    ({ p with phases := 256 } : ElemP).wf = false ∧
    ({ p with dir := 256 } : ElemP).wf = false ∧
    ({ p with ulsb := 256 } : ElemP).wf = false ∧
    ({ p with digits := 256 } : ElemP).wf = false ∧
    ({ p with noloadVa := 2 ^ 32 } : ElemP).wf = false ∧
    ({ p with chans := [] } : ElemP).wf = false ∧
    ({ p with chans := [2 ^ 8] } : ElemP).wf = false := by
  simp [ElemP.wf, fits, fitsAll]

theorem test_pulseP_ill_formed (p : PulseP) :
    ({ p with pulse := 256 } : PulseP).wf = false ∧
    ({ p with en := 256 } : PulseP).wf = false ∧
    ({ p with el := 256 } : PulseP).wf = false ∧
    ({ p with reg := 256 } : PulseP).wf = false ∧
    ({ p with widthMs := 256 } : PulseP).wf = false ∧
    ({ p with pol := 256 } : PulseP).wf = false ∧
    ({ p with kh := 2 ^ 32 } : PulseP).wf = false := by
  simp [PulseP.wf, fits]

theorem test_vsP_ill_formed (p : VsP) :
    ({ p with vs := 256 } : VsP).wf = false ∧
    ({ p with cls := 256 } : VsP).wf = false ∧
    ({ p with ref := 256 } : VsP).wf = false ∧
    ({ p with fnom := 256 } : VsP).wf = false ∧
    ({ p with rate := 65536 } : VsP).wf = false ∧
    ({ p with phMask := 65536 } : VsP).wf = false ∧
    ({ p with seqMask := 256 } : VsP).wf = false := by
  simp [VsP.wf, fits]

theorem test_ballastP_ill_formed (p : BallastP) :
    ({ p with set := 256 } : BallastP).wf = false ∧
    ({ p with en := 256 } : BallastP).wf = false ∧
    ({ p with el := 256 } : BallastP).wf = false ∧
    ({ p with mask := 256 } : BallastP).wf = false := by
  simp [BallastP.wf, fits]

theorem test_meterP_ill_formed (p : MeterP) :
    ({ p with nq := 256 } : MeterP).wf = false ∧
    ({ p with sdclkEn := 256 } : MeterP).wf = false ∧
    ({ p with saveS := 65536 } : MeterP).wf = false := by
  simp [MeterP.wf, fits]

theorem test_importP_ill_formed (p : ImportP) :
    ({ p with slot := 256 } : ImportP).wf = false ∧
    ({ p with form := 256 } : ImportP).wf = false ∧
    ({ p with wrapSlot := 256 } : ImportP).wf = false ∧
    ({ p with alg := 256 } : ImportP).wf = false ∧
    ({ p with usage := 256 } : ImportP).wf = false ∧
    ({ p with material := [2 ^ 8] } : ImportP).wf = false := by
  simp [ImportP.wf, fits, fitsAll]

theorem test_logP_ill_formed (p : LogP) :
    ({ p with ecNq := 256 } : LogP).wf = false ∧
    ({ p with evNq := 256 } : LogP).wf = false ∧
    ({ p with scrubMs := 65536 } : LogP).wf = false ∧
    ({ p with coalesceUs := 2 ^ 32 } : LogP).wf = false ∧
    ({ p with flushMs := 65536 } : LogP).wf = false ∧
    ({ p with faultVec := 256 } : LogP).wf = false ∧
    ({ p with flushVec := 256 } : LogP).wf = false := by
  simp [LogP.wf, fits]

theorem test_powerP_ill_formed (p : PowerP) :
    ({ p with nq := 256 } : PowerP).wf = false ∧
    ({ p with wakeEn := 256 } : PowerP).wf = false ∧
    ({ p with delayMaxUs := 2 ^ 32 } : PowerP).wf = false := by
  simp [PowerP.wf, fits]

theorem test_refP_ill_formed (p : RefP) :
    ({ p with prefer := 256 } : RefP).wf = false ∧
    ({ p with singleRef := 256 } : RefP).wf = false ∧
    ({ p with singleSrc := 256 } : RefP).wf = false ∧
    ({ p with revertS := 2 ^ 32 } : RefP).wf = false := by
  simp [RefP.wf, fits]

theorem test_image_ill_formed (p : Image) :
    ({ p with version := 2 ^ 32 } : Image).wf = false ∧
    ({ p with digest12 := 2 ^ 96 } : Image).wf = false ∧
    ({ p with len := 2 ^ 32 } : Image).wf = false := by
  simp [Image.wf, fits]

theorem test_frame_ill_formed (p : Frame) :
    ({ p with len := 16384 } : Frame).wf = false ∧
    ({ p with dst := 2 ^ 48 } : Frame).wf = false ∧
    ({ p with src := 2 ^ 48 } : Frame).wf = false ∧
    ({ p with ethertype := 65536 } : Frame).wf = false := by
  simp [Frame.wf, fits]

theorem test_stamp_ill_formed (p : Stamp) :
    ({ p with sub := 8 } : Stamp).wf = false := by
  simp [Stamp.wf]

theorem test_arrival_ill_formed (p : Arrival) :
    ({ p with frame := { p.frame with len := 16384 } } : Arrival).wf = false ∧
    ({ p with stamp := ⟨0, 8⟩ } : Arrival).wf = false := by
  simp [Arrival.wf, Frame.wf, Stamp.wf, fits]

theorem test_hostFrame_ill_formed (p : HostFrame) :
    ({ p with len := 65536 } : HostFrame).wf = false ∧
    ({ p with ethertype := 65536 } : HostFrame).wf = false ∧
    ({ p with udpDst := some 65536 } : HostFrame).wf = false := by
  simp [HostFrame.wf, fits]

theorem test_ptpForm_ill_formed (p : PtpForm) :
    ({ p with domain := 256 } : PtpForm).wf = false ∧
    ({ p with version := 16 } : PtpForm).wf = false ∧
    ({ p with minor := 16 } : PtpForm).wf = false ∧
    ({ p with transport := 3 } : PtpForm).wf = false := by
  simp [PtpForm.wf, fits]

theorem test_ptpHead_ill_formed (p : PtpHead) :
    ({ p with toPtpForm := ⟨256, 0, 0, 0⟩ } : PtpHead).wf = false ∧
    ({ p with port := 5 } : PtpHead).wf = false := by
  simp [PtpHead.wf, PtpForm.wf, fits]

theorem test_announce_ill_formed (p : Announce) :
    ({ p with gm := 2 ^ 64 } : Announce).wf = false ∧
    ({ p with steps := 65536 } : Announce).wf = false ∧
    ({ p with sender := 2 ^ 80 } : Announce).wf = false ∧
    ({ p with prio1 := 256 } : Announce).wf = false ∧
    ({ p with clockClass := 256 } : Announce).wf = false ∧
    ({ p with accuracy := 256 } : Announce).wf = false ∧
    ({ p with variance := 65536 } : Announce).wf = false ∧
    ({ p with prio2 := 256 } : Announce).wf = false ∧
    ({ p with leap := 4 } : Announce).wf = false ∧
    ({ p with utcOfs := 2 ^ 15 } : Announce).wf = false ∧
    ({ p with head := ⟨⟨0, 0, 0, 0⟩, 5⟩ } : Announce).wf = false := by
  simp [Announce.wf, fits, sfits, PtpHead.wf, PtpForm.wf, fits]

/-- A management address has seven bits. -/
theorem test_mgmt_ill_formed : (Mgmt.mi2c 128 true).wf = false := by decide

/-- One ill-formed operand makes its command ill-formed, whatever its header: a header, a number of 8, 16 or 32 bits, a parameter
block, an image, a frame and a ring number. -/
theorem test_instr_ill_formed (h : Hdr) (p : Packet) : (Instr.sysNop { h with plen := 65536 }).wf = false ∧
    (Instr.sysQueryHandle h (2 ^ 32)).wf = false ∧ (Instr.sysSetMode h 256).wf = false ∧ (Instr.commandFetch 16 p true).wf = false := by
  simp [Instr.wf, Hdr.wf, fits]

/-! ### States for the witnesses and tests -/

/-- A packet header of a command of `plen` parameter bytes, submitted to the mailbox without a tag. -/
def hd (plen : Nat) : Hdr := ⟨.mailbox, 0, decide (48 < plen), false, false, false, 0, plen, 0, 0, true, none, List.replicate plen 0⟩

/-- The head of a tagged packet, its VALUE still to come. -/
def hdTag (plen taglen : Nat) (t : Tag) : Hdr :=
  ⟨.mailbox, 0, true, false, false, false, plen, plen + taglen, 0, 0, true, some t, List.replicate (plen + taglen) 0⟩

/-- The DEVICE_UID and the lifecycle of the device under test. -/
def fusesOf (l : Lifecycle) : Fuses := ⟨5, l, some (ownerDigest 7)⟩

/-- The packet with an ALG 2 tag of counter 1 under slot 9, whose VALUE is right. -/
def hdT (op plen : Nat) : Hdr :=
  let h := hdTag plen 24 ⟨2, 9, 0, 1⟩
  let m := tagMessage h op { State.reset with fuses := fusesOf .operational }
  { h with params := List.replicate (plen + 8) 0 ++ (hmacSha256 (beBytes 32 77) m).take 16 }

/-- The packet with an ALG 1 tag of counter 1 under the owner key, whose VALUE is right. -/
def hdA (op plen : Nat) (l : Lifecycle) : Hdr :=
  let h := hdTag plen 104 ⟨1, 0, 0, 1⟩
  let m := tagMessage h op { State.reset with fuses := fusesOf l }
  { h with params := List.replicate (plen + 8) 0 ++ ecdsaSign p384 7 12345 m }

/-- The owner's public key. -/
def ownerPub : Nat := beNat (publicKey p384 7)

/-- The head of a packet of an opcode. -/
def head0 (op : Nat) : PacketHead := ⟨op, 0, false, false, false, false, false, 0, 0, 0, false⟩

/-- A commissioned device with every domain on, an owner key and slot, a root and a DRBG, and a command of `op` in its mailbox. -/
def core (op : Nat) : State :=
  { State.reset with
    hi := { Hi.reset with mb := ⟨some (head0 op), [], false, none, .status⟩ }
    cfg := { CfgSt.reset with activeValid := true }
    pm := { Pm.reset with mode := .commission, domPorts := true, domErg := true, domAnchor := true, source := 0 }
    ov := { Ov.reset with kreg := some ownerPub, root := some 5, entropyOk := true,
                          slots := [(9, ⟨0x10, 0, false, false, false, false, 1, false, true, 0, 77, none⟩)] }
    fuses := fusesOf .operational }

/-- The packet with a header waits in the mailbox. -/
def sub (h : Hdr) (op : Nat) (s : State) : State :=
  { s with hi := { s.hi with mb := { s.hi.mb with cmd := some (hdrHead op h false) } } }

def inMode (m : Mode) (s : State) : State := { s with pm := { s.pm with mode := m } }

/-- An operation that is outstanding. -/
def opn (handle opcode : Nat) (cmd : Instr) : OpEntry := ⟨handle, .mailbox, 0, opcode, cmd, .running, false, 0, 0, 0⟩

def withOp (o : OpEntry) (s : State) : State := { s with hi := { s.hi with ops := [o] } }

/-- A command of `op` fetched from ring 0, with nothing in the mailbox. -/
def ringHead (op : Nat) (s : State) : State :=
  setRing 0 { Ring.reset with fetched := [⟨head0 op, false, false⟩] } { s with hi := { s.hi with mb := ⟨none, [], false, none, .status⟩ } }

/-- An image without settings. -/
def img : Image := ⟨1, 0, 0, true, true, true, false, 0, [.levels ⟨64, 11, 30, 31, List.replicate 11 0 ++ [800], List.replicate 11 4095 ++ [0]⟩]⟩

def staged (s : State) : State := { s with cfg := { s.cfg with staged := some img } }

/-- A key of an algorithm and usage in a slot. -/
def key (n alg usage : Nat) (s : State) : State := putKey n ⟨usage, 0, false, true, false, false, alg, false, false, 0, 1, none⟩ s

def mainFailed (s : State) : State := { s with tm := { s.tm with mainFailed := true } }

/-- A C37.118 stream at 50 frames/s without authentication. -/
def strm (sid : Nat) : StreamP :=
  ⟨sid, 0, 0, 15, 0, 0, 0, 50, 50, 0, 1, 4712, 0, 255, 255, 15, 3, 1, 0, 0, 0, 100, 1000000, 0, 0, 0, 0, 0, 0, 0, 0, [], [], [], [], [], []⟩

def quarantine (sid : Nat) (s : State) : State :=
  { s with si := { s.si with streams := s.si.streams.map (fun e => (e.1, if e.1 = sid then { e.2 with state := .quarantined } else e.2)) } }

/-- A group of 50 instants/s. -/
def grp (gid : Nat) : GroupP := ⟨gid, 0, 0, 50, ⟨0, 0⟩, 320000, 20000, 320000, 1⟩

/-- A session of group 63. -/
def sess : SessionP :=
  ⟨127, 63, 5, 6, 0, false, false, false, false, 0, 0, 0, 16384, 1, 0, 1000000, 0, 0, 0, 64, 4713, 4713, 1, 2, 0, 0, []⟩

/-- Group 63 with instant 7 open for stream 16375. -/
def withInstant (s : State) : State :=
  setGroup 63 { en := true, p := grp 63, members := [16375], byCommand := true, shed := false, lastIndex := 0, lastDeadline := false,
                lastGap := false, next := 8, front := 7, gapCount := 0,
                instants := [⟨7, .opened, [16375], grp 63, 0, [], 0, false, false, 7, 0, false, [], [], [], 0, none, [], []⟩] } s

/-- A graph of one node at level 11. -/
def job : JobP := ⟨1023, 1, 16, [⟨31, 11, 16, 16, 65535, 1, 4000000, 0, 0, 0, 0, [0xFF, 0xFF, 0xFF, 0xFF], 0xFFFF⟩]⟩

/-- A model of two nodes, a line between them and two voltages. -/
def mdl : ModelP := ⟨[0, 1], [⟨0, 1, 0, 0, 0, 0, 0, 0, 1, 0, 0, 0, 0, 0⟩], [⟨0, 0, 0, 0, 0, 0⟩, ⟨0, 0, 0, 1, 0, 0⟩], 2, true, 1, 1⟩

def withModel (s : State) : State := { s with ts := { s.ts with model := some mdl } }

def withCut (s : State) : State :=
  { s with ts := { s.ts with cuts := [(63, ⟨⟨63, 1, 50, 15, 15, 10000, [(0, 1)], [0]⟩, false, false, 0, 0, 0, [], none, 0⟩)] } }

/-- A topology result of instant 9. -/
def withResult (s : State) : State :=
  { s with ts := { s.ts with results := [⟨s.ts.p.gid, 9, 0, 0, 0, 0, 0, 0, 0, 0, 0, 0, 0, 0, 0, [], [], [], [], [], [], []⟩] } }

/-- A signal of group 127. -/
def sig : SigP := ⟨1023, 2, 127, 16375, 0, 0, 0, 0, 0⟩

def oscGid (s : State) : State := placeGroup (grp 0) [16375] true s

def ogr : OscGroupP := ⟨127, 3, 32, 64, 8, 0, 16, 0, 10, 500, 1000⟩

/-- A test rule. -/
def rul : RuleP :=
  ⟨4095, 12, 3, 2, 63, 3, true, true, true, true, 255, 255, 0, 0, 0, 0, 255, 31, true, 3, 65535, 0, 5, 0, 5, 0⟩

/-- A graph with a rule node, bound to group 63. -/
def withRuleGraph (s : State) : State :=
  let p : JobP := { job with ruleCap := 4096, nodes := job.nodes.map (fun d => { d with stage := 4 }) }
  { s with cv := { s.cv with jobs := [(1023, { p := p, ranks := [], bound := [63], seq := 0, overrun := false, shed := false, byCommand := false, resident := [] })] } }

def chn : ChanP := ⟨15, 63, 31, 1, 0, 16384, 2 ^ 46 - 1, 0, 0, 1000⟩

def rng : AqRingP := ⟨15, 3, 0, 4, 0, 63, 255, 4096, 0⟩

/-- Channels 0 and 1 as a voltage and a current. -/
def mchans (s : State) : State :=
  updMChan 0 (fun c => { c with p := { c.p with kind := 1, fs := 0x3F800000 } })
    (updMChan 1 (fun c => { c with p := { c.p with kind := 2, fs := 0x3F800000 } }) s)

def elm : ElemP := ⟨3, 1, 1, 9, 19, [0, 1, 15, 15, 15, 15], 0⟩

def vst : VsP := ⟨7, 2, 3, 60, 240, 0, 0⟩

def blank (s : State) : State := { s with fuses := ⟨5, .blank, none⟩ }

def noRoot (s : State) : State := { s with ov := { s.ov with root := none } }

def refsOk (s : State) : State := { s with ck := { s.ck with aLock := true, bLock := true, refAOk := true, refBOk := true } }

/-- A device in RUN with every domain on, some seven hours after power-on. -/
def live : State := { inMode .run (core 0) with tm := { Tm.reset with frc := 10 ^ 13, tq := .locked } }

def withTm (f : Tm → Tm) (s : State) : State := { s with tm := f s.tm }

def withTether (f : Tether → Tether) (s : State) : State := withTm (fun t => { t with tether := f t.tether }) s

def withPort (n : Nat) (p : Port) (s : State) : State := { s with np := { s.np with ports := tset s.np.ports n p } }

/-- The PTP slave instance listens on every port, and all links are up. -/
def ptpLive : State :=
  withTm (fun t => { t with ptpSlave := { Ptp.reset with p := ⟨0, 1, 0, 7, 1, 0, 31, 0, 0, 0, 3, 0, 0, 0⟩ },
                            ptpMaster := { Ptp.reset with p := ⟨1, 1, 0, 7, 1, 1, 31, 0, 0, 0, 3, 128, 128, 0⟩ },
                            slave := { Slave.reset with selected := some (3, 9, 5), pathDelay := [(3, 100)], delayReq := [(3, 1)] } })
    (withPort 4 { Port.reset with en := true, line := 1, linkUp := true }
      (withPort 3 { Port.reset with en := true, line := 3, linkUp := true } live))

/-- The head of a PTP message that the slave takes on a port. -/
def msg (port : Nat) : PtpHead := ⟨⟨7, 2, 1, 1⟩, port⟩

def ann : Announce := ⟨msg 3, 9, 0, 5, 128, 6, 0x20, 0, 128, true, 37, true, 0, none⟩

def stamp0 : Stamp := ⟨0, 0⟩

def ppsLive (p : Pps) : State := withTm (fun t => { t with pps := p }) live

/-- A gate list of two entries. -/
def gat : GateP := ⟨3, ⟨1, 0⟩, 1, 100, [⟨255, 5000000⟩, ⟨1, 5000000⟩]⟩

def portLive (p : Port) : State := withPort 3 p live

def ptf : PtFrame := ⟨4, 1, 100, 0, 0, 0, 0, 1⟩

def frm : Frame := ⟨100, true, 5, 6, 0x0800, [], none, none, none, none, .other⟩

def arr : Arrival := ⟨frm, stamp0, ⟨0, 0, 0⟩⟩

/-- An instant of group 63. -/
def ins (st : InstState) : Instant := ⟨7, st, [], grp 63, 0, [], 0, false, false, 7, 0, false, [], [], [], 0, none, [], []⟩

def gLive (next : Nat) (is : List Instant) : State :=
  setGroup 63 ⟨true, grp 63, [], false, false, 0, false, false, next, (next : Int) - 1, 0, is⟩ live

/-- An item of the one node of graph 1023. -/
def itm (st : ItemState) : Item :=
  ⟨5, 1023, 1, 31, 11, false, 0, ⟨31, 11, 16, 16, 65535, 1, 4000000, 0, 0, 0, 0, [0xFF, 0xFF, 0xFF, 0xFF], 0xFFFF⟩, 0, 0, 0, 11, 0, 0, none, [], none, st⟩

def inst : Inst := ⟨1023, 1, 0, 63, 7, 0, none, job, [(31, 0)], [31], [], 0, 0⟩

def cvLive (it : Item) : State := { live with cv := { Cv.reset with jobs := [], insts := [inst], items := [it] } }

def engLive (n : Nat) (st : EngState) : State := updEngine n (fun e => { e with st := st }) live

def alLive (f : Al → Al) : State := { live with al := f Al.reset }

/-- Acquisition channel 15 with its four rings addressed. -/
def aqLive : State :=
  setAqRing 60 { p := rng, addressed := true, seq := 0, dropped := 0, dropOpen := false, blk := none, budget := 0, budgetAt := 0, staged := [], byCommand := true }
    (setChan 15 { p := chn, en := true, markNo := 0, nextNo := 0, nextK := 0, tokens := 0, tokensAt := 0, windows := [], byCommand := true } live)

def amLive (f : Am → Am) : State := { live with am := f { Am.reset with sdclkEn := true } }

def chanLive (f : MChan → MChan) : State := updMChan 11 f (amLive id)

def pulseLive (p : Pulse) : State := amLive (fun a => { a with pulses := [(3, p)] })

def fld0 : PulseP := ⟨3, 1, 0, 0, 20, 0, 1⟩

def rec0 : EvRec := ⟨0, 0, 2, 0, true, 0, 0, 7, 0x42, 1, 0, none⟩

def withPm (f : Pm → Pm) (s : State) : State := { s with pm := f s.pm }

def withPins (f : Pins → Pins) (s : State) : State := { s with pins := f s.pins }

/-- A device that is off on its PFW_N input. -/
def pfwLow : State := withPins (fun p => { p with pfwN := false, pfwFall := 5 }) live

/-- Channel 11 at its decimation boundary. -/
def sdLive (f : MChan → MChan) : State := chanLive f |> fun s => { s with am := { s.am with sdBase := (10 ^ 13 - 1100) % 51200 } }

def hs (order : Nat) (delaying : Bool) : State :=
  withPm (fun p => { p with hs := some ⟨0x03000001, order, delaying, 0, 0⟩ }) live

/-- A commit whose program wrote nothing. -/
def res0 : ItemResult := ⟨[], [], [], ⟨[], false, 0⟩, []⟩

def setR (n : Nat) (r : Ring) : State := setRing n r live

/-- A final event without a fault, and one with a hardware fault. -/
def fine : Finish := ⟨false, false, true⟩

def hwFault : Finish := ⟨true, false, false⟩

/-- The device in COMMISSION with one operation outstanding. -/
def ending (opcode : Nat) (cmd : Instr) (s : State) : State := withOp (opn 0x03000001 opcode cmd) { s with hi := { s.hi with mb := ⟨none, [], false, none, .status⟩ } }

/-- A session of group 63 as `sess`, not enabled. -/
def withSession (s : State) : State := placeSession sess false true (placeGroup (grp 63) [] true s)

theorem ends_of {k : Nat} {o : OpEntry} {s : State} (h : findOp s k = some o ∧ o.phase ≠ .waking ∧ s.pm.mode ≠ .frozen ∧ s.pm.mode ≠ .boot) :
    mayEnd k o s := h

def cel : Cell := ⟨1, [], 0, 0, 0, false, false, false, false, false, false, false⟩

/-- Instant 7 of group 63 with a cell of stream 16375. -/
def withCell (s : State) : State :=
  setGroup 63 { en := true, p := grp 63, members := [16375], byCommand := true, shed := false, lastIndex := 0, lastDeadline := false,
                lastGap := false, next := 8, front := 7, gapCount := 0,
                instants := [{ ins .opened with members := [16375], cells := [(16375, cel)] }] } s

/-- A device whose program pages alone exceed what Caravan holds. -/
def tooBig (s : State) : State := { s with cfg := { s.cfg with programPages := 10 ^ 9 } }

/-- A word of the cell that is uncorrectable. -/
def badCell (s : State) : State :=
  { s with ec := { s.ec with flips := (cellPlaces 1).map (fun p => (p.1 * 8192 + p.2, [1, 2])) } }

def exportable (n : Nat) (s : State) : State :=
  { s with ov := { s.ov with slots := s.ov.slots.map (fun e => (e.1, if e.1 = n then { e.2 with exportable := true } else e.2)) } }

/-! ### One step each, with results from the manual's own examples and tables -/

/-- No row of the table gives bits, so no word spells a command. -/
theorem test_decode_no_word : decodeTableWord 16 0 = none ∧ decodeTableWord 512 (2 ^ 512 - 1) = none := by decide

theorem test_withFetchWord_unchanged : (live.withFetchWord 16 0x10) = live := rfl

/-- 03, the example of HSEL 1: 01-00-5E-00-12-34 falls into bin 422. -/
theorem test_hash_bin : hashBin 1 0x01005E001234 = 422 := by decide

/-- 03, the example of a secured PRP pair: 1,438 bytes take 466.56 ns at 25 Gb/s. -/
theorem test_wire_time : wireTime 3 1438 = 46656 := by decide

/-- 06, the example of the synchronized burst: instants(0) = 3 and 983,040 frames/s of one member in 16,384. -/
theorem test_instants_of_burst : instantsOf ⟨0, 0, 0, 60, ⟨0, 0⟩, 20000, 1000, 10000, 1⟩ = 3 := by decide

/-- 04: at FRC 10^12 the product of RATE_NOM reads 0.400 ns above 2,560 s. -/
theorem test_rate_nominal : (fun t : DT96 => (t.sec, t.ns, t.frac * 1000 / 65536)) (dt96Of (now (withTm (fun t => { t with frc := 10 ^ 12 }) live))) =
    (2560, 0, 400) := by decide +kernel

/-- 02, the example of a load: with the counter at 0x132 the handle of CFG.LOAD is 0x0400_0132, whose bytes read 32 01 00 04. -/
theorem test_handle_number : newHandle 0x0400 { live with hi := { live.hi with seq := 0x132 } } = 0x04000132 ∧
    leBytes 4 0x04000132 = [0x32, 0x01, 0x00, 0x04] := by decide

/-- 02, the same example: CFG.COMMIT with no staged image completes BAD_PARAM with handle 0x0400_0000. -/
theorem test_commit_without_image : (match exec (.cfgCommit (hd 0)) (sub (hd 0) 0x0401 (core 0x0401)) with
    | .next t => t.hi.mb.fifo.map (fun r => (r.handle, r.status)) | _ => []) = [(0x04000000, 0x11)] := by decide +kernel

/-- SYS.NOP completes DONE and takes its head. -/
theorem test_nop : (match exec (.sysNop (hd 0)) (sub (hd 0) 0 (core 0)) with
    | .next t => (t.hi.mb.cmd.isNone, t.hi.mb.fifo.map (·.status)) | _ => (false, [])) = (true, [0]) := by decide +kernel

/-- A command at the front that has no head in its source changes nothing. -/
theorem test_command_needs_its_packet : exec (.sysNop (hd 0)) { core 0 with hi := Hi.reset } = .next { core 0 with hi := Hi.reset } := rfl

/-- 00 R14 and R15: a counter at its top takes OVF, and after a clear the next event reads 1. -/
theorem test_counter_top : satAdd48 (2 ^ 48 - 1) 1 = 2 ^ 63 + (2 ^ 48 - 1) ∧ satAdd48 0 1 = 1 := by decide

/-- 02 R69: a pop of an empty queue reads 0 and moves nothing; of a queue with one entry it reads that entry. -/
theorem test_pop : Nq.reset.pop 0 = (0, Nq.reset) ∧ ({ Nq.reset with w := 1, held := [5] }.pop 0).1 = 5 := by decide

/-- An idle step counts one FRC count of 0x28F5C28F5 fallback units. -/
theorem test_idle_step : (match step live with | .next t => (t.tm.frc, t.tm.fallback) | _ => (0, 0)) = (10 ^ 13 + 1, 0x28F5C28F5) := by decide +kernel

/-- 12 R390: an enabled tamper input erases the owner key and the root and sets the latch. -/
theorem test_tamper_erases : (match exec (.zeroizeCause 0) live with
    | .next t => (t.ov.kreg, t.ov.root, t.ov.tamper) | _ => (none, none, false)) = (none, none, true) := by decide +kernel

/-- 12 Table 12-6: no change leaves RETIRED. -/
theorem test_retired_is_final : (List.range 5).all (fun t => !lifecycleStep .retired t) = true := by decide

/-- IDCODE leaves the block as it is. -/
theorem test_jtag_idcode_keeps_state : (match exec .jtagIdcode live with | .next t => t.pm == live.pm && t.hi == live.hi | _ => false) = true := by decide +kernel

/-- FIPS 180-4, the example "abc" of SHA-256. -/
theorem test_sha256 : sha256 [0x61, 0x62, 0x63] =
    beBytes 32 0xBA7816BF8F01CFEA414140DE5DAE2223B00361A396177A9CB410FF61F20015AD := by decide +kernel

/-- FIPS 180-4, the example "abc" of SHA-384. -/
theorem test_sha384 : sha384 [0x61, 0x62, 0x63] = beBytes 48
    0xCB00753F45A35E8BB5A03D699AC65007272C32AB0EDED1631A8B605A43FF5BED8086072BA1E7CC2358BAECA134C825A7 := by decide +kernel

/-- RFC 4231, test case 1: HMAC-SHA-256 of "Hi There" under 20 bytes 0x0B. -/
theorem test_hmac : hmacSha256 (List.replicate 20 0x0B) [0x48, 0x69, 0x20, 0x54, 0x68, 0x65, 0x72, 0x65] =
    beBytes 32 0xB0344C61D8DB38535CA8AFCEAF0BF12B881DC200C9833DA726E9376C2E32CFF7 := by decide +kernel

/-- NIST GCM, test case 14: AES-256 of one block of zeros under the zero key and nonce. -/
theorem test_gcm : gcmSeal (List.replicate 32 0) (List.replicate 12 0) [] (List.replicate 16 0) =
    beBytes 32 0xCEA7403D4D606B6E074EC5D3BAF39D18D0D1C8A799996BF0265B98B5D48AB919 := by decide +kernel

/-- RFC 6979, A.2.6: the public key of the P-384 example. -/
theorem test_p384_public :
    publicKey p384 0x6B9D3DAD2E1B8C1C05B19875B6659F4DE23C3B667BF297BA9AA47740787137D896D5724E4C70A825F872C9EA60D2EDF5 =
    beBytes 48 0xEC3A4E415B4E19A4568618029F427FA5DA9A8BC4AE92E02E06AAE5286B300C64DEF8F0EA9055866064A254515480BC13 ++
    beBytes 48 0x8015D9B72D7D57244EA8EF9AC0C621896708A59367F9DFB9F54CA84B3F1C9DB1288B231C3AE0D4FE7344FD2533264720 := by
  decide +kernel

/-- A signature verifies under the public key of its private key, and not over another message. -/
theorem test_ecdsa : ecdsaVerify p384 (publicKey p384 7) [1, 2] (ecdsaSign p384 7 12345 [1, 2]) = true ∧
    ecdsaVerify p384 (publicKey p384 7) [1, 3] (ecdsaSign p384 7 12345 [1, 2]) = false := by decide +kernel

/-- A tag whose last byte is wrong does not verify, and one whose counter is not above the slot's fails by its counter. -/
theorem test_tag_refused : (fun s : State => (tagVerdict { hdT 0x0811 40 with params := ((hdT 0x0811 40).params.dropLast ++ [256]) }
      (specM 0x0811 40 true true) ⟨2, 9, 0, 1⟩ s, tagVerdict (hdT 0x0811 40) (specM 0x0811 40 true true) ⟨2, 9, 0, 0⟩ s)) (core 0x0811) =
    ((0x41, false), (0x41, true)) := by decide +kernel

/-! ### The host commands -/

theorem witness_SysNop : ∃ (h : Hdr) (s w : State), w = takeHead h.src s ∧
    passes h (spec0 0x0000 0) s = true :=
  ⟨hd 0, (sub (hd 0) 0x0000 (core 0x0000)), _, rfl, by decide +kernel⟩

theorem witness_SysIdentify : ∃ (h : Hdr) (s w : State), w = takeHead h.src s ∧
    passes h (spec0 0x0001 0) s = true :=
  ⟨hd 0, (sub (hd 0) 0x0001 (core 0x0001)), _, rfl, by decide +kernel⟩

theorem witness_SysQueryHandle : ∃ (h : Hdr) (s w : State) (handle : Nat) (o : OpEntry) (o' : OpEntry), w = takeHead h.src s ∧
    passes h (spec0 0x0002 4) s = true ∧
    findOp w handle = some o ∧
    o' = o.advance (freeBits 64 w) w :=
  ⟨hd 4, (sub (hd 4) 0x0002 (withOp (opn 0x03000001 0x0010 (.sysSetMode (hd 1) 3)) (core 0x0002))), _, 0x03000001, opn 0x03000001 0x0010 (.sysSetMode (hd 1) 3), _, rfl, by decide +kernel, by decide +kernel, rfl⟩

theorem witness_SysCancel : ∃ (h : Hdr) (s w : State) (handle : Nat) (o : OpEntry) (o' : OpEntry) (v : State), w = takeHead h.src s ∧
    passes h (spec0 0x0003 4) s = true ∧
    findOp w handle = some o ∧
    o' = o.advance (freeBits 64 w) w ∧
    v = lookAt handle w ∧
    cancellableOpcodes.contains o'.opcode = true ∧
    pastCommit v o' = false :=
  ⟨hd 4, (sub (hd 4) 0x0003 (withOp (opn 0x03000001 0x0010 (.sysSetMode (hd 1) 3)) (core 0x0003))), _, 0x03000001, opn 0x03000001 0x0010 (.sysSetMode (hd 1) 3), _, _, rfl, by decide +kernel, by decide +kernel, rfl, rfl, by decide +kernel, by decide +kernel⟩

theorem witness_SysSetMode : ∃ (h : Hdr) (s w : State) (target : Nat), w = takeHead h.src s ∧
    passes h (specM 0x0010 1 (within 1 3 target) (atTarget target s || modeReachable target s)) s = true ∧ atTarget target s = true :=
  ⟨hd 1, sub (hd 1) 0x0010 (core 0x0010), _, 2, rfl, by decide +kernel⟩

theorem witness_SysSetMode_accepted : ∃ (h : Hdr) (s w : State) (target : Nat), w = takeHead h.src s ∧
    passes h (specM 0x0010 1 (within 1 3 target) (atTarget target s || modeReachable target s)) s = true ∧ atTarget target s = false ∧
    runningOp w 0x0010 = false ∧ w.pm.hs = none ∧ s.hi.ops.length < 1024 :=
  ⟨hd 1, sub (hd 1) 0x0010 (core 0x0010), _, 3, rfl, by decide +kernel⟩

theorem witness_SysFreeze : ∃ (h : Hdr) (s w : State), w = takeHead h.src s ∧
    passes h (spec0 0x0011 0) s = true :=
  ⟨hd 0, (sub (hd 0) 0x0011 (core 0x0011)), _, rfl, by decide +kernel⟩

theorem witness_SysThaw : ∃ (h : Hdr) (s w : State), w = takeHead h.src s ∧
    passes h (specM 0x0012 0 true (s.pm.mode == .frozen)) s = true ∧
    w.pins.freezeN = true :=
  ⟨{ hd 0 with src := .ring 0 }, (ringHead 0x0012 (inMode .frozen (core 0))), _, rfl, by decide +kernel⟩

theorem witness_SysReset : ∃ (h : Hdr) (s w : State) (kind : Nat), w = takeHead h.src s ∧
    passes h (specP 0x0013 1 (kind == 0)) s = true :=
  ⟨hd 1, (sub (hd 1) 0x0013 (core 0x0013)), _, 0, rfl, by decide +kernel⟩

theorem witness_SysNqMark : ∃ (h : Hdr) (s w : State) (q : Nat), w = takeHead h.src s ∧
    passes h (specP 0x0020 1 (q < 32)) s = true :=
  ⟨hd 1, (sub (hd 1) 0x0020 (core 0x0020)), _, 31, rfl, by decide +kernel⟩

theorem witness_SysNqRewind : ∃ (h : Hdr) (s w : State) (q : Nat) (n : Nq), w = takeHead h.src s ∧
    passes h (specP 0x0021 1 (q < 32)) s = true ∧
    (getNq w q).rewind w.tm.frc = (n, true) :=
  ⟨hd 1, (sub (hd 1) 0x0021 (setNq 31 { Nq.reset with markValid := true } (core 0x0021))), _, 31, { Nq.reset with markValid := true }, rfl, by decide +kernel⟩

theorem witness_SysNqRelease : ∃ (h : Hdr) (s w : State) (q : Nat) (count : Nat) (n : Nq), w = takeHead h.src s ∧
    passes h (specP 0x0022 4 (q < 32 && count ≤ 1024)) s = true ∧
    (getNq w q).release count = (n, true) :=
  ⟨hd 4, (sub (hd 4) 0x0022 (core 0x0022)), _, 31, 0, Nq.reset, rfl, by decide +kernel⟩

theorem witness_SysClearCounters : ∃ (h : Hdr) (s w : State) (mask : Nat), w = takeHead h.src s ∧
    passes h (spec0 0x0030 4) s = true :=
  ⟨hd 4, (sub (hd 4) 0x0030 (core 0x0030)), _, 2 ^ 32 - 1, rfl, by decide +kernel⟩

theorem witness_CfgLoad : ∃ (h : Hdr) (s w : State) (source : Nat) (addr : Nat) (len : Nat) (_img : Image), w = takeHead h.src s ∧
    passes h { specM 0x0400 20 (flag source && bufferOk addr && within 4096 67108864 len) (inOpen s) with cfgBusy := true } s = true ∧
    s.hi.ops.length < 1024 :=
  ⟨hd 20, (sub (hd 20) 0x0400 (core 0x0400)), _, 1, 2 ^ 64 - 1, 67108864, img, rfl, by decide +kernel⟩

theorem witness_CfgCommit : ∃ (h : Hdr) (s w : State), w = takeHead h.src s ∧
    passes h { specM 0x0401 0 true (inSetup s) with cfgBusy := true } s = true ∧
    (w.cfg.staged.isNone) = false ∧
    (stagedInUse w) = false ∧
    s.hi.ops.length < 1024 :=
  ⟨hd 0, (sub (hd 0) 0x0401 (staged (core 0x0401))), _, rfl, by decide +kernel⟩

theorem witness_CfgDiscard : ∃ (h : Hdr) (s w : State), w = takeHead h.src s ∧
    passes h { spec0 0x0402 0 with cfgBusy := true } s = true ∧
    (stagedInUse w) = false :=
  ⟨hd 0, (sub (hd 0) 0x0402 (staged (core 0x0402))), _, rfl, by decide +kernel⟩

theorem witness_CfgReport : ∃ (h : Hdr) (s w : State) (which : Nat) (addr : Nat) (len : Nat), w = takeHead h.src s ∧
    passes h { specP 0x0403 20 (flag which && bufferOk addr && len < 2 ^ 32 && whichOk s which) with lenOk := 768 ≤ len } s = true ∧
    s.hi.ops.length < 1024 :=
  ⟨hd 20, (sub (hd 20) 0x0403 (staged (core 0x0403))), _, 1, 0, 768, rfl, by decide +kernel⟩

theorem witness_CfgQuery : ∃ (h : Hdr) (s w : State) (which : Nat), w = takeHead h.src s ∧
    passes h (specP 0x0404 1 (flag which && whichOk s which)) s = true :=
  ⟨hd 1, (sub (hd 1) 0x0404 (core 0x0404)), _, 0, rfl, by decide +kernel⟩

theorem witness_CfgStore : ∃ (h : Hdr) (s w : State), w = takeHead h.src s ∧
    passes h { specM 0x0405 0 true (inSetup s) with auth := .owner, cfgBusy := true } s = true ∧
    (w.cfg.staged.isNone) = false ∧
    (stagedInUse w) = false ∧
    s.hi.ops.length < 1024 :=
  ⟨hdT 0x0405 0, (sub (hdT 0x0405 0) 0x0405 (staged (core 0x0405))), _, rfl, by decide +kernel⟩

theorem witness_PortConfig : ∃ (h : Hdr) (s w : State) (p : PortP), w = takeHead h.src s ∧
    passes h (portSpec 0x0800 12 (portOk p) (inSetup s) s) s = true ∧
    keepsPair p w = true ∧
    (opsWith w (configsPort p.port) != []) = false ∧
    s.hi.ops.length < 1024 :=
  ⟨hd 12, (sub (hd 12) 0x0800 (core 0x0800)), _, ⟨4, 5, 9216, 2 ^ 48 - 1⟩, rfl, by decide +kernel⟩

theorem witness_PortSetExact : ∃ (h : Hdr) (s w : State) (port : Nat) (index : Nat) (en : Nat) (addr : Nat), w = takeHead h.src s ∧
    passes h (portSpec 0x0801 10 (port < 5 && index < 16 && flag en && addr < 2 ^ 48) true s) s = true :=
  ⟨hd 10, (sub (hd 10) 0x0801 (core 0x0801)), _, 4, 15, 1, 2 ^ 48 - 1, rfl, by decide +kernel⟩

theorem witness_PortSetHash : ∃ (h : Hdr) (s w : State) (p : HashP), w = takeHead h.src s ∧
    passes h (portSpec 0x0802 68 (hashOk p) true s) s = true :=
  ⟨hd 68, (sub (hd 68) 0x0802 (core 0x0802)), _, ⟨4, 2, 1, 1, List.replicate 16 (2 ^ 32 - 1)⟩, rfl, by decide +kernel⟩

theorem witness_PortSetVlan : ∃ (h : Hdr) (s w : State) (p : VlanP), w = takeHead h.src s ∧
    passes h (portSpec 0x0803 (4 + 2 * p.count) (vlanOk p) true s) s = true :=
  ⟨hd 36, (sub (hd 36) 0x0803 (core 0x0803)), _, ⟨4, 1, 16, List.replicate 16 4095⟩, rfl, by decide +kernel⟩

theorem witness_PortSetIntake : ∃ (h : Hdr) (s w : State) (port : Nat) (e : List IntakeEntry), w = takeHead h.src s ∧
    passes h (portSpec 0x0804 20 (intakeOk port e) (inSetup s) s) s = true :=
  ⟨hd 20, (sub (hd 20) 0x0804 (core 0x0804)), _, 3, [⟨65535, 1, 1⟩], rfl, by decide +kernel⟩

theorem witness_PortSetPtMap : ∃ (h : Hdr) (s w : State) (port : Nat) (map : Nat), w = takeHead h.src s ∧
    passes h (portSpec 0x0805 8 (port < 5) true s) s = true :=
  ⟨hd 8, (sub (hd 8) 0x0805 (core 0x0805)), _, 4, 0, rfl, by decide +kernel⟩

theorem witness_PortPrpPair : ∃ (h : Hdr) (s w : State) (p : PrpP), w = takeHead h.src s ∧
    passes h (portSpec 0x0808 6 (prpOk p) (inSetup s) s) s = true ∧
    pairAlike w p.pair = true :=
  ⟨hd 6, (sub (hd 6) 0x0808 (core 0x0808)), _, ⟨1, 1, 10000, 10⟩, rfl, by decide +kernel⟩

theorem witness_PortMacsecCfg : ∃ (h : Hdr) (s w : State) (p : MacsecP), w = takeHead h.src s ∧
    passes h (portOwner 0x0810 20 (macsecOk p) true s) s = true :=
  ⟨hdT 0x0810 20, (sub (hdT 0x0810 20) 0x0810 (core 0x0810)), _, ⟨3, 1, 2, 64, 1, 2 ^ 64 - 1⟩, rfl, by decide +kernel⟩

theorem witness_PortSaInstall : ∃ (h : Hdr) (s w : State) (p : SaP), w = takeHead h.src s ∧
    passes h (portOwner 0x0811 40 (saOk p) (s.pm.mode != .provision) s) s = true ∧
    saStatus p w = 0 :=
  ⟨hdT 0x0811 40, (sub (hdT 0x0811 40) 0x0811 (key 3 0 0xF3 (core 0x0811))), _, ⟨3, 1, 15, 3, 3, 1, 1, 1, 1, 1, 0⟩, rfl, by decide +kernel⟩

theorem witness_PortSaActivate : ∃ (h : Hdr) (s w : State) (port : Nat) (an : Nat) (nextAn : Nat), w = takeHead h.src s ∧
    passes h (portSpec 0x0812 4 (port < 4 && an < 4 && nextAn < 4) true s) s = true ∧
    (saOf w port 0 0 an).isNone = false :=
  ⟨hd 4, (sub (hd 4) 0x0812 (setSa ⟨3, 0, 0, 3, 3, 0, 1, 1, 1, 1, 0⟩ (core 0x0812))), _, 3, 3, 0, rfl, by decide +kernel⟩

theorem witness_PortSaDestroy : ∃ (h : Hdr) (s w : State) (port : Nat) (dir : Nat) (sc : Nat) (an : Nat), w = takeHead h.src s ∧
    passes h (portOwner 0x0813 4 (scOk port dir sc an) true s) s = true ∧
    ((saOf w port dir sc an).isNone || saNeeded w port dir an) = false :=
  ⟨hdT 0x0813 4, (sub (hdT 0x0813 4) 0x0813 (setSa ⟨3, 1, 15, 3, 3, 0, 1, 1, 1, 1, 0⟩ (core 0x0813))), _, 3, 1, 15, 3, rfl, by decide +kernel⟩

theorem witness_PortGateLoad : ∃ (h : Hdr) (s w : State) (p : GateP), w = takeHead h.src s ∧
    passes h (portSpec 0x0820 (24 + 8 * p.entries.length) (gateOk p) true s) s = true ∧
    (gateWaits (getPort w p.port)) = false ∧
    resourceFits (loadGate p 0 w) 9 = true ∧
    s.hi.ops.length < 1024 :=
  ⟨hd 32, (sub (hd 32) 0x0820 (core 0x0820)), _, ⟨3, ⟨0, 0⟩, 1, 100, [⟨255, 10000000⟩]⟩, rfl, by decide +kernel⟩

theorem witness_PortGateQuery : ∃ (h : Hdr) (s w : State) (port : Nat), w = takeHead h.src s ∧
    passes h (portSpec 0x0821 1 (port < 4) true s) s = true :=
  ⟨hd 1, (sub (hd 1) 0x0821 (core 0x0821)), _, 3, rfl, by decide +kernel⟩

theorem witness_PortLinkStatus : ∃ (h : Hdr) (s w : State) (port : Nat), w = takeHead h.src s ∧
    passes h (portSpec 0x0830 1 (port < 5) true s) s = true :=
  ⟨hd 1, (sub (hd 1) 0x0830 (core 0x0830)), _, 4, rfl, by decide +kernel⟩

theorem witness_PortClearCounters : ∃ (h : Hdr) (s w : State) (mask : Nat), w = takeHead h.src s ∧
    passes h (portSpec 0x0840 1 (mask < 32) true s) s = true :=
  ⟨hd 1, (sub (hd 1) 0x0840 (core 0x0840)), _, 31, rfl, by decide +kernel⟩

theorem witness_TimeConfig : ∃ (h : Hdr) (s w : State) (p : TimeP), w = takeHead h.src s ∧
    passes h (specM 0x0C00 28 (timeCfgOk p) (inSetup s)) s = true :=
  ⟨hd 28, (sub (hd 28) 0x0C00 (core 0x0C00)), _, ⟨1, 1, 0, 2, 255, 31, 500000, 0, 1, 2592000⟩, rfl, by decide +kernel⟩

theorem witness_TimeSource : ∃ (h : Hdr) (s w : State) (primary : Nat) (secondary : Nat) (revertS : Nat), w = takeHead h.src s ∧
    passes h (specM 0x0C01 4 (sourceOk primary secondary revertS) (inSetup s)) s = true :=
  ⟨hd 4, (sub (hd 4) 0x0C01 (core 0x0C01)), _, 1, 2, 65535, rfl, by decide +kernel⟩

theorem witness_TimePtpConfig : ∃ (h : Hdr) (s w : State) (p : PtpP), w = takeHead h.src s ∧
    passes h (specM 0x0C02 20 (ptpOk p) (inSetup s)) s = true ∧
    (ptpClash p w) = false ∧
    ((ptpOf w p.inst).busy.isSome) = false ∧
    s.hi.ops.length < 1024 :=
  ⟨hd 20, (sub (hd 20) 0x0C02 (core 0x0C02)), _, ⟨1, 1, 3, 255, 2, 0, 31, -4, 4, 5, 255, 255, 255, 0⟩, rfl, by decide +kernel⟩

theorem witness_TimePpsConfig : ∃ (h : Hdr) (s w : State) (p : PpsP), w = takeHead h.src s ∧
    passes h (specM 0x0C03 8 (ppsOk p) (inSetup s)) s = true :=
  ⟨hd 8, (sub (hd 8) 0x0C03 (core 0x0C03)), _, ⟨1, 1, 3, 1, 10000000⟩, rfl, by decide +kernel⟩

theorem witness_TimePortLatency : ∃ (h : Hdr) (s w : State) (p : LatP), w = takeHead h.src s ∧
    passes h (specM 0x0C04 12 (latOk p) (inSetup s)) s = true :=
  ⟨hd 12, (sub (hd 12) 0x0C04 (core 0x0C04)), _, ⟨6, -2147483648, 2147483647⟩, rfl, by decide +kernel⟩

theorem witness_TimeRead : ∃ (h : Hdr) (s w : State), w = takeHead h.src s ∧
    passes h (spec0 0x0C08 0) s = true :=
  ⟨hd 0, (sub (hd 0) 0x0C08 (core 0x0C08)), _, rfl, by decide +kernel⟩

theorem witness_TimeSet : ∃ (h : Hdr) (s w : State) (t : DT80), w = takeHead h.src s ∧
    passes h { specP 0x0C09 12 (timeOk t) with auth := .owner } s = true ∧
    settable w = true :=
  ⟨hdT 0x0C09 12, (sub (hdT 0x0C09 12) 0x0C09 (core 0x0C09)), _, ⟨2 ^ 48 - 1, 999999999⟩, rfl, by decide +kernel⟩

theorem witness_TimeUtcOffset : ∃ (h : Hdr) (s w : State) (ofs : Int) (valid : Nat) (leap : Nat), w = takeHead h.src s ∧
    passes h { specP 0x0C0A 4 (signedFits 16 ofs && flag valid && leap < 3) with auth := .owner } s = true ∧
    (ptpSuppliesUtc w) = false :=
  ⟨hdT 0x0C0A 4, (sub (hdT 0x0C0A 4) 0x0C0A (core 0x0C0A)), _, -32768, 1, 2, rfl, by decide +kernel⟩

theorem witness_TimeCmpArm : ∃ (h : Hdr) (s w : State) (p : CmpP), w = takeHead h.src s ∧
    passes h (specP 0x0C10 36 (cmpOk p)) s = true :=
  ⟨hd 36, (sub (hd 36) 0x0C10 (core 0x0C10)), _, ⟨15, 127, ⟨2 ^ 48 - 1, 999999999, 65535⟩, 65536000, 0, 1023, 65535, 500000000⟩, rfl, by decide +kernel⟩

theorem witness_TimeCmpDisarm : ∃ (h : Hdr) (s w : State) (cmp : Nat), w = takeHead h.src s ∧
    passes h (specP 0x0C11 1 (cmp < 16)) s = true :=
  ⟨hd 1, (sub (hd 1) 0x0C11 (core 0x0C11)), _, 15, rfl, by decide +kernel⟩

theorem witness_TimeCmpQuery : ∃ (h : Hdr) (s w : State) (cmp : Nat), w = takeHead h.src s ∧
    passes h (specP 0x0C12 1 (cmp < 16)) s = true :=
  ⟨hd 1, (sub (hd 1) 0x0C12 (core 0x0C12)), _, 15, rfl, by decide +kernel⟩

theorem witness_TimeHoldoverTest : ∃ (h : Hdr) (s w : State) (en : Nat), w = takeHead h.src s ∧
    passes h (specM 0x0C20 1 (flag en) (inCommission s)) s = true :=
  ⟨hd 1, (sub (hd 1) 0x0C20 (core 0x0C20)), _, 1, rfl, by decide +kernel⟩

theorem witness_TimeMainRetest : ∃ (h : Hdr) (s w : State), w = takeHead h.src s ∧
    passes h (spec0 0x0C21 0) s = true ∧
    w.tm.mainFailed = true ∧
    (w.tm.retest.isSome) = false ∧
    s.hi.ops.length < 1024 :=
  ⟨hd 0, (sub (hd 0) 0x0C21 (mainFailed (core 0x0C21))), _, rfl, by decide +kernel⟩

theorem witness_TimeStatus : ∃ (h : Hdr) (s w : State), w = takeHead h.src s ∧
    passes h (spec0 0x0C30 0) s = true :=
  ⟨hd 0, (sub (hd 0) 0x0C30 (core 0x0C30)), _, rfl, by decide +kernel⟩

theorem witness_TimeClearCounters : ∃ (h : Hdr) (s w : State), w = takeHead h.src s ∧
    passes h (spec0 0x0C40 0) s = true :=
  ⟨hd 0, (sub (hd 0) 0x0C40 (core 0x0C40)), _, rfl, by decide +kernel⟩

theorem witness_StreamInstall : ∃ (h : Hdr) (s w : State) (p : StreamP), w = takeHead h.src s ∧
    passes h { streamSpec 0x1000 576 (streamOk p) (serving s) with auth := if p.authMode == 0 then .owner else .free, cfgBusy := true } s = true ∧
    installStatus p w = 0 ∧
    s.hi.ops.length < 1024 :=
  ⟨hdT 0x1000 576, (sub (hdT 0x1000 576) 0x1000 (core 0x1000)), _, strm 16375, rfl, by decide +kernel⟩

theorem witness_StreamRemove : ∃ (h : Hdr) (s w : State) (sid : Nat), w = takeHead h.src s ∧
    passes h (streamSpec 0x1001 2 (sid < 16376) (serving s)) s = true ∧
    ((pendingInstalls w).any (fun q => q.sid == sid)) = false ∧
    ((getStream w sid).isNone) = false :=
  ⟨hd 2, (sub (hd 2) 0x1001 (placeStream (strm 16375) true (core 0x1001))), _, 16375, rfl, by decide +kernel⟩

theorem witness_StreamRekey : ∃ (h : Hdr) (s w : State) (sid : Nat) (keyNext : Nat) (keyIdNext : Nat), w = takeHead h.src s ∧
    passes h { streamSpec 0x1002 8 (sid < 16376 && keyNext < 256 && keyIdNext < 2 ^ 32) (serving s) with auth := .owner } s = true ∧
    rekeyStatus sid keyNext w = 0 :=
  ⟨hdT 0x1002 8, (sub (hdT 0x1002 8) 0x1002 (key 3 1 0x10 (placeStream { strm 16375 with proto := 1, authMode := 2, svidLen := 1, svid := [65] } true (core 0x1002)))), _, 16375, 3, 2 ^ 32 - 1, rfl, by decide +kernel⟩

theorem witness_StreamRelease : ∃ (h : Hdr) (s w : State) (sid : Nat), w = takeHead h.src s ∧
    passes h { streamSpec 0x1003 2 (sid < 16376) (serving s) with auth := .owner } s = true ∧
    ((getStream w sid).map (·.state) != some .quarantined) = false :=
  ⟨hdT 0x1003 2, (sub (hdT 0x1003 2) 0x1003 (quarantine 16375 (placeStream (strm 16375) true (core 0x1003)))), _, 16375, rfl, by decide +kernel⟩

theorem witness_StreamQuery : ∃ (h : Hdr) (s w : State) (sid : Nat), w = takeHead h.src s ∧
    passes h (streamSpec 0x1004 2 (sid < 16384) (inOpen s)) s = true :=
  ⟨hd 2, (sub (hd 2) 0x1004 (core 0x1004)), _, 16383, rfl, by decide +kernel⟩

theorem witness_StreamSetTimers : ∃ (h : Hdr) (s w : State) (sid : Nat) (staleN : Nat) (lostN : Nat), w = takeHead h.src s ∧
    passes h (streamSpec 0x1005 6 (sid < 16384 && within 1 255 staleN && within (staleN + 1) 65535 lostN) (serving s)) s = true ∧
    (getStream w sid).isNone = false :=
  ⟨hd 6, (sub (hd 6) 0x1005 (placeStream (strm 16375) true (core 0x1005))), _, 16375, 255, 65535, rfl, by decide +kernel⟩

theorem witness_StreamList : ∃ (h : Hdr) (s w : State) (addr : Nat) (len : Nat), w = takeHead h.src s ∧
    passes h { streamSpec 0x1006 12 (bufferOk addr && len < 2 ^ 32) (inOpen s) with lenOk := 16384 ≤ len } s = true ∧
    s.hi.ops.length < 1024 :=
  ⟨hd 12, (sub (hd 12) 0x1006 (core 0x1006)), _, 2 ^ 64 - 1, 16384, rfl, by decide +kernel⟩

theorem witness_StreamGconfig : ∃ (h : Hdr) (s w : State) (p : SiP), w = takeHead h.src s ∧
    passes h { streamSpec 0x1010 6 (siOk p) (inCommission s) with cfgBusy := true } s = true ∧
    admitted (setSi p w) = true :=
  ⟨hd 6, (sub (hd 6) 0x1010 (core 0x1010)), _, ⟨31, 1000, 10000⟩, rfl, by decide +kernel⟩

theorem witness_StreamClearCounters : ∃ (h : Hdr) (s w : State) (first : Nat) (count : Nat), w = takeHead h.src s ∧
    passes h (streamSpec 0x1020 4 (first < 16384 && first + count ≤ 16384) (inOpen s)) s = true :=
  ⟨hd 4, (sub (hd 4) 0x1020 (core 0x1020)), _, 0, 16384, rfl, by decide +kernel⟩

theorem witness_GroupDefine : ∃ (h : Hdr) (s w : State) (p : GroupP), w = takeHead h.src s ∧
    passes h (groupCfg 0x1400 36 (groupOk p) s) s = true ∧
    (groupLive w p.gid) = false ∧
    (groupBusy w p.gid) = false ∧
    s.hi.ops.length < 1024 :=
  ⟨hd 36, (sub (hd 36) 0x1400 (core 0x1400)), _, grp 63, rfl, by decide +kernel⟩

theorem witness_GroupDelete : ∃ (h : Hdr) (s w : State) (gid : Nat), w = takeHead h.src s ∧
    passes h (groupCfg 0x1401 1 (gid < 64) s) s = true ∧
    (groupLive w gid || (getGroup w gid).any (·.shed)) = true ∧
    groupReferred w gid = false ∧
    groupBusy w gid = false :=
  ⟨hd 1, (sub (hd 1) 0x1401 (placeGroup (grp 63) [] true (core 0x1401))), _, 63, rfl, by decide +kernel⟩

theorem witness_GroupMembers : ∃ (h : Hdr) (s w : State) (gid : Nat) (op : Nat) (count : Nat) (sids : List Nat), w = takeHead h.src s ∧
    passes h (groupCfg 0x1402 (4 + 2 * count) (gid < 64 && flag op && within 1 2046 count && sids.length == count && sids.all (· < 16384) && sids.eraseDups.length == count) s) s = true ∧
    membersStatus gid op sids w = 0 ∧
    s.hi.ops.length < 1024 :=
  ⟨hd 6, (sub (hd 6) 0x1402 (placeGroup (grp 63) [] true (placeStream (strm 16375) true (core 0x1402)))), _, 63, 0, 1, [16375], rfl, by decide +kernel⟩

theorem witness_GroupSetTiming : ∃ (h : Hdr) (s w : State) (p : TimingP), w = takeHead h.src s ∧
    passes h (groupCfg 0x1403 20 (p.gid < 64 && timingOk 1 p.expect p.windowUs p.horizonUs p.lateSpanUs p.amendMs) s) s = true ∧
    timingStatus p w = 0 ∧
    s.hi.ops.length < 1024 :=
  ⟨hd 20, (sub (hd 20) 0x1403 (placeGroup (grp 63) [] true (core 0x1403))), _, ⟨63, 2, 320000, 20000, 320000, 255⟩, rfl, by decide +kernel⟩

theorem witness_GroupQuery : ∃ (h : Hdr) (s w : State) (gid : Nat), w = takeHead h.src s ∧
    passes h (groupSpec 0x1404 1 (gid < 64) (inOpen s)) s = true :=
  ⟨hd 1, (sub (hd 1) 0x1404 (core 0x1404)), _, 63, rfl, by decide +kernel⟩

theorem witness_GroupSessionDefine : ∃ (h : Hdr) (s w : State) (p : SessionP), w = takeHead h.src s ∧
    passes h (groupCfg 0x1408 144 (sessionOk p) s) s = true ∧
    sessionStatus p w = 0 ∧
    s.hi.ops.length < 1024 :=
  ⟨hd 144, (sub (hd 144) 0x1408 (placeGroup (grp 63) [] true (core 0x1408))), _, sess, rfl, by decide +kernel⟩

theorem witness_GroupSessionDelete : ∃ (h : Hdr) (s w : State) (session : Nat), w = takeHead h.src s ∧
    passes h (groupCfg 0x1409 1 (session < 128) s) s = true ∧
    (tfind w.erg.sessions session).isNone = false :=
  ⟨hd 1, (sub (hd 1) 0x1409 (placeSession sess false true (core 0x1409))), _, 127, rfl, by decide +kernel⟩

theorem witness_GroupSessionEnable : ∃ (h : Hdr) (s w : State) (session : Nat) (en : Nat), w = takeHead h.src s ∧
    passes h (groupCfg 0x140A 2 (session < 128 && flag en) s) s = true ∧
    sessionEnableStatus session en w = 0 :=
  ⟨hd 2, (sub (hd 2) 0x140A (placeSession sess true true (core 0x140A))), _, 127, 0, rfl, by decide +kernel⟩

theorem witness_GroupReadCell : ∃ (h : Hdr) (s w : State) (gid : Nat) (sid : Nat) (index : Nat) (addr : Nat) (len : Nat), w = takeHead h.src s ∧
    passes h { groupSpec 0x1410 28 (gid < 64 && sid < 16384 && index < 2 ^ 40 && bufferOk addr && len < 2 ^ 32) (serving s) with lenOk := 352 ≤ len } s = true ∧
    readable w gid index = true ∧
    s.hi.ops.length < 1024 :=
  ⟨hd 28, (sub (hd 28) 0x1410 (withInstant (core 0x1410))), _, 63, 16375, 7, 2 ^ 64 - 1, 352, rfl, by decide +kernel⟩

theorem witness_GroupClearCounters : ∃ (h : Hdr) (s w : State) (mask : Nat), w = takeHead h.src s ∧
    passes h (groupSpec 0x1420 8 (mask < 2 ^ 64) (serving s)) s = true :=
  ⟨hd 8, (sub (hd 8) 0x1420 (core 0x1420)), _, 2 ^ 64 - 1, rfl, by decide +kernel⟩

theorem witness_GroupGconfig : ∃ (h : Hdr) (s w : State) (p : ErgP), w = takeHead h.src s ∧
    passes h { groupSpec 0x1421 8 (ergOk p) (inCommission s) with cfgBusy := true } s = true ∧
    admitted (setErg p w) = true :=
  ⟨hd 8, (sub (hd 8) 0x1421 (core 0x1421)), _, ⟨31, 128, 262144⟩, rfl, by decide +kernel⟩

theorem witness_CaravanJobDefine : ∃ (h : Hdr) (s w : State) (p : JobP), w = takeHead h.src s ∧
    passes h { caravanSpec 0x1800 (16 + 32 * p.nodes.length) (jobOk p) (serving s) with cfgBusy := true } s = true ∧
    ((getJob w p.job).isSome || !jobFits p w) = false ∧
    (jobBusy w p.job) = false ∧
    s.hi.ops.length < 1024 :=
  ⟨hd 48, (sub (hd 48) 0x1800 (core 0x1800)), _, job, rfl, by decide +kernel⟩

theorem witness_CaravanJobDelete : ∃ (h : Hdr) (s w : State) (job : Nat), w = takeHead h.src s ∧
    passes h { caravanSpec 0x1801 2 (job < 1024) (serving s) with cfgBusy := true } s = true ∧
    jobDeleteStatus job w = 0 :=
  ⟨hd 2, (sub (hd 2) 0x1801 (placeJob job true (core 0x1801))), _, 1023, rfl, by decide +kernel⟩

theorem witness_CaravanJobBind : ∃ (h : Hdr) (s w : State) (job : Nat) (gid : Nat) (en : Nat), w = takeHead h.src s ∧
    passes h { caravanSpec 0x1802 4 (job < 1024 && gid < 64 && flag en) (serving s) with cfgBusy := true } s = true ∧
    bindJobStatus job gid en w = 0 ∧
    s.hi.ops.length < 1024 :=
  ⟨hd 4, (sub (hd 4) 0x1802 (placeJob job true (placeGroup (grp 63) [] true (core 0x1802)))), _, 1023, 63, 1, rfl, by decide +kernel⟩

theorem witness_CaravanRun : ∃ (h : Hdr) (s w : State) (job : Nat) (arg : Nat), w = takeHead h.src s ∧
    passes h (caravanSpec 0x1803 8 (job < 1024 && arg < 2 ^ 32) (serving s)) s = true ∧
    runStatus job w = 0 ∧
    s.hi.ops.length < 1024 :=
  ⟨hd 8, (sub (hd 8) 0x1803 (placeJob job true (core 0x1803))), _, 1023, 2 ^ 32 - 1, rfl, by decide +kernel⟩

theorem witness_CaravanLevelConfig : ∃ (h : Hdr) (s w : State) (p : LevelP), w = takeHead h.src s ∧
    passes h { caravanSpec 0x1808 52 (levelsOk p) (inCommission s) with cfgBusy := true } s = true ∧
    (runningOp w 0x1808) = false ∧
    s.hi.ops.length < 1024 :=
  ⟨hd 52, (sub (hd 52) 0x1808 (core 0x1808)), _, ⟨64, 11, 30, 31, List.replicate 11 0 ++ [800], List.replicate 11 4095 ++ [0]⟩, rfl, by decide +kernel⟩

theorem witness_CaravanEngineRetire : ∃ (h : Hdr) (s w : State) (engine : Nat), w = takeHead h.src s ∧
    passes h (caravanSpec 0x1810 1 (engine < 66) (serving s)) s = true ∧
    ((getEngine w engine).st == .retired || (getEngine w engine).st == .off) = false ∧
    ((getEngine w engine).st == .selftest || engineOp w) = false ∧
    s.hi.ops.length < 1024 :=
  ⟨hd 1, (sub (hd 1) 0x1810 (core 0x1810)), _, 65, rfl, by decide +kernel⟩

theorem witness_CaravanEngineRestore : ∃ (h : Hdr) (s w : State) (engine : Nat), w = takeHead h.src s ∧
    passes h (caravanSpec 0x1811 1 (engine < 66) (serving s)) s = true ∧
    ((getEngine w engine).st != .retired) = false ∧
    (engineOp w) = false ∧
    s.hi.ops.length < 1024 :=
  ⟨hd 1, (sub (hd 1) 0x1811 (updEngine 65 (fun e => { e with st := .retired }) (core 0x1811))), _, 65, rfl, by decide +kernel⟩

theorem witness_CaravanQueryJob : ∃ (h : Hdr) (s w : State) (job : Nat) (x : Job), w = takeHead h.src s ∧
    passes h (caravanSpec 0x1818 2 (job < 1024) (inOpen s)) s = true ∧
    getJob w job = some x :=
  ⟨hd 2, (sub (hd 2) 0x1818 (placeJob job true (core 0x1818))), _, 1023, { p := job, ranks := (graphRanks job).getD [], bound := [], seq := 0, overrun := false, shed := false, byCommand := true, resident := [] }, rfl, by decide +kernel⟩

theorem witness_CaravanQueryEngine : ∃ (h : Hdr) (s w : State) (engine : Nat), w = takeHead h.src s ∧
    passes h (caravanSpec 0x1819 1 (engine < 66) (inOpen s)) s = true :=
  ⟨hd 1, (sub (hd 1) 0x1819 (core 0x1819)), _, 65, rfl, by decide +kernel⟩

theorem witness_CaravanClearCounters : ∃ (h : Hdr) (s w : State) (mask : Nat), w = takeHead h.src s ∧
    passes h (caravanSpec 0x1820 128 (mask < 2 ^ 1024) (serving s)) s = true :=
  ⟨hd 128, (sub (hd 128) 0x1820 (core 0x1820)), _, 2 ^ 200, rfl, by decide +kernel⟩

theorem witness_TopoModelLoad : ∃ (h : Hdr) (s w : State) (addr : Nat) (len : Nat) (_sigOk : Bool) (_fetchOk : Bool) (_m : ModelP), w = takeHead h.src s ∧
    passes h { topoSpec 0x1C00 12 (bufferOk addr && len < 2 ^ 32) (inCommission s) with cfgBusy := true } s = true ∧
    (w.ts.refac.isSome || runningOp w 0x1C00) = false ∧
    s.hi.ops.length < 1024 :=
  ⟨hd 12, (sub (hd 12) 0x1C00 (core 0x1C00)), _, 2 ^ 64 - 1, 2 ^ 32 - 1, true, true, mdl, rfl, by decide +kernel⟩

theorem witness_TopoConfig : ∃ (h : Hdr) (s w : State) (p : TopoP), w = takeHead h.src s ∧
    passes h { topoSpec 0x1C01 12 (topoOk p) (inCommission s) with cfgBusy := true } s = true ∧
    bindingsOk (setTopo p w) = true ∧
    admitted (setTopo p w) = true :=
  ⟨hd 12, (sub (hd 12) 0x1C01 (core 0x1C01)), _, ⟨31, 63, 255, 8, 11, 7, 100, 255, 4095, 4095⟩, rfl, by decide +kernel⟩

theorem witness_TopoCutsetDefine : ∃ (h : Hdr) (s w : State) (p : CutP), w = takeHead h.src s ∧
    passes h { topoSpec 0x1C02 (28 + 2 * p.branches.length) (cutOk p) (inCommission s) with cfgBusy := true } s = true ∧
    ((tfind w.ts.cuts p.cut).isSome || !cutNames w p) = false ∧
    (1024 < cutBranches w + p.branches.length) = false :=
  ⟨hd 30, (sub (hd 30) 0x1C02 (withModel (core 0x1C02))), _, ⟨63, 1, 50, 15, 15, 10000, [(0, 1)], [0]⟩, rfl, by decide +kernel⟩

theorem witness_TopoCutsetDelete : ∃ (h : Hdr) (s w : State) (cut : Nat), w = takeHead h.src s ∧
    passes h { topoSpec 0x1C03 1 (cut < 64) (inCommission s) with cfgBusy := true } s = true ∧
    (tfind w.ts.cuts cut).isNone = false :=
  ⟨hd 1, (sub (hd 1) 0x1C03 (withCut (core 0x1C03))), _, 63, rfl, by decide +kernel⟩

theorem witness_TopoBranchForce : ∃ (h : Hdr) (s w : State) (branch : Nat) (action : Nat), w = takeHead h.src s ∧
    passes h { topoSpec 0x1C08 4 (branch < 2 ^ 16 && action ≤ 2) (serving s) with auth := .owner } s = true ∧
    forceStatus branch action w = 0 :=
  ⟨hdT 0x1C08 4, (sub (hdT 0x1C08 4) 0x1C08 (withModel (core 0x1C08))), _, 0, 2, rfl, by decide +kernel⟩

theorem witness_TopoRefactor : ∃ (h : Hdr) (s w : State), w = takeHead h.src s ∧
    passes h (topoSpec 0x1C09 0 true (serving s)) s = true ∧
    (w.ts.refacNext.isSome) = false ∧
    s.hi.ops.length < 1024 :=
  ⟨hd 0, (sub (hd 0) 0x1C09 (core 0x1C09)), _, rfl, by decide +kernel⟩

theorem witness_TopoReadResult : ∃ (h : Hdr) (s w : State) (index : Nat) (sections : Nat) (addr : Nat) (len : Nat), w = takeHead h.src s ∧
    passes h { topoSpec 0x1C10 24 (index < 2 ^ 64 && sections < 8 && bufferOk addr && len < 2 ^ 32) (serving s) with lenOk := (pickResult s index).all (fun r => resultBytes r sections ≤ len) } s = true ∧
    (pickResult w index).isSome = true ∧
    s.hi.ops.length < 1024 :=
  ⟨hd 24, (sub (hd 24) 0x1C10 (withResult (core 0x1C10))), _, 9, 7, 0, 64, rfl, by decide +kernel⟩

theorem witness_TopoQuery : ∃ (h : Hdr) (s w : State), w = takeHead h.src s ∧
    passes h (topoSpec 0x1C11 0 true (serving s)) s = true :=
  ⟨hd 0, (sub (hd 0) 0x1C11 (core 0x1C11)), _, rfl, by decide +kernel⟩

theorem witness_TopoClearCounters : ∃ (h : Hdr) (s w : State), w = takeHead h.src s ∧
    passes h (topoSpec 0x1C20 0 true (serving s)) s = true :=
  ⟨hd 0, (sub (hd 0) 0x1C20 (core 0x1C20)), _, rfl, by decide +kernel⟩

theorem witness_OscConfig : ∃ (h : Hdr) (s w : State) (p : OscP), w = takeHead h.src s ∧
    passes h { oscSpec 0x2000 20 (oscOk p) (inCommission s) with cfgBusy := true } s = true ∧
    (!oscRateOk w p.gid || !slowJobOk w p.slowJob || !bindingsOk (setOsc p w)) = false ∧
    admitted (applyOsc p w) = true :=
  ⟨hd 20, (sub (hd 20) 0x2000 (placeJob job true (placeGroup (grp 63) [16375] true (core 0x2000)))), _, ⟨31, 63, 15, 8, 7, 15, 999, 1023, 15, 15, 100, 500, 50, 1020⟩, rfl, by decide +kernel⟩

theorem witness_OscSignalDefine : ∃ (h : Hdr) (s w : State) (p : SigP), w = takeHead h.src s ∧
    passes h { oscSpec 0x2001 20 (sigOk p) (serving s) with cfgBusy := true } s = true ∧
    sigFits p w = true ∧
    (oscBusy w (definesSignal p.sig p.group)) = false ∧
    s.hi.ops.length < 1024 :=
  ⟨hd 20, (sub (hd 20) 0x2001 (oscGid (core 0x2001))), _, sig, rfl, by decide +kernel⟩

theorem witness_OscSignalDelete : ∃ (h : Hdr) (s w : State) (sig : Nat), w = takeHead h.src s ∧
    passes h { oscSpec 0x2002 2 (sig < 1024) (serving s) with cfgBusy := true } s = true ∧
    ((tfind w.sc.sigs sig).isNone || isRef w sig || !oscGroupsFit (dropSig sig w)) = false :=
  ⟨hd 2, (sub (hd 2) 0x2002 (placeSig sig (core 0x2002))), _, 1023, rfl, by decide +kernel⟩

theorem witness_OscGroupDefine : ∃ (h : Hdr) (s w : State) (p : OscGroupP), w = takeHead h.src s ∧
    passes h { oscSpec 0x2008 16 (oscGroupOk p) (serving s) with cfgBusy := true } s = true ∧
    groupFits p (groupSigs w p.group).length = true ∧
    (oscBusy w (definesOscGroup p.group)) = false ∧
    s.hi.ops.length < 1024 :=
  ⟨hd 16, (sub (hd 16) 0x2008 (placeSig sig (oscGid (core 0x2008)))), _, ogr, rfl, by decide +kernel⟩

theorem witness_OscGroupDelete : ∃ (h : Hdr) (s w : State) (group : Nat), w = takeHead h.src s ∧
    passes h { oscSpec 0x2009 1 (group < 128) (serving s) with cfgBusy := true } s = true ∧
    ((tfind w.sc.groups group).isNone || oscGroupUsed w group) = false :=
  ⟨hd 1, (sub (hd 1) 0x2009 (placeOscGroup ogr (core 0x2009))), _, 127, rfl, by decide +kernel⟩

theorem witness_OscReadBands : ∃ (h : Hdr) (s w : State) (first : Nat) (count : Nat) (depth : Nat) (addr : Nat) (len : Nat), w = takeHead h.src s ∧
    passes h { oscSpec 0x2010 20 (within 1 1024 count && first + count ≤ 1024 && within 1 8 depth && bufferOk addr && len < 2 ^ 32) (serving s) with lenOk := 152 * count * depth ≤ len } s = true ∧
    s.hi.ops.length < 1024 :=
  ⟨hd 20, (sub (hd 20) 0x2010 (core 0x2010)), _, 0, 1024, 8, 2 ^ 64 - 1, 152 * 1024 * 8, rfl, by decide +kernel⟩

theorem witness_OscReadModes : ∃ (h : Hdr) (s w : State) (group : Nat) (depth : Nat) (addr : Nat) (len : Nat), w = takeHead h.src s ∧
    passes h (oscSpec 0x2011 16 (group < 128 && within 1 16 depth && bufferOk addr && len < 2 ^ 32) (serving s)) s = true ∧
    modesStatus group depth w = 0 ∧
    s.hi.ops.length < 1024 :=
  ⟨hd 16, (sub (hd 16) 0x2011 (placeOscGroup ogr (core 0x2011))), _, 127, 16, 2 ^ 64 - 1, 0, rfl, by decide +kernel⟩

theorem witness_OscRestart : ∃ (h : Hdr) (s w : State) (group : Nat), w = takeHead h.src s ∧
    passes h (oscSpec 0x2018 1 (group < 128 || group == 0xFF) (serving s)) s = true ∧
    (group != 0xFF && (tfind w.sc.groups group).isNone) = false :=
  ⟨hd 1, (sub (hd 1) 0x2018 (core 0x2018)), _, 0xFF, rfl, by decide +kernel⟩

theorem witness_OscQuery : ∃ (h : Hdr) (s w : State) (group : Nat), w = takeHead h.src s ∧
    passes h (oscSpec 0x2019 1 (group < 128) (inOpen s)) s = true :=
  ⟨hd 1, (sub (hd 1) 0x2019 (core 0x2019)), _, 127, rfl, by decide +kernel⟩

theorem witness_OscClearCounters : ∃ (h : Hdr) (s w : State) (mask : Nat), w = takeHead h.src s ∧
    passes h (oscSpec 0x2020 16 (mask < 2 ^ 128) (serving s)) s = true :=
  ⟨hd 16, (sub (hd 16) 0x2020 (core 0x2020)), _, 2 ^ 128 - 1, rfl, by decide +kernel⟩

theorem witness_AlarmRuleDefine : ∃ (h : Hdr) (s w : State) (p : RuleP), w = takeHead h.src s ∧
    passes h { alarmSpec 0x2400 48 (ruleOk p) (serving s) with auth := .owner, cfgBusy := true } s = true ∧
    ((getRule w p.rule).any (·.en) || !ruleNames w p) = false :=
  ⟨hdT 0x2400 48, (sub (hdT 0x2400 48) 0x2400 (core 0x2400)), _, rul, rfl, by decide +kernel⟩

theorem witness_AlarmRuleEnable : ∃ (h : Hdr) (s w : State) (first : Nat) (count : Nat) (en : Nat), w = takeHead h.src s ∧
    passes h { alarmSpec 0x2401 8 (first < 4096 && within 1 4096 count && first + count ≤ 4096 && flag en) (serving s) with auth := .owner, cfgBusy := true } s = true ∧
    ruleEnableStatus first count en w = 0 :=
  ⟨hdT 0x2401 8, (sub (hdT 0x2401 8) 0x2401 (defineRule rul (withRuleGraph (core 0x2401)))), _, 4095, 1, 1, rfl, by decide +kernel⟩

theorem witness_AlarmRuleDelete : ∃ (h : Hdr) (s w : State) (rule : Nat), w = takeHead h.src s ∧
    passes h { alarmSpec 0x2402 2 (rule < 4096) (serving s) with cfgBusy := true } s = true ∧
    ((getRule w rule).all (·.en)) = false :=
  ⟨hd 2, (sub (hd 2) 0x2402 (defineRule rul (core 0x2402))), _, 4095, rfl, by decide +kernel⟩

theorem witness_AlarmRuleQuery : ∃ (h : Hdr) (s w : State) (rule : Nat), w = takeHead h.src s ∧
    passes h (alarmSpec 0x2403 2 (rule < 4096) (inOpen s)) s = true :=
  ⟨hd 2, (sub (hd 2) 0x2403 (core 0x2403)), _, 4095, rfl, by decide +kernel⟩

theorem witness_AlarmLineConfig : ∃ (h : Hdr) (s w : State) (p : LineP), w = takeHead h.src s ∧
    passes h { alarmSpec 0x2408 8 (p.line < 8 && p.mode ≤ 2 && within 1 10000000 p.pulseUs) (inCommission s) with auth := .owner, cfgBusy := true } s = true :=
  ⟨hdT 0x2408 8, (sub (hdT 0x2408 8) 0x2408 (core 0x2408)), _, ⟨7, 2, 10000000⟩, rfl, by decide +kernel⟩

theorem witness_AlarmAck : ∃ (h : Hdr) (s w : State) (mask : Nat), w = takeHead h.src s ∧
    passes h (alarmSpec 0x2409 1 (mask < 256) (serving s)) s = true :=
  ⟨hd 1, (sub (hd 1) 0x2409 (core 0x2409)), _, 255, rfl, by decide +kernel⟩

theorem witness_AlarmForce : ∃ (h : Hdr) (s w : State) (rule : Nat) (action : Nat), w = takeHead h.src s ∧
    passes h (alarmSpec 0x240A 4 (rule < 4096 && action ≤ 2) (inCommission s)) s = true ∧
    (getRule w rule).any (·.p.test) = true :=
  ⟨hd 4, (sub (hd 4) 0x240A (defineRule rul (core 0x240A))), _, 4095, 2, rfl, by decide +kernel⟩

theorem witness_AlarmXtrigConfig : ∃ (h : Hdr) (s w : State) (p : XtrigP), w = takeHead h.src s ∧
    passes h { alarmSpec 0x2410 16 (xtrigOk p) (inCommission s) with cfgBusy := true } s = true :=
  ⟨hd 16, (sub (hd 16) 0x2410 (core 0x2410)), _, ⟨3, 3, 3, 31, 500000000, 1000000, 1000⟩, rfl, by decide +kernel⟩

theorem witness_AlarmClearCounters : ∃ (h : Hdr) (s w : State) (first : Nat) (count : Nat), w = takeHead h.src s ∧
    passes h (alarmSpec 0x2420 4 (first < 4096 && first + count ≤ 4096) (serving s)) s = true :=
  ⟨hd 4, (sub (hd 4) 0x2420 (core 0x2420)), _, 0, 4096, rfl, by decide +kernel⟩

theorem witness_AcqChannelDefine : ∃ (h : Hdr) (s w : State) (p : ChanP), w = takeHead h.src s ∧
    passes h { acqSpec 0x2800 28 (chanOk p) (serving s) with cfgBusy := true } s = true ∧
    chanFree p w = true ∧
    (acqBusy w p.ch) = false ∧
    s.hi.ops.length < 1024 :=
  ⟨hd 28, (sub (hd 28) 0x2800 (placeGroup (grp 63) [] true (core 0x2800))), _, chn, rfl, by decide +kernel⟩

theorem witness_AcqRingDefine : ∃ (h : Hdr) (s w : State) (p : AqRingP), w = takeHead h.src s ∧
    passes h { acqSpec 0x2801 28 (ringOk p) (serving s) with cfgBusy := true } s = true ∧
    ringFits p w = true ∧
    (acqBusy w p.ch) = false ∧
    s.hi.ops.length < 1024 :=
  ⟨hd 28, (sub (hd 28) 0x2801 (placeChan chn true (core 0x2801))), _, rng, rfl, by decide +kernel⟩

theorem witness_AcqEnable : ∃ (h : Hdr) (s w : State) (ch : Nat) (en : Nat), w = takeHead h.src s ∧
    passes h (acqSpec 0x2802 2 (ch < 16 && flag en) (serving s)) s = true ∧
    acqEnableStatus ch en w = 0 :=
  ⟨hd 2, (sub (hd 2) 0x2802 (placeRing rng true true (placeChan chn true (core 0x2802)))), _, 15, 1, rfl, by decide +kernel⟩

theorem witness_AcqDelete : ∃ (h : Hdr) (s w : State) (ch : Nat), w = takeHead h.src s ∧
    passes h { acqSpec 0x2803 1 (ch < 16) (serving s) with cfgBusy := true } s = true ∧
    ((getChan w ch).all (·.en)) = false ∧
    (acqBusy w ch) = false :=
  ⟨hd 1, (sub (hd 1) 0x2803 (placeChan chn true (core 0x2803))), _, 15, rfl, by decide +kernel⟩

theorem witness_AcqTrigger : ∃ (h : Hdr) (s w : State) (mask : Nat) (d : DT80), w = takeHead h.src s ∧
    passes h (acqSpec 0x2808 16 (mask < 2 ^ 16 && timeOk d) (serving s)) s = true :=
  ⟨hd 16, (sub (hd 16) 0x2808 (core 0x2808)), _, 65535, ⟨2 ^ 48 - 1, 999999999⟩, rfl, by decide +kernel⟩

theorem witness_AcqQuery : ∃ (h : Hdr) (s w : State) (ch : Nat), w = takeHead h.src s ∧
    passes h (acqSpec 0x2809 1 (ch < 16) (inOpen s)) s = true :=
  ⟨hd 1, (sub (hd 1) 0x2809 (core 0x2809)), _, 15, rfl, by decide +kernel⟩

theorem witness_AcqGconfig : ∃ (h : Hdr) (s w : State) (nq : Nat), w = takeHead h.src s ∧
    passes h (acqSpec 0x2810 1 (nq < 32) (inCommission s)) s = true :=
  ⟨hd 1, (sub (hd 1) 0x2810 (core 0x2810)), _, 31, rfl, by decide +kernel⟩

theorem witness_AcqClearCounters : ∃ (h : Hdr) (s w : State) (mask : Nat), w = takeHead h.src s ∧
    passes h (acqSpec 0x2820 2 (mask < 2 ^ 16) (serving s)) s = true :=
  ⟨hd 2, (sub (hd 2) 0x2820 (core 0x2820)), _, 65535, rfl, by decide +kernel⟩

theorem witness_MeterChannelConfig : ∃ (h : Hdr) (s w : State) (p : MChanP), w = takeHead h.src s ∧
    passes h { meterOwner 0x2C00 12 (mchanOk p) s with cfgBusy := true } s = true ∧
    (chanInUse w p.ch || (p.sensor < 2 && !noTemp (getMChan w p.ch).c)) = false :=
  ⟨hdT 0x2C00 12, (sub (hdT 0x2C00 12) 0x2C00 (core 0x2C00)), _, ⟨11, 1, 1, 2, 5, 4, true, true, 1, 11, 0x3F800000⟩, rfl, by decide +kernel⟩

theorem witness_MeterCalibrate : ∃ (h : Hdr) (s w : State) (p : CalP), w = takeHead h.src s ∧
    passes h { meterOwner 0x2C01 44 (calOk p) s with cfgBusy := true } s = true ∧
    (chanInUse w p.ch || ((getMChan w p.ch).p.sensor < 2 && !noTemp p)) = false :=
  ⟨hdT 0x2C01 44, (sub (hdT 0x2C01 44) 0x2C01 (core 0x2C01)), _, ⟨11, 2 ^ 32 - 1, -131072, 2 ^ 32 - 1, 131071, 0, 0, 0, 0, 0, 0⟩, rfl, by decide +kernel⟩

theorem witness_MeterSensorTemp : ∃ (h : Hdr) (s w : State) (ch : Nat) (t : Int), w = takeHead h.src s ∧
    passes h { meterSpec 0x2C02 4 (ch < 12 && signedFits 16 t) (servingDoze s) s with domOk := anchorOn s } s = true :=
  ⟨hd 4, (sub (hd 4) 0x2C02 (core 0x2C02)), _, 11, -32768, rfl, by decide +kernel⟩

theorem witness_MeterElementDefine : ∃ (h : Hdr) (s w : State) (p : ElemP), w = takeHead h.src s ∧
    passes h { meterOwner 0x2C08 16 (elemValuesOk p) s with cfgBusy := true } s = true ∧
    ((getElem' w p.el).en || !elemLimits p w) = false :=
  ⟨hdT 0x2C08 16, (sub (hdT 0x2C08 16) 0x2C08 (mchans (core 0x2C08))), _, elm, rfl, by decide +kernel⟩

theorem witness_MeterElementEnable : ∃ (h : Hdr) (s w : State) (el : Nat) (en : Nat) (v : State), w = takeHead h.src s ∧
    passes h (meterOwner 0x2C09 2 (el < 4 && flag en) s) s = true ∧
    (getElem' w el).defd = true ∧
    (en == 1 && !elemLimits (getElem' w el).p w) = false ∧
    v = (if (getElem' w el).en && en != 1 then closeBlock el 64 w else w) :=
  ⟨hdT 0x2C09 2, (sub (hdT 0x2C09 2) 0x2C09 (placeElem elm (mchans (core 0x2C09)))), _, 3, 1, _, rfl, by decide +kernel, by decide +kernel, by decide +kernel, rfl⟩

theorem witness_MeterEnergyRead : ∃ (h : Hdr) (s w : State) (el : Nat) (reg : Nat), w = takeHead h.src s ∧
    passes h { meterSpec 0x2C0A 2 (el < 4 && reg < 8) (inOpen s || s.pm.mode == .doze) s with domOk := anchorOn s } s = true :=
  ⟨hd 2, (sub (hd 2) 0x2C0A (core 0x2C0A)), _, 3, 7, rfl, by decide +kernel⟩

theorem witness_MeterEnergyPreset : ∃ (h : Hdr) (s w : State) (el : Nat) (reg : Nat) (rollover : Nat) (count : Nat), w = takeHead h.src s ∧
    passes h (meterOwner 0x2C0C 16 (el < 4 && reg < 8 && rollover < 2 ^ 32 && count < 2 ^ 64) s) s = true ∧
    (10 ^ (getElem' w el).p.digits ≤ count || w.am.halted) = false :=
  ⟨hdT 0x2C0C 16, (sub (hdT 0x2C0C 16) 0x2C0C (core 0x2C0C)), _, 3, 7, 2 ^ 32 - 1, 999999999999, rfl, by decide +kernel⟩

theorem witness_MeterEnergySigned : ∃ (h : Hdr) (s w : State) (mask : Nat) (slot : Nat) (addr : Nat) (len : Nat), w = takeHead h.src s ∧
    passes h { meterSpec 0x2C0B 20 (mask < 16 && slot < 256 && bufferOk addr && len < 2 ^ 32) (servingDoze s) s with domOk := anchorOn s, lenOk := 512 ≤ len } s = true ∧
    signedStatus mask slot len w = 0 ∧
    s.hi.ops.length < 1024 :=
  ⟨hd 20, (sub (hd 20) 0x2C0B (key 3 2 0x08 (core 0x2C0B))), _, 15, 3, 2 ^ 64 - 1, 544, rfl, by decide +kernel⟩

theorem witness_MeterPulseConfig : ∃ (h : Hdr) (s w : State) (p : PulseP), w = takeHead h.src s ∧
    passes h (meterOwner 0x2C10 12 (pulseOk p) s) s = true :=
  ⟨hdT 0x2C10 12, (sub (hdT 0x2C10 12) 0x2C10 (core 0x2C10)), _, ⟨3, 1, 3, 7, 80, 1, 2 ^ 32 - 1⟩, rfl, by decide +kernel⟩

theorem witness_MeterVstreamDefine : ∃ (h : Hdr) (s w : State) (p : VsP), w = takeHead h.src s ∧
    passes h (meterCfg 0x2C18 12 (vsOk p) s) s = true ∧
    (twoPhase p.seqMask w) = false ∧
    (vsPending w p.vs) = false ∧
    s.hi.ops.length < 1024 :=
  ⟨hd 12, (sub (hd 12) 0x2C18 (core 0x2C18)), _, vst, rfl, by decide +kernel⟩

theorem witness_MeterVstreamRemove : ∃ (h : Hdr) (s w : State) (vs : Nat), w = takeHead h.src s ∧
    passes h (meterCfg 0x2C19 1 (vs < 8) s) s = true ∧
    ((tfind w.am.vss vs).isNone || w.erg.groups.any (fun g => g.2.members.contains (16376 + vs))) = false ∧
    (vsPending w vs) = false :=
  ⟨hd 1, (sub (hd 1) 0x2C19 (placeVs vst true (core 0x2C19))), _, 7, rfl, by decide +kernel⟩

theorem witness_MeterBallastDefine : ∃ (h : Hdr) (s w : State) (p : BallastP), w = takeHead h.src s ∧
    passes h (meterOwner 0x2C20 4 (p.set < 8 && flag p.en && p.el < 4 && p.mask < 256) s) s = true ∧
    (p.en == 1 && !(getElem' w p.el).defd) = false :=
  ⟨hdT 0x2C20 4, (sub (hdT 0x2C20 4) 0x2C20 (placeElem elm (core 0x2C20))), _, ⟨7, 1, 3, 255⟩, rfl, by decide +kernel⟩

theorem witness_MeterSave : ∃ (h : Hdr) (s w : State), w = takeHead h.src s ∧
    passes h (meterSpec 0x2C21 0 true (servingDoze s) s) s = true ∧
    (runningOp w 0x2C21 || w.am.halted) = false ∧
    s.hi.ops.length < 1024 :=
  ⟨hd 0, (sub (hd 0) 0x2C21 (core 0x2C21)), _, rfl, by decide +kernel⟩

theorem witness_MeterConfig : ∃ (h : Hdr) (s w : State) (p : MeterP), w = takeHead h.src s ∧
    passes h (meterCfg 0x2C28 4 (meterOk p) s) s = true :=
  ⟨hd 4, (sub (hd 4) 0x2C28 (core 0x2C28)), _, ⟨31, 1, 3600⟩, rfl, by decide +kernel⟩

theorem witness_MeterQuery : ∃ (h : Hdr) (s w : State), w = takeHead h.src s ∧
    passes h { meterSpec 0x2C29 0 true (inOpen s || s.pm.mode == .doze) s with domOk := anchorOn s } s = true :=
  ⟨hd 0, (sub (hd 0) 0x2C29 (core 0x2C29)), _, rfl, by decide +kernel⟩

theorem witness_MeterClearCounters : ∃ (h : Hdr) (s w : State) (mask : Nat), w = takeHead h.src s ∧
    passes h (meterSpec 0x2C30 2 (mask < 2 ^ 16) (inCommission s) s) s = true :=
  ⟨hd 2, (sub (hd 2) 0x2C30 (core 0x2C30)), _, 65535, rfl, by decide +kernel⟩

theorem witness_VaultStatus : ∃ (h : Hdr) (s w : State), w = takeHead h.src s ∧
    passes h (spec0 0x3000 0) s = true :=
  ⟨hd 0, (sub (hd 0) 0x3000 (core 0x3000)), _, rfl, by decide +kernel⟩

theorem witness_VaultLifecycle : ∃ (h : Hdr) (s w : State) (target : Nat) (ownerKey : Option Nat), w = takeHead h.src s ∧
    passes h { specM 0x3001 (if s.fuses.lifecycle == .blank then 104 else 8) (lifecycleStep s.fuses.lifecycle target) (trueProvision s) with lenOk := (s.fuses.lifecycle == .blank) == ownerKey.isSome, auth := .alg1, key := if s.fuses.lifecycle == .blank then ownerKey else none } s = true ∧
    runningOp w 0x3001 = false ∧
    w.pm.pendWipe = none ∧
    s.hi.ops.length < 1024 :=
  ⟨hdA 0x3001 104 .blank, (sub (hdA 0x3001 104 .blank) 0x3001 (blank (inMode .provision (core 0x3001)))), _, 1, some ownerPub, rfl, by decide +kernel⟩

theorem witness_VaultOwnerLoad : ∃ (h : Hdr) (s w : State) (key : Nat), w = takeHead h.src s ∧
    passes h (specM 0x3002 96 true (s.pm.mode == .provision)) s = true ∧
    (w.fuses.ownerHash != some (ownerDigest key)) = false :=
  ⟨hd 96, (sub (hd 96) 0x3002 (inMode .provision (core 0x3002))), _, 7, rfl, by decide +kernel⟩

theorem witness_VaultRootGenerate : ∃ (h : Hdr) (s w : State), w = takeHead h.src s ∧
    passes h { specM 0x3003 0 true (trueProvision s && (s.fuses.lifecycle == .provisioned || s.fuses.lifecycle == .operational)) with auth := .alg1 } s = true ∧
    w.ov.root = none ∧
    w.ov.tamper = false ∧
    runningOp w 0x3003 = false ∧
    s.hi.ops.length < 1024 :=
  ⟨hdA 0x3003 0 .operational, (sub (hdA 0x3003 0 .operational) 0x3003 (noRoot (inMode .provision (core 0x3003)))), _, rfl, by decide +kernel⟩

theorem witness_VaultTamperClear : ∃ (h : Hdr) (s w : State), w = takeHead h.src s ∧
    passes h { specM 0x3004 0 true (s.pm.mode == .provision) with auth := .alg1 } s = true :=
  ⟨hdA 0x3004 0 .operational, (sub (hdA 0x3004 0 .operational) 0x3004 (inMode .provision (core 0x3004))), _, rfl, by decide +kernel⟩

theorem witness_VaultTamperConfig : ∃ (h : Hdr) (s w : State) (enables : Nat), w = takeHead h.src s ∧
    passes h { specM 0x3005 4 (enables < 2 ^ 7 && bit enables 3 && bit enables 6) (inSetup s) with auth := if disablesTamper s enables then .alg1 else .owner } s = true :=
  ⟨hdT 0x3005 4, (sub (hdT 0x3005 4) 0x3005 (core 0x3005)), _, 127, rfl, by decide +kernel⟩

theorem witness_VaultDebug : ∃ (h : Hdr) (s w : State) (en : Nat), w = takeHead h.src s ∧
    passes h { specP 0x3006 4 (flag en) with auth := .owner } s = true :=
  ⟨hdT 0x3006 4, (sub (hdT 0x3006 4) 0x3006 (core 0x3006)), _, 1, rfl, by decide +kernel⟩

theorem witness_VaultGenerate : ∃ (h : Hdr) (s w : State) (slot : Nat) (alg : Nat) (usage : Nat) (lock : Nat), w = takeHead h.src s ∧
    passes h (slotSpec 0x3010 4 (slot < 256 && usageOk alg usage && flag lock) s) s = true ∧
    spanFree w slot alg = true ∧
    s.hi.ops.length < 1024 :=
  ⟨hdT 0x3010 4, (sub (hdT 0x3010 4) 0x3010 (core 0x3010)), _, 255, 0, 0xF3, 1, rfl, by decide +kernel⟩

theorem witness_VaultDerive : ∃ (h : Hdr) (s w : State) (slot : Nat) (parent : Nat) (alg : Nat) (usage : Nat) (lock : Nat) (label : Nat), w = takeHead h.src s ∧
    passes h (slotSpec 0x3011 40 (slot < 256 && parent < 256 && alg < 4 && usageOk alg usage && flag lock && label != 0 && label < 2 ^ 256 - 1) s) s = true ∧
    deriveStatus slot parent alg w = 0 ∧
    s.hi.ops.length < 1024 :=
  ⟨hdT 0x3011 40, (sub (hdT 0x3011 40) 0x3011 (core 0x3011)), _, 255, 255, 1, 0x32, 1, 2 ^ 256 - 2, rfl, by decide +kernel⟩

theorem witness_VaultImport : ∃ (h : Hdr) (s w : State) (p : ImportP), w = takeHead h.src s ∧
    passes h { slotSpec 0x3012 (8 + materialLen p.form p.alg) (importOk p) s with lenOk := p.material.length == materialLen p.form p.alg, auth := if p.form == 0 || p.owner then .alg1 else .owner } s = true ∧
    importStatus p w = 0 ∧
    s.hi.ops.length < 1024 :=
  ⟨hdA 0x3012 40 .operational, (sub (hdA 0x3012 40 .operational) 0x3012 (core 0x3012)), _, ⟨255, 0, 0, 1, 0x10, true, true, true, List.replicate 32 7⟩, rfl, by decide +kernel⟩

theorem witness_VaultSeal : ∃ (h : Hdr) (s w : State) (slot : Nat) (addr : Nat) (len : Nat), w = takeHead h.src s ∧
    passes h (slotSpec 0x3013 20 (slot < 256 && bufferOk addr && len < 2 ^ 32) s) s = true ∧
    sealStatus slot len w = 0 ∧
    s.hi.ops.length < 1024 :=
  ⟨hdT 0x3013 20, (sub (hdT 0x3013 20) 0x3013 (key 255 0 0xF3 (core 0x3013))), _, 255, 2 ^ 64 - 1, 64, rfl, by decide +kernel⟩

theorem witness_VaultExport : ∃ (h : Hdr) (s w : State) (slot : Nat) (wrapSlot : Nat) (destUid : Nat) (addr : Nat) (len : Nat), w = takeHead h.src s ∧
    passes h (slotSpec 0x3014 44 (slot < 256 && wrapSlot < 256 && destUid < 2 ^ 128 && bufferOk addr && len < 2 ^ 32) s) s = true ∧
    exportStatus slot wrapSlot len w = 0 ∧
    s.hi.ops.length < 1024 :=
  ⟨hdT 0x3014 44, (sub (hdT 0x3014 44) 0x3014 (key 255 0 0xF3 (key 3 0 0x01 (core 0x3014)))), _, 255, 3, 2 ^ 128 - 1, 2 ^ 64 - 1, 64, rfl, by decide +kernel⟩

theorem witness_VaultDestroy : ∃ (h : Hdr) (s w : State) (slot : Nat), w = takeHead h.src s ∧
    passes h { slotSpec 0x3015 1 (slot < 256) s with auth := if ((getSlot s slot).map (·.lock)).getD false then .alg1 else .owner } s = true ∧
    slotHeld w slot = true :=
  ⟨hdT 0x3015 1, (sub (hdT 0x3015 1) 0x3015 (key 255 0 0xF3 (core 0x3015))), _, 255, rfl, by decide +kernel⟩

theorem witness_VaultAttest : ∃ (h : Hdr) (s w : State) (slot : Nat) (nonce : Nat) (addr : Nat) (len : Nat), w = takeHead h.src s ∧
    passes h { specM 0x3016 52 (slot < 256 && nonce < 2 ^ 256 && bufferOk addr && len < 2 ^ 32) (slotDoze s || (slot == 0xFF && s.pm.mode == .provision)) with lenOk := 272 ≤ len } s = true ∧
    attestStatus slot w = 0 ∧
    s.hi.ops.length < 1024 :=
  ⟨hd 52, (sub (hd 52) 0x3016 (inMode .provision (core 0x3016))), _, 0xFF, 2 ^ 256 - 1, 2 ^ 64 - 1, 272, rfl, by decide +kernel⟩

theorem witness_VaultSlotQuery : ∃ (h : Hdr) (s w : State) (slot : Nat), w = takeHead h.src s ∧
    passes h (specM 0x3017 1 (slot < 256) (slotDoze s)) s = true ∧
    (((getSlot w slot).map (·.alg)) == some 6) = false :=
  ⟨hd 1, (sub (hd 1) 0x3017 (core 0x3017)), _, 255, rfl, by decide +kernel⟩

theorem witness_VaultRandom : ∃ (h : Hdr) (s w : State) (count : Nat), w = takeHead h.src s ∧
    passes h (specM 0x3018 1 (within 1 16 count) (slotDoze s)) s = true ∧
    drbgServes w = true :=
  ⟨hd 1, (sub (hd 1) 0x3018 (core 0x3018)), _, 16, rfl, by decide +kernel⟩

theorem witness_VaultClearCounters : ∃ (h : Hdr) (s w : State), w = takeHead h.src s ∧
    passes h (spec0 0x3020 0) s = true :=
  ⟨hd 0, (sub (hd 0) 0x3020 (core 0x3020)), _, rfl, by decide +kernel⟩

theorem witness_LogConfig : ∃ (h : Hdr) (s w : State) (p : LogP), w = takeHead h.src s ∧
    passes h { specM 0x3400 12 (logOk p) (inCommission s) with cfgBusy := true } s = true ∧
    (vectorTaken w p.faultVec || vectorTaken w p.flushVec) = false :=
  ⟨hd 12, (sub (hd 12) 0x3400 (core 0x3400)), _, ⟨31, 31, 2000, 1000000, 1000, 49, 63⟩, rfl, by decide +kernel⟩

theorem witness_LogSpoolSeek : ∃ (h : Hdr) (s w : State) (seq : Nat), w = takeHead h.src s ∧
    passes h (specM 0x3401 4 (seq < 2 ^ 32) (openDoze s)) s = true :=
  ⟨hd 4, (sub (hd 4) 0x3401 (core 0x3401)), _, 2 ^ 32 - 1, rfl, by decide +kernel⟩

theorem witness_LogRead : ∃ (h : Hdr) (s w : State) (first : Nat) (count : Nat) (addr : Nat) (len : Nat), w = takeHead h.src s ∧
    passes h { specM 0x3402 20 (first < 2 ^ 32 && within 1 8192 count && bufferOk addr && len < 2 ^ 32) (openDoze s) with lenOk := 32 * count ≤ len } s = true ∧
    s.hi.ops.length < 1024 :=
  ⟨hd 20, (sub (hd 20) 0x3402 (core 0x3402)), _, 2 ^ 32 - 1, 8192, 2 ^ 64 - 1, 32 * 8192, rfl, by decide +kernel⟩

theorem witness_LogFlush : ∃ (h : Hdr) (s w : State), w = takeHead h.src s ∧
    passes h (specM 0x3403 0 true (openDoze s)) s = true ∧
    s.hi.ops.length < 1024 :=
  ⟨hd 0, (sub (hd 0) 0x3403 (core 0x3403)), _, rfl, by decide +kernel⟩

theorem witness_LogWrite : ∃ (h : Hdr) (s w : State) (severity : Nat) (arg : Nat), w = takeHead h.src s ∧
    passes h (specM 0x3404 8 (severity < 3 && arg < 2 ^ 56) (openDoze s)) s = true :=
  ⟨hd 8, (sub (hd 8) 0x3404 (core 0x3404)), _, 2, 2 ^ 56 - 1, rfl, by decide +kernel⟩

theorem witness_LogFaultClear : ∃ (h : Hdr) (s w : State) (x : Bool), w = takeHead h.src s ∧
    passes h (specM 0x3405 0 true (openDoze s)) s = true ∧
    x = (w.ev.faultLatched && w.ev.faultAt == some w.tm.frc) :=
  ⟨hd 0, (sub (hd 0) 0x3405 (core 0x3405)), _, _, rfl, by decide +kernel, rfl⟩

theorem witness_LogMacroQuery : ∃ (h : Hdr) (s w : State) (mac : Nat), w = takeHead h.src s ∧
    passes h (specM 0x3408 2 (mac < 1648) (openDoze s)) s = true :=
  ⟨hd 2, (sub (hd 2) 0x3408 (core 0x3408)), _, 1647, rfl, by decide +kernel⟩

theorem witness_LogInject : ∃ (h : Hdr) (s w : State) (mac : Nat) (word : Nat) (bitA : Nat) (bitB : Nat), w = takeHead h.src s ∧
    passes h { specM 0x3409 6 (mac < 1648 && word < 8192 && injectBit bitA && injectBit bitB) (inCommission s) with auth := .owner, domOk := macroOn s mac } s = true ∧
    (injectBarred mac word) = false :=
  ⟨hdT 0x3409 6, (sub (hdT 0x3409 6) 0x3409 (core 0x3409)), _, 1547, 8191, 79, 0xFF, rfl, by decide +kernel⟩

theorem witness_LogClearCounters : ∃ (h : Hdr) (s w : State) (mask : Nat), w = takeHead h.src s ∧
    passes h (specM 0x3420 1 (mask < 4) (openDoze s)) s = true :=
  ⟨hd 1, (sub (hd 1) 0x3420 (core 0x3420)), _, 3, rfl, by decide +kernel⟩

theorem witness_PowerDoze : ∃ (h : Hdr) (s w : State), w = takeHead h.src s ∧
    passes h (specM 0x3800 0 true (serving s)) s = true ∧
    (w.pm.hs.isSome) = false ∧
    s.hi.ops.length < 1024 :=
  ⟨hd 0, (sub (hd 0) 0x3800 (core 0x3800)), _, rfl, by decide +kernel⟩

theorem witness_PowerWake : ∃ (h : Hdr) (s w : State), w = takeHead h.src s ∧
    passes h (specM 0x3801 0 true (s.pm.mode == .doze)) s = true ∧
    s.hi.ops.length < 1024 :=
  ⟨hd 0, (sub (hd 0) 0x3801 (inMode .doze (core 0x3801))), _, rfl, by decide +kernel⟩

theorem witness_PowerPadRelease : ∃ (h : Hdr) (s w : State) (mask : Nat), w = takeHead h.src s ∧
    passes h (specP 0x3802 1 (mask &&& 0x28 == mask)) s = true ∧
    padsOn mask w = true :=
  ⟨hd 1, (sub (hd 1) 0x3802 (core 0x3802)), _, 0x28, rfl, by decide +kernel⟩

theorem witness_PowerConfig : ∃ (h : Hdr) (s w : State) (p : PowerP), w = takeHead h.src s ∧
    passes h { specM 0x3803 8 (powerOk p) (inCommission s) with cfgBusy := true } s = true :=
  ⟨hd 8, (sub (hd 8) 0x3803 (core 0x3803)), _, ⟨31, 1, 1000000⟩, rfl, by decide +kernel⟩

theorem witness_PowerQuery : ∃ (h : Hdr) (s w : State), w = takeHead h.src s ∧
    passes h (spec0 0x3808 0) s = true :=
  ⟨hd 0, (sub (hd 0) 0x3808 (core 0x3808)), _, rfl, by decide +kernel⟩

theorem witness_PowerRefConfig : ∃ (h : Hdr) (s w : State) (p : RefP), w = takeHead h.src s ∧
    passes h { specM 0x3810 8 (refValuesOk p) (inCommission s) with cfgBusy := true } s = true :=
  ⟨hd 8, (sub (hd 8) 0x3810 (core 0x3810)), _, ⟨1, 1, 1, 86400⟩, rfl, by decide +kernel⟩

theorem witness_PowerRefSwitch : ∃ (h : Hdr) (s w : State), w = takeHead h.src s ∧
    passes h (spec0 0x3811 0) s = true ∧
    standbyOk w.ck = true ∧
    (w.ck.switching) = false ∧
    s.hi.ops.length < 1024 :=
  ⟨hd 0, (sub (hd 0) 0x3811 (refsOk (core 0x3811))), _, rfl, by decide +kernel⟩

theorem witness_PowerClearCounters : ∃ (h : Hdr) (s w : State) (mask : Nat), w = takeHead h.src s ∧
    passes h (specP 0x3820 1 (mask < 4)) s = true :=
  ⟨hd 1, (sub (hd 1) 0x3820 (core 0x3820)), _, 3, rfl, by decide +kernel⟩

/-! ### The events -/

theorem witness_CmpFire_case0 : ∃ (s : State) (cmp : Nat), cmp < 16 ∧ cmpDue s cmp = true ∧ edgeReady 5 s = true ∧ triggerReady cmp s = true :=
  ⟨withTm (fun t => { t with cmps := [(15, { Cmp.reset with armed := true })] }) live, 15, by decide +kernel⟩

theorem witness_DuneTick_case1 : ∃ (s : State), s.pm.mode ≠ .frozen ∧ s.tm.frc / 400 ≠ s.tm.tickAt / 400 ∧ edgeReady 5 s = true :=
  ⟨live, by decide +kernel⟩

theorem witness_SourceRevert_case2 : ∃ (s : State) (since : Nat), s.pm.mode ≠ .frozen ∧ s.tm.tether.revertS ≠ 0 ∧ s.tm.tether.primary ≠ 0 ∧ s.tm.tether.follow ≠ 0 ∧ s.tm.tether.follow ≠ s.tm.tether.primary ∧ recentSource s s.tm.tether.primary = true ∧ (tfind s.tm.tether.qualified s.tm.tether.primary).map (·.2) = some since ∧ since + s.tm.tether.revertS * secCounts ≤ s.tm.frc :=
  ⟨withTether (fun t => { t with primary := 1, secondary := 2, follow := 2, revertS := 60, qualified := [(1, (10 ^ 13, 5))] }) live, 5, by decide +kernel⟩

theorem witness_HoldoverAgeing_case3 : ∃ (s : State), s.pm.mode ≠ .frozen ∧ edgeReady 4 s = true ∧ s.tm.tether.tqServo = .holdFresh ∧ s.tm.tether.p.freshS ≤ holdAge s :=
  ⟨withTether (fun t => { t with tqServo := .holdFresh, holdSince := some 0 }) live, by decide +kernel⟩

theorem witness_HoldoverAgeing_case4 : ∃ (s : State), s.pm.mode ≠ .frozen ∧ edgeReady 4 s = true ∧ s.tm.tether.tqServo = .holdAged ∧ s.tm.tether.p.agedS ≤ holdAge s :=
  ⟨withTether (fun t => { t with tqServo := .holdAged, holdSince := some 0, p := { t.p with agedS := 100 } }) live, by decide +kernel⟩

theorem witness_IntegSave_case5 : ∃ (s : State), s.pm.mode ≠ .frozen ∧ (s.tm.tq = .locked ∨ s.tm.tq = .lockedFine) ∧ s.tm.tether.savedAt + 3600 * secCounts ≤ s.tm.frc :=
  ⟨live, by decide +kernel⟩

theorem witness_LeapApply_case6 : ∃ (s : State), s.pm.mode ≠ .frozen ∧ s.tm.leap ≠ 0 ∧ s.tm.leapAt * 1000000000 ≤ nowNs s :=
  ⟨withTm (fun t => { t with leap := 1, leapAt := 100 }) live, by decide +kernel⟩

theorem witness_TimeCheckpoint_case7 : ∃ (s : State) (v : State), v = { s with tm := { s.tm with checkAt := s.tm.frc / 409600 * 409600, residue := false } } ∧ s.pm.mode ≠ .frozen ∧ s.tm.frc / 409600 ≠ s.tm.checkAt / 409600 ∧ (s.tm.mainFailed = true ∨ s.tm.selftest = true) :=
  ⟨withTm (fun t => { t with mainFailed := true }) live, _, rfl, by decide +kernel, by decide +kernel, by decide +kernel⟩

theorem witness_TimeCheckpoint_case8 : ∃ (s : State) (v : State), v = { s with tm := { s.tm with checkAt := s.tm.frc / 409600 * 409600, residue := false } } ∧ s.pm.mode ≠ .frozen ∧ s.tm.frc / 409600 ≠ s.tm.checkAt / 409600 ∧ s.tm.mainFailed = false ∧ s.tm.selftest = false ∧ 4 * 2 ^ 40 < (clockDiff v).natAbs :=
  ⟨withTm (fun t => { t with fallback := 0 }) live, _, rfl, by decide +kernel, by decide +kernel, by decide +kernel, by decide +kernel, by decide +kernel⟩

theorem witness_TimeCheckpoint_case9 : ∃ (s : State) (v : State), v = { s with tm := { s.tm with checkAt := s.tm.frc / 409600 * 409600, residue := false } } ∧ s.pm.mode ≠ .frozen ∧ s.tm.frc / 409600 ≠ s.tm.checkAt / 409600 ∧ s.tm.mainFailed = false ∧ s.tm.selftest = false ∧ ¬ 4 * 2 ^ 40 < (clockDiff v).natAbs :=
  ⟨withTm (fun t => { t with fallback := mainTime live / 2 ^ 8 }) live, _, rfl, by decide +kernel, by decide +kernel, by decide +kernel, by decide +kernel, by decide +kernel⟩

theorem witness_ResidueMismatch_case10 : ∃ (s : State), s.pm.mode ≠ .frozen ∧ s.tm.mainFailed = false ∧ s.tm.selftest = false :=
  ⟨live, by decide +kernel⟩

theorem witness_TimeSelftestEnd_case11 : ∃ (s : State), s.pm.mode ≠ .frozen ∧ s.tm.selftest = true ∧ s.tm.retest = none :=
  ⟨withTm (fun t => { t with selftest := true }) live, by decide +kernel⟩

theorem witness_TimeSelftestEnd_case12 : ∃ (s : State), s.pm.mode ≠ .frozen ∧ s.tm.selftest = true ∧ s.tm.retest = none ∧ s.tm.byResidue = true :=
  ⟨withTm (fun t => { t with selftest := true, byResidue := true }) live, by decide +kernel⟩

theorem witness_TimeSelftestEnd_case13 : ∃ (s : State), s.pm.mode ≠ .frozen ∧ s.tm.selftest = true ∧ s.tm.retest = none ∧ s.tm.byResidue = false :=
  ⟨withTm (fun t => { t with selftest := true }) live, by decide +kernel⟩

theorem witness_PtpSyncRx_case0 : ∃ (s : State) (m : PtpHead) (d : Int), slaveTakes s m = true ∧ (s.tm.slave.selected).any (fun x => x.1 == m.port) = true ∧ tfind s.tm.slave.pathDelay m.port = some d :=
  ⟨ptpLive, msg 3, 100, by decide +kernel⟩

theorem witness_PtpAnnounceRx_case1 : ∃ (s : State) (a : Announce), slaveTakes s a.head = true :=
  ⟨ptpLive, ann, by decide +kernel⟩

theorem witness_SourceLoss_case2 : ∃ (s : State), s.pm.mode ≠ .frozen ∧ edgeReady 3 s = true ∧ (ptpTimedOut s).1 = true ∧ (ptpTimedOut s).2 = false :=
  ⟨withTm (fun t => { t with slave := { t.slave with masters := [⟨ann, 0, 2⟩], selected := some (masterId ⟨ann, 0, 2⟩) } }) ptpLive, by decide +kernel⟩

theorem witness_SourceLoss_case3 : ∃ (s : State), s.pm.mode ≠ .frozen ∧ edgeReady 3 s = true ∧ (ptpTimedOut s).2 = true :=
  ⟨withTm (fun t => { t with slave := { t.slave with masters := [⟨ann, 0, 2⟩], selected := some (masterId ⟨ann, 0, 2⟩), syncAt := some 0 } }) ptpLive, by decide +kernel⟩

theorem witness_PtpDelayReqTx_case4 : ∃ (s : State) (port : Nat), asksDelay s port = true ∧ ptpDue s (tfind s.tm.ptpSlave.sent port) s.tm.ptpSlave.p.logPdelay = true :=
  ⟨ptpLive, 3, by decide +kernel⟩

theorem witness_PtpPathDelayRx_case5 : ∃ (s : State) (m : PtpHead), ptpTaken s.tm.ptpSlave.p m = true ∧ asksDelay s m.port = true ∧ (tfind s.tm.slave.delayReq m.port).isSome = true :=
  ⟨ptpLive, msg 3, by decide +kernel⟩

theorem witness_PdelayTimeout_case6 : ∃ (s : State) (port : Nat), s.pm.mode ≠ .frozen ∧ (tfind s.tm.slave.delayReq port).isSome = true :=
  ⟨ptpLive, 3, by decide +kernel⟩

theorem witness_PtpPdelayReqRx_case7 : ∃ (s : State) (port : Nat) (m : PtpForm), slaveTakes s { m with port := port } = true ∧ s.tm.ptpSlave.p.delayMech = 0 :=
  ⟨ptpLive, 3, (msg 3).toPtpForm, by decide +kernel⟩

theorem witness_PtpDelayReqRx_case8 : ∃ (s : State) (m : PtpHead) (ingress : Stamp) (d : DT96), masterTakes s m = true ∧ s.tm.ptpMaster.p.delayMech = 1 ∧ d = dt96Of (ptpIngress s 4 ingress) :=
  ⟨ptpLive, msg 4, stamp0, _, by decide +kernel, by decide +kernel, rfl⟩

theorem witness_PtpMasterAnnounceTx_case9 : ∃ (s : State) (w : List Nat), masterRuns s = true ∧ s.tm.tq ≠ .invalid ∧ ptpDue s (tfind s.tm.ptpMaster.sent 0) s.tm.ptpMaster.p.logAnnounce = true ∧ w = [s.tm.ptpMaster.p.prio1, (announced s.tm.tq).1, (announced s.tm.tq).2, s.tm.ptpMaster.p.prio2, twosComp 16 s.tm.utcOfs, b2n s.tm.utcValid, s.tm.leap] :=
  ⟨withTm (fun t => { t with tq := .locked }) ptpLive, _, by decide +kernel, by decide +kernel, by decide +kernel, rfl⟩

theorem witness_PtpMasterSyncTx_case10 : ∃ (s : State), masterRuns s = true ∧ s.tm.tq ≠ .invalid ∧ ptpDue s (tfind s.tm.ptpMaster.sent 1) s.tm.ptpMaster.p.logSync = true :=
  ⟨withTm (fun t => { t with tq := .locked }) ptpLive, by decide +kernel⟩

theorem witness_PpsInEdge_case11 : ∃ (s : State) (rising : Bool) (stamp : Stamp) (t : Int), s.pm.mode ≠ .frozen ∧ s.pm.mode ≠ .boot ∧ ppsActive s rising = true ∧ t = stampAt stamp s - latRx s 5 ∧ ppsQualifies t (count (tmCtr 0x040) s) = true :=
  ⟨live, true, stamp0, _, by decide +kernel, by decide +kernel, by decide +kernel, rfl, by decide +kernel⟩

theorem witness_PpsInEdge_case12 : ∃ (s : State) (rising : Bool) (stamp : Stamp), s.pm.mode ≠ .frozen ∧ s.pm.mode ≠ .boot ∧ ppsActive s rising = true ∧ ppsQualifies (stampAt stamp s - latRx s 5) (count (tmCtr 0x040) s) = false :=
  ⟨ppsLive { Pps.reset with prev := some 0 }, true, stamp0, by decide +kernel⟩

theorem witness_PpsInEdge_case13 : ∃ (s : State) (rising : Bool), ppsActive s rising = false :=
  ⟨live, false, by decide +kernel⟩

theorem witness_PpsLost_case14 : ∃ (s : State) (t : Int), s.tm.pps.prev = some t ∧ s.pm.mode ≠ .frozen ∧ edgeReady 3 s = true ∧ t + 2 * sec16 + ppsTol s ≤ now s :=
  ⟨ppsLive { Pps.reset with prev := some 0 }, 0, by decide +kernel⟩

theorem witness_TodSentenceRx_case15 : ∃ (s : State) (utcSec : Nat) (l : Option Int), s.pm.mode ≠ .frozen ∧ s.pm.mode ≠ .boot ∧ l = (if s.tm.utcValid then some ((utcSec : Int) + s.tm.utcOfs) else none) :=
  ⟨live, 1, _, by decide +kernel, by decide +kernel, rfl⟩

theorem witness_TodSentenceRx_case16 : ∃ (s : State) (sumOk : Bool) (statusOk : Bool), s.pm.mode ≠ .frozen ∧ s.pm.mode ≠ .boot ∧ (sumOk && statusOk) = false :=
  ⟨live, true, false, by decide +kernel⟩

theorem witness_GateBoundary_case0 : ∃ (s : State) (port : Nat), port < 4 ∧ portsRun s = true :=
  ⟨live, 3, by decide +kernel⟩

theorem witness_GateOperative_case1 : ∃ (s : State) (port : Nat) (k : Nat) (load : Int) (x : GateP), (getPort s port).gatePend = some (x, k, load) ∧ portsRun s = true ∧ operativeAt x load ≤ ratNs (busTime s) :=
  ⟨portLive { Port.reset with gatePend := some (gat, 0x03000001, 0) }, 3, 0x03000001, 0, gat, by decide +kernel⟩

theorem witness_GateOperative_case2 : ∃ (s : State) (port : Nat) (load : Int) (x : GateP), (getPort s port).gatePend = none ∧ (getPort s port).gateNext = some (x, load) ∧ portsRun s = true ∧ operativeAt x load ≤ ratNs (busTime s) :=
  ⟨portLive { Port.reset with gateNext := some (gat, 0) }, 3, 0, gat, by decide +kernel⟩

theorem witness_TxFrameStart_case3 : ∃ (s : State) (port : Nat) (queue : Nat), port < 5 ∧ portsRun s = true ∧ (getPort s port).linkUp = true ∧ (getPort s port).txUntil ≤ fineTime s ∧ sendingQueue s port = some queue :=
  ⟨portLive { Port.reset with linkUp := true, line := 3, queues := [(7, [⟨0, 64, []⟩])] }, 3, 7, by decide +kernel⟩

theorem witness_PrpSupervisionTx_case4 : ∃ (s : State) (pair : Nat), pair < 2 ∧ portsRun s = true ∧ (getPrp s pair).en = true ∧ (getPrp s pair).supAt + countsOfMs (getPrp s pair).supMs ≤ s.tm.frc :=
  ⟨{ live with np := { live.np with prp := [(1, { Prp.reset with en := true, supMs := 2000 })] } }, 1, by decide +kernel⟩

theorem witness_PtFrameDelivery_case5 : ∃ (s : State) (k : Nat) (x : PtFrame) (rest : List PtFrame), (getRxRing s k).waiting = x :: rest ∧ k < 8 ∧ portsRun s = true ∧ (getRxRing s k).needs x.len ≤ (getRxRing s k).posted :=
  ⟨setRxRing 7 { PtRing.reset with en := true, tail := 3, waiting := [ptf] } live, 7, ptf, [], by decide +kernel⟩

theorem witness_PtDescriptorTimeout_case6 : ∃ (s : State) (k : Nat) (x : PtFrame) (rest : List PtFrame), (getRxRing s k).waiting = x :: rest ∧ s.pm.mode ≠ .frozen ∧ (getRxRing s k).posted < (getRxRing s k).needs x.len ∧ x.stored + countsOfUs 100 ≤ s.tm.frc :=
  ⟨setRxRing 7 { PtRing.reset with en := true, waiting := [ptf] } live, 7, ptf, [], by decide +kernel⟩

theorem witness_PrpLanLost_case7 : ∃ (s : State) (pair : Nat) (lan : Nat), pair < 2 ∧ portsRun s = true ∧ lan < 2 :=
  ⟨live, 1, 1, by decide +kernel⟩

theorem witness_PrpEntryForget_case8 : ∃ (s : State) (pair : Nat), pair < 2 ∧ s.pm.mode ≠ .frozen :=
  ⟨live, 1, by decide +kernel⟩

theorem witness_RxFrame_case9 : ∃ (s : State) (port : Nat), port < 5 ∧ portsRun s = true ∧ (getPort s port).linkUp = true :=
  ⟨portLive { Port.reset with linkUp := true }, 3, by decide +kernel⟩

theorem witness_RxFrame_case10 : ∃ (s : State) (n : Nat), n < 2 :=
  ⟨live, 1, by decide +kernel⟩

theorem witness_RxFrame_case11 : ∃ (s : State) (n : Nat), n < 2 :=
  ⟨live, 1, by decide +kernel⟩

theorem witness_PtTxChainFetch_case12 : ∃ (s : State) (k : Nat) (port : Nat) (queue : Nat) (prpMode : Nat) (count : Nat) (f : HostFrame), k < 8 ∧ portsRun s = true ∧ count ≠ 0 ∧ count ≤ (getTxRing s k).posted ∧ port ≤ 4 ∧ queue ≤ 7 ∧ prpMode < 3 ∧ (txPorts s port prpMode).all (fun p => txRoom s p (max 64 (f.len + 4))) = true :=
  ⟨setTxRing 7 { PtRing.reset with en := true, tail := 3 } (withPort 4 { Port.reset with en := true, line := 1, linkUp := true, maxlen := 1522 } live), 7, 4, 7, 1, 3, ⟨100, 0x0800, none⟩, by decide +kernel⟩

theorem witness_PtTxChainFetch_case13 : ∃ (s : State) (k : Nat) (count : Nat), k < 8 ∧ portsRun s = true ∧ count ≠ 0 ∧ count ≤ (getTxRing s k).posted :=
  ⟨setTxRing 7 { PtRing.reset with en := true, tail := 3 } live, 7, 3, by decide +kernel⟩

theorem witness_LinkStateChange_case14 : ∃ (s : State) (port : Nat), port < 5 ∧ portsRun s = true ∧ s.pm.holdPorts = false ∧ (getPort s port).en = true ∧ (getPort s port).line ≠ 0 ∧ (getPort s port).line ≠ 3 ∧ (getPort s port).linkUp = false :=
  ⟨portLive { Port.reset with en := true, line := 2 }, 3, by decide +kernel⟩

theorem witness_SiFrameParse_case0 : ∃ (s : State) (pipe : Nat) (f : SiFrame) (rest : List SiFrame), tget [] s.si.pipes pipe = f :: rest ∧ pipe < 16 ∧ intakeRuns s = true :=
  ⟨{ live with si := { live.si with pipes := [(15, [⟨frm, 3, 0, 0, 0, 0, none, 1, []⟩])] } }, 15, ⟨frm, 3, 0, 0, 0, 0, none, 1, []⟩, [], by decide +kernel⟩

theorem witness_StreamTimerExpiry_case1 : ∃ (s : State), siClocked s = true :=
  ⟨live, by decide +kernel⟩

theorem witness_InstantOpen_case2 : ∃ (s : State) (gid : Nat) (x : Group), getGroup s gid = some x ∧ ergRuns s = true ∧ x.en = true ∧ x.next < 2 ^ 40 ∧ openAt x.p x.next ≤ s.tm.tick :=
  ⟨withTm (fun t => { t with tick := 10 ^ 14 }) (gLive 7 []), 63, ⟨true, grp 63, [], false, false, 0, false, false, 7, 6, 0, []⟩, by decide +kernel⟩

theorem witness_EarlyRelease_case3 : ∃ (s : State), ergRuns s = true :=
  ⟨live, by decide +kernel⟩

theorem witness_DeadlineRelease_case4 : ∃ (s : State) (gid : Nat) (i : Instant), (getGroup s gid).bind (·.oldestOpen) = some i ∧ ergRuns s = true ∧ i.deadline ≤ s.tm.tick :=
  ⟨gLive 8 [ins .opened], 63, ins .opened, by decide +kernel⟩

theorem witness_PublishInstant_case5 : ∃ (s : State) (gid : Nat) (index : Nat) (i : Instant) (r : Instant) (v : State), getInstant s gid index = some i ∧ i.st ≠ .opened ∧ i.pubHold = true ∧ s.pm.mode ≠ .frozen ∧ readMembers (publishedMembers s i) i s = (r, v) :=
  ⟨gLive 8 [{ ins .released with pubHold := true }], 63, 7, { ins .released with pubHold := true }, _, _, by decide +kernel, by decide +kernel, by decide +kernel, by decide +kernel, rfl⟩

theorem witness_CellHoldExpiry_case6 : ∃ (s : State) (gid : Nat) (index : Nat) (i : Instant), getInstant s gid index = some i ∧ ergRuns s = true ∧ i.st = .released ∧ i.relAt + countsOfUs 1000 ≤ s.tm.frc :=
  ⟨gLive 8 [ins .released], 63, 7, ins .released, by decide +kernel⟩

theorem witness_AmendBatchClose_case7 : ∃ (s : State) (gid : Nat) (index : Nat) (i : Instant) (d : Int) (cells : Tbl Cell), getInstant s gid index = some i ∧ i.batch = some (d, cells) ∧ ergRuns s = true ∧ d ≤ s.tm.tick :=
  ⟨gLive 8 [{ ins .trailing with batch := some (0, []) }], 63, 7, { ins .trailing with batch := some (0, []) }, 0, [], by decide +kernel⟩

theorem witness_InstantRetire_case8 : ∃ (s : State) (gid : Nat) (index : Nat) (i : Instant), getInstant s gid index = some i ∧ ergRuns s = true ∧ i.st = .trailing ∧ i.ended (now s) = true ∧ i.batch = none ∧ i.lates.isEmpty = true ∧ i.unheld = true :=
  ⟨gLive 8 [ins .trailing], 63, 7, ins .trailing, by decide +kernel⟩

theorem witness_DispatchDecision_case0 : ∃ (s : State) (it : Item), cvRuns s = true ∧ chooseItem s = some it ∧ canTake s it = true :=
  ⟨cvLive (itm .queued), itm .queued, by decide +kernel⟩

theorem witness_ItemAging_case1 : ∃ (s : State) (level : Nat) (it : Item), cvRuns s = true ∧ s.cv.ages.getD level 0 ≠ 0 ∧ level < 11 ∧ level < s.cv.ageCeil ∧ s.cv.items.find? (fun it => it.level == level && eligible s it && s.cv.ages.getD level 0 ≤ (tickCount s + 2 ^ 32 - it.enqTick) % 2 ^ 32) = some it :=
  ⟨(fun s => { s with cv := { s.cv with ages := List.replicate 12 5, ageCeil := 11 } }) (withTm (fun t => { t with tickAt := 400 * 2 ^ 20 }) (cvLive { itm .queued with level := 10 })), 10, { itm .queued with level := 10 }, by decide +kernel⟩

theorem witness_DelayExpiry_case2 : ∃ (s : State) (it : Item) (rest : List Item), cvRuns s = true ∧ s.cv.expired < 64 ∧ dueItems s s.tm.tick = it :: rest :=
  ⟨cvLive (itm (.delayed 0)), itm (.delayed 0), [], by decide +kernel⟩

theorem witness_CheckpointWrite_case3 : ∃ (s : State), cvRuns s = true :=
  ⟨live, by decide +kernel⟩

theorem witness_BudgetOver_case4 : ∃ (s : State) (item : Nat) (it : Item) (i : Inst), getItem s item = some it ∧ cvRuns s = true ∧ it.held = true ∧ 200 * it.d.budgetNs ≤ it.budgetCounts s.tm.frc * 256 ∧ solveExempt it (getInst s it.job it.seq) s = false ∧ getInst (count 0x107028 s) it.job it.seq = some i :=
  ⟨cvLive { itm (.running [0] 0 0) with used := 10 ^ 9 }, 5, { itm (.running [0] 0 0) with used := 10 ^ 9 }, inst, by decide +kernel⟩

theorem witness_BudgetOver_case5 : ∃ (s : State) (item : Nat) (it : Item), getItem s item = some it ∧ solveExempt it (getInst s it.job it.seq) s = true :=
  ⟨withModel (cvLive { itm (.running [0] 0 0) with d := { (itm .queued).d with stage := 3 } }), 5, { itm (.running [0] 0 0) with d := { (itm .queued).d with stage := 3 } }, by decide +kernel⟩

theorem witness_ItemCommit_case6 : ∃ (s : State) (item : Nat) (since : Nat) (ck : Nat) (e : List Nat) (it : Item) (i : Inst) (r : ItemResult) (sat : Bool) (v : State) (t : State), getItem s item = some it ∧ it.st = .running e since ck ∧ cvRuns s = true ∧ runMacs e r.macs (writeLocal e r.lmem s) = (sat, v) ∧ t = (if sat then count 0x107820 v else v) ∧ getInst t it.job it.seq = some i :=
  ⟨cvLive (itm (.running [0] 0 0)), 5, 0, 0, [0], itm (.running [0] 0 0), inst, res0, _, _, _, by decide +kernel, by decide +kernel, by decide +kernel, rfl, rfl, by decide +kernel⟩

theorem witness_ItemCommit_case7 : ∃ (s : State) (item : Nat) (since : Nat) (ck : Nat) (e : List Nat) (it : Item) (i : Inst) (r : ItemResult) (sat : Bool) (v : State), getItem s item = some it ∧ it.st = .running e since ck ∧ cvRuns s = true ∧ runMacs e r.macs (writeLocal e r.lmem s) = (sat, v) ∧ getInst v it.job it.seq = some i :=
  ⟨cvLive (itm (.running [0] 0 0)), 5, 0, 0, [0], itm (.running [0] 0 0), inst, res0, _, _, by decide +kernel, by decide +kernel, by decide +kernel, rfl, by decide +kernel⟩

theorem witness_ItemCommit_case8 : ∃ (s : State) (item : Nat) (since : Nat) (ck : Nat) (e : List Nat) (it : Item) (r : ItemResult) (sat : Bool) (v : State), getItem s item = some it ∧ it.st = .running e since ck ∧ cvRuns s = true ∧ runMacs e r.macs (writeLocal e r.lmem s) = (sat, v) ∧ getInst v it.job it.seq = none :=
  ⟨(fun s => { s with cv := { s.cv with insts := [] } }) (cvLive (itm (.running [0] 0 0))), 5, 0, 0, [0], itm (.running [0] 0 0), res0, _, _, by decide +kernel, by decide +kernel, by decide +kernel, rfl, by decide +kernel⟩

theorem witness_EngineFault_case9 : ∃ (s : State) (engine : Nat), cvRuns s = true ∧ engine < 66 ∧ (getEngine s engine).st = .idle :=
  ⟨live, 65, by decide +kernel⟩

theorem witness_EngineFault_case10 : ∃ (s : State) (engine : Nat), cvRuns s = true ∧ engine < 66 ∧ (getEngine s engine).st = .idle :=
  ⟨live, 65, by decide +kernel⟩

theorem witness_TakeoverResume_case11 : ∃ (s : State), cvRuns s = true :=
  ⟨live, by decide +kernel⟩

theorem witness_FencedSelftestEnd_case12 : ∃ (s : State) (engine : Nat), cvRuns s = true ∧ engine < 66 ∧ (getEngine s engine).st = .selftest ∧ (getEngine s engine).busy = none :=
  ⟨engLive 65 .selftest, 65, by decide +kernel⟩

theorem witness_SpareSelftest_case13 : ∃ (s : State) (engine : Nat), cvRuns s = true ∧ engine < 66 ∧ (getEngine s engine).st = .spare :=
  ⟨engLive 65 .spare, 65, by decide +kernel⟩

theorem witness_AlmStbDeferred_case0 : ∃ (s : State), alRuns s = true ∧ s.al.deferred = true ∧ strobeBusy s = false :=
  ⟨alLive (fun a => { a with deferred := true }), by decide +kernel⟩

theorem witness_AlmPulseEnd_case1 : ∃ (s : State) (line : Nat) (e : Nat), (getLine s line).pulseEnd = some e ∧ alRuns s = true ∧ e ≤ fineTime s :=
  ⟨alLive (fun a => { a with lines := [(15, { AlmLine.reset with pulseEnd := some 5 })] }), 15, 5, by decide +kernel⟩

theorem witness_XtrigInEdge_case2 : ∃ (s : State) (n : Nat) (level : Bool), n < 2 ∧ bit s.pins.xtrigIn n ≠ level ∧ level = activeLevel (setXtrigIn n level s) n ∧ alRuns (setXtrigIn n level s) = true :=
  ⟨live, 1, true, by decide +kernel⟩

theorem witness_XtrigInForwardedEdge_case3 : ∃ (s : State) (n : Nat), n < 2 :=
  ⟨live, 1, by decide +kernel⟩

theorem witness_OutputPulseEnd_case4 : ∃ (s : State) (line : Nat) (e : Nat), tfind s.tm.pulses line = some e ∧ s.pm.mode ≠ .frozen ∧ e ≤ fineTime s :=
  ⟨withTm (fun t => { t with pulses := [(3, 5)] }) live, 3, 5, by decide +kernel⟩

theorem witness_AqRecordWrite_case5 : ∃ (s : State) (ring : Nat), aqRuns s = true ∧ (liveRings s (ring / 4)).contains ring = true :=
  ⟨aqLive, 60, by decide +kernel⟩

theorem witness_TempStale_case0 : ∃ (s : State) (ch : Nat), ch < 12 ∧ amClocked s = true ∧ (getMChan s ch).p.en = 1 ∧ (getMChan s ch).tempStale = false ∧ (getMChan s ch).temp.isSome = true ∧ tempFresh s (getMChan s ch) = false :=
  ⟨chanLive (fun c => { c with p := { c.p with en := 1, tempSrc := 2 }, temp := some 0, tempAt := some 0 }), 11, by decide +kernel⟩

theorem witness_SdSample_case1 : ∃ (s : State) (ch : Nat) (cleanBits : Nat) (run64 : Bool) (v : State) (u : State), ch < 12 ∧ sdClkRuns s = true ∧ atBoundary s ch = true ∧ boundaryTaken s ch = false ∧ v = markBoundary ch s ∧ (getMChan v ch).p.en = 1 ∧ u = takeTemp ch (modFaultStep ch run64 cleanBits v) ∧ (getMChan u ch).modFault = false ∧ (getMChan v ch).p.kind ≠ 0 :=
  ⟨sdLive (fun c => { c with p := { c.p with en := 1, kind := 1 } }), 11, 0, false, _, _, by decide +kernel, by decide +kernel, by decide +kernel, by decide +kernel, rfl, by decide +kernel, rfl, by decide +kernel, by decide +kernel⟩

theorem witness_SdSample_case2 : ∃ (s : State) (ch : Nat) (cleanBits : Nat) (run64 : Bool) (v : State) (u : State), ch < 12 ∧ sdClkRuns s = true ∧ atBoundary s ch = true ∧ boundaryTaken s ch = false ∧ v = markBoundary ch s ∧ (getMChan v ch).p.en = 1 ∧ u = takeTemp ch (modFaultStep ch run64 cleanBits v) ∧ (getMChan u ch).modFault = true :=
  ⟨sdLive (fun c => { c with p := { c.p with en := 1, kind := 1 }, modFault := true }), 11, 0, false, _, _, by decide +kernel, by decide +kernel, by decide +kernel, by decide +kernel, rfl, by decide +kernel, rfl, by decide +kernel⟩

theorem witness_SdSample_case3 : ∃ (s : State) (ch : Nat) (v : State), ch < 12 ∧ sdClkRuns s = true ∧ atBoundary s ch = true ∧ boundaryTaken s ch = false ∧ v = markBoundary ch s ∧ (getMChan v ch).p.en ≠ 1 :=
  ⟨sdLive id, 11, _, by decide +kernel, by decide +kernel, by decide +kernel, by decide +kernel, rfl, by decide +kernel⟩

theorem witness_EnergyBlockEnd_case4 : ∃ (s : State) (el : Nat) (stop : Nat), el < 4 ∧ blockEnd s el = some stop ∧ sdClkRuns s = true ∧ energyRuns s = true ∧ (getElem' s el).en = true ∧ (getElem' s el).running = true ∧ reaches (finePoints / 2) s el stop = true :=
  ⟨amLive (fun a => { a with els := [(3, { Elem.reset with en := true, running := true })], vss := [(7, ⟨vst, 0, 0, false, none⟩)], bounds := [10 ^ 13] }), 3, 10 ^ 13, by decide +kernel⟩

theorem witness_PulseStart_case5 : ∃ (s : State) (n : Nat) (due : Nat) (rest : List Nat), (getPulse s n).backlog = due :: rest ∧ (getPulse s n).prev = none ∧ n < 4 ∧ amClocked s = true ∧ (getPulse s n).high = false :=
  ⟨pulseLive { Pulse.reset with p := fld0, backlog := [5, 6] }, 3, 5, [6], by decide +kernel⟩

theorem witness_PulseEnd_case6 : ∃ (s : State) (n : Nat) (t : Nat) (h : Nat), (getPulse s n).prev = some (t, h) ∧ (getPulse s n).high = true ∧ t + h ≤ s.tm.frc ∧ s.pm.mode ≠ .frozen :=
  ⟨pulseLive { Pulse.reset with p := fld0, prev := some (5, 6), high := true }, 3, 5, 6, by decide +kernel⟩

theorem witness_PeriodicSave_case7 : ∃ (s : State), amClocked s = true ∧ s.am.halted = false ∧ s.pm.pfwActions = false ∧ s.am.savedAt + s.am.saveS * secCounts ≤ s.tm.frc :=
  ⟨amLive id, by decide +kernel⟩

theorem witness_PeriodicSave_case8 : ∃ (s : State), amClocked s = true ∧ s.am.halted = false ∧ s.pm.pfwActions = false ∧ s.am.savedAt + s.am.saveS * secCounts ≤ s.tm.frc :=
  ⟨amLive id, by decide +kernel⟩

theorem witness_AliveStamp_case9 : ∃ (s : State), amClocked s = true ∧ s.am.halted = false ∧ s.pm.pfwActions = false ∧ s.am.aliveAt + secCounts ≤ s.tm.frc :=
  ⟨amLive id, by decide +kernel⟩

theorem witness_VstreamReport_case10 : ∃ (s : State) (r : VsReport) (x : Vs), tfind s.am.vss r.vs = some x ∧ r.vs < 8 ∧ sdClkRuns s = true ∧ intakeRuns s = true ∧ vsDue r x s = true :=
  ⟨amLive (fun a => { a with vss := [(7, ⟨vst, 0, 0, false, none⟩)] }), ⟨7, 25599, 239, [], 0, 0⟩, ⟨vst, 0, 0, false, none⟩, by decide +kernel⟩

theorem witness_EntropyFail_case0 : ∃ (s : State), s.ov.entropyOk = true ∧ s.pm.mode ≠ .frozen :=
  ⟨live, by decide +kernel⟩

theorem witness_EntropyRetest_case1 : ∃ (s : State) (passed : Nat) (a : Nat), s.ov.retestAt = some a ∧ s.pm.mode ≠ .frozen ∧ s.ov.entropyOk = false ∧ a + 390625000 ≤ s.tm.frc ∧ 1024 ≤ passed :=
  ⟨{ live with ov := { live.ov with entropyOk := false, retestAt := some 0 } }, 1024, 0, by decide +kernel⟩

theorem witness_EntropyRetest_case2 : ∃ (s : State) (passed : Nat) (a : Nat), s.ov.retestAt = some a ∧ s.pm.mode ≠ .frozen ∧ s.ov.entropyOk = false ∧ a + 390625000 ≤ s.tm.frc ∧ passed < 1024 :=
  ⟨{ live with ov := { live.ov with entropyOk := false, retestAt := some 0 } }, 1023, 0, by decide +kernel⟩

theorem witness_DrbgReseed_case3 : ∃ (s : State), s.ov.entropyOk = true ∧ s.pm.mode ≠ .frozen ∧ s.ov.reseedAt + 390625000 ≤ s.tm.frc :=
  ⟨live, by decide +kernel⟩

theorem witness_ScrubRead_case4 : ∃ (s : State) (mac : Nat) (word : Nat) (n : Nat) (x : Macro) (v : State), mac < 1648 ∧ word < 8192 ∧ ecRuns s = true ∧ macroOn s mac = true ∧ scrubRead s word = some n ∧ x = getMacro s mac ∧ x.scrubbed ≤ n ∧ v = scrubLate n (updMacro mac (fun x => { x with scrubbed := n + 1 }) s) :=
  ⟨live, 1647, 0, (scrubRead live 0).getD 0, _, _, by decide +kernel, by decide +kernel, by decide +kernel, by decide +kernel, by decide +kernel, rfl, by decide +kernel, rfl⟩

theorem witness_CorrectionWriteback_case5 : ∃ (s : State) (mac : Nat) (word : Nat) (b : Nat), mac < 1648 ∧ word < 8192 ∧ ecRuns s = true ∧ macroOn s mac = true ∧ flipsOf s mac word = [b] :=
  ⟨{ live with ec := { live.ec with flips := [(1647 * 8192 + 8191, [70])] } }, 1647, 8191, 70, by decide +kernel⟩

theorem witness_SuspectExpiry_case6 : ∃ (s : State), ecRuns s = true :=
  ⟨live, by decide +kernel⟩

theorem witness_ControlDue_case7 : ∃ (s : State) (mac : Nat) (word : Nat), 1548 ≤ mac ∧ mac < 1648 ∧ word < 8192 ∧ ecRuns s = true :=
  ⟨live, 1647, 8191, by decide +kernel⟩

theorem witness_WatchdogExpiry_case8 : ∃ (s : State), ecRuns s = true :=
  ⟨live, by decide +kernel⟩

theorem witness_EvFlushEnd_case9 : ∃ (s : State), s.ev.flushing = true ∧ s.pm.pfwActions = false ∧ s.pm.mode ≠ .frozen :=
  ⟨{ live with ev := { live.ev with flushing := true } }, by decide +kernel⟩

theorem witness_FlushMsExpiry_case10 : ∃ (s : State), s.pm.mode ≠ .frozen ∧ s.ev.lastFlush + msCounts s.ev.flushMs ≤ s.tm.frc :=
  ⟨live, by decide +kernel⟩

theorem witness_RecordClose_case11 : ∃ (s : State) (source : Nat) (code : Nat) (severity : Nat) (o : OpenRec), s.ev.opens.find? (fun o => o.entry.source == source && o.entry.code == code && o.entry.severity == severity) = some o ∧ s.pm.mode ≠ .frozen ∧ o.opened + countsOfUs s.ev.coalesceUs ≤ s.tm.frc :=
  ⟨{ live with ev := { live.ev with opens := [⟨rec0, 0⟩] } }, 7, 0x42, 2, ⟨rec0, 0⟩, by decide +kernel⟩

theorem witness_OpsecTick_case12 : ∃ (s : State), s.pm.mode ≠ .frozen ∧ s.cairn.opsecAt + 390625000 ≤ s.tm.frc :=
  ⟨live, by decide +kernel⟩

theorem witness_ZeroizeCause_case0 : ∃ (s : State) (cause : Nat), cause < 6 ∧ causeMet s cause = true ∧ causeEnabled s cause = true ∧ ballastRuns (zeroize cause s) = false :=
  ⟨live, 5, by decide +kernel⟩

theorem witness_ZeroizeCause_case1 : ∃ (s : State) (cause : Nat), cause < 6 ∧ causeMet s cause = true ∧ causeEnabled s cause = true ∧ ballastRuns (zeroize cause s) = true :=
  ⟨withPm (fun p => { p with pfwActions := true }) live, 5, by decide +kernel⟩

theorem witness_WarmResetTakesHold_case2 : ∃ (s : State) (t : Nat), s.pm.pendWarm = some t ∧ flushed s = true ∧ elapsed t 1 s = true :=
  ⟨withPm (fun p => { p with pendWarm := some 0 }) live, 0, by decide +kernel⟩

theorem witness_InternalReset_case3 : ∃ (s : State) (t : Nat), s.pm.pendInternal = some t ∧ flushed s = true :=
  ⟨withPm (fun p => { p with pendInternal := some 0 }) live, 0, by decide +kernel⟩

theorem witness_LifecycleWipe_case4 : ∃ (s : State) (t : Nat), s.pm.pendWipe = some t ∧ s.pm.mode ≠ .frozen ∧ elapsed t 1 s = true :=
  ⟨withPm (fun p => { p with pendWipe := some 0 }) live, 0, by decide +kernel⟩

theorem witness_BallastWriteEnd_case7 : ∃ (s : State), ballastRuns s = true ∧ elapsed s.pins.pfwFall (1 + ceilDiv s.am.pfwDur 10) s = true ∧ s.pm.pendZeroize = false :=
  ⟨withPm (fun p => { p with pfwActions := true }) pfwLow, by decide +kernel⟩

theorem witness_ResetTakesHold_case8 : ∃ (s : State), s.pm.resetQual = true ∧ elapsed s.pins.pfwFall 90 s = true :=
  ⟨withPm (fun p => { p with resetQual := true }) pfwLow, by decide +kernel⟩

theorem witness_Boot_case9 : ∃ (s : State), s.pm.bootReady = true ∧ s.pm.mode = .boot ∧ s.pins.railsOk = true :=
  ⟨State.reset, by decide +kernel⟩

theorem witness_FreezeNAssert_case10 : ∃ (s : State), s.pm.ignoreFreezeN = false :=
  ⟨live, by decide +kernel⟩

theorem witness_HandshakeAnswer_case0 : ∃ (s : State) (a : HsAnswer) (x : Handshake), s.pm.hs = some x ∧ hsRuns s = true ∧ x.asked.delaying = false ∧ answerFits s x.asked.order x.asked.handle a = true :=
  ⟨hs 3 false, .agree, ⟨0x03000001, 3, false, 0, 0⟩, by decide +kernel⟩

theorem witness_HandshakeDelayEnd_case1 : ∃ (s : State) (x : Handshake), s.pm.hs = some x ∧ hsRuns s = true ∧ x.delaying = true ∧ x.delayEnd ≤ s.tm.frc :=
  ⟨hs 3 true, ⟨0x03000001, 3, true, 0, 0⟩, by decide +kernel⟩

theorem witness_PfwNFall_case3 : ∃ (s : State), s.pins.pfwN = true :=
  ⟨live, by decide +kernel⟩

theorem witness_PfwQualified_case4 : ∃ (s : State) (dur : Nat), s.pins.pfwN = false ∧ s.pm.pfwQual = false ∧ dur ≤ 200 ∧ elapsed s.pins.pfwFall 1 s = true :=
  ⟨pfwLow, 200, by decide +kernel⟩

theorem witness_PfwNRise_case5 : ∃ (s : State), s.pins.pfwN = false ∧ s.pm.pfwQual = false :=
  ⟨pfwLow, by decide +kernel⟩

theorem witness_PfwNRise_case6 : ∃ (s : State), s.pins.pfwN = false ∧ s.pm.pfwQual = true :=
  ⟨withPm (fun p => { p with pfwQual := true }) pfwLow, by decide +kernel⟩

theorem witness_CairnRelease_case7 : ∃ (s : State), s.pm.pfwActions = true ∧ s.pm.evHasCairn = true ∧ s.pm.resetQual = false ∧ elapsed s.pins.pfwFall 90 s = true :=
  ⟨withPm (fun p => { p with pfwActions := true, evHasCairn := true }) pfwLow, by decide +kernel⟩

theorem witness_ResetNQualified_case8 : ∃ (s : State) (dur : Nat), s.pm.resetQual = false ∧ dur ≤ 200 :=
  ⟨live, 200, by decide +kernel⟩

theorem witness_RefFail_case9 : ∃ (s : State) (which : Nat), which < 2 ∧ refOk s.ck (which == 1) = true :=
  ⟨refsOk live, 1, by decide +kernel⟩

theorem witness_RefFail_case10 : ∃ (s : State) (which : Nat), which < 2 ∧ lockOk s.ck (which == 1) = true :=
  ⟨refsOk live, 1, by decide +kernel⟩

theorem witness_RefQualified_case11 : ∃ (s : State) (which : Nat), which < 2 ∧ requalifies 0 which s = true ∧ refOk s.ck (which == 1) = false :=
  ⟨live, 1, by decide +kernel⟩

theorem witness_RefQualified_case12 : ∃ (s : State) (which : Nat), which < 2 ∧ requalifies 1 which s = true ∧ lockOk s.ck (which == 1) = false :=
  ⟨live, 1, by decide +kernel⟩

theorem witness_PllRevert_case13 : ∃ (s : State) (t : Nat), s.ck.preferSince = some t ∧ s.ck.revertS ≠ 0 ∧ s.ck.preferB ≠ s.ck.activeB ∧ standbyOk s.ck = true ∧ t + s.ck.revertS * 390625000 ≤ s.tm.frc :=
  ⟨(fun s => { s with ck := { s.ck with preferB := true, revertS := 5, preferSince := some 0 } }) (refsOk live), 0, by decide +kernel⟩

theorem witness_WakeComplete_case14 : ∃ (s : State), s.pm.waking = true ∧ s.pm.mode = .doze :=
  ⟨withPm (fun p => { p with mode := .doze, waking := true }) live, by decide +kernel⟩

theorem witness_WakeComplete_case15 : ∃ (s : State), s.pm.waking = true ∧ s.pm.mode = .doze :=
  ⟨withPm (fun p => { p with mode := .doze, waking := true }) live, by decide +kernel⟩

theorem witness_JtagFrzMem_case6 : ∃ (s : State) (mac : Nat) (word : Nat), mac < 1648 ∧ word < 8192 :=
  ⟨live, 1647, 8191, by decide +kernel⟩

theorem witness_JtagFrzReg_case7 : ∃ (s : State) (offset : Nat), offset < 65536 ∧ offset ≠ 0xF008 ∧ offset ≠ 0xF00C ∧ regOn s offset = true :=
  ⟨live, 65535, by decide +kernel⟩

theorem witness_JtagDebug_case8 : ∃ (s : State) (code : Nat), 0x20 ≤ code ∧ code ≤ 0x2F :=
  ⟨live, 0x2F, by decide +kernel⟩

theorem witness_CommandFetch_case0 : ∃ (s : State) (ring : Nat), ring < 16 ∧ mayFetch s ring = true ∧ s.pm.mode ≠ .frozen :=
  ⟨setR 15 { Ring.reset with sqEn := true, cqEn := true, sqTail := 1, sqLog2 := 4, cqLog2 := 4 }, 15, by decide +kernel⟩

theorem witness_CommandFetch_case1 : ∃ (s : State) (ring : Nat), ring < 16 ∧ mayFetch s ring = true ∧ s.pm.mode ≠ .frozen :=
  ⟨setR 15 { Ring.reset with sqEn := true, cqEn := true, sqTail := 1, sqLog2 := 4, cqLog2 := 4 }, 15, by decide +kernel⟩

theorem witness_FenceRelease_case2 : ∃ (s : State) (ring : Nat) (f : Fetched) (rest : List Fetched), (getRing s ring).fetched = f :: rest ∧ ring < 16 ∧ f.head.fence = true ∧ fenceMet s ring f.dead = true :=
  ⟨setR 15 { Ring.reset with fetched := [⟨{ head0 0 with fence := true }, false, false⟩] }, 15, ⟨{ head0 0 with fence := true }, false, false⟩, [], by decide +kernel⟩

theorem witness_HiSqDbWrite_case3 : ∃ (s : State) (ring : Nat), ring < 16 ∧ s.pm.mode ≠ .frozen ∧ regOn s 0 = true :=
  ⟨live, 15, by decide +kernel⟩

theorem witness_HiCqDbWrite_case4 : ∃ (s : State) (ring : Nat), ring < 16 ∧ s.pm.mode ≠ .frozen ∧ regOn s 0 = true :=
  ⟨live, 15, by decide +kernel⟩

theorem witness_HiSqCfgWrite_case5 : ∃ (s : State) (ring : Nat), ring < 16 ∧ s.pm.mode ≠ .frozen ∧ regOn s 0 = true :=
  ⟨live, 15, by decide +kernel⟩

theorem witness_HiCqCfgWrite_case6 : ∃ (s : State) (ring : Nat), ring < 16 ∧ s.pm.mode ≠ .frozen ∧ regOn s 0 = true :=
  ⟨live, 15, by decide +kernel⟩

theorem witness_HiNqPopRead_case7 : ∃ (s : State) (q : Nat), q < 32 ∧ s.pm.mode ≠ .frozen :=
  ⟨live, 31, by decide +kernel⟩

theorem witness_HiNqCfgWrite_case8 : ∃ (s : State) (q : Nat), q < 32 ∧ s.pm.mode ≠ .frozen ∧ regOn s 0 = true :=
  ⟨live, 31, by decide +kernel⟩

theorem witness_NqTimeout_case9 : ∃ (s : State) (q : Nat), q < 32 ∧ s.pm.mode ≠ .frozen ∧ (getNq s q).timedOut s.tm.tickAt = true :=
  ⟨withTm (fun t => { t with tickAt := 10 ^ 13 }) (setNq 31 { Nq.reset with en := true, timeoutUs := 5, w := 1, held := [0], timer := some 0 } live), 31, by decide +kernel⟩

theorem witness_NpPtDbWrite_case10 : ∃ (s : State) (k : Nat), k < 8 ∧ s.pm.mode ≠ .frozen ∧ regOn s 0x1A00 = true :=
  ⟨live, 7, by decide +kernel⟩

theorem witness_NpPtCfgWrite_case11 : ∃ (s : State) (k : Nat), k < 8 ∧ s.pm.mode ≠ .frozen ∧ regOn s 0x1A00 = true :=
  ⟨live, 7, by decide +kernel⟩

theorem witness_AmCountLowRead_case1 : ∃ (s : State) (el : Nat) (reg : Nat), el < 4 ∧ reg < 8 :=
  ⟨live, 3, 7, by decide +kernel⟩

theorem witness_CounterLowRead_case2 : ∃ (s : State) (addr : Nat) (v : Nat) (t : State), addr < 0x1000000 ∧ addr % 4 = 0 ∧ s.pm.mode ≠ .frozen ∧ readBar2 addr s = (v, t) :=
  ⟨live, 0xFFFFF8, _, _, by decide +kernel, by decide +kernel, by decide +kernel, rfl⟩

theorem witness_CounterLowRead_case3 : ∃ (s : State) (addr : Nat), addr < 0x1000000 ∧ addr % 8 = 0 ∧ s.pm.mode ≠ .frozen :=
  ⟨live, 0xFFFFF8, by decide +kernel⟩

theorem witness_SiSelWrite_case4 : ∃ (s : State), s.pm.mode ≠ .frozen ∧ regOn s 0x3100 = true :=
  ⟨live, by decide +kernel⟩

theorem witness_ScSelWrite_case5 : ∃ (s : State), s.pm.mode ≠ .frozen ∧ regOn s 0x8100 = true :=
  ⟨live, by decide +kernel⟩

theorem witness_AlSelWrite_case6 : ∃ (s : State), s.pm.mode ≠ .frozen ∧ regOn s 0x9100 = true :=
  ⟨live, by decide +kernel⟩

theorem witness_OvSelWrite_case7 : ∃ (s : State), s.pm.mode ≠ .frozen ∧ regOn s 0xC100 = true :=
  ⟨live, by decide +kernel⟩

theorem witness_EcSelWrite_case8 : ∃ (s : State), s.pm.mode ≠ .frozen ∧ regOn s 0xD100 = true :=
  ⟨live, by decide +kernel⟩

theorem witness_EvSpoolCurWrite_case9 : ∃ (s : State), s.pm.mode ≠ .frozen ∧ regOn s 0xD820 = true :=
  ⟨live, by decide +kernel⟩

theorem witness_RegisterWrite_case10 : ∃ (s : State) (offset : Nat), offset % 4 = 0 ∧ offset < 0x10000 ∧ s.pm.mode ≠ .frozen ∧ regOn s offset = true :=
  ⟨live, 0xFFFC, by decide +kernel⟩

theorem witness_RegisterWrite_case11 : ∃ (s : State) (offset : Nat), offset % 4 = 0 ∧ offset < 0x10000 ∧ s.pm.mode ≠ .frozen ∧ regOn s offset = false :=
  ⟨withPm (fun p => { p with domAnchor := false }) live, 0xB000, by decide +kernel⟩

theorem witness_RegisterWrite_case12 : ∃ (s : State) (offset : Nat), offset % 4 = 0 ∧ 0x1000000 ≤ offset :=
  ⟨live, 0x1000000, by decide +kernel⟩

theorem witness_MspiStatus_case13 : ∃ (s : State) (cmd : Nat), mgmtSel cmd 0 = .status :=
  ⟨live, 5, by decide +kernel⟩

theorem witness_MspiStatus_case14 : ∃ (s : State) (cmd : Nat), mgmtSel cmd 0 = .unknown :=
  ⟨live, 0, by decide +kernel⟩

theorem witness_MspiRead_case15 : ∃ (s : State) (offset : Nat), offset % 4 ≠ 0 :=
  ⟨live, 1, by decide +kernel⟩

theorem witness_MspiRead_case16 : ∃ (s : State) (offset : Nat) (count : Nat) (l : List Nat) (t : State), offset % 4 = 0 ∧ readRegs count (offset % 2 ^ 16) (mgmtLsw .mspi s) = (l, t) :=
  ⟨live, 0, 1, _, _, by decide +kernel, rfl⟩

theorem witness_MspiStatus_case19 : ∃ (s : State) (addr : Nat), addr ≠ 0x58 + s.pins.mi2cAddr % 4 :=
  ⟨live, 0, by decide +kernel⟩

theorem witness_MspiRead_case20 : ∃ (s : State) (addr : Nat), addr ≠ 0x58 + s.pins.mi2cAddr % 4 :=
  ⟨live, 0, by decide +kernel⟩

theorem witness_MbFetch_case21 : ∃ (s : State) (addr : Nat), addr ≠ 0x58 + s.pins.mi2cAddr % 4 :=
  ⟨live, 0, by decide +kernel⟩

/-! ### Final completions -/

theorem witness_final_sysSetMode_stays : ∃ (k : Nat) (o : OpEntry) (fin : Finish) (s : State) (h : Hdr) (target : Nat) (v : State),
    mayEnd k o s ∧ o.opcode < 0x1000 ∧ o.cmd = .sysSetMode h target ∧ fin.hwFault = false ∧ v = { s with pm := { s.pm with setMode := none } } ∧ atTarget 2 s = true :=
  ⟨0x03000001, opn 0x03000001 0x0010 (.sysSetMode (hd 1) (2)), fine, ending 0x0010 (.sysSetMode (hd 1) (2)) (core 0), hd 1, 2, _, ends_of (by decide +kernel), by decide +kernel, by decide +kernel, by decide +kernel, rfl, by decide +kernel⟩

theorem witness_final_sysSetMode_provision : ∃ (k : Nat) (o : OpEntry) (fin : Finish) (s : State) (h : Hdr) (target : Nat) (v : State),
    mayEnd k o s ∧ o.opcode < 0x1000 ∧ o.cmd = .sysSetMode h target ∧ fin.hwFault = false ∧ v = { s with pm := { s.pm with setMode := none } } ∧ atTarget target s = false ∧ target = 1 :=
  ⟨0x03000001, opn 0x03000001 0x0010 (.sysSetMode (hd 1) (1)), fine, ending 0x0010 (.sysSetMode (hd 1) (1)) (core 0), hd 1, 1, _, ends_of (by decide +kernel), by decide +kernel, by decide +kernel, by decide +kernel, rfl, by decide +kernel, by decide +kernel⟩

theorem witness_final_sysSetMode_service : ∃ (k : Nat) (o : OpEntry) (fin : Finish) (s : State) (h : Hdr) (target : Nat) (v : State),
    mayEnd k o s ∧ o.opcode < 0x1000 ∧ o.cmd = .sysSetMode h target ∧ fin.hwFault = false ∧ v = { s with pm := { s.pm with setMode := none } } ∧ atTarget target s = false ∧ target = 3 :=
  ⟨0x03000001, opn 0x03000001 0x0010 (.sysSetMode (hd 1) (3)), fine, ending 0x0010 (.sysSetMode (hd 1) (3)) (core 0), hd 1, 3, _, ends_of (by decide +kernel), by decide +kernel, by decide +kernel, by decide +kernel, rfl, by decide +kernel, by decide +kernel⟩

theorem witness_final_sysSetMode_commission : ∃ (k : Nat) (o : OpEntry) (fin : Finish) (s : State) (h : Hdr) (target : Nat) (v : State),
    mayEnd k o s ∧ o.opcode < 0x1000 ∧ o.cmd = .sysSetMode h target ∧ fin.hwFault = false ∧ v = { s with pm := { s.pm with setMode := none } } ∧ (atTarget target s = false ∧ target ≠ 1 ∧ target ≠ 3 ∧ (s.pm.mode = .provision → admitted v = true)) :=
  ⟨0x03000001, opn 0x03000001 0x0010 (.sysSetMode (hd 1) (2)), fine, ending 0x0010 (.sysSetMode (hd 1) (2)) (inMode .run (core 0)), hd 1, 2, _, ends_of (by decide +kernel), by decide +kernel, by decide +kernel, by decide +kernel, rfl, by decide +kernel⟩

theorem witness_final_sysSetMode_refused : ∃ (k : Nat) (o : OpEntry) (fin : Finish) (s : State) (h : Hdr) (target : Nat) (v : State),
    mayEnd k o s ∧ o.opcode < 0x1000 ∧ o.cmd = .sysSetMode h target ∧ fin.hwFault = false ∧ v = { s with pm := { s.pm with setMode := none } } ∧ atTarget target s = false ∧ target ≠ 1 ∧ target ≠ 3 ∧ s.pm.mode = .provision ∧ admitted v = false :=
  ⟨0x03000001, opn 0x03000001 0x0010 (.sysSetMode (hd 1) (2)), fine, ending 0x0010 (.sysSetMode (hd 1) (2)) (inMode .provision (tooBig (core 0))), hd 1, 2, _, ends_of (by decide +kernel), by decide +kernel, by decide +kernel, by decide +kernel, rfl, by decide +kernel, by decide +kernel, by decide +kernel, by decide +kernel, by decide +kernel⟩

theorem witness_final_cfgLoad_done : ∃ (k : Nat) (o : OpEntry) (fin : Finish) (s : State) (h : Hdr) (source : Nat) (addr : Nat) (len : Nat) (given : Image) (img : Image),
    mayEnd k o s ∧ o.opcode < 0x1000 ∧ o.cmd = .cfgLoad h source addr len given ∧ fin.hwFault = false ∧ fin.dataBad = false ∧ stagedInUse s = false ∧ img = loadedImage s source given ∧ img.fetchOk = true ∧ imageStatus img s = 0 :=
  ⟨0x03000001, opn 0x03000001 0x0400 (.cfgLoad (hd 20) (1) (0) (64) (img)), fine, ending 0x0400 (.cfgLoad (hd 20) (1) (0) (64) (img)) (core 0), hd 20, 1, 0, 64, img, _, ends_of (by decide +kernel), by decide +kernel, by decide +kernel, by decide +kernel, by decide +kernel, by decide +kernel, rfl, by decide +kernel, by decide +kernel⟩

theorem witness_final_cfgLoad_refused : ∃ (k : Nat) (o : OpEntry) (fin : Finish) (s : State) (h : Hdr) (source : Nat) (addr : Nat) (len : Nat) (given : Image) (img : Image),
    mayEnd k o s ∧ o.opcode < 0x1000 ∧ o.cmd = .cfgLoad h source addr len given ∧ fin.hwFault = false ∧ fin.dataBad = false ∧ stagedInUse s = false ∧ img = loadedImage s source given ∧ img.fetchOk = true ∧ imageStatus img s ≠ 0 :=
  ⟨0x03000001, opn 0x03000001 0x0400 (.cfgLoad (hd 20) (1) (0) (64) ({ img with sigOk := false })), fine, ending 0x0400 (.cfgLoad (hd 20) (1) (0) (64) ({ img with sigOk := false })) (core 0), hd 20, 1, 0, 64, { img with sigOk := false }, _, ends_of (by decide +kernel), by decide +kernel, by decide +kernel, by decide +kernel, by decide +kernel, by decide +kernel, rfl, by decide +kernel, by decide +kernel⟩

theorem witness_final_cfgCommit : ∃ (k : Nat) (o : OpEntry) (fin : Finish) (s : State) (h : Hdr) (img : Image) (v : State),
    mayEnd k o s ∧ o.opcode < 0x1000 ∧ o.cmd = .cfgCommit h ∧ fin.hwFault = false ∧ s.cfg.staged = some img ∧ v = commitImage img s ∧ ¬ (v.pm.mode = .provision ∧ v.fuses.lifecycle = .operational) :=
  ⟨0x03000001, opn 0x03000001 0x0401 (.cfgCommit (hd 0)), fine, ending 0x0401 (.cfgCommit (hd 0)) (staged (core 0)), hd 0, img, _, ends_of (by decide +kernel), by decide +kernel, by decide +kernel, by decide +kernel, by decide +kernel, rfl, by decide +kernel⟩

theorem witness_final_cfgCommit_provision : ∃ (k : Nat) (o : OpEntry) (fin : Finish) (s : State) (h : Hdr) (img : Image) (v : State),
    mayEnd k o s ∧ o.opcode < 0x1000 ∧ o.cmd = .cfgCommit h ∧ fin.hwFault = false ∧ s.cfg.staged = some img ∧ v = commitImage img s ∧ v.pm.mode = .provision ∧ v.fuses.lifecycle = .operational :=
  ⟨0x03000001, opn 0x03000001 0x0401 (.cfgCommit (hd 0)), fine, ending 0x0401 (.cfgCommit (hd 0)) (staged (inMode .provision (core 0))), hd 0, img, _, ends_of (by decide +kernel), by decide +kernel, by decide +kernel, by decide +kernel, by decide +kernel, rfl, by decide +kernel, by decide +kernel⟩

theorem witness_final_cfgReport : ∃ (k : Nat) (o : OpEntry) (fin : Finish) (s : State) (h : Hdr) (which : Nat) (addr : Nat) (len : Nat),
    mayEnd k o s ∧ o.opcode < 0x1000 ∧ o.cmd = .cfgReport h which addr len :=
  ⟨0x03000001, opn 0x03000001 0x0403 (.cfgReport (hd 20) (1) (0) (768)), fine, ending 0x0403 (.cfgReport (hd 20) (1) (0) (768)) (core 0), hd 20, 1, 0, 768, ends_of (by decide +kernel), by decide +kernel, by decide +kernel⟩

theorem witness_final_cfgStore : ∃ (k : Nat) (o : OpEntry) (fin : Finish) (s : State) (h : Hdr) (img : Image),
    mayEnd k o s ∧ o.opcode < 0x1000 ∧ o.cmd = .cfgStore h ∧ fin.hwFault = false ∧ s.cfg.staged = some img :=
  ⟨0x03000001, opn 0x03000001 0x0405 (.cfgStore (hd 0)), fine, ending 0x0405 (.cfgStore (hd 0)) (staged (core 0)), hd 0, img, ends_of (by decide +kernel), by decide +kernel, by decide +kernel, by decide +kernel, by decide +kernel⟩

theorem witness_final_portConfig_keeps : ∃ (k : Nat) (o : OpEntry) (fin : Finish) (s : State) (h : Hdr) (p : PortP),
    mayEnd k o s ∧ o.opcode < 0x1000 ∧ o.cmd = .portConfig h p ∧ fin.hwFault = false ∧ keepsPair p s = true :=
  ⟨0x03000001, opn 0x03000001 0x0800 (.portConfig (hd 12) (⟨4, 5, 9216, 2 ^ 48 - 1⟩)), fine, ending 0x0800 (.portConfig (hd 12) (⟨4, 5, 9216, 2 ^ 48 - 1⟩)) (core 0), hd 12, ⟨4, 5, 9216, 2 ^ 48 - 1⟩, ends_of (by decide +kernel), by decide +kernel, by decide +kernel, by decide +kernel, by decide +kernel⟩

theorem witness_final_portConfig_unlike : ∃ (k : Nat) (o : OpEntry) (fin : Finish) (s : State) (h : Hdr) (p : PortP),
    mayEnd k o s ∧ o.opcode < 0x1000 ∧ o.cmd = .portConfig h p ∧ fin.hwFault = false ∧ keepsPair p s = false :=
  ⟨0x03000001, opn 0x03000001 0x0800 (.portConfig (hd 12) (⟨3, 1, 9216, 2 ^ 48 - 1⟩)), fine, ending 0x0800 (.portConfig (hd 12) (⟨3, 1, 9216, 2 ^ 48 - 1⟩)) ({ core 0 with np := { Np.reset with prp := [(1, { Prp.reset with en := true })] } }), hd 12, ⟨3, 1, 9216, 2 ^ 48 - 1⟩, ends_of (by decide +kernel), by decide +kernel, by decide +kernel, by decide +kernel, by decide +kernel⟩

theorem witness_final_portGateLoad : ∃ (k : Nat) (o : OpEntry) (fin : Finish) (s : State) (h : Hdr) (p : GateP),
    mayEnd k o s ∧ o.opcode < 0x1000 ∧ o.cmd = .portGateLoad h p ∧ fin.hwFault = true :=
  ⟨0x03000001, opn 0x03000001 0x0820 (.portGateLoad (hd 32) (gat)), hwFault, ending 0x0820 (.portGateLoad (hd 32) (gat)) (withPort 3 { Port.reset with gatePend := some (gat, 0x03000001, 0) } (core 0)), hd 32, gat, ends_of (by decide +kernel), by decide +kernel, by decide +kernel, by decide +kernel⟩

theorem witness_final_timePtpConfig : ∃ (k : Nat) (o : OpEntry) (fin : Finish) (s : State) (h : Hdr) (p : PtpP),
    mayEnd k o s ∧ o.opcode < 0x1000 ∧ o.cmd = .timePtpConfig h p ∧ fin.hwFault = false :=
  ⟨0x03000001, opn 0x03000001 0x0C02 (.timePtpConfig (hd 20) (⟨1, 1, 3, 255, 2, 0, 31, -4, 4, 5, 255, 255, 255, 0⟩)), fine, ending 0x0C02 (.timePtpConfig (hd 20) (⟨1, 1, 3, 255, 2, 0, 31, -4, 4, 5, 255, 255, 255, 0⟩)) (core 0), hd 20, ⟨1, 1, 3, 255, 2, 0, 31, -4, 4, 5, 255, 255, 255, 0⟩, ends_of (by decide +kernel), by decide +kernel, by decide +kernel, by decide +kernel⟩

theorem witness_final_timeMainRetest_passed : ∃ (k : Nat) (o : OpEntry) (fin : Finish) (s : State) (h : Hdr) (v : State),
    mayEnd k o s ∧ o.opcode < 0x1000 ∧ o.cmd = .timeMainRetest h ∧ v = { s with tm := { s.tm with retest := none, selftest := false } } ∧ fin.pass = true :=
  ⟨0x03000001, opn 0x03000001 0x0C21 (.timeMainRetest (hd 0)), fine, ending 0x0C21 (.timeMainRetest (hd 0)) (mainFailed (core 0)), hd 0, _, ends_of (by decide +kernel), by decide +kernel, by decide +kernel, rfl, by decide +kernel⟩

theorem witness_final_timeMainRetest_failed : ∃ (k : Nat) (o : OpEntry) (fin : Finish) (s : State) (h : Hdr) (v : State),
    mayEnd k o s ∧ o.opcode < 0x1000 ∧ o.cmd = .timeMainRetest h ∧ v = { s with tm := { s.tm with retest := none, selftest := false } } ∧ fin.pass = false :=
  ⟨0x03000001, opn 0x03000001 0x0C21 (.timeMainRetest (hd 0)), ⟨false, false, false⟩, ending 0x0C21 (.timeMainRetest (hd 0)) (mainFailed (core 0)), hd 0, _, ends_of (by decide +kernel), by decide +kernel, by decide +kernel, rfl, by decide +kernel⟩

theorem witness_final_streamInstall : ∃ (k : Nat) (o : OpEntry) (fin : Finish) (s : State) (h : Hdr) (p : StreamP),
    mayEnd k o s ∧ 0x1000 ≤ o.opcode ∧ o.opcode < 0x2800 ∧ o.cmd = .streamInstall h p ∧ fin.hwFault = false ∧ installStands p s = true ∧ admitted (placeStream p true s) = true :=
  ⟨0x03000001, opn 0x03000001 0x1000 (.streamInstall (hd 576) (strm 16375)), fine, ending 0x1000 (.streamInstall (hd 576) (strm 16375)) (core 0), hd 576, strm 16375, ends_of (by decide +kernel), by decide +kernel, by decide +kernel, by decide +kernel, by decide +kernel, by decide +kernel, by decide +kernel⟩

theorem witness_final_streamInstall_refused : ∃ (k : Nat) (o : OpEntry) (fin : Finish) (s : State) (h : Hdr) (p : StreamP),
    mayEnd k o s ∧ 0x1000 ≤ o.opcode ∧ o.opcode < 0x2800 ∧ o.cmd = .streamInstall h p ∧ fin.hwFault = false ∧ installStands p s = true ∧ (admitted (placeStream p true s)) = false :=
  ⟨0x03000001, opn 0x03000001 0x1000 (.streamInstall (hd 576) (strm 16375)), fine, ending 0x1000 (.streamInstall (hd 576) (strm 16375)) (tooBig (core 0)), hd 576, strm 16375, ends_of (by decide +kernel), by decide +kernel, by decide +kernel, by decide +kernel, by decide +kernel, by decide +kernel, by decide +kernel⟩

theorem witness_final_streamList : ∃ (k : Nat) (o : OpEntry) (fin : Finish) (s : State) (h : Hdr) (addr : Nat) (len : Nat),
    mayEnd k o s ∧ 0x1000 ≤ o.opcode ∧ o.opcode < 0x2800 ∧ o.cmd = .streamList h addr len :=
  ⟨0x03000001, opn 0x03000001 0x1006 (.streamList (hd 12) (0) (16384)), fine, ending 0x1006 (.streamList (hd 12) (0) (16384)) (core 0), hd 12, 0, 16384, ends_of (by decide +kernel), by decide +kernel, by decide +kernel, by decide +kernel⟩

theorem witness_final_groupDefine : ∃ (k : Nat) (o : OpEntry) (fin : Finish) (s : State) (h : Hdr) (p : GroupP),
    mayEnd k o s ∧ 0x1000 ≤ o.opcode ∧ o.opcode < 0x2800 ∧ o.cmd = .groupDefine h p ∧ fin.hwFault = false ∧ groupLive s p.gid = false ∧ admitted (placeGroup p [] true s) = true :=
  ⟨0x03000001, opn 0x03000001 0x1400 (.groupDefine (hd 36) (grp 63)), fine, ending 0x1400 (.groupDefine (hd 36) (grp 63)) (core 0), hd 36, grp 63, ends_of (by decide +kernel), by decide +kernel, by decide +kernel, by decide +kernel, by decide +kernel, by decide +kernel, by decide +kernel⟩

theorem witness_final_groupDefine_refused : ∃ (k : Nat) (o : OpEntry) (fin : Finish) (s : State) (h : Hdr) (p : GroupP),
    mayEnd k o s ∧ 0x1000 ≤ o.opcode ∧ o.opcode < 0x2800 ∧ o.cmd = .groupDefine h p ∧ fin.hwFault = false ∧ groupLive s p.gid = false ∧ (admitted (placeGroup p [] true s)) = false :=
  ⟨0x03000001, opn 0x03000001 0x1400 (.groupDefine (hd 36) (grp 63)), fine, ending 0x1400 (.groupDefine (hd 36) (grp 63)) (tooBig (core 0)), hd 36, grp 63, ends_of (by decide +kernel), by decide +kernel, by decide +kernel, by decide +kernel, by decide +kernel, by decide +kernel, by decide +kernel⟩

theorem witness_final_groupMembers : ∃ (k : Nat) (o : OpEntry) (fin : Finish) (s : State) (h : Hdr) (gid : Nat) (op : Nat) (count : Nat) (sids : List Nat) (g : Group) (t : State),
    mayEnd k o s ∧ 0x1000 ≤ o.opcode ∧ o.opcode < 0x2800 ∧ o.cmd = .groupMembers h gid op count sids ∧ fin.hwFault = false ∧ groupLive s gid = true ∧ membersStand gid op sids s = true ∧ getGroup s gid = some g ∧ t = leaveWaiting gid op sids (setGroup gid { g with members := newMembers op sids g.members } s) ∧ admitted t = true :=
  ⟨0x03000001, opn 0x03000001 0x1402 (.groupMembers (hd 6) (63) (0) (1) ([16375])), fine, ending 0x1402 (.groupMembers (hd 6) (63) (0) (1) ([16375])) (placeGroup (grp 63) [] true (placeStream (strm 16375) true (core 0))), hd 6, 63, 0, 1, [16375], _, _, ends_of (by decide +kernel), by decide +kernel, by decide +kernel, by decide +kernel, by decide +kernel, by decide +kernel, by decide +kernel, rfl, rfl, by decide +kernel⟩

theorem witness_final_groupMembers_refused : ∃ (k : Nat) (o : OpEntry) (fin : Finish) (s : State) (h : Hdr) (gid : Nat) (op : Nat) (count : Nat) (sids : List Nat) (g : Group) (t : State),
    mayEnd k o s ∧ 0x1000 ≤ o.opcode ∧ o.opcode < 0x2800 ∧ o.cmd = .groupMembers h gid op count sids ∧ fin.hwFault = false ∧ groupLive s gid = true ∧ membersStand gid op sids s = true ∧ getGroup s gid = some g ∧ t = leaveWaiting gid op sids (setGroup gid { g with members := newMembers op sids g.members } s) ∧ (admitted t) = false :=
  ⟨0x03000001, opn 0x03000001 0x1402 (.groupMembers (hd 6) (63) (0) (1) ([16375])), fine, ending 0x1402 (.groupMembers (hd 6) (63) (0) (1) ([16375])) (tooBig (placeGroup (grp 63) [] true (placeStream (strm 16375) true (core 0)))), hd 6, 63, 0, 1, [16375], _, _, ends_of (by decide +kernel), by decide +kernel, by decide +kernel, by decide +kernel, by decide +kernel, by decide +kernel, by decide +kernel, rfl, rfl, by decide +kernel⟩

theorem witness_final_groupSetTiming : ∃ (k : Nat) (o : OpEntry) (fin : Finish) (s : State) (h : Hdr) (p : TimingP) (g : Group) (t : State),
    mayEnd k o s ∧ 0x1000 ≤ o.opcode ∧ o.opcode < 0x2800 ∧ o.cmd = .groupSetTiming h p ∧ fin.hwFault = false ∧ groupLive s p.gid = true ∧ getGroup s p.gid = some g ∧ t = setGroup p.gid { g with p := { g.p with expect := p.expect, windowUs := p.windowUs, horizonUs := p.horizonUs, lateSpanUs := p.lateSpanUs, amendMs := p.amendMs } } s ∧ admitted t = true :=
  ⟨0x03000001, opn 0x03000001 0x1403 (.groupSetTiming (hd 20) (⟨63, 2, 320000, 20000, 320000, 255⟩)), fine, ending 0x1403 (.groupSetTiming (hd 20) (⟨63, 2, 320000, 20000, 320000, 255⟩)) (placeGroup (grp 63) [] true (core 0)), hd 20, ⟨63, 2, 320000, 20000, 320000, 255⟩, _, _, ends_of (by decide +kernel), by decide +kernel, by decide +kernel, by decide +kernel, by decide +kernel, by decide +kernel, rfl, rfl, by decide +kernel⟩

theorem witness_final_groupSetTiming_refused : ∃ (k : Nat) (o : OpEntry) (fin : Finish) (s : State) (h : Hdr) (p : TimingP) (g : Group) (t : State),
    mayEnd k o s ∧ 0x1000 ≤ o.opcode ∧ o.opcode < 0x2800 ∧ o.cmd = .groupSetTiming h p ∧ fin.hwFault = false ∧ groupLive s p.gid = true ∧ getGroup s p.gid = some g ∧ t = setGroup p.gid { g with p := { g.p with expect := p.expect, windowUs := p.windowUs, horizonUs := p.horizonUs, lateSpanUs := p.lateSpanUs, amendMs := p.amendMs } } s ∧ (admitted t) = false :=
  ⟨0x03000001, opn 0x03000001 0x1403 (.groupSetTiming (hd 20) (⟨63, 2, 320000, 20000, 320000, 255⟩)), fine, ending 0x1403 (.groupSetTiming (hd 20) (⟨63, 2, 320000, 20000, 320000, 255⟩)) (tooBig (placeGroup (grp 63) [] true (core 0))), hd 20, ⟨63, 2, 320000, 20000, 320000, 255⟩, _, _, ends_of (by decide +kernel), by decide +kernel, by decide +kernel, by decide +kernel, by decide +kernel, by decide +kernel, rfl, rfl, by decide +kernel⟩

theorem witness_final_groupSessionDefine : ∃ (k : Nat) (o : OpEntry) (fin : Finish) (s : State) (h : Hdr) (p : SessionP),
    mayEnd k o s ∧ 0x1000 ≤ o.opcode ∧ o.opcode < 0x2800 ∧ o.cmd = .groupSessionDefine h p ∧ fin.hwFault = false ∧ signingOk p s = true ∧ groupLive s p.gid = true ∧ (tfind s.erg.sessions p.session).any (·.en) = false ∧ admitted (placeSession p false true s) = true :=
  ⟨0x03000001, opn 0x03000001 0x1408 (.groupSessionDefine (hd 144) (sess)), fine, ending 0x1408 (.groupSessionDefine (hd 144) (sess)) (placeGroup (grp 63) [] true (core 0)), hd 144, sess, ends_of (by decide +kernel), by decide +kernel, by decide +kernel, by decide +kernel, by decide +kernel, by decide +kernel, by decide +kernel, by decide +kernel, by decide +kernel⟩

theorem witness_final_groupSessionDefine_refused : ∃ (k : Nat) (o : OpEntry) (fin : Finish) (s : State) (h : Hdr) (p : SessionP),
    mayEnd k o s ∧ 0x1000 ≤ o.opcode ∧ o.opcode < 0x2800 ∧ o.cmd = .groupSessionDefine h p ∧ fin.hwFault = false ∧ signingOk p s = true ∧ groupLive s p.gid = true ∧ (tfind s.erg.sessions p.session).any (·.en) = false ∧ (admitted (placeSession p false true s)) = false :=
  ⟨0x03000001, opn 0x03000001 0x1408 (.groupSessionDefine (hd 144) (sess)), fine, ending 0x1408 (.groupSessionDefine (hd 144) (sess)) (tooBig (placeGroup (grp 63) [] true (core 0))), hd 144, sess, ends_of (by decide +kernel), by decide +kernel, by decide +kernel, by decide +kernel, by decide +kernel, by decide +kernel, by decide +kernel, by decide +kernel, by decide +kernel⟩

theorem witness_final_groupReadCell_empty : ∃ (k : Nat) (o : OpEntry) (fin : Finish) (s : State) (h : Hdr) (gid : Nat) (sid : Nat) (index : Nat) (addr : Nat) (len : Nat),
    mayEnd k o s ∧ 0x1000 ≤ o.opcode ∧ o.opcode < 0x2800 ∧ o.cmd = .groupReadCell h gid sid index addr len ∧ (getInstant s gid index).bind (fun i => i.cellOf sid) = none :=
  ⟨0x03000001, opn 0x03000001 0x1410 (.groupReadCell (hd 28) (63) (16375) (7) (0) (352)), fine, ending 0x1410 (.groupReadCell (hd 28) (63) (16375) (7) (0) (352)) (withInstant (core 0)), hd 28, 63, 16375, 7, 0, 352, ends_of (by decide +kernel), by decide +kernel, by decide +kernel, by decide +kernel, by decide +kernel⟩

theorem witness_final_caravanJobDefine : ∃ (k : Nat) (o : OpEntry) (fin : Finish) (s : State) (h : Hdr) (p : JobP),
    mayEnd k o s ∧ 0x1000 ≤ o.opcode ∧ o.opcode < 0x2800 ∧ o.cmd = .caravanJobDefine h p ∧ fin.hwFault = false ∧ getJob s p.job = none ∧ jobFits p s = true ∧ admitted (placeJob { p with ruleCap := 0 } true s) = true :=
  ⟨0x03000001, opn 0x03000001 0x1800 (.caravanJobDefine (hd 48) (job)), fine, ending 0x1800 (.caravanJobDefine (hd 48) (job)) (core 0), hd 48, job, ends_of (by decide +kernel), by decide +kernel, by decide +kernel, by decide +kernel, by decide +kernel, by decide +kernel, by decide +kernel, by decide +kernel⟩

theorem witness_final_caravanJobDefine_refused : ∃ (k : Nat) (o : OpEntry) (fin : Finish) (s : State) (h : Hdr) (p : JobP),
    mayEnd k o s ∧ 0x1000 ≤ o.opcode ∧ o.opcode < 0x2800 ∧ o.cmd = .caravanJobDefine h p ∧ fin.hwFault = false ∧ getJob s p.job = none ∧ jobFits p s = true ∧ (admitted (placeJob { p with ruleCap := 0 } true s)) = false :=
  ⟨0x03000001, opn 0x03000001 0x1800 (.caravanJobDefine (hd 48) (job)), fine, ending 0x1800 (.caravanJobDefine (hd 48) (job)) (tooBig (core 0)), hd 48, job, ends_of (by decide +kernel), by decide +kernel, by decide +kernel, by decide +kernel, by decide +kernel, by decide +kernel, by decide +kernel, by decide +kernel⟩

theorem witness_final_caravanJobBind : ∃ (k : Nat) (o : OpEntry) (fin : Finish) (s : State) (h : Hdr) (job : Nat) (gid : Nat) (en : Nat) (t : State),
    mayEnd k o s ∧ 0x1000 ≤ o.opcode ∧ o.opcode < 0x2800 ∧ o.cmd = .caravanJobBind h job gid en ∧ (getJob s job).isSome = true ∧ t = bindJob job gid (en == 1) s ∧ ((en = 1 → groupLive s gid = true ∧ bindingsOk t = true)) ∧ admitted t = true :=
  ⟨0x03000001, opn 0x03000001 0x1802 (.caravanJobBind (hd 4) (1023) (63) (1)), fine, ending 0x1802 (.caravanJobBind (hd 4) (1023) (63) (1)) (placeJob job true (placeGroup (grp 63) [] true (core 0))), hd 4, 1023, 63, 1, _, ends_of (by decide +kernel), by decide +kernel, by decide +kernel, by decide +kernel, by decide +kernel, rfl, by decide +kernel, by decide +kernel⟩

theorem witness_final_caravanJobBind_refused : ∃ (k : Nat) (o : OpEntry) (fin : Finish) (s : State) (h : Hdr) (job : Nat) (gid : Nat) (en : Nat) (t : State),
    mayEnd k o s ∧ 0x1000 ≤ o.opcode ∧ o.opcode < 0x2800 ∧ o.cmd = .caravanJobBind h job gid en ∧ (getJob s job).isSome = true ∧ t = bindJob job gid (en == 1) s ∧ ((en = 1 → groupLive s gid = true ∧ bindingsOk t = true)) ∧ (admitted t) = false :=
  ⟨0x03000001, opn 0x03000001 0x1802 (.caravanJobBind (hd 4) (1023) (63) (1)), fine, ending 0x1802 (.caravanJobBind (hd 4) (1023) (63) (1)) (tooBig (placeJob job true (placeGroup (grp 63) [] true (core 0)))), hd 4, 1023, 63, 1, _, ends_of (by decide +kernel), by decide +kernel, by decide +kernel, by decide +kernel, by decide +kernel, rfl, by decide +kernel, by decide +kernel⟩

theorem witness_final_caravanLevelConfig : ∃ (k : Nat) (o : OpEntry) (fin : Finish) (s : State) (h : Hdr) (p : LevelP),
    mayEnd k o s ∧ 0x1000 ≤ o.opcode ∧ o.opcode < 0x2800 ∧ o.cmd = .caravanLevelConfig h p ∧ admitted (setLevels p s) = true :=
  ⟨0x03000001, opn 0x03000001 0x1808 (.caravanLevelConfig (hd 52) (⟨64, 11, 30, 31, List.replicate 11 0 ++ [800], List.replicate 11 4095 ++ [0]⟩)), fine, ending 0x1808 (.caravanLevelConfig (hd 52) (⟨64, 11, 30, 31, List.replicate 11 0 ++ [800], List.replicate 11 4095 ++ [0]⟩)) (core 0), hd 52, ⟨64, 11, 30, 31, List.replicate 11 0 ++ [800], List.replicate 11 4095 ++ [0]⟩, ends_of (by decide +kernel), by decide +kernel, by decide +kernel, by decide +kernel, by decide +kernel⟩

theorem witness_final_caravanLevelConfig_refused : ∃ (k : Nat) (o : OpEntry) (fin : Finish) (s : State) (h : Hdr) (p : LevelP),
    mayEnd k o s ∧ 0x1000 ≤ o.opcode ∧ o.opcode < 0x2800 ∧ o.cmd = .caravanLevelConfig h p ∧ (admitted (setLevels p s)) = false :=
  ⟨0x03000001, opn 0x03000001 0x1808 (.caravanLevelConfig (hd 52) (⟨64, 11, 30, 31, List.replicate 11 0 ++ [800], List.replicate 11 4095 ++ [0]⟩)), fine, ending 0x1808 (.caravanLevelConfig (hd 52) (⟨64, 11, 30, 31, List.replicate 11 0 ++ [800], List.replicate 11 4095 ++ [0]⟩)) (tooBig (core 0)), hd 52, ⟨64, 11, 30, 31, List.replicate 11 0 ++ [800], List.replicate 11 4095 ++ [0]⟩, ends_of (by decide +kernel), by decide +kernel, by decide +kernel, by decide +kernel, by decide +kernel⟩

theorem witness_final_caravanEngineRetire : ∃ (k : Nat) (o : OpEntry) (fin : Finish) (s : State) (h : Hdr) (engine : Nat),
    mayEnd k o s ∧ 0x1000 ≤ o.opcode ∧ o.opcode < 0x2800 ∧ o.cmd = .caravanEngineRetire h engine ∧ fin.hwFault = false ∧ (((getEngine s engine).st = .idle ∨ (getEngine s engine).st = .running ∨ (getEngine s engine).st = .spare)) ∧ admitted (loseEngine engine .selftest s) = true :=
  ⟨0x03000001, opn 0x03000001 0x1810 (.caravanEngineRetire (hd 1) (65)), fine, ending 0x1810 (.caravanEngineRetire (hd 1) (65)) (core 0), hd 1, 65, ends_of (by decide +kernel), by decide +kernel, by decide +kernel, by decide +kernel, by decide +kernel, by decide +kernel, by decide +kernel⟩

theorem witness_final_caravanEngineRetire_refused : ∃ (k : Nat) (o : OpEntry) (fin : Finish) (s : State) (h : Hdr) (engine : Nat),
    mayEnd k o s ∧ 0x1000 ≤ o.opcode ∧ o.opcode < 0x2800 ∧ o.cmd = .caravanEngineRetire h engine ∧ fin.hwFault = false ∧ (((getEngine s engine).st = .idle ∨ (getEngine s engine).st = .running ∨ (getEngine s engine).st = .spare)) ∧ (admitted (loseEngine engine .selftest s)) = false :=
  ⟨0x03000001, opn 0x03000001 0x1810 (.caravanEngineRetire (hd 1) (65)), fine, ending 0x1810 (.caravanEngineRetire (hd 1) (65)) (tooBig (core 0)), hd 1, 65, ends_of (by decide +kernel), by decide +kernel, by decide +kernel, by decide +kernel, by decide +kernel, by decide +kernel, by decide +kernel⟩

theorem witness_final_caravanEngineRestore_passed : ∃ (k : Nat) (o : OpEntry) (fin : Finish) (s : State) (h : Hdr) (engine : Nat) (v : State),
    mayEnd k o s ∧ 0x1000 ≤ o.opcode ∧ o.opcode < 0x2800 ∧ o.cmd = .caravanEngineRestore h engine ∧ v = updEngine engine (fun e => { e with busy := none }) s ∧ fin.pass = true :=
  ⟨0x03000001, opn 0x03000001 0x1811 (.caravanEngineRestore (hd 1) (65)), fine, ending 0x1811 (.caravanEngineRestore (hd 1) (65)) (core 0), hd 1, 65, _, ends_of (by decide +kernel), by decide +kernel, by decide +kernel, by decide +kernel, rfl, by decide +kernel⟩

theorem witness_final_caravanEngineRestore_failed : ∃ (k : Nat) (o : OpEntry) (fin : Finish) (s : State) (h : Hdr) (engine : Nat) (v : State),
    mayEnd k o s ∧ 0x1000 ≤ o.opcode ∧ o.opcode < 0x2800 ∧ o.cmd = .caravanEngineRestore h engine ∧ v = updEngine engine (fun e => { e with busy := none }) s ∧ fin.pass = false :=
  ⟨0x03000001, opn 0x03000001 0x1811 (.caravanEngineRestore (hd 1) (65)), ⟨false, false, false⟩, ending 0x1811 (.caravanEngineRestore (hd 1) (65)) (core 0), hd 1, 65, _, ends_of (by decide +kernel), by decide +kernel, by decide +kernel, by decide +kernel, rfl, by decide +kernel⟩

theorem witness_final_topoModelLoad_factored : ∃ (k : Nat) (o : OpEntry) (fin : Finish) (s : State) (h : Hdr) (addr : Nat) (len : Nat) (m : ModelP) (t : State),
    mayEnd k o s ∧ 0x1000 ≤ o.opcode ∧ o.opcode < 0x2800 ∧ o.cmd = .topoModelLoad h addr len true true m ∧ fin.hwFault = false ∧ fin.dataBad = false ∧ o.phase ≠ .committed ∧ s.ts.refac = none ∧ modelOk s m = true ∧ t = placeModel m s ∧ admitted t = true ∧ m.hasFactor = true :=
  ⟨0x03000001, opn 0x03000001 0x1C00 (.topoModelLoad (hd 12) (0) (65536) true true (⟨[0, 1], [⟨0, 1, 0, 0, 0, 0, 0, 0, 1, 0, 0, 0, 0, 0⟩], [], 2, true, 1, 1⟩)), fine, ending 0x1C00 (.topoModelLoad (hd 12) (0) (65536) true true (⟨[0, 1], [⟨0, 1, 0, 0, 0, 0, 0, 0, 1, 0, 0, 0, 0, 0⟩], [], 2, true, 1, 1⟩)) (core 0), hd 12, 0, 65536, ⟨[0, 1], [⟨0, 1, 0, 0, 0, 0, 0, 0, 1, 0, 0, 0, 0, 0⟩], [], 2, true, 1, 1⟩, _, ends_of (by decide +kernel), by decide +kernel, by decide +kernel, by decide +kernel, by decide +kernel, by decide +kernel, by decide +kernel, by decide +kernel, by decide +kernel, rfl, by decide +kernel, by decide +kernel⟩

theorem witness_final_topoModelLoad_unfactored : ∃ (k : Nat) (o : OpEntry) (fin : Finish) (s : State) (h : Hdr) (addr : Nat) (len : Nat) (m : ModelP) (t : State),
    mayEnd k o s ∧ 0x1000 ≤ o.opcode ∧ o.opcode < 0x2800 ∧ o.cmd = .topoModelLoad h addr len true true m ∧ fin.hwFault = false ∧ fin.dataBad = false ∧ o.phase ≠ .committed ∧ s.ts.refac = none ∧ modelOk s m = true ∧ t = placeModel m s ∧ admitted t = true ∧ m.hasFactor = false :=
  ⟨0x03000001, opn 0x03000001 0x1C00 (.topoModelLoad (hd 12) (0) (65536) true true (⟨[0, 1], [], [], 2, false, 1, 1⟩)), fine, ending 0x1C00 (.topoModelLoad (hd 12) (0) (65536) true true (⟨[0, 1], [], [], 2, false, 1, 1⟩)) (core 0), hd 12, 0, 65536, ⟨[0, 1], [], [], 2, false, 1, 1⟩, _, ends_of (by decide +kernel), by decide +kernel, by decide +kernel, by decide +kernel, by decide +kernel, by decide +kernel, by decide +kernel, by decide +kernel, by decide +kernel, rfl, by decide +kernel, by decide +kernel⟩

theorem witness_final_topoModelLoad_refused : ∃ (k : Nat) (o : OpEntry) (fin : Finish) (s : State) (h : Hdr) (addr : Nat) (len : Nat) (m : ModelP) (t : State),
    mayEnd k o s ∧ 0x1000 ≤ o.opcode ∧ o.opcode < 0x2800 ∧ o.cmd = .topoModelLoad h addr len true true m ∧ fin.hwFault = false ∧ fin.dataBad = false ∧ o.phase ≠ .committed ∧ s.ts.refac = none ∧ modelOk s m = true ∧ t = placeModel m s ∧ admitted t = false :=
  ⟨0x03000001, opn 0x03000001 0x1C00 (.topoModelLoad (hd 12) (0) (65536) true true (⟨[0, 1], [], [], 2, true, 1, 1⟩)), fine, ending 0x1C00 (.topoModelLoad (hd 12) (0) (65536) true true (⟨[0, 1], [], [], 2, true, 1, 1⟩)) (tooBig (core 0)), hd 12, 0, 65536, ⟨[0, 1], [], [], 2, true, 1, 1⟩, _, ends_of (by decide +kernel), by decide +kernel, by decide +kernel, by decide +kernel, by decide +kernel, by decide +kernel, by decide +kernel, by decide +kernel, by decide +kernel, rfl, by decide +kernel⟩

theorem witness_final_groupReadCell_cell : ∃ (k : Nat) (o : OpEntry) (fin : Finish) (s : State) (h : Hdr) (gid : Nat) (sid : Nat) (index : Nat) (addr : Nat) (len : Nat),
    mayEnd k o s ∧ 0x1000 ≤ o.opcode ∧ o.opcode < 0x2800 ∧ o.cmd = .groupReadCell h gid sid index addr len ∧ ((getInstant s gid index).bind (fun i => i.cellOf sid)).map (fun c => (readAll c s).1) = some true ∧ fin.dataBad = false :=
  ⟨0x03000001, opn 0x03000001 0x1410 (.groupReadCell (hd 28) (63) (16375) (7) (0) (352)), fine, ending 0x1410 (.groupReadCell (hd 28) (63) (16375) (7) (0) (352)) (withCell (core 0)), hd 28, 63, 16375, 7, 0, 352, ends_of (by decide +kernel), by decide +kernel, by decide +kernel, by decide +kernel, by decide +kernel, by decide +kernel⟩

theorem witness_final_groupReadCell_unreadable : ∃ (k : Nat) (o : OpEntry) (fin : Finish) (s : State) (h : Hdr) (gid : Nat) (sid : Nat) (index : Nat) (addr : Nat) (len : Nat),
    mayEnd k o s ∧ 0x1000 ≤ o.opcode ∧ o.opcode < 0x2800 ∧ o.cmd = .groupReadCell h gid sid index addr len ∧ ((getInstant s gid index).bind (fun i => i.cellOf sid)).map (fun c => (readAll c s).1) = some false :=
  ⟨0x03000001, opn 0x03000001 0x1410 (.groupReadCell (hd 28) (63) (16375) (7) (0) (352)), fine, ending 0x1410 (.groupReadCell (hd 28) (63) (16375) (7) (0) (352)) (badCell (withCell (core 0))), hd 28, 63, 16375, 7, 0, 352, ends_of (by decide +kernel), by decide +kernel, by decide +kernel, by decide +kernel, by decide +kernel⟩

theorem witness_final_topoReadResult : ∃ (k : Nat) (o : OpEntry) (fin : Finish) (s : State) (h : Hdr) (index : Nat) (sections : Nat) (addr : Nat) (len : Nat) (r : TsResult) (w : List Nat),
    mayEnd k o s ∧ 0x1000 ≤ o.opcode ∧ o.opcode < 0x2800 ∧ o.cmd = .topoReadResult h index sections addr len ∧ fin.dataBad = false ∧ pickResult s index = some r ∧ w = (resultWords r sections).take (len / 4) :=
  ⟨0x03000001, opn 0x03000001 0x1C10 (.topoReadResult (hd 20) (9) (1) (0) (4096)), fine, ending 0x1C10 (.topoReadResult (hd 20) (9) (1) (0) (4096)) (withResult (core 0)), hd 20, 9, 1, 0, 4096, _, _, ends_of (by decide +kernel), by decide +kernel, by decide +kernel, by decide +kernel, by decide +kernel, rfl, rfl⟩

theorem witness_final_oscSignalDefine : ∃ (k : Nat) (o : OpEntry) (fin : Finish) (s : State) (h : Hdr) (p : SigP),
    mayEnd k o s ∧ 0x1000 ≤ o.opcode ∧ o.opcode < 0x2800 ∧ o.cmd = .oscSignalDefine h p ∧ fin.hwFault = false ∧ sigFits p s = true ∧ admitted (placeSig p s) = true :=
  ⟨0x03000001, opn 0x03000001 0x2001 (.oscSignalDefine (hd 20) (sig)), fine, ending 0x2001 (.oscSignalDefine (hd 20) (sig)) (oscGid (core 0)), hd 20, sig, ends_of (by decide +kernel), by decide +kernel, by decide +kernel, by decide +kernel, by decide +kernel, by decide +kernel, by decide +kernel⟩

theorem witness_final_oscSignalDefine_refused : ∃ (k : Nat) (o : OpEntry) (fin : Finish) (s : State) (h : Hdr) (p : SigP),
    mayEnd k o s ∧ 0x1000 ≤ o.opcode ∧ o.opcode < 0x2800 ∧ o.cmd = .oscSignalDefine h p ∧ fin.hwFault = false ∧ sigFits p s = true ∧ (admitted (placeSig p s)) = false :=
  ⟨0x03000001, opn 0x03000001 0x2001 (.oscSignalDefine (hd 20) (sig)), fine, ending 0x2001 (.oscSignalDefine (hd 20) (sig)) (tooBig (oscGid (core 0))), hd 20, sig, ends_of (by decide +kernel), by decide +kernel, by decide +kernel, by decide +kernel, by decide +kernel, by decide +kernel, by decide +kernel⟩

theorem witness_final_oscGroupDefine : ∃ (k : Nat) (o : OpEntry) (fin : Finish) (s : State) (h : Hdr) (p : OscGroupP),
    mayEnd k o s ∧ 0x1000 ≤ o.opcode ∧ o.opcode < 0x2800 ∧ o.cmd = .oscGroupDefine h p ∧ fin.hwFault = false ∧ groupFits p (groupSigs s p.group).length = true :=
  ⟨0x03000001, opn 0x03000001 0x2008 (.oscGroupDefine (hd 16) (ogr)), fine, ending 0x2008 (.oscGroupDefine (hd 16) (ogr)) (placeSig sig (oscGid (core 0))), hd 16, ogr, ends_of (by decide +kernel), by decide +kernel, by decide +kernel, by decide +kernel, by decide +kernel, by decide +kernel⟩

theorem witness_final_oscReadBands : ∃ (k : Nat) (o : OpEntry) (fin : Finish) (s : State) (h : Hdr) (first : Nat) (count : Nat) (depth : Nat) (addr : Nat) (len : Nat),
    mayEnd k o s ∧ 0x1000 ≤ o.opcode ∧ o.opcode < 0x2800 ∧ o.cmd = .oscReadBands h first count depth addr len ∧ fin.dataBad = false :=
  ⟨0x03000001, opn 0x03000001 0x2010 (.oscReadBands (hd 20) (0) (1) (1) (0) (152)), fine, ending 0x2010 (.oscReadBands (hd 20) (0) (1) (1) (0) (152)) (core 0), hd 20, 0, 1, 1, 0, 152, ends_of (by decide +kernel), by decide +kernel, by decide +kernel, by decide +kernel, by decide +kernel⟩

theorem witness_final_oscReadModes : ∃ (k : Nat) (o : OpEntry) (fin : Finish) (s : State) (h : Hdr) (group : Nat) (depth : Nat) (addr : Nat) (len : Nat) (w : List Nat),
    mayEnd k o s ∧ 0x1000 ≤ o.opcode ∧ o.opcode < 0x2800 ∧ o.cmd = .oscReadModes h group depth addr len ∧ fin.dataBad = false ∧ w = fitRecords (len / 4) (((((tfind s.sc.groups group).map (·.recs)).getD []).take depth).map (slowWords group)) :=
  ⟨0x03000001, opn 0x03000001 0x2011 (.oscReadModes (hd 20) (0) (1) (0) (152)), fine, ending 0x2011 (.oscReadModes (hd 20) (0) (1) (0) (152)) (core 0), hd 20, 0, 1, 0, 152, _, ends_of (by decide +kernel), by decide +kernel, by decide +kernel, by decide +kernel, by decide +kernel, rfl⟩

theorem witness_final_acqChannelDefine : ∃ (k : Nat) (o : OpEntry) (fin : Finish) (s : State) (h : Hdr) (p : ChanP),
    mayEnd k o s ∧ 0x2800 ≤ o.opcode ∧ o.cmd = .acqChannelDefine h p ∧ fin.hwFault = false ∧ chanFree p s = true ∧ admitted (placeChan p true s) = true :=
  ⟨0x03000001, opn 0x03000001 0x2800 (.acqChannelDefine (hd 28) (chn)), fine, ending 0x2800 (.acqChannelDefine (hd 28) (chn)) (placeGroup (grp 63) [] true (core 0)), hd 28, chn, ends_of (by decide +kernel), by decide +kernel, by decide +kernel, by decide +kernel, by decide +kernel, by decide +kernel⟩

theorem witness_final_acqChannelDefine_refused : ∃ (k : Nat) (o : OpEntry) (fin : Finish) (s : State) (h : Hdr) (p : ChanP),
    mayEnd k o s ∧ 0x2800 ≤ o.opcode ∧ o.cmd = .acqChannelDefine h p ∧ fin.hwFault = false ∧ chanFree p s = true ∧ (admitted (placeChan p true s)) = false :=
  ⟨0x03000001, opn 0x03000001 0x2800 (.acqChannelDefine (hd 28) (chn)), fine, ending 0x2800 (.acqChannelDefine (hd 28) (chn)) (tooBig (placeGroup (grp 63) [] true (core 0))), hd 28, chn, ends_of (by decide +kernel), by decide +kernel, by decide +kernel, by decide +kernel, by decide +kernel, by decide +kernel⟩

theorem witness_final_acqRingDefine : ∃ (k : Nat) (o : OpEntry) (fin : Finish) (s : State) (h : Hdr) (p : AqRingP) (slot : Nat) (t : State),
    mayEnd k o s ∧ 0x2800 ≤ o.opcode ∧ o.cmd = .acqRingDefine h p ∧ fin.hwFault = false ∧ ringFits p s = true ∧ slot = ((getChan s p.ch).map (fun c => slotBytes p.kind c.p)).getD 0 ∧ t = placeRing p true (((getAqRing s (ringNo p)).map (·.byCommand)).getD true) s ∧ admitted t = true :=
  ⟨0x03000001, opn 0x03000001 0x2801 (.acqRingDefine (hd 28) (rng)), fine, ending 0x2801 (.acqRingDefine (hd 28) (rng)) (placeChan ⟨15, 63, 31, 1, 0, 4, 1, 0, 0, 0⟩ true (core 0)), hd 28, rng, _, _, ends_of (by decide +kernel), by decide +kernel, by decide +kernel, by decide +kernel, by decide +kernel, rfl, rfl, by decide +kernel⟩

theorem witness_final_acqRingDefine_refused : ∃ (k : Nat) (o : OpEntry) (fin : Finish) (s : State) (h : Hdr) (p : AqRingP) (slot : Nat) (t : State),
    mayEnd k o s ∧ 0x2800 ≤ o.opcode ∧ o.cmd = .acqRingDefine h p ∧ fin.hwFault = false ∧ ringFits p s = true ∧ slot = ((getChan s p.ch).map (fun c => slotBytes p.kind c.p)).getD 0 ∧ t = placeRing p true (((getAqRing s (ringNo p)).map (·.byCommand)).getD true) s ∧ (admitted t) = false :=
  ⟨0x03000001, opn 0x03000001 0x2801 (.acqRingDefine (hd 28) (rng)), fine, ending 0x2801 (.acqRingDefine (hd 28) (rng)) (tooBig (placeChan ⟨15, 63, 31, 1, 0, 4, 1, 0, 0, 0⟩ true (core 0))), hd 28, rng, _, _, ends_of (by decide +kernel), by decide +kernel, by decide +kernel, by decide +kernel, by decide +kernel, rfl, rfl, by decide +kernel⟩

theorem witness_final_meterEnergySigned_signed : ∃ (k : Nat) (o : OpEntry) (fin : Finish) (s : State) (h : Hdr) (mask : Nat) (slot : Nat) (addr : Nat) (len : Nat) (body : List Nat),
    mayEnd k o s ∧ 0x2800 ≤ o.opcode ∧ o.cmd = .meterEnergySigned h mask slot addr len ∧ fin.hwFault = false ∧ stmtEnded s = false ∧ drbgServes s = true ∧ body = statementBody mask s ∧ keyUse s slot 3 [2, 3] = 0 ∧ statementLen s mask slot ≤ len :=
  ⟨0x03000001, opn 0x03000001 0x2C0B (.meterEnergySigned (hd 20) (15) (3) (0) (544)), fine, ending 0x2C0B (.meterEnergySigned (hd 20) (15) (3) (0) (544)) (key 3 2 0x08 (core 0)), hd 20, 15, 3, 0, 544, _, ends_of (by decide +kernel), by decide +kernel, by decide +kernel, by decide +kernel, by decide +kernel, by decide +kernel, rfl, by decide +kernel, by decide +kernel⟩

theorem witness_final_meterEnergySigned_revoked : ∃ (k : Nat) (o : OpEntry) (fin : Finish) (s : State) (h : Hdr) (mask : Nat) (slot : Nat) (addr : Nat) (len : Nat) (body : List Nat),
    mayEnd k o s ∧ 0x2800 ≤ o.opcode ∧ o.cmd = .meterEnergySigned h mask slot addr len ∧ fin.hwFault = false ∧ stmtEnded s = false ∧ drbgServes s = true ∧ body = statementBody mask s ∧ keyUse s slot 3 [2, 3] ≠ 0 :=
  ⟨0x03000001, opn 0x03000001 0x2C0B (.meterEnergySigned (hd 20) (15) (3) (0) (544)), fine, ending 0x2C0B (.meterEnergySigned (hd 20) (15) (3) (0) (544)) (core 0), hd 20, 15, 3, 0, 544, _, ends_of (by decide +kernel), by decide +kernel, by decide +kernel, by decide +kernel, by decide +kernel, by decide +kernel, rfl, by decide +kernel⟩

theorem witness_final_meterVstreamDefine : ∃ (k : Nat) (o : OpEntry) (fin : Finish) (s : State) (h : Hdr) (p : VsP),
    mayEnd k o s ∧ 0x2800 ≤ o.opcode ∧ o.cmd = .meterVstreamDefine h p ∧ fin.hwFault = false ∧ twoPhase p.seqMask s = false ∧ admitted (putVs p true s) = true :=
  ⟨0x03000001, opn 0x03000001 0x2C18 (.meterVstreamDefine (hd 12) (vst)), fine, ending 0x2C18 (.meterVstreamDefine (hd 12) (vst)) (core 0), hd 12, vst, ends_of (by decide +kernel), by decide +kernel, by decide +kernel, by decide +kernel, by decide +kernel, by decide +kernel⟩

theorem witness_final_meterVstreamDefine_refused : ∃ (k : Nat) (o : OpEntry) (fin : Finish) (s : State) (h : Hdr) (p : VsP),
    mayEnd k o s ∧ 0x2800 ≤ o.opcode ∧ o.cmd = .meterVstreamDefine h p ∧ fin.hwFault = false ∧ twoPhase p.seqMask s = false ∧ (admitted (putVs p true s)) = false :=
  ⟨0x03000001, opn 0x03000001 0x2C18 (.meterVstreamDefine (hd 12) (vst)), fine, ending 0x2C18 (.meterVstreamDefine (hd 12) (vst)) (tooBig (core 0)), hd 12, vst, ends_of (by decide +kernel), by decide +kernel, by decide +kernel, by decide +kernel, by decide +kernel, by decide +kernel⟩

theorem witness_final_meterSave_saved : ∃ (k : Nat) (o : OpEntry) (fin : Finish) (s : State) (h : Hdr),
    mayEnd k o s ∧ 0x2800 ≤ o.opcode ∧ o.cmd = .meterSave h ∧ fin.hwFault = false :=
  ⟨0x03000001, opn 0x03000001 0x2C29 (.meterSave (hd 0)), fine, ending 0x2C29 (.meterSave (hd 0)) (core 0), hd 0, ends_of (by decide +kernel), by decide +kernel, by decide +kernel, by decide +kernel⟩

theorem witness_final_meterSave_failed : ∃ (k : Nat) (o : OpEntry) (fin : Finish) (s : State) (h : Hdr),
    mayEnd k o s ∧ 0x2800 ≤ o.opcode ∧ o.cmd = .meterSave h ∧ fin.hwFault = true :=
  ⟨0x03000001, opn 0x03000001 0x2C29 (.meterSave (hd 0)), hwFault, ending 0x2C29 (.meterSave (hd 0)) (core 0), hd 0, ends_of (by decide +kernel), by decide +kernel, by decide +kernel, by decide +kernel⟩

theorem witness_final_vaultLifecycle : ∃ (k : Nat) (o : OpEntry) (fin : Finish) (s : State) (h : Hdr) (target : Nat) (key : Option Nat) (l : Lifecycle) (t : State),
    mayEnd k o s ∧ 0x2800 ≤ o.opcode ∧ o.cmd = .vaultLifecycle h target key ∧ fin.hwFault = false ∧ lifecycleOf target = some l ∧ lifecycleStep s.fuses.lifecycle target = true ∧ ((l = .provisioned → key.isSome = true ∧ drbgServes s = true)) ∧ t = finalCompletion o 0 [] (burnFuses l key s) :=
  ⟨0x03000001, opn 0x03000001 0x3001 (.vaultLifecycle (hd 8) (2) (none)), fine, ending 0x3001 (.vaultLifecycle (hd 8) (2) (none)) ({ core 0 with fuses := ⟨5, .provisioned, some 7⟩ }), hd 8, 2, none, .operational, _, ends_of (by decide +kernel), by decide +kernel, by decide +kernel, by decide +kernel, by decide +kernel, by decide +kernel, by decide +kernel, rfl⟩

theorem witness_final_vaultRootGenerate : ∃ (k : Nat) (o : OpEntry) (fin : Finish) (s : State) (h : Hdr) (v : State),
    mayEnd k o s ∧ 0x2800 ≤ o.opcode ∧ o.cmd = .vaultRootGenerate h ∧ fin.hwFault = false ∧ drbgServes s = true ∧ s.ov.tamper = false ∧ v = (drawRandom s).2 :=
  ⟨0x03000001, opn 0x03000001 0x3003 (.vaultRootGenerate (hd 0)), fine, ending 0x3003 (.vaultRootGenerate (hd 0)) (noRoot (core 0)), hd 0, _, ends_of (by decide +kernel), by decide +kernel, by decide +kernel, by decide +kernel, by decide +kernel, by decide +kernel, rfl⟩

theorem witness_final_vaultGenerate : ∃ (k : Nat) (o : OpEntry) (fin : Finish) (s : State) (h : Hdr) (slot : Nat) (alg : Nat) (usage : Nat) (lock : Nat) (v : Nat) (t : State),
    mayEnd k o s ∧ 0x2800 ≤ o.opcode ∧ o.cmd = .vaultGenerate h slot alg usage lock ∧ fin.hwFault = false ∧ drbgServes s = true ∧ spanEmpty s slot alg = true ∧ drawRandom s = (v, t) :=
  ⟨0x03000001, opn 0x03000001 0x3010 (.vaultGenerate (hd 4) (255) (0) (0xF3) (1)), fine, ending 0x3010 (.vaultGenerate (hd 4) (255) (0) (0xF3) (1)) (core 0), hd 4, 255, 0, 0xF3, 1, _, _, ends_of (by decide +kernel), by decide +kernel, by decide +kernel, by decide +kernel, by decide +kernel, by decide +kernel, rfl⟩

theorem witness_final_vaultDerive : ∃ (k : Nat) (o : OpEntry) (fin : Finish) (s : State) (h : Hdr) (slot : Nat) (parent : Nat) (alg : Nat) (usage : Nat) (lock : Nat) (label : Nat),
    mayEnd k o s ∧ 0x2800 ≤ o.opcode ∧ o.cmd = .vaultDerive h slot parent alg usage lock label ∧ fin.hwFault = false ∧ spanEmpty s slot alg = true ∧ parentStatus parent s = 0 :=
  ⟨0x03000001, opn 0x03000001 0x3011 (.vaultDerive (hd 40) (255) (255) (1) (0x32) (1) (2 ^ 256 - 2)), fine, ending 0x3011 (.vaultDerive (hd 40) (255) (255) (1) (0x32) (1) (2 ^ 256 - 2)) (core 0), hd 40, 255, 255, 1, 0x32, 1, 2 ^ 256 - 2, ends_of (by decide +kernel), by decide +kernel, by decide +kernel, by decide +kernel, by decide +kernel, by decide +kernel⟩

theorem witness_final_vaultImport : ∃ (k : Nat) (o : OpEntry) (fin : Finish) (s : State) (h : Hdr) (p : ImportP),
    mayEnd k o s ∧ 0x2800 ≤ o.opcode ∧ o.cmd = .vaultImport h p ∧ fin.hwFault = false ∧ spanEmpty s p.slot p.alg = true ∧ ((p.form = 1 → keyUse s p.wrapSlot 0 [0] = 0)) ∧ ((p.form = 2 → (rootInForce s).isSome = true)) ∧ (importedMaterial p s).isSome = true :=
  ⟨0x03000001, opn 0x03000001 0x3012 (.vaultImport (hd 40) (⟨255, 0, 0, 1, 0x10, true, true, true, List.replicate 32 7⟩)), fine, ending 0x3012 (.vaultImport (hd 40) (⟨255, 0, 0, 1, 0x10, true, true, true, List.replicate 32 7⟩)) (core 0), hd 40, ⟨255, 0, 0, 1, 0x10, true, true, true, List.replicate 32 7⟩, ends_of (by decide +kernel), by decide +kernel, by decide +kernel, by decide +kernel, by decide +kernel, by decide +kernel, by decide +kernel, by decide +kernel⟩

theorem witness_final_vaultImport_refused : ∃ (k : Nat) (o : OpEntry) (fin : Finish) (s : State) (h : Hdr) (p : ImportP),
    mayEnd k o s ∧ 0x2800 ≤ o.opcode ∧ o.cmd = .vaultImport h p ∧ fin.hwFault = false ∧ spanEmpty s p.slot p.alg = true ∧ ((p.form = 1 → keyUse s p.wrapSlot 0 [0] = 0)) ∧ ((p.form = 2 → (rootInForce s).isSome = true)) ∧ importedMaterial p s = none :=
  ⟨0x03000001, opn 0x03000001 0x3012 (.vaultImport (hd 40) (⟨255, 2, 0, 1, 0x10, true, true, true, List.replicate 64 7⟩)), fine, ending 0x3012 (.vaultImport (hd 40) (⟨255, 2, 0, 1, 0x10, true, true, true, List.replicate 64 7⟩)) (core 0), hd 40, ⟨255, 2, 0, 1, 0x10, true, true, true, List.replicate 64 7⟩, ends_of (by decide +kernel), by decide +kernel, by decide +kernel, by decide +kernel, by decide +kernel, by decide +kernel, by decide +kernel, by decide +kernel⟩

theorem witness_final_vaultSeal : ∃ (k : Nat) (o : OpEntry) (fin : Finish) (s : State) (h : Hdr) (slot : Nat) (addr : Nat) (len : Nat) (r : Nat) (x : Slot),
    mayEnd k o s ∧ 0x2800 ≤ o.opcode ∧ o.cmd = .vaultSeal h slot addr len ∧ fin.hwFault = false ∧ rootInForce s = some r ∧ getSlot s slot = some x ∧ drbgServes s = true ∧ heldStatus s slot = 0 ∧ blobLen x.alg ≤ len :=
  ⟨0x03000001, opn 0x03000001 0x3013 (.vaultSeal (hd 20) (255) (0) (64)), fine, ending 0x3013 (.vaultSeal (hd 20) (255) (0) (64)) (key 255 0 0xF3 (core 0)), hd 20, 255, 0, 64, 5, _, ends_of (by decide +kernel), by decide +kernel, by decide +kernel, by decide +kernel, by decide +kernel, rfl, by decide +kernel, by decide +kernel, by decide +kernel⟩

theorem witness_final_vaultExport : ∃ (k : Nat) (o : OpEntry) (fin : Finish) (s : State) (h : Hdr) (slot : Nat) (wrapSlot : Nat) (uid : Nat) (addr : Nat) (len : Nat) (x : Slot),
    mayEnd k o s ∧ 0x2800 ≤ o.opcode ∧ o.cmd = .vaultExport h slot wrapSlot uid addr len ∧ fin.hwFault = false ∧ keyUse s wrapSlot 0 [0] = 0 ∧ getSlot s slot = some x ∧ x.exportable = true ∧ drbgServes s = true ∧ heldStatus s slot = 0 ∧ blobLen x.alg ≤ len :=
  ⟨0x03000001, opn 0x03000001 0x3014 (.vaultExport (hd 44) (255) (3) (0) (0) (64)), fine, ending 0x3014 (.vaultExport (hd 44) (255) (3) (0) (0) (64)) (exportable 255 (key 255 0 0xF3 (key 3 0 0x01 (core 0)))), hd 44, 255, 3, 0, 0, 64, _, ends_of (by decide +kernel), by decide +kernel, by decide +kernel, by decide +kernel, by decide +kernel, rfl, by decide +kernel, by decide +kernel, by decide +kernel, by decide +kernel⟩

theorem witness_final_vaultAttest_device : ∃ (k : Nat) (o : OpEntry) (fin : Finish) (s : State) (h : Hdr) (slot : Nat) (nonce : Nat) (addr : Nat) (len : Nat) (body : List Nat),
    mayEnd k o s ∧ 0x2800 ≤ o.opcode ∧ o.cmd = .vaultAttest h slot nonce addr len ∧ fin.hwFault = false ∧ drbgServes s = true ∧ stmtEnded s = false ∧ (rootInForce s).isSome = true ∧ body = attestBody slot nonce s ∧ (slot = 0xFF ∨ attestable s slot = true) :=
  ⟨0x03000001, opn 0x03000001 0x3016 (.vaultAttest (hd 52) (0xFF) (5) (0) (272)), fine, ending 0x3016 (.vaultAttest (hd 52) (0xFF) (5) (0) (272)) (core 0), hd 52, 0xFF, 5, 0, 272, _, ends_of (by decide +kernel), by decide +kernel, by decide +kernel, by decide +kernel, by decide +kernel, by decide +kernel, by decide +kernel, rfl, by decide +kernel⟩

theorem witness_final_vaultAttest_revoked : ∃ (k : Nat) (o : OpEntry) (fin : Finish) (s : State) (h : Hdr) (slot : Nat) (nonce : Nat) (addr : Nat) (len : Nat) (body : List Nat),
    mayEnd k o s ∧ 0x2800 ≤ o.opcode ∧ o.cmd = .vaultAttest h slot nonce addr len ∧ fin.hwFault = false ∧ drbgServes s = true ∧ stmtEnded s = false ∧ (rootInForce s).isSome = true ∧ body = attestBody slot nonce s ∧ slot ≠ 0xFF ∧ attestable s slot = false :=
  ⟨0x03000001, opn 0x03000001 0x3016 (.vaultAttest (hd 52) (3) (5) (0) (272)), fine, ending 0x3016 (.vaultAttest (hd 52) (3) (5) (0) (272)) (core 0), hd 52, 3, 5, 0, 272, _, ends_of (by decide +kernel), by decide +kernel, by decide +kernel, by decide +kernel, by decide +kernel, by decide +kernel, by decide +kernel, rfl, by decide +kernel, by decide +kernel⟩

theorem witness_final_logRead_good : ∃ (k : Nat) (o : OpEntry) (fin : Finish) (s : State) (h : Hdr) (first : Nat) (count : Nat) (addr : Nat) (len : Nat) (c : Nat) (l : List LogRec) (t : Tbl LogRec) (v : State),
    mayEnd k o s ∧ 0x2800 ≤ o.opcode ∧ o.cmd = .logRead h first count addr len ∧ fin.dataBad = false ∧ c = clampCur s first ∧ (l = if s.cairn.log.isEmpty then [] else (logFrom s c).take count) ∧ readRecords l s = (t, true, v) :=
  ⟨0x03000001, opn 0x03000001 0x3402 (.logRead (hd 20) (0) (8192) (0) (262144)), fine, ending 0x3402 (.logRead (hd 20) (0) (8192) (0) (262144)) (core 0), hd 20, 0, 8192, 0, 262144, _, _, _, _, ends_of (by decide +kernel), by decide +kernel, by decide +kernel, by decide +kernel, rfl, rfl, rfl⟩

theorem witness_final_logRead_unreadable : ∃ (k : Nat) (o : OpEntry) (fin : Finish) (s : State) (h : Hdr) (first : Nat) (count : Nat) (addr : Nat) (len : Nat) (c : Nat) (l : List LogRec) (t : Tbl LogRec) (v : State),
    mayEnd k o s ∧ 0x2800 ≤ o.opcode ∧ o.cmd = .logRead h first count addr len ∧ fin.dataBad = false ∧ c = clampCur s first ∧ (l = if s.cairn.log.isEmpty then [] else (logFrom s c).take count) ∧ readRecords l s = (t, false, v) :=
  ⟨0x03000001, opn 0x03000001 0x3402 (.logRead (hd 20) (0) (8192) (0) (262144)), fine, ending 0x3402 (.logRead (hd 20) (0) (8192) (0) (262144)) ({ core 0 with cairn := { (core 0).cairn with log := [⟨0, rec0, false, [3]⟩], nextSeq := 1 } }), hd 20, 0, 8192, 0, 262144, _, _, _, _, ends_of (by decide +kernel), by decide +kernel, by decide +kernel, by decide +kernel, rfl, rfl, rfl⟩

theorem witness_final_logFlush : ∃ (k : Nat) (o : OpEntry) (fin : Finish) (s : State) (h : Hdr),
    mayEnd k o s ∧ 0x2800 ≤ o.opcode ∧ o.cmd = .logFlush h ∧ fin.hwFault = false ∧ s.ev.flushing = false ∧ s.ev.flushAgain = false :=
  ⟨0x03000001, opn 0x03000001 0x3403 (.logFlush (hd 0)), fine, ending 0x3403 (.logFlush (hd 0)) (core 0), hd 0, ends_of (by decide +kernel), by decide +kernel, by decide +kernel, by decide +kernel, by decide +kernel, by decide +kernel⟩

theorem witness_final_powerRefSwitch_switched : ∃ (k : Nat) (o : OpEntry) (fin : Finish) (s : State) (h : Hdr) (v : State),
    mayEnd k o s ∧ 0x2800 ≤ o.opcode ∧ o.cmd = .powerRefSwitch h ∧ v = { s with ck := { s.ck with switching := false } } ∧ fin.hwFault = false ∧ standbyOk s.ck = true :=
  ⟨0x03000001, opn 0x03000001 0x3811 (.powerRefSwitch (hd 0)), fine, ending 0x3811 (.powerRefSwitch (hd 0)) (refsOk (core 0)), hd 0, _, ends_of (by decide +kernel), by decide +kernel, by decide +kernel, rfl, by decide +kernel, by decide +kernel⟩

theorem witness_final_powerRefSwitch_lost : ∃ (k : Nat) (o : OpEntry) (fin : Finish) (s : State) (h : Hdr) (v : State),
    mayEnd k o s ∧ 0x2800 ≤ o.opcode ∧ o.cmd = .powerRefSwitch h ∧ v = { s with ck := { s.ck with switching := false } } ∧ (fin.hwFault = true ∨ standbyOk s.ck = false) :=
  ⟨0x03000001, opn 0x03000001 0x3811 (.powerRefSwitch (hd 0)), fine, ending 0x3811 (.powerRefSwitch (hd 0)) (core 0), hd 0, _, ends_of (by decide +kernel), by decide +kernel, by decide +kernel, rfl, by decide +kernel⟩

/-! ### The other statements -/

/-- A full table of outstanding handles. -/
def fullOps (s : State) : State :=
  { s with hi := { s.hi with ops := List.replicate 1024 (opn 0x03000001 0x2010 .jtagIdcode) } }

/-- A notice queue whose ring of 1,024 entries is full. -/
def fullNq (m : Nat) (lost : Bool) : Nq :=
  { Nq.reset with en := true, w := 1024, m := m, markValid := true, markLost := lost, held := List.replicate 1024 7 }

/-- A graph with a node at level 12. -/
def urgentJob : JobP := { job with nodes := job.nodes.map (fun d => { d with level := 12 }) }

theorem witness_StepRunsTheFrontCommand : ∃ (c : Instr) (rest : List Instr) (s : State), s.pending = c :: rest :=
  ⟨.jtagIdcode, [.duneTick], { live with pending := [.jtagIdcode, .duneTick] }, rfl⟩

theorem witness_IdleCountsTheClock : ∃ s : State, s.pending = [] ∧ (∀ src, undefinedHead s src = false) ∧ timeRuns s = true :=
  ⟨{ live with hi := Hi.reset }, rfl, fun src => by cases src <;> rfl, rfl⟩

theorem witness_IdleCountsTheClock_held : ∃ s : State, s.pending = [] ∧ (∀ src, undefinedHead s src = false) ∧ timeRuns s = false :=
  ⟨{ inMode .frozen live with hi := Hi.reset }, rfl, fun src => by cases src <;> rfl, rfl⟩

theorem witness_UndefinedOpcodesCompleteBadOpcode : ∃ (s : State) (src : Src) (p : PacketHead), s.pending = [] ∧ s.pm.mode ≠ .frozen ∧
    src.wf = true ∧ undefinedHead s src = true ∧ headOf s src = some p :=
  ⟨core 0x0FFF, .mailbox, head0 0x0FFF, by decide⟩

theorem witness_FusesAgreeAfterEveryStep : ∃ s t : State, FusesOk s ∧ step s = .next t :=
  ⟨State.reset, _, ⟨fun _ => rfl, fun _ => rfl⟩, rfl⟩

theorem witness_LifecycleFollowsTheTable : ∃ (c : Instr) (s t : State), exec c s = .next t :=
  ⟨.jtagIdcode, State.reset, _, rfl⟩

theorem witness_HostInterfaceKeepsItsBounds : ∃ s t : State, HostOk s ∧ step s = .next t :=
  ⟨State.reset, _, ⟨⟨.nil, nofun⟩, by decide, nofun⟩, rfl⟩

theorem witness_FaultedOperationsLeaveNoEffect : ∃ (k : Nat) (o : OpEntry) (fin : Finish) (s : State), mayEnd k o s ∧ fin.hwFault = true ∧
    o.opcode < 0x1000 ∧ ∃ h, o.cmd = .cfgCommit h :=
  ⟨0x03000001, opn 0x03000001 0x0401 (.cfgCommit (hd 0)), hwFault, ending 0x0401 (.cfgCommit (hd 0)) (core 0), ends_of (by decide +kernel), rfl,
    by decide, hd 0, rfl⟩

theorem witness_FaultedOperationsLeaveNoEffect_grid : ∃ (k : Nat) (o : OpEntry) (fin : Finish) (s : State), mayEnd k o s ∧ fin.hwFault = true ∧
    0x1000 ≤ o.opcode ∧ o.opcode < 0x2800 ∧ ∃ h p, o.cmd = .groupDefine h p :=
  ⟨0x03000001, opn 0x03000001 0x1400 (.groupDefine (hd 36) (grp 63)), hwFault, ending 0x1400 (.groupDefine (hd 36) (grp 63)) (core 0),
    ends_of (by decide +kernel), rfl, by decide, by decide, hd 36, grp 63, rfl⟩

theorem witness_FaultedOperationsLeaveNoEffect_rest : ∃ (k : Nat) (o : OpEntry) (fin : Finish) (s : State), mayEnd k o s ∧ fin.hwFault = true ∧
    0x2800 ≤ o.opcode ∧ ∃ h, o.cmd = .logFlush h :=
  ⟨0x03000001, opn 0x03000001 0x3403 (.logFlush (hd 0)), hwFault, ending 0x3403 (.logFlush (hd 0)) (core 0), ends_of (by decide +kernel), rfl,
    by decide, hd 0, rfl⟩

theorem witness_HostCommandsKeepTheirFrame : ∃ (c : Instr) (s t : State) (p : Proc), procOf c s = some p ∧ exec c s = .next t :=
  ⟨.sysNop (hd 0), core 0, _, _, rfl, rfl⟩

theorem witness_EventsKeepTheirFrame : ∃ (c : Instr) (s t : State), procOf c s = none ∧ exec c s = .next t :=
  ⟨.duneTick, live, _, rfl, rfl⟩

theorem witness_TurnedAwayByTheChecks_length : ∃ (c : Instr) (s : State) (p : Proc), procOf c s = some p ∧
    dispatches p.h p.spec.opcode s = true ∧ lengthOk p.h p.spec = false :=
  ⟨.sysNop (hd 1), sub (hd 1) 0 (core 0), _, rfl, by decide, by decide⟩

theorem witness_TurnedAwayByTheChecks_buffer : ∃ (c : Instr) (s : State) (p : Proc), procOf c s = some p ∧
    dispatches p.h p.spec.opcode s = true ∧ lengthOk p.h p.spec = true ∧ bufLost p.h = true :=
  ⟨.streamInstall { hd 576 with bufOk := false } (strm 16375), sub { hd 576 with bufOk := false } 0x1000 (core 0x1000), _, rfl,
    by decide +kernel, by decide +kernel, by decide +kernel⟩

theorem witness_TurnedAwayByTheChecks_tag : ∃ (c : Instr) (s : State) (p : Proc), procOf c s = some p ∧
    dispatches p.h p.spec.opcode s = true ∧ lengthOk p.h p.spec = true ∧ bufLost p.h = false ∧ (authVerdict p.h p.spec (takeHead p.h.src s)).1 = 0x40 :=
  ⟨.cfgStore (hd 0), sub (hd 0) 0x0405 (core 0x0405), _, rfl, by decide, by decide, by decide, by decide⟩

theorem witness_TurnedAwayByTheChecks_value : ∃ (c : Instr) (s : State) (p : Proc), procOf c s = some p ∧
    dispatches p.h p.spec.opcode s = true ∧ lengthOk p.h p.spec = true ∧ bufLost p.h = false ∧ (authVerdict p.h p.spec (takeHead p.h.src s)).1 = 0 ∧
    paramsOk p.h p.spec = false :=
  ⟨.cfgQuery (hd 1) 2, sub (hd 1) 0x0404 (core 0x0404), _, rfl, by decide, by decide, by decide, by decide, by decide⟩

theorem witness_TurnedAwayByTheChecks_mode : ∃ (c : Instr) (s : State) (p : Proc), procOf c s = some p ∧
    dispatches p.h p.spec.opcode s = true ∧ lengthOk p.h p.spec = true ∧ bufLost p.h = false ∧ (authVerdict p.h p.spec (takeHead p.h.src s)).1 = 0 ∧
    paramsOk p.h p.spec = true ∧ modeAdmits p.spec (takeHead p.h.src s) = false :=
  ⟨.streamGconfig (hd 6) ⟨31, 1000, 10000⟩, sub (hd 6) 0x1010 (inMode .run (core 0x1010)), _, rfl, by decide, by decide, by decide, by decide, by decide, by decide⟩

theorem witness_TurnedAwayByTheChecks_domain : ∃ (c : Instr) (s : State) (p : Proc), procOf c s = some p ∧
    dispatches p.h p.spec.opcode s = true ∧ lengthOk p.h p.spec = true ∧ bufLost p.h = false ∧ (authVerdict p.h p.spec (takeHead p.h.src s)).1 = 0 ∧
    paramsOk p.h p.spec = true ∧ modeAdmits p.spec (takeHead p.h.src s) = true ∧ p.spec.domOk = false ∧ p.h.wake = false :=
  ⟨.portLinkStatus (hd 1) 4, sub (hd 1) 0x0830 (withPm (fun p => { p with domPorts := false }) (core 0x0830)), _, rfl, by decide, by decide, by decide, by decide,
    by decide, by decide, by decide, by decide⟩

theorem witness_RefusedCommandsLeaveNoTrace : ∃ (c : Instr) (s : State) (p : Proc), procOf c s = some p ∧ (∀ h q, c ≠ .sysNqRewind h q) ∧
    (∀ h j a, c ≠ .caravanRun h j a) ∧ (∀ h k, c ≠ .sysCancel h k) ∧ ∃ body after v, p.work = .done body after ∧ 0x10 ≤ (body v).status ∧ (body v).status ≤ 0x51 :=
  ⟨.groupGconfig (hd 8) ⟨31, 128, 262144⟩, core 0x1421, _, rfl, nofun, nofun, nofun, _, _, tooBig (core 0x1421), rfl, by decide +kernel, by decide +kernel⟩

theorem witness_RefusedCommandsLeaveNoTrace_accepted : ∃ (c : Instr) (s : State) (p : Proc), procOf c s = some p ∧
    (∀ h q, c ≠ .sysNqRewind h q) ∧ (∀ h j a, c ≠ .caravanRun h j a) ∧ (∀ h k, c ≠ .sysCancel h k) ∧
    ∃ phase first start missed v, p.work = .accepted phase first start missed ∧ first v ≠ 0 :=
  ⟨.cfgCommit (hd 0), core 0x0401, _, rfl, nofun, nofun, nofun, _, _, _, _, core 0x0401, rfl, by decide +kernel⟩

theorem witness_RefusedCommandsLeaveNoTrace_cancel : ∃ (handle : Nat) (v : State), (cancelHandle handle v).status ≠ 0 ∧ (findOp v handle).isSome :=
  ⟨0x30000000, withOp (opn 0x30000000 0x3001 .jtagIdcode) live, by decide +kernel, by decide +kernel⟩

theorem witness_BootAdmitsThreeCommands : ∃ (c : Instr) (s : State) (p : Proc), procOf c s = some p ∧ s.pm.mode = .boot ∧ 2 < p.spec.opcode ∧
    dispatches p.h p.spec.opcode s = true ∧ lengthOk p.h p.spec = true ∧ bufLost p.h = false ∧
    (authVerdict p.h p.spec (takeHead p.h.src s)).1 = 0 ∧ paramsOk p.h p.spec = true :=
  ⟨.sysReset (hd 1) 0, sub (hd 1) 0x0013 (inMode .boot (core 0x0013)), _, rfl, rfl, by decide, by decide, by decide, by decide, by decide, by decide⟩

theorem witness_HandlesRunOut : ∃ (c : Instr) (s : State) (p : Proc) (phase : Phase) (first : State → Nat) (start : Nat → State → State)
    (missed : State → State), procOf c s = some p ∧ p.work = .accepted phase first start missed ∧ passes p.h p.spec s = true ∧
    first (takeHead p.h.src s) = 0 ∧ 1024 ≤ s.hi.ops.length :=
  ⟨.oscReadBands (hd 20) 0 1 1 0 152, fullOps (sub (hd 20) 0x2010 (core 0x2010)), _, _, _, _, _, rfl, rfl, by decide +kernel, by decide +kernel, by decide +kernel⟩

theorem witness_HandleNumbersAreFresh : ∃ (s : State) (opcode : Nat), s.hi.ops.length ≤ 1024 ∧ 1 ≤ s.hi.seq ∧ s.hi.seq ≤ 0xFFFFFF ∧
    opcode < 2 ^ 16 :=
  ⟨{ live with hi := { live.hi with seq := 0xFFFFFF } }, 0x3820, by decide⟩

theorem witness_FrozenHoldsStill : ∃ (s : State) (c : Instr), s.pm.mode = .frozen ∧ actsInFrozen c = false ∧ s.pending = [] :=
  ⟨inMode .frozen live, .duneTick, rfl, rfl, rfl⟩

theorem witness_ZeroizeErasesEveryKey : ∃ (cause : Nat) (s t : State), cause < 6 ∧ causeEnabled s cause = true ∧
    causeMet s cause = true ∧ exec (.zeroizeCause cause) s = .next t :=
  ⟨2, live, _, by decide, by decide, by decide, rfl⟩

theorem witness_CountersSaturateAndClear : ∃ (a : Nat) (s : State), CountersOk s.counters ∧ tget 0 s.counters a % 2 ^ 48 < 2 ^ 48 - 1 :=
  ⟨8, { live with counters := [(8, 2 ^ 63 + 5)] }, ⟨by decide, by simp only [CounterForm]; decide⟩, by decide⟩

theorem witness_CountersSaturateAndClear_top : ∃ (a : Nat) (s : State), CountersOk s.counters ∧ tget 0 s.counters a % 2 ^ 48 = 2 ^ 48 - 1 :=
  ⟨8, { live with counters := [(8, 2 ^ 48 - 1)] }, ⟨by decide, by simp only [CounterForm]; decide⟩, by decide⟩

theorem witness_NoticeQueuePointers_full : ∃ n : Nq, NqOk n ∧ n.w - n.l = 1024 ∧ n.r ≠ n.w ∧ n.markValid = true ∧ n.markLost = false :=
  ⟨fullNq 1024 false, by unfold NqOk; decide +kernel, by decide +kernel, by decide +kernel, rfl, rfl⟩

theorem witness_NoticeQueuePointers_lost : ∃ n : Nq, NqOk n ∧ n.markValid = true ∧ n.markLost = true :=
  ⟨fullNq 0 true, by unfold NqOk; decide +kernel, rfl, rfl⟩

theorem witness_NoticeQueuePointers_empty : ∃ (n : Nq) (k : Nat), NqOk n ∧ n.w - n.l ≠ 1024 ∧ n.r = n.w ∧ n.markValid = false ∧ n.r - n.l < k :=
  ⟨Nq.reset, 1, by unfold NqOk; decide, by decide, rfl, rfl, by decide⟩

theorem witness_NoticeQueuePointers_release : ∃ (n : Nq) (k : Nat), NqOk n ∧ 0 < k ∧ k ≤ n.r - n.l :=
  ⟨{ Nq.reset with w := 3, r := 2, m := 1, held := [7, 8, 9] }, 2, by unfold NqOk; decide, by decide, by decide⟩

theorem witness_RateChangesKeepTime : ∃ s : State, s.tm.mainFailed = false := ⟨live, rfl⟩

theorem witness_TimesTruncate : ∃ t : Nat, t < 2 ^ 48 * 1000000000 * 2 ^ 40 := ⟨2 ^ 48 * 1000000000 * 2 ^ 40 - 1, by decide +kernel⟩

theorem witness_CellWritesFollowTheirInstant_future : ∃ (gid : Nat) (k : Int) (g : Group) (s : State), getGroup s gid = some g ∧ g.front < k :=
  ⟨63, 8, _, gLive 8 [], rfl, by decide⟩

theorem witness_CellWritesFollowTheirInstant_past : ∃ (gid : Nat) (k : Int) (g : Group) (s : State), getGroup s gid = some g ∧
    k ≤ g.front ∧ k < 0 :=
  ⟨63, -1, _, gLive 8 [], rfl, by decide, by decide⟩

theorem witness_CellWritesFollowTheirInstant_retired : ∃ (gid j : Nat) (g : Group) (s : State), getGroup s gid = some g ∧ (j : Int) ≤ g.front ∧
    g.instant j = none :=
  ⟨63, 7, _, gLive 8 [], rfl, by decide, rfl⟩

theorem witness_CellWritesFollowTheirInstant_ended : ∃ (gid j : Nat) (g : Group) (i : Instant) (s : State), getGroup s gid = some g ∧ (j : Int) ≤ g.front ∧
    g.instant j = some i ∧ i.st = .trailing ∧ i.ended (now s) = true :=
  ⟨63, 7, _, _, gLive 8 [ins .trailing], rfl, by decide, rfl, rfl, by decide +kernel⟩

theorem witness_CellWritesFollowTheirInstant_stored : ∃ (gid sid j : Nat) (g : Group) (i : Instant) (s : State), getGroup s gid = some g ∧
    (j : Int) ≤ g.front ∧ g.instant j = some i ∧ (i.st = .trailing → i.ended (now s) = false) ∧ i.members.contains sid = true ∧
    tfind i.cells sid = none ∧ i.lateSeen.contains sid = false ∧ i.st = .opened :=
  ⟨63, 16375, 7, _, _, withInstant live, rfl, by decide, rfl, nofun, by decide, rfl, by decide, rfl⟩

theorem witness_CellWritesFollowTheirInstant_late : ∃ (gid sid j : Nat) (g : Group) (i : Instant) (s : State), getGroup s gid = some g ∧
    (j : Int) ≤ g.front ∧ g.instant j = some i ∧ (i.st = .trailing → i.ended (now s) = false) ∧ i.members.contains sid = true ∧
    tfind i.cells sid = none ∧ i.lateSeen.contains sid = false ∧ i.st ≠ .opened :=
  ⟨63, 16375, 7, _, _, gLive 8 [{ ins .released with members := [16375] }], rfl, by decide, rfl, nofun, by decide, rfl, by decide, by decide⟩

theorem witness_DuplicateCellsChangeNothing : ∃ (gid sid j : Nat) (c0 : Cell) (g : Group) (i : Instant) (s : State), getGroup s gid = some g ∧
    g.instant j = some i ∧ (j : Int) ≤ g.front ∧ (i.st = .trailing → i.ended (now s) = false) ∧ i.members.contains sid = true ∧
    tfind i.cells sid = some c0 :=
  ⟨63, 16375, 7, _, _, _, withCell live, rfl, rfl, by decide, nofun, by decide, rfl⟩

theorem witness_UrgentRunsAreRefused : ∃ (h : Hdr) (job arg : Nat) (x : Job) (s : State),
    passes h (caravanSpec 0x1803 8 (job < 1024 && arg < 2 ^ 32) (serving s)) s = true ∧ getJob s job = some x ∧ ∃ d ∈ x.p.nodes, 12 ≤ d.level :=
  ⟨hd 8, 1023, 0, _, placeJob urgentJob true (sub (hd 8) 0x1803 (core 0x1803)), by decide +kernel, rfl, _, .head _, by decide⟩

theorem witness_PadReleaseRefusals_bit : ∃ (h : Hdr) (mask : Nat) (s : State) (b : Nat), b ≠ 3 ∧ b ≠ 5 ∧ mask.testBit b = true ∧
    dispatches h 0x3802 s = true ∧ lengthOk h (specP 0x3802 1 false) = true ∧ bufLost h = false ∧ h.auth = none :=
  ⟨hd 1, 0x2C, sub (hd 1) 0x3802 (core 0x3802), 2, by decide⟩

theorem witness_PadReleaseRefusals_off : ∃ (h : Hdr) (mask : Nat) (s : State), passes h (specP 0x3802 1 (mask &&& 0x28 == mask)) s = true ∧
    bit mask 5 = true ∧ s.pm.domAnchor = false :=
  ⟨hd 1, 0x28, withPm (fun p => { p with domAnchor := false }) (sub (hd 1) 0x3802 (core 0x3802)), by decide, by decide, by decide⟩

theorem witness_PadReleaseRefusals_done : ∃ (h : Hdr) (mask : Nat) (s : State), passes h (specP 0x3802 1 (mask &&& 0x28 == mask)) s = true ∧
    (bit mask 3 = true → s.pm.domPorts = true) ∧ (bit mask 5 = true → s.pm.domAnchor = true) :=
  ⟨hd 1, 0x28, sub (hd 1) 0x3802 (core 0x3802), by decide, fun _ => rfl, fun _ => rfl⟩

theorem witness_TagsVerify_none : ∃ h : Hdr, h.auth = none := ⟨hd 0, rfl⟩

theorem witness_TagsVerify_mac : ∃ (h : Hdr) (c : CmdSpec) (s : State) (t : Tag), h.auth = some t ∧ t.alg = 2 ∧ (authVerdict h c s).1 = 0 :=
  ⟨hdT 0x0811 40, specM 0x0811 40 true true, core 0x0811, _, rfl, rfl, by decide +kernel⟩

theorem witness_TagsVerify_signature : ∃ (h : Hdr) (c : CmdSpec) (s : State) (t : Tag), h.auth = some t ∧ t.alg = 1 ∧ (authVerdict h c s).1 = 0 :=
  ⟨hdA 0x0811 40 .operational, specM 0x0811 40 true true, core 0x0811, _, rfl, rfl, by decide +kernel⟩

theorem witness_TagsVerify_replay : ∃ (h : Hdr) (c : CmdSpec) (s : State) (t : Tag), h.auth = some t ∧ (authVerdict h c s).2 = true :=
  ⟨hdT 0x0811 40, specM 0x0811 40 true true, { core 0x0811 with ov := { (core 0x0811).ov with
      slots := [(9, ⟨0x10, 0, false, false, false, false, 1, false, true, 1, 77, none⟩)] } }, _, rfl, by decide +kernel⟩

theorem witness_ResetValues_boot : ∃ s : State, s.pm.mode = .boot ∧ s.pm.holdAnchor = false := ⟨State.reset, rfl, rfl⟩

theorem witness_ResetValues_held : ∃ s : State, s.pm.holdPorts = true ∧ s.pm.holdAnchor = true :=
  ⟨withPm (fun p => { p with holdPorts := true, holdAnchor := true }) live, rfl, rfl⟩

end Sys2Proof.Tests
end

section
/-! SUPPORT. The front of the queue (log entry 1). -/

namespace Sys2Proof.Machine

/-- Settles O1: a queue with `c` in front is not empty, so `step` takes the branch that runs `c`. -/
theorem stepRunsTheFrontCommand : Obligations.StepRunsTheFrontCommand := by
  intro c rest s h
  simp only [step, h]

end Sys2Proof.Machine
end

section
/-! SUPPORT. What counting and clearing do to the counter at one address and to every other (00 R14, R15). -/

namespace Sys2Proof.Machine

/-- A table cleared of the keys from `a` to below `a + len` lists none of them. -/
theorem tfind_clearCounters_of_mem {a len b : Nat} (s : State) (h : a ≤ b ∧ b < a + len) :
    tfind (clearCounters a len s).counters b = none := by
  refine Option.eq_none_iff_forall_ne_some.mpr fun v hv => ?_
  have hm := (List.mem_filter.mp (tfind_mem _ _ _ hv)).2
  simp [h.1, h.2] at hm

/-- A cleared counter reads 0. -/
theorem read_clearCounters_of_mem {a len b : Nat} (s : State) (h : a ≤ b ∧ b < a + len) :
    tget 0 (clearCounters a len s).counters b = 0 := by
  simp [tget, tfind_clearCounters_of_mem s h]

@[simp] theorem read_count_same (a : Nat) (s : State) :
    tget 0 (count a s).counters a = satAdd48 (tget 0 s.counters a) 1 := by
  simp [count, countN]

@[simp] theorem read_count_ne {a b : Nat} (s : State) (h : b ≠ a) :
    tget 0 (count a s).counters b = tget 0 s.counters b := by
  simp [count, countN, h]

/-- A counter below its last value adds one and keeps its OVF. -/
theorem satAdd48_one_of_lt {v : Nat} (h : CounterForm v) (hv : v % 2 ^ 48 < 2 ^ 48 - 1) : satAdd48 v 1 = v + 1 := by
  unfold CounterForm at h
  simp only [satAdd48]
  split <;> omega

/-- A counter at its last value stays there and sets OVF. -/
theorem satAdd48_one_of_full {v : Nat} (hv : v % 2 ^ 48 = 2 ^ 48 - 1) : satAdd48 v 1 = 2 ^ 63 + (2 ^ 48 - 1) := by
  have hfull : ¬ v % 2 ^ 48 + 1 < 2 ^ 48 := by omega
  simp only [satAdd48, if_neg hfull]

/-- Settles O52: a step of a counter in its form is `satAdd48 _ 1`, and a cleared counter reads 0. -/
theorem countersSaturateAndClear : Obligations.CountersSaturateAndClear := by
  intro a s hs
  have hclear : tget 0 (clearCounters a 8 s).counters a = 0 := read_clearCounters_of_mem s ⟨a.le_refl, by omega⟩
  refine ⟨fun hv => ?_, fun hv => ?_, fun b hb => read_count_ne s hb, hclear, ?_⟩
  · rw [read_count_same, satAdd48_one_of_lt (hs.read a) hv]
  · rw [read_count_same, satAdd48_one_of_full hv]
  · rw [read_count_same, hclear]; rfl

end Sys2Proof.Machine
end

section
/-! SUPPORT. The frame of every command: what is seen outside the fields that it may change stays the same. -/

namespace Sys2Proof.Machine

/-- The state seen outside the fields of `l`: each field of `l` stands at its reset value. -/
def outside (l : List StateField) (s : State) : State :=
  { hi := if .hi ∈ l then State.reset.hi else s.hi, cfg := if .cfg ∈ l then State.reset.cfg else s.cfg,
    tm := if .tm ∈ l then State.reset.tm else s.tm, ec := if .ec ∈ l then State.reset.ec else s.ec,
    ev := if .ev ∈ l then State.reset.ev else s.ev, pm := if .pm ∈ l then State.reset.pm else s.pm,
    ck := if .ck ∈ l then State.reset.ck else s.ck, jtag := if .jtag ∈ l then State.reset.jtag else s.jtag,
    pins := if .pins ∈ l then State.reset.pins else s.pins, ov := if .ov ∈ l then State.reset.ov else s.ov,
    fuses := if .fuses ∈ l then State.reset.fuses else s.fuses,
    cairn := if .cairn ∈ l then State.reset.cairn else s.cairn, np := if .np ∈ l then State.reset.np else s.np,
    si := if .si ∈ l then State.reset.si else s.si, erg := if .erg ∈ l then State.reset.erg else s.erg,
    cv := if .cv ∈ l then State.reset.cv else s.cv, ts := if .ts ∈ l then State.reset.ts else s.ts,
    sc := if .sc ∈ l then State.reset.sc else s.sc, al := if .al ∈ l then State.reset.al else s.al,
    aq := if .aq ∈ l then State.reset.aq else s.aq, am := if .am ∈ l then State.reset.am else s.am,
    counters := if .counters ∈ l then State.reset.counters else s.counters,
    ctrLatch := if .ctrLatch ∈ l then State.reset.ctrLatch else s.ctrLatch,
    nor := if .nor ∈ l then State.reset.nor else s.nor, out := if .out ∈ l then State.reset.out else s.out,
    freeCtr := if .freeCtr ∈ l then State.reset.freeCtr else s.freeCtr,
    pending := if .pending ∈ l then State.reset.pending else s.pending }

/-- States alike outside the fields of `l` differ in no other field. -/
theorem changesOnly_of_look_outside {l : List StateField} {s t : State} (h : look (outside l) t = look (outside l) s) :
    ChangesOnly l s t := by
  intro p hp
  simp only [look, outside, State.mk.injEq] at h
  cases p <;> simp_all [StateField.same]

/-- Every command answers a next state, and leaves every field alone that `mayChange` does not list for it: its `_look` law
holds of the reading `outside`, because the fields the law lets change are all listed. -/
theorem exec_look (c : Instr) (s : State) :
    ∃ t, exec c s = .next t ∧ look (outside (mayChange c)) t = look (outside (mayChange c)) s := by
  cases c with
  | commandFetch => exact execCommandFetch_look _ (by intros; rfl) _ _ _ _
  | fenceRelease => exact execFenceRelease_look _ (by intros; rfl) _ _
  | sysNop => exact execSysNop_look _ (by intros; rfl) _ _
  | sysIdentify => exact execSysIdentify_look _ (by intros; rfl) _ _
  | sysQueryHandle => exact execSysQueryHandle_look _ (by intros; rfl) _ _ _
  | sysCancel => exact execSysCancel_look _ (by intros; rfl) _ _ _
  | sysSetMode => exact execSysSetMode_look _ (by intros; rfl) _ _ _
  | sysFreeze => exact execSysFreeze_look _ (by intros; rfl) _ _
  | sysThaw => exact execSysThaw_look _ (by intros; rfl) _ _
  | sysReset => exact execSysReset_look _ (by intros; rfl) _ _ _
  | sysNqMark => exact execSysNqMark_look _ (by intros; rfl) _ _ _
  | sysNqRewind => exact execSysNqRewind_look _ (by intros; rfl) _ _ _
  | sysNqRelease => exact execSysNqRelease_look _ (by intros; rfl) _ _ _ _
  | sysClearCounters => exact execSysClearCounters_look _ (by intros; rfl) _ _ _
  | cfgLoad => exact execCfgLoad_look _ (by intros; rfl) _ _ _ _ _ _
  | cfgCommit => exact execCfgCommit_look _ (by intros; rfl) _ _
  | cfgDiscard => exact execCfgDiscard_look _ (by intros; rfl) _ _
  | cfgReport => exact execCfgReport_look _ (by intros; rfl) _ _ _ _ _
  | cfgQuery => exact execCfgQuery_look _ (by intros; rfl) _ _ _
  | cfgStore => exact execCfgStore_look _ (by intros; rfl) _ _
  | portConfig => exact execPortConfig_look _ (by intros; rfl) _ _ _
  | portSetExact => exact execPortSetExact_look _ (by intros; rfl) _ _ _ _ _ _
  | portSetHash => exact execPortSetHash_look _ (by intros; rfl) _ _ _
  | portSetVlan => exact execPortSetVlan_look _ (by intros; rfl) _ _ _
  | portSetIntake => exact execPortSetIntake_look _ (by intros; rfl) _ _ _ _
  | portSetPtMap => exact execPortSetPtMap_look _ (by intros; rfl) _ _ _ _
  | portPrpPair => exact execPortPrpPair_look _ (by intros; rfl) _ _ _
  | portMacsecCfg => exact execPortMacsecCfg_look _ (by intros; rfl) _ _ _
  | portSaInstall => exact execPortSaInstall_look _ (by intros; rfl) _ _ _
  | portSaActivate => exact execPortSaActivate_look _ (by intros; rfl) _ _ _ _ _
  | portSaDestroy => exact execPortSaDestroy_look _ (by intros; rfl) _ _ _ _ _ _
  | portGateLoad => exact execPortGateLoad_look _ (by intros; rfl) _ _ _
  | portGateQuery => exact execPortGateQuery_look _ (by intros; rfl) _ _ _
  | portLinkStatus => exact execPortLinkStatus_look _ (by intros; rfl) _ _ _
  | portClearCounters => exact execPortClearCounters_look _ (by intros; rfl) _ _ _
  | timeConfig => exact execTimeConfig_look _ (by intros; rfl) _ _ _
  | timeSource => exact execTimeSource_look _ (by intros; rfl) _ _ _ _ _
  | timePtpConfig => exact execTimePtpConfig_look _ (by intros; rfl) _ _ _
  | timePpsConfig => exact execTimePpsConfig_look _ (by intros; rfl) _ _ _
  | timePortLatency => exact execTimePortLatency_look _ (by intros; rfl) _ _ _
  | timeRead => exact execTimeRead_look _ (by intros; rfl) _ _
  | timeSet => exact execTimeSet_look _ (by intros; rfl) _ _ _
  | timeUtcOffset => exact execTimeUtcOffset_look _ (by intros; rfl) _ _ _ _ _
  | timeCmpArm => exact execTimeCmpArm_look _ (by intros; rfl) _ _ _
  | timeCmpDisarm => exact execTimeCmpDisarm_look _ (by intros; rfl) _ _ _
  | timeCmpQuery => exact execTimeCmpQuery_look _ (by intros; rfl) _ _ _
  | timeHoldoverTest => exact execTimeHoldoverTest_look _ (by intros; rfl) _ _ _
  | timeMainRetest => exact execTimeMainRetest_look _ (by intros; rfl) _ _
  | timeStatus => exact execTimeStatus_look _ (by intros; rfl) _ _
  | timeClearCounters => exact execTimeClearCounters_look _ (by intros; rfl) _ _
  | streamInstall => exact execStreamInstall_look _ (by intros; rfl) _ _ _
  | streamRemove => exact execStreamRemove_look _ (by intros; rfl) _ _ _
  | streamRekey => exact execStreamRekey_look _ (by intros; rfl) _ _ _ _ _
  | streamRelease => exact execStreamRelease_look _ (by intros; rfl) _ _ _
  | streamQuery => exact execStreamQuery_look _ (by intros; rfl) _ _ _
  | streamSetTimers => exact execStreamSetTimers_look _ (by intros; rfl) _ _ _ _ _
  | streamList => exact execStreamList_look _ (by intros; rfl) _ _ _ _
  | streamGconfig => exact execStreamGconfig_look _ (by intros; rfl) _ _ _
  | streamClearCounters => exact execStreamClearCounters_look _ (by intros; rfl) _ _ _ _
  | groupDefine => exact execGroupDefine_look _ (by intros; rfl) _ _ _
  | groupDelete => exact execGroupDelete_look _ (by intros; rfl) _ _ _
  | groupMembers => exact execGroupMembers_look _ (by intros; rfl) _ _ _ _ _ _
  | groupSetTiming => exact execGroupSetTiming_look _ (by intros; rfl) _ _ _
  | groupQuery => exact execGroupQuery_look _ (by intros; rfl) _ _ _
  | groupSessionDefine => exact execGroupSessionDefine_look _ (by intros; rfl) _ _ _
  | groupSessionDelete => exact execGroupSessionDelete_look _ (by intros; rfl) _ _ _
  | groupSessionEnable => exact execGroupSessionEnable_look _ (by intros; rfl) _ _ _ _
  | groupReadCell => exact execGroupReadCell_look _ (by intros; rfl) _ _ _ _ _ _ _
  | groupClearCounters => exact execGroupClearCounters_look _ (by intros; rfl) _ _ _
  | groupGconfig => exact execGroupGconfig_look _ (by intros; rfl) _ _ _
  | caravanJobDefine => exact execCaravanJobDefine_look _ (by intros; rfl) _ _ _
  | caravanJobDelete => exact execCaravanJobDelete_look _ (by intros; rfl) _ _ _
  | caravanJobBind => exact execCaravanJobBind_look _ (by intros; rfl) _ _ _ _ _
  | caravanRun => exact execCaravanRun_look _ (by intros; rfl) _ _ _ _
  | caravanLevelConfig => exact execCaravanLevelConfig_look _ (by intros; rfl) _ _ _
  | caravanEngineRetire => exact execCaravanEngineRetire_look _ (by intros; rfl) _ _ _
  | caravanEngineRestore => exact execCaravanEngineRestore_look _ (by intros; rfl) _ _ _
  | caravanQueryJob => exact execCaravanQueryJob_look _ (by intros; rfl) _ _ _
  | caravanQueryEngine => exact execCaravanQueryEngine_look _ (by intros; rfl) _ _ _
  | caravanClearCounters => exact execCaravanClearCounters_look _ (by intros; rfl) _ _ _
  | topoModelLoad => exact execTopoModelLoad_look _ (by intros; rfl) _ _ _ _ _ _ _
  | topoConfig => exact execTopoConfig_look _ (by intros; rfl) _ _ _
  | topoCutsetDefine => exact execTopoCutsetDefine_look _ (by intros; rfl) _ _ _
  | topoCutsetDelete => exact execTopoCutsetDelete_look _ (by intros; rfl) _ _ _
  | topoBranchForce => exact execTopoBranchForce_look _ (by intros; rfl) _ _ _ _
  | topoRefactor => exact execTopoRefactor_look _ (by intros; rfl) _ _
  | topoReadResult => exact execTopoReadResult_look _ (by intros; rfl) _ _ _ _ _ _
  | topoQuery => exact execTopoQuery_look _ (by intros; rfl) _ _
  | topoClearCounters => exact execTopoClearCounters_look _ (by intros; rfl) _ _
  | oscConfig => exact execOscConfig_look _ (by intros; rfl) _ _ _
  | oscSignalDefine => exact execOscSignalDefine_look _ (by intros; rfl) _ _ _
  | oscSignalDelete => exact execOscSignalDelete_look _ (by intros; rfl) _ _ _
  | oscGroupDefine => exact execOscGroupDefine_look _ (by intros; rfl) _ _ _
  | oscGroupDelete => exact execOscGroupDelete_look _ (by intros; rfl) _ _ _
  | oscReadBands => exact execOscReadBands_look _ (by intros; rfl) _ _ _ _ _ _ _
  | oscReadModes => exact execOscReadModes_look _ (by intros; rfl) _ _ _ _ _ _
  | oscRestart => exact execOscRestart_look _ (by intros; rfl) _ _ _
  | oscQuery => exact execOscQuery_look _ (by intros; rfl) _ _ _
  | oscClearCounters => exact execOscClearCounters_look _ (by intros; rfl) _ _ _
  | alarmRuleDefine => exact execAlarmRuleDefine_look _ (by intros; rfl) _ _ _
  | alarmRuleEnable => exact execAlarmRuleEnable_look _ (by intros; rfl) _ _ _ _ _
  | alarmRuleDelete => exact execAlarmRuleDelete_look _ (by intros; rfl) _ _ _
  | alarmRuleQuery => exact execAlarmRuleQuery_look _ (by intros; rfl) _ _ _
  | alarmLineConfig => exact execAlarmLineConfig_look _ (by intros; rfl) _ _ _
  | alarmAck => exact execAlarmAck_look _ (by intros; rfl) _ _ _
  | alarmForce => exact execAlarmForce_look _ (by intros; rfl) _ _ _ _
  | alarmXtrigConfig => exact execAlarmXtrigConfig_look _ (by intros; rfl) _ _ _
  | alarmClearCounters => exact execAlarmClearCounters_look _ (by intros; rfl) _ _ _ _
  | acqChannelDefine => exact execAcqChannelDefine_look _ (by intros; rfl) _ _ _
  | acqRingDefine => exact execAcqRingDefine_look _ (by intros; rfl) _ _ _
  | acqEnable => exact execAcqEnable_look _ (by intros; rfl) _ _ _ _
  | acqDelete => exact execAcqDelete_look _ (by intros; rfl) _ _ _
  | acqTrigger => exact execAcqTrigger_look _ (by intros; rfl) _ _ _ _
  | acqQuery => exact execAcqQuery_look _ (by intros; rfl) _ _ _
  | acqGconfig => exact execAcqGconfig_look _ (by intros; rfl) _ _ _
  | acqClearCounters => exact execAcqClearCounters_look _ (by intros; rfl) _ _ _
  | meterChannelConfig => exact execMeterChannelConfig_look _ (by intros; rfl) _ _ _
  | meterCalibrate => exact execMeterCalibrate_look _ (by intros; rfl) _ _ _
  | meterSensorTemp => exact execMeterSensorTemp_look _ (by intros; rfl) _ _ _ _
  | meterElementDefine => exact execMeterElementDefine_look _ (by intros; rfl) _ _ _
  | meterElementEnable => exact execMeterElementEnable_look _ (by intros; rfl) _ _ _ _
  | meterEnergyRead => exact execMeterEnergyRead_look _ (by intros; rfl) _ _ _ _
  | meterEnergySigned => exact execMeterEnergySigned_look _ (by intros; rfl) _ _ _ _ _ _
  | meterEnergyPreset => exact execMeterEnergyPreset_look _ (by intros; rfl) _ _ _ _ _ _
  | meterPulseConfig => exact execMeterPulseConfig_look _ (by intros; rfl) _ _ _
  | meterVstreamDefine => exact execMeterVstreamDefine_look _ (by intros; rfl) _ _ _
  | meterVstreamRemove => exact execMeterVstreamRemove_look _ (by intros; rfl) _ _ _
  | meterBallastDefine => exact execMeterBallastDefine_look _ (by intros; rfl) _ _ _
  | meterSave => exact execMeterSave_look _ (by intros; rfl) _ _
  | meterConfig => exact execMeterConfig_look _ (by intros; rfl) _ _ _
  | meterQuery => exact execMeterQuery_look _ (by intros; rfl) _ _
  | meterClearCounters => exact execMeterClearCounters_look _ (by intros; rfl) _ _ _
  | vaultStatus => exact execVaultStatus_look _ (by intros; rfl) _ _
  | vaultLifecycle => exact execVaultLifecycle_look _ (by intros; rfl) _ _ _ _
  | vaultOwnerLoad => exact execVaultOwnerLoad_look _ (by intros; rfl) _ _ _
  | vaultRootGenerate => exact execVaultRootGenerate_look _ (by intros; rfl) _ _
  | vaultTamperClear => exact execVaultTamperClear_look _ (by intros; rfl) _ _
  | vaultTamperConfig => exact execVaultTamperConfig_look _ (by intros; rfl) _ _ _
  | vaultDebug => exact execVaultDebug_look _ (by intros; rfl) _ _ _
  | vaultGenerate => exact execVaultGenerate_look _ (by intros; rfl) _ _ _ _ _ _
  | vaultDerive => exact execVaultDerive_look _ (by intros; rfl) _ _ _ _ _ _ _ _
  | vaultImport => exact execVaultImport_look _ (by intros; rfl) _ _ _
  | vaultSeal => exact execVaultSeal_look _ (by intros; rfl) _ _ _ _ _
  | vaultExport => exact execVaultExport_look _ (by intros; rfl) _ _ _ _ _ _ _
  | vaultDestroy => exact execVaultDestroy_look _ (by intros; rfl) _ _ _
  | vaultAttest => exact execVaultAttest_look _ (by intros; rfl) _ _ _ _ _ _
  | vaultSlotQuery => exact execVaultSlotQuery_look _ (by intros; rfl) _ _ _
  | vaultRandom => exact execVaultRandom_look _ (by intros; rfl) _ _ _
  | vaultClearCounters => exact execVaultClearCounters_look _ (by intros; rfl) _ _
  | logConfig => exact execLogConfig_look _ (by intros; rfl) _ _ _
  | logSpoolSeek => exact execLogSpoolSeek_look _ (by intros; rfl) _ _ _
  | logRead => exact execLogRead_look _ (by intros; rfl) _ _ _ _ _ _
  | logFlush => exact execLogFlush_look _ (by intros; rfl) _ _
  | logWrite => exact execLogWrite_look _ (by intros; rfl) _ _ _ _
  | logFaultClear => exact execLogFaultClear_look _ (by intros; rfl) _ _
  | logMacroQuery => exact execLogMacroQuery_look _ (by intros; rfl) _ _ _
  | logInject => exact execLogInject_look _ (by intros; rfl) _ _ _ _ _ _
  | logClearCounters => exact execLogClearCounters_look _ (by intros; rfl) _ _ _
  | powerDoze => exact execPowerDoze_look _ (by intros; rfl) _ _
  | powerWake => exact execPowerWake_look _ (by intros; rfl) _ _
  | powerPadRelease => exact execPowerPadRelease_look _ (by intros; rfl) _ _ _
  | powerConfig => exact execPowerConfig_look _ (by intros; rfl) _ _ _
  | powerQuery => exact execPowerQuery_look _ (by intros; rfl) _ _
  | powerRefConfig => exact execPowerRefConfig_look _ (by intros; rfl) _ _ _
  | powerRefSwitch => exact execPowerRefSwitch_look _ (by intros; rfl) _ _
  | powerClearCounters => exact execPowerClearCounters_look _ (by intros; rfl) _ _ _
  | hiSqDbWrite => exact execHiSqDbWrite_look _ (by intros; rfl) _ _ _
  | hiCqDbWrite => exact execHiCqDbWrite_look _ (by intros; rfl) _ _ _
  | hiSqCfgWrite => exact execHiSqCfgWrite_look _ (by intros; rfl) _ _ _
  | hiCqCfgWrite => exact execHiCqCfgWrite_look _ (by intros; rfl) _ _ _
  | hiNqPopRead => exact execHiNqPopRead_look _ (by intros; rfl) _ _ _ _
  | hiNqCfgWrite => exact execHiNqCfgWrite_look _ (by intros; rfl) _ _ _
  | npPtDbWrite => exact execNpPtDbWrite_look _ (by intros; rfl) _ _ _ _
  | npPtCfgWrite => exact execNpPtCfgWrite_look _ (by intros; rfl) _ _ _ _
  | tmFrcLoRead => exact execTmFrcLoRead_look _ (by intros; rfl) _
  | counterLowRead => exact execCounterLowRead_look _ (by intros; rfl) _ _
  | amCountLowRead => exact execAmCountLowRead_look _ (by intros; rfl) _ _ _
  | siSelWrite => exact execSiSelWrite_look _ (by intros; rfl) _ _
  | scSelWrite => exact execScSelWrite_look _ (by intros; rfl) _ _
  | alSelWrite => exact execAlSelWrite_look _ (by intros; rfl) _ _
  | ovSelWrite => exact execOvSelWrite_look _ (by intros; rfl) _ _
  | ecSelWrite => exact execEcSelWrite_look _ (by intros; rfl) _ _
  | evSpoolCurWrite => exact execEvSpoolCurWrite_look _ (by intros; rfl) _ _
  | registerWrite => exact execRegisterWrite_look _ (by intros; rfl) _ _ _
  | mspiStatus => exact execMspiStatus_look _ (by intros; rfl) _ _
  | mspiRead => exact execMspiRead_look _ (by intros; rfl) _ _ _ _
  | mbSubmit => exact execMbSubmit_look _ (by intros; rfl) _ _ _
  | mbFetch => exact execMbFetch_look _ (by intros; rfl) _ _
  | flr perst => exact execFlr_look _ (by intros; rfl) perst _
  | nqTimeout => exact execNqTimeout_look _ (by intros; rfl) _ _
  | rxFrame => exact execRxFrame_look _ (by intros; rfl) _ _ _ _
  | ptFrameDelivery => exact execPtFrameDelivery_look _ (by intros; rfl) _ _
  | ptTxChainFetch => exact execPtTxChainFetch_look _ (by intros; rfl) _ _ _ _ _ _ _ _ _
  | txFrameStart => exact execTxFrameStart_look _ (by intros; rfl) _ _ _
  | gateBoundary => exact execGateBoundary_look _ (by intros; rfl) _ _
  | linkStateChange => exact execLinkStateChange_look _ (by intros; rfl) _ _ _ _ _ _
  | ptpSyncRx => exact execPtpSyncRx_look _ (by intros; rfl) _ _ _ _ _ _
  | ptpAnnounceRx => exact execPtpAnnounceRx_look _ (by intros; rfl) _ _
  | ppsInEdge => exact execPpsInEdge_look _ (by intros; rfl) _ _
  | ppsLost => exact execPpsLost_look _ (by intros; rfl) _
  | todSentenceRx => exact execTodSentenceRx_look _ (by intros; rfl) _ _ _ _
  | sourceLoss => exact execSourceLoss_look _ (by intros; rfl) _ _
  | cmpFire => exact execCmpFire_look _ (by intros; rfl) _ _
  | siFrameParse => exact execSiFrameParse_look _ (by intros; rfl) _ _
  | streamTimerExpiry => exact execStreamTimerExpiry_look _ (by intros; rfl) _ _
  | instantOpen => exact execInstantOpen_look _ (by intros; rfl) _ _
  | earlyRelease => exact execEarlyRelease_look _ (by intros; rfl) _ _
  | deadlineRelease => exact execDeadlineRelease_look _ (by intros; rfl) _ _
  | publishInstant => exact execPublishInstant_look _ (by intros; rfl) _ _ _
  | cellHoldExpiry => exact execCellHoldExpiry_look _ (by intros; rfl) _ _ _
  | instantRetire => exact execInstantRetire_look _ (by intros; rfl) _ _ _
  | dispatchDecision => exact execDispatchDecision_look _ (by intros; rfl) _
  | itemCommit => exact execItemCommit_look _ (by intros; rfl) _ _ _ _
  | budgetOver => exact execBudgetOver_look _ (by intros; rfl) _ _
  | engineFault => exact execEngineFault_look _ (by intros; rfl) _ _ _
  | takeoverResume => exact execTakeoverResume_look _ (by intros; rfl) _ _
  | xtrigInEdge => exact execXtrigInEdge_look _ (by intros; rfl) _ _ _ _
  | aqRecordWrite => exact execAqRecordWrite_look _ (by intros; rfl) _ _
  | sdSample => exact execSdSample_look _ (by intros; rfl) _ _ _ _ _ _
  | energyBlockEnd => exact execEnergyBlockEnd_look _ (by intros; rfl) _ _ _ _ _ _ _
  | pulseStart => exact execPulseStart_look _ (by intros; rfl) _ _
  | periodicSave => exact execPeriodicSave_look _ (by intros; rfl) _ _
  | aliveStamp => exact execAliveStamp_look _ (by intros; rfl) _
  | pfwNFall => exact execPfwNFall_look _ (by intros; rfl) _
  | pfwQualified => exact execPfwQualified_look _ (by intros; rfl) _ _
  | ballastWriteEnd => exact execBallastWriteEnd_look _ (by intros; rfl) _
  | pfwNRise => exact execPfwNRise_look _ (by intros; rfl) _
  | zeroizeCause => exact execZeroizeCause_look _ (by intros; rfl) _ _
  | scrubRead => exact execScrubRead_look _ (by intros; rfl) _ _ _
  | internalReset => exact execInternalReset_look _ (by intros; rfl) _
  | recordClose => exact execRecordClose_look _ (by intros; rfl) _ _ _ _
  | flushMsExpiry => exact execFlushMsExpiry_look _ (by intros; rfl) _
  | evFlushEnd => exact execEvFlushEnd_look _ (by intros; rfl) _
  | opsecTick => exact execOpsecTick_look _ (by intros; rfl) _
  | handshakeAnswer => exact execHandshakeAnswer_look _ (by intros; rfl) _ _
  | handshakeDelayEnd => exact execHandshakeDelayEnd_look _ (by intros; rfl) _
  | wakeComplete => exact execWakeComplete_look _ (by intros; rfl) _ _ _
  | freezeNAssert => exact execFreezeNAssert_look _ (by intros; rfl) _ _
  | resetNQualified => exact execResetNQualified_look _ (by intros; rfl) _ _
  | resetTakesHold => exact execResetTakesHold_look _ (by intros; rfl) _
  | warmResetTakesHold => exact execWarmResetTakesHold_look _ (by intros; rfl) _
  | boot => exact execBoot_look _ (by intros; rfl) _ _ _ _ _ _
  | finalCompletion => exact execFinalCompletion_look _ (by intros; rfl) _ _ _
  | cairnRelease => exact execCairnRelease_look _ (by intros; rfl) _
  | mi2cAddressMatch => exact execMi2cAddressMatch_look _ (by intros; rfl) _
  | prpLanLost => exact execPrpLanLost_look _ (by intros; rfl) _ _ _
  | prpEntryForget => exact execPrpEntryForget_look _ (by intros; rfl) _ _ _
  | prpSupervisionTx => exact execPrpSupervisionTx_look _ (by intros; rfl) _ _
  | ptDescriptorTimeout => exact execPtDescriptorTimeout_look _ (by intros; rfl) _ _
  | gateOperative => exact execGateOperative_look _ (by intros; rfl) _ _
  | ptpPdelayReqRx => exact execPtpPdelayReqRx_look _ (by intros; rfl) _ _ _ _
  | ptpDelayReqRx => exact execPtpDelayReqRx_look _ (by intros; rfl) _ _ _
  | ptpPathDelayRx => exact execPtpPathDelayRx_look _ (by intros; rfl) _ _ _
  | ptpDelayReqTx => exact execPtpDelayReqTx_look _ (by intros; rfl) _ _
  | ptpMasterAnnounceTx => exact execPtpMasterAnnounceTx_look _ (by intros; rfl) _
  | ptpMasterSyncTx => exact execPtpMasterSyncTx_look _ (by intros; rfl) _
  | sourceRevert => exact execSourceRevert_look _ (by intros; rfl) _
  | holdoverAgeing => exact execHoldoverAgeing_look _ (by intros; rfl) _
  | integSave => exact execIntegSave_look _ (by intros; rfl) _
  | leapApply => exact execLeapApply_look _ (by intros; rfl) _
  | timeCheckpoint => exact execTimeCheckpoint_look _ (by intros; rfl) _
  | residueMismatch => exact execResidueMismatch_look _ (by intros; rfl) _
  | timeSelftestEnd => exact execTimeSelftestEnd_look _ (by intros; rfl) _ _
  | outputPulseEnd => exact execOutputPulseEnd_look _ (by intros; rfl) _ _
  | duneTick => exact execDuneTick_look _ (by intros; rfl) _
  | vstreamReport => exact execVstreamReport_look _ (by intros; rfl) _ _
  | amendBatchClose => exact execAmendBatchClose_look _ (by intros; rfl) _ _ _
  | delayExpiry => exact execDelayExpiry_look _ (by intros; rfl) _
  | itemAging => exact execItemAging_look _ (by intros; rfl) _ _
  | checkpointWrite => exact execCheckpointWrite_look _ (by intros; rfl) _ _
  | fencedSelftestEnd => exact execFencedSelftestEnd_look _ (by intros; rfl) _ _ _
  | spareSelftest => exact execSpareSelftest_look _ (by intros; rfl) _ _ _
  | almStbDeferred => exact execAlmStbDeferred_look _ (by intros; rfl) _
  | almPulseEnd => exact execAlmPulseEnd_look _ (by intros; rfl) _ _
  | tempStale => exact execTempStale_look _ (by intros; rfl) _ _
  | pulseEnd => exact execPulseEnd_look _ (by intros; rfl) _ _
  | entropyFail => exact execEntropyFail_look _ (by intros; rfl) _ _
  | entropyRetest => exact execEntropyRetest_look _ (by intros; rfl) _ _
  | drbgReseed => exact execDrbgReseed_look _ (by intros; rfl) _
  | correctionWriteback => exact execCorrectionWriteback_look _ (by intros; rfl) _ _ _
  | suspectExpiry => exact execSuspectExpiry_look _ (by intros; rfl) _ _ _
  | controlDue => exact execControlDue_look _ (by intros; rfl) _ _ _
  | watchdogExpiry => exact execWatchdogExpiry_look _ (by intros; rfl) _ _ _
  | lifecycleWipe => exact execLifecycleWipe_look _ (by intros; rfl) _
  | powerOnDetect => exact execPowerOnDetect_look _ (by intros; rfl) _ _
  | refFail => exact execRefFail_look _ (by intros; rfl) _ _ _
  | refQualified => exact execRefQualified_look _ (by intros; rfl) _ _ _
  | pllRevert => exact execPllRevert_look _ (by intros; rfl) _
  | jtagExtest => exact execJtagExtest_look _ (by intros; rfl) _ _
  | jtagIdcode => exact execJtagIdcode_look _ (by intros; rfl) _
  | jtagSamplePreload => exact execJtagSamplePreload_look _ (by intros; rfl) _ _
  | jtagClamp => exact execJtagClamp_look _ (by intros; rfl) _
  | jtagHighz => exact execJtagHighz_look _ (by intros; rfl) _
  | jtagFrzScan => exact execJtagFrzScan_look _ (by intros; rfl) _ _
  | jtagFrzMem => exact execJtagFrzMem_look _ (by intros; rfl) _ _ _
  | jtagFrzReg => exact execJtagFrzReg_look _ (by intros; rfl) _ _
  | jtagDebug => exact execJtagDebug_look _ (by intros; rfl) _ _
  | jtagBypass => exact execJtagBypass_look _ (by intros; rfl) _ _
  | xtrigInForwardedEdge => exact execXtrigInForwardedEdge_look _ (by intros; rfl) _ _
  | pdelayTimeout => exact execPdelayTimeout_look _ (by intros; rfl) _ _

/-- Where a command answers a next state, no field changes but those that `mayChange` lists for it. -/
theorem exec_changesOnly {c : Instr} {s t : State} (h : exec c s = .next t) : ChangesOnly (mayChange c) s t := by
  obtain ⟨u, hu, hl⟩ := exec_look c s
  cases hu.symm.trans h
  exact changesOnly_of_look_outside hl

/-- No command may change the queue. -/
theorem pending_notMem_mayChange (c : Instr) : .pending ∉ mayChange c := by
  have h : (mayChange c).contains .pending = false := by cases c <;> rfl
  simpa using h

/-- No host command may change the fuses, JTAG or the pins. -/
theorem notMem_mayChange_of_procOf {c : Instr} {s : State} {p : Proc} (h : procOf c s = some p) :
    .fuses ∉ mayChange c ∧ .jtag ∉ mayChange c ∧ .pins ∉ mayChange c := by
  have hb : ((procOf c s).isNone || !(mayChange c).contains .fuses && !(mayChange c).contains .jtag &&
      !(mayChange c).contains .pins) = true := by cases c <;> rfl
  simpa [h, and_assoc] using hb

/-- Settles O42: the frame of `exec`, read at the fields that `mayChange` lists for no host command. -/
theorem hostCommandsKeepTheirFrame : Obligations.HostCommandsKeepTheirFrame := by
  intro c s t p hp ht
  have hc := exec_changesOnly ht
  obtain ⟨hfuses, hjtag, hpins⟩ := notMem_mayChange_of_procOf hp
  exact ⟨hc, hc .pending (pending_notMem_mayChange c), hc .fuses hfuses, hc .jtag hjtag, hc .pins hpins⟩

/-- Settles O43: the frame of `exec`, and that no command may change the queue. -/
theorem eventsKeepTheirFrame : Obligations.EventsKeepTheirFrame := by
  intro c s t _ ht
  have hc := exec_changesOnly ht
  exact ⟨hc, hc .pending (pending_notMem_mayChange c)⟩

end Sys2Proof.Machine
end

section
/-! SUPPORT. The bounds of the host interface (`HostOk`) through every command and every step. -/

namespace Sys2Proof.Machine

/-- A host command keeps the bounds of the host interface: it runs as its `Proc`, whose work keeps them. -/
theorem exec_hostOk_of_procOf {c : Instr} {s : State} {p : Proc} (h : procOf c s = some p) (hs : HostOk s) :
    ∃ t, exec c s = .next t ∧ HostOk t :=
  ⟨_, exec_of_procOf c s p h, runProc_hostOk c p (procOf_hostOk c s p h) hs⟩

/-- A command that is no host command keeps the bounds of the host interface. -/
theorem exec_hostOk_of_event {c : Instr} {s : State} (h : procOf c s = none) (hs : HostOk s) :
    ∃ t, exec c s = .next t ∧ HostOk t := by
  cases c with
  | commandFetch => exact execCommandFetch_hostOk _ _ _ _ hs
  | fenceRelease => exact execFenceRelease_hostOk _ _ hs
  | hiSqDbWrite => exact execHiSqDbWrite_hostOk _ _ _ hs
  | hiCqDbWrite => exact execHiCqDbWrite_hostOk _ _ _ hs
  | hiSqCfgWrite => exact execHiSqCfgWrite_hostOk _ _ _ hs
  | hiCqCfgWrite => exact execHiCqCfgWrite_hostOk _ _ _ hs
  | hiNqPopRead => exact execHiNqPopRead_hostOk _ _ _ _ hs
  | hiNqCfgWrite => exact execHiNqCfgWrite_hostOk _ _ _ hs
  | npPtDbWrite => exact execNpPtDbWrite_hostOk _ _ _ _ hs
  | npPtCfgWrite => exact execNpPtCfgWrite_hostOk _ _ _ _ hs
  | tmFrcLoRead => exact execTmFrcLoRead_hostOk _ hs
  | counterLowRead => exact execCounterLowRead_hostOk _ _ hs
  | amCountLowRead => exact execAmCountLowRead_hostOk _ _ _ hs
  | siSelWrite => exact execSiSelWrite_hostOk _ _ hs
  | scSelWrite => exact execScSelWrite_hostOk _ _ hs
  | alSelWrite => exact execAlSelWrite_hostOk _ _ hs
  | ovSelWrite => exact execOvSelWrite_hostOk _ _ hs
  | ecSelWrite => exact execEcSelWrite_hostOk _ _ hs
  | evSpoolCurWrite => exact execEvSpoolCurWrite_hostOk _ _ hs
  | registerWrite => exact execRegisterWrite_hostOk _ _ _ hs
  | mspiStatus => exact execMspiStatus_hostOk _ _ hs
  | mspiRead => exact execMspiRead_hostOk _ _ _ _ hs
  | mbSubmit => exact execMbSubmit_hostOk _ _ _ hs
  | mbFetch => exact execMbFetch_hostOk _ _ hs
  | flr perst => exact execFlr_hostOk perst _ hs
  | nqTimeout => exact execNqTimeout_hostOk _ _ hs
  | rxFrame => exact execRxFrame_hostOk _ _ _ _ hs
  | ptFrameDelivery => exact execPtFrameDelivery_hostOk _ _ hs
  | ptTxChainFetch => exact execPtTxChainFetch_hostOk _ _ _ _ _ _ _ _ _ hs
  | txFrameStart => exact execTxFrameStart_hostOk _ _ _ hs
  | gateBoundary => exact execGateBoundary_hostOk _ _ hs
  | linkStateChange => exact execLinkStateChange_hostOk _ _ _ _ _ _ hs
  | ptpSyncRx => exact execPtpSyncRx_hostOk _ _ _ _ _ _ hs
  | ptpAnnounceRx => exact execPtpAnnounceRx_hostOk _ _ hs
  | ppsInEdge => exact execPpsInEdge_hostOk _ _ hs
  | ppsLost => exact execPpsLost_hostOk _ hs
  | todSentenceRx => exact execTodSentenceRx_hostOk _ _ _ _ hs
  | sourceLoss => exact execSourceLoss_hostOk _ _ hs
  | cmpFire => exact execCmpFire_hostOk _ _ hs
  | siFrameParse => exact execSiFrameParse_hostOk _ _ hs
  | streamTimerExpiry => exact execStreamTimerExpiry_hostOk _ _ hs
  | instantOpen => exact execInstantOpen_hostOk _ _ hs
  | earlyRelease => exact execEarlyRelease_hostOk _ _ hs
  | deadlineRelease => exact execDeadlineRelease_hostOk _ _ hs
  | publishInstant => exact execPublishInstant_hostOk _ _ _ hs
  | cellHoldExpiry => exact execCellHoldExpiry_hostOk _ _ _ hs
  | instantRetire => exact execInstantRetire_hostOk _ _ _ hs
  | dispatchDecision => exact execDispatchDecision_hostOk _ hs
  | itemCommit => exact execItemCommit_hostOk _ _ _ _ hs
  | budgetOver => exact execBudgetOver_hostOk _ _ hs
  | engineFault => exact execEngineFault_hostOk _ _ _ hs
  | takeoverResume => exact execTakeoverResume_hostOk _ _ hs
  | xtrigInEdge => exact execXtrigInEdge_hostOk _ _ _ _ hs
  | aqRecordWrite => exact execAqRecordWrite_hostOk _ _ hs
  | sdSample => exact execSdSample_hostOk _ _ _ _ _ _ hs
  | energyBlockEnd => exact execEnergyBlockEnd_hostOk _ _ _ _ _ _ _ hs
  | pulseStart => exact execPulseStart_hostOk _ _ hs
  | periodicSave => exact execPeriodicSave_hostOk _ _ hs
  | aliveStamp => exact execAliveStamp_hostOk _ hs
  | pfwNFall => exact execPfwNFall_hostOk _ hs
  | pfwQualified => exact execPfwQualified_hostOk _ _ hs
  | ballastWriteEnd => exact execBallastWriteEnd_hostOk _ hs
  | pfwNRise => exact execPfwNRise_hostOk _ hs
  | zeroizeCause => exact execZeroizeCause_hostOk _ _ hs
  | scrubRead => exact execScrubRead_hostOk _ _ _ hs
  | internalReset => exact execInternalReset_hostOk _ hs
  | recordClose => exact execRecordClose_hostOk _ _ _ _ hs
  | flushMsExpiry => exact execFlushMsExpiry_hostOk _ hs
  | evFlushEnd => exact execEvFlushEnd_hostOk _ hs
  | opsecTick => exact execOpsecTick_hostOk _ hs
  | handshakeAnswer => exact execHandshakeAnswer_hostOk _ _ hs
  | handshakeDelayEnd => exact execHandshakeDelayEnd_hostOk _ hs
  | wakeComplete => exact execWakeComplete_hostOk _ _ _ hs
  | freezeNAssert => exact execFreezeNAssert_hostOk _ _ hs
  | resetNQualified => exact execResetNQualified_hostOk _ _ hs
  | resetTakesHold => exact execResetTakesHold_hostOk _ hs
  | warmResetTakesHold => exact execWarmResetTakesHold_hostOk _ hs
  | boot => exact execBoot_hostOk _ _ _ _ _ _ hs
  | finalCompletion => exact execFinalCompletion_hostOk _ _ _ hs
  | cairnRelease => exact execCairnRelease_hostOk _ hs
  | mi2cAddressMatch => exact execMi2cAddressMatch_hostOk _ hs
  | prpLanLost => exact execPrpLanLost_hostOk _ _ _ hs
  | prpEntryForget => exact execPrpEntryForget_hostOk _ _ _ hs
  | prpSupervisionTx => exact execPrpSupervisionTx_hostOk _ _ hs
  | ptDescriptorTimeout => exact execPtDescriptorTimeout_hostOk _ _ hs
  | gateOperative => exact execGateOperative_hostOk _ _ hs
  | ptpPdelayReqRx => exact execPtpPdelayReqRx_hostOk _ _ _ _ hs
  | ptpDelayReqRx => exact execPtpDelayReqRx_hostOk _ _ _ hs
  | ptpPathDelayRx => exact execPtpPathDelayRx_hostOk _ _ _ hs
  | ptpDelayReqTx => exact execPtpDelayReqTx_hostOk _ _ hs
  | ptpMasterAnnounceTx => exact execPtpMasterAnnounceTx_hostOk _ hs
  | ptpMasterSyncTx => exact execPtpMasterSyncTx_hostOk _ hs
  | sourceRevert => exact execSourceRevert_hostOk _ hs
  | holdoverAgeing => exact execHoldoverAgeing_hostOk _ hs
  | integSave => exact execIntegSave_hostOk _ hs
  | leapApply => exact execLeapApply_hostOk _ hs
  | timeCheckpoint => exact execTimeCheckpoint_hostOk _ hs
  | residueMismatch => exact execResidueMismatch_hostOk _ hs
  | timeSelftestEnd => exact execTimeSelftestEnd_hostOk _ _ hs
  | outputPulseEnd => exact execOutputPulseEnd_hostOk _ _ hs
  | duneTick => exact execDuneTick_hostOk _ hs
  | vstreamReport => exact execVstreamReport_hostOk _ _ hs
  | amendBatchClose => exact execAmendBatchClose_hostOk _ _ _ hs
  | delayExpiry => exact execDelayExpiry_hostOk _ hs
  | itemAging => exact execItemAging_hostOk _ _ hs
  | checkpointWrite => exact execCheckpointWrite_hostOk _ _ hs
  | fencedSelftestEnd => exact execFencedSelftestEnd_hostOk _ _ _ hs
  | spareSelftest => exact execSpareSelftest_hostOk _ _ _ hs
  | almStbDeferred => exact execAlmStbDeferred_hostOk _ hs
  | almPulseEnd => exact execAlmPulseEnd_hostOk _ _ hs
  | tempStale => exact execTempStale_hostOk _ _ hs
  | pulseEnd => exact execPulseEnd_hostOk _ _ hs
  | entropyFail => exact execEntropyFail_hostOk _ _ hs
  | entropyRetest => exact execEntropyRetest_hostOk _ _ hs
  | drbgReseed => exact execDrbgReseed_hostOk _ hs
  | correctionWriteback => exact execCorrectionWriteback_hostOk _ _ _ hs
  | suspectExpiry => exact execSuspectExpiry_hostOk _ _ _ hs
  | controlDue => exact execControlDue_hostOk _ _ _ hs
  | watchdogExpiry => exact execWatchdogExpiry_hostOk _ _ _ hs
  | lifecycleWipe => exact execLifecycleWipe_hostOk _ hs
  | powerOnDetect => exact execPowerOnDetect_hostOk _ _ hs
  | refFail => exact execRefFail_hostOk _ _ _ hs
  | refQualified => exact execRefQualified_hostOk _ _ _ hs
  | pllRevert => exact execPllRevert_hostOk _ hs
  | jtagExtest => exact execJtagExtest_hostOk _ _ hs
  | jtagIdcode => exact execJtagIdcode_hostOk _ hs
  | jtagSamplePreload => exact execJtagSamplePreload_hostOk _ _ hs
  | jtagClamp => exact execJtagClamp_hostOk _ hs
  | jtagHighz => exact execJtagHighz_hostOk _ hs
  | jtagFrzScan => exact execJtagFrzScan_hostOk _ _ hs
  | jtagFrzMem => exact execJtagFrzMem_hostOk _ _ _ hs
  | jtagFrzReg => exact execJtagFrzReg_hostOk _ _ hs
  | jtagDebug => exact execJtagDebug_hostOk _ _ hs
  | jtagBypass => exact execJtagBypass_hostOk _ _ hs
  | xtrigInForwardedEdge => exact execXtrigInForwardedEdge_hostOk _ _ hs
  | pdelayTimeout => exact execPdelayTimeout_hostOk _ _ hs
  | _ => exact nomatch h

/-- Every command keeps the bounds of the host interface. -/
theorem exec_hostOk (c : Instr) {s : State} (hs : HostOk s) : ∃ t, exec c s = .next t ∧ HostOk t := by
  cases h : procOf c s with
  | some p => exact exec_hostOk_of_procOf h hs
  | none => exact exec_hostOk_of_event h hs

/-- Every step answers a next state, and keeps the bounds of the host interface. -/
theorem step_hostOk {s : State} (hs : HostOk s) : ∃ t, step s = .next t ∧ HostOk t := by
  unfold step
  split
  · exact ⟨_, rfl, idleStep_hostOk s hs⟩
  · exact exec_hostOk _ hs

/-- Settles O9: whether the step idles or runs a command, the state it answers keeps the bounds. -/
theorem hostInterfaceKeepsItsBounds : Obligations.HostInterfaceKeepsItsBounds := by
  intro s t hs ht
  obtain ⟨u, hu, hok⟩ := step_hostOk hs
  cases hu.symm.trans ht
  exact hok

end Sys2Proof.Machine
end

section
/-! SUPPORT. What holds still in FROZEN (01 R33): no unit's clock runs, the head of no source but a SYS.THAW of ring 0 is
dispatched, no register takes a write, and the FRC does not advance. -/

namespace Sys2Proof.Machine

section
variable {s : State} (hf : s.pm.mode = .frozen)
include hf

/-! ### The clocks that FROZEN stops -/

theorem portsRun_of_frozen : portsRun s = false := by simp [portsRun, hf]

theorem slaveListens_of_frozen (p : Nat) : slaveListens s p = false := by simp [slaveListens, portsRun_of_frozen hf]

theorem slaveTakes_of_frozen (m : PtpHead) : slaveTakes s m = false := by simp [slaveTakes, slaveListens_of_frozen hf]

theorem asksDelay_of_frozen (port : Nat) : asksDelay s port = false := by simp [asksDelay, slaveListens_of_frozen hf]

theorem masterRuns_of_frozen : masterRuns s = false := by simp [masterRuns, portsRun_of_frozen hf]

theorem masterTakes_of_frozen (m : PtpHead) : masterTakes s m = false := by simp [masterTakes, masterRuns_of_frozen hf]

theorem cmpDue_of_frozen (n : Nat) : cmpDue s n = false := by simp [cmpDue, hf]

theorem intakeRuns_of_frozen : intakeRuns s = false := by simp [intakeRuns, hf, Mode.isService]

theorem siClocked_of_frozen : siClocked s = false := by simp [siClocked, hf]

theorem ergRuns_of_frozen : ergRuns s = false := by simp [ergRuns, hf, Mode.isService]

theorem cvRuns_of_frozen : cvRuns s = false := by simp [cvRuns, hf, Mode.isService]

theorem alRuns_of_frozen : alRuns s = false := by simp [alRuns, hf]

theorem aqRuns_of_frozen : aqRuns s = false := by simp [aqRuns, hf]

theorem amClocked_of_frozen : amClocked s = false := by simp [amClocked, hf]

theorem sdClkRuns_of_frozen : sdClkRuns s = false := by simp [sdClkRuns, amClocked_of_frozen hf]

theorem ecRuns_of_frozen : ecRuns s = false := by simp [ecRuns, hf]

theorem hsRuns_of_frozen : hsRuns s = false := by simp [hsRuns, hf]

theorem timeRuns_of_frozen : timeRuns s = false := by simp [timeRuns, hf]

/-! ### Register writes -/

theorem regWrite_of_frozen (off : Nat) (f : State → State) : regWrite off f s = s := if_pos (by simp [hf])

theorem writeBar2_of_frozen (a v : Nat) : writeBar2 a v s = s := if_pos (by simp [hf])

/-- A write that only an index in range makes. -/
theorem guardedRegWrite_of_frozen (p : Prop) [Decidable p] (off : Nat) (f : State → State) :
    (if p then s else regWrite off f s) = s := by
  rw [regWrite_of_frozen hf, ite_self]

theorem execRegisterWrite_of_frozen (offset value : Nat) : execRegisterWrite offset value s = .next s := by
  simp only [execRegisterWrite, writeBar2_of_frozen hf, regWrite_of_frozen hf, ite_self]

/-! ### Events that wait for something: a frame, an instant, an item, a time that has come -/

theorem arrive_of_frozen (port : Nat) (a : Arrival) : arrive port a s = s := if_pos (by simp [portsRun_of_frozen hf])

theorem execRxFrame_of_frozen (port : Nat) (a : Arrival) (twin : Option Arrival) : execRxFrame port a twin s = .next s := by
  unfold execRxFrame
  cases twin with
  | none => simp only [arrive_of_frozen hf]
  | some b => simp only [arrive_of_frozen hf, ite_self]

theorem execPtFrameDelivery_of_frozen (k : Nat) : execPtFrameDelivery k s = .next s := by
  unfold execPtFrameDelivery
  cases hw : (getRxRing s k).waiting <;> simp [hw, portsRun_of_frozen hf]

theorem execPtDescriptorTimeout_of_frozen (k : Nat) : execPtDescriptorTimeout k s = .next s := by
  unfold execPtDescriptorTimeout
  cases hw : (getRxRing s k).waiting <;> simp [hw, hf]

theorem execPpsLost_of_frozen : execPpsLost s = .next s := by
  unfold execPpsLost
  cases s.tm.pps.prev <;> simp [hf]

theorem execSiFrameParse_of_frozen (pipe : Nat) : execSiFrameParse pipe s = .next s := by
  unfold execSiFrameParse
  cases tget [] s.si.pipes pipe <;> simp [intakeRuns_of_frozen hf]

theorem execInstantOpen_of_frozen (gid : Nat) : execInstantOpen gid s = .next s := by
  unfold execInstantOpen
  cases getGroup s gid <;> simp [ergRuns_of_frozen hf]

theorem execDeadlineRelease_of_frozen (gid : Nat) : execDeadlineRelease gid s = .next s := by
  unfold execDeadlineRelease
  cases (getGroup s gid).bind (·.oldestOpen) <;> simp [ergRuns_of_frozen hf]

theorem execPublishInstant_of_frozen (gid index : Nat) : execPublishInstant gid index s = .next s := by
  unfold execPublishInstant
  cases getInstant s gid index <;> simp [hf]

theorem execCellHoldExpiry_of_frozen (gid index : Nat) : execCellHoldExpiry gid index s = .next s := by
  unfold execCellHoldExpiry
  cases getInstant s gid index <;> simp [ergRuns_of_frozen hf]

theorem execInstantRetire_of_frozen (gid index : Nat) : execInstantRetire gid index s = .next s := by
  unfold execInstantRetire
  cases getInstant s gid index <;> simp [ergRuns_of_frozen hf]

theorem execAmendBatchClose_of_frozen (gid index : Nat) : execAmendBatchClose gid index s = .next s := by
  unfold execAmendBatchClose
  cases getInstant s gid index with
  | none => rfl
  | some i => cases hb : i.batch <;> simp [hb, ergRuns_of_frozen hf]

theorem execItemCommit_of_frozen (item : Nat) (r : ItemResult) (dataBad : Bool) : execItemCommit item r dataBad s = .next s := by
  unfold execItemCommit
  cases getItem s item with
  | none => rfl
  | some it => cases hst : it.st <;> simp [hst, cvRuns_of_frozen hf]

theorem execBudgetOver_of_frozen (item : Nat) : execBudgetOver item s = .next s := by
  unfold execBudgetOver
  cases getItem s item <;> simp [cvRuns_of_frozen hf]

theorem execOutputPulseEnd_of_frozen (line : Nat) : execOutputPulseEnd line s = .next s := by
  unfold execOutputPulseEnd
  cases tfind s.tm.pulses line <;> simp [hf]

theorem execAlmPulseEnd_of_frozen (line : Nat) : execAlmPulseEnd line s = .next s := by
  unfold execAlmPulseEnd
  cases (getLine s line).pulseEnd <;> simp [alRuns_of_frozen hf]

theorem execPulseStart_of_frozen (n : Nat) : execPulseStart n s = .next s := by
  unfold execPulseStart
  cases hb : (getPulse s n).backlog <;> simp [hb, amClocked_of_frozen hf]

theorem execPulseEnd_of_frozen (n : Nat) : execPulseEnd n s = .next s := by
  unfold execPulseEnd
  cases hp : (getPulse s n).prev <;> simp [hp, hf]

theorem execVstreamReport_of_frozen (r : VsReport) : execVstreamReport r s = .next s := by
  unfold execVstreamReport
  cases tfind s.am.vss r.vs <;> simp [sdClkRuns_of_frozen hf]

theorem execEntropyRetest_of_frozen (passed : Nat) : execEntropyRetest passed s = .next s := by
  unfold execEntropyRetest
  cases s.ov.retestAt <;> simp [hf]

theorem execRecordClose_of_frozen (source code severity : Nat) : execRecordClose source code severity s = .next s := by
  unfold execRecordClose
  dsimp only
  split <;> simp [hf]

theorem execHandshakeAnswer_of_frozen (a : HsAnswer) : execHandshakeAnswer a s = .next s := by
  unfold execHandshakeAnswer
  cases s.pm.hs <;> simp [hsRuns_of_frozen hf]

theorem execHandshakeDelayEnd_of_frozen : execHandshakeDelayEnd s = .next s := by
  unfold execHandshakeDelayEnd
  cases s.pm.hs <;> simp [hsRuns_of_frozen hf]

theorem execLifecycleWipe_of_frozen : execLifecycleWipe s = .next s := by
  unfold execLifecycleWipe
  cases s.pm.pendWipe <;> simp [hf]

theorem execFinalCompletion_of_frozen (handle : Nat) (fin : Finish) : execFinalCompletion handle fin s = .next s := by
  unfold execFinalCompletion
  cases findOp s handle <;> simp [hf]

end

/-! ### Every event -/

/-- An event whose guard holds leaves the state. -/
theorem next_of_guard {p : Prop} [Decidable p] {s t : State} (h : p) :
    (.next (if p then s else t) : Host.Outcome State Fault Refusal) = .next s :=
  congrArg _ (if_pos h)

/-- An event whose condition does not hold leaves the state. -/
theorem next_of_not_guard {p : Prop} [Decidable p] {s t : State} (h : ¬ p) :
    (.next (if p then t else s) : Host.Outcome State Fault Refusal) = .next s :=
  congrArg _ (if_neg h)

/-- In FROZEN an event that is neither a host command nor one of those that may act there changes nothing: what it asks of the
mode, or of the unit it belongs to, does not hold. -/
theorem exec_of_frozen_of_event {c : Instr} {s : State} (hf : s.pm.mode = .frozen)
    (h : (actsInFrozen c || (procOf c s).isSome) = false) : exec c s = .next s := by
  cases c with
  | hiSqDbWrite => exact congrArg _ (guardedRegWrite_of_frozen hf _ _ _)
  | hiCqDbWrite => exact congrArg _ (guardedRegWrite_of_frozen hf _ _ _)
  | hiSqCfgWrite => exact congrArg _ (guardedRegWrite_of_frozen hf _ _ _)
  | hiCqCfgWrite => exact congrArg _ (guardedRegWrite_of_frozen hf _ _ _)
  | hiNqCfgWrite => exact congrArg _ (guardedRegWrite_of_frozen hf _ _ _)
  | npPtDbWrite => exact congrArg _ (guardedRegWrite_of_frozen hf _ _ _)
  | npPtCfgWrite => exact congrArg _ (guardedRegWrite_of_frozen hf _ _ _)
  | siSelWrite => exact congrArg _ (regWrite_of_frozen hf _ _)
  | scSelWrite => exact congrArg _ (regWrite_of_frozen hf _ _)
  | alSelWrite => exact congrArg _ (regWrite_of_frozen hf _ _)
  | ovSelWrite => exact congrArg _ (regWrite_of_frozen hf _ _)
  | ecSelWrite => exact congrArg _ (regWrite_of_frozen hf _ _)
  | evSpoolCurWrite => exact congrArg _ (regWrite_of_frozen hf _ _)
  | registerWrite => exact execRegisterWrite_of_frozen hf _ _
  | nqTimeout => exact next_of_guard (by simp [hf])
  | rxFrame => exact execRxFrame_of_frozen hf _ _ _
  | ptFrameDelivery => exact execPtFrameDelivery_of_frozen hf _
  | ptTxChainFetch => exact next_of_guard (by simp [portsRun_of_frozen hf])
  | txFrameStart => exact next_of_guard (by simp [portsRun_of_frozen hf])
  | gateBoundary => exact next_of_not_guard (by simp [portsRun_of_frozen hf])
  | linkStateChange => exact next_of_guard (by simp [portsRun_of_frozen hf])
  | ptpSyncRx => exact next_of_guard (by simp [slaveTakes_of_frozen hf])
  | ptpAnnounceRx => exact next_of_not_guard (by simp [slaveTakes_of_frozen hf])
  | ppsInEdge => exact next_of_guard (by simp [hf])
  | ppsLost => exact execPpsLost_of_frozen hf
  | todSentenceRx => exact next_of_guard (by simp [hf])
  | sourceLoss => exact next_of_guard (by simp [hf])
  | cmpFire => exact next_of_not_guard (by simp [cmpDue_of_frozen hf])
  | siFrameParse => exact execSiFrameParse_of_frozen hf _
  | streamTimerExpiry => exact next_of_not_guard (by simp [siClocked_of_frozen hf])
  | instantOpen => exact execInstantOpen_of_frozen hf _
  | earlyRelease => exact next_of_not_guard (by simp [ergRuns_of_frozen hf])
  | deadlineRelease => exact execDeadlineRelease_of_frozen hf _
  | publishInstant => exact execPublishInstant_of_frozen hf _ _
  | cellHoldExpiry => exact execCellHoldExpiry_of_frozen hf _ _
  | instantRetire => exact execInstantRetire_of_frozen hf _ _
  | dispatchDecision => exact next_of_guard (by simp [cvRuns_of_frozen hf])
  | itemCommit => exact execItemCommit_of_frozen hf _ _ _
  | budgetOver => exact execBudgetOver_of_frozen hf _
  | engineFault => exact next_of_guard (by simp [cvRuns_of_frozen hf])
  | takeoverResume => exact next_of_guard (by simp [cvRuns_of_frozen hf])
  | aqRecordWrite => exact next_of_not_guard (by simp [aqRuns_of_frozen hf])
  | sdSample => exact next_of_guard (by simp [sdClkRuns_of_frozen hf])
  | energyBlockEnd => exact next_of_guard (by simp [sdClkRuns_of_frozen hf])
  | pulseStart => exact execPulseStart_of_frozen hf _
  | periodicSave => exact next_of_guard (by simp [amClocked_of_frozen hf])
  | aliveStamp => exact next_of_guard (by simp [amClocked_of_frozen hf])
  | scrubRead => exact next_of_guard (by simp [ecRuns_of_frozen hf])
  | recordClose => exact execRecordClose_of_frozen hf _ _ _
  | flushMsExpiry => exact next_of_not_guard (by simp [hf])
  | evFlushEnd => exact next_of_guard (by simp [hf])
  | opsecTick => exact next_of_not_guard (by simp [hf])
  | handshakeAnswer => exact execHandshakeAnswer_of_frozen hf _
  | handshakeDelayEnd => exact execHandshakeDelayEnd_of_frozen hf
  | wakeComplete => exact next_of_guard (by simp [hf])
  | boot => exact next_of_guard (by simp [hf])
  | finalCompletion => exact execFinalCompletion_of_frozen hf _ _
  | prpLanLost => exact next_of_guard (by simp [portsRun_of_frozen hf])
  | prpEntryForget => exact next_of_guard (by simp [hf])
  | prpSupervisionTx => exact next_of_guard (by simp [portsRun_of_frozen hf])
  | ptDescriptorTimeout => exact execPtDescriptorTimeout_of_frozen hf _
  | gateOperative => exact next_of_guard (by simp [portsRun_of_frozen hf])
  | ptpPdelayReqRx =>
    exact (next_of_not_guard (by simp [slaveTakes_of_frozen hf])).trans
      (next_of_not_guard (by simp [masterTakes_of_frozen hf]))
  | ptpDelayReqRx => exact next_of_not_guard (by simp [masterTakes_of_frozen hf])
  | ptpPathDelayRx => exact next_of_guard (by simp [asksDelay_of_frozen hf])
  | ptpDelayReqTx => exact next_of_guard (by simp [asksDelay_of_frozen hf])
  | ptpMasterAnnounceTx => exact next_of_guard (by simp [masterRuns_of_frozen hf])
  | ptpMasterSyncTx => exact next_of_guard (by simp [masterRuns_of_frozen hf])
  | sourceRevert => exact next_of_guard (by simp [hf])
  | holdoverAgeing => exact next_of_guard (by simp [hf])
  | integSave => exact next_of_not_guard (by simp [hf])
  | leapApply => exact next_of_guard (by simp [hf])
  | timeCheckpoint => exact next_of_guard (by simp [hf])
  | residueMismatch => exact next_of_guard (by simp [hf])
  | timeSelftestEnd => exact next_of_guard (by simp [hf])
  | outputPulseEnd => exact execOutputPulseEnd_of_frozen hf _
  | duneTick => exact next_of_guard (by simp [hf])
  | vstreamReport => exact execVstreamReport_of_frozen hf _
  | amendBatchClose => exact execAmendBatchClose_of_frozen hf _ _
  | delayExpiry => exact next_of_guard (by simp [cvRuns_of_frozen hf])
  | itemAging => exact next_of_guard (by simp [cvRuns_of_frozen hf])
  | checkpointWrite => exact next_of_guard (by simp [cvRuns_of_frozen hf])
  | fencedSelftestEnd => exact next_of_guard (by simp [cvRuns_of_frozen hf])
  | spareSelftest => exact next_of_guard (by simp [cvRuns_of_frozen hf])
  | almStbDeferred => exact next_of_not_guard (by simp [alRuns_of_frozen hf])
  | almPulseEnd => exact execAlmPulseEnd_of_frozen hf _
  | tempStale => exact next_of_guard (by simp [amClocked_of_frozen hf])
  | pulseEnd => exact execPulseEnd_of_frozen hf _
  | entropyFail => exact next_of_guard (by simp [hf])
  | entropyRetest => exact execEntropyRetest_of_frozen hf _
  | drbgReseed => exact next_of_not_guard (by simp [hf])
  | correctionWriteback => exact next_of_guard (by simp [ecRuns_of_frozen hf])
  | suspectExpiry => exact next_of_not_guard (by simp [ecRuns_of_frozen hf])
  | controlDue => exact next_of_not_guard (by simp [ecRuns_of_frozen hf])
  | watchdogExpiry => exact next_of_not_guard (by simp [ecRuns_of_frozen hf])
  | lifecycleWipe => exact execLifecycleWipe_of_frozen hf
  | pdelayTimeout => exact next_of_guard (by simp [hf])
  | _ => exact nomatch h

/-! ### Host commands, and the idle step -/

/-- SYS.SET_MODE keeps its opcode whether it completes DONE or is ACCEPTED. -/
theorem procSysSetMode_opcode (h : Hdr) (target : Nat) (s : State) : (procSysSetMode h target s).spec.opcode = 0x0010 := by
  unfold procSysSetMode
  dsimp only
  split <;> rfl

/-- Of the host commands SYS.THAW alone, which may act in FROZEN, has the opcode that is dispatched there. -/
theorem opcode_ne_thaw_of_procOf {c : Instr} {s : State} {p : Proc} (h : procOf c s = some p) (ha : actsInFrozen c = false) :
    p.spec.opcode ≠ 0x0012 := by
  have hb : (actsInFrozen c || (procOf c s).all (fun p => p.spec.opcode != 0x0012)) = true := by
    cases c with
    | sysSetMode => simp [procOf, procSysSetMode_opcode]
    | _ => rfl
  simpa [h, ha] using hb

/-- In FROZEN the head of no source is dispatched but a SYS.THAW. -/
theorem dispatches_of_frozen {s : State} (hf : s.pm.mode = .frozen) (h : Hdr) {opcode : Nat} (ho : opcode ≠ 0x0012) :
    dispatches h opcode s = false := by
  simp [dispatches, hf, ho]

/-- In FROZEN a command that may not act there changes nothing: a host command waits at its source. -/
theorem exec_of_frozen {c : Instr} {s : State} (hf : s.pm.mode = .frozen) (ha : actsInFrozen c = false) : exec c s = .next s := by
  cases hp : procOf c s with
  | none => exact exec_of_frozen_of_event hf (by simp [ha, hp])
  | some p =>
    have hd := dispatches_of_frozen hf p.h (opcode_ne_thaw_of_procOf hp ha)
    rw [exec_of_procOf c s p hp, runProc_waits c p s hd]

/-- In FROZEN an idle step completes no undefined opcode, and the FRC holds. -/
theorem idleStep_of_frozen {s : State} (hf : s.pm.mode = .frozen) : idleStep s = s := by
  have hd : dropUndefined s = s := if_pos (by simp [hf])
  rw [idleStep, hd]
  exact if_neg (by simp [timeRuns_of_frozen hf])

/-- Settles O50: no unit that FROZEN stops acts on an event, no source but a SYS.THAW's dispatches, and the idle step holds. -/
theorem frozenHoldsStill : Obligations.FrozenHoldsStill := by
  intro s hf
  refine ⟨fun c ha => exec_of_frozen hf ha, fun hq => ?_⟩
  simp only [step, hq, idleStep_of_frozen hf]

end Sys2Proof.Machine
end

section
/-! SUPPORT. How a host command ends, in the form that the statements of the command classes have: from what its work answers
to the state that `exec` answers. -/

namespace Sys2Proof.Machine

/-- A host command that completes DONE: its body answers status 0, a RESULT and the state its effect leaves. -/
theorem exec_done {c : Instr} {s t u : State} {p : Proc} {body : State → Reply} {after : State → State} {r : List Nat}
    (hp : procOf c s = some p) (hw : p.work = .done body after) (ha : passes p.h p.spec s = true)
    (hr : body (takeHead p.h.src s) = ⟨0, r, t⟩) (hu : after (doneWith p.h p.spec.opcode r s t) = u) :
    exec c s = .next u := by
  rw [exec_of_procOf c s p hp, runProc_done c p body after s hw ha (by rw [hr]), hr, hu]

/-- A host command that is ACCEPTED while a handle is free: its operation starts under its new handle. -/
theorem exec_accepted {c : Instr} {s u : State} {p : Proc} {phase : Phase} {first : State → Nat}
    {start : Nat → State → State} {missed : State → State} (hp : procOf c s = some p)
    (hw : p.work = .accepted phase first start missed) (ha : passes p.h p.spec s = true)
    (hf : first (takeHead p.h.src s) = 0) (hn : s.hi.ops.length < 1024)
    (hu : start (handleFor p.h p.spec.opcode s) (acceptedAs p.h p.spec.opcode c phase s) = u) : exec c s = .next u := by
  rw [exec_of_procOf c s p hp, runProc_accepted c p phase first start missed s hw ha hf hn, hu]

/-- A refusal whose condition does not hold. -/
theorem refuseIf_false {bad : Bool} {st : Nat} {body : State → Reply} {s : State} (h : bad = false) :
    refuseIf bad st body s = body s := by rw [refuseIf, h]; rfl

/-- A refusal with a status that is 0. -/
theorem refuseIf_status {st : Nat} {body : State → Reply} {s : State} (h : st = 0) :
    refuseIf (st != 0) st body s = body s := refuseIf_false (by rw [h]; rfl)

/-- A reply that a status of 0 chooses. -/
theorem ite_of_status_zero {st : Nat} {r r' : Reply} (h : st = 0) : (if st != 0 then r else r') = r' := by rw [h]; rfl

/-- A condition that does not hold gives no status. -/
theorem firstBad_cons {bad : Bool} {st : Nat} {l : List (Bool × Nat)} (hb : bad = false) (hl : firstBad l = 0) :
    firstBad ((bad, st) :: l) = 0 := by rw [firstBad, hb]; exact hl

/-- A status that one condition gives. -/
theorem status_of_false {bad : Bool} {st : Nat} (h : bad = false) : (if bad then st else 0) = 0 := by rw [h]; rfl

/-- A status that is given unless a condition holds. -/
theorem status_of_true {ok : Bool} {st : Nat} (h : ok = true) : (if ok then 0 else st) = 0 := by rw [h]; rfl

end Sys2Proof.Machine
end

section
/-! SUPPORT. The SYS commands (02 Table 2-15). -/

namespace Sys2Proof.Machine

/-- SYS.QUERY_HANDLE of an outstanding handle: its operation as far as it has come. -/
theorem queryHandle_of_findOp {s : State} {handle : Nat} {o : OpEntry} (h : findOp s handle = some o) :
    queryHandle handle s = ⟨0, [handleState s (o.advance (freeBits 64 s) s), 0] ++
      leBytes 2 (progress (o.advance (freeBits 64 s) s)), lookAt handle s⟩ := by
  simp only [queryHandle, h]

/-- SYS.CANCEL of an operation of a cancellable opcode that has not passed its commit point (02 R60). -/
theorem cancelHandle_of_cancellable {s : State} {handle : Nat} {o : OpEntry} (h : findOp s handle = some o)
    (hc : cancellableOpcodes.contains (o.advance (freeBits 64 s) s).opcode = true)
    (hp : pastCommit (lookAt handle s) (o.advance (freeBits 64 s) s) = false) :
    cancelHandle handle s = ⟨0, [], finalCompletion (o.advance (freeBits 64 s) s) 0x51 []
      (if (o.advance (freeBits 64 s) s).phase == .waking then lookAt handle s
        else cancelEffect (o.advance (freeBits 64 s) s) (lookAt handle s))⟩ := by
  simp only [cancelHandle, h, hc, hp, Bool.not_true, Bool.or_self, Bool.false_eq_true, ↓reduceIte]

/-- SYS.SET_MODE to the mode the device is in completes DONE. -/
theorem procSysSetMode_of_atTarget {h : Hdr} {target : Nat} {s : State} (ht : atTarget target s = true) :
    procSysSetMode h target s =
      ⟨h, specM 0x0010 1 (within 1 3 target) (atTarget target s || modeReachable target s), .done (effect id)⟩ := if_pos ht

/-- SYS.SET_MODE to another mode: from PROVISION the recomputation of admission runs first, any other change has begun. -/
theorem exec_sysSetMode_of_not_atTarget {h : Hdr} {target : Nat} {s : State}
    (ha : passes h (specM 0x0010 1 (within 1 3 target) (atTarget target s || modeReachable target s)) s = true)
    (ht : atTarget target s = false) (hr : runningOp (takeHead h.src s) 0x0010 = false)
    (hh : (takeHead h.src s).pm.hs = none) (hn : s.hi.ops.length < 1024) :
    exec (.sysSetMode h target) s = .next (if s.pm.mode = .provision then (fun v =>
        { v with pm := { v.pm with setMode := some (handleFor h 0x0010 s) } }) (acceptedAs h 0x0010 (.sysSetMode h
        target) .running s) else acceptedAs h 0x0010 (.sysSetMode h target) .committed s) := by
  have hproc : procSysSetMode h target s = ⟨h, specM 0x0010 1 (within 1 3 target)
      (atTarget target s || modeReachable target s), .accepted (if s.pm.mode == .provision then .running else .committed)
      (fun s => firstBad [(runningOp s 0x0010 || s.pm.hs.isSome, 0x22)])
      (fun k v => if s.pm.mode == .provision then { v with pm := { v.pm with setMode := some k } } else v)
      (fun s => s)⟩ := if_neg (by simp [ht])
  refine exec_accepted (congrArg some hproc) rfl ha (firstBad_cons (by rw [hr, hh]; rfl) rfl) hn ?_
  by_cases hm : s.pm.mode = .provision <;> simp [hm, specM]

/-- SYS.NQ_REWIND of a queue whose mark holds (02 R69, R71). -/
theorem rewindNq_of_rewind {q : Nat} {n : Nq} {s : State} (h : (getNq s q).rewind s.tm.frc = (n, true)) :
    rewindNq q s = ⟨0, [], if n.threshFires then fireVector (16 + q) (setNq q n.settle s) else setNq q n.settle s⟩ := by
  simp only [rewindNq, h, Bool.true_and, ↓reduceIte]

/-- SYS.NQ_RELEASE of entries that have been read (02 R69). -/
theorem releaseNq_of_release {q k : Nat} {n : Nq} {s : State} (h : (getNq s q).release k = (n, true)) :
    releaseNq q k s = ⟨0, [], setNq q n s⟩ := by
  simp only [releaseNq, h, ↓reduceIte]

/-- Settles O10: each command's work, run on the state with its head taken, answers status 0. -/
theorem sysCommandsComplete : Obligations.SysCommandsComplete := by
  rintro h s _ rfl
  refine ⟨?nop, ?identify, ?queryHandle, ?cancel, ?setMode, ?freeze, ?thaw, ?reset, ?nqMark, ?nqRewind, ?nqRelease,
    ?clearCounters⟩
  case nop => exact fun ha => exec_done rfl rfl ha rfl rfl
  case identify => exact fun ha => exec_done rfl rfl ha rfl rfl
  case queryHandle =>
    rintro handle o _ ha ho rfl
    exact exec_done rfl rfl ha (queryHandle_of_findOp ho) rfl
  case cancel =>
    rintro handle o _ _ ha ho rfl rfl hc hp
    exact exec_done rfl rfl ha (cancelHandle_of_cancellable ho hc hp) rfl
  case setMode =>
    exact fun target ha => ⟨fun ht => exec_done (congrArg some (procSysSetMode_of_atTarget ht)) rfl ha rfl rfl,
      fun ht hr hh hn => exec_sysSetMode_of_not_atTarget ha ht hr hh hn⟩
  case freeze => exact fun ha => exec_done rfl rfl ha rfl rfl
  case thaw => exact fun ha hz => exec_done rfl rfl ha (refuseIf_false (congrArg not hz)) rfl
  case reset => exact fun kind ha => exec_done rfl rfl ha rfl rfl
  case nqMark => exact fun q ha => exec_done rfl rfl ha rfl rfl
  case nqRewind => exact fun q n ha hn => exec_done rfl rfl ha (rewindNq_of_rewind hn) rfl
  case nqRelease => exact fun q count n ha hn => exec_done rfl rfl ha (releaseNq_of_release hn) rfl
  case clearCounters => exact fun mask ha => exec_done rfl rfl ha rfl rfl

end Sys2Proof.Machine
end

section
/-! SUPPORT. The CFG, PORT and TIME commands (02 Table 2-16, 03 Table 3-13, 04 Table 4-12). -/

namespace Sys2Proof.Machine

/-- Settles O11: each command's work, run on the state with its head taken, answers status 0. -/
theorem cfgCommandsComplete : Obligations.CfgCommandsComplete := by
  rintro h s _ rfl
  refine ⟨?load, ?commit, ?discard, ?report, ?query, ?store⟩
  case load => exact fun source addr len img ha hn => exec_accepted rfl rfl ha rfl hn rfl
  case commit => exact fun ha hs hu hn => exec_accepted rfl rfl ha (firstBad_cons hs (firstBad_cons hu rfl)) hn rfl
  case discard => exact fun ha hu => exec_done rfl rfl ha (refuseIf_false hu) rfl
  case report => exact fun which addr len ha hn => exec_accepted rfl rfl ha rfl hn rfl
  case query => exact fun which ha => exec_done rfl rfl ha rfl rfl
  case store => exact fun ha hs hu hn => exec_accepted rfl rfl ha (firstBad_cons hs (firstBad_cons hu rfl)) hn rfl

/-- Settles O12: each command's work, run on the state with its head taken, answers status 0. -/
theorem portCommandsComplete : Obligations.PortCommandsComplete := by
  rintro h s _ rfl
  refine ⟨?config, ?setExact, ?setHash, ?setVlan, ?setIntake, ?setPtMap, ?prpPair, ?macsecCfg, ?saInstall, ?saActivate,
    ?saDestroy, ?gateLoad, ?gateQuery, ?linkStatus, ?clearCounters⟩
  case config =>
    exact fun p ha hk hb hn => exec_accepted rfl rfl ha (firstBad_cons (congrArg not hk) (firstBad_cons hb rfl)) hn rfl
  case setExact => exact fun port index en addr ha => exec_done rfl rfl ha rfl rfl
  case setHash => exact fun p ha => exec_done rfl rfl ha rfl rfl
  case setVlan => exact fun p ha => exec_done rfl rfl ha rfl rfl
  case setIntake => exact fun port e ha => exec_done rfl rfl ha rfl rfl
  case setPtMap => exact fun port map ha => exec_done rfl rfl ha rfl rfl
  case prpPair => exact fun p ha hl => exec_done rfl rfl ha (refuseIf_false (congrArg not hl)) rfl
  case macsecCfg => exact fun p ha => exec_done rfl rfl ha rfl rfl
  case saInstall => exact fun p ha hs => exec_done rfl rfl ha (ite_of_status_zero hs) rfl
  case saActivate => exact fun port an nextAn ha hi => exec_done rfl rfl ha (refuseIf_false hi) rfl
  case saDestroy => exact fun port dir sc an ha hi => exec_done rfl rfl ha (refuseIf_false hi) rfl
  case gateLoad =>
    exact fun p ha hw hf hn => exec_accepted rfl rfl ha (firstBad_cons hw (firstBad_cons (congrArg not hf) rfl)) hn rfl
  case gateQuery => exact fun port ha => exec_done rfl rfl ha rfl rfl
  case linkStatus => exact fun port ha => exec_done rfl rfl ha rfl rfl
  case clearCounters => exact fun mask ha => exec_done rfl rfl ha rfl rfl

/-- Settles O13: each command's work, run on the state with its head taken, answers status 0. -/
theorem timeCommandsComplete : Obligations.TimeCommandsComplete := by
  rintro h s _ rfl
  refine ⟨?config, ?source, ?ptpConfig, ?ppsConfig, ?portLatency, ?read, ?set, ?utcOffset, ?cmpArm, ?cmpDisarm, ?cmpQuery,
    ?holdoverTest, ?mainRetest, ?status, ?clearCounters⟩
  case config => exact fun p ha => exec_done rfl rfl ha rfl rfl
  case source => exact fun primary secondary revertS ha => exec_done rfl rfl ha rfl rfl
  case ptpConfig =>
    exact fun p ha hc hb hn => exec_accepted rfl rfl ha (firstBad_cons hc (firstBad_cons hb rfl)) hn rfl
  case ppsConfig => exact fun p ha => exec_done rfl rfl ha rfl rfl
  case portLatency => exact fun p ha => exec_done rfl rfl ha rfl rfl
  case read => exact fun ha => exec_done rfl rfl ha rfl rfl
  case set => exact fun t ha hs => exec_done rfl rfl ha (refuseIf_false (congrArg not hs)) rfl
  case utcOffset => exact fun ofs valid leap ha hp => exec_done rfl rfl ha (refuseIf_false hp) rfl
  case cmpArm => exact fun p ha => exec_done rfl rfl ha rfl rfl
  case cmpDisarm => exact fun cmp ha => exec_done rfl rfl ha rfl rfl
  case cmpQuery => exact fun cmp ha => exec_done rfl rfl ha rfl rfl
  case holdoverTest => exact fun en ha => exec_done rfl rfl ha rfl rfl
  case mainRetest =>
    exact fun ha hm hr hn => exec_accepted rfl rfl ha (firstBad_cons (congrArg not hm) (firstBad_cons hr rfl)) hn rfl
  case status => exact fun ha => exec_done rfl rfl ha rfl rfl
  case clearCounters => exact fun ha => exec_done rfl rfl ha rfl rfl

end Sys2Proof.Machine
end

section
/-! SUPPORT. The STREAM, GROUP and CARAVAN commands (05 Table 5-12, 06 Table 6-15, 07 Table 7-11). -/

namespace Sys2Proof.Machine

/-- Settles O14: each command's work, run on the state with its head taken, answers status 0. -/
theorem streamCommandsComplete : Obligations.StreamCommandsComplete := by
  rintro h s _ rfl
  refine ⟨?install, ?remove, ?rekey, ?release, ?query, ?setTimers, ?list, ?gconfig, ?clearCounters⟩
  case install => exact fun p ha hi hn => exec_accepted rfl rfl ha hi hn rfl
  case remove =>
    exact fun sid ha hp hs => exec_done rfl rfl ha (refuseIf_status (firstBad_cons hp (firstBad_cons hs rfl))) rfl
  case rekey => exact fun sid keyNext keyIdNext ha hs => exec_done rfl rfl ha (ite_of_status_zero hs) rfl
  case release => exact fun sid ha hq => exec_done rfl rfl ha (refuseIf_false hq) rfl
  case query => exact fun sid ha => exec_done rfl rfl ha rfl rfl
  case setTimers => exact fun sid staleN lostN ha hs => exec_done rfl rfl ha (refuseIf_false hs) rfl
  case list => exact fun addr len ha hn => exec_accepted rfl rfl ha rfl hn rfl
  case gconfig => exact fun p ha hd => exec_done rfl rfl ha (refuseIf_false (congrArg not hd)) rfl
  case clearCounters => exact fun first count ha => exec_done rfl rfl ha rfl rfl

/-- Settles O15: each command's work, run on the state with its head taken, answers status 0. -/
theorem groupCommandsComplete : Obligations.GroupCommandsComplete := by
  rintro h s _ rfl
  refine ⟨?define, ?delete, ?members, ?setTiming, ?query, ?sessionDefine, ?sessionDelete, ?sessionEnable, ?readCell,
    ?clearCounters, ?gconfig⟩
  case define => exact fun p ha hl hb hn => exec_accepted rfl rfl ha (firstBad_cons hl (firstBad_cons hb rfl)) hn rfl
  case delete =>
    exact fun gid ha hl hr hb => exec_done rfl rfl ha
      (refuseIf_status (firstBad_cons (Bool.or_eq_false_iff.mpr ⟨congrArg not hl, hr⟩) (firstBad_cons hb rfl))) rfl
  case members => exact fun gid op count sids ha hm hn => exec_accepted rfl rfl ha hm hn rfl
  case setTiming => exact fun p ha ht hn => exec_accepted rfl rfl ha ht hn rfl
  case query => exact fun gid ha => exec_done rfl rfl ha rfl rfl
  case sessionDefine => exact fun p ha hs hn => exec_accepted rfl rfl ha hs hn rfl
  case sessionDelete => exact fun session ha hs => exec_done rfl rfl ha (refuseIf_false hs) rfl
  case sessionEnable => exact fun session en ha hs => exec_done rfl rfl ha (refuseIf_status hs) rfl
  case readCell => exact fun gid sid index addr len ha hr hn => exec_accepted rfl rfl ha (status_of_true hr) hn rfl
  case clearCounters => exact fun mask ha => exec_done rfl rfl ha rfl rfl
  case gconfig => exact fun p ha hd => exec_done rfl rfl ha (refuseIf_false (congrArg not hd)) rfl

/-- CARAVAN.QUERY_JOB of a defined graph. -/
theorem jobAnswer_of_getJob {job : Nat} {x : Job} {s : State} (h : getJob s job = some x) :
    jobAnswer job s = ⟨0, [(s.cv.insts.filter (fun i => i.job == job)).length, x.bound.head?.getD 0xFF] ++ leBytes 4 x.seq ++
      leBytes 2 (listSum (x.p.nodes.map (·.residentPages))), s⟩ := by
  simp only [jobAnswer, h]

/-- Settles O16: each command's work, run on the state with its head taken, answers status 0. -/
theorem caravanCommandsComplete : Obligations.CaravanCommandsComplete := by
  rintro h s _ rfl
  refine ⟨?jobDefine, ?jobDelete, ?jobBind, ?run, ?levelConfig, ?engineRetire, ?engineRestore, ?queryJob, ?queryEngine,
    ?clearCounters⟩
  case jobDefine => exact fun p ha hd hb hn => exec_accepted rfl rfl ha (firstBad_cons hd (firstBad_cons hb rfl)) hn rfl
  case jobDelete => exact fun job ha hs => exec_done rfl rfl ha (refuseIf_status hs) rfl
  case jobBind => exact fun job gid en ha hs hn => exec_accepted rfl rfl ha hs hn rfl
  case run => exact fun job arg ha hs hn => exec_accepted rfl rfl ha hs hn rfl
  case levelConfig => exact fun p ha hr hn => exec_accepted rfl rfl ha (status_of_false hr) hn rfl
  case engineRetire =>
    exact fun engine ha hs hb hn => exec_accepted rfl rfl ha (firstBad_cons hs (firstBad_cons hb rfl)) hn rfl
  case engineRestore =>
    exact fun engine ha hs hb hn => exec_accepted rfl rfl ha (firstBad_cons hs (firstBad_cons hb rfl)) hn rfl
  case queryJob => exact fun job x ha hx => exec_done rfl rfl ha (jobAnswer_of_getJob hx) rfl
  case queryEngine => exact fun engine ha => exec_done rfl rfl ha rfl rfl
  case clearCounters => exact fun mask ha => exec_done rfl rfl ha rfl rfl

end Sys2Proof.Machine
end

section
/-! SUPPORT. The TOPO, OSC, ALARM and ACQ commands (08 Table 8-13, 09 Table 9-15, 10 Tables 10-15 and 10-16). -/

namespace Sys2Proof.Machine

/-- Settles O17: each command's work, run on the state with its head taken, answers status 0. -/
theorem topoCommandsComplete : Obligations.TopoCommandsComplete := by
  rintro h s _ rfl
  refine ⟨?modelLoad, ?config, ?cutsetDefine, ?cutsetDelete, ?branchForce, ?refactor, ?readResult, ?query, ?clearCounters⟩
  case modelLoad =>
    exact fun addr len sigOk fetchOk m ha hr hn => exec_accepted rfl rfl ha (status_of_false hr) hn rfl
  case config =>
    exact fun p ha hb hd => exec_done rfl rfl ha
      (refuseIf_status (firstBad_cons (congrArg not hb) (firstBad_cons (congrArg not hd) rfl))) rfl
  case cutsetDefine =>
    exact fun p ha hc hf => exec_done rfl rfl ha (refuseIf_status (firstBad_cons hc
      (firstBad_cons (decide_eq_false (fun hlt => Bool.noConfusion (hf.mp hlt))) rfl))) rfl
  case cutsetDelete => exact fun cut ha hc => exec_done rfl rfl ha (refuseIf_false hc) rfl
  case branchForce => exact fun branch action ha hs => exec_done rfl rfl ha (refuseIf_status hs) rfl
  case refactor => exact fun ha hr hn => exec_accepted rfl rfl ha (status_of_false hr) hn rfl
  case readResult =>
    exact fun index sections addr len ha hr hn => exec_accepted rfl rfl ha (status_of_true hr) hn rfl
  case query => exact fun ha => exec_done rfl rfl ha rfl rfl
  case clearCounters => exact fun ha => exec_done rfl rfl ha rfl rfl

/-- Settles O18: each command's work, run on the state with its head taken, answers status 0. -/
theorem oscCommandsComplete : Obligations.OscCommandsComplete := by
  rintro h s _ rfl
  refine ⟨?config, ?signalDefine, ?signalDelete, ?groupDefine, ?groupDelete, ?readBands, ?readModes, ?restart, ?query,
    ?clearCounters⟩
  case config =>
    exact fun p ha hb hd => exec_done rfl rfl ha
      (refuseIf_status (firstBad_cons hb (firstBad_cons (congrArg not hd) rfl))) rfl
  case signalDefine =>
    exact fun p ha hf hb hn => exec_accepted rfl rfl ha (firstBad_cons (congrArg not hf) (firstBad_cons hb rfl)) hn rfl
  case signalDelete => exact fun sig ha hs => exec_done rfl rfl ha (refuseIf_false hs) rfl
  case groupDefine =>
    exact fun p ha hf hb hn => exec_accepted rfl rfl ha (firstBad_cons (congrArg not hf) (firstBad_cons hb rfl)) hn rfl
  case groupDelete => exact fun group ha hg => exec_done rfl rfl ha (refuseIf_false hg) rfl
  case readBands => exact fun first count depth addr len ha hn => exec_accepted rfl rfl ha rfl hn rfl
  case readModes => exact fun group depth addr len ha hs hn => exec_accepted rfl rfl ha hs hn rfl
  case restart => exact fun group ha hg => exec_done rfl rfl ha (refuseIf_false hg) rfl
  case query => exact fun group ha => exec_done rfl rfl ha rfl rfl
  case clearCounters => exact fun mask ha => exec_done rfl rfl ha rfl rfl

/-- Settles O19: each command's work, run on the state with its head taken, answers status 0. -/
theorem alarmCommandsComplete : Obligations.AlarmCommandsComplete := by
  rintro h s _ rfl
  refine ⟨?ruleDefine, ?ruleEnable, ?ruleDelete, ?ruleQuery, ?lineConfig, ?ack, ?force, ?xtrigConfig, ?clearCounters⟩
  case ruleDefine => exact fun p ha hr => exec_done rfl rfl ha (refuseIf_false hr) rfl
  case ruleEnable => exact fun first count en ha hs => exec_done rfl rfl ha (refuseIf_status hs) rfl
  case ruleDelete => exact fun rule ha hr => exec_done rfl rfl ha (refuseIf_false hr) rfl
  case ruleQuery => exact fun rule ha => exec_done rfl rfl ha rfl rfl
  case lineConfig => exact fun p ha => exec_done rfl rfl ha rfl rfl
  case ack => exact fun mask ha => exec_done rfl rfl ha rfl rfl
  case force => exact fun rule action ha ht => exec_done rfl rfl ha (refuseIf_false (congrArg not ht)) rfl
  case xtrigConfig => exact fun p ha => exec_done rfl rfl ha rfl rfl
  case clearCounters => exact fun first count ha => exec_done rfl rfl ha rfl rfl

/-- Settles O20: each command's work, run on the state with its head taken, answers status 0. -/
theorem acqCommandsComplete : Obligations.AcqCommandsComplete := by
  rintro h s _ rfl
  refine ⟨?channelDefine, ?ringDefine, ?enable, ?delete, ?trigger, ?query, ?gconfig, ?clearCounters⟩
  case channelDefine =>
    exact fun p ha hf hb hn => exec_accepted rfl rfl ha (firstBad_cons (congrArg not hf) (firstBad_cons hb rfl)) hn rfl
  case ringDefine =>
    exact fun p ha hf hb hn => exec_accepted rfl rfl ha (firstBad_cons (congrArg not hf) (firstBad_cons hb rfl)) hn rfl
  case enable => exact fun ch en ha hs => exec_done rfl rfl ha (refuseIf_status hs) rfl
  case delete =>
    exact fun ch ha hc hb => exec_done rfl rfl ha (refuseIf_status (firstBad_cons hc (firstBad_cons hb rfl))) rfl
  case trigger => exact fun mask d ha => exec_done rfl rfl ha rfl rfl
  case query => exact fun ch ha => exec_done rfl rfl ha rfl rfl
  case gconfig => exact fun nq ha => exec_done rfl rfl ha rfl rfl
  case clearCounters => exact fun mask ha => exec_done rfl rfl ha rfl rfl

end Sys2Proof.Machine
end

section
/-! SUPPORT. The METER, VAULT, LOG and POWER commands (11 Table 11-14, 12 Table 12-12, 13 Table 13-14, 14 Table 14-17). -/

namespace Sys2Proof.Machine

/-- Settles O21: each command's work, run on the state with its head taken, answers status 0. -/
theorem meterCommandsComplete : Obligations.MeterCommandsComplete := by
  rintro h s _ rfl
  refine ⟨?channelConfig, ?calibrate, ?sensorTemp, ?elementDefine, ?elementEnable, ?energyRead, ?energyPreset, ?energySigned,
    ?pulseConfig, ?vstreamDefine, ?vstreamRemove, ?ballastDefine, ?save, ?config, ?query, ?clearCounters⟩
  case channelConfig => exact fun p ha hc => exec_done rfl rfl ha (refuseIf_false hc) rfl
  case calibrate => exact fun p ha hc => exec_done rfl rfl ha (refuseIf_false hc) rfl
  case sensorTemp => exact fun ch t ha => exec_done rfl rfl ha rfl rfl
  case elementDefine => exact fun p ha he => exec_done rfl rfl ha (refuseIf_false he) rfl
  case elementEnable =>
    rintro el en _ ha hd hl rfl
    exact exec_done rfl rfl ha (refuseIf_false (Bool.or_eq_false_iff.mpr ⟨congrArg not hd, hl⟩)) rfl
  case energyRead => exact fun el reg ha => exec_done rfl rfl ha rfl rfl
  case energyPreset => exact fun el reg rollover count ha hc => exec_done rfl rfl ha (refuseIf_false hc) rfl
  case energySigned => exact fun mask slot addr len ha hs hn => exec_accepted rfl rfl ha hs hn rfl
  case pulseConfig => exact fun p ha => exec_done rfl rfl ha rfl rfl
  case vstreamDefine =>
    exact fun p ha ht hv hn => exec_accepted rfl rfl ha (firstBad_cons ht (firstBad_cons hv rfl)) hn rfl
  case vstreamRemove =>
    exact fun vs ha hv hp => exec_done rfl rfl ha (refuseIf_status (firstBad_cons hv (firstBad_cons hp rfl))) rfl
  case ballastDefine => exact fun p ha hd => exec_done rfl rfl ha (refuseIf_false hd) rfl
  case save => exact fun ha hs hn => exec_accepted rfl rfl ha (status_of_false hs) hn rfl
  case config => exact fun p ha => exec_done rfl rfl ha rfl rfl
  case query => exact fun ha => exec_done rfl rfl ha rfl rfl
  case clearCounters => exact fun mask ha => exec_done rfl rfl ha rfl rfl

/-- Settles O22: each command's work, run on the state with its head taken, answers status 0. -/
theorem vaultCommandsComplete : Obligations.VaultCommandsComplete := by
  rintro h s _ rfl
  refine ⟨?status, ?lifecycle, ?ownerLoad, ?rootGenerate, ?tamperClear, ?tamperConfig, ?debug, ?generate, ?derive, ?importKey,
    ?sealKey, ?exportKey, ?destroy, ?attest, ?slotQuery, ?random, ?clearCounters⟩
  case status => exact fun ha => exec_done rfl rfl ha rfl rfl
  case lifecycle =>
    exact fun target ownerKey ha hr hw hn => exec_accepted rfl rfl ha (status_of_false
      (Bool.or_eq_false_iff.mpr ⟨hr, congrArg Option.isSome hw⟩)) hn rfl
  case ownerLoad => exact fun key ha hk => exec_done rfl rfl ha (refuseIf_false hk) rfl
  case rootGenerate =>
    exact fun ha hroot ht hr hn => exec_accepted rfl rfl ha (status_of_false
      (Bool.or_eq_false_iff.mpr ⟨Bool.or_eq_false_iff.mpr ⟨congrArg Option.isSome hroot, ht⟩, hr⟩)) hn rfl
  case tamperClear => exact fun ha => exec_done rfl rfl ha rfl rfl
  case tamperConfig => exact fun enables ha => exec_done rfl rfl ha rfl rfl
  case debug => exact fun en ha => exec_done rfl rfl ha rfl rfl
  case generate => exact fun slot alg usage lock ha hf hn => exec_accepted rfl rfl ha (status_of_true hf) hn rfl
  case derive => exact fun slot parent alg usage lock label ha hs hn => exec_accepted rfl rfl ha hs hn rfl
  case importKey => exact fun p ha hs hn => exec_accepted rfl rfl ha hs hn rfl
  case sealKey => exact fun slot addr len ha hs hn => exec_accepted rfl rfl ha hs hn rfl
  case exportKey => exact fun slot wrapSlot destUid addr len ha hs hn => exec_accepted rfl rfl ha hs hn rfl
  case destroy => exact fun slot ha hs => exec_done rfl rfl ha (if_pos hs) rfl
  case attest => exact fun slot nonce addr len ha hs hn => exec_accepted rfl rfl ha hs hn rfl
  case slotQuery => exact fun slot ha hs => exec_done rfl rfl ha (refuseIf_false hs) rfl
  case random => exact fun count ha hd => exec_done rfl rfl ha (if_neg (Bool.eq_false_iff.mp (congrArg not hd))) rfl
  case clearCounters => exact fun ha => exec_done rfl rfl ha rfl rfl

/-- Settles O23: each command's work, run on the state with its head taken, answers status 0. -/
theorem logCommandsComplete : Obligations.LogCommandsComplete := by
  rintro h s _ rfl
  refine ⟨?config, ?spoolSeek, ?read, ?flush, ?write, ?faultClear, ?ecQuery, ?inject, ?clearCounters⟩
  case config => exact fun p ha hv => exec_done rfl rfl ha (refuseIf_false hv) rfl
  case spoolSeek => exact fun seq ha => exec_done rfl rfl ha rfl rfl
  case read => exact fun first count addr len ha hn => exec_accepted rfl rfl ha rfl hn rfl
  case flush => exact fun ha hn => exec_accepted rfl rfl ha rfl hn rfl
  case write => exact fun severity arg ha => exec_done rfl rfl ha rfl rfl
  case faultClear =>
    rintro _ ha rfl
    exact exec_done rfl rfl ha rfl rfl
  case ecQuery => exact fun mac ha => exec_done rfl rfl ha rfl rfl
  case inject => exact fun mac word bitA bitB ha hb => exec_done rfl rfl ha (refuseIf_false hb) rfl
  case clearCounters => exact fun mask ha => exec_done rfl rfl ha rfl rfl

/-- Settles O24: each command's work, run on the state with its head taken, answers status 0. -/
theorem powerCommandsComplete : Obligations.PowerCommandsComplete := by
  rintro h s _ rfl
  refine ⟨?doze, ?wake, ?padRelease, ?config, ?query, ?refConfig, ?refSwitch, ?clearCounters⟩
  case doze => exact fun ha hs hn => exec_accepted rfl rfl ha (status_of_false hs) hn rfl
  case wake => exact fun ha hn => exec_accepted rfl rfl ha rfl hn rfl
  case padRelease => exact fun mask ha hp => exec_done rfl rfl ha (refuseIf_false (congrArg not hp)) rfl
  case config => exact fun p ha => exec_done rfl rfl ha rfl rfl
  case query => exact fun ha => exec_done rfl rfl ha rfl rfl
  case refConfig => exact fun p ha => exec_done rfl rfl ha rfl rfl
  case refSwitch =>
    exact fun ha hs hw hn => exec_accepted rfl rfl ha (firstBad_cons (congrArg not hs) (firstBad_cons hw rfl)) hn rfl
  case clearCounters => exact fun mask ha => exec_done rfl rfl ha rfl rfl

end Sys2Proof.Machine
end

section
/-! SUPPORT. FINAL_COMPLETION (02 R54): how the operations that run end, class by class, and how a hardware fault ends them. -/

namespace Sys2Proof.Machine

/-- An operation that runs ends when the device is neither frozen nor in BOOT. -/
theorem exec_finalCompletion {k : Nat} {o : OpEntry} {fin : Finish} {s : State} (h : mayEnd k o s) :
    exec (.finalCompletion k fin) s = .next (finishOp o fin s) := by
  obtain ⟨hop, hphase, hfrozen, hboot⟩ := h
  have hgo : (o.phase == .waking || s.pm.mode == .frozen || s.pm.mode == .boot) = false := by
    simp [hphase, hfrozen, hboot]
  have hend : execFinalCompletion k fin s = .next (finishOp o fin s) := by
    simp only [execFinalCompletion, hop, hgo, Bool.false_eq_true, ↓reduceIte]
  exact hend

/-- The end of an operation of the classes SYS, CFG, PORT and TIME. -/
theorem exec_finalHost {k : Nat} {o : OpEntry} {fin : Finish} {s t : State} (h : mayEnd k o s) (ho : o.opcode < 0x1000)
    (ht : finishHost o fin s = t) : exec (.finalCompletion k fin) s = .next t := by
  rw [exec_finalCompletion h, finishOp, if_pos ho, ht]

/-- The end of an operation of the classes STREAM, GROUP, CARAVAN, TOPO and OSC. -/
theorem exec_finalGrid {k : Nat} {o : OpEntry} {fin : Finish} {s t : State} (h : mayEnd k o s) (hlo : 0x1000 ≤ o.opcode)
    (hhi : o.opcode < 0x2800) (ht : finishGrid o fin s = t) : exec (.finalCompletion k fin) s = .next t := by
  rw [exec_finalCompletion h, finishOp, if_neg (Nat.not_lt.mpr hlo), if_pos hhi, ht]

/-- The end of an operation of the classes ACQ, METER, VAULT, LOG and POWER. -/
theorem exec_finalRest {k : Nat} {o : OpEntry} {fin : Finish} {s t : State} (h : mayEnd k o s) (ho : 0x2800 ≤ o.opcode)
    (ht : finishRest o fin s = t) : exec (.finalCompletion k fin) s = .next t := by
  rw [exec_finalCompletion h, finishOp, if_neg (by omega), if_neg (Nat.not_lt.mpr ho), ht]

/-- A next state that a condition chooses. -/
theorem next_ite {c : Prop} [Decidable c] {x : Host.Outcome State Fault Refusal} {a b : State}
    (h : x = .next (if c then a else b)) : if c then x = .next a else x = .next b := by
  by_cases hc : c
  · rw [if_pos hc] at h ⊢
    exact h
  · rw [if_neg hc] at h ⊢
    exact h

/-- The end of an operation whose late checks but admission hold. -/
theorem finishAdmit_of_ok {o : OpEntry} {ok : Bool} {change : State → State} {s : State} (h : ok = true) :
    finishAdmit o ok change s = if admitted (change s) then finalCompletion o 0 [] (reMode (change s))
      else finalCompletion o 0x31 [] s := by
  cases ha : admitted (change s) <;> simp [finishAdmit, h, ha]

/-- SYS.SET_MODE at its end, where no hardware fault ends it: the mode that stands, or the change it asks for. -/
theorem finishSetMode_of_no_fault (o : OpEntry) (target : Nat) {s v : State}
    (hv : v = { s with pm := { s.pm with setMode := none } }) : finishSetMode o target false s =
      if atTarget target s then finalCompletion o 0 [] v
      else if target == 1 then finalCompletion o 0 [] (enterProvision v)
      else if target == 3 then finalCompletion o 0 [] (enterService v)
      else if s.pm.mode == .provision && !admitted v then finalCompletion o 0x31 [] v
      else finalCompletion o 0 [] (enterCommission v) := by
  subst hv; rfl

/-- Settles O38: the operation's end, command by command. -/
theorem finalHostOperationsComplete : Obligations.FinalHostOperationsComplete := by
  intro k o fin s hm ho
  refine ⟨?setMode, ?cfgLoad, ?cfgCommit, ?cfgReport, ?cfgStore, ?portConfig, ?gateLoad, ?ptpConfig, ?mainRetest⟩
  case setMode =>
    intro h target v hc hf hv
    have hend : exec (.finalCompletion k fin) s = .next _ := exec_finalHost hm ho
      (by simp only [finishHost, hc, hf]; exact finishSetMode_of_no_fault o target hv)
    refine ⟨fun ht => ?_, fun ht h1 => ?_, fun ht h3 => ?_, fun ht h1 h3 hp ha => ?_, fun ht h1 h3 ha => ?_⟩
    · rw [hend, if_pos ht]
    · subst h1; simp [hend, ht]
    · subst h3; simp [hend, ht]
    · simp [hend, ht, h1, h3, hp, ha]
    · by_cases hp : s.pm.mode = .provision
      · simp [hend, ht, h1, h3, hp, ha hp]
      · simp [hend, ht, h1, h3, hp]
  case cfgLoad =>
    rintro h source addr len given _ hc hf hd hu rfl hfetch
    refine ⟨fun hst => exec_finalHost hm ho ?_, fun hst => exec_finalHost hm ho ?_⟩ <;>
      simp [finishHost, hc, finishCfgLoad, hf, hd, hu, hfetch, hst]
  case cfgCommit =>
    rintro h img _ hc hf hs rfl
    refine next_ite (exec_finalHost hm ho ?_)
    by_cases hv : (commitImage img s).pm.mode = .provision ∧ (commitImage img s).fuses.lifecycle = .operational <;>
      simp [finishHost, hc, finishCfgCommit, hs, hf, hv]
  case cfgReport => exact fun h which addr len hc => exec_finalHost hm ho (by simp only [finishHost, hc, finishCfgReport])
  case cfgStore => exact fun h img hc hf hs => exec_finalHost hm ho (by simp [finishHost, hc, finishCfgStore, hf, hs])
  case portConfig =>
    refine fun h p hc hf => next_ite (exec_finalHost hm ho ?_)
    cases hp : keepsPair p s <;> simp [finishHost, hc, finishPortConfig, hf, hp]
  case gateLoad => exact fun h p hc hf => exec_finalHost hm ho (by simp [finishHost, hc, finishGateLoad, hf])
  case ptpConfig => exact fun h p hc hf => exec_finalHost hm ho (by simp [finishHost, hc, finishPtpConfig, hf])
  case mainRetest =>
    rintro h _ hc rfl
    refine ⟨fun hp => exec_finalHost hm ho ?_, fun hp => exec_finalHost hm ho ?_⟩ <;>
      simp [finishHost, hc, finishMainRetest, hp]

/-- A change of a defined group sets the group as changed. -/
theorem changeGroup_of_getGroup {gid : Nat} {f : Group → Group} {s : State} {g : Group} (h : getGroup s gid = some g) :
    changeGroup gid f s = setGroup gid (f g) s := by
  simp only [changeGroup, h]

/-- Settles O39: the operation's end, command by command. -/
theorem finalGridOperationsComplete : Obligations.FinalGridOperationsComplete := by
  intro k o fin s hm hlo hhi
  have hend {t} := exec_finalGrid (t := t) (fin := fin) hm hlo hhi
  refine ⟨?install, ?list, ?groupDefine, ?groupMembers, ?setTiming, ?sessionDefine, ?readCell, ?jobDefine, ?jobBind,
    ?levels, ?retire, ?restore, ?modelLoad, ?readResult, ?signal, ?oscGroup, ?readBands, ?readModes⟩
  case install =>
    intro h p hc hf hs
    refine next_ite (hend ?_)
    cases ha : admitted (placeStream p true s) <;> simp [finishGrid, hc, finishInstall, hf, hs, ha]
  case list => exact fun h addr len hc => hend (by simp only [finishGrid, hc, finishList])
  case groupDefine =>
    intro h p hc hf hl
    refine next_ite (hend ?_)
    simp only [finishGrid, hc]
    exact finishAdmit_of_ok (by simp [hf, hl])
  case groupMembers =>
    rintro h gid op n sids g _ hc hf hl hs hg rfl
    refine next_ite (hend ?_)
    simp only [finishGrid, hc,
      ← changeGroup_of_getGroup (f := fun g => { g with members := newMembers op sids g.members }) hg]
    exact finishAdmit_of_ok (by simp [hf, hl, hs])
  case setTiming =>
    rintro h p g _ hc hf hl hg rfl
    refine next_ite (hend ?_)
    simp only [finishGrid, hc]
    refine (finishAdmit_of_ok (by simp [hf, hl])).trans ?_
    rw [changeGroup_of_getGroup hg]
  case sessionDefine =>
    intro h p hc hf hs hl he
    refine next_ite (hend ?_)
    simp only [finishGrid, hc]
    exact finishAdmit_of_ok (by simp only [hf, hs, hl, he]; rfl)
  case readCell =>
    refine fun h gid sid index addr len hc => ⟨fun hn => hend ?_, fun c v hs hr hd => hend ?_, fun c v hs hr => hend ?_⟩
    · simp only [finishGrid, hc, finishReadCell, hn]
    · simp [finishGrid, hc, finishReadCell, hs, hr, hd]
    · simp [finishGrid, hc, finishReadCell, hs, hr]
  case jobDefine =>
    intro h p hc hf hj hfit
    refine next_ite (hend ?_)
    simp only [finishGrid, hc]
    exact finishAdmit_of_ok (by simp [hf, hj, hfit])
  case jobBind =>
    rintro h job gid en _ hc hj rfl hb
    refine next_ite (hend ?_)
    have hok : (en == 1 && !(groupLive s gid && bindingsOk (bindJob job gid (en == 1) s))) = false := by
      by_cases he : en = 1
      · obtain ⟨hl, hbind⟩ := hb he
        rw [hl, hbind]
        exact Bool.and_false _
      · simp [he]
    simp only [finishGrid, hc, finishJobBind, Option.isNone_eq_false_iff.mpr hj, hok, Bool.false_or]
    cases admitted (bindJob job gid (en == 1) s) <;> simp
  case levels =>
    intro h p hc
    refine next_ite (hend ?_)
    simp only [finishGrid, hc]
    exact finishAdmit_of_ok rfl
  case retire =>
    intro h engine hc hf hst
    refine next_ite (hend ?_)
    have hok : ((getEngine s engine).st == .idle || (getEngine s engine).st == .running ||
        (getEngine s engine).st == .spare) = true := by simpa [or_assoc] using hst
    simp only [finishGrid, hc, finishEngineRetire, hf, hok, Bool.not_true, Bool.or_self, Bool.false_eq_true, ↓reduceIte]
    cases ha : admitted (loseEngine engine .selftest s) <;> simp
  case restore =>
    rintro h engine _ hc rfl
    refine ⟨fun hp => hend ?_, fun hp => hend ?_⟩ <;> simp [finishGrid, hc, finishEngineRestore, hp]
  case modelLoad =>
    rintro h addr len m t hc hf hd hp hr hm rfl
    refine ⟨fun ha => hend ?_, fun ha hx => hend ?_, ?_⟩
    · simp [finishGrid, hc, finishModelLoad, hf, hd, hp, hr, hm, ha]
    · simp [finishGrid, hc, finishModelLoad, hf, hd, hp, hr, hm, ha, hx]
    · rintro _ rfl ha hx
      exact hend (by simp [finishGrid, hc, finishModelLoad, hf, hd, hp, hr, hm, ha, hx])
  case readResult =>
    rintro h index sections addr len r _ hc hd hr rfl
    exact hend (by simp [finishGrid, hc, finishReadResult, hr, hd])
  case signal =>
    intro h p hc hf hs
    refine next_ite (hend ?_)
    simp only [finishGrid, hc]
    exact finishAdmit_of_ok (by simp [hf, hs])
  case oscGroup =>
    intro h p hc hf hg
    refine next_ite (hend ?_)
    simp only [finishGrid, hc]
    exact finishAdmit_of_ok (by simp [hf, hg])
  case readBands =>
    exact fun h first count depth addr len hc hd => hend (by simp [finishGrid, hc, finishReadBands, hd])
  case readModes =>
    rintro h group depth addr len _ hc hd rfl
    exact hend (by simp [finishGrid, hc, finishReadModes, hd])

/-- VAULT.SEAL and VAULT.EXPORT of a slot that is held: the blob under a fresh IV. -/
theorem finishBlob_of_ok {o : OpEntry} {slot addr len wrap uid : Nat} {s : State} {x : Slot} (hx : getSlot s slot = some x)
    (hd : drbgServes s = true) (hs : heldStatus s slot = 0) (hl : blobLen x.alg ≤ len) :
    finishBlob o slot addr len wrap uid true s = finalCompletion o 0 (leBytes 4 (blobLen x.alg))
      (hostOut addr o.opcode (blobBytes x wrap uid ((drawRandom s).1 % 2 ^ 96)) (drawRandom s).2) := by
  simp [finishBlob, hx, hd, hs, Nat.not_lt.mpr hl]

/-- Settles O40: the operation's end, command by command. -/
theorem finalRestOperationsComplete : Obligations.FinalRestOperationsComplete := by
  intro k o fin s hm ho
  have hend {t} := exec_finalRest (t := t) (fin := fin) hm ho
  refine ⟨?chan, ?ring, ?signed, ?vs, ?save, ?lifecycle, ?root, ?generate, ?derive, ?importKey, ?sealKey, ?exportKey,
    ?attest, ?logRead, ?flush, ?refSwitch⟩
  case chan =>
    intro h p hc hf hp
    refine next_ite (hend ?_)
    simp only [finishRest, hc]
    exact finishAdmit_of_ok (by simp [hf, hp])
  case ring =>
    rintro h p _ _ hc hf hp rfl rfl
    refine next_ite (hend ?_)
    simp only [finishRest, hc, finishRing, hf, hp, Bool.not_true, Bool.or_self, Bool.false_eq_true, ↓reduceIte]
    cases admitted (placeRing p true (((getAqRing s (ringNo p)).map (·.byCommand)).getD true) s) <;> simp
  case signed =>
    rintro h mask slot addr len _ hc hf hs hd rfl
    refine ⟨fun hk hl => hend ?_, fun hk => hend ?_⟩
    · simp [finishRest, hc, finishSigned, hf, hs, hd, hk, Nat.not_lt.mpr hl]
    · simp [finishRest, hc, finishSigned, hf, hs, hd, hk]
  case vs =>
    intro h p hc hf hp
    refine next_ite (hend ?_)
    cases ha : admitted (putVs p true s) <;> simp [finishRest, hc, finishVs, hf, hp, ha]
  case save =>
    refine fun h hc => ⟨fun hf => hend ?_, fun hf => hend ?_⟩ <;> simp [finishRest, hc, finishSave, hf]
  case lifecycle =>
    rintro h target key l _ hc hf hl hstep hp rfl
    have hkey : (l == .provisioned && (key.isNone || !drbgServes s)) = false := by
      by_cases he : l = .provisioned
      · obtain ⟨hk, hd⟩ := hp he
        simp [Option.isNone_eq_false_iff.mpr hk, hd]
      · simp [he]
    exact hend (by simp only [finishRest, hc, finishLifecycle, hl, hf, hkey, hstep, Bool.not_true, Bool.or_self,
      Bool.false_eq_true, ↓reduceIte])
  case root =>
    rintro h _ hc hf hd ht rfl
    exact hend (by simp [finishRest, hc, finishRoot, hf, hd, ht])
  case generate =>
    intro h slot alg usage lock v t hc hf hd he hv
    exact hend (by simp [finishRest, hc, finishGenerate, hf, hd, he, hv])
  case derive =>
    exact fun h slot parent alg usage lock label hc hf he hp => hend (by simp [finishRest, hc, finishDerive, hf, he, hp])
  case importKey =>
    intro h p hc hf he hwrap hroot
    have hlost : (p.form == 1 && keyUse s p.wrapSlot 0 [0] != 0 || p.form == 2 && (rootInForce s).isNone) = false := by
      by_cases h1 : p.form = 1
      · simp [h1, hwrap h1]
      · by_cases h2 : p.form = 2
        · simp [h2, Option.isNone_eq_false_iff.mpr (hroot h2)]
        · simp [h1, h2]
    refine ⟨fun attr key hk => hend ?_, fun hk => hend ?_⟩ <;>
      simp only [finishRest, hc, finishImport, hf, he, hlost, hk, Bool.not_true, Bool.or_self, Bool.false_eq_true,
        ↓reduceIte]
  case sealKey =>
    intro h slot addr len r x hc hf hr hx hd hs hl
    refine hend ?_
    simp only [finishRest, hc, finishSeal, hr, hf]
    exact finishBlob_of_ok hx hd hs hl
  case exportKey =>
    intro h slot wrapSlot uid addr len x hc hf hk hx he hd hs hl
    refine hend ?_
    simp only [finishRest, hc, finishExport, hf, hk, hx, Option.map_some, Option.getD_some, he]
    exact finishBlob_of_ok hx hd hs hl
  case attest =>
    rintro h slot nonce addr len _ hc hf hd hs hr rfl
    have hroot := Option.isNone_eq_false_iff.mpr hr
    refine ⟨fun ha => hend ?_, fun hn ha => hend ?_⟩
    · have hok : (slot != 0xFF && !attestable s slot) = false := by
        rcases ha with rfl | ha
        · rfl
        · rw [ha]; exact Bool.and_false _
      simp only [finishRest, hc, finishAttest, hf, hd, hs, hroot, hok, Bool.not_true, Bool.or_self,
        Bool.false_eq_true, ↓reduceIte]
    · simp [finishRest, hc, finishAttest, hf, hd, hs, hroot, hn, ha]
  case logRead =>
    rintro h first count addr len _ l t v hc hd rfl rfl
    refine ⟨fun hl => hend ?_, fun hl => hend ?_⟩ <;>
      simp only [finishRest, hc, finishLogRead, hd, hl, Bool.false_eq_true, ↓reduceIte]
  case flush =>
    exact fun h hc hf hfl hag => hend (by simp [finishRest, hc, finishFlush, hf, hfl, hag])
  case refSwitch =>
    rintro h _ hc rfl
    refine ⟨fun hf hs => hend ?_, fun hf => hend ?_⟩
    · simp [finishRest, hc, finishRefSwitch, hf, hs]
    · have hok : (!fin.hwFault && standbyOk s.ck) = false := by
        rcases hf with hf | hf <;> simp [hf]
      simp only [finishRest, hc, finishRefSwitch, hok, Bool.false_eq_true, ↓reduceIte]

/-- The end of an operation whose late checks fail. -/
theorem finishAdmit_of_not_ok {o : OpEntry} {ok : Bool} {change : State → State} {s : State} (h : ok = false) :
    finishAdmit o ok change s = finalCompletion o 0x60 [] s := by
  rw [finishAdmit, h]; rfl

/-- A hardware fault of an operation of the classes SYS, CFG and PORT that leaves no effect. -/
theorem finishHost_of_fault {o : OpEntry} {fin : Finish} {s : State} (hf : fin.hwFault = true)
    (hc : (∃ h, o.cmd = .cfgCommit h) ∨ (∃ h, o.cmd = .cfgStore h) ∨ (∃ h p, o.cmd = .portConfig h p)) :
    finishHost o fin s = finalCompletion o 0x60 [] s := by
  rcases hc with ⟨h, hc⟩ | ⟨h, hc⟩ | ⟨h, p, hc⟩
  case inl => cases hs : s.cfg.staged <;> simp [finishHost, hc, finishCfgCommit, hs, hf]
  case inr.inl => simp [finishHost, hc, finishCfgStore, hf]
  case inr.inr => simp [finishHost, hc, finishPortConfig, hf]

/-- A hardware fault of an operation of the classes STREAM, GROUP, CARAVAN and OSC that leaves no effect. -/
theorem finishGrid_of_fault {o : OpEntry} {fin : Finish} {s : State} (hf : fin.hwFault = true)
    (hc : (∃ h p, o.cmd = .streamInstall h p) ∨ (∃ h p, o.cmd = .groupDefine h p) ∨
      (∃ h gid op n l, o.cmd = .groupMembers h gid op n l) ∨ (∃ h p, o.cmd = .groupSetTiming h p) ∨
      (∃ h p, o.cmd = .groupSessionDefine h p) ∨ (∃ h p, o.cmd = .caravanJobDefine h p) ∨
      (∃ h n, o.cmd = .caravanEngineRetire h n) ∨ (∃ h p, o.cmd = .oscSignalDefine h p) ∨
      (∃ h p, o.cmd = .oscGroupDefine h p)) :
    finishGrid o fin s = finalCompletion o 0x60 [] s := by
  rcases hc with ⟨h, p, hc⟩ | ⟨h, p, hc⟩ | ⟨h, gid, op, n, l, hc⟩ | ⟨h, p, hc⟩ | ⟨h, p, hc⟩ | ⟨h, p, hc⟩ | ⟨h, n, hc⟩ |
    ⟨h, p, hc⟩ | ⟨h, p, hc⟩ <;> simp only [finishGrid, hc, hf]
  · simp [finishInstall]
  · exact finishAdmit_of_not_ok rfl
  · exact finishAdmit_of_not_ok rfl
  · rw [finishSetTiming, finishGroupChange]
    exact finishAdmit_of_not_ok rfl
  · exact finishAdmit_of_not_ok rfl
  · exact finishAdmit_of_not_ok rfl
  · simp [finishEngineRetire]
  · exact finishAdmit_of_not_ok rfl
  · exact finishAdmit_of_not_ok rfl

/-- VAULT.SEAL and VAULT.EXPORT that a fault ends write no blob. -/
theorem finishBlob_of_not_ok {o : OpEntry} {slot addr len wrap uid : Nat} {ok : Bool} {s : State} (h : ok = false) :
    finishBlob o slot addr len wrap uid ok s = finalCompletion o 0x60 [] s := by
  cases hx : getSlot s slot <;> simp [finishBlob, hx, h]

/-- A hardware fault of an operation of the classes ACQ, METER, VAULT and LOG that leaves no effect. -/
theorem finishRest_of_fault {o : OpEntry} {fin : Finish} {s : State} (hf : fin.hwFault = true)
    (hc : (∃ h p, o.cmd = .acqChannelDefine h p) ∨ (∃ h p, o.cmd = .acqRingDefine h p) ∨
      (∃ h m sl a l, o.cmd = .meterEnergySigned h m sl a l) ∨ (∃ h p, o.cmd = .meterVstreamDefine h p) ∨
      (∃ h t k, o.cmd = .vaultLifecycle h t k) ∨ (∃ h, o.cmd = .vaultRootGenerate h) ∨
      (∃ h a b c d, o.cmd = .vaultGenerate h a b c d) ∨ (∃ h a b c d e f, o.cmd = .vaultDerive h a b c d e f) ∨
      (∃ h p, o.cmd = .vaultImport h p) ∨ (∃ h a b c, o.cmd = .vaultSeal h a b c) ∨
      (∃ h a b c d e, o.cmd = .vaultExport h a b c d e) ∨ (∃ h a b c d, o.cmd = .vaultAttest h a b c d) ∨
      (∃ h, o.cmd = .logFlush h)) :
    finishRest o fin s = finalCompletion o 0x60 [] s := by
  rcases hc with ⟨h, p, hc⟩ | ⟨h, p, hc⟩ | ⟨h, m, sl, a, l, hc⟩ | ⟨h, p, hc⟩ | ⟨h, t, key, hc⟩ | ⟨h, hc⟩ |
    ⟨h, a, b, c, d, hc⟩ | ⟨h, a, b, c, d, e, f, hc⟩ | ⟨h, p, hc⟩ | ⟨h, a, b, c, hc⟩ | ⟨h, a, b, c, d, e, hc⟩ |
    ⟨h, a, b, c, d, hc⟩ | ⟨h, hc⟩ <;> simp only [finishRest, hc, hf]
  · exact finishAdmit_of_not_ok rfl
  · simp [finishRing]
  · simp [finishSigned]
  · simp [finishVs]
  · cases hl : lifecycleOf t <;> simp [finishLifecycle, hl]
  · simp [finishRoot]
  · simp [finishGenerate]
  · simp [finishDerive]
  · simp [finishImport]
  · cases hr : rootInForce s <;> simp only [finishSeal, hr]
    exact finishBlob_of_not_ok rfl
  · exact finishBlob_of_not_ok rfl
  · simp [finishAttest]
  · simp [finishFlush]

/-- Settles O41: a fault of one of the listed operations, class by class. -/
theorem faultedOperationsLeaveNoEffect : Obligations.FaultedOperationsLeaveNoEffect := by
  intro k o fin s hm hf hc
  rcases hc with ⟨ho, hc⟩ | ⟨hlo, hhi, hc⟩ | ⟨ho, hc⟩
  · exact exec_finalHost hm ho (finishHost_of_fault hf hc)
  · exact exec_finalGrid hm hlo hhi (finishGrid_of_fault hf hc)
  · exact exec_finalRest hm ho (finishRest_of_fault hf hc)

/-- Settles O4: the state that `exec_look` gives for every command. -/
theorem noCommandStops : Obligations.NoCommandStops := by
  intro c s
  obtain ⟨t, ht, -⟩ := exec_look c s
  exact ⟨t, ht⟩

end Sys2Proof.Machine
end

section
/-! SUPPORT. The checks of 02 R51: what turns a dispatched command away, and that handles run out (02 R55). -/

namespace Sys2Proof.Machine

/-- A dispatched command that a check turns away completes with that check's status. -/
theorem exec_of_status {c : Instr} {s w : State} {p : Proc} {code : Nat} (hp : procOf c s = some p)
    (hd : dispatches p.h p.spec.opcode s = true) (hc : hostCheck p.h p.spec (takeHead p.h.src s) = .status code)
    (ht : turnedAway p.h p.spec (takeHead p.h.src s) = w) :
    exec c s = .next (refusedWith p.h p.spec.opcode code s w) := by
  rw [exec_of_procOf c s p hp, runProc_status c p code s hd hc, ht, refusedWith]

/-- An authorization that holds counts nothing. -/
theorem authFailure_of_verdict_zero {h : Hdr} {c : CmdSpec} {s : State} (hv : (authVerdict h c s).1 = 0) :
    authFailure h c s = s := by
  unfold authFailure
  split
  · next hbad => exact absurd ((congrArg Prod.fst hbad).symm.trans hv) (Nat.succ_ne_zero _)
  · next hbad => exact absurd ((congrArg Prod.fst hbad).symm.trans hv) (Nat.succ_ne_zero _)
  · rfl

/-- What a command that passes length, buffer and authorization leaves when a later check turns it away: nothing. -/
theorem turnedAway_of_authorized {h : Hdr} {c : CmdSpec} {s : State} (hl : lengthOk h c = true) (hb : bufLost h = false)
    (hv : (authVerdict h c s).1 = 0) : turnedAway h c s = s := by
  simp [turnedAway, hl, hb, authFailure_of_verdict_zero hv]

/-- Settles O44: the first check of R51 that fails gives the status. -/
theorem turnedAwayByTheChecks : Obligations.TurnedAwayByTheChecks := by
  rintro c s p hp hd _ rfl
  refine ⟨fun hl => ?_, fun hl hb => ?_, fun hl hb hv => ?_, fun hl hb hv => ⟨fun hq => ?_, fun hq => ⟨fun hm => ?_,
    fun hm ho hw => ?_⟩⟩⟩
  · exact exec_of_status hp hd (by simp [hostCheck, hl]) (by simp [turnedAway, hl])
  · exact exec_of_status hp hd (by simp [hostCheck, hl, hb]) (by simp [turnedAway, hl, hb])
  · exact exec_of_status hp hd (by simp [hostCheck, hl, hb, hv]) (by simp [turnedAway, hl, hb])
  · exact exec_of_status hp hd (by simp [hostCheck, hl, hb, hv, hq]) (turnedAway_of_authorized hl hb hv)
  · exact exec_of_status hp hd (by simp [hostCheck, hl, hb, hv, hq, hm]) (turnedAway_of_authorized hl hb hv)
  · exact exec_of_status hp hd (by simp [hostCheck, hl, hb, hv, hq, hm, ho, hw]) (turnedAway_of_authorized hl hb hv)

/-- BOOT admits the three opcodes up to SYS.QUERY_HANDLE only (02 R73). -/
theorem modeAdmits_of_boot {c : CmdSpec} {s : State} (hm : s.pm.mode = .boot) (ho : 2 < c.opcode) :
    modeAdmits c s = false := by
  simp [modeAdmits, hm, ho]

/-- Settles O46: the mode check turns the command away. -/
theorem bootAdmitsThreeCommands : Obligations.BootAdmitsThreeCommands := by
  intro c s p hp hm ho hd hl hb hv hq
  have hadmit : modeAdmits p.spec (takeHead p.h.src s) = false :=
    modeAdmits_of_boot ((congrArg Pm.mode (takeHead_look (·.pm) (fun _ _ => rfl) p.h.src s)).trans hm) ho
  exact exec_of_status hp hd (by simp [hostCheck, hl, hb, hv, hq, hadmit]) (turnedAway_of_authorized hl hb hv)

/-- Taking a head leaves the outstanding operations. -/
theorem takeHead_ops (src : Src) (s : State) : (takeHead src s).hi.ops = s.hi.ops := by
  cases src with
  | mailbox => rfl
  | ring n => simp only [takeHead, setRing]; split <;> rfl

/-- A command that would be ACCEPTED while every handle is outstanding. -/
theorem exec_of_no_handle {c : Instr} {s : State} {p : Proc} {phase : Phase} {first : State → Nat}
    {start : Nat → State → State} {missed : State → State} (hp : procOf c s = some p)
    (hw : p.work = .accepted phase first start missed) (ha : passes p.h p.spec s = true)
    (hf : first (takeHead p.h.src s) = 0) (hn : 1024 ≤ s.hi.ops.length) :
    exec c s = .next (refusedWith p.h p.spec.opcode 0x30 s (takeHead p.h.src s)) := by
  obtain ⟨hd, hc⟩ := (passes_iff _ _ _).mp ha
  rw [exec_of_procOf c s p hp]
  simp [runProc, hw, runAccepted, hd, hc, replyAccepted, hf, takeHead_ops, hn, refusedWith]

/-- Settles O47: the bound is part of the invariant `HostOk`, and a command that needs one handle more is turned away. -/
theorem handlesRunOut : Obligations.HandlesRunOut := by
  refine ⟨fun s t hs ht => ?_, fun c s p phase first start missed hp hw ha hf hn => exec_of_no_handle hp hw ha hf hn⟩
  obtain ⟨-, hops, -⟩ := hostInterfaceKeepsItsBounds s t hs ht
  exact hops

end Sys2Proof.Machine
end

section
/-! SUPPORT. Handle numbers (02 R54): the search for a free sequence meets one, since more numbers are tried than handles can be
outstanding. -/

namespace Sys2Proof.Machine

/-- The `i`-th number that the search from `q` tries. -/
def seqAt (q i : Nat) : Nat := (q - 1 + i) % 0xFFFFFF + 1

/-- The search goes from a number to the one after it. -/
theorem seqAt_succ {q : Nat} (hq : 1 ≤ q) (hq' : q ≤ 0xFFFFFF) (i : Nat) :
    seqAt (if q == 0xFFFFFF then 1 else q + 1) i = seqAt q (i + 1) := by
  unfold seqAt
  by_cases h : q = 0xFFFFFF
  · simp only [h, BEq.rfl, ↓reduceIte]; omega
  · simp only [beq_iff_eq, h, ↓reduceIte]; congr 2; omega

/-- The search ends at a number that is not used, or each number it tried is used. -/
theorem freeSeq_free (used : List Nat) (fuel : Nat) {q : Nat} (hq : 1 ≤ q) (hq' : q ≤ 0xFFFFFF) :
    (1 ≤ freeSeq used fuel q ∧ freeSeq used fuel q ≤ 0xFFFFFF) ∧
      (freeSeq used fuel q ∉ used ∨ ∀ i < fuel, seqAt q i ∈ used) := by
  induction fuel generalizing q with
  | zero => exact ⟨⟨hq, hq'⟩, .inr (fun i hi => absurd hi (Nat.not_lt_zero i))⟩
  | succ fuel ih =>
    by_cases hu : q ∈ used
    · obtain ⟨hlo, hhi⟩ : 1 ≤ (if q == 0xFFFFFF then 1 else q + 1) ∧ (if q == 0xFFFFFF then 1 else q + 1) ≤ 0xFFFFFF := by
        by_cases h : q = 0xFFFFFF
        · simp [h]
        · simp only [beq_iff_eq, h, ↓reduceIte]; omega
      obtain ⟨hrange, hfree⟩ := ih hlo hhi
      simp only [freeSeq, List.contains_iff_mem.mpr hu, ↓reduceIte]
      refine ⟨hrange, hfree.imp_right (fun hall i hi => ?_)⟩
      cases i with
      | zero =>
        have hfirst : seqAt q 0 = q := by unfold seqAt; omega
        rwa [hfirst]
      | succ i => exact seqAt_succ hq hq' i ▸ hall i (Nat.lt_of_succ_lt_succ hi)
    · have hstop : freeSeq used (fuel + 1) q = q := by simp [freeSeq, hu]
      exact ⟨hstop.symm ▸ ⟨hq, hq'⟩, .inl (hstop.symm ▸ hu)⟩

/-- The numbers tried differ from each other. -/
theorem seqAt_nodup (q : Nat) : ((List.range 1025).map (seqAt q)).Nodup := by
  refine List.pairwise_map.mpr (List.pairwise_lt_range.imp_of_mem (fun hi hj hlt hij => ?_))
  rw [List.mem_range] at hi hj
  unfold seqAt at hij
  omega

/-- The next sequence is a number from 1 to 0xFFFFFF that no outstanding handle carries. -/
theorem nextSeq_free {s : State} (hn : s.hi.ops.length ≤ 1024) (hq : 1 ≤ s.hi.seq) (hq' : s.hi.seq ≤ 0xFFFFFF) :
    (1 ≤ nextSeq s ∧ nextSeq s ≤ 0xFFFFFF) ∧ nextSeq s ∉ s.hi.ops.map (fun o => o.handle % 2 ^ 24) := by
  obtain ⟨hrange, hfree⟩ := freeSeq_free (s.hi.ops.map (fun o => o.handle % 2 ^ 24)) 1025 hq hq'
  refine ⟨hrange, hfree.resolve_right (fun hall => ?_)⟩
  have hsub : (List.range 1025).map (seqAt s.hi.seq) ⊆ s.hi.ops.map (fun o => o.handle % 2 ^ 24) := by
    intro q hmem
    obtain ⟨i, hi, rfl⟩ := List.mem_map.mp hmem
    exact hall i (List.mem_range.mp hi)
  have hlen := (seqAt_nodup s.hi.seq).length_le_of_subset hsub
  simp only [List.length_map, List.length_range] at hlen
  omega

/-- Settles O48: the search of R54, and the handle's two fields. -/
theorem handleNumbersAreFresh : Obligations.HandleNumbersAreFresh := by
  intro s h dead opcode cmd phase hn hq hq' ho
  obtain ⟨hrange, hfree⟩ := nextSeq_free hn hq hq'
  refine ⟨hrange, fun o ho he => hfree (List.mem_map.mpr ⟨o, ho, he⟩), ?_, ?_, ?_⟩
  · simp only [newHandle, fld]; omega
  · simp only [newHandle, fld]; omega
  · simp [openHandle]

end Sys2Proof.Machine
end

section
/-! SUPPORT. Completion records (02 R46, R50): which records of a ring are written and which wait, and how an emission, a write and
the draining of a ring change them. -/

namespace Sys2Proof.Machine

/-- The records of ring `n` that are written. -/
def writtenTo (n : Nat) (s : State) : List Record := s.out.reverse.filterMap (recordTo n)

/-- The records of ring `n` that wait for it. -/
def waitingAt (n : Nat) (s : State) : List Record := (getRing s n).outbox.map (·.1)

theorem ringRecords_eq (n : Nat) (s : State) : ringRecords n s = writtenTo n s ++ waitingAt n s := rfl

theorem writtenTo_emit (m : Nat) (o : Out) (s : State) :
    writtenTo m (emit o s) = writtenTo m s ++ (recordTo m o).toList := by
  cases h : recordTo m o <;> simp [writtenTo, emit, h]

theorem writtenTo_setRing (m n : Nat) (g : Ring) (s : State) : writtenTo m (setRing n g s) = writtenTo m s := rfl

theorem waitingAt_setRing_same (n : Nat) (g : Ring) (s : State) : waitingAt n (setRing n g s) = g.outbox.map (·.1) := by
  simp [waitingAt]

theorem waitingAt_setRing_ne {m n : Nat} (h : m ≠ n) (g : Ring) (s : State) : waitingAt m (setRing n g s) = waitingAt m s := by
  simp [waitingAt, h]

/-- A ring that keeps its waiting records keeps those of every ring. -/
theorem waitingAt_setRing_of_outbox {n : Nat} {g : Ring} {s : State} (h : g.outbox = (getRing s n).outbox) (m : Nat) :
    waitingAt m (setRing n g s) = waitingAt m s := by
  by_cases hm : m = n
  · rw [hm, waitingAt_setRing_same, h, waitingAt]
  · exact waitingAt_setRing_ne hm g s

/-- An interrupt writes no completion record. -/
theorem writtenTo_fireVector (m v : Nat) (s : State) : writtenTo m (fireVector v s) = writtenTo m s := by
  unfold fireVector
  split
  · rfl
  · split
    · rfl
    · rw [writtenTo_emit]; exact List.append_nil _

theorem waitingAt_fireVector (m v : Nat) (s : State) : waitingAt m (fireVector v s) = waitingAt m s := by
  unfold fireVector
  split
  · rfl
  · split <;> rfl

/-- A record that is put is written to its ring, and to no other. -/
theorem writtenTo_putRecord (m n : Nat) (r : Record) (fires : Bool) (s : State) :
    writtenTo m (putRecord n r fires s) = writtenTo m s ++ if m = n then [r] else [] := by
  have hfire (u : State) : writtenTo m (if fires then fireVector n u else u) = writtenTo m u := by
    split
    · exact writtenTo_fireVector m n u
    · rfl
  have hrec (at' : Nat) : (recordTo m (.completion n at' r)).toList = if m = n then [r] else [] := by
    by_cases hm : m = n
    · simp [recordTo, hm]
    · simp [recordTo, hm, Ne.symm hm]
  simp only [putRecord]
  rw [hfire, writtenTo_emit, writtenTo_emit, hrec, writtenTo_setRing]
  exact List.append_nil _

/-- A record that is put leaves those that wait. -/
theorem waitingAt_putRecord (m n : Nat) (r : Record) (fires : Bool) (s : State) :
    waitingAt m (putRecord n r fires s) = waitingAt m s := by
  have hkeep := waitingAt_setRing_of_outbox (n := n) (s := s) (g := { getRing s n with
    cqTail := ((getRing s n).cqTail + 1) % 2 ^ (getRing s n).cqLog2
    cqCount := ((getRing s n).cqCount + 1) % 2 ^ 32 }) rfl m
  cases fires
  · exact hkeep
  · exact (waitingAt_fireVector m n _).trans hkeep

/-- A record that is written to its ring, or waits for it, comes after those of that ring before it. -/
theorem ringRecords_writeRecord (m n : Nat) (r : Record) (fires : Bool) (s : State) :
    ringRecords m (writeRecord (.ring n) r fires s) = ringRecords m s ++ if m = n then [r] else [] := by
  simp only [writeRecord, ringRecords_eq]
  split
  · next htakes =>
    have hnone (hm : m = n) : waitingAt m s = [] := by
      simp only [Bool.and_eq_true, List.isEmpty_iff] at htakes
      rw [hm, waitingAt, htakes.2, List.map_nil]
    rw [writtenTo_putRecord, waitingAt_putRecord]
    by_cases hm : m = n
    · simp [hnone hm]
    · simp [hm]
  · rw [writtenTo_setRing]
    by_cases hm : m = n
    · simp [hm, waitingAt]
    · simp [hm, waitingAt_setRing_ne hm]

/-- Draining a ring writes its oldest waiting record and takes it from those that wait. -/
theorem ringRecords_drain_one {m n : Nat} {r : Record} {fires : Bool} {rest : List (Record × Bool)} {s : State}
    (h : (getRing s n).outbox = (r, fires) :: rest) :
    ringRecords m (putRecord n r fires (setRing n { getRing s n with outbox := rest } s)) = ringRecords m s := by
  rw [ringRecords_eq, writtenTo_putRecord, waitingAt_putRecord, writtenTo_setRing, ringRecords_eq]
  by_cases hm : m = n
  · simp [hm, waitingAt, h]
  · simp [hm, waitingAt_setRing_ne hm]

theorem ringRecords_drainRing (m n fuel : Nat) (s : State) : ringRecords m (drainRing n fuel s) = ringRecords m s := by
  induction fuel generalizing s with
  | zero => rfl
  | succ fuel ih =>
    simp only [drainRing]
    split
    · next r fires rest h =>
      split
      · rw [ih, ringRecords_drain_one h]
      · rfl
    · rfl

/-- Settles O49: what a write and the draining of a ring do to the records of each ring. -/
theorem recordsAreNeverDropped : Obligations.RecordsAreNeverDropped := by
  refine ⟨fun n r fires s => ⟨?_, fun m hm => ?_⟩, fun n fuel s m => ringRecords_drainRing m n fuel s, fun r fires s => rfl⟩
  · rw [ringRecords_writeRecord, if_pos rfl]
  · rw [ringRecords_writeRecord, if_neg hm, List.append_nil]

end Sys2Proof.Machine
end

section
/-! SUPPORT. The pointers of a notice queue (02 R69), operation by operation. -/

namespace Sys2Proof.Machine

/-- Producing into a queue that holds 1,024 entries overwrites the oldest. -/
theorem produce_of_full {n : Nq} (e now : Nat) (h : n.w - n.l = 1024) : n.produce e now =
    { n with w := n.w + 1, l := n.l + 1, r := if n.r < n.l + 1 then n.l + 1 else n.r, lost := satAdd48 n.lost 1,
             markLost := n.markLost || (n.markValid && decide (n.m < n.l + 1)), held := n.held.drop 1 ++ [e],
             timer := if n.r == n.w then some now else n.timer } := by
  simp [Nq.produce, h]

/-- Producing into a queue with room adds the entry. -/
theorem produce_of_room {n : Nq} (e now : Nat) (h : n.w - n.l ≠ 1024) (hr : n.l ≤ n.r) : n.produce e now =
    { n with w := n.w + 1, held := n.held ++ [e], timer := if n.r == n.w then some now else n.timer } := by
  simp [Nq.produce, h, Nat.not_lt.mpr hr]

/-- A pop from a queue with an unread entry. -/
theorem pop_of_unread {n : Nq} (now : Nat) (h : n.r ≠ n.w) : n.pop now = (n.held.getD (n.r - n.l) 0,
    { n with r := n.r + 1, timer := if n.r + 1 == n.w then none else some now, firedTimeout := false }.settle) := by
  simp [Nq.pop, h]

/-- A rewind to a mark that holds. -/
theorem rewind_of_marked {n : Nq} (now : Nat) (hv : n.markValid = true) (hl : n.markLost = false) : n.rewind now =
    ({ n with r := n.m, timer := if n.r == n.w && n.m != n.w then some now else n.timer }, true) := by
  simp [Nq.rewind, hv, hl]

/-- A release of entries that have been read. -/
theorem release_of_read {n : Nq} {k : Nat} (hk : 0 < k) (hr : k ≤ n.r - n.l) : n.release k =
    ({ n with l := n.l + k, held := n.held.drop k, markValid := n.markValid && decide (n.l + k ≤ n.m) }, true) := by
  simp [Nq.release, Nat.pos_iff_ne_zero.mp hk, Nat.not_lt.mpr hr]

/-- A release of no count releases every entry that has been read. -/
theorem release_zero {n : Nq} (h : n.l ≤ n.r) : n.release 0 =
    ({ n with l := n.r, held := n.held.drop (n.r - n.l), markValid := n.markValid && decide (n.r ≤ n.m) }, true) := by
  simp [Nq.release, Nat.add_sub_cancel' h]

/-- Settles O53: each operation on the pointers. -/
theorem noticeQueuePointers : Obligations.NoticeQueuePointers := by
  rintro n e now k ⟨hlr, -, -, -, -, -⟩
  refine ⟨fun hf => ?full, fun hf => ?room, fun hr => ?empty, fun hr => ?unread, rfl, fun hv => ?unmarked,
    fun hv hl => ?lost, fun hv hl => ?marked, fun hk => ?tooMany, fun hk hr => release_of_read hk hr, release_zero hlr⟩
  case full => rw [produce_of_full e now hf]; exact ⟨rfl, rfl, rfl, rfl, rfl, rfl, rfl, rfl⟩
  case room => rw [produce_of_room e now hf hlr]; exact ⟨rfl, rfl, rfl, rfl, rfl, rfl, rfl, rfl⟩
  case empty => simp [Nq.pop, hr]
  case unread => rw [pop_of_unread now hr]; exact ⟨rfl, rfl, rfl, rfl, rfl, rfl, rfl, rfl⟩
  case unmarked => simp [Nq.rewind, hv]
  case lost => simp [Nq.rewind, hv, hl]
  case marked => rw [rewind_of_marked now hv hl]; exact ⟨rfl, rfl, rfl, rfl, rfl, rfl, hv, hl⟩
  case tooMany => simp [Nq.release, Nat.ne_zero_of_lt hk, hk]

end Sys2Proof.Machine
end

section
/-! SUPPORT. An undefined opcode (02 R51): the arbiter gives the turn to one source at a time (02 R47), so that the head dropped is the
head of the source whose turn it is. -/

namespace Sys2Proof.Machine

/-- The ring from 1 to 15 that the arbiter serves where ring 0 and the mailbox are not ready: the ring in turn while it has
commands of its WEIGHT left, else the next ready one. -/
def ringInTurn (s : State) : Option Nat :=
  if ringReady s s.hi.turn && s.hi.turnUsed ≤ (getRing s s.hi.turn).sqWeight then some s.hi.turn
  else ((List.range 15).map (fun i => 1 + (s.hi.turn + i) % 15)).find? (ringReady s)

/-- A ring after ring 0 has its turn only where no source of priority is ready and the arbiter serves that ring. -/
theorem turnOf_ring_succ {s : State} {n : Nat} (h : turnOf s (.ring (n + 1)) = true) :
    ringReady s 0 = false ∧ mbReady s = false ∧ ringInTurn s = some (n + 1) := by
  simp only [turnOf, Bool.and_eq_true, Bool.not_eq_true'] at h
  obtain ⟨⟨h0, hm⟩, hc⟩ := h
  refine ⟨h0, hm, ?_⟩
  unfold ringInTurn
  split at hc
  · next hopen => rw [if_pos (by simpa using hopen), beq_iff_eq.mp hc]
  · next hopen => rw [if_neg (by simpa using hopen), ← beq_iff_eq.mp hc]

/-- The mailbox and ring 0 alternate where both are ready. -/
theorem not_turnOf_ring_zero {s : State} (hm : mbReady s = true) (h0 : ringReady s 0 = true)
    (ht : turnOf s .mailbox = true) : turnOf s (.ring 0) = false := by
  simp only [turnOf, h0, Bool.not_true, Bool.false_or] at ht
  simp [turnOf, hm, ht]

/-- Two sources that are ready and have their turn are one. -/
theorem source_of_turn_unique {s : State} {a b : Src} (ha : sourceReady s a = true) (hta : turnOf s a = true)
    (hb : sourceReady s b = true) (htb : turnOf s b = true) : a = b := by
  match a, b with
  | .mailbox, .mailbox => rfl
  | .mailbox, .ring 0 => exact absurd htb (Bool.eq_false_iff.mp (not_turnOf_ring_zero ha hb hta))
  | .ring 0, .mailbox => exact absurd hta (Bool.eq_false_iff.mp (not_turnOf_ring_zero hb ha htb))
  | .ring 0, .ring 0 => rfl
  | .mailbox, .ring (n + 1) =>
    obtain ⟨-, hm, -⟩ := turnOf_ring_succ htb
    exact absurd ha (Bool.eq_false_iff.mp hm)
  | .ring (n + 1), .mailbox =>
    obtain ⟨-, hm, -⟩ := turnOf_ring_succ hta
    exact absurd hb (Bool.eq_false_iff.mp hm)
  | .ring 0, .ring (n + 1) =>
    obtain ⟨h0, -, -⟩ := turnOf_ring_succ htb
    exact absurd ha (Bool.eq_false_iff.mp h0)
  | .ring (n + 1), .ring 0 =>
    obtain ⟨h0, -, -⟩ := turnOf_ring_succ hta
    exact absurd hb (Bool.eq_false_iff.mp h0)
  | .ring (m + 1), .ring (n + 1) =>
    obtain ⟨-, -, hma⟩ := turnOf_ring_succ hta
    obtain ⟨-, -, hnb⟩ := turnOf_ring_succ htb
    rw [Option.some.inj (hma.symm.trans hnb)]

/-- The search for an undefined head meets the source whose turn it is. -/
theorem find_undefinedHead {s : State} {src : Src} (hw : src.wf = true) (hu : undefinedHead s src = true) :
    (Src.mailbox :: (List.range 16).map Src.ring).find? (undefinedHead s) = some src := by
  have hmem : src ∈ Src.mailbox :: (List.range 16).map Src.ring := by
    cases src with
    | mailbox => exact List.mem_cons_self
    | ring n => exact List.mem_cons_of_mem _ (List.mem_map_of_mem (List.mem_range.mpr (of_decide_eq_true hw)))
  obtain ⟨found, hfound⟩ := Option.isSome_iff_exists.mp (List.find?_isSome.mpr ⟨src, hmem, hu⟩)
  have hfu := List.find?_some hfound
  simp only [undefinedHead, Bool.and_eq_true] at hu hfu
  obtain ⟨⟨hready, hturn⟩, -⟩ := hu
  obtain ⟨⟨hready', hturn'⟩, -⟩ := hfu
  rw [hfound, source_of_turn_unique hready' hturn' hready hturn]

/-- Settles O3: the idle step drops that head. -/
theorem undefinedOpcodesCompleteBadOpcode : Obligations.UndefinedOpcodesCompleteBadOpcode := by
  intro s src p hq hm hw hu hp
  simp only [step, hq, idleStep, dropUndefined, beq_iff_eq, hm, ↓reduceIte, find_undefinedHead hw hu, hp]

end Sys2Proof.Machine
end

section
/-! SUPPORT. Reset values (02 R40) and the pads in BOOT and while they are held (14 R457, R476). -/

namespace Sys2Proof.Machine

/-- HI_LSW at reset shows BOOT and TQ INVALID, and nothing else. -/
theorem lsw_reset : lsw State.reset = 7 * 2 ^ 26 := by decide

/-- Every ring pair at reset is as `Ring.reset`. -/
theorem getRing_reset (n : Nat) : getRing State.reset n = Ring.reset := rfl

/-- Every notice queue at reset is as `Nq.reset`. -/
theorem getNq_reset (q : Nat) : getNq State.reset q = Nq.reset := rfl

/-- The transmitters are idle where each port is. -/
theorem pads_portIdle_of_forall {s : State} (h : ∀ p, portIdle s p = true) : (pads s).portIdle = List.replicate 5 true :=
  (List.map_congr_left (fun p _ => h p)).trans (List.map_const' ..)

/-- In BOOT the outputs that no hold keeps are 0. -/
theorem pads_of_boot {s : State} (hm : s.pm.mode = .boot) :
    (pads s).alm = 0 ∧ (pads s).almStb = false ∧ (pads s).xtrigOut = 0 ∧ (pads s).ppsOut = false ∧
      (pads s).portIdle = List.replicate 5 true ∧ (s.pm.holdAnchor = false → (pads s).pulse = 0 ∧ (pads s).sdClk = false) := by
  refine ⟨by simp [pads, hm], by simp [pads, hm], by simp [pads, hm], by simp [pads, hm],
    pads_portIdle_of_forall (fun p => by simp [portIdle, hm]), fun hh => ?_⟩
  have hlow : anchorPads s = 0 := by simp [anchorPads, hh, hm]
  exact ⟨by simp [pads, hlow], by simp [pads, hlow, bit]⟩

/-- Settles O5: the reset state's fields, and the pads in BOOT and while they are held. -/
theorem resetValues : Obligations.ResetValues := by
  refine ⟨lsw_reset, rfl, rfl, rfl, rfl, rfl, rfl, rfl, rfl, rfl, fun n => ?rings, fun q => ?queues, fun a => rfl, rfl, rfl, rfl,
    rfl, fun s => ⟨pads_of_boot, fun hh => ?ports, fun hh => ?anchor⟩⟩
  case rings => rw [getRing_reset]; exact ⟨rfl, rfl, rfl, rfl⟩
  case queues => rw [getNq_reset]; exact ⟨rfl, rfl, rfl⟩
  case ports => exact pads_portIdle_of_forall (fun p => by simp [portIdle, hh])
  case anchor =>
    have hheld : anchorPads s = s.pm.heldPads := by simp [anchorPads, hh]
    exact ⟨by simp [pads, hheld], by simp [pads, hheld]⟩

end Sys2Proof.Machine
end

section
/-! SUPPORT. The events of rings, notice queues and FLR (02 R43 to R71, 03 R111). -/

namespace Sys2Proof.Machine

/-- A register of a block that has power takes its write where the device is not frozen. -/
theorem regWrite_of_on {off : Nat} {f : State → State} {s : State} (hm : s.pm.mode ≠ .frozen) (ho : regOn s off = true) :
    regWrite off f s = f s := by
  simp [regWrite, hm, ho]

/-- A write to a register of a ring or queue that exists. -/
theorem next_regWrite_of_on {lim n off : Nat} {f : State → State} {s : State} (hn : n < lim) (hm : s.pm.mode ≠ .frozen)
    (ho : regOn s off = true) :
    (.next (if lim ≤ n then s else regWrite off f s) : Host.Outcome State Fault Refusal) = .next (f s) := by
  rw [if_neg (Nat.not_le.mpr hn), regWrite_of_on hm ho]

/-- Settles O36: each event's branch under its conditions. -/
theorem hostEventsComplete : Obligations.HostEventsComplete := by
  intro s
  refine ⟨?fetch, ?fetchFault, ?fence, ?sqDb, ?cqDb, ?sqCfg, ?cqCfg, ?pop, ?nqCfg, ?timeout, ?ptDb, ?ptCfg, fun perst => rfl⟩
  case fetch =>
    intro ring p hr hf hm
    change execCommandFetch ring p true s = _
    simp [execCommandFetch, Nat.not_le.mpr hr, hf, hm]
  case fetchFault =>
    intro ring p hr hf hm
    change execCommandFetch ring p false s = _
    simp [execCommandFetch, Nat.not_le.mpr hr, hf, hm]
  case fence =>
    intro ring f rest hn hr hf hm
    change execFenceRelease ring s = _
    simp [execFenceRelease, hn, hr, hf, hm]
  case sqDb => exact fun ring tail hr hm ho => next_regWrite_of_on hr hm ho
  case cqDb => exact fun ring head hr hm ho => next_regWrite_of_on hr hm ho
  case sqCfg => exact fun ring value hr hm ho => next_regWrite_of_on hr hm ho
  case cqCfg => exact fun ring value hr hm ho => next_regWrite_of_on hr hm ho
  case pop =>
    intro q hq hm
    change execHiNqPopRead q 8 true s = _
    simp [execHiNqPopRead, Nat.not_le.mpr hq, hm, popRead]
  case nqCfg => exact fun q value hq hm ho => next_regWrite_of_on hq hm ho
  case timeout =>
    intro q hq hm ht
    change execNqTimeout q s = _
    simp [execNqTimeout, Nat.not_le.mpr hq, hm, ht]
  case ptDb => exact fun rx k tail hk hm ho => next_regWrite_of_on hk hm ho
  case ptCfg => exact fun rx k value hk hm ho => next_regWrite_of_on hk hm ho

end Sys2Proof.Machine
end

section
/-! SUPPORT. What a command leaves that its own work refuses (02 R52). -/

namespace Sys2Proof.Machine

/-- Where the body answers a refusal, it has left nothing but the count of revoked keys. -/
def LeavesNoTrace (body : State → Reply) : Prop :=
  ∀ v : State, 0x10 ≤ (body v).status → (body v).status ≤ 0x51 →
    (body v).state = v ∨ (body v).state = countRevoked (body v).status v

/-- Where the work of a command refuses it, nothing is left but the count of revoked keys. -/
def Work.LeavesNoTrace : Work → Prop
  | .done body _ => Machine.LeavesNoTrace body
  | .accepted _ first _ missed => ∀ v : State, first v ≠ 0 → missed v = v ∨ missed v = countRevoked (first v) v

/-- A body that answers status 0 or keeps the state. -/
theorem leavesNoTrace_of_kept {body : State → Reply} (h : ∀ v, (body v).status = 0 ∨ (body v).state = v) :
    LeavesNoTrace body :=
  fun v hlo _ => .inl ((h v).resolve_left (fun h0 => absurd (h0 ▸ hlo) (by decide)))

/-- A body that always completes DONE. -/
theorem leavesNoTrace_of_done {body : State → Reply} (h : ∀ v, (body v).status = 0) : LeavesNoTrace body :=
  leavesNoTrace_of_kept (fun v => .inl (h v))

/-- A body that a condition refuses and that completes DONE otherwise. -/
theorem leavesNoTrace_refuseIf {bad : State → Bool} {st : State → Nat} {body : State → Reply} (h : ∀ v, (body v).status = 0) :
    LeavesNoTrace (fun v => refuseIf (bad v) (st v) body v) := by
  refine leavesNoTrace_of_kept (fun v => ?_)
  simp only [refuseIf]
  split
  · exact .inr rfl
  · exact .inl (h v)

/-- A body that a status refuses, counting a revoked key, and that completes DONE otherwise. -/
theorem leavesNoTrace_countRevoked {st : State → Nat} {done : State → Reply} (h : ∀ v, (done v).status = 0) :
    LeavesNoTrace (fun v => if st v != 0 then ⟨st v, [], countRevoked (st v) v⟩ else done v) := by
  intro v hlo _
  by_cases hst : (st v != 0) = true
  · dsimp only
    rw [if_pos hst]
    exact .inr rfl
  · simp only [hst] at hlo
    exact absurd (h v ▸ hlo) (by decide)

/-- A choice of two replies that each answer status 0 or keep the state. -/
theorem ite_kept {c : Prop} [Decidable c] {a b : Reply} {v : State} (ha : a.status = 0 ∨ a.state = v)
    (hb : b.status = 0 ∨ b.state = v) : (if c then a else b).status = 0 ∨ (if c then a else b).state = v := by
  split
  · exact ha
  · exact hb

/-- SYS.QUERY_HANDLE of a handle that is not outstanding. -/
theorem queryHandle_kept (handle : Nat) (v : State) :
    (queryHandle handle v).status = 0 ∨ (queryHandle handle v).state = v := by
  unfold queryHandle
  split
  · exact .inl rfl
  · exact .inr rfl

/-- SYS.NQ_RELEASE of more entries than have been read. -/
theorem releaseNq_kept (q k : Nat) (v : State) : (releaseNq q k v).status = 0 ∨ (releaseNq q k v).state = v :=
  ite_kept (.inl rfl) (.inr rfl)

/-- CARAVAN.QUERY_JOB of a graph that is not defined. -/
theorem jobAnswer_kept (job : Nat) (v : State) : (jobAnswer job v).status = 0 ∨ (jobAnswer job v).state = v := by
  unfold jobAnswer
  split
  · exact .inr rfl
  · exact .inl rfl

/-- SYS.SET_MODE: to its own mode it completes DONE, else it starts an operation. -/
theorem sysSetMode_leavesNoTrace (h : Hdr) (target : Nat) (s : State) : (procSysSetMode h target s).work.LeavesNoTrace := by
  by_cases ht : atTarget target s = true
  · rw [procSysSetMode_of_atTarget ht]
    exact leavesNoTrace_of_done (fun _ => rfl)
  · simp only [procSysSetMode, ht]
    exact fun v _ => .inl rfl

/-- SYS.CANCEL that cancels nothing leaves only what it notes of the operation's progress. -/
theorem cancelHandle_refused {handle : Nat} {v : State} (h : (cancelHandle handle v).status ≠ 0) :
    (cancelHandle handle v).state = v ∨ (cancelHandle handle v).state = lookAt handle v := by
  revert h
  unfold cancelHandle
  split
  · exact fun _ => .inl rfl
  · dsimp only
    split
    · exact fun _ => .inr rfl
    · exact fun h => absurd rfl h

/-- Every host command but SYS.NQ_REWIND, CARAVAN.RUN and SYS.CANCEL. -/
theorem procOf_leavesNoTrace {c : Instr} {s : State} {p : Proc} (hp : procOf c s = some p)
    (hrewind : ∀ h q, c ≠ .sysNqRewind h q) (hrun : ∀ h j a, c ≠ .caravanRun h j a) (hcancel : ∀ h k, c ≠ .sysCancel h k) :
    p.work.LeavesNoTrace := by
  cases c with
  | streamQuery | streamClearCounters | groupQuery | groupClearCounters | caravanQueryEngine | caravanClearCounters |
    timeConfig | timeSource | timePpsConfig | timePortLatency | timeRead | timeCmpArm | timeCmpDisarm | timeCmpQuery |
    timeHoldoverTest | timeStatus | timeClearCounters | topoQuery | topoClearCounters | oscQuery | oscClearCounters |
    alarmRuleQuery | alarmLineConfig | alarmAck | alarmXtrigConfig | alarmClearCounters | acqTrigger | acqQuery |
    acqGconfig | acqClearCounters | logSpoolSeek | logWrite | logFaultClear | logMacroQuery | logClearCounters |
    meterSensorTemp | meterEnergyRead | meterPulseConfig | meterConfig | meterQuery | meterClearCounters | portSetExact |
    portSetHash | portSetVlan | portSetIntake | portSetPtMap | portMacsecCfg | portGateQuery | portLinkStatus |
    portClearCounters | powerConfig | powerQuery | powerRefConfig | powerClearCounters | sysNop | sysIdentify | sysFreeze
    | sysReset | sysNqMark | sysClearCounters | vaultStatus | vaultTamperClear | vaultTamperConfig | vaultDebug |
    vaultClearCounters | cfgQuery =>
    obtain rfl := Option.some.inj hp
    exact leavesNoTrace_of_done (fun _ => rfl)
  | streamRemove | streamRelease | streamSetTimers | streamGconfig | groupDelete | groupSessionDelete | groupSessionEnable
    | groupGconfig | caravanJobDelete | timeSet | timeUtcOffset | topoConfig | topoCutsetDefine | topoCutsetDelete |
    topoBranchForce | oscConfig | oscSignalDelete | oscGroupDelete | oscRestart | alarmRuleDefine | alarmRuleEnable |
    alarmRuleDelete | alarmForce | acqEnable | acqDelete | logConfig | logInject | meterChannelConfig | meterCalibrate |
    meterElementDefine | meterElementEnable | meterEnergyPreset | meterVstreamRemove | meterBallastDefine | portPrpPair |
    portSaActivate | portSaDestroy | powerPadRelease | sysThaw | vaultOwnerLoad | vaultSlotQuery | cfgDiscard =>
    obtain rfl := Option.some.inj hp
    exact leavesNoTrace_refuseIf (fun _ => rfl)
  | streamRekey | portSaInstall =>
    obtain rfl := Option.some.inj hp
    exact leavesNoTrace_countRevoked (fun _ => rfl)
  | streamList | groupDefine | groupMembers | groupSetTiming | groupSessionDefine | groupReadCell | caravanJobDefine |
    caravanJobBind | caravanLevelConfig | caravanEngineRetire | caravanEngineRestore | timePtpConfig | timeMainRetest |
    topoModelLoad | topoRefactor | topoReadResult | oscSignalDefine | oscGroupDefine | oscReadBands | oscReadModes |
    acqChannelDefine | acqRingDefine | logRead | logFlush | meterEnergySigned | meterVstreamDefine | meterSave |
    portConfig | portGateLoad | powerDoze | powerWake | powerRefSwitch | vaultLifecycle | vaultRootGenerate |
    vaultGenerate | vaultAttest | cfgLoad | cfgCommit | cfgReport | cfgStore =>
    obtain rfl := Option.some.inj hp
    exact fun _ _ => .inl rfl
  | streamInstall | vaultDerive | vaultImport | vaultSeal | vaultExport =>
    obtain rfl := Option.some.inj hp
    exact fun _ _ => .inr rfl
  | sysQueryHandle h handle =>
    obtain rfl := Option.some.inj hp
    exact leavesNoTrace_of_kept (queryHandle_kept handle)
  | sysNqRelease h q k =>
    obtain rfl := Option.some.inj hp
    exact leavesNoTrace_of_kept (releaseNq_kept q k)
  | caravanQueryJob h job =>
    obtain rfl := Option.some.inj hp
    exact leavesNoTrace_of_kept (jobAnswer_kept job)
  | vaultDestroy h slot =>
    obtain rfl := Option.some.inj hp
    exact leavesNoTrace_of_kept (fun _ => ite_kept (.inl rfl) (.inr rfl))
  | vaultRandom h n =>
    obtain rfl := Option.some.inj hp
    exact leavesNoTrace_of_kept (fun _ => ite_kept (.inr rfl) (.inl rfl))
  | sysSetMode h target =>
    obtain rfl := Option.some.inj hp
    exact sysSetMode_leavesNoTrace h target s
  | sysNqRewind h q => exact absurd rfl (hrewind h q)
  | caravanRun h job arg => exact absurd rfl (hrun h job arg)
  | sysCancel h handle => exact absurd rfl (hcancel h handle)
  | _ => exact nomatch (show none = some p from hp)

/-- Settles O45: SYS.CANCEL that cancels nothing, and the work of every other host command. -/
theorem refusedCommandsLeaveNoTrace : Obligations.RefusedCommandsLeaveNoTrace := by
  refine ⟨fun handle v h => cancelHandle_refused h, fun c s p hp hrewind hrun hcancel => ?_⟩
  have hclean := procOf_leavesNoTrace hp hrewind hrun hcancel
  refine ⟨fun body after hw => ?_, fun phase first start missed hw => ?_⟩
  · rw [hw] at hclean
    exact hclean
  · rw [hw] at hclean
    exact hclean

end Sys2Proof.Machine
end

section
/-! SUPPORT. The events of the network ports (03 R85 to R114): each acts by its rule once what it asks of the device, its port
or its ring holds. -/

namespace Sys2Proof.Machine

/-- The due list that PORT.GATE_LOAD left pending becomes operative before one of CFG.COMMIT (R107). -/
theorem execGateOperative_of_pending {port k : Nat} {load : Int} {g : GateP} {s : State}
    (hg : (getPort s port).gatePend = some (g, k, load)) (hr : portsRun s = true)
    (hd : operativeAt g load ≤ ratNs (busTime s)) :
    execGateOperative port s = .next (operatePending port g k s) := by
  have hdue : gateDue s g load = true := decide_eq_true hd
  simp [execGateOperative, hr, hg, hdue, Option.filter_some]

/-- With nothing pending of PORT.GATE_LOAD, the due list of CFG.COMMIT becomes operative (R107). -/
theorem execGateOperative_of_next {port : Nat} {load : Int} {g : GateP} {s : State} (hp : (getPort s port).gatePend = none)
    (hg : (getPort s port).gateNext = some (g, load)) (hr : portsRun s = true) (hd : operativeAt g load ≤ ratNs (busTime s)) :
    execGateOperative port s = .next (putGate port g (updPort port (fun t => { t with gateNext := none }) s)) := by
  have hdue : gateDue s g load = true := decide_eq_true hd
  simp [execGateOperative, hr, hp, hg, hdue, Option.filter_some]

/-- The queue that sends first starts on a port that is up and whose line is free (R104). -/
theorem execTxFrameStart_of_sendingQueue {port queue : Nat} (sub : Nat) {s : State} (hp : port < 5) (hr : portsRun s = true)
    (hl : (getPort s port).linkUp = true) (hu : (getPort s port).txUntil ≤ fineTime s)
    (hq : sendingQueue s port = some queue) :
    execTxFrameStart port ⟨queue, sub⟩ s = .next (startFrame port queue sub s) := by
  simp [execTxFrameStart, Nat.not_le.mpr hp, hr, hl, Nat.not_lt.mpr hu, hq]

/-- A port that runs with its link up receives the frame (R85). -/
theorem arrive_of_runs {port : Nat} (a : Arrival) {s : State} (hp : port < 5) (hr : portsRun s = true)
    (hl : (getPort s port).linkUp = true) :
    arrive port a s = receive port a.frame (ingressStamp s port a.stamp) (countLine port a.errs s) :=
  if_neg (by simp [hp, hr, hl])

/-- The two copies on a pair's ports, named by the lower one: LAN A first (R95). -/
theorem execRxFrame_twin_lower (n : Nat) (a b : Arrival) (s : State) :
    execRxFrame (2 * n) a (some b) s = .next (arrive (2 * n + 1) b (arrive (2 * n) a s)) :=
  congrArg _ (if_pos (by simp))

/-- The two copies on a pair's ports, named by the upper one: LAN A first all the same (R95). -/
theorem execRxFrame_twin_upper (n : Nat) (a b : Arrival) (s : State) :
    execRxFrame (2 * n + 1) a (some b) s = .next (arrive (2 * n + 1) a (arrive (2 * n) b s)) :=
  congrArg _ (if_neg (by simp [Nat.add_mod]))

/-- The head frame of a receive ring takes the descriptors posted for it (R112). -/
theorem execPtFrameDelivery_of_posted {k : Nat} {x : PtFrame} {rest : List PtFrame} {s : State}
    (hw : (getRxRing s k).waiting = x :: rest) (hk : k < 8) (hr : portsRun s = true)
    (hn : (getRxRing s k).needs x.len ≤ (getRxRing s k).posted) :
    execPtFrameDelivery k s = .next (ptArrival k (freePt x (setRxRing k
      { getRxRing s k with waiting := rest,
                           head := ((getRxRing s k).head + (getRxRing s k).needs x.len) % 2 ^ (getRxRing s k).log2,
                           completed := ((getRxRing s k).completed + 1) % 2 ^ 24 }
      (emit (.ptFrame k x.len (ptDescs (getRxRing s k) x)) s)))) := by
  simp [execPtFrameDelivery, hw, Nat.not_le.mpr hk, hr, Nat.not_lt.mpr hn]

/-- The head frame of a receive ring that has waited 100 us for descriptors is discarded (R113). -/
theorem execPtDescriptorTimeout_of_due {k : Nat} {x : PtFrame} {rest : List PtFrame} {s : State}
    (hw : (getRxRing s k).waiting = x :: rest) (hm : s.pm.mode ≠ .frozen)
    (hn : (getRxRing s k).posted < (getRxRing s k).needs x.len) (ht : x.stored + countsOfUs 100 ≤ s.tm.frc) :
    execPtDescriptorTimeout k s =
      .next (count (portCtr x.port 0x040) (freePt x (setRxRing k { getRxRing s k with waiting := rest } s))) := by
  simp [execPtDescriptorTimeout, hw, hm, Nat.not_le.mpr hn, Nat.not_lt.mpr ht]

section
variable {k count : Nat} {s : State} (hk : k < 8) (hr : portsRun s = true) (hc : count ≠ 0)
  (hp : count ≤ (getTxRing s k).posted)
include hk hr hc hp

/-- A posted chain that is well formed and finds room on every port it goes to is sent (R114). -/
theorem execPtTxChainFetch_of_wellFormed {port queue prpMode : Nat} (clear : Bool) (f : HostFrame) (hport : port ≤ 4)
    (hq : queue ≤ 7) (hprp : prpMode < 3)
    (hroom : (txPorts s port prpMode).all (fun p => txRoom s p (max 64 (f.len + 4))) = true) :
    execPtTxChainFetch k port queue f prpMode count clear true s =
      .next (sendHost port queue (if clear = true ∨ isPtpKind f.ethertype f.udpDst = true ∨ f.ethertype = 0x888E then 3 else 2)
        (max 64 (f.len + 4)) prpMode (isPtpKind f.ethertype f.udpDst) [k, (getTxRing s k).head]
        (emit (.hostWrite ((getTxRing s k).base + 32 * (getTxRing s k).head + 10) (leBytes 2 (sopFlags count prpMode clear)))
          (setTxRing k { getTxRing s k with head := ((getTxRing s k).head + count) % 2 ^ (getTxRing s k).log2,
                                            completed := ((getTxRing s k).completed + 1) % 2 ^ 24 } s))) := by
  simp only [execPtTxChainFetch, hroom]
  simp [Nat.not_le.mpr hk, hr, hc, Nat.not_lt.mpr hp, Nat.not_lt.mpr hport, Nat.not_lt.mpr hq, Nat.not_le.mpr hprp, or_assoc]

/-- A posted chain that is not well formed stops its ring (R111, R114). -/
theorem execPtTxChainFetch_of_malformed (port queue prpMode : Nat) (clear : Bool) (f : HostFrame) :
    execPtTxChainFetch k port queue f prpMode count clear false s = .next (faultPtRing false k s) := by
  simp [execPtTxChainFetch, Nat.not_le.mpr hk, hr, hc, Nat.not_lt.mpr hp]

end

/-- A line without the FEC reports its PCS errors alone (R116). -/
theorem countLine_of_line_ne_three {port : Nat} (e : LineErr) {s : State} (h : (getPort s port).line ≠ 3) :
    countLine port e s = countN (portCtr port 0x0F8) e.pcs s := by
  simp [countLine, h]

/-- PCS lock without a fault brings up a link that is down, on a line without the FEC (R109). -/
theorem execLinkStateChange_of_up {port : Nat} (fecLock : Bool) (e : LineErr) {s : State} (hp : port < 5)
    (hr : portsRun s = true) (hh : s.pm.holdPorts = false) (hen : (getPort s port).en = true) (h0 : (getPort s port).line ≠ 0)
    (h3 : (getPort s port).line ≠ 3) (hl : (getPort s port).linkUp = false) :
    execLinkStateChange port true fecLock ⟨false, false⟩ e s = .next (note s.np.nq 1 0x01 0 port (updPort port (fun t =>
      { t with pcsLock := true, fecLock := false, localFault := false, remoteFault := false, linkUp := true, linkChg := true })
      (countN (portCtr port 0x0F8) e.pcs s))) := by
  have hfec : ((getPort s port).line == 3) = false := beq_eq_false_iff_ne.mpr h3
  simp [execLinkStateChange, Nat.not_le.mpr hp, hr, hh, hen, h0, h3, hfec, hl, countLine_of_line_ne_three e h3]

/-- Settles O27: each event's branch under its conditions. That the PRP supervision frame goes on queue 0 with 64 bytes is the
model's choice (log 33). -/
theorem networkEventsComplete : Obligations.NetworkEventsComplete := by
  intro s
  refine ⟨?boundary, ?pending, ?next, ?start, ?supervision, ?delivery, ?timeout, ?lost, ?forget, ?rx, ?lower, ?upper, ?fetch,
    ?malformed, ?link⟩
  case boundary => exact fun port hp hr => congrArg _ (if_pos (by simp [hp, hr]))
  case pending => exact fun port k load g => execGateOperative_of_pending
  case next => exact fun port load g => execGateOperative_of_next
  case start => exact fun port queue sub => execTxFrameStart_of_sendingQueue sub
  case supervision => exact fun pair hp hr hen ht => next_of_not_guard (by simp [hp, hr, hen, ht])
  case delivery => exact fun k x rest => execPtFrameDelivery_of_posted
  case timeout => exact fun k x rest => execPtDescriptorTimeout_of_due
  case lost => exact fun pair lan hp hr hl => next_of_not_guard (by simp [hp, hr, hl])
  case forget => exact fun pair src hp hm => next_of_not_guard (by simp [hp, hm])
  case rx => exact fun port a hp hr hl => congrArg _ (arrive_of_runs a hp hr hl)
  case lower => exact fun n a b _ => execRxFrame_twin_lower n a b s
  case upper => exact fun n a b _ => execRxFrame_twin_upper n a b s
  case fetch =>
    exact fun k port queue prpMode count clear f hk hr hc hp => execPtTxChainFetch_of_wellFormed hk hr hc hp clear f
  case malformed =>
    exact fun k port queue prpMode count clear f hk hr hc hp =>
      execPtTxChainFetch_of_malformed hk hr hc hp port queue prpMode clear f
  case link => exact fun port fecLock e => execLinkStateChange_of_up fecLock e

end Sys2Proof.Machine
end

section
/-! SUPPORT. The idle step (04 R121, R126; log entry 1). -/

namespace Sys2Proof.Machine

/-- With no undefined opcode due, the idle step has none to complete. -/
theorem dropUndefined_of_none {s : State} (h : ∀ src, undefinedHead s src = false) : dropUndefined s = s := by
  have hnone : (Src.mailbox :: (List.range 16).map Src.ring).find? (undefinedHead s) = none :=
    List.find?_eq_none.mpr fun src _ => Bool.eq_false_iff.mp (h src)
  simp only [dropUndefined, hnone, ite_self]

/-- An empty queue with no undefined opcode due lets one FRC count pass. -/
theorem step_of_empty {s : State} (hq : s.pending = []) (h : ∀ src, undefinedHead s src = false) :
    step s = .next (idle s) := by
  simp only [step, hq, idleStep, dropUndefined_of_none h]

/-- Settles O2: the step is `idle`, which counts where the clocks run. That an empty queue is one count is the model's choice
(log 1). -/
theorem idleCountsTheClock : Obligations.IdleCountsTheClock := by
  intro s hq hu
  rw [step_of_empty hq hu]
  refine ⟨fun hr => congrArg _ (if_pos hr), fun hr => congrArg _ (if_neg ?_)⟩
  simp [hr]

end Sys2Proof.Machine
end

section
/-! SUPPORT. Device time: its rate, its steps and its formats (04 R122 to R124). -/

namespace Sys2Proof.Machine

/-- Loading the fallback clock leaves the main path. -/
@[simp] theorem mainTime_loadFallback (s : State) : mainTime (loadFallback s) = mainTime s := rfl

/-- set_rate while the main path is not failed: RATE and the rebased OFFSET, then the load of the fallback clock (R124, R126). -/
theorem setRate_of_main {s : State} (hm : s.tm.mainFailed = false) (r : Nat) : setRate r s =
    loadFallback { s with tm := { s.tm with offset := s.tm.offset + s.tm.frc * ((s.tm.rate : Int) - r), rate := r } } :=
  if_neg (by simp [hm])

/-- A step while the main path is not failed: OFFSET, then the load of the fallback clock (R124, R126). -/
theorem moveTime_of_main {s : State} (hm : s.tm.mainFailed = false) (d : Int) :
    moveTime d s = loadFallback { s with tm := { s.tm with offset := s.tm.offset + d } } :=
  if_neg (by simp [hm])

/-- The rebased OFFSET takes up what the new RATE changes. -/
theorem mainTime_setRate {s : State} (hm : s.tm.mainFailed = false) (r : Nat) : mainTime (setRate r s) = mainTime s := by
  rw [setRate_of_main hm, mainTime_loadFallback]
  simp only [mainTime]
  rw [Int.mul_sub]
  omega

/-- A step moves device time by its amount. -/
theorem mainTime_moveTime {s : State} (hm : s.tm.mainFailed = false) (d : Int) :
    mainTime (moveTime d s) = mainTime s + d := by
  rw [moveTime_of_main hm, mainTime_loadFallback]
  exact Int.add_right_comm ..

/-- Settles O54: OFFSET, RATE and FRC of both, and device time under each. -/
theorem rateChangesKeepTime : Obligations.RateChangesKeepTime := by
  intro r d s hm
  refine ⟨?_, ?_, ?_, mainTime_setRate hm r, ?_, ?_, ?_, mainTime_moveTime hm d⟩
  · rw [setRate_of_main hm]; rfl
  · rw [setRate_of_main hm]; rfl
  · rw [setRate_of_main hm]; rfl
  · rw [moveTime_of_main hm]; rfl
  · rw [moveTime_of_main hm]; rfl
  · rw [moveTime_of_main hm]; rfl

/-- DT96 of a device time within the format, 2^-40 ns: ns_total is `t / 2^40`, and its seconds fit their 48 bits (R123). -/
theorem dt96Of_of_lt {t : Nat} (h : t < 2 ^ 48 * 1000000000 * 2 ^ 40) : dt96Of ((t : Int) / 2 ^ 24) =
    ⟨t / 2 ^ 40 / 1000000000, t / 2 ^ 40 % 1000000000, t / 2 ^ 24 % 2 ^ 16⟩ := by
  have hns : (t : Int) / 2 ^ 24 / 2 ^ 16 = (t / 2 ^ 40 : Nat) := by omega
  have hfit : t / 2 ^ 40 / 1000000000 < 2 ^ 48 := by omega
  simp only [dt96Of, hns, DT96.mk.injEq]
  refine ⟨?sec, ?ns, ?frac⟩
  case sec => omega
  case ns => omega
  case frac => omega

/-- Settles O55: DT80 is DT96 without its fraction. -/
theorem timesTruncate : Obligations.TimesTruncate := by
  intro t ht
  simp only [dt80Of, dt96Of_of_lt ht, and_self]

end Sys2Proof.Machine
end

section
/-! SUPPORT. The events of the time path (04 R127, R128, R144 to R153): each acts by its rule once what it asks of the device
and of Tether holds. -/

namespace Sys2Proof.Machine

/-- The primary source has been qualified without a break for REVERT_S (R146). -/
theorem execSourceRevert_of_due {since : Nat} {s : State} (hm : s.pm.mode ≠ .frozen) (hr : s.tm.tether.revertS ≠ 0)
    (hp : s.tm.tether.primary ≠ 0) (hf : s.tm.tether.follow ≠ 0) (hne : s.tm.tether.follow ≠ s.tm.tether.primary)
    (hrec : recentSource s s.tm.tether.primary = true)
    (hs : (tfind s.tm.tether.qualified s.tm.tether.primary).map (·.2) = some since)
    (hd : since + s.tm.tether.revertS * secCounts ≤ s.tm.frc) :
    execSourceRevert s = .next (switchSource s.tm.tether.primary s) := by
  obtain ⟨⟨last, _⟩, hq, rfl⟩ := Option.map_eq_some_iff.mp hs
  simp [execSourceRevert, hm, hr, hp, hf, hne, hrec, hq, hd]

section
variable {s : State} (hm : s.pm.mode ≠ .frozen) (he : edgeReady 4 s = true)
include hm he

/-- Fresh holdover of its age becomes aged (Table 4-4). -/
theorem execHoldoverAgeing_of_holdFresh (hq : s.tm.tether.tqServo = .holdFresh) (ha : s.tm.tether.p.freshS ≤ holdAge s) :
    execHoldoverAgeing s = .next (setClass .holdAged s) := by
  simp [execHoldoverAgeing, hm, he, hq, ha]

/-- Aged holdover of its age becomes FREERUN (Table 4-4). -/
theorem execHoldoverAgeing_of_holdAged (hq : s.tm.tether.tqServo = .holdAged) (ha : s.tm.tether.p.agedS ≤ holdAge s) :
    execHoldoverAgeing s = .next (setClass .freerun s) := by
  simp [execHoldoverAgeing, hm, he, hq, ha]

end

/-- On an edge at which HEARTBEAT advances the checker ends its interval, and compares the clocks unless the main path is failed
or under self-test (R127). -/
theorem execTimeCheckpoint_of_passed {s v : State}
    (hv : v = { s with tm := { s.tm with checkAt := s.tm.frc / 409600 * 409600, residue := false } })
    (hm : s.pm.mode ≠ .frozen) (ht : s.tm.frc / 409600 ≠ s.tm.checkAt / 409600) :
    execTimeCheckpoint s = .next (
      if s.tm.mainFailed || s.tm.selftest then v
      else if 4 * 2 ^ 40 < (clockDiff v).natAbs then
        startSelftest { v with tm := { v.tm with difference := clockDiff v / 2 ^ 40, byResidue := s.tm.residue } }
      else if s.tm.residue then v else loadFallback v) := by
  subst hv
  exact next_of_not_guard (by simp [hm, ht])

/-- A residue mismatch of a main path in use starts its self-test (R127). -/
theorem execResidueMismatch_of_main {s : State} (hm : s.pm.mode ≠ .frozen) (hf : s.tm.mainFailed = false)
    (ht : s.tm.selftest = false) : execResidueMismatch s =
      .next (startSelftest { s with tm := { s.tm with residue := true, byResidue := true } }) := by
  simp [execResidueMismatch, hm, hf, ht]

/-- The end of the self-test that runs: a fail, a transient, or the fallback clock at fault (R128). -/
theorem execTimeSelftestEnd_of_running {s : State} (pass : Bool) (hm : s.pm.mode ≠ .frozen) (ht : s.tm.selftest = true)
    (hr : s.tm.retest = none) : execTimeSelftestEnd pass s = .next (
      if !pass then failMain { s with tm := { s.tm with selftest := false } }
      else if s.tm.byResidue then count (tmCtr 0x058) { s with tm := { s.tm with selftest := false } }
      else tmNote 0x06 2 (arg32 s.tm.difference)
        (count (tmCtr 0x060) (loadFallback { s with tm := { s.tm with selftest := false } }))) :=
  next_of_not_guard (by simp [hm, ht, hr])

/-- Settles O25: each event's branch under its conditions. -/
theorem timeEventsComplete : Obligations.TimeEventsComplete := by
  intro s
  refine ⟨?fire, ?tick, ?revert, ?fresh, ?aged, ?save, ?leap, ?held, ?differ, ?agree, ?residue, ?failed, ?transient, ?fallback⟩
  case fire => exact fun cmp hc hd he ht => congrArg _ (if_pos (by simp [hc, hd, he, ht]))
  case tick => exact fun hm ht he => next_of_not_guard (by simp [hm, ht, he])
  case revert => exact fun since => execSourceRevert_of_due
  case fresh => exact execHoldoverAgeing_of_holdFresh
  case aged => exact execHoldoverAgeing_of_holdAged
  case save => exact fun hm hq hs => congrArg _ (if_pos (by simp [hm, hq, hs]))
  case leap => exact fun hm hl ht => next_of_not_guard (by simp [hm, hl, ht])
  case held =>
    intro v hv hm ht hf
    exact (execTimeCheckpoint_of_passed hv hm ht).trans (congrArg _ (if_pos (by simp [hf])))
  case differ =>
    intro v hv hm ht hf hst hd
    exact (execTimeCheckpoint_of_passed hv hm ht).trans (congrArg _ ((if_neg (by simp [hf, hst])).trans (if_pos hd)))
  case agree =>
    intro v hv hm ht hf hst hd
    exact (execTimeCheckpoint_of_passed hv hm ht).trans (congrArg _ ((if_neg (by simp [hf, hst])).trans (if_neg hd)))
  case residue => exact execResidueMismatch_of_main
  case failed => exact execTimeSelftestEnd_of_running false
  case transient =>
    intro hm ht hr hb
    exact (execTimeSelftestEnd_of_running true hm ht hr).trans (congrArg _ (if_pos hb))
  case fallback =>
    intro hm ht hr hb
    exact (execTimeSelftestEnd_of_running true hm ht hr).trans (congrArg _ (if_neg (Bool.eq_false_iff.mp hb)))

end Sys2Proof.Machine
end

section
/-! SUPPORT. The events of the time sources (04 R130 to R145, R501): each acts by its rule once what it asks of the device, of its
port and of PTP or PPS holds. -/

namespace Sys2Proof.Machine

/-- A Sync of the selected port that holds a valid path delay is measured (R133, R141). -/
theorem execPtpSyncRx_of_selected {m : PtpHead} {d : Int} {s : State} (origin correction : Int) (followUp : Option (Int × Int))
    (ingress : Stamp) (ht : slaveTakes s m = true) (hsel : (s.tm.slave.selected).any (fun x => x.1 == m.port) = true)
    (hd : tfind s.tm.slave.pathDelay m.port = some d) :
    execPtpSyncRx m origin correction followUp ingress s = .next ((fun v =>
      measure 1 (ptpIngress v m.port ingress - (syncOrigin origin correction followUp).1 -
        (syncOrigin origin correction followUp).2 - d) (log16 v.tm.ptpSlave.p.logSync) true v)
      (updSlave (fun x => { x with syncAt := some s.tm.frc }) (count (tmCtr 0x018) s))) := by
  have hcount : (count (tmCtr 0x018) s).tm = s.tm := rfl
  have hpath : (updSlave (fun x => { x with syncAt := some s.tm.frc }) (count (tmCtr 0x018) s)).tm.slave.pathDelay =
    s.tm.slave.pathDelay := rfl
  simp only [execPtpSyncRx, ht, hcount, hsel, hpath, hd, Bool.not_true, Bool.false_eq_true, if_false]

/-- A timeout of the Syncs is counted, one of the Announces alone is not; either loses the selected master (R145). -/
theorem execSourceLoss_of_timedOut {s : State} (hm : s.pm.mode ≠ .frozen) (he : edgeReady 3 s = true)
    (ht : (ptpTimedOut s).1 = true ∨ (ptpTimedOut s).2 = true) :
    execSourceLoss 1 s = .next (losePtp (if (ptpTimedOut s).2 then count (tmCtr 0x020) s else s)) := by
  have hlost : ¬ (!(ptpTimedOut s).1 && !(ptpTimedOut s).2) = true := by
    rcases ht with h | h <;> simp [h]
  exact (next_of_not_guard (by simp [hm, he])).trans (congrArg _ (if_neg hlost))

/-- The Announce that is due carries the C37.238 TLV in its profile alone (R134, R135). -/
theorem execPtpMasterAnnounceTx_of_due {w : List Nat} {s : State} (hr : masterRuns s = true) (hq : s.tm.tq ≠ .invalid)
    (hd : ptpDue s (tfind s.tm.ptpMaster.sent 0) s.tm.ptpMaster.p.logAnnounce = true)
    (hw : w = [s.tm.ptpMaster.p.prio1, (announced s.tm.tq).1, (announced s.tm.tq).2, s.tm.ptpMaster.p.prio2,
      twosComp 16 s.tm.utcOfs, b2n s.tm.utcValid, s.tm.leap]) :
    execPtpMasterAnnounceTx s = .next (
      if s.tm.ptpMaster.p.profile = 1 then sendPtp s.tm.ptpMaster.p 4 11 86 (w ++ [announcedInacc s]) (masterSent 0 s)
      else sendPtp s.tm.ptpMaster.p 4 11 64 w (masterSent 0 s)) := by
  subst hw
  refine (next_of_not_guard (by simp [hr, hq, hd])).trans (congrArg _ ?_)
  by_cases hp : s.tm.ptpMaster.p.profile = 1
  · simp [hp]
  · simp [hp]

/-- An active edge of PPS_IN is counted, then taken or counted as one that does not qualify (R137). -/
theorem execPpsInEdge_of_active {rising : Bool} {stamp : Stamp} {s : State} (hm : s.pm.mode ≠ .frozen) (hb : s.pm.mode ≠ .boot)
    (ha : ppsActive s rising = true) : execPpsInEdge ⟨rising, stamp⟩ s = .next (
      if ppsQualifies (stampAt stamp s - latRx s 5) (count (tmCtr 0x040) s) then
        edgeTaken (stampAt stamp s - latRx s 5) (count (tmCtr 0x040) s)
      else count (tmCtr 0x048) (count (tmCtr 0x040) s)) :=
  next_of_not_guard (by simp [hm, hb, ha])

/-- No edge has qualified for 2 s and PPS_TOL: the edge that waits is settled, and PPS is lost (R137, R145). -/
theorem execPpsLost_of_due {t : Int} {s : State} (hp : s.tm.pps.prev = some t) (hm : s.pm.mode ≠ .frozen)
    (he : edgeReady 3 s = true) (ht : t + 2 * sec16 + ppsTol s ≤ now s) :
    execPpsLost s = .next (loseSource 2 (tmNote 0x0B 1 0 (updPps (fun x =>
      { x with ok := false, prev := none, waiting := none, label := none, todOk := false }) (settleEdge s)))) := by
  simp [execPpsLost, hp, hm, he, Int.not_lt.mpr ht]

/-- A valid sentence labels the next edge under TOD_EDGE 1; under TOD_EDGE 0 the edge before it, if it ends in time (R138). -/
theorem execTodSentenceRx_of_valid {utcSec : Nat} {l : Option Int} {s : State} (hm : s.pm.mode ≠ .frozen)
    (hb : s.pm.mode ≠ .boot) (hl : l = if s.tm.utcValid then some ((utcSec : Int) + s.tm.utcOfs) else none) :
    execTodSentenceRx true true utcSec s = .next (
      if s.tm.pps.p.todEdge = 1 then updPps (fun x => { x with label := some (l, now s), todOk := l.isSome }) s
      else if todInTime s = true then labelEdge l s else count (tmCtr 0x050) s) := by
  subst hl
  refine (next_of_not_guard (by simp [hm, hb])).trans (congrArg _ ?_)
  by_cases hedge : s.tm.pps.p.todEdge = 1
  · simp [hedge]
  · by_cases htime : todInTime s = true
    · simp [hedge, htime]
    · simp [hedge, htime]

/-- A sentence with a bad checksum or status is counted and ignored (R138). -/
theorem execTodSentenceRx_of_invalid {sumOk statusOk : Bool} (utcSec : Nat) {s : State} (hm : s.pm.mode ≠ .frozen)
    (hb : s.pm.mode ≠ .boot) (hv : (sumOk && statusOk) = false) :
    execTodSentenceRx sumOk statusOk utcSec s = .next (count (tmCtr 0x050) s) := by
  refine (next_of_not_guard (by simp [hm, hb])).trans (congrArg _ (if_pos ?_))
  rcases Bool.and_eq_false_iff.mp hv with h | h <;> simp [h]

/-- Settles O26: each event's branch under its conditions. The lengths of the messages sent are the model's choice (log 12), and
so is what a request that is given up leaves of the path delay (log 36). -/
theorem sourceEventsComplete : Obligations.SourceEventsComplete := by
  intro s
  refine ⟨?sync, ?announce, ?annTimeout, ?syncTimeout, ?ask, ?pathDelay, ?giveUp, ?answerPeer, ?answer, ?sendAnnounce, ?sendSync,
    ?edge, ?badEdge, ?idleEdge, ?ppsLost, ?sentence, ?badSentence⟩
  case sync => exact fun m o c d f i => execPtpSyncRx_of_selected o c f i
  case announce => exact fun a ht => congrArg _ (if_pos ht)
  case annTimeout =>
    intro hm he ha hy
    exact (execSourceLoss_of_timedOut hm he (.inl ha)).trans (by rw [hy]; rfl)
  case syncTimeout =>
    intro hm he hy
    exact (execSourceLoss_of_timedOut hm he (.inr hy)).trans (by rw [hy]; rfl)
  case ask => exact fun port ha hd => next_of_not_guard (by simp [ha, hd])
  case pathDelay =>
    intro m d ht ha hreq
    exact next_of_not_guard (by simp [ht, ha, Option.isSome_iff_ne_none.mp hreq])
  case giveUp => exact fun port hm hreq => next_of_not_guard (by simp [hm, Option.isSome_iff_ne_none.mp hreq])
  case answerPeer => exact fun port m i ht hd => congrArg _ (if_pos (by simp [ht, hd]))
  case answer =>
    intro m i d ht hd hdt
    subst hdt
    exact congrArg _ (if_pos (by simp [ht, hd]))
  case sendAnnounce => exact fun w => execPtpMasterAnnounceTx_of_due
  case sendSync => exact fun hr hq hd => next_of_not_guard (by simp [hr, hq, hd])
  case edge =>
    intro rising stamp t hm hb ha ht hq
    subst ht
    exact (execPpsInEdge_of_active hm hb ha).trans (congrArg _ (if_pos hq))
  case badEdge =>
    intro rising stamp hm hb ha hq
    exact (execPpsInEdge_of_active hm hb ha).trans (congrArg _ (if_neg (Bool.eq_false_iff.mp hq)))
  case idleEdge => exact fun rising stamp ha => next_of_guard (by simp [ha])
  case ppsLost => exact fun t => execPpsLost_of_due
  case sentence => exact fun utcSec l => execTodSentenceRx_of_valid
  case badSentence => exact fun utcSec sumOk statusOk => execTodSentenceRx_of_invalid utcSec

end Sys2Proof.Machine
end

section
/-! SUPPORT. The events of the register windows, MSPI and the mailbox (01 R23, 02 R37, R64 to R67, 04 R155, 11 R378). -/

namespace Sys2Proof.Machine

/-! ### Register windows -/

/-- A write to a register of a block without power sets OFF_ACCESS (01 R23). -/
theorem regWrite_of_off {off : Nat} {f : State → State} {s : State} (hm : s.pm.mode ≠ .frozen) (ho : regOn s off = false) :
    regWrite off f s = setOffAccess s := by
  simp [regWrite, hm, ho]

/-- An aligned write within BAR0 goes to the register at its offset (01 R23). -/
theorem execRegisterWrite_of_bar0 {offset : Nat} (value : Nat) {s : State} (ha : offset % 4 = 0) (hlt : offset < 0x10000) :
    execRegisterWrite offset value s = .next (regWrite offset (writeReg offset (value % 2 ^ 32)) s) := by
  have hbar2 : ¬ 0x1000000 ≤ offset := by omega
  have hbar0 : ¬ 0x10000 ≤ offset := by omega
  exact (next_of_not_guard (by simp [ha])).trans (congrArg _ ((if_neg hbar2).trans (if_neg hbar0)))

/-- An aligned write past BAR0's space goes to BAR2 (02 R37). -/
theorem execRegisterWrite_of_bar2 {offset : Nat} (value : Nat) {s : State} (ha : offset % 4 = 0) (hge : 0x1000000 ≤ offset) :
    execRegisterWrite offset value s = .next (writeBar2 (offset - 0x1000000) (value % 2 ^ 32) s) :=
  (next_of_not_guard (by simp [ha])).trans (congrArg _ (if_pos hge))

section
variable {addr : Nat} {s : State} (hlt : addr < 0x1000000) (hm : s.pm.mode ≠ .frozen)
include hlt hm

/-- An aligned read of 4 bytes in BAR2 (02 R37, 03 R116). -/
theorem execCounterLowRead_of_narrow {v : Nat} {t : State} (ha : addr % 4 = 0) (hr : readBar2 addr s = (v, t)) :
    execCounterLowRead ⟨addr, false⟩ s = .next (emit (.readData (leBytes 4 v)) t) := by
  simp [execCounterLowRead, Nat.not_le.mpr hlt, hm, ha, hr]

/-- An aligned read of 8 bytes in BAR2 (02 R37, 03 R116). -/
theorem execCounterLowRead_of_wide (ha : addr % 8 = 0) :
    execCounterLowRead ⟨addr, true⟩ s = .next (emit (.readData (leBytes 8 (readBar2Wide addr s))) s) := by
  simp [execCounterLowRead, Nat.not_le.mpr hlt, hm, ha]

end

/-! ### Management ports -/

/-- On MSPI the LSW comes first, then the command's data both ways (02 R64). -/
theorem mgmt_mspi (c : Instr) (s : State) :
    mgmt .mspi c s = mgmtData (selOf c) (clocked c) (mgmtTake c (mgmtLsw .mspi s)) := rfl

/-- An MI2C transfer to another address is not answered (02 R65). -/
theorem mgmt_of_other_address {addr : Nat} (read : Bool) (c : Instr) {s : State} (h : addr ≠ 0x58 + s.pins.mi2cAddr % 4) :
    mgmt (.mi2c addr read) c s = s :=
  if_pos (by simp [h])

/-- A READ that is not 4-byte aligned returns zeros (02 R64). -/
theorem mgmtData_read_of_unaligned {offset : Nat} (count : Nat) (s : State) (h : offset % 4 ≠ 0) :
    mgmtData (.read (offset % 2 ^ 16)) count s = emit (.readData (List.replicate (4 * count) 0)) s := by
  have hlow : offset % 2 ^ 16 % 4 ≠ 0 := by omega
  exact if_pos (by simpa using hlow)

/-- An aligned READ returns the registers from its offset upward (02 R64). -/
theorem mgmtData_read_of_aligned {offset count : Nat} {l : List Nat} {s t : State} (h : offset % 4 = 0)
    (hr : readRegs count (offset % 2 ^ 16) s = (l, t)) :
    mgmtData (.read (offset % 2 ^ 16)) count s = emit (.readData l) t := by
  have hlow : offset % 2 ^ 16 % 4 = 0 := by omega
  exact (if_neg (by simpa using hlow)).trans (by rw [hr])

/-- MSPI_STATUS answers the command byte it names. -/
theorem execMspiStatus_mspi (cmd count : Nat) (s : State) :
    execMspiStatus ⟨.mspi, cmd, count⟩ s = .next (mgmtData (mgmtSel cmd 0) count (mgmtLsw .mspi s)) := rfl

/-- MSPI_READ reads at the low 16 bits of its offset. -/
theorem execMspiRead_mspi (offset count : Nat) (s : State) :
    execMspiRead .mspi offset count s = .next (mgmtData (.read (offset % 2 ^ 16)) count (mgmtLsw .mspi s)) := rfl

/-- Settles O37: each event's branch under its conditions. That a READ on MSPI has the side effects of the BAR0 read is the
model's choice (log 19). -/
theorem registerEventsComplete : Obligations.RegisterEventsComplete := by
  intro s
  refine ⟨rfl, ?amCount, ?narrow, ?wide, ?siSel, ?scSel, ?alSel, ?ovSel, ?ecSel, ?spool, ?regOn, ?regOff, ?bar2, ?status, ?unknown,
    ?unaligned, ?aligned, ?submit, ?fetch, ?statusOther, ?readOther, ?fetchOther⟩
  case amCount => exact fun el reg he hr => next_of_not_guard (by simp [he, hr])
  case narrow => exact fun addr v t hlt ha hm => execCounterLowRead_of_narrow hlt hm ha
  case wide => exact fun addr hlt ha hm => execCounterLowRead_of_wide hlt hm ha
  case siSel => exact fun value hm ho => congrArg _ (regWrite_of_on hm ho)
  case scSel => exact fun value hm ho => congrArg _ (regWrite_of_on hm ho)
  case alSel => exact fun value hm ho => congrArg _ (regWrite_of_on hm ho)
  case ovSel => exact fun value hm ho => congrArg _ (regWrite_of_on hm ho)
  case ecSel => exact fun value hm ho => congrArg _ (regWrite_of_on hm ho)
  case spool => exact fun value hm ho => congrArg _ (regWrite_of_on hm ho)
  case regOn =>
    intro offset value ha hlt hm ho
    exact (execRegisterWrite_of_bar0 value ha hlt).trans (congrArg _ (regWrite_of_on hm ho))
  case regOff =>
    intro offset value ha hlt hm ho
    exact (execRegisterWrite_of_bar0 value ha hlt).trans (congrArg _ (regWrite_of_off hm ho))
  case bar2 => exact fun offset value => execRegisterWrite_of_bar2 value
  case status => exact fun cmd count hc => (execMspiStatus_mspi cmd count s).trans (by rw [hc]; rfl)
  case unknown => exact fun cmd count hc => (execMspiStatus_mspi cmd count s).trans (by rw [hc]; rfl)
  case unaligned =>
    exact fun offset count ha => (execMspiRead_mspi offset count s).trans (congrArg _ (mgmtData_read_of_unaligned count _ ha))
  case aligned =>
    exact fun offset count l t ha hr => (execMspiRead_mspi offset count s).trans (congrArg _ (mgmtData_read_of_aligned ha hr))
  case submit => exact fun p => congrArg Host.Outcome.next (mgmt_mspi _ s)
  case fetch => exact congrArg Host.Outcome.next (mgmt_mspi _ s)
  case statusOther => exact fun addr cmd count read h => congrArg _ (mgmt_of_other_address read _ h)
  case readOther => exact fun addr offset count read h => congrArg _ (mgmt_of_other_address read _ h)
  case fetchOther => exact fun addr read h => congrArg _ (mgmt_of_other_address read _ h)

end Sys2Proof.Machine
end

section
/-! SUPPORT. The events of stream intake and of the instants in the Erg (05 R161 to R183, 06 R196 to R212): each acts by its
rule once what it asks of the device, its pipeline or its instant holds. -/

namespace Sys2Proof.Machine

/-- A pipeline that runs takes its oldest frame (05 R161, R166). -/
theorem execSiFrameParse_of_cons {pipe : Nat} {f : SiFrame} {rest : List SiFrame} {s : State}
    (hf : tget [] s.si.pipes pipe = f :: rest) (hp : pipe < 16) (hr : intakeRuns s = true) :
    execSiFrameParse pipe s =
      .next (disposeFrame pipe f { s with si := { s.si with pipes := tset s.si.pipes pipe rest } }) := by
  simp [execSiFrameParse, hf, Nat.not_le.mpr hp, hr]

/-- The next instant of an enabled group opens once its horizon is reached (R197). -/
theorem execInstantOpen_of_due {gid : Nat} {x : Group} {s : State} (hx : getGroup s gid = some x) (hr : ergRuns s = true)
    (hen : x.en = true) (hk : x.next < 2 ^ 40) (ht : openAt x.p x.next ≤ s.tm.tick) :
    execInstantOpen gid s = .next (openInstant gid x.next s) := by
  simp only [execInstantOpen, hx]
  exact congrArg _ (if_pos (by simpa [hr, hen, ht] using hk))

/-- The oldest open instant of a group whose deadline has passed is released, then those complete behind it (R200). -/
theorem execDeadlineRelease_of_due {gid : Nat} {i : Instant} {s : State}
    (hi : (getGroup s gid).bind (·.oldestOpen) = some i) (hr : ergRuns s = true) (ht : i.deadline ≤ s.tm.tick) :
    execDeadlineRelease gid s = .next (releaseChain gid (tracked s gid) (releaseInstant gid i.k true s)) := by
  simp [execDeadlineRelease, hi, hr, ht]

section
variable {gid index : Nat} {i : Instant} {s : State} (hi : getInstant s gid index = some i)
include hi

/-- An instant that the sessions still hold is published, and the hold freed (R212). -/
theorem execPublishInstant_of_held {r : Instant} {v : State} (ho : i.st ≠ .opened) (hp : i.pubHold = true)
    (hm : s.pm.mode ≠ .frozen) (hv : readMembers (publishedMembers s i) i s = (r, v)) :
    execPublishInstant gid index s = .next (freeHold gid index (fun i => { i with pubHold := false })
      (i.pubs.foldl (fun v n => publishSession n gid r r.cells false v) v)) := by
  simp [execPublishInstant, hi, ho, hp, hm, hv]

/-- The cells of an instant released 1,000 us ago are freed (R203). -/
theorem execCellHoldExpiry_of_due (hr : ergRuns s = true) (hst : i.st = .released)
    (ht : i.relAt + countsOfUs 1000 ≤ s.tm.frc) : execCellHoldExpiry gid index s = .next (freeInstant gid index s) := by
  simp [execCellHoldExpiry, hi, hr, hst, Nat.not_lt.mpr ht]

/-- An amendment batch whose closing time has come closes (R207). -/
theorem execAmendBatchClose_of_due {d : Int} {cells : Tbl Cell} (hb : i.batch = some (d, cells)) (hr : ergRuns s = true)
    (ht : d ≤ s.tm.tick) : execAmendBatchClose gid index s = .next (closeBatch gid i cells s) := by
  simp [execAmendBatchClose, hi, hb, hr, ht]

/-- An instant that is spent leaves its group (Table 6-4). -/
theorem execInstantRetire_of_spent (hr : ergRuns s = true) (hs : i.spent (now s) = true) :
    execInstantRetire gid index s = .next (dropInstant gid index s) := by
  simp [execInstantRetire, hi, hr, hs]

end

/-- A trailing instant past its end, of which nothing is left to hand on, is spent (Table 6-4, R203). -/
theorem Instant.spent_of_trailing {i : Instant} {t : Int} (hst : i.st = .trailing) (he : i.ended t = true)
    (hb : i.batch = none) (hl : i.lates.isEmpty = true) (hu : i.unheld = true) : i.spent t = true := by
  simp [Instant.spent, hst, he, hb, hl, hu]

/-- Settles O28: each event's branch under its conditions. -/
theorem intakeAndInstantEventsComplete : Obligations.IntakeAndInstantEventsComplete := by
  intro s
  refine ⟨?parse, ?timers, ?opening, ?early, ?deadline, ?publish, ?cells, ?batch, ?retire⟩
  case parse => exact fun pipe f rest => execSiFrameParse_of_cons
  case timers => exact fun sid hc => congrArg _ (if_pos hc)
  case opening => exact fun gid x => execInstantOpen_of_due
  case early => exact fun gid hr => congrArg _ (if_pos hr)
  case deadline => exact fun gid i => execDeadlineRelease_of_due
  case publish => exact fun gid index i r v hi => execPublishInstant_of_held hi
  case cells => exact fun gid index i hi => execCellHoldExpiry_of_due hi
  case batch => exact fun gid index i d cells hi => execAmendBatchClose_of_due hi
  case retire =>
    intro gid index i hi hr hst he hb hl hu
    exact execInstantRetire_of_spent hi hr (Instant.spent_of_trailing hst he hb hl hu)

end Sys2Proof.Machine
end

section
/-! SUPPORT. What becomes of a cell that SI offers (06 R204, R205): one rule for each row of write_cell, then duplicates. -/

namespace Sys2Proof.Machine

section
variable {gid sid j : Nat} {g : Group} {i : Instant} {s : State} (c : Cell) (hg : getGroup s gid = some g)
include hg

/-- A cell past the newest opened instant is FUTURE. -/
theorem writeCell_of_future (sid : Nat) {k : Int} (hk : g.front < k) :
    writeCell gid k sid c s = count (grpCtr gid 0x48) s := by
  simp only [writeCell, hg, if_pos hk]

/-- A cell before EPOCH is TOO_OLD. -/
theorem writeCell_of_past (sid : Nat) {k : Int} (hk : k ≤ g.front) (h0 : k < 0) :
    writeCell gid k sid c s = count (grpCtr gid 0x50) s := by
  simp only [writeCell, hg, if_neg (Int.not_lt.mpr hk), if_pos h0]

variable (hk : (j : Int) ≤ g.front)
include hk

/-- A cell of an instant that the group does not track is TOO_OLD. -/
theorem writeCell_of_untracked (sid : Nat) (hi : g.instant j = none) :
    writeCell gid j sid c s = count (grpCtr gid 0x50) s := by
  simp only [writeCell, hg, if_neg (Int.not_lt.mpr hk), if_neg (Int.not_lt.mpr (Int.natCast_nonneg j)), Int.toNat_natCast, hi]

variable (hi : g.instant j = some i)
include hi

/-- The rows of write_cell for an instant that the group tracks, in their order. -/
theorem writeCell_of_tracked (sid : Nat) :
    writeCell gid j sid c s =
      if i.st == .trailing && i.ended (now s) then count (grpCtr gid 0x50) s
      else if !i.members.contains sid then count 0x104020 s
      else if (tfind i.cells sid).isSome || i.lateSeen.contains sid then count (grpCtr gid 0x40) s
      else if i.st == .opened then storeCell gid i.k sid c s
      else lateCell gid sid i c s := by
  simp only [writeCell, hg, if_neg (Int.not_lt.mpr hk), if_neg (Int.not_lt.mpr (Int.natCast_nonneg j)), Int.toNat_natCast, hi]

/-- A cell of an instant whose trailing time is over is TOO_OLD. -/
theorem writeCell_of_ended (sid : Nat) (hst : i.st = .trailing) (he : i.ended (now s) = true) :
    writeCell gid j sid c s = count (grpCtr gid 0x50) s :=
  (writeCell_of_tracked c hg hk hi sid).trans (if_pos (by simp [hst, he]))

variable (hlive : i.st = .trailing → i.ended (now s) = false)
include hlive

/-- At an instant whose time is not over, a cell of a stream that is no member is ERG_NOT_MEMBER. -/
theorem writeCell_of_not_member (hm : i.members.contains sid = false) :
    writeCell gid j sid c s = count 0x104020 s := by
  rw [writeCell_of_tracked c hg hk hi, if_neg (by simpa using hlive), if_pos (by rw [hm]; rfl)]

variable (hm : i.members.contains sid = true)
include hm

/-- At an instant whose time is not over, only the cells that a member has already sent decide, then the instant's state. -/
theorem writeCell_of_member :
    writeCell gid j sid c s =
      if (tfind i.cells sid).isSome || i.lateSeen.contains sid then count (grpCtr gid 0x40) s
      else if i.st == .opened then storeCell gid i.k sid c s
      else lateCell gid sid i c s := by
  rw [writeCell_of_tracked c hg hk hi, if_neg (by simpa using hlive), if_neg (by rw [hm]; decide)]

/-- A cell already present, or seen late, makes a further one DUP. -/
theorem writeCell_of_duplicate (hd : (tfind i.cells sid).isSome = true ∨ i.lateSeen.contains sid = true) :
    writeCell gid j sid c s = count (grpCtr gid 0x40) s :=
  (writeCell_of_member c hg hk hi hlive hm).trans (if_pos (Bool.or_eq_true_iff.mpr hd))

variable (hc : tfind i.cells sid = none) (hl : i.lateSeen.contains sid = false)
include hc hl

/-- The first cell of a member for an open instant is stored. -/
theorem writeCell_of_opened (ho : i.st = .opened) : writeCell gid j sid c s = storeCell gid i.k sid c s := by
  rw [writeCell_of_member c hg hk hi hlive hm, if_neg (by rw [hc, hl]; decide), if_pos (by rw [ho]; rfl)]

/-- The first cell of a member for a released or trailing instant goes to the late policy. -/
theorem writeCell_of_not_opened (ho : i.st ≠ .opened) : writeCell gid j sid c s = lateCell gid sid i c s := by
  rw [writeCell_of_member c hg hk hi hlive hm, if_neg (by rw [hc, hl]; decide), if_neg (by simpa using ho)]

end

/-- Settles O56: the rows of write_cell, one by one. -/
theorem cellWritesFollowTheirInstant : Obligations.CellWritesFollowTheirInstant := by
  intro gid sid k c g s hg
  refine ⟨?future, ?past, ?indexed⟩
  case future => exact writeCell_of_future c hg sid
  case past => exact writeCell_of_past c hg sid
  case indexed =>
    rintro j rfl hk
    refine ⟨writeCell_of_untracked c hg hk sid, fun i hi => ⟨writeCell_of_ended c hg hk hi sid, fun hlive => ⟨?notMember, ?member⟩⟩⟩
    case notMember => exact writeCell_of_not_member c hg hk hi hlive
    case member =>
      intro hm
      exact ⟨writeCell_of_duplicate c hg hk hi hlive hm, fun hc hl =>
        ⟨writeCell_of_opened c hg hk hi hlive hm hc hl, writeCell_of_not_opened c hg hk hi hlive hm hc hl⟩⟩

/-- Settles O57: a present cell makes a further one DUP, and to count touches that counter alone. -/
theorem duplicateCellsChangeNothing : Obligations.DuplicateCellsChangeNothing := by
  intro gid sid j c0 c g i s hg hi hk hlive hm hc
  have hdup : writeCell gid j sid c s = count (grpCtr gid 0x40) s :=
    writeCell_of_duplicate c hg hk hi hlive hm (.inl (Option.isSome_of_eq_some hc))
  rw [hdup]
  exact ⟨rfl, rfl, fun a ha => read_count_ne s ha⟩

end Sys2Proof.Machine
end

section
/-! SUPPORT. CARAVAN.RUN of a graph with an urgent node (07 R242): the first status of a command that would be ACCEPTED, and what
it leaves. -/

namespace Sys2Proof.Machine

/-- A command that would be ACCEPTED, refused by its class-specific first status. -/
theorem exec_of_first_status {c : Instr} {s w : State} {p : Proc} {phase : Phase} {first : State → Nat}
    {start : Nat → State → State} {missed : State → State} {code : Nat} (hp : procOf c s = some p)
    (hw : p.work = .accepted phase first start missed) (ha : passes p.h p.spec s = true)
    (hf : first (takeHead p.h.src s) = code) (hc : code ≠ 0) (hm : missed (takeHead p.h.src s) = w) :
    exec c s = .next (refusedWith p.h p.spec.opcode code s w) := by
  obtain ⟨hd, hpass⟩ := (passes_iff _ _ _).mp ha
  rw [exec_of_procOf c s p hp]
  simp [runProc, hw, runAccepted, hd, hpass, replyAccepted, hf, hc, hm, refusedWith]

/-- Taking a head leaves the graphs. -/
theorem getJob_takeHead (src : Src) (s : State) (job : Nat) : getJob (takeHead src s) job = getJob s job :=
  takeHead_look (getJob · job) (fun _ _ => rfl) src s

/-- A graph with a node at level 12 or above is not started by the host (07 R242). -/
theorem runStatus_of_urgent {job : Nat} {x : Job} {s : State} (hx : getJob s job = some x)
    (hu : ∃ d ∈ x.p.nodes, 12 ≤ d.level) : runStatus job s = 0x11 := by
  have hany : x.p.nodes.any (fun d => 12 ≤ d.level) = true := by simpa using hu
  simp only [runStatus, hx, firstBad, hany, Bool.or_true, ↓reduceIte]

/-- Settles O58: the urgent node gives the first status, which no overrun follows. -/
theorem urgentRunsAreRefused : Obligations.UrgentRunsAreRefused := by
  intro h job arg x s ha hx hu
  have hstatus : runStatus job (takeHead h.src s) = 0x11 := runStatus_of_urgent ((getJob_takeHead h.src s job).trans hx) hu
  have hstarted : ¬ (runStatus job (takeHead h.src s) == 0x22) = true := by rw [hstatus]; decide
  exact exec_of_first_status (p := procCaravanRun h job arg s) (first := runStatus job) rfl rfl ha hstatus (Nat.succ_ne_zero _)
    (if_neg hstarted)

end Sys2Proof.Machine
end

section
/-! SUPPORT. The events of Caravan and its engines (07 R234 to R253): each acts by its rule once what it asks of the device, its
item or its engine holds. -/

namespace Sys2Proof.Machine

section
variable {s : State} (hr : cvRuns s = true)
include hr

/-- The chosen item is dispatched once every resource it needs is free (R234, R240). -/
theorem execDispatchDecision_of_chosen {it : Item} (hc : chooseItem s = some it) (ht : canTake s it = true) :
    execDispatchDecision s = .next (dispatchItem it s) := by
  simp [execDispatchDecision, hr, hc, ht]

/-- The first eligible item of a level that has waited AGE_TICKS there moves up (R237). -/
theorem execItemAging_of_waited {level : Nat} {it : Item} (ha : s.cv.ages.getD level 0 ≠ 0) (hl : level < 11)
    (hc : level < s.cv.ageCeil)
    (hi : s.cv.items.find? (fun it => it.level == level && eligible s it &&
      s.cv.ages.getD level 0 ≤ (tickCount s + 2 ^ 32 - it.enqTick) % 2 ^ 32) = some it) :
    execItemAging level s = .next (count 0x107008 (queueAt (level + 1) it.id s)) := by
  have hguard : ¬ (!cvRuns s || s.cv.ages.getD level 0 == 0 || 11 ≤ level || s.cv.ageCeil ≤ level) = true := by
    simp only [hr, beq_false_of_ne ha, decide_eq_false (Nat.not_le.mpr hl), decide_eq_false (Nat.not_le.mpr hc)]
    decide
  simp only [execItemAging, if_neg hguard, hi]

/-- The earliest due entry expires while fewer than 64 have in this tick (R239). -/
theorem execDelayExpiry_of_due {it : Item} {rest : List Item} (he : s.cv.expired < 64) (hd : dueItems s s.tm.tick = it :: rest) :
    execDelayExpiry s = .next (queueAt it.d.level it.id { s with cv := { s.cv with expired := s.cv.expired + 1 } }) := by
  simp [execDelayExpiry, hr, Nat.not_le.mpr he, hd]

/-- An item that has run twice its BUDGET_NS takes its instance along (R243). -/
theorem execBudgetOver_of_over {item : Nat} {it : Item} {i : Inst} (hi : getItem s item = some it) (hh : it.held = true)
    (hb : 200 * it.d.budgetNs ≤ it.budgetCounts s.tm.frc * 256) (he : solveExempt it (getInst s it.job it.seq) s = false)
    (hn : getInst (count 0x107028 s) it.job it.seq = some i) :
    execBudgetOver item s = .next (abortInst i it.node 1 (count 0x107028 s)) := by
  simp [execBudgetOver, hi, hr, hh, Nat.not_lt.mpr hb, he, hn]

section
variable {item since ck : Nat} {e : List Nat} {it : Item} {r : ItemResult} {sat : Bool} {v : State}
  (hi : getItem s item = some it) (hst : it.st = .running e since ck)
  (hm : runMacs e r.macs (writeLocal e r.lmem s) = (sat, v))
include hi hst hm

/-- A running item of an instance commits, ACC_SAT counted first (R245, R249). -/
theorem execItemCommit_of_good {i : Inst} {t : State} (ht : t = if sat then count 0x107820 v else v)
    (hn : getInst t it.job it.seq = some i) : execItemCommit item r false s = .next (commitNode i it r sat t) := by
  subst ht
  simp [execItemCommit, hi, hst, hr, hm, hn]

/-- A running item whose data are uncorrectable takes its instance along (R247). -/
theorem execItemCommit_of_bad {i : Inst} (hn : getInst v it.job it.seq = some i) :
    execItemCommit item r true s = .next (abortInst i it.node 3 (count 0x107838 v)) := by
  simp [execItemCommit, hi, hst, hr, hm, hn]

/-- A running item of no instance whose data are uncorrectable ends the refactorization (R247). -/
theorem execItemCommit_of_bad_refactor (hn : getInst v it.job it.seq = none) :
    execItemCommit item r true s = .next (failRefac 0x61 (count 0x107838 (dropItem it.id (stopItem it v)))) := by
  simp [execItemCommit, hi, hst, hr, hm, hn]

end

section
variable {engine : Nat} (he : engine < 66)
include he

/-- An idle engine with a residue (1) or local memory (2) fault is fenced and its self-test starts (R248, R250). -/
theorem execEngineFault_of_idle {kind : Nat} (hk : kind = 1 ∨ kind = 2) (hst : (getEngine s engine).st = .idle) :
    execEngineFault engine kind s = .next (capacityFell (loseEngine engine .selftest (note s.cv.nq 6 0x01 2
      (fld kind 8 8 + engine) (count (msCtr (if kind = 1 then 0x00 else 0x08)) s)))) := by
  rcases hk with rfl | rfl
  · exact next_of_not_guard (by simp [hr, Nat.not_le.mpr he, hst])
  · exact next_of_not_guard (by simp [hr, Nat.not_le.mpr he, hst])

/-- A fenced engine that fails its self-test is retired (R253). -/
theorem execFencedSelftestEnd_of_failed (hst : (getEngine s engine).st = .selftest) (hb : (getEngine s engine).busy = none) :
    execFencedSelftestEnd engine false s = .next (capacityFell (retireEngine engine (count (msCtr 0x30) s))) := by
  simp [execFencedSelftestEnd, hr, Nat.not_le.mpr he, hst, hb]

/-- A spare that passes its self-test is counted (R253). -/
theorem execSpareSelftest_of_passed (hst : (getEngine s engine).st = .spare) :
    execSpareSelftest engine true s = .next (count (msCtr 0x28) s) := by
  simp [execSpareSelftest, hr, Nat.not_le.mpr he, hst]

end

end

/-- A solve node whose BUDGET_NS is at least SOLVE_WCET never ends under R243 (08 R286). -/
theorem execBudgetOver_of_solveExempt {item : Nat} {it : Item} {s : State} (hi : getItem s item = some it)
    (he : solveExempt it (getInst s it.job it.seq) s = true) : execBudgetOver item s = .next s := by
  simp [execBudgetOver, hi, he]

/-- Settles O29: each event's branch under its conditions. That the fault of an idle engine starts its self-test is the model's
choice (log 42). -/
theorem caravanEventsComplete : Obligations.CaravanEventsComplete := by
  intro s
  refine ⟨?dispatch, ?aging, ?delay, ?checkpoint, ?budget, ?exempt, ?commit, ?bad, ?badRefactor, ?residue, ?memory, ?resume,
    ?fenced, ?spare⟩
  case dispatch => exact fun it hr => execDispatchDecision_of_chosen hr
  case aging => exact fun level it hr => execItemAging_of_waited hr
  case delay => exact fun it rest hr => execDelayExpiry_of_due hr
  case checkpoint => exact fun item hr => next_of_not_guard (by simp [hr])
  case budget => exact fun item it i hi hr => execBudgetOver_of_over hr hi
  case exempt => exact fun item it => execBudgetOver_of_solveExempt
  case commit => exact fun item since ck e it i r sat v t hi hst hr hm => execItemCommit_of_good hr hi hst hm
  case bad => exact fun item since ck e it i r sat v hi hst hr hm => execItemCommit_of_bad hr hi hst hm
  case badRefactor => exact fun item since ck e it r sat v hi hst hr hm => execItemCommit_of_bad_refactor hr hi hst hm
  case residue => exact fun engine hr he => execEngineFault_of_idle hr he (.inl rfl)
  case memory => exact fun engine hr he => execEngineFault_of_idle hr he (.inr rfl)
  case resume => exact fun item hr => next_of_not_guard (by simp [hr])
  case fenced => exact fun engine hr he => execFencedSelftestEnd_of_failed hr he
  case spare => exact fun engine hr he => execSpareSelftest_of_passed hr he

end Sys2Proof.Machine
end

section
/-! SUPPORT. The events of alarm lines, cross-triggers and continuous recording (10 R326, R327, R331, R332, R338, 04 R150): each
acts by its rule once what it asks of the device, its line, its input or its ring holds. -/

namespace Sys2Proof.Machine

/-- The change that waits is driven once ALM_STB is low and has been for 8 ns (R327). -/
theorem execAlmStbDeferred_of_waiting {s : State} (hr : alRuns s = true) (hd : s.al.deferred = true)
    (hb : strobeBusy s = false) : execAlmStbDeferred s = .next (driveLines s) :=
  congrArg _ (if_pos (by simp [hr, hd, hb]))

/-- A line whose pulse has ended no longer asks for its high level, and the lines follow (R326). -/
theorem execAlmPulseEnd_of_ended {line e : Nat} {s : State} (hp : (getLine s line).pulseEnd = some e) (hr : alRuns s = true)
    (he : e ≤ fineTime s) :
    execAlmPulseEnd line s = .next (driveLines (updLine line (fun x => { x with pulseEnd := none }) s)) := by
  simp [execAlmPulseEnd, hp, hr, he]

/-- A change of an input to the level of its active edge is stamped (R331). -/
theorem execXtrigInEdge_of_active {n : Nat} {level : Bool} (stamp : Stamp) {s : State} (hn : n < 2)
    (hl : bit s.pins.xtrigIn n ≠ level) (ha : level = activeLevel (setXtrigIn n level s) n)
    (hr : alRuns (setXtrigIn n level s) = true) : execXtrigInEdge n level stamp s =
      .next (xinEdge n (stampAt stamp (setXtrigIn n level s)) (setXtrigIn n level s)) := by
  have hchange : ¬ (2 ≤ n || bit s.pins.xtrigIn n == level) = true := by simp [Nat.not_le.mpr hn, hl]
  have hactive : (level == activeLevel (setXtrigIn n level s) n && alRuns (setXtrigIn n level s)) = true :=
    Bool.and_eq_true_iff.mpr ⟨beq_iff_eq.mpr ha, hr⟩
  exact (next_of_not_guard hchange).trans (congrArg _ (if_pos hactive))

/-- An output line falls once its last pulse has ended (04 R150). -/
theorem execOutputPulseEnd_of_ended {line e : Nat} {s : State} (hp : tfind s.tm.pulses line = some e)
    (hm : s.pm.mode ≠ .frozen) (he : e ≤ fineTime s) :
    execOutputPulseEnd line s = .next { s with tm := { s.tm with pulses := tdel s.tm.pulses line } } := by
  simp [execOutputPulseEnd, hp, hm, he]

/-- A ring that writes takes the released sets its channel holds, then its oldest record is written (R338). -/
theorem execAqRecordWrite_of_live {ring : Nat} {s : State} (hr : aqRuns s = true)
    (hl : (liveRings s (ring / 4)).contains ring = true) :
    execAqRecordWrite ring s = .next (writeStaged ring (absorb (ring / 4) s)) :=
  congrArg _ (if_pos (Bool.and_eq_true_iff.mpr ⟨hr, hl⟩))

/-- Settles O30: each event's branch under its conditions. -/
theorem alarmAndRecordingEventsComplete : Obligations.AlarmAndRecordingEventsComplete := by
  intro s
  refine ⟨?deferred, ?linePulse, ?edge, ?forwarded, ?outputPulse, ?record⟩
  case deferred => exact execAlmStbDeferred_of_waiting
  case linePulse => exact fun line e => execAlmPulseEnd_of_ended
  case edge => exact fun n level stamp => execXtrigInEdge_of_active stamp
  case forwarded => exact fun n hn => congrArg _ (if_neg (Nat.not_le.mpr hn))
  case outputPulse => exact fun line e => execOutputPulseEnd_of_ended
  case record => exact fun ring => execAqRecordWrite_of_live

end Sys2Proof.Machine
end

section
/-! SUPPORT. The events of Anchor metering (11 R350 to R371): each acts by its rule once what it asks of the device, its channel, its
element, its pulse output or its virtual stream holds. -/

namespace Sys2Proof.Machine

/-- An enabled channel whose temperature source no longer gives a value keeps its last T as stale, is counted and noted (R353). -/
theorem execTempStale_of_lost {ch : Nat} {s : State} (hch : ch < 12) (hr : amClocked s = true) (he : (getMChan s ch).p.en = 1)
    (hs : (getMChan s ch).tempStale = false) (ht : (getMChan s ch).temp.isSome = true)
    (hf : tempFresh s (getMChan s ch) = false) :
    execTempStale ch s = .next (note s.am.nq 11 0x03 1 ch (count (chCtr ch 0x18) (updMChan ch (fun c =>
      { c with tempStale := true }) s))) :=
  next_of_not_guard (by simp [Nat.not_le.mpr hch, hr, he, hs, Option.isSome_iff_ne_none.mp ht, hf])

/-- At a boundary of its channel not yet taken, SD_SAMPLE samples the channel (R350, R354). -/
theorem execSdSample_of_boundary {ch cleanBits : Nat} {vRec vAlm : Int} {run64 : Bool} {s : State} (hch : ch < 12)
    (hr : sdClkRuns s = true) (hb : atBoundary s ch = true) (ht : boundaryTaken s ch = false) :
    execSdSample ch vRec vAlm run64 cleanBits s = .next (takeSample ch vRec vAlm run64 cleanBits (markBoundary ch s)) :=
  next_of_not_guard (by simp [Nat.not_le.mpr hch, hr, hb, ht])

section
variable {ch cleanBits : Nat} {vRec vAlm : Int} {run64 : Bool} {s : State}

/-- A channel that is not enabled is not sampled. -/
theorem takeSample_of_disabled (he : (getMChan s ch).p.en ≠ 1) : takeSample ch vRec vAlm run64 cleanBits s = s :=
  if_pos (bne_iff_ne.mpr he)

/-- An enabled channel takes its MOD_FAULT and its T, then its sample is invalid or stored as these leave the channel (R352,
R353). -/
theorem takeSample_of_enabled (he : (getMChan s ch).p.en = 1) : takeSample ch vRec vAlm run64 cleanBits s =
    if (getMChan (takeTemp ch (modFaultStep ch run64 cleanBits s)) ch).modFault || (getMChan s ch).p.kind == 0 then
      missSample ch (takeTemp ch (modFaultStep ch run64 cleanBits s))
    else storeSample ch (if (getMChan s ch).p.invert then -vRec else vRec) (if (getMChan s ch).p.invert then -vAlm else vAlm)
      (takeTemp ch (modFaultStep ch run64 cleanBits s)) :=
  if_neg (by simp [he])

variable {u : State} (he : (getMChan s ch).p.en = 1) (hu : u = takeTemp ch (modFaultStep ch run64 cleanBits s))
include he hu

/-- Under MOD_FAULT an enabled channel has no valid sample (R352). -/
theorem takeSample_of_modFault (hf : (getMChan u ch).modFault = true) :
    takeSample ch vRec vAlm run64 cleanBits s = missSample ch u := by
  subst hu
  exact (takeSample_of_enabled he).trans (if_pos (by rw [hf, Bool.true_or]))

/-- Without MOD_FAULT a channel with a KIND stores its sample, both outputs negated under INVERT (R350, R353). -/
theorem takeSample_of_valid (hf : (getMChan u ch).modFault = false) (hk : (getMChan s ch).p.kind ≠ 0) :
    takeSample ch vRec vAlm run64 cleanBits s =
      if (getMChan s ch).p.invert = true then storeSample ch (-vRec) (-vAlm) u else storeSample ch vRec vAlm u := by
  subst hu
  rw [takeSample_of_enabled he, if_neg (by simp [hf, hk])]
  split <;> rfl

end

/-- A block of a running element ends at its boundary once the interpolation has the samples it needs (R365, R366). -/
theorem execEnergyBlockEnd_of_reached {el stop : Nat} (e1 e2 e3 : Int × Int) (trackedF : Int) {s : State} (hel : el < 4)
    (hb : blockEnd s el = some stop) (hr : sdClkRuns s = true) (ha : energyRuns s = true) (he : (getElem' s el).en = true)
    (hrun : (getElem' s el).running = true) (hs : reaches (finePoints / 2) s el stop = true) :
    execEnergyBlockEnd el stop e1 e2 e3 trackedF s =
      .next (trackFreq el trackedF (endBlock el stop (phaseSum (getElem' s el).p.phases [e1, e2, e3]) s)) :=
  next_of_not_guard (by simp [Nat.not_le.mpr hel, hb, hr, ha, he, hrun, hs])

/-- The first pulse due on an output that has given none yet starts (R370). -/
theorem execPulseStart_of_first {n due : Nat} {rest : List Nat} {s : State} (hb : (getPulse s n).backlog = due :: rest)
    (hp : (getPulse s n).prev = none) (hn : n < 4) (hr : amClocked s = true) (hh : (getPulse s n).high = false) :
    execPulseStart n s = .next (setPulse n
      { getPulse s n with
        backlog := rest, prev := some (s.tm.frc, highTime (getPulse s n) due), high := true
        count := ((getPulse s n).count + 1) % 2 ^ 32, ovfOpen := false } s) := by
  simp [execPulseStart, hb, hp, Nat.not_le.mpr hn, hr, hh]

/-- A pulse falls once its high time is over (R370). -/
theorem execPulseEnd_of_ended {n t h : Nat} {s : State} (hp : (getPulse s n).prev = some (t, h))
    (hh : (getPulse s n).high = true) (he : t + h ≤ s.tm.frc) (hm : s.pm.mode ≠ .frozen) :
    execPulseEnd n s = .next (setPulse n { getPulse s n with high := false } s) := by
  simp [execPulseEnd, hp, hh, he, hm]

section
variable {s : State} (hr : amClocked s = true) (hh : s.am.halted = false) (hp : s.pm.pfwActions = false)
include hr hh hp

/-- After SAVE_S seconds the periodic save is written, or fails (R371). -/
theorem execPeriodicSave_of_due (ok : Bool) (hd : s.am.savedAt + s.am.saveS * secCounts ≤ s.tm.frc) :
    execPeriodicSave ok s = .next (if ok then periodicSave s else saveFailed s) :=
  next_of_not_guard (by simp [hr, hh, hp, Nat.not_lt.mpr hd])

/-- After a second the alive stamp takes device time, operating seconds and TQ (R371). -/
theorem execAliveStamp_of_due (hd : s.am.aliveAt + secCounts ≤ s.tm.frc) :
    execAliveStamp s = .next
      { s with
        cairn := { s.cairn with alive := some ((dt80Of (now s)).sec, (dt80Of (now s)).ns, s.cairn.opsec, s.tm.tq.code) }
        am := { s.am with aliveAt := s.tm.frc } } :=
  next_of_not_guard (by simp [hr, hh, hp, Nat.not_lt.mpr hd])

end

/-- A due report of a defined virtual stream passes to SI (R360, R362). -/
theorem execVstreamReport_of_due {r : VsReport} {x : Vs} {s : State} (hx : tfind s.am.vss r.vs = some x) (hv : r.vs < 8)
    (hr : sdClkRuns s = true) (hi : intakeRuns s = true) (hd : vsDue r x s = true) :
    execVstreamReport r s = .next (vstreamTaken r x s) := by
  simp [execVstreamReport, hx, Nat.not_le.mpr hv, hr, hi, hd]

/-- Settles O31: each event's branch under its conditions, a sample's three outcomes by what the boundary finds in its channel. -/
theorem meterEventsComplete : Obligations.MeterEventsComplete := by
  intro s
  refine ⟨?stale, ?valid, ?fault, ?disabled, ?block, ?pulseStart, ?pulseEnd, ?save, ?saveFails, ?alive, ?report⟩
  case stale => exact fun ch => execTempStale_of_lost
  case valid =>
    rintro ch cleanBits vRec vAlm run64 _ u hch hr hb ht rfl he hu hf hk
    exact (execSdSample_of_boundary hch hr hb ht).trans (congrArg _ (takeSample_of_valid he hu hf hk))
  case fault =>
    rintro ch cleanBits vRec vAlm run64 _ u hch hr hb ht rfl he hu hf
    exact (execSdSample_of_boundary hch hr hb ht).trans (congrArg _ (takeSample_of_modFault he hu hf))
  case disabled =>
    rintro ch cleanBits vRec vAlm run64 _ hch hr hb ht rfl he
    exact (execSdSample_of_boundary hch hr hb ht).trans (congrArg _ (takeSample_of_disabled he))
  case block => exact fun el stop e1 e2 e3 trackedF => execEnergyBlockEnd_of_reached e1 e2 e3 trackedF
  case pulseStart => exact fun n due rest => execPulseStart_of_first
  case pulseEnd => exact fun n t h => execPulseEnd_of_ended
  case save => exact fun hr hh hp => execPeriodicSave_of_due hr hh hp true
  case saveFails => exact fun hr hh hp => execPeriodicSave_of_due hr hh hp false
  case alive => exact execAliveStamp_of_due
  case report => exact fun r x => execVstreamReport_of_due

end Sys2Proof.Machine
end

section
/-! SUPPORT. How the fuses change: by no command but the end of VAULT.LIFECYCLE, and there as Table 12-6 has it (12 R382, R402). -/

namespace Sys2Proof.Machine

/-- FINAL_COMPLETION alone may change the fuses. -/
theorem eq_finalCompletion_of_fuses_mem {c : Instr} (h : .fuses ∈ mayChange c) : ∃ k fin, c = .finalCompletion k fin := by
  have hc : (mayChange c).contains .fuses = true := List.contains_iff_mem.mpr h
  cases c with
  | finalCompletion k fin => exact ⟨k, fin, rfl⟩
  | _ => exact nomatch hc

/-- A command leaves the fuses as they were, unless it ends an outstanding VAULT.LIFECYCLE. -/
theorem exec_fuses_cases {c : Instr} {s t : State} (h : exec c s = .next t) : t.fuses = s.fuses ∨
    ∃ k fin o hdr target key, c = .finalCompletion k fin ∧ findOp s k = some o ∧ o.cmd = .vaultLifecycle hdr target key ∧
      t = finishLifecycle o target key fin.hwFault s := by
  by_cases hm : .fuses ∈ mayChange c
  · obtain ⟨k, fin, rfl⟩ := eq_finalCompletion_of_fuses_mem hm
    obtain ⟨u, hu, hcases⟩ := execFinalCompletion_cases k fin s
    cases hu.symm.trans h
    exact hcases.imp_right fun ⟨o, hdr, target, key, ho, hcmd, ht⟩ => ⟨k, fin, o, hdr, target, key, rfl, ho, hcmd, ht⟩
  · exact .inl (exec_changesOnly h .fuses hm)

/-- A step that `lifecycleStep` admits is a change of Table 12-6. -/
theorem mem_lifecycleChanges_of_step {a b : Lifecycle} {target : Nat} (hb : lifecycleOf target = some b)
    (hs : lifecycleStep a target = true) : (a, b) ∈ lifecycleChanges := by
  cases a with
  | blank =>
    obtain rfl : target = 1 := beq_iff_eq.mp hs
    cases hb
    decide
  | provisioned =>
    obtain rfl | rfl : target = 2 ∨ target = 3 := (Bool.or_eq_true_iff.mp hs).imp beq_iff_eq.mp beq_iff_eq.mp
    · cases hb
      decide
    · cases hb
      decide
  | operational =>
    obtain rfl : target = 3 := beq_iff_eq.mp hs
    cases hb
    decide
  | retired => exact nomatch hs

/-- No change of Table 12-6 leads back to BLANK, and from BLANK there is only the one to PROVISIONED. -/
theorem of_mem_lifecycleChanges {a b : Lifecycle} (h : (a, b) ∈ lifecycleChanges) : b ≠ .blank ∧ (a = .blank → b = .provisioned) := by
  revert h
  cases a <;> cases b <;> decide

/-- The end of VAULT.LIFECYCLE keeps OWNER_HASH burned exactly after BLANK: leaving BLANK burns it, and a later change keeps it. -/
theorem finishLifecycle_fusesOk {o : OpEntry} {target : Nat} {key : Option Nat} {hw : Bool} {s : State} (hs : FusesOk s) :
    FusesOk (finishLifecycle o target key hw s) := by
  obtain h | ⟨l, hl, -, hstep, hkey, h⟩ := finishLifecycle_cases o target key hw s
  · simpa only [FusesOk, h] using hs
  · obtain ⟨hblank, hfirst⟩ := of_mem_lifecycleChanges (mem_lifecycleChanges_of_step hl hstep)
    simp only [FusesOk, h]
    refine iff_of_false hblank ?_
    split
    next hp => simpa using hkey hp
    next hp => exact fun hn => hp (hfirst (hs.mpr hn))

/-- An idle step leaves the fuses. -/
theorem idleStep_fuses (s : State) : (idleStep s).fuses = s.fuses :=
  idleStep_look State.fuses (by simp [fuses_blind]) s

/-- Every command keeps the agreement of the fuses. -/
theorem exec_fusesOk {c : Instr} {s t : State} (hs : FusesOk s) (h : exec c s = .next t) : FusesOk t := by
  obtain hf | ⟨k, fin, o, hdr, target, key, -, -, -, rfl⟩ := exec_fuses_cases h
  · simpa only [FusesOk, hf] using hs
  · exact finishLifecycle_fusesOk hs

/-- Settles O7: an idle step leaves the fuses, and the command in front keeps their agreement. -/
theorem fusesAgreeAfterEveryStep : Obligations.FusesAgreeAfterEveryStep := by
  intro s t hs h
  unfold step at h
  split at h
  · cases h
    simpa only [FusesOk, idleStep_fuses] using hs
  next c rest hq => exact exec_fusesOk (s := { s with pending := rest }) hs h

/-- Settles O8: of all commands the end of VAULT.LIFECYCLE alone reaches the fuses, and it burns only a step of Table 12-6. -/
theorem lifecycleFollowsTheTable : Obligations.LifecycleFollowsTheTable := by
  intro c s t h
  obtain hf | ⟨k, fin, o, hdr, target, key, hc, ho, hcmd, rfl⟩ := exec_fuses_cases h
  · exact .inl hf
  · obtain hf | ⟨l, hl, hw, hstep, -, hf⟩ := finishLifecycle_cases o target key fin.hwFault s
    · exact .inl hf
    · rw [hf]
      exact .inr ⟨mem_lifecycleChanges_of_step hl hstep, k, fin, o, hdr, target, key, hc, ho, hcmd, hw⟩

/-- Settles O6: at reset the lifecycle is BLANK with OWNER_HASH unburned, and counters, handles and notice queues are empty. -/
theorem invariantsHoldAtReset : Obligations.InvariantsHoldAtReset :=
  ⟨iff_of_true rfl rfl, nil_countersOk, reset_hi⟩

end Sys2Proof.Machine
end

section
/-! SUPPORT. When an authorization tag verifies (12 R386). -/

namespace Sys2Proof.Machine

/-- The verdict on a tag that is good (`ok`) but for its counter: `ctr` must lie above the last one accepted. -/
def counterVerdict (ok : Bool) (ctr last : Nat) : Nat × Bool :=
  if ok then if ctr ≤ last then (0x41, true) else (0, false) else (0x41, false)

section
variable {ok : Bool} {ctr last : Nat}

theorem counterVerdict_eq_zero_iff : (counterVerdict ok ctr last).1 = 0 ↔ ok = true ∧ last < ctr := by
  cases ok
  · simp [counterVerdict]
  · by_cases hc : ctr ≤ last <;> simp [counterVerdict, hc, Nat.not_lt.mpr, Nat.lt_of_not_le]

theorem counterVerdict_status : (counterVerdict ok ctr last).1 = 0 ∨ (counterVerdict ok ctr last).1 = 0x41 := by
  unfold counterVerdict
  split
  · split
    · exact .inr rfl
    · exact .inl rfl
  · exact .inr rfl

/-- The counter alone is blamed only for a tag that is good but for it. -/
theorem ok_of_counterVerdict_replay (h : (counterVerdict ok ctr last).2 = true) :
    (counterVerdict ok ctr last).1 = 0x41 ∧ ok = true := by
  unfold counterVerdict at h ⊢
  split at h
  next hok =>
    split at h
    next hc => exact ⟨by rw [if_pos hok, if_pos hc], hok⟩
    next => exact nomatch h
  next => exact nomatch h

end

section
variable {h : Hdr} {c : CmdSpec} {t : Tag} {s : State}

/-- The verdict on an ALG 1 tag: its signature, then its counter. -/
theorem tagVerdict_of_signature (ha : t.alg = 1) :
    tagVerdict h c t s = counterVerdict (tagSigned h c s) t.ctr s.cairn.ownerCtr := by
  cases hs : tagSigned h c s <;> simp [tagVerdict, counterVerdict, ha, hs]

/-- No ALG 2 tag serves an opcode that asks for ALG 1. -/
theorem tagVerdict_of_mac_of_alg1 (ha : t.alg = 2) (hc : c.auth = .alg1) : tagVerdict h c t s = (0x41, false) := by
  simp [tagVerdict, ha, hc]

/-- An ALG 2 tag of an ORPHANED slot gives KEY_REVOKED. -/
theorem tagVerdict_of_orphaned {k : Slot} (ha : t.alg = 2) (hc : c.auth ≠ .alg1) (hk : getSlot s t.keySlot = some k)
    (ho : k.orphaned = true) : tagVerdict h c t s = (0x42, false) := by
  simp [tagVerdict, ha, hc, hk, ho]

/-- The verdict on any other ALG 2 tag: its slot and its MAC, then its counter. -/
theorem tagVerdict_of_mac (ha : t.alg = 2) (hc : c.auth ≠ .alg1) (ho : ∀ k, getSlot s t.keySlot = some k → k.orphaned = false) :
    tagVerdict h c t s =
      counterVerdict (ownerSlotOk s t.keySlot && tagMaced h c t s) t.ctr (slotCtr s t.keySlot) := by
  have hno : ((getSlot s t.keySlot).map (·.orphaned)).getD false = false := by
    cases hk : getSlot s t.keySlot with
    | none => rfl
    | some k => exact ho k hk
  cases hs : ownerSlotOk s t.keySlot <;> cases hm : tagMaced h c t s <;>
    simp [tagVerdict, counterVerdict, ha, hc, hno, hs, hm]

/-- A tag of an ALG that Table 12-1 does not list. -/
theorem tagVerdict_of_other (h1 : t.alg ≠ 1) (h2 : t.alg ≠ 2) : tagVerdict h c t s = (0x41, false) := by
  simp [tagVerdict, h1, h2]

/-- An ORPHANED slot may not authorize. -/
theorem ownerSlotOk_of_orphaned {n : Nat} {k : Slot} (hk : getSlot s n = some k) (ho : k.orphaned = true) :
    ownerSlotOk s n = false := by
  simp [ownerSlotOk, hk, ho]

/-- The five kinds of tag: ALG 1; ALG 2 where the opcode asks for ALG 1; ALG 2 of an ORPHANED slot; any other ALG 2; no ALG. -/
theorem tag_kinds (c : CmdSpec) (t : Tag) (s : State) : t.alg = 1 ∨ t.alg = 2 ∧ c.auth = .alg1 ∨
    t.alg = 2 ∧ c.auth ≠ .alg1 ∧ (∃ k, getSlot s t.keySlot = some k ∧ k.orphaned = true) ∨
    t.alg = 2 ∧ c.auth ≠ .alg1 ∧ (∀ k, getSlot s t.keySlot = some k → k.orphaned = false) ∨ t.alg ≠ 1 ∧ t.alg ≠ 2 := by
  by_cases h1 : t.alg = 1
  · exact .inl h1
  by_cases h2 : t.alg = 2
  · by_cases hc : c.auth = .alg1
    · exact .inr (.inl ⟨h2, hc⟩)
    by_cases ho : ∃ k, getSlot s t.keySlot = some k ∧ k.orphaned = true
    · exact .inr (.inr (.inl ⟨h2, hc, ho⟩))
    · exact .inr (.inr (.inr (.inl ⟨h2, hc, fun k hk => Bool.eq_false_iff.mpr fun hk' => ho ⟨k, hk, hk'⟩⟩)))
  · exact .inr (.inr (.inr (.inr ⟨h1, h2⟩)))

/-- When a tag verifies. -/
theorem tagVerdict_eq_zero_iff : (tagVerdict h c t s).1 = 0 ↔
    (t.alg = 1 ∧ tagSigned h c s = true ∧ s.cairn.ownerCtr < t.ctr) ∨
    (t.alg = 2 ∧ c.auth ≠ .alg1 ∧ ownerSlotOk s t.keySlot = true ∧ tagMaced h c t s = true ∧ slotCtr s t.keySlot < t.ctr) := by
  obtain ha | ⟨ha, hc⟩ | ⟨ha, hc, k, hk, ho⟩ | ⟨ha, hc, ho⟩ | ⟨h1, h2⟩ := tag_kinds c t s
  · simp [tagVerdict_of_signature ha, counterVerdict_eq_zero_iff, ha]
  · simp [tagVerdict_of_mac_of_alg1 ha hc, ha, hc]
  · simp [tagVerdict_of_orphaned ha hc hk ho, ha, ownerSlotOk_of_orphaned hk ho]
  · simp [tagVerdict_of_mac ha hc ho, counterVerdict_eq_zero_iff, ha, hc, and_assoc]
  · simp [tagVerdict_of_other h1 h2, h1, h2]

/-- What a tag gives: 0, AUTH_FAILED, or KEY_REVOKED for an ALG 2 tag of an ORPHANED slot. -/
theorem tagVerdict_status : (tagVerdict h c t s).1 = 0 ∨ (tagVerdict h c t s).1 = 0x41 ∨
    (tagVerdict h c t s).1 = 0x42 ∧ t.alg = 2 ∧ ∃ k, getSlot s t.keySlot = some k ∧ k.orphaned = true := by
  obtain ha | ⟨ha, hc⟩ | ⟨ha, hc, k, hk, ho⟩ | ⟨ha, hc, ho⟩ | ⟨h1, h2⟩ := tag_kinds c t s
  · rw [tagVerdict_of_signature ha]
    exact counterVerdict_status.imp_right .inl
  · exact .inr (.inl (by rw [tagVerdict_of_mac_of_alg1 ha hc]))
  · exact .inr (.inr ⟨by rw [tagVerdict_of_orphaned ha hc hk ho], ha, k, hk, ho⟩)
  · rw [tagVerdict_of_mac ha hc ho]
    exact counterVerdict_status.imp_right .inl
  · exact .inr (.inl (by rw [tagVerdict_of_other h1 h2]))

/-- The counter alone is blamed only where VALUE is right. -/
theorem value_right_of_tagVerdict_replay (hr : (tagVerdict h c t s).2 = true) :
    (tagVerdict h c t s).1 = 0x41 ∧ (tagSigned h c s = true ∨ tagMaced h c t s = true) := by
  obtain ha | ⟨ha, hc⟩ | ⟨ha, hc, k, hk, ho⟩ | ⟨ha, hc, ho⟩ | ⟨h1, h2⟩ := tag_kinds c t s
  · rw [tagVerdict_of_signature ha] at hr ⊢
    exact (ok_of_counterVerdict_replay hr).imp_right .inl
  · exact nomatch (tagVerdict_of_mac_of_alg1 ha hc) ▸ hr
  · exact nomatch (tagVerdict_of_orphaned ha hc hk ho) ▸ hr
  · rw [tagVerdict_of_mac ha hc ho] at hr ⊢
    exact (ok_of_counterVerdict_replay hr).imp_right fun hok => .inr (Bool.and_eq_true_iff.mp hok).2
  · exact nomatch (tagVerdict_of_other h1 h2) ▸ hr

end

/-- A command without a tag needs none, or gives AUTH_REQUIRED. -/
theorem authVerdict_of_no_tag {h : Hdr} {c : CmdSpec} {s : State} (ht : h.auth = none) :
    (authVerdict h c s).1 = if c.auth == .free then 0 else 0x40 := by
  simp only [authVerdict, ht]
  split <;> rfl

theorem authVerdict_of_tag {h : Hdr} {c : CmdSpec} {s : State} {t : Tag} (ht : h.auth = some t) :
    authVerdict h c s = tagVerdict h c t s := by
  simp only [authVerdict, ht]

/-- Settles O60: without a tag the opcode decides; a tag's verdict is that of its kind. -/
theorem tagsVerify : Obligations.TagsVerify := by
  refine fun h c s => ⟨authVerdict_of_no_tag, fun t ht => ?_⟩
  rw [authVerdict_of_tag ht]
  exact ⟨tagVerdict_eq_zero_iff, tagVerdict_status, value_right_of_tagVerdict_replay⟩

end Sys2Proof.Machine
end

section
/-! SUPPORT. ZEROIZE, the resets, FREEZE_N and BOOT (12 R390, R402, R403, 14 R447 to R450, R467, 15 R481): each event acts by its
rule once what it waits for has come. -/

namespace Sys2Proof.Machine

/-! ### ZEROIZE -/

/-- No key is left: no slot, KREG, root or random state, and every SAK disabled. -/
def KeysErased (s : State) : Prop :=
  s.ov.slots = [] ∧ s.ov.kreg = none ∧ s.ov.root = none ∧ s.ov.mirage = none ∧ s.ov.entropyOk = false ∧
    ∀ e ∈ s.np.ports, (∀ a ∈ e.2.txSa, a.2.disabled = true) ∧ (∀ a ∈ e.2.rxSa, a.2.disabled = true)

/-- ZEROIZE erases every key. -/
theorem zeroize_keysErased (cause : Nat) (s : State) : KeysErased (zeroize cause s) := by
  refine ⟨rfl, rfl, rfl, rfl, rfl, fun e he => ?_⟩
  obtain ⟨p, -, rfl⟩ := List.mem_map.mp he
  constructor <;>
  · intro a ha
    obtain ⟨x, -, rfl⟩ := List.mem_map.mp ha
    rfl

/-- The reset that ZEROIZE leads to is warm: it keeps of the vault what D_VAULT keeps, and nothing of the ports. -/
theorem resetDevice_zeroize (s : State) :
    (resetDevice .zeroize s).ov = keepVault s.ov ∧ (resetDevice .zeroize s).np = Np.reset := by
  simp [resetDevice, ResetSource.cold, warmReset, State.reset]

/-- An enabled cause that holds erases the keys; the reset waits for a Ballast write that runs (R390). -/
theorem execZeroizeCause_of_met {cause : Nat} {s : State} (hc : cause < 6) (hm : causeMet s cause = true)
    (he : causeEnabled s cause = true) : execZeroizeCause cause s = .next (if ballastRuns (zeroize cause s) then
      { zeroize cause s with pm := { (zeroize cause s).pm with pendZeroize := true } }
    else resetDevice .zeroize (zeroize cause s)) :=
  next_of_not_guard (by simp [Nat.not_le.mpr hc, hm, he])

/-- Settles O51: what the erasure leaves stands in D_VAULT through the reset, and the reset ports hold no SAK. -/
theorem zeroizeErasesEveryKey : Obligations.ZeroizeErasesEveryKey := by
  intro cause s t hc he hm h
  obtain ⟨hslots, hkreg, hroot, hmirage, hentropy, hsa⟩ := zeroize_keysErased cause s
  cases (execZeroizeCause_of_met hc hm he).symm.trans h
  split
  · exact ⟨hslots, hkreg, hroot, hmirage, hentropy, rfl, rfl, hsa⟩
  · obtain ⟨hov, hnp⟩ := resetDevice_zeroize (zeroize cause s)
    rw [hov, hnp]
    exact ⟨rfl, rfl, hroot, rfl, rfl, rfl, rfl, fun e he => absurd he List.not_mem_nil⟩

/-! ### Resets that wait -/

section
variable {t : Nat} {s : State}

/-- SYS.RESET takes hold when its flush has ended and 1 µs has passed (02 R72). -/
theorem execWarmResetTakesHold_of_due (hp : s.pm.pendWarm = some t) (hf : flushed s = true) (he : elapsed t 1 s = true) :
    execWarmResetTakesHold s = .next (resetDevice .sysReset (periodicSave s)) := by
  simp [execWarmResetTakesHold, hp, hf, he]

/-- An internal reset takes hold when its flush has ended (14 R448). -/
theorem execInternalReset_of_flushed (hp : s.pm.pendInternal = some t) (hf : flushed s = true) :
    execInternalReset s = .next (resetDevice .internal (periodicSave s)) := by
  simp [execInternalReset, hp, hf]

/-- The wipe after VAULT.LIFECYCLE takes hold after 1 µs and clears the energy region and OWNER_CTR (R402, R403). -/
theorem execLifecycleWipe_of_due (hp : s.pm.pendWipe = some t) (hm : s.pm.mode ≠ .frozen) (he : elapsed t 1 s = true) :
    execLifecycleWipe s = .next (resetDevice .lifecycle
      { s with cairn := { s.cairn with periodic := [], ballast := [], alive := none, ownerCtr := 0 } }) := by
  simp [execLifecycleWipe, hp, hm, he]

/-- When the Ballast write ends, EV takes Cairn, unless a ZEROIZE has waited for it (13 R434). -/
theorem execBallastWriteEnd_of_due (hb : ballastRuns s = true) (he : elapsed s.pins.pfwFall (1 + ceilDiv s.am.pfwDur 10) s = true)
    (hz : s.pm.pendZeroize = false) : execBallastWriteEnd s =
      .next { logCut s.am.pfwDur s with pm := { (logCut s.am.pfwDur s).pm with evHasCairn := true } } := by
  simp [execBallastWriteEnd, hb, he, hz]

/-- RESET_N takes hold 90 µs after its fall (14 R447). -/
theorem execResetTakesHold_of_due (hq : s.pm.resetQual = true) (he : elapsed s.pins.pfwFall 90 s = true) :
    execResetTakesHold s = .next (resetDevice .resetN s) :=
  next_of_guard (by simp [hq, he])

/-- BOOT runs at the release of RESET_N, with the supplies in their limits (14 R447, R450). -/
theorem execBoot_of_ready (passed bad : List Nat) (rootOk ownerOk : Bool) (img : Option Image) (hr : s.pm.bootReady = true)
    (hm : s.pm.mode = .boot) (ho : s.pins.railsOk = true) : execBoot passed bad rootOk ownerOk img s =
      .next (boot passed bad rootOk ownerOk img { s with pins := { s.pins with resetN := true } }) :=
  next_of_not_guard (by simp [hr, hm, ho])

/-- FREEZE_N low freezes, unless it is ignored (14 R467). -/
theorem execFreezeNAssert_of_low (hi : s.pm.ignoreFreezeN = false) :
    execFreezeNAssert true s = .next (freeze 1 { s with pins := { s.pins with freezeN := false } }) :=
  next_of_guard (by simp [hi])

end

/-- Settles O33: each event's branch under its conditions. -/
theorem resetEventsComplete : Obligations.ResetEventsComplete := by
  intro s
  refine ⟨?zeroize, ?zeroizeWaits, ?warm, ?internal, ?wipe, ?railsUp, ?railsDown, ?ballast, ?resetN, ?boot, ?freezeLow,
    ?freezeHigh⟩
  case zeroize => exact fun cause hc hm he hb => (execZeroizeCause_of_met hc hm he).trans (congrArg _ (if_neg (by simp [hb])))
  case zeroizeWaits => exact fun cause hc hm he hb => (execZeroizeCause_of_met hc hm he).trans (congrArg _ (if_pos hb))
  case warm => exact fun t => execWarmResetTakesHold_of_due
  case internal => exact fun t => execInternalReset_of_flushed
  case wipe => exact fun t => execLifecycleWipe_of_due
  case railsUp => rfl
  case railsDown => rfl
  case ballast => exact execBallastWriteEnd_of_due
  case resetN => exact execResetTakesHold_of_due
  case boot => exact execBoot_of_ready
  case freezeLow => exact execFreezeNAssert_of_low
  case freezeHigh => rfl

end Sys2Proof.Machine
end

section
/-! SUPPORT. The events of the vault, memory integrity and the event log (12 R405, R406, 13 R418 to R422, R430 to R433, 14 R448):
each acts by its rule once what it asks of the device, its word, its record or its flush holds. -/

namespace Sys2Proof.Machine

section
variable {s : State} (hm : s.pm.mode ≠ .frozen)
include hm

/-! ### The vault -/

/-- A failing entropy source stops the DRBG, is counted and noted (R406). -/
theorem execEntropyFail_of_serving (test : Nat) (he : s.ov.entropyOk = true) : execEntropyFail test s =
    .next (note s.ov.nq 12 0x03 3 (test % 4) (count 0x10D038
      { s with ov := { s.ov with entropyOk := false, retestAt := some s.tm.frc } })) :=
  next_of_not_guard (by simp [he, hm])

/-- A second after its last test a failed source is tested again: 1,024 passing samples restart it (R406). -/
theorem execEntropyRetest_of_due {a : Nat} (passed : Nat) (hr : s.ov.retestAt = some a) (he : s.ov.entropyOk = false)
    (ha : a + 390625000 ≤ s.tm.frc) : execEntropyRetest passed s = .next (if 1024 ≤ passed then note s.ov.nq 12 0x04 0 0
        { s with ov := { s.ov with entropyOk := true, retestAt := none, drbgReq := 0, reseedAt := s.tm.frc } }
      else { s with ov := { s.ov with retestAt := some s.tm.frc } }) := by
  simp [execEntropyRetest, hr, hm, he, Nat.not_lt.mpr ha]

/-- The DRBG is reseeded a second after its last reseed (R405). -/
theorem execDrbgReseed_of_due (he : s.ov.entropyOk = true) (ha : s.ov.reseedAt + 390625000 ≤ s.tm.frc) : execDrbgReseed s =
    .next (count 0x10D030 { s with ov := { s.ov with drbgReq := 0, reseedAt := s.tm.frc } }) :=
  next_of_guard (by simp [he, hm, ha])

/-! ### The event log -/

/-- A flush ends: what the buffer held at its start is written, and a flush asked for meanwhile starts (R433). -/
theorem execEvFlushEnd_of_flushing (hf : s.ev.flushing = true) (hp : s.pm.pfwActions = false) : execEvFlushEnd s =
    .next ((fun v => if v.ev.flushAgain then startFlush { v with ev := { v.ev with flushAgain := false } } else v)
      (fireFlushVec (endLost ((s.ev.buffer.filter (·.inFlush)).foldl (fun v b => writeLog b.entry v)
        { s with ev := { s.ev with flushing := false, buffer := s.ev.buffer.filter (fun b => !b.inFlush) } })))) :=
  next_of_not_guard (by simp [hf, hp, hm])

/-- FLUSH_MS after the last flush the next is asked for (R433). -/
theorem execFlushMsExpiry_of_due (hl : s.ev.lastFlush + msCounts s.ev.flushMs ≤ s.tm.frc) :
    execFlushMsExpiry s = .next (flushTrigger s) :=
  next_of_guard (by simp [hm, hl])

/-- COALESCE_US after its first report an open record closes (R431). -/
theorem execRecordClose_of_due {source code severity : Nat} {o : OpenRec} (ho : s.ev.opens.find? (fun o =>
      o.entry.source == source && o.entry.code == code && o.entry.severity == severity) = some o)
    (hd : o.opened + countsOfUs s.ev.coalesceUs ≤ s.tm.frc) : execRecordClose source code severity s =
      .next (closeRecord o.entry { s with ev := { s.ev with opens := s.ev.opens.filter (fun o =>
        !(o.entry.source == source && o.entry.code == code && o.entry.severity == severity)) } }) := by
  simp [execRecordClose, ho, hm, hd]

/-- Every second of operation is counted (R430). -/
theorem execOpsecTick_of_due (hd : s.cairn.opsecAt + 390625000 ≤ s.tm.frc) : execOpsecTick s =
    .next { s with cairn := { s.cairn with
      opsec := min (2 ^ 32 - 1) (s.cairn.opsec + 1), opsecAt := s.cairn.opsecAt + 390625000 } } :=
  next_of_guard (by simp [hm, hd])

end

/-! ### Memory integrity -/

section
variable {mac word : Nat} {s : State} (hr : ecRuns s = true)

section
variable (hmac : mac < 1648) (hword : word < 8192) (hon : macroOn s mac = true)
include hr hmac hword hon

/-- A word that the scrub has come to is read, and at the first word of a marked row the row is repaired first (R418, R422). -/
theorem execScrubRead_of_due {n : Nat} {v : State} (hn : scrubRead s word = some n) (hx : (getMacro s mac).scrubbed ≤ n)
    (hv : v = scrubLate n (updMacro mac (fun x => { x with scrubbed := n + 1 }) s)) : execScrubRead mac word s =
      .next (readWord mac word (if (getMacro s mac).markPending = true ∧ word = (getMacro s mac).pendingRow * 128 then
        repairRow mac v else v)) := by
  subst hv
  simp [execScrubRead, hr, Nat.not_le.mpr hmac, Nat.not_le.mpr hword, hon, hn, Nat.not_lt.mpr hx]

/-- A functional read of a word with one flipped bit corrects it (R419). -/
theorem execCorrectionWriteback_of_one {b : Nat} (hb : flipsOf s mac word = [b]) :
    execCorrectionWriteback mac word s = .next (correctWord mac word b s) := by
  simp [execCorrectionWriteback, hr, Nat.not_le.mpr hmac, Nat.not_le.mpr hword, hon, hb]

end

include hr

/-- A watchdog's expiry in a group controller starts the internal reset (14 R448). -/
theorem execWatchdogExpiry_of_group (gid : Nat) : execWatchdogExpiry 3 gid s = .next (startInternal 1 (fld gid 8 8 + 3) s) :=
  next_of_guard (by simp [hr])

end

/-- Settles O32: each event's branch under its conditions. -/
theorem vaultAndLogEventsComplete : Obligations.VaultAndLogEventsComplete := by
  intro s
  refine ⟨?fail, ?restart, ?failsAgain, ?reseed, ?scrub, ?correct, ?suspect, ?control, ?watchdog, ?flushEnd, ?flushMs, ?close,
    ?opsec⟩
  case fail => exact fun test he hm => execEntropyFail_of_serving hm test he
  case restart =>
    exact fun passed a hr hm he ha hp => (execEntropyRetest_of_due hm passed hr he ha).trans (congrArg _ (if_pos hp))
  case failsAgain =>
    exact fun passed a hr hm he ha hp => (execEntropyRetest_of_due hm passed hr he ha).trans
      (congrArg _ (if_neg (Nat.not_le.mpr hp)))
  case reseed => exact fun he hm => execDrbgReseed_of_due hm he
  case scrub =>
    rintro mac word n _ v hmac hword hr hon hn rfl hx hv
    exact execScrubRead_of_due hr hmac hword hon hn hx hv
  case correct => exact fun mac word b hmac hword hr hon => execCorrectionWriteback_of_one hr hmac hword hon
  case suspect => exact fun mac word hr => next_of_guard hr
  case control => exact fun mac word hlo hhi hword hr => next_of_guard (by simp [hlo, hhi, hword, hr])
  case watchdog => exact fun gid hr => execWatchdogExpiry_of_group hr gid
  case flushEnd => exact fun hf hp hm => execEvFlushEnd_of_flushing hm hf hp
  case flushMs => exact execFlushMsExpiry_of_due
  case close => exact fun source code severity o ho hm => execRecordClose_of_due hm ho
  case opsec => exact execOpsecTick_of_due

end Sys2Proof.Machine
end

section
/-! SUPPORT. What POWER.PAD_RELEASE refuses (14 R458). -/

namespace Sys2Proof.Machine

/-- A host command that passes its checks but whose body answers another status than 0. -/
theorem exec_of_body_status {c : Instr} {s t : State} {p : Proc} {body : State → Reply} {after : State → State} {code : Nat}
    (hp : procOf c s = some p) (hw : p.work = .done body after) (ha : passes p.h p.spec s = true)
    (hr : body (takeHead p.h.src s) = ⟨code, [], t⟩) (hc : code ≠ 0) :
    exec c s = .next (refusedWith p.h p.spec.opcode code s t) := by
  rw [exec_of_procOf c s p hp, runProc_bad c p body after s hw ha (by rw [hr]; exact hc), hr, refusedWith]

/-- A refusal whose condition holds. -/
theorem refuseIf_true {bad : Bool} {st : Nat} {body : State → Reply} {s : State} (h : bad = true) :
    refuseIf bad st body s = ⟨st, [], s⟩ := by rw [refuseIf, h]; rfl

/-- A dispatched command without a tag that needs none, of right length and with its buffer read, completes BAD_PARAM where a
value is out of range. -/
theorem exec_of_bad_param {c : Instr} {s : State} {p : Proc} (hp : procOf c s = some p)
    (hd : dispatches p.h p.spec.opcode s = true) (hl : lengthOk p.h p.spec = true) (hb : bufLost p.h = false)
    (ht : p.h.auth = none) (hf : p.spec.auth = .free) (hv : p.spec.paramOk = false) :
    exec c s = .next (refusedWith p.h p.spec.opcode 0x11 s (takeHead p.h.src s)) := by
  have hauth : (authVerdict p.h p.spec (takeHead p.h.src s)).1 = 0 := by rw [authVerdict_of_no_tag ht, hf]; rfl
  have hparams : paramsOk p.h p.spec = false := by rw [paramsOk, hv, Bool.and_false]
  exact exec_of_status hp hd (by simp [hostCheck, hl, hb, hauth, hparams]) (turnedAway_of_authorized hl hb hauth)

/-- The mask names the pads of D_PORTS and D_ANCHOR in bits 3 and 5, and has no other bit. -/
theorem padMask_false_of_testBit {mask b : Nat} (h3 : b ≠ 3) (h5 : b ≠ 5) (hb : mask.testBit b = true) :
    (mask &&& 0x28 == mask) = false := by
  have hout : (2 ^ 3 ||| 2 ^ 5).testBit b = false := by
    rw [Nat.testBit_or, Nat.testBit_two_pow_of_ne h3.symm, Nat.testBit_two_pow_of_ne h5.symm, Bool.or_false]
  refine beq_eq_false_iff_ne.mpr fun heq => ?_
  have hin : (mask &&& (2 ^ 3 ||| 2 ^ 5)).testBit b = true := (congrArg (Nat.testBit · b) heq).trans hb
  rw [Nat.testBit_and, hout, Bool.and_false] at hin
  exact nomatch hin

/-- A domain is on or not named: if it is named, it is on. -/
theorem not_or_eq_true_iff_imp (named on : Bool) : (!named || on) = true ↔ (named = true → on = true) := by
  cases named
  · exact iff_of_true rfl nofun
  · exact ⟨fun h _ => h, fun h => h rfl⟩

/-- The named domains are on just where each is. -/
theorem padsOn_iff {mask : Nat} {s : State} : padsOn mask s = true ↔
    (bit mask 3 = true → s.pm.domPorts = true) ∧ (bit mask 5 = true → s.pm.domAnchor = true) := by
  rw [padsOn, Bool.and_eq_true, not_or_eq_true_iff_imp, not_or_eq_true_iff_imp]

/-- Taking a head leaves the domains. -/
theorem padsOn_takeHead (mask : Nat) (src : Src) (s : State) : padsOn mask (takeHead src s) = padsOn mask s :=
  takeHead_look (padsOn mask) (fun _ _ => rfl) src s

/-- Settles O59: the mask fails the parameter check, and a domain that is off fails the command's own. -/
theorem padReleaseRefusals : Obligations.PadReleaseRefusals := by
  rintro h mask s _ rfl
  refine ⟨fun b h3 h5 hb hd hl hbuf ht => ?_, fun ha => ⟨fun hoff => ?_, fun h3 h5 => ?_⟩⟩
  · exact exec_of_bad_param (p := procPowerPadRelease h mask s) rfl hd hl hbuf ht rfl (padMask_false_of_testBit h3 h5 hb)
  · have hoff' : padsOn mask s = false := Bool.eq_false_iff.mpr fun hon => by
      obtain ⟨h3, h5⟩ := padsOn_iff.mp hon
      exact hoff.elim (fun ⟨hb, hd⟩ => Bool.eq_false_iff.mp hd (h3 hb)) fun ⟨hb, hd⟩ => Bool.eq_false_iff.mp hd (h5 hb)
    exact exec_of_body_status (p := procPowerPadRelease h mask s) rfl rfl ha
      (refuseIf_true (congrArg not ((padsOn_takeHead ..).trans hoff'))) (Nat.succ_ne_zero _)
  · have hon : padsOn mask s = true := padsOn_iff.mpr ⟨h3, h5⟩
    exact exec_done rfl rfl ha (refuseIf_false (congrArg not ((padsOn_takeHead ..).trans hon))) rfl

end Sys2Proof.Machine
end

section
/-! SUPPORT. The events of JTAG (14 R468, Table 14-9): an instruction whose operands fit its data register takes them as they
are. -/

namespace Sys2Proof.Machine

section
variable {s : State}

/-- FRZ_MEM of a macro and a word that exist. -/
theorem execJtagFrzMem_of_lt {mac word : Nat} (hmac : mac < 1648) (hword : word < 8192) : execJtagFrzMem mac word s =
    .next ((fun v => { v with jtag := { v.jtag with frzMacro := mac, frzWord := (word + 1) % 2 ^ 13 } })
      (frzOut (rawWord s mac word) (jtagSelect 0x11 0 s))) := by
  have hm : mac % 2 ^ 11 = mac := Nat.mod_eq_of_lt (by omega)
  have hw : word % 2 ^ 13 = word := Nat.mod_eq_of_lt hword
  simp only [execJtagFrzMem, hm, hw]

/-- FRZ_REG of a register of a block that has power; the two registers left out answer a free value. -/
theorem execJtagFrzReg_of_on {offset : Nat} (hlt : offset < 65536) (h8 : offset ≠ 0xF008) (hC : offset ≠ 0xF00C)
    (ho : regOn s offset = true) :
    execJtagFrzReg offset s = .next (frzOut (regValue s offset) (jtagSelect 0x12 0 s)) := by
  have hoff : offset % 65536 = offset := Nat.mod_eq_of_lt hlt
  simp [execJtagFrzReg, hoff, ho, h8, hC]

/-- A debug instruction sets IR, and captures where R404 opens debug. -/
theorem execJtagDebug_of_debug {code : Nat} (hlo : 0x20 ≤ code) (hhi : code ≤ 0x2F) : execJtagDebug code s =
    .next ((fun v => if debugOpen v then jtagCapture v else v) (jtagSelect code 0 s)) :=
  next_of_not_guard (by simp [hlo, hhi])

end

/-- Settles O35: each instruction's effect. That a closed debug instruction sets IR alone, and that BYPASS shifts out the bit
it held, are the model's choices (log 64). -/
theorem jtagInstructionsComplete : Obligations.JtagInstructionsComplete := by
  intro s
  refine ⟨?extest, ?idcode, ?sample, ?clamp, ?highz, ?scan, ?mem, ?reg, ?debug, ?bypass⟩
  case extest => exact fun pads => rfl
  case idcode => rfl
  case sample => exact fun value => rfl
  case clamp => rfl
  case highz => rfl
  case scan => exact fun chain => rfl
  case mem => exact fun mac word => execJtagFrzMem_of_lt
  case reg => exact fun offset => execJtagFrzReg_of_on
  case debug => exact fun code => execJtagDebug_of_debug
  case bypass => exact fun tdi => rfl

end Sys2Proof.Machine
end

section
/-! SUPPORT. The events of power-fail, the sleep handshake, wakes and references (14 R452 to R466, 11 R372, 13 R434): each acts by
its rule once what it asks of the handshake, the pins or the clocks holds. -/

namespace Sys2Proof.Machine

section
variable {s : State}

/-! ### The sleep handshake -/

/-- A block that is asked and not delaying gives its answer, if it is one that R452 to R455 allow it. -/
theorem execHandshakeAnswer_of_fits {a : HsAnswer} {x : Handshake} (hx : s.pm.hs = some x) (hr : hsRuns s = true)
    (hd : x.asked.delaying = false) (ha : answerFits s x.asked.order x.asked.handle a = true) :
    execHandshakeAnswer a s = .next (takeAnswer x.asked a
      { s with pm := { s.pm with hs := some x.asked, hsBlock := hsSource x.asked.order } }) := by
  simp [execHandshakeAnswer, hx, hr, hd, ha]

/-- A delay ends when its time has come (R453). -/
theorem execHandshakeDelayEnd_of_due {x : Handshake} (hx : s.pm.hs = some x) (hr : hsRuns s = true)
    (hd : x.delaying = true) (ht : x.delayEnd ≤ s.tm.frc) :
    execHandshakeDelayEnd s = .next { s with pm := { s.pm with hs := some { x with delaying := false } } } := by
  simp [execHandshakeDelayEnd, hx, hr, hd, ht]

/-! ### PFW_N and RESET_N -/

/-- PFW_N low for 1 µs is a power-fail (R372). -/
theorem execPfwQualified_of_low {dur : Nat} (hp : s.pins.pfwN = false) (hq : s.pm.pfwQual = false) (hd : dur ≤ 200)
    (he : elapsed s.pins.pfwFall 1 s = true) : execPfwQualified dur s =
      .next (startPfw dur (note s.pm.nq 15 0x06 2 0 (count 0x10F028 { s with pm := { s.pm with pfwQual := true } }))) :=
  next_of_not_guard (by simp [hp, hq, hd, he])

/-- PFW_N rises: PFW_CLEARED is queued if the fall had qualified, and metering goes on (R373). -/
theorem execPfwNRise_of_low (hp : s.pins.pfwN = false) : execPfwNRise s = .next (endIgnore (resumeMeters
    (if s.pm.pfwQual then note s.pm.nq 15 0x07 0 0
        { s with pins := { s.pins with pfwN := true }, pm := { s.pm with pfwQual := false } }
      else { s with pins := { s.pins with pfwN := true }, pm := { s.pm with pfwQual := false } }))) :=
  next_of_not_guard (by simp [hp])

/-- EV releases Cairn 90 µs after the fall (R434). -/
theorem execCairnRelease_of_due (ha : s.pm.pfwActions = true) (hc : s.pm.evHasCairn = true) (hr : s.pm.resetQual = false)
    (he : elapsed s.pins.pfwFall 90 s = true) : execCairnRelease s = .next (cairnReleased s) :=
  next_of_not_guard (by simp [ha, hc, hr, he])

/-- RESET_N low for 1 µs starts the actions of PFW_N, unless they run already (R447). -/
theorem execResetNQualified_of_high {dur : Nat} (hr : s.pm.resetQual = false) (hd : dur ≤ 200) :
    execResetNQualified dur s = .next (startPfw dur (endFreeze { s with
      pins := { s.pins with
        resetN := false, pfwFall := if s.pm.pfwActions then s.pins.pfwFall else s.tm.frc - countsOfUs 1 }
      pm := { s.pm with resetQual := true } })) :=
  next_of_not_guard (by simp [hr, hd])

/-! ### References and PLLs -/

/-- A reference without edges is declared failed, counted and noted (R463). -/
def edgesLost (which : Nat) (s : State) : State :=
  note s.pm.nq 16 0x01 2 which (count (0x10F808 + 8 * which) (markFailed 0 which
    { s with ck := (s.ck.setRef (which == 1) false).missed (which == 1) }))

/-- A PLL out of lock is declared failed, counted and noted (R463). -/
def lockLost (which : Nat) (s : State) : State :=
  note s.pm.nq 16 0x04 2 which (count 0x10F818 (markFailed 1 which { s with ck := s.ck.setLock (which == 1) false }))

/-- Which reference the active PLL locks to does not change when one fails. -/
theorem edgesLost_activeRef (which : Nat) (s : State) :
    refOf (edgesLost which s).ck (edgesLost which s).ck.activeB = refOf s.ck s.ck.activeB := by
  refine (note_look (fun t => refOf t.ck t.ck.activeB) (fun _ _ _ _ _ => rfl) ..).trans ?_
  cases which == 1 <;> rfl

section
variable {which : Nat} (hw : which < 2)
include hw

/-- A reference loses its edges: if the active PLL locks to it, a qualified standby takes over (R463, R464). -/
theorem execRefFail_of_reference (ho : refOk s.ck (which == 1) = true) : execRefFail 0 which s =
    .next (takeOverPll ((which == 1) == refOf s.ck s.ck.activeB) 1 (edgesLost which s)) := by
  rw [← edgesLost_activeRef which s]
  obtain rfl | rfl : which = 0 ∨ which = 1 := by omega
  all_goals exact next_of_not_guard (p := (!refOk s.ck _) = true) (by simpa using ho)

/-- A PLL loses its lock: if it is the active one, a qualified standby takes over (R463, R464). -/
theorem execRefFail_of_lock (hl : lockOk s.ck (which == 1) = true) : execRefFail 1 which s =
    .next (takeOverPll ((which == 1) == s.ck.activeB) 2 (lockLost which s)) := by
  obtain rfl | rfl : which = 0 ∨ which = 1 := by omega
  all_goals exact next_of_not_guard (p := (!lockOk s.ck _) = true) (by simpa using hl)

/-- A failed reference is good again 100 ms after it was declared failed (R463). -/
theorem execRefQualified_of_reference (hq : requalifies 0 which s = true) (ho : refOk s.ck (which == 1) = false) :
    execRefQualified 0 which s =
      .next (ckSettle (note s.pm.nq 16 0x02 0 which { s with ck := s.ck.setRef (which == 1) true })) := by
  simp [execRefQualified, Nat.not_lt.mpr (Nat.le_of_lt_succ hw), hq, ho]

/-- A PLL out of lock is good again 100 ms after it was declared failed (R463). -/
theorem execRefQualified_of_lock (hq : requalifies 1 which s = true) (hl : lockOk s.ck (which == 1) = false) :
    execRefQualified 1 which s = .next (ckSettle { s with ck := s.ck.setLock (which == 1) true }) := by
  simp [execRefQualified, Nat.not_lt.mpr (Nat.le_of_lt_succ hw), hq, hl]

end

/-- The PREFER PLL becomes active again REVERT_S after it was qualified (R466). -/
theorem execPllRevert_of_due {t : Nat} (hp : s.ck.preferSince = some t) (hr : s.ck.revertS ≠ 0)
    (hb : s.ck.preferB ≠ s.ck.activeB) (ho : standbyOk s.ck = true) (ht : t + s.ck.revertS * 390625000 ≤ s.tm.frc) :
    execPllRevert s = .next (ckSettle (switchPll 4 s)) := by
  simp [execPllRevert, hp, hr, hb, ho, ht]

/-! ### Wakes -/

section
variable (hk : s.pm.waking = true) (hm : s.pm.mode = .doze)
include hk hm

/-- A wake from DOZE ends: if the domains came up, the commands that waited for it run (R460, 02 R62). -/
theorem execWakeComplete_of_waking (failed : Bool) (passed : List Nat) : execWakeComplete failed passed s =
    .next (if failed then wakeFailed s else releaseMi2c ((waiting (endWakes 0 (wakeUp passed s))).foldl
      (fun v o => runWoken o v) (endWakes 0 (wakeUp passed s)))) :=
  next_of_not_guard (by simp [hk, hm])

end

end

/-- Settles O34: each event's branch under its conditions. -/
theorem powerEventsComplete : Obligations.PowerEventsComplete := by
  intro s
  refine ⟨?answer, ?delayEnd, ?address, ?fall, ?powerFail, ?rise, ?cleared, ?release, ?resetN, ?edges, ?lock, ?reference, ?relock,
    ?revert, ?wake, ?wakeFails⟩
  case answer => exact fun a x => execHandshakeAnswer_of_fits
  case delayEnd => exact fun x => execHandshakeDelayEnd_of_due
  case address => rfl
  case fall => exact next_of_guard
  case powerFail => exact fun dur => execPfwQualified_of_low
  case rise => exact fun hp hq => (execPfwNRise_of_low hp).trans (by rw [if_neg (Bool.eq_false_iff.mp hq)])
  case cleared => exact fun hp hq => (execPfwNRise_of_low hp).trans (by rw [if_pos hq])
  case release => exact execCairnRelease_of_due
  case resetN => exact fun dur => execResetNQualified_of_high
  case edges => exact fun which => execRefFail_of_reference
  case lock => exact fun which => execRefFail_of_lock
  case reference => exact fun which => execRefQualified_of_reference
  case relock => exact fun which => execRefQualified_of_lock
  case revert => exact fun t => execPllRevert_of_due
  case wake =>
    exact fun passed hk hm => (execWakeComplete_of_waking hk hm false passed).trans (congrArg _ (if_neg Bool.false_ne_true))
  case wakeFails => exact fun passed hk hm => (execWakeComplete_of_waking hk hm true passed).trans (congrArg _ (if_pos rfl))

end Sys2Proof.Machine
end
